-- ==== Sys2Proof/Word.lean ====
section
/-! DEFINITION. The word types, the requesters of the register map, and the small enumerations that commands carry.
A register of the device is 32 bits wide (R13); a GVC and every 64-bit counter is a pair of them (R14). -/

namespace Sys2Proof

/-- A 32-bit register word (R13). -/
abbrev Word := BitVec 32

/-- A byte of HBM. -/
abbrev Byte := BitVec 8

/-- A 64-bit GVC, as a host names it in a target register. -/
abbrev Gvc := BitVec 64

/-- Who makes an access to the register map (R808). A remote access is performed as a host access (R700). -/
inductive Req where
  | host
  | scion (c : Fin 16)
  | rootstock
  | loader
  deriving DecidableEq, Repr

/-- An access of a Scion (R576, R580): LR, SC and the AMOs only on local memory and HBM. -/
inductive Access where
  | load
  | store
  | fetch
  | lr
  | sc
  | amo
  deriving DecidableEq, Repr

/-- The place of a requester in the list of requesters, for the latches that are held per requester. -/
def Req.idx : Req → Nat
  | .host => 0
  | .scion c => c.val + 1
  | .rootstock => 17
  | .loader => 18

end Sys2Proof
end

