-- ==== Sys2Proof/Syntax.lean ====
section
/-! DEFINITION. The commands of the block, one constructor per row of the table of operations and events, with the values that
the outside world supplies with each: what a requester writes, what a message carries, what a pin or the analogue side shows. -/

namespace Sys2Proof

/-- A command. -/
inductive Instr where
  /-- A write to a register that has no row of its own takes effect according to its access type. (R17) hi: the part of the access in the next word, with its byte enables -/
  | registerWrite (req : Req) (off : BitVec 28) (data : BitVec 32) (be : BitVec 4) (hi : Option (BitVec 32 × BitVec 4))
  /-- A host write through BAR2 reaches HBM, merging partial bursts by read-modify-write. (R812) -/
  | hostBar2Write (addr : BitVec 36) (data : List Byte) (bad : BitVec 2)
  /-- A request enters one of the eight HBM ports and is ordered within its port. (R655) -/
  | hbmRequest (port : Fin 8) (write : Bool) (addr : BitVec 40) (len : Fin 65) (data : List Byte)
  /-- An HBM request completes, with corrected data or the uncorrectable response. (R658) -/
  | hbmResponse (port : Fin 8) (err : Fin 3) (live : Bool) (lat : BitVec 10)
  /-- VDD_AO falls below its range and a power-on reset comes into force. (R794) -/
  | powerOnReset
  /-- RESET_N is held low after a rail left its range, and a cold reset comes into force. (R794) -/
  | coldReset
  /-- RESET_N is held low with every rail in range, and a warm reset comes into force. (R794) -/
  | warmReset
  /-- A power-on, cold or warm reset ends, and the device starts in START with its reset state. (R797) -/
  | resetEnd (crc0 crc1 : Bool)
  /-- A PCI Express function-level reset withdraws the queued playlist, stops the running one and closes the streams. (R800) -/
  | functionLevelReset
  /-- PERST_N going low holds the PCI Express port in reset. (R801) -/
  | perstNAssert
  /-- The release of PERST_N acts as a function-level reset. (R801) -/
  | perstNRelease
  /-- A PFAIL_N fall or a rail leaving range trips every driver, asserts SAFE_N and starts the power-loss write. (R44) -/
  | powerLossTrigger (rail : Fin 320)
  /-- The power-loss write completes and the device stays in the safe state until reset. (R47) -/
  | powerLossWriteDone
  /-- A rail order that breaks the sequence sends the device to the safe state. (R42) -/
  | pwrSeqErr (rail : Fin 320)
  /-- A logic rail below range makes each tile disconnect every driver, load and PMU. (R41) -/
  | railUndervoltDisconnect (low : Bool)
  /-- TEST_EN high holds the drivers high-impedance, SAFE_N low and the device in reset. (R30) -/
  | testEnHigh (high : Bool)
  /-- A GO at the root is judged and, if accepted, starts a prepare broadcast. (R70) -/
  | commitGo
  /-- A CANCEL at the root forces an abort with HOST_CANCEL if written before the decision rc. (R75) -/
  | commitCancel
  /-- ACKLOST ends the INVALID marking of a lost commit. (R80) -/
  | acklost
  /-- A prepare arrives, is forwarded downstream, locks the scope and records the device's own vote. (R72) -/
  | prepareReceive (target : Gvc) (scope : BitVec 9) (tag : BitVec 16)
  /-- A downstream vote message arrives and is combined. (R74) -/
  | voteReceive (port : Fin 4) (ready : Bool) (reason : BitVec 4) (dev : BitVec 13)
  /-- At its forwarding rc the device sends its combined vote upstream, counting missing votes as VOTE_TIMEOUT. (R74) -/
  | voteForward
  /-- At the decision rc the root decides commit or abort and broadcasts the decision. (R75) -/
  | commitDecide
  /-- A decision arrives, clears LOCKED and VOTED and is forwarded. (R72) -/
  | decisionReceive (commit retry : Bool) (tag : BitVec 16) (reason : BitVec 4) (dev : BitVec 13)
  /-- At the commit point the active and shadow banks of every class in scope exchange. (R63) -/
  | commitExchange
  /-- The resync copy completes and CMT_STATUS.RESYNC clears. (R64) -/
  | resyncEnd
  /-- With no decision by the target rc, the commit is lost and every site is marked INVALID with CMTL. (R80) -/
  | commitLost
  /-- The background scrub checks the check code of every commit-class entry of both banks. (R822) -/
  | cfgScrub (active : Bool) (cls : Fin 9) (offset : BitVec 28) (fails : Bool)
  /-- A harvest GO is judged and, if accepted, sends a harvest request or arms a local harvest. (R89) -/
  | harvestGo
  /-- A harvest CANCEL withdraws a pending harvest within the time stated. (R110) -/
  | harvestCancel
  /-- Setting or clearing HOLD fixes or releases the bank shown in the harvest window. (R92) -/
  | harvestHold (hold : Bool)
  /-- A group harvest request arrives and is forwarded. (R89) -/
  | harvestReceive (target : Gvc)
  /-- At the end of the harvest vector cycle every harvest-image register is copied to the harvest bank. (R85) -/
  | harvestTake
  /-- A device with no request by its target cycle keeps its bank and sets MISSED. (R91) -/
  | harvestMiss
  /-- At the settle GVC a site's verdict is formed as PASS, FAIL or INVALID. (R96) -/
  | verdictSettle (site : Fin 64)
  /-- A PASS held for confirmation is released after readback, or recorded UNTR. (R101) -/
  | verdictRelease (site : Fin 64)
  /-- REFCLK is declared lost; the always-on clock switches over and the VCLK gate closes. (R116) -/
  | refLoss
  /-- REFCLK requalified after 1 ms switches the always-on clock back and may start a relock. (R117) -/
  | refBack
  /-- OVEN_OK high for CLK_WARMUP seconds clears WARM. (R118) -/
  | warmupDone
  /-- An accepted fall of OVEN_OK sets WARM and restarts the warm-up count. (R119) -/
  | ovenLow
  /-- A host RELOCK closes the gate and loads the new VCLK setting, or is refused. (R123) -/
  | relock
  /-- Revalidation ends and REVAL clears. (R347) -/
  | revalDone (badTs badLs : List (BitVec 28))
  /-- A phase comparison outside 200 ps closes the gate and starts a relock. (R124) -/
  | vclkUnlock
  /-- After 4,096 rc of unbroken lock the gate opens at a VCLK rising edge. (R125) -/
  | gateOpen
  /-- Writing CLK_CTRL.HOLD holds the gate closed after its next falling edge. (R151) -/
  | gateHold (hold : Bool)
  /-- FORM at the intended root starts group formation, or is refused. (R129) -/
  | form
  /-- A discovery message joins the device to the tree through the first one received. (R130) -/
  | discoveryReceive (port : Fin 4) (depth : Fin 16) (beyond : Bool)
  /-- The 1,024 round trips of a tree link complete and the hop is set to 64 rc or marked TOOLONG. (R131) -/
  | linkMeasure (port : Fin 4) (raw : BitVec 16)
  /-- An ID assignment message gives the device its stored or lowest free ID. (R133) -/
  | idAssignReceive (taken : List (BitVec 13))
  /-- The distributed H sets CMT_HOPS, CLK_DEPTH and ROOT. (R130) -/
  | hReceive (h : Fin 9) (down : BitVec 4)
  /-- A group-condition path probe measures M. (R141) -/
  | gcPathProbe (m : BitVec 16)
  /-- Formation completes with FORMED set, or fails with its FAIL code. (R130) -/
  | formationDone (conflict : Bool) (size leftOut : BitVec 14) (routes : List (BitVec 13 × Fin 4))
  /-- START at the root sends the start message, or is refused. (R138) -/
  | groupStart
  /-- SYNC_IN high on 4 REFCLK edges with SYNCIN_EN starts the group at the root. (R138) -/
  | syncInStart
  /-- A start message loads the settings and closes the member's gate. (R139) -/
  | startReceive (lead : BitVec 16) (gvc : Gvc) (cfg frac : BitVec 32)
  /-- At ts every member resets its dividers, zeroes CLK_EPOCH and pulses SYNC_OUT. (R139) -/
  | startDividerReset
  /-- At ts + 16,384 rc the gate opens with GVC = CLK_START_GVC and INSYNC sets. (R139) -/
  | groupGateOpen (lockHeld : Bool) (nosync : BitVec 14)
  /-- A JOIN at the root picks tj and sends the join message, or is refused. (R144) -/
  | join (inSync tooDeep : Bool)
  /-- The joining device receives the join message and its settings. (R144) -/
  | joinReceive (lead : BitVec 64) (epoch : BitVec 64) (gvc : Gvc) (cfg frac : BitVec 32)
  /-- At tj the joining device resets its dividers and later opens its gate in sync. (R144) -/
  | joinAlign (lockHeld : Bool)
  /-- A hop deviation of 1 rc or more clears INSYNC downstream. (R136) -/
  | hopSlip (here : Bool)
  /-- No timing words for 16 rc clears INSYNC on the device and every device below. (R137) -/
  | trellisDown (here : Bool)
  /-- A SYNC_IN pulse on a checking member is timed and compared with EXPECT. (R142) -/
  | syncSkew (skew : BitVec 16)
  /-- A write to MW0 to MW5 goes to the requester's staging latch. (R192) -/
  | csLatchWrite (req : Req) (slot : Fin 262144) (word : Fin 6) (data : BitVec 32)
  /-- An MWCHK write checks the latched word and writes the slot whole. (R193) -/
  | csSlotWrite (req : Req) (slot : Fin 262144) (chk : BitVec 16)
  /-- GO starts the control-store loader, or sets LREF when busy. (R199) -/
  | cslGo
  /-- ABORT stops the loader after the image in progress. (R208) -/
  | cslAbort
  /-- The loader processes its last image, clears LBUSY and sets LDONE. (R200) -/
  | cslDone
  /-- The scrub checks each valid slot, writes back corrections and invalidates uncorrectable ones. (R204) -/
  | csScrub (slot : Fin 262144) (flip : BitVec 208)
  /-- The sequencer issues one vector of the current word with its table selections and data. (R161) -/
  | vectorIssue (late : Bool) (flip : BitVec 208) (flipA flipB : BitVec 80) (bad : List (BitVec 28))
  /-- After its last vector the word continues at A + 1. (R163) -/
  | seqNext
  /-- After its last vector the word transfers control to T. (R163) -/
  | seqJump
  /-- The word pushes A + 1 and transfers to T, or stops on a full stack. (R214) -/
  | seqCall
  /-- The word pops the return address, or stops on an empty stack. (R214) -/
  | seqReturn
  /-- The word goes to T if COND is true, else to A + 1. (R163) -/
  | seqBranch
  /-- The word goes to T if COND is false, else to A + 1. (R163) -/
  | seqBranchf
  /-- The word calls T if COND is true, else continues at A + 1. (R163) -/
  | seqCcall
  /-- The word returns if COND is true, else continues at A + 1. (R163) -/
  | seqCreturn
  /-- The word loads a loop counter from a loop-parameter entry. (R163) -/
  | seqLoadloop (bad : Bool)
  /-- The word loads a loop counter from TARGET. (R163) -/
  | seqLoadloopi
  /-- The word decrements the counter and jumps while it exceeds 1, else clears it and falls through. (R163) -/
  | seqLoop
  /-- As LOOP, but on falling through the counter reloads from a parameter entry. (R163) -/
  | seqLoopr (bad : Bool)
  /-- A WAIT word holds until its condition is true, then issues and continues at A + 1. (R233) -/
  | seqWait (late : Bool) (flip : BitVec 208) (flipA flipB : BitVec 80) (bad : List (BitVec 28))
  /-- A MATCH word re-issues its vector until its condition is true. (R235) -/
  | seqMatch (late : Bool) (flip : BitVec 208) (flipA flipB : BitVec 80) (bad : List (BitVec 28))
  /-- The word ends the playlist if every site has failed or been killed. (R166) -/
  | seqStopfail
  /-- The word ends the playlist after its last vector. (R167) -/
  | seqHalt
  /-- A CWAIT word releases at the commit target to A + 1 or T. (R238) -/
  | cwaitRelease (late : Bool) (flipA flipB : BitVec 80) (bad : List (BitVec 28))
  /-- The wait limit of a WAIT or MATCH word expires and it exits to T. (R237) -/
  | waitLimitExpiry (late : Bool) (flipA flipB : BitVec 80) (bad : List (BitVec 28))
  /-- The awaited record or stream data arrives and a stall hold ends. (R234) -/
  | stallHoldEnd
  /-- Consecutive stall holds reach SEQ_STALL_LIM and the playlist stops with STALL. (R234) -/
  | stallLimit
  /-- A CMARK word copies its first cycle's GVC and slot and raises SEQ_CMARK. (R176) -/
  | cmark
  /-- A non-zero EVENT raises SEQ_PEVENT and may append a pattern-event record. (R178) -/
  | patternEvent
  /-- A TIUCTL ARM arms the unit at the land time 0 of the word's first vector. (R442) -/
  | tiuctlArm
  /-- A TIUCTL GATE limits the unit's acceptance to the word's vectors at the land. (R442) -/
  | tiuctlGate
  /-- A TIUCTL DISARM ends the unit's measurement at the land time 0. (R442) -/
  | tiuctlDisarm
  /-- STREAM RUN makes channel CH advance one vector of data per vector. (R181) -/
  | streamRun
  /-- STREAM PAUSE stops channel CH advancing. (R181) -/
  | streamPause
  /-- STREAM RUNALL runs every open channel. (R181) -/
  | streamRunall
  /-- STREAM PAUSEALL pauses every open channel. (R181) -/
  | streamPauseall
  /-- FLAGOP set sets a user flag at the end of the first vector cycle. (R184) -/
  | flagSet
  /-- FLAGOP clear clears a user flag. (R184) -/
  | flagClear
  /-- FLAGOP toggle toggles a user flag. (R184) -/
  | flagToggle
  /-- DCTL HOLDALL keeps the last drive state on every channel. (R185) -/
  | holdall
  /-- DCTL OFFALL turns every channel off. (R185) -/
  | offall
  /-- DCTL HOLDOUT keeps drive on assigned channels of sites not in SITESET. (R185) -/
  | holdout
  /-- DCTL OFFOUT turns off assigned channels of sites not in SITESET. (R185) -/
  | offout
  /-- A word's ARM arms the trigger program at its first vector's take point. (R400) -/
  | capctlArm
  /-- A word's DISARM disarms the trigger program after its take point. (R400) -/
  | capctlDisarm
  /-- SEQ_CTRL.STOP stops the playlist at the next vector boundary. (R241) -/
  | seqStop
  /-- SEQ_CTRL.STOPAT arms a stop at SEQ_STOPAT, or is refused. (R241) -/
  | stopatArm
  /-- SEQ_CTRL.DISARM withdraws an armed STOPAT. (R244) -/
  | stopatDisarm
  /-- The armed stop GVC is reached and the playlist stops. (R241) -/
  | stopatReached
  /-- A host write to SEQ_UFLAG sets user flags. (R217) -/
  | uflagSet (mask : BitVec 16)
  /-- A host write to SEQ_UFLAG_CLR clears user flags. (R217) -/
  | uflagClear (mask : BitVec 16)
  /-- A write to SEG_DIDX loads the requester's staging words from a descriptor. (R262) -/
  | segDidxWrite (req : Req) (index : Fin 65536)
  /-- SEG_DCMD.WRITE writes and checks a segment descriptor, or is refused while locked. (R262) -/
  | descriptorWrite (req : Req)
  /-- SEG_PL_CTRL.START queues a playlist image and begins its start check, or is refused BUSY. (R271) -/
  | playlistStart
  /-- WITHDRAW refuses the queued playlist before its first vector. (R274) -/
  | playlistWithdraw
  /-- The start check completes, refusing the playlist or starting its head loads. (R272) -/
  | startCheckDone
  /-- Every head of the queued playlist is loaded and QREADY sets. (R273) -/
  | headsLoaded
  /-- The playlist's first vector issues at NEXT or AT, opening the sites' intervals. (R275) -/
  | playlistFirstVector (flip : BitVec 208) (flipA flipB : BitVec 80) (bad : List (BitVec 28))
  /-- OPEN opens a stream channel, or is refused for rate or ring. (R276) -/
  | streamOpen (channel : Fin 8) (width : Fin 4)
  /-- CLOSE closes a stream channel, or is refused while it runs. (R282) -/
  | streamClose (channel : Fin 8)
  /-- A PROD HI write makes host ring bytes available, or is ignored with PRODERR. (R278) -/
  | streamProdWrite (channel : Fin 8) (hi : BitVec 32)
  /-- Ring bytes read over PCI Express arrive in the stream buffer. (R279) -/
  | streamFetch (channel : Fin 8) (addr : BitVec 64) (data : List Byte)
  /-- A write to IW0 or IW1 goes to the requester's program latch. (R301) -/
  | apgIwLatch (req : Req) (gen : Fin 2) (index : Fin 4096) (word : Fin 2) (data : BitVec 32)
  /-- An IWCHK write checks and writes the instruction, or refuses it under the lock. (R300) -/
  | apgIwchkWrite (req : Req) (gen : Fin 2) (index : Fin 4096) (chk : BitVec 16)
  /-- The scrub checks every valid instruction of both program stores. (R304) -/
  | apgScrub (gen : Fin 2) (index : Fin 4096) (flip : BitVec 80)
  /-- GO starts the APG table loader, or is ignored with TLREF. (R314) -/
  | apgTldGo
  /-- ABORT stops the table loader after the image in progress. (R318) -/
  | apgTldAbort
  /-- The table loader finishes and sets TLDONE. (R315) -/
  | apgTldDone
  /-- A write to PTF_TS_E0 to E5 goes to the requester's latch. (R340) -/
  | ptfTsLatchWrite (req : Req) (ch : Fin 256) (entry : Fin 1024) (word : Fin 6) (data : BitVec 32)
  /-- A PTF_TS_CFG write merges, validates and writes a timing-set shadow entry. (R342) -/
  | ptfTsCfgWrite (req : Req) (ch : Fin 256) (entry : Fin 1024) (data : BitVec 32)
  /-- Time 0 of a vector reaches the land 64 vc after issue and its levels become standing. (R323) -/
  | vectorLand
  /-- A level settle ends 2,000 ns after it starts. (R375) -/
  | levelSettleEnd (ch : Fin 256)
  /-- A scheduled drive edge is applied at the land in time order. (R349) -/
  | edgePlace (ch : Fin 256)
  /-- A compare is sampled at its sample point and evaluated or withheld. (R351) -/
  | compareSample (cycle : Gvc) (ch : Fin 256) (ui : Fin 8) (lands : List (Bool × BitVec 16)) (held : Bool)
  /-- A twin-stored value mismatch marks the channel untrusted and reloads both copies. (R378) -/
  | twinMismatch (ch : Fin 256) (delay bad : Bool)
  /-- A write to LVL_LS_VI to RX goes to the requester's latch. (R368) -/
  | lvlLsLatchWrite (req : Req) (ch : Fin 256) (entry : Fin 256) (word : Fin 6) (data : BitVec 32)
  /-- An LVL_LS_CFG write merges, validates and writes a level-set shadow entry. (R369) -/
  | lvlLsCfgWrite (req : Req) (ch : Fin 256) (entry : Fin 256) (data : BitVec 32)
  /-- At each readback period boundary every channel begins a pass, or RBLATE is set. (R379) -/
  | readbackPeriod
  /-- One DAC is read back and judged in each 1 ac step. (R380) -/
  | readbackStep (ch : Fin 256) (void bad : Bool)
  /-- LVL_CH_UNTR.CLR ends the untrusted mark after a later good pass, or is refused. (R382) -/
  | untrClear (ch : Fin 256)
  /-- A write of LVL_CTRL sets RBPERIOD and restarts the period count. (R379) -/
  | lvlCtrlWrite (data : BitVec 32)
  /-- At its take point Rake takes a vector whole and makes its decisions. (R386) -/
  | rakeTake (full fcFull : Bool) (bad : List (BitVec 28))
  /-- A Rake decision stops the playlist at the boundary of cycle c + 110 with reason RAKE. (R387) -/
  | rakeStop
  /-- A site whose failing-vector count reaches KILLN + 1 is killed at cycle a + 107. (R410) -/
  | siteKill (site : Fin 64)
  /-- A host write to CAP_KILL kills a site at the next vector boundary. (R411) -/
  | hostSiteKill (mask : BitVec 64)
  /-- CAP_CTRL.ARM arms the trigger program at the next take point. (R400) -/
  | capArm
  /-- CAP_CTRL.DISARM disarms an armed program. (R400) -/
  | capDisarm
  /-- CAP_CTRL.RESET clears the capture state and disarms the program. (R409) -/
  | capReset
  /-- Room returns in the capture buffer and a gap record is written. (R408) -/
  | captureRoomReturn
  /-- Room returns in the fail catalogue and the gap record is written. (R418) -/
  | fcRoomReturn
  /-- An RPTR HI write consumes catalogue records, or sets RPTRERR. (R414) -/
  | fcRptrWrite (hi : BitVec 32)
  /-- TAKE gives a free unit to the host, or raises CLAIM_DENIED. (R433) -/
  | tiuTake (unit : Fin 16)
  /-- RELEASE frees a host-owned unit. (R433) -/
  | tiuRelease (unit : Fin 16)
  /-- A host ARM arms a host-owned unit. (R435) -/
  | tiuArm (unit : Fin 16)
  /-- A host DISARM ends the measurement with END DISARM. (R439) -/
  | tiuDisarm (unit : Fin 16)
  /-- A start or stop event is accepted and timestamped by an armed unit. (R436) -/
  | tiuEvent (unit : Fin 16) (input : Fin 17) (tick : Fin 20) (bin : Fin 1024)
  /-- TIMEOUT ms after arming the measurement ends with TIMEOUT. (R439) -/
  | tiuTimeout (unit : Fin 16)
  /-- An open stop reaching the range limit ends the measurement with RANGE. (R439) -/
  | tiuRange (unit : Fin 16)
  /-- A write to TIU_CAL_REQ queues a calibration of a unit. (R446) -/
  | tiuCalReq (mask : BitVec 16)
  /-- A queued calibration starts once its unit is free. (R446) -/
  | tiuCalStart (unit : Fin 16)
  /-- A calibration ends, replacing all 17 bin tables or failing. (R448) -/
  | tiuCalEnd (unit : Fin 16) (hist : List (List (BitVec 23)))
  /-- A calibration request meets its deadline unstarted. (R446) -/
  | tiuCallate (unit : Fin 16)
  /-- TAKE gives a free PMU to the host or firmware. (R454) -/
  | pmuTake (req : Req) (pmu : Fin 32)
  /-- RELEASE frees the PMU and opens its switch. (R481) -/
  | pmuRelease (req : Req) (pmu : Fin 32)
  /-- A write changing CONN or CH opens the switch before any new connection. (R458) -/
  | pmuConnect (req : Req) (pmu : Fin 32) (data : BitVec 32)
  /-- 10 µs later the new connection closes and CONN sets. (R458) -/
  | pmuConnectDone (pmu : Fin 32)
  /-- A force, clamp or voltage-clamp write is applied or discarded with VALERR. (R460) -/
  | pmuForceWrite (req : Req) (pmu : Fin 32) (which : Fin 3) (data : BitVec 32)
  /-- GO starts a contact test of the selected channels, or is refused. (R463) -/
  | contactTestGo
  /-- One channel's contact measurement completes and its RESULT is set. (R466) -/
  | contactChannelDone (ch : Fin 256) (vn vp : BitVec 32)
  /-- START begins a filter chain at the next modulator sample, or is refused. (R472) -/
  | dfcStart (req : Req) (chain : Fin 32)
  /-- STOP stops a filter chain. (R482) -/
  | dfcStop (req : Req) (chain : Fin 32)
  /-- Writing FREEZE holds or resumes the DC-blocking baseline. (R476) -/
  | dfcFreeze (req : Req) (chain : Fin 32) (on : Bool)
  /-- A BASE write while frozen sets the baseline from the next output. (R476) -/
  | dfcBaseWrite (req : Req) (chain : Fin 32) (data : BitVec 32)
  /-- A chain output is computed and replaces DFC_n_OUT, possibly queued. (R479) -/
  | dfcOutput (chain : Fin 32) (xs : List (BitVec 32)) (clip : Bool)
  /-- A monitor's filtered decision goes out of window and latches, counts and trips as configured. (R500) -/
  | grdDecision (monitor : Fin 312) (points : List (BitVec 16))
  /-- A raw out-of-window decision trips at once when SRC is RAW. (R502) -/
  | grdRawDecision (monitor : Fin 312) (point : BitVec 16)
  /-- A driver in current limit for 8 ns trips its channel. (R505) -/
  | grdIlim (ch : Fin 256)
  /-- A write to GRD_MTRIP trips channels manually. (R503) -/
  | grdMtrip (word : Fin 8) (mask : BitVec 32)
  /-- A write to GRD_RELEASE releases a channel, or is refused with CLRREF. (R507) -/
  | grdRelease (word : Fin 8) (mask unfit : BitVec 32)
  /-- A W1C write clears a DUT-supply or rail monitor's LATCHED under the refusal rule. (R507) -/
  | grdDsClear (monitor : Fin 312)
  /-- A threshold write is accepted or refused against the envelope. (R495) -/
  | grdThrWrite (req : Req) (monitor : Fin 312) (data : BitVec 32)
  /-- An accepted threshold settles and the monitor changes over in one step. (R497) -/
  | grdThrSettled (monitor : Fin 312)
  /-- A mode change begins without breaking the old mode. (R493) -/
  | grdModeWrite (req : Req) (monitor : Fin 312) (data : BitVec 32)
  /-- The new mode has settled and the monitor changes over. (R493) -/
  | grdModeSettled (monitor : Fin 312)
  /-- A monitor twin mismatch acts as an out-of-window decision and reloads the copies. (R498) -/
  | grdTwin (monitor : Fin 312)
  /-- At each P tick every monitor in P mode takes one powered reading. (R490) -/
  | grdPTick (points : List (BitVec 16))
  /-- At a frame boundary a running port carries its schedule entry's transaction. (R518) -/
  | lbTransaction (port : Fin 4) (rx : BitVec 40)
  /-- A write of CLE_LBp_HTX marks a host transaction ready. (R521) -/
  | lbHostTxWrite (port : Fin 4) (data : BitVec 32)
  /-- TAKE gives a free loop-bus port to its writer. (R523) -/
  | lbTake (req : Req) (port : Fin 4)
  /-- RELEASE frees a loop-bus port. (R540) -/
  | lbRelease (req : Req) (port : Fin 4)
  /-- Setting EN starts the port's schedule at the next frame with F mod L = 0. (R523) -/
  | lbEnable (req : Req) (port : Fin 4) (data : BitVec 32)
  /-- A loop evaluates in its frame and computes its output. (R525) -/
  | loopEvaluate (loop : Fin 64)
  /-- In every frame a thermal loop drives its tile heater from the feed-forward and PID. (R534) -/
  | thermalFrame (tile : Fin 8) (ptile : BitVec 32)
  /-- Every enabled tile INBAND for 1 s sets TSETTLED. (R535) -/
  | tempSettled
  /-- TAKE claims a free loop. (R530) -/
  | loopTake (req : Req) (loop : Fin 64)
  /-- RELEASE frees a loop and puts it in OFF. (R530) -/
  | loopRelease (req : Req) (loop : Fin 64)
  /-- A mode write changes a loop's mode bumplessly, or is refused. (R528) -/
  | loopModeWrite (req : Req) (loop : Fin 64) (mode : Fin 4)
  /-- APPLY makes the staging set effective at the next evaluation. (R529) -/
  | loopApply (req : Req) (loop : Fin 64) (bumpless : Bool)
  /-- A CAL_REQ of kind TIMING queues a channel timing calibration. (R548) -/
  | calReqTiming (elem : Fin 4) (target : Fin 256)
  /-- A CAL_REQ of kind DC queues a channel DC calibration. (R550) -/
  | calReqDc (elem : Fin 4) (target : Fin 256)
  /-- A CAL_REQ of kind BOTH queues timing then DC calibration. (R560) -/
  | calReqBoth (elem : Fin 4) (target : Fin 256)
  /-- A CAL_REQ of kind GRAFT queues a graft to a spare or own element. (R564) -/
  | calReqGraft (elem : Fin 4) (target : Fin 256)
  /-- A CAL_REQ of kind TILE queues 64 calibration entries. (R562) -/
  | calReqTile (elem : Fin 4) (target : Fin 256)
  /-- A CAL_REQ of kind PMU queues a PMU calibration. (R560) -/
  | calReqPmu (elem : Fin 4) (target : Fin 256)
  /-- The arbiter starts a queued entry once its conditions hold. (R561) -/
  | calEntryStart (tile : Fin 8)
  /-- A queued entry meets its deadline unstarted. (R561) -/
  | calLate (kind : Fin 8) (target : Fin 256)
  /-- A calibration ends, replacing results on PASS or keeping them otherwise. (R552) -/
  | calEnd (kind : Fin 8) (target : Fin 256) (range : Bool) (cells : BitVec 48) (cmp : BitVec 4) (seg : BitVec 27) (vref : BitVec 16)
  /-- A graft ends with the spare serving the channel, or reconnects the old element. (R564) -/
  | graftEnd (ch : Fin 256) (result : Fin 5) (cells : BitVec 48) (cmp : BitVec 4) (seg : BitVec 27) (vref : BitVec 16)
  /-- A lockstep mismatch starts a takeover or the safe state. (R577) -/
  | rscLockstep (standby : Bool)
  /-- The active pair kicks the watchdog. (R610) -/
  | rscWdogKick (req : Req)
  /-- A watchdog period with no kick starts a takeover or the safe state. (R610) -/
  | rscWdogExpiry
  /-- A plot ATTR write enables the plot or is refused. (R581) -/
  | plotWrite (req : Req) (core : Fin 16) (standby : Bool) (plot : Fin 8) (data : BitVec 32)
  /-- A Scion access no plot allows is not made and takes an access fault. (R580) -/
  | plotAccessFault (core : Fin 16) (kind : Access) (addr : BitVec 40) (bytes : Fin 65) (pc : BitVec 64)
  /-- 16 fc after an event its route sets the core's pending interrupt. (R584) -/
  | interruptPending (core : Fin 17) (input : Fin 336)
  /-- A read of CSR 0x7C2 returns and masks the highest pending input. (R584) -/
  | interruptClaim (core : Fin 17)
  /-- A write of CSR 0x7C3 unmasks the input. (R584) -/
  | interruptComplete (core : Fin 17) (value : BitVec 32)
  /-- Rootstock rings a Scion doorbell. (R583) -/
  | doorbell (req : Req) (core : Fin 16) (data : BitVec 32)
  /-- A machine-mode trap with fast entry pushes 16 registers, or fails. (R585) -/
  | fastEntryPush (core : Fin 17) (x : List (BitVec 64)) (mepc mcause mtval mstatus : BitVec 64)
  /-- An mret with depth above 0 restores the 16 registers, or wilts the core. (R587) -/
  | mretRestore (core : Fin 17) (x : List (BitVec 64)) (mepc mcause mtval mstatus : BitVec 64)
  /-- Rootstock finishes capturing a Wilted core's state and begins its restart. (R590) -/
  | wiltedCaptureDone (core : Fin 16)
  /-- The reloaded Scion image starts, or the core goes DEAD on a hash failure. (R592) -/
  | scionRestartDone (core : Fin 16)
  /-- Rootstock's RESTART write restarts a Scion. (R612) -/
  | scnRestart (req : Req) (core : Fin 16)
  /-- Mailbox STAGE verifies an image and writes it to a slot. (R604) -/
  | fwStage (req : Req) (tag : BitVec 16)
  /-- Mailbox SGRAFT grafts named Scions to a new image. (R605) -/
  | fwSgraft (req : Req) (tag : BitVec 16)
  /-- Mailbox HANDOVER hands Rootstock authority to a new image. (R608) -/
  | fwHandover (req : Req) (tag : BitVec 16)
  /-- Mailbox KEYREC verifies and applies a key-slot record. (R595) -/
  | fwKeyrec (req : Req) (tag : BitVec 16)
  /-- Mailbox SRESTART restarts each named DEAD Scion. (R604) -/
  | fwSrestart (req : Req) (tag : BitVec 16)
  /-- Mailbox QUERY refreshes the slot and key registers. (R604) -/
  | fwQuery (req : Req) (tag : BitVec 16)
  /-- A mailbox command ends and Rootstock posts its result. (R603) -/
  | fwDone
  /-- At the drain limit tasks still in service return to ready. (R605) -/
  | scnDrainLimit (core : Fin 16)
  /-- A drained core switches to its standby image and plots and restarts. (R605) -/
  | scnGraftSwitch (core : Fin 16) (failed : Bool)
  /-- The standby pair boots the new slot and SBYREADY sets. (R608) -/
  | handoverStandbyReady
  /-- After the soft-state copy the standby takes RSO authority in one fc. (R608) -/
  | handoverCommit
  /-- TSK_ARM arms a task from its descriptor, or is refused. (R618) -/
  | tskArm (task : Fin 1048576)
  /-- TSK_DEC decrements a task's dependence count. (R620) -/
  | tskDec (task : Fin 1048576)
  /-- TSK_FREE returns a finished task to FREE. (R619) -/
  | tskFree (task : Fin 1048576)
  /-- A Scion requests a task. (R623) -/
  | tskReq (core : Fin 16)
  /-- A task selected in a round appears in the core's window 24 fc later and enters SERVICE. (R624) -/
  | taskDeliver (core : Fin 16)
  /-- A DONE write with OK completes the task and decrements its successors. (R629) -/
  | taskDoneOk (core : Fin 16) (task : Fin 1048576)
  /-- A DONE write with RETRY returns the task to READY or fails it. (R628) -/
  | taskRetry (core : Fin 16) (task : Fin 1048576)
  /-- A DONE write with FAIL fails the task and poisons its successors. (R629) -/
  | taskDoneFail (core : Fin 16) (task : Fin 1048576)
  /-- An overflow task moves into the ready store when an entry frees. (R622) -/
  | taskOverflowMove
  /-- OPEN opens a queue with its LIMIT and a held-back cell, or is refused. (R634) -/
  | queueOpen (queue : Fin 65536) (limit : BitVec 25)
  /-- CLOSE returns every cell of a queue to the pool. (R638) -/
  | queueClose (queue : Fin 65536)
  /-- FLUSH discards a queue's cells and writes a flush marker. (R637) -/
  | queueFlush (queue : Fin 65536)
  /-- A window ENQ enqueues an item whole or drops it with a gap marker. (R635) -/
  | queueEnq (req : Req) (queue : Fin 65536) (len : BitVec 10)
  /-- A window DEQ dequeues the oldest cell into the read latch. (R636) -/
  | queueDeq (req : Req) (queue : Fin 65536) (bad : Bool)
  /-- A BIND write binds a host ring to an open queue, or is refused. (R641) -/
  | hostRingBind (ring : Fin 256) (msien : Bool) (size : BitVec 6) (queue : Fin 65536)
  /-- Clearing BIND unbinds a host ring. (R641) -/
  | hostRingUnbind (ring : Fin 256) (msien : Bool) (size : BitVec 6) (queue : Fin 65536)
  /-- A CONS HI write frees ring space, or sets CONSERR. (R641) -/
  | hostRingConsWrite (ring : Fin 256) (hi : BitVec 32)
  /-- With ring room, cells are written to the host, PROD written back and MSI-X sent. (R641) -/
  | hostRingDeliver (ring : Fin 256) (count : Fin 1024) (bad : Bool)
  /-- A write to HBC_FENCE starts a fence over the named ports. (R656) -/
  | hbmFence (ports : BitVec 8)
  /-- The fence completes and HBC_FENCE_SEQ increments. (R656) -/
  | fenceDone
  /-- A channel's scheduled retrain pause begins once its slots are filled, or is deferred. (R660) -/
  | retrainPauseStart (ch : Fin 32) (slots : Fin 3)
  /-- A channel's retrain pause ends. (R660) -/
  | retrainPauseEnd (ch : Fin 32) (failed : Bool)
  /-- A per-bank refresh falls due. (R663) -/
  | hbmRefresh (ch : Fin 32)
  /-- A stack temperature reading may halve the refresh interval or set HOT. (R663) -/
  | hbmTempRead (stack : Fin 2) (temp : BitVec 8)
  /-- The scrub reads a granule, writes back corrections and poisons uncorrectable ones. (R666) -/
  | hbmScrub (granule : BitVec 30) (result : Fin 3)
  /-- A retirement request starts copying a channel into the reserve, or is refused. (R667) -/
  | hbcRetire (ch : Fin 32)
  /-- The copy ends and the channel is served from the reserve. (R669) -/
  | retirementCopyDone
  /-- Firmware sets INSERVICE, starting the retrain cycle, or is refused. (R671) -/
  | hbcInserviceSet (req : Req) (trained : Bool)
  /-- A port detects its partner and starts training. (R684) -/
  | linkDetect (port : Fin 4)
  /-- Training and alignment end with the lanes mapped and the port ACTIVE. (R685) -/
  | linkTrainDone (port : Fin 4) (lanes : BitVec 4) (lmap : BitVec 8) (pol : BitVec 4) (taps : BitVec 44) (rx : BitVec 68)
  /-- A host RETRAIN retrains the port. (R686) -/
  | linkRetrain (port : Fin 4) (partner : Bool) (dev : BitVec 13) (token : BitVec 16)
  /-- Loss of block lock on a lane of the width retrains the port. (R686) -/
  | linkLockLoss (port lane : Fin 4) (errs : BitVec 32)
  /-- A flit is accepted in order or discarded with a NAK. (R683) -/
  | flitReceive (port : Fin 4) (flit : BitVec 512)
  /-- A NAK starts a replay, or after 8 a retrain. (R683) -/
  | nakReceive (port : Fin 4) (ack : BitVec 12)
  /-- A width-change CTRL flit changes the width at its switch SEQ, or is refused. (R688) -/
  | widthProposalReceive (port : Fin 4) (refusal : Bool) (lanes : BitVec 4) (switch : BitVec 12) (dev : BitVec 13) (token : BitVec 16)
  /-- A lane with too many invalid headers is dropped and the port narrowed. (R689) -/
  | laneDrop (port lane : Fin 4) (lanes : BitVec 4) (errs : BitVec 32)
  /-- A dropped lane error-free for 2^36 bits counts as good and may be widened back. (R689) -/
  | laneRestore (port lane : Fin 4) (lanes : BitVec 4)
  /-- FALLOW requests entry to the deep low-power state, or is refused on a tree link. (R696) -/
  | fallowRequest (port : Fin 4) (partner leave : Bool)
  /-- WAKE brings a port out of FALLOW. (R696) -/
  | fallowWake (port : Fin 4)
  /-- The squelch detector sees the partner wake. (R696) -/
  | squelchWake (port : Fin 4)
  /-- A port without block lock 40 µs after wake retrains. (R696) -/
  | fallowExitTimeout (port : Fin 4)
  /-- Setting TEST puts the port into TEST, or is refused on a tree link. (R716) -/
  | portTest (port : Fin 4) (test : Bool)
  /-- A PRBS_CTRL write enables the generator or checker, or is refused. (R690) -/
  | prbsCtrlWrite (port lane : Fin 4) (data : BitVec 32)
  /-- A TXEQ write sets the transmit taps or is discarded with EQREF. (R680) -/
  | txeqWrite (port lane : Fin 4) (data : BitVec 32)
  /-- A TRELLIS block is received and its words delivered at rc t + 64. (R691) -/
  | trellisBlockReceive (port : Fin 4) (first second : BitVec 256)
  /-- A remote READ command starts a read of a device's register. (R699) -/
  | rraRead (req : Req)
  /-- A remote WRITE command starts a write of a device's register. (R699) -/
  | rraWrite (req : Req)
  /-- A BCAST command writes a register on every member. (R702) -/
  | rraBcast (req : Req)
  /-- A target performs an arriving remote access as a host access. (R700) -/
  | rraServe (port op : Fin 4) (addr data : BitVec 32)
  /-- A remote access response arrives and ends the access. (R701) -/
  | rraResponse (req : Req) (refused : Bool) (data : BitVec 32) (size : BitVec 14)
  /-- No response within LNK_RRA_TMO ends the access with TIMEOUT. (R701) -/
  | rraTimeout (req : Req) (count : BitVec 14)
  /-- The PCI Express link goes down; host-bound requests are discarded. (R705) -/
  | pcieDown
  /-- CLKREQ_N powers the PCI Express domain and exits L1.2. (R776) -/
  | pcieL12Exit (d3hot : Bool)
  /-- SET loads the wall time at the next tick, or is refused. (R709) -/
  | wtmSet
  /-- An ADJ write adds a signed adjustment once at the next tick. (R709) -/
  | wtmAdj (data : BitVec 32)
  /-- A WTM_INC_HI write sets INC at the next tick, or is discarded. (R708) -/
  | wtmIncWrite (data : BitVec 32)
  /-- A read of WTM_NOW_FRAC latches the rest of the wall time. (R710) -/
  | wtmNowLatch (req : Req)
  /-- The root originates a TIME message every 2^SYNCP ms. (R712) -/
  | timeSend
  /-- A member adds the hop, records its offset and forwards the message. (R713) -/
  | timeReceive (seq : BitVec 16) (sec : BitVec 48) (ns : BitVec 32) (frac : BitVec 16) (corr : BitVec 48) (residence : BitVec 16)
  /-- No TIME message for 2 × 2^SYNCP ms clears SYNCED. (R713) -/
  | wtmSyncTimeout
  /-- An EXT_TRIG edge is stamped with wall time and GVC. (R714) -/
  | extTrigStamp (input : Fin 8) (rising : Bool) (sixteenths : Fin 160)
  /-- The collector decides an event occurrence by its class. (R724) -/
  | eventOccurrence
  /-- A collector twin mismatch enters the safe state by hardware. (R734) -/
  | fclSelf (agree : Bool)
  /-- At each WRITE entry the ramp generator steps a DUT supply code toward its target. (R737) -/
  | rampWrite (port : Fin 4) (entry : Fin 32)
  /-- FCL_CLR ends the first-source latch, or is refused. (R732) -/
  | fclClr (req : Req)
  /-- A W1C write of a promotion bit ends the promotion. (R727) -/
  | fclPromoClear (word : Fin 10) (mask : BitVec 32)
  /-- A write of FCL_SWEVT raises a software source. (R742) -/
  | fclSwevt (data : BitVec 32)
  /-- Rootstock writes one Almanac entry at once. (R742) -/
  | evrRscwSrc (req : Req) (data : BitVec 32)
  /-- A write of EVR_RIDX loads an Almanac entry into the read registers. (R745) -/
  | evrRidxWrite (req : Req) (index : BitVec 32)
  /-- A write of EVR_SIDX loads a saved entry into the read registers. (R748) -/
  | evrSidxWrite (req : Req) (set : Fin 2) (entry : Fin 4096)
  /-- DISCARD clears a saved set's VALID. (R748) -/
  | evrSetDiscard (req : Req) (set : Fin 2)
  /-- FCL_CTRL.WARMRST starts a warm reset. (R739) -/
  | warmrst (req : Req)
  /-- FROST_N sampled low requests a hard Frost. (R750) -/
  | frostNLow
  /-- A host HARD write requests a hard Frost. (R750) -/
  | frzHard
  /-- A host SOFT write requests a soft Frost. (R751) -/
  | frzSoft
  /-- ARMAT arms a soft Frost at FRZ_AT, or is refused. (R751) -/
  | frzArmat
  /-- DISARM withdraws an armed ARMAT. (R766) -/
  | frzDisarm
  /-- THAW ends a soft Frost and restarts the clocks, or is refused. (R759) -/
  | frzThaw
  /-- READ starts a DMA read-out of the scan image, or is refused. (R755) -/
  | frzRead
  /-- The JTAG instruction FRZ_HARD at Update-IR requests a hard Frost. (R757) -/
  | jtagFrzHard
  /-- The JTAG instrument FRZ_READ shifts out the scan image. (R757) -/
  | jtagFrzRead
  /-- The functional clocks stop 12 rc after a hard request, tripping every channel. (R750) -/
  | frostClockStop
  /-- At boundary b the playlist stops and the clocks stop at b + 63. (R751) -/
  | frostSoftBoundary
  /-- A read-out completes or is abandoned. (R755) -/
  | frostReadDone
  /-- A write of FRZ_MAPIDX loads a scan-map record. (R758) -/
  | frzMapidxWrite (index : BitVec 32)
  /-- A DORMANT request starts SINKING, or is refused. (R774) -/
  | pmgDormant (req : Req)
  /-- A WAKE request starts WAKING, or is refused. (R775) -/
  | pmgWake (req : Req)
  /-- A BUDDING request returns Bloom to Budding. (R780) -/
  | pmgBudding (req : Req)
  /-- A BLOOM request starts BLOOMING. (R779) -/
  | pmgBloom (req : Req)
  /-- SINKING completes and the device is DORMANT. (R774) -/
  | sinkDone
  /-- WAKING completes with the gate open and STATE BUDDING. (R775) -/
  | wakeDone
  /-- Every tile reaches full bias and the device enters BLOOM. (R779) -/
  | bloomingDone
  /-- IDLE_MS with no playlist or maintenance returns the device to Budding. (R780) -/
  | bloomIdleTimeout
  /-- A Rootstock write switches a power domain off or on, or is refused. (R769) -/
  | pmgDomOffWrite (req : Req) (word : Fin 2) (data : BitVec 32)
  /-- At the end of each 1 ms slot power is measured and the bucket updated. (R784) -/
  | powerSlot (meas : BitVec 20)
  /-- A die temperature sample is judged against the warning and stop thresholds. (R788) -/
  | tempSample (die : Fin 9) (fault : Bool) (temp : BitVec 16)
  /-- The 125 °C analogue comparator trips every channel. (R788) -/
  | thermTrip (die : Fin 9)
  /-- An accepted rise of OVEN_OK sets CLK_STATUS.OVEN and starts the warm-up count. (R118) -/
  | ovenOkRise
  /-- The time-interval coarse loop loses lock and every running measurement ends with END CLOCK. (R439) -/
  | coarseLoopUnlock
  /-- The time-interval coarse loop regains lock and TIU_COARSE bit 0 sets. (R450) -/
  | coarseLoopLock
  /-- A monitor's filtered decision returns in window; ACTIVE clears, and POLREV or a condition source such as GRD_RAIL goes inactive. (R506) -/
  | grdInWindow (monitor : Fin 312) (points : List (BitVec 16))
  /-- The PCI Express link trains and comes up; LNK_PCIE_STATUS.UP sets and the PCIE_DOWN condition source ends. (R715) -/
  | pcieLinkUp (flit reversed : Bool) (rate : Fin 8) (width : Fin 16) (pol : BitVec 8)
  /-- The host puts the link into L1.2 and, in Dormant, the PCI Express domain switches off. (R776) -/
  | pcieL12Entry (d3hot : Bool)
  /-- A lane's PRBS checker synchronises on 64 error-free bits, sets PRBSSYNC and starts counting bits and errors. (R690) -/
  | prbsCheckerSync (port lane : Fin 4) (nbits : BitVec 48) (errs : BitVec 32)
  /-- Step 1 of a Scion graft, the check and load of the image into the standby area, completes, and the core enters DRAINING or the graft ends with the step's result. (R605) -/
  | sgraftLoadDone
  /-- An HBM stack requests refresh management and the device issues it. (R648) -/
  | refreshManagementRequest (ch : Fin 32)
  deriving DecidableEq, Repr

end Sys2Proof
end

