-- ==== Sys2Proof/Machine/Bits.lean ====
section
/-! DEFINITION. Bit fields, two's complement and pairs of words, over natural numbers. -/

namespace Sys2Proof.Machine

/-- Bits [lo + w - 1 : lo] of v. -/
def bits (v lo w : Nat) : Nat := (v >>> lo) % 2 ^ w

/-- Bit i of v. -/
def bitAt (v i : Nat) : Bool := (v >>> i) % 2 == 1

/-- v with bit i set. -/
def setBitN (v i : Nat) : Nat := if bitAt v i then v else v + 2 ^ i

/-- v with bit i clear. -/
def clrBitN (v i : Nat) : Nat := if bitAt v i then v - 2 ^ i else v

/-- A Bool as a bit. -/
def b2n (b : Bool) : Nat := if b then 1 else 0

/-- The two's-complement value of the low w bits of v. -/
def signedOf (w v : Nat) : Int :=
  let m := v % 2 ^ w
  if m < 2 ^ (w - 1) then (m : Int) else (m : Int) - 2 ^ w

/-- The w-bit two's-complement code of i. -/
def codeOf (w : Nat) (i : Int) : Nat := (i % (2 ^ w : Int)).toNat

/-- i clipped to the range lo to hi. -/
def clampI (lo hi i : Int) : Int := if i < lo then lo else if hi < i then hi else i

/-- i saturated to a signed field of w bits. -/
def satI (w : Nat) (i : Int) : Int := clampI (-(2 ^ (w - 1))) (2 ^ (w - 1) - 1) i

/-- The arithmetic shift right of an exact integer: division by 2^n rounding toward minus infinity. -/
def sarI (i : Int) (n : Nat) : Int := i / (2 ^ n : Int)

/-- Rounded up quotient. -/
def ceilDiv (a b : Nat) : Nat := (a + b - 1) / b

/-- The quotient of integers rounded up. -/
def ceilDivInt (a b : Int) : Int := -(-a / b)

/-- The number of ones among the low w bits. -/
def popcount (w v : Nat) : Nat := ((List.range w).filter (bitAt v)).length

/-- The lowest i below w with bit i of v set, or none. -/
def lowestBit (w v : Nat) : Option Nat := (List.range w).find? (bitAt v)

/-- The w bits of v with bit 0 first reversed. -/
def revBits (w v : Nat) : Nat :=
  (List.range w).foldl (fun a i => a * 2 + b2n (bitAt v i)) 0

/-- The n bytes of v, least significant first. -/
def bytesOf (n v : Nat) : List (BitVec 8) := (List.range n).map fun i => BitVec.ofNat 8 (v >>> (8 * i))

/-- The value of bytes given least significant first. -/
def ofBytes : List (BitVec 8) → Nat
  | [] => 0
  | b :: bs => b.toNat + 256 * ofBytes bs

/-- The values of a list of bits, bit 0 first, as a number. -/
def ofBits : List Bool → Nat
  | [] => 0
  | b :: bs => b2n b + 2 * ofBits bs

/-- The mask word of the i below w that satisfy p, bit i for i. -/
def maskOf (w : Nat) (p : Nat → Bool) : Nat := ofBits ((List.range w).map p)

/-- The index of the first element that satisfies p. -/
def indexOf? {α : Type} (p : α → Bool) : List α → Option Nat
  | [] => none
  | a :: as => if p a then some 0 else (indexOf? p as).map (· + 1)

end Sys2Proof.Machine
end

