-- ==== Sys2Proof/Machine/Microword.lean ====
section
/-! DEFINITION. The vector microword: its fields (R161, R172, R179, R181, R183), its check bits (R187, R188) and its
legality (R189, R191). -/

namespace Sys2Proof.Machine

/-- OP (R163). -/
def mwOp (w : Nat) : Nat := bits w 186 6
/-- TARGET, 24 bits. -/
def mwTarget (w : Nat) : Nat := bits w 162 24
/-- T of R163. -/
def mwT (w : Nat) : Nat := bits w 162 18
/-- REPEAT. -/
def mwRepeat (w : Nat) : Nat := bits w 146 16
/-- TSET. -/
def mwTset (w : Nat) : Nat := bits w 136 10
/-- MAPSEL. -/
def mwMapsel (w : Nat) : Nat := bits w 133 3
/-- SRCBANK. -/
def mwSrcbank (w : Nat) : Nat := bits w 131 2
/-- APGA. -/
def mwApga (w : Nat) : Nat := bits w 119 12
/-- APGB. -/
def mwApgb (w : Nat) : Nat := bits w 107 12
/-- CAPCTL.CAPSEL (R172). -/
def mwCapsel (w : Nat) : Nat := bits w 105 2
/-- CAPCTL.TRIGEN. -/
def mwTrigen (w : Nat) : Bool := bitAt w 104
/-- CAPCTL.ARM. -/
def mwArm (w : Nat) : Bool := bitAt w 103
/-- CAPCTL.DISARM. -/
def mwDisarm (w : Nat) : Bool := bitAt w 102
/-- CAPCTL.TRIGMARK. -/
def mwMark (w : Nat) : Nat := bits w 99 3
/-- MASKSET. -/
def mwMaskset (w : Nat) : Nat := bits w 91 8
/-- COND. -/
def mwCond (w : Nat) : Nat := bits w 85 6
/-- LOOPSEL. -/
def mwLoopsel (w : Nat) : Nat := bits w 81 4
/-- COMMIT (R176). -/
def mwCommit (w : Nat) : Nat := bits w 79 2
/-- EVENT. -/
def mwEvent (w : Nat) : Nat := bits w 73 6
/-- LEVELSET. -/
def mwLevelset (w : Nat) : Nat := bits w 65 8
/-- SITESET. -/
def mwSiteset (w : Nat) : Nat := bits w 57 8
/-- TIUCTL.UNIT (R179). -/
def mwTiuUnit (w : Nat) : Nat := bits w 53 4
/-- TIUCTL.ACT. -/
def mwTiuAct (w : Nat) : Nat := bits w 51 2
/-- STREAM.CH (R181). -/
def mwStrCh (w : Nat) : Nat := bits w 46 3
/-- STREAM.ACT. -/
def mwStrAct (w : Nat) : Nat := bits w 43 3
/-- WAITLIM. -/
def mwWaitlim (w : Nat) : Nat := bits w 31 12
/-- The wait limit in vc (R183). -/
def mwWaitVc (w : Nat) : Nat := (bits w 31 8 + 1) * 2 ^ bits w 39 4
/-- FLAGOP.OPN (R184). -/
def mwFlagOp (w : Nat) : Nat := bits w 29 2
/-- FLAGOP.FLAG. -/
def mwFlag (w : Nat) : Nat := bits w 23 4
/-- DCTL (R185). -/
def mwDctl (w : Nat) : Nat := bits w 19 4

/-- The word is a WAIT or a MATCH. -/
def mwWaits (w : Nat) : Bool := decide (mwOp w = 0x10) || decide (mwOp w = 0x11)

/-- The word is a commit-wait word (R177). -/
def mwCwait (w : Nat) : Bool := decide (mwCommit w = 1)

/-- The word uses a waiting-mode feature (R191). -/
def mwWaiting (w : Nat) : Bool := mwWaits w || mwCwait w

/-- OP is one of R163. -/
def opKnown (o : Nat) : Bool := decide (o ≤ 0x0B) || o == 0x10 || o == 0x11 || o == 0x18 || o == 0x3F

/-- TARGET[23:18] is zero. -/
def tHighZero (w : Nat) : Bool := decide (bits w 180 6 = 0)

/-- TARGET, COND and LOOPSEL are as R163 requires of the word's OP. -/
def operandsOk (w : Nat) : Bool :=
  let o := mwOp w
  let condZero := decide (mwCond w = 0)
  let loopZero := decide (mwLoopsel w = 0)
  let tZero := decide (mwTarget w = 0)
  if o = 0x00 || o = 0x03 || o = 0x18 || o = 0x3F then tZero && condZero && loopZero
  else if o = 0x01 || o = 0x02 then tHighZero w && condZero && loopZero
  else if o = 0x04 || o = 0x05 || o = 0x06 || o = 0x11 then tHighZero w && !condZero && loopZero
  else if o = 0x07 then tZero && !condZero && loopZero
  else if o = 0x08 then decide (bits w 168 18 = 0) && condZero
  else if o = 0x09 || o = 0x0B then condZero
  else if o = 0x0A then tHighZero w && condZero
  else tHighZero w && loopZero && (!condZero || mwCwait w)

/-- The REASON of the lowest failing test of R189, or 0 for a legal word. -/
def mwReason (w : Nat) : Nat :=
  if bits w 0 19 ≠ 0 then 0x3
  else if !opKnown (mwOp w) then 0x4
  else if !operandsOk w then 0x5
  else if (mwWaits w && mwRepeat w ≠ 0) || (!mwWaits w && mwWaitlim w ≠ 0) then 0x6
  else if mwCommit w = 3 || (mwCwait w && !(mwOp w == 0x10 && mwCond w == 0)) then 0x7
  else if mwArm w && mwDisarm w then 0x8
  else if bits w 49 2 ≠ 0 then 0x9
  else if 4 < mwStrAct w || (3 ≤ mwStrAct w && mwStrCh w ≠ 0) then 0xA
  else if bits w 27 2 ≠ 0 || (mwFlagOp w = 0 && mwFlag w ≠ 0) then 0xB
  else if 4 < mwDctl w then 0xC
  else 0

/-- The columns of R187: the 16-bit values with exactly three bits set, ascending. -/
def checkColumns : List Nat :=
  (List.range 12).flatMap fun a => (List.range a).flatMap fun b => (List.range b).map fun c => 2 ^ a + 2 ^ b + 2 ^ c

/-- The column of protected bit p. -/
def checkColumn (p : Nat) : Nat := checkColumns.getD p 0

/-- K + 2^12 × Q of R187 over n protected bits. -/
def codeSum (n v : Nat) : Nat :=
  ((List.range n).filter (bitAt v)).foldl (fun x p => x ^^^ checkColumn p ^^^ 2 ^ (12 + p % 4)) 0

/-- The check bits over nb bits of a word w and na bits of its address a (R187, R299). -/
def codeBits (nb na w a : Nat) : Nat := 0xFFFF ^^^ codeSum (nb + na) (w % 2 ^ nb + (a % 2 ^ na) * 2 ^ nb)

/-- The check bits of a microword at a slot (R187). -/
def checkBits (w slot : Nat) : Nat := codeBits 192 18 w slot

/-- What a read of a protected row gives (R188). -/
inductive RowRead where
  | clean (w : Nat)
  | corrected (w : Nat)
  | addressError
  | uncorrectable
  deriving DecidableEq, Repr

/-- The read rule of R188 over the stored bits and the address that was asked for. -/
def readCode (nb na w chk a : Nat) : RowRead :=
  let syn := chk ^^^ codeBits nb na w a
  let lo := syn % 2 ^ 12
  let hi := syn / 2 ^ 12
  if lo = 0 then (if hi = 0 then .clean w else .uncorrectable)
  else if popcount 12 lo = 1 then (if hi = 0 then .corrected w else .uncorrectable)
  else
    match indexOf? (fun c => c == lo) checkColumns with
    | some p =>
      if p < nb then
        if hi ^^^ 2 ^ (p % 4) = 0 then .corrected (w ^^^ 2 ^ p) else .uncorrectable
      else if p < nb + na then .addressError else .uncorrectable
    | none => .uncorrectable

/-- The read rule for a microword. -/
def readRow (w chk slot : Nat) : RowRead := readCode 192 18 w chk slot

end Sys2Proof.Machine
end

