-- ==== Sys2Proof/Machine/Map.lean ====
section
/-! DEFINITION. Sparse maps from natural numbers: lists of (key, value) pairs in one canonical form, keys strictly rising
and no entry equal to what an unlisted key reads as, so that equal maps are equal lists. Every register file, table and
memory of the model is one of these. -/

namespace Sys2Proof.Machine

/-- What key k reads as, with d at an unlisted key. -/
def Assoc.get {α : Type} (d : α) : List (Nat × α) → Nat → α
  | [], _ => d
  | (k', v) :: m, k => if k = k' then v else Assoc.get d m k

/-- The map with an entry put at key k, in its place in the order. -/
def Assoc.insert {α : Type} : List (Nat × α) → Nat → α → List (Nat × α)
  | [], k, v => [(k, v)]
  | (k', v') :: m, k, v =>
    if k < k' then (k, v) :: (k', v') :: m
    else if k = k' then (k, v) :: m
    else (k', v') :: Assoc.insert m k v

/-- The map with every entry at key k taken out. -/
def Assoc.erase {α : Type} : List (Nat × α) → Nat → List (Nat × α)
  | [], _ => []
  | (k', v') :: m, k => if k = k' then Assoc.erase m k else (k', v') :: Assoc.erase m k

/-- The map that reads v at key k and as before elsewhere: writing d takes the entry out. -/
def Assoc.set {α : Type} [DecidableEq α] (d : α) (m : List (Nat × α)) (k : Nat) (v : α) : List (Nat × α) :=
  if v = d then Assoc.erase m k else Assoc.insert m k v

/-- Keys strictly rising. -/
def Assoc.sorted {α : Type} : List (Nat × α) → Bool
  | [] => true
  | [_] => true
  | (k, _) :: (k', v') :: m => decide (k < k') && Assoc.sorted ((k', v') :: m)

/-- The canonical form: keys strictly rising, and no entry equal to the default d. -/
def Assoc.wf {α : Type} [DecidableEq α] (d : α) (m : List (Nat × α)) : Bool :=
  Assoc.sorted m && m.all fun e => decide (e.2 ≠ d)

end Sys2Proof.Machine
end

