-- ==== Sys2Proof/Config.lean ====
section
/-! DEFINITION. What the manual fixes at manufacture or leaves open. Every constant here is opaque: no proof can see its
value, so a statement about one holds whatever it is. -/

namespace Sys2Proof.Config

/-- Free value number `n` (log entry 4). A step that meets a value the manual leaves open reads
`freeValue s.freeCtr` and advances the counter. -/
opaque freeValue : Nat → Nat

/-- The unique die identifier, "factory value" (R813, R819): word 0 and word 1. -/
opaque glbUid : Nat → Nat

/-- The SHA-384 hash of the vendor public key, in fuses of the core die (R595). -/
opaque vendorKeyHash : Nat

/-- The land-node-to-land delay of channel c in 1/16 ps, "factory value" (R572). -/
opaque landDelay : Nat → Nat

/-- Coefficient t of the filter that coefficient set 0 resets to; R471 gives its properties and no coefficients. -/
opaque firSet0 : Nat → Nat

/-- FRZ_MAPCNT, "factory value" (R765). -/
opaque scanMapCount : Nat

/-- Record i of the scan map (R758): the register's BAR0 offset, its chain, and the chain bit of register bit 0. -/
opaque scanMap : Nat → Nat × Nat × Nat

/-- The channels of the 32 granules of a 2 KiB block of HBM: "the mapping is otherwise internal" (R650). -/
opaque hbmBlock (block : Nat) : List Nat

/-- The places, among the 31 channels left, of the 31 granules that a retired channel gives up in a span of 31 blocks (R650). -/
opaque hbmSpare (channel span : Nat) : List Nat

/-- What the other members of the group contribute to group condition k in rc r, where the device has any (R146): they are outside
the device, and no command carries their bits. -/
opaque groupOthers (k r : Nat) : Bool

end Sys2Proof.Config
end

