-- ==== Sys2Proof/Machine/Sources.lean ====
section
/-! DEFINITION. The numbers of the event sources (R720 to R722) and their classes at reset (R725). Within a block's range
the numbers follow the order in which the manual first names the block's events (R721). -/

namespace Sys2Proof.Machine

def srcFclSelf : Nat := 0
def srcSafeEnter : Nat := 1
def srcFrzEnter : Nat := 2
def srcFrzDone : Nat := 3
def srcFrzThaw : Nat := 4
def srcReset : Nat := 5
def srcPwrSeqErr : Nat := 6
def srcPwrLoss : Nat := 7
def srcEvrRestored : Nat := 8
def srcClaimDenied : Nat := 9
def srcFclOvf : Nat := 10
def srcFclPromote : Nat := 11
def srcThermWarn : Nat := 12
def srcThermalStop : Nat := 13
def srcThermTrip : Nat := 14
def srcPwrOverclass : Nat := 15
def srcPwrAdmitRef : Nat := 16
def srcPmgState : Nat := 17
def srcCmtWrefuse : Nat := 32
def srcCmtAbort : Nat := 33
def srcCmtLost : Nat := 34
def srcCmtHrvMiss : Nat := 35
def srcRefLoss : Nat := 40
def srcRefBack : Nat := 41
def srcOvenLow : Nat := 42
def srcVclkUnlock : Nat := 43
def srcHopSlip : Nat := 44
def srcTrellisDown : Nat := 45
def srcSyncFail : Nat := 46
def srcSyncSkew : Nat := 47
def srcSeqCmark : Nat := 56
def srcSeqPevent : Nat := 57
def srcSeqStrmClosed : Nat := 58
def srcSeqCsWerr : Nat := 59
def srcSeqCsWlock : Nat := 60
def srcSeqCsUerr : Nat := 61
def srcSeqRange : Nat := 62
def srcSeqStkOvf : Nat := 63
def srcSeqStkUnf : Nat := 64
def srcSeqUnrooted : Nat := 65
def srcSeqWaitexp : Nat := 66
def srcSeqEnd : Nat := 67
def srcSegEndData : Nat := 80
def srcSegVfeed : Nat := 81
def srcSegWlock : Nat := 82
def srcSegPlref : Nat := 83
def srcSegUndr : Nat := 84
def srcApgPwerr : Nat := 96
def srcApgPerr : Nat := 97
def srcApgInvexec : Nat := 98
def srcApgPlock : Nat := 99
def srcCapMviol : Nat := 104
def srcCapFire : Nat := 105
def srcCapCfgerr : Nat := 106
def srcCapDrop : Nat := 107
def srcCapFcDrop : Nat := 108
def srcPtfTsrej : Nat := 120
def srcPtfRunt : Nat := 121
def srcPtfShadow : Nat := 122
def srcPtfCfgerr : Nat := 123
def srcChUntrusted : Nat := 128
def srcLvlLsrej : Nat := 129
def srcLvlCfgerr : Nat := 130
def srcLvlUnset : Nat := 131
def srcLvlRblate : Nat := 132
def srcTiuDone : Nat := 136
def srcTiuCallate : Nat := 137
def srcTiuCalfail : Nat := 138
def srcPmuCtdone : Nat := 144
def srcGrdPolrev : Nat := 152
def srcGrdEnvref : Nat := 153
def srcGrdTwin : Nat := 154
def srcGrdRail : Nat := 155
def srcGrdIlim : Nat := 156
def srcCleLost : Nat := 168
def srcCleSign : Nat := 169
def srcCleHold : Nat := 170
def srcTempSettled : Nat := 171
def srcCleThdrift : Nat := 172
def srcCalRefbad : Nat := 176
def srcCalLate : Nat := 177
def srcCalRefused : Nat := 178
def srcCalDone : Nat := 179
def srcCalFail : Nat := 180
def srcRscLockstep : Nat := 184
def srcScnWilted : Nat := 185
def srcScnDead : Nat := 186
def srcFwDone : Nat := 187
def srcRscTakeover : Nat := 188
def srcTskDeperr : Nat := 200
def srcTskDisp (c : Nat) : Nat := 201 + c
def srcTskFail : Nat := 217
def srcQueDrop : Nat := 232
def srcQueVrdrop : Nat := 233
def srcHbcFence : Nat := 240
def srcHbcHot : Nat := 241
def srcHbcUe : Nat := 242
def srcHbcRetired : Nat := 243
def srcLnkRemap : Nat := 256
def srcPcieDown : Nat := 257
def srcWtmSync : Nat := 272
def srcSw (n : Nat) : Nat := 280 + n

/-- The sources that reset to severe (R725). -/
def severeAtReset : List Nat :=
  [srcSafeEnter, srcPwrSeqErr, srcPwrLoss, srcThermalStop, srcThermTrip, srcCmtLost, srcRefLoss, srcVclkUnlock,
   srcHopSlip, srcTrellisDown, srcSeqCsUerr, srcApgPerr, srcPtfCfgerr, srcLvlCfgerr, srcChUntrusted, srcGrdTwin,
   srcGrdRail, srcCleSign, srcCleLost, srcRscLockstep, srcRscTakeover, srcScnWilted, srcScnDead, srcHbcUe, srcHbcHot,
   srcPcieDown]

/-- The sources that reset to warning (R725). -/
def warningAtReset : List Nat :=
  [srcCmtAbort, srcSegVfeed, srcSegUndr, srcCapFcDrop, srcQueVrdrop, srcCalFail, srcTiuCalfail, srcGrdIlim,
   srcCleThdrift, srcThermWarn, srcHbcRetired, srcLnkRemap]

/-- CLASS of source s after a reset (R725): 0 info, 1 warning, 2 severe, 3 fatal. -/
def classReset (s : Nat) : Nat :=
  if s = 0 then 3 else if severeAtReset.contains s then 2 else if warningAtReset.contains s then 1 else 0

/-- The condition sources of R723; every other source is a pulse source. -/
def conditionSource (s : Nat) : Bool :=
  [srcGrdRail, srcGrdPolrev, srcHbcHot, srcRefLoss, srcTrellisDown, srcPcieDown].contains s

end Sys2Proof.Machine
end

