-- ==== Sys2Proof/Machine/Regs.lean ====
section
/-! DEFINITION. The register map (R807 to R814 and the register tables of every chapter), field by field: one constant per
field, with its BAR0 offset, lowest bit, width and reset value, and per block the table of its registers with their
instances, access types (R17, R819), harvest images (R86) and commit classes (R61). Reserved bits are not listed: they
read 0 and ignore writes (R15). A reset value that the manual gives as "stored" or leaves to firmware is 0 here
(log entry 2); a "factory value" reads an opaque constant. -/

namespace Sys2Proof.Machine

/-- A register field: BAR0 offset of its register, lowest bit, width, reset value. -/
structure Field where
  off : Nat
  lo : Nat
  width : Nat
  rst : Nat
  deriving DecidableEq, Repr

/-- The access types of R17 and R819. rso1 is "RSO, W1S"; w1sr is "RO, W1S" (reads live, a one sets); w1cl reads a live
value and is cleared by its own rule; rwg is the monitor configuration of R510, RSO for monitors from 288; rwf is a field
that firmware writes and host writes leave (R676). -/
inductive Acc where
  | ro | rw | wo | w1c | w1s | rwc | rso | rso1 | w1sr | w1cl | rwg | rwf
  deriving DecidableEq, Repr

/-- A field of a register with its access type; live: its value is computed from other state, not stored. -/
structure FieldDesc where
  fld : Field
  acc : Acc
  live : Bool
  deriving DecidableEq, Repr

/-- A register, or a family of up to three indices of registers at fixed strides; hrv: it has a harvest image; perReq:
it is held once per requester; cls: the commit class it belongs to. -/
structure RegDesc where
  name : String
  base : Nat
  n1 : Nat
  s1 : Nat
  n2 : Nat
  s2 : Nat
  n3 : Nat
  s3 : Nat
  hrv : Bool
  perReq : Bool
  cls : Option Nat
  flds : Nat → Nat → Nat → List FieldDesc

/-- Coefficient t of filter set s at reset: set 0 is the filter of R471, the others 0 (R482). -/
def firReset (s t : Nat) : Nat := if s = 0 then Config.firSet0 t % 2 ^ 24 else 0

/-- GRD_m_CFG.MODE at reset (R511). -/
def grdModeReset (m : Nat) : Nat := if m < 288 then 2 else 1

/-- GRD_m_CFG.SRC at reset (R511). -/
def grdSrcReset (m : Nat) : Nat := if m < 256 then 1 else if m < 288 then 0 else 1

/-- GRD_m_CFG.K at reset (R511). -/
def grdKReset (m : Nat) : Nat := if m < 288 then 1 else 2

/-- GRD_m_CFG.N at reset (R511). -/
def grdNReset (m : Nat) : Nat := if m < 288 then 1 else 3

/-- GRD_m_THR.HI at reset (R511); the thresholds of internal-rail monitors are set by Rootstock and read 0 before it
sets them (log entry 2). -/
def grdHiReset (m : Nat) : Nat := if m < 256 then 0x7D00 else if m < 288 then 0x7530 else 0

/-- GRD_m_THR.LO at reset (R511). -/
def grdLoReset (m : Nat) : Nat := if m < 256 then 0xD120 else if m < 288 then 0xFCE0 else 0

def GLB_IDENT_PART : Field := ⟨0x0, 16, 16, 0x9512⟩
def GLB_IDENT_FAMILY : Field := ⟨0x0, 8, 8, 0x45⟩
def GLB_IDENT_BUILD : Field := ⟨0x0, 0, 8, 0xfa⟩
def GLB_REV_ROMVER : Field := ⟨0x4, 16, 16, 1⟩
def GLB_REV_STEP : Field := ⟨0x4, 0, 8, 0xb0⟩
def GLB_UID_LO : Field := ⟨0x8, 0, 32, 0⟩
def GLB_UID_HI : Field := ⟨0xc, 0, 32, 0⟩
def GLB_OPTIONS : Field := ⟨0x10, 0, 24, 0xffffff⟩
def GLB_SUMMARY : Field := ⟨0x14, 0, 32, 0⟩
def GLB_BADACC : Field := ⟨0x18, 0, 32, 0⟩
def GLB_SCRATCH : Field := ⟨0x1c, 0, 32, 0⟩
def GLB_RST_CAUSE_KIND : Field := ⟨0x20, 28, 4, 1⟩
def GLB_RST_CAUSE_SRC : Field := ⟨0x20, 24, 4, 0⟩
def GLB_RST_CAUSE_PWRLOSS : Field := ⟨0x20, 23, 1, 0⟩
def GLB_RST_CAUSE_SAFE : Field := ⟨0x20, 22, 1, 0⟩
def GLB_RST_CAUSE_SCAUSE : Field := ⟨0x20, 16, 4, 0⟩
def GLB_RST_CAUSE_FROZEN : Field := ⟨0x20, 15, 1, 0⟩
def GLB_RST_COUNT_WARM : Field := ⟨0x24, 16, 16, 0⟩
def GLB_RST_COUNT_COLD : Field := ⟨0x24, 0, 16, 0⟩
def GLB_NFLR : Field := ⟨0x28, 0, 32, 0⟩
def PTF_STATUS_ACTBAD : Field := ⟨0x800, 1, 1, 0⟩
def PTF_STATUS_REVAL : Field := ⟨0x800, 0, 1, 0⟩
def PTF_NREJ : Field := ⟨0x804, 0, 32, 0⟩
def PTF_NRUNT : Field := ⟨0x808, 0, 32, 0⟩
def PTF_NSHADOW : Field := ⟨0x80c, 0, 32, 0⟩
def PTF_NCFG : Field := ⟨0x810, 0, 32, 0⟩
def PTF_TSREF (r : Nat) : Field := ⟨0x880 + 0x4 * r, 0, 32, 0⟩
def PTF_TSBAD (r : Nat) : Field := ⟨0x900 + 0x4 * r, 0, 32, 0⟩
def PTF_CHBAD (r : Nat) : Field := ⟨0x980 + 0x4 * r, 0, 32, 0⟩
def LVL_CTRL_RBPERIOD : Field := ⟨0xa00, 0, 14, 0x3e8⟩
def LVL_STATUS_RBREF : Field := ⟨0xa04, 3, 1, 0⟩
def LVL_STATUS_RBLATE : Field := ⟨0xa04, 2, 1, 0⟩
def LVL_STATUS_ACTBAD : Field := ⟨0xa04, 1, 1, 0⟩
def LVL_STATUS_REVAL : Field := ⟨0xa04, 0, 1, 0⟩
def LVL_NREJ : Field := ⟨0xa08, 0, 32, 0⟩
def LVL_UNSETTLED : Field := ⟨0xa0c, 0, 32, 0⟩
def LVL_NCFG : Field := ⟨0xa10, 0, 32, 0⟩
def LVL_NUNTR : Field := ⟨0xa14, 0, 32, 0⟩
def LVL_LSREF (r : Nat) : Field := ⟨0xa80 + 0x4 * r, 0, 32, 0⟩
def LVL_LSBAD (r : Nat) : Field := ⟨0xaa0 + 0x4 * r, 0, 32, 0⟩
def LVL_CHBAD (r : Nat) : Field := ⟨0xac0 + 0x4 * r, 0, 32, 0⟩
def LVL_UNTR (r : Nat) : Field := ⟨0xae0 + 0x4 * r, 0, 32, 0⟩
def GLB_FW_CMD_CMD : Field := ⟨0xc00, 24, 8, 0⟩
def GLB_FW_CMD_TAG : Field := ⟨0xc00, 0, 16, 0⟩
def GLB_FW_ARG (i : Nat) : Field := ⟨0xc04 + 0x4 * i, 0, 32, 0⟩
def GLB_FW_STATUS_BUSY : Field := ⟨0xc14, 31, 1, 0⟩
def GLB_FW_STATUS_REFUSED : Field := ⟨0xc14, 30, 1, 0⟩
def GLB_FW_STATUS_RESULT : Field := ⟨0xc14, 16, 8, 0⟩
def GLB_FW_STATUS_TAG : Field := ⟨0xc14, 0, 16, 0⟩
def GLB_FW_SEQ : Field := ⟨0xc18, 0, 32, 0⟩
def CMT_GVC_LO : Field := ⟨0x10000, 0, 32, 0⟩
def CMT_GVC_HI : Field := ⟨0x10004, 0, 32, 0⟩
def CMT_HOPS : Field := ⟨0x10008, 0, 4, 0⟩
def CMT_LEAD_VC : Field := ⟨0x1000c, 0, 32, 0⟩
def CMT_CTRL_TAG : Field := ⟨0x10010, 16, 16, 0⟩
def CMT_CTRL_ACKLOST : Field := ⟨0x10010, 3, 1, 0⟩
def CMT_CTRL_CANCEL : Field := ⟨0x10010, 2, 1, 0⟩
def CMT_CTRL_RETRY_EN : Field := ⟨0x10010, 1, 1, 0⟩
def CMT_CTRL_GO : Field := ⟨0x10010, 0, 1, 0⟩
def CMT_SCOPE : Field := ⟨0x10014, 0, 9, 0⟩
def CMT_TARGET_LO : Field := ⟨0x10018, 0, 32, 0⟩
def CMT_TARGET_HI : Field := ⟨0x1001c, 0, 32, 0⟩
def CMT_STATUS_GOREF : Field := ⟨0x10020, 16, 4, 0⟩
def CMT_STATUS_RETRYLEFT : Field := ⟨0x10020, 8, 8, 0⟩
def CMT_STATUS_LAST : Field := ⟨0x10020, 6, 2, 0⟩
def CMT_STATUS_ROOT : Field := ⟨0x10020, 5, 1, 1⟩
def CMT_STATUS_INSYNC : Field := ⟨0x10020, 4, 1, 0⟩
def CMT_STATUS_RESYNC : Field := ⟨0x10020, 3, 1, 0⟩
def CMT_STATUS_LOCKED : Field := ⟨0x10020, 2, 1, 0⟩
def CMT_STATUS_VOTED : Field := ⟨0x10020, 1, 1, 0⟩
def CMT_STATUS_PENDING : Field := ⟨0x10020, 0, 1, 0⟩
def CMT_ABORT_CAUSE_REASON : Field := ⟨0x10024, 28, 4, 0⟩
def CMT_ABORT_CAUSE_DEVID : Field := ⟨0x10024, 0, 13, 0⟩
def CMT_LAST_LO : Field := ⟨0x10028, 0, 32, 0⟩
def CMT_LAST_HI : Field := ⟨0x1002c, 0, 32, 0⟩
def CMT_READY : Field := ⟨0x10030, 0, 9, 0⟩
def CMT_SBUSY : Field := ⟨0x10034, 0, 9, 0⟩
def CMT_RETRY_STEP : Field := ⟨0x10038, 16, 16, 0⟩
def CMT_RETRY_COUNT : Field := ⟨0x10038, 0, 8, 0⟩
def CMT_WREFUSED : Field := ⟨0x1003c, 0, 32, 0⟩
def CMT_NCOMMIT : Field := ⟨0x10040, 0, 32, 0⟩
def CMT_NABORT : Field := ⟨0x10044, 0, 32, 0⟩
def CMT_NLOST : Field := ⟨0x10048, 0, 32, 0⟩
def CMT_LAST_TAG : Field := ⟨0x1004c, 0, 16, 0⟩
def CMT_HRV_CTRL_HOLD : Field := ⟨0x10050, 3, 1, 0⟩
def CMT_HRV_CTRL_LOCAL : Field := ⟨0x10050, 2, 1, 0⟩
def CMT_HRV_CTRL_CANCEL : Field := ⟨0x10050, 1, 1, 0⟩
def CMT_HRV_CTRL_GO : Field := ⟨0x10050, 0, 1, 0⟩
def CMT_HRV_TARGET_LO : Field := ⟨0x10054, 0, 32, 0⟩
def CMT_HRV_TARGET_HI : Field := ⟨0x10058, 0, 32, 0⟩
def CMT_HRV_STATUS_GOREF : Field := ⟨0x1005c, 4, 4, 0⟩
def CMT_HRV_STATUS_MISSED : Field := ⟨0x1005c, 3, 1, 0⟩
def CMT_HRV_STATUS_SHOWN : Field := ⟨0x1005c, 2, 1, 0⟩
def CMT_HRV_STATUS_HELD : Field := ⟨0x1005c, 1, 1, 0⟩
def CMT_HRV_STATUS_PENDING : Field := ⟨0x1005c, 0, 1, 0⟩
def CMT_HRV_GVC_LO : Field := ⟨0x10060, 0, 32, 0⟩
def CMT_HRV_GVC_HI : Field := ⟨0x10064, 0, 32, 0⟩
def CMT_HRV_SEQ : Field := ⟨0x10068, 0, 32, 0⟩
def CMT_VRD_CTRL_CONFIRM : Field := ⟨0x10070, 1, 1, 1⟩
def CMT_VRD_CTRL_NOCMP_PASS : Field := ⟨0x10070, 0, 1, 0⟩
def CMT_INTEG_ABAD : Field := ⟨0x10074, 16, 9, 0⟩
def CMT_INTEG_SBAD : Field := ⟨0x10074, 0, 9, 0⟩
def CMT_NINTEG : Field := ⟨0x10078, 0, 32, 0⟩
def CMT_VRD_SITE (n : Nat) : Field := ⟨0x10100 + 0x4 * n, 0, 32, 0⟩
def CLK_CTRL_AUTORELOCK : Field := ⟨0x20000, 2, 1, 1⟩
def CLK_CTRL_HOLD : Field := ⟨0x20000, 1, 1, 0⟩
def CLK_CTRL_RELOCK : Field := ⟨0x20000, 0, 1, 0⟩
def CLK_STATUS_SYNCSKEW : Field := ⟨0x20004, 10, 1, 0⟩
def CLK_STATUS_SLIP : Field := ⟨0x20004, 9, 1, 0⟩
def CLK_STATUS_UNLOCKED : Field := ⟨0x20004, 8, 1, 0⟩
def CLK_STATUS_CFGERR : Field := ⟨0x20004, 7, 1, 0⟩
def CLK_STATUS_RLREF : Field := ⟨0x20004, 6, 1, 0⟩
def CLK_STATUS_REFLOST : Field := ⟨0x20004, 5, 1, 1⟩
def CLK_STATUS_AOSRC : Field := ⟨0x20004, 4, 1, 1⟩
def CLK_STATUS_WARM : Field := ⟨0x20004, 3, 1, 1⟩
def CLK_STATUS_OVEN : Field := ⟨0x20004, 2, 1, 0⟩
def CLK_STATUS_GATE : Field := ⟨0x20004, 1, 1, 0⟩
def CLK_STATUS_LOCKED : Field := ⟨0x20004, 0, 1, 0⟩
def CLK_VCLK_CFG_UIPV : Field := ⟨0x20008, 14, 2, 0⟩
def CLK_VCLK_CFG_DIV : Field := ⟨0x20008, 11, 3, 3⟩
def CLK_VCLK_CFG_N : Field := ⟨0x20008, 0, 8, 0x80⟩
def CLK_VCLK_FRAC : Field := ⟨0x2000c, 0, 24, 0⟩
def CLK_VCLK_KHZ : Field := ⟨0x20010, 0, 32, 0⟩
def CLK_WARMUP : Field := ⟨0x20014, 0, 16, 0x708⟩
def CLK_WARM_S : Field := ⟨0x20018, 0, 32, 0⟩
def CLK_NRELOCK : Field := ⟨0x2001c, 0, 32, 0⟩
def CLK_GRP_CTRL_SYNCIN_EN : Field := ⟨0x20020, 5, 1, 0⟩
def CLK_GRP_CTRL_FORCE : Field := ⟨0x20020, 4, 1, 0⟩
def CLK_GRP_CTRL_JOIN : Field := ⟨0x20020, 3, 1, 0⟩
def CLK_GRP_CTRL_START : Field := ⟨0x20020, 2, 1, 0⟩
def CLK_GRP_CTRL_FORM : Field := ⟨0x20020, 1, 1, 0⟩
def CLK_GRP_STATUS_FAIL : Field := ⟨0x20024, 28, 4, 0⟩
def CLK_GRP_STATUS_STARTED : Field := ⟨0x20024, 4, 1, 0⟩
def CLK_GRP_STATUS_JOINPEND : Field := ⟨0x20024, 3, 1, 0⟩
def CLK_GRP_STATUS_STARTPEND : Field := ⟨0x20024, 2, 1, 0⟩
def CLK_GRP_STATUS_FORMING : Field := ⟨0x20024, 1, 1, 0⟩
def CLK_GRP_STATUS_FORMED : Field := ⟨0x20024, 0, 1, 0⟩
def CLK_DEVID : Field := ⟨0x20028, 0, 13, 0⟩
def CLK_ID_REQ_VALID : Field := ⟨0x2002c, 13, 1, 0⟩
def CLK_ID_REQ_ID : Field := ⟨0x2002c, 0, 13, 0⟩
def CLK_DEPTH_DOWN : Field := ⟨0x20030, 8, 4, 0⟩
def CLK_DEPTH_UP : Field := ⟨0x20030, 4, 4, 0xf⟩
def CLK_DEPTH_D : Field := ⟨0x20030, 0, 4, 0⟩
def CLK_GRP_SIZE : Field := ⟨0x20034, 0, 14, 1⟩
def CLK_GRP_NOSYNC : Field := ⟨0x20038, 0, 14, 0⟩
def CLK_GRP_LEFTOUT : Field := ⟨0x2003c, 0, 14, 0⟩
def CLK_HOPLAT_TOOLONG (p : Nat) : Field := ⟨0x20040 + 0x4 * p, 17, 1, 0⟩
def CLK_HOPLAT_TREE (p : Nat) : Field := ⟨0x20040 + 0x4 * p, 16, 1, 0⟩
def CLK_HOPLAT_RAW (p : Nat) : Field := ⟨0x20040 + 0x4 * p, 0, 16, 0⟩
def CLK_START_GVC_LO : Field := ⟨0x20050, 0, 32, 0⟩
def CLK_START_GVC_HI : Field := ⟨0x20054, 0, 32, 0⟩
def CLK_EPOCH_LO : Field := ⟨0x20058, 0, 32, 0⟩
def CLK_EPOCH_HI : Field := ⟨0x2005c, 0, 32, 0⟩
def CLK_ALIGN : Field := ⟨0x20060, 0, 6, 0⟩
def CLK_JOIN : Field := ⟨0x20068, 0, 13, 0⟩
def CLK_GC_CFG_OP : Field := ⟨0x20070, 8, 8, 0⟩
def CLK_GC_CFG_EN : Field := ⟨0x20070, 0, 8, 0⟩
def CLK_GC_PATH : Field := ⟨0x20074, 0, 16, 0⟩
def CLK_GC_AGE : Field := ⟨0x20078, 0, 16, 0⟩
def CLK_GC_SRC (i : Nat) : Field := ⟨0x20080 + 0x4 * i, 0, 6, 0⟩
def CLK_SYNC_CFG_EXPECT : Field := ⟨0x200a0, 16, 16, 0⟩
def CLK_SYNC_CFG_CHK : Field := ⟨0x200a0, 0, 1, 0⟩
def CLK_SYNC_SKEW : Field := ⟨0x200a4, 0, 16, 0⟩
def CLK_NSLIP : Field := ⟨0x200a8, 0, 32, 0⟩
def PMG_CTRL_DORMANT : Field := ⟨0x30000, 31, 1, 0⟩
def PMG_CTRL_WAKE : Field := ⟨0x30000, 30, 1, 0⟩
def PMG_CTRL_BUDDING : Field := ⟨0x30000, 29, 1, 0⟩
def PMG_CTRL_BLOOM : Field := ⟨0x30000, 28, 1, 0⟩
def PMG_STATUS_STATE : Field := ⟨0x30004, 29, 3, 0⟩
def PMG_STATUS_REF : Field := ⟨0x30004, 25, 4, 0⟩
def PMG_STATUS_REFUSED : Field := ⟨0x30004, 24, 1, 0⟩
def PMG_STATUS_STOPHOLD : Field := ⟨0x30004, 4, 1, 0⟩
def PMG_STATUS_WARN : Field := ⟨0x30004, 3, 1, 0⟩
def PMG_STATUS_TRIPHOLD : Field := ⟨0x30004, 2, 1, 0⟩
def PMG_STATUS_DOMREF : Field := ⟨0x30004, 1, 1, 0⟩
def PMG_CFG_WAITSETTLE : Field := ⟨0x30008, 31, 1, 0⟩
def PMG_CFG_SEVWAKE : Field := ⟨0x30008, 30, 1, 0⟩
def PMG_CFG_LINKWAKE : Field := ⟨0x30008, 29, 1, 0⟩
def PMG_CFG_IDLE_MS : Field := ⟨0x30008, 0, 16, 0⟩
def PMG_PEAK_RES : Field := ⟨0x3000c, 0, 13, 0x1194⟩
def PMG_BUCKET : Field := ⟨0x30010, 0, 13, 0x1194⟩
def PMG_PMEAS : Field := ⟨0x30014, 0, 20, 0⟩
def PMG_PDECL : Field := ⟨0x30018, 0, 20, 0x7ef40⟩
def PMG_NADMREF : Field := ⟨0x3001c, 0, 32, 0⟩
def PMG_NOVER : Field := ⟨0x30020, 0, 32, 0⟩
def PMG_NTSTOP : Field := ⟨0x30024, 0, 32, 0⟩
def PMG_TMAX_DIE : Field := ⟨0x30028, 16, 4, 0⟩
def PMG_TMAX_TEMP : Field := ⟨0x30028, 0, 16, 0⟩
def PMG_DOM_ON0 : Field := ⟨0x30030, 0, 32, 0xffffffff⟩
def PMG_DOM_ON1 : Field := ⟨0x30034, 0, 32, 0xf00fffff⟩
def PMG_DOM_OFF0 : Field := ⟨0x30038, 0, 32, 0⟩
def PMG_DOM_OFF1 : Field := ⟨0x3003c, 0, 32, 0⟩
def PMG_NOFFWR : Field := ⟨0x30040, 0, 32, 0⟩
def PMG_WAKE_US : Field := ⟨0x30044, 0, 26, 0⟩
def PMG_TEMP_FAULT (d : Nat) : Field := ⟨0x30060 + 0x4 * d, 16, 1, 0⟩
def PMG_TEMP_T (d : Nat) : Field := ⟨0x30060 + 0x4 * d, 0, 16, 0⟩
def FCL_CTRL_WARMRST : Field := ⟨0x40000, 0, 1, 0⟩
def FCL_STATUS_SAFE : Field := ⟨0x40004, 31, 1, 0⟩
def FCL_STATUS_RAMPING : Field := ⟨0x40004, 30, 1, 0⟩
def FCL_STATUS_RAMPDONE : Field := ⟨0x40004, 29, 1, 0⟩
def FCL_STATUS_SELF : Field := ⟨0x40004, 28, 1, 0⟩
def FCL_STATUS_SCAUSE : Field := ⟨0x40004, 24, 4, 0⟩
def FCL_STATUS_CLRREF : Field := ⟨0x40004, 2, 1, 0⟩
def FCL_STATUS_SWREF : Field := ⟨0x40004, 1, 1, 0⟩
def FCL_FIRST_LATCHED : Field := ⟨0x40008, 31, 1, 0⟩
def FCL_FIRST_ACTIVE : Field := ⟨0x40008, 30, 1, 0⟩
def FCL_FIRST_OVF : Field := ⟨0x40008, 29, 1, 0⟩
def FCL_FIRST_PROMOTED : Field := ⟨0x40008, 28, 1, 0⟩
def FCL_FIRST_CLASS : Field := ⟨0x40008, 26, 2, 0⟩
def FCL_FIRST_SOURCE : Field := ⟨0x40008, 0, 9, 0⟩
def FCL_FIRST_CNT : Field := ⟨0x4000c, 0, 32, 0⟩
def FCL_FIRST_GVC_LO : Field := ⟨0x40010, 0, 32, 0⟩
def FCL_FIRST_GVC_HI : Field := ⟨0x40014, 0, 32, 0⟩
def FCL_FIRST_NS : Field := ⟨0x40018, 0, 32, 0⟩
def FCL_FIRST_SEC_LO : Field := ⟨0x4001c, 0, 32, 0⟩
def FCL_FIRST_SEC_HI : Field := ⟨0x40020, 0, 16, 0⟩
def FCL_FIRST_ARG_VALUE : Field := ⟨0x40024, 16, 16, 0⟩
def FCL_FIRST_ARG_ARG : Field := ⟨0x40024, 0, 16, 0⟩
def FCL_NOVF : Field := ⟨0x40028, 0, 32, 0⟩
def FCL_CLR_CLR : Field := ⟨0x4002c, 0, 1, 0⟩
def FCL_SWEVT_N : Field := ⟨0x40030, 26, 6, 0⟩
def FCL_SWEVT_ARG : Field := ⟨0x40030, 0, 16, 0⟩
def FCL_MS_LO : Field := ⟨0x40034, 0, 32, 0⟩
def FCL_MS_HI : Field := ⟨0x40038, 0, 32, 0⟩
def FCL_ACTIVE (r : Nat) : Field := ⟨0x40040 + 0x4 * r, 0, 32, 0⟩
def FCL_PROMO (r : Nat) : Field := ⟨0x40080 + 0x4 * r, 0, 32, 0⟩
def FCL_SRC_CFG_CLASS (s : Nat) : Field := ⟨0x41000 + 0x8 * s, 30, 2, classReset s⟩
def FCL_SRC_CFG_FRZ (s : Nat) : Field := ⟨0x41000 + 0x8 * s, 28, 2, 0⟩
def FCL_SRC_CFG_OUT (s : Nat) : Field := ⟨0x41000 + 0x8 * s, 24, 4, 0⟩
def FCL_SRC_CFG_ALM (s : Nat) : Field := ⟨0x41000 + 0x8 * s, 23, 1, 0⟩
def FCL_SRC_CFG_PN (s : Nat) : Field := ⟨0x41000 + 0x8 * s, 12, 10, 0⟩
def FCL_SRC_CFG_PSLOT (s : Nat) : Field := ⟨0x41000 + 0x8 * s, 0, 12, 0⟩
def FCL_SRC_CNT (s : Nat) : Field := ⟨0x41004 + 0x8 * s, 0, 32, 0⟩
def EVR_STATUS_SAVING : Field := ⟨0x50000, 0, 1, 0⟩
def EVR_WPTR : Field := ⟨0x50004, 0, 32, 0⟩
def EVR_RIDX : Field := ⟨0x50008, 0, 32, 0⟩
def EVR_RSTAT_GONE : Field := ⟨0x5000c, 1, 1, 0⟩
def EVR_RSTAT_NONE : Field := ⟨0x5000c, 0, 1, 0⟩
def EVR_RSCW_ARG_VALUE : Field := ⟨0x50010, 16, 16, 0⟩
def EVR_RSCW_ARG_ARG : Field := ⟨0x50010, 0, 16, 0⟩
def EVR_RSCW_SRC_CLASS : Field := ⟨0x50014, 9, 2, 0⟩
def EVR_RSCW_SRC_SOURCE : Field := ⟨0x50014, 0, 9, 0⟩
def EVR_RDATA (i : Nat) : Field := ⟨0x50020 + 0x4 * i, 0, 32, 0⟩
def EVR_SIDX_SET : Field := ⟨0x50040, 31, 1, 0⟩
def EVR_SIDX_ENTRY : Field := ⟨0x50040, 0, 12, 0⟩
def EVR_SDATA (i : Nat) : Field := ⟨0x50060 + 0x4 * i, 0, 32, 0⟩
def EVR_SET_INFO_VALID (n : Nat) : Field := ⟨0x50080 + 0x8 * n, 31, 1, 0⟩
def EVR_SET_INFO_CRCOK (n : Nat) : Field := ⟨0x50080 + 0x8 * n, 30, 1, 0⟩
def EVR_SET_INFO_NEWER (n : Nat) : Field := ⟨0x50080 + 0x8 * n, 29, 1, 0⟩
def EVR_SET_INFO_DISCARD (n : Nat) : Field := ⟨0x50080 + 0x8 * n, 0, 1, 0⟩
def EVR_SET_WPTR (n : Nat) : Field := ⟨0x50084 + 0x8 * n, 0, 32, 0⟩
def FRZ_CTRL_HARD : Field := ⟨0x60000, 31, 1, 0⟩
def FRZ_CTRL_SOFT : Field := ⟨0x60000, 30, 1, 0⟩
def FRZ_CTRL_THAW : Field := ⟨0x60000, 29, 1, 0⟩
def FRZ_CTRL_READ : Field := ⟨0x60000, 28, 1, 0⟩
def FRZ_CTRL_ARMAT : Field := ⟨0x60000, 27, 1, 0⟩
def FRZ_CTRL_DISARM : Field := ⟨0x60000, 26, 1, 0⟩
def FRZ_STATUS_STATE : Field := ⟨0x60004, 29, 3, 0⟩
def FRZ_STATUS_READING : Field := ⟨0x60004, 28, 1, 0⟩
def FRZ_STATUS_ARMED : Field := ⟨0x60004, 27, 1, 0⟩
def FRZ_STATUS_GROUPWAIT : Field := ⟨0x60004, 26, 1, 0⟩
def FRZ_STATUS_TRIG : Field := ⟨0x60004, 22, 4, 0⟩
def FRZ_STATUS_READREF : Field := ⟨0x60004, 21, 1, 0⟩
def FRZ_STATUS_THAWREF : Field := ⟨0x60004, 20, 1, 0⟩
def FRZ_STATUS_ABANDONED : Field := ⟨0x60004, 19, 1, 0⟩
def FRZ_STATUS_TSRC : Field := ⟨0x60004, 0, 9, 0⟩
def FRZ_CFG_GRP : Field := ⟨0x60008, 31, 1, 0⟩
def FRZ_CFG_GC : Field := ⟨0x60008, 28, 3, 0⟩
def FRZ_CFG_FLAG : Field := ⟨0x60008, 24, 4, 0⟩
def FRZ_CFG_PATH : Field := ⟨0x60008, 0, 1, 0⟩
def FRZ_AT_LO : Field := ⟨0x60010, 0, 32, 0⟩
def FRZ_AT_HI : Field := ⟨0x60014, 0, 32, 0⟩
def FRZ_DST_LO : Field := ⟨0x60018, 12, 20, 0⟩
def FRZ_DST_HI : Field := ⟨0x6001c, 0, 32, 0⟩
def FRZ_GVC_LO : Field := ⟨0x60020, 0, 32, 0⟩
def FRZ_GVC_HI : Field := ⟨0x60024, 0, 32, 0⟩
def FRZ_EPOCH_LO : Field := ⟨0x60028, 0, 32, 0⟩
def FRZ_EPOCH_HI : Field := ⟨0x6002c, 0, 32, 0⟩
def FRZ_PROG : Field := ⟨0x60030, 0, 20, 0⟩
def FRZ_NREAD : Field := ⟨0x60034, 0, 32, 0⟩
def FRZ_MAPCNT : Field := ⟨0x60038, 0, 32, 0⟩
def FRZ_MAPIDX : Field := ⟨0x6003c, 0, 32, 0⟩
def FRZ_MAPDATA0 : Field := ⟨0x60040, 0, 32, 0⟩
def FRZ_MAPDATA1_CHAIN : Field := ⟨0x60044, 26, 6, 0⟩
def FRZ_MAPDATA1_BIT : Field := ⟨0x60044, 0, 20, 0⟩
def SEQ_CTRL_KEEPFLAGS : Field := ⟨0x80000, 3, 1, 0⟩
def SEQ_CTRL_STOPAT : Field := ⟨0x80000, 2, 1, 0⟩
def SEQ_CTRL_STOP : Field := ⟨0x80000, 1, 1, 0⟩
def SEQ_CTRL_DISARM : Field := ⟨0x80000, 0, 1, 0⟩
def SEQ_STATUS_SAREF : Field := ⟨0x80004, 7, 1, 0⟩
def SEQ_STATUS_HEADSRDY : Field := ⟨0x80004, 6, 1, 0⟩
def SEQ_STATUS_HOLDKIND : Field := ⟨0x80004, 4, 2, 0⟩
def SEQ_STATUS_ARMED : Field := ⟨0x80004, 3, 1, 0⟩
def SEQ_STATUS_MATCHING : Field := ⟨0x80004, 2, 1, 0⟩
def SEQ_STATUS_MODE : Field := ⟨0x80004, 1, 1, 0⟩
def SEQ_STATUS_RUN : Field := ⟨0x80004, 0, 1, 0⟩
def SEQ_STOP_NOVEC : Field := ⟨0x80008, 4, 1, 0⟩
def SEQ_STOP_REASON : Field := ⟨0x80008, 0, 4, 0⟩
def SEQ_STOP_SLOT : Field := ⟨0x8000c, 0, 18, 0⟩
def SEQ_STOP_GVC_LO : Field := ⟨0x80010, 0, 32, 0⟩
def SEQ_STOP_GVC_HI : Field := ⟨0x80014, 0, 32, 0⟩
def SEQ_STOPAT_LO : Field := ⟨0x80018, 0, 32, 0⟩
def SEQ_STOPAT_HI : Field := ⟨0x8001c, 0, 32, 0⟩
def SEQ_PC : Field := ⟨0x80020, 0, 18, 0⟩
def SEQ_STK_DEPTH : Field := ⟨0x80024, 0, 5, 0⟩
def SEQ_UFLAG : Field := ⟨0x80028, 0, 16, 0⟩
def SEQ_UFLAG_CLR : Field := ⟨0x8002c, 0, 16, 0⟩
def SEQ_STALL_LIM : Field := ⟨0x80030, 0, 12, 0x8ff⟩
def SEQ_NHOLD_LO : Field := ⟨0x80034, 0, 32, 0⟩
def SEQ_NHOLD_HI : Field := ⟨0x80038, 0, 32, 0⟩
def SEQ_NEXPIRE : Field := ⟨0x8003c, 0, 32, 0⟩
def SEQ_LOOP (k : Nat) : Field := ⟨0x80040 + 0x4 * k, 0, 32, 0⟩
def SEQ_HEADS_USED : Field := ⟨0x80080, 8, 7, 0⟩
def SEQ_HEADS_LOADED : Field := ⟨0x80080, 0, 7, 0⟩
def SEQ_SMASK_LO (n : Nat) : Field := ⟨0x81000 + 0x8 * n, 0, 32, 0xffffffff⟩
def SEQ_SMASK_HI (n : Nat) : Field := ⟨0x81004 + 0x8 * n, 0, 32, 0xffffffff⟩
def SEQ_LPARAM (n : Nat) : Field := ⟨0x81800 + 0x4 * n, 0, 32, 0⟩
def SEQ_CS_CTRL_ABORT : Field := ⟨0x80800, 2, 1, 0⟩
def SEQ_CS_CTRL_GO : Field := ⟨0x80800, 1, 1, 0⟩
def SEQ_CS_CTRL_SCRUB_EN : Field := ⟨0x80800, 0, 1, 1⟩
def SEQ_CS_STATUS_LASTREASON : Field := ⟨0x80804, 8, 4, 0⟩
def SEQ_CS_STATUS_LREF : Field := ⟨0x80804, 4, 1, 0⟩
def SEQ_CS_STATUS_UE : Field := ⟨0x80804, 3, 1, 0⟩
def SEQ_CS_STATUS_CHKERR : Field := ⟨0x80804, 2, 1, 0⟩
def SEQ_CS_STATUS_LDONE : Field := ⟨0x80804, 1, 1, 0⟩
def SEQ_CS_STATUS_LBUSY : Field := ⟨0x80804, 0, 1, 0⟩
def SEQ_CSL_SRC_LO : Field := ⟨0x80808, 5, 27, 0⟩
def SEQ_CSL_SRC_HI : Field := ⟨0x8080c, 0, 4, 0⟩
def SEQ_CSL_DST : Field := ⟨0x80810, 0, 18, 0⟩
def SEQ_CSL_COUNT : Field := ⟨0x80814, 0, 19, 0⟩
def SEQ_CSL_DONE : Field := ⟨0x80818, 0, 19, 0⟩
def SEQ_CSL_BAD : Field := ⟨0x8081c, 0, 19, 0⟩
def SEQ_CS_WREFUSED : Field := ⟨0x80820, 0, 32, 0⟩
def SEQ_CS_NINVALID : Field := ⟨0x80824, 0, 19, 0⟩
def SEQ_CS_CE : Field := ⟨0x80828, 0, 32, 0⟩
def SEQ_CS_UE : Field := ⟨0x8082c, 0, 32, 0⟩
def SEQ_CS_LASTERR_UNC : Field := ⟨0x80830, 31, 1, 0⟩
def SEQ_CS_LASTERR_ADDR : Field := ⟨0x80830, 30, 1, 0⟩
def SEQ_CS_LASTERR_SLOT : Field := ⟨0x80830, 0, 18, 0⟩
def SEQ_CMARK_LO : Field := ⟨0x80834, 0, 32, 0⟩
def SEQ_CMARK_HI : Field := ⟨0x80838, 0, 32, 0⟩
def SEQ_CMARK_SLOT : Field := ⟨0x8083c, 0, 18, 0⟩
def SEQ_PEV_CFG_EN : Field := ⟨0x80840, 31, 1, 0⟩
def SEQ_PEV_CFG_QUEUE : Field := ⟨0x80840, 0, 16, 0⟩
def SEG_DIDX : Field := ⟨0x100000, 0, 16, 0⟩
def SEG_DW (i : Nat) : Field := ⟨0x100004 + 0x4 * i, 0, 32, 0⟩
def SEG_DCMD_WRITE : Field := ⟨0x100010, 0, 1, 0⟩
def SEG_DSTAT : Field := ⟨0x100014, 0, 32, 0⟩
def SEG_CREFUSED : Field := ⟨0x100020, 0, 32, 0⟩
def SEG_WREFUSED : Field := ⟨0x100024, 0, 32, 0⟩
def SEG_WLAST_LO : Field := ⟨0x100028, 0, 32, 0⟩
def SEG_WLAST_HI : Field := ⟨0x10002c, 0, 4, 0⟩
def SEG_NDEAD : Field := ⟨0x100030, 0, 32, 0⟩
def SEG_NVFEED : Field := ⟨0x100034, 0, 32, 0⟩
def SEG_PL_ADDR_LO : Field := ⟨0x100100, 6, 26, 0⟩
def SEG_PL_ADDR_HI : Field := ⟨0x100104, 0, 4, 0⟩
def SEG_PL_AT_LO : Field := ⟨0x100108, 0, 32, 0⟩
def SEG_PL_AT_HI : Field := ⟨0x10010c, 0, 32, 0⟩
def SEG_PL_CTRL_WHEN : Field := ⟨0x100110, 3, 1, 0⟩
def SEG_PL_CTRL_WITHDRAW : Field := ⟨0x100110, 1, 1, 0⟩
def SEG_PL_CTRL_START : Field := ⟨0x100110, 0, 1, 0⟩
def SEG_PL_STATUS_REFUSE : Field := ⟨0x100114, 24, 8, 0⟩
def SEG_PL_STATUS_REFUSED : Field := ⟨0x100114, 4, 1, 0⟩
def SEG_PL_STATUS_QREADY : Field := ⟨0x100114, 3, 1, 0⟩
def SEG_PL_STATUS_QCHECK : Field := ⟨0x100114, 2, 1, 0⟩
def SEG_PL_STATUS_QUEUED : Field := ⟨0x100114, 1, 1, 0⟩
def SEG_PL_NUM_QUEUED : Field := ⟨0x100118, 16, 16, 0⟩
def SEG_PL_NUM_RUN : Field := ⟨0x100118, 0, 16, 0⟩
def SEG_PL_FIRST_LO : Field := ⟨0x10011c, 0, 32, 0⟩
def SEG_PL_FIRST_HI : Field := ⟨0x100120, 0, 32, 0⟩
def SEG_PL_NSTART : Field := ⟨0x100124, 0, 32, 0⟩
def SEG_PL_NREFUSE : Field := ⟨0x100128, 0, 32, 0⟩
def SEG_STR_CTRL_WIDTH (n : Nat) : Field := ⟨0x100400 + 0x40 * n, 2, 2, 0⟩
def SEG_STR_CTRL_CLOSE (n : Nat) : Field := ⟨0x100400 + 0x40 * n, 1, 1, 0⟩
def SEG_STR_CTRL_OPEN (n : Nat) : Field := ⟨0x100400 + 0x40 * n, 0, 1, 0⟩
def SEG_STR_STATUS_RATEERR (n : Nat) : Field := ⟨0x100404 + 0x40 * n, 7, 1, 0⟩
def SEG_STR_STATUS_RATEREF (n : Nat) : Field := ⟨0x100404 + 0x40 * n, 6, 1, 0⟩
def SEG_STR_STATUS_CLOSEREF (n : Nat) : Field := ⟨0x100404 + 0x40 * n, 5, 1, 0⟩
def SEG_STR_STATUS_PRODERR (n : Nat) : Field := ⟨0x100404 + 0x40 * n, 4, 1, 0⟩
def SEG_STR_STATUS_UNDR (n : Nat) : Field := ⟨0x100404 + 0x40 * n, 3, 1, 0⟩
def SEG_STR_STATUS_RUN (n : Nat) : Field := ⟨0x100404 + 0x40 * n, 1, 1, 0⟩
def SEG_STR_STATUS_OPEN (n : Nat) : Field := ⟨0x100404 + 0x40 * n, 0, 1, 0⟩
def SEG_STR_BASE_LO (n : Nat) : Field := ⟨0x100408 + 0x40 * n, 12, 20, 0⟩
def SEG_STR_BASE_HI (n : Nat) : Field := ⟨0x10040c + 0x40 * n, 0, 32, 0⟩
def SEG_STR_SIZE (n : Nat) : Field := ⟨0x100410 + 0x40 * n, 0, 6, 0⟩
def SEG_STR_NUNDR (n : Nat) : Field := ⟨0x100414 + 0x40 * n, 0, 32, 0⟩
def SEG_STR_PROD_LO (n : Nat) : Field := ⟨0x100418 + 0x40 * n, 0, 32, 0⟩
def SEG_STR_PROD_HI (n : Nat) : Field := ⟨0x10041c + 0x40 * n, 0, 32, 0⟩
def SEG_STR_FETCH_LO (n : Nat) : Field := ⟨0x100420 + 0x40 * n, 0, 32, 0⟩
def SEG_STR_FETCH_HI (n : Nat) : Field := ⟨0x100424 + 0x40 * n, 0, 32, 0⟩
def SEG_STR_CONS_LO (n : Nat) : Field := ⟨0x100428 + 0x40 * n, 0, 32, 0⟩
def SEG_STR_CONS_HI (n : Nat) : Field := ⟨0x10042c + 0x40 * n, 0, 32, 0⟩
def APG_CTRL_FCLOG : Field := ⟨0x180000, 2, 1, 0⟩
def APG_CTRL_FCGEN : Field := ⟨0x180000, 1, 1, 0⟩
def APG_CTRL_SCRUB_EN : Field := ⟨0x180000, 0, 1, 1⟩
def APG_STATUS_PLOCKED : Field := ⟨0x180004, 6, 1, 0⟩
def APG_STATUS_PWREF : Field := ⟨0x180004, 5, 1, 0⟩
def APG_STATUS_CHKERR : Field := ⟨0x180004, 4, 1, 0⟩
def APG_STATUS_UE : Field := ⟨0x180004, 3, 1, 0⟩
def APG_STATUS_TLREF : Field := ⟨0x180004, 2, 1, 0⟩
def APG_STATUS_TLDONE : Field := ⟨0x180004, 1, 1, 0⟩
def APG_STATUS_TLBUSY : Field := ⟨0x180004, 0, 1, 0⟩
def APG_TLD_CTRL_ABORT : Field := ⟨0x180010, 1, 1, 0⟩
def APG_TLD_CTRL_GO : Field := ⟨0x180010, 0, 1, 0⟩
def APG_TLD_TGT_GEN : Field := ⟨0x180014, 18, 1, 0⟩
def APG_TLD_TGT_TBL : Field := ⟨0x180014, 16, 2, 0⟩
def APG_TLD_TGT_FIRST : Field := ⟨0x180014, 0, 16, 0⟩
def APG_TLD_COUNT : Field := ⟨0x180018, 0, 17, 0⟩
def APG_TLD_SRC_LO : Field := ⟨0x18001c, 4, 28, 0⟩
def APG_TLD_SRC_HI : Field := ⟨0x180020, 0, 4, 0⟩
def APG_TLD_DONE : Field := ⟨0x180024, 0, 17, 0⟩
def APG_TLD_BAD : Field := ⟨0x180028, 0, 17, 0⟩
def APG_PWREFUSED : Field := ⟨0x18002c, 0, 32, 0⟩
def APG_X (g : Nat) : Field := ⟨0x180100 + 0x100 * g, 0, 24, 0⟩
def APG_Y (g : Nat) : Field := ⟨0x180104 + 0x100 * g, 0, 24, 0⟩
def APG_ZC_C (g : Nat) : Field := ⟨0x180108 + 0x100 * g, 8, 8, 0⟩
def APG_ZC_Z (g : Nat) : Field := ⟨0x180108 + 0x100 * g, 0, 8, 0⟩
def APG_D_LO (g : Nat) : Field := ⟨0x18010c + 0x100 * g, 0, 32, 0⟩
def APG_D_HI (g : Nat) : Field := ⟨0x180110 + 0x100 * g, 0, 32, 0⟩
def APG_XMIN (g : Nat) : Field := ⟨0x180114 + 0x100 * g, 0, 24, 0⟩
def APG_XMAX (g : Nat) : Field := ⟨0x180118 + 0x100 * g, 0, 24, 0⟩
def APG_YMIN (g : Nat) : Field := ⟨0x18011c + 0x100 * g, 0, 24, 0⟩
def APG_YMAX (g : Nat) : Field := ⟨0x180120 + 0x100 * g, 0, 24, 0⟩
def APG_ZBND_ZMAX (g : Nat) : Field := ⟨0x180124 + 0x100 * g, 8, 8, 0⟩
def APG_ZBND_ZMIN (g : Nat) : Field := ⟨0x180124 + 0x100 * g, 0, 8, 0⟩
def APG_XS (g : Nat) : Field := ⟨0x180128 + 0x100 * g, 0, 24, 0⟩
def APG_YS (g : Nat) : Field := ⟨0x18012c + 0x100 * g, 0, 24, 0⟩
def APG_ZS (g : Nat) : Field := ⟨0x180130 + 0x100 * g, 0, 8, 0⟩
def APG_NINVALID (g : Nat) : Field := ⟨0x180134 + 0x100 * g, 0, 13, 0⟩
def APG_CE (g : Nat) : Field := ⟨0x180138 + 0x100 * g, 0, 32, 0⟩
def APG_UE (g : Nat) : Field := ⟨0x18013c + 0x100 * g, 0, 32, 0⟩
def APG_LASTERR_UNC (g : Nat) : Field := ⟨0x180140 + 0x100 * g, 31, 1, 0⟩
def APG_LASTERR_ADDR (g : Nat) : Field := ⟨0x180140 + 0x100 * g, 30, 1, 0⟩
def APG_LASTERR_IDX (g : Nat) : Field := ⟨0x180140 + 0x100 * g, 0, 12, 0⟩
def APG_NEXEC_LO (g : Nat) : Field := ⟨0x180144 + 0x100 * g, 0, 32, 0⟩
def APG_NEXEC_HI (g : Nat) : Field := ⟨0x180148 + 0x100 * g, 0, 32, 0⟩
def APG_INIT_X (g : Nat) : Field := ⟨0x180150 + 0x100 * g, 0, 24, 0⟩
def APG_INIT_Y (g : Nat) : Field := ⟨0x180154 + 0x100 * g, 0, 24, 0⟩
def APG_INIT_ZC_C (g : Nat) : Field := ⟨0x180158 + 0x100 * g, 8, 8, 0⟩
def APG_INIT_ZC_Z (g : Nat) : Field := ⟨0x180158 + 0x100 * g, 0, 8, 0⟩
def APG_INIT_D_LO (g : Nat) : Field := ⟨0x18015c + 0x100 * g, 0, 32, 0⟩
def APG_INIT_D_HI (g : Nat) : Field := ⟨0x180160 + 0x100 * g, 0, 32, 0⟩
def APG_INIT_XMIN (g : Nat) : Field := ⟨0x180164 + 0x100 * g, 0, 24, 0⟩
def APG_INIT_XMAX (g : Nat) : Field := ⟨0x180168 + 0x100 * g, 0, 24, 0⟩
def APG_INIT_YMIN (g : Nat) : Field := ⟨0x18016c + 0x100 * g, 0, 24, 0⟩
def APG_INIT_YMAX (g : Nat) : Field := ⟨0x180170 + 0x100 * g, 0, 24, 0⟩
def APG_INIT_ZBND_ZMAX (g : Nat) : Field := ⟨0x180174 + 0x100 * g, 8, 8, 0⟩
def APG_INIT_ZBND_ZMIN (g : Nat) : Field := ⟨0x180174 + 0x100 * g, 0, 8, 0⟩
def APG_ASCR_CFG_EN (g : Nat) (k : Nat) : Field := ⟨0x180180 + 0x100 * g + 0x4 * k, 9, 1, 0⟩
def APG_ASCR_CFG_AXIS (g : Nat) (k : Nat) : Field := ⟨0x180180 + 0x100 * g + 0x4 * k, 8, 1, 0⟩
def APG_ASCR_CFG_LSB (g : Nat) (k : Nat) : Field := ⟨0x180180 + 0x100 * g + 0x4 * k, 0, 4, 0⟩
def APG_DSCR_CFG_DYLSB (g : Nat) : Field := ⟨0x180188 + 0x100 * g, 8, 5, 0⟩
def APG_DSCR_CFG_DXLSB (g : Nat) : Field := ⟨0x180188 + 0x100 * g, 0, 5, 0⟩
def APG_SVALID (g : Nat) : Field := ⟨0x18018c + 0x100 * g, 0, 3, 0⟩
def CAP_CTRL_AUTORST : Field := ⟨0x200000, 4, 1, 0⟩
def CAP_CTRL_RESET : Field := ⟨0x200000, 3, 1, 0⟩
def CAP_CTRL_DISARM : Field := ⟨0x200000, 2, 1, 0⟩
def CAP_CTRL_ARM : Field := ⟨0x200000, 1, 1, 0⟩
def CAP_CTRL_ENABLE : Field := ⟨0x200000, 0, 1, 0⟩
def CAP_STATUS_ST : Field := ⟨0x200004, 12, 4, 0⟩
def CAP_STATUS_CFGREF : Field := ⟨0x200004, 11, 1, 0⟩
def CAP_STATUS_CFGERR : Field := ⟨0x200004, 10, 1, 0⟩
def CAP_STATUS_SHORTPOST : Field := ⟨0x200004, 9, 1, 0⟩
def CAP_STATUS_HOLE : Field := ⟨0x200004, 8, 1, 0⟩
def CAP_STATUS_RINGFULL : Field := ⟨0x200004, 7, 1, 0⟩
def CAP_STATUS_DROP : Field := ⟨0x200004, 6, 1, 0⟩
def CAP_STATUS_FROZEN : Field := ⟨0x200004, 5, 1, 0⟩
def CAP_STATUS_FIRED : Field := ⟨0x200004, 4, 1, 0⟩
def CAP_STATUS_FILLED : Field := ⟨0x200004, 3, 1, 0⟩
def CAP_STATUS_ARMED : Field := ⟨0x200004, 2, 1, 0⟩
def CAP_STATUS_TWACTBAD : Field := ⟨0x200004, 1, 1, 0⟩
def CAP_CFG_TILES : Field := ⟨0x200008, 24, 8, 0xff⟩
def CAP_CFG_DRV : Field := ⟨0x200008, 23, 1, 0⟩
def CAP_CFG_RMODE : Field := ⟨0x200008, 22, 1, 0⟩
def CAP_RING_SIZE : Field := ⟨0x20000c, 0, 6, 0⟩
def CAP_RING_BASE_LO : Field := ⟨0x200010, 12, 20, 0⟩
def CAP_RING_BASE_HI : Field := ⟨0x200014, 0, 4, 0⟩
def CAP_PRE : Field := ⟨0x200018, 0, 28, 0⟩
def CAP_POST : Field := ⟨0x20001c, 0, 28, 0⟩
def CAP_WPTR_LO : Field := ⟨0x200020, 0, 32, 0⟩
def CAP_WPTR_HI : Field := ⟨0x200024, 0, 32, 0⟩
def CAP_TRIG_PTR_LO : Field := ⟨0x200028, 0, 32, 0⟩
def CAP_TRIG_PTR_HI : Field := ⟨0x20002c, 0, 32, 0⟩
def CAP_TRIG_GVC_LO : Field := ⟨0x200030, 0, 32, 0⟩
def CAP_TRIG_GVC_HI : Field := ⟨0x200034, 0, 32, 0⟩
def CAP_NREC : Field := ⟨0x200038, 0, 32, 0⟩
def CAP_NDROP : Field := ⟨0x20003c, 0, 32, 0⟩
def CAP_NMVIOL : Field := ⟨0x200040, 0, 32, 0⟩
def CAP_NFIRE : Field := ⟨0x200044, 0, 32, 0⟩
def CAP_FC_CFG_EN : Field := ⟨0x200050, 31, 1, 1⟩
def CAP_FC_CFG_PERUI : Field := ⟨0x200050, 30, 1, 0⟩
def CAP_FC_CFG_SITELIM : Field := ⟨0x200050, 0, 16, 0⟩
def CAP_FC_STATUS_RPTRERR : Field := ⟨0x200054, 4, 1, 0⟩
def CAP_FC_STATUS_GAPPEND : Field := ⟨0x200054, 3, 1, 0⟩
def CAP_FC_STATUS_DROP : Field := ⟨0x200054, 2, 1, 0⟩
def CAP_FC_STATUS_FULL : Field := ⟨0x200054, 1, 1, 0⟩
def CAP_FC_STATUS_LIMIT : Field := ⟨0x200054, 0, 1, 0⟩
def CAP_FC_WPTR_LO : Field := ⟨0x200058, 0, 32, 0⟩
def CAP_FC_WPTR_HI : Field := ⟨0x20005c, 0, 32, 0⟩
def CAP_FC_RPTR_LO : Field := ⟨0x200060, 0, 32, 0⟩
def CAP_FC_RPTR_HI : Field := ⟨0x200064, 0, 32, 0⟩
def CAP_FC_NDROP : Field := ⟨0x200068, 0, 32, 0⟩
def CAP_KILL_CFG_EN : Field := ⟨0x200070, 31, 1, 0⟩
def CAP_KILL_CFG_DRV : Field := ⟨0x200070, 29, 2, 0⟩
def CAP_KILL_CFG_KILLN : Field := ⟨0x200070, 0, 16, 0⟩
def CAP_KILL_LO : Field := ⟨0x200074, 0, 32, 0⟩
def CAP_KILL_HI : Field := ⟨0x200078, 0, 32, 0⟩
def CAP_TVALID : Field := ⟨0x20007c, 0, 25, 0⟩
def CAP_TW_CFG_SRC (w : Nat) : Field := ⟨0x200080 + 0x4 * w, 10, 2, 0⟩
def CAP_TW_CFG_ANYUI (w : Nat) : Field := ⟨0x200080 + 0x4 * w, 9, 1, 0⟩
def CAP_TW_CFG_UISEL (w : Nat) : Field := ⟨0x200080 + 0x4 * w, 6, 3, 0⟩
def CAP_TW_CFG_MARK (w : Nat) : Field := ⟨0x200080 + 0x4 * w, 0, 3, 0⟩
def CAP_TP_EV_KIND (s : Nat) : Field := ⟨0x2000a0 + 0x8 * s, 30, 2, 0⟩
def CAP_TP_EV_ALL (s : Nat) : Field := ⟨0x2000a0 + 0x8 * s, 29, 1, 0⟩
def CAP_TP_EV_WSET (s : Nat) : Field := ⟨0x2000a0 + 0x8 * s, 21, 8, 0⟩
def CAP_TP_EV_COUNT (s : Nat) : Field := ⟨0x2000a0 + 0x8 * s, 0, 16, 0⟩
def CAP_TP_GO_GO (s : Nat) : Field := ⟨0x2000a4 + 0x8 * s, 28, 4, 0⟩
def CAP_TP_GO_TO (s : Nat) : Field := ⟨0x2000a4 + 0x8 * s, 24, 4, 0⟩
def CAP_TP_GO_ACT (s : Nat) : Field := ⟨0x2000a4 + 0x8 * s, 22, 2, 0⟩
def CAP_TP_GO_TOACT (s : Nat) : Field := ⟨0x2000a4 + 0x8 * s, 20, 2, 0⟩
def CAP_TP_GO_WITHIN (s : Nat) : Field := ⟨0x2000a4 + 0x8 * s, 0, 20, 0⟩
def CAP_MSCFG_MTEST (m : Nat) : Field := ⟨0x200200 + 0x4 * m, 0, 2, 0⟩
def CAP_MSREF (r : Nat) : Field := ⟨0x200600 + 0x4 * r, 0, 32, 0⟩
def CAP_MSBAD (r : Nat) : Field := ⟨0x200620 + 0x4 * r, 0, 32, 0⟩
def CAP_TWCHBAD (r : Nat) : Field := ⟨0x200640 + 0x4 * r, 0, 32, 0⟩
def CAP_SITE_NFV (n : Nat) : Field := ⟨0x200700 + 0x4 * n, 0, 32, 0⟩
def TIU_CAL_REQ : Field := ⟨0x280000, 0, 16, 0⟩
def TIU_CAL_STATUS_CALBUSY : Field := ⟨0x280004, 16, 16, 0⟩
def TIU_CAL_STATUS_CALVALID : Field := ⟨0x280004, 0, 16, 0⟩
def TIU_CAL_FAIL : Field := ⟨0x280008, 0, 16, 0⟩
def TIU_CAL_DEADLINE : Field := ⟨0x28000c, 0, 16, 0x3e8⟩
def TIU_COARSE_LOCK : Field := ⟨0x280010, 0, 1, 0⟩
def TIU_WREFUSED : Field := ⟨0x280014, 0, 32, 0⟩
def TIU_CTRL_ARM (n : Nat) : Field := ⟨0x281000 + 0x100 * n, 31, 1, 0⟩
def TIU_CTRL_DISARM (n : Nat) : Field := ⟨0x281000 + 0x100 * n, 30, 1, 0⟩
def TIU_CTRL_TAKE (n : Nat) : Field := ⟨0x281000 + 0x100 * n, 29, 1, 0⟩
def TIU_CTRL_RELEASE (n : Nat) : Field := ⟨0x281000 + 0x100 * n, 28, 1, 0⟩
def TIU_CTRL_CONT (n : Nat) : Field := ⟨0x281000 + 0x100 * n, 4, 1, 0⟩
def TIU_CTRL_MODE (n : Nat) : Field := ⟨0x281000 + 0x100 * n, 0, 2, 0⟩
def TIU_STATUS_OWNER (n : Nat) : Field := ⟨0x281004 + 0x100 * n, 30, 2, 0⟩
def TIU_STATUS_END (n : Nat) : Field := ⟨0x281004 + 0x100 * n, 27, 3, 0⟩
def TIU_STATUS_ARMED (n : Nat) : Field := ⟨0x281004 + 0x100 * n, 26, 1, 0⟩
def TIU_STATUS_STARTED (n : Nat) : Field := ⟨0x281004 + 0x100 * n, 25, 1, 0⟩
def TIU_STATUS_CALQ (n : Nat) : Field := ⟨0x281004 + 0x100 * n, 24, 1, 0⟩
def TIU_STATUS_SRCERR (n : Nat) : Field := ⟨0x281004 + 0x100 * n, 1, 1, 0⟩
def TIU_START_SRC_EDGE (n : Nat) : Field := ⟨0x281008 + 0x100 * n, 12, 4, 0⟩
def TIU_START_SRC_SEL (n : Nat) : Field := ⟨0x281008 + 0x100 * n, 0, 8, 0⟩
def TIU_CFG_NSTOP (n : Nat) : Field := ⟨0x28100c + 0x100 * n, 28, 4, 0⟩
def TIU_CFG_HOLDOFF (n : Nat) : Field := ⟨0x28100c + 0x100 * n, 0, 16, 0⟩
def TIU_TIMEOUT (n : Nat) : Field := ⟨0x281010 + 0x100 * n, 0, 16, 0x3e8⟩
def TIU_GATE (n : Nat) : Field := ⟨0x281014 + 0x100 * n, 0, 32, 0xf4240⟩
def TIU_QUEUE_EN (n : Nat) : Field := ⟨0x281018 + 0x100 * n, 31, 1, 0⟩
def TIU_QUEUE_Q (n : Nat) : Field := ⟨0x281018 + 0x100 * n, 0, 16, 0⟩
def TIU_SEQ (n : Nat) : Field := ⟨0x28101c + 0x100 * n, 0, 32, 0⟩
def TIU_COUNT (n : Nat) : Field := ⟨0x281020 + 0x100 * n, 0, 32, 0⟩
def TIU_START_GVC_LO (n : Nat) : Field := ⟨0x281024 + 0x100 * n, 0, 32, 0⟩
def TIU_START_GVC_HI (n : Nat) : Field := ⟨0x281028 + 0x100 * n, 0, 32, 0⟩
def TIU_NSHORT (n : Nat) : Field := ⟨0x28102c + 0x100 * n, 0, 32, 0⟩
def TIU_STOP_SRC_EDGE (n : Nat) (k : Nat) : Field := ⟨0x281040 + 0x100 * n + 0x4 * k, 12, 4, 0⟩
def TIU_STOP_SRC_SEL (n : Nat) (k : Nat) : Field := ⟨0x281040 + 0x100 * n + 0x4 * k, 0, 8, 0⟩
def TIU_RES_LO (n : Nat) (k : Nat) : Field := ⟨0x281080 + 0x100 * n + 0x8 * k, 0, 32, 0⟩
def TIU_RES_HI (n : Nat) (k : Nat) : Field := ⟨0x281084 + 0x100 * n + 0x8 * k, 0, 32, 0⟩
def PMU_CT_CTRL_GO : Field := ⟨0x300000, 0, 1, 0⟩
def PMU_CT_STATUS_CTREF : Field := ⟨0x300004, 2, 1, 0⟩
def PMU_CT_STATUS_DONE : Field := ⟨0x300004, 1, 1, 0⟩
def PMU_CT_STATUS_BUSY : Field := ⟨0x300004, 0, 1, 0⟩
def PMU_CT_CFG1_NBR : Field := ⟨0x300008, 31, 1, 0⟩
def PMU_CT_CFG1_VCL : Field := ⟨0x300008, 16, 15, 0x5dc⟩
def PMU_CT_CFG1_ICT : Field := ⟨0x300008, 0, 16, 0x64⟩
def PMU_CT_CFG2_VDHI : Field := ⟨0x30000c, 16, 16, 0x3e8⟩
def PMU_CT_CFG2_VDLO : Field := ⟨0x30000c, 0, 16, 0xc8⟩
def PMU_CT_CFG3_CT_SETTLE : Field := ⟨0x300010, 16, 16, 0x32⟩
def PMU_CT_CFG3_VSHORT : Field := ⟨0x300010, 0, 16, 0x64⟩
def PMU_CT_NFAIL : Field := ⟨0x300014, 0, 32, 0⟩
def PMU_WREFUSED : Field := ⟨0x300018, 0, 32, 0⟩
def PMU_CT_SEL (r : Nat) : Field := ⟨0x300020 + 0x4 * r, 0, 32, 0⟩
def PMU_CT_RES_RESULT (c : Nat) : Field := ⟨0x300400 + 0x4 * c, 29, 3, 0⟩
def PMU_CT_RES_VP (c : Nat) : Field := ⟨0x300400 + 0x4 * c, 13, 13, 0⟩
def PMU_CT_RES_VN (c : Nat) : Field := ⟨0x300400 + 0x4 * c, 0, 13, 0⟩
def PMU_CTRL_TAKE (n : Nat) : Field := ⟨0x301000 + 0x100 * n, 31, 1, 0⟩
def PMU_CTRL_RELEASE (n : Nat) : Field := ⟨0x301000 + 0x100 * n, 30, 1, 0⟩
def PMU_CTRL_CONN (n : Nat) : Field := ⟨0x301000 + 0x100 * n, 15, 1, 0⟩
def PMU_CTRL_CH (n : Nat) : Field := ⟨0x301000 + 0x100 * n, 6, 3, 0⟩
def PMU_CTRL_IRANGE (n : Nat) : Field := ⟨0x301000 + 0x100 * n, 2, 3, 0⟩
def PMU_CTRL_MODE (n : Nat) : Field := ⟨0x301000 + 0x100 * n, 0, 2, 0⟩
def PMU_STATUS_OWNER (n : Nat) : Field := ⟨0x301004 + 0x100 * n, 29, 3, 0⟩
def PMU_STATUS_END (n : Nat) : Field := ⟨0x301004 + 0x100 * n, 26, 3, 0⟩
def PMU_STATUS_VALERR (n : Nat) : Field := ⟨0x301004 + 0x100 * n, 2, 1, 0⟩
def PMU_STATUS_CLAMPED (n : Nat) : Field := ⟨0x301004 + 0x100 * n, 1, 1, 0⟩
def PMU_STATUS_CONN (n : Nat) : Field := ⟨0x301004 + 0x100 * n, 0, 1, 0⟩
def PMU_FORCE (n : Nat) : Field := ⟨0x301008 + 0x100 * n, 0, 32, 0⟩
def PMU_CLAMP (n : Nat) : Field := ⟨0x30100c + 0x100 * n, 0, 32, 0⟩
def PMU_VCLAMP_VCLH (n : Nat) : Field := ⟨0x301010 + 0x100 * n, 16, 16, 0⟩
def PMU_VCLAMP_VCLL (n : Nat) : Field := ⟨0x301010 + 0x100 * n, 0, 16, 0⟩
def DFC_FIR_C (s : Nat) (t : Nat) : Field := ⟨0x340000 + 0x100 * s + 0x4 * t, 0, 24, firReset s t⟩
def DFC_CFG_DF (n : Nat) : Field := ⟨0x341000 + 0x100 * n, 24, 1, 0⟩
def DFC_CFG_DCK (n : Nat) : Field := ⟨0x341000 + 0x100 * n, 16, 5, 0⟩
def DFC_CFG_FSET (n : Nat) : Field := ⟨0x341000 + 0x100 * n, 12, 2, 0⟩
def DFC_CFG_H (n : Nat) : Field := ⟨0x341000 + 0x100 * n, 8, 3, 0⟩
def DFC_CFG_RH (n : Nat) : Field := ⟨0x341000 + 0x100 * n, 0, 8, 2⟩
def DFC_RATIO (n : Nat) : Field := ⟨0x341004 + 0x100 * n, 0, 32, 0⟩
def DFC_CTRL_START (n : Nat) : Field := ⟨0x341008 + 0x100 * n, 31, 1, 0⟩
def DFC_CTRL_STOP (n : Nat) : Field := ⟨0x341008 + 0x100 * n, 30, 1, 0⟩
def DFC_CTRL_FREEZE (n : Nat) : Field := ⟨0x341008 + 0x100 * n, 0, 1, 0⟩
def DFC_STATUS_CFGERR (n : Nat) : Field := ⟨0x34100c + 0x100 * n, 2, 1, 0⟩
def DFC_STATUS_FROZEN (n : Nat) : Field := ⟨0x34100c + 0x100 * n, 1, 1, 0⟩
def DFC_STATUS_RUN (n : Nat) : Field := ⟨0x34100c + 0x100 * n, 0, 1, 0⟩
def DFC_GDELAY (n : Nat) : Field := ⟨0x341010 + 0x100 * n, 0, 32, 0xc4⟩
def DFC_BASE (n : Nat) : Field := ⟨0x341014 + 0x100 * n, 0, 32, 0⟩
def DFC_OUT (n : Nat) : Field := ⟨0x341018 + 0x100 * n, 0, 32, 0⟩
def DFC_FLAGS (n : Nat) : Field := ⟨0x34101c + 0x100 * n, 0, 4, 0⟩
def DFC_NOUT_LO (n : Nat) : Field := ⟨0x341020 + 0x100 * n, 0, 32, 0⟩
def DFC_NOUT_HI (n : Nat) : Field := ⟨0x341024 + 0x100 * n, 0, 32, 0⟩
def DFC_START_GVC_LO (n : Nat) : Field := ⟨0x341028 + 0x100 * n, 0, 32, 0⟩
def DFC_START_GVC_HI (n : Nat) : Field := ⟨0x34102c + 0x100 * n, 0, 32, 0⟩
def DFC_QUEUE_EN (n : Nat) : Field := ⟨0x341030 + 0x100 * n, 31, 1, 0⟩
def DFC_QUEUE_Q (n : Nat) : Field := ⟨0x341030 + 0x100 * n, 0, 16, 0⟩
def GRD_STATUS_ENVREF : Field := ⟨0x380000, 4, 1, 0⟩
def GRD_STATUS_SAFE : Field := ⟨0x380000, 3, 1, 0⟩
def GRD_STATUS_THERM : Field := ⟨0x380000, 2, 1, 0⟩
def GRD_STATUS_RAILTRIP : Field := ⟨0x380000, 1, 1, 0⟩
def GRD_STATUS_ANY : Field := ⟨0x380000, 0, 1, 0⟩
def GRD_TICK : Field := ⟨0x380008, 0, 16, 0xfa0⟩
def GRD_NTRIP : Field := ⟨0x380010, 0, 32, 0⟩
def GRD_WREFUSED : Field := ⟨0x380014, 0, 32, 0⟩
def GRD_NILIM : Field := ⟨0x380018, 0, 32, 0⟩
def GRD_TRIPPED (r : Nat) : Field := ⟨0x380020 + 0x4 * r, 0, 32, 0⟩
def GRD_ACTIVE (r : Nat) : Field := ⟨0x380040 + 0x4 * r, 0, 32, 0⟩
def GRD_DS_LATCHED : Field := ⟨0x380060, 0, 32, 0⟩
def GRD_DS_ACTIVE : Field := ⟨0x380064, 0, 32, 0⟩
def GRD_RAIL_ACTIVE : Field := ⟨0x380068, 0, 24, 0⟩
def GRD_RAIL_LATCHED : Field := ⟨0x38006c, 0, 24, 0⟩
def GRD_ENV_CH_HI : Field := ⟨0x380080, 16, 16, 0x7d00⟩
def GRD_ENV_CH_LO : Field := ⟨0x380080, 0, 16, 0xd120⟩
def GRD_ENV_DS_HI : Field := ⟨0x380084, 16, 16, 0x7d00⟩
def GRD_ENV_DS_LO : Field := ⟨0x380084, 0, 16, 0x8300⟩
def GRD_POLICY_NODIS : Field := ⟨0x380088, 0, 1, 1⟩
def GRD_MTRIP (r : Nat) : Field := ⟨0x380100 + 0x4 * r, 0, 32, 0⟩
def GRD_RELEASE (r : Nat) : Field := ⟨0x380120 + 0x4 * r, 0, 32, 0⟩
def GRD_CFG_MODE (m : Nat) : Field := ⟨0x381000 + 0x10 * m, 30, 2, grdModeReset m⟩
def GRD_CFG_SRC (m : Nat) : Field := ⟨0x381000 + 0x10 * m, 28, 2, grdSrcReset m⟩
def GRD_CFG_ACT (m : Nat) : Field := ⟨0x381000 + 0x10 * m, 26, 2, 0⟩
def GRD_CFG_K (m : Nat) : Field := ⟨0x381000 + 0x10 * m, 20, 4, grdKReset m⟩
def GRD_CFG_N (m : Nat) : Field := ⟨0x381000 + 0x10 * m, 16, 4, grdNReset m⟩
def GRD_THR_HI (m : Nat) : Field := ⟨0x381004 + 0x10 * m, 16, 16, grdHiReset m⟩
def GRD_THR_LO (m : Nat) : Field := ⟨0x381004 + 0x10 * m, 0, 16, grdLoReset m⟩
def GRD_STATUSM_ACTIVE (m : Nat) : Field := ⟨0x381008 + 0x10 * m, 31, 1, 0⟩
def GRD_STATUSM_LATCHED (m : Nat) : Field := ⟨0x381008 + 0x10 * m, 30, 1, 0⟩
def GRD_STATUSM_CLRREF (m : Nat) : Field := ⟨0x381008 + 0x10 * m, 29, 1, 0⟩
def GRD_STATUSM_ILIM (m : Nat) : Field := ⟨0x381008 + 0x10 * m, 28, 1, 0⟩
def GRD_STATUSM_POLREV (m : Nat) : Field := ⟨0x381008 + 0x10 * m, 27, 1, 0⟩
def GRD_STATUSM_TWIN (m : Nat) : Field := ⟨0x381008 + 0x10 * m, 26, 1, 0⟩
def GRD_STATUSM_DEGRADED (m : Nat) : Field := ⟨0x381008 + 0x10 * m, 25, 1, 0⟩
def GRD_STATUSM_MODESW (m : Nat) : Field := ⟨0x381008 + 0x10 * m, 24, 1, 0⟩
def GRD_COUNT (m : Nat) : Field := ⟨0x38100c + 0x10 * m, 0, 32, 0⟩
def GRD_DS_SITES_LO (k : Nat) : Field := ⟨0x383000 + 0x8 * k, 0, 32, 0⟩
def GRD_DS_SITES_HI (k : Nat) : Field := ⟨0x383004 + 0x8 * k, 0, 32, 0⟩
def CLE_STATUS_TSETTLED : Field := ⟨0x3c0000, 2, 1, 0⟩
def CLE_STATUS_PWMREF : Field := ⟨0x3c0000, 1, 1, 0⟩
def CLE_STATUS_LBRUN : Field := ⟨0x3c0000, 0, 1, 0⟩
def CLE_FRAME_LO : Field := ⟨0x3c0004, 0, 32, 0⟩
def CLE_FRAME_HI : Field := ⟨0x3c0008, 0, 32, 0⟩
def CLE_LOAD : Field := ⟨0x3c000c, 0, 5, 0⟩
def CLE_NHOLD : Field := ⟨0x3c0010, 0, 32, 0⟩
def CLE_WREFUSED : Field := ⟨0x3c0014, 0, 32, 0⟩
def CLE_LB_CTRL_TAKE (p : Nat) : Field := ⟨0x3c0100 + 0x100 * p, 31, 1, 0⟩
def CLE_LB_CTRL_RELEASE (p : Nat) : Field := ⟨0x3c0100 + 0x100 * p, 30, 1, 0⟩
def CLE_LB_CTRL_EN (p : Nat) : Field := ⟨0x3c0100 + 0x100 * p, 5, 1, 0⟩
def CLE_LB_CTRL_L (p : Nat) : Field := ⟨0x3c0100 + 0x100 * p, 0, 5, 0⟩
def CLE_LB_STATUS_OWNER (p : Nat) : Field := ⟨0x3c0104 + 0x100 * p, 30, 2, 0⟩
def CLE_LB_STATUS_RUN (p : Nat) : Field := ⟨0x3c0104 + 0x100 * p, 29, 1, 0⟩
def CLE_LB_HTX (p : Nat) : Field := ⟨0x3c0108 + 0x100 * p, 0, 32, 0⟩
def CLE_LB_HRX (p : Nat) : Field := ⟨0x3c010c + 0x100 * p, 0, 32, 0⟩
def CLE_LB_HSEQ (p : Nat) : Field := ⟨0x3c0110 + 0x100 * p, 0, 32, 0⟩
def CLE_LB_HTXX (p : Nat) : Field := ⟨0x3c0114 + 0x100 * p, 0, 8, 0⟩
def CLE_LB_HRXX (p : Nat) : Field := ⟨0x3c0118 + 0x100 * p, 0, 8, 0⟩
def CLE_LB_SCHED_KIND (p : Nat) (i : Nat) : Field := ⟨0x3c0180 + 0x100 * p + 0x4 * i, 30, 2, 0⟩
def CLE_LB_SCHED_LOOP (p : Nat) (i : Nat) : Field := ⟨0x3c0180 + 0x100 * p + 0x4 * i, 24, 6, 0⟩
def CLE_LB_SCHED_CS (p : Nat) (i : Nat) : Field := ⟨0x3c0180 + 0x100 * p + 0x4 * i, 21, 3, 0⟩
def CLE_LB_SCHED_LEN (p : Nat) (i : Nat) : Field := ⟨0x3c0180 + 0x100 * p + 0x4 * i, 15, 6, 0⟩
def CLE_PWM_PER (k : Nat) : Field := ⟨0x3c0800 + 0x4 * k, 0, 16, 0x3e8⟩
def CLE_CTRL_TAKE (n : Nat) : Field := ⟨0x3c1000 + 0x80 * n, 31, 1, 0⟩
def CLE_CTRL_RELEASE (n : Nat) : Field := ⟨0x3c1000 + 0x80 * n, 30, 1, 0⟩
def CLE_CTRL_APPLY (n : Nat) : Field := ⟨0x3c1000 + 0x80 * n, 29, 1, 0⟩
def CLE_CTRL_BUMPLESS (n : Nat) : Field := ⟨0x3c1000 + 0x80 * n, 28, 1, 0⟩
def CLE_CTRL_MODE (n : Nat) : Field := ⟨0x3c1000 + 0x80 * n, 0, 2, 0⟩
def CLE_LSTATUS_OWNER (n : Nat) : Field := ⟨0x3c1004 + 0x80 * n, 30, 2, 0⟩
def CLE_LSTATUS_MODE (n : Nat) : Field := ⟨0x3c1004 + 0x80 * n, 28, 2, 0⟩
def CLE_LSTATUS_HCAUSE (n : Nat) : Field := ⟨0x3c1004 + 0x80 * n, 25, 3, 0⟩
def CLE_LSTATUS_SATHI (n : Nat) : Field := ⟨0x3c1004 + 0x80 * n, 24, 1, 0⟩
def CLE_LSTATUS_SATLO (n : Nat) : Field := ⟨0x3c1004 + 0x80 * n, 23, 1, 0⟩
def CLE_LSTATUS_INVALID (n : Nat) : Field := ⟨0x3c1004 + 0x80 * n, 22, 1, 0⟩
def CLE_LSTATUS_CFGERR (n : Nat) : Field := ⟨0x3c1004 + 0x80 * n, 21, 1, 0⟩
def CLE_LSTATUS_C (n : Nat) : Field := ⟨0x3c1004 + 0x80 * n, 8, 8, 0⟩
def CLE_LSTATUS_CODE (n : Nat) : Field := ⟨0x3c1004 + 0x80 * n, 0, 4, 0⟩
def CLE_CFG_INSRC (n : Nat) : Field := ⟨0x3c1008 + 0x80 * n, 30, 2, 0⟩
def CLE_CFG_INIDX (n : Nat) : Field := ⟨0x3c1008 + 0x80 * n, 25, 5, 0⟩
def CLE_CFG_SINK (n : Nat) : Field := ⟨0x3c1008 + 0x80 * n, 23, 2, 0⟩
def CLE_CFG_OUTIDX (n : Nat) : Field := ⟨0x3c1008 + 0x80 * n, 18, 5, 0⟩
def CLE_CFG_DIR (n : Nat) : Field := ⟨0x3c1008 + 0x80 * n, 17, 1, 0⟩
def CLE_CFG_SIGNCHK (n : Nat) : Field := ⟨0x3c1008 + 0x80 * n, 15, 1, 0⟩
def CLE_CFG_HTRIP (n : Nat) : Field := ⟨0x3c1008 + 0x80 * n, 14, 1, 0⟩
def CLE_CFG_DSH (n : Nat) : Field := ⟨0x3c1008 + 0x80 * n, 8, 4, 0⟩
def CLE_CFG_LOSTN (n : Nat) : Field := ⟨0x3c1008 + 0x80 * n, 0, 8, 1⟩
def CLE_PER (n : Nat) : Field := ⟨0x3c100c + 0x80 * n, 0, 20, 1⟩
def CLE_PHASE (n : Nat) : Field := ⟨0x3c1010 + 0x80 * n, 0, 20, 0⟩
def CLE_SP (n : Nat) : Field := ⟨0x3c1014 + 0x80 * n, 0, 32, 0⟩
def CLE_KP (n : Nat) : Field := ⟨0x3c1018 + 0x80 * n, 0, 32, 0⟩
def CLE_KI (n : Nat) : Field := ⟨0x3c101c + 0x80 * n, 0, 32, 0⟩
def CLE_KD (n : Nat) : Field := ⟨0x3c1020 + 0x80 * n, 0, 32, 0⟩
def CLE_OUTMIN (n : Nat) : Field := ⟨0x3c1024 + 0x80 * n, 0, 32, 0x80000000⟩
def CLE_OUTMAX (n : Nat) : Field := ⟨0x3c1028 + 0x80 * n, 0, 32, 0x7fffffff⟩
def CLE_INGAIN (n : Nat) : Field := ⟨0x3c102c + 0x80 * n, 0, 32, 0⟩
def CLE_INOFS (n : Nat) : Field := ⟨0x3c1030 + 0x80 * n, 0, 32, 0⟩
def CLE_OUTGAIN (n : Nat) : Field := ⟨0x3c1034 + 0x80 * n, 0, 32, 0⟩
def CLE_OUTOFS (n : Nat) : Field := ⟨0x3c1038 + 0x80 * n, 0, 32, 0⟩
def CLE_MANOUT (n : Nat) : Field := ⟨0x3c103c + 0x80 * n, 0, 32, 0⟩
def CLE_SCCFG_SCN (n : Nat) : Field := ⟨0x3c1040 + 0x80 * n, 24, 8, 0x10⟩
def CLE_SCCFG_LAG (n : Nat) : Field := ⟨0x3c1040 + 0x80 * n, 20, 4, 0⟩
def CLE_SCCFG_DUSH (n : Nat) : Field := ⟨0x3c1040 + 0x80 * n, 15, 5, 0⟩
def CLE_SCCFG_DPVSH (n : Nat) : Field := ⟨0x3c1040 + 0x80 * n, 10, 5, 0⟩
def CLE_RDFMT_SIGNED (n : Nat) : Field := ⟨0x3c1044 + 0x80 * n, 31, 1, 0⟩
def CLE_RDFMT_WIDTH (n : Nat) : Field := ⟨0x3c1044 + 0x80 * n, 16, 6, 0⟩
def CLE_RDFMT_LSB (n : Nat) : Field := ⟨0x3c1044 + 0x80 * n, 0, 6, 0⟩
def CLE_RDCMD (n : Nat) : Field := ⟨0x3c1048 + 0x80 * n, 0, 32, 0⟩
def CLE_CHKMASK (n : Nat) : Field := ⟨0x3c104c + 0x80 * n, 0, 32, 0⟩
def CLE_CHKVAL (n : Nat) : Field := ⟨0x3c1050 + 0x80 * n, 0, 32, 0⟩
def CLE_WRFMT_WIDTH (n : Nat) : Field := ⟨0x3c1054 + 0x80 * n, 16, 6, 0⟩
def CLE_WRFMT_LSB (n : Nat) : Field := ⟨0x3c1054 + 0x80 * n, 0, 6, 0⟩
def CLE_WRCMD (n : Nat) : Field := ⟨0x3c1058 + 0x80 * n, 0, 32, 0⟩
def CLE_SITES_LO (n : Nat) : Field := ⟨0x3c105c + 0x80 * n, 0, 32, 0⟩
def CLE_SITES_HI (n : Nat) : Field := ⟨0x3c1060 + 0x80 * n, 0, 32, 0⟩
def CLE_PV (n : Nat) : Field := ⟨0x3c1064 + 0x80 * n, 0, 32, 0⟩
def CLE_OUT (n : Nat) : Field := ⟨0x3c1068 + 0x80 * n, 0, 32, 0⟩
def CLE_I (n : Nat) : Field := ⟨0x3c106c + 0x80 * n, 0, 32, 0⟩
def CLE_CODE (n : Nat) : Field := ⟨0x3c1070 + 0x80 * n, 0, 32, 0⟩
def CLE_NEVAL (n : Nat) : Field := ⟨0x3c1074 + 0x80 * n, 0, 32, 0⟩
def CLE_NINVAL (n : Nat) : Field := ⟨0x3c1078 + 0x80 * n, 0, 32, 0⟩
def CLE_EXT_RDCMDX (n : Nat) : Field := ⟨0x3c107c + 0x80 * n, 24, 8, 0⟩
def CLE_EXT_CHKMASKX (n : Nat) : Field := ⟨0x3c107c + 0x80 * n, 16, 8, 0⟩
def CLE_EXT_CHKVALX (n : Nat) : Field := ⟨0x3c107c + 0x80 * n, 8, 8, 0⟩
def CLE_EXT_WRCMDX (n : Nat) : Field := ⟨0x3c107c + 0x80 * n, 0, 8, 0⟩
def CLE_TH_CFG_EN (t : Nat) : Field := ⟨0x3c3000 + 0x20 * t, 31, 1, 0⟩
def CLE_TH_CFG_TDECL (t : Nat) : Field := ⟨0x3c3000 + 0x20 * t, 0, 16, 0x2580⟩
def CLE_TH_PDECL (t : Nat) : Field := ⟨0x3c3004 + 0x20 * t, 0, 16, 0x88b8⟩
def CLE_TH_PTILE (t : Nat) : Field := ⟨0x3c3008 + 0x20 * t, 0, 32, 0⟩
def CLE_TH_PHTR (t : Nat) : Field := ⟨0x3c300c + 0x20 * t, 0, 32, 0⟩
def CLE_TH_TEMP (t : Nat) : Field := ⟨0x3c3010 + 0x20 * t, 0, 16, 0⟩
def CLE_TH_STATUS_DRIFT (t : Nat) : Field := ⟨0x3c3014 + 0x20 * t, 3, 1, 0⟩
def CLE_TH_STATUS_HSAT (t : Nat) : Field := ⟨0x3c3014 + 0x20 * t, 2, 1, 0⟩
def CLE_TH_STATUS_INBAND (t : Nat) : Field := ⟨0x3c3014 + 0x20 * t, 1, 1, 0⟩
def CLE_TH_STATUS_HELD (t : Nat) : Field := ⟨0x3c3014 + 0x20 * t, 0, 1, 0⟩
def CLE_TH_EXIT_LO (t : Nat) : Field := ⟨0x3c3018 + 0x20 * t, 0, 32, 0⟩
def CLE_TH_EXIT_HI (t : Nat) : Field := ⟨0x3c301c + 0x20 * t, 0, 32, 0⟩
def CAL_CTRL_PERSIST : Field := ⟨0x400000, 0, 1, 1⟩
def CAL_STATUS_LATE : Field := ⟨0x400004, 31, 1, 0⟩
def CAL_STATUS_REFUSED : Field := ⟨0x400004, 30, 1, 0⟩
def CAL_STATUS_FAIL : Field := ⟨0x400004, 29, 1, 0⟩
def CAL_STATUS_BUSY : Field := ⟨0x400004, 0, 8, 0⟩
def CAL_REQ_KIND : Field := ⟨0x400008, 28, 4, 0⟩
def CAL_REQ_ELEM : Field := ⟨0x400008, 8, 2, 0⟩
def CAL_REQ_TARGET : Field := ⟨0x400008, 0, 8, 0⟩
def CAL_REQ_DEADLINE : Field := ⟨0x40000c, 0, 16, 0x3e8⟩
def CAL_QDEPTH : Field := ⟨0x400010, 0, 11, 0⟩
def CAL_NDONE : Field := ⟨0x400014, 0, 32, 0⟩
def CAL_NFAIL : Field := ⟨0x400018, 0, 32, 0⟩
def CAL_NLATE : Field := ⟨0x40001c, 0, 32, 0⟩
def CAL_NREFUSED : Field := ⟨0x400020, 0, 32, 0⟩
def CAL_LAST_KIND : Field := ⟨0x400024, 28, 4, 0⟩
def CAL_LAST_RESULT : Field := ⟨0x400024, 25, 3, 0⟩
def CAL_LAST_ELEM : Field := ⟨0x400024, 8, 2, 0⟩
def CAL_LAST_TARGET : Field := ⟨0x400024, 0, 8, 0⟩
def CAL_VREF : Field := ⟨0x400028, 0, 16, 0⟩
def CAL_GRAFT_SP1USE (t : Nat) : Field := ⟨0x400080 + 0x4 * t, 31, 1, 0⟩
def CAL_GRAFT_SP1BAD (t : Nat) : Field := ⟨0x400080 + 0x4 * t, 30, 1, 0⟩
def CAL_GRAFT_SP1CH (t : Nat) : Field := ⟨0x400080 + 0x4 * t, 16, 5, 0⟩
def CAL_GRAFT_SP0USE (t : Nat) : Field := ⟨0x400080 + 0x4 * t, 15, 1, 0⟩
def CAL_GRAFT_SP0BAD (t : Nat) : Field := ⟨0x400080 + 0x4 * t, 14, 1, 0⟩
def CAL_GRAFT_SP0CH (t : Nat) : Field := ⟨0x400080 + 0x4 * t, 0, 5, 0⟩
def TSK_STATUS_ROVF : Field := ⟨0x480000, 2, 1, 0⟩
def TSK_STATUS_DEPERR : Field := ⟨0x480000, 1, 1, 0⟩
def TSK_STATUS_ARMREF : Field := ⟨0x480000, 0, 1, 0⟩
def TSK_TBL_BASE_LO : Field := ⟨0x480008, 12, 20, 0⟩
def TSK_TBL_BASE_HI : Field := ⟨0x48000c, 0, 4, 0⟩
def TSK_ARM : Field := ⟨0x480010, 0, 20, 0⟩
def TSK_DEC : Field := ⟨0x480014, 0, 20, 0⟩
def TSK_FREE : Field := ⟨0x480018, 0, 20, 0⟩
def TSK_QUERY : Field := ⟨0x48001c, 0, 20, 0⟩
def TSK_QSTATE : Field := ⟨0x480020, 0, 32, 0⟩
def TSK_NREADY : Field := ⟨0x480024, 0, 17, 0⟩
def TSK_NDISP : Field := ⟨0x480028, 0, 32, 0⟩
def TSK_NDONE : Field := ⟨0x48002c, 0, 32, 0⟩
def TSK_NRETRY : Field := ⟨0x480030, 0, 32, 0⟩
def TSK_NFAIL : Field := ⟨0x480034, 0, 32, 0⟩
def TSK_NDEPERR : Field := ⟨0x480038, 0, 32, 0⟩
def TSK_NREFUSED : Field := ⟨0x48003c, 0, 32, 0⟩
def TSK_C_REQ_REQ (c : Nat) : Field := ⟨0x481000 + 0x100 * c, 0, 1, 0⟩
def TSK_C_WINSTAT_VALID (c : Nat) : Field := ⟨0x481004 + 0x100 * c, 31, 1, 0⟩
def TSK_C_WINSTAT_POISON (c : Nat) : Field := ⟨0x481004 + 0x100 * c, 30, 1, 0⟩
def TSK_C_WINSTAT_RETRY (c : Nat) : Field := ⟨0x481004 + 0x100 * c, 26, 4, 0⟩
def TSK_C_WINSTAT_TASK (c : Nat) : Field := ⟨0x481004 + 0x100 * c, 0, 20, 0⟩
def TSK_C_WIN (c : Nat) (i : Nat) : Field := ⟨0x481008 + 0x100 * c + 0x4 * i, 0, 32, 0⟩
def TSK_C_DONE_STATUS (c : Nat) : Field := ⟨0x481028 + 0x100 * c, 30, 2, 0⟩
def TSK_C_DONE_TASK (c : Nat) : Field := ⟨0x481028 + 0x100 * c, 0, 20, 0⟩
def TSK_C_NSERV (c : Nat) : Field := ⟨0x48102c + 0x100 * c, 0, 3, 0⟩
def QUE_STATUS_OPENREF : Field := ⟨0x4c0000, 2, 1, 0⟩
def QUE_STATUS_CFGREF : Field := ⟨0x4c0000, 1, 1, 0⟩
def QUE_STATUS_POOLEMPTY : Field := ⟨0x4c0000, 0, 1, 0⟩
def QUE_POOL_BASE_LO : Field := ⟨0x4c0008, 12, 20, 0⟩
def QUE_POOL_BASE_HI : Field := ⟨0x4c000c, 0, 4, 0⟩
def QUE_POOL_CELLS : Field := ⟨0x4c0010, 0, 25, 0⟩
def QUE_POOL_FREE : Field := ⟨0x4c0014, 0, 25, 0⟩
def QUE_NDROP : Field := ⟨0x4c0018, 0, 32, 0⟩
def QUE_NVRDROP : Field := ⟨0x4c001c, 0, 32, 0⟩
def QUE_IDX : Field := ⟨0x4c0020, 0, 16, 0⟩
def QUE_CFG_OPEN : Field := ⟨0x4c0024, 31, 1, 0⟩
def QUE_CFG_CLOSE : Field := ⟨0x4c0024, 30, 1, 0⟩
def QUE_CFG_FLUSH : Field := ⟨0x4c0024, 29, 1, 0⟩
def QUE_CFG_LIMIT : Field := ⟨0x4c0024, 0, 25, 0⟩
def QUE_QSTAT : Field := ⟨0x4c0028, 0, 32, 0⟩
def QUE_QNDROP : Field := ⟨0x4c002c, 0, 32, 0⟩
def QUE_QSEQ : Field := ⟨0x4c0030, 0, 32, 0⟩
def QUE_WIN_CMD_OP : Field := ⟨0x4c0040, 30, 2, 0⟩
def QUE_WIN_CMD_LEN : Field := ⟨0x4c0040, 16, 10, 0⟩
def QUE_WIN_CMD_QUEUE : Field := ⟨0x4c0040, 0, 16, 0⟩
def QUE_WIN_STAT_BUSY : Field := ⟨0x4c0044, 31, 1, 0⟩
def QUE_WIN_STAT_RES : Field := ⟨0x4c0044, 0, 4, 0⟩
def QUE_WIN_RD (i : Nat) : Field := ⟨0x4c0080 + 0x4 * i, 0, 32, 0⟩
def QUE_WIN_DATA (i : Nat) : Field := ⟨0x4c0400 + 0x4 * i, 0, 32, 0⟩
def QUE_SITERQ_EN (n : Nat) : Field := ⟨0x4c0800 + 0x4 * n, 31, 1, 0⟩
def QUE_SITERQ_Q (n : Nat) : Field := ⟨0x4c0800 + 0x4 * n, 0, 16, 0⟩
def QUE_HR_CFG_BIND (r : Nat) : Field := ⟨0x4c1000 + 0x40 * r, 31, 1, 0⟩
def QUE_HR_CFG_MSIEN (r : Nat) : Field := ⟨0x4c1000 + 0x40 * r, 30, 1, 0⟩
def QUE_HR_CFG_SIZE (r : Nat) : Field := ⟨0x4c1000 + 0x40 * r, 16, 6, 0⟩
def QUE_HR_CFG_QUEUE (r : Nat) : Field := ⟨0x4c1000 + 0x40 * r, 0, 16, 0⟩
def QUE_HR_VEC (r : Nat) : Field := ⟨0x4c1004 + 0x40 * r, 0, 11, 0⟩
def QUE_HR_BASE_LO (r : Nat) : Field := ⟨0x4c1008 + 0x40 * r, 12, 20, 0⟩
def QUE_HR_BASE_HI (r : Nat) : Field := ⟨0x4c100c + 0x40 * r, 0, 32, 0⟩
def QUE_HR_WB_LO (r : Nat) : Field := ⟨0x4c1010 + 0x40 * r, 3, 29, 0⟩
def QUE_HR_WB_HI (r : Nat) : Field := ⟨0x4c1014 + 0x40 * r, 0, 32, 0⟩
def QUE_HR_PROD_LO (r : Nat) : Field := ⟨0x4c1018 + 0x40 * r, 0, 32, 0⟩
def QUE_HR_PROD_HI (r : Nat) : Field := ⟨0x4c101c + 0x40 * r, 0, 32, 0⟩
def QUE_HR_CONS_LO (r : Nat) : Field := ⟨0x4c1020 + 0x40 * r, 0, 32, 0⟩
def QUE_HR_CONS_HI (r : Nat) : Field := ⟨0x4c1024 + 0x40 * r, 0, 32, 0⟩
def QUE_HR_STATUS_BINDREF (r : Nat) : Field := ⟨0x4c1028 + 0x40 * r, 2, 1, 0⟩
def QUE_HR_STATUS_CONSERR (r : Nat) : Field := ⟨0x4c1028 + 0x40 * r, 1, 1, 0⟩
def QUE_HR_STATUS_BOUND (r : Nat) : Field := ⟨0x4c1028 + 0x40 * r, 0, 1, 0⟩
def HBC_CTRL_AUTORETIRE : Field := ⟨0x500000, 4, 1, 1⟩
def HBC_CTRL_SCRUB_EN : Field := ⟨0x500000, 3, 1, 1⟩
def HBC_CTRL_INSERVICE : Field := ⟨0x500000, 0, 1, 0⟩
def HBC_STATUS_RETREF : Field := ⟨0x500004, 11, 1, 0⟩
def HBC_STATUS_RETBUSY : Field := ⟨0x500004, 10, 1, 0⟩
def HBC_STATUS_HOT1 : Field := ⟨0x500004, 9, 1, 0⟩
def HBC_STATUS_HOT0 : Field := ⟨0x500004, 8, 1, 0⟩
def HBC_STATUS_DBL1 : Field := ⟨0x500004, 7, 1, 0⟩
def HBC_STATUS_DBL0 : Field := ⟨0x500004, 6, 1, 0⟩
def HBC_STATUS_PAUSE : Field := ⟨0x500004, 5, 1, 0⟩
def HBC_STATUS_FORCED : Field := ⟨0x500004, 4, 1, 0⟩
def HBC_STATUS_NORMAL : Field := ⟨0x500004, 1, 1, 0⟩
def HBC_STATUS_INSERVICE : Field := ⟨0x500004, 0, 1, 0⟩
def HBC_PORT_PRIO : Field := ⟨0x500008, 0, 32, 0x1234567⟩
def HBC_FENCE : Field := ⟨0x50000c, 0, 8, 0⟩
def HBC_FENCE_SEQ : Field := ⟨0x500010, 0, 32, 0⟩
def HBC_RETIRE_GO : Field := ⟨0x500014, 31, 1, 0⟩
def HBC_RETIRE_CH : Field := ⟨0x500014, 0, 5, 0⟩
def HBC_RMAP_VALID : Field := ⟨0x500018, 31, 1, 0⟩
def HBC_RMAP_COPYING : Field := ⟨0x500018, 30, 1, 0⟩
def HBC_RMAP_CH : Field := ⟨0x500018, 0, 5, 0⟩
def HBC_RETIRE_PROG : Field := ⟨0x50001c, 0, 11, 0⟩
def HBC_TEMP_M1 : Field := ⟨0x500020, 8, 8, 0⟩
def HBC_TEMP_M0 : Field := ⟨0x500020, 0, 8, 0⟩
def HBC_REFUSED : Field := ⟨0x500024, 0, 32, 0⟩
def HBC_NDEFER : Field := ⟨0x500028, 0, 32, 0⟩
def HBC_LATMAX : Field := ⟨0x50002c, 0, 10, 0⟩
def HBC_SCRUB_HRS : Field := ⟨0x500030, 0, 5, 0x18⟩
def HBC_CH_STATUS_STATE (k : Nat) : Field := ⟨0x500400 + 0x10 * k, 30, 2, 0⟩
def HBC_CH_STATUS_DBL (k : Nat) : Field := ⟨0x500400 + 0x10 * k, 29, 1, 0⟩
def HBC_CH_STATUS_RTSEQ (k : Nat) : Field := ⟨0x500400 + 0x10 * k, 0, 4, 0⟩
def HBC_CH_CE (k : Nat) : Field := ⟨0x500404 + 0x10 * k, 0, 32, 0⟩
def HBC_CH_UE (k : Nat) : Field := ⟨0x500408 + 0x10 * k, 0, 32, 0⟩
def HBC_CH_NRTFAIL (k : Nat) : Field := ⟨0x50040c + 0x10 * k, 0, 32, 0⟩
def LNK_PCIE_STATUS_UP : Field := ⟨0x580010, 31, 1, 0⟩
def LNK_PCIE_STATUS_FLIT : Field := ⟨0x580010, 30, 1, 0⟩
def LNK_PCIE_STATUS_REVERSED : Field := ⟨0x580010, 29, 1, 0⟩
def LNK_PCIE_STATUS_RATE : Field := ⟨0x580010, 26, 3, 0⟩
def LNK_PCIE_STATUS_WIDTH : Field := ⟨0x580010, 22, 4, 0⟩
def LNK_PCIE_STATUS_LPWR : Field := ⟨0x580010, 20, 2, 0⟩
def LNK_PCIE_STATUS_POL : Field := ⟨0x580010, 0, 8, 0⟩
def LNK_PCIE_NDOWN : Field := ⟨0x580014, 0, 32, 0⟩
def LNK_RRA_TMO : Field := ⟨0x580018, 0, 16, 0x64⟩
def LNK_RRA_DEV : Field := ⟨0x580020, 0, 13, 0⟩
def LNK_RRA_ADDR : Field := ⟨0x580024, 0, 32, 0⟩
def LNK_RRA_DATA : Field := ⟨0x580028, 0, 32, 0⟩
def LNK_RRA_CMD_OP : Field := ⟨0x58002c, 30, 2, 0⟩
def LNK_RRA_STAT_BUSY : Field := ⟨0x580030, 31, 1, 0⟩
def LNK_RRA_STAT_CMDREF : Field := ⟨0x580030, 30, 1, 0⟩
def LNK_RRA_STAT_RESULT : Field := ⟨0x580030, 0, 4, 0⟩
def LNK_NRRA : Field := ⟨0x580034, 0, 32, 0⟩
def LNK_AZ_CTRL_RETRAIN (p : Nat) : Field := ⟨0x581000 + 0x400 * p, 31, 1, 0⟩
def LNK_AZ_CTRL_FALLOW (p : Nat) : Field := ⟨0x581000 + 0x400 * p, 30, 1, 0⟩
def LNK_AZ_CTRL_WAKE (p : Nat) : Field := ⟨0x581000 + 0x400 * p, 29, 1, 0⟩
def LNK_AZ_CTRL_TEST (p : Nat) : Field := ⟨0x581000 + 0x400 * p, 28, 1, 0⟩
def LNK_AZ_CTRL_MAXW (p : Nat) : Field := ⟨0x581000 + 0x400 * p, 24, 2, 2⟩
def LNK_AZ_CTRL_AUTOWIDEN (p : Nat) : Field := ⟨0x581000 + 0x400 * p, 3, 1, 1⟩
def LNK_AZ_CTRL_AUTOEQ (p : Nat) : Field := ⟨0x581000 + 0x400 * p, 2, 1, 1⟩
def LNK_AZ_CTRL_EN (p : Nat) : Field := ⟨0x581000 + 0x400 * p, 0, 1, 1⟩
def LNK_AZ_STATUS_STATE (p : Nat) : Field := ⟨0x581004 + 0x400 * p, 29, 3, 0⟩
def LNK_AZ_STATUS_WIDTH (p : Nat) : Field := ⟨0x581004 + 0x400 * p, 27, 2, 0⟩
def LNK_AZ_STATUS_DET (p : Nat) : Field := ⟨0x581004 + 0x400 * p, 26, 1, 0⟩
def LNK_AZ_STATUS_REVERSED (p : Nat) : Field := ⟨0x581004 + 0x400 * p, 25, 1, 0⟩
def LNK_AZ_STATUS_EQREF (p : Nat) : Field := ⟨0x581004 + 0x400 * p, 24, 1, 0⟩
def LNK_AZ_STATUS_POLINV (p : Nat) : Field := ⟨0x581004 + 0x400 * p, 20, 4, 0⟩
def LNK_AZ_STATUS_LANES (p : Nat) : Field := ⟨0x581004 + 0x400 * p, 16, 4, 0⟩
def LNK_AZ_STATUS_DROPPED (p : Nat) : Field := ⟨0x581004 + 0x400 * p, 12, 4, 0⟩
def LNK_AZ_STATUS_CAUSE (p : Nat) : Field := ⟨0x581004 + 0x400 * p, 0, 4, 0⟩
def LNK_AZ_NCRC (p : Nat) : Field := ⟨0x581008 + 0x400 * p, 0, 32, 0⟩
def LNK_AZ_NREPLAY (p : Nat) : Field := ⟨0x58100c + 0x400 * p, 0, 32, 0⟩
def LNK_AZ_NRETRAIN (p : Nat) : Field := ⟨0x581010 + 0x400 * p, 0, 32, 0⟩
def LNK_AZ_NTLOST (p : Nat) : Field := ⟨0x581014 + 0x400 * p, 0, 32, 0⟩
def LNK_AZ_NWIDTH (p : Nat) : Field := ⟨0x581018 + 0x400 * p, 0, 32, 0⟩
def LNK_TXEQ_POST (p : Nat) (l : Nat) : Field := ⟨0x581100 + 0x400 * p + 0x40 * l, 8, 6, 8⟩
def LNK_TXEQ_PRE (p : Nat) (l : Nat) : Field := ⟨0x581100 + 0x400 * p + 0x40 * l, 0, 5, 4⟩
def LNK_RXEQ_CTLE (p : Nat) (l : Nat) : Field := ⟨0x581104 + 0x400 * p + 0x40 * l, 16, 5, 0⟩
def LNK_RXEQ_DFE (p : Nat) (l : Nat) : Field := ⟨0x581104 + 0x400 * p + 0x40 * l, 0, 12, 0⟩
def LNK_LSTATUS_PRBSREF (p : Nat) (l : Nat) : Field := ⟨0x581108 + 0x400 * p + 0x40 * l, 3, 1, 0⟩
def LNK_LSTATUS_PRBSSYNC (p : Nat) (l : Nat) : Field := ⟨0x581108 + 0x400 * p + 0x40 * l, 2, 1, 0⟩
def LNK_LSTATUS_LOCK (p : Nat) (l : Nat) : Field := ⟨0x581108 + 0x400 * p + 0x40 * l, 1, 1, 0⟩
def LNK_LSTATUS_INWIDTH (p : Nat) (l : Nat) : Field := ⟨0x581108 + 0x400 * p + 0x40 * l, 0, 1, 0⟩
def LNK_PRBS_CTRL_PAT (p : Nat) (l : Nat) : Field := ⟨0x58110c + 0x400 * p + 0x40 * l, 2, 2, 0⟩
def LNK_PRBS_CTRL_CHK (p : Nat) (l : Nat) : Field := ⟨0x58110c + 0x400 * p + 0x40 * l, 1, 1, 0⟩
def LNK_PRBS_CTRL_GEN (p : Nat) (l : Nat) : Field := ⟨0x58110c + 0x400 * p + 0x40 * l, 0, 1, 0⟩
def LNK_PRBS_BITS_LO (p : Nat) (l : Nat) : Field := ⟨0x581110 + 0x400 * p + 0x40 * l, 0, 32, 0⟩
def LNK_PRBS_BITS_HI (p : Nat) (l : Nat) : Field := ⟨0x581114 + 0x400 * p + 0x40 * l, 0, 16, 0⟩
def LNK_PRBS_ERR (p : Nat) (l : Nat) : Field := ⟨0x581118 + 0x400 * p + 0x40 * l, 0, 32, 0⟩
def LNK_NHDRERR (p : Nat) (l : Nat) : Field := ⟨0x58111c + 0x400 * p + 0x40 * l, 0, 32, 0⟩
def LNK_ROUTE (i : Nat) : Field := ⟨0x588000 + 0x4 * i, 0, 32, 0⟩
def WTM_CTRL_SYNCP : Field := ⟨0x5c0000, 8, 5, 4⟩
def WTM_CTRL_ROOTSRC : Field := ⟨0x5c0000, 1, 1, 1⟩
def WTM_CTRL_SET : Field := ⟨0x5c0000, 0, 1, 0⟩
def WTM_STATUS_SETREF : Field := ⟨0x5c0004, 5, 1, 0⟩
def WTM_STATUS_INCREF : Field := ⟨0x5c0004, 4, 1, 0⟩
def WTM_STATUS_COARSE : Field := ⟨0x5c0004, 2, 1, 0⟩
def WTM_STATUS_FREERUN : Field := ⟨0x5c0004, 1, 1, 0⟩
def WTM_STATUS_SYNCED : Field := ⟨0x5c0004, 0, 1, 0⟩
def WTM_INC_LO : Field := ⟨0x5c0008, 0, 32, 0⟩
def WTM_INC_HI : Field := ⟨0x5c000c, 0, 8, 4⟩
def WTM_NOW_FRAC : Field := ⟨0x5c0010, 0, 16, 0⟩
def WTM_NOW_NS : Field := ⟨0x5c0014, 0, 32, 0⟩
def WTM_NOW_SEC_LO : Field := ⟨0x5c0018, 0, 32, 0⟩
def WTM_NOW_SEC_HI : Field := ⟨0x5c001c, 0, 16, 0⟩
def WTM_SET_NS : Field := ⟨0x5c0020, 0, 32, 0⟩
def WTM_SET_SEC_LO : Field := ⟨0x5c0024, 0, 32, 0⟩
def WTM_SET_SEC_HI : Field := ⟨0x5c0028, 0, 16, 0⟩
def WTM_ADJ : Field := ⟨0x5c002c, 0, 32, 0⟩
def WTM_OFS_LO : Field := ⟨0x5c0030, 0, 32, 0⟩
def WTM_OFS_HI : Field := ⟨0x5c0034, 0, 32, 0⟩
def WTM_OFS_SEQ : Field := ⟨0x5c0038, 0, 16, 0⟩
def WTM_NSYNC : Field := ⟨0x5c003c, 0, 32, 0⟩
def WTM_ET_CFG_EDGE (i : Nat) : Field := ⟨0x5c0100 + 0x20 * i, 0, 2, 0⟩
def WTM_ET_QUEUE_EN (i : Nat) : Field := ⟨0x5c0104 + 0x20 * i, 31, 1, 0⟩
def WTM_ET_QUEUE_Q (i : Nat) : Field := ⟨0x5c0104 + 0x20 * i, 0, 16, 0⟩
def WTM_ET_NS (i : Nat) : Field := ⟨0x5c0108 + 0x20 * i, 0, 32, 0⟩
def WTM_ET_SEC_LO (i : Nat) : Field := ⟨0x5c010c + 0x20 * i, 0, 32, 0⟩
def WTM_ET_SEC_HI_FRAC16 (i : Nat) : Field := ⟨0x5c0110 + 0x20 * i, 28, 4, 0⟩
def WTM_ET_SEC_HI_EDGE (i : Nat) : Field := ⟨0x5c0110 + 0x20 * i, 27, 1, 0⟩
def WTM_ET_SEC_HI_COARSE (i : Nat) : Field := ⟨0x5c0110 + 0x20 * i, 26, 1, 0⟩
def WTM_ET_SEC_HI_SEC (i : Nat) : Field := ⟨0x5c0110 + 0x20 * i, 0, 16, 0⟩
def WTM_ET_GVC_LO (i : Nat) : Field := ⟨0x5c0114 + 0x20 * i, 0, 32, 0⟩
def WTM_ET_GVC_HI (i : Nat) : Field := ⟨0x5c0118 + 0x20 * i, 0, 32, 0⟩
def WTM_ET_NSTAMP (i : Nat) : Field := ⟨0x5c011c + 0x20 * i, 0, 32, 0⟩
def RSC_STATUS_ACTIVE : Field := ⟨0x600000, 30, 2, 1⟩
def RSC_STATUS_SBYREADY : Field := ⟨0x600000, 29, 1, 0⟩
def RSC_STATUS_RECOVERY : Field := ⟨0x600000, 28, 1, 0⟩
def RSC_STATUS_REBUILT : Field := ⟨0x600000, 27, 1, 0⟩
def RSC_STATUS_HOSTATE : Field := ⟨0x600000, 24, 3, 0⟩
def RSC_BOOT_RESULT : Field := ⟨0x600004, 24, 8, 0⟩
def RSC_BOOT_FAILED : Field := ⟨0x600004, 0, 16, 0⟩
def RSC_CFG_DUMP : Field := ⟨0x600008, 0, 1, 0⟩
def RSC_KEYS_AUTH : Field := ⟨0x600010, 8, 4, 0⟩
def RSC_KEYS_REVOKED : Field := ⟨0x600010, 4, 4, 0⟩
def RSC_KEYS_VALID : Field := ⟨0x600010, 0, 4, 0⟩
def RSC_RBK (k : Nat) : Field := ⟨0x600014 + 0x4 * k, 0, 32, 0⟩
def RSC_WDOG : Field := ⟨0x600020, 0, 8, 0xa⟩
def RSC_WDOG_KICK_KICK : Field := ⟨0x600024, 0, 1, 0⟩
def RSC_NTAKEOVER : Field := ⟨0x600028, 0, 32, 0⟩
def RSC_HWREFUSED : Field := ⟨0x60002c, 0, 32, 0⟩
def RSC_SLOT_VER (n : Nat) : Field := ⟨0x600040 + 0x8 * n, 0, 32, 0⟩
def RSC_SLOT_INFO_VALID (n : Nat) : Field := ⟨0x600044 + 0x8 * n, 31, 1, 0⟩
def RSC_SLOT_INFO_INUSE (n : Nat) : Field := ⟨0x600044 + 0x8 * n, 30, 1, 0⟩
def RSC_SLOT_INFO_SIGNER (n : Nat) : Field := ⟨0x600044 + 0x8 * n, 24, 3, 0⟩
def SCN_CTRL_RUN (c : Nat) : Field := ⟨0x601000 + 0x400 * c, 31, 1, 0⟩
def SCN_CTRL_RESTART (c : Nat) : Field := ⟨0x601000 + 0x400 * c, 30, 1, 0⟩
def SCN_STATUS_STATE (c : Nat) : Field := ⟨0x601004 + 0x400 * c, 29, 3, 0⟩
def SCN_STATUS_DEPTH (c : Nat) : Field := ⟨0x601004 + 0x400 * c, 20, 4, 0⟩
def SCN_STATUS_CAUSE (c : Nat) : Field := ⟨0x601004 + 0x400 * c, 16, 4, 0⟩
def SCN_IMG_SLOT (c : Nat) : Field := ⟨0x601008 + 0x400 * c, 0, 4, 0⟩
def SCN_NWILT (c : Nat) : Field := ⟨0x60100c + 0x400 * c, 0, 32, 0⟩
def SCN_NPLOTF (c : Nat) : Field := ⟨0x601010 + 0x400 * c, 0, 32, 0⟩
def SCN_DOORBELL (c : Nat) : Field := ⟨0x601014 + 0x400 * c, 0, 16, 0⟩
def SCN_PLOT_VB (c : Nat) (k : Nat) : Field := ⟨0x601040 + 0x400 * c + 0x10 * k, 0, 28, 0⟩
def SCN_PLOT_TB (c : Nat) (k : Nat) : Field := ⟨0x601044 + 0x400 * c + 0x10 * k, 0, 28, 0⟩
def SCN_PLOT_ATTR_EN (c : Nat) (k : Nat) : Field := ⟨0x601048 + 0x400 * c + 0x10 * k, 31, 1, 0⟩
def SCN_PLOT_ATTR_R (c : Nat) (k : Nat) : Field := ⟨0x601048 + 0x400 * c + 0x10 * k, 30, 1, 0⟩
def SCN_PLOT_ATTR_W (c : Nat) (k : Nat) : Field := ⟨0x601048 + 0x400 * c + 0x10 * k, 29, 1, 0⟩
def SCN_PLOT_ATTR_X (c : Nat) (k : Nat) : Field := ⟨0x601048 + 0x400 * c + 0x10 * k, 28, 1, 0⟩
def SCN_PLOT_ATTR_TGT (c : Nat) (k : Nat) : Field := ⟨0x601048 + 0x400 * c + 0x10 * k, 26, 2, 0⟩
def SCN_PLOT_ATTR_SIZE (c : Nat) (k : Nat) : Field := ⟨0x601048 + 0x400 * c + 0x10 * k, 0, 6, 0⟩
def SCN_SPLOT_VB (c : Nat) (k : Nat) : Field := ⟨0x6010c0 + 0x400 * c + 0x10 * k, 0, 28, 0⟩
def SCN_SPLOT_TB (c : Nat) (k : Nat) : Field := ⟨0x6010c4 + 0x400 * c + 0x10 * k, 0, 28, 0⟩
def SCN_SPLOT_ATTR_EN (c : Nat) (k : Nat) : Field := ⟨0x6010c8 + 0x400 * c + 0x10 * k, 31, 1, 0⟩
def SCN_SPLOT_ATTR_R (c : Nat) (k : Nat) : Field := ⟨0x6010c8 + 0x400 * c + 0x10 * k, 30, 1, 0⟩
def SCN_SPLOT_ATTR_W (c : Nat) (k : Nat) : Field := ⟨0x6010c8 + 0x400 * c + 0x10 * k, 29, 1, 0⟩
def SCN_SPLOT_ATTR_X (c : Nat) (k : Nat) : Field := ⟨0x6010c8 + 0x400 * c + 0x10 * k, 28, 1, 0⟩
def SCN_SPLOT_ATTR_TGT (c : Nat) (k : Nat) : Field := ⟨0x6010c8 + 0x400 * c + 0x10 * k, 26, 2, 0⟩
def SCN_SPLOT_ATTR_SIZE (c : Nat) (k : Nat) : Field := ⟨0x6010c8 + 0x400 * c + 0x10 * k, 0, 6, 0⟩
def SCN_WREC_X_LO (c : Nat) (r : Nat) : Field := ⟨0x601200 + 0x400 * c + 0x8 * r, 0, 32, 0⟩
def SCN_WREC_X_HI (c : Nat) (r : Nat) : Field := ⟨0x601204 + 0x400 * c + 0x8 * r, 0, 32, 0⟩
def SCN_WREC_MEPC (c : Nat) (w : Nat) : Field := ⟨0x601300 + 0x400 * c + 0x4 * w, 0, 32, 0⟩
def SCN_WREC_MCAUSE (c : Nat) (w : Nat) : Field := ⟨0x601308 + 0x400 * c + 0x4 * w, 0, 32, 0⟩
def SCN_WREC_MTVAL (c : Nat) (w : Nat) : Field := ⟨0x601310 + 0x400 * c + 0x4 * w, 0, 32, 0⟩
def SCN_WREC_MSTATUS (c : Nat) (w : Nat) : Field := ⟨0x601318 + 0x400 * c + 0x4 * w, 0, 32, 0⟩
def SCN_WREC_CAUSE (c : Nat) : Field := ⟨0x601320 + 0x400 * c, 0, 4, 0⟩
def SCN_WREC_GVC (c : Nat) (w : Nat) : Field := ⟨0x601328 + 0x400 * c + 0x4 * w, 0, 32, 0⟩
def SCN_EVROUTE_EN (s : Nat) : Field := ⟨0x608000 + 0x4 * s, 31, 1, 0⟩
def SCN_EVROUTE_PRIO (s : Nat) : Field := ⟨0x608000 + 0x4 * s, 20, 4, 0⟩
def SCN_EVROUTE_CORE (s : Nat) : Field := ⟨0x608000 + 0x4 * s, 0, 5, 0⟩
def PTF_TS_W (c : Nat) (k : Nat) (i : Nat) : Field := ⟨0x1000000 + 0x10000 * c + 0x20 * k + 0x4 * i, 0, 32, 0⟩
def PTF_TS_STAT (c : Nat) (k : Nat) : Field := ⟨0x100001c + 0x10000 * c + 0x20 * k, 0, 32, 0⟩
def LVL_LS_W (c : Nat) (k : Nat) (i : Nat) : Field := ⟨0x1008000 + 0x10000 * c + 0x20 * k + 0x4 * i, 0, 32, 0⟩
def LVL_LS_STAT (c : Nat) (k : Nat) : Field := ⟨0x100801c + 0x10000 * c + 0x20 * k, 0, 32, 0⟩
def CAP_MS_AH (c : Nat) (m : Nat) : Field := ⟨0x100a000 + 0x10000 * c + 0x4 * m, 3, 1, 1⟩
def CAP_MS_AM (c : Nat) (m : Nat) : Field := ⟨0x100a000 + 0x10000 * c + 0x4 * m, 2, 1, 1⟩
def CAP_MS_AL (c : Nat) (m : Nat) : Field := ⟨0x100a000 + 0x10000 * c + 0x4 * m, 1, 1, 1⟩
def CAP_MS_MASK (c : Nat) (m : Nat) : Field := ⟨0x100a000 + 0x10000 * c + 0x4 * m, 0, 1, 0⟩
def CAP_TWCH_CARE (c : Nat) : Field := ⟨0x100a400 + 0x10000 * c, 8, 8, 0⟩
def CAP_TWCH_VALUE (c : Nat) : Field := ⟨0x100a400 + 0x10000 * c, 0, 8, 0⟩
def PTF_CH_STATUS (c : Nat) : Field := ⟨0x100e000 + 0x10000 * c, 0, 32, 0⟩
def PTF_CH_NREJ (c : Nat) : Field := ⟨0x100e004 + 0x10000 * c, 0, 32, 0⟩
def PTF_CH_LASTREJ_REASON (c : Nat) : Field := ⟨0x100e008 + 0x10000 * c, 24, 4, 0⟩
def PTF_CH_LASTREJ_ENTRY (c : Nat) : Field := ⟨0x100e008 + 0x10000 * c, 0, 10, 0⟩
def PTF_CH_NRUNT (c : Nat) : Field := ⟨0x100e00c + 0x10000 * c, 0, 32, 0⟩
def PTF_CH_NSHADOW (c : Nat) : Field := ⟨0x100e010 + 0x10000 * c, 0, 32, 0⟩
def PTF_CH_NCFG (c : Nat) : Field := ⟨0x100e014 + 0x10000 * c, 0, 32, 0⟩
def PTF_CH_EVGVC_LO (c : Nat) : Field := ⟨0x100e018 + 0x10000 * c, 0, 32, 0⟩
def PTF_CH_EVGVC_HI (c : Nat) : Field := ⟨0x100e01c + 0x10000 * c, 0, 32, 0⟩
def LVL_CH_STATUS (c : Nat) : Field := ⟨0x100e100 + 0x10000 * c, 0, 32, 0⟩
def LVL_CH_NREJ (c : Nat) : Field := ⟨0x100e104 + 0x10000 * c, 0, 32, 0⟩
def LVL_CH_LASTREJ_REASON (c : Nat) : Field := ⟨0x100e108 + 0x10000 * c, 24, 4, 0⟩
def LVL_CH_LASTREJ_ENTRY (c : Nat) : Field := ⟨0x100e108 + 0x10000 * c, 0, 8, 0⟩
def LVL_CH_UNSETTLED (c : Nat) : Field := ⟨0x100e10c + 0x10000 * c, 0, 32, 0⟩
def LVL_CH_NCFG (c : Nat) : Field := ⟨0x100e110 + 0x10000 * c, 0, 32, 0⟩
def LVL_CH_RBFAIL (c : Nat) : Field := ⟨0x100e114 + 0x10000 * c, 0, 32, 0⟩
def LVL_CH_RBGOOD_LO (c : Nat) : Field := ⟨0x100e118 + 0x10000 * c, 0, 32, 0⟩
def LVL_CH_RBGOOD_HI (c : Nat) : Field := ⟨0x100e11c + 0x10000 * c, 0, 32, 0⟩
def LVL_CH_UNTR_CLR (c : Nat) : Field := ⟨0x100e120 + 0x10000 * c, 31, 1, 0⟩
def LVL_CH_UNTR_CLRREF (c : Nat) : Field := ⟨0x100e120 + 0x10000 * c, 30, 1, 0⟩
def LVL_CH_UNTR_RBFAIL (c : Nat) : Field := ⟨0x100e120 + 0x10000 * c, 2, 1, 0⟩
def LVL_CH_UNTR_DLYTWIN (c : Nat) : Field := ⟨0x100e120 + 0x10000 * c, 1, 1, 0⟩
def LVL_CH_UNTR_LVTWIN (c : Nat) : Field := ⟨0x100e120 + 0x10000 * c, 0, 1, 0⟩
def CAL_CH_STATUS_TVALID (c : Nat) : Field := ⟨0x100e200 + 0x10000 * c, 31, 1, 0⟩
def CAL_CH_STATUS_DVALID (c : Nat) : Field := ⟨0x100e200 + 0x10000 * c, 30, 1, 0⟩
def CAL_CH_STATUS_QUEUED (c : Nat) : Field := ⟨0x100e200 + 0x10000 * c, 29, 1, 0⟩
def CAL_CH_STATUS_BUSY (c : Nat) : Field := ⟨0x100e200 + 0x10000 * c, 28, 1, 0⟩
def CAL_CH_STATUS_ELEM (c : Nat) : Field := ⟨0x100e200 + 0x10000 * c, 26, 2, 0⟩
def CAL_CH_STATUS_LASTRES (c : Nat) : Field := ⟨0x100e200 + 0x10000 * c, 0, 3, 0⟩
def CAL_CH_LANDDLY (c : Nat) : Field := ⟨0x100e204 + 0x10000 * c, 0, 16, 0⟩
def CAL_CH_TTEMP (c : Nat) : Field := ⟨0x100e208 + 0x10000 * c, 0, 16, 0⟩
def CAL_CH_CELLS_LO (c : Nat) : Field := ⟨0x100e20c + 0x10000 * c, 0, 32, 0⟩
def CAL_CH_CELLS_HI (c : Nat) : Field := ⟨0x100e210 + 0x10000 * c, 0, 16, 0⟩
def CAL_CH_CMP_VOL (c : Nat) : Field := ⟨0x100e214 + 0x10000 * c, 2, 2, 0⟩
def CAL_CH_CMP_VOH (c : Nat) : Field := ⟨0x100e214 + 0x10000 * c, 0, 2, 0⟩
def CAL_CH_SEG (c : Nat) : Field := ⟨0x100e218 + 0x10000 * c, 0, 27, 0⟩
def CAL_CH_NCAL (c : Nat) : Field := ⟨0x100e21c + 0x10000 * c, 0, 32, 0⟩
def PIN_SYMMAP_S3 (c : Nat) (m : Nat) : Field := ⟨0x100f000 + 0x10000 * c + 0x4 * m, 12, 4, 5⟩
def PIN_SYMMAP_S2 (c : Nat) (m : Nat) : Field := ⟨0x100f000 + 0x10000 * c + 0x4 * m, 8, 4, 4⟩
def PIN_SYMMAP_S1 (c : Nat) (m : Nat) : Field := ⟨0x100f000 + 0x10000 * c + 0x4 * m, 4, 4, 1⟩
def PIN_SYMMAP_S0 (c : Nat) (m : Nat) : Field := ⟨0x100f000 + 0x10000 * c + 0x4 * m, 0, 4, 0⟩
def PIN_SRC_SEL (c : Nat) (k : Nat) : Field := ⟨0x100f020 + 0x10000 * c + 0x4 * k, 29, 3, 0⟩
def PIN_SRC_INV (c : Nat) (k : Nat) : Field := ⟨0x100f020 + 0x10000 * c + 0x4 * k, 28, 1, 0⟩
def PIN_SRC_HI (c : Nat) (k : Nat) : Field := ⟨0x100f020 + 0x10000 * c + 0x4 * k, 27, 1, 0⟩
def PIN_SRC_STRCH (c : Nat) (k : Nat) : Field := ⟨0x100f020 + 0x10000 * c + 0x4 * k, 24, 3, 0⟩
def PIN_SRC_LANE (c : Nat) (k : Nat) : Field := ⟨0x100f020 + 0x10000 * c + 0x4 * k, 19, 5, 0⟩
def PIN_SRC_UISTEP (c : Nat) (k : Nat) : Field := ⟨0x100f020 + 0x10000 * c + 0x4 * k, 15, 1, 0⟩
def PIN_SRC_BIT (c : Nat) (k : Nat) : Field := ⟨0x100f020 + 0x10000 * c + 0x4 * k, 8, 7, 0⟩
def PIN_SRC_CSYM (c : Nat) (k : Nat) : Field := ⟨0x100f020 + 0x10000 * c + 0x4 * k, 0, 2, 0⟩
def PIN_SITE_ASSIGNED (c : Nat) : Field := ⟨0x100f030 + 0x10000 * c, 7, 1, 0⟩
def PIN_SITE_SITE (c : Nat) : Field := ⟨0x100f030 + 0x10000 * c, 0, 6, 0⟩
def PIN_DVALID (c : Nat) : Field := ⟨0x100f034 + 0x10000 * c, 0, 12, 0⟩
def APG_DIMM_LO (g : Nat) (m : Nat) : Field := ⟨0x5010000 + 0x100000 * g + 0x8 * m, 0, 32, 0⟩
def APG_DIMM_HI (g : Nat) (m : Nat) : Field := ⟨0x5010004 + 0x100000 * g + 0x8 * m, 0, 32, 0⟩
def APG_ASCR_TBL (g : Nat) (k : Nat) (i : Nat) : Field := ⟨0x5040000 + 0x100000 * g + 0x40000 * k + 0x4 * i, 0, 16, i⟩
def APG_DSCR_TBL (g : Nat) (i : Nat) : Field := ⟨0x50c0000 + 0x100000 * g + 0x4 * i, 0, 8, 0⟩

/-- Registers of the GLB block. -/
def regsGlb : List RegDesc := [
  ⟨"GLB_IDENT", 0x0, 1, 0x0, 1, 0x0, 1, 0x0, false, false, none, fun _ _ _ => [⟨GLB_IDENT_PART, .ro, false⟩, ⟨GLB_IDENT_FAMILY, .ro, false⟩, ⟨GLB_IDENT_BUILD, .ro, false⟩]⟩,
  ⟨"GLB_REV", 0x4, 1, 0x0, 1, 0x0, 1, 0x0, false, false, none, fun _ _ _ => [⟨GLB_REV_ROMVER, .ro, false⟩, ⟨GLB_REV_STEP, .ro, false⟩]⟩,
  ⟨"GLB_UID_LO", 0x8, 1, 0x0, 1, 0x0, 1, 0x0, false, false, none, fun _ _ _ => [⟨GLB_UID_LO, .ro, false⟩]⟩,
  ⟨"GLB_UID_HI", 0xc, 1, 0x0, 1, 0x0, 1, 0x0, false, false, none, fun _ _ _ => [⟨GLB_UID_HI, .ro, false⟩]⟩,
  ⟨"GLB_OPTIONS", 0x10, 1, 0x0, 1, 0x0, 1, 0x0, false, false, none, fun _ _ _ => [⟨GLB_OPTIONS, .ro, false⟩]⟩,
  ⟨"GLB_SUMMARY", 0x14, 1, 0x0, 1, 0x0, 1, 0x0, true, false, none, fun _ _ _ => [⟨GLB_SUMMARY, .ro, true⟩]⟩,
  ⟨"GLB_BADACC", 0x18, 1, 0x0, 1, 0x0, 1, 0x0, true, false, none, fun _ _ _ => [⟨GLB_BADACC, .ro, false⟩]⟩,
  ⟨"GLB_SCRATCH", 0x1c, 1, 0x0, 1, 0x0, 1, 0x0, false, false, none, fun _ _ _ => [⟨GLB_SCRATCH, .rw, false⟩]⟩,
  ⟨"GLB_RST_CAUSE", 0x20, 1, 0x0, 1, 0x0, 1, 0x0, false, false, none, fun _ _ _ => [⟨GLB_RST_CAUSE_KIND, .ro, false⟩, ⟨GLB_RST_CAUSE_SRC, .ro, false⟩, ⟨GLB_RST_CAUSE_PWRLOSS, .ro, false⟩, ⟨GLB_RST_CAUSE_SAFE, .ro, false⟩, ⟨GLB_RST_CAUSE_SCAUSE, .ro, false⟩, ⟨GLB_RST_CAUSE_FROZEN, .ro, false⟩]⟩,
  ⟨"GLB_RST_COUNT", 0x24, 1, 0x0, 1, 0x0, 1, 0x0, true, false, none, fun _ _ _ => [⟨GLB_RST_COUNT_WARM, .ro, false⟩, ⟨GLB_RST_COUNT_COLD, .ro, false⟩]⟩,
  ⟨"GLB_NFLR", 0x28, 1, 0x0, 1, 0x0, 1, 0x0, true, false, none, fun _ _ _ => [⟨GLB_NFLR, .ro, false⟩]⟩,
  ⟨"PTF_STATUS", 0x800, 1, 0x0, 1, 0x0, 1, 0x0, false, false, none, fun _ _ _ => [⟨PTF_STATUS_ACTBAD, .ro, true⟩, ⟨PTF_STATUS_REVAL, .ro, false⟩]⟩,
  ⟨"PTF_NREJ", 0x804, 1, 0x0, 1, 0x0, 1, 0x0, true, false, none, fun _ _ _ => [⟨PTF_NREJ, .ro, false⟩]⟩,
  ⟨"PTF_NRUNT", 0x808, 1, 0x0, 1, 0x0, 1, 0x0, true, false, none, fun _ _ _ => [⟨PTF_NRUNT, .ro, false⟩]⟩,
  ⟨"PTF_NSHADOW", 0x80c, 1, 0x0, 1, 0x0, 1, 0x0, true, false, none, fun _ _ _ => [⟨PTF_NSHADOW, .ro, false⟩]⟩,
  ⟨"PTF_NCFG", 0x810, 1, 0x0, 1, 0x0, 1, 0x0, true, false, none, fun _ _ _ => [⟨PTF_NCFG, .ro, false⟩]⟩,
  ⟨"PTF_TSREF", 0x880, 32, 0x4, 1, 0x0, 1, 0x0, false, false, none, fun i _ _ => [⟨PTF_TSREF i, .ro, true⟩]⟩,
  ⟨"PTF_TSBAD", 0x900, 32, 0x4, 1, 0x0, 1, 0x0, false, false, none, fun i _ _ => [⟨PTF_TSBAD i, .ro, true⟩]⟩,
  ⟨"PTF_CHBAD", 0x980, 8, 0x4, 1, 0x0, 1, 0x0, false, false, none, fun i _ _ => [⟨PTF_CHBAD i, .ro, true⟩]⟩,
  ⟨"LVL_CTRL", 0xa00, 1, 0x0, 1, 0x0, 1, 0x0, false, false, none, fun _ _ _ => [⟨LVL_CTRL_RBPERIOD, .rw, false⟩]⟩,
  ⟨"LVL_STATUS", 0xa04, 1, 0x0, 1, 0x0, 1, 0x0, false, false, none, fun _ _ _ => [⟨LVL_STATUS_RBREF, .w1c, false⟩, ⟨LVL_STATUS_RBLATE, .w1c, false⟩, ⟨LVL_STATUS_ACTBAD, .ro, true⟩, ⟨LVL_STATUS_REVAL, .ro, false⟩]⟩,
  ⟨"LVL_NREJ", 0xa08, 1, 0x0, 1, 0x0, 1, 0x0, true, false, none, fun _ _ _ => [⟨LVL_NREJ, .ro, false⟩]⟩,
  ⟨"LVL_UNSETTLED", 0xa0c, 1, 0x0, 1, 0x0, 1, 0x0, true, false, none, fun _ _ _ => [⟨LVL_UNSETTLED, .ro, false⟩]⟩,
  ⟨"LVL_NCFG", 0xa10, 1, 0x0, 1, 0x0, 1, 0x0, true, false, none, fun _ _ _ => [⟨LVL_NCFG, .ro, false⟩]⟩,
  ⟨"LVL_NUNTR", 0xa14, 1, 0x0, 1, 0x0, 1, 0x0, true, false, none, fun _ _ _ => [⟨LVL_NUNTR, .ro, false⟩]⟩,
  ⟨"LVL_LSREF", 0xa80, 8, 0x4, 1, 0x0, 1, 0x0, false, false, none, fun i _ _ => [⟨LVL_LSREF i, .ro, true⟩]⟩,
  ⟨"LVL_LSBAD", 0xaa0, 8, 0x4, 1, 0x0, 1, 0x0, false, false, none, fun i _ _ => [⟨LVL_LSBAD i, .ro, true⟩]⟩,
  ⟨"LVL_CHBAD", 0xac0, 8, 0x4, 1, 0x0, 1, 0x0, false, false, none, fun i _ _ => [⟨LVL_CHBAD i, .ro, true⟩]⟩,
  ⟨"LVL_UNTR", 0xae0, 8, 0x4, 1, 0x0, 1, 0x0, true, false, none, fun i _ _ => [⟨LVL_UNTR i, .ro, true⟩]⟩,
  ⟨"GLB_FW_CMD", 0xc00, 1, 0x0, 1, 0x0, 1, 0x0, false, false, none, fun _ _ _ => [⟨GLB_FW_CMD_CMD, .rw, false⟩, ⟨GLB_FW_CMD_TAG, .rw, false⟩]⟩,
  ⟨"GLB_FW_ARG", 0xc04, 4, 0x4, 1, 0x0, 1, 0x0, false, false, none, fun i _ _ => [⟨GLB_FW_ARG i, .rw, false⟩]⟩,
  ⟨"GLB_FW_STATUS", 0xc14, 1, 0x0, 1, 0x0, 1, 0x0, false, false, none, fun _ _ _ => [⟨GLB_FW_STATUS_BUSY, .ro, false⟩, ⟨GLB_FW_STATUS_REFUSED, .w1c, false⟩, ⟨GLB_FW_STATUS_RESULT, .ro, false⟩, ⟨GLB_FW_STATUS_TAG, .ro, false⟩]⟩,
  ⟨"GLB_FW_SEQ", 0xc18, 1, 0x0, 1, 0x0, 1, 0x0, false, false, none, fun _ _ _ => [⟨GLB_FW_SEQ, .ro, false⟩]⟩]

/-- Registers of the CMT block. -/
def regsCmt : List RegDesc := [
  ⟨"CMT_GVC_LO", 0x10000, 1, 0x0, 1, 0x0, 1, 0x0, false, false, none, fun _ _ _ => [⟨CMT_GVC_LO, .ro, true⟩]⟩,
  ⟨"CMT_GVC_HI", 0x10004, 1, 0x0, 1, 0x0, 1, 0x0, false, false, none, fun _ _ _ => [⟨CMT_GVC_HI, .ro, true⟩]⟩,
  ⟨"CMT_HOPS", 0x10008, 1, 0x0, 1, 0x0, 1, 0x0, false, false, none, fun _ _ _ => [⟨CMT_HOPS, .ro, false⟩]⟩,
  ⟨"CMT_LEAD_VC", 0x1000c, 1, 0x0, 1, 0x0, 1, 0x0, false, false, none, fun _ _ _ => [⟨CMT_LEAD_VC, .ro, true⟩]⟩,
  ⟨"CMT_CTRL", 0x10010, 1, 0x0, 1, 0x0, 1, 0x0, false, false, none, fun _ _ _ => [⟨CMT_CTRL_TAG, .rw, false⟩, ⟨CMT_CTRL_ACKLOST, .w1s, false⟩, ⟨CMT_CTRL_CANCEL, .w1s, false⟩, ⟨CMT_CTRL_RETRY_EN, .rw, false⟩, ⟨CMT_CTRL_GO, .w1s, false⟩]⟩,
  ⟨"CMT_SCOPE", 0x10014, 1, 0x0, 1, 0x0, 1, 0x0, false, false, none, fun _ _ _ => [⟨CMT_SCOPE, .rw, false⟩]⟩,
  ⟨"CMT_TARGET_LO", 0x10018, 1, 0x0, 1, 0x0, 1, 0x0, false, false, none, fun _ _ _ => [⟨CMT_TARGET_LO, .rw, false⟩]⟩,
  ⟨"CMT_TARGET_HI", 0x1001c, 1, 0x0, 1, 0x0, 1, 0x0, false, false, none, fun _ _ _ => [⟨CMT_TARGET_HI, .rw, false⟩]⟩,
  ⟨"CMT_STATUS", 0x10020, 1, 0x0, 1, 0x0, 1, 0x0, false, false, none, fun _ _ _ => [⟨CMT_STATUS_GOREF, .ro, false⟩, ⟨CMT_STATUS_RETRYLEFT, .ro, false⟩, ⟨CMT_STATUS_LAST, .ro, false⟩, ⟨CMT_STATUS_ROOT, .ro, false⟩, ⟨CMT_STATUS_INSYNC, .ro, false⟩, ⟨CMT_STATUS_RESYNC, .ro, false⟩, ⟨CMT_STATUS_LOCKED, .ro, false⟩, ⟨CMT_STATUS_VOTED, .ro, false⟩, ⟨CMT_STATUS_PENDING, .ro, false⟩]⟩,
  ⟨"CMT_ABORT_CAUSE", 0x10024, 1, 0x0, 1, 0x0, 1, 0x0, false, false, none, fun _ _ _ => [⟨CMT_ABORT_CAUSE_REASON, .ro, false⟩, ⟨CMT_ABORT_CAUSE_DEVID, .ro, false⟩]⟩,
  ⟨"CMT_LAST_LO", 0x10028, 1, 0x0, 1, 0x0, 1, 0x0, false, false, none, fun _ _ _ => [⟨CMT_LAST_LO, .ro, false⟩]⟩,
  ⟨"CMT_LAST_HI", 0x1002c, 1, 0x0, 1, 0x0, 1, 0x0, false, false, none, fun _ _ _ => [⟨CMT_LAST_HI, .ro, false⟩]⟩,
  ⟨"CMT_READY", 0x10030, 1, 0x0, 1, 0x0, 1, 0x0, false, false, none, fun _ _ _ => [⟨CMT_READY, .ro, true⟩]⟩,
  ⟨"CMT_SBUSY", 0x10034, 1, 0x0, 1, 0x0, 1, 0x0, false, false, none, fun _ _ _ => [⟨CMT_SBUSY, .rw, false⟩]⟩,
  ⟨"CMT_RETRY", 0x10038, 1, 0x0, 1, 0x0, 1, 0x0, false, false, none, fun _ _ _ => [⟨CMT_RETRY_STEP, .rw, false⟩, ⟨CMT_RETRY_COUNT, .rw, false⟩]⟩,
  ⟨"CMT_WREFUSED", 0x1003c, 1, 0x0, 1, 0x0, 1, 0x0, true, false, none, fun _ _ _ => [⟨CMT_WREFUSED, .ro, false⟩]⟩,
  ⟨"CMT_NCOMMIT", 0x10040, 1, 0x0, 1, 0x0, 1, 0x0, true, false, none, fun _ _ _ => [⟨CMT_NCOMMIT, .ro, false⟩]⟩,
  ⟨"CMT_NABORT", 0x10044, 1, 0x0, 1, 0x0, 1, 0x0, true, false, none, fun _ _ _ => [⟨CMT_NABORT, .ro, false⟩]⟩,
  ⟨"CMT_NLOST", 0x10048, 1, 0x0, 1, 0x0, 1, 0x0, true, false, none, fun _ _ _ => [⟨CMT_NLOST, .ro, false⟩]⟩,
  ⟨"CMT_LAST_TAG", 0x1004c, 1, 0x0, 1, 0x0, 1, 0x0, false, false, none, fun _ _ _ => [⟨CMT_LAST_TAG, .ro, false⟩]⟩,
  ⟨"CMT_HRV_CTRL", 0x10050, 1, 0x0, 1, 0x0, 1, 0x0, false, false, none, fun _ _ _ => [⟨CMT_HRV_CTRL_HOLD, .rw, false⟩, ⟨CMT_HRV_CTRL_LOCAL, .rw, false⟩, ⟨CMT_HRV_CTRL_CANCEL, .w1s, false⟩, ⟨CMT_HRV_CTRL_GO, .w1s, false⟩]⟩,
  ⟨"CMT_HRV_TARGET_LO", 0x10054, 1, 0x0, 1, 0x0, 1, 0x0, false, false, none, fun _ _ _ => [⟨CMT_HRV_TARGET_LO, .rw, false⟩]⟩,
  ⟨"CMT_HRV_TARGET_HI", 0x10058, 1, 0x0, 1, 0x0, 1, 0x0, false, false, none, fun _ _ _ => [⟨CMT_HRV_TARGET_HI, .rw, false⟩]⟩,
  ⟨"CMT_HRV_STATUS", 0x1005c, 1, 0x0, 1, 0x0, 1, 0x0, false, false, none, fun _ _ _ => [⟨CMT_HRV_STATUS_GOREF, .ro, false⟩, ⟨CMT_HRV_STATUS_MISSED, .w1c, false⟩, ⟨CMT_HRV_STATUS_SHOWN, .ro, false⟩, ⟨CMT_HRV_STATUS_HELD, .ro, false⟩, ⟨CMT_HRV_STATUS_PENDING, .ro, false⟩]⟩,
  ⟨"CMT_HRV_GVC_LO", 0x10060, 1, 0x0, 1, 0x0, 1, 0x0, false, false, none, fun _ _ _ => [⟨CMT_HRV_GVC_LO, .ro, false⟩]⟩,
  ⟨"CMT_HRV_GVC_HI", 0x10064, 1, 0x0, 1, 0x0, 1, 0x0, false, false, none, fun _ _ _ => [⟨CMT_HRV_GVC_HI, .ro, false⟩]⟩,
  ⟨"CMT_HRV_SEQ", 0x10068, 1, 0x0, 1, 0x0, 1, 0x0, false, false, none, fun _ _ _ => [⟨CMT_HRV_SEQ, .ro, false⟩]⟩,
  ⟨"CMT_VRD_CTRL", 0x10070, 1, 0x0, 1, 0x0, 1, 0x0, false, false, none, fun _ _ _ => [⟨CMT_VRD_CTRL_CONFIRM, .rw, false⟩, ⟨CMT_VRD_CTRL_NOCMP_PASS, .rw, false⟩]⟩,
  ⟨"CMT_INTEG", 0x10074, 1, 0x0, 1, 0x0, 1, 0x0, false, false, none, fun _ _ _ => [⟨CMT_INTEG_ABAD, .w1c, false⟩, ⟨CMT_INTEG_SBAD, .ro, true⟩]⟩,
  ⟨"CMT_NINTEG", 0x10078, 1, 0x0, 1, 0x0, 1, 0x0, true, false, none, fun _ _ _ => [⟨CMT_NINTEG, .ro, false⟩]⟩,
  ⟨"CMT_VRD_SITE", 0x10100, 64, 0x4, 1, 0x0, 1, 0x0, true, false, none, fun i _ _ => [⟨CMT_VRD_SITE i, .ro, true⟩]⟩]

/-- Registers of the CLK block. -/
def regsClk : List RegDesc := [
  ⟨"CLK_CTRL", 0x20000, 1, 0x0, 1, 0x0, 1, 0x0, false, false, none, fun _ _ _ => [⟨CLK_CTRL_AUTORELOCK, .rw, false⟩, ⟨CLK_CTRL_HOLD, .rw, false⟩, ⟨CLK_CTRL_RELOCK, .w1s, false⟩]⟩,
  ⟨"CLK_STATUS", 0x20004, 1, 0x0, 1, 0x0, 1, 0x0, false, false, none, fun _ _ _ => [⟨CLK_STATUS_SYNCSKEW, .w1c, false⟩, ⟨CLK_STATUS_SLIP, .w1c, false⟩, ⟨CLK_STATUS_UNLOCKED, .w1c, false⟩, ⟨CLK_STATUS_CFGERR, .ro, false⟩, ⟨CLK_STATUS_RLREF, .ro, false⟩, ⟨CLK_STATUS_REFLOST, .ro, false⟩, ⟨CLK_STATUS_AOSRC, .ro, false⟩, ⟨CLK_STATUS_WARM, .ro, false⟩, ⟨CLK_STATUS_OVEN, .ro, false⟩, ⟨CLK_STATUS_GATE, .ro, false⟩, ⟨CLK_STATUS_LOCKED, .ro, false⟩]⟩,
  ⟨"CLK_VCLK_CFG", 0x20008, 1, 0x0, 1, 0x0, 1, 0x0, false, false, none, fun _ _ _ => [⟨CLK_VCLK_CFG_UIPV, .rw, false⟩, ⟨CLK_VCLK_CFG_DIV, .rw, false⟩, ⟨CLK_VCLK_CFG_N, .rw, false⟩]⟩,
  ⟨"CLK_VCLK_FRAC", 0x2000c, 1, 0x0, 1, 0x0, 1, 0x0, false, false, none, fun _ _ _ => [⟨CLK_VCLK_FRAC, .rw, false⟩]⟩,
  ⟨"CLK_VCLK_KHZ", 0x20010, 1, 0x0, 1, 0x0, 1, 0x0, false, false, none, fun _ _ _ => [⟨CLK_VCLK_KHZ, .ro, true⟩]⟩,
  ⟨"CLK_WARMUP", 0x20014, 1, 0x0, 1, 0x0, 1, 0x0, false, false, none, fun _ _ _ => [⟨CLK_WARMUP, .rw, false⟩]⟩,
  ⟨"CLK_WARM_S", 0x20018, 1, 0x0, 1, 0x0, 1, 0x0, false, false, none, fun _ _ _ => [⟨CLK_WARM_S, .ro, false⟩]⟩,
  ⟨"CLK_NRELOCK", 0x2001c, 1, 0x0, 1, 0x0, 1, 0x0, true, false, none, fun _ _ _ => [⟨CLK_NRELOCK, .ro, false⟩]⟩,
  ⟨"CLK_GRP_CTRL", 0x20020, 1, 0x0, 1, 0x0, 1, 0x0, false, false, none, fun _ _ _ => [⟨CLK_GRP_CTRL_SYNCIN_EN, .rw, false⟩, ⟨CLK_GRP_CTRL_FORCE, .rw, false⟩, ⟨CLK_GRP_CTRL_JOIN, .w1s, false⟩, ⟨CLK_GRP_CTRL_START, .w1s, false⟩, ⟨CLK_GRP_CTRL_FORM, .w1s, false⟩]⟩,
  ⟨"CLK_GRP_STATUS", 0x20024, 1, 0x0, 1, 0x0, 1, 0x0, false, false, none, fun _ _ _ => [⟨CLK_GRP_STATUS_FAIL, .ro, false⟩, ⟨CLK_GRP_STATUS_STARTED, .ro, false⟩, ⟨CLK_GRP_STATUS_JOINPEND, .ro, true⟩, ⟨CLK_GRP_STATUS_STARTPEND, .ro, false⟩, ⟨CLK_GRP_STATUS_FORMING, .ro, false⟩, ⟨CLK_GRP_STATUS_FORMED, .ro, false⟩]⟩,
  ⟨"CLK_DEVID", 0x20028, 1, 0x0, 1, 0x0, 1, 0x0, false, false, none, fun _ _ _ => [⟨CLK_DEVID, .ro, false⟩]⟩,
  ⟨"CLK_ID_REQ", 0x2002c, 1, 0x0, 1, 0x0, 1, 0x0, false, false, none, fun _ _ _ => [⟨CLK_ID_REQ_VALID, .rw, false⟩, ⟨CLK_ID_REQ_ID, .rw, false⟩]⟩,
  ⟨"CLK_DEPTH", 0x20030, 1, 0x0, 1, 0x0, 1, 0x0, false, false, none, fun _ _ _ => [⟨CLK_DEPTH_DOWN, .ro, false⟩, ⟨CLK_DEPTH_UP, .ro, false⟩, ⟨CLK_DEPTH_D, .ro, false⟩]⟩,
  ⟨"CLK_GRP_SIZE", 0x20034, 1, 0x0, 1, 0x0, 1, 0x0, false, false, none, fun _ _ _ => [⟨CLK_GRP_SIZE, .ro, false⟩]⟩,
  ⟨"CLK_GRP_NOSYNC", 0x20038, 1, 0x0, 1, 0x0, 1, 0x0, false, false, none, fun _ _ _ => [⟨CLK_GRP_NOSYNC, .ro, false⟩]⟩,
  ⟨"CLK_GRP_LEFTOUT", 0x2003c, 1, 0x0, 1, 0x0, 1, 0x0, false, false, none, fun _ _ _ => [⟨CLK_GRP_LEFTOUT, .ro, false⟩]⟩,
  ⟨"CLK_HOPLAT", 0x20040, 4, 0x4, 1, 0x0, 1, 0x0, false, false, none, fun i _ _ => [⟨CLK_HOPLAT_TOOLONG i, .ro, false⟩, ⟨CLK_HOPLAT_TREE i, .ro, false⟩, ⟨CLK_HOPLAT_RAW i, .ro, false⟩]⟩,
  ⟨"CLK_START_GVC_LO", 0x20050, 1, 0x0, 1, 0x0, 1, 0x0, false, false, none, fun _ _ _ => [⟨CLK_START_GVC_LO, .rw, false⟩]⟩,
  ⟨"CLK_START_GVC_HI", 0x20054, 1, 0x0, 1, 0x0, 1, 0x0, false, false, none, fun _ _ _ => [⟨CLK_START_GVC_HI, .rw, false⟩]⟩,
  ⟨"CLK_EPOCH_LO", 0x20058, 1, 0x0, 1, 0x0, 1, 0x0, false, false, none, fun _ _ _ => [⟨CLK_EPOCH_LO, .ro, true⟩]⟩,
  ⟨"CLK_EPOCH_HI", 0x2005c, 1, 0x0, 1, 0x0, 1, 0x0, false, false, none, fun _ _ _ => [⟨CLK_EPOCH_HI, .ro, true⟩]⟩,
  ⟨"CLK_ALIGN", 0x20060, 1, 0x0, 1, 0x0, 1, 0x0, false, false, none, fun _ _ _ => [⟨CLK_ALIGN, .ro, true⟩]⟩,
  ⟨"CLK_JOIN", 0x20068, 1, 0x0, 1, 0x0, 1, 0x0, false, false, none, fun _ _ _ => [⟨CLK_JOIN, .rw, false⟩]⟩,
  ⟨"CLK_GC_CFG", 0x20070, 1, 0x0, 1, 0x0, 1, 0x0, false, false, none, fun _ _ _ => [⟨CLK_GC_CFG_OP, .rw, false⟩, ⟨CLK_GC_CFG_EN, .rw, false⟩]⟩,
  ⟨"CLK_GC_PATH", 0x20074, 1, 0x0, 1, 0x0, 1, 0x0, false, false, none, fun _ _ _ => [⟨CLK_GC_PATH, .ro, false⟩]⟩,
  ⟨"CLK_GC_AGE", 0x20078, 1, 0x0, 1, 0x0, 1, 0x0, false, false, none, fun _ _ _ => [⟨CLK_GC_AGE, .ro, true⟩]⟩,
  ⟨"CLK_GC_SRC", 0x20080, 8, 0x4, 1, 0x0, 1, 0x0, false, false, none, fun i _ _ => [⟨CLK_GC_SRC i, .rw, false⟩]⟩,
  ⟨"CLK_SYNC_CFG", 0x200a0, 1, 0x0, 1, 0x0, 1, 0x0, false, false, none, fun _ _ _ => [⟨CLK_SYNC_CFG_EXPECT, .rw, false⟩, ⟨CLK_SYNC_CFG_CHK, .rw, false⟩]⟩,
  ⟨"CLK_SYNC_SKEW", 0x200a4, 1, 0x0, 1, 0x0, 1, 0x0, false, false, none, fun _ _ _ => [⟨CLK_SYNC_SKEW, .ro, false⟩]⟩,
  ⟨"CLK_NSLIP", 0x200a8, 1, 0x0, 1, 0x0, 1, 0x0, true, false, none, fun _ _ _ => [⟨CLK_NSLIP, .ro, false⟩]⟩]

/-- Registers of the PMG block. -/
def regsPmg : List RegDesc := [
  ⟨"PMG_CTRL", 0x30000, 1, 0x0, 1, 0x0, 1, 0x0, false, false, none, fun _ _ _ => [⟨PMG_CTRL_DORMANT, .w1s, false⟩, ⟨PMG_CTRL_WAKE, .w1s, false⟩, ⟨PMG_CTRL_BUDDING, .w1s, false⟩, ⟨PMG_CTRL_BLOOM, .w1s, false⟩]⟩,
  ⟨"PMG_STATUS", 0x30004, 1, 0x0, 1, 0x0, 1, 0x0, false, false, none, fun _ _ _ => [⟨PMG_STATUS_STATE, .ro, false⟩, ⟨PMG_STATUS_REF, .ro, false⟩, ⟨PMG_STATUS_REFUSED, .w1c, false⟩, ⟨PMG_STATUS_STOPHOLD, .ro, false⟩, ⟨PMG_STATUS_WARN, .ro, false⟩, ⟨PMG_STATUS_TRIPHOLD, .ro, false⟩, ⟨PMG_STATUS_DOMREF, .w1c, false⟩]⟩,
  ⟨"PMG_CFG", 0x30008, 1, 0x0, 1, 0x0, 1, 0x0, false, false, none, fun _ _ _ => [⟨PMG_CFG_WAITSETTLE, .rw, false⟩, ⟨PMG_CFG_SEVWAKE, .rw, false⟩, ⟨PMG_CFG_LINKWAKE, .rw, false⟩, ⟨PMG_CFG_IDLE_MS, .rw, false⟩]⟩,
  ⟨"PMG_PEAK_RES", 0x3000c, 1, 0x0, 1, 0x0, 1, 0x0, false, false, none, fun _ _ _ => [⟨PMG_PEAK_RES, .rw, false⟩]⟩,
  ⟨"PMG_BUCKET", 0x30010, 1, 0x0, 1, 0x0, 1, 0x0, true, false, none, fun _ _ _ => [⟨PMG_BUCKET, .ro, false⟩]⟩,
  ⟨"PMG_PMEAS", 0x30014, 1, 0x0, 1, 0x0, 1, 0x0, true, false, none, fun _ _ _ => [⟨PMG_PMEAS, .ro, false⟩]⟩,
  ⟨"PMG_PDECL", 0x30018, 1, 0x0, 1, 0x0, 1, 0x0, true, false, none, fun _ _ _ => [⟨PMG_PDECL, .ro, false⟩]⟩,
  ⟨"PMG_NADMREF", 0x3001c, 1, 0x0, 1, 0x0, 1, 0x0, true, false, none, fun _ _ _ => [⟨PMG_NADMREF, .ro, false⟩]⟩,
  ⟨"PMG_NOVER", 0x30020, 1, 0x0, 1, 0x0, 1, 0x0, true, false, none, fun _ _ _ => [⟨PMG_NOVER, .ro, false⟩]⟩,
  ⟨"PMG_NTSTOP", 0x30024, 1, 0x0, 1, 0x0, 1, 0x0, true, false, none, fun _ _ _ => [⟨PMG_NTSTOP, .ro, false⟩]⟩,
  ⟨"PMG_TMAX", 0x30028, 1, 0x0, 1, 0x0, 1, 0x0, true, false, none, fun _ _ _ => [⟨PMG_TMAX_DIE, .ro, false⟩, ⟨PMG_TMAX_TEMP, .ro, false⟩]⟩,
  ⟨"PMG_DOM_ON0", 0x30030, 1, 0x0, 1, 0x0, 1, 0x0, false, false, none, fun _ _ _ => [⟨PMG_DOM_ON0, .ro, false⟩]⟩,
  ⟨"PMG_DOM_ON1", 0x30034, 1, 0x0, 1, 0x0, 1, 0x0, false, false, none, fun _ _ _ => [⟨PMG_DOM_ON1, .ro, false⟩]⟩,
  ⟨"PMG_DOM_OFF0", 0x30038, 1, 0x0, 1, 0x0, 1, 0x0, false, false, none, fun _ _ _ => [⟨PMG_DOM_OFF0, .rso, false⟩]⟩,
  ⟨"PMG_DOM_OFF1", 0x3003c, 1, 0x0, 1, 0x0, 1, 0x0, false, false, none, fun _ _ _ => [⟨PMG_DOM_OFF1, .rso, false⟩]⟩,
  ⟨"PMG_NOFFWR", 0x30040, 1, 0x0, 1, 0x0, 1, 0x0, false, false, none, fun _ _ _ => [⟨PMG_NOFFWR, .ro, false⟩]⟩,
  ⟨"PMG_WAKE_US", 0x30044, 1, 0x0, 1, 0x0, 1, 0x0, false, false, none, fun _ _ _ => [⟨PMG_WAKE_US, .ro, false⟩]⟩,
  ⟨"PMG_TEMP", 0x30060, 9, 0x4, 1, 0x0, 1, 0x0, true, false, none, fun i _ _ => [⟨PMG_TEMP_FAULT i, .ro, false⟩, ⟨PMG_TEMP_T i, .ro, false⟩]⟩]

/-- Registers of the FCL block. -/
def regsFcl : List RegDesc := [
  ⟨"FCL_CTRL", 0x40000, 1, 0x0, 1, 0x0, 1, 0x0, false, false, none, fun _ _ _ => [⟨FCL_CTRL_WARMRST, .rso1, false⟩]⟩,
  ⟨"FCL_STATUS", 0x40004, 1, 0x0, 1, 0x0, 1, 0x0, false, false, none, fun _ _ _ => [⟨FCL_STATUS_SAFE, .ro, false⟩, ⟨FCL_STATUS_RAMPING, .ro, false⟩, ⟨FCL_STATUS_RAMPDONE, .ro, false⟩, ⟨FCL_STATUS_SELF, .ro, false⟩, ⟨FCL_STATUS_SCAUSE, .ro, false⟩, ⟨FCL_STATUS_CLRREF, .w1c, false⟩, ⟨FCL_STATUS_SWREF, .w1c, false⟩]⟩,
  ⟨"FCL_FIRST", 0x40008, 1, 0x0, 1, 0x0, 1, 0x0, true, false, none, fun _ _ _ => [⟨FCL_FIRST_LATCHED, .ro, false⟩, ⟨FCL_FIRST_ACTIVE, .ro, true⟩, ⟨FCL_FIRST_OVF, .ro, false⟩, ⟨FCL_FIRST_PROMOTED, .ro, false⟩, ⟨FCL_FIRST_CLASS, .ro, false⟩, ⟨FCL_FIRST_SOURCE, .ro, false⟩]⟩,
  ⟨"FCL_FIRST_CNT", 0x4000c, 1, 0x0, 1, 0x0, 1, 0x0, true, false, none, fun _ _ _ => [⟨FCL_FIRST_CNT, .ro, false⟩]⟩,
  ⟨"FCL_FIRST_GVC_LO", 0x40010, 1, 0x0, 1, 0x0, 1, 0x0, true, false, none, fun _ _ _ => [⟨FCL_FIRST_GVC_LO, .ro, false⟩]⟩,
  ⟨"FCL_FIRST_GVC_HI", 0x40014, 1, 0x0, 1, 0x0, 1, 0x0, true, false, none, fun _ _ _ => [⟨FCL_FIRST_GVC_HI, .ro, false⟩]⟩,
  ⟨"FCL_FIRST_NS", 0x40018, 1, 0x0, 1, 0x0, 1, 0x0, true, false, none, fun _ _ _ => [⟨FCL_FIRST_NS, .ro, false⟩]⟩,
  ⟨"FCL_FIRST_SEC_LO", 0x4001c, 1, 0x0, 1, 0x0, 1, 0x0, true, false, none, fun _ _ _ => [⟨FCL_FIRST_SEC_LO, .ro, false⟩]⟩,
  ⟨"FCL_FIRST_SEC_HI", 0x40020, 1, 0x0, 1, 0x0, 1, 0x0, true, false, none, fun _ _ _ => [⟨FCL_FIRST_SEC_HI, .ro, false⟩]⟩,
  ⟨"FCL_FIRST_ARG", 0x40024, 1, 0x0, 1, 0x0, 1, 0x0, true, false, none, fun _ _ _ => [⟨FCL_FIRST_ARG_VALUE, .ro, false⟩, ⟨FCL_FIRST_ARG_ARG, .ro, false⟩]⟩,
  ⟨"FCL_NOVF", 0x40028, 1, 0x0, 1, 0x0, 1, 0x0, true, false, none, fun _ _ _ => [⟨FCL_NOVF, .ro, false⟩]⟩,
  ⟨"FCL_CLR", 0x4002c, 1, 0x0, 1, 0x0, 1, 0x0, false, false, none, fun _ _ _ => [⟨FCL_CLR_CLR, .w1s, false⟩]⟩,
  ⟨"FCL_SWEVT", 0x40030, 1, 0x0, 1, 0x0, 1, 0x0, false, false, none, fun _ _ _ => [⟨FCL_SWEVT_N, .wo, false⟩, ⟨FCL_SWEVT_ARG, .wo, false⟩]⟩,
  ⟨"FCL_MS_LO", 0x40034, 1, 0x0, 1, 0x0, 1, 0x0, false, false, none, fun _ _ _ => [⟨FCL_MS_LO, .ro, false⟩]⟩,
  ⟨"FCL_MS_HI", 0x40038, 1, 0x0, 1, 0x0, 1, 0x0, false, false, none, fun _ _ _ => [⟨FCL_MS_HI, .ro, false⟩]⟩,
  ⟨"FCL_ACTIVE", 0x40040, 10, 0x4, 1, 0x0, 1, 0x0, true, false, none, fun i _ _ => [⟨FCL_ACTIVE i, .ro, true⟩]⟩,
  ⟨"FCL_PROMO", 0x40080, 10, 0x4, 1, 0x0, 1, 0x0, false, false, none, fun i _ _ => [⟨FCL_PROMO i, .w1c, false⟩]⟩,
  ⟨"FCL_SRC_CFG", 0x41000, 320, 0x8, 1, 0x0, 1, 0x0, false, false, none, fun i _ _ => [⟨FCL_SRC_CFG_CLASS i, .rso, false⟩, ⟨FCL_SRC_CFG_FRZ i, .rw, false⟩, ⟨FCL_SRC_CFG_OUT i, .rw, false⟩, ⟨FCL_SRC_CFG_ALM i, .rw, false⟩, ⟨FCL_SRC_CFG_PN i, .rso, false⟩, ⟨FCL_SRC_CFG_PSLOT i, .rso, false⟩]⟩,
  ⟨"FCL_SRC_CNT", 0x41004, 320, 0x8, 1, 0x0, 1, 0x0, true, false, none, fun i _ _ => [⟨FCL_SRC_CNT i, .ro, false⟩]⟩]

/-- Registers of the EVR block. -/
def regsEvr : List RegDesc := [
  ⟨"EVR_STATUS", 0x50000, 1, 0x0, 1, 0x0, 1, 0x0, false, false, none, fun _ _ _ => [⟨EVR_STATUS_SAVING, .ro, false⟩]⟩,
  ⟨"EVR_WPTR", 0x50004, 1, 0x0, 1, 0x0, 1, 0x0, true, false, none, fun _ _ _ => [⟨EVR_WPTR, .ro, false⟩]⟩,
  ⟨"EVR_RIDX", 0x50008, 1, 0x0, 1, 0x0, 1, 0x0, false, true, none, fun _ _ _ => [⟨EVR_RIDX, .rw, false⟩]⟩,
  ⟨"EVR_RSTAT", 0x5000c, 1, 0x0, 1, 0x0, 1, 0x0, false, true, none, fun _ _ _ => [⟨EVR_RSTAT_GONE, .ro, false⟩, ⟨EVR_RSTAT_NONE, .ro, false⟩]⟩,
  ⟨"EVR_RSCW_ARG", 0x50010, 1, 0x0, 1, 0x0, 1, 0x0, false, false, none, fun _ _ _ => [⟨EVR_RSCW_ARG_VALUE, .rso, false⟩, ⟨EVR_RSCW_ARG_ARG, .rso, false⟩]⟩,
  ⟨"EVR_RSCW_SRC", 0x50014, 1, 0x0, 1, 0x0, 1, 0x0, false, false, none, fun _ _ _ => [⟨EVR_RSCW_SRC_CLASS, .rso, false⟩, ⟨EVR_RSCW_SRC_SOURCE, .rso, false⟩]⟩,
  ⟨"EVR_RDATA", 0x50020, 8, 0x4, 1, 0x0, 1, 0x0, false, true, none, fun i _ _ => [⟨EVR_RDATA i, .ro, false⟩]⟩,
  ⟨"EVR_SIDX", 0x50040, 1, 0x0, 1, 0x0, 1, 0x0, false, true, none, fun _ _ _ => [⟨EVR_SIDX_SET, .rw, false⟩, ⟨EVR_SIDX_ENTRY, .rw, false⟩]⟩,
  ⟨"EVR_SDATA", 0x50060, 8, 0x4, 1, 0x0, 1, 0x0, false, true, none, fun i _ _ => [⟨EVR_SDATA i, .ro, false⟩]⟩,
  ⟨"EVR_SET_INFO", 0x50080, 2, 0x8, 1, 0x0, 1, 0x0, false, false, none, fun i _ _ => [⟨EVR_SET_INFO_VALID i, .ro, false⟩, ⟨EVR_SET_INFO_CRCOK i, .ro, false⟩, ⟨EVR_SET_INFO_NEWER i, .ro, false⟩, ⟨EVR_SET_INFO_DISCARD i, .rso1, false⟩]⟩,
  ⟨"EVR_SET_WPTR", 0x50084, 2, 0x8, 1, 0x0, 1, 0x0, false, false, none, fun i _ _ => [⟨EVR_SET_WPTR i, .ro, false⟩]⟩]

/-- Registers of the FRZ block. -/
def regsFrz : List RegDesc := [
  ⟨"FRZ_CTRL", 0x60000, 1, 0x0, 1, 0x0, 1, 0x0, false, false, none, fun _ _ _ => [⟨FRZ_CTRL_HARD, .w1s, false⟩, ⟨FRZ_CTRL_SOFT, .w1s, false⟩, ⟨FRZ_CTRL_THAW, .w1s, false⟩, ⟨FRZ_CTRL_READ, .w1s, false⟩, ⟨FRZ_CTRL_ARMAT, .w1s, false⟩, ⟨FRZ_CTRL_DISARM, .w1s, false⟩]⟩,
  ⟨"FRZ_STATUS", 0x60004, 1, 0x0, 1, 0x0, 1, 0x0, false, false, none, fun _ _ _ => [⟨FRZ_STATUS_STATE, .ro, false⟩, ⟨FRZ_STATUS_READING, .ro, false⟩, ⟨FRZ_STATUS_ARMED, .ro, false⟩, ⟨FRZ_STATUS_GROUPWAIT, .ro, false⟩, ⟨FRZ_STATUS_TRIG, .ro, false⟩, ⟨FRZ_STATUS_READREF, .w1c, false⟩, ⟨FRZ_STATUS_THAWREF, .w1c, false⟩, ⟨FRZ_STATUS_ABANDONED, .w1c, false⟩, ⟨FRZ_STATUS_TSRC, .ro, false⟩]⟩,
  ⟨"FRZ_CFG", 0x60008, 1, 0x0, 1, 0x0, 1, 0x0, false, false, none, fun _ _ _ => [⟨FRZ_CFG_GRP, .rw, false⟩, ⟨FRZ_CFG_GC, .rw, false⟩, ⟨FRZ_CFG_FLAG, .rw, false⟩, ⟨FRZ_CFG_PATH, .rw, false⟩]⟩,
  ⟨"FRZ_AT_LO", 0x60010, 1, 0x0, 1, 0x0, 1, 0x0, false, false, none, fun _ _ _ => [⟨FRZ_AT_LO, .rw, false⟩]⟩,
  ⟨"FRZ_AT_HI", 0x60014, 1, 0x0, 1, 0x0, 1, 0x0, false, false, none, fun _ _ _ => [⟨FRZ_AT_HI, .rw, false⟩]⟩,
  ⟨"FRZ_DST_LO", 0x60018, 1, 0x0, 1, 0x0, 1, 0x0, false, false, none, fun _ _ _ => [⟨FRZ_DST_LO, .rw, false⟩]⟩,
  ⟨"FRZ_DST_HI", 0x6001c, 1, 0x0, 1, 0x0, 1, 0x0, false, false, none, fun _ _ _ => [⟨FRZ_DST_HI, .rw, false⟩]⟩,
  ⟨"FRZ_GVC_LO", 0x60020, 1, 0x0, 1, 0x0, 1, 0x0, false, false, none, fun _ _ _ => [⟨FRZ_GVC_LO, .ro, false⟩]⟩,
  ⟨"FRZ_GVC_HI", 0x60024, 1, 0x0, 1, 0x0, 1, 0x0, false, false, none, fun _ _ _ => [⟨FRZ_GVC_HI, .ro, false⟩]⟩,
  ⟨"FRZ_EPOCH_LO", 0x60028, 1, 0x0, 1, 0x0, 1, 0x0, false, false, none, fun _ _ _ => [⟨FRZ_EPOCH_LO, .ro, false⟩]⟩,
  ⟨"FRZ_EPOCH_HI", 0x6002c, 1, 0x0, 1, 0x0, 1, 0x0, false, false, none, fun _ _ _ => [⟨FRZ_EPOCH_HI, .ro, false⟩]⟩,
  ⟨"FRZ_PROG", 0x60030, 1, 0x0, 1, 0x0, 1, 0x0, false, false, none, fun _ _ _ => [⟨FRZ_PROG, .ro, true⟩]⟩,
  ⟨"FRZ_NREAD", 0x60034, 1, 0x0, 1, 0x0, 1, 0x0, false, false, none, fun _ _ _ => [⟨FRZ_NREAD, .ro, false⟩]⟩,
  ⟨"FRZ_MAPCNT", 0x60038, 1, 0x0, 1, 0x0, 1, 0x0, false, false, none, fun _ _ _ => [⟨FRZ_MAPCNT, .ro, false⟩]⟩,
  ⟨"FRZ_MAPIDX", 0x6003c, 1, 0x0, 1, 0x0, 1, 0x0, false, false, none, fun _ _ _ => [⟨FRZ_MAPIDX, .rw, false⟩]⟩,
  ⟨"FRZ_MAPDATA0", 0x60040, 1, 0x0, 1, 0x0, 1, 0x0, false, false, none, fun _ _ _ => [⟨FRZ_MAPDATA0, .ro, false⟩]⟩,
  ⟨"FRZ_MAPDATA1", 0x60044, 1, 0x0, 1, 0x0, 1, 0x0, false, false, none, fun _ _ _ => [⟨FRZ_MAPDATA1_CHAIN, .ro, false⟩, ⟨FRZ_MAPDATA1_BIT, .ro, false⟩]⟩]

/-- Registers of the SEQ block. -/
def regsSeq : List RegDesc := [
  ⟨"SEQ_CTRL", 0x80000, 1, 0x0, 1, 0x0, 1, 0x0, false, false, none, fun _ _ _ => [⟨SEQ_CTRL_KEEPFLAGS, .rw, false⟩, ⟨SEQ_CTRL_STOPAT, .w1s, false⟩, ⟨SEQ_CTRL_STOP, .w1s, false⟩, ⟨SEQ_CTRL_DISARM, .w1s, false⟩]⟩,
  ⟨"SEQ_STATUS", 0x80004, 1, 0x0, 1, 0x0, 1, 0x0, false, false, none, fun _ _ _ => [⟨SEQ_STATUS_SAREF, .w1c, false⟩, ⟨SEQ_STATUS_HEADSRDY, .ro, false⟩, ⟨SEQ_STATUS_HOLDKIND, .ro, false⟩, ⟨SEQ_STATUS_ARMED, .ro, false⟩, ⟨SEQ_STATUS_MATCHING, .ro, false⟩, ⟨SEQ_STATUS_MODE, .ro, false⟩, ⟨SEQ_STATUS_RUN, .ro, false⟩]⟩,
  ⟨"SEQ_STOP", 0x80008, 1, 0x0, 1, 0x0, 1, 0x0, true, false, none, fun _ _ _ => [⟨SEQ_STOP_NOVEC, .ro, false⟩, ⟨SEQ_STOP_REASON, .ro, false⟩]⟩,
  ⟨"SEQ_STOP_SLOT", 0x8000c, 1, 0x0, 1, 0x0, 1, 0x0, true, false, none, fun _ _ _ => [⟨SEQ_STOP_SLOT, .ro, false⟩]⟩,
  ⟨"SEQ_STOP_GVC_LO", 0x80010, 1, 0x0, 1, 0x0, 1, 0x0, true, false, none, fun _ _ _ => [⟨SEQ_STOP_GVC_LO, .ro, false⟩]⟩,
  ⟨"SEQ_STOP_GVC_HI", 0x80014, 1, 0x0, 1, 0x0, 1, 0x0, true, false, none, fun _ _ _ => [⟨SEQ_STOP_GVC_HI, .ro, false⟩]⟩,
  ⟨"SEQ_STOPAT_LO", 0x80018, 1, 0x0, 1, 0x0, 1, 0x0, false, false, none, fun _ _ _ => [⟨SEQ_STOPAT_LO, .rw, false⟩]⟩,
  ⟨"SEQ_STOPAT_HI", 0x8001c, 1, 0x0, 1, 0x0, 1, 0x0, false, false, none, fun _ _ _ => [⟨SEQ_STOPAT_HI, .rw, false⟩]⟩,
  ⟨"SEQ_PC", 0x80020, 1, 0x0, 1, 0x0, 1, 0x0, true, false, none, fun _ _ _ => [⟨SEQ_PC, .ro, false⟩]⟩,
  ⟨"SEQ_STK_DEPTH", 0x80024, 1, 0x0, 1, 0x0, 1, 0x0, true, false, none, fun _ _ _ => [⟨SEQ_STK_DEPTH, .ro, false⟩]⟩,
  ⟨"SEQ_UFLAG", 0x80028, 1, 0x0, 1, 0x0, 1, 0x0, false, false, none, fun _ _ _ => [⟨SEQ_UFLAG, .w1sr, false⟩]⟩,
  ⟨"SEQ_UFLAG_CLR", 0x8002c, 1, 0x0, 1, 0x0, 1, 0x0, false, false, none, fun _ _ _ => [⟨SEQ_UFLAG_CLR, .w1cl, true⟩]⟩,
  ⟨"SEQ_STALL_LIM", 0x80030, 1, 0x0, 1, 0x0, 1, 0x0, false, false, none, fun _ _ _ => [⟨SEQ_STALL_LIM, .rw, false⟩]⟩,
  ⟨"SEQ_NHOLD_LO", 0x80034, 1, 0x0, 1, 0x0, 1, 0x0, true, false, none, fun _ _ _ => [⟨SEQ_NHOLD_LO, .ro, false⟩]⟩,
  ⟨"SEQ_NHOLD_HI", 0x80038, 1, 0x0, 1, 0x0, 1, 0x0, true, false, none, fun _ _ _ => [⟨SEQ_NHOLD_HI, .ro, false⟩]⟩,
  ⟨"SEQ_NEXPIRE", 0x8003c, 1, 0x0, 1, 0x0, 1, 0x0, true, false, none, fun _ _ _ => [⟨SEQ_NEXPIRE, .ro, false⟩]⟩,
  ⟨"SEQ_LOOP", 0x80040, 16, 0x4, 1, 0x0, 1, 0x0, true, false, none, fun i _ _ => [⟨SEQ_LOOP i, .ro, false⟩]⟩,
  ⟨"SEQ_HEADS", 0x80080, 1, 0x0, 1, 0x0, 1, 0x0, false, false, none, fun _ _ _ => [⟨SEQ_HEADS_USED, .ro, false⟩, ⟨SEQ_HEADS_LOADED, .ro, false⟩]⟩,
  ⟨"SEQ_SMASK_LO", 0x81000, 256, 0x8, 1, 0x0, 1, 0x0, false, false, (some 5), fun i _ _ => [⟨SEQ_SMASK_LO i, .rwc, false⟩]⟩,
  ⟨"SEQ_SMASK_HI", 0x81004, 256, 0x8, 1, 0x0, 1, 0x0, false, false, (some 5), fun i _ _ => [⟨SEQ_SMASK_HI i, .rwc, false⟩]⟩,
  ⟨"SEQ_LPARAM", 0x81800, 64, 0x4, 1, 0x0, 1, 0x0, false, false, (some 8), fun i _ _ => [⟨SEQ_LPARAM i, .rwc, false⟩]⟩,
  ⟨"SEQ_CS_CTRL", 0x80800, 1, 0x0, 1, 0x0, 1, 0x0, false, false, none, fun _ _ _ => [⟨SEQ_CS_CTRL_ABORT, .w1s, false⟩, ⟨SEQ_CS_CTRL_GO, .w1s, false⟩, ⟨SEQ_CS_CTRL_SCRUB_EN, .rw, false⟩]⟩,
  ⟨"SEQ_CS_STATUS", 0x80804, 1, 0x0, 1, 0x0, 1, 0x0, false, false, none, fun _ _ _ => [⟨SEQ_CS_STATUS_LASTREASON, .ro, false⟩, ⟨SEQ_CS_STATUS_LREF, .w1c, false⟩, ⟨SEQ_CS_STATUS_UE, .w1c, false⟩, ⟨SEQ_CS_STATUS_CHKERR, .w1c, false⟩, ⟨SEQ_CS_STATUS_LDONE, .w1c, false⟩, ⟨SEQ_CS_STATUS_LBUSY, .ro, false⟩]⟩,
  ⟨"SEQ_CSL_SRC_LO", 0x80808, 1, 0x0, 1, 0x0, 1, 0x0, false, false, none, fun _ _ _ => [⟨SEQ_CSL_SRC_LO, .rw, false⟩]⟩,
  ⟨"SEQ_CSL_SRC_HI", 0x8080c, 1, 0x0, 1, 0x0, 1, 0x0, false, false, none, fun _ _ _ => [⟨SEQ_CSL_SRC_HI, .rw, false⟩]⟩,
  ⟨"SEQ_CSL_DST", 0x80810, 1, 0x0, 1, 0x0, 1, 0x0, false, false, none, fun _ _ _ => [⟨SEQ_CSL_DST, .rw, false⟩]⟩,
  ⟨"SEQ_CSL_COUNT", 0x80814, 1, 0x0, 1, 0x0, 1, 0x0, false, false, none, fun _ _ _ => [⟨SEQ_CSL_COUNT, .rw, false⟩]⟩,
  ⟨"SEQ_CSL_DONE", 0x80818, 1, 0x0, 1, 0x0, 1, 0x0, false, false, none, fun _ _ _ => [⟨SEQ_CSL_DONE, .ro, false⟩]⟩,
  ⟨"SEQ_CSL_BAD", 0x8081c, 1, 0x0, 1, 0x0, 1, 0x0, false, false, none, fun _ _ _ => [⟨SEQ_CSL_BAD, .ro, false⟩]⟩,
  ⟨"SEQ_CS_WREFUSED", 0x80820, 1, 0x0, 1, 0x0, 1, 0x0, true, false, none, fun _ _ _ => [⟨SEQ_CS_WREFUSED, .ro, false⟩]⟩,
  ⟨"SEQ_CS_NINVALID", 0x80824, 1, 0x0, 1, 0x0, 1, 0x0, false, false, none, fun _ _ _ => [⟨SEQ_CS_NINVALID, .ro, true⟩]⟩,
  ⟨"SEQ_CS_CE", 0x80828, 1, 0x0, 1, 0x0, 1, 0x0, true, false, none, fun _ _ _ => [⟨SEQ_CS_CE, .ro, false⟩]⟩,
  ⟨"SEQ_CS_UE", 0x8082c, 1, 0x0, 1, 0x0, 1, 0x0, true, false, none, fun _ _ _ => [⟨SEQ_CS_UE, .ro, false⟩]⟩,
  ⟨"SEQ_CS_LASTERR", 0x80830, 1, 0x0, 1, 0x0, 1, 0x0, false, false, none, fun _ _ _ => [⟨SEQ_CS_LASTERR_UNC, .ro, false⟩, ⟨SEQ_CS_LASTERR_ADDR, .ro, false⟩, ⟨SEQ_CS_LASTERR_SLOT, .ro, false⟩]⟩,
  ⟨"SEQ_CMARK_LO", 0x80834, 1, 0x0, 1, 0x0, 1, 0x0, true, false, none, fun _ _ _ => [⟨SEQ_CMARK_LO, .ro, false⟩]⟩,
  ⟨"SEQ_CMARK_HI", 0x80838, 1, 0x0, 1, 0x0, 1, 0x0, true, false, none, fun _ _ _ => [⟨SEQ_CMARK_HI, .ro, false⟩]⟩,
  ⟨"SEQ_CMARK_SLOT", 0x8083c, 1, 0x0, 1, 0x0, 1, 0x0, true, false, none, fun _ _ _ => [⟨SEQ_CMARK_SLOT, .ro, false⟩]⟩,
  ⟨"SEQ_PEV_CFG", 0x80840, 1, 0x0, 1, 0x0, 1, 0x0, false, false, none, fun _ _ _ => [⟨SEQ_PEV_CFG_EN, .rw, false⟩, ⟨SEQ_PEV_CFG_QUEUE, .rw, false⟩]⟩]

/-- Registers of the SEG block. -/
def regsSeg : List RegDesc := [
  ⟨"SEG_DIDX", 0x100000, 1, 0x0, 1, 0x0, 1, 0x0, false, true, none, fun _ _ _ => [⟨SEG_DIDX, .rw, false⟩]⟩,
  ⟨"SEG_DW", 0x100004, 3, 0x4, 1, 0x0, 1, 0x0, false, true, none, fun i _ _ => [⟨SEG_DW i, .rw, false⟩]⟩,
  ⟨"SEG_DCMD", 0x100010, 1, 0x0, 1, 0x0, 1, 0x0, false, false, none, fun _ _ _ => [⟨SEG_DCMD_WRITE, .w1s, false⟩]⟩,
  ⟨"SEG_DSTAT", 0x100014, 1, 0x0, 1, 0x0, 1, 0x0, false, false, none, fun _ _ _ => [⟨SEG_DSTAT, .ro, true⟩]⟩,
  ⟨"SEG_CREFUSED", 0x100020, 1, 0x0, 1, 0x0, 1, 0x0, true, false, none, fun _ _ _ => [⟨SEG_CREFUSED, .ro, false⟩]⟩,
  ⟨"SEG_WREFUSED", 0x100024, 1, 0x0, 1, 0x0, 1, 0x0, true, false, none, fun _ _ _ => [⟨SEG_WREFUSED, .ro, false⟩]⟩,
  ⟨"SEG_WLAST_LO", 0x100028, 1, 0x0, 1, 0x0, 1, 0x0, true, false, none, fun _ _ _ => [⟨SEG_WLAST_LO, .ro, false⟩]⟩,
  ⟨"SEG_WLAST_HI", 0x10002c, 1, 0x0, 1, 0x0, 1, 0x0, true, false, none, fun _ _ _ => [⟨SEG_WLAST_HI, .ro, false⟩]⟩,
  ⟨"SEG_NDEAD", 0x100030, 1, 0x0, 1, 0x0, 1, 0x0, true, false, none, fun _ _ _ => [⟨SEG_NDEAD, .ro, false⟩]⟩,
  ⟨"SEG_NVFEED", 0x100034, 1, 0x0, 1, 0x0, 1, 0x0, true, false, none, fun _ _ _ => [⟨SEG_NVFEED, .ro, false⟩]⟩,
  ⟨"SEG_PL_ADDR_LO", 0x100100, 1, 0x0, 1, 0x0, 1, 0x0, false, false, none, fun _ _ _ => [⟨SEG_PL_ADDR_LO, .rw, false⟩]⟩,
  ⟨"SEG_PL_ADDR_HI", 0x100104, 1, 0x0, 1, 0x0, 1, 0x0, false, false, none, fun _ _ _ => [⟨SEG_PL_ADDR_HI, .rw, false⟩]⟩,
  ⟨"SEG_PL_AT_LO", 0x100108, 1, 0x0, 1, 0x0, 1, 0x0, false, false, none, fun _ _ _ => [⟨SEG_PL_AT_LO, .rw, false⟩]⟩,
  ⟨"SEG_PL_AT_HI", 0x10010c, 1, 0x0, 1, 0x0, 1, 0x0, false, false, none, fun _ _ _ => [⟨SEG_PL_AT_HI, .rw, false⟩]⟩,
  ⟨"SEG_PL_CTRL", 0x100110, 1, 0x0, 1, 0x0, 1, 0x0, false, false, none, fun _ _ _ => [⟨SEG_PL_CTRL_WHEN, .rw, false⟩, ⟨SEG_PL_CTRL_WITHDRAW, .w1s, false⟩, ⟨SEG_PL_CTRL_START, .w1s, false⟩]⟩,
  ⟨"SEG_PL_STATUS", 0x100114, 1, 0x0, 1, 0x0, 1, 0x0, false, false, none, fun _ _ _ => [⟨SEG_PL_STATUS_REFUSE, .ro, false⟩, ⟨SEG_PL_STATUS_REFUSED, .w1c, false⟩, ⟨SEG_PL_STATUS_QREADY, .ro, false⟩, ⟨SEG_PL_STATUS_QCHECK, .ro, false⟩, ⟨SEG_PL_STATUS_QUEUED, .ro, false⟩]⟩,
  ⟨"SEG_PL_NUM", 0x100118, 1, 0x0, 1, 0x0, 1, 0x0, false, false, none, fun _ _ _ => [⟨SEG_PL_NUM_QUEUED, .ro, false⟩, ⟨SEG_PL_NUM_RUN, .ro, false⟩]⟩,
  ⟨"SEG_PL_FIRST_LO", 0x10011c, 1, 0x0, 1, 0x0, 1, 0x0, false, false, none, fun _ _ _ => [⟨SEG_PL_FIRST_LO, .ro, false⟩]⟩,
  ⟨"SEG_PL_FIRST_HI", 0x100120, 1, 0x0, 1, 0x0, 1, 0x0, false, false, none, fun _ _ _ => [⟨SEG_PL_FIRST_HI, .ro, false⟩]⟩,
  ⟨"SEG_PL_NSTART", 0x100124, 1, 0x0, 1, 0x0, 1, 0x0, true, false, none, fun _ _ _ => [⟨SEG_PL_NSTART, .ro, false⟩]⟩,
  ⟨"SEG_PL_NREFUSE", 0x100128, 1, 0x0, 1, 0x0, 1, 0x0, true, false, none, fun _ _ _ => [⟨SEG_PL_NREFUSE, .ro, false⟩]⟩,
  ⟨"SEG_STR_CTRL", 0x100400, 8, 0x40, 1, 0x0, 1, 0x0, false, false, none, fun i _ _ => [⟨SEG_STR_CTRL_WIDTH i, .rw, false⟩, ⟨SEG_STR_CTRL_CLOSE i, .w1s, false⟩, ⟨SEG_STR_CTRL_OPEN i, .w1s, false⟩]⟩,
  ⟨"SEG_STR_STATUS", 0x100404, 8, 0x40, 1, 0x0, 1, 0x0, false, false, none, fun i _ _ => [⟨SEG_STR_STATUS_RATEERR i, .w1c, false⟩, ⟨SEG_STR_STATUS_RATEREF i, .w1c, false⟩, ⟨SEG_STR_STATUS_CLOSEREF i, .w1c, false⟩, ⟨SEG_STR_STATUS_PRODERR i, .w1c, false⟩, ⟨SEG_STR_STATUS_UNDR i, .w1c, false⟩, ⟨SEG_STR_STATUS_RUN i, .ro, false⟩, ⟨SEG_STR_STATUS_OPEN i, .ro, false⟩]⟩,
  ⟨"SEG_STR_BASE_LO", 0x100408, 8, 0x40, 1, 0x0, 1, 0x0, false, false, none, fun i _ _ => [⟨SEG_STR_BASE_LO i, .rw, false⟩]⟩,
  ⟨"SEG_STR_BASE_HI", 0x10040c, 8, 0x40, 1, 0x0, 1, 0x0, false, false, none, fun i _ _ => [⟨SEG_STR_BASE_HI i, .rw, false⟩]⟩,
  ⟨"SEG_STR_SIZE", 0x100410, 8, 0x40, 1, 0x0, 1, 0x0, false, false, none, fun i _ _ => [⟨SEG_STR_SIZE i, .rw, false⟩]⟩,
  ⟨"SEG_STR_NUNDR", 0x100414, 8, 0x40, 1, 0x0, 1, 0x0, true, false, none, fun i _ _ => [⟨SEG_STR_NUNDR i, .ro, false⟩]⟩,
  ⟨"SEG_STR_PROD_LO", 0x100418, 8, 0x40, 1, 0x0, 1, 0x0, false, false, none, fun i _ _ => [⟨SEG_STR_PROD_LO i, .rw, false⟩]⟩,
  ⟨"SEG_STR_PROD_HI", 0x10041c, 8, 0x40, 1, 0x0, 1, 0x0, false, false, none, fun i _ _ => [⟨SEG_STR_PROD_HI i, .rw, false⟩]⟩,
  ⟨"SEG_STR_FETCH_LO", 0x100420, 8, 0x40, 1, 0x0, 1, 0x0, false, false, none, fun i _ _ => [⟨SEG_STR_FETCH_LO i, .ro, false⟩]⟩,
  ⟨"SEG_STR_FETCH_HI", 0x100424, 8, 0x40, 1, 0x0, 1, 0x0, false, false, none, fun i _ _ => [⟨SEG_STR_FETCH_HI i, .ro, false⟩]⟩,
  ⟨"SEG_STR_CONS_LO", 0x100428, 8, 0x40, 1, 0x0, 1, 0x0, true, false, none, fun i _ _ => [⟨SEG_STR_CONS_LO i, .ro, false⟩]⟩,
  ⟨"SEG_STR_CONS_HI", 0x10042c, 8, 0x40, 1, 0x0, 1, 0x0, true, false, none, fun i _ _ => [⟨SEG_STR_CONS_HI i, .ro, false⟩]⟩]

/-- Registers of the APG block. -/
def regsApg : List RegDesc := [
  ⟨"APG_CTRL", 0x180000, 1, 0x0, 1, 0x0, 1, 0x0, false, false, none, fun _ _ _ => [⟨APG_CTRL_FCLOG, .rw, false⟩, ⟨APG_CTRL_FCGEN, .rw, false⟩, ⟨APG_CTRL_SCRUB_EN, .rw, false⟩]⟩,
  ⟨"APG_STATUS", 0x180004, 1, 0x0, 1, 0x0, 1, 0x0, false, false, none, fun _ _ _ => [⟨APG_STATUS_PLOCKED, .ro, true⟩, ⟨APG_STATUS_PWREF, .w1c, false⟩, ⟨APG_STATUS_CHKERR, .w1c, false⟩, ⟨APG_STATUS_UE, .w1c, false⟩, ⟨APG_STATUS_TLREF, .w1c, false⟩, ⟨APG_STATUS_TLDONE, .w1c, false⟩, ⟨APG_STATUS_TLBUSY, .ro, false⟩]⟩,
  ⟨"APG_TLD_CTRL", 0x180010, 1, 0x0, 1, 0x0, 1, 0x0, false, false, none, fun _ _ _ => [⟨APG_TLD_CTRL_ABORT, .w1s, false⟩, ⟨APG_TLD_CTRL_GO, .w1s, false⟩]⟩,
  ⟨"APG_TLD_TGT", 0x180014, 1, 0x0, 1, 0x0, 1, 0x0, false, false, none, fun _ _ _ => [⟨APG_TLD_TGT_GEN, .rw, false⟩, ⟨APG_TLD_TGT_TBL, .rw, false⟩, ⟨APG_TLD_TGT_FIRST, .rw, false⟩]⟩,
  ⟨"APG_TLD_COUNT", 0x180018, 1, 0x0, 1, 0x0, 1, 0x0, false, false, none, fun _ _ _ => [⟨APG_TLD_COUNT, .rw, false⟩]⟩,
  ⟨"APG_TLD_SRC_LO", 0x18001c, 1, 0x0, 1, 0x0, 1, 0x0, false, false, none, fun _ _ _ => [⟨APG_TLD_SRC_LO, .rw, false⟩]⟩,
  ⟨"APG_TLD_SRC_HI", 0x180020, 1, 0x0, 1, 0x0, 1, 0x0, false, false, none, fun _ _ _ => [⟨APG_TLD_SRC_HI, .rw, false⟩]⟩,
  ⟨"APG_TLD_DONE", 0x180024, 1, 0x0, 1, 0x0, 1, 0x0, false, false, none, fun _ _ _ => [⟨APG_TLD_DONE, .ro, false⟩]⟩,
  ⟨"APG_TLD_BAD", 0x180028, 1, 0x0, 1, 0x0, 1, 0x0, false, false, none, fun _ _ _ => [⟨APG_TLD_BAD, .ro, false⟩]⟩,
  ⟨"APG_PWREFUSED", 0x18002c, 1, 0x0, 1, 0x0, 1, 0x0, true, false, none, fun _ _ _ => [⟨APG_PWREFUSED, .ro, false⟩]⟩,
  ⟨"APG_X", 0x180100, 2, 0x100, 1, 0x0, 1, 0x0, true, false, none, fun i _ _ => [⟨APG_X i, .ro, false⟩]⟩,
  ⟨"APG_Y", 0x180104, 2, 0x100, 1, 0x0, 1, 0x0, true, false, none, fun i _ _ => [⟨APG_Y i, .ro, false⟩]⟩,
  ⟨"APG_ZC", 0x180108, 2, 0x100, 1, 0x0, 1, 0x0, true, false, none, fun i _ _ => [⟨APG_ZC_C i, .ro, false⟩, ⟨APG_ZC_Z i, .ro, false⟩]⟩,
  ⟨"APG_D_LO", 0x18010c, 2, 0x100, 1, 0x0, 1, 0x0, true, false, none, fun i _ _ => [⟨APG_D_LO i, .ro, false⟩]⟩,
  ⟨"APG_D_HI", 0x180110, 2, 0x100, 1, 0x0, 1, 0x0, true, false, none, fun i _ _ => [⟨APG_D_HI i, .ro, false⟩]⟩,
  ⟨"APG_XMIN", 0x180114, 2, 0x100, 1, 0x0, 1, 0x0, true, false, none, fun i _ _ => [⟨APG_XMIN i, .ro, false⟩]⟩,
  ⟨"APG_XMAX", 0x180118, 2, 0x100, 1, 0x0, 1, 0x0, true, false, none, fun i _ _ => [⟨APG_XMAX i, .ro, false⟩]⟩,
  ⟨"APG_YMIN", 0x18011c, 2, 0x100, 1, 0x0, 1, 0x0, true, false, none, fun i _ _ => [⟨APG_YMIN i, .ro, false⟩]⟩,
  ⟨"APG_YMAX", 0x180120, 2, 0x100, 1, 0x0, 1, 0x0, true, false, none, fun i _ _ => [⟨APG_YMAX i, .ro, false⟩]⟩,
  ⟨"APG_ZBND", 0x180124, 2, 0x100, 1, 0x0, 1, 0x0, true, false, none, fun i _ _ => [⟨APG_ZBND_ZMAX i, .ro, false⟩, ⟨APG_ZBND_ZMIN i, .ro, false⟩]⟩,
  ⟨"APG_XS", 0x180128, 2, 0x100, 1, 0x0, 1, 0x0, true, false, none, fun i _ _ => [⟨APG_XS i, .ro, false⟩]⟩,
  ⟨"APG_YS", 0x18012c, 2, 0x100, 1, 0x0, 1, 0x0, true, false, none, fun i _ _ => [⟨APG_YS i, .ro, false⟩]⟩,
  ⟨"APG_ZS", 0x180130, 2, 0x100, 1, 0x0, 1, 0x0, true, false, none, fun i _ _ => [⟨APG_ZS i, .ro, false⟩]⟩,
  ⟨"APG_NINVALID", 0x180134, 2, 0x100, 1, 0x0, 1, 0x0, false, false, none, fun i _ _ => [⟨APG_NINVALID i, .ro, true⟩]⟩,
  ⟨"APG_CE", 0x180138, 2, 0x100, 1, 0x0, 1, 0x0, true, false, none, fun i _ _ => [⟨APG_CE i, .ro, false⟩]⟩,
  ⟨"APG_UE", 0x18013c, 2, 0x100, 1, 0x0, 1, 0x0, true, false, none, fun i _ _ => [⟨APG_UE i, .ro, false⟩]⟩,
  ⟨"APG_LASTERR", 0x180140, 2, 0x100, 1, 0x0, 1, 0x0, false, false, none, fun i _ _ => [⟨APG_LASTERR_UNC i, .ro, false⟩, ⟨APG_LASTERR_ADDR i, .ro, false⟩, ⟨APG_LASTERR_IDX i, .ro, false⟩]⟩,
  ⟨"APG_NEXEC_LO", 0x180144, 2, 0x100, 1, 0x0, 1, 0x0, true, false, none, fun i _ _ => [⟨APG_NEXEC_LO i, .ro, false⟩]⟩,
  ⟨"APG_NEXEC_HI", 0x180148, 2, 0x100, 1, 0x0, 1, 0x0, true, false, none, fun i _ _ => [⟨APG_NEXEC_HI i, .ro, false⟩]⟩,
  ⟨"APG_INIT_X", 0x180150, 2, 0x100, 1, 0x0, 1, 0x0, false, false, none, fun i _ _ => [⟨APG_INIT_X i, .rw, false⟩]⟩,
  ⟨"APG_INIT_Y", 0x180154, 2, 0x100, 1, 0x0, 1, 0x0, false, false, none, fun i _ _ => [⟨APG_INIT_Y i, .rw, false⟩]⟩,
  ⟨"APG_INIT_ZC", 0x180158, 2, 0x100, 1, 0x0, 1, 0x0, false, false, none, fun i _ _ => [⟨APG_INIT_ZC_C i, .rw, false⟩, ⟨APG_INIT_ZC_Z i, .rw, false⟩]⟩,
  ⟨"APG_INIT_D_LO", 0x18015c, 2, 0x100, 1, 0x0, 1, 0x0, false, false, none, fun i _ _ => [⟨APG_INIT_D_LO i, .rw, false⟩]⟩,
  ⟨"APG_INIT_D_HI", 0x180160, 2, 0x100, 1, 0x0, 1, 0x0, false, false, none, fun i _ _ => [⟨APG_INIT_D_HI i, .rw, false⟩]⟩,
  ⟨"APG_INIT_XMIN", 0x180164, 2, 0x100, 1, 0x0, 1, 0x0, false, false, none, fun i _ _ => [⟨APG_INIT_XMIN i, .rw, false⟩]⟩,
  ⟨"APG_INIT_XMAX", 0x180168, 2, 0x100, 1, 0x0, 1, 0x0, false, false, none, fun i _ _ => [⟨APG_INIT_XMAX i, .rw, false⟩]⟩,
  ⟨"APG_INIT_YMIN", 0x18016c, 2, 0x100, 1, 0x0, 1, 0x0, false, false, none, fun i _ _ => [⟨APG_INIT_YMIN i, .rw, false⟩]⟩,
  ⟨"APG_INIT_YMAX", 0x180170, 2, 0x100, 1, 0x0, 1, 0x0, false, false, none, fun i _ _ => [⟨APG_INIT_YMAX i, .rw, false⟩]⟩,
  ⟨"APG_INIT_ZBND", 0x180174, 2, 0x100, 1, 0x0, 1, 0x0, false, false, none, fun i _ _ => [⟨APG_INIT_ZBND_ZMAX i, .rw, false⟩, ⟨APG_INIT_ZBND_ZMIN i, .rw, false⟩]⟩,
  ⟨"APG_ASCR_CFG", 0x180180, 2, 0x100, 2, 0x4, 1, 0x0, false, false, (some 6), fun i j _ => [⟨APG_ASCR_CFG_EN i j, .rwc, false⟩, ⟨APG_ASCR_CFG_AXIS i j, .rwc, false⟩, ⟨APG_ASCR_CFG_LSB i j, .rwc, false⟩]⟩,
  ⟨"APG_DSCR_CFG", 0x180188, 2, 0x100, 1, 0x0, 1, 0x0, false, false, (some 6), fun i _ _ => [⟨APG_DSCR_CFG_DYLSB i, .rwc, false⟩, ⟨APG_DSCR_CFG_DXLSB i, .rwc, false⟩]⟩,
  ⟨"APG_SVALID", 0x18018c, 2, 0x100, 1, 0x0, 1, 0x0, false, false, none, fun i _ _ => [⟨APG_SVALID i, .ro, true⟩]⟩]

/-- Registers of the CAP block. -/
def regsCap : List RegDesc := [
  ⟨"CAP_CTRL", 0x200000, 1, 0x0, 1, 0x0, 1, 0x0, false, false, none, fun _ _ _ => [⟨CAP_CTRL_AUTORST, .rw, false⟩, ⟨CAP_CTRL_RESET, .w1s, false⟩, ⟨CAP_CTRL_DISARM, .w1s, false⟩, ⟨CAP_CTRL_ARM, .w1s, false⟩, ⟨CAP_CTRL_ENABLE, .rw, false⟩]⟩,
  ⟨"CAP_STATUS", 0x200004, 1, 0x0, 1, 0x0, 1, 0x0, false, false, none, fun _ _ _ => [⟨CAP_STATUS_ST, .ro, false⟩, ⟨CAP_STATUS_CFGREF, .w1c, false⟩, ⟨CAP_STATUS_CFGERR, .ro, false⟩, ⟨CAP_STATUS_SHORTPOST, .ro, false⟩, ⟨CAP_STATUS_HOLE, .ro, false⟩, ⟨CAP_STATUS_RINGFULL, .ro, false⟩, ⟨CAP_STATUS_DROP, .w1c, false⟩, ⟨CAP_STATUS_FROZEN, .ro, false⟩, ⟨CAP_STATUS_FIRED, .ro, false⟩, ⟨CAP_STATUS_FILLED, .ro, false⟩, ⟨CAP_STATUS_ARMED, .ro, false⟩, ⟨CAP_STATUS_TWACTBAD, .ro, true⟩]⟩,
  ⟨"CAP_CFG", 0x200008, 1, 0x0, 1, 0x0, 1, 0x0, false, false, none, fun _ _ _ => [⟨CAP_CFG_TILES, .rw, false⟩, ⟨CAP_CFG_DRV, .rw, false⟩, ⟨CAP_CFG_RMODE, .rw, false⟩]⟩,
  ⟨"CAP_RING_SIZE", 0x20000c, 1, 0x0, 1, 0x0, 1, 0x0, false, false, none, fun _ _ _ => [⟨CAP_RING_SIZE, .rw, false⟩]⟩,
  ⟨"CAP_RING_BASE_LO", 0x200010, 1, 0x0, 1, 0x0, 1, 0x0, false, false, none, fun _ _ _ => [⟨CAP_RING_BASE_LO, .rw, false⟩]⟩,
  ⟨"CAP_RING_BASE_HI", 0x200014, 1, 0x0, 1, 0x0, 1, 0x0, false, false, none, fun _ _ _ => [⟨CAP_RING_BASE_HI, .rw, false⟩]⟩,
  ⟨"CAP_PRE", 0x200018, 1, 0x0, 1, 0x0, 1, 0x0, false, false, none, fun _ _ _ => [⟨CAP_PRE, .rw, false⟩]⟩,
  ⟨"CAP_POST", 0x20001c, 1, 0x0, 1, 0x0, 1, 0x0, false, false, none, fun _ _ _ => [⟨CAP_POST, .rw, false⟩]⟩,
  ⟨"CAP_WPTR_LO", 0x200020, 1, 0x0, 1, 0x0, 1, 0x0, false, false, none, fun _ _ _ => [⟨CAP_WPTR_LO, .ro, false⟩]⟩,
  ⟨"CAP_WPTR_HI", 0x200024, 1, 0x0, 1, 0x0, 1, 0x0, false, false, none, fun _ _ _ => [⟨CAP_WPTR_HI, .ro, false⟩]⟩,
  ⟨"CAP_TRIG_PTR_LO", 0x200028, 1, 0x0, 1, 0x0, 1, 0x0, false, false, none, fun _ _ _ => [⟨CAP_TRIG_PTR_LO, .ro, false⟩]⟩,
  ⟨"CAP_TRIG_PTR_HI", 0x20002c, 1, 0x0, 1, 0x0, 1, 0x0, false, false, none, fun _ _ _ => [⟨CAP_TRIG_PTR_HI, .ro, false⟩]⟩,
  ⟨"CAP_TRIG_GVC_LO", 0x200030, 1, 0x0, 1, 0x0, 1, 0x0, false, false, none, fun _ _ _ => [⟨CAP_TRIG_GVC_LO, .ro, false⟩]⟩,
  ⟨"CAP_TRIG_GVC_HI", 0x200034, 1, 0x0, 1, 0x0, 1, 0x0, false, false, none, fun _ _ _ => [⟨CAP_TRIG_GVC_HI, .ro, false⟩]⟩,
  ⟨"CAP_NREC", 0x200038, 1, 0x0, 1, 0x0, 1, 0x0, true, false, none, fun _ _ _ => [⟨CAP_NREC, .ro, false⟩]⟩,
  ⟨"CAP_NDROP", 0x20003c, 1, 0x0, 1, 0x0, 1, 0x0, true, false, none, fun _ _ _ => [⟨CAP_NDROP, .ro, false⟩]⟩,
  ⟨"CAP_NMVIOL", 0x200040, 1, 0x0, 1, 0x0, 1, 0x0, true, false, none, fun _ _ _ => [⟨CAP_NMVIOL, .ro, false⟩]⟩,
  ⟨"CAP_NFIRE", 0x200044, 1, 0x0, 1, 0x0, 1, 0x0, true, false, none, fun _ _ _ => [⟨CAP_NFIRE, .ro, false⟩]⟩,
  ⟨"CAP_FC_CFG", 0x200050, 1, 0x0, 1, 0x0, 1, 0x0, false, false, none, fun _ _ _ => [⟨CAP_FC_CFG_EN, .rw, false⟩, ⟨CAP_FC_CFG_PERUI, .rw, false⟩, ⟨CAP_FC_CFG_SITELIM, .rw, false⟩]⟩,
  ⟨"CAP_FC_STATUS", 0x200054, 1, 0x0, 1, 0x0, 1, 0x0, false, false, none, fun _ _ _ => [⟨CAP_FC_STATUS_RPTRERR, .w1c, false⟩, ⟨CAP_FC_STATUS_GAPPEND, .ro, false⟩, ⟨CAP_FC_STATUS_DROP, .w1c, false⟩, ⟨CAP_FC_STATUS_FULL, .ro, true⟩, ⟨CAP_FC_STATUS_LIMIT, .w1c, false⟩]⟩,
  ⟨"CAP_FC_WPTR_LO", 0x200058, 1, 0x0, 1, 0x0, 1, 0x0, true, false, none, fun _ _ _ => [⟨CAP_FC_WPTR_LO, .ro, false⟩]⟩,
  ⟨"CAP_FC_WPTR_HI", 0x20005c, 1, 0x0, 1, 0x0, 1, 0x0, true, false, none, fun _ _ _ => [⟨CAP_FC_WPTR_HI, .ro, false⟩]⟩,
  ⟨"CAP_FC_RPTR_LO", 0x200060, 1, 0x0, 1, 0x0, 1, 0x0, false, false, none, fun _ _ _ => [⟨CAP_FC_RPTR_LO, .rw, false⟩]⟩,
  ⟨"CAP_FC_RPTR_HI", 0x200064, 1, 0x0, 1, 0x0, 1, 0x0, false, false, none, fun _ _ _ => [⟨CAP_FC_RPTR_HI, .rw, false⟩]⟩,
  ⟨"CAP_FC_NDROP", 0x200068, 1, 0x0, 1, 0x0, 1, 0x0, true, false, none, fun _ _ _ => [⟨CAP_FC_NDROP, .ro, false⟩]⟩,
  ⟨"CAP_KILL_CFG", 0x200070, 1, 0x0, 1, 0x0, 1, 0x0, false, false, none, fun _ _ _ => [⟨CAP_KILL_CFG_EN, .rw, false⟩, ⟨CAP_KILL_CFG_DRV, .rw, false⟩, ⟨CAP_KILL_CFG_KILLN, .rw, false⟩]⟩,
  ⟨"CAP_KILL_LO", 0x200074, 1, 0x0, 1, 0x0, 1, 0x0, true, false, none, fun _ _ _ => [⟨CAP_KILL_LO, .w1sr, false⟩]⟩,
  ⟨"CAP_KILL_HI", 0x200078, 1, 0x0, 1, 0x0, 1, 0x0, true, false, none, fun _ _ _ => [⟨CAP_KILL_HI, .w1sr, false⟩]⟩,
  ⟨"CAP_TVALID", 0x20007c, 1, 0x0, 1, 0x0, 1, 0x0, false, false, none, fun _ _ _ => [⟨CAP_TVALID, .ro, true⟩]⟩,
  ⟨"CAP_TW_CFG", 0x200080, 8, 0x4, 1, 0x0, 1, 0x0, false, false, (some 7), fun i _ _ => [⟨CAP_TW_CFG_SRC i, .rwc, false⟩, ⟨CAP_TW_CFG_ANYUI i, .rwc, false⟩, ⟨CAP_TW_CFG_UISEL i, .rwc, false⟩, ⟨CAP_TW_CFG_MARK i, .rwc, false⟩]⟩,
  ⟨"CAP_TP_EV", 0x2000a0, 16, 0x8, 1, 0x0, 1, 0x0, false, false, (some 7), fun i _ _ => [⟨CAP_TP_EV_KIND i, .rwc, false⟩, ⟨CAP_TP_EV_ALL i, .rwc, false⟩, ⟨CAP_TP_EV_WSET i, .rwc, false⟩, ⟨CAP_TP_EV_COUNT i, .rwc, false⟩]⟩,
  ⟨"CAP_TP_GO", 0x2000a4, 16, 0x8, 1, 0x0, 1, 0x0, false, false, (some 7), fun i _ _ => [⟨CAP_TP_GO_GO i, .rwc, false⟩, ⟨CAP_TP_GO_TO i, .rwc, false⟩, ⟨CAP_TP_GO_ACT i, .rwc, false⟩, ⟨CAP_TP_GO_TOACT i, .rwc, false⟩, ⟨CAP_TP_GO_WITHIN i, .rwc, false⟩]⟩,
  ⟨"CAP_MSCFG", 0x200200, 256, 0x4, 1, 0x0, 1, 0x0, false, false, (some 4), fun i _ _ => [⟨CAP_MSCFG_MTEST i, .rwc, false⟩]⟩,
  ⟨"CAP_MSREF", 0x200600, 8, 0x4, 1, 0x0, 1, 0x0, false, false, none, fun i _ _ => [⟨CAP_MSREF i, .ro, true⟩]⟩,
  ⟨"CAP_MSBAD", 0x200620, 8, 0x4, 1, 0x0, 1, 0x0, false, false, none, fun i _ _ => [⟨CAP_MSBAD i, .ro, true⟩]⟩,
  ⟨"CAP_TWCHBAD", 0x200640, 8, 0x4, 1, 0x0, 1, 0x0, false, false, none, fun i _ _ => [⟨CAP_TWCHBAD i, .ro, true⟩]⟩,
  ⟨"CAP_SITE_NFV", 0x200700, 64, 0x4, 1, 0x0, 1, 0x0, true, false, none, fun i _ _ => [⟨CAP_SITE_NFV i, .ro, false⟩]⟩]

/-- Registers of the TIU block. -/
def regsTiu : List RegDesc := [
  ⟨"TIU_CAL_REQ", 0x280000, 1, 0x0, 1, 0x0, 1, 0x0, false, false, none, fun _ _ _ => [⟨TIU_CAL_REQ, .w1s, false⟩]⟩,
  ⟨"TIU_CAL_STATUS", 0x280004, 1, 0x0, 1, 0x0, 1, 0x0, false, false, none, fun _ _ _ => [⟨TIU_CAL_STATUS_CALBUSY, .ro, false⟩, ⟨TIU_CAL_STATUS_CALVALID, .ro, false⟩]⟩,
  ⟨"TIU_CAL_FAIL", 0x280008, 1, 0x0, 1, 0x0, 1, 0x0, false, false, none, fun _ _ _ => [⟨TIU_CAL_FAIL, .w1c, false⟩]⟩,
  ⟨"TIU_CAL_DEADLINE", 0x28000c, 1, 0x0, 1, 0x0, 1, 0x0, false, false, none, fun _ _ _ => [⟨TIU_CAL_DEADLINE, .rw, false⟩]⟩,
  ⟨"TIU_COARSE", 0x280010, 1, 0x0, 1, 0x0, 1, 0x0, false, false, none, fun _ _ _ => [⟨TIU_COARSE_LOCK, .ro, false⟩]⟩,
  ⟨"TIU_WREFUSED", 0x280014, 1, 0x0, 1, 0x0, 1, 0x0, true, false, none, fun _ _ _ => [⟨TIU_WREFUSED, .ro, false⟩]⟩,
  ⟨"TIU_CTRL", 0x281000, 16, 0x100, 1, 0x0, 1, 0x0, false, false, none, fun i _ _ => [⟨TIU_CTRL_ARM i, .w1s, false⟩, ⟨TIU_CTRL_DISARM i, .w1s, false⟩, ⟨TIU_CTRL_TAKE i, .w1s, false⟩, ⟨TIU_CTRL_RELEASE i, .w1s, false⟩, ⟨TIU_CTRL_CONT i, .rw, false⟩, ⟨TIU_CTRL_MODE i, .rw, false⟩]⟩,
  ⟨"TIU_STATUS", 0x281004, 16, 0x100, 1, 0x0, 1, 0x0, false, false, none, fun i _ _ => [⟨TIU_STATUS_OWNER i, .ro, false⟩, ⟨TIU_STATUS_END i, .ro, false⟩, ⟨TIU_STATUS_ARMED i, .ro, false⟩, ⟨TIU_STATUS_STARTED i, .ro, false⟩, ⟨TIU_STATUS_CALQ i, .ro, false⟩, ⟨TIU_STATUS_SRCERR i, .w1c, false⟩]⟩,
  ⟨"TIU_START_SRC", 0x281008, 16, 0x100, 1, 0x0, 1, 0x0, false, false, none, fun i _ _ => [⟨TIU_START_SRC_EDGE i, .rw, false⟩, ⟨TIU_START_SRC_SEL i, .rw, false⟩]⟩,
  ⟨"TIU_CFG", 0x28100c, 16, 0x100, 1, 0x0, 1, 0x0, false, false, none, fun i _ _ => [⟨TIU_CFG_NSTOP i, .rw, false⟩, ⟨TIU_CFG_HOLDOFF i, .rw, false⟩]⟩,
  ⟨"TIU_TIMEOUT", 0x281010, 16, 0x100, 1, 0x0, 1, 0x0, false, false, none, fun i _ _ => [⟨TIU_TIMEOUT i, .rw, false⟩]⟩,
  ⟨"TIU_GATE", 0x281014, 16, 0x100, 1, 0x0, 1, 0x0, false, false, none, fun i _ _ => [⟨TIU_GATE i, .rw, false⟩]⟩,
  ⟨"TIU_QUEUE", 0x281018, 16, 0x100, 1, 0x0, 1, 0x0, false, false, none, fun i _ _ => [⟨TIU_QUEUE_EN i, .rw, false⟩, ⟨TIU_QUEUE_Q i, .rw, false⟩]⟩,
  ⟨"TIU_SEQ", 0x28101c, 16, 0x100, 1, 0x0, 1, 0x0, true, false, none, fun i _ _ => [⟨TIU_SEQ i, .ro, false⟩]⟩,
  ⟨"TIU_COUNT", 0x281020, 16, 0x100, 1, 0x0, 1, 0x0, true, false, none, fun i _ _ => [⟨TIU_COUNT i, .ro, false⟩]⟩,
  ⟨"TIU_START_GVC_LO", 0x281024, 16, 0x100, 1, 0x0, 1, 0x0, true, false, none, fun i _ _ => [⟨TIU_START_GVC_LO i, .ro, false⟩]⟩,
  ⟨"TIU_START_GVC_HI", 0x281028, 16, 0x100, 1, 0x0, 1, 0x0, true, false, none, fun i _ _ => [⟨TIU_START_GVC_HI i, .ro, false⟩]⟩,
  ⟨"TIU_NSHORT", 0x28102c, 16, 0x100, 1, 0x0, 1, 0x0, true, false, none, fun i _ _ => [⟨TIU_NSHORT i, .ro, false⟩]⟩,
  ⟨"TIU_STOP_SRC", 0x281040, 16, 0x100, 16, 0x4, 1, 0x0, false, false, none, fun i j _ => [⟨TIU_STOP_SRC_EDGE i j, .rw, false⟩, ⟨TIU_STOP_SRC_SEL i j, .rw, false⟩]⟩,
  ⟨"TIU_RES_LO", 0x281080, 16, 0x100, 16, 0x8, 1, 0x0, true, false, none, fun i j _ => [⟨TIU_RES_LO i j, .ro, false⟩]⟩,
  ⟨"TIU_RES_HI", 0x281084, 16, 0x100, 16, 0x8, 1, 0x0, true, false, none, fun i j _ => [⟨TIU_RES_HI i j, .ro, false⟩]⟩]

/-- Registers of the PMU block. -/
def regsPmu : List RegDesc := [
  ⟨"PMU_CT_CTRL", 0x300000, 1, 0x0, 1, 0x0, 1, 0x0, false, false, none, fun _ _ _ => [⟨PMU_CT_CTRL_GO, .w1s, false⟩]⟩,
  ⟨"PMU_CT_STATUS", 0x300004, 1, 0x0, 1, 0x0, 1, 0x0, false, false, none, fun _ _ _ => [⟨PMU_CT_STATUS_CTREF, .w1c, false⟩, ⟨PMU_CT_STATUS_DONE, .w1c, false⟩, ⟨PMU_CT_STATUS_BUSY, .ro, false⟩]⟩,
  ⟨"PMU_CT_CFG1", 0x300008, 1, 0x0, 1, 0x0, 1, 0x0, false, false, none, fun _ _ _ => [⟨PMU_CT_CFG1_NBR, .rw, false⟩, ⟨PMU_CT_CFG1_VCL, .rw, false⟩, ⟨PMU_CT_CFG1_ICT, .rw, false⟩]⟩,
  ⟨"PMU_CT_CFG2", 0x30000c, 1, 0x0, 1, 0x0, 1, 0x0, false, false, none, fun _ _ _ => [⟨PMU_CT_CFG2_VDHI, .rw, false⟩, ⟨PMU_CT_CFG2_VDLO, .rw, false⟩]⟩,
  ⟨"PMU_CT_CFG3", 0x300010, 1, 0x0, 1, 0x0, 1, 0x0, false, false, none, fun _ _ _ => [⟨PMU_CT_CFG3_CT_SETTLE, .rw, false⟩, ⟨PMU_CT_CFG3_VSHORT, .rw, false⟩]⟩,
  ⟨"PMU_CT_NFAIL", 0x300014, 1, 0x0, 1, 0x0, 1, 0x0, true, false, none, fun _ _ _ => [⟨PMU_CT_NFAIL, .ro, false⟩]⟩,
  ⟨"PMU_WREFUSED", 0x300018, 1, 0x0, 1, 0x0, 1, 0x0, true, false, none, fun _ _ _ => [⟨PMU_WREFUSED, .ro, false⟩]⟩,
  ⟨"PMU_CT_SEL", 0x300020, 8, 0x4, 1, 0x0, 1, 0x0, false, false, none, fun i _ _ => [⟨PMU_CT_SEL i, .rw, false⟩]⟩,
  ⟨"PMU_CT_RES", 0x300400, 256, 0x4, 1, 0x0, 1, 0x0, true, false, none, fun i _ _ => [⟨PMU_CT_RES_RESULT i, .ro, false⟩, ⟨PMU_CT_RES_VP i, .ro, false⟩, ⟨PMU_CT_RES_VN i, .ro, false⟩]⟩,
  ⟨"PMU_CTRL", 0x301000, 32, 0x100, 1, 0x0, 1, 0x0, false, false, none, fun i _ _ => [⟨PMU_CTRL_TAKE i, .w1s, false⟩, ⟨PMU_CTRL_RELEASE i, .w1s, false⟩, ⟨PMU_CTRL_CONN i, .rw, false⟩, ⟨PMU_CTRL_CH i, .rw, false⟩, ⟨PMU_CTRL_IRANGE i, .rw, false⟩, ⟨PMU_CTRL_MODE i, .rw, false⟩]⟩,
  ⟨"PMU_STATUS", 0x301004, 32, 0x100, 1, 0x0, 1, 0x0, false, false, none, fun i _ _ => [⟨PMU_STATUS_OWNER i, .ro, false⟩, ⟨PMU_STATUS_END i, .ro, false⟩, ⟨PMU_STATUS_VALERR i, .w1c, false⟩, ⟨PMU_STATUS_CLAMPED i, .ro, false⟩, ⟨PMU_STATUS_CONN i, .ro, false⟩]⟩,
  ⟨"PMU_FORCE", 0x301008, 32, 0x100, 1, 0x0, 1, 0x0, false, false, none, fun i _ _ => [⟨PMU_FORCE i, .rw, false⟩]⟩,
  ⟨"PMU_CLAMP", 0x30100c, 32, 0x100, 1, 0x0, 1, 0x0, false, false, none, fun i _ _ => [⟨PMU_CLAMP i, .rw, false⟩]⟩,
  ⟨"PMU_VCLAMP", 0x301010, 32, 0x100, 1, 0x0, 1, 0x0, false, false, none, fun i _ _ => [⟨PMU_VCLAMP_VCLH i, .rw, false⟩, ⟨PMU_VCLAMP_VCLL i, .rw, false⟩]⟩]

/-- Registers of the DFC block. -/
def regsDfc : List RegDesc := [
  ⟨"DFC_FIR_C", 0x340000, 4, 0x100, 48, 0x4, 1, 0x0, false, false, none, fun i j _ => [⟨DFC_FIR_C i j, .rw, false⟩]⟩,
  ⟨"DFC_CFG", 0x341000, 32, 0x100, 1, 0x0, 1, 0x0, false, false, none, fun i _ _ => [⟨DFC_CFG_DF i, .rw, false⟩, ⟨DFC_CFG_DCK i, .rw, false⟩, ⟨DFC_CFG_FSET i, .rw, false⟩, ⟨DFC_CFG_H i, .rw, false⟩, ⟨DFC_CFG_RH i, .rw, false⟩]⟩,
  ⟨"DFC_RATIO", 0x341004, 32, 0x100, 1, 0x0, 1, 0x0, false, false, none, fun i _ _ => [⟨DFC_RATIO i, .rw, false⟩]⟩,
  ⟨"DFC_CTRL", 0x341008, 32, 0x100, 1, 0x0, 1, 0x0, false, false, none, fun i _ _ => [⟨DFC_CTRL_START i, .w1s, false⟩, ⟨DFC_CTRL_STOP i, .w1s, false⟩, ⟨DFC_CTRL_FREEZE i, .rw, false⟩]⟩,
  ⟨"DFC_STATUS", 0x34100c, 32, 0x100, 1, 0x0, 1, 0x0, false, false, none, fun i _ _ => [⟨DFC_STATUS_CFGERR i, .w1c, false⟩, ⟨DFC_STATUS_FROZEN i, .ro, false⟩, ⟨DFC_STATUS_RUN i, .ro, false⟩]⟩,
  ⟨"DFC_GDELAY", 0x341010, 32, 0x100, 1, 0x0, 1, 0x0, false, false, none, fun i _ _ => [⟨DFC_GDELAY i, .ro, true⟩]⟩,
  ⟨"DFC_BASE", 0x341014, 32, 0x100, 1, 0x0, 1, 0x0, false, false, none, fun i _ _ => [⟨DFC_BASE i, .rw, false⟩]⟩,
  ⟨"DFC_OUT", 0x341018, 32, 0x100, 1, 0x0, 1, 0x0, true, false, none, fun i _ _ => [⟨DFC_OUT i, .ro, false⟩]⟩,
  ⟨"DFC_FLAGS", 0x34101c, 32, 0x100, 1, 0x0, 1, 0x0, true, false, none, fun i _ _ => [⟨DFC_FLAGS i, .ro, false⟩]⟩,
  ⟨"DFC_NOUT_LO", 0x341020, 32, 0x100, 1, 0x0, 1, 0x0, true, false, none, fun i _ _ => [⟨DFC_NOUT_LO i, .ro, false⟩]⟩,
  ⟨"DFC_NOUT_HI", 0x341024, 32, 0x100, 1, 0x0, 1, 0x0, true, false, none, fun i _ _ => [⟨DFC_NOUT_HI i, .ro, false⟩]⟩,
  ⟨"DFC_START_GVC_LO", 0x341028, 32, 0x100, 1, 0x0, 1, 0x0, false, false, none, fun i _ _ => [⟨DFC_START_GVC_LO i, .ro, false⟩]⟩,
  ⟨"DFC_START_GVC_HI", 0x34102c, 32, 0x100, 1, 0x0, 1, 0x0, false, false, none, fun i _ _ => [⟨DFC_START_GVC_HI i, .ro, false⟩]⟩,
  ⟨"DFC_QUEUE", 0x341030, 32, 0x100, 1, 0x0, 1, 0x0, false, false, none, fun i _ _ => [⟨DFC_QUEUE_EN i, .rw, false⟩, ⟨DFC_QUEUE_Q i, .rw, false⟩]⟩]

/-- Registers of the GRD block. -/
def regsGrd : List RegDesc := [
  ⟨"GRD_STATUS", 0x380000, 1, 0x0, 1, 0x0, 1, 0x0, false, false, none, fun _ _ _ => [⟨GRD_STATUS_ENVREF, .w1c, false⟩, ⟨GRD_STATUS_SAFE, .ro, true⟩, ⟨GRD_STATUS_THERM, .ro, false⟩, ⟨GRD_STATUS_RAILTRIP, .w1c, false⟩, ⟨GRD_STATUS_ANY, .ro, true⟩]⟩,
  ⟨"GRD_TICK", 0x380008, 1, 0x0, 1, 0x0, 1, 0x0, false, false, none, fun _ _ _ => [⟨GRD_TICK, .rw, false⟩]⟩,
  ⟨"GRD_NTRIP", 0x380010, 1, 0x0, 1, 0x0, 1, 0x0, true, false, none, fun _ _ _ => [⟨GRD_NTRIP, .ro, false⟩]⟩,
  ⟨"GRD_WREFUSED", 0x380014, 1, 0x0, 1, 0x0, 1, 0x0, false, false, none, fun _ _ _ => [⟨GRD_WREFUSED, .ro, false⟩]⟩,
  ⟨"GRD_NILIM", 0x380018, 1, 0x0, 1, 0x0, 1, 0x0, true, false, none, fun _ _ _ => [⟨GRD_NILIM, .ro, false⟩]⟩,
  ⟨"GRD_TRIPPED", 0x380020, 8, 0x4, 1, 0x0, 1, 0x0, true, false, none, fun i _ _ => [⟨GRD_TRIPPED i, .ro, true⟩]⟩,
  ⟨"GRD_ACTIVE", 0x380040, 8, 0x4, 1, 0x0, 1, 0x0, true, false, none, fun i _ _ => [⟨GRD_ACTIVE i, .ro, true⟩]⟩,
  ⟨"GRD_DS_LATCHED", 0x380060, 1, 0x0, 1, 0x0, 1, 0x0, true, false, none, fun _ _ _ => [⟨GRD_DS_LATCHED, .ro, true⟩]⟩,
  ⟨"GRD_DS_ACTIVE", 0x380064, 1, 0x0, 1, 0x0, 1, 0x0, true, false, none, fun _ _ _ => [⟨GRD_DS_ACTIVE, .ro, true⟩]⟩,
  ⟨"GRD_RAIL_ACTIVE", 0x380068, 1, 0x0, 1, 0x0, 1, 0x0, false, false, none, fun _ _ _ => [⟨GRD_RAIL_ACTIVE, .ro, true⟩]⟩,
  ⟨"GRD_RAIL_LATCHED", 0x38006c, 1, 0x0, 1, 0x0, 1, 0x0, true, false, none, fun _ _ _ => [⟨GRD_RAIL_LATCHED, .w1cl, true⟩]⟩,
  ⟨"GRD_ENV_CH", 0x380080, 1, 0x0, 1, 0x0, 1, 0x0, false, false, none, fun _ _ _ => [⟨GRD_ENV_CH_HI, .rso, false⟩, ⟨GRD_ENV_CH_LO, .rso, false⟩]⟩,
  ⟨"GRD_ENV_DS", 0x380084, 1, 0x0, 1, 0x0, 1, 0x0, false, false, none, fun _ _ _ => [⟨GRD_ENV_DS_HI, .rso, false⟩, ⟨GRD_ENV_DS_LO, .rso, false⟩]⟩,
  ⟨"GRD_POLICY", 0x380088, 1, 0x0, 1, 0x0, 1, 0x0, false, false, none, fun _ _ _ => [⟨GRD_POLICY_NODIS, .rso, false⟩]⟩,
  ⟨"GRD_MTRIP", 0x380100, 8, 0x4, 1, 0x0, 1, 0x0, false, false, none, fun i _ _ => [⟨GRD_MTRIP i, .w1s, false⟩]⟩,
  ⟨"GRD_RELEASE", 0x380120, 8, 0x4, 1, 0x0, 1, 0x0, false, false, none, fun i _ _ => [⟨GRD_RELEASE i, .w1s, false⟩]⟩,
  ⟨"GRD_CFG", 0x381000, 312, 0x10, 1, 0x0, 1, 0x0, false, false, none, fun i _ _ => [⟨GRD_CFG_MODE i, .rwg, false⟩, ⟨GRD_CFG_SRC i, .rwg, false⟩, ⟨GRD_CFG_ACT i, .rwg, false⟩, ⟨GRD_CFG_K i, .rwg, false⟩, ⟨GRD_CFG_N i, .rwg, false⟩]⟩,
  ⟨"GRD_THR", 0x381004, 312, 0x10, 1, 0x0, 1, 0x0, false, false, none, fun i _ _ => [⟨GRD_THR_HI i, .rwg, false⟩, ⟨GRD_THR_LO i, .rwg, false⟩]⟩,
  ⟨"GRD_STATUSM", 0x381008, 312, 0x10, 1, 0x0, 1, 0x0, false, false, none, fun i _ _ => [⟨GRD_STATUSM_ACTIVE i, .ro, false⟩, ⟨GRD_STATUSM_LATCHED i, .w1c, false⟩, ⟨GRD_STATUSM_CLRREF i, .w1c, false⟩, ⟨GRD_STATUSM_ILIM i, .ro, false⟩, ⟨GRD_STATUSM_POLREV i, .ro, false⟩, ⟨GRD_STATUSM_TWIN i, .w1c, false⟩, ⟨GRD_STATUSM_DEGRADED i, .ro, true⟩, ⟨GRD_STATUSM_MODESW i, .ro, true⟩]⟩,
  ⟨"GRD_COUNT", 0x38100c, 312, 0x10, 1, 0x0, 1, 0x0, true, false, none, fun i _ _ => [⟨GRD_COUNT i, .ro, false⟩]⟩,
  ⟨"GRD_DS_SITES_LO", 0x383000, 32, 0x8, 1, 0x0, 1, 0x0, false, false, none, fun i _ _ => [⟨GRD_DS_SITES_LO i, .rw, false⟩]⟩,
  ⟨"GRD_DS_SITES_HI", 0x383004, 32, 0x8, 1, 0x0, 1, 0x0, false, false, none, fun i _ _ => [⟨GRD_DS_SITES_HI i, .rw, false⟩]⟩]

/-- Registers of the CLE block. -/
def regsCle : List RegDesc := [
  ⟨"CLE_STATUS", 0x3c0000, 1, 0x0, 1, 0x0, 1, 0x0, false, false, none, fun _ _ _ => [⟨CLE_STATUS_TSETTLED, .ro, false⟩, ⟨CLE_STATUS_PWMREF, .w1c, false⟩, ⟨CLE_STATUS_LBRUN, .ro, true⟩]⟩,
  ⟨"CLE_FRAME_LO", 0x3c0004, 1, 0x0, 1, 0x0, 1, 0x0, false, false, none, fun _ _ _ => [⟨CLE_FRAME_LO, .ro, true⟩]⟩,
  ⟨"CLE_FRAME_HI", 0x3c0008, 1, 0x0, 1, 0x0, 1, 0x0, false, false, none, fun _ _ _ => [⟨CLE_FRAME_HI, .ro, true⟩]⟩,
  ⟨"CLE_LOAD", 0x3c000c, 1, 0x0, 1, 0x0, 1, 0x0, false, false, none, fun _ _ _ => [⟨CLE_LOAD, .ro, false⟩]⟩,
  ⟨"CLE_NHOLD", 0x3c0010, 1, 0x0, 1, 0x0, 1, 0x0, true, false, none, fun _ _ _ => [⟨CLE_NHOLD, .ro, false⟩]⟩,
  ⟨"CLE_WREFUSED", 0x3c0014, 1, 0x0, 1, 0x0, 1, 0x0, false, false, none, fun _ _ _ => [⟨CLE_WREFUSED, .ro, false⟩]⟩,
  ⟨"CLE_LB_CTRL", 0x3c0100, 4, 0x100, 1, 0x0, 1, 0x0, false, false, none, fun i _ _ => [⟨CLE_LB_CTRL_TAKE i, .w1s, false⟩, ⟨CLE_LB_CTRL_RELEASE i, .w1s, false⟩, ⟨CLE_LB_CTRL_EN i, .rw, false⟩, ⟨CLE_LB_CTRL_L i, .rw, false⟩]⟩,
  ⟨"CLE_LB_STATUS", 0x3c0104, 4, 0x100, 1, 0x0, 1, 0x0, false, false, none, fun i _ _ => [⟨CLE_LB_STATUS_OWNER i, .ro, false⟩, ⟨CLE_LB_STATUS_RUN i, .ro, false⟩]⟩,
  ⟨"CLE_LB_HTX", 0x3c0108, 4, 0x100, 1, 0x0, 1, 0x0, false, false, none, fun i _ _ => [⟨CLE_LB_HTX i, .rw, false⟩]⟩,
  ⟨"CLE_LB_HRX", 0x3c010c, 4, 0x100, 1, 0x0, 1, 0x0, false, false, none, fun i _ _ => [⟨CLE_LB_HRX i, .ro, false⟩]⟩,
  ⟨"CLE_LB_HSEQ", 0x3c0110, 4, 0x100, 1, 0x0, 1, 0x0, false, false, none, fun i _ _ => [⟨CLE_LB_HSEQ i, .ro, false⟩]⟩,
  ⟨"CLE_LB_HTXX", 0x3c0114, 4, 0x100, 1, 0x0, 1, 0x0, false, false, none, fun i _ _ => [⟨CLE_LB_HTXX i, .rw, false⟩]⟩,
  ⟨"CLE_LB_HRXX", 0x3c0118, 4, 0x100, 1, 0x0, 1, 0x0, false, false, none, fun i _ _ => [⟨CLE_LB_HRXX i, .ro, false⟩]⟩,
  ⟨"CLE_LB_SCHED", 0x3c0180, 4, 0x100, 32, 0x4, 1, 0x0, false, false, none, fun i j _ => [⟨CLE_LB_SCHED_KIND i j, .rw, false⟩, ⟨CLE_LB_SCHED_LOOP i j, .rw, false⟩, ⟨CLE_LB_SCHED_CS i j, .rw, false⟩, ⟨CLE_LB_SCHED_LEN i j, .rw, false⟩]⟩,
  ⟨"CLE_PWM_PER", 0x3c0800, 8, 0x4, 1, 0x0, 1, 0x0, false, false, none, fun i _ _ => [⟨CLE_PWM_PER i, .rw, false⟩]⟩,
  ⟨"CLE_CTRL", 0x3c1000, 64, 0x80, 1, 0x0, 1, 0x0, false, false, none, fun i _ _ => [⟨CLE_CTRL_TAKE i, .w1s, false⟩, ⟨CLE_CTRL_RELEASE i, .w1s, false⟩, ⟨CLE_CTRL_APPLY i, .w1s, false⟩, ⟨CLE_CTRL_BUMPLESS i, .w1s, false⟩, ⟨CLE_CTRL_MODE i, .rw, false⟩]⟩,
  ⟨"CLE_LSTATUS", 0x3c1004, 64, 0x80, 1, 0x0, 1, 0x0, false, false, none, fun i _ _ => [⟨CLE_LSTATUS_OWNER i, .ro, false⟩, ⟨CLE_LSTATUS_MODE i, .ro, false⟩, ⟨CLE_LSTATUS_HCAUSE i, .ro, false⟩, ⟨CLE_LSTATUS_SATHI i, .ro, false⟩, ⟨CLE_LSTATUS_SATLO i, .ro, false⟩, ⟨CLE_LSTATUS_INVALID i, .ro, false⟩, ⟨CLE_LSTATUS_CFGERR i, .w1c, false⟩, ⟨CLE_LSTATUS_C i, .ro, false⟩, ⟨CLE_LSTATUS_CODE i, .ro, false⟩]⟩,
  ⟨"CLE_CFG", 0x3c1008, 64, 0x80, 1, 0x0, 1, 0x0, false, false, none, fun i _ _ => [⟨CLE_CFG_INSRC i, .rw, false⟩, ⟨CLE_CFG_INIDX i, .rw, false⟩, ⟨CLE_CFG_SINK i, .rw, false⟩, ⟨CLE_CFG_OUTIDX i, .rw, false⟩, ⟨CLE_CFG_DIR i, .rw, false⟩, ⟨CLE_CFG_SIGNCHK i, .rw, false⟩, ⟨CLE_CFG_HTRIP i, .rw, false⟩, ⟨CLE_CFG_DSH i, .rw, false⟩, ⟨CLE_CFG_LOSTN i, .rw, false⟩]⟩,
  ⟨"CLE_PER", 0x3c100c, 64, 0x80, 1, 0x0, 1, 0x0, false, false, none, fun i _ _ => [⟨CLE_PER i, .rw, false⟩]⟩,
  ⟨"CLE_PHASE", 0x3c1010, 64, 0x80, 1, 0x0, 1, 0x0, false, false, none, fun i _ _ => [⟨CLE_PHASE i, .rw, false⟩]⟩,
  ⟨"CLE_SP", 0x3c1014, 64, 0x80, 1, 0x0, 1, 0x0, false, false, none, fun i _ _ => [⟨CLE_SP i, .rw, false⟩]⟩,
  ⟨"CLE_KP", 0x3c1018, 64, 0x80, 1, 0x0, 1, 0x0, false, false, none, fun i _ _ => [⟨CLE_KP i, .rw, false⟩]⟩,
  ⟨"CLE_KI", 0x3c101c, 64, 0x80, 1, 0x0, 1, 0x0, false, false, none, fun i _ _ => [⟨CLE_KI i, .rw, false⟩]⟩,
  ⟨"CLE_KD", 0x3c1020, 64, 0x80, 1, 0x0, 1, 0x0, false, false, none, fun i _ _ => [⟨CLE_KD i, .rw, false⟩]⟩,
  ⟨"CLE_OUTMIN", 0x3c1024, 64, 0x80, 1, 0x0, 1, 0x0, false, false, none, fun i _ _ => [⟨CLE_OUTMIN i, .rw, false⟩]⟩,
  ⟨"CLE_OUTMAX", 0x3c1028, 64, 0x80, 1, 0x0, 1, 0x0, false, false, none, fun i _ _ => [⟨CLE_OUTMAX i, .rw, false⟩]⟩,
  ⟨"CLE_INGAIN", 0x3c102c, 64, 0x80, 1, 0x0, 1, 0x0, false, false, none, fun i _ _ => [⟨CLE_INGAIN i, .rw, false⟩]⟩,
  ⟨"CLE_INOFS", 0x3c1030, 64, 0x80, 1, 0x0, 1, 0x0, false, false, none, fun i _ _ => [⟨CLE_INOFS i, .rw, false⟩]⟩,
  ⟨"CLE_OUTGAIN", 0x3c1034, 64, 0x80, 1, 0x0, 1, 0x0, false, false, none, fun i _ _ => [⟨CLE_OUTGAIN i, .rw, false⟩]⟩,
  ⟨"CLE_OUTOFS", 0x3c1038, 64, 0x80, 1, 0x0, 1, 0x0, false, false, none, fun i _ _ => [⟨CLE_OUTOFS i, .rw, false⟩]⟩,
  ⟨"CLE_MANOUT", 0x3c103c, 64, 0x80, 1, 0x0, 1, 0x0, false, false, none, fun i _ _ => [⟨CLE_MANOUT i, .rw, false⟩]⟩,
  ⟨"CLE_SCCFG", 0x3c1040, 64, 0x80, 1, 0x0, 1, 0x0, false, false, none, fun i _ _ => [⟨CLE_SCCFG_SCN i, .rw, false⟩, ⟨CLE_SCCFG_LAG i, .rw, false⟩, ⟨CLE_SCCFG_DUSH i, .rw, false⟩, ⟨CLE_SCCFG_DPVSH i, .rw, false⟩]⟩,
  ⟨"CLE_RDFMT", 0x3c1044, 64, 0x80, 1, 0x0, 1, 0x0, false, false, none, fun i _ _ => [⟨CLE_RDFMT_SIGNED i, .rw, false⟩, ⟨CLE_RDFMT_WIDTH i, .rw, false⟩, ⟨CLE_RDFMT_LSB i, .rw, false⟩]⟩,
  ⟨"CLE_RDCMD", 0x3c1048, 64, 0x80, 1, 0x0, 1, 0x0, false, false, none, fun i _ _ => [⟨CLE_RDCMD i, .rw, false⟩]⟩,
  ⟨"CLE_CHKMASK", 0x3c104c, 64, 0x80, 1, 0x0, 1, 0x0, false, false, none, fun i _ _ => [⟨CLE_CHKMASK i, .rw, false⟩]⟩,
  ⟨"CLE_CHKVAL", 0x3c1050, 64, 0x80, 1, 0x0, 1, 0x0, false, false, none, fun i _ _ => [⟨CLE_CHKVAL i, .rw, false⟩]⟩,
  ⟨"CLE_WRFMT", 0x3c1054, 64, 0x80, 1, 0x0, 1, 0x0, false, false, none, fun i _ _ => [⟨CLE_WRFMT_WIDTH i, .rw, false⟩, ⟨CLE_WRFMT_LSB i, .rw, false⟩]⟩,
  ⟨"CLE_WRCMD", 0x3c1058, 64, 0x80, 1, 0x0, 1, 0x0, false, false, none, fun i _ _ => [⟨CLE_WRCMD i, .rw, false⟩]⟩,
  ⟨"CLE_SITES_LO", 0x3c105c, 64, 0x80, 1, 0x0, 1, 0x0, false, false, none, fun i _ _ => [⟨CLE_SITES_LO i, .rw, false⟩]⟩,
  ⟨"CLE_SITES_HI", 0x3c1060, 64, 0x80, 1, 0x0, 1, 0x0, false, false, none, fun i _ _ => [⟨CLE_SITES_HI i, .rw, false⟩]⟩,
  ⟨"CLE_PV", 0x3c1064, 64, 0x80, 1, 0x0, 1, 0x0, true, false, none, fun i _ _ => [⟨CLE_PV i, .ro, false⟩]⟩,
  ⟨"CLE_OUT", 0x3c1068, 64, 0x80, 1, 0x0, 1, 0x0, true, false, none, fun i _ _ => [⟨CLE_OUT i, .ro, false⟩]⟩,
  ⟨"CLE_I", 0x3c106c, 64, 0x80, 1, 0x0, 1, 0x0, true, false, none, fun i _ _ => [⟨CLE_I i, .ro, false⟩]⟩,
  ⟨"CLE_CODE", 0x3c1070, 64, 0x80, 1, 0x0, 1, 0x0, true, false, none, fun i _ _ => [⟨CLE_CODE i, .ro, false⟩]⟩,
  ⟨"CLE_NEVAL", 0x3c1074, 64, 0x80, 1, 0x0, 1, 0x0, true, false, none, fun i _ _ => [⟨CLE_NEVAL i, .ro, false⟩]⟩,
  ⟨"CLE_NINVAL", 0x3c1078, 64, 0x80, 1, 0x0, 1, 0x0, true, false, none, fun i _ _ => [⟨CLE_NINVAL i, .ro, false⟩]⟩,
  ⟨"CLE_EXT", 0x3c107c, 64, 0x80, 1, 0x0, 1, 0x0, false, false, none, fun i _ _ => [⟨CLE_EXT_RDCMDX i, .rw, false⟩, ⟨CLE_EXT_CHKMASKX i, .rw, false⟩, ⟨CLE_EXT_CHKVALX i, .rw, false⟩, ⟨CLE_EXT_WRCMDX i, .rw, false⟩]⟩,
  ⟨"CLE_TH_CFG", 0x3c3000, 8, 0x20, 1, 0x0, 1, 0x0, false, false, none, fun i _ _ => [⟨CLE_TH_CFG_EN i, .rw, false⟩, ⟨CLE_TH_CFG_TDECL i, .rw, false⟩]⟩,
  ⟨"CLE_TH_PDECL", 0x3c3004, 8, 0x20, 1, 0x0, 1, 0x0, false, false, none, fun i _ _ => [⟨CLE_TH_PDECL i, .rw, false⟩]⟩,
  ⟨"CLE_TH_PTILE", 0x3c3008, 8, 0x20, 1, 0x0, 1, 0x0, true, false, none, fun i _ _ => [⟨CLE_TH_PTILE i, .ro, false⟩]⟩,
  ⟨"CLE_TH_PHTR", 0x3c300c, 8, 0x20, 1, 0x0, 1, 0x0, true, false, none, fun i _ _ => [⟨CLE_TH_PHTR i, .ro, false⟩]⟩,
  ⟨"CLE_TH_TEMP", 0x3c3010, 8, 0x20, 1, 0x0, 1, 0x0, true, false, none, fun i _ _ => [⟨CLE_TH_TEMP i, .ro, true⟩]⟩,
  ⟨"CLE_TH_STATUS", 0x3c3014, 8, 0x20, 1, 0x0, 1, 0x0, true, false, none, fun i _ _ => [⟨CLE_TH_STATUS_DRIFT i, .w1c, false⟩, ⟨CLE_TH_STATUS_HSAT i, .ro, false⟩, ⟨CLE_TH_STATUS_INBAND i, .ro, false⟩, ⟨CLE_TH_STATUS_HELD i, .ro, false⟩]⟩,
  ⟨"CLE_TH_EXIT_LO", 0x3c3018, 8, 0x20, 1, 0x0, 1, 0x0, false, false, none, fun i _ _ => [⟨CLE_TH_EXIT_LO i, .ro, false⟩]⟩,
  ⟨"CLE_TH_EXIT_HI", 0x3c301c, 8, 0x20, 1, 0x0, 1, 0x0, false, false, none, fun i _ _ => [⟨CLE_TH_EXIT_HI i, .ro, false⟩]⟩]

/-- Registers of the CAL block. -/
def regsCal : List RegDesc := [
  ⟨"CAL_CTRL", 0x400000, 1, 0x0, 1, 0x0, 1, 0x0, false, false, none, fun _ _ _ => [⟨CAL_CTRL_PERSIST, .rw, false⟩]⟩,
  ⟨"CAL_STATUS", 0x400004, 1, 0x0, 1, 0x0, 1, 0x0, false, false, none, fun _ _ _ => [⟨CAL_STATUS_LATE, .w1c, false⟩, ⟨CAL_STATUS_REFUSED, .w1c, false⟩, ⟨CAL_STATUS_FAIL, .w1c, false⟩, ⟨CAL_STATUS_BUSY, .ro, true⟩]⟩,
  ⟨"CAL_REQ", 0x400008, 1, 0x0, 1, 0x0, 1, 0x0, false, false, none, fun _ _ _ => [⟨CAL_REQ_KIND, .wo, false⟩, ⟨CAL_REQ_ELEM, .wo, false⟩, ⟨CAL_REQ_TARGET, .wo, false⟩]⟩,
  ⟨"CAL_REQ_DEADLINE", 0x40000c, 1, 0x0, 1, 0x0, 1, 0x0, false, false, none, fun _ _ _ => [⟨CAL_REQ_DEADLINE, .rw, false⟩]⟩,
  ⟨"CAL_QDEPTH", 0x400010, 1, 0x0, 1, 0x0, 1, 0x0, true, false, none, fun _ _ _ => [⟨CAL_QDEPTH, .ro, true⟩]⟩,
  ⟨"CAL_NDONE", 0x400014, 1, 0x0, 1, 0x0, 1, 0x0, true, false, none, fun _ _ _ => [⟨CAL_NDONE, .ro, false⟩]⟩,
  ⟨"CAL_NFAIL", 0x400018, 1, 0x0, 1, 0x0, 1, 0x0, true, false, none, fun _ _ _ => [⟨CAL_NFAIL, .ro, false⟩]⟩,
  ⟨"CAL_NLATE", 0x40001c, 1, 0x0, 1, 0x0, 1, 0x0, true, false, none, fun _ _ _ => [⟨CAL_NLATE, .ro, false⟩]⟩,
  ⟨"CAL_NREFUSED", 0x400020, 1, 0x0, 1, 0x0, 1, 0x0, false, false, none, fun _ _ _ => [⟨CAL_NREFUSED, .ro, false⟩]⟩,
  ⟨"CAL_LAST", 0x400024, 1, 0x0, 1, 0x0, 1, 0x0, false, false, none, fun _ _ _ => [⟨CAL_LAST_KIND, .ro, false⟩, ⟨CAL_LAST_RESULT, .ro, false⟩, ⟨CAL_LAST_ELEM, .ro, false⟩, ⟨CAL_LAST_TARGET, .ro, false⟩]⟩,
  ⟨"CAL_VREF", 0x400028, 1, 0x0, 1, 0x0, 1, 0x0, false, false, none, fun _ _ _ => [⟨CAL_VREF, .ro, false⟩]⟩,
  ⟨"CAL_GRAFT", 0x400080, 8, 0x4, 1, 0x0, 1, 0x0, true, false, none, fun i _ _ => [⟨CAL_GRAFT_SP1USE i, .ro, false⟩, ⟨CAL_GRAFT_SP1BAD i, .ro, false⟩, ⟨CAL_GRAFT_SP1CH i, .ro, false⟩, ⟨CAL_GRAFT_SP0USE i, .ro, false⟩, ⟨CAL_GRAFT_SP0BAD i, .ro, false⟩, ⟨CAL_GRAFT_SP0CH i, .ro, false⟩]⟩]

/-- Registers of the TSK block. -/
def regsTsk : List RegDesc := [
  ⟨"TSK_STATUS", 0x480000, 1, 0x0, 1, 0x0, 1, 0x0, false, false, none, fun _ _ _ => [⟨TSK_STATUS_ROVF, .ro, true⟩, ⟨TSK_STATUS_DEPERR, .w1c, false⟩, ⟨TSK_STATUS_ARMREF, .w1c, false⟩]⟩,
  ⟨"TSK_TBL_BASE_LO", 0x480008, 1, 0x0, 1, 0x0, 1, 0x0, false, false, none, fun _ _ _ => [⟨TSK_TBL_BASE_LO, .rw, false⟩]⟩,
  ⟨"TSK_TBL_BASE_HI", 0x48000c, 1, 0x0, 1, 0x0, 1, 0x0, false, false, none, fun _ _ _ => [⟨TSK_TBL_BASE_HI, .rw, false⟩]⟩,
  ⟨"TSK_ARM", 0x480010, 1, 0x0, 1, 0x0, 1, 0x0, false, false, none, fun _ _ _ => [⟨TSK_ARM, .wo, false⟩]⟩,
  ⟨"TSK_DEC", 0x480014, 1, 0x0, 1, 0x0, 1, 0x0, false, false, none, fun _ _ _ => [⟨TSK_DEC, .wo, false⟩]⟩,
  ⟨"TSK_FREE", 0x480018, 1, 0x0, 1, 0x0, 1, 0x0, false, false, none, fun _ _ _ => [⟨TSK_FREE, .wo, false⟩]⟩,
  ⟨"TSK_QUERY", 0x48001c, 1, 0x0, 1, 0x0, 1, 0x0, false, false, none, fun _ _ _ => [⟨TSK_QUERY, .rw, false⟩]⟩,
  ⟨"TSK_QSTATE", 0x480020, 1, 0x0, 1, 0x0, 1, 0x0, false, false, none, fun _ _ _ => [⟨TSK_QSTATE, .ro, true⟩]⟩,
  ⟨"TSK_NREADY", 0x480024, 1, 0x0, 1, 0x0, 1, 0x0, true, false, none, fun _ _ _ => [⟨TSK_NREADY, .ro, true⟩]⟩,
  ⟨"TSK_NDISP", 0x480028, 1, 0x0, 1, 0x0, 1, 0x0, true, false, none, fun _ _ _ => [⟨TSK_NDISP, .ro, false⟩]⟩,
  ⟨"TSK_NDONE", 0x48002c, 1, 0x0, 1, 0x0, 1, 0x0, true, false, none, fun _ _ _ => [⟨TSK_NDONE, .ro, false⟩]⟩,
  ⟨"TSK_NRETRY", 0x480030, 1, 0x0, 1, 0x0, 1, 0x0, true, false, none, fun _ _ _ => [⟨TSK_NRETRY, .ro, false⟩]⟩,
  ⟨"TSK_NFAIL", 0x480034, 1, 0x0, 1, 0x0, 1, 0x0, true, false, none, fun _ _ _ => [⟨TSK_NFAIL, .ro, false⟩]⟩,
  ⟨"TSK_NDEPERR", 0x480038, 1, 0x0, 1, 0x0, 1, 0x0, true, false, none, fun _ _ _ => [⟨TSK_NDEPERR, .ro, false⟩]⟩,
  ⟨"TSK_NREFUSED", 0x48003c, 1, 0x0, 1, 0x0, 1, 0x0, true, false, none, fun _ _ _ => [⟨TSK_NREFUSED, .ro, false⟩]⟩,
  ⟨"TSK_C_REQ", 0x481000, 16, 0x100, 1, 0x0, 1, 0x0, false, false, none, fun i _ _ => [⟨TSK_C_REQ_REQ i, .w1s, false⟩]⟩,
  ⟨"TSK_C_WINSTAT", 0x481004, 16, 0x100, 1, 0x0, 1, 0x0, false, false, none, fun i _ _ => [⟨TSK_C_WINSTAT_VALID i, .w1c, false⟩, ⟨TSK_C_WINSTAT_POISON i, .ro, false⟩, ⟨TSK_C_WINSTAT_RETRY i, .ro, false⟩, ⟨TSK_C_WINSTAT_TASK i, .ro, false⟩]⟩,
  ⟨"TSK_C_WIN", 0x481008, 16, 0x100, 8, 0x4, 1, 0x0, false, false, none, fun i j _ => [⟨TSK_C_WIN i j, .ro, false⟩]⟩,
  ⟨"TSK_C_DONE", 0x481028, 16, 0x100, 1, 0x0, 1, 0x0, false, false, none, fun i _ _ => [⟨TSK_C_DONE_STATUS i, .wo, false⟩, ⟨TSK_C_DONE_TASK i, .wo, false⟩]⟩,
  ⟨"TSK_C_NSERV", 0x48102c, 16, 0x100, 1, 0x0, 1, 0x0, true, false, none, fun i _ _ => [⟨TSK_C_NSERV i, .ro, true⟩]⟩]

/-- Registers of the QUE block. -/
def regsQue : List RegDesc := [
  ⟨"QUE_STATUS", 0x4c0000, 1, 0x0, 1, 0x0, 1, 0x0, false, false, none, fun _ _ _ => [⟨QUE_STATUS_OPENREF, .w1c, false⟩, ⟨QUE_STATUS_CFGREF, .w1c, false⟩, ⟨QUE_STATUS_POOLEMPTY, .ro, true⟩]⟩,
  ⟨"QUE_POOL_BASE_LO", 0x4c0008, 1, 0x0, 1, 0x0, 1, 0x0, false, false, none, fun _ _ _ => [⟨QUE_POOL_BASE_LO, .rw, false⟩]⟩,
  ⟨"QUE_POOL_BASE_HI", 0x4c000c, 1, 0x0, 1, 0x0, 1, 0x0, false, false, none, fun _ _ _ => [⟨QUE_POOL_BASE_HI, .rw, false⟩]⟩,
  ⟨"QUE_POOL_CELLS", 0x4c0010, 1, 0x0, 1, 0x0, 1, 0x0, false, false, none, fun _ _ _ => [⟨QUE_POOL_CELLS, .rw, false⟩]⟩,
  ⟨"QUE_POOL_FREE", 0x4c0014, 1, 0x0, 1, 0x0, 1, 0x0, true, false, none, fun _ _ _ => [⟨QUE_POOL_FREE, .ro, true⟩]⟩,
  ⟨"QUE_NDROP", 0x4c0018, 1, 0x0, 1, 0x0, 1, 0x0, true, false, none, fun _ _ _ => [⟨QUE_NDROP, .ro, false⟩]⟩,
  ⟨"QUE_NVRDROP", 0x4c001c, 1, 0x0, 1, 0x0, 1, 0x0, true, false, none, fun _ _ _ => [⟨QUE_NVRDROP, .ro, false⟩]⟩,
  ⟨"QUE_IDX", 0x4c0020, 1, 0x0, 1, 0x0, 1, 0x0, false, true, none, fun _ _ _ => [⟨QUE_IDX, .rw, false⟩]⟩,
  ⟨"QUE_CFG", 0x4c0024, 1, 0x0, 1, 0x0, 1, 0x0, false, true, none, fun _ _ _ => [⟨QUE_CFG_OPEN, .w1s, false⟩, ⟨QUE_CFG_CLOSE, .w1s, false⟩, ⟨QUE_CFG_FLUSH, .w1s, false⟩, ⟨QUE_CFG_LIMIT, .rw, false⟩]⟩,
  ⟨"QUE_QSTAT", 0x4c0028, 1, 0x0, 1, 0x0, 1, 0x0, false, false, none, fun _ _ _ => [⟨QUE_QSTAT, .ro, true⟩]⟩,
  ⟨"QUE_QNDROP", 0x4c002c, 1, 0x0, 1, 0x0, 1, 0x0, false, false, none, fun _ _ _ => [⟨QUE_QNDROP, .ro, true⟩]⟩,
  ⟨"QUE_QSEQ", 0x4c0030, 1, 0x0, 1, 0x0, 1, 0x0, false, false, none, fun _ _ _ => [⟨QUE_QSEQ, .ro, true⟩]⟩,
  ⟨"QUE_WIN_CMD", 0x4c0040, 1, 0x0, 1, 0x0, 1, 0x0, false, false, none, fun _ _ _ => [⟨QUE_WIN_CMD_OP, .wo, false⟩, ⟨QUE_WIN_CMD_LEN, .wo, false⟩, ⟨QUE_WIN_CMD_QUEUE, .wo, false⟩]⟩,
  ⟨"QUE_WIN_STAT", 0x4c0044, 1, 0x0, 1, 0x0, 1, 0x0, false, true, none, fun _ _ _ => [⟨QUE_WIN_STAT_BUSY, .ro, false⟩, ⟨QUE_WIN_STAT_RES, .ro, false⟩]⟩,
  ⟨"QUE_WIN_RD", 0x4c0080, 16, 0x4, 1, 0x0, 1, 0x0, false, true, none, fun i _ _ => [⟨QUE_WIN_RD i, .ro, false⟩]⟩,
  ⟨"QUE_WIN_DATA", 0x4c0400, 224, 0x4, 1, 0x0, 1, 0x0, false, true, none, fun i _ _ => [⟨QUE_WIN_DATA i, .rw, false⟩]⟩,
  ⟨"QUE_SITERQ", 0x4c0800, 64, 0x4, 1, 0x0, 1, 0x0, false, false, none, fun i _ _ => [⟨QUE_SITERQ_EN i, .rw, false⟩, ⟨QUE_SITERQ_Q i, .rw, false⟩]⟩,
  ⟨"QUE_HR_CFG", 0x4c1000, 256, 0x40, 1, 0x0, 1, 0x0, false, false, none, fun i _ _ => [⟨QUE_HR_CFG_BIND i, .rw, false⟩, ⟨QUE_HR_CFG_MSIEN i, .rw, false⟩, ⟨QUE_HR_CFG_SIZE i, .rw, false⟩, ⟨QUE_HR_CFG_QUEUE i, .rw, false⟩]⟩,
  ⟨"QUE_HR_VEC", 0x4c1004, 256, 0x40, 1, 0x0, 1, 0x0, false, false, none, fun i _ _ => [⟨QUE_HR_VEC i, .rw, false⟩]⟩,
  ⟨"QUE_HR_BASE_LO", 0x4c1008, 256, 0x40, 1, 0x0, 1, 0x0, false, false, none, fun i _ _ => [⟨QUE_HR_BASE_LO i, .rw, false⟩]⟩,
  ⟨"QUE_HR_BASE_HI", 0x4c100c, 256, 0x40, 1, 0x0, 1, 0x0, false, false, none, fun i _ _ => [⟨QUE_HR_BASE_HI i, .rw, false⟩]⟩,
  ⟨"QUE_HR_WB_LO", 0x4c1010, 256, 0x40, 1, 0x0, 1, 0x0, false, false, none, fun i _ _ => [⟨QUE_HR_WB_LO i, .rw, false⟩]⟩,
  ⟨"QUE_HR_WB_HI", 0x4c1014, 256, 0x40, 1, 0x0, 1, 0x0, false, false, none, fun i _ _ => [⟨QUE_HR_WB_HI i, .rw, false⟩]⟩,
  ⟨"QUE_HR_PROD_LO", 0x4c1018, 256, 0x40, 1, 0x0, 1, 0x0, true, false, none, fun i _ _ => [⟨QUE_HR_PROD_LO i, .ro, false⟩]⟩,
  ⟨"QUE_HR_PROD_HI", 0x4c101c, 256, 0x40, 1, 0x0, 1, 0x0, true, false, none, fun i _ _ => [⟨QUE_HR_PROD_HI i, .ro, false⟩]⟩,
  ⟨"QUE_HR_CONS_LO", 0x4c1020, 256, 0x40, 1, 0x0, 1, 0x0, false, false, none, fun i _ _ => [⟨QUE_HR_CONS_LO i, .rw, false⟩]⟩,
  ⟨"QUE_HR_CONS_HI", 0x4c1024, 256, 0x40, 1, 0x0, 1, 0x0, false, false, none, fun i _ _ => [⟨QUE_HR_CONS_HI i, .rw, false⟩]⟩,
  ⟨"QUE_HR_STATUS", 0x4c1028, 256, 0x40, 1, 0x0, 1, 0x0, false, false, none, fun i _ _ => [⟨QUE_HR_STATUS_BINDREF i, .w1c, false⟩, ⟨QUE_HR_STATUS_CONSERR i, .w1c, false⟩, ⟨QUE_HR_STATUS_BOUND i, .ro, false⟩]⟩]

/-- Registers of the HBC block. -/
def regsHbc : List RegDesc := [
  ⟨"HBC_CTRL", 0x500000, 1, 0x0, 1, 0x0, 1, 0x0, false, false, none, fun _ _ _ => [⟨HBC_CTRL_AUTORETIRE, .rw, false⟩, ⟨HBC_CTRL_SCRUB_EN, .rw, false⟩, ⟨HBC_CTRL_INSERVICE, .rwf, false⟩]⟩,
  ⟨"HBC_STATUS", 0x500004, 1, 0x0, 1, 0x0, 1, 0x0, false, false, none, fun _ _ _ => [⟨HBC_STATUS_RETREF, .w1c, false⟩, ⟨HBC_STATUS_RETBUSY, .ro, false⟩, ⟨HBC_STATUS_HOT1, .ro, false⟩, ⟨HBC_STATUS_HOT0, .ro, false⟩, ⟨HBC_STATUS_DBL1, .ro, false⟩, ⟨HBC_STATUS_DBL0, .ro, false⟩, ⟨HBC_STATUS_PAUSE, .ro, true⟩, ⟨HBC_STATUS_FORCED, .ro, true⟩, ⟨HBC_STATUS_NORMAL, .ro, true⟩, ⟨HBC_STATUS_INSERVICE, .ro, false⟩]⟩,
  ⟨"HBC_PORT_PRIO", 0x500008, 1, 0x0, 1, 0x0, 1, 0x0, false, false, none, fun _ _ _ => [⟨HBC_PORT_PRIO, .rw, false⟩]⟩,
  ⟨"HBC_FENCE", 0x50000c, 1, 0x0, 1, 0x0, 1, 0x0, false, false, none, fun _ _ _ => [⟨HBC_FENCE, .w1s, false⟩]⟩,
  ⟨"HBC_FENCE_SEQ", 0x500010, 1, 0x0, 1, 0x0, 1, 0x0, true, false, none, fun _ _ _ => [⟨HBC_FENCE_SEQ, .ro, false⟩]⟩,
  ⟨"HBC_RETIRE", 0x500014, 1, 0x0, 1, 0x0, 1, 0x0, false, false, none, fun _ _ _ => [⟨HBC_RETIRE_GO, .wo, false⟩, ⟨HBC_RETIRE_CH, .wo, false⟩]⟩,
  ⟨"HBC_RMAP", 0x500018, 1, 0x0, 1, 0x0, 1, 0x0, false, false, none, fun _ _ _ => [⟨HBC_RMAP_VALID, .rso, false⟩, ⟨HBC_RMAP_COPYING, .rso, false⟩, ⟨HBC_RMAP_CH, .rso, false⟩]⟩,
  ⟨"HBC_RETIRE_PROG", 0x50001c, 1, 0x0, 1, 0x0, 1, 0x0, false, false, none, fun _ _ _ => [⟨HBC_RETIRE_PROG, .ro, false⟩]⟩,
  ⟨"HBC_TEMP", 0x500020, 1, 0x0, 1, 0x0, 1, 0x0, true, false, none, fun _ _ _ => [⟨HBC_TEMP_M1, .ro, false⟩, ⟨HBC_TEMP_M0, .ro, false⟩]⟩,
  ⟨"HBC_REFUSED", 0x500024, 1, 0x0, 1, 0x0, 1, 0x0, true, false, none, fun _ _ _ => [⟨HBC_REFUSED, .ro, false⟩]⟩,
  ⟨"HBC_NDEFER", 0x500028, 1, 0x0, 1, 0x0, 1, 0x0, true, false, none, fun _ _ _ => [⟨HBC_NDEFER, .ro, false⟩]⟩,
  ⟨"HBC_LATMAX", 0x50002c, 1, 0x0, 1, 0x0, 1, 0x0, false, false, none, fun _ _ _ => [⟨HBC_LATMAX, .ro, false⟩]⟩,
  ⟨"HBC_SCRUB_HRS", 0x500030, 1, 0x0, 1, 0x0, 1, 0x0, false, false, none, fun _ _ _ => [⟨HBC_SCRUB_HRS, .rw, false⟩]⟩,
  ⟨"HBC_CH_STATUS", 0x500400, 32, 0x10, 1, 0x0, 1, 0x0, true, false, none, fun i _ _ => [⟨HBC_CH_STATUS_STATE i, .ro, false⟩, ⟨HBC_CH_STATUS_DBL i, .ro, false⟩, ⟨HBC_CH_STATUS_RTSEQ i, .ro, false⟩]⟩,
  ⟨"HBC_CH_CE", 0x500404, 32, 0x10, 1, 0x0, 1, 0x0, true, false, none, fun i _ _ => [⟨HBC_CH_CE i, .ro, false⟩]⟩,
  ⟨"HBC_CH_UE", 0x500408, 32, 0x10, 1, 0x0, 1, 0x0, true, false, none, fun i _ _ => [⟨HBC_CH_UE i, .ro, false⟩]⟩,
  ⟨"HBC_CH_NRTFAIL", 0x50040c, 32, 0x10, 1, 0x0, 1, 0x0, true, false, none, fun i _ _ => [⟨HBC_CH_NRTFAIL i, .ro, false⟩]⟩]

/-- Registers of the LNK block. -/
def regsLnk : List RegDesc := [
  ⟨"LNK_PCIE_STATUS", 0x580010, 1, 0x0, 1, 0x0, 1, 0x0, false, false, none, fun _ _ _ => [⟨LNK_PCIE_STATUS_UP, .ro, false⟩, ⟨LNK_PCIE_STATUS_FLIT, .ro, false⟩, ⟨LNK_PCIE_STATUS_REVERSED, .ro, false⟩, ⟨LNK_PCIE_STATUS_RATE, .ro, false⟩, ⟨LNK_PCIE_STATUS_WIDTH, .ro, false⟩, ⟨LNK_PCIE_STATUS_LPWR, .ro, false⟩, ⟨LNK_PCIE_STATUS_POL, .ro, false⟩]⟩,
  ⟨"LNK_PCIE_NDOWN", 0x580014, 1, 0x0, 1, 0x0, 1, 0x0, true, false, none, fun _ _ _ => [⟨LNK_PCIE_NDOWN, .ro, false⟩]⟩,
  ⟨"LNK_RRA_TMO", 0x580018, 1, 0x0, 1, 0x0, 1, 0x0, false, false, none, fun _ _ _ => [⟨LNK_RRA_TMO, .rw, false⟩]⟩,
  ⟨"LNK_RRA_DEV", 0x580020, 1, 0x0, 1, 0x0, 1, 0x0, false, true, none, fun _ _ _ => [⟨LNK_RRA_DEV, .rw, false⟩]⟩,
  ⟨"LNK_RRA_ADDR", 0x580024, 1, 0x0, 1, 0x0, 1, 0x0, false, true, none, fun _ _ _ => [⟨LNK_RRA_ADDR, .rw, false⟩]⟩,
  ⟨"LNK_RRA_DATA", 0x580028, 1, 0x0, 1, 0x0, 1, 0x0, false, true, none, fun _ _ _ => [⟨LNK_RRA_DATA, .rw, false⟩]⟩,
  ⟨"LNK_RRA_CMD", 0x58002c, 1, 0x0, 1, 0x0, 1, 0x0, false, false, none, fun _ _ _ => [⟨LNK_RRA_CMD_OP, .wo, false⟩]⟩,
  ⟨"LNK_RRA_STAT", 0x580030, 1, 0x0, 1, 0x0, 1, 0x0, false, true, none, fun _ _ _ => [⟨LNK_RRA_STAT_BUSY, .ro, false⟩, ⟨LNK_RRA_STAT_CMDREF, .w1c, false⟩, ⟨LNK_RRA_STAT_RESULT, .ro, false⟩]⟩,
  ⟨"LNK_NRRA", 0x580034, 1, 0x0, 1, 0x0, 1, 0x0, true, false, none, fun _ _ _ => [⟨LNK_NRRA, .ro, false⟩]⟩,
  ⟨"LNK_AZ_CTRL", 0x581000, 4, 0x400, 1, 0x0, 1, 0x0, false, false, none, fun i _ _ => [⟨LNK_AZ_CTRL_RETRAIN i, .w1s, false⟩, ⟨LNK_AZ_CTRL_FALLOW i, .w1s, false⟩, ⟨LNK_AZ_CTRL_WAKE i, .w1s, false⟩, ⟨LNK_AZ_CTRL_TEST i, .rw, false⟩, ⟨LNK_AZ_CTRL_MAXW i, .rw, false⟩, ⟨LNK_AZ_CTRL_AUTOWIDEN i, .rw, false⟩, ⟨LNK_AZ_CTRL_AUTOEQ i, .rw, false⟩, ⟨LNK_AZ_CTRL_EN i, .rw, false⟩]⟩,
  ⟨"LNK_AZ_STATUS", 0x581004, 4, 0x400, 1, 0x0, 1, 0x0, false, false, none, fun i _ _ => [⟨LNK_AZ_STATUS_STATE i, .ro, false⟩, ⟨LNK_AZ_STATUS_WIDTH i, .ro, false⟩, ⟨LNK_AZ_STATUS_DET i, .ro, false⟩, ⟨LNK_AZ_STATUS_REVERSED i, .ro, false⟩, ⟨LNK_AZ_STATUS_EQREF i, .w1c, false⟩, ⟨LNK_AZ_STATUS_POLINV i, .ro, false⟩, ⟨LNK_AZ_STATUS_LANES i, .ro, false⟩, ⟨LNK_AZ_STATUS_DROPPED i, .ro, false⟩, ⟨LNK_AZ_STATUS_CAUSE i, .ro, false⟩]⟩,
  ⟨"LNK_AZ_NCRC", 0x581008, 4, 0x400, 1, 0x0, 1, 0x0, true, false, none, fun i _ _ => [⟨LNK_AZ_NCRC i, .ro, false⟩]⟩,
  ⟨"LNK_AZ_NREPLAY", 0x58100c, 4, 0x400, 1, 0x0, 1, 0x0, true, false, none, fun i _ _ => [⟨LNK_AZ_NREPLAY i, .ro, false⟩]⟩,
  ⟨"LNK_AZ_NRETRAIN", 0x581010, 4, 0x400, 1, 0x0, 1, 0x0, true, false, none, fun i _ _ => [⟨LNK_AZ_NRETRAIN i, .ro, false⟩]⟩,
  ⟨"LNK_AZ_NTLOST", 0x581014, 4, 0x400, 1, 0x0, 1, 0x0, true, false, none, fun i _ _ => [⟨LNK_AZ_NTLOST i, .ro, false⟩]⟩,
  ⟨"LNK_AZ_NWIDTH", 0x581018, 4, 0x400, 1, 0x0, 1, 0x0, true, false, none, fun i _ _ => [⟨LNK_AZ_NWIDTH i, .ro, false⟩]⟩,
  ⟨"LNK_TXEQ", 0x581100, 4, 0x400, 4, 0x40, 1, 0x0, false, false, none, fun i j _ => [⟨LNK_TXEQ_POST i j, .rw, false⟩, ⟨LNK_TXEQ_PRE i j, .rw, false⟩]⟩,
  ⟨"LNK_RXEQ", 0x581104, 4, 0x400, 4, 0x40, 1, 0x0, false, false, none, fun i j _ => [⟨LNK_RXEQ_CTLE i j, .ro, false⟩, ⟨LNK_RXEQ_DFE i j, .ro, false⟩]⟩,
  ⟨"LNK_LSTATUS", 0x581108, 4, 0x400, 4, 0x40, 1, 0x0, false, false, none, fun i j _ => [⟨LNK_LSTATUS_PRBSREF i j, .w1c, false⟩, ⟨LNK_LSTATUS_PRBSSYNC i j, .ro, false⟩, ⟨LNK_LSTATUS_LOCK i j, .ro, false⟩, ⟨LNK_LSTATUS_INWIDTH i j, .ro, false⟩]⟩,
  ⟨"LNK_PRBS_CTRL", 0x58110c, 4, 0x400, 4, 0x40, 1, 0x0, false, false, none, fun i j _ => [⟨LNK_PRBS_CTRL_PAT i j, .rw, false⟩, ⟨LNK_PRBS_CTRL_CHK i j, .rw, false⟩, ⟨LNK_PRBS_CTRL_GEN i j, .rw, false⟩]⟩,
  ⟨"LNK_PRBS_BITS_LO", 0x581110, 4, 0x400, 4, 0x40, 1, 0x0, false, false, none, fun i j _ => [⟨LNK_PRBS_BITS_LO i j, .ro, false⟩]⟩,
  ⟨"LNK_PRBS_BITS_HI", 0x581114, 4, 0x400, 4, 0x40, 1, 0x0, false, false, none, fun i j _ => [⟨LNK_PRBS_BITS_HI i j, .ro, false⟩]⟩,
  ⟨"LNK_PRBS_ERR", 0x581118, 4, 0x400, 4, 0x40, 1, 0x0, false, false, none, fun i j _ => [⟨LNK_PRBS_ERR i j, .ro, false⟩]⟩,
  ⟨"LNK_NHDRERR", 0x58111c, 4, 0x400, 4, 0x40, 1, 0x0, true, false, none, fun i j _ => [⟨LNK_NHDRERR i j, .ro, false⟩]⟩,
  ⟨"LNK_ROUTE", 0x588000, 2048, 0x4, 1, 0x0, 1, 0x0, false, false, none, fun i _ _ => [⟨LNK_ROUTE i, .ro, false⟩]⟩]

/-- Registers of the WTM block. -/
def regsWtm : List RegDesc := [
  ⟨"WTM_CTRL", 0x5c0000, 1, 0x0, 1, 0x0, 1, 0x0, false, false, none, fun _ _ _ => [⟨WTM_CTRL_SYNCP, .rw, false⟩, ⟨WTM_CTRL_ROOTSRC, .rw, false⟩, ⟨WTM_CTRL_SET, .w1s, false⟩]⟩,
  ⟨"WTM_STATUS", 0x5c0004, 1, 0x0, 1, 0x0, 1, 0x0, false, false, none, fun _ _ _ => [⟨WTM_STATUS_SETREF, .w1c, false⟩, ⟨WTM_STATUS_INCREF, .w1c, false⟩, ⟨WTM_STATUS_COARSE, .ro, false⟩, ⟨WTM_STATUS_FREERUN, .ro, true⟩, ⟨WTM_STATUS_SYNCED, .ro, false⟩]⟩,
  ⟨"WTM_INC_LO", 0x5c0008, 1, 0x0, 1, 0x0, 1, 0x0, false, false, none, fun _ _ _ => [⟨WTM_INC_LO, .rw, false⟩]⟩,
  ⟨"WTM_INC_HI", 0x5c000c, 1, 0x0, 1, 0x0, 1, 0x0, false, false, none, fun _ _ _ => [⟨WTM_INC_HI, .rw, false⟩]⟩,
  ⟨"WTM_NOW_FRAC", 0x5c0010, 1, 0x0, 1, 0x0, 1, 0x0, true, false, none, fun _ _ _ => [⟨WTM_NOW_FRAC, .ro, true⟩]⟩,
  ⟨"WTM_NOW_NS", 0x5c0014, 1, 0x0, 1, 0x0, 1, 0x0, true, true, none, fun _ _ _ => [⟨WTM_NOW_NS, .ro, false⟩]⟩,
  ⟨"WTM_NOW_SEC_LO", 0x5c0018, 1, 0x0, 1, 0x0, 1, 0x0, true, true, none, fun _ _ _ => [⟨WTM_NOW_SEC_LO, .ro, false⟩]⟩,
  ⟨"WTM_NOW_SEC_HI", 0x5c001c, 1, 0x0, 1, 0x0, 1, 0x0, true, true, none, fun _ _ _ => [⟨WTM_NOW_SEC_HI, .ro, false⟩]⟩,
  ⟨"WTM_SET_NS", 0x5c0020, 1, 0x0, 1, 0x0, 1, 0x0, false, false, none, fun _ _ _ => [⟨WTM_SET_NS, .rw, false⟩]⟩,
  ⟨"WTM_SET_SEC_LO", 0x5c0024, 1, 0x0, 1, 0x0, 1, 0x0, false, false, none, fun _ _ _ => [⟨WTM_SET_SEC_LO, .rw, false⟩]⟩,
  ⟨"WTM_SET_SEC_HI", 0x5c0028, 1, 0x0, 1, 0x0, 1, 0x0, false, false, none, fun _ _ _ => [⟨WTM_SET_SEC_HI, .rw, false⟩]⟩,
  ⟨"WTM_ADJ", 0x5c002c, 1, 0x0, 1, 0x0, 1, 0x0, false, false, none, fun _ _ _ => [⟨WTM_ADJ, .wo, false⟩]⟩,
  ⟨"WTM_OFS_LO", 0x5c0030, 1, 0x0, 1, 0x0, 1, 0x0, true, false, none, fun _ _ _ => [⟨WTM_OFS_LO, .ro, false⟩]⟩,
  ⟨"WTM_OFS_HI", 0x5c0034, 1, 0x0, 1, 0x0, 1, 0x0, true, false, none, fun _ _ _ => [⟨WTM_OFS_HI, .ro, false⟩]⟩,
  ⟨"WTM_OFS_SEQ", 0x5c0038, 1, 0x0, 1, 0x0, 1, 0x0, false, false, none, fun _ _ _ => [⟨WTM_OFS_SEQ, .ro, false⟩]⟩,
  ⟨"WTM_NSYNC", 0x5c003c, 1, 0x0, 1, 0x0, 1, 0x0, true, false, none, fun _ _ _ => [⟨WTM_NSYNC, .ro, false⟩]⟩,
  ⟨"WTM_ET_CFG", 0x5c0100, 8, 0x20, 1, 0x0, 1, 0x0, false, false, none, fun i _ _ => [⟨WTM_ET_CFG_EDGE i, .rw, false⟩]⟩,
  ⟨"WTM_ET_QUEUE", 0x5c0104, 8, 0x20, 1, 0x0, 1, 0x0, false, false, none, fun i _ _ => [⟨WTM_ET_QUEUE_EN i, .rw, false⟩, ⟨WTM_ET_QUEUE_Q i, .rw, false⟩]⟩,
  ⟨"WTM_ET_NS", 0x5c0108, 8, 0x20, 1, 0x0, 1, 0x0, true, false, none, fun i _ _ => [⟨WTM_ET_NS i, .ro, false⟩]⟩,
  ⟨"WTM_ET_SEC_LO", 0x5c010c, 8, 0x20, 1, 0x0, 1, 0x0, true, false, none, fun i _ _ => [⟨WTM_ET_SEC_LO i, .ro, false⟩]⟩,
  ⟨"WTM_ET_SEC_HI", 0x5c0110, 8, 0x20, 1, 0x0, 1, 0x0, true, false, none, fun i _ _ => [⟨WTM_ET_SEC_HI_FRAC16 i, .ro, false⟩, ⟨WTM_ET_SEC_HI_EDGE i, .ro, false⟩, ⟨WTM_ET_SEC_HI_COARSE i, .ro, false⟩, ⟨WTM_ET_SEC_HI_SEC i, .ro, false⟩]⟩,
  ⟨"WTM_ET_GVC_LO", 0x5c0114, 8, 0x20, 1, 0x0, 1, 0x0, true, false, none, fun i _ _ => [⟨WTM_ET_GVC_LO i, .ro, false⟩]⟩,
  ⟨"WTM_ET_GVC_HI", 0x5c0118, 8, 0x20, 1, 0x0, 1, 0x0, true, false, none, fun i _ _ => [⟨WTM_ET_GVC_HI i, .ro, false⟩]⟩,
  ⟨"WTM_ET_NSTAMP", 0x5c011c, 8, 0x20, 1, 0x0, 1, 0x0, true, false, none, fun i _ _ => [⟨WTM_ET_NSTAMP i, .ro, false⟩]⟩]

/-- Registers of the RSC block. -/
def regsRsc : List RegDesc := [
  ⟨"RSC_STATUS", 0x600000, 1, 0x0, 1, 0x0, 1, 0x0, false, false, none, fun _ _ _ => [⟨RSC_STATUS_ACTIVE, .ro, false⟩, ⟨RSC_STATUS_SBYREADY, .ro, false⟩, ⟨RSC_STATUS_RECOVERY, .ro, false⟩, ⟨RSC_STATUS_REBUILT, .ro, false⟩, ⟨RSC_STATUS_HOSTATE, .ro, false⟩]⟩,
  ⟨"RSC_BOOT", 0x600004, 1, 0x0, 1, 0x0, 1, 0x0, false, false, none, fun _ _ _ => [⟨RSC_BOOT_RESULT, .ro, false⟩, ⟨RSC_BOOT_FAILED, .ro, false⟩]⟩,
  ⟨"RSC_CFG", 0x600008, 1, 0x0, 1, 0x0, 1, 0x0, false, false, none, fun _ _ _ => [⟨RSC_CFG_DUMP, .rso, false⟩]⟩,
  ⟨"RSC_KEYS", 0x600010, 1, 0x0, 1, 0x0, 1, 0x0, false, false, none, fun _ _ _ => [⟨RSC_KEYS_AUTH, .ro, false⟩, ⟨RSC_KEYS_REVOKED, .ro, false⟩, ⟨RSC_KEYS_VALID, .ro, false⟩]⟩,
  ⟨"RSC_RBK", 0x600014, 3, 0x4, 1, 0x0, 1, 0x0, false, false, none, fun i _ _ => [⟨RSC_RBK i, .ro, false⟩]⟩,
  ⟨"RSC_WDOG", 0x600020, 1, 0x0, 1, 0x0, 1, 0x0, false, false, none, fun _ _ _ => [⟨RSC_WDOG, .rso, false⟩]⟩,
  ⟨"RSC_WDOG_KICK", 0x600024, 1, 0x0, 1, 0x0, 1, 0x0, false, false, none, fun _ _ _ => [⟨RSC_WDOG_KICK_KICK, .rso1, false⟩]⟩,
  ⟨"RSC_NTAKEOVER", 0x600028, 1, 0x0, 1, 0x0, 1, 0x0, true, false, none, fun _ _ _ => [⟨RSC_NTAKEOVER, .ro, false⟩]⟩,
  ⟨"RSC_HWREFUSED", 0x60002c, 1, 0x0, 1, 0x0, 1, 0x0, false, false, none, fun _ _ _ => [⟨RSC_HWREFUSED, .ro, false⟩]⟩,
  ⟨"RSC_SLOT_VER", 0x600040, 10, 0x8, 1, 0x0, 1, 0x0, false, false, none, fun i _ _ => [⟨RSC_SLOT_VER i, .ro, false⟩]⟩,
  ⟨"RSC_SLOT_INFO", 0x600044, 10, 0x8, 1, 0x0, 1, 0x0, false, false, none, fun i _ _ => [⟨RSC_SLOT_INFO_VALID i, .ro, false⟩, ⟨RSC_SLOT_INFO_INUSE i, .ro, false⟩, ⟨RSC_SLOT_INFO_SIGNER i, .ro, false⟩]⟩,
  ⟨"SCN_CTRL", 0x601000, 16, 0x400, 1, 0x0, 1, 0x0, false, false, none, fun i _ _ => [⟨SCN_CTRL_RUN i, .rso, false⟩, ⟨SCN_CTRL_RESTART i, .rso1, false⟩]⟩,
  ⟨"SCN_STATUS", 0x601004, 16, 0x400, 1, 0x0, 1, 0x0, true, false, none, fun i _ _ => [⟨SCN_STATUS_STATE i, .ro, false⟩, ⟨SCN_STATUS_DEPTH i, .ro, false⟩, ⟨SCN_STATUS_CAUSE i, .ro, false⟩]⟩,
  ⟨"SCN_IMG", 0x601008, 16, 0x400, 1, 0x0, 1, 0x0, false, false, none, fun i _ _ => [⟨SCN_IMG_SLOT i, .ro, false⟩]⟩,
  ⟨"SCN_NWILT", 0x60100c, 16, 0x400, 1, 0x0, 1, 0x0, true, false, none, fun i _ _ => [⟨SCN_NWILT i, .ro, false⟩]⟩,
  ⟨"SCN_NPLOTF", 0x601010, 16, 0x400, 1, 0x0, 1, 0x0, true, false, none, fun i _ _ => [⟨SCN_NPLOTF i, .ro, false⟩]⟩,
  ⟨"SCN_DOORBELL", 0x601014, 16, 0x400, 1, 0x0, 1, 0x0, false, false, none, fun i _ _ => [⟨SCN_DOORBELL i, .rso1, false⟩]⟩,
  ⟨"SCN_PLOT_VB", 0x601040, 16, 0x400, 8, 0x10, 1, 0x0, false, false, none, fun i j _ => [⟨SCN_PLOT_VB i j, .rso, false⟩]⟩,
  ⟨"SCN_PLOT_TB", 0x601044, 16, 0x400, 8, 0x10, 1, 0x0, false, false, none, fun i j _ => [⟨SCN_PLOT_TB i j, .rso, false⟩]⟩,
  ⟨"SCN_PLOT_ATTR", 0x601048, 16, 0x400, 8, 0x10, 1, 0x0, false, false, none, fun i j _ => [⟨SCN_PLOT_ATTR_EN i j, .rso, false⟩, ⟨SCN_PLOT_ATTR_R i j, .rso, false⟩, ⟨SCN_PLOT_ATTR_W i j, .rso, false⟩, ⟨SCN_PLOT_ATTR_X i j, .rso, false⟩, ⟨SCN_PLOT_ATTR_TGT i j, .rso, false⟩, ⟨SCN_PLOT_ATTR_SIZE i j, .rso, false⟩]⟩,
  ⟨"SCN_SPLOT_VB", 0x6010c0, 16, 0x400, 8, 0x10, 1, 0x0, false, false, none, fun i j _ => [⟨SCN_SPLOT_VB i j, .rso, false⟩]⟩,
  ⟨"SCN_SPLOT_TB", 0x6010c4, 16, 0x400, 8, 0x10, 1, 0x0, false, false, none, fun i j _ => [⟨SCN_SPLOT_TB i j, .rso, false⟩]⟩,
  ⟨"SCN_SPLOT_ATTR", 0x6010c8, 16, 0x400, 8, 0x10, 1, 0x0, false, false, none, fun i j _ => [⟨SCN_SPLOT_ATTR_EN i j, .rso, false⟩, ⟨SCN_SPLOT_ATTR_R i j, .rso, false⟩, ⟨SCN_SPLOT_ATTR_W i j, .rso, false⟩, ⟨SCN_SPLOT_ATTR_X i j, .rso, false⟩, ⟨SCN_SPLOT_ATTR_TGT i j, .rso, false⟩, ⟨SCN_SPLOT_ATTR_SIZE i j, .rso, false⟩]⟩,
  ⟨"SCN_WREC_X_LO", 0x601200, 16, 0x400, 32, 0x8, 1, 0x0, false, false, none, fun i j _ => [⟨SCN_WREC_X_LO i j, .ro, false⟩]⟩,
  ⟨"SCN_WREC_X_HI", 0x601204, 16, 0x400, 32, 0x8, 1, 0x0, false, false, none, fun i j _ => [⟨SCN_WREC_X_HI i j, .ro, false⟩]⟩,
  ⟨"SCN_WREC_MEPC", 0x601300, 16, 0x400, 2, 0x4, 1, 0x0, false, false, none, fun i j _ => [⟨SCN_WREC_MEPC i j, .ro, false⟩]⟩,
  ⟨"SCN_WREC_MCAUSE", 0x601308, 16, 0x400, 2, 0x4, 1, 0x0, false, false, none, fun i j _ => [⟨SCN_WREC_MCAUSE i j, .ro, false⟩]⟩,
  ⟨"SCN_WREC_MTVAL", 0x601310, 16, 0x400, 2, 0x4, 1, 0x0, false, false, none, fun i j _ => [⟨SCN_WREC_MTVAL i j, .ro, false⟩]⟩,
  ⟨"SCN_WREC_MSTATUS", 0x601318, 16, 0x400, 2, 0x4, 1, 0x0, false, false, none, fun i j _ => [⟨SCN_WREC_MSTATUS i j, .ro, false⟩]⟩,
  ⟨"SCN_WREC_CAUSE", 0x601320, 16, 0x400, 1, 0x0, 1, 0x0, false, false, none, fun i _ _ => [⟨SCN_WREC_CAUSE i, .ro, false⟩]⟩,
  ⟨"SCN_WREC_GVC", 0x601328, 16, 0x400, 2, 0x4, 1, 0x0, false, false, none, fun i j _ => [⟨SCN_WREC_GVC i j, .ro, false⟩]⟩,
  ⟨"SCN_EVROUTE", 0x608000, 320, 0x4, 1, 0x0, 1, 0x0, false, false, none, fun i _ _ => [⟨SCN_EVROUTE_EN i, .rso, false⟩, ⟨SCN_EVROUTE_PRIO i, .rso, false⟩, ⟨SCN_EVROUTE_CORE i, .rso, false⟩]⟩]

/-- Registers of the PIN block. -/
def regsPin : List RegDesc := [
  ⟨"PTF_TS_W", 0x1000000, 256, 0x10000, 1024, 0x20, 7, 0x4, false, false, (some 0), fun i j k => [⟨PTF_TS_W i j k, .rwc, false⟩]⟩,
  ⟨"PTF_TS_STAT", 0x100001c, 256, 0x10000, 1024, 0x20, 1, 0x0, false, false, none, fun i j _ => [⟨PTF_TS_STAT i j, .ro, true⟩]⟩,
  ⟨"LVL_LS_W", 0x1008000, 256, 0x10000, 256, 0x20, 7, 0x4, false, false, (some 1), fun i j k => [⟨LVL_LS_W i j k, .rwc, false⟩]⟩,
  ⟨"LVL_LS_STAT", 0x100801c, 256, 0x10000, 256, 0x20, 1, 0x0, false, false, none, fun i j _ => [⟨LVL_LS_STAT i j, .ro, true⟩]⟩,
  ⟨"CAP_MS", 0x100a000, 256, 0x10000, 256, 0x4, 1, 0x0, false, false, (some 4), fun i j _ => [⟨CAP_MS_AH i j, .rwc, false⟩, ⟨CAP_MS_AM i j, .rwc, false⟩, ⟨CAP_MS_AL i j, .rwc, false⟩, ⟨CAP_MS_MASK i j, .rwc, false⟩]⟩,
  ⟨"CAP_TWCH", 0x100a400, 256, 0x10000, 1, 0x0, 1, 0x0, false, false, (some 7), fun i _ _ => [⟨CAP_TWCH_CARE i, .rwc, false⟩, ⟨CAP_TWCH_VALUE i, .rwc, false⟩]⟩,
  ⟨"PTF_CH_STATUS", 0x100e000, 256, 0x10000, 1, 0x0, 1, 0x0, false, false, none, fun i _ _ => [⟨PTF_CH_STATUS i, .ro, true⟩]⟩,
  ⟨"PTF_CH_NREJ", 0x100e004, 256, 0x10000, 1, 0x0, 1, 0x0, true, false, none, fun i _ _ => [⟨PTF_CH_NREJ i, .ro, false⟩]⟩,
  ⟨"PTF_CH_LASTREJ", 0x100e008, 256, 0x10000, 1, 0x0, 1, 0x0, true, false, none, fun i _ _ => [⟨PTF_CH_LASTREJ_REASON i, .ro, false⟩, ⟨PTF_CH_LASTREJ_ENTRY i, .ro, false⟩]⟩,
  ⟨"PTF_CH_NRUNT", 0x100e00c, 256, 0x10000, 1, 0x0, 1, 0x0, true, false, none, fun i _ _ => [⟨PTF_CH_NRUNT i, .ro, false⟩]⟩,
  ⟨"PTF_CH_NSHADOW", 0x100e010, 256, 0x10000, 1, 0x0, 1, 0x0, true, false, none, fun i _ _ => [⟨PTF_CH_NSHADOW i, .ro, false⟩]⟩,
  ⟨"PTF_CH_NCFG", 0x100e014, 256, 0x10000, 1, 0x0, 1, 0x0, true, false, none, fun i _ _ => [⟨PTF_CH_NCFG i, .ro, false⟩]⟩,
  ⟨"PTF_CH_EVGVC_LO", 0x100e018, 256, 0x10000, 1, 0x0, 1, 0x0, true, false, none, fun i _ _ => [⟨PTF_CH_EVGVC_LO i, .ro, false⟩]⟩,
  ⟨"PTF_CH_EVGVC_HI", 0x100e01c, 256, 0x10000, 1, 0x0, 1, 0x0, true, false, none, fun i _ _ => [⟨PTF_CH_EVGVC_HI i, .ro, false⟩]⟩,
  ⟨"LVL_CH_STATUS", 0x100e100, 256, 0x10000, 1, 0x0, 1, 0x0, false, false, none, fun i _ _ => [⟨LVL_CH_STATUS i, .ro, true⟩]⟩,
  ⟨"LVL_CH_NREJ", 0x100e104, 256, 0x10000, 1, 0x0, 1, 0x0, true, false, none, fun i _ _ => [⟨LVL_CH_NREJ i, .ro, false⟩]⟩,
  ⟨"LVL_CH_LASTREJ", 0x100e108, 256, 0x10000, 1, 0x0, 1, 0x0, true, false, none, fun i _ _ => [⟨LVL_CH_LASTREJ_REASON i, .ro, false⟩, ⟨LVL_CH_LASTREJ_ENTRY i, .ro, false⟩]⟩,
  ⟨"LVL_CH_UNSETTLED", 0x100e10c, 256, 0x10000, 1, 0x0, 1, 0x0, true, false, none, fun i _ _ => [⟨LVL_CH_UNSETTLED i, .ro, false⟩]⟩,
  ⟨"LVL_CH_NCFG", 0x100e110, 256, 0x10000, 1, 0x0, 1, 0x0, true, false, none, fun i _ _ => [⟨LVL_CH_NCFG i, .ro, false⟩]⟩,
  ⟨"LVL_CH_RBFAIL", 0x100e114, 256, 0x10000, 1, 0x0, 1, 0x0, true, false, none, fun i _ _ => [⟨LVL_CH_RBFAIL i, .ro, false⟩]⟩,
  ⟨"LVL_CH_RBGOOD_LO", 0x100e118, 256, 0x10000, 1, 0x0, 1, 0x0, true, false, none, fun i _ _ => [⟨LVL_CH_RBGOOD_LO i, .ro, false⟩]⟩,
  ⟨"LVL_CH_RBGOOD_HI", 0x100e11c, 256, 0x10000, 1, 0x0, 1, 0x0, true, false, none, fun i _ _ => [⟨LVL_CH_RBGOOD_HI i, .ro, false⟩]⟩,
  ⟨"LVL_CH_UNTR", 0x100e120, 256, 0x10000, 1, 0x0, 1, 0x0, false, false, none, fun i _ _ => [⟨LVL_CH_UNTR_CLR i, .w1s, false⟩, ⟨LVL_CH_UNTR_CLRREF i, .w1c, false⟩, ⟨LVL_CH_UNTR_RBFAIL i, .ro, false⟩, ⟨LVL_CH_UNTR_DLYTWIN i, .ro, false⟩, ⟨LVL_CH_UNTR_LVTWIN i, .ro, false⟩]⟩,
  ⟨"CAL_CH_STATUS", 0x100e200, 256, 0x10000, 1, 0x0, 1, 0x0, false, false, none, fun i _ _ => [⟨CAL_CH_STATUS_TVALID i, .ro, false⟩, ⟨CAL_CH_STATUS_DVALID i, .ro, false⟩, ⟨CAL_CH_STATUS_QUEUED i, .ro, true⟩, ⟨CAL_CH_STATUS_BUSY i, .ro, true⟩, ⟨CAL_CH_STATUS_ELEM i, .ro, false⟩, ⟨CAL_CH_STATUS_LASTRES i, .ro, false⟩]⟩,
  ⟨"CAL_CH_LANDDLY", 0x100e204, 256, 0x10000, 1, 0x0, 1, 0x0, false, false, none, fun i _ _ => [⟨CAL_CH_LANDDLY i, .ro, false⟩]⟩,
  ⟨"CAL_CH_TTEMP", 0x100e208, 256, 0x10000, 1, 0x0, 1, 0x0, false, false, none, fun i _ _ => [⟨CAL_CH_TTEMP i, .ro, false⟩]⟩,
  ⟨"CAL_CH_CELLS_LO", 0x100e20c, 256, 0x10000, 1, 0x0, 1, 0x0, false, false, none, fun i _ _ => [⟨CAL_CH_CELLS_LO i, .ro, false⟩]⟩,
  ⟨"CAL_CH_CELLS_HI", 0x100e210, 256, 0x10000, 1, 0x0, 1, 0x0, false, false, none, fun i _ _ => [⟨CAL_CH_CELLS_HI i, .ro, false⟩]⟩,
  ⟨"CAL_CH_CMP", 0x100e214, 256, 0x10000, 1, 0x0, 1, 0x0, false, false, none, fun i _ _ => [⟨CAL_CH_CMP_VOL i, .ro, false⟩, ⟨CAL_CH_CMP_VOH i, .ro, false⟩]⟩,
  ⟨"CAL_CH_SEG", 0x100e218, 256, 0x10000, 1, 0x0, 1, 0x0, false, false, none, fun i _ _ => [⟨CAL_CH_SEG i, .ro, false⟩]⟩,
  ⟨"CAL_CH_NCAL", 0x100e21c, 256, 0x10000, 1, 0x0, 1, 0x0, false, false, none, fun i _ _ => [⟨CAL_CH_NCAL i, .ro, false⟩]⟩,
  ⟨"PIN_SYMMAP", 0x100f000, 256, 0x10000, 8, 0x4, 1, 0x0, false, false, (some 2), fun i j _ => [⟨PIN_SYMMAP_S3 i j, .rwc, false⟩, ⟨PIN_SYMMAP_S2 i j, .rwc, false⟩, ⟨PIN_SYMMAP_S1 i j, .rwc, false⟩, ⟨PIN_SYMMAP_S0 i j, .rwc, false⟩]⟩,
  ⟨"PIN_SRC", 0x100f020, 256, 0x10000, 4, 0x4, 1, 0x0, false, false, (some 3), fun i j _ => [⟨PIN_SRC_SEL i j, .rwc, false⟩, ⟨PIN_SRC_INV i j, .rwc, false⟩, ⟨PIN_SRC_HI i j, .rwc, false⟩, ⟨PIN_SRC_STRCH i j, .rwc, false⟩, ⟨PIN_SRC_LANE i j, .rwc, false⟩, ⟨PIN_SRC_UISTEP i j, .rwc, false⟩, ⟨PIN_SRC_BIT i j, .rwc, false⟩, ⟨PIN_SRC_CSYM i j, .rwc, false⟩]⟩,
  ⟨"PIN_SITE", 0x100f030, 256, 0x10000, 1, 0x0, 1, 0x0, false, false, none, fun i _ _ => [⟨PIN_SITE_ASSIGNED i, .rw, false⟩, ⟨PIN_SITE_SITE i, .rw, false⟩]⟩,
  ⟨"PIN_DVALID", 0x100f034, 256, 0x10000, 1, 0x0, 1, 0x0, false, false, none, fun i _ _ => [⟨PIN_DVALID i, .ro, true⟩]⟩]

/-- Registers of the APGT block. -/
def regsApgt : List RegDesc := [
  ⟨"APG_DIMM_LO", 0x5010000, 2, 0x100000, 16, 0x8, 1, 0x0, false, false, none, fun i j _ => [⟨APG_DIMM_LO i j, .rw, false⟩]⟩,
  ⟨"APG_DIMM_HI", 0x5010004, 2, 0x100000, 16, 0x8, 1, 0x0, false, false, none, fun i j _ => [⟨APG_DIMM_HI i j, .rw, false⟩]⟩,
  ⟨"APG_ASCR_TBL", 0x5040000, 2, 0x100000, 2, 0x40000, 65536, 0x4, false, false, (some 6), fun i j k => [⟨APG_ASCR_TBL i j k, .rwc, false⟩]⟩,
  ⟨"APG_DSCR_TBL", 0x50c0000, 2, 0x100000, 65536, 0x4, 1, 0x0, false, false, (some 6), fun i j _ => [⟨APG_DSCR_TBL i j, .rwc, false⟩]⟩]

/-- The registers of the block that holds BAR0 offset x (R807). -/
def regsAt (x : Nat) : List RegDesc :=
  if x < 0x10000 then regsGlb else if x < 0x20000 then regsCmt else if x < 0x30000 then regsClk
  else if x < 0x40000 then regsPmg else if x < 0x50000 then regsFcl else if x < 0x60000 then regsEvr
  else if x < 0x70000 then regsFrz else if x < 0x80000 then [] else if x < 0x100000 then regsSeq
  else if x < 0x180000 then regsSeg else if x < 0x200000 then regsApg else if x < 0x280000 then regsCap
  else if x < 0x300000 then regsTiu else if x < 0x340000 then regsPmu else if x < 0x380000 then regsDfc
  else if x < 0x3C0000 then regsGrd else if x < 0x400000 then regsCle else if x < 0x480000 then regsCal
  else if x < 0x4C0000 then regsTsk else if x < 0x500000 then regsQue else if x < 0x580000 then regsHbc
  else if x < 0x5C0000 then regsLnk else if x < 0x600000 then regsWtm else if x < 0x1000000 then regsRsc
  else if x < 0x2000000 then regsPin else if x < 0x5000000 then [] else if x < 0x5200000 then regsApgt
  else []

/-- The indices of offset x in register family d, if it is one of its registers. -/
def RegDesc.index (d : RegDesc) (x : Nat) : Option (Nat × Nat × Nat) :=
  if x < d.base then none else
    let r := x - d.base
    let i := if d.n1 = 1 then 0 else r / d.s1
    let r1 := r - i * d.s1
    let j := if d.n2 = 1 then 0 else r1 / d.s2
    let r2 := r1 - j * d.s2
    let k := if d.n3 = 1 then 0 else r2 / d.s3
    if i < d.n1 && j < d.n2 && k < d.n3 && r2 - k * d.s3 == 0 then some (i, j, k) else none

/-- The first register family of a list that holds offset x, with the indices of x in it. -/
def findReg (x : Nat) : List RegDesc → Option (RegDesc × Nat × Nat × Nat)
  | [] => none
  | d :: ds =>
    match d.index x with
    | some (i, j, k) => some (d, i, j, k)
    | none => findReg x ds

/-- The register at BAR0 offset x, or none where no register of these tables lies (R16). -/
def regAt (x : Nat) : Option (RegDesc × Nat × Nat × Nat) := findReg x (regsAt x)

end Sys2Proof.Machine
end

