-- ==== Sys2Proof/Machine/Types.lean ====
section
/-! DEFINITION. The plain data that the blocks keep beside their registers: intervals, votes, queues, tasks, table
entries, units in progress. Every type here is plain data with decidable equality. -/

namespace Sys2Proof.Machine

/-- Register fields that differ from their reset values: (offset × 32 + lowest bit, value), offsets rising. -/
abbrev Cells := List (Nat × Nat)

/-- An occurrence that a block has raised and the collector has not yet decided (R724, R743, R744): its source, argument and value,
the always-on rc of it, its GVC if one was valid, its wall time in 2^-32 ns, and WTM_STATUS.COARSE then. -/
structure Raised where
  src : Nat
  arg : Nat
  value : Nat
  rc : Nat
  gvc : Option Nat
  wall : Nat
  coarse : Bool
  deriving DecidableEq, Repr

/-- A vote of R73: ready, or not-ready with a reason of R109 and a device ID. -/
structure Vote where
  ready : Bool
  dev : Nat
  reason : Nat
  deriving DecidableEq, Repr

/-- The commit that the device holds: the prepare of R71, the votes of R74 and the decision of R72. -/
structure Commit where
  target : Nat
  scope : Nat
  tag : Nat
  own : Vote
  down : List (Nat × Vote)
  /-- The decision was commit and the exchange is awaited. -/
  decided : Bool
  deriving DecidableEq, Repr

/-- The verdict interval of a site (R94 to R103). -/
structure Interval where
  site : Nat
  opened : Nat
  /-- GVC of the last vector, once the interval has ended (R95). -/
  last : Option Nat
  cause : Nat
  /-- A compare of the site was evaluated (R99). -/
  evaluated : Bool
  /-- A compare failed unmasked (R97). -/
  failed : Bool
  /-- Fail-catalogue records written for the site, saturating (R103). -/
  fails : Nat
  playlist : Nat
  /-- A settled PASS held for readback (R101), with CMT_LAST_TAG at the settle GVC. -/
  held : Bool
  gen : Nat
  /-- The value of the hold count when the PASS began to be held (R101). -/
  heldAt : Nat
  deriving DecidableEq, Repr

/-- A message that the device hands to a link or broadcasts over the Trellis. -/
inductive TxMsg where
  | prepare (target scope tag : Nat)
  | vote (v : Vote)
  | decision (commit retry : Bool) (tag reason dev : Nat)
  | harvest (target : Nat)
  | discovery (depth : Nat)
  /-- The IDs in use, for the next member in breadth-first order (R133). -/
  | idsTaken (ids : List Nat)
  | formDone (failed : Bool)
  | start (lead gvc cfg frac : Nat)
  | join (dev lead epoch gvc cfg frac : Nat)
  | probe
  | hDepth (h : Nat)
  | syncFail
  /-- DATA flits of a port that carry a remote access, and the response to one (R682, R699 to R702). -/
  | remote (port op dev addr data : Nat)
  | response (port dev result data : Nat)
  | time (sec ns frac seq : Nat) (corr : Int)
  /-- A CTRL flit that names a new lane set for a port, and the SEQ of the sender's stream before which it is taken (R688). -/
  | widthProposal (port mask switch : Nat)
  | widthRefusal (port : Nat)
  /-- CTRL flits that ask for FALLOW (R696). -/
  | fallowAsk (port : Nat)
  /-- A request to retrain, with this end's device ID and token (R685, R687). -/
  | retrainAsk (port dev token : Nat)
  /-- The first TRAIN blocks of an end that leads (R687). -/
  | train (port dev token : Nat)
  | nak (port seq : Nat)
  | replay (port seq : Nat)
  /-- A transaction of a loop-bus port: its select, its length and the word sent (R518). -/
  | spi (port cs len word : Nat)
  deriving DecidableEq, Repr

/-- A width change that waits for its switch points (R688): the lane set; the switch SEQ still ahead in what this end sends, and in what
it receives; and the lane set that this end proposes when the change is made, 0 for none. -/
structure Switch where
  lanes : Nat
  own : Option Nat
  peer : Option Nat
  next : Nat
  deriving DecidableEq, Repr

/-- An Azith port's own state (R682 to R697): the next SEQ to receive, and whether it discards until a replay; the next SEQ to
send; numbered flits not yet acknowledged, oldest first, and those that wait for a number; NAKs since the last SEQ accepted;
whether it seeks FALLOW or is on its way out of it; the words of the last TRELLIS block delivered, earliest first; the token drawn at
the start of its last training, and its part in a request that crossed one of the partner's: 0 none, 1 it leads, 2 it follows (R685,
R687); the width change that waits; and the Trellis messages of which words are still to come, each its kind and the FRAGs that came,
earliest first (R693). -/
structure Port where
  rx : Nat
  discarding : Bool
  tx : Nat
  unacked : List (Nat × TxMsg)
  wait : List TxMsg
  naks : Nat
  seekFallow : Bool
  waking : Bool
  words : List Nat
  token : Nat
  role : Nat
  switch : Option Switch
  partial_ : List (Nat × List Nat)
  deriving DecidableEq, Repr

/-- A port that nothing has reached. -/
def Port.reset : Port := ⟨0, false, 0, [], [], 0, false, false, [], 0, 0, none, []⟩

/-- A transaction that the device makes toward the host over PCI Express. -/
inductive HostMsg where
  | write (addr : Nat) (data : List (BitVec 8))
  /-- len bytes of scan data of a Frost read-out (R755): the bits of the chains, which the scan map places. -/
  | scan (addr len : Nat)
  /-- Bytes shifted out of the JTAG instrument FRZ_READ, least significant bit first; its len bytes of scan bits, chain 0 first; and the len
  zero bytes that it shifts out instead while a DMA read-out runs (R757). -/
  | jtag (data : List (BitVec 8))
  | jtagScan (len : Nat)
  | jtagZeros (len : Nat)
  | msix (vec : Nat)
  deriving DecidableEq, Repr

/-- A cell of a queue (R632): its header fields and payload. ty is 1 data, 2 gap marker, 3 flush marker. -/
structure QCell where
  ty : Nat
  first : Bool
  last : Bool
  seq : Nat
  payload : List (BitVec 8)
  deriving DecidableEq, Repr

/-- A queue of R634, oldest cell first. -/
structure Queue where
  isOpen : Bool
  limit : Nat
  held : Bool
  seq : Nat
  ndrop : Nat
  cells : List QCell
  deriving DecidableEq, Repr

/-- A queue that was never opened. -/
def Queue.closed : Queue := ⟨false, 0, false, 0, 0, []⟩

/-- A request that waits at an HBM port (R655); refused: it is not addressable or may not be made (R649, R652, R670). -/
structure HbmReq where
  write : Bool
  addr : Nat
  len : Nat
  data : List (BitVec 8)
  refused : Bool
  /-- Who asked, where an engine of the device did: 1 the control-store loader, 2 the table loader (R199, R314); else 0. -/
  who : Nat
  deriving DecidableEq, Repr

/-- What an HBM port answered last: the port, and the data of a read unless the response is uncorrectable (R665). -/
structure HbmResp where
  port : Nat
  data : Option (List (BitVec 8))
  deriving DecidableEq, Repr

/-- A task of R617 to R621: state code of R617, live dependence count, retry count, POISON, ready sequence value, the
eight descriptor words read at ARM, whether the ready store holds it, and the core it is in SERVICE on. -/
structure Task where
  st : Nat
  dep : Nat
  retry : Nat
  poison : Bool
  seq : Nat
  desc : List Nat
  inStore : Bool
  core : Nat
  deriving DecidableEq, Repr

/-- A task that was never armed. -/
def Task.free : Task := ⟨0, 0, 0, false, 0, [], false, 0⟩

/-- A VCLK setting (R121): N, F, the divider D and the UIPV code of R153. -/
structure VSet where
  n : Nat
  f : Nat
  d : Nat
  uipv : Nat
  deriving DecidableEq, Repr

/-- A start or join message that the device has received (R139, R144): its rc in the device's own count, the CLK_EPOCH that it
carries, the GVC of the first vector cycle, and whether its setting passed the tests of R122. -/
structure StartMsg where
  ts : Nat
  epoch : Nat
  gvc : Nat
  good : Bool
  deriving DecidableEq, Repr

/-- A harvest bank (R85): the GVC of its harvest and the register image. -/
structure HarvestBank where
  gvc : Nat
  img : Cells
  deriving DecidableEq, Repr

/-- A control-store slot (R156 to R158): microword, check bits, VALID and REASON; the stored bits (check bits from bit na of the protected
word on) that have been upset since they were written (R188, R204). -/
structure Slot where
  mw : Nat
  chk : Nat
  valid : Bool
  reason : Nat
  upset : Nat
  deriving DecidableEq, Repr

/-- A slot that was never written (R157, R158). -/
def Slot.empty : Slot := ⟨0, 0, false, 0xE, 0⟩

/-- A loader run (R199, R314): source address, first target, images, whether ABORT has been written, for the APG
loader the target word of its registers, the images processed, and whether the read of the next one is in progress. -/
structure LoaderRun where
  src : Nat
  dst : Nat
  count : Nat
  aborted : Bool
  target : Nat
  done : Nat
  reading : Bool
  deriving DecidableEq, Repr

/-- A staging latch of R192: the slot, index or entry it names and the words written, by word number. -/
structure Latch where
  key : Nat
  words : List (Nat × Nat)
  deriving DecidableEq, Repr

/-- An empty latch. -/
def Latch.empty : Latch := ⟨0, []⟩

/-- A segment descriptor (R260, R261): its words, VALID and REASON. -/
structure SegDesc where
  dw0 : Nat
  dw1 : Nat
  dw2 : Nat
  valid : Bool
  reason : Nat
  deriving DecidableEq, Repr

/-- A descriptor after a reset (R261). -/
def SegDesc.empty : SegDesc := ⟨0, 0, 0, false, 0xE⟩

/-- The actions of the word whose first vector issued last (R161): the word, its slot, the GVC of its first vector, its playlist's number,
and which of its actions are done (one bit each). -/
structure WordAct where
  word : Nat
  slot : Nat
  gvc : Nat
  number : Nat
  done : Nat
  deriving DecidableEq, Repr

/-- A head on die (R229): its slot and data position with the list that the position is one of, and its records; none: uncorrectable
(R665). -/
structure Head where
  slot : Nat
  idx : Nat
  datum : Nat
  segs : List Nat
  recs : List (Option (List (BitVec 8)))
  deriving DecidableEq, Repr

/-- A rooted target (R270): its slot and data position. -/
structure Root where
  slot : Nat
  idx : Nat
  datum : Nat
  deriving DecidableEq, Repr

/-- A playlist image as read (R269, R270), with the start point of R273: none for NEXT, a GVC for AT. -/
structure Playlist where
  number : Nat
  waiting : Bool
  pclass : Nat
  uipv : Nat
  claim : Nat
  first : Nat
  last : Nat
  sites : Nat
  roots : List Root
  segs : List Nat
  at_ : Option Nat
  /-- The refusal code that the image itself earns (R272): 0, PL_CRC or PL_FORMAT. -/
  bad : Nat
  deriving DecidableEq, Repr

/-- The compare results of one vector period (R219, R325): sites with an unmasked fail, and whether one was evaluated. -/
structure Period where
  cycle : Nat
  failed : Nat
  evaluated : Bool
  deriving DecidableEq, Repr

/-- A compare that was sampled: channel, UI, comparator state (0 below, 1 between, 2 above), drive state (0 off, 1 drive
0, 2 drive 1), and its result (0 not evaluated, 1 passed, 2 failed), with the period it is attributed to. -/
structure Sample where
  ch : Nat
  ui : Nat
  cmp : Nat
  drv : Nat
  res : Nat
  period : Nat
  deriving DecidableEq, Repr

/-- A vector between its issue and its take point: its cycle, slot and word, the commit banks active in its cycle
(R168, R348), its stored record, its generator outputs and stream data, and what has happened to it at the land. -/
structure Flight where
  gvc : Nat
  slot : Nat
  word : Nat
  first : Bool
  playFirst : Bool
  uipv : Nat
  active : Cells
  /-- Active entries (by BAR0 offset) that fail their check code in this cycle (R822). -/
  bad : List Nat
  /-- Bytes of the stored record, and the tiles it stores (R256). -/
  record : List (BitVec 8)
  tiles : Nat
  /-- The record was late or uncorrectable: MEM channels keep their drive (R266, R665). -/
  memKept : Bool
  apgA : Nat
  apgB : Nat
  /-- X, Y, Z for the fail catalogue (R317). -/
  fcX : Nat
  fcY : Nat
  fcZ : Nat
  /-- Per stream channel: the value of its bytes and its lanes at the issue (R280). -/
  strm : List (Nat × (Nat × Nat))
  /-- Stream channels that underran in this vector (R281). -/
  undr : Nat
  /-- Sites enabled for compare (R222) and the sites of the entry named by SITESET. -/
  enabled : Nat
  siteset : Nat
  /-- The drive override in force (R185). -/
  dctl : Nat
  /-- Killed sites whose channels CAP_KILL_CFG.DRV overrides in this vector, and that DRV (R412). -/
  killed : Nat
  killDrv : Nat
  /-- Number of its playlist, and how many commits of class 7 had been applied (R402, R417). -/
  plNum : Nat
  gen7 : Nat
  /-- Last driven data of every channel before this vector, bit c for channel c (R249). -/
  prevData : Nat
  arm : Bool
  disarm : Bool
  /-- Capture was to be active for the playlist that this vector begins (R405). -/
  capOn : Bool
  /-- The word's TIUCTL action waits for the land (R442). -/
  tiu : Bool
  landed : Bool
  /-- The VCLK gate closed before its take point: no edge and no compare of it is still to come (R352). -/
  cut : Bool
  samples : List Sample
  deriving DecidableEq, Repr

/-- The place of an edge in the order of R349: its time, its vector's cycle, its order within the vector. -/
structure EdgeKey where
  time : Int
  cycle : Nat
  ord : Nat
  deriving DecidableEq, Repr

/-- A drive edge at the land: its key and what it does: 0 turn off, 1 turn on at 0, 2 turn on at 1, 3 set level 0,
4 set level 1. -/
structure Edge where
  key : EdgeKey
  act : Nat
  deriving DecidableEq, Repr

/-- The land side of one channel: driver state (0 off, 1 drive 0, 2 drive 1), the level held for the next turn-on, the
time of its last transition (in serial mode, of its last change between driving and off) and of its last turn-off, the last
edge placed, the standing level words, the start of the level settle that runs, and the starts of the settles before it that
a sample still to come can lie in; what a settle had left when the VCLK gate closed, in half-picoseconds, with the rc of the closure (R375);
the FIR sum of the UI that the driver drives, in 1/64 (R339); what acts on the land from outside: held at a voltage in 250 µV, or a
current into it in µA (0: nothing); the comparator's latches AH and BL (R366); and the numbers of the level set and the timing set in use
(R378). -/
structure ChanLand where
  drv : Nat
  level : Nat
  lastTrans : Option Int
  offSince : Option Int
  cursor : Option EdgeKey
  standing : List Nat
  settle : Option Int
  past : List Int
  rest : Option (Int × Nat)
  fir : Int
  outside : Bool × Int
  ah : Bool
  bl : Bool
  ls : Nat
  ts : Nat
  deriving DecidableEq, Repr

/-- A channel after a reset: driver off, all-zero standing levels (R374). -/
def ChanLand.reset : ChanLand := ⟨0, 0, none, none, none, [0, 0, 0, 0, 0, 0, 0], none, [], none, 0, (false, 0), false, false, 0, 0⟩

end Sys2Proof.Machine
end

