-- ==== Sys2Proof/Machine/State.lean ====
section
/-! DEFINITION. The state of the block: every register of the register map, the two commit banks, and per block the queues,
buffers, tables and units in progress that the manual gives it; with the queue of commands that wait. All of it is plain
data. State.reset is the state that a power-on reset leaves with nothing loaded (R796, R797). -/

namespace Sys2Proof.Machine

/-- Why a step would stop with a fault. The manual gives every command of its table an effect, so nothing raises one. -/
inductive Fault where
  /-- Raised by no command. Safe: it is never answered. -/
  | none
  deriving DecidableEq, Repr

/-- Why a step would be refused. -/
inductive Refusal where
  /-- The command has no meaning in this model yet; raised by its arm of exec. Safe: the model stops there. -/
  | notModelled (mnemonic : String)
  deriving DecidableEq, Repr

/-- The lands that the device drives or samples and that no register shows (R27): the rc until which SYNC_OUT is high (R139),
TEST_EN high, PERST_N low, a logic rail below range (R41), whether a rail other than
VDD_AO has left its range since the previous reset (R794), and the reset in force: 0 none, 1 power-on, 2 cold, 3 warm. -/
structure Pins where
  syncUntil : Nat
  testEn : Bool
  perst : Bool
  railLow : Bool
  railLeft : Bool
  inReset : Nat
  deriving DecidableEq, Repr

/-- The vector clock and the Trellis (R58, R114 to R148): the GVC; the rc since the group start, whether a
start or join has set it counting, and the phase of the vector boundary; the setting in force; whether a relock is in progress and REFCLK has been qualified since
reset; the start or join message held; the CLK_EPOCH at which a join at this root ends; whether this device asked for the
formation in progress; the upstream port and depth that a formation in progress gives it; rc since the last second of OVEN_OK. -/
structure ClkState where
  gvc : Nat
  epoch : Nat
  counting : Bool
  phase : Nat
  vset : VSet
  relocking : Bool
  refSeen : Bool
  startMsg : Option StartMsg
  /-- GVC of the first vector cycle that began in sync (R148). -/
  syncFrom : Nat
  joinUntil : Option Nat
  formRoot : Bool
  place : Option (Nat × Nat)
  ovenRc : Nat
  deriving DecidableEq, Repr

/-- Commit, harvest and verdicts (R58 to R113): the commit held; whether a CANCEL stands; whether a lost commit still
awaits its decision; the target from which a lost commit marks every site INVALID; classes in resync; group and local harvest pending, whether the group request has left, whether a
harvest waits to be shown, the two banks; intervals oldest first; released verdicts by site; entries that fail their check
code, as (class, BAR0 offset), in the shadow and active banks; entries written with a reserved bit set, in both banks;
active entries whose validity flag a failed read cleared (R823). -/
structure CmtState where
  commit : Option Commit
  cancel : Bool
  lostAwait : Bool
  lostMark : Option Nat
  resync : Nat
  hrvGroup : Option Nat
  hrvLocal : Option Nat
  hrvSent : Bool
  hrvNewer : Bool
  /-- The window switches in the next vector cycle, since HOLD was cleared (R92). -/
  hrvSwitch : Bool
  bank0 : HarvestBank
  bank1 : HarvestBank
  intervals : List Interval
  verdicts : List (Nat × Nat)
  shadowBad : List (Nat × Nat)
  activeBad : List (Nat × Nat)
  resvShadow : List (Nat × Nat)
  resvActive : List (Nat × Nat)
  flagCleared : List Nat
  /-- The model's own count of PASSes that came to be held for readback (R101). -/
  holdSeq : Nat
  /-- Commits of class 7 applied (R402). -/
  gen7 : Nat
  deriving DecidableEq, Repr

/-- The sequencer (R161 to R246): control store and the loader run in progress, running and queued playlists and whether the
queued one has passed its check; whether the first vector has issued; slot and bits of the current word, none until it has
been read for issue, its data position, vectors issued, and whether its stream action is done; the actions of the word whose first
vector issued last; the micro-stack, newest first; hold cycles of the word and consecutive stall holds; a fetch hold in force; the
vector cycle that comes next; the commit that a CWAIT word holds for: its target and 0 pending, 1 applied, 2 to T; cycle and
slot of the last issued vector; the first GVC of the playlist; the condition log (cycle, value at its end), newest first,
and the conditions as they stood at the start. -/
structure SeqState where
  store : List (Nat × Slot)
  csl : Option LoaderRun
  running : Option Playlist
  queued : Option Playlist
  queuedReady : Bool
  started : Bool
  cur : Nat
  word : Option Nat
  pos : Nat × Nat
  vecs : Nat
  strDone : Bool
  act : Option WordAct
  stack : List (Nat × Nat × Nat)
  holds : Nat
  stalls : Nat
  stalled : Bool
  next : Nat
  cwait : Option (Nat × Nat)
  issuedAt : Option Nat
  issuedSlot : Nat
  /-- The stored record of the word in issue, its tiles, and whether MEM channels keep their drive (R162, R266). -/
  record : List (BitVec 8)
  tiles : Nat
  memKept : Bool
  startGvc : Nat
  hist : List (Nat × Nat)
  startCond : Nat
  /-- Heads on die; the records of the head or return buffer in use, from that of the word in issue on; the return buffers by stack
  level, newest first (R229 to R231). -/
  heads : List Head
  buf : List (Option (List (BitVec 8)))
  rets : List (List (Option (List (BitVec 8))))
  deriving DecidableEq, Repr

/-- Results that the conditions and the verdicts rest on (R219, R410): compare results by period; sites with a counted
fail, with the period of the first; sites killed, with the cycle at which the kill takes effect; kills that a count has
completed, to take effect; the Rake stop asked for; last driven data of every channel (R249). -/
structure FailState where
  periods : List Period
  siteFail : List (Nat × Nat)
  killAt : List (Nat × Nat)
  rakeStop : Option Nat
  lastData : Nat
  deriving DecidableEq, Repr

/-- Vector data (R260 to R282): segment descriptors; per stream channel the bytes in its buffer, oldest first, the missed
bytes still to be discarded on arrival, the PROD count in effect, the last bit of each lane, and whether a relock has found
its rate too high (R277). -/
structure SegState where
  desc : List (Nat × SegDesc)
  buf : List (Nat × List (BitVec 8))
  skip : List (Nat × Nat)
  prod : List (Nat × Nat)
  last : List (Nat × Nat)
  blocked : List (Nat × Bool)
  deriving DecidableEq, Repr

/-- The readback of one channel (R379 to R382): whether a pass runs, its step, whether the step is a repeat, whether a step of the pass was
void, whether the pass is spoilt, the value of the hold count (R101) and the ac when it began; the ac of the latest marking; the hold
count when the last good pass began; and whether a good pass has begun in an ac after that of the latest marking. -/
structure Readback where
  running : Bool
  step : Nat
  again : Bool
  void : Bool
  spoilt : Bool
  began : Nat
  beganAc : Nat
  markAc : Option Nat
  good : Option Nat
  cleared : Bool
  deriving DecidableEq, Repr

/-- A channel that was never read back. -/
def Readback.none : Readback := ⟨false, 0, false, false, false, 0, 0, Option.none, Option.none, true⟩

/-- The land side (R323 to R382): vectors between issue and take point, oldest first; per channel the driver and settle, and
the readback. -/
structure LandState where
  flights : List Flight
  chans : List (Nat × ChanLand)
  readback : List (Nat × Readback)
  /-- GVC of the vector that landed last, with its slot, while its playlist runs on at the land (R441, R442). -/
  lastLand : Option Nat
  /-- The rc of the last period boundary of the readback, or from which the boundaries are counted (R379). -/
  rbBase : Nat
  deriving DecidableEq, Repr

/-- Rake (R386 to R419): CNT and WIN of the trigger program; a host ARM, DISARM or RESET awaiting its take point; capture active
for the playlist; records captured since arming and after the fire; vector records dropped with the first one's GVC; records
captured since the last drop, and whether a record from the pre-trigger start of a fire on was dropped (R408); how
many commits of class 7 its last vector knew; fail records dropped with the first one's GVC, whether a base
record is needed, and bits [63:40] of the last base record; whether the on-die buffers are full; fail records of the
interval by site. -/
structure CapState where
  cnt : Nat
  win : Nat
  armReq : Bool
  disarmReq : Bool
  resetReq : Bool
  capOn : Bool
  fill : Nat
  post : Nat
  gap : Option (Nat × Nat)
  sinceDrop : Option Nat
  hole : Bool
  class7 : Nat
  fcGap : Option (Nat × Nat)
  fcBase : Option Nat
  bufFull : Bool
  fcBufFull : Bool
  siteRecs : List (Nat × Nat)
  /-- The RPTR count in effect (R414). -/
  fcRptr : Nat
  deriving DecidableEq, Repr

/-- The queue pool and the host rings (R631 to R643) and the tasks of the dispatcher (R616 to R630), with the next value of the ready sequence, and the CONS count in effect of each ring. -/
structure QueState where
  queues : List (Nat × Queue)
  cons : List (Nat × Nat)
  tasks : List (Nat × Task)
  readySeq : Nat
  deriving DecidableEq, Repr

/-- The DRAM controller (R653 to R672): requests that wait at each port, oldest first; fences that wait, each with how many
earlier requests each named port still owes; the last response; consecutive cool readings of each stack; channels with a
refresh postponed; whether a pause that began unfilled is in progress; the granules that each shadow slot holds, slot k of stack m at key
81 × m + k: 0 the fall-through path, 1 to 64 the rooted targets, 65 to 80 the stack levels (R661); the rc at which the retrain cycles began
(R672); for each channel, one more than the cycle of its last pause and of its last deferral (R660, R662); the port that each channel served
last (R654). -/
structure HbcState where
  ports : List (Nat × List HbmReq)
  fences : List (List (Nat × Nat))
  resp : Option HbmResp
  cool : List (Nat × Nat)
  postponed : List (Nat × Bool)
  unfilled : Bool
  shadow : List (Nat × List Nat)
  base : Nat
  begun : List (Nat × Nat)
  deferred : List (Nat × Nat)
  turn : List (Nat × Nat)
  deriving DecidableEq, Repr

/-- The pattern generators (R305, R314): both program stores, instruction n of generator g at key 4096 × g + n, and the
table-loader run in progress. -/
structure ApgState where
  store : List (Nat × Slot)
  tld : Option LoaderRun
  deriving DecidableEq, Repr

/-- One time-interval unit's measurement (R436 to R442): the timestamp of E0 and its GVC, accepted start events after E0, the
last start event, results taken by number, the flags of R443 gathered so far, and the gate of R442: whether a GATE word
names the unit, and whether the gate is open. -/
structure TiuUnit where
  e0 : Option Int
  gvc : Nat
  evs : Nat
  last : Int
  taken : List (Nat × Int)
  warm : Bool
  nocal : Bool
  drift : Bool
  srcint : Bool
  gated : Bool
  gateOpen : Bool
  deriving DecidableEq, Repr

/-- A unit with no measurement. -/
def TiuUnit.idle : TiuUnit := ⟨none, 0, 0, 0, [], false, false, false, false, false, false⟩

/-- The time-interval units (R425 to R448): the units of playlists that have ended, as (mask, GVC at which they are freed, R433, R442); measurements; the bin table of interpolator i of unit n at key 17 × n + i, none
while it is invalid; the core-die temperature at each unit's calibration, in 1/128 K; the timestamp of the last event that interpolator i
of unit n converted, at the same key (R428). -/
structure TiuState where
  releases : List (Nat × Nat)
  units : List (Nat × TiuUnit)
  bins : List (Nat × List Nat)
  calTemp : List (Nat × Int)
  conv : List (Nat × Int)
  deriving DecidableEq, Repr

/-- A guard monitor's own state (R493, R497, R499): the mode and the thresholds in force while they differ from its registers,
none otherwise, and its last samples and reversed-polarity samples, newest in bit 0. -/
structure Monitor where
  mode : Option Nat
  thr : Option Nat
  hist : Nat
  rev : Nat
  deriving DecidableEq, Repr

/-- A monitor whose registers are in force and that has taken no sample out of window. -/
def Monitor.settled : Monitor := ⟨none, none, 0, 0⟩

/-- The guard (R501 to R507): the causes that hold each channel, by monitor number, 1000 for the driver current limit and
1001 for a manual trip; monitors whose mode or threshold in force differs from its register or that hold samples; whether
the power-loss trigger holds every channel (R44). -/
structure GrdState where
  holders : List (Nat × List Nat)
  monitors : List (Nat × Monitor)
  powerLoss : Bool
  /-- The rc of the last P tick, or from which the ticks are counted (R490). -/
  tickBase : Nat
  deriving DecidableEq, Repr

/-- An entry of the maintenance arbiter (R560 to R562): the activity (1 timing, 2 DC, 4 graft, 6 PMU, 7 interpolators), its
element and target, the rc of its deadline, whether it has met it unstarted, whether REFCLK was lost at the start of its timing calibration or
in it (R546), and the rc at which its run began. -/
structure CalEntry where
  kind : Nat
  elem : Nat
  target : Nat
  deadline : Nat
  late : Bool
  refbad : Bool
  began : Nat
  deriving DecidableEq, Repr

/-- The maintenance arbiter (R560, R561): waiting entries in the order of request, and running ones; the calibration results and
the graft map in the non-volatile store (R552, R567). -/
structure CalState where
  queue : List CalEntry
  running : List CalEntry
  nv : Cells
  deriving DecidableEq, Repr

/-- A filter chain's state (R471 to R479): the number of its modulator sample 0 among the modulator's samples; the FIR's last 96 inputs, newest
first; FIR outputs computed; the baseline b as a numerator over 2^bExp; the flags of its last 16 resampler inputs, newest first; the phase
accumulator. -/
structure DfcChain where
  start : Nat
  fir : List Int
  inputs : Nat
  b : Int
  bExp : Nat
  past : List Nat
  acc : Nat
  deriving DecidableEq, Repr

/-- A chain that has never run. -/
def DfcChain.idle : DfcChain := ⟨0, [], 0, 0, 0, [], 0⟩

/-- PMUs and filter chains (R458, R464, R473): the channel a PMU is about to close onto; channels a contact test has still to do,
and all of its channels; the chains; per PMU the modulator sample of its last change and that from which it has been connected
without a break. -/
structure PmuState where
  closing : List (Nat × Nat)
  contact : List Nat
  tested : List Nat
  chains : List (Nat × DfcChain)
  change : List (Nat × Nat)
  since : List (Nat × Nat)
  deriving DecidableEq, Repr

/-- The Azith links (R678 to R702): ports, and per requester the operation of the remote access in progress (R699); whether
the device is in D3hot (R703, R704). -/
structure LnkState where
  ports : List (Nat × Port)
  rra : List (Nat × Nat)
  d3hot : Bool
  deriving DecidableEq, Repr

/-- Power states (R773 to R786): the rc at which a wake started; a wake held until DORMANT is reached; the excess of the
999 slots before the current one in µJ, newest first; the highest declared power of the current slot in mW; the FCL_MS of the last
overclass event of the running playlist; whether it has seen the bucket empty; the FCL_MS of the current slot; and the rc for which
Bloom has had no playlist and no arbiter entry that asks for full bias (R780). -/
structure PmgState where
  wakeFrom : Nat
  wakePending : Bool
  excess : List Nat
  declMax : Nat
  overAt : Option Nat
  drained : Bool
  slot : Nat
  idleRc : Nat
  deriving DecidableEq, Repr

/-- Time that never stops with the gate (R707 to R711, R726): reference cycles since the power-on reset; the wall time in
2^-32 ns, INC in effect, and an ADJ and a SET that await the next tick, in 2^-32 ns; TIME messages sent; per EXT_TRIG input the instant of its
last stamp, in 1/16 ns since the power-on reset (R714). -/
structure TimeState where
  rc : Nat
  wall : Nat
  inc : Nat
  adj : Option Int
  load : Option Nat
  seq : Nat
  stamps : List (Nat × Nat)
  deriving DecidableEq, Repr

/-- The fault collector (R723 to R733): rc of each source's last occurrence; occurrences per millisecond of FCL_MS, newest first;
condition sources that are active and that no register shows. -/
structure FclState where
  last : List (Nat × Nat)
  slots : List (Nat × List (Nat × Nat))
  conds : List Nat
  deriving DecidableEq, Repr

/-- A saved set of the Almanac in the non-volatile store (R746): VALID, NEWER, the count of its first entry, EVR_WPTR at the
trigger, and its entries. -/
structure SavedSet where
  valid : Bool
  newer : Bool
  first : Nat
  wptr : Nat
  entries : List (List Nat)
  deriving DecidableEq, Repr

/-- The Almanac (R740 to R748): entries by slot; per source the rc of its last entry and the occurrences suppressed since; the
saved sets; the entry count at a power-loss trigger whose write runs. -/
structure EvrState where
  ring : List (Nat × List Nat)
  hold : List (Nat × Nat × Nat)
  set0 : SavedSet
  set1 : SavedSet
  lossAt : Option Nat
  deriving DecidableEq, Repr

/-- Frost (R749 to R760): a hard request awaiting its stop with its trigger, source, the CLK_EPOCH of its rc and that rc; a soft request
being drained with its trigger, source and boundary, none while it waits for its group condition, and the rc of its acceptance; a hard
request that found the device in soft Frost, with its trigger, source and rc; the rc in which the read-out began; the wall time when
the clocks stopped; whether a power-loss trigger has come. -/
structure FrzState where
  hard : Option (Nat × Nat × Nat × Nat)
  soft : Option (Nat × Nat × Option Nat)
  softAt : Nat
  late : Option (Nat × Nat × Nat)
  readAt : Nat
  wall : Nat
  afterLoss : Bool
  deriving DecidableEq, Repr

/-- A core of R574 as the device sees it: interrupt inputs raised less than 16 fc ago, pending ones, with priorities, masked ones, and
what the last claim returned (R584); x1 to x31 (x(n) at key n) and mepc, mcause, mtval and mstatus as the core last gave them; local
memory; the GVC at its last entry to Wilted and the rc of its entries in the last 1,000 ms (R590, R593). The fast-entry depth stands
in SCN_c_STATUS for a Scion, and here for the Rootstock pair. -/
structure Core where
  arriving : List (Nat × Nat)
  pending : List (Nat × Nat)
  masked : List Nat
  claim : Nat
  x : List (Nat × Nat)
  csr : List Nat
  mem : List Host.Cell
  depth : Nat
  gvc : Nat
  wilts : List Nat
  deriving DecidableEq, Repr

/-- A core that nothing has reached. -/
def Core.reset : Core := ⟨[], [], [], 0, [], [0, 0, 0, 0], [], 0, 0, []⟩

/-- A customer key slot (R595): 0 EMPTY, 1 VALID, 2 REVOKED, with its hash and AUTH flag. -/
structure KeySlot where
  st : Nat
  hash : Nat
  auth : Bool
  deriving DecidableEq, Repr

/-- A graft of Scions in progress (R605): cores still to do, the first of them now; the image slot; the verified image's payload is in
the core's standby area; whether the present core has passed step 1; the drain limit in µs, and the rc at which the drain began. -/
structure Graft where
  cores : List Nat
  slot : Nat
  loaded : Bool
  limit : Nat
  since : Nat
  deriving DecidableEq, Repr

/-- Rootstock (R594 to R611): in the non-volatile store, image slots with header and payload, key slots, the ACTIVE record (1 RS-A, 2
RS-B), the Rootstock boot slot; the slot the active pair and the standby run; the mailbox command in
progress with its arguments, and its result once it has one; the graft and the slot of the handover in progress; the rc of the last
watchdog kick, or at which the active pair took authority; whether the pair that is not active is held in reset since it failed (R577, R610). -/
structure RscState where
  slots : List (Nat × List (BitVec 8))
  keys : List (Nat × KeySlot)
  active : Nat
  bootSlot : Nat
  runSlot : Nat
  sbySlot : Nat
  cmd : Option (Nat × List Nat)
  result : Option Nat
  graft : Option Graft
  handover : Option Nat
  kick : Option Nat
  held : Bool
  deriving DecidableEq, Repr

/-- One loop's own state (R525 to R532): D, PVprev; whether the next evaluation is the first after OFF, and whether it presets
I; the staging set that an APPLY makes effective at the next evaluation; effective SP, KP, KI, KD, OUTMIN, OUTMAX, MANOUT;
consecutive invalid inputs; past outputs, newest first; the word of its last READ with the frame that received it; the frame after that of
its last evaluation (0 before any), up to which it takes no other; the sink code that stood at that evaluation, which its output keeps in that frame
(R516, R517). -/
structure Loop where
  d : Int
  pvPrev : Int
  first : Bool
  preset : Bool
  apply : Option (List Int)
  eff : List Int
  lost : Nat
  us : List Int
  read : Option (Nat × Nat)
  done : Nat
  codeWas : Nat
  deriving DecidableEq, Repr

/-- A loop that never ran. -/
def Loop.reset : Loop := ⟨0, 0, false, false, none, [0, 0, 0, 0, -2147483648, 2147483647, 0], 0, [], none, 0, 0⟩

/-- The closed-loop engine (R514 to R537): frames since the last reset; loops; ports with a host word ready; the code last written by entry
32 × port + i; ports and single loops under the ramp generator; WRITE entries under it that have sent their target; frames that its clock, which
nothing stops, has counted since the ramp began and the engine has not (R737); the frame after the last transaction of each port (R518); the rc since
which each tile has been INBAND (R535). -/
structure CleState where
  frame : Nat
  loops : List (Nat × Loop)
  htx : List Nat
  codes : List (Nat × Nat)
  ramp : List Nat
  rampLoops : List Nat
  sent : List Nat
  missed : Nat
  carried : List (Nat × Nat)
  inband : List (Nat × Nat)
  deriving DecidableEq, Repr


/-- The whole block. -/
structure State where
  /-- The commands that wait, first in, first out. -/
  pending : List Instr
  /-- Every register field outside the commit banks that differs from its reset value. -/
  cells : Cells
  /-- The shadow bank of the commit classes (R62). -/
  shadow : Cells
  /-- The active bank of the commit classes (R62). -/
  active : Cells
  /-- Staging latches (R192, R301, R340, R368): key 32 × table + requester. -/
  latches : List (Nat × Latch)
  /-- Occurrences that the collector has not yet decided (R724). -/
  raised : List Raised
  /-- Messages sent over the Trellis and the links since the last tick. -/
  tx : List TxMsg
  /-- Transactions made toward the host since the last tick. -/
  hostOut : List HostMsg
  /-- The model's own: how many free values have been taken (log entry 4). -/
  freeCtr : Nat
  pins : Pins
  clk : ClkState
  cmt : CmtState
  seq : SeqState
  fail : FailState
  seg : SegState
  apg : ApgState
  land : LandState
  cap : CapState
  que : QueState
  hbc : HbcState
  tiu : TiuState
  grd : GrdState
  cal : CalState
  pmu : PmuState
  lnk : LnkState
  pmg : PmgState
  time : TimeState
  fcl : FclState
  evr : EvrState
  frz : FrzState
  cle : CleState
  /-- The cores by number: 0 to 15 the Scions, 16 the active Rootstock pair (R574). -/
  cores : List (Nat × Core)
  rsc : RscState
  /-- HBM, byte by byte (R649). -/
  mem : List Host.Cell
  /-- HBM granules that are marked poisoned (R666), rising. -/
  poison : List Nat
  deriving DecidableEq, Repr

/-- The state after a power-on reset with nothing loaded (R796, R797; log entries 1 to 4). REFCLK counts as lost until it is qualified, so
source 40 is active (R117, R150, R723). -/
def State.reset : State :=
  { pending := [], cells := [], shadow := [], active := [], latches := [], raised := [], tx := [], hostOut := [], freeCtr := 0
    pins := ⟨0, false, false, false, false, 0⟩
    clk := ⟨0, 0, false, 0, ⟨0x80, 0, 64, 0⟩, false, false, none, 0, none, false, none, 0⟩
    cmt := ⟨none, false, false, none, 0, none, none, false, false, false, ⟨0, []⟩, ⟨0, []⟩, [], [], [], [], [], [], [], 0, 0⟩
    seq := ⟨[], none, none, none, false, false, 0, none, (0, 0), 0, false, none, [], 0, 0, false, 0, none, none, 0, [], 0, false, 0, [], 0, [], [], []⟩
    fail := ⟨[], [], [], none, 0⟩
    seg := ⟨[], [], [], [], [], []⟩
    apg := ⟨[], none⟩
    land := ⟨[], [], [], none, 0⟩
    cap := ⟨0, 0, false, false, false, false, 0, 0, none, none, false, 0, none, none, false, false, [], 0⟩
    que := ⟨[], [], [], 0⟩
    hbc := ⟨[], [], none, [], [], false, [], 0, [], [], []⟩
    tiu := ⟨[], [], [], [], []⟩
    grd := ⟨[], [], false, 0⟩
    cal := ⟨[], [], []⟩
    pmu := ⟨[], [], [], [], [], []⟩
    time := ⟨0, 0, 0x400000000, none, none, 0, []⟩
    lnk := ⟨[], [], false⟩
    pmg := ⟨0, false, [], 520000, none, false, 0, 0⟩
    fcl := ⟨[], [], [40]⟩
    evr := ⟨[], [], ⟨false, false, 0, 0, []⟩, ⟨false, false, 0, 0, []⟩, none⟩
    frz := ⟨none, none, 0, none, 0, 0, false⟩
    cle := ⟨0, [], [], [], [], [], [], 0, [], []⟩
    cores := []
    rsc := ⟨[], [], 1, 8, 8, 8, none, none, none, none, none, false⟩
    mem := [], poison := [] }

end Sys2Proof.Machine
end

