-- ==== Sys2Proof/Machine/Ops.lean ====
section
/-! DEFINITION. The operations that every block uses: reading and writing register fields in the cells and in the two
commit banks, raising an event, HBM bytes, checksums, and vector-clock time. -/

namespace Sys2Proof.Machine

/-- What a command answers. -/
abbrev Out := Host.Outcome State Fault Refusal

/-- The cell that holds a field. -/
def Field.id (f : Field) : Nat := f.off * 32 + f.lo

/-- A field of a register that is held once per requester, as the requester r sees it (R262, R640, R745). -/
def Field.per (f : Field) (r : Req) : Field := { f with off := f.off + 0x10000000 * (r.idx + 1) }

/-- The value of a register field. -/
def State.get (s : State) (f : Field) : Nat := Assoc.get f.rst s.cells f.id

/-- The field f set to v, cut to its width. -/
def State.put (s : State) (f : Field) (v : Nat) : State :=
  { s with cells := Assoc.set f.rst s.cells f.id (v % 2 ^ f.width) }

/-- The field is not 0. -/
def State.on (s : State) (f : Field) : Bool := decide (s.get f ≠ 0)

/-- The field set to a truth value. -/
def State.flag (s : State) (f : Field) (b : Bool) : State := s.put f (b2n b)

/-- A wrapping counter counts one. -/
def State.inc (s : State) (f : Field) : State := s.put f (s.get f + 1)

/-- A counter counts k and stops at all ones. -/
def State.addSat (s : State) (f : Field) (k : Nat) : State := s.put f (min (s.get f + k) (2 ^ f.width - 1))

/-- A saturating counter counts one. -/
def State.incSat (s : State) (f : Field) : State := s.addSat f 1

/-- A register pair as one value (R14); low bits that the pair does not hold are 0. -/
def State.get64 (s : State) (lo hi : Field) : Nat := s.get lo * 2 ^ lo.lo + 2 ^ 32 * s.get hi

/-- A register pair set to a 64-bit value. -/
def State.put64 (s : State) (lo hi : Field) (v : Nat) : State := (s.put lo (v % 2 ^ 32 / 2 ^ lo.lo)).put hi (v / 2 ^ 32)

/-- A wrapping 64-bit counter counts k. -/
def State.add64 (s : State) (lo hi : Field) (k : Nat) : State := s.put64 lo hi (s.get64 lo hi + k)

/-- Bit b of a family of 32-bit registers that holds one bit per unit. -/
def State.bitOf (s : State) (fam : Nat → Field) (b : Nat) : Bool := bitAt (s.get (fam (b / 32))) (b % 32)

/-- Bit b of such a family set or cleared. -/
def State.setBitOf (s : State) (fam : Nat → Field) (b : Nat) (v : Bool) : State :=
  let w := s.get (fam (b / 32))
  s.put (fam (b / 32)) (if v then setBitN w (b % 32) else clrBitN w (b % 32))

/-- A shadow-bank field (R62): what a read of an RWC register returns. -/
def State.getShadow (s : State) (f : Field) : Nat := Assoc.get f.rst s.shadow f.id

/-- A write of a shadow-bank field. -/
def State.putShadow (s : State) (f : Field) (v : Nat) : State :=
  { s with shadow := Assoc.set f.rst s.shadow f.id (v % 2 ^ f.width) }

/-- A field of an active bank, of the present or of a vector in flight (R168). -/
def bankGet (b : Cells) (f : Field) : Nat := Assoc.get f.rst b f.id

/-- An active-bank field. -/
def State.getActive (s : State) (f : Field) : Nat := bankGet s.active f

/-- A fresh free value (log entry 4): the manual leaves the value open. -/
def State.free (s : State) : Nat × State := (Config.freeValue s.freeCtr, { s with freeCtr := s.freeCtr + 1 })

/-- A message goes out over the Trellis or a link. -/
def State.send (s : State) (m : TxMsg) : State := { s with tx := s.tx ++ [m] }

/-- A transaction goes to the host. -/
def State.toHost (s : State) (m : HostMsg) : State := { s with hostOut := s.hostOut ++ [m] }

/-- The device may make transactions toward the host: the link is up and the device is in D0 (R704, R705). -/
def State.dmaOn (s : State) : Bool := s.on LNK_PCIE_STATUS_UP && !s.lnk.d3hot

/-! ## Modes -/

/-- The VCLK gate is open. -/
def State.gateOpen (s : State) : Bool := s.on CLK_STATUS_GATE

/-- The GVC is the group GVC. -/
def State.insync (s : State) : Bool := s.on CMT_STATUS_INSYNC

/-- The functional clocks are stopped by Frost (R752): FRZ_STATUS.STATE is soft-frozen (2) or hard-frozen (3). -/
def State.frozen (s : State) : Bool := decide (2 ≤ s.get FRZ_STATUS_STATE)

/-- The device is in the safe state (R735). -/
def State.inSafe (s : State) : Bool := s.on FCL_STATUS_SAFE

/-- The GVC that an occurrence is stamped with, when one is valid (R97, R743). -/
def State.stamp (s : State) : Option Nat := if s.gateOpen && s.insync then some s.clk.gvc else none

/-- Source src occurs with its argument and value, at this instant (R743); the collector decides it later (R724, R744). -/
def State.raise (s : State) (src arg value : Nat) : State :=
  { s with
    raised := s.raised ++ [⟨src, arg % 2 ^ 16, value % 2 ^ 16, s.time.rc, s.stamp, s.time.wall, s.on WTM_STATUS_COARSE⟩]
    fcl := { s.fcl with last := Assoc.insert s.fcl.last src s.time.rc } }

/-- Source src occurs with no argument. -/
def State.event (s : State) (src : Nat) : State := s.raise src 0 0

/-! ## HBM bytes (R649): what a byte that nothing has written reads as is 0 (log entry 3) -/

/-- Addressable HBM bytes end here (R649). -/
def hbmTop : Nat := 0xB80000000

/-- The byte at an HBM address. -/
def State.memByte (s : State) (a : Nat) : BitVec 8 := Assoc.get 0 s.mem a

/-- n bytes from an HBM address. -/
def State.memBytes (s : State) (a n : Nat) : List (BitVec 8) := (List.range n).map fun i => s.memByte (a + i)

/-- A little-endian 32-bit word of HBM. -/
def State.memWord (s : State) (a : Nat) : Nat := ofBytes (s.memBytes a 4)

/-- Memory with bytes written from an address on. -/
def memPut (m : List Host.Cell) (a : Nat) : List (BitVec 8) → List Host.Cell
  | [] => m
  | b :: bs => memPut (Assoc.set 0 m a b) (a + 1) bs

/-- Bytes written to HBM from an address on. -/
def State.memWrite (s : State) (a : Nat) (bs : List (BitVec 8)) : State := { s with mem := memPut s.mem a bs }

/-- The canonical form of memory: addresses rising, no byte that an unlisted address reads as. -/
def Memory.wf (m : List Host.Cell) : Bool := Assoc.wf (0 : BitVec 8) m

/-- The granule (R650) of an address is marked poisoned (R666). -/
def State.poisoned (s : State) (a n : Nat) : Bool :=
  s.poison.any fun g => decide (g * 64 < a + n) && decide (a < g * 64 + 64)

/-! ## Checksums -/

/-- One bit of CRC-16, polynomial 0x1021, most significant bit first (R103). -/
def crc16Bit (c : Nat) (b : Bool) : Nat :=
  let x := bitAt c 15 != b
  let d := (c * 2) % 0x10000
  if x then d ^^^ 0x1021 else d

/-- CRC-16 of a byte string, initial value 0xFFFF, no reflection (R103). -/
def crc16 (bs : List (BitVec 8)) : Nat :=
  bs.foldl (fun c b => (List.range 8).foldl (fun c i => crc16Bit c (bitAt b.toNat (7 - i))) c) 0xFFFF

/-- One bit of CRC-32, reflected (R269). -/
def crc32Bit (c : Nat) (b : Bool) : Nat :=
  let x := bitAt c 0 != b
  let d := c / 2
  if x then d ^^^ 0xEDB88320 else d

/-- CRC-32 of IEEE 802.3 (R269). -/
def crc32 (bs : List (BitVec 8)) : Nat :=
  (bs.foldl (fun c b => (List.range 8).foldl (fun c i => crc32Bit c (bitAt b.toNat i)) c) 0xFFFFFFFF) ^^^ 0xFFFFFFFF

/-- Little-endian 32-bit words as bytes. -/
def wordBytes (ws : List Nat) : List (BitVec 8) := ws.flatMap (bytesOf 4)

/-! ## Vector-clock time -/

/-- The divider D of a DIV code (R153). -/
def divOf (c : Nat) : Nat := 8 * 2 ^ c

/-- The VCLK setting that register values name (R121, R153). -/
def vsetOf (cfg frac : Nat) : VSet := ⟨bits cfg 0 8, frac % 2 ^ 24, divOf (bits cfg 11 3), bits cfg 14 2⟩

/-- UI per vector. -/
def VSet.uis (v : VSet) : Nat := 2 ^ v.uipv

/-- N × 2^24 + F: the vector cycles that D × 2^24 reference cycles hold (R121). -/
def VSet.num (v : VSet) : Nat := v.n * 2 ^ 24 + v.f

/-- D × 2^24. -/
def VSet.den (v : VSet) : Nat := v.d * 2 ^ 24

/-- The tests of R122, with the DIV code given as D. -/
def VSet.valid (v : VSet) : Bool :=
  decide (80 * 2 ^ 24 ≤ v.num) && decide (v.num ≤ 160 * 2 ^ 24) && decide (v.d ≤ 256)
    && decide (v.den ≤ 2 * v.num) && decide (v.num ≤ 20 * v.den)
    && (decide (v.uipv ≠ 0) || decide (v.num ≤ 16 * v.den))

/-- A lead of n rc in whole vector cycles, rounded up (R10). -/
def VSet.vcOf (v : VSet) (n : Nat) : Nat := ceilDiv (n * v.num) v.den

/-- VCLK in kHz, halves rounded up (R150). -/
def VSet.khz (v : VSet) : Nat := (2 * 100000 * v.num + v.den) / (2 * v.den)

/-- CMT_LEAD_VC: the minimum commit lead in vc, 0 while VCLK is not locked (R68, R106). -/
def State.leadVc (s : State) : Nat :=
  if s.on CLK_STATUS_LOCKED then s.clk.vset.vcOf (1024 + 64 * s.get CMT_HOPS) else 0

/-- A stream channel's bytes per vector (R276). -/
def State.strBytes (s : State) (n : Nat) : Nat := (s.get (SEG_STR_CTRL_WIDTH n) + 1) * s.clk.vset.uis

/-- The sources of the conditions that the sequencer reads, as they stand now: bit k for condition code k of R219; the
codes that rest on compares and on the group are looked up by cycle instead. -/
def State.condNow (s : State) : Nat :=
  maskOf 0x30 fun k =>
    if k = 5 then s.on CAP_STATUS_FIRED else if k = 6 then s.on CAP_STATUS_ARMED
    else if k = 7 then s.on CMT_STATUS_PENDING
    else if k < 8 then false
    else if k < 0x10 then s.on (SEG_STR_STATUS_OPEN (k - 8)) &&
      decide (s.strBytes (k - 8) ≤ (Assoc.get [] s.seg.buf (k - 8)).length)
    else if k < 0x20 then !s.on (SEQ_LOOP (k - 0x10))
    else bitAt (s.get SEQ_UFLAG) (k - 0x20)

/-- A condition log with the present value noted as the value at the end of cycle g, where it differs. -/
def noteCond (h : List (Nat × Nat)) (g v : Nat) : List (Nat × Nat) :=
  match h with
  | [] => [(g, v)]
  | (g', v') :: t => if v' = v then h else if g' = g then (g, v) :: t else (g, v) :: h

/-- The logged value at the end of cycle t. -/
def condAt : List (Nat × Nat) → Nat → Option Nat
  | [], _ => none
  | (g, v) :: h, t => if g ≤ t then some v else condAt h t

/-- One second, 10^9 ns, in the wall time's units of 2^-32 ns. -/
def wallSecond : Nat := 1000000000 * 2 ^ 32

/-- The wall time wraps with SEC (R707). -/
def wallWrap : Nat := wallSecond * 2 ^ 48

/-- NS, SEC and FRAC of a wall time (R707). -/
def wallNs (w : Nat) : Nat := w / 2 ^ 32 % 1000000000
/-- SEC. -/
def wallSec (w : Nat) : Nat := w / wallSecond
/-- FRAC. -/
def wallFrac (w : Nat) : Nat := w / 2 ^ 16 % 2 ^ 16

/-- What INC adds between the rc counts a and b: one INC at each 250 MHz tick, which is 5 ticks in 2 rc, or 62.5 INC at each ac of
25 rc while COARSE is 1 (R707, R711). -/
def incBetween (coarse : Bool) (inc a b : Nat) : Nat :=
  if coarse then (b / 25 - a / 25) * 125 * inc / 2 else (5 * b / 2 - 5 * a / 2) * inc

/-- The wall time k rc on: a SET loads and an ADJ adds at the first tick (R709). -/
def TimeState.pass (t : TimeState) (coarse : Bool) (k : Nat) : TimeState :=
  let b := t.rc + k
  let n := incBetween coarse 1 t.rc b
  let add := incBetween coarse t.inc t.rc b
  if n = 0 then { t with rc := b }
  else
    let w : Int := match t.load with
      | some v => v + add - t.inc
      | none => t.wall + add
    { t with rc := b, wall := ((w + t.adj.getD 0) % (wallWrap : Int)).toNat, adj := none, load := none }

/-- Power domain d is on (R768, R769). -/
def State.domOn (s : State) (d : Nat) : Bool :=
  if d < 32 then bitAt (s.get PMG_DOM_ON0) d else bitAt (s.get PMG_DOM_ON1) (d - 32)

/-- The group harvest request leaves the root at the end of the rc of its GO (R110). -/
def State.sendHarvest (s : State) : State :=
  match s.cmt.hrvGroup with
  | some t =>
    if s.cmt.hrvSent then s
    else
      let s1 : State := { s with cmt := { s.cmt with hrvSent := true } }
      if s.on CLK_DEPTH_DOWN then s1.send (.harvest t) else s1
  | none => s

/-- In Bloom with no playlist that runs or is queued and no arbiter entry that asks for a tile at full bias (R780). -/
def State.bloomIdle (s : State) : Bool :=
  s.get PMG_STATUS_STATE == 3 && s.seq.running.isNone && s.seq.queued.isNone && (s.cal.queue ++ s.cal.running).all (·.kind == 7)

/-- Reference cycles pass: CLK_EPOCH counts from the group start on, whole seconds of OVEN_OK count in CLK_WARM_S (R118, R150), FCL_MS counts (R726), the
wall time runs (R707), Bloom's idle time counts (R780), the frames of the loop engine count while it has a clock (R514, R537), and a group harvest request leaves the
root (R110). -/
def State.passRc (s : State) (k : Nat) : State :=
  let o := if s.on CLK_STATUS_OVEN then s.clk.ovenRc + k else 0
  let f := (s.time.rc + k) / 100 - s.time.rc / 100
  let runs := s.domOn 15 && !s.frozen
  let s0 := s.put64 FCL_MS_LO FCL_MS_HI ((s.time.rc + k) / 100000)
  let s1 : State := { s0 with
    clk := { s.clk with epoch := if s.clk.counting then (s.clk.epoch + k) % 2 ^ 64 else s.clk.epoch, ovenRc := o % 100000000 }
    time := s.time.pass (s.on WTM_STATUS_COARSE) k
    pmg := { s.pmg with idleRc := if s.bloomIdle then s.pmg.idleRc + k else 0 }
    cle := { s.cle with frame := if runs then s.cle.frame + f else s.cle.frame, missed := if runs then s.cle.missed else s.cle.missed + f } }
  let s2 := s1.addSat CLK_WARM_S (o / 100000000)
  if k = 0 then s2 else s2.sendHarvest

/-- The window switches to the bank that received the newer harvest (R92, R93). -/
def State.switchWindow (s : State) : State :=
  let shown := 1 - s.get CMT_HRV_STATUS_SHOWN
  let g := if shown = 0 then s.cmt.bank0.gvc else s.cmt.bank1.gvc
  let s1 := ((s.put CMT_HRV_STATUS_SHOWN shown).put64 CMT_HRV_GVC_LO CMT_HRV_GVC_HI g).inc CMT_HRV_SEQ
  { s1 with cmt := { s1.cmt with hrvNewer := false } }

/-- Reference cycles pass up to the rc t of the device's own count, where it has not come; the gate is closed. -/
def State.waitRc (s : State) (t : Nat) : State := if s.time.rc < t then s.passRc (t - s.time.rc) else s

/-- n vector cycles pass with the gate open: the GVC counts (R58), the reference cycles follow by the phase of the
vector boundary, and the condition sources at the end of each cycle are logged (R218). A harvest window that HOLD has released switches
in the first of them (R92). -/
def State.advance (s : State) (n : Nat) : State :=
  let p := s.clk.vset.num
  let t := s.clk.phase + n * s.clk.vset.den
  let s1 := { s with
    clk := { s.clk with gvc := (s.clk.gvc + n) % 2 ^ 64, phase := if p = 0 then 0 else t % p }
    seq := { s.seq with hist := noteCond s.seq.hist s.clk.gvc s.condNow } }
  let s2 := if s.cmt.hrvSwitch && decide (n ≠ 0) then { s1.switchWindow with cmt := { s1.switchWindow.cmt with hrvSwitch := false } } else s1
  s2.passRc (if p = 0 then 0 else t / p)

/-- DORMANT, WAKING or SINKING (R772). -/
def State.sleeping (s : State) : Bool :=
  s.get PMG_STATUS_STATE == 1 || s.get PMG_STATUS_STATE == 4 || s.get PMG_STATUS_STATE == 6

/-- A write to a register of domain d: k, or discarded and counted while the domain is off (R770). -/
def State.inDomain (s : State) (d : Nat) (k : State → State) : State :=
  if s.domOn d then k s else s.incSat PMG_NOFFWR

/-! ## Reaching a register -/

/-- The switchable power domain that the register at a BAR0 offset lies in (R824); none where its domain is never off alone. -/
def regDomain (off : Nat) : Option Nat :=
  if 0x281000 ≤ off && off < 0x282000 then some (12 + (off - 0x281000) / 0x800)
  else if 0x301000 ≤ off && off < 0x303000 then some (30 + 3 * ((off - 0x301000) / 0x400))
  else if 0x340000 ≤ off && off < 0x343000 then some 14
  else if 0x581000 ≤ off && off < 0x582000 then some (22 + (off - 0x581000) / 0x400)
  else if 0x601000 ≤ off && off < 0x605000 then some (3 + (off - 0x601000) / 0x1000)
  else none

/-- The register's domain is on (R770). -/
def State.regOn (s : State) (off : Nat) : Bool :=
  match regDomain off with
  | some d => s.domOn d
  | none => true

/-- The blocks that stay accessible in Frost: GLB, FCL, EVR, FRZ and WTM (R753). -/
def frostBlock (off : Nat) : Bool :=
  decide (off < 0x10000) || (decide (0x40000 ≤ off) && decide (off < 0x70000)) || (decide (0x5C0000 ≤ off) && decide (off < 0x600000))

/-- The blocks that stay accessible in Dormant: GLB, PMG, FCL, EVR and WTM (R776). -/
def dormantBlock (off : Nat) : Bool :=
  decide (off < 0x10000) || (decide (0x30000 ≤ off) && decide (off < 0x60000)) || (decide (0x5C0000 ≤ off) && decide (off < 0x600000))

/-- An access to the offset finds nothing: a reset is in force, Frost (R753), or Dormant (R776). -/
def State.dark (s : State) (off : Nat) : Bool :=
  decide (s.pins.inReset ≠ 0) || (s.frozen && !frostBlock off) || (s.get PMG_STATUS_STATE == 1 && !dormantBlock off)

/-- A write that the device ignores: to an offset where nothing is found, or the host's during a power-loss write (R46). -/
def State.ignored (s : State) (req : Req) (off : Nat) : Bool := s.dark off || (s.on EVR_STATUS_SAVING && req == Req.host)

/-- The host's own range of refusals: Rootstock's and the Scions' registers (R578). -/
def rscRange (off : Nat) : Bool := decide (0x600000 ≤ off) && decide (off < 0x1000000)

/-- Core c executes: RUN or DRAINING (R589, R613). -/
def State.scnRuns (s : State) (c : Nat) : Bool := s.get (SCN_STATUS_STATE c) == 1 || s.get (SCN_STATUS_STATE c) == 4

/-- An enabled active plot of core c, with W, maps the n bytes at a BAR0 offset (R580). -/
def State.plotWrites (s : State) (c off n : Nat) : Bool :=
  (List.range 8).any fun k =>
    s.on (SCN_PLOT_ATTR_EN c k) && s.on (SCN_PLOT_ATTR_W c k) && s.get (SCN_PLOT_ATTR_TGT c k) == 2
      && decide (4096 * s.get (SCN_PLOT_TB c k) ≤ off) && decide (off + n ≤ 4096 * s.get (SCN_PLOT_TB c k) + 2 ^ s.get (SCN_PLOT_ATTR_SIZE c k))

/-- A write of n bytes leaves the requester: a Scion's only from a core that executes, through a plot of its own (R580, R589). -/
def State.issues (s : State) (req : Req) (off n : Nat) : Bool :=
  match req with
  | .scion c => s.scnRuns c.val && s.plotWrites c.val off n
  | _ => true

/-- A write that does not leave its requester: a running Scion's access fault counts (R580). -/
def State.notIssued (s : State) (req : Req) : State :=
  match req with
  | .scion c => if s.scnRuns c.val then s.inc (SCN_NPLOTF c.val) else s
  | _ => s

/-- A write to a register: k where it reaches it. -/
def State.reachReg (s : State) (req : Req) (off : Nat) (k : State → Out) : Out :=
  if !s.issues req off 4 then .next (s.notIssued req)
  else if s.ignored req off then .next s
  else if req == Req.host && rscRange off then .next (s.incSat RSC_HWREFUSED)
  else if s.regOn off then k s
  else .next (s.incSat PMG_NOFFWR)

/-- A write of TAKE: in a domain that is off it counts as any write does, and the refusal of R770 that k makes follows. -/
def State.takeReg (s : State) (req : Req) (off : Nat) (k : State → Out) : Out :=
  if !s.issues req off 4 then .next (s.notIssued req)
  else if s.ignored req off then .next s
  else if s.regOn off then k s
  else k (s.incSat PMG_NOFFWR)

/-- The number of the modulator sample after this instant: one every 50 fc (R461). -/
def State.modSample (s : State) : Nat := s.time.rc / 5 + 1

/-! ## Sites and channels -/

/-- The site of a channel, if it is assigned to one (R254). -/
def State.siteOf (s : State) (c : Nat) : Option Nat :=
  if s.on (PIN_SITE_ASSIGNED c) then some (s.get (PIN_SITE_SITE c)) else none

/-- The site of a channel as a mask. -/
def State.siteMask (s : State) (c : Nat) : Nat :=
  match s.siteOf c with
  | some n => 2 ^ n
  | none => 0

/-- The mask of the sites that have a channel satisfying p. -/
def State.sitesWith (s : State) (p : Nat → Bool) : Nat :=
  (List.range 256).foldl (fun m c => if p c then m ||| s.siteMask c else m) 0

/-- All 64 sites. -/
def allSites : Nat := 2 ^ 64 - 1

/-- The channel's land. -/
def State.chan (s : State) (c : Nat) : ChanLand := Assoc.get ChanLand.reset s.land.chans c

/-- The channel's land replaced. -/
def State.setChan (s : State) (c : Nat) (l : ChanLand) : State :=
  { s with land := { s.land with chans := Assoc.set ChanLand.reset s.land.chans c l } }

end Sys2Proof.Machine
end

