-- ==== Sys2Proof/Machine/Hbm.lean ====
section
/-! DEFINITION. The DRAM controller (R648 to R677): reads and writes of HBM with their refusals and their uncorrectable
responses, ports and fences, retrain pauses, refresh and temperature, scrub and retirement. -/

namespace Sys2Proof.Machine

/-- Place i of an arrangement of n things; where the list is no arrangement, things stay in place. -/
def placed (l : List Nat) (n i : Nat) : Nat := if l.length == n && (List.range n).all l.contains then l.getD i 0 else i

/-- The channel that holds the granule of an address: each of the 32 holds one granule of every 2 KiB block, and a retired channel's granules
lie in the reserve of the others, one of each span of 31 blocks in each of them (R650). -/
def State.hbmChan (s : State) (a : Nat) : Nat :=
  let g := a / 64
  let c := placed (Config.hbmBlock (g / 32)) 32 (g % 32)
  if s.on HBC_RMAP_VALID && s.get HBC_RMAP_CH == c then
    let j := placed (Config.hbmSpare c (g / 992)) 31 (g / 32 % 31)
    if j < c then j else j + 1
  else c

/-- The bytes from a on are addressable (R649). -/
def hbmAddressable (a n : Nat) : Bool := decide (a + n ≤ hbmTop)

/-- The bytes from a on touch a Scion area (R651, R652). -/
def hbmScionArea (a n : Nat) : Bool := decide (a < 0xA80800000) && decide (0xA80000000 < a + n)

/-- HBM is in service (R670). -/
def State.hbmOn (s : State) : Bool := s.on HBC_STATUS_INSERVICE

/-- A channel is in pause (R660). -/
def State.hbmPaused (s : State) (k : Nat) : Bool := decide (s.get (HBC_CH_STATUS_STATE k) = 1)

/-- The normal operating state (R659, R662). A retired channel, which has no more pauses, does not count for its failed retrains (DEDUCED, log
entry 121). -/
def State.hbmNormal (s : State) : Bool :=
  s.hbmOn && (List.range 32).all (fun k => decide (s.get (HBC_CH_STATUS_RTSEQ k) < 3) || s.get (HBC_CH_STATUS_STATE k) == 3)
    && !s.on HBC_STATUS_HOT0 && !s.on HBC_STATUS_HOT1 && !s.hbc.unfilled

/-- Retirement of channel k is asked for (R667). -/
def State.retireRequest (s : State) (k : Nat) : State :=
  if s.on HBC_RMAP_VALID || s.on HBC_RMAP_COPYING || !s.hbmOn || decide (s.get (HBC_CH_STATUS_STATE k) = 3)
  then s.put HBC_STATUS_RETREF 1
  else
    let s1 := (((s.put HBC_RMAP_COPYING 1).put HBC_RMAP_CH k).put HBC_STATUS_RETBUSY 1).put HBC_RETIRE_PROG 0
    if s.hbmPaused k then s1 else s1.put (HBC_CH_STATUS_STATE k) 2

/-- Channel k gives an uncorrectable response (R665); outside a scrub it may ask for its retirement (R667). -/
def State.hbmUe (s : State) (k : Nat) (scrub : Bool) : State :=
  let s1 := (s.inc (HBC_CH_UE k)).raise srcHbcUe k 0
  if !scrub && s.on HBC_CTRL_AUTORETIRE then s1.retireRequest k else s1

/-- A list of rising numbers with g in it. -/
def insertNat (g : Nat) : List Nat → List Nat
  | [] => [g]
  | h :: t => if g < h then g :: h :: t else if g = h then h :: t else h :: insertNat g t

/-! ## Segment descriptors and their locks -/

/-- Descriptor k (R260). -/
def State.segDesc (s : State) (k : Nat) : SegDesc := Assoc.get SegDesc.empty s.seg.desc k

/-- Stored tiles of a descriptor. -/
def SegDesc.tiles (d : SegDesc) : Nat := bits d.dw0 24 8

/-- HBM byte address of record 0. -/
def SegDesc.base (d : SegDesc) : Nat := bits d.dw0 0 24 * 4096

/-- Bytes of one record: UIPV × 8 × the number of stored tiles (R256). -/
def SegDesc.recordBytes (d : SegDesc) : Nat := 2 ^ bits d.dw2 0 2 * 8 * popcount 8 d.tiles

/-- One past the last byte of the segment. -/
def SegDesc.limit (d : SegDesc) : Nat := d.base + d.recordBytes * d.dw1

/-- The lists of the active windows (R267). -/
def State.windows (s : State) : List (List Nat) := s.seq.running.toList.map (·.segs) ++ s.seq.queued.toList.map (·.segs)

/-- SEG_DSTAT.HOLDERS of descriptor k. -/
def State.segHolders (s : State) (k : Nat) : Nat := (s.windows.filter fun l => l.contains k).length

/-- A byte of a locked descriptor lies in the range (R268). -/
def State.segLocked (s : State) (a n : Nat) : Bool :=
  s.windows.any fun l => l.any fun k =>
    let d := s.segDesc k
    decide (a < d.limit) && decide (d.base < a + n)

/-- An HBM write is refused under a window's lock (R268). -/
def State.refuseLocked (s : State) (a : Nat) : State :=
  ((s.incSat SEG_WREFUSED).put64 SEG_WLAST_LO SEG_WLAST_HI a).event srcSegWlock

/-- Bytes are written to HBM; a write of a whole granule clears its poison mark (R666). -/
def State.memStore (s : State) (a : Nat) (bs : List (BitVec 8)) : State :=
  { s.memWrite a bs with
    poison := s.poison.filter fun g => !(decide (a ≤ g * 64) && decide (g * 64 + 64 ≤ a + bs.length)) }

/-- A write by a block of the device: discarded before service (R670), refused where nothing is addressable (R649). -/
def State.hbmWrite (s : State) (a : Nat) (bs : List (BitVec 8)) : State :=
  if !hbmAddressable a bs.length then s.incSat HBC_REFUSED
  else if s.segLocked a bs.length then s.refuseLocked a
  else if s.hbmOn then s.memStore a bs else s

/-- The address of the first poisoned granule that a read reaches, or else that of the read (R665). -/
def State.firstPoison (s : State) (a n : Nat) : Nat :=
  match s.poison.find? fun g => decide (g * 64 < a + n) && decide (a < g * 64 + 64) with
  | some g => g * 64
  | none => a

/-- A read by a block of the device: none is the uncorrectable response (R649, R665, R670). -/
def State.hbmRead (s : State) (a n : Nat) : Option (List (BitVec 8)) × State :=
  if !hbmAddressable a n then (none, s.incSat HBC_REFUSED)
  else if !s.hbmOn then (none, s)
  else if s.poisoned a n then (none, s.hbmUe (s.hbmChan (s.firstPoison a n)) false)
  else (some (s.memBytes a n), s)

/-- The 32-byte bursts that a write covers only in part, as (0 the first or 1 the last burst, its address) (R812). -/
def partBursts (a n : Nat) : List (Nat × Nat) :=
  let part (b : Nat) : Bool := !(decide (a ≤ b) && decide (b + 32 ≤ a + n))
  let b0 := a / 32 * 32
  let b1 := (a + n - 1) / 32 * 32
  (if part b0 then [(0, b0)] else []) ++ (if b1 ≠ b0 && part b1 then [(1, b1)] else [])

/-- The partly covered bursts of a write whose merge read is uncorrectable: those that bad names, or in a poisoned granule. -/
def State.badMerges (s : State) (bad a n : Nat) : List Nat :=
  ((partBursts a n).filter fun e => bitAt bad e.1 || s.poisoned e.2 32).map (·.2)

/-- A write of port 6 merges its partly covered bursts by a read each. Where such a read is uncorrectable, the write is discarded and
the granule left poisoned (R665, R812). -/
def State.memMerge (s : State) (bad a : Nat) (bs : List (BitVec 8)) : State :=
  match s.badMerges bad a bs.length with
  | [] => s.memStore a bs
  | l => l.foldl (fun t b => { t with poison := insertNat (b / 64) t.poison }.hbmUe (s.hbmChan b) false) s

/-! ## Ports and fences -/

/-- The requests that wait at a port. -/
def State.hbmQueue (s : State) (p : Nat) : List HbmReq := Assoc.get [] s.hbc.ports p

/-- The requests that wait at a port replaced. -/
def State.setHbmQueue (s : State) (p : Nat) (q : List HbmReq) : State :=
  { s with hbc := { s.hbc with ports := Assoc.set [] s.hbc.ports p q } }

/-- An engine of the device asks port 5 for bytes (R199, R314, R653). -/
def State.askImage (s : State) (who a n : Nat) : State :=
  let refused := !hbmAddressable a n
  let s1 := if refused then s.incSat HBC_REFUSED else s
  s1.setHbmQueue 5 (s1.hbmQueue 5 ++ [⟨false, a, n, [], refused, who⟩])

/-- HBM_REQUEST: a request enters a port behind that port's earlier ones (R653, R655). A request that nothing can serve is
refused (R649); a write of a Scion area is refused to the host and the Scions, and a Scion read of one is not made
(R652). A write of a byte that a running or queued playlist's window locks is refused (R268). len counts the bytes of a read; a write carries its data. -/
def execHbmRequest (port : Fin 8) (write : Bool) (addr : BitVec 40) (len : Fin 65) (data : List Byte) (s : State) : Out :=
  let a := addr.toNat
  let n := if write then data.length else len.val
  let other := decide (port.val = 4) || decide (port.val = 6)
  if !write && decide (port.val = 4) && hbmScionArea a n then .next s
  else
    let refused := !hbmAddressable a n || (write && other && hbmScionArea a n)
    let locked := write && s.segLocked a n
    let s1 := if refused then s.incSat HBC_REFUSED else if locked then s.refuseLocked a else s
    .next (s1.setHbmQueue port.val (s1.hbmQueue port.val ++ [⟨write, a, n, data, refused || locked, 0⟩]))

/-- One request of port p has completed: fences over p count it. -/
def fenceCount (p : Nat) (f : List (Nat × Nat)) : List (Nat × Nat) :=
  f.map fun e => if e.1 = p then (e.1, e.2 - 1) else e

/-- HBM_FENCE: a fence over the named ports starts (R656). -/
def effHbmFence (ports : BitVec 8) (s : State) : Out :=
  let f := ((List.range 8).filter (bitAt ports.toNat)).map fun p => (p, (s.hbmQueue p).length)
  .next { s with hbc := { s.hbc with fences := s.hbc.fences ++ [f] } }

/-- HBM_FENCE: its effect, where the write reaches HBC_FENCE (R46, R753, R770, R776). -/
def execHbmFence (ports : BitVec 8) (s : State) : Out :=
  s.reachReg .host 0x50000C (effHbmFence ports)

/-- FENCE_DONE: the oldest fence completes once every earlier request of its ports has (R656). -/
def execFenceDone (s : State) : Out :=
  match s.hbc.fences with
  | [] => .next s
  | f :: fs =>
    if f.all (fun e => decide (e.2 = 0)) then
      .next (({ s with hbc := { s.hbc with fences := fs } }.inc HBC_FENCE_SEQ).event srcHbcFence)
    else .next s

/-- HOST_BAR2_WRITE: BAR2 offset x addresses HBM byte x (R652, R812); bytes outside the write keep their values. A write
of a Scion area or of an address that is not addressable is refused and counted. bad: bit 0, the read that merges the first burst is
uncorrectable; bit 1, that of the last burst. In a reset, in Frost, in Dormant and during a
power-loss write it is discarded (R46, R753, R776). -/
def execHostBar2Write (addr : BitVec 36) (data : List Byte) (bad : BitVec 2) (s : State) : Out :=
  if s.ignored .host 0x10000 then .next s
  else if !hbmAddressable addr.toNat data.length || hbmScionArea addr.toNat data.length then .next (s.incSat HBC_REFUSED)
  else if s.segLocked addr.toNat data.length then .next (s.refuseLocked addr.toNat)
  else if s.hbmOn then .next (s.memMerge bad.toNat addr.toNat data) else .next s

/-! ## Shadow slots (R661) -/

/-- Slot k of stack m's prefetch buffer: the granules that it holds. -/
def State.shadowSlot (s : State) (m k : Nat) : List Nat := Assoc.get [] s.hbc.shadow (81 * m + k)

/-- Slot k of stack m replaced. -/
def State.setShadow (s : State) (m k : Nat) (g : List Nat) : State :=
  { s with hbc := { s.hbc with shadow := Assoc.set [] s.hbc.shadow (81 * m + k) g } }

/-- Slot k is copied into slot j in both stacks. -/
def State.shadowCopy (s : State) (k j : Nat) : State :=
  (List.range 2).foldl (fun t m => t.setShadow m j (t.shadowSlot m k)) s

/-- Slot k is moved into slot j in both stacks. -/
def State.shadowMove (s : State) (k j : Nat) : State :=
  (List.range 2).foldl (fun t m => (t.setShadow m j (t.shadowSlot m k)).setShadow m k []) s

/-- A request waits for the pause of its channel to end (R660), unless a shadow slot serves it (R661). -/
def State.hbmWaits (s : State) (p : Nat) (r : HbmReq) : Bool :=
  s.hbmPaused (s.hbmChan r.addr) && !(decide (p = 0) && !r.write &&
    (List.range 81).any fun k => (s.shadowSlot (s.hbmChan r.addr / 16) k).contains (r.addr / 64))

/-- Port 0 is served above every level: HBC_STATUS.FORCED (R654). -/
def State.hbmForced (s : State) : Bool := s.seq.running.isSome || s.seq.queued.isSome

/-- The level of a port (R653, R654). -/
def State.hbmLevel (s : State) (p : Nat) : Nat := if p = 0 && s.hbmForced then 8 else bits (s.get HBC_PORT_PRIO) (4 * p) 3

/-- Port p's oldest request is one that channel c could serve now. -/
def State.hbmContends (s : State) (c p : Nat) : Bool :=
  match s.hbmQueue p with
  | r :: _ => !r.refused && s.hbmChan r.addr == c && !s.hbmWaits p r
  | [] => false

/-- Channel c serves port p's request next: no other port's waits there at a higher level, or at the same level with its turn before, in
ascending port order from the last one served (R654). -/
def State.hbmNext (s : State) (c p : Nat) : Bool :=
  let last := Assoc.get 7 s.hbc.turn c
  (List.range 8).all fun q => q == p || !s.hbmContends c q || decide (s.hbmLevel q < s.hbmLevel p)
    || (s.hbmLevel q == s.hbmLevel p && decide ((p + 7 - last) % 8 < (q + 7 - last) % 8))

/-- The oldest request of a port can complete: the device refuses it, or its channel serves it now (R649, R654, R660, R661). -/
def State.hbmServes (s : State) (p : Nat) (r : HbmReq) : Bool :=
  r.refused || (!s.hbmWaits p r && s.hbmNext (s.hbmChan r.addr) p)

/-- The retrain cycles begin at this instant (R672). -/
def State.startCycles (s : State) : State := { s with hbc := { s.hbc with base := s.time.rc, begun := [], deferred := [] } }

/-! ## Retrain pauses -/

/-- RETRAIN_PAUSE_END: the pause ends; a failed retrain keeps the old settings and counts, and three in a row ask for
retirement (R667, R677). -/
def execRetrainPauseEnd (ch : Fin 32) (failed : Bool) (s : State) : Out :=
  let k := ch.val
  if !s.hbmPaused k then .next s
  else
    let back := if s.on HBC_RMAP_COPYING && decide (s.get HBC_RMAP_CH = k) then 2 else 0
    let s1 : State := { s.put (HBC_CH_STATUS_STATE k) back with hbc := { s.hbc with unfilled := false } }
    if failed then
      let s2 := (s1.inc (HBC_CH_NRTFAIL k)).put (HBC_CH_STATUS_RTSEQ k) (min 3 (s1.get (HBC_CH_STATUS_RTSEQ k) + 1))
      if decide (s2.get (HBC_CH_STATUS_RTSEQ k) = 3) && s2.on HBC_CTRL_AUTORETIRE then .next (s2.retireRequest k)
      else .next s2
    else .next (s1.put (HBC_CH_STATUS_RTSEQ k) 0)

/-! ## Refresh, temperature, scrub, retirement -/

/-- HBM_REFRESH: a refresh of a channel falls due (R663); in a retrain pause it is postponed, and otherwise it is made
with any postponed one. -/
def execHbmRefresh (ch : Fin 32) (s : State) : Out :=
  .next { s with hbc := { s.hbc with postponed := Assoc.set false s.hbc.postponed ch.val (s.hbmPaused ch.val) } }

/-- REFRESH_MANAGEMENT_REQUEST: the device issues the refresh management that a stack asks for (R648); it has no effect
on any state that the manual names. -/
def execRefreshManagementRequest (_ch : Fin 32) (s : State) : Out := .next s

/-- HBC_STATUS.DBL and every channel's DBL of stack m. -/
def State.setDbl (s : State) (m : Nat) (b : Bool) : State :=
  (List.range 16).foldl (fun t i => t.flag (HBC_CH_STATUS_DBL (16 * m + i)) b)
    (s.flag (if m = 0 then HBC_STATUS_DBL0 else HBC_STATUS_DBL1) b)

/-- HBM_TEMP_READ: a reading of stack m in °C (R663, R664). Above 85 the refresh interval halves; 32 readings in a row of
83 or below restore it; above 95 the stack is hot. -/
def execHbmTempRead (stack : Fin 2) (temp : BitVec 8) (s : State) : Out :=
  let m := stack.val
  let t := temp.toInt
  let hotF := if m = 0 then HBC_STATUS_HOT0 else HBC_STATUS_HOT1
  let s1 := s.put (if m = 0 then HBC_TEMP_M0 else HBC_TEMP_M1) temp.toNat
  let c := if t ≤ 83 then min 32 (Assoc.get 0 s.hbc.cool m + 1) else 0
  let s2 : State := { s1 with hbc := { s1.hbc with cool := Assoc.set 0 s1.hbc.cool m c } }
  let s3 := if 85 < t then s2.setDbl m true else if c = 32 then s2.setDbl m false else s2
  let hot := decide (95 < t)
  let s4 := s3.flag hotF hot
  .next (if hot && !s.on hotF then s4.event srcHbcHot else s4)

/-- HBM_SCRUB: the scrub reads one granule (R666). result: 0 clean, 1 corrected and written back, 2 uncorrectable, as a
poisoned granule is. -/
def execHbmScrub (granule : BitVec 30) (result : Fin 3) (s : State) : Out :=
  let g := granule.toNat
  let k := s.hbmChan (g * 64)
  if !s.on HBC_CTRL_SCRUB_EN || !s.hbmOn || !hbmAddressable (g * 64) 64 then .next s
  else if result.val = 2 || s.poisoned (g * 64) 64 then .next ({ s with poison := insertNat g s.poison }.hbmUe k true)
  else if result.val = 1 then .next (s.inc (HBC_CH_CE k))
  else .next s

/-- HBC_RETIRE: a write with GO asks for the retirement of a channel (R667). -/
def effHbcRetire (ch : Fin 32) (s : State) : Out := .next (s.retireRequest ch.val)

/-- HBC_RETIRE: its effect, where the write reaches HBC_RETIRE (R46, R753, R770, R776). -/
def execHbcRetire (ch : Fin 32) (s : State) : Out :=
  s.reachReg .host 0x500014 (effHbcRetire ch)

/-- RETIREMENT_COPY_DONE: the channel is served from the reserve from now on (R669). -/
def execRetirementCopyDone (s : State) : Out :=
  if !s.on HBC_RMAP_COPYING then .next s
  else
    let k := s.get HBC_RMAP_CH
    .next ((((((s.put HBC_RMAP_COPYING 0).put HBC_RMAP_VALID 1).put HBC_STATUS_RETBUSY 0).put HBC_RETIRE_PROG 1472).put
      (HBC_CH_STATUS_STATE k) 3).raise srcHbcRetired k 0)

end Sys2Proof.Machine
end

