-- ==== Sys2Proof/Machine/Queue.lean ====
section
/-! DEFINITION. The queue pool and the host rings (R631 to R643, R645 to R647). -/

namespace Sys2Proof.Machine

/-- Queue q. -/
def State.queue (s : State) (q : Nat) : Queue := Assoc.get Queue.closed s.que.queues q

/-- Queue q replaced. -/
def State.setQueue (s : State) (q : Nat) (v : Queue) : State :=
  { s with que := { s.que with queues := Assoc.set Queue.closed s.que.queues q v } }

/-- The cells a queue holds: n of R635. -/
def Queue.n (q : Queue) : Nat := q.cells.length

/-- The newest cell is a gap marker (R635). -/
def Queue.gapTail (q : Queue) : Bool := (q.cells.getLast?.map fun c => decide (c.ty = 2)).getD false

/-- Free cells of the pool: QUE_POOL_FREE. -/
def State.poolFree (s : State) : Nat := s.get QUE_POOL_CELLS - (s.que.queues.map fun e => e.2.n).sum

/-- Free cells beyond those kept back (R634). -/
def State.poolAvail (s : State) : Nat := s.poolFree - (s.que.queues.filter fun e => e.2.held).length

/-- No queue is open (R631). -/
def State.noQueueOpen (s : State) : Bool := s.que.queues.all fun e => !e.2.isOpen

/-- The ring that a queue is bound to (R641). -/
def State.ringOf (s : State) (q : Nat) : Option Nat :=
  (List.range 256).find? fun r => s.on (QUE_HR_STATUS_BOUND r) && decide (s.get (QUE_HR_CFG_QUEUE r) = q)

/-- Every open queue that holds no held-back cell takes one while it is below its limit and the pool has one (R635). -/
def reholdAll (avail : Nat) : List (Nat × Queue) → List (Nat × Queue)
  | [] => []
  | (k, q) :: rest =>
    if q.isOpen && !q.held && decide (q.n < q.limit) && decide (0 < avail) then
      (k, { q with held := true }) :: reholdAll (avail - 1) rest
    else (k, q) :: reholdAll avail rest

/-- The held-back cells after a change (R635). -/
def State.rehold (s : State) : State :=
  { s with que := { s.que with queues := reholdAll s.poolAvail s.que.queues } }

/-- A saturating 32-bit sum. -/
def satAdd32 (a b : Nat) : Nat := min (a + b) 0xFFFFFFFF

/-- The payload of a marker (R632). -/
def markerPayload (a b : Nat) : List (BitVec 8) := wordBytes [min a 0xFFFFFFFF, min b 0xFFFFFFFF]

/-- The cells of an item, first cell at sequence value seq (R633). -/
def itemCells (seq : Nat) (bytes : List (BitVec 8)) : List QCell :=
  let k := ceilDiv bytes.length 56
  (List.range k).map fun i =>
    ⟨1, decide (i = 0), decide (i + 1 = k), (seq + i) % 2 ^ 32, (bytes.drop (56 * i)).take 56⟩

/-- A gap marker at the tail with one more item of k cells counted (R635). -/
def addToGap (k : Nat) (cs : List QCell) : List QCell :=
  cs.dropLast ++ (cs.getLast?.map fun c =>
    { c with payload := wordBytes [satAdd32 (ofBytes (c.payload.take 4)) 1, satAdd32 (ofBytes (c.payload.drop 4)) k] }).toList

/-- An item is dropped from an open queue: its marker and its counts (R635). With no marker at the tail and no held-back
cell (log entry 16) only the counts change. -/
def State.dropItem (s : State) (q k : Nat) : State :=
  let v := s.queue q
  let v1 := { v with ndrop := satAdd32 v.ndrop 1 }
  let v2 := if v.gapTail then { v1 with cells := addToGap k v.cells }
    else if v.held then
      { v1 with cells := v.cells ++ [⟨2, true, true, v.seq, markerPayload 1 k⟩], seq := (v.seq + 1) % 2 ^ 32, held := false }
    else v1
  (((s.setQueue q v2).rehold).incSat QUE_NDROP).raise srcQueDrop q 0

/-- An item is offered to a queue (R635, R638). The code is that of R640: 0 OK, 1 DROPPED, 3 CLOSED. -/
def State.enqueue (s : State) (q : Nat) (bytes : List (BitVec 8)) : Nat × State :=
  let v := s.queue q
  let k := ceilDiv bytes.length 56
  if !v.isOpen then (3, s.incSat QUE_NDROP)
  else if decide (v.n + k + 1 ≤ v.limit) && decide (k ≤ s.poolAvail) then
    (0, (s.setQueue q { v with cells := v.cells ++ itemCells v.seq bytes, seq := (v.seq + k) % 2 ^ 32 }).rehold)
  else (1, s.dropItem q k)

/-- A hardware producer's record (R639). -/
def State.enq (s : State) (q : Nat) (bytes : List (BitVec 8)) : State := (s.enqueue q bytes).2

/-- A cell of 64 bytes: header, then payload (R632). -/
def QCell.bytes (c : QCell) : List (BitVec 8) :=
  let w0 := c.ty * 2 ^ 30 + b2n c.first * 2 ^ 29 + b2n c.last * 2 ^ 28 + c.payload.length * 2 ^ 22
  let h := wordBytes [w0, c.seq] ++ c.payload
  h ++ List.replicate (64 - h.length) 0

/-- The oldest cell leaves a queue (R636). -/
def State.dequeue (s : State) (q : Nat) : Option QCell × State :=
  let v := s.queue q
  match v.cells with
  | [] => (none, s)
  | c :: cs => (some c, (s.setQueue q { v with cells := cs }).rehold)

/-- The effect of a flush on an open queue (R637). A queue with neither a cell nor a held-back cell has no cell for its
marker (log entry 16). Markers count as cells and as no item. -/
def State.flushQueue (s : State) (q : Nat) : State :=
  let v := s.queue q
  if !v.isOpen then s
  else if v.held || decide (0 < v.n) then
    let items := (v.cells.filter fun c => decide (c.ty = 1) && c.last).length
    (s.setQueue q { v with cells := [⟨3, true, true, v.seq, markerPayload v.n items⟩], seq := (v.seq + 1) % 2 ^ 32,
                           held := false }).rehold
  else s

/-- The effect of a close (R638). -/
def State.closeQueue (s : State) (q : Nat) : State :=
  let v := s.queue q
  (s.setQueue q { v with isOpen := false, held := false, cells := [] }).rehold

/-- Ring r is unbound (R641). -/
def State.unbindRing (s : State) (r : Nat) : State := (s.put (QUE_HR_STATUS_BOUND r) 0).put (QUE_HR_CFG_BIND r) 0

/-! ## Commands -/

/-- QUEUE_OPEN: OPEN with a limit (R634, R646): ignored while open; refused out of range or where the pool cannot keep back
one more cell. SEQ starts at 0; QUE_QNDROP counts on (R645). -/
def effQueueOpen (queue : Fin 65536) (limit : BitVec 25) (s : State) : Out :=
  let q := queue.val
  if (s.queue q).isOpen then .next s
  else if limit.toNat < 2 || 16777216 < limit.toNat || s.poolAvail = 0 then .next (s.put QUE_STATUS_OPENREF 1)
  else .next (s.setQueue q ⟨true, limit.toNat, true, 0, (s.queue q).ndrop, []⟩)

/-- QUEUE_OPEN: its effect, where the write reaches QUE_CFG (R46, R753, R770, R776). -/
def execQueueOpen (queue : Fin 65536) (limit : BitVec 25) (s : State) : Out :=
  s.reachReg .host 0x4C0024 (effQueueOpen queue limit)

/-- QUEUE_CLOSE (R638, R646): refused while a ring binds the queue. -/
def effQueueClose (queue : Fin 65536) (s : State) : Out :=
  match s.ringOf queue.val with
  | some r => .next (s.put (QUE_HR_STATUS_BINDREF r) 1)
  | none => .next (s.closeQueue queue.val)

/-- QUEUE_CLOSE: its effect, where the write reaches QUE_CFG (R46, R753, R770, R776). -/
def execQueueClose (queue : Fin 65536) (s : State) : Out :=
  s.reachReg .host 0x4C0024 (effQueueClose queue)

/-- QUEUE_FLUSH (R637). -/
def effQueueFlush (queue : Fin 65536) (s : State) : Out := .next (s.flushQueue queue.val)

/-- QUEUE_FLUSH: its effect, where the write reaches QUE_CFG (R46, R753, R770, R776). -/
def execQueueFlush (queue : Fin 65536) (s : State) : Out :=
  s.reachReg .host 0x4C0024 (effQueueFlush queue)

/-- The bytes of a requester's enqueue latch (R640). -/
def State.winData (s : State) (r : Req) (len : Nat) : List (BitVec 8) :=
  (wordBytes ((List.range (ceilDiv len 4)).map fun i => s.get ((QUE_WIN_DATA i).per r))).take len

/-- The result of a window command (R640). -/
def State.winStat (s : State) (r : Req) (code : Nat) : State := s.put (QUE_WIN_STAT_RES.per r) code

/-- QUEUE_ENQ: the first LEN bytes of the requester's latch are offered as one item (R640). -/
def effQueueEnq (req : Req) (queue : Fin 65536) (len : BitVec 10) (s : State) : Out :=
  let n := len.toNat
  if n = 0 || 896 < n then .next (s.winStat req 4)
  else
    let r := s.enqueue queue.val (s.winData req n)
    .next (r.2.winStat req r.1)

/-- QUEUE_ENQ: its effect, where the write reaches QUE_WIN_CMD (R46, R753, R770, R776). -/
def execQueueEnq (req : Req) (queue : Fin 65536) (len : BitVec 10) (s : State) : Out :=
  s.reachReg req 0x4C0040 (effQueueEnq req queue len)

/-- A requester's read latch takes a cell, header first. -/
def State.loadWinRd (s : State) (r : Req) (c : QCell) : State :=
  (List.range 16).foldl (fun t i => t.put ((QUE_WIN_RD i).per r) (ofBytes ((c.bytes.drop (4 * i)).take 4))) s

/-- The cell that a dequeue hands out: where its read is uncorrectable, a gap marker of one item and one cell (R665). -/
def QCell.orGap (c : QCell) (bad : Bool) : QCell :=
  if bad then ⟨2, true, true, c.seq, markerPayload 1 1⟩ else c

/-- QUEUE_DEQ: one cell goes to the requester's read latch (R636, R640); bad: its read from HBM is uncorrectable. -/
def effQueueDeq (req : Req) (queue : Fin 65536) (bad : Bool) (s : State) : Out :=
  let q := queue.val
  if (s.ringOf q).isSome then .next (s.winStat req 4)
  else if !(s.queue q).isOpen then .next (s.winStat req 3)
  else
    match s.dequeue q with
    | (none, s1) => .next (s1.winStat req 2)
    | (some c, s1) => .next ((s1.loadWinRd req (c.orGap bad)).winStat req 0)

/-- QUEUE_DEQ: its effect, where the write reaches QUE_WIN_CMD (R46, R753, R770, R776). -/
def execQueueDeq (req : Req) (queue : Fin 65536) (bad : Bool) (s : State) : Out :=
  s.reachReg req 0x4C0040 (effQueueDeq req queue bad)

/-- HOST_RING_BIND: ring r is bound to its queue with counts of 0, or refused (R641; a SIZE outside 12 to 32 is refused,
log entry 16). -/
def effHostRingBind (ring : Fin 256) (msien : Bool) (size : BitVec 6) (queue : Fin 65536) (s : State) : Out :=
  let r := ring.val
  if s.on (QUE_HR_STATUS_BOUND r) then .next s
  else
    let s1 := ((s.flag (QUE_HR_CFG_MSIEN r) msien).put (QUE_HR_CFG_SIZE r) size.toNat).put (QUE_HR_CFG_QUEUE r) queue.val
    if (s.ringOf queue.val).isSome || !(s.queue queue.val).isOpen || size.toNat < 12 || 32 < size.toNat then
      .next (s1.put (QUE_HR_STATUS_BINDREF r) 1)
    else
      let s2 := ((s1.put (QUE_HR_CFG_BIND r) 1).put (QUE_HR_STATUS_BOUND r) 1).put64 (QUE_HR_PROD_LO r) (QUE_HR_PROD_HI r) 0
      let s3 := s2.put64 (QUE_HR_CONS_LO r) (QUE_HR_CONS_HI r) 0
      .next { s3 with que := { s3.que with cons := Assoc.set 0 s3.que.cons r 0 } }

/-- HOST_RING_BIND: its effect, where the write reaches QUE_HR_CFG (R46, R753, R770, R776). -/
def execHostRingBind (ring : Fin 256) (msien : Bool) (size : BitVec 6) (queue : Fin 65536) (s : State) : Out :=
  s.reachReg .host 0x4C1000 (effHostRingBind ring msien size queue)

/-- HOST_RING_UNBIND: a write with BIND 0 (R641, R645). -/
def effHostRingUnbind (ring : Fin 256) (msien : Bool) (size : BitVec 6) (queue : Fin 65536) (s : State) : Out :=
  let r := ring.val
  let s1 := s.unbindRing r
  .next (((s1.flag (QUE_HR_CFG_MSIEN r) msien).put (QUE_HR_CFG_SIZE r) size.toNat).put (QUE_HR_CFG_QUEUE r) queue.val)

/-- HOST_RING_UNBIND: its effect, where the write reaches QUE_HR_CFG (R46, R753, R770, R776). -/
def execHostRingUnbind (ring : Fin 256) (msien : Bool) (size : BitVec 6) (queue : Fin 65536) (s : State) : Out :=
  s.reachReg .host 0x4C1000 (effHostRingUnbind ring msien size queue)

/-- HOST_RING_CONS_WRITE: a write of CONS HI makes the pair effect, or is ignored (R641). The pair reads the count in
effect after it. -/
def effHostRingConsWrite (ring : Fin 256) (hi : BitVec 32) (s : State) : Out :=
  let r := ring.val
  let v := s.get (QUE_HR_CONS_LO r) + 2 ^ 32 * hi.toNat
  let old := Assoc.get 0 s.que.cons r
  if v < old || s.get64 (QUE_HR_PROD_LO r) (QUE_HR_PROD_HI r) < v then
    .next ((s.put64 (QUE_HR_CONS_LO r) (QUE_HR_CONS_HI r) old).put (QUE_HR_STATUS_CONSERR r) 1)
  else
    .next { s.put (QUE_HR_CONS_HI r) hi.toNat with que := { s.que with cons := Assoc.set 0 s.que.cons r v } }

/-- HOST_RING_CONS_WRITE: its effect, where the write reaches QUE_HR_CONS_HI (R46, R753, R770, R776). -/
def execHostRingConsWrite (ring : Fin 256) (hi : BitVec 32) (s : State) : Out :=
  s.reachReg .host 0x4C1024 (effHostRingConsWrite ring hi)

/-- A cell of ring r's queue is written to the ring and dequeued, m times at most, while there is room (R641). -/
def State.deliver (r q base size : Nat) (bad : Bool) : Nat → State → State
  | 0, s => s
  | m + 1, s =>
    let prod := s.get64 (QUE_HR_PROD_LO r) (QUE_HR_PROD_HI r)
    if prod - Assoc.get 0 s.que.cons r < 2 ^ size / 64 then
      match s.dequeue q with
      | (none, _) => s
      | (some c, s1) =>
        State.deliver r q base size bad m
          ((s1.toHost (.write (base + (64 * prod) % 2 ^ size) (c.orGap bad).bytes)).put64 (QUE_HR_PROD_LO r) (QUE_HR_PROD_HI r)
            (prod + 1))
    else s

/-- HOST_RING_DELIVER: a group of up to count cells goes to a bound ring; then PROD is written back and MSI-X sent (R641, R704).
bad: the reads of these cells from HBM are uncorrectable (R665). -/
def execHostRingDeliver (ring : Fin 256) (count : Fin 1024) (bad : Bool) (s : State) : Out :=
  let r := ring.val
  if !s.on (QUE_HR_STATUS_BOUND r) || !s.dmaOn then .next s
  else
    let before := s.get64 (QUE_HR_PROD_LO r) (QUE_HR_PROD_HI r)
    let s1 := s.deliver r (s.get (QUE_HR_CFG_QUEUE r)) (s.get64 (QUE_HR_BASE_LO r) (QUE_HR_BASE_HI r)) (s.get (QUE_HR_CFG_SIZE r))
      bad count.val
    let after := s1.get64 (QUE_HR_PROD_LO r) (QUE_HR_PROD_HI r)
    if after = before then .next s1
    else
      let s2 := s1.toHost (.write (s1.get64 (QUE_HR_WB_LO r) (QUE_HR_WB_HI r)) (bytesOf 8 after))
      .next (if s2.on (QUE_HR_CFG_MSIEN r) then s2.toHost (.msix (s2.get (QUE_HR_VEC r))) else s2)

/-- What a function-level reset does to the pool (R647). -/
def State.flrQueues (s : State) : State :=
  let s1 := (List.range 256).foldl (fun t r =>
    if t.on (QUE_HR_STATUS_BOUND r) then (t.unbindRing r).flushQueue (t.get (QUE_HR_CFG_QUEUE r)) else t) s
  (List.range 64).foldl (fun t n => (t.put (QUE_SITERQ_EN n) 0).put (QUE_SITERQ_Q n) 0) s1

/-- QUE_QSTAT of queue q (R645). -/
def State.qstat (s : State) (q : Nat) : Nat :=
  let v := s.queue q
  b2n v.isOpen * 2 ^ 31 + b2n v.held * 2 ^ 30 + b2n v.gapTail * 2 ^ 29 + b2n (s.ringOf q).isSome * 2 ^ 28 + v.n % 2 ^ 25

end Sys2Proof.Machine
end

