-- ==== Sys2Proof/Machine/Tasks.lean ====
section
/-! DEFINITION. Task dispatch (R616 to R630, R644). -/

namespace Sys2Proof.Machine

/-- Task k. -/
def State.task (s : State) (k : Nat) : Task := Assoc.get Task.free s.que.tasks k

/-- Task k replaced. -/
def State.setTask (s : State) (k : Nat) (t : Task) : State :=
  { s with que := { s.que with tasks := Assoc.set Task.free s.que.tasks k t } }

/-- A word of a task's descriptor as read at ARM (R616, R619). -/
def Task.word (t : Task) (i : Nat) : Nat := t.desc.getD i 0

/-- PRIO (R616). -/
def Task.prio (t : Task) : Nat := bits (t.word 0) 28 4

/-- ATOMIC (R616). -/
def Task.atomic (t : Task) : Bool := bitAt (t.word 0) 27

/-- RETRYMAX (R616). -/
def Task.retryMax (t : Task) : Nat := bits (t.word 0) 22 4

/-- FLOW (R616). -/
def Task.flow (t : Task) : Nat := bits (t.word 1) 16 16

/-- Two tasks are atomic tasks of one flow (R626). -/
def Task.sameFlow (a b : Task) : Bool := a.atomic && b.atomic && decide (a.flow = b.flow)

/-- Tasks in the ready store (R622). -/
def State.readyCount (s : State) : Nat := (s.que.tasks.filter fun e => decide (e.2.st = 2) && e.2.inStore).length

/-- A READY task waits in the overflow list: TSK_STATUS.ROVF (R622). -/
def State.readyOverflow (s : State) : Bool := s.que.tasks.any fun e => decide (e.2.st = 2) && !e.2.inStore

/-- Tasks in SERVICE on core c (R623). -/
def State.inService (s : State) (c : Nat) : Nat :=
  (s.que.tasks.filter fun e => decide (e.2.st = 3) && decide (e.2.core = c)).length

/-- A task put into a list that ascends in sequence value. -/
def bySeq (e : Nat × Task) : List (Nat × Task) → List (Nat × Task)
  | [] => [e]
  | f :: fs => if e.2.seq < f.2.seq then e :: f :: fs else f :: bySeq e fs

/-- The READY tasks outside the store, in ascending sequence value (R622). -/
def State.overflowTasks (s : State) : List (Nat × Task) :=
  (s.que.tasks.filter fun e => decide (e.2.st = 2) && !e.2.inStore).foldl (fun l e => bySeq e l) []

/-- The overflow list in HBM: one word per waiting task, from TSK_TBL_BASE + 0x200_0000 on (R622). Which place of the 4 MiB a task takes is the
model's choice: the entries stand from the start on in ascending sequence value (DESIGN CHOICE, log entry 120). -/
def State.spill (s : State) : State :=
  let l := s.overflowTasks
  if l.isEmpty then s else s.memWrite (s.get64 TSK_TBL_BASE_LO TSK_TBL_BASE_HI + 0x2000000) (wordBytes (l.map (·.1)))

/-- Task k enters READY: it takes the next sequence value unless it returns with its old one (R621), and a place in the
store if one is free, else in the overflow list (R622). -/
def State.makeReady (s : State) (k : Nat) (t : Task) (fresh : Bool) : State :=
  let t1 := { t with st := 2, seq := if fresh then s.que.readySeq else t.seq, inStore := decide (s.readyCount < 65536) }
  let s1 : State :=
    { s with que := { s.que with readySeq := if fresh then (s.que.readySeq + 1) % 2 ^ 64 else s.que.readySeq } }
  (s1.setTask k t1).spill

/-- An error of R620 or R627. -/
def State.depErr (s : State) : State := (s.incSat TSK_NDEPERR).put TSK_STATUS_DEPERR 1

/-- A decrement of task k (R620); poison marks it too (R629). -/
def State.decrement (s : State) (k : Nat) (poison : Bool) : State :=
  let t := s.task k
  if t.st = 1 then
    let t1 := { t with dep := t.dep - 1, poison := t.poison || poison }
    if t1.dep = 0 then s.makeReady k t1 true else s.setTask k t1
  else s.depErr.event srcTskDeperr

/-- A refused ARM or FREE (R618, R619). -/
def State.armRef (s : State) : State := (s.put TSK_STATUS_ARMREF 1).incSat TSK_NREFUSED

/-- A descriptor that ARM accepts for task k (R618): no reserved bit set, a core, no enabled successor that is k. -/
def descOk (k : Nat) (d : List Nat) : Bool :=
  let w (i : Nat) := d.getD i 0
  !bitAt (w 0) 26 && decide (bits (w 0) 16 6 = 0) && decide (bits (w 2) 20 11 = 0) && decide (bits (w 3) 20 11 = 0)
    && decide (bits (w 4) 16 15 = 0) && decide (bits (w 1) 0 16 ≠ 0)
    && !(bitAt (w 2) 31 && decide (bits (w 2) 0 20 = k)) && !(bitAt (w 3) 31 && decide (bits (w 3) 0 20 = k))

/-- Little-endian words of a byte string. -/
def wordsOf (bs : List (BitVec 8)) : List Nat :=
  (List.range (bs.length / 4)).map fun i => ofBytes ((bs.drop (4 * i)).take 4)

/-- TSK_ARM (R618). An uncorrectable read of the descriptor refuses the ARM (R665). -/
def effTskArm (task : Fin 1048576) (s : State) : Out :=
  let k := task.val
  let t := s.task k
  if t.st ≠ 0 && t.st ≠ 4 && t.st ≠ 5 then .next s.armRef
  else match s.hbmRead (s.get64 TSK_TBL_BASE_LO TSK_TBL_BASE_HI + 32 * k) 32 with
  | (none, s1) => .next s1.armRef
  | (some bs, s1) =>
    let d := wordsOf bs
    if !descOk k d then .next s1.armRef
    else
      let dep := bits (d.getD 0 0) 0 16
      let t1 : Task := ⟨1, dep, 0, false, 0, d, false, 0⟩
      .next (if dep = 0 then s1.makeReady k t1 true else s1.setTask k t1)

/-- TSK_ARM: its effect, where the write reaches TSK_ARM (R46, R753, R770, R776). -/
def execTskArm (task : Fin 1048576) (s : State) : Out :=
  s.reachReg .host 0x480010 (effTskArm task)

/-- TSK_DEC (R620). -/
def effTskDec (task : Fin 1048576) (s : State) : Out := .next (s.decrement task.val false)

/-- TSK_DEC: its effect, where the write reaches TSK_DEC (R46, R753, R770, R776). -/
def execTskDec (task : Fin 1048576) (s : State) : Out :=
  s.reachReg .host 0x480014 (effTskDec task)

/-- TSK_FREE (R619). -/
def effTskFree (task : Fin 1048576) (s : State) : Out :=
  let t := s.task task.val
  if t.st = 4 || t.st = 5 then .next (s.setTask task.val Task.free) else .next s.armRef

/-- TSK_FREE: its effect, where the write reaches TSK_FREE (R46, R753, R770, R776). -/
def execTskFree (task : Fin 1048576) (s : State) : Out :=
  s.reachReg .host 0x480018 (effTskFree task)

/-- TSK_REQ: a Scion asks for a task (R623). -/
def effTskReq (core : Fin 16) (s : State) : Out := .next (s.put (TSK_C_REQ_REQ core.val) 1)

/-- TSK_REQ: its effect, where the write reaches TSK_C_REQ (R46, R753, R770, R776). -/
def execTskReq (core : Fin 16) (s : State) : Out :=
  s.reachReg (Req.scion core) (0x481000+0x100*core.val) (effTskReq core)

/-- A Scion comes to a state of R613. A request that is pending when the core leaves RUN is discarded (R625). -/
def State.setScn (s : State) (c st : Nat) : State :=
  let s1 := if s.get (SCN_STATUS_STATE c) = 1 && st != 1 then s.put (TSK_C_REQ_REQ c) 0 else s
  s1.put (SCN_STATUS_STATE c) st

/-- Scion c is able to take a task (R623). -/
def State.ableToTake (s : State) (c : Nat) : Bool :=
  decide (s.get (SCN_STATUS_STATE c) = 1) && s.on (TSK_C_REQ_REQ c) && !s.on (TSK_C_WINSTAT_VALID c)
    && decide (s.inService c < 4)

/-- Task (k, t) is eligible for core c in a round that has given the tasks of the list (R623, R626). -/
def State.eligible (s : State) (given : List Nat) (c k : Nat) (t : Task) : Bool :=
  decide (t.st = 2) && t.inStore && bitAt (t.word 1) c && !given.contains k
    && (!t.atomic || s.que.tasks.all fun e =>
      decide (e.1 = k) || !e.2.sameFlow t
        || !(decide (e.2.st = 3) || given.contains e.1 || (decide (e.2.st = 2) && decide (e.2.seq < t.seq))))

/-- The earlier of two tasks in dispatch order (R621). -/
def firstOf : Option (Nat × Task) → Nat × Task → Option (Nat × Task)
  | none, e => some e
  | some a, e =>
    if a.2.prio < e.2.prio || (a.2.prio = e.2.prio && e.2.seq < a.2.seq) then some e else some a

/-- The first eligible task for core c in dispatch order (R624). -/
def State.firstEligible (s : State) (given : List Nat) (c : Nat) : Option (Nat × Task) :=
  (s.que.tasks.filter fun e => s.eligible given c e.1 e.2).foldl firstOf none

/-- The round of R624 over the given cores, ascending: (core, task) pairs. -/
def State.round (s : State) : List Nat → List (Nat × Nat) → List (Nat × Nat)
  | [], acc => acc
  | c :: cs, acc =>
    if s.ableToTake c then
      match s.firstEligible (acc.map (·.2)) c with
      | some e => s.round cs (acc ++ [(c, e.1)])
      | none => s.round cs acc
    else s.round cs acc

/-- TASK_DELIVER: the task that a round gives the core appears in its window and enters SERVICE (R624). The round is taken
on the state in which the delivery is made (log entry 8). -/
def execTaskDeliver (core : Fin 16) (s : State) : Out :=
  let c := core.val
  match (s.round (List.range 16) []).find? (fun e => decide (e.1 = c)) with
  | none => .next s
  | some (_, k) =>
    let t := s.task k
    let s1 := s.setTask k { t with st := 3, inStore := false, core := c }
    let s2 := (((s1.put (TSK_C_WINSTAT_VALID c) 1).flag (TSK_C_WINSTAT_POISON c) t.poison).put (TSK_C_WINSTAT_RETRY c)
      (min 15 t.retry)).put (TSK_C_WINSTAT_TASK c) k
    let s3 := (List.range 8).foldl (fun u i => u.put (TSK_C_WIN c i) (t.word i)) s2
    .next (((s3.put (TSK_C_REQ_REQ c) 0).inc TSK_NDISP).raise (srcTskDisp c) c 0)

/-- TASK_OVERFLOW_MOVE: the overflow task of the lowest sequence value enters a free entry of the store (R622). -/
def execTaskOverflowMove (s : State) : Out :=
  match (s.que.tasks.filter fun e => decide (e.2.st = 2) && !e.2.inStore).foldl
      (fun a e => match a with
        | none => some e
        | some b => if e.2.seq < b.2.seq then some e else some b) none with
  | none => .next s
  | some (k, t) => if s.readyCount < 65536 then .next (s.setTask k { t with inStore := true }).spill else .next s

/-- The completion record of R629. -/
def completionRecord (k : Nat) (t : Task) (ok : Bool) (gvc : Nat) : List (BitVec 8) :=
  wordBytes [k, (if ok then 1 else 3) * 2 ^ 30 + min 15 t.retry * 2 ^ 24 + b2n t.poison * 2 ^ 23 + t.flow,
    gvc % 2 ^ 32, gvc / 2 ^ 32]

/-- The successors that a descriptor enables, SUCC0 first. -/
def Task.succs (t : Task) : List Nat :=
  (if bitAt (t.word 2) 31 then [bits (t.word 2) 0 20] else []) ++ (if bitAt (t.word 3) 31 then [bits (t.word 3) 0 20] else [])

/-- Task k completes with OK or FAIL (R629). -/
def State.complete (s : State) (k : Nat) (t : Task) (ok : Bool) : State :=
  let s1 := s.setTask k { t with st := if ok then 4 else 5 }
  let s2 := if ok then s1.inc TSK_NDONE else (s1.inc TSK_NFAIL).event srcTskFail
  let s3 := t.succs.foldl (fun u j => u.decrement j (!ok)) s2
  if bitAt (t.word 4) 31 then s3.enq (bits (t.word 4) 0 16) (completionRecord k t ok s3.clk.gvc) else s3

/-- Task k, in SERVICE, is retried (R628, R630). -/
def State.retryTask (s : State) (k : Nat) (t : Task) : State :=
  let t1 := { t with retry := t.retry + 1 }
  if t.retryMax < t1.retry then s.complete k t1 false else (s.makeReady k t1 false).inc TSK_NRETRY

/-- A completion of task k by core c, discarded unless the task is in SERVICE there (R627). -/
def State.onDone (s : State) (c k : Nat) (f : Task → State) : State :=
  let t := s.task k
  if t.st = 3 && t.core = c then f t else s.depErr

/-- TASK_DONE_OK (R629). -/
def effTaskDoneOk (core : Fin 16) (task : Fin 1048576) (s : State) : Out :=
  .next (s.onDone core.val task.val fun t => s.complete task.val t true)

/-- TASK_DONE_OK: its effect, where the write reaches TSK_C_DONE (R46, R753, R770, R776). -/
def execTaskDoneOk (core : Fin 16) (task : Fin 1048576) (s : State) : Out :=
  s.reachReg (Req.scion core) (0x481028+0x100*core.val) (effTaskDoneOk core task)

/-- TASK_RETRY (R628). -/
def effTaskRetry (core : Fin 16) (task : Fin 1048576) (s : State) : Out :=
  .next (s.onDone core.val task.val fun t => s.retryTask task.val t)

/-- TASK_RETRY: its effect, where the write reaches TSK_C_DONE (R46, R753, R770, R776). -/
def execTaskRetry (core : Fin 16) (task : Fin 1048576) (s : State) : Out :=
  s.reachReg (Req.scion core) (0x481028+0x100*core.val) (effTaskRetry core task)

/-- TASK_DONE_FAIL (R629). -/
def effTaskDoneFail (core : Fin 16) (task : Fin 1048576) (s : State) : Out :=
  .next (s.onDone core.val task.val fun t => s.complete task.val t false)

/-- TASK_DONE_FAIL: its effect, where the write reaches TSK_C_DONE (R46, R753, R770, R776). -/
def execTaskDoneFail (core : Fin 16) (task : Fin 1048576) (s : State) : Out :=
  s.reachReg (Req.scion core) (0x481028+0x100*core.val) (effTaskDoneFail core task)

/-- Every task in SERVICE on core c is handled as a RETRY, in ascending index (R605, R630). -/
def State.retryCore (s : State) (c : Nat) : State :=
  (s.que.tasks.filter fun e => decide (e.2.st = 3) && decide (e.2.core = c)).foldl (fun u e => u.retryTask e.1 e.2) s

/-- TSK_QSTATE of task k (R644). -/
def State.tskQstate (s : State) (k : Nat) : Nat :=
  let t := s.task k
  t.st * 2 ^ 29 + b2n t.poison * 2 ^ 28 + min 15 t.retry * 2 ^ 24 + t.dep % 2 ^ 16

end Sys2Proof.Machine
end

