-- ==== Sys2Proof/Machine/Verdict.lean ====
section
/-! DEFINITION. Verdict intervals, causes of INVALID and verdict records (R94 to R105, R112, R113, R643). -/

namespace Sys2Proof.Machine

/-- The settle GVC of an interval that has ended (R96). -/
def Interval.settle (i : Interval) : Option Nat := i.last.map (· + 108)

/-- The interval is open at GVC g, or its settle GVC has not passed (R97, R100). -/
def Interval.running (i : Interval) (g : Nat) : Bool :=
  !i.held && match i.settle with
    | none => true
    | some t => decide (g ≤ t)

/-- The running sites at this instant (R100), as a mask. -/
def State.runningSites (s : State) : Nat :=
  s.cmt.intervals.foldl (fun m i => if i.running s.clk.gvc then m ||| 2 ^ i.site else m) 0

/-- Every interval changed by f. -/
def State.mapIntervals (s : State) (f : Interval → Interval) : State :=
  { s with cmt := { s.cmt with intervals := s.cmt.intervals.map f } }

/-- A cause bit is recorded against the sites of a mask (R97, R98, R100): in every interval of theirs that runs now. -/
def State.recordCause (s : State) (sites bit : Nat) : State :=
  s.mapIntervals fun i =>
    if bitAt sites i.site && i.running s.clk.gvc then { i with cause := setBitN i.cause bit } else i

/-- A cause recorded against every running site. -/
def State.recordAll (s : State) (bit : Nat) : State := s.recordCause allSites bit

/-- A channel became untrusted: cause UNTR, in intervals whose PASS is held too (R100, R101). R101 names a failed readback; that any other
marking of the channel withdraws a held PASS too is the model's reading (DEDUCED, log entry 103). -/
def State.recordUntr (s : State) (sites : Nat) : State :=
  s.mapIntervals fun i =>
    if bitAt sites i.site && (i.running s.clk.gvc || i.held) then { i with cause := setBitN i.cause 5 } else i

/-- The open intervals of the sites of a mask end at cycle g (R95). -/
def State.endIntervals (s : State) (sites g : Nat) : State :=
  s.mapIntervals fun i => if bitAt sites i.site && i.last.isNone then { i with last := some g } else i

/-- Intervals open at cycle g for the sites of a mask (R95); a lost commit that no later one has ended marks them (R80),
so do an untrusted channel of the site (R381) and a tripped one (R504). -/
def State.openIntervals (s : State) (sites untr tripped g num : Nat) : State :=
  let lost := if s.cmt.lostMark.isSome then 16 else 0
  let new := ((List.range 64).filter (bitAt sites)).map fun n =>
    (⟨n, g, none, lost + (if bitAt untr n then 32 else 0) + (if bitAt tripped n then 64 else 0), false, false, 0, num, false, 0, 0⟩ : Interval)
  { s with cmt := { s.cmt with intervals := s.cmt.intervals ++ new } }

/-- A compare of the site in the vector of cycle g is evaluated, and failed unmasked or not (R97, R99). -/
def State.noteCompare (s : State) (site g : Nat) (failed : Bool) : State :=
  s.mapIntervals fun i =>
    if i.site = site && decide (i.opened ≤ g) && i.last.all (fun l => decide (g ≤ l)) && i.running s.clk.gvc then
      { i with evaluated := true, failed := i.failed || failed }
    else i

/-- The verdict code of an interval once settled (R97 to R99). -/
def Interval.verdict (i : Interval) : Nat := if i.cause ≠ 0 then 3 else if i.failed then 2 else 1

/-- The 32 bytes of a verdict record (R103). -/
def verdictRecord (i : Interval) (devid : Nat) : List (BitVec 8) :=
  let t := i.settle.getD 0
  let body := wordBytes [t % 2 ^ 32, t / 2 ^ 32, i.opened % 2 ^ 32, i.opened / 2 ^ 32,
    i.verdict * 2 ^ 30 + i.site * 2 ^ 24 + i.cause, i.gen * 2 ^ 16 + i.playlist, i.fails] ++ bytesOf 2 devid
  body ++ bytesOf 2 (crc16 body)

/-- A verdict record goes to the site's result queue, or is dropped and counted (R103, R643). -/
def State.writeVerdict (s : State) (i : Interval) : State :=
  let q := s.get (QUE_SITERQ_Q i.site)
  if s.on (QUE_SITERQ_EN i.site) && (s.queue q).isOpen then s.enq q (verdictRecord i (s.get CLK_DEVID))
  else (s.incSat QUE_NVRDROP).raise srcQueVrdrop q 0

/-- The entry of a site among the released verdicts: the word of its newest released interval, with 2^32 for every older one of the
site that still waits (R113); p older ones wait behind a word that is released now. -/
def releasedWord (old p word : Nat) : Nat := if p < old / 2 ^ 32 then old - 2 ^ 32 else p * 2 ^ 32 + word

/-- The older intervals of a site before place k that wait. -/
def olderOf (is : List Interval) (k site : Nat) : Nat := ((is.take k).filter fun x => decide (x.site = site)).length

/-- The interval at place k of the list is released (R101, R103, R113). -/
def State.releaseAt (s : State) (k : Nat) (i : Interval) : State :=
  let word := releasedWord (Assoc.get 0 s.cmt.verdicts i.site) (olderOf s.cmt.intervals k i.site) (i.verdict * 2 ^ 30 + i.cause)
  ({ s with cmt := { s.cmt with intervals := s.cmt.intervals.eraseIdx k
                                verdicts := Assoc.set 0 s.cmt.verdicts i.site word } }).writeVerdict i

/-- Channel c has completed a good readback pass that began since the hold count reached t (R101, R380). -/
def State.readBackAfter (s : State) (c t : Nat) : Bool :=
  match (Assoc.get Readback.none s.land.readback c).good with
  | some g => decide (t ≤ g)
  | none => false

/-- VERDICT_RELEASE: a held PASS is released once every channel of its site has been read back after the settle GVC, or as
INVALID with cause UNTR if a readback failed (R101); not while the clocks are stopped (R752). -/
def execVerdictRelease (site : Fin 64) (s : State) : Out :=
  let ok (i : Interval) := decide (i.site = site.val) && i.held
  match s.cmt.intervals.find? ok, indexOf? ok s.cmt.intervals with
  | some i, some k =>
    let done := (List.range 256).all fun c => decide (s.siteOf c ≠ some site.val) || s.readBackAfter c i.heldAt
    if (i.cause ≠ 0 || done) && !s.frozen then .next (s.releaseAt k i) else .next s
  | _, _ => .next s

/-- CMT_VRD_SITEn, live (R113): a newer interval has opened behind the one shown where one waits behind it or has been released already. -/
def State.vrdSite (s : State) (n : Nat) : Nat :=
  match s.cmt.intervals.filter fun i => decide (i.site = n) with
  | [] => Assoc.get 0 s.cmt.verdicts n
  | i :: rest => (if i.cause ≠ 0 then 3 * 2 ^ 30 else 0) + 2 ^ 29 +
    (if rest.isEmpty && decide (Assoc.get 0 s.cmt.verdicts n < 2 ^ 32) then 0 else 2 ^ 28) + i.cause

end Sys2Proof.Machine
end

