-- ==== Sys2Proof/Machine/CtrlStore.lean ====
section
/-! DEFINITION. The staging latches and the control store (R156 to R160, R192 to R209): slot writes, the loader, the scrub
and the reads of the sequencer. -/

namespace Sys2Proof.Machine

/-! ## Staging latches (R192, R194): table 0 the control store, 1 and 2 the programs of APG-A and APG-B, 3 timing sets,
4 level sets -/

/-- The latch of a requester for a table. -/
def State.latch (s : State) (table : Nat) (r : Req) : Latch := Assoc.get Latch.empty s.latches (32 * table + r.idx)

/-- The latch of a requester replaced. -/
def State.setLatch (s : State) (table : Nat) (r : Req) (l : Latch) : State :=
  { s with latches := Assoc.set Latch.empty s.latches (32 * table + r.idx) l }

/-- A word goes to a requester's latch; another entry's earlier contents are discarded (R192, R194). -/
def State.latchWord (s : State) (table : Nat) (r : Req) (key i v : Nat) : State :=
  let l := s.latch table r
  let ws := if l.key = key then l.words else []
  s.setLatch table r ⟨key, Assoc.insert ws i v⟩

/-- The latch is emptied (R193). -/
def State.emptyLatch (s : State) (table : Nat) (r : Req) : State := s.setLatch table r Latch.empty

/-- Word i of an entry as a completing write takes it: from the latch if it holds it, else the given one (R340). -/
def State.merged (s : State) (table : Nat) (r : Req) (key : Nat) (old : Nat → Nat) (i : Nat) : Nat :=
  let l := s.latch table r
  if l.key = key then Assoc.get (old i) l.words i else old i

/-! ## Slots -/

/-- Slot n of the control store. -/
def State.slot (s : State) (n : Nat) : Slot := Assoc.get Slot.empty s.seq.store n

/-- Slot n replaced. -/
def State.setSlot (s : State) (n : Nat) (v : Slot) : State :=
  { s with seq := { s.seq with store := Assoc.set Slot.empty s.seq.store n v } }

/-- MWSTAT (R158, R191). -/
def Slot.stat (v : Slot) : Nat :=
  b2n v.valid * 2 ^ 31 + b2n (v.valid && mwWaiting v.mw) * 2 ^ 30 + (if v.valid then 0 else v.reason * 2 ^ 24)

/-- Slot n lies in the program range of the running or the queued playlist (R202). -/
def State.slotLocked (s : State) (n : Nat) : Bool :=
  let inr (p : Playlist) := decide (p.first ≤ n) && decide (n ≤ p.last)
  (s.seq.running.map inr).getD false || (s.seq.queued.map inr).getD false

/-- A checked write of a whole slot (R189, R190, R197, R198). -/
def State.writeSlot (s : State) (n mw chk : Nat) : State :=
  if chk ≠ checkBits mw n then
    (((s.setSlot n ⟨mw, chk, false, 1, 0⟩).put SEQ_CS_STATUS_LASTREASON 1).put SEQ_CS_STATUS_CHKERR 1).event srcSeqCsWerr
  else if mwReason mw ≠ 0 then (s.setSlot n ⟨mw, chk, false, mwReason mw, 0⟩).put SEQ_CS_STATUS_LASTREASON (mwReason mw)
  else s.setSlot n ⟨mw, chk, true, 0, 0⟩

/-- CS_LATCH_WRITE: a write of MW0 to MW5 (R192, R194). -/
def effCsLatchWrite (req : Req) (slot : Fin 262144) (word : Fin 6) (data : BitVec 32) (s : State) : Out :=
  .next (s.latchWord 0 req slot.val word.val data.toNat)

/-- CS_LATCH_WRITE: its effect, where the write reaches the control store (R46, R753, R770, R776). -/
def execCsLatchWrite (req : Req) (slot : Fin 262144) (word : Fin 6) (data : BitVec 32) (s : State) : Out :=
  s.reachReg req 0x4000000 (effCsLatchWrite req slot word data)

/-- The 192 bits of a full latch. -/
def Latch.value (l : Latch) : Nat := ofBytes (wordBytes ((List.range 6).map fun i => Assoc.get 0 l.words i))

/-- CS_SLOT_WRITE: a write of MWCHK checks the latch and writes the slot whole, or is refused under a lock (R193 to R198,
R203). -/
def effCsSlotWrite (req : Req) (slot : Fin 262144) (chk : BitVec 16) (s : State) : Out :=
  let n := slot.val
  let l := s.latch 0 req
  let s1 := s.emptyLatch 0 req
  if s.slotLocked n then .next ((s1.incSat SEQ_CS_WREFUSED).event srcSeqCsWlock)
  else if l.key = n && l.words.length = 6 then .next (s1.writeSlot n l.value chk.toNat)
  else
    .next ((((s1.setSlot n { s1.slot n with valid := false, reason := 2 }).put SEQ_CS_STATUS_LASTREASON 2).put
      SEQ_CS_STATUS_CHKERR 1).event srcSeqCsWerr)

/-- CS_SLOT_WRITE: its effect, where the write reaches the control store (R46, R753, R770, R776). -/
def execCsSlotWrite (req : Req) (slot : Fin 262144) (chk : BitVec 16) (s : State) : Out :=
  s.reachReg req 0x4000000 (effCsSlotWrite req slot chk)

/-! ## The loader -/

/-- The loader asks HBM for its next image, unless it has read its last one or ABORT has been written (R199, R208). -/
def State.cslAsk (s : State) : State :=
  match s.seq.csl with
  | some r =>
    let more := decide (r.done < r.count) && !r.aborted
    let s1 : State := { s with seq := { s.seq with csl := some { r with reading := more } } }
    if more then s1.askImage 1 (r.src + 32 * r.done) 32 else s1
  | none => s

/-- CSL_GO (R199, R208). SRC, DST and COUNT are taken here; that a write of them while the load runs does not change it is the model's
choice (DESIGN CHOICE, log entry 108). -/
def effCslGo (s : State) : Out :=
  if s.on SEQ_CS_STATUS_LBUSY then .next (s.put SEQ_CS_STATUS_LREF 1)
  else
    let run : LoaderRun := ⟨s.get64 SEQ_CSL_SRC_LO SEQ_CSL_SRC_HI, s.get SEQ_CSL_DST, s.get SEQ_CSL_COUNT, false, 0, 0, false⟩
    .next ({ ((s.put SEQ_CS_STATUS_LBUSY 1).put SEQ_CSL_DONE 0).put SEQ_CSL_BAD 0 with seq := { s.seq with csl := some run } } : State).cslAsk

/-- CSL_GO: its effect, where the write reaches SEQ_CS_CTRL (R46, R753, R770, R776). -/
def execCslGo (s : State) : Out :=
  s.reachReg .host 0x80800 effCslGo

/-- CSL_ABORT: the loader stops after the image in progress (R208). -/
def effCslAbort (s : State) : Out :=
  .next { s with seq := { s.seq with csl := s.seq.csl.map fun r => { r with aborted := true } } }

/-- CSL_ABORT: its effect, where the write reaches SEQ_CS_CTRL (R46, R753, R770, R776). -/
def execCslAbort (s : State) : Out :=
  s.reachReg .host 0x80800 effCslAbort

/-- One image of a load (R199, R200, R203, R665): its bytes, none where they are uncorrectable. A slot beyond the store takes nothing and
counts as bad (log entry 19). -/
def State.loadImage (s1 : State) (r : Option (List (BitVec 8))) (n : Nat) : State :=
  let s2 :=
    if 262144 ≤ n then s1.inc SEQ_CSL_BAD
    else if s1.slotLocked n then ((s1.inc SEQ_CSL_BAD).incSat SEQ_CS_WREFUSED).event srcSeqCsWlock
    else
      match r with
      | some bs =>
        let s2 := s1.writeSlot n (ofBytes (bs.take 24)) (ofBytes ((bs.drop 24).take 2))
        if (s2.slot n).valid then s2 else s2.inc SEQ_CSL_BAD
      | none =>
        let (a, s2) := s1.free
        let (b, s3) := s2.free
        ((((s3.setSlot n ⟨a % 2 ^ 192, b % 2 ^ 16, false, 1, 0⟩).put SEQ_CS_STATUS_LASTREASON 1).put
          SEQ_CS_STATUS_CHKERR 1).event srcSeqCsWerr).inc SEQ_CSL_BAD
  s2.inc SEQ_CSL_DONE

/-- An image that the loader asked for has come: it is checked and written, and the next one is asked for (R199, R200). -/
def State.cslStep (s : State) (d : Option (List (BitVec 8))) : State :=
  match s.seq.csl with
  | some r =>
    let s1 := s.loadImage d (r.dst + r.done)
    ({ s1 with seq := { s1.seq with csl := some { r with done := r.done + 1, reading := false } } } : State).cslAsk
  | none => s

/-- CSL_DONE: the loader has processed its last image, or the image in progress at ABORT (R200). -/
def execCslDone (s : State) : Out :=
  match s.seq.csl with
  | none => .next s
  | some r =>
    if r.reading then .next s
    else .next { (s.put SEQ_CS_STATUS_LBUSY 0).put SEQ_CS_STATUS_LDONE 1 with seq := { s.seq with csl := none } }

/-! ## Reads and the scrub -/

/-- SEQ_CS_LASTERR (R207). -/
def State.csLastErr (s : State) (n : Nat) (unc addr : Bool) : State :=
  ((s.flag SEQ_CS_LASTERR_UNC unc).flag SEQ_CS_LASTERR_ADDR addr).put SEQ_CS_LASTERR_SLOT n

/-- An uncorrectable result, by read or by scrub (R204, R206). -/
def State.csUe (s : State) (n : Nat) (addr : Bool) : State :=
  (((s.inc SEQ_CS_UE).put SEQ_CS_STATUS_UE 1).csLastErr n true addr).event srcSeqCsUerr

/-- A row with bits that have been upset since the last read of it. -/
def Slot.upsetBy (v : Slot) (flip : Nat) : Slot := { v with upset := v.upset ^^^ flip }

/-- The row as it stands, upset bits and all: nb protected bits and the check bits. -/
def Slot.row (v : Slot) (nb : Nat) : Nat × Nat := (v.mw ^^^ v.upset % 2 ^ nb, v.chk ^^^ v.upset / 2 ^ nb % 2 ^ 16)

/-- The sequencer reads slot n; flip: bits of the row that have been upset since its last read (R188, R206). none:
uncorrectable, an address error, or a slot that is not valid. -/
def State.csRead (s0 : State) (n flip : Nat) : Option Nat × State :=
  let v := (s0.slot n).upsetBy flip
  let s := if flip = 0 then s0 else s0.setSlot n v
  if !v.valid then (none, s.csUe n false)
  else
    match readRow (v.row 192).1 (v.row 192).2 n with
    | .clean w => (some w, s)
    | .corrected w => (some w, (s.inc SEQ_CS_CE).csLastErr n false false)
    | .addressError => (none, s.csUe n true)
    | .uncorrectable => (none, s.csUe n false)

/-- CS_SCRUB: the scrub checks one valid slot (R204): a corrected word is written back in place, an uncorrectable one loses VALID. -/
def execCsScrub (slot : Fin 262144) (flip : BitVec 208) (s : State) : Out :=
  let n := slot.val
  let v := (s.slot n).upsetBy flip.toNat
  if !s.on SEQ_CS_CTRL_SCRUB_EN || !v.valid then .next s
  else
    match s.csRead n flip.toNat with
    | (some w, s1) => .next (s1.setSlot n { v with mw := w, chk := checkBits w n, upset := 0 })
    | (none, s1) => .next (s1.setSlot n { v with valid := false, reason := 0xD })

/-- The numbers that the valid slots of the control store name in a field (R345, R370, R390). -/
def State.namedBy (s : State) (f : Nat → Nat) (k : Nat) : Bool := s.seq.store.any fun e => e.2.valid && f e.2.mw == k

/-- SEQ_CS_NINVALID (R207). -/
def State.csInvalid (s : State) : Nat := 262144 - (s.seq.store.filter fun e => e.2.valid).length

end Sys2Proof.Machine
end

