-- ==== Sys2Proof/Machine/Entries.lean ====
section
/-! DEFINITION. Timing-set and level-set entries: their fields, the validators (R342, R369), their writes (R340, R341, R368),
references and validity (R345, R370, R823), and the locks and marks of commit-class entries (R64, R76, R822). -/

namespace Sys2Proof.Machine

/-! ## Commit classes -/

/-- A class is locked by the vote window (R76). -/
def State.classLocked (s : State) (cls : Nat) : Bool :=
  s.on CMT_STATUS_LOCKED && (s.cmt.commit.map fun c => bitAt c.scope cls).getD false

/-- A write refused under R76. -/
def State.refuseRwc (s : State) : State := (s.incSat CMT_WREFUSED).event srcCmtWrefuse

/-- The shadow entry of a class at an offset is written: it carries a good check code and no reserved bit (R822). -/
def State.cleanShadow (s : State) (cls off : Nat) : State :=
  { s with cmt := { s.cmt with shadowBad := s.cmt.shadowBad.filter fun e => e ≠ (cls, off)
                               resvShadow := s.cmt.resvShadow.filter fun e => e ≠ (cls, off) } }

/-- The active entry at an offset fails its check code at every read (R822). -/
def State.activeMarked (s : State) (off : Nat) : Bool := s.cmt.activeBad.any fun e => e.2 == off

/-! ## Timing-set entries (R328 to R330, R337) -/

/-- The offset of timing-set entry k of channel c. -/
def tsOff (c k : Nat) : Nat := (PTF_TS_W c k 0).off

/-- Word i of an entry in a bank. -/
def tsWord (b : Cells) (c k i : Nat) : Nat := bankGet b (PTF_TS_W c k i)

/-- An edge word: EN and TIME (R330). -/
def edgeEn (w : Nat) : Bool := bitAt w 31

/-- TIME of an edge word, in 0.5 ps. -/
def edgeTime (w : Nat) : Nat := bits w 0 18

/-- The times of the enabled edges of a list of words. -/
def enabledTimes (ws : List Nat) : List Nat := (ws.filter edgeEn).map edgeTime

/-- The mode in force is format mode (R327). -/
def VSet.format (v : VSet) : Bool := decide (v.uipv = 0)

/-- Test 0x1 of R342. -/
def tsReservedOk (w : Nat → Nat) : Bool :=
  let cfg := w 6
  decide (bits cfg 5 26 = 0) && !bitAt cfg 3 &&
    (if bitAt cfg 31 then
      decide (bits (w 0) 16 16 = 0) && decide (bits (w 1) 16 16 = 0) && decide (bits (w 2) 14 18 = 0)
        && decide (bits (w 2) 5 3 = 0) && w 3 == 0 && w 4 == 0 && w 5 == 0
    else (List.range 6).all fun i => decide (bits (w i) 18 13 = 0) && (edgeEn (w i) || decide (edgeTime (w i) = 0)))

/-- The enabled edges match the row of the format in R332. -/
def formatOk (fmt : Nat) (don dda drt : Bool) : Bool :=
  if fmt = 0 then !drt
  else if fmt = 1 || fmt = 2 then dda == drt
  else if fmt = 3 then !don && dda == drt
  else if fmt = 4 then don && dda && drt
  else if fmt = 5 || fmt = 6 then !don && !drt
  else false

/-- Edge order of test 0x5: DON ≤ DDA < DRT < DOF among those enabled, DON < DDA under SBC. -/
def orderOk (fmt : Nat) (w : Nat → Nat) : Bool :=
  let lt (i j : Nat) := !(edgeEn (w i) && edgeEn (w j)) || decide (edgeTime (w i) < edgeTime (w j))
  let le := !(edgeEn (w 0) && edgeEn (w 1)) || decide (edgeTime (w 0) ≤ edgeTime (w 1))
  le && (fmt != 4 || lt 0 1) && lt 0 2 && lt 0 3 && lt 1 2 && lt 1 3 && lt 2 3

/-- No two enabled drive edges with different times are less than 110 ps apart (test 0x6). -/
def spacingOk (w : Nat → Nat) : Bool :=
  let ts := enabledTimes [w 0, w 1, w 2, w 3]
  ts.all fun a => ts.all fun b => decide (b ≤ a) || decide (a + 220 ≤ b)

/-- DOF_eff of R333. -/
def dofEff (w : Nat → Nat) : Nat := if edgeEn (w 3) then edgeTime (w 3) else 0

/-- CMPWIN. -/
def tsWindow (w : Nat → Nat) : Bool := bitAt (w 6) 4

/-- FMT. -/
def tsFmt (w : Nat → Nat) : Nat := bits (w 6) 0 3

/-- The word that holds the first sample point, if there is one (test 0x7). -/
def firstSample (w : Nat → Nat) : Option Nat :=
  if !edgeEn (w 5) then none
  else if tsWindow w then (if edgeEn (w 4) then some (edgeTime (w 4)) else none) else some (edgeTime (w 5))

/-- Test 0x8 of R342 in format mode. -/
def windowOk (w : Nat → Nat) : Bool :=
  if tsWindow w then edgeEn (w 4) && edgeEn (w 5) && decide (edgeTime (w 4) + 500 ≤ edgeTime (w 5)) else !edgeEn (w 4)

/-- DSK, STB, PRE and POST of R337. -/
def tsDsk (w : Nat → Nat) : Int := signedOf 16 (w 0)
/-- STB. -/
def tsStb (w : Nat → Nat) : Nat := bits (w 1) 0 16
/-- PRE. -/
def tsPre (w : Nat → Nat) : Nat := bits (w 2) 0 5
/-- POST. -/
def tsPost (w : Nat → Nat) : Nat := bits (w 2) 8 6

/-- REASON of R342 at a VCLK setting: the lowest failing test, 0 for a valid entry. T is 20,000 × den / num half-picoseconds,
compared exactly (R343). -/
def tsReason (v : VSet) (w : Nat → Nat) : Nat :=
  let serial := bitAt (w 6) 31
  if !tsReservedOk w then 1
  else if serial == v.format then 2
  else if serial then
    if tsFmt w ≠ 0 then 4
    else if tsWindow w then 8
    else if tsDsk w < -4000 || 4000 < tsDsk w then 9
    else if 20000 * v.den ≤ tsStb w * v.uis * v.num then 0xA
    else if 16 < tsPre w || 24 < tsPost w || 32 < tsPre w + tsPost w then 0xB
    else 0
  else
    if (enabledTimes [w 0, w 1, w 2, w 3, w 4, w 5]).any (fun t => decide (80000 * v.den ≤ t * v.num)) then 3
    else if tsFmt w = 7 || !formatOk (tsFmt w) (edgeEn (w 0)) (edgeEn (w 1)) (edgeEn (w 2)) then 4
    else if !orderOk (tsFmt w) w then 5
    else if !spacingOk w then 6
    else if (firstSample w).any (fun t => decide (t < dofEff w + 900)) then 7
    else if !windowOk w then 8
    else 0

/-- VALID and REASON words of PTF_TS_STAT and LVL_LS_STAT (R329, R362). -/
def statWord (reason : Nat) : Nat := if reason = 0 then 2 ^ 31 else reason * 2 ^ 24

/-- REASON of the shadow entry. -/
def State.tsShadowReason (s : State) (c k : Nat) : Nat := tsReason s.clk.vset (tsWord s.shadow c k)

/-- The validity flag of R823 of an active timing-set entry. -/
def State.tsFlag (s : State) (c k : Nat) : Bool :=
  tsReason s.clk.vset (tsWord s.active c k) == 0 && !s.cmt.flagCleared.contains (tsOff c k) && !s.activeMarked (tsOff c k)

/-- Timing set k is referenced (R345). -/
def State.tsRef (s : State) (k : Nat) : Bool := s.namedBy mwTset k

/-- PTF_LATCH: a write of PTF_TS_E0 to E5 (R340). -/
def effPtfTsLatchWrite (req : Req) (ch : Fin 256) (entry : Fin 1024) (word : Fin 6) (data : BitVec 32) (s : State) : Out :=
  .next (s.latchWord 3 req (ch.val * 1024 + entry.val) word.val data.toNat)

/-- PTF_TS_LATCH_WRITE: its effect, where the write reaches the channel region (R46, R753, R770, R776). -/
def execPtfTsLatchWrite (req : Req) (ch : Fin 256) (entry : Fin 1024) (word : Fin 6) (data : BitVec 32) (s : State) : Out :=
  s.reachReg req 0x1000000 (effPtfTsLatchWrite req ch entry word data)

/-- A completing write that left timing-set entry k of channel c invalid (R344). -/
def State.tsRejected (s : State) (c k reason : Nat) : State :=
  ((((s.incSat (PTF_CH_NREJ c)).incSat PTF_NREJ).put (PTF_CH_LASTREJ_REASON c) reason).put (PTF_CH_LASTREJ_ENTRY c) k).raise
    srcPtfTsrej c 0

/-- PTF_TS_CFG_WRITE: a write of PTF_TS_CFG merges, tests and writes the shadow entry whole (R340 to R344). -/
def effPtfTsCfgWrite (req : Req) (ch : Fin 256) (entry : Fin 1024) (data : BitVec 32) (s : State) : Out :=
  let c := ch.val
  let k := entry.val
  let w (i : Nat) := if i = 6 then data.toNat else s.merged 3 req (c * 1024 + k) (tsWord s.shadow c k) i
  let s1 := s.emptyLatch 3 req
  if s.classLocked 0 then .next s1.refuseRwc
  else
    let s2 := ((List.range 7).foldl (fun t i => t.putShadow (PTF_TS_W c k i) (w i)) s1).cleanShadow 0 (tsOff c k)
    let r := tsReason s.clk.vset w
    .next (if r = 0 then s2 else s2.tsRejected c k r)

/-- PTF_TS_CFG_WRITE: its effect, where the write reaches the channel region (R46, R753, R770, R776). -/
def execPtfTsCfgWrite (req : Req) (ch : Fin 256) (entry : Fin 1024) (data : BitVec 32) (s : State) : Out :=
  s.reachReg req 0x1000000 (effPtfTsCfgWrite req ch entry data)

/-! ## Level-set entries (R361, R362) -/

/-- The offset of level-set entry k of channel c. -/
def lsOff (c k : Nat) : Nat := (LVL_LS_W c k 0).off

/-- Word i of a level-set entry in a bank: VI, VO, VT, IO, CL, RX, CFG. -/
def lsWord (b : Cells) (c k i : Nat) : Nat := bankGet b (LVL_LS_W c k i)

/-- The upper half of a level word, as a voltage code of 250 µV. -/
def hiV (w : Nat) : Int := signedOf 16 (w / 2 ^ 16)

/-- The lower half of a level word, as a voltage code. -/
def loV (w : Nat) : Int := signedOf 16 w

/-- The largest swing at the rate in force (R363), in codes of 250 µV. -/
def swingLimit (v : VSet) : Int :=
  let r := v.num * v.uis
  if r ≤ 16 * v.den then 32000 else if r ≤ 40 * v.den then 16000 else if r ≤ 80 * v.den then 8000 else 4800

/-- i lies in lo to hi, inclusive. -/
def inRange (lo hi i : Int) : Bool := decide (lo ≤ i) && decide (i ≤ hi)

/-- REASON of R369 at a VCLK setting. -/
def lsReason (v : VSet) (w : Nat → Nat) : Nat :=
  let vih := hiV (w 0)
  let vil := loV (w 0)
  let voh := hiV (w 1)
  let vol := loV (w 1)
  let vt := loV (w 2)
  let load := bits (w 6) 0 2
  let clh := hiV (w 4)
  let cll := loV (w 4)
  if w 2 / 2 ^ 16 ≠ 0 || w 5 / 2 ^ 6 ≠ 0 || w 6 / 2 ^ 3 ≠ 0 || load = 3 then 1
  else if !inRange (-6000) 26000 vih || !inRange (-6000) 26000 vil || vih < vil then 2
  else if swingLimit v < vih - vil then 3
  else if !inRange (-8000) 28000 voh || !inRange (-8000) 28000 vol || voh < vol then 4
  else if !inRange (-6000) 26000 vt || 24000 < bits (w 3) 16 16 || 24000 < bits (w 3) 0 16
      || (load = 2 && !inRange (-2000) 8000 vt) then 5
  else if bitAt (w 6) 2 && (!inRange (-10000) 24000 cll || !inRange (-4000) 30000 clh || clh - cll < 4000
      || min vil vt - 800 < cll || clh < max vih vt + 800) then 6
  else if !bitAt (w 6) 2 && w 4 ≠ 0 then 7
  else 0

/-- REASON of the shadow level-set entry. -/
def State.lsShadowReason (s : State) (c k : Nat) : Nat := lsReason s.clk.vset (lsWord s.shadow c k)

/-- The validity flag of an active level-set entry (R371, R823). -/
def State.lsFlag (s : State) (c k : Nat) : Bool :=
  lsReason s.clk.vset (lsWord s.active c k) == 0 && !s.cmt.flagCleared.contains (lsOff c k) && !s.activeMarked (lsOff c k)

/-- Level set k is referenced (R370). -/
def State.lsRef (s : State) (k : Nat) : Bool := s.namedBy mwLevelset k

/-- LVL_LS_LATCH_WRITE: a write of LVL_LS_VI to LVL_LS_RX (R368). -/
def effLvlLsLatchWrite (req : Req) (ch : Fin 256) (entry : Fin 256) (word : Fin 6) (data : BitVec 32) (s : State) : Out :=
  .next (s.latchWord 4 req (ch.val * 256 + entry.val) word.val data.toNat)

/-- LVL_LS_LATCH_WRITE: its effect, where the write reaches the channel region (R46, R753, R770, R776). -/
def execLvlLsLatchWrite (req : Req) (ch : Fin 256) (entry : Fin 256) (word : Fin 6) (data : BitVec 32) (s : State) : Out :=
  s.reachReg req 0x1008000 (effLvlLsLatchWrite req ch entry word data)

/-- A completing write that left level-set entry k of channel c invalid (R369). -/
def State.lsRejected (s : State) (c k reason : Nat) : State :=
  ((((s.incSat (LVL_CH_NREJ c)).incSat LVL_NREJ).put (LVL_CH_LASTREJ_REASON c) reason).put (LVL_CH_LASTREJ_ENTRY c) k).raise
    srcLvlLsrej c 0

/-- LVL_LS_CFG_WRITE: a write of LVL_LS_CFG merges, tests and writes the shadow entry whole (R368, R369). -/
def effLvlLsCfgWrite (req : Req) (ch : Fin 256) (entry : Fin 256) (data : BitVec 32) (s : State) : Out :=
  let c := ch.val
  let k := entry.val
  let w (i : Nat) := if i = 6 then data.toNat else s.merged 4 req (c * 256 + k) (lsWord s.shadow c k) i
  let s1 := s.emptyLatch 4 req
  if s.classLocked 1 then .next s1.refuseRwc
  else
    let s2 := ((List.range 7).foldl (fun t i => t.putShadow (LVL_LS_W c k i) (w i)) s1).cleanShadow 1 (lsOff c k)
    let r := lsReason s.clk.vset w
    .next (if r = 0 then s2 else s2.lsRejected c k r)

/-- LVL_LS_CFG_WRITE: its effect, where the write reaches the channel region (R46, R753, R770, R776). -/
def execLvlLsCfgWrite (req : Req) (ch : Fin 256) (entry : Fin 256) (data : BitVec 32) (s : State) : Out :=
  s.reachReg req 0x1008000 (effLvlLsCfgWrite req ch entry data)

/-! ## Live summaries -/

/-- How many i below n satisfy p. -/
def countBelow (n : Nat) (p : Nat → Bool) : Nat := ((List.range n).filter p).length

/-- Channel c holds an invalid shadow timing-set entry whose number is referenced: PTF_CHBAD. -/
def State.tsChBad (s : State) (c : Nat) : Bool := (List.range 1024).any fun k => s.tsRef k && s.tsShadowReason c k != 0

/-- Some channel's shadow timing-set entry k is invalid: PTF_TSBAD. -/
def State.tsBad (s : State) (k : Nat) : Bool := (List.range 256).any fun c => s.tsShadowReason c k != 0

/-- An active entry of channel c whose number is referenced has its flag at 0: PTF_CH_STATUS.ACTBAD (R823). -/
def State.tsActBad (s : State) (c : Nat) : Bool := (List.range 1024).any fun k => s.tsRef k && !s.tsFlag c k

/-- PTF_CH_STATUS (R356). -/
def State.ptfChStatus (s : State) (c : Nat) : Nat :=
  b2n (s.tsActBad c) * 2 ^ 31 + countBelow 1024 (fun k => !s.tsFlag c k) * 2 ^ 16
    + countBelow 1024 (fun k => s.tsShadowReason c k != 0)

/-- LVL_CHBAD bit of channel c. -/
def State.lsChBad (s : State) (c : Nat) : Bool := (List.range 256).any fun k => s.lsRef k && s.lsShadowReason c k != 0

/-- LVL_LSBAD bit of level set k: some channel's shadow or active entry is invalid (R385). -/
def State.lsBad (s : State) (k : Nat) : Bool :=
  (List.range 256).any fun c => s.lsShadowReason c k != 0 || !s.lsFlag c k

/-- LVL_CH_STATUS.ACTBAD. -/
def State.lsActBad (s : State) (c : Nat) : Bool := (List.range 256).any fun k => s.lsRef k && !s.lsFlag c k

/-- The channel is marked untrusted (R381). -/
def State.untrusted (s : State) (c : Nat) : Bool :=
  s.on (LVL_CH_UNTR_RBFAIL c) || s.on (LVL_CH_UNTR_DLYTWIN c) || s.on (LVL_CH_UNTR_LVTWIN c)

/-- LVL_CH_STATUS (R384). -/
def State.lvlChStatus (s : State) (c : Nat) : Nat :=
  b2n (s.lsActBad c) * 2 ^ 31 + b2n (s.untrusted c) * 2 ^ 30 + countBelow 256 (fun k => !s.lsFlag c k) * 2 ^ 16
    + countBelow 256 (fun k => s.lsShadowReason c k != 0)

end Sys2Proof.Machine
end

