-- ==== Sys2Proof/Machine/Apg.lean ====
section
/-! DEFINITION. The pattern generators (R288 to R322): one step of a generator, the program stores with their writes, reads,
scrub and lock, the table loader, and the validity of commit class 6. -/

namespace Sys2Proof.Machine

/-! ## One vector of one generator -/

/-- The state of a generator (R288). -/
structure Gen where
  x : Nat
  y : Nat
  z : Nat
  xmin : Nat
  xmax : Nat
  ymin : Nat
  ymax : Nat
  zmin : Nat
  zmax : Nat
  xs : Nat
  ys : Nat
  zs : Nat
  d : Nat
  c : Nat
  deriving DecidableEq, Repr

/-- An axis: its value, bounds and saved copy, and its width. -/
structure Axis where
  w : Nat
  v : Nat
  mn : Nat
  mx : Nat
  sv : Nat
  deriving DecidableEq, Repr

/-- The operations of R296 on one axis; the truth value is the wrap signal. -/
def axisStep (a : Axis) (op imm : Nat) (cin : Bool) : Axis × Bool :=
  let m := 2 ^ a.w
  let i := imm % m
  let up := decide (a.mx ≤ a.v)
  let dn := decide (a.v ≤ a.mn)
  let inc : Axis := { a with v := if up then a.mn else (a.v + 1) % m }
  let dec : Axis := { a with v := if dn then a.mx else a.v - 1 }
  match op with
  | 0x1 => (inc, up)
  | 0x2 => (dec, dn)
  | 0x3 => if cin then (inc, up) else (a, false)
  | 0x4 => if cin then (dec, dn) else (a, false)
  | 0x5 => ({ a with v := i }, false)
  | 0x6 => ({ a with v := a.mn }, false)
  | 0x7 => ({ a with v := a.mx }, false)
  | 0x8 => ({ a with v := a.sv }, false)
  | 0x9 => ({ a with v := (a.v + i) % m }, false)
  | 0xA => ({ a with mn := i }, false)
  | 0xB => ({ a with mx := i }, false)
  | 0xC => ({ a with v := a.v ^^^ i }, false)
  | 0xD => ({ a with v := (a.mn + a.mx + m - a.v) % m }, false)
  | _ => (a, false)

/-- The order of the axes for carries: 0 X, 1 Y, 2 Z (R297). -/
def chainOrder (c : Nat) : List Nat :=
  match c with
  | 1 => [0, 1, 2]
  | 2 => [1, 0, 2]
  | 3 => [0, 2, 1]
  | 4 => [2, 0, 1]
  | 5 => [1, 2, 0]
  | 6 => [2, 1, 0]
  | _ => [0, 1, 2]

/-- Axis k of a generator. -/
def Gen.axis (g : Gen) (k : Nat) : Axis :=
  match k with
  | 0 => ⟨24, g.x, g.xmin, g.xmax, g.xs⟩
  | 1 => ⟨24, g.y, g.ymin, g.ymax, g.ys⟩
  | _ => ⟨8, g.z, g.zmin, g.zmax, g.zs⟩

/-- Axis k of a generator replaced. -/
def Gen.setAxis (g : Gen) (k : Nat) (a : Axis) : Gen :=
  match k with
  | 0 => { g with x := a.v, xmin := a.mn, xmax := a.mx }
  | 1 => { g with y := a.v, ymin := a.mn, ymax := a.mx }
  | _ => { g with z := a.v, zmin := a.mn, zmax := a.mx }

/-- The operation code of axis k in an instruction (R295). -/
def iwAxisOp (i k : Nat) : Nat := bits i (60 - 4 * k) 4

/-- The axes step in chain order; each later axis takes the wrap of the one before it, or no carry without a chain (R297). The
first component of the answer is the wrap of the first axis. -/
def stepAxes (i : Nat) : List Nat → Bool → Gen → Gen
  | [], _, g => g
  | k :: ks, cin, g =>
    let r := axisStep (g.axis k) (iwAxisOp i k) (bits i 0 24) cin
    stepAxes i ks (r.2 && decide (bits i 45 3 ≠ 0)) (g.setAxis k r.1)

/-- The wrap signal of the first axis of the chain in this vector (R298). -/
def firstWraps (i : Nat) (g : Gen) : Bool :=
  match chainOrder (bits i 45 3) with
  | k :: _ => (axisStep (g.axis k) (iwAxisOp i k) (bits i 0 24) (decide (bits i 45 3 ≠ 0))).2
  | [] => false

/-- All ones in 64 bits. -/
def ones64 : Nat := 2 ^ 64 - 1

/-- DOP of R298: the new D from the state at the start of the vector and the data immediate t. -/
def dataStep (g : Gen) (i t : Nat) : Nat :=
  match bits i 48 4 with
  | 0x1 => t
  | 0x2 => g.d ^^^ ones64
  | 0x3 => t ^^^ ones64
  | 0x4 => (g.d * 2) % 2 ^ 64 + g.d / 2 ^ 63
  | 0x5 => g.d / 2 + (g.d % 2) * 2 ^ 63
  | 0x6 => g.d ^^^ t
  | 0x7 => g.z * 2 ^ 48 + g.y * 2 ^ 24 + g.x
  | 0x8 => if firstWraps i g then g.d ^^^ ones64 else g.d
  | 0x9 => (g.d * 2) % 2 ^ 64 + b2n ((bitAt g.d 63 != bitAt g.d 62) != (bitAt g.d 60 != bitAt g.d 59))
  | _ => g.d

/-- The update of R290: every operation reads the state at the start of the vector. -/
def Gen.step (g : Gen) (i t : Nat) : Gen :=
  let g1 := stepAxes i (chainOrder (bits i 45 3)) (decide (bits i 45 3 ≠ 0)) g
  let g2 := { g1 with d := dataStep g i t }
  let g3 := if bitAt i 44 then { g2 with xs := g2.x, ys := g2.y, zs := g2.z } else g2
  if bitAt i 40 then { g3 with c := bits i 32 8 } else g3

/-- Bits [lo + 15 : lo] of v replaced. -/
def putWindow (v lo e : Nat) : Nat := v - bits v lo 16 * 2 ^ lo + e % 2 ^ 16 * 2 ^ lo

/-- X and Y outputs of generator g after its address scramble tables in an active bank (R308). -/
def scramble (b : Cells) (gi : Nat) (g : Gen) : Nat × Nat :=
  (List.range 2).foldl (fun xy k =>
    if bankGet b (APG_ASCR_CFG_EN gi k) = 1 then
      let lo := bankGet b (APG_ASCR_CFG_LSB gi k)
      if bankGet b (APG_ASCR_CFG_AXIS gi k) = 0 then (putWindow xy.1 lo (bankGet b (APG_ASCR_TBL gi k (bits g.x lo 16))), xy.2)
      else (xy.1, putWindow xy.2 lo (bankGet b (APG_ASCR_TBL gi k (bits g.y lo 16))))
    else xy) (g.x, g.y)

/-- The index into the data scramble table (R309). -/
def dscrIndex (b : Cells) (gi x y : Nat) : Nat :=
  bits y (bankGet b (APG_DSCR_CFG_DYLSB gi)) 8 * 256 + bits x (bankGet b (APG_DSCR_CFG_DXLSB gi)) 8

/-- Each lane bit widened to its eight data bits (R309). -/
def laneMask (e : Nat) : Nat := ofBits ((List.range 64).map fun k => bitAt e (k / 8))

/-- The 128 output bits of a vector (R289, R290), with the X and Y outputs. -/
def Gen.outputs (g : Gen) (b : Cells) (gi i : Nat) : Nat × Nat × Nat :=
  let xy := if bitAt i 43 then scramble b gi g else (g.x, g.y)
  let d1 := if bitAt i 42 then g.d ^^^ laneMask (bankGet b (APG_DSCR_TBL gi (dscrIndex b gi xy.1 xy.2))) else g.d
  let d2 := if bitAt i 41 then d1 ^^^ ones64 else d1
  (d2 * 2 ^ 64 + g.c * 2 ^ 56 + g.z * 2 ^ 48 + xy.2 * 2 ^ 24 + xy.1, xy.1, xy.2)

/-- The offsets of the class-6 entries and registers that a vector of the generator reads (R311). -/
def apgReads (b : Cells) (gi i : Nat) (g : Gen) : List Nat :=
  let xy := if bitAt i 43 then scramble b gi g else (g.x, g.y)
  (if bitAt i 43 then (List.range 2).flatMap fun k =>
      (APG_ASCR_CFG_EN gi k).off ::
        (if bankGet b (APG_ASCR_CFG_EN gi k) = 1 then
          [(APG_ASCR_TBL gi k (bits (if bankGet b (APG_ASCR_CFG_AXIS gi k) = 0 then g.x else g.y)
            (bankGet b (APG_ASCR_CFG_LSB gi k)) 16)).off] else [])
    else []) ++
    (if bitAt i 42 then [(APG_DSCR_CFG_DXLSB gi).off, (APG_DSCR_TBL gi (dscrIndex b gi xy.1 xy.2)).off] else [])

/-! ## The registers of a generator -/

/-- The state of generator g as its live registers show it. -/
def State.gen (s : State) (g : Nat) : Gen :=
  ⟨s.get (APG_X g), s.get (APG_Y g), s.get (APG_ZC_Z g), s.get (APG_XMIN g), s.get (APG_XMAX g), s.get (APG_YMIN g),
   s.get (APG_YMAX g), s.get (APG_ZBND_ZMIN g), s.get (APG_ZBND_ZMAX g), s.get (APG_XS g), s.get (APG_YS g), s.get (APG_ZS g),
   s.get64 (APG_D_LO g) (APG_D_HI g), s.get (APG_ZC_C g)⟩

/-- The live registers of generator g set to a state. -/
def State.setGen (s : State) (g : Nat) (v : Gen) : State :=
  let s1 := (((s.put (APG_X g) v.x).put (APG_Y g) v.y).put (APG_ZC_Z g) v.z).put (APG_ZC_C g) v.c
  let s2 := (((s1.put (APG_XMIN g) v.xmin).put (APG_XMAX g) v.xmax).put (APG_YMIN g) v.ymin).put (APG_YMAX g) v.ymax
  let s3 := (((s2.put (APG_ZBND_ZMIN g) v.zmin).put (APG_ZBND_ZMAX g) v.zmax).put (APG_XS g) v.xs).put (APG_YS g) v.ys
  (s3.put (APG_ZS g) v.zs).put64 (APG_D_LO g) (APG_D_HI g) v.d

/-- A generator as its INIT registers set it at a playlist's first vector (R293). -/
def State.genInit (s : State) (g : Nat) : Gen :=
  let x := s.get (APG_INIT_X g)
  let y := s.get (APG_INIT_Y g)
  let z := s.get (APG_INIT_ZC_Z g)
  ⟨x, y, z, s.get (APG_INIT_XMIN g), s.get (APG_INIT_XMAX g), s.get (APG_INIT_YMIN g), s.get (APG_INIT_YMAX g),
   s.get (APG_INIT_ZBND_ZMIN g), s.get (APG_INIT_ZBND_ZMAX g), x, y, z, s.get64 (APG_INIT_D_LO g) (APG_INIT_D_HI g),
   s.get (APG_INIT_ZC_C g)⟩

/-! ## Program stores -/

/-- The program areas are locked (R306). -/
def State.apgLocked (s : State) : Bool := s.seq.running.isSome || s.seq.queued.isSome

/-- A refused write of a program area (R306). -/
def State.apgRefuse (s : State) : State :=
  ((s.incSat APG_PWREFUSED).put APG_STATUS_PWREF 1).event srcApgPlock

/-- Instruction n of generator g. -/
def State.iw (s : State) (g n : Nat) : Slot := Assoc.get Slot.empty s.apg.store (4096 * g + n)

/-- Instruction n of generator g replaced. -/
def State.setIw (s : State) (g n : Nat) (v : Slot) : State :=
  { s with apg := { s.apg with store := Assoc.set Slot.empty s.apg.store (4096 * g + n) v } }

/-- APG_IWSTAT (R322). -/
def Slot.iwStat (v : Slot) : Nat := if v.valid then 2 ^ 31 else v.reason * 2 ^ 24

/-- REASON 0x3 to 0x6 of R300, or 0 for a legal instruction. -/
def iwReason (i : Nat) : Nat :=
  let ops := [iwAxisOp i 0, iwAxisOp i 1, iwAxisOp i 2]
  let dop := bits i 48 4
  let chain := bits i 45 3
  if bits i 24 4 ≠ 0 then 3
  else if ops.any (fun o => decide (0xE ≤ o)) || 0xA ≤ dop || chain = 7 then 4
  else if (bits i 32 8 ≠ 0 && !bitAt i 40) || (bits i 28 4 ≠ 0 && !(dop = 1 || dop = 3 || dop = 6))
      || (bits i 0 24 ≠ 0 && !ops.any fun o => o == 0x5 || o == 0x9 || o == 0xA || o == 0xB || o == 0xC) then 5
  else if chain = 0 && (ops.any (fun o => o == 3 || o == 4) || dop = 8) then 6
  else 0

/-- A failed instruction write (R301). -/
def State.iwFailed (s : State) : State := (s.put APG_STATUS_CHKERR 1).event srcApgPwerr

/-- A checked write of an instruction (R299 to R301). -/
def State.writeIw (s : State) (g n iw chk : Nat) : State :=
  if chk ≠ codeBits 64 12 iw n then (s.setIw g n ⟨iw, chk, false, 1, 0⟩).iwFailed
  else if iwReason iw ≠ 0 then (s.setIw g n ⟨iw, chk, false, iwReason iw, 0⟩).iwFailed
  else s.setIw g n ⟨iw, chk, true, 0, 0⟩

/-- APG_IW_LATCH: a write of IW0 or IW1, refused under the lock (R301, R306). -/
def effApgIwLatch (req : Req) (gen : Fin 2) (index : Fin 4096) (word : Fin 2) (data : BitVec 32) (s : State) : Out :=
  if s.apgLocked then .next (s.apgRefuse)
  else .next (s.latchWord (1 + gen.val) req index.val word.val data.toNat)

/-- APG_IW_LATCH: its effect, where the write reaches the program area (R46, R753, R770, R776). -/
def execApgIwLatch (req : Req) (gen : Fin 2) (index : Fin 4096) (word : Fin 2) (data : BitVec 32) (s : State) : Out :=
  s.reachReg req 0x5000000 (effApgIwLatch req gen index word data)

/-- APG_IWCHK_WRITE: a write of IWCHK checks and writes the instruction, or is refused under the lock (R300, R301, R306). -/
def effApgIwchkWrite (req : Req) (gen : Fin 2) (index : Fin 4096) (chk : BitVec 16) (s : State) : Out :=
  let g := gen.val
  let n := index.val
  let l := s.latch (1 + g) req
  let s1 := s.emptyLatch (1 + g) req
  if s.apgLocked then .next (s1.apgRefuse)
  else if l.key = n && l.words.length = 2 then
    .next (s1.writeIw g n (Assoc.get 0 l.words 0 + 2 ^ 32 * Assoc.get 0 l.words 1) chk.toNat)
  else .next ((s1.setIw g n { s1.iw g n with valid := false, reason := 2 }).iwFailed)

/-- APG_IWCHK_WRITE: its effect, where the write reaches the program area (R46, R753, R770, R776). -/
def execApgIwchkWrite (req : Req) (gen : Fin 2) (index : Fin 4096) (chk : BitVec 16) (s : State) : Out :=
  s.reachReg req 0x5000000 (effApgIwchkWrite req gen index chk)

/-- APG_g_LASTERR (R318). -/
def State.apgLastErr (s : State) (g n : Nat) (unc addr : Bool) : State :=
  ((s.flag (APG_LASTERR_UNC g) unc).flag (APG_LASTERR_ADDR g) addr).put (APG_LASTERR_IDX g) n

/-- An uncorrectable instruction (R302). -/
def State.apgUe (s : State) (g n : Nat) (addr : Bool) : State :=
  (((s.inc (APG_UE g)).put APG_STATUS_UE 1).apgLastErr g n true addr).event srcApgPerr

/-- The read of a valid instruction; flip: bits of the row that have been upset since its last read (R299, R302). -/
def State.iwRead (s0 : State) (g n flip : Nat) : Option Nat × State :=
  let v := (s0.iw g n).upsetBy flip
  let s := if flip = 0 then s0 else s0.setIw g n v
  match readCode 64 12 (v.row 64).1 (v.row 64).2 n with
  | .clean w => (some w, s)
  | .corrected w => (some w, (s.inc (APG_CE g)).apgLastErr g n false false)
  | .addressError => (none, s.apgUe g n true)
  | .uncorrectable => (none, s.apgUe g n false)

/-- The instruction that the generator executes in a vector (R302): the all-zero one with cause CFG in every running site
where the read fails or the entry is not valid. -/
def State.iwFetch (s : State) (g n flip : Nat) : Nat × State :=
  if !(s.iw g n).valid then (0, (s.event srcApgInvexec).recordAll 0)
  else
    match s.iwRead g n flip with
    | (some w, s1) => (w, s1)
    | (none, s1) => (0, s1.recordAll 0)

/-- APG_SCRUB: the scrub checks one valid instruction under the rules of R204 (R304). -/
def execApgScrub (gen : Fin 2) (index : Fin 4096) (flip : BitVec 80) (s : State) : Out :=
  let g := gen.val
  let n := index.val
  let v := (s.iw g n).upsetBy flip.toNat
  if !s.on APG_CTRL_SCRUB_EN || !v.valid then .next s
  else
    match s.iwRead g n flip.toNat with
    | (some w, s1) => .next (s1.setIw g n { v with mw := w, chk := codeBits 64 12 w n, upset := 0 })
    | (none, s1) => .next (s1.setIw g n { v with valid := false, reason := 0xD })

/-- APG_g_NINVALID (R318). -/
def State.apgInvalid (s : State) (g : Nat) : Nat :=
  4096 - (s.apg.store.filter fun e => e.2.valid && e.1 / 4096 == g).length

/-! ## Class 6 (R310) -/

/-- A shadow entry of class 6 with a reserved bit set lies at an offset that satisfies p. -/
def State.resv6 (s : State) (p : Nat → Bool) : Bool := s.cmt.resvShadow.any fun e => e.1 == 6 && p e.2

/-- The shadow ASCRk table of generator g with its configuration is valid. -/
def State.ascrValid (s : State) (g k : Nat) : Bool :=
  let cfg := (APG_ASCR_CFG_EN g k).off
  let t0 := (APG_ASCR_TBL g k 0).off
  let both := decide (s.getShadow (APG_ASCR_CFG_EN g 0) = 1) && decide (s.getShadow (APG_ASCR_CFG_EN g 1) = 1)
    && decide (s.getShadow (APG_ASCR_CFG_AXIS g 0) = s.getShadow (APG_ASCR_CFG_AXIS g 1))
  decide (s.getShadow (APG_ASCR_CFG_LSB g k) ≤ 8) && !both
    && !s.resv6 fun o => o == cfg || (decide (t0 ≤ o) && decide (o < t0 + 0x40000))

/-- The shadow DSCR table of generator g with its configuration is valid. -/
def State.dscrValid (s : State) (g : Nat) : Bool :=
  let cfg := (APG_DSCR_CFG_DXLSB g).off
  let t0 := (APG_DSCR_TBL g 0).off
  decide (s.getShadow (APG_DSCR_CFG_DXLSB g) ≤ 16) && decide (s.getShadow (APG_DSCR_CFG_DYLSB g) ≤ 16)
    && !s.resv6 fun o => o == cfg || (decide (t0 ≤ o) && decide (o < t0 + 0x40000))

/-- APG_g_SVALID (R318). -/
def State.apgSvalid (s : State) (g : Nat) : Nat :=
  b2n (s.dscrValid g) * 4 + b2n (s.ascrValid g 1) * 2 + b2n (s.ascrValid g 0)

/-! ## The table loader (R314, R315) -/

/-- Bytes of an image of the table loader (R314). -/
def tldSize (target : Nat) : Nat := if target % 4 = 3 then 16 else 4

/-- The table loader asks HBM for its next image, unless it has read its last one or ABORT has been written (R314, R318). -/
def State.tldAsk (s : State) : State :=
  match s.apg.tld with
  | some r =>
    let more := decide (r.done < r.count) && !r.aborted
    let s1 : State := { s with apg := { s.apg with tld := some { r with reading := more } } }
    if more then s1.askImage 2 (r.src + tldSize r.target * r.done) (tldSize r.target) else s1
  | none => s

/-- APG_TLD_GO. -/
def effApgTldGo (s : State) : Out :=
  let first := s.get APG_TLD_TGT_FIRST
  let count := s.get APG_TLD_COUNT
  let tbl := s.get APG_TLD_TGT_TBL
  if s.on APG_STATUS_TLBUSY || (if tbl = 3 then 4096 else 65536) < first + count then .next (s.put APG_STATUS_TLREF 1)
  else
    let run : LoaderRun := ⟨s.get64 APG_TLD_SRC_LO APG_TLD_SRC_HI, first, count, false, s.get APG_TLD_TGT_GEN * 4 + tbl, 0, false⟩
    .next ({ ((s.put APG_STATUS_TLBUSY 1).put APG_TLD_DONE 0).put APG_TLD_BAD 0 with apg := { s.apg with tld := some run } } : State).tldAsk

/-- APG_TLD_GO: its effect, where the write reaches APG_TLD_CTRL (R46, R753, R770, R776). -/
def execApgTldGo (s : State) : Out :=
  s.reachReg .host 0x180010 effApgTldGo

/-- APG_TLD_ABORT: the loader stops after the image in progress (R318). -/
def effApgTldAbort (s : State) : Out :=
  .next { s with apg := { s.apg with tld := s.apg.tld.map fun r => { r with aborted := true } } }

/-- APG_TLD_ABORT: its effect, where the write reaches APG_TLD_CTRL (R46, R753, R770, R776). -/
def execApgTldAbort (s : State) : Out :=
  s.reachReg .host 0x180010 effApgTldAbort

/-- An entry word of a scramble table goes to the shadow bank (R310, R314). -/
def State.writeScramble (s : State) (g tbl i v : Nat) : State :=
  let f := if tbl = 2 then APG_DSCR_TBL g i else APG_ASCR_TBL g tbl i
  let s1 := (s.putShadow f v).cleanShadow 6 f.off
  if v / 2 ^ f.width = 0 then s1 else { s1 with cmt := { s1.cmt with resvShadow := s1.cmt.resvShadow ++ [(6, f.off)] } }

/-- One image of a table load: its bytes, none where they are uncorrectable, which fails it (R665). -/
def State.tldImage (s : State) (g tbl : Nat) (d : Option (List (BitVec 8))) (i : Nat) : State :=
  let s3 :=
    if tbl = 3 then
      if s.apgLocked then (s.apgRefuse).inc APG_TLD_BAD
      else
        match d with
        | some bs =>
          let s2 := s.writeIw g i (ofBytes (bs.take 8)) (ofBytes ((bs.drop 8).take 2))
          if (s2.iw g i).valid then s2 else s2.inc APG_TLD_BAD
        | none =>
          let (a, s2) := s.free
          let (b, s3) := s2.free
          ((s3.setIw g i ⟨a % 2 ^ 64, b % 2 ^ 16, false, 1, 0⟩).iwFailed).inc APG_TLD_BAD
    else if s.classLocked 6 then s.refuseRwc.inc APG_TLD_BAD
    else
      match d with
      | some bs => s.writeScramble g tbl i (ofBytes bs)
      | none => s.inc APG_TLD_BAD
  s3.inc APG_TLD_DONE

/-- An image that the table loader asked for has come: it is written, and the next one is asked for (R314, R315). -/
def State.tldStep (s : State) (d : Option (List (BitVec 8))) : State :=
  match s.apg.tld with
  | some r =>
    let s1 := s.tldImage (r.target / 4) (r.target % 4) d (r.dst + r.done)
    ({ s1 with apg := { s1.apg with tld := some { r with done := r.done + 1, reading := false } } } : State).tldAsk
  | none => s

/-- APG_TLD_DONE: the loader has processed its last image, or the image in progress at ABORT (R315). -/
def execApgTldDone (s : State) : Out :=
  match s.apg.tld with
  | none => .next s
  | some r =>
    if r.reading then .next s
    else .next { (s.put APG_STATUS_TLBUSY 0).put APG_STATUS_TLDONE 1 with apg := { s.apg with tld := none } }

end Sys2Proof.Machine
end

