-- ==== Sys2Proof/Machine/Segments.lean ====
section
/-! DEFINITION. Segment descriptors (R260 to R268), host streams (R276 to R282), the symbols and pin actions of a vector (R247
to R252, R256) and the validity of commit classes 2 and 3 (R253). -/

namespace Sys2Proof.Machine

/-! ## Descriptors -/

/-- The REASON of the first failing test of R261, or 0. -/
def segReason (dw0 dw1 dw2 : Nat) : Nat :=
  let d : SegDesc := ⟨dw0, dw1, dw2, true, 0⟩
  if d.tiles = 0 then 1 else if dw1 = 0 then 2 else if bits dw2 2 14 ≠ 0 then 3
  else if 0x800000000 < d.limit then 4 else 0

/-- SEG_DIDX_WRITE: the requester's staging words load from the descriptor that it names (R262). -/
def effSegDidxWrite (req : Req) (index : Fin 65536) (s : State) : Out :=
  let d := s.segDesc index.val
  .next ((((s.put (SEG_DIDX.per req) index.val).put ((SEG_DW 0).per req) d.dw0).put ((SEG_DW 1).per req) d.dw1).put
    ((SEG_DW 2).per req) d.dw2)

/-- SEG_DIDX_WRITE: its effect, where the write reaches SEG_DIDX (R46, R753, R770, R776). -/
def execSegDidxWrite (req : Req) (index : Fin 65536) (s : State) : Out :=
  s.reachReg req 0x100000 (effSegDidxWrite req index)

/-- DESCRIPTOR_WRITE: the requester's staging words become its descriptor, checked, or are refused under a lock (R262, R268). -/
def effDescriptorWrite (req : Req) (s : State) : Out :=
  let k := s.get (SEG_DIDX.per req)
  if s.segHolders k ≠ 0 then .next ((s.incSat SEG_CREFUSED).event srcSegWlock)
  else
    let w0 := s.get ((SEG_DW 0).per req)
    let w1 := s.get ((SEG_DW 1).per req)
    let w2 := s.get ((SEG_DW 2).per req)
    let r := segReason w0 w1 w2
    .next { s with seg := { s.seg with desc := Assoc.set SegDesc.empty s.seg.desc k ⟨w0, w1, w2, r == 0, r⟩ } }

/-- DESCRIPTOR_WRITE: its effect, where the write reaches SEG_DCMD (R46, R753, R770, R776). -/
def execDescriptorWrite (req : Req) (s : State) : Out :=
  s.reachReg req 0x100010 (effDescriptorWrite req)

/-- SEG_DSTAT of descriptor k (R284). -/
def State.segDstat (s : State) (k : Nat) : Nat :=
  let d := s.segDesc k
  (if d.valid then 2 ^ 31 else d.reason * 2 ^ 24) + (if s.segHolders k = 0 then 0 else 2 ^ 30) + s.segHolders k

/-! ## Host streams -/

/-- The bytes in a stream channel's buffer. -/
def State.strBuf (s : State) (n : Nat) : List (BitVec 8) := Assoc.get [] s.seg.buf n

/-- The channel's buffer replaced. -/
def State.setStrBuf (s : State) (n : Nat) (b : List (BitVec 8)) : State :=
  { s with seg := { s.seg with buf := Assoc.set [] s.seg.buf n b } }

/-- Σ B × num over the channels that satisfy p: the rate in units of 100 MB/s × den (R276). -/
def State.strRate (s : State) (p : Nat → Bool) : Nat :=
  ((List.range 8).map fun n => if p n then s.strBytes n * s.clk.vset.num else 0).sum

/-- A rate above 48 GB/s. -/
def State.rateTooHigh (s : State) (p : Nat → Bool) : Bool := decide (480 * s.clk.vset.den < s.strRate p)

/-- The counts and the buffer of a channel cleared. -/
def State.strClear (s : State) (n : Nat) : State :=
  let s1 := ((s.put64 (SEG_STR_PROD_LO n) (SEG_STR_PROD_HI n) 0).put64 (SEG_STR_FETCH_LO n) (SEG_STR_FETCH_HI n) 0).put64
    (SEG_STR_CONS_LO n) (SEG_STR_CONS_HI n) 0
  { s1 with seg := { s1.seg with buf := Assoc.set [] s1.seg.buf n [], skip := Assoc.set 0 s1.seg.skip n 0
                                 prod := Assoc.set 0 s1.seg.prod n 0, last := Assoc.set 0 s1.seg.last n 0
                                 blocked := Assoc.set false s1.seg.blocked n false } }

/-- STREAM_OPEN: OPEN with a width opens a closed channel in PAUSE, or is refused (R276, R287). R283 calls a ring of SIZE 0 not configured;
that any other SIZE outside 12 to 32 is refused alike is the model's choice (DESIGN CHOICE, log entry 109). -/
def effStreamOpen (channel : Fin 8) (width : Fin 4) (s : State) : Out :=
  let n := channel.val
  if s.on (SEG_STR_STATUS_OPEN n) then .next s
  else
    let s1 := s.put (SEG_STR_CTRL_WIDTH n) width.val
    if s1.get (SEG_STR_SIZE n) < 12 || 32 < s1.get (SEG_STR_SIZE n)
        || s1.rateTooHigh (fun m => m == n || s1.on (SEG_STR_STATUS_OPEN m)) then .next (s1.put (SEG_STR_STATUS_RATEREF n) 1)
    else .next ((((s1.strClear n).put (SEG_STR_STATUS_OPEN n) 1).put (SEG_STR_STATUS_RUN n) 0))

/-- STREAM_OPEN: its effect, where the write reaches SEG_STR_CTRL (R46, R753, R770, R776). -/
def execStreamOpen (channel : Fin 8) (width : Fin 4) (s : State) : Out :=
  s.reachReg .host 0x100400 (effStreamOpen channel width)

/-- STREAM_CLOSE: refused while the channel runs (R282). -/
def effStreamClose (channel : Fin 8) (s : State) : Out :=
  let n := channel.val
  if s.on (SEG_STR_STATUS_RUN n) then .next (s.put (SEG_STR_STATUS_CLOSEREF n) 1)
  else .next ((s.strClear n).put (SEG_STR_STATUS_OPEN n) 0)

/-- STREAM_CLOSE: its effect, where the write reaches SEG_STR_CTRL (R46, R753, R770, R776). -/
def execStreamClose (channel : Fin 8) (s : State) : Out :=
  s.reachReg .host 0x100400 (effStreamClose channel)

/-- STREAM_PROD_WRITE: a write of PROD HI makes the pair effect, or is ignored with PRODERR (R278). -/
def effStreamProdWrite (channel : Fin 8) (hi : BitVec 32) (s : State) : Out :=
  let n := channel.val
  let v := s.get (SEG_STR_PROD_LO n) + 2 ^ 32 * hi.toNat
  let old := Assoc.get 0 s.seg.prod n
  if v < old || s.get64 (SEG_STR_FETCH_LO n) (SEG_STR_FETCH_HI n) + 2 ^ s.get (SEG_STR_SIZE n) < v then
    .next ((s.put64 (SEG_STR_PROD_LO n) (SEG_STR_PROD_HI n) old).put (SEG_STR_STATUS_PRODERR n) 1)
  else .next { s.put (SEG_STR_PROD_HI n) hi.toNat with seg := { s.seg with prod := Assoc.set 0 s.seg.prod n v } }

/-- STREAM_PROD_WRITE: its effect, where the write reaches SEG_STR_PROD_HI (R46, R753, R770, R776). -/
def execStreamProdWrite (channel : Fin 8) (hi : BitVec 32) (s : State) : Out :=
  s.reachReg .host 0x10041C (effStreamProdWrite channel hi)

/-- The host address of ring byte k of a channel: BASE plus k mod 2^SIZE (R278). -/
def State.ringAddr (s : State) (n k : Nat) : Nat := s.get64 (SEG_STR_BASE_LO n) (SEG_STR_BASE_HI n) + k % 2 ^ s.get (SEG_STR_SIZE n)

/-- STREAM_FETCH: bytes read from a host address arrive in the buffer while there is room for them (R278, R279), up to the end of the ring;
bytes that an underrun has missed are discarded (R281). The device reads nothing but the next byte of the ring on. -/
def execStreamFetch (channel : Fin 8) (addr : BitVec 64) (data : List Byte) (s : State) : Out :=
  let n := channel.val
  let fetched := s.get64 (SEG_STR_FETCH_LO n) (SEG_STR_FETCH_HI n)
  if !s.on (SEG_STR_STATUS_OPEN n) || !s.dmaOn || addr.toNat ≠ s.ringAddr n fetched then .next s
  else
    let room := 524288 - (s.strBuf n).length
    let size := 2 ^ s.get (SEG_STR_SIZE n)
    let k := min data.length (min (Assoc.get 0 s.seg.prod n - fetched) (min room (size - fetched % size)))
    let d := data.take k
    let skip := min k (Assoc.get 0 s.seg.skip n)
    let s1 := s.put64 (SEG_STR_FETCH_LO n) (SEG_STR_FETCH_HI n) (fetched + k)
    .next { s1 with seg := { s1.seg with buf := Assoc.set [] s1.seg.buf n (s.strBuf n ++ d.drop skip)
                                         skip := Assoc.set 0 s1.seg.skip n (Assoc.get 0 s.seg.skip n - skip) } }

/-- After a relock: RATEERR where the sum is too high (R277). -/
def State.strRecheck (s : State) : State :=
  if s.rateTooHigh fun n => s.on (SEG_STR_STATUS_OPEN n) then
    (List.range 8).foldl (fun t n =>
      if t.on (SEG_STR_STATUS_OPEN n) then
        let t1 := t.put (SEG_STR_STATUS_RATEERR n) 1
        { t1 with seg := { t1.seg with blocked := Assoc.set true t1.seg.blocked n true } }
      else t) s
  else s

/-- A STREAM action of RUN or PAUSE on one channel (R181, R182, R277). -/
def State.strStand (s : State) (n : Nat) (run : Bool) : State :=
  if run && Assoc.get false s.seg.blocked n then s else s.flag (SEG_STR_STATUS_RUN n) run

/-- Lanes of a channel. -/
def State.strLanes (s : State) (n : Nat) : Nat := 8 * (s.get (SEG_STR_CTRL_WIDTH n) + 1)

/-- A lane word repeated for every UI. -/
def replicateLanes (w : Nat) : Nat → Nat → Nat
  | 0, _ => 0
  | k + 1, v => v + 2 ^ w * replicateLanes w k v

/-- What a channel supplies in a vector, as one value with bit (u × W + m) for UI u on lane m: a paused channel its last
bits (R280). -/
def State.strHeld (s : State) (n : Nat) : Nat :=
  replicateLanes (s.strLanes n) s.clk.vset.uis (Assoc.get 0 s.seg.last n)

/-- Channel n has the bytes of its next vector (R281). -/
def State.strReady (s : State) (n : Nat) : Bool := decide (s.strBytes n ≤ (s.strBuf n).length)

/-- A vector of RUN takes its bytes (R280). -/
def State.strConsume (s : State) (n : Nat) : Nat × State :=
  let b := s.strBytes n
  let v := ofBytes ((s.strBuf n).take b)
  let s1 := (s.setStrBuf n ((s.strBuf n).drop b)).add64 (SEG_STR_CONS_LO n) (SEG_STR_CONS_HI n) b
  (v, { s1 with seg := { s1.seg with last := Assoc.set 0 s1.seg.last n (v / 2 ^ (s.strLanes n * (s.clk.vset.uis - 1))) } })

/-- A vector of RUN in lockstep mode whose bytes are missing (R281). -/
def State.strUnderrun (s : State) (n : Nat) : State :=
  let b := s.strBytes n
  let miss := b - (s.strBuf n).length
  let s1 := (s.setStrBuf n []).add64 (SEG_STR_CONS_LO n) (SEG_STR_CONS_HI n) b
  let s2 : State := { s1 with seg := { s1.seg with skip := Assoc.set 0 s1.seg.skip n (Assoc.get 0 s1.seg.skip n + miss) } }
  (((s2.put (SEG_STR_STATUS_UNDR n) 1).inc (SEG_STR_NUNDR n)).raise srcSegUndr n 0)

/-! ## Symbols and pin actions -/

/-- The source-bank entry of channel c that a bank gives for SRCBANK k: SEL (R251). -/
def srcSel (b : Cells) (c k : Nat) : Nat := bankGet b (PIN_SRC_SEL c k)

/-- Bit pair of channel c in UI u of a stored record (R256). -/
def recordSymbol (rec : List (BitVec 8)) (tiles c u : Nat) : Nat :=
  let t := c / 32
  let j := c % 32
  if !bitAt tiles t then 0
  else
    let idx := popcount t tiles
    let byte := (rec.getD (u * 8 * popcount 8 tiles + 8 * idx + j / 4) 0).toNat
    bits byte (2 * (j % 4)) 2

/-- The symbol of channel c in UI u of a vector (R252). A stream's bits are placed by the lanes that its channel had at the issue
(R280). -/
def symbol (f : Flight) (c u : Nat) : Nat :=
  let k := mwSrcbank f.word
  let b := f.active
  let sel := srcSel b c k
  let hi := bankGet b (PIN_SRC_HI c k)
  let inv := bankGet b (PIN_SRC_INV c k) == 1
  let gbit := bankGet b (PIN_SRC_BIT c k) + (if bankGet b (PIN_SRC_UISTEP c k) = 1 then u else 0)
  if sel = 0 then recordSymbol f.record f.tiles c u
  else if sel = 1 then 2 * hi + b2n (bitAt f.apgA gbit != inv)
  else if sel = 2 then 2 * hi + b2n (bitAt f.apgB gbit != inv)
  else if sel = 3 then
    let n := bankGet b (PIN_SRC_STRCH c k)
    let lane := bankGet b (PIN_SRC_LANE c k)
    let x := Assoc.get (0, 0) f.strm n
    let bit := decide (lane < x.2) && bitAt x.1 (u * x.2 + lane)
    2 * hi + b2n (bit != inv)
  else bankGet b (PIN_SRC_CSYM c k)

/-- The pin action of a symbol through a symbol map (R250). -/
def mapAction (b : Cells) (c m sym : Nat) : Nat :=
  if sym = 0 then bankGet b (PIN_SYMMAP_S0 c m)
  else if sym = 1 then bankGet b (PIN_SYMMAP_S1 c m)
  else if sym = 2 then bankGet b (PIN_SYMMAP_S2 c m)
  else bankGet b (PIN_SYMMAP_S3 c m)

/-- Channel c keeps its last drive state in a vector: its source is MEM and the record is not there, or a stream that underran
(R266, R281, R665). -/
def keptIn (f : Flight) (c : Nat) : Bool :=
  let sel := srcSel f.active c (mwSrcbank f.word)
  (sel == 0 && f.memKept) || (sel == 3 && bitAt f.undr (bankGet f.active (PIN_SRC_STRCH c (mwSrcbank f.word))))

/-- The pin action of channel c in UI u of a vector (R250, R252); KEEP where the channel keeps its last drive state. -/
def State.actionAt (_ : State) (f : Flight) (c u : Nat) : Nat :=
  if keptIn f c then 0x3 else mapAction f.active c (mwMapsel f.word) (symbol f c u)

/-- The action compares (R248): EL, EH, EM, EZ, D0EL, D1EH, ENL, ENH. -/
def actCompares (a : Nat) : Bool := [0x4, 0x5, 0x6, 0x7, 0xB, 0xC, 0xD, 0xE].contains a

/-- The compare passes on comparator state cmp: 0 below VOL, 1 between, 2 above VOH (R248). -/
def actPasses (a cmp : Nat) : Bool :=
  if a = 0x4 || a = 0xB then cmp == 0
  else if a = 0x5 || a = 0xC then cmp == 2
  else if a = 0x6 || a = 0x7 then cmp == 1
  else if a = 0xD then cmp != 0
  else if a = 0xE then cmp != 2
  else true

/-- The action drives data (R248). -/
def actDrives (a : Nat) : Bool := [0x0, 0x1, 0xA, 0xB, 0xC].contains a

/-- The driver stays on for the action's own compare: D0EL and D1EH. -/
def actDriveCompare (a : Nat) : Bool := a == 0xB || a == 0xC

/-- The data that a driving action drives, last being the last driven data (R249, R332). -/
def actData (a : Nat) (last : Bool) : Bool :=
  if a = 0x1 || a = 0xC then true else if a = 0xA then !last else false

/-! ## Validity of the shadow entries of classes 2 and 3 (R253) -/

/-- A shadow entry of a class at an offset has a reserved bit set. -/
def State.resvAt (s : State) (cls off : Nat) : Bool := s.cmt.resvShadow.contains (cls, off)

/-- Shadow symbol map m of channel c is valid. -/
def State.mapValid (s : State) (c m : Nat) : Bool :=
  s.getShadow (PIN_SYMMAP_S0 c m) != 15 && s.getShadow (PIN_SYMMAP_S1 c m) != 15
    && s.getShadow (PIN_SYMMAP_S2 c m) != 15 && s.getShadow (PIN_SYMMAP_S3 c m) != 15

/-- Shadow source entry k of channel c is valid. -/
def State.srcValid (s : State) (c k : Nat) : Bool :=
  let sel := s.getShadow (PIN_SRC_SEL c k)
  let inv := s.getShadow (PIN_SRC_INV c k)
  let hi := s.getShadow (PIN_SRC_HI c k)
  let ch := s.getShadow (PIN_SRC_STRCH c k)
  let lane := s.getShadow (PIN_SRC_LANE c k)
  let step := s.getShadow (PIN_SRC_UISTEP c k)
  let bit := s.getShadow (PIN_SRC_BIT c k)
  let csym := s.getShadow (PIN_SRC_CSYM c k)
  !s.resvAt 3 (PIN_SRC_SEL c k).off && decide (sel ≤ 4)
    && (sel == 1 || sel == 2 || (step == 0 && bit == 0))
    && (sel == 1 || sel == 2 || sel == 3 || (inv == 0 && hi == 0))
    && (sel == 3 || (ch == 0 && lane == 0)) && (sel == 4 || csym == 0)
    && decide (bit ≤ 127) && (step == 0 || decide (bit + 7 ≤ 127))

/-- PIN_DVALID of channel c (R255). -/
def State.pinDvalid (s : State) (c : Nat) : Nat :=
  maskOf 8 (s.mapValid c) + 256 * maskOf 4 (s.srcValid c)

end Sys2Proof.Machine
end

