-- ==== Sys2Proof/Machine/Trip.lean ====
section
/-! DEFINITION. What holds a channel away from its land: trips (R501 to R508), PMU connections and contact tests (R456, R457,
R464, R465), calibration and grafts (R544, R556 to R558); and what each means for the units that watch the channel (R432). -/

namespace Sys2Proof.Machine

/-- The causes that hold channel c (R503). -/
def State.holders (s : State) (c : Nat) : List Nat := Assoc.get [] s.grd.holders c

/-- Every channel is held: thermal trip, safe state or power-loss trigger. -/
def State.allTripped (s : State) : Bool := s.on GRD_STATUS_THERM || s.inSafe || s.grd.powerLoss

/-- Channel c is tripped: GRD_TRIPPED (R503). -/
def State.tripped (s : State) (c : Nat) : Bool := s.allTripped || !(s.holders c).isEmpty

/-- The channel has a calibration or a graft in progress (R544). -/
def State.inCal (s : State) (c : Nat) : Bool :=
  s.cal.running.any fun e => decide (e.kind ≤ 4) && e.target == c

/-- The PMU that serves channel c is connected to it (R453). -/
def State.pmuOn (s : State) (c : Nat) : Bool :=
  s.on (PMU_STATUS_CONN (c / 8)) && s.get (PMU_CTRL_CH (c / 8)) == c % 8

/-- The channel that PMU n tests now: its lowest channel still to do (R464). -/
def State.ctNow (s : State) (n : Nat) : Option Nat := s.pmu.contact.find? fun c => c / 8 == n

/-- Channel c counts as under contact test (R456, R464, R465). -/
def State.underContact (s : State) (c : Nat) : Bool :=
  match s.ctNow (c / 8) with
  | none => false
  | some d => d == c || s.on PMU_CT_CFG1_NBR

/-- The pattern neither drives channel c nor evaluates its compares, by R186 and R456. -/
def State.pmuHeld (s : State) (c : Nat) : Bool := s.pmuOn c || s.underContact c

/-- The land of channel c is high-impedance whatever the pattern says (R354, R501, R544, R41); without its tile's domain
(R776). -/
def State.offLand (s : State) (c : Nat) : Bool := s.tripped c || s.inCal c || s.pins.railLow || !s.domOn (28 + 3 * (c / 64))

/-- A source channel that supplies no time-interval events (R432). -/
def State.interrupted (s : State) (c : Nat) : Bool := s.tripped c || s.inCal c || s.untrusted c

/-- Unit n of the time-interval units. -/
def State.tiuUnit (s : State) (n : Nat) : TiuUnit := Assoc.get TiuUnit.idle s.tiu.units n

/-- Unit n replaced. -/
def State.setTiu (s : State) (n : Nat) (u : TiuUnit) : State :=
  { s with tiu := { s.tiu with units := Assoc.set TiuUnit.idle s.tiu.units n u } }

/-- The source register of an input of unit n: 0 the start, k + 1 stop k (R429). -/
def State.tiuSrc (s : State) (n i : Nat) : Nat × Nat :=
  if i = 0 then (s.get (TIU_START_SRC_EDGE n), s.get (TIU_START_SRC_SEL n))
  else (s.get (TIU_STOP_SRC_EDGE n (i - 1)), s.get (TIU_STOP_SRC_SEL n (i - 1)))

/-- The inputs that a measurement of unit n uses (R436). -/
def State.tiuInputs (s : State) (n : Nat) : List Nat :=
  if s.get (TIU_CTRL_MODE n) = 0 then List.range (s.get (TIU_CFG_NSTOP n) + 2) else [0]

/-- Input i of unit n watches a channel that satisfies p. -/
def State.tiuWatches (s : State) (n i : Nat) (p : Nat → Bool) : Bool :=
  decide ((s.tiuSrc n i).1 ≤ 5) && p (s.tiuSrc n i).2

/-- The unit has a measurement, armed or started. -/
def State.tiuBusy (s : State) (n : Nat) : Bool := s.on (TIU_STATUS_ARMED n) || s.on (TIU_STATUS_STARTED n)

/-- Channels that satisfy p become interrupted: measurements that watch one carry SRCINT (R432). -/
def State.tiuInterrupt (s : State) (p : Nat → Bool) : State :=
  (List.range 16).foldl (fun t n =>
    if t.tiuBusy n && (t.tiuInputs n).any fun i => t.tiuWatches n i p then t.setTiu n { t.tiuUnit n with srcint := true }
    else t) s

/-- The PMU switch of channel c opens with END TRIP, in a contact test too (R457, R464). -/
def State.pmuTrip (s : State) (c : Nat) : State :=
  let n := c / 8
  let s1 : State := { s with pmu := { s.pmu with closing := s.pmu.closing.filter fun e => e ≠ (n, c) } }
  if s.pmuOn c || (s.ctNow n == some c && s.on (PMU_STATUS_CONN n)) then (s1.put (PMU_STATUS_CONN n) 0).put (PMU_STATUS_END n) 1 else s1

/-- A calibration entry has ended with a result (R552, R558, R570). -/
def State.calEnded (s : State) (e : CalEntry) (res : Nat) : State :=
  let since := if e.kind ≤ 4 then Assoc.insert s.pmu.since (e.target / 8) s.modSample else s.pmu.since
  let s1 : State := { s with
    cal := { s.cal with running := s.cal.running.filter (· ≠ e) }
    pmu := { s.pmu with since := since } }
  let s2 := (((s1.put CAL_LAST_KIND e.kind).put CAL_LAST_RESULT res).put CAL_LAST_ELEM e.elem).put CAL_LAST_TARGET e.target
  let s3 := if e.kind ≤ 4 then s2.put (CAL_CH_STATUS_LASTRES e.target) res else s2
  let s4 := s3.raise srcCalDone (if e.kind ≤ 4 then e.target else 0) 0
  if res = 1 then (s4.inc CAL_NDONE)
  else ((s4.inc CAL_NFAIL).put CAL_STATUS_FAIL 1).raise srcCalFail (if e.kind ≤ 4 then e.target else 0) 0

/-- An entry goes to the arbiter's queue, or merges with one of its kind and target and keeps the earlier deadline (R562). -/
def mergeEntry (e : CalEntry) : List CalEntry → List CalEntry
  | [] => [e]
  | q :: qs =>
    if q.kind = e.kind && q.target = e.target then
      { q with deadline := min q.deadline e.deadline } :: qs
    else q :: mergeEntry e qs

/-- A trip takes hold of a channel under calibration: it ends with TRIP and its request returns to the queue, ahead of
those requested later (R558, R561). -/
def State.calTrip (s : State) (c : Nat) : State :=
  match s.cal.running.find? fun e => decide (e.kind ≤ 2) && e.target == c with
  | none => s
  | some e =>
    let s1 := s.calEnded e 3
    let e1 : CalEntry := { e with refbad := false, began := 0 }
    let waits := s1.cal.queue.any fun q => q.kind == e.kind && q.target == e.target
    { s1 with cal := { s1.cal with queue := if waits then mergeEntry e1 s1.cal.queue else e1 :: s1.cal.queue } }

/-- What a trip does to a channel, besides being in force (R457, R501, R558). -/
def State.tripChannel (s : State) (c : Nat) : State :=
  ((s.setChan c { s.chan c with drv := 0 }).pmuTrip c).calTrip c

/-- Trips of the channels of a list take hold: cause TRIP, PMU switches, calibrations, interval events (R432, R504). -/
def State.tripEffects (s : State) (cs : List Nat) : State :=
  ((cs.foldl (fun t c => t.tripChannel c) s).tiuInterrupt fun c => cs.contains c).recordCause
    (cs.foldl (fun m c => m ||| s.siteMask c) 0) 6

/-- Cause h holds every channel of a list (R503). -/
def State.trip (s : State) (h : Nat) (cs : List Nat) : State :=
  let s1 : State := { s with grd := { s.grd with
    holders := cs.foldl (fun m c => Assoc.set [] m c (insertNat h (Assoc.get [] m c))) s.grd.holders } }
  s1.tripEffects cs

/-- All 256 channels. -/
def allChannels : List Nat := List.range 256

end Sys2Proof.Machine
end

