-- ==== Sys2Proof/Machine/Tiu.lean ====
section
/-! DEFINITION. Time-interval units (R425 to R452): claims, measurements, results and code-density calibration. The rows of
the pattern's TIUCTL actions stand with the sequencer. -/

namespace Sys2Proof.Machine

/-- A refusal that names CLAIM_DENIED; ARG is bits [31:16] of the block's BAR0 base (R722). -/
def State.claimDenied (s : State) (base : Nat) : State := s.raise srcClaimDenied (base / 2 ^ 16) 0

/-- OWNER codes of R451. -/
def tiuHost : Nat := 1
/-- Owned by a playlist. -/
def tiuPlay : Nat := 2
/-- Owned by calibration. -/
def tiuCal : Nat := 3

/-- Results that a measurement of unit n holds (R436). -/
def State.tiuResults (s : State) (n : Nat) : Nat :=
  if s.get (TIU_CTRL_MODE n) = 2 then 1 else s.get (TIU_CFG_NSTOP n) + 1

/-- RES_HI flags of a result (R443). -/
def TiuUnit.flags (u : TiuUnit) (valid short : Bool) : Nat :=
  b2n valid * 2 ^ 31 + b2n u.warm * 2 ^ 30 + b2n u.nocal * 2 ^ 29 + b2n u.drift * 2 ^ 28 + b2n short * 2 ^ 27
    + b2n u.srcint * 2 ^ 26

/-- Result k of a measurement that ends with code e: its LO and HI words (R438, R439, R443). -/
def TiuUnit.result (u : TiuUnit) (e k : Nat) : Nat × Nat :=
  match u.taken.find? fun t => t.1 == k with
  | some t =>
    let v := codeOf 48 t.2
    (v % 2 ^ 32, u.flags (e != 4 && e != 5) (e == 5) + v / 2 ^ 32)
  | none => (0, u.flags false (e == 5))

/-- A unit is armed anew (R435, R440): sources interrupted now mark it at once. -/
def State.tiuArmUnit (s : State) (n : Nat) : State :=
  let u := s.tiuUnit n
  let s1 := (s.put (TIU_STATUS_ARMED n) 1).put (TIU_STATUS_STARTED n) 0
  let si := (s.tiuInputs n).any fun i => s.tiuWatches n i s.interrupted
  s1.setTiu n { TiuUnit.idle with srcint := si, gated := u.gated, gateOpen := u.gateOpen }

/-- The records of a posted set (R444). -/
def State.tiuRecords (s : State) (n e : Nat) (u : TiuUnit) : State :=
  if s.on (TIU_QUEUE_EN n) then
    (List.range (s.tiuResults n)).foldl (fun t k =>
      let mode := s.get (TIU_CTRL_MODE n)
      let r := u.result e k
      t.enq (s.get (TIU_QUEUE_Q n)) (wordBytes [r.1, r.2, if mode = 2 then s.get (TIU_COUNT n) else 0,
        n * 2 ^ 28 + k * 2 ^ 24 + mode * 2 ^ 22 + e * 2 ^ 19 + s.get CLK_DEVID,
        s.get (TIU_START_GVC_LO n), s.get (TIU_START_GVC_HI n), s.get (TIU_SEQ n), 0])) s
  else s

/-- The result registers of unit n take the set (R440). -/
def State.tiuPost (s : State) (n e : Nat) (u : TiuUnit) : State :=
  (List.range 16).foldl (fun t k =>
    let r := if k < s.tiuResults n then u.result e k else (0, 0)
    (t.put (TIU_RES_LO n k) r.1).put (TIU_RES_HI n k) r.2) s

/-- The measurement of unit n ends with a code (R439, R440). START_GVC of a measurement with no E0 is a free value. -/
def State.tiuEnd (s : State) (n e : Nat) : State :=
  if !s.tiuBusy n then s
  else
    let u := s.tiuUnit n
    let (gvc, s0) := match u.e0 with
      | some _ => (u.gvc, s)
      | none => s.free
    let s1 := ((s0.put (TIU_STATUS_ARMED n) 0).put (TIU_STATUS_STARTED n) 0).put (TIU_STATUS_END n) e
    let s2 := (s1.tiuPost n e u).put64 (TIU_START_GVC_LO n) (TIU_START_GVC_HI n) gvc
    let s3 := if s.get (TIU_CTRL_MODE n) = 2 then s2.put (TIU_COUNT n) u.evs else s2
    let s4 := if e = 5 then s3.inc (TIU_NSHORT n) else s3
    let s5 := (((s4.inc (TIU_SEQ n)).raise srcTiuDone n 0).tiuRecords n e u).setTiu n { TiuUnit.idle with gated := u.gated, gateOpen := u.gateOpen }
    if s.on (TIU_CTRL_CONT n) && decide (e ≠ 2) then s5.tiuArmUnit n else s5

/-- Every measurement in progress ends with a code. -/
def State.tiuEndAll (s : State) (e : Nat) : State := (List.range 16).foldl (fun t n => t.tiuEnd n e) s

/-- The unit is free again; its gate goes with its owner. -/
def State.tiuFree (s : State) (n : Nat) : State :=
  let s1 := (s.tiuEnd n 2).put (TIU_STATUS_OWNER n) 0
  s1.setTiu n { s1.tiuUnit n with gated := false, gateOpen := false }

/-- A playlist that claimed the units of a mask frees them (R433). -/
def State.tiuFreeClaim (s : State) (mask : Nat) : State :=
  (List.range 16).foldl (fun t n => if bitAt mask n && t.get (TIU_STATUS_OWNER n) == tiuPlay then t.tiuFree n else t) s

/-- TIU_TAKE (R433). A unit of a domain that is off is refused too (R770). -/
def effTiuTake (unit : Fin 16) (s : State) : Out :=
  let on := bitAt (s.get PMG_DOM_ON0) (12 + unit.val / 8)
  if s.get (TIU_STATUS_OWNER unit.val) = 0 && on then .next (s.put (TIU_STATUS_OWNER unit.val) tiuHost)
  else .next (s.claimDenied 0x280000)

/-- TIU_TAKE: its effect, where the write reaches TIU_CTRL (R46, R753, R770, R776). -/
def execTiuTake (unit : Fin 16) (s : State) : Out :=
  s.takeReg .host (0x281000+0x100*unit.val) (effTiuTake unit)

/-- TIU_RELEASE (R433, R439). -/
def effTiuRelease (unit : Fin 16) (s : State) : Out :=
  if s.get (TIU_STATUS_OWNER unit.val) = tiuHost then .next (s.tiuFree unit.val) else .next s

/-- TIU_RELEASE: its effect, where the write reaches TIU_CTRL (R46, R753, R770, R776). -/
def execTiuRelease (unit : Fin 16) (s : State) : Out :=
  s.reachReg .host (0x281000+0x100*unit.val) (effTiuRelease unit)

/-- TIU_ARM by the host (R435, R436, R451): no effect while armed; a reserved mode is refused with SRCERR. -/
def effTiuArm (unit : Fin 16) (s : State) : Out :=
  if s.get (TIU_STATUS_OWNER unit.val) ≠ tiuHost then .next (s.claimDenied 0x280000)
  else if s.get (TIU_CTRL_MODE unit.val) = 3 then .next (s.put (TIU_STATUS_SRCERR unit.val) 1)
  else if s.tiuBusy unit.val then .next s
  else .next (s.tiuArmUnit unit.val)

/-- TIU_ARM: its effect, where the write reaches TIU_CTRL (R46, R753, R770, R776). -/
def execTiuArm (unit : Fin 16) (s : State) : Out :=
  s.reachReg .host (0x281000+0x100*unit.val) (effTiuArm unit)

/-- TIU_DISARM by the host (R435, R439). -/
def effTiuDisarm (unit : Fin 16) (s : State) : Out :=
  if s.get (TIU_STATUS_OWNER unit.val) = tiuHost then .next (s.tiuEnd unit.val 2) else .next s

/-- TIU_DISARM: its effect, where the write reaches TIU_CTRL (R46, R753, R770, R776). -/
def execTiuDisarm (unit : Fin 16) (s : State) : Out :=
  s.reachReg .host (0x281000+0x100*unit.val) (effTiuDisarm unit)

/-- The bin-time entry of an interpolator for a bin, with whether its table is valid; without one the entry is a free value
(R426, R445). -/
def State.tiuBin (s : State) (n interp bin : Nat) : Nat × Bool × State :=
  match Assoc.get [] s.tiu.bins (17 * n + interp) with
  | [] => let (v, s1) := s.free; (v % 32768, false, s1)
  | t => (t.getD bin 0, true, s)

/-- The core-die temperature in 1/128 K: die 0 of PMG_TEMP (R787). -/
def State.coreTemp (s : State) : Int := signedOf 16 (s.get (PMG_TEMP_T 0))

/-- The GVC of the vector whose land period holds this instant (R441), all ones with no valid GVC; with no vector at the land
the manual states none. -/
def State.landGvc (s : State) : Nat × State :=
  match s.stamp, s.land.lastLand with
  | none, _ => (2 ^ 64 - 1, s)
  | some _, some g => (g, s)
  | some _, none => s.free

/-- A difference of timestamps as a result (R427). -/
def interval (later earlier : Int) : Int := (later - earlier + 8) / 16

/-- Unit n takes result k as timestamp t less its reference, and ends when it has all of them. A difference beyond ±(2^47 − 1) is no
result: the open stop has reached the range limit (R427, R439). -/
def State.tiuTakeResult (s : State) (n k : Nat) (v : Int) (u : TiuUnit) : State :=
  if 2 ^ 47 ≤ v.natAbs then (s.setTiu n u).tiuEnd n 3
  else
  let u1 := { u with taken := Assoc.insert u.taken k v }
  let s1 := s.setTiu n u1
  if u1.taken.length = s.tiuResults n then s1.tiuEnd n 0 else s1

/-- An event on the start input of unit n at timestamp t (R436, R438). -/
def State.tiuStart (s : State) (n : Nat) (t : Int) (u : TiuUnit) : State :=
  let mode := s.get (TIU_CTRL_MODE n)
  match u.e0 with
  | none =>
    let (g, s1) := s.landGvc
    let drift := bitAt (s.get TIU_CAL_STATUS_CALVALID) n && decide (640 < (s.coreTemp - Assoc.get 0 s.tiu.calTemp n).natAbs)
    let s2 := (s1.put (TIU_STATUS_ARMED n) 0).put (TIU_STATUS_STARTED n) 1
    s2.setTiu n { u with e0 := some t, gvc := g, last := t, warm := s.on CLK_STATUS_WARM, drift := drift }
  | some e0 =>
    if mode = 0 then s
    else if t - u.last < 65536 then (s.setTiu n u).tiuEnd n 5
    else
      let u1 := { u with evs := u.evs + 1, last := t }
      if mode = 1 then s.tiuTakeResult n u.evs (interval t u.last) u1
      else if e0 + (s.get (TIU_GATE n) : Int) * 65536 ≤ t then s.tiuTakeResult n 0 (interval t e0) u1
      else s.setTiu n u1

/-- An event on stop input k (R436, R437): within 250 ps of the hold-off the acceptance is open. -/
def State.tiuStop (s : State) (n k : Nat) (t : Int) (u : TiuUnit) : State :=
  match u.e0 with
  | none => s
  | some e0 =>
    if s.get (TIU_CTRL_MODE n) ≠ 0 || s.get (TIU_CFG_NSTOP n) < k || (u.taken.any fun r => r.1 == k) then s
    else
      let d := t - (e0 + (s.get (TIU_CFG_HOLDOFF n) : Int) * 32768)
      let (v, s1) := if d.natAbs < 16384 then s.free else (b2n (decide (0 < d)), s)
      if v % 2 = 1 then s1.tiuTakeResult n k (interval t e0) u else s1

/-- What an event of an EDGE does to the comparator of its channel: it enters or leaves a state (R366, R429). Drive and trigger events do
nothing to it. -/
def State.tiuCompare (s : State) (edge sel : Nat) : State :=
  let l := s.chan sel
  if edge = 0 then s.setChan sel { l with ah := true, bl := false }
  else if edge = 1 then s.setChan sel { l with ah := false }
  else if edge = 2 then s.setChan sel { l with ah := false, bl := true }
  else if edge = 3 then s.setChan sel { l with bl := false }
  else s

/-- A drive event is a driver transition at the land (R430): one to drive 1 leaves the driver there, and one to drive 0 likewise. -/
def State.tiuDrives (s : State) (edge sel : Nat) : Bool :=
  if edge = 4 then (s.chan sel).drv == 2 else if edge = 5 then (s.chan sel).drv == 1 else true

/-- The interpolator that is to convert an event on an input (R425, R438): each input's own in INTERVAL mode; in PERIOD mode the 17 in rotation
over the events; in FREQ mode the start interpolator and then, for the event that ends the gate, the next in rotation. -/
def TiuUnit.interp (u : TiuUnit) (mode input : Nat) : Nat :=
  if mode = 0 then input
  else match u.e0 with
    | none => 0
    | some _ => if mode = 1 then (u.evs + 1) % 17 else 1

/-- An interpolator is dead for 2.0 ns, inclusive, from the event that it last converted (R428). -/
def State.tiuDead (s : State) (key : Nat) (t : Int) : Bool :=
  match s.tiu.conv.find? fun e => e.1 == key with
  | some e => decide (t - e.2 ≤ 131072)
  | none => false

/-- An interpolator converts an event at timestamp t. -/
def State.tiuConvert (s : State) (key : Nat) (t : Int) : State :=
  { s with tiu := { s.tiu with conv := Assoc.insert s.tiu.conv key t } }

/-- In FREQ mode an event within the gate is only counted, on the coarse counter, whose count stands for its time; it uses no interpolator
(R436, R438). -/
def State.tiuOnlyCounts (s : State) (n : Nat) (u : TiuUnit) (t : Int) : Bool :=
  s.get (TIU_CTRL_MODE n) == 2 && (match u.e0 with
    | some e0 => decide (t < e0 + (s.get (TIU_GATE n) : Int) * 65536)
    | none => false)

/-- A measurement of unit n in progress takes the next event of an input (R436): of its start source until E0, and in PERIOD and FREQ modes
after it too; of each stop source that INTERVAL mode uses once, after E0. -/
def State.tiuListens (s : State) (n input : Nat) (u : TiuUnit) : Bool :=
  let interval := s.get (TIU_CTRL_MODE n) == 0
  s.tiuBusy n && (if input = 0 then u.e0.isNone || !interval
    else interval && u.e0.isSome && decide (input ≤ s.get (TIU_CFG_NSTOP n) + 1) && u.taken.all fun r => r.1 != input - 1)

/-- TIU_EVENT: an event reaches an input of a unit, in a bin after the coarse edge number tick of the reference cycle in progress; the
counter, shared by every unit, makes 20 counts in a reference cycle whatever VCLK does (R425, R426, R428, R430 to R432, R436, R438). -/
def execTiuEvent (unit : Fin 16) (input : Fin 17) (tick : Fin 20) (bin : Fin 1024) (s : State) : Out :=
  let n := unit.val
  let u := s.tiuUnit n
  let (edge, sel) := s.tiuSrc n input.val
  if s.frozen || !s.tiuDrives edge sel then .next s
  else
    let s0 := s.tiuCompare edge sel
    if !s0.tiuListens n input.val u || s0.tiuWatches n input.val s0.interrupted || (u.gated && !u.gateOpen) then .next s0
    else
      let coarse : Int := 32768 * (20 * s.time.rc + tick.val : Nat)
      let key := u.interp (s.get (TIU_CTRL_MODE n)) input.val
      let (f, valid, s1) := s0.tiuBin n key bin.val
      let t := coarse + (f : Int)
      if s1.tiuOnlyCounts n u t then .next (s1.tiuStart n coarse u)
      else if s1.tiuDead (17 * n + key) t then .next s0
      else
        let s2 := s1.tiuConvert (17 * n + key) t
        let u1 := { u with nocal := u.nocal || !valid }
        if input.val = 0 then .next (s2.tiuStart n t u1) else .next (s2.tiuStop n (input.val - 1) t u1)

/-- TIU_TIMEOUT: TIMEOUT ms, or for 0 the range limit, have passed since arming (R439). -/
def execTiuTimeout (unit : Fin 16) (s : State) : Out := .next (s.tiuEnd unit.val 1)

/-- TIU_RANGE: an open stop reaches the range limit (R427, R439). -/
def execTiuRange (unit : Fin 16) (s : State) : Out :=
  if s.on (TIU_STATUS_STARTED unit.val) then .next (s.tiuEnd unit.val 3) else .next s

/-- Milliseconds of FCL_MS. -/
def State.nowMs (s : State) : Nat := s.get64 FCL_MS_LO FCL_MS_HI

/-- TIU_CAL_REQ (R446): each unit named, from the highest bit down (R820), queues a calibration with the TIU
deadline; a full queue takes none (R561). -/
def effTiuCalReq (mask : BitVec 16) (s : State) : Out :=
  .next ((List.range 16).reverse.foldl (fun t n =>
    if bitAt mask.toNat n && decide (t.cal.queue.length < 1024) then
      let e : CalEntry := ⟨7, 0, n, t.time.rc + 100000 * t.get TIU_CAL_DEADLINE, false, false, 0⟩
      ({ t with cal := { t.cal with queue := mergeEntry e t.cal.queue } } : State).put (TIU_STATUS_CALQ n) 1
    else t) s)

/-- TIU_CAL_REQ: its effect, where the write reaches TIU_CAL_REQ (R46, R753, R770, R776). -/
def execTiuCalReq (mask : BitVec 16) (s : State) : Out :=
  s.reachReg .host 0x280000 (effTiuCalReq mask)

/-- The queued calibration of unit n. -/
def State.tiuCalEntry (s : State) (n : Nat) : Option CalEntry := s.cal.queue.find? fun e => e.kind == 7 && e.target == n

/-- TIU_CAL_START: a queued calibration takes its unit once it is free (R446). -/
def execTiuCalStart (unit : Fin 16) (s : State) : Out :=
  match s.tiuCalEntry unit.val with
  | none => .next s
  | some e =>
    if s.get (TIU_STATUS_OWNER unit.val) ≠ 0 then .next s
    else
      let s1 : State := { s with cal := { s.cal with queue := s.cal.queue.filter (· ≠ e), running := s.cal.running ++ [{ e with began := s.time.rc }] } }
      .next (((s1.put (TIU_STATUS_OWNER unit.val) tiuCal).put (TIU_STATUS_CALQ unit.val) 0).put TIU_CAL_STATUS_CALBUSY
        (setBitN (s1.get TIU_CAL_STATUS_CALBUSY) unit.val))

/-- The bin table of a histogram (R447). -/
def binTable : List (BitVec 23) → Nat → List Nat
  | [], _ => []
  | h :: hs, c => ((2 * c + h.toNat + 128) / 256) :: binTable hs (c + h.toNat)

/-- A histogram of a whole calibration: 1,024 bins that hold 2^22 hits (R447). -/
def histWhole (h : List (BitVec 23)) : Bool := h.length == 1024 && h.foldl (fun n x => n + x.toNat) 0 == 2 ^ 22

/-- A histogram that fails (R448). -/
def histBad (h : List (BitVec 23)) : Bool :=
  h.any (fun x => decide (16384 < x.toNat)) || decide (64 < (h.filter fun x => x.toNat == 0).length)

/-- The running calibration of unit n ends, and the unit is free. -/
def State.tiuCalStop (s : State) (n : Nat) : State :=
  let s1 : State := { s with cal := { s.cal with running := s.cal.running.filter fun e => !(e.kind == 7 && e.target == n) } }
  (s1.put (TIU_STATUS_OWNER n) 0).put TIU_CAL_STATUS_CALBUSY (clrBitN (s1.get TIU_CAL_STATUS_CALBUSY) n)

/-- REFCLK is lost: the running calibrations of units end and change no table (R448). -/
def State.tiuCalDrop (s : State) : State :=
  (s.cal.running.filter fun e => e.kind == 7).foldl (fun t e => t.tiuCalStop e.target) s

/-- TIU_CAL_END: the 17 histograms of a running calibration, 2^22 hits each, replace the unit's tables, or fail it (R447, R448). Other
histograms are none that a calibration ends with, and nothing happens. -/
def execTiuCalEnd (unit : Fin 16) (hist : List (List (BitVec 23))) (s : State) : Out :=
  if !(s.cal.running.any fun e => e.kind == 7 && e.target == unit.val) || hist.length ≠ 17 || !hist.all histWhole then .next s
  else
    let n := unit.val
    let s2 := s.tiuCalStop n
    if hist.any histBad then
      .next ((s2.put TIU_CAL_FAIL (setBitN (s2.get TIU_CAL_FAIL) n)).raise srcTiuCalfail n 0)
    else
      let bins := (List.range 17).foldl (fun m i => Assoc.set [] m (17 * n + i) (binTable (hist.getD i []) 0)) s2.tiu.bins
      let s3 : State := { s2 with tiu := { s2.tiu with bins := bins, calTemp := Assoc.set 0 s2.tiu.calTemp n s2.coreTemp } }
      .next (s3.put TIU_CAL_STATUS_CALVALID (setBitN (s2.get TIU_CAL_STATUS_CALVALID) n))

/-- A queued entry has met its deadline unstarted and stays queued (R561). -/
def State.calLate (s : State) (e : CalEntry) : State :=
  let q := s.cal.queue.map fun x => if x = e then { x with late := true } else x
  let s1 : State := { s with cal := { s.cal with queue := q } }
  ((s1.inc CAL_NLATE).put CAL_STATUS_LATE 1).raise srcCalLate (if e.kind ≤ 4 then e.target else 0) 0

/-- TIU_CALLATE: a queued calibration of a unit meets its deadline unstarted (R446, R561). -/
def execTiuCallate (unit : Fin 16) (s : State) : Out :=
  match s.tiuCalEntry unit.val with
  | none => .next s
  | some e =>
    if e.late || s.time.rc < e.deadline then .next s
    else .next ((s.calLate e).raise srcTiuCallate unit.val 0)

end Sys2Proof.Machine
end

