-- ==== Sys2Proof/Machine/Time.lean ====
section
/-! DEFINITION. Vector-clock time with what comes due in it: the units that a playlist has left are freed when its last vector has been at
the land for a period (R433, R442); and the settling of verdicts (R96). -/

namespace Sys2Proof.Machine

/-- The GVC brought to g where it is not there yet. -/
def State.passTo (s : State) (g : Nat) : State := if s.clk.gvc < g then s.advance (g - s.clk.gvc) else s

/-- The GVC brought to g, each release of a list taking effect at its own GVC on the way. -/
def State.passReleases (g : Nat) : List (Nat × Nat) → State → State
  | [], s => s.passTo g
  | (m, t) :: rest, s =>
    if t ≤ g then
      let s1 := s.passTo t
      State.passReleases g rest (({ s1 with tiu := { s1.tiu with releases := rest } } : State).tiuFreeClaim m)
    else s.passTo g

/-- The GVC brought to g where it is not there yet and the gate is open. -/
def State.advanceTo (s : State) (g : Nat) : State :=
  if s.gateOpen && decide (s.clk.gvc < g) then s.passReleases g s.tiu.releases else s

/-- A playlist whose last vector issued in cycle last leaves the units of a mask: they are its own until that vector has been at the land
for a period (R433, R442; DEDUCED, log entry 110). -/
def State.tiuLeave (s : State) (mask last : Nat) : State :=
  if s.gateOpen && decide (s.clk.gvc < last + 65) && decide (mask ≠ 0) then
    { s with tiu := { s.tiu with releases := s.tiu.releases ++ [(mask, last + 65)] } }
  else s.tiuFreeClaim mask

/-- Nothing is at the land any more: the units of playlists that have ended are free at once. -/
def State.tiuLeaveNow (s : State) : State :=
  s.tiu.releases.foldl (fun t e => t.tiuFreeClaim e.1) { s with tiu := { s.tiu with releases := [] } }

/-- The instant of GVC g, if it has come or can come now: past it nothing more happens before the sequencer's next vector
cycle (log entry 6). -/
def State.reach (s : State) (g : Nat) : Option State :=
  if g ≤ s.clk.gvc then some s
  else if s.gateOpen && (s.seq.running.isNone || decide (g ≤ s.seq.next)) then some (s.advanceTo g)
  else none

/-- The boundary that begins cycle g, where it has come or can come now: the cycle before it is in progress. -/
def State.reachBoundary (s : State) (g : Nat) : Option State := (s.reach g).map fun _ => s.advanceTo (g - 1)

/-- VERDICT_SETTLE: at its settle GVC the verdict of a site's oldest ended interval is formed (R96 to R101); before that GVC can have
come nothing happens. -/
def execVerdictSettle (site : Fin 64) (s : State) : Out :=
  let ok (i : Interval) := decide (i.site = site.val) && i.last.isSome && !i.held
  match s.cmt.intervals.find? ok, indexOf? ok s.cmt.intervals with
  | some i, some k =>
    match s.reach (i.settle.getD 0) with
    | none => .next s
    | some s1 =>
      let cause := if !i.evaluated && !s.on CMT_VRD_CTRL_NOCMP_PASS then setBitN i.cause 12 else i.cause
      let i1 := { i with cause := cause, gen := s1.get CMT_LAST_TAG }
      if i1.verdict = 1 && s1.on CMT_VRD_CTRL_CONFIRM then
        let n := s1.cmt.holdSeq + 1
        let is := s1.cmt.intervals.set k { i1 with held := true, heldAt := n }
        .next { s1 with cmt := { s1.cmt with intervals := is, holdSeq := n } }
      else .next (s1.releaseAt k i1)
  | _, _ => .next s

end Sys2Proof.Machine
end

