-- ==== Sys2Proof/Machine/Commit.lean ====
section
/-! DEFINITION. The two commit banks and the two-phase group commit (R58 to R84, R106 to R109, R821, R822). -/

namespace Sys2Proof.Machine

/-! ## Classes (R61, R65) -/

/-- The commit class of the register at a BAR0 offset (R61). -/
def classOf (off : Nat) : Option Nat :=
  match regAt off with
  | some (d, _) => d.cls
  | none => none

/-- The cell with this key belongs to a class of the scope. -/
def inScope (scope id : Nat) : Bool :=
  match classOf (id / 32) with
  | some c => bitAt scope c
  | none => false

/-- The number of CAP_MSCFG or mask-set word m is referenced (R391). -/
def State.msRef (s : State) (m : Nat) : Bool := s.namedBy mwMaskset m

/-- A shadow mask-set word is invalid (R391). -/
def State.msWordBad (s : State) (c m : Nat) : Bool :=
  s.resvAt 4 (CAP_MS_MASK c m).off ||
    (s.getShadow (CAP_MS_AH c m) == 0 && s.getShadow (CAP_MS_AM c m) == 0 && s.getShadow (CAP_MS_AL c m) == 0)

/-- A shadow CAP_MSCFG is invalid (R391). -/
def State.msCfgBad (s : State) (m : Nat) : Bool :=
  s.resvAt 4 (CAP_MSCFG_MTEST m).off || s.getShadow (CAP_MSCFG_MTEST m) == 3

/-- CAP_MSBAD bit m: an invalid shadow entry of number m (R391). -/
def State.msBad (s : State) (m : Nat) : Bool := s.msCfgBad m || (List.range 256).any fun c => s.msWordBad c m

/-- A shadow per-channel trigger-word register is invalid (R396). -/
def State.twchBad (s : State) (c : Nat) : Bool :=
  s.resvAt 7 (CAP_TWCH_CARE c).off ||
    decide (s.getShadow (CAP_TWCH_VALUE c) &&& (0xFF - s.getShadow (CAP_TWCH_CARE c)) ≠ 0)

/-- A CAP_TWw_CFG of a bank names a UI that the rate in force does not have (R396). -/
def twUiBad (v : VSet) (b : Cells) (w : Nat) : Bool :=
  bankGet b (CAP_TW_CFG_ANYUI w) == 0 && decide (v.uis ≤ bankGet b (CAP_TW_CFG_UISEL w))

/-- A shadow CAP_TWw_CFG is invalid (R396). -/
def State.twBad (s : State) (w : Nat) : Bool :=
  s.resvAt 7 (CAP_TW_CFG_SRC w).off || twUiBad s.clk.vset s.shadow w

/-- A shadow state of the trigger program is invalid (R398). -/
def State.tpBad (s : State) (k : Nat) : Bool :=
  let kind := s.getShadow (CAP_TP_EV_KIND k)
  let all := s.getShadow (CAP_TP_EV_ALL k)
  let wset := s.getShadow (CAP_TP_EV_WSET k)
  s.resvAt 7 (CAP_TP_EV_KIND k).off || (kind == 1 && wset == 0) || (kind != 1 && (all != 0 || wset != 0))
    || (kind == 0 && (s.getShadow (CAP_TP_EV_COUNT k) != 0 || s.getShadow (CAP_TP_GO_ACT k) != 0))
    || (s.getShadow (CAP_TP_GO_WITHIN k) == 0 && (s.getShadow (CAP_TP_GO_TO k) != 0 || s.getShadow (CAP_TP_GO_TOACT k) != 0))

/-- An entry of the class that is marked referenced is invalid in the shadow bank (R65, R253, R310, R345, R370, R391, R396).
Site-mask sets and loop parameters have no invalid value. -/
def State.classInvalid (s : State) (cls : Nat) : Bool :=
  if cls = 0 then (List.range 1024).any fun k => s.tsRef k && s.tsBad k
  else if cls = 1 then (List.range 256).any fun k => s.lsRef k && (List.range 256).any fun c => s.lsShadowReason c k != 0
  else if cls = 2 then (List.range 256).any fun c => (List.range 8).any fun m => !s.mapValid c m
  else if cls = 3 then (List.range 256).any fun c => (List.range 4).any fun k => !s.srcValid c k
  else if cls = 4 then (List.range 256).any fun m => s.msRef m && s.msBad m
  else if cls = 6 then s.apgSvalid 0 != 7 || s.apgSvalid 1 != 7
  else if cls = 7 then (List.range 256).any s.twchBad || (List.range 8).any s.twBad || (List.range 16).any s.tpBad
  else false

/-- A shadow entry of the class fails its check code: CMT_INTEG.SBAD (R822). -/
def State.shadowFails (s : State) (cls : Nat) : Bool := s.cmt.shadowBad.any fun e => e.1 == cls

/-- The class is being rebuilt or in resync: reason SHADOW_INCOMPLETE (R64, R66, R109). -/
def State.classBusy (s : State) (cls : Nat) : Bool := bitAt (s.get CMT_SBUSY) cls || bitAt s.cmt.resync cls

/-- The shadow bank of a class is ready (R65). -/
def State.classReady (s : State) (cls : Nat) : Bool :=
  !s.classBusy cls && !s.classInvalid cls && !s.shadowFails cls

/-- The classes of a scope. -/
def scopeList (scope : Nat) : List Nat := (List.range 9).filter (bitAt scope)

/-- The reason of the device's own vote, or 0 for ready (R73). -/
def State.voteReason (s : State) (scope : Nat) : Nat :=
  if s.frozen || s.inSafe then 4
  else if !s.insync then 3
  else if (scopeList scope).any s.shadowFails then 5
  else if (scopeList scope).any s.classInvalid then 2
  else if (scopeList scope).any s.classBusy then 1
  else 0

/-! ## Exchange and resync (R63, R64) -/

/-- Entries put into a map one by one. -/
def Cells.putAll (m : Cells) : Cells → Cells
  | [] => m
  | e :: es => Cells.putAll (Assoc.insert m e.1 e.2) es

/-- The active bank after an exchange of a scope (R63): the classes in scope hold what the shadow bank held. The shadow
bank reads the new active values at once (R64). -/
def exchanged (scope : Nat) (shadow active : Cells) : Cells :=
  Cells.putAll (active.filter fun e => !inScope scope e.1) (shadow.filter fun e => inScope scope e.1)

/-- The banks of a scope exchange (R63, R64, R822). Check codes are formed anew; an entry in scope that failed its code in the
active bank has been replaced. -/
def State.exchange (s : State) (scope : Nat) : State :=
  let out (e : Nat × Nat) := !bitAt scope e.1
  let s1 : State := { s with active := exchanged scope s.shadow s.active
                             cmt := { s.cmt with resync := s.cmt.resync ||| scope
                                                 gen7 := s.cmt.gen7 + b2n (bitAt scope 7)
                                                 activeBad := s.cmt.activeBad.filter out
                                                 shadowBad := s.cmt.shadowBad.filter out
                                                 resvActive := s.cmt.resvActive.filter out
                                                   ++ s.cmt.resvShadow.filter fun e => bitAt scope e.1
                                                 flagCleared := s.cmt.flagCleared.filter fun o =>
                                                   match classOf o with
                                                   | some c => !bitAt scope c
                                                   | none => true } }
  s1.put CMT_STATUS_RESYNC 1

/-- The commit is over on this device: no class is locked and no commit is pending. -/
def State.dropCommit (s : State) : State :=
  { ((s.put CMT_STATUS_LOCKED 0).put CMT_STATUS_VOTED 0).put CMT_STATUS_PENDING 0 with
    cmt := { s.cmt with commit := none, cancel := false } }

/-- A CWAIT word that holds for the pending commit learns its outcome: 1 applied, 2 to T, or none to hold on (R177, R238). -/
def State.cwaitOutcome (s : State) (r : Option Nat) : State :=
  match s.seq.cwait with
  | some (t, 0) => { s with seq := { s.seq with cwait := r.map fun k => (t, k) } }
  | _ => s

/-- A CWAIT word in issue holds for the pending commit from the prepare's arrival (R238). A word whose first cycle is that of the target
finds no commit pending, since the banks exchange as that cycle begins, and holds for the next one (DEDUCED, log entry 111). -/
def State.cwaitLatch (s : State) : State :=
  match s.seq.word, s.cmt.commit, s.seq.cwait with
  | some w, some c, none => if mwCwait w then { s with seq := { s.seq with cwait := some (c.target, 0) } } else s
  | _, _, _ => s

/-- The pending commit is lost (R80): every interval that runs takes cause CMTL, and so does every later one until a later
commit applies or ACKLOST is written. -/
def State.loseCommit (s : State) : State :=
  match s.cmt.commit with
  | none => s
  | some c =>
    let s1 := (((s.dropCommit).inc CMT_NLOST).put CMT_STATUS_LAST 3).event srcCmtLost
    let s2 : State := { s1 with cmt := { s1.cmt with lostMark := some c.target, lostAwait := !c.decided } }
    (s2.cwaitOutcome (some 2)).recordAll 4

/-! ## Commands -/

/-- A prepare arrives: it is forwarded downstream, and the device records its own vote in the same rc (R72, R73). A frozen
device carries no Trellis words (R82). -/
def State.receivePrepare (s : State) (target scope tag : Nat) : State :=
  if s.frozen then s
  else
    let r := s.voteReason scope
    let c : Commit := ⟨target, scope, tag, ⟨r = 0, s.get CLK_DEVID, r⟩, [], false⟩
    let s1 : State := { s with cmt := { s.cmt with commit := some c, lostAwait := false } }
    let s2 := (((s1.put CMT_STATUS_PENDING 1).put CMT_STATUS_LOCKED 1).put CMT_STATUS_VOTED 1).cwaitLatch
    if s.on CLK_DEPTH_DOWN then s2.send (.prepare target scope tag) else s2

/-- The code that refuses a GO, or 0 (R70, R107, R821). Where several cases hold at once, the manual names no order: testing them in the
order of their codes is the model's choice (DESIGN CHOICE, log entry 101). -/
def State.goRefusal (s : State) : Nat :=
  let target := s.get64 CMT_TARGET_LO CMT_TARGET_HI
  if !s.on CMT_STATUS_ROOT then 1
  else if s.on CMT_STATUS_PENDING then 2
  else if !s.gateOpen || decide (target < s.clk.gvc + s.leadVc) then 3
  else if s.get CMT_SCOPE = 0 then 4
  else if s.frozen || s.inSafe then 5
  else 0

/-- COMMIT_GO: CMT_CTRL.GO (R69 to R71). The root receives its own prepare in the same rc (R72, d = 0). -/
def effCommitGo (s : State) : Out :=
  let r := s.goRefusal
  if r ≠ 0 then .next (s.put CMT_STATUS_GOREF r)
  else
    let left := if s.on CMT_CTRL_RETRY_EN then s.get CMT_RETRY_COUNT else 0
    let s1 : State := { s with cmt := { s.cmt with cancel := false } }
    .next (((s1.put CMT_STATUS_PENDING 1).put CMT_STATUS_RETRYLEFT left).receivePrepare
      (s.get64 CMT_TARGET_LO CMT_TARGET_HI) (s.get CMT_SCOPE) (s.get CMT_CTRL_TAG))

/-- COMMIT_GO: its effect, where the write reaches CMT_CTRL (R46, R753, R770, R776). -/
def execCommitGo (s : State) : Out :=
  s.reachReg .host 0x10010 effCommitGo

/-- COMMIT_CANCEL: CMT_CTRL.CANCEL at the root before its decision (R75, R107). -/
def effCommitCancel (s : State) : Out :=
  if s.on CMT_STATUS_ROOT && s.on CMT_STATUS_VOTED then .next { s with cmt := { s.cmt with cancel := true } } else .next s

/-- COMMIT_CANCEL: its effect, where the write reaches CMT_CTRL (R46, R753, R770, R776). -/
def execCommitCancel (s : State) : Out :=
  s.reachReg .host 0x10010 effCommitCancel

/-- ACKLOST: the INVALID marking of a lost commit ends (R80). -/
def effAcklost (s : State) : Out := .next { s with cmt := { s.cmt with lostMark := none } }

/-- ACKLOST: its effect, where the write reaches CMT_CTRL (R46, R753, R770, R776). -/
def execAcklost (s : State) : Out :=
  s.reachReg .host 0x10010 effAcklost

/-- PREPARE_RECEIVE (R72). -/
def execPrepareReceive (target : Gvc) (scope : BitVec 9) (tag : BitVec 16) (s : State) : Out :=
  .next (s.receivePrepare target.toNat scope.toNat tag.toNat)

/-- VOTE_RECEIVE: a vote arrives from a downstream port (R74). -/
def execVoteReceive (port : Fin 4) (ready : Bool) (reason : BitVec 4) (dev : BitVec 13) (s : State) : Out :=
  match s.cmt.commit with
  | none => .next s
  | some c =>
    if s.frozen then .next s
    else
      let down := Assoc.set ⟨true, 0x2000, 0⟩ c.down port.val ⟨ready, dev.toNat, reason.toNat⟩
      .next { s with cmt := { s.cmt with commit := some { c with down := down } } }

/-- The place of a reason in the order of R74. -/
def reasonOrder (r : Nat) : Nat :=
  if r = 4 then 0 else if r = 3 then 1 else if r = 6 then 2 else if r = 5 then 3 else if r = 2 then 4 else 5

/-- Of two votes, the one that a combined vote carries (R74). -/
def combine (a b : Vote) : Vote :=
  if a.ready then b else if b.ready then a
  else if a.dev < b.dev then a else if b.dev < a.dev then b
  else if reasonOrder a.reason ≤ reasonOrder b.reason then a else b

/-- The downstream tree ports, as CLK_DEPTH.DOWN shows them. -/
def State.downPorts (s : State) : List Nat := (List.range 4).filter (bitAt (s.get CLK_DEPTH_DOWN))

/-- The combined vote of a commit: a downstream vote that has not arrived counts as VOTE_TIMEOUT with this device's ID. -/
def State.combined (s : State) (c : Commit) : Vote :=
  s.downPorts.foldl (fun v p =>
    combine v (match c.down.find? fun e => e.1 == p with
      | some e => e.2
      | none => ⟨false, s.get CLK_DEVID, 6⟩)) c.own

/-- VOTE_FORWARD: the combined vote goes upstream at the forwarding rc (R72, R74). The root decides instead. -/
def execVoteForward (s : State) : Out :=
  match s.cmt.commit with
  | none => .next s
  | some c => if s.frozen || s.on CMT_STATUS_ROOT then .next s else .next (s.send (.vote (s.combined c)))

/-- A decision arrives at a device that holds the commit (R72, R77, R78). -/
def State.applyDecision (s : State) (c : Commit) (commit retry : Bool) (reason dev : Nat) : State :=
  let s1 := (s.put CMT_STATUS_LOCKED 0).put CMT_STATUS_VOTED 0
  if commit then { s1 with cmt := { s1.cmt with commit := some { c with decided := true } } }
  else
    let s2 := ((((s1.dropCommit).inc CMT_NABORT).put CMT_ABORT_CAUSE_REASON reason).put CMT_ABORT_CAUSE_DEVID dev).put CMT_STATUS_LAST 2
    let s3 := s2.event srcCmtAbort
    s3.cwaitOutcome (if retry then none else some 2)

/-- COMMIT_DECIDE: at its decision rc the root decides, broadcasts the decision and acts on it (R72, R75); an abort for
SHADOW_INCOMPLETE is retried while retries are left and the new target is outside the lead (R83). -/
def execCommitDecide (s : State) : Out :=
  match s.cmt.commit with
  | none => .next s
  | some c =>
    if !s.on CMT_STATUS_ROOT || c.decided || s.frozen then .next s
    else
      let v := if s.cmt.cancel then ⟨false, s.get CLK_DEVID, 7⟩ else s.combined c
      let target := c.target + s.get CMT_RETRY_STEP * 256
      let left := s.get CMT_STATUS_RETRYLEFT
      let retry := !v.ready && decide (v.reason = 1) && s.on CMT_CTRL_RETRY_EN && decide (left ≠ 0)
        && decide (s.clk.gvc + s.leadVc ≤ target)
      let (reason, dev) := if v.ready then (0, 0) else (v.reason, v.dev)
      let s1 := if s.on CLK_DEPTH_DOWN then s.send (.decision v.ready retry c.tag reason dev) else s
      let s2 := s1.applyDecision c v.ready retry reason dev
      if retry then .next ((s2.put CMT_STATUS_RETRYLEFT (left - 1)).receivePrepare target c.scope c.tag) else .next s2

/-- DECISION_RECEIVE (R72, R77, R78, R81). The root has decided for itself. A device that holds no vote forwards the decision
and counts it only when it comes late for a commit that was lost; one that comes after the target's cycle finds the commit lost. -/
def execDecisionReceive (commit retry : Bool) (tag : BitVec 16) (reason : BitVec 4) (dev : BitVec 13) (s : State) : Out :=
  if s.frozen || s.on CMT_STATUS_ROOT then .next s
  else
    let s1 := if s.on CLK_DEPTH_DOWN then s.send (.decision commit retry tag.toNat reason.toNat dev.toNat) else s
    match s1.cmt.commit with
    | some c =>
      if c.decided then .next s1
      else if c.target < s1.clk.gvc then
        let s2 := s1.loseCommit.inc CMT_NLOST
        .next { s2 with cmt := { s2.cmt with lostAwait := false } }
      else .next (s1.applyDecision c commit retry reason.toNat dev.toNat)
    | none =>
      if s1.cmt.lostAwait then .next { s1.inc CMT_NLOST with cmt := { s1.cmt with lostAwait := false } } else .next s1

/-- The instant of a commit's target. A CWAIT word holds up to the target unless its wait limit comes first (R177, R238). -/
def State.reachTarget (s : State) (t : Nat) : Option State :=
  match s.seq.word, s.seq.cwait with
  | some w, some c =>
    if s.gateOpen && c == (t, 0) && decide (s.seq.holds + (t - s.seq.next) ≤ mwWaitVc w) then some (s.advanceTo t) else s.reach t
  | _, _ => s.reach t

/-- COMMIT_EXCHANGE: at the commit point a decided commit applies (R63, R64, R77); past it no bank exchanges, and the commit is lost
(R81). -/
def execCommitExchange (s : State) : Out :=
  match s.cmt.commit with
  | none => .next s
  | some c =>
    if !c.decided || !s.gateOpen then .next s
    else if c.target < s.clk.gvc then .next s.loseCommit
    else
      match s.reachTarget c.target with
      | none => .next s
      | some t =>
        let s1 := ((t.exchange c.scope).dropCommit).cwaitOutcome (some 1)
        let s2 := (((s1.inc CMT_NCOMMIT).put64 CMT_LAST_LO CMT_LAST_HI c.target).put CMT_LAST_TAG c.tag).put CMT_STATUS_LAST 1
        .next { s2 with cmt := { s2.cmt with lostMark := none } }

/-- RESYNC_END: the resync copy has run over every class (R64). -/
def execResyncEnd (s : State) : Out := .next { s.put CMT_STATUS_RESYNC 0 with cmt := { s.cmt with resync := 0 } }

/-- COMMIT_LOST: the target's cycle begins and no decision has come (R72, R80). -/
def execCommitLost (s : State) : Out :=
  match s.cmt.commit with
  | none => .next s
  | some c =>
    if c.decided then .next s
    else
      match s.reachTarget c.target with
      | none => .next s
      | some t => .next t.loseCommit

/-- A failing active entry, as a validity flag that a read cleared (R823): classes 0 and 1 only. -/
def addMark (e : Nat × Nat) (l : List (Nat × Nat)) : List (Nat × Nat) := if l.contains e then l else l ++ [e]

/-- CFG_SCRUB: the scrub checks one entry of a bank (R822). -/
def execCfgScrub (active : Bool) (cls : Fin 9) (offset : BitVec 28) (fails : Bool) (s : State) : Out :=
  if !fails || decide (classOf offset.toNat ≠ some cls.val) then .next s
  else
    let s1 := s.inc CMT_NINTEG
    if active then
      .next { s1.put CMT_INTEG_ABAD (s1.get CMT_INTEG_ABAD ||| 2 ^ cls.val) with
        cmt := { s1.cmt with activeBad := addMark (cls.val, offset.toNat) s1.cmt.activeBad } }
    else .next { s1 with cmt := { s1.cmt with shadowBad := addMark (cls.val, offset.toNat) s1.cmt.shadowBad } }

/-! ## The harvest request (R89 to R91, R110, R111) -/

/-- The harvest that is pending next, group or local, is missed or withdrawn: PENDING clears when none is left. -/
def State.harvestDone (s : State) : State :=
  s.flag CMT_HRV_STATUS_PENDING (s.cmt.hrvGroup.isSome || s.cmt.hrvLocal.isSome)

/-- HARVEST_GO (R89, R90). Where several refusals hold at once, the manual names no order: testing them in the order of their codes is the
model's choice (DESIGN CHOICE, log entry 101). -/
def effHarvestGo (s : State) : Out :=
  let target := s.get64 CMT_HRV_TARGET_LO CMT_HRV_TARGET_HI
  let isLocal := s.on CMT_HRV_CTRL_LOCAL
  let lead := s.clk.vset.vcOf (if isLocal then 16 else 128 + 64 * s.get CMT_HOPS)
  let ref := if !isLocal && !s.on CMT_STATUS_ROOT then 1 else if s.on CMT_HRV_STATUS_PENDING then 2
    else if !s.gateOpen || decide (target < s.clk.gvc + lead) then 3 else 0
  if ref ≠ 0 then .next (s.put CMT_HRV_STATUS_GOREF ref)
  else
    let s1 := s.put CMT_HRV_STATUS_PENDING 1
    if isLocal then .next { s1 with cmt := { s1.cmt with hrvLocal := some target } }
    else .next { s1 with cmt := { s1.cmt with hrvGroup := some target, hrvSent := false } }

/-- HARVEST_GO: its effect, where the write reaches CMT_HRV_CTRL (R46, R753, R770, R776). -/
def execHarvestGo (s : State) : Out :=
  s.reachReg .host 0x10050 effHarvestGo

/-- HARVEST_CANCEL (R110): a group harvest whose request has not left, or a local one before the first rc of its target's cycle. -/
def effHarvestCancel (s : State) : Out :=
  let group := if s.cmt.hrvSent then s.cmt.hrvGroup else none
  let loc := if s.cmt.hrvLocal.any fun h => decide (s.clk.gvc < h) then none else s.cmt.hrvLocal
  .next ({ s with cmt := { s.cmt with hrvGroup := group, hrvLocal := loc } } : State).harvestDone

/-- HARVEST_CANCEL: its effect, where the write reaches CMT_HRV_CTRL (R46, R753, R770, R776). -/
def execHarvestCancel (s : State) : Out :=
  s.reachReg .host 0x10050 effHarvestCancel

/-- HARVEST_RECEIVE: a group harvest request arrives and is forwarded (R89, R91). A request whose target cycle has begun is
too late. -/
def execHarvestReceive (target : Gvc) (s : State) : Out :=
  if s.frozen then .next s
  else
    let s1 := if s.on CLK_DEPTH_DOWN then s.send (.harvest target.toNat) else s
    if target.toNat ≤ s.clk.gvc || !s.gateOpen then .next ((s1.put CMT_HRV_STATUS_MISSED 1).event srcCmtHrvMiss)
    else .next { s1.put CMT_HRV_STATUS_PENDING 1 with cmt := { s1.cmt with hrvGroup := some target.toNat, hrvSent := true } }

/-- A pending harvest is missed (R91, R128). -/
def State.missHarvest (s : State) : State :=
  if s.cmt.hrvGroup.isSome || s.cmt.hrvLocal.isSome then
    (({ s with cmt := { s.cmt with hrvGroup := none, hrvLocal := none } } : State).harvestDone.put CMT_HRV_STATUS_MISSED 1).event srcCmtHrvMiss
  else s

/-- HARVEST_MISS: no request came before the first rc of the target of a group harvest (R91). -/
def execHarvestMiss (s : State) : Out := .next ((s.put CMT_HRV_STATUS_MISSED 1).event srcCmtHrvMiss)

/-- HARVEST_HOLD: HOLD keeps the bank shown; clearing it shows a newer harvest in the next vector cycle (R92). -/
def effHarvestHold (hold : Bool) (s : State) : Out :=
  let s1 := (s.flag CMT_HRV_CTRL_HOLD hold).flag CMT_HRV_STATUS_HELD hold
  .next { s1 with cmt := { s1.cmt with hrvSwitch := !hold && s.cmt.hrvNewer } }

/-- HARVEST_HOLD: its effect, where the write reaches CMT_HRV_CTRL (R46, R753, R770, R776). -/
def execHarvestHold (hold : Bool) (s : State) : Out :=
  s.reachReg .host 0x10050 (effHarvestHold hold)

end Sys2Proof.Machine
end

