-- ==== Sys2Proof/Machine/Stop.lean ====
section
/-! DEFINITION. Conditions at their ages (R218 to R221), the end of a playlist (R240 to R242, R274, R413), the refusal of a
queued one (R272), and the closing of the VCLK gate and the loss of synchronisation (R60, R128). -/

namespace Sys2Proof.Machine

/-! ## Results by period -/

/-- The compare results of the period of cycle g (R219). -/
def State.period (s : State) (g : Nat) : Period :=
  match s.fail.periods.find? fun p => p.cycle == g with
  | some p => p
  | none => ⟨g, 0, false⟩

/-- A site has a counted fail in a period at or before cycle g (R97, R219). -/
def State.failedBy (s : State) (n g : Nat) : Bool :=
  match s.fail.siteFail.find? fun e => e.1 == n with
  | some e => decide (e.2 ≤ g)
  | none => false

/-- The kill of a site has taken effect by cycle g (R410 to R412). -/
def State.killedBy (s : State) (n g : Nat) : Bool :=
  match s.fail.killAt.find? fun e => e.1 == n with
  | some e => decide (e.2 ≤ g)
  | none => false

/-- Every site of a mask has failed in a period at or before cycle f, or been killed by cycle k (R166, R219). -/
def State.allOut (s : State) (sites f k : Nat) : Bool :=
  (List.range 64).all fun n => !bitAt sites n || s.failedBy n f || s.killedBy n k

/-- The sites of the running playlist. -/
def State.playSites (s : State) : Nat := (s.seq.running.map (·.sites)).getD 0

/-- The source of a condition code as logged at the end of cycle t; as it stands now where that end has not passed; for a cycle
before the running playlist, as it stood at the start (R218, R221). -/
def State.logged (s : State) (code t : Nat) : Bool :=
  if s.seq.running.isSome && decide (t < s.seq.startGvc) then bitAt s.seq.startCond code
  else if s.clk.gvc ≤ t then bitAt s.condNow code
  else bitAt ((condAt s.seq.hist t).getD (if s.seq.running.isSome then s.seq.startCond else s.condNow)) code

/-- The truth of a condition code that the device forms itself, in vector cycle u (R218 to R220). A code that names no such condition is
false, which a CLK_GC_SRCn that holds one contributes (R146; DESIGN CHOICE, log entry 106). -/
def State.localCond (s : State) (code u : Nat) : Bool :=
  let t := u - 104
  let inPlay := s.seq.running.isSome && decide (s.seq.startGvc + 104 ≤ u)
  if code = 0 then false
  else if code = 1 then inPlay && decide ((s.period t).failed ≠ 0)
  else if code = 2 then inPlay && (s.period t).evaluated && decide ((s.period t).failed = 0)
  else if code = 3 then inPlay && s.seq.started && s.fail.siteFail.any fun e => decide (e.2 ≤ t)
  else if code = 4 then inPlay && s.seq.started && s.allOut s.playSites t t
  else if code = 5 || code = 6 then s.logged code (u - 8)
  else if code = 7 then s.logged code (u - 2)
  else if code < 0x30 then s.logged code (u - 1)
  else if code < 0x38 then false
  else inPlay && decide (bits (s.period t).failed (8 * (code - 0x38)) 8 ≠ 0)

/-! ## Group conditions (R146 to R148) -/

/-- CLK_GC_AGE: the vc of M + 1 rc and 1 vc; 0 while out of synchronisation (R147, R150). -/
def State.gcAge (s : State) : Nat := if s.insync then s.clk.vset.vcOf (s.get CLK_GC_PATH + 1) + 1 else 0

/-- The rc of CLK_EPOCH in which vector cycle c ends; one that ends on an rc boundary ends in the rc that the boundary closes. -/
def State.rcOfEnd (s : State) (c : Nat) : Int :=
  let p : Int := s.clk.vset.num
  let t : Int := s.clk.epoch * p + s.clk.phase + ((c : Int) + 1 - s.clk.gvc) * s.clk.vset.den
  (t - 1) / p

/-- The device has no other member in its group. -/
def State.alone (s : State) : Bool := s.get CLK_DEPTH_UP == 0xF && s.get CLK_DEPTH_DOWN == 0

/-- What this device contributes to condition k for the rc in which cycle c ended: the OR or the AND of its local condition over the
cycles that end in that rc (R146), those before it came into sync counting as the neutral value, as does every one of a device that is not
in sync (R148). -/
def State.contribution (s : State) (k c : Nat) : Bool :=
  let r := s.rcOfEnd c
  let cs := ((List.range 41).map fun i => c + i - 20).filter fun x =>
    s.insync && decide (s.clk.syncFrom ≤ x) && s.rcOfEnd x == r
  let src := s.get (CLK_GC_SRC k)
  if bitAt (s.get CLK_GC_CFG_OP) k then cs.all (fun x => s.localCond src x) else cs.any (fun x => s.localCond src x)

/-- The group's combination of condition k for the rc in which cycle c ended (R146). -/
def State.combination (s : State) (k c : Nat) : Bool :=
  let others := Config.groupOthers k (s.rcOfEnd c).toNat
  if bitAt (s.get CLK_GC_CFG_OP) k then s.contribution k c && (s.alone || others)
  else s.contribution k c || (!s.alone && others)

/-- Group condition k as seen in vector cycle u (R147, R220, R221). -/
def State.groupCond (s : State) (k u : Nat) : Bool :=
  let c := u - s.gcAge
  let c1 := if s.seq.running.isSome then max c (s.seq.startGvc - 1) else c
  bitAt (s.get CLK_GC_CFG_EN) k && s.insync && s.combination k c1

/-- The truth of a condition code in vector cycle u (R218 to R220). -/
def State.cond (s : State) (code u : Nat) : Bool :=
  if 0x30 ≤ code && code < 0x38 then s.groupCond (code - 0x30) u else s.localCond code u

/-! ## Ends -/

/-- The head slots that a playlist needs: its rooted targets by slot and data position (R230). A position is one of a segment list: heads of
two playlists are the same only where their lists are (DEDUCED, log entry 112). -/
def Playlist.heads (p : Playlist) : List (Nat × Nat × Nat × List Nat) := (p.roots.map fun r => (r.slot, r.idx, r.datum, p.segs)).eraseDups

/-- The head of a rooted target is on die. -/
def State.headOf (s : State) (k : Nat × Nat × Nat × List Nat) : Option Head :=
  s.seq.heads.find? fun h => (h.slot, h.idx, h.datum, h.segs) == k

/-- The heads that no running or queued playlist needs are given up; SEQ_HEADS shows the head slots in use, and how many heads of the
running playlist, or with none of the one that starts, are loaded (R230, R243). -/
def State.setHeads (s : State) : State :=
  let run := (s.seq.running.map (·.heads)).getD []
  let que := (s.seq.queued.map (·.heads)).getD []
  let keep := s.seq.heads.filter fun h => (run ++ que).contains (h.slot, h.idx, h.datum, h.segs)
  let s1 : State := { s with seq := { s.seq with heads := keep } }
  let now := if s.seq.running.isSome then run else que
  (s1.put SEQ_HEADS_USED keep.length).put SEQ_HEADS_LOADED (now.filter fun k => (s1.headOf k).isSome).length

/-- A refusal of R272 is reported. -/
def State.reportRefusal (s : State) (code : Nat) : State :=
  (((s.put SEG_PL_STATUS_REFUSE code).put SEG_PL_STATUS_REFUSED 1).inc SEG_PL_NREFUSE).event srcSegPlref

/-- The queued playlist is refused with a code (R272). Units that it has claimed are freed (R433). -/
def State.refusePlaylist (s : State) (code : Nat) : State :=
  let s1 := match s.seq.queued with
    | some p => if s.seq.queuedReady then s.tiuFreeClaim p.claim else s
    | none => s
  let s2 : State := { s1 with seq := { s1.seq with queued := none, queuedReady := false } }
  let s3 := (((s2.put SEG_PL_STATUS_QREADY 0).put SEG_PL_STATUS_QCHECK 0).put SEG_PL_STATUS_QUEUED 0).put SEG_PL_NUM_QUEUED 0
  let s4 := if s.seq.running.isSome then s3 else s3.put SEQ_STATUS_HEADSRDY 0
  (s4.reportRefusal code).setHeads

/-- Declared power without a playlist, in mW (R783). -/
def idlePower : Nat := 520000

/-- PMG_BUCKET: 4,500 mJ less the excess of the current slot, as its declared power makes it so far, and of the 999 slots before it, with a
floor of 0 (R784). -/
def State.setBucket (s : State) : State :=
  s.put PMG_BUCKET ((4500000 - ((s.pmg.declMax - 520000) + s.pmg.excess.sum)) / 1000)

/-- The declared power in force changes (R783); the highest of the slot is kept for R784. -/
def State.setDecl (s : State) (mw : Nat) : State :=
  let s1 : State := { s.put PMG_PDECL mw with pmg := { s.pmg with declMax := max s.pmg.declMax mw } }
  s1.setBucket

/-- The vector cycle that the next boundary begins. -/
def State.boundary (s : State) : Nat := if s.clk.gvc < s.seq.next then s.clk.gvc + 1 else s.clk.gvc

/-- Sites with an open interval and no fail that has reached its fail-flag age by cycle u, the last before the stop: those that a
Rake stop withdraws (R413). -/
def State.rakeSites (s : State) (u : Nat) : Nat :=
  s.cmt.intervals.foldl (fun m i =>
    if i.last.isNone && !s.failedBy i.site (u - 104) then m ||| 2 ^ i.site else m) 0

/-- The ring freezes; HOLE says that a record within the frozen span was dropped (R408, R409, R422). -/
def State.freezeRing (s : State) : State :=
  let s1 := s.put CAP_STATUS_FROZEN 1
  if s1.cap.hole then s1.put CAP_STATUS_HOLE 1 else s1

/-- A playlist that fired the trigger program has ended before the post-trigger depth: the ring freezes (R409). Rake's end of a playlist is
the take of its last vector (R386), which comes 99 cycles after its issue (DEDUCED, log entry 107). -/
def State.freezeShort (s : State) : State :=
  if s.on CAP_STATUS_FIRED && !s.on CAP_STATUS_FROZEN then s.freezeRing.put CAP_STATUS_SHORTPOST 1 else s

/-- The vector boundary that comes next: the one that begins the cycle after the present one, or this one where the sequencer has
not yet used the present cycle. -/
def State.toBoundary (s : State) : State := if s.clk.gvc < s.seq.next then s.advanceTo (s.clk.gvc + 1) else s

/-- The running playlist ends with a reason of R246 at the boundary after its last issued vector (R95, R240, R242, R413).
gives: the reasons RAKE, STOPAT and HOST give way to that of a normal end. -/
def State.endPlaylist (s : State) (reason : Nat) : State :=
  match s.seq.running with
  | none => s
  | some p =>
    let last := s.seq.issuedAt.getD 0
    let s1 := if reason = 1 || reason = 2 then s
      else if reason = 11 then s.recordCause (s.rakeSites (s.boundary - 1)) 11
      else s.recordAll 11
    let s2 := s1.endIntervals allSites last
    let novec := !s.seq.started
    let s3 := (((s2.put SEQ_STOP_REASON reason).flag SEQ_STOP_NOVEC novec).put SEQ_STOP_SLOT
      (if novec then ((p.roots.head?.map (·.slot)).getD 0) else (s.seq.issuedSlot))).put64 SEQ_STOP_GVC_LO SEQ_STOP_GVC_HI
      (if novec then 2 ^ 64 - 1 else last)
    let s4 := ((((s3.put SEQ_STATUS_RUN 0).put SEQ_STATUS_MODE 0).put SEQ_STATUS_HOLDKIND 0).put SEQ_STATUS_MATCHING 0).put SEQ_STK_DEPTH 0
    let s5 : State := { s4 with seq := { s4.seq with running := none, started := false, word := none, stack := [], vecs := 0
                                                     holds := 0, stalls := 0, stalled := false, cwait := none
                                                     buf := [], rets := [] }
                                fail := { s4.fail with rakeStop := none } }
    let s6 := (((if novec then s5.tiuFreeClaim p.claim else s5.tiuLeave p.claim last).setDecl idlePower).toBoundary).event srcSeqEnd
    let s61 := if s6.land.flights.isEmpty then s6.freezeShort else s6
    let s7 := if s61.on SEG_PL_STATUS_QREADY then s61 else s61.put SEQ_STATUS_HEADSRDY 0
    if reason = 1 || reason = 2 || s7.seq.queued.isNone then s7.setHeads else s7.refusePlaylist 0x10

/-! ## The gate -/

/-- No vector cycle is in progress any more at the modulator sample 0 of a chain that is still to come (R472). -/
def State.unstampChains (s : State) : State :=
  (s.pmu.chains.filter fun e => decide (s.time.rc < 5 * e.2.start)).foldl (fun t e =>
    t.put64 (DFC_START_GVC_LO e.1) (DFC_START_GVC_HI e.1) (2 ^ 64 - 1)) s

/-- What leaving synchronisation does at once (R60, R100, R128): cause GRP in every running site, INSYNC 0. -/
def State.loseInsync (s : State) : State :=
  if s.insync then ((s.recordAll 10).put CMT_STATUS_INSYNC 0).unstampChains else s

/-- The VCLK gate closes (R128): the playlist stops with CLOCK, a pending commit is lost, a pending harvest is missed,
edges still to come are gone, and vectors that nothing has sampled with them (R352), and synchronisation is lost. No vector lands for 64 vc
after the gate opens, longer than any turnaround or runt time, so those times start afresh; a level settle runs on (R375). -/
def State.closeGate (s : State) : State :=
  if !s.gateOpen then s.loseInsync
  else
    let s1 := ((s.recordAll 10).endPlaylist 0xD).tiuLeaveNow.loseCommit.missHarvest
    let s2 := ((s1.put CMT_STATUS_INSYNC 0).put CLK_STATUS_GATE 0).unstampChains
    let v := s2.clk.vset
    let left (t : Int) : Option (Int × Nat) :=
      let n := ceilDivInt (t + 4000000 * v.num - (s2.clk.gvc + 1) * (20000 * v.den)) v.num
      if 0 < n then some (n, s2.time.rc) else none
    let still (l : ChanLand) : ChanLand :=
      { l with lastTrans := none, offSince := none, cursor := none, settle := none, past := []
               rest := match l.settle with
                 | some t => left t
                 | none => l.rest }
    let chans := (s2.land.chans.map fun e => (e.1, still e.2)).filter fun e => e.2 ≠ ChanLand.reset
    let fs := (s2.land.flights.filter fun f => !f.samples.isEmpty).map fun f => { f with cut := true, landed := true, tiu := false }
    let s3 : State := { s2 with land := { s2.land with flights := fs, lastLand := none, chans := chans }
                                seq := { s2.seq with act := none } }
    if fs.isEmpty && !s2.land.flights.isEmpty then s3.freezeShort else s3

/-- The VCLK gate opens, with the cycle of GVC g beginning: settles that still run go on in land time (R375). -/
def State.openGate (s : State) (g : Nat) : State :=
  let v := s.clk.vset
  let again (l : ChanLand) : ChanLand :=
    match l.rest with
    | none => l
    | some (n, r) =>
      let m : Int := n - 20000 * (s.time.rc - r : Nat)
      { l with rest := none, settle := if 0 < m then some (g * (20000 * v.den) - (4000000 - m) * v.num) else none }
  let chans := (s.land.chans.map fun e => (e.1, again e.2)).filter fun e => e.2 ≠ ChanLand.reset
  ({ s with land := { s.land with chans := chans } } : State).put CLK_STATUS_GATE 1

end Sys2Proof.Machine
end

