-- ==== Sys2Proof/Machine/Playlist.lean ====
section
/-! DEFINITION. Playlists: images, the start check, head loads, the start, withdrawal (R201 to R206, R228 to R230, R269 to R275,
R785). -/

namespace Sys2Proof.Machine

/-! ## Images (R269, R270) -/

/-- A little-endian word of an image. -/
def imgWord (img : List (BitVec 8)) (n : Nat) : Nat := ofBytes ((img.drop (4 * n)).take 4)

/-- Two rooted targets name one slot. -/
def dupSlots : List Root → Bool
  | [] => false
  | r :: rs => (rs.any fun q => q.slot == r.slot) || dupSlots rs

/-- The rooted-target table of an image. -/
def imgRoots (img : List (BitVec 8)) (n : Nat) : List Root :=
  (List.range n).map fun k =>
    ⟨bits (imgWord img (16 + 2 * k)) 0 18, bits (imgWord img (16 + 2 * k)) 18 12, imgWord img (17 + 2 * k)⟩

/-- The segment list of an image. -/
def imgSegs (img : List (BitVec 8)) (roots n : Nat) : List Nat :=
  (List.range n).map fun k => bits (imgWord img (16 + 2 * roots + k)) 0 16

/-- The image fails test PL_FORMAT of R272. -/
def imgFormatBad (img : List (BitVec 8)) : Bool :=
  let w (n : Nat) := imgWord img n
  let nseg := bits (w 0) 16 16
  let nroot := bits (w 1) 16 7
  let roots := imgRoots img nroot
  nseg == 0 || decide (4096 < nseg) || nroot == 0 || decide (64 < nroot)
    || bits (w 1) 23 3 != 0 || bits (w 2) 18 14 != 0 || bits (w 3) 18 14 != 0
    || ((List.range 9).any fun k => w (6 + k) != 0)
    || ((List.range nroot).any fun k => bits (w (16 + 2 * k)) 30 2 != 0)
    || ((List.range nseg).any fun k => bits (w (16 + 2 * nroot + k)) 16 16 != 0)
    || decide (bits (w 3) 0 18 < bits (w 2) 0 18) || (w 4 == 0 && w 5 == 0) || dupSlots roots

/-- The image's CRC does not match (R269). -/
def imgCrcBad (img : List (BitVec 8)) : Bool := crc32 (img.take 60 ++ img.drop 64) != imgWord img 15

/-- An image as a playlist; bad is the refusal that the image itself earns (R272, R665). -/
def imgPlaylist (img : List (BitVec 8)) (start : Option Nat) (unread : Bool) : Playlist :=
  let w (n : Nat) := imgWord img n
  let nseg := bits (w 0) 16 16
  let nroot := bits (w 1) 16 7
  { number := bits (w 0) 0 16, waiting := bitAt (w 1) 31, pclass := bits (w 1) 28 3, uipv := bits (w 1) 26 2
    claim := bits (w 1) 0 16, first := bits (w 2) 0 18, last := bits (w 3) 0 18, sites := w 4 + 2 ^ 32 * w 5
    roots := imgRoots img nroot, segs := imgSegs img nroot nseg, at_ := start
    bad := if unread || imgCrcBad img then 3 else if imgFormatBad img then 4 else 0 }

/-- The image at an address: its header, then its tables, and whether a read of it failed. -/
def State.readImage (s : State) (a : Nat) : List (BitVec 8) × Bool × State :=
  match s.hbmRead a 64 with
  | (none, s1) => ([], true, s1)
  | (some h, s1) =>
    let n := 8 * bits (imgWord h 1) 16 7 + 4 * bits (imgWord h 0) 16 16
    match s1.hbmRead (a + 64) n with
    | (none, s2) => (h, true, s2)
    | (some t, s2) => (h ++ t, false, s2)

/-! ## The start check (R272) -/

/-- PLAYLIST_START: SEG_PL_CTRL.START (R271, R273, R821). The image is read here; the segments of its list are locked from here on (R267),
and so is its program range, unless the image fails its CRC or its format, so that the check of R205 never begins (R202). -/
def effPlaylistStart (s : State) : Out :=
  let at_ := s.get64 SEG_PL_AT_LO SEG_PL_AT_HI
  let when_ := s.on SEG_PL_CTRL_WHEN
  if s.seq.queued.isSome then .next (s.reportRefusal 1)
  else if when_ && (!s.gateOpen || decide (at_ ≤ s.clk.gvc + 16)) then .next (s.reportRefusal 0xE)
  else
    let (img, unread, s1) := s.readImage (s.get64 SEG_PL_ADDR_LO SEG_PL_ADDR_HI)
    let p := imgPlaylist img (if when_ then some at_ else none) unread
    let p1 : Playlist := if p.bad ≠ 0 then { p with first := 1, last := 0, roots := [], claim := 0, segs := if unread then [] else p.segs } else p
    let s2 : State := { s1 with seq := { s1.seq with queued := some p1, queuedReady := false } }
    .next (((s2.put SEG_PL_STATUS_QUEUED 1).put SEG_PL_STATUS_QCHECK 1).put SEG_PL_NUM_QUEUED p.number)

/-- PLAYLIST_START: its effect, where the write reaches SEG_PL_CTRL (R46, R753, R770, R776). -/
def execPlaylistStart (s : State) : Out :=
  s.reachReg .host 0x100110 effPlaylistStart

/-- The slots of a playlist's program range. -/
def Playlist.slots (p : Playlist) : List Nat := (List.range (p.last + 1 - p.first)).map (p.first + ·)

/-- The range overlaps the target of a loader run in progress (R205). -/
def State.rangeLoading (s : State) (p : Playlist) : Bool :=
  match s.seq.csl with
  | some r => decide (0 < r.count) && decide (r.dst ≤ p.last) && decide (p.first < r.dst + r.count)
  | none => false

/-- A unit of the mask is claimed by another owner, or its bank is off (R272, R770). -/
def State.claimTaken (s : State) (mask : Nat) : Bool :=
  (List.range 16).any fun n => bitAt mask n &&
    (s.get (TIU_STATUS_OWNER n) != 0 || !bitAt (s.get PMG_DOM_ON0) (12 + n / 8))

/-- Admission control refuses the playlist (R785). -/
def State.powerRefuses (s : State) (p : Playlist) : Bool :=
  s.on PMG_STATUS_STOPHOLD || (p.pclass == 7 && (decide (s.get PMG_BUCKET < s.get PMG_PEAK_RES) ||
    match s.seq.running with
    | some r => r.pclass == 7
    | none => false))

/-- LENGTH of the segment at index i of a playlist's list. -/
def State.segLength (s : State) (p : Playlist) (i : Nat) : Nat := (s.segDesc (p.segs.getD i 0)).dw1

/-- The code of the first test of R272 that the queued playlist fails, or 0. -/
def State.startCode (s : State) (p : Playlist) : Nat :=
  if s.frozen || s.inSafe || !s.gateOpen then 2
  else if p.bad ≠ 0 then p.bad
  else if p.uipv ≠ s.clk.vset.uipv || (p.segs.any fun k => bits (s.segDesc k).dw2 0 2 != s.clk.vset.uipv) then 5
  else if p.segs.any fun k => !(s.segDesc k).valid then 6
  else if p.roots.any fun r => decide (r.slot < p.first) || decide (p.last < r.slot) then 7
  else if p.roots.any fun r => decide (p.segs.length ≤ r.idx) || decide (s.segLength p r.idx ≤ r.datum) then 8
  else if s.claimTaken p.claim then 9
  else if s.powerRefuses p then 0xA
  else if p.slots.any fun n => !(s.slot n).valid then 0xB
  else if !p.waiting && p.slots.any fun n => mwWaiting (s.slot n).mw then 0xC
  else if s.rangeLoading p then 0xD
  else 0

/-- The device enters a power state (R772). -/
def State.enterState (s : State) (st : Nat) : State :=
  if s.get PMG_STATUS_STATE = st then s else (s.put PMG_STATUS_STATE st).raise srcPmgState st 0

/-- START_CHECK_DONE: the start check ends (R272, R433, R779, R785). -/
def execStartCheckDone (s : State) : Out :=
  match s.seq.queued with
  | none => .next s
  | some p =>
    if s.seq.queuedReady then .next s
    else
      let code := s.startCode p
      if code ≠ 0 then
        let s1 := if code = 0xA then (s.inc PMG_NADMREF).raise srcPwrAdmitRef p.number 0 else s
        .next (s1.refusePlaylist code)
      else
        let s1 := (List.range 16).foldl (fun t n => if bitAt p.claim n then t.put (TIU_STATUS_OWNER n) tiuPlay else t) s
        let s2 : State := { s1 with seq := { s1.seq with queuedReady := true } }
        let s3 := s2.put SEG_PL_STATUS_QCHECK 0
        .next (if s3.get PMG_STATUS_STATE = 2 then s3.enterState 5 else s3)

/-! ## Records, heads and return buffers (R229 to R231, R256, R258) -/

/-- The position after (i, r) in a playlist (R258). -/
def State.posAfter (s : State) (p : Playlist) (q : Nat × Nat) : Nat × Nat :=
  if q.2 + 1 < s.segLength p q.1 then (q.1, q.2 + 1) else (q.1 + 1, 0)

/-- The record at a data position, read from HBM; none: uncorrectable (R256, R665). -/
def State.readRecord (s : State) (p : Playlist) (q : Nat × Nat) : Option (List (BitVec 8)) × State :=
  let d := s.segDesc (p.segs.getD q.1 0)
  if d.recordBytes = 0 then (some [], s) else s.hbmRead (d.base + d.recordBytes * q.2) d.recordBytes

/-- The next n records from a data position on, fewer where the list ends. -/
def State.readRecords (p : Playlist) : Nat → Nat × Nat → State → List (Option (List (BitVec 8))) × State
  | 0, _, s => ([], s)
  | n + 1, q, s =>
    if p.segs.length ≤ q.1 then ([], s)
    else
      let (r, s1) := s.readRecord p q
      let (rs, s2) := State.readRecords p n (s1.posAfter p q) s1
      (r :: rs, s2)

/-- Heads are loaded into free head slots, one after another: the first 512 records of each (R229). -/
def State.loadHeads (p : Playlist) : List (Nat × Nat × Nat × List Nat) → State → State
  | [], s => s
  | k :: ks, s =>
    if (s.headOf k).isSome || 64 ≤ s.seq.heads.length then State.loadHeads p ks s
    else
      let (rs, s1) := State.readRecords p 512 (k.2.1, k.2.2.1) s
      State.loadHeads p ks { s1 with seq := { s1.seq with heads := s1.seq.heads ++ [⟨k.1, k.2.1, k.2.2.1, k.2.2.2, rs⟩] } }

/-- HEADS_LOADED: the heads of the queued playlist for which there are head slots are on die (R229, R230); heads that need more than are
free load after the running playlist ends. With every head loaded, QREADY sets (R273), which waits for Bloom (R779). -/
def execHeadsLoaded (s : State) : Out :=
  match s.seq.queued with
  | none => .next s
  | some p =>
    if !s.seq.queuedReady then .next s
    else
      let s1 := (State.loadHeads p p.heads s).setHeads
      if s.get PMG_STATUS_STATE ≠ 3 || !(p.heads.all fun k => (s1.headOf k).isSome) then .next s1
      else .next ((s1.put SEG_PL_STATUS_QREADY 1).put SEQ_STATUS_HEADSRDY 1)

/-- PLAYLIST_WITHDRAW (R274). -/
def effPlaylistWithdraw (s : State) : Out :=
  if s.seq.queued.isSome then .next (s.refusePlaylist 0xF) else .next s

/-- PLAYLIST_WITHDRAW: its effect, where the write reaches SEG_PL_CTRL (R46, R753, R770, R776). -/
def execPlaylistWithdraw (s : State) : Out :=
  s.reachReg .host 0x100110 effPlaylistWithdraw

/-- Power that a class declares, in mW (R783). -/
def classPower (c : Nat) : Nat := if c = 7 then 610000 else 160000 + 60000 * c

/-- The queued playlist becomes the running one, its first vector cycle being cycle g (R214, R215, R217, R221, R229, R243, R249,
R282). -/
def State.beginPlaylist (s : State) (p : Playlist) (g : Nat) : State :=
  let s0 := (List.range 16).foldl (fun t k => t.put (SEQ_LOOP k) 0) s
  let s1 := if s.on SEQ_CTRL_KEEPFLAGS then s0 else s0.put SEQ_UFLAG 0
  let s2 := (List.range 8).foldl (fun t n => t.put (SEG_STR_STATUS_RUN n) 0) s1
  let r := (p.roots.head?).getD ⟨p.first, 0, 0⟩
  let s3 : State := { s2 with seq := { s2.seq with
    running := some p, queued := none, queuedReady := false, started := false, cur := r.slot, word := none
    pos := (r.idx, r.datum), vecs := 0, strDone := false, stack := [], holds := 0, stalls := 0, stalled := false, next := g
    cwait := none, startGvc := g, startCond := 0, rets := []
    buf := ((s2.headOf (r.slot, r.idx, r.datum, p.segs)).map (·.recs)).getD [] }, fail := { s2.fail with lastData := 0 } }
  let s4 := ((((s3.put SEQ_PC r.slot).put SEG_PL_STATUS_QREADY 0).put SEG_PL_STATUS_QUEUED 0).put SEG_PL_NUM_QUEUED 0).put SEQ_STATUS_RUN 1
  let s5 := ((s4.flag SEQ_STATUS_MODE p.waiting).setDecl (classPower p.pclass)).setHeads
  { s5 with seq := { s5.seq with startCond := s5.condNow }, pmg := { s5.pmg with overAt := none, drained := false } }

end Sys2Proof.Machine
end

