-- ==== Sys2Proof/Machine/Sequencer.lean ====
section
/-! DEFINITION. The sequencer: the cost of a word, next addresses, holds and the word's own actions (R161 to R185, R210 to R239,
R256 to R266, R280, R281, R290 to R293). One command is one step of it: a vector cycle, or one action or operation of the
word in issue. -/

namespace Sys2Proof.Machine

/-! ## Stops of R206, R242, R259 -/

/-- The playlist stops with a reason, and an event of the sequencer tells why (R206). -/
def State.stopWith (s : State) (reason src : Nat) : State := (s.event src).endPlaylist reason

/-! ## Reading the word -/

/-- The word at the current slot, once it has been read for issue; before that the bits of its slot. -/
def State.peekWord (s : State) : Nat := s.seq.word.getD (s.slot s.seq.cur).mw

/-- The record of the word in issue is on die in the head or return buffer in use (R229, R231, R265). -/
def State.onDie (s : State) : Bool := !s.seq.buf.isEmpty

/-- The record is late (R266): never while it is on die, and never in the normal operating state (R265). -/
def State.isLate (s : State) (late : Bool) : Bool := late && !s.onDie && !s.hbmNormal

/-- The record of the running playlist's data position, for its word's first vector (R256, R265, R266, R665). -/
def State.loadRecord (s : State) (p : Playlist) (late : Bool) : State :=
  let d := s.segDesc (p.segs.getD s.seq.pos.1 0)
  let l := s.isLate late
  let s1 := if l then ((s.inc SEG_NVFEED).event srcSegVfeed).recordAll 8 else s
  if d.recordBytes = 0 then { s1 with seq := { s1.seq with record := [], tiles := 0, memKept := l } }
  else
    let (r, s2) := match s1.seq.buf with
      | r :: _ => (r, s1)
      | [] => s1.readRecord p s1.seq.pos
    match r with
    | some bs => { s2 with seq := { s2.seq with record := bs, tiles := d.tiles, memKept := l } }
    | none =>
      let s3 := s2.recordAll 7
      { s3 with seq := { s3.seq with record := [], tiles := d.tiles, memKept := true } }

/-- A unit that a GATE word names accepts events only inside the gate from the word's first cycle on, holds among them (R232, R442). -/
def State.gateWord (s : State) (p : Playlist) (w : Nat) : State :=
  let n := mwTiuUnit w
  if mwTiuAct w = 2 && s.get (TIU_STATUS_OWNER n) = tiuPlay && bitAt p.claim n then s.setTiu n { s.tiuUnit n with gated := true } else s

/-- The word of the current slot is read ahead of its issue; none: the playlist has stopped, because the store does not give the
word (R206) or the data position lies beyond the last record (R259). -/
def State.readWord (s : State) (p : Playlist) (flip : Nat) : Option Nat × State :=
  match s.seq.word with
  | some w => (some w, s)
  | none =>
    let beyond := decide (p.segs.length ≤ s.seq.pos.1)
    match s.csRead s.seq.cur flip with
    | (none, s1) =>
      let s2 := s1.recordAll 7
      (none, (if beyond then s2.event srcSegEndData else s2).endPlaylist 5)
    | (some w, s1) =>
      if beyond then (none, s1.stopWith 6 srcSegEndData)
      else
        let s2 : State := { s1 with seq := { s1.seq with word := some w } }
        (some w, ((s2.flag SEQ_STATUS_MATCHING (mwOp w == 0x11)).gateWord p w).cwaitLatch)

/-! ## Data positions (R258, R263) -/

/-- The position of record n counted from record 0 of entry 0 (R258). -/
def slotLinked : List Nat → Nat → Nat → Nat × Nat
  | [], i, n => (i, n)
  | l :: ls, i, n => if n < l then (i, n) else slotLinked ls (i + 1) (n - l)

/-- A segment's LENGTH allows a seamless transition (R263). -/
def seamless (l : Nat) : Bool := decide (l % 64 = 0) && decide (4096 ≤ l)

/-- The next word is the one at slot n with data position q (R210, R212, R263), buf being what the head or return buffer in use gives from
there on (R229, R231). A fetch hold precedes it where fetch says so. -/
def State.goTo (s : State) (p : Playlist) (n : Nat) (q : Nat × Nat) (buf : List (Option (List (BitVec 8)))) (fetch : Bool) : State :=
  let i := s.seq.pos.1
  let cross := decide (q = (i + 1, 0)) && decide (s.seq.pos.2 + 1 = s.segLength p i)
  let dead := cross && !(seamless (s.segLength p i) && seamless (s.segLength p (i + 1)))
  let s1 := if dead && decide (i + 1 < p.segs.length) then
      { s.inc SEG_NDEAD with seq := { s.seq with next := s.seq.next + 256 } } else s
  { (s1.put SEQ_PC n).put SEQ_STATUS_MATCHING 0 with
    seq := { s1.seq with cur := n, word := none, pos := q, vecs := 0, strDone := false, holds := 0, stalls := 0
                         stalled := fetch, cwait := none, buf := buf } }

/-- The word falls through to A + 1 (R163). Beyond the program range the playlist stops; a data position beyond the list's end is told
of there too (R206, R259). -/
def State.fallThrough (s : State) (p : Playlist) : State :=
  let n := s.seq.cur + 1
  let q := s.posAfter p s.seq.pos
  if p.last < n then (if p.segs.length ≤ q.1 then s.event srcSegEndData else s).stopWith 6 srcSeqRange
  else s.goTo p n q s.seq.buf.tail false

/-- Slot t lies outside a playlist's program range. -/
def outOfRange (p : Playlist) (t : Nat) : Bool := decide (t < p.first) || decide (p.last < t)

/-- In lockstep mode the next address t is a transfer of control to a slot that is no rooted target (R206, R227). -/
def State.unrooted (s : State) (p : Playlist) (t : Nat) : Bool :=
  decide (t ≠ s.seq.cur + 1) && !p.waiting && !p.roots.any fun r => r.slot == t

/-- What the next address t is at fault for: every condition of R206 that it meets raises its event. -/
def State.raiseTarget (s : State) (p : Playlist) (t : Nat) : State :=
  let s1 := if outOfRange p t then s.event srcSeqRange else s
  if s.unrooted p t then s1.event srcSeqUnrooted else s1

/-- The word goes to T (R206, R229, R258); a rooted target's shadow slot is copied into the fall-through slot (R661). A next address of A + 1 is no transfer of control (R227). -/
def State.transfer (s : State) (p : Playlist) (t : Nat) : State :=
  if outOfRange p t then (s.raiseTarget p t).endPlaylist 6
  else if s.unrooted p t then (s.raiseTarget p t).endPlaylist 9
  else if t = s.seq.cur + 1 then s.fallThrough p
  else
    match p.roots.find? fun r => r.slot == t with
    | some r =>
      let buf := ((s.headOf (r.slot, r.idx, r.datum, p.segs)).map (·.recs)).getD []
      let k := (indexOf? (fun x : Root => x.slot == t) p.roots).getD 0
      (s.shadowCopy (1 + k) 0).goTo p t (r.idx, r.datum) buf false
    | none => s.goTo p t (slotLinked (p.segs.map fun k => (s.segDesc k).dw1) 0 (t - p.first)) [] true

/-- A call: A + 1 and its data position are pushed with the continuation's first 512 records (R163, R214, R231), and the fall-through
shadow slot moves to the new level's (R661). -/
def State.callTo (s : State) (p : Playlist) (t : Nat) : State :=
  if 16 ≤ s.seq.stack.length then ((s.event srcSeqStkOvf).raiseTarget p t).endPlaylist 7
  else
    let q := s.posAfter p s.seq.pos
    let rest := s.seq.buf.tail
    let (rs, s0) := if rest.length < 512 then State.readRecords p 512 q s else (rest.take 512, s)
    let s1 : State := { s0 with seq := { s0.seq with stack := (s.seq.cur + 1, q.1, q.2) :: s.seq.stack, rets := rs :: s.seq.rets } }
    ((s1.shadowMove 0 (65 + s.seq.stack.length)).put SEQ_STK_DEPTH s1.seq.stack.length).transfer p t

/-- A return to the popped address, at the position saved at its push, from the return buffer of its level (R163, R214, R231), whose
shadow slot moves back into the fall-through slot (R661). -/
def State.returnTo (s : State) (p : Playlist) : State :=
  match s.seq.stack with
  | [] => s.stopWith 8 srcSeqStkUnf
  | (n, i, r) :: rest =>
    let s1 : State := { s with seq := { s.seq with stack := rest, rets := s.seq.rets.tail } }
    let s2 := (s1.shadowMove (65 + rest.length) 0).put SEQ_STK_DEPTH rest.length
    if n < p.first || p.last < n then s2.stopWith 6 srcSeqRange else s2.goTo p n (i, r) ((s.seq.rets.head?).getD []) false

/-! ## Issue -/

/-- The sites made INVALID when a read of a class entry fails in a vector of word w (R100, R822): those of its channel, or every
site for a table that no channel owns; none if the vector does not read the entry. -/
def State.readSites (s : State) (w off : Nat) : Option Nat :=
  match regAt off with
  | none => none
  | some (d, i, j, _) =>
    let own (sel : Nat) := if j = sel then some (s.siteMask i) else none
    let base := d.base
    if d.cls = some 0 then own (mwTset w)
    else if d.cls = some 1 then own (mwLevelset w)
    else if d.cls = some 2 then own (mwMapsel w)
    else if d.cls = some 3 then own (mwSrcbank w)
    else if d.cls = some 4 then
      if base < 0x1000000 then (if i = mwMaskset w then some allSites else none) else own (mwMaskset w)
    else if d.cls = some 5 then (if i = mwSiteset w then some allSites else none)
    else none

/-- Reads of entries of the active bank that fail their check code, newly or by an earlier mark: cause CFG, and for a new one the count and
ABAD (R353, R372, R822, R823). sites: the sites made INVALID by a failing entry that is read. -/
def State.failRead (s : State) (sites : Nat → Option Nat) (marks fresh : List Nat) : State :=
  let s1 := (fresh ++ marks.filter fun o => !fresh.contains o).foldl (fun t o =>
    match sites o with
    | some m => t.recordCause m 0
    | none => t) s
  (fresh.filter fun o => (sites o).isSome).foldl (fun t o =>
    let t1 := t.inc CMT_NINTEG
    match classOf o with
    | some c =>
      let t2 := t1.put CMT_INTEG_ABAD (t1.get CMT_INTEG_ABAD ||| 2 ^ c)
      if c ≤ 1 then { t2 with cmt := { t2.cmt with flagCleared := insertNat o t2.cmt.flagCleared } } else t2
    | none => t1) s1

/-- A vector's reads at its issue. -/
def State.failReads (s : State) (w : Nat) (fresh : List Nat) : State := s.failRead (s.readSites w) (s.cmt.activeBad.map (·.2)) fresh

/-- Channels whose timing-set entry of a vector fails (R353). -/
def State.tsFails (s : State) (w : Nat) (fresh : List Nat) : List Nat :=
  allChannels.filter fun c => !s.tsFlag c (mwTset w) || fresh.contains (tsOff c (mwTset w))

/-- Channels whose level-set entry of a vector fails (R372). -/
def State.lsFails (s : State) (w : Nat) (fresh : List Nat) : List Nat :=
  allChannels.filter fun c => !s.lsFlag c (mwLevelset w) || fresh.contains (lsOff c (mwLevelset w))

/-- A failing timing-set entry in a vector: counters, event and cause (R353). -/
def State.tsFailed (s : State) (c : Nat) : State :=
  (((s.inc (PTF_CH_NCFG c)).inc PTF_NCFG).raise srcPtfCfgerr c 0).recordCause (s.siteMask c) 0

/-- A failing level-set entry in a vector (R372). -/
def State.lsFailed (s : State) (c : Nat) : State :=
  (((s.inc (LVL_CH_NCFG c)).inc LVL_NCFG).raise srcLvlCfgerr c 0).recordCause (s.siteMask c) 0

/-- Open stream channels that stand in RUN. -/
def State.runStreams (s : State) : List Nat :=
  (List.range 8).filter fun n => s.on (SEG_STR_STATUS_OPEN n) && s.on (SEG_STR_STATUS_RUN n)

/-- The sites with a pin that stream n feeds through a source bank (R100, R281). -/
def State.fedSites (s : State) (n bank : Nat) : Nat :=
  s.sitesWith fun c => srcSel s.active c bank == 3 && bankGet s.active (PIN_SRC_STRCH c bank) == n

/-- What the streams supply in a vector: values by channel, channels that underran (R280, R281). -/
def State.takeStreams (s : State) (w : Nat) : List (Nat × (Nat × Nat)) × Nat × State :=
  (List.range 8).foldl (fun (vs, undr, t) n =>
    if !t.on (SEG_STR_STATUS_OPEN n) then (vs, undr, t)
    else if !t.on (SEG_STR_STATUS_RUN n) then (Assoc.set (0, 0) vs n (t.strHeld n, t.strLanes n), undr, t)
    else if t.strReady n then
      let (v, t1) := t.strConsume n
      (Assoc.set (0, 0) vs n (v, t.strLanes n), undr, t1)
    else (vs, setBitN undr n, (t.strUnderrun n).recordCause (t.fedSites n (mwSrcbank w)) 2)) ([], 0, s)

/-- One generator's part of a vector (R290, R302, R311, R317): its output bits and the address for the fail catalogue. -/
def State.runApg (s : State) (g n flip : Nat) (fresh : List Nat) : Nat × (Nat × Nat × Nat) × State :=
  let (i, s1) := s.iwFetch g n flip
  let v := s1.gen g
  let (out, xo, yo) := v.outputs s1.active g i
  let reads := apgReads s1.active g i v
  let newBad := reads.filter fresh.contains
  let s2 := newBad.foldl (fun t _ => (t.inc CMT_NINTEG).put CMT_INTEG_ABAD (t.get CMT_INTEG_ABAD ||| 64)) s1
  let s3 := if newBad.isEmpty && !(reads.any s1.activeMarked) then s2 else s2.recordAll 0
  let dimm := s.get64 (APG_DIMM_LO g (bits i 28 4)) (APG_DIMM_HI g (bits i 28 4))
  let s4 := (s3.setGen g (v.step i dimm)).add64 (APG_NEXEC_LO g) (APG_NEXEC_HI g) 1
  (out, if s.on APG_CTRL_FCLOG then (v.x, v.y, v.z) else (xo, yo, v.z), s4)

/-- The sites enabled for compare in a vector of word w in cycle g (R222). -/
def State.enabledSites (s : State) (w g : Nat) : Nat :=
  let m := s.getActive (SEQ_SMASK_LO (mwSiteset w)) + 2 ^ 32 * s.getActive (SEQ_SMASK_HI (mwSiteset w))
  maskOf 64 fun n => bitAt m n && bitAt s.playSites n && !s.killedBy n g

/-- A word's own actions in one bit each of the done mask. -/
def actCmark : Nat := 0
/-- EVENT. -/
def actEvent : Nat := 1
/-- FLAGOP. -/
def actFlag : Nat := 2
/-- DCTL. -/
def actDctl : Nat := 4

/-- What replaces the drive of channel c's pin actions in a vector: 0 nothing, 1 keep, 2 turn off (R185, R334, R412). -/
def State.driveOverride (s : State) (f : Flight) (c : Nat) : Nat :=
  let outside := match s.siteOf c with
    | some n => !bitAt f.siteset n
    | none => false
  let dead := match s.siteOf c with
    | some n => bitAt f.killed n
    | none => false
  if dead && (f.killDrv == 1 || f.killDrv == 2) then f.killDrv
  else if f.dctl = 1 || (f.dctl = 3 && outside) then 1
  else if f.dctl = 2 || (f.dctl = 4 && outside) then 2
  else 0

/-- The data that each channel drove last, after a vector (R249); a pin action that an override replaces is none (R185). -/
def State.newData (s : State) (f : Flight) : Nat :=
  maskOf 256 fun c =>
    if s.driveOverride f c ≠ 0 then bitAt f.prevData c
    else (List.range s.clk.vset.uis).foldl (fun l u =>
      let a := s.actionAt f c u
      if actDrives a then actData a l else l) (bitAt f.prevData c)

/-- At the first vector of a playlist (R275, R293, R401, R410, R412): its interval of every site opens, kills and per-interval
counts clear, and the generators load their INIT registers. -/
def State.firstVector (s : State) (p : Playlist) (g : Nat) : State :=
  let s1 := ((((s.put SEG_PL_NUM_RUN p.number).put64 SEG_PL_FIRST_LO SEG_PL_FIRST_HI g).inc SEG_PL_NSTART).put CAP_KILL_LO 0).put CAP_KILL_HI 0
  let s2 := (List.range 64).foldl (fun t n => if bitAt p.sites n then t.put (CAP_SITE_NFV n) 0 else t) s1
  let s3 := s2.openIntervals p.sites (s2.sitesWith fun c => s2.untrusted c || s2.inCal c) (s2.sitesWith s2.tripped) g p.number
  let s4 := (s3.setGen 0 (s3.genInit 0)).setGen 1 (s3.genInit 1)
  { s4 with seq := { s4.seq with started := true }
            fail := { s4.fail with siteFail := [], killAt := [], rakeStop := none } }

/-- The length of a capture record in units of 32 bytes (R407). -/
def captureUnits (tiles uis : Nat) (drv : Bool) : Nat :=
  1 + ceilDiv (8 * popcount 8 tiles * uis * (if drv then 2 else 1)) 32

/-- Capture is active for a playlist that begins now (R405). -/
def State.captureOn (s : State) : Bool :=
  let lmax := 32 * captureUnits (s.get CAP_CFG_TILES) s.clk.vset.uis (s.on CAP_CFG_DRV)
  s.on CAP_CTRL_ENABLE && decide (12 ≤ s.get CAP_RING_SIZE) && decide (s.get CAP_RING_SIZE ≤ 33)
    && decide (0x800000000 ≤ s.get64 CAP_RING_BASE_LO CAP_RING_BASE_HI)
    && decide (s.get64 CAP_RING_BASE_LO CAP_RING_BASE_HI + 2 ^ s.get CAP_RING_SIZE ≤ 0xA00000000)
    && s.on CAP_CFG_TILES
    && decide ((s.get CAP_PRE + s.get CAP_POST + 1) * lmax ≤ 2 ^ s.get CAP_RING_SIZE)

/-- CAP_STATUS.CFGERR of a playlist that begins (R405). -/
def State.noteCapture (s : State) (capOn : Bool) : State :=
  if capOn then s.put CAP_STATUS_CFGERR 0 else (s.put CAP_STATUS_CFGERR 1).event srcCapCfgerr

/-- One vector of word w issues in cycle g (R161, R168, R169). -/
def State.issue (s0 : State) (p : Playlist) (w g : Nat) (late : Bool) (flipA flipB : Nat) (fresh : List Nat) : State :=
  let first := s0.seq.vecs = 0
  let playFirst := !s0.seq.started
  let capOn := playFirst && s0.captureOn
  let s1 := if playFirst then (s0.firstVector p g).noteCapture capOn else s0
  let s2 := if first then s1.loadRecord p late else s1
  let s3 := s2.failReads w fresh
  let tsf := s2.tsFails w fresh
  let lsf := s2.lsFails w fresh
  let s4 := lsf.foldl (fun t c => t.lsFailed c) (tsf.foldl (fun t c => t.tsFailed c) s3)
  let (strm, undr, s5) := s4.takeStreams w
  let (a, adA, s6) := s5.runApg 0 (mwApga w) flipA fresh
  let (b, adB, s7) := s6.runApg 1 (mwApgb w) flipB fresh
  let ad := if s7.on APG_CTRL_FCGEN then adB else adA
  let unit := mwTiuUnit w
  let act := first && decide (mwTiuAct w ≠ 0)
  let owned := s7.get (TIU_STATUS_OWNER unit) == tiuPlay && bitAt p.claim unit
  let s8 := if act && !owned then s7.claimDenied 0x280000 else s7
  let s9 := s8.gateWord p w
  let f : Flight :=
    { gvc := g, slot := s9.seq.cur, word := w, first := first, playFirst := playFirst, uipv := s9.clk.vset.uipv
      active := s9.active, bad := tsf.map (tsOff · (mwTset w)) ++ lsf.map (lsOff · (mwLevelset w))
      record := s9.seq.record, tiles := s9.seq.tiles, memKept := s9.seq.memKept, apgA := a, apgB := b
      fcX := ad.1, fcY := ad.2.1, fcZ := ad.2.2, strm := strm, undr := undr
      enabled := s9.enabledSites w g
      siteset := s9.getActive (SEQ_SMASK_LO (mwSiteset w)) + 2 ^ 32 * s9.getActive (SEQ_SMASK_HI (mwSiteset w))
      dctl := if !first && s9.seq.act.any (fun x => bitAt x.done actDctl) then mwDctl w else 0
      killed := maskOf 64 fun n => s9.killedBy n g
      killDrv := s9.get CAP_KILL_CFG_DRV, plNum := p.number, gen7 := s9.cmt.gen7
      prevData := s9.fail.lastData, arm := false, disarm := false, capOn := capOn, tiu := act && owned, landed := false, cut := false
      samples := [] }
  let s10 : State := { s9 with
    land := { s9.land with flights := s9.land.flights ++ [f] }
    fail := { s9.fail with lastData := s9.newData f, periods := s9.fail.periods.filter fun q => decide (g < q.cycle + 512 + s9.gcAge) }
    seq := { s9.seq with vecs := s9.seq.vecs + 1, next := g + 1, issuedAt := some g, issuedSlot := s9.seq.cur, stalls := 0
                         act := if first then some ⟨w, s9.seq.cur, g, p.number, 0⟩ else s9.seq.act } }
  (s10.put SEQ_PC s9.seq.cur).put SEQ_STATUS_HOLDKIND 0

/-- A hold cycle passes (R232): kind is the code of SEQ_STATUS.HOLDKIND. -/
def State.holdCycle (s : State) (kind : Nat) : State :=
  let s1 := s.advanceTo s.seq.next
  let s2 := (s1.add64 SEQ_NHOLD_LO SEQ_NHOLD_HI 1).put SEQ_STATUS_HOLDKIND kind
  { s2 with seq := { s2.seq with next := s1.clk.gvc + 1
                                 holds := if kind = 3 then s2.seq.holds else s2.seq.holds + 1
                                 stalls := if kind = 3 then s2.seq.stalls + 1 else 0 } }

/-- A vector in waiting mode must wait for its record, its first records after a jump, or stream data (R234, R266, R281). -/
def State.mustStall (s : State) (p : Playlist) (late : Bool) : Bool :=
  p.waiting && (s.seq.stalled || s.isLate late || s.runStreams.any fun n => !s.strReady n)

/-- A RUN or PAUSE of one channel; a closed one only raises the event (R182). -/
def State.standOne (s : State) (n : Nat) (run : Bool) : State :=
  if s.on (SEG_STR_STATUS_OPEN n) then s.strStand n run else s.raise srcSeqStrmClosed n 0

/-- A RUN or PAUSE of every open channel. -/
def State.standAll (s : State) (run : Bool) : State :=
  (List.range 8).foldl (fun t n => if t.on (SEG_STR_STATUS_OPEN n) then t.strStand n run else t) s

/-- The stream action of a word, once, before its first vector (R181, R182). -/
def State.standWord (s : State) (w : Nat) : State :=
  if s.seq.strDone || s.seq.vecs ≠ 0 then s
  else
    let t : State := { s with seq := { s.seq with strDone := true } }
    if mwStrAct w = 1 then t.standOne (mwStrCh w) true
    else if mwStrAct w = 2 then t.standOne (mwStrCh w) false
    else if mwStrAct w = 3 then t.standAll true
    else if mwStrAct w = 4 then t.standAll false
    else t

/-- The next vector cycle of a word that is not holding: a stall hold, or a vector. Before its first vector the word's stream action acts,
where its own command has not come before. -/
def State.vectorCycle (s0 : State) (p : Playlist) (w : Nat) (late : Bool) (flipA flipB : Nat) (fresh : List Nat) : State :=
  let s := s0.standWord w
  if s.mustStall p late then s.holdCycle 3
  else
    let s1 := s.advanceTo s.seq.next
    s1.issue p w s1.clk.gvc late flipA flipB fresh

/-- The cycle of a WAIT word (R233): a hold while its condition is false and its limit is not reached, else its vector and
A + 1. A CWAIT word holds (R238). A word at its limit waits for its exit. -/
def State.waitCycle (s : State) (p : Playlist) (w : Nat) (late : Bool) (flipA flipB : Nat) (fresh : List Nat) : State :=
  if mwWaitVc w ≤ s.seq.holds then s
  else if mwCwait w then
    match s.seq.cwait with
    | some (t, r) => if r ≠ 0 && t ≤ s.seq.next then s else s.holdCycle 2
    | none => s.holdCycle 2
  else if !s.cond (mwCond w) (max s.seq.next s.clk.gvc) then s.holdCycle 1
  else
    let s1 := s.vectorCycle p w late flipA flipB fresh
    if s1.seq.vecs = 1 then s1.fallThrough p else s1

/-- The age of a condition (R219). -/
def State.condAge (s : State) (code : Nat) : Nat :=
  if code ≤ 4 || 0x38 ≤ code then 104 else if code ≤ 6 then 8 else if code = 7 then 2
  else if code < 0x30 then 1 else s.gcAge

/-- The cycle of a MATCH word (R235): one vector, after which the word ends where its condition is true. A word at its limit
waits for its exit. -/
def State.matchCycle (s : State) (p : Playlist) (w : Nat) (late : Bool) (flipA flipB : Nat) (fresh : List Nat) : State :=
  if mwWaitVc w ≤ s.seq.vecs then s
  else
    let s1 := s.vectorCycle p w late flipA flipB fresh
    if s1.seq.vecs = s.seq.vecs then s1
    else if decide (s1.condAge (mwCond w) ≤ s.seq.vecs) && s1.cond (mwCond w) (s1.seq.issuedAt.getD 0) then s1.fallThrough p
    else s1

/-- The next vector cycle of the word in issue, whatever its OP. -/
def State.seqCycle (s : State) (p : Playlist) (late : Bool) (flip flipA flipB : Nat) (fresh : List Nat) : State :=
  match s.readWord p flip with
  | (none, s1) => s1
  | (some w, s1) =>
    if mwOp w = 0x10 then s1.waitCycle p w late flipA flipB fresh
    else if mwOp w = 0x11 then s1.matchCycle p w late flipA flipB fresh
    else if mwRepeat w < s1.seq.vecs then s1
    else s1.vectorCycle p w late flipA flipB fresh

/-- A command of the sequencer acts while a playlist runs and the gate is open. -/
def State.whenRunning (s : State) (f : Playlist → State) : Out :=
  match s.seq.running with
  | none => .next s
  | some p => if s.gateOpen && !s.frozen then .next (f p) else .next s

/-- The offsets that a command names. -/
def offs (l : List (BitVec 28)) : List Nat := l.map (·.toNat)

/-- VECTOR_ISSUE: the next vector cycle of the word in issue. late: its stored record is not on die (R266); flip, flipA, flipB: how
the rows of the control store and of the program stores differ from what was stored (R188, R299); bad: entries of the active
bank that fail their check code at this vector's reads (R822). -/
def execVectorIssue (late : Bool) (flip : BitVec 208) (flipA flipB : BitVec 80) (bad : List (BitVec 28)) (s : State) : Out :=
  s.whenRunning fun p => s.seqCycle p late flip.toNat flipA.toNat flipB.toNat (offs bad)

/-- The vector cycle in which a playlist can begin now: the next one, or the present one where a playlist has just ended at its
boundary (R273). -/
def State.firstCycle (s : State) : Nat :=
  if s.seq.next = s.clk.gvc && s.seq.issuedAt.any (fun c => c + 1 == s.clk.gvc) then s.clk.gvc else s.clk.gvc + 1

/-- PLAYLIST_FIRST_VECTOR: at NEXT or AT the queued playlist becomes the running one and its first word issues (R273, R275). An AT
start that is not ready at its boundary is refused LATE; a thermal stop hold refuses POWER (R781). -/
def execPlaylistFirstVector (flip : BitVec 208) (flipA flipB : BitVec 80) (bad : List (BitVec 28)) (s : State) : Out :=
  match s.seq.queued with
  | none => .next s
  | some p =>
    let go (t : State) (g : Nat) : Out :=
      if t.on PMG_STATUS_STOPHOLD then
        .next (((t.inc PMG_NADMREF).raise srcPwrAdmitRef p.number 0).refusePlaylist 0xA)
      else .next ((t.beginPlaylist p g).seqCycle p false flip.toNat flipA.toNat flipB.toNat (offs bad))
    if !s.gateOpen || s.frozen then .next s
    else
      match p.at_ with
      | some a =>
        match s.reach a with
        | none => .next s
        | some s1 =>
          if s1.clk.gvc ≠ a || !s1.on SEG_PL_STATUS_QREADY || s1.seq.running.isSome then .next (s1.refusePlaylist 0xE)
          else go s1 a
      | none => if s.on SEG_PL_STATUS_QREADY && s.seq.running.isNone then go s s.firstCycle else .next s

/-! ## The word's operation (R163) -/

/-- The word's OP acts once its last vector has issued. -/
def State.atLast (s : State) (op : Nat) (f : Playlist → Nat → State) : Out :=
  s.whenRunning fun p =>
    match s.seq.word with
    | none => s
    | some w => if mwOp w = op && decide (s.seq.vecs = mwRepeat w + 1) then f p w else s

/-- The word's condition in its last vector cycle (R165). -/
def State.lastCond (s : State) (w : Nat) : Bool := s.cond (mwCond w) (s.seq.issuedAt.getD 0)

/-- A loop-parameter entry from the bank active in the word's last vector (R168, R213, R216); a failing check code, marked or found now,
records CFG (R822). -/
def State.loopParam (s : State) (k : Nat) (bad : Bool) : Nat × State :=
  let f := SEQ_LPARAM k
  let bank := match s.land.flights.find? fun x => s.seq.issuedAt == some x.gvc with
    | some x => x.active
    | none => s.active
  (bankGet bank f, s.failRead (fun o => if o = f.off then some allSites else none) (s.cmt.activeBad.map (·.2)) (if bad then [f.off] else []))

/-- What the word's OP does after its last vector (R163, R166, R167, R175, R214, R215); bad: the loop-parameter entry that it reads fails its
check code (R822). A WAIT or a MATCH word has its own cycles. -/
def State.flow (s : State) (p : Playlist) (w : Nat) (bad : Bool) : State :=
  let c := SEQ_LOOP (mwLoopsel w)
  match mwOp w with
  | 0x00 => s.fallThrough p
  | 0x01 => s.transfer p (mwT w)
  | 0x02 => s.callTo p (mwT w)
  | 0x03 => s.returnTo p
  | 0x04 => if s.lastCond w then s.transfer p (mwT w) else s.fallThrough p
  | 0x05 => if s.lastCond w then s.fallThrough p else s.transfer p (mwT w)
  | 0x06 => if s.lastCond w then s.callTo p (mwT w) else s.fallThrough p
  | 0x07 => if s.lastCond w then s.returnTo p else s.fallThrough p
  | 0x08 =>
    let (v, s1) := s.loopParam (bits (mwTarget w) 0 6) bad
    (s1.put c v).fallThrough p
  | 0x09 => (s.put c (mwTarget w)).fallThrough p
  | 0x0A => if 1 < s.get c then (s.put c (s.get c - 1)).transfer p (mwT w) else (s.put c 0).fallThrough p
  | 0x0B =>
    if 1 < s.get c then (s.put c (s.get c - 1)).transfer p (mwT w)
    else
      let (v, s1) := s.loopParam (bits (mwTarget w) 18 6) bad
      (s1.put c v).fallThrough p
  | 0x18 =>
    let u := s.seq.issuedAt.getD 0
    if s.allOut s.playSites (u - 104) u then s.endPlaylist 2 else s.fallThrough p
  | 0x3F => s.endPlaylist 1
  | _ => s

/-- NEXT. -/
def execSeqNext (s : State) : Out := s.atLast 0x00 fun p w => s.flow p w false

/-- JUMP. -/
def execSeqJump (s : State) : Out := s.atLast 0x01 fun p w => s.flow p w false

/-- CALL (R214). -/
def execSeqCall (s : State) : Out := s.atLast 0x02 fun p w => s.flow p w false

/-- RETURN (R214). -/
def execSeqReturn (s : State) : Out := s.atLast 0x03 fun p w => s.flow p w false

/-- BRANCH. -/
def execSeqBranch (s : State) : Out := s.atLast 0x04 fun p w => s.flow p w false

/-- BRANCHF. -/
def execSeqBranchf (s : State) : Out := s.atLast 0x05 fun p w => s.flow p w false

/-- CCALL. -/
def execSeqCcall (s : State) : Out := s.atLast 0x06 fun p w => s.flow p w false

/-- CRETURN. -/
def execSeqCreturn (s : State) : Out := s.atLast 0x07 fun p w => s.flow p w false

/-- LOADLOOP (R163, R175). bad: the entry fails its check code at this read (R822). -/
def execSeqLoadloop (bad : Bool) (s : State) : Out := s.atLast 0x08 fun p w => s.flow p w bad

/-- LOADLOOPI (R163, R175). -/
def execSeqLoadloopi (s : State) : Out := s.atLast 0x09 fun p w => s.flow p w false

/-- LOOP (R163, R215). -/
def execSeqLoop (s : State) : Out := s.atLast 0x0A fun p w => s.flow p w false

/-- LOOPR (R163, R215): the parameter is the operand in TARGET[23:18]. bad: its entry fails its check code at this
read (R822). -/
def execSeqLoopr (bad : Bool) (s : State) : Out := s.atLast 0x0B fun p w => s.flow p w bad

/-- The word is one of an OP that has its own cycle; the word is read first. -/
def State.ownCycle (s : State) (op flip : Nat) (f : Playlist → Nat → State → State) : Out :=
  s.whenRunning fun p =>
    match s.readWord p flip with
    | (none, s1) => s1
    | (some w, s1) => if mwOp w = op then f p w s1 else s1

/-- WAIT: one cycle of a WAIT word (R233). -/
def execSeqWait (late : Bool) (flip : BitVec 208) (flipA flipB : BitVec 80) (bad : List (BitVec 28)) (s : State) : Out :=
  s.ownCycle 0x10 flip.toNat fun p w t => t.waitCycle p w late flipA.toNat flipB.toNat (offs bad)

/-- MATCH: one cycle of a MATCH word (R235). -/
def execSeqMatch (late : Bool) (flip : BitVec 208) (flipA flipB : BitVec 80) (bad : List (BitVec 28)) (s : State) : Out :=
  s.ownCycle 0x11 flip.toNat fun p w t => t.matchCycle p w late flipA.toNat flipB.toNat (offs bad)

/-- STOPFAIL (R166, R240): ends the playlist where every site has failed or been killed. -/
def execSeqStopfail (s : State) : Out := s.atLast 0x18 fun p w => s.flow p w false

/-- HALT (R167, R240). -/
def execSeqHalt (s : State) : Out := s.atLast 0x3F fun p w => s.flow p w false

/-- The wait-limit exit of a word to T (R233, R235, R237): it counts and is told of. -/
def State.waitExit (s : State) (p : Playlist) (w : Nat) : State := ((s.inc SEQ_NEXPIRE).event srcSeqWaitexp).transfer p (mwT w)

/-- CWAIT_RELEASE: at the target of its commit a CWAIT word issues and goes to A + 1 where the commit applied, else to T on the
wait-limit exit (R84, R177, R237, R238). The cycles up to the target are hold cycles. A wait limit that comes before the target comes first. -/
def execCwaitRelease (late : Bool) (flipA flipB : BitVec 80) (bad : List (BitVec 28)) (s : State) : Out :=
  s.whenRunning fun p =>
    match s.seq.word, s.seq.cwait with
    | some w, some (t, r) =>
      if r = 0 || !mwCwait w || s.seq.vecs ≠ 0 || mwWaitVc w < s.seq.holds + (t - s.seq.next) then s
      else
        let n := t - s.seq.next
        let s1 := (s.advanceTo t).add64 SEQ_NHOLD_LO SEQ_NHOLD_HI n
        let s2 : State := { s1 with seq := { s1.seq with holds := s1.seq.holds + n, next := max t s1.seq.next } }
        let s3 := s2.vectorCycle p w late flipA.toNat flipB.toNat (offs bad)
        if s3.seq.vecs = 0 then s3 else if r = 1 then s3.fallThrough p else s3.waitExit p w
    | _, _ => s

/-- The outcome of the commit that a CWAIT word holds for is known, and its target's vector cycle is the next one or has come. -/
def State.cwaitDue (s : State) : Bool :=
  match s.seq.cwait with
  | some (t, r) => decide (r ≠ 0) && decide (t ≤ s.seq.next)
  | none => false

/-- WAIT_LIMIT_EXPIRY: the wait limit of a WAIT or MATCH word is reached and the word takes its exit to T (R233, R235, R237). A
CWAIT word that its commit releases in that cycle takes the release. -/
def execWaitLimitExpiry (late : Bool) (flipA flipB : BitVec 80) (bad : List (BitVec 28)) (s : State) : Out :=
  s.whenRunning fun p =>
    match s.seq.word with
    | none => s
    | some w =>
      if mwOp w = 0x10 && decide (mwWaitVc w ≤ s.seq.holds) && !s.cwaitDue then
        let s1 := s.vectorCycle p w late flipA.toNat flipB.toNat (offs bad)
        if s1.seq.vecs = 0 then s1 else s1.waitExit p w
      else if mwOp w = 0x11 && decide (mwWaitVc w ≤ s.seq.vecs) then s.waitExit p w
      else s

/-- STALL_HOLD_END: the awaited records have arrived (R234). -/
def execStallHoldEnd (s : State) : Out :=
  .next { if s.get SEQ_STATUS_HOLDKIND = 3 then s.put SEQ_STATUS_HOLDKIND 0 else s with seq := { s.seq with stalled := false, stalls := 0 } }

/-- The stall limit of SEQ_STALL_LIM in vc (R183, R234). -/
def State.stallLimit (s : State) : Nat := (bits (s.get SEQ_STALL_LIM) 0 8 + 1) * 2 ^ bits (s.get SEQ_STALL_LIM) 8 4

/-- STALL_LIMIT: consecutive stall holds have reached the limit (R234). -/
def execStallLimit (s : State) : Out :=
  s.whenRunning fun _ => if s.stallLimit ≤ s.seq.stalls then s.endPlaylist 0xA else s

/-! ## The word's other actions -/

/-- An action of the word whose first vector issued last, once (R161). It acts for a WAIT word and for the last word of a playlist too,
which have left the issue with that vector. -/
def State.wordAct (s : State) (a : Nat) (has : Nat → Bool) (f : WordAct → State → State) : Out :=
  match s.seq.act with
  | none => .next s
  | some x =>
    if has x.word && !bitAt x.done a then
      .next (f x { s with seq := { s.seq with act := some { x with done := setBitN x.done a } } })
    else .next s

/-- CMARK (R176). -/
def execCmark (s : State) : Out :=
  s.wordAct actCmark (fun w => mwCommit w == 2) fun x t =>
    ((t.put64 SEQ_CMARK_LO SEQ_CMARK_HI x.gvc).put SEQ_CMARK_SLOT x.slot).event srcSeqCmark

/-- PATTERN_EVENT (R178): the code goes with the event as its VALUE. -/
def execPatternEvent (s : State) : Out :=
  s.wordAct actEvent (fun w => mwEvent w != 0) fun x t =>
    let t1 := t.event srcSeqPevent
    if t.on SEQ_PEV_CFG_EN then
      t1.enq (t.get SEQ_PEV_CFG_QUEUE) (wordBytes [x.gvc % 2 ^ 32, x.gvc / 2 ^ 32, mwEvent x.word * 2 ^ 26 + x.slot, x.number * 2 ^ 16])
    else t1

/-- A stream action of the word acts from its first vector, so before it issues (R181, R182). -/
def State.streamAct (s : State) (act : Nat) : Out :=
  s.whenRunning fun _ => if mwStrAct s.peekWord = act then s.standWord s.peekWord else s

/-- STREAM RUN. -/
def execStreamRun (s : State) : Out := s.streamAct 1

/-- STREAM PAUSE. -/
def execStreamPause (s : State) : Out := s.streamAct 2

/-- STREAM RUNALL. -/
def execStreamRunall (s : State) : Out := s.streamAct 3

/-- STREAM PAUSEALL. -/
def execStreamPauseall (s : State) : Out := s.streamAct 4

/-- The user flags after an operation of a word on its flag: 1 set, 2 clear, 3 toggle (R184). -/
def flagOp (v opn k : Nat) : Nat :=
  if opn = 1 then setBitN v k else if opn = 2 then clrBitN v k else if bitAt v k then clrBitN v k else setBitN v k

/-- A flag operation of the word (R184). -/
def State.flagAct (s : State) (opn : Nat) : Out :=
  s.wordAct actFlag (fun w => mwFlagOp w == opn) fun x t => t.put SEQ_UFLAG (flagOp (t.get SEQ_UFLAG) opn (mwFlag x.word))

/-- FLAGOP set. -/
def execFlagSet (s : State) : Out := s.flagAct 1

/-- FLAGOP clear. -/
def execFlagClear (s : State) : Out := s.flagAct 2

/-- FLAGOP toggle. -/
def execFlagToggle (s : State) : Out := s.flagAct 3

/-- The last driven data before each of a run of vectors, and after the last of them, formed anew from the first (R249). -/
def State.redoData (s : State) : Nat → List Flight → List Flight × Nat
  | d, [] => ([], d)
  | d, f :: fs =>
    let g := { f with prevData := d }
    let (gs, e) := s.redoData (s.newData g) fs
    (g :: gs, e)

/-- The drive override of the word is in force in every vector of it (R185). -/
def State.dctlAct (s : State) (code : Nat) : Out :=
  s.wordAct actDctl (fun w => mwDctl w == code) fun x t =>
    let old := t.land.flights.filter fun f => decide (f.gvc < x.gvc)
    let own := (t.land.flights.filter fun f => decide (x.gvc ≤ f.gvc)).map fun f => { f with dctl := code }
    match own with
    | [] => t
    | f :: _ =>
      let (fs, d) := t.redoData f.prevData own
      { t with land := { t.land with flights := old ++ fs }, fail := { t.fail with lastData := d } }

/-- DCTL HOLDALL. -/
def execHoldall (s : State) : Out := s.dctlAct 1

/-- DCTL OFFALL. -/
def execOffall (s : State) : Out := s.dctlAct 2

/-- DCTL HOLDOUT. -/
def execHoldout (s : State) : Out := s.dctlAct 3

/-- DCTL OFFOUT. -/
def execOffout (s : State) : Out := s.dctlAct 4

/-- A capture control of the word marks its first vector, which acts on the trigger program at its take point (R172, R400). -/
def State.capAct (s : State) (a : Nat) (has : Nat → Bool) (f : Flight → Flight) : Out :=
  s.wordAct a has fun x t =>
    { t with land := { t.land with flights := t.land.flights.map fun y => if y.gvc = x.gvc then f y else y } }

/-- CAPCTL ARM. -/
def execCapctlArm (s : State) : Out := s.capAct 5 mwArm fun x => { x with arm := true }

/-- CAPCTL DISARM. -/
def execCapctlDisarm (s : State) : Out := s.capAct 6 mwDisarm fun x => { x with disarm := true }

/-- The oldest vector whose TIUCTL action of a kind waits for the land acts there, at its time 0 (R442). -/
def State.tiuctl (s : State) (act : Nat) (f : Nat → State → State) : Out :=
  match s.land.flights.find? fun x => x.tiu && mwTiuAct x.word == act with
  | none => .next s
  | some x =>
    match s.reach (x.gvc + 64) with
    | none => .next s
    | some s1 =>
      let s2 : State := { s1 with land := { s1.land with flights := s1.land.flights.map fun y =>
        if y.gvc = x.gvc then { y with tiu := false } else y } }
      let n := mwTiuUnit x.word
      if s2.get (TIU_STATUS_OWNER n) = tiuPlay then .next (f n s2) else .next s2

/-- TIUCTL ARM (R435, R436, R442, R451). -/
def execTiuctlArm (s : State) : Out :=
  s.tiuctl 1 fun n t => if t.get (TIU_CTRL_MODE n) = 3 then t.put (TIU_STATUS_SRCERR n) 1 else if t.tiuBusy n then t else t.tiuArmUnit n

/-- TIUCTL GATE: the gate opens at time 0 of the word's first vector; VECTOR_LAND closes it (R442). -/
def execTiuctlGate (s : State) : Out :=
  s.tiuctl 2 fun n t => t.setTiu n { t.tiuUnit n with gated := true, gateOpen := true }

/-- TIUCTL DISARM (R439, R442). -/
def execTiuctlDisarm (s : State) : Out := s.tiuctl 3 fun n t => t.tiuEnd n 2

/-! ## Requests of the host (R217, R241, R244) -/

/-- The first in the order of R242 of the reasons RAKE, STOPAT and HOST that meet at this boundary, one of them being given. -/
def State.softReason (s : State) (reason : Nat) : Nat :=
  if s.fail.rakeStop.any fun g => decide (g ≤ s.boundary) then 11
  else if s.on SEQ_STATUS_ARMED && s.get64 SEQ_STOPAT_LO SEQ_STOPAT_HI == s.boundary && reason == 3 then 4
  else reason

/-- The playlist as the flow of the program itself takes it over this boundary: the OP of a word whose last vector has issued, then the read
of a word that would issue here (R206, R240, R259). -/
def State.flowOn (s : State) (p : Playlist) : State :=
  let s1 := match s.seq.word with
    | some w => if s.seq.vecs = mwRepeat w + 1 && !mwWaits w then s.flow p w false else s
    | none => s
  if s1.seq.running.isSome && s1.seq.word.isNone && decide (s1.seq.next = s.seq.next) then (s1.readWord p 0).2 else s1

/-- The playlist ends at this boundary by its own program: HALT, STOPFAIL, or a fault of R206 or R259. -/
def State.endsHere (s : State) : Bool := s.seq.running.any fun p => (s.flowOn p).seq.running.isNone

/-- A stop for RAKE, STOPAT or HOST: it gives way to the normal end, to a fault of the program at the same boundary, and to the stall
limit (R242). -/
def State.softStop (s : State) (reason : Nat) : State :=
  match s.seq.running with
  | none => s
  | some p =>
    if s.endsHere then s.flowOn p
    else s.endPlaylist (if s.stallLimit ≤ s.seq.stalls then 0xA else s.softReason reason)

/-- SEQ_STOP: SEQ_CTRL.STOP stops the playlist at the first vector boundary (R241, R242). -/
def effSeqStop (s : State) : Out := .next (s.softStop 3)

/-- SEQ_STOP: its effect, where the write reaches SEQ_CTRL (R46, R753, R770, R776). -/
def execSeqStop (s : State) : Out :=
  s.reachReg .host 0x80000 effSeqStop

/-- STOPAT_ARM (R241, R821). -/
def effStopatArm (s : State) : Out :=
  if !s.gateOpen || decide (s.get64 SEQ_STOPAT_LO SEQ_STOPAT_HI ≤ s.clk.gvc + 16) then .next (s.put SEQ_STATUS_SAREF 1)
  else .next (s.put SEQ_STATUS_ARMED 1)

/-- STOPAT_ARM: its effect, where the write reaches SEQ_CTRL (R46, R753, R770, R776). -/
def execStopatArm (s : State) : Out :=
  s.reachReg .host 0x80000 effStopatArm

/-- STOPAT_DISARM (R244). -/
def effStopatDisarm (s : State) : Out := .next (s.put SEQ_STATUS_ARMED 0)

/-- STOPAT_DISARM: its effect, where the write reaches SEQ_CTRL (R46, R753, R770, R776). -/
def execStopatDisarm (s : State) : Out :=
  s.reachReg .host 0x80000 effStopatDisarm

/-- STOPAT_REACHED: the armed stop's boundary has come, inside dead cycles too (R241, R242, R264). With no playlist running there it is
disarmed and stops nothing (DEDUCED, log entry 113). -/
def execStopatReached (s : State) : Out :=
  let t := s.get64 SEQ_STOPAT_LO SEQ_STOPAT_HI
  if !s.on SEQ_STATUS_ARMED || !s.gateOpen then .next s
  else if t < s.clk.gvc then .next (s.put SEQ_STATUS_ARMED 0)
  else if s.seq.running.isSome && decide (s.seq.next < t) then .next s
  else .next (((((s.advanceTo (t - 1)).softStop 4).put SEQ_STATUS_ARMED 0)).advanceTo t)

/-- A host write gives the user flags a value (R217). A flag operation that a word has made in this same vector cycle, on a flag that the
write changes, is applied last. -/
def State.hostFlags (s : State) (mask v : Nat) : State :=
  let again := match s.seq.act with
    | some x => if bitAt x.done actFlag && decide (x.gvc = s.clk.gvc) && bitAt mask (mwFlag x.word) then
        flagOp v (mwFlagOp x.word) (mwFlag x.word) else v
    | none => v
  s.put SEQ_UFLAG again

/-- UFLAG_SET: a host write sets user flags (R217). -/
def effUflagSet (mask : BitVec 16) (s : State) : Out := .next (s.hostFlags mask.toNat (s.get SEQ_UFLAG ||| mask.toNat))

/-- UFLAG_SET: its effect, where the write reaches SEQ_UFLAG (R46, R753, R770, R776). -/
def execUflagSet (mask : BitVec 16) (s : State) : Out :=
  s.reachReg .host 0x80028 (effUflagSet mask)

/-- UFLAG_CLEAR: a host write clears user flags (R217). -/
def effUflagClear (mask : BitVec 16) (s : State) : Out :=
  .next (s.hostFlags mask.toNat (s.get SEQ_UFLAG &&& (0xFFFF - mask.toNat)))

/-- UFLAG_CLEAR: its effect, where the write reaches SEQ_UFLAG_CLR (R46, R753, R770, R776). -/
def execUflagClear (mask : BitVec 16) (s : State) : Out :=
  s.reachReg .host 0x8002C (effUflagClear mask)

end Sys2Proof.Machine
end

