-- ==== Sys2Proof/Machine/Stage.lean ====
section
/-! DEFINITION. The channel stage at its land: the driver's output (R339), the load and the termination (R364), the clamps (R365) and the
comparator (R366), all from the standing levels (R374). Land time is counted in units in which half a picosecond is the number
N × 2^24 + F of the setting in force, so that a vector period is exactly 20,000 × D × 2^24 of them (R121, R324, R343). Voltages are
counted in 1/640 of the 250 µV of a level code, so that the drop of 1 µA in 50 Ω is 128 of them. -/

namespace Sys2Proof.Machine

/-! ## Land time -/

/-- The vector period. -/
def VSet.period (v : VSet) : Int := 20000 * v.den

/-- Half a picosecond. -/
def VSet.half (v : VSet) : Int := v.num

/-- Time 0 of the vector issued in cycle g (R323). -/
def VSet.time0 (v : VSet) (g : Nat) : Int := (g + 64) * v.period

/-- Time 0 of UI u after time 0 of its vector. -/
def VSet.ui0 (v : VSet) (u : Nat) : Int := u * (v.period / v.uis)

/-- 2,000 ns. -/
def VSet.settleTime (v : VSet) : Int := 4000000 * v.half

/-! ## Pin actions at the land -/

/-- The last driven data of channel c before UI u of a vector (R249). -/
def State.dataBefore (s : State) (f : Flight) (c u : Nat) : Bool :=
  (List.range u).foldl (fun l v =>
    let a := s.actionAt f c v
    if actDrives a then actData a l else l) (bitAt f.prevData c)

/-- The action never turns the driver off: a driving action, or KEEP. -/
def actKeepsDriver (a : Nat) : Bool := actDrives a || a == 0x3

/-! ## The driver's output -/

/-- +1 for a level 1, −1 for a level 0 (R339). -/
def sign (b : Bool) : Int := if b then 1 else -1

/-- What the driver of a channel drives in UI u of a vector, where it drives data there; none where it is off, or keeps its drive. -/
def State.drivenIn (s : State) (f : Flight) (c u : Nat) : Option Bool :=
  let a := s.actionAt f c u
  if f.bad.contains (tsOff c (mwTset f.word)) || s.driveOverride f c ≠ 0 || !actDrives a then none
  else some (actData a (s.dataBefore f c u))

/-- What the driver drives in the UI after UI u of a vector of cycle g; none where it is off, or where no vector of the playlist follows. -/
def State.drivenNext (s : State) (g c u : Nat) : Option Bool :=
  match s.land.flights.find? fun f => f.gvc == g with
  | none => none
  | some f =>
    if u + 1 < s.clk.vset.uis then s.drivenIn f c (u + 1)
    else match s.land.flights.find? fun x => x.gvc == g + 1 && !x.playFirst with
      | none => none
      | some x => s.drivenIn x c 0

/-- The FIR sum of a UI that drives d in serial mode, in 1/64: c(−1) = −PRE, c(0) = MAIN and c(+1) = −POST on the level after, the own one and
the one before; a neighbour that is off or outside the playlist counts as the UI itself (R339). prev is the driver's state before the UI. -/
def State.firSum (s : State) (g c u prev : Nat) (d : Bool) : Int :=
  match s.land.flights.find? fun f => f.gvc == g with
  | none => 64 * sign d
  | some f =>
    let w := tsWord f.active c (mwTset f.word)
    let pre : Int := tsPre w
    let post : Int := tsPost w
    let earlier := if prev = 0 || (u == 0 && f.playFirst) then d else prev == 2
    (64 - pre - post) * sign d - pre * sign ((s.drivenNext g c u).getD d) - post * sign earlier

/-- A voltage of the standing levels: the 16-bit code at bit i of word k (R361, R362). -/
def ChanLand.volt (l : ChanLand) (k i : Nat) : Int := 640 * signedOf 16 (bits (l.standing.getD k 0) i 16)

/-- The source level of a driver that is on: Vmid and the half swing times the FIR sum (R339); the sum is ±64 in format mode. -/
def ChanLand.source (l : ChanLand) : Int := (64 * (l.volt 0 16 + l.volt 0 0) + l.fir * (l.volt 0 16 - l.volt 0 0)) / 128

/-! ## Load, termination and clamps -/

/-- The driver's off span of an EZ action in UI u of a vector (R364): in format mode from time 0 to the later of WCL and time T, in serial mode
the UI shifted by DSK. The end of the format span is inside, where the compare samples. -/
def State.ezSpan (s : State) (f : Flight) (c u : Nat) (t : Int) : Bool :=
  let v := s.clk.vset
  let t0 := v.time0 f.gvc
  let w := tsWord f.active c (mwTset f.word)
  if v.format then
    let wcl : Int := if edgeEn (w 5) && !f.bad.contains (tsOff c (mwTset f.word)) then edgeTime (w 5) * v.half else 0
    decide (t0 ≤ t) && decide (t ≤ t0 + max wcl v.period)
  else
    let a := t0 + v.ui0 u + tsDsk w * v.half
    decide (a ≤ t) && decide (t < a + v.ui0 1)

/-- An instant lies in the UI of an EZ action of the channel (R248, R364). -/
def State.ezAt (s : State) (c : Nat) (t : Int) : Bool :=
  s.land.flights.any fun f => !f.cut && s.driveOverride f c == 0 &&
    (List.range s.clk.vset.uis).any fun u => s.actionAt f c u == 0x7 && s.ezSpan f c u t

/-- What loads the land at an instant (R364, R501): 0 nothing, 1 the active load, 2 the termination. -/
def State.loadAt (s : State) (c : Nat) (t : Int) : Nat :=
  let l := s.chan c
  if l.drv ≠ 0 || s.offLand c || s.pmuHeld c then 0 else if s.ezAt c t then 1 else bits (l.standing.getD 6 0) 0 2

/-- The clamps hold a voltage between CLL and CLH where they are enabled (R365). -/
def ChanLand.clamp (l : ChanLand) (v : Int) : Int :=
  if bitAt (l.standing.getD 6 0) 2 then max (l.volt 4 0) (min (l.volt 4 16) v) else v

/-- A contact test drives the channel at a source level of 0 V, since it tests another one of its group (R465). -/
def State.zeroDriven (s : State) (c : Nat) : Bool :=
  s.underContact c && s.ctNow (c / 8) != some c && !s.offLand c

/-- The voltage that PMU n forces, in 1/640 of 250 µV (R460, R461): code × 8 V / 2^30, its low 13 bits rounded; a tie goes up (DESIGN CHOICE, log
entry 117). -/
def State.pmuVolt (s : State) (n : Nat) : Int := (signedOf 32 (s.get (PMU_FORCE n)) + 4096) / 8192 * 8192 * 20480000 / 2 ^ 30

/-- The full scale of PMU n's current range in µA (R461). -/
def State.pmuScale (s : State) (n : Nat) : Int :=
  let r := s.get (PMU_CTRL_IRANGE n)
  if r = 0 then 2 else if r = 1 then 20 else if r = 2 then 200 else if r = 3 then 2000 else 32000

/-- The sign of the current into a land that PMU n forces a current into, i µA coming from outside; rounded like a voltage (R459 to R461). -/
def State.pmuDrive (s : State) (n : Nat) (i : Int) : Int :=
  i * 2 ^ 30 + (signedOf 32 (s.get (PMU_FORCE n)) + 4096) / 8192 * 8192 * s.pmuScale n

/-- What a PMU connected to a land makes of its voltage (R459): a forced voltage, or a forced current into the PMU's clamps; none where it forces
nothing. -/
def State.pmuLand (s : State) (n : Nat) (i : Int) : Option Int :=
  let mode := s.get (PMU_CTRL_MODE n)
  if mode % 2 = 1 then some (s.pmuVolt n)
  else if mode = 2 && s.pmuDrive n i ≠ 0 then
    some (640 * (if 0 < s.pmuDrive n i then signedOf 16 (s.get (PMU_VCLAMP_VCLH n)) else signedOf 16 (s.get (PMU_VCLAMP_VCLL n))))
  else none

/-- The land's voltage at an instant; none where nothing defines it (R364). What holds the land from outside gives it; else a driver, or the
termination, gives it behind 50 Ω, and the active load gives VT for every current that it can take: it sinks IOH above VT and sources
IOL below. Clamps bound it all (R365). -/
def State.landVolt (s : State) (c : Nat) (t : Int) : Option Int :=
  let l := s.chan c
  let load := s.loadAt c t
  let free : Option Int := match l.outside with
    | (true, v) => some (640 * v)
    | (false, i) =>
      if s.zeroDriven c then some (128 * i)
      else if s.pmuOn c then s.pmuLand (c / 8) i
      else if l.drv ≠ 0 then some (l.source + 128 * i)
      else if load = 2 then some (l.volt 2 0 + 128 * i)
      else if load = 1 && decide (-(bits (l.standing.getD 3 0) 0 16 : Int) ≤ i) && decide (i ≤ (bits (l.standing.getD 3 0) 16 16 : Int)) then
        some (l.volt 2 0)
      else if bitAt (l.standing.getD 6 0) 2 && i ≠ 0 then some (if 0 < i then l.volt 4 16 else l.volt 4 0)
      else none
  free.map l.clamp

/-! ## The comparator -/

/-- Half the hysteresis band: HYS is none, 10, 20 or 40 mV (R362). -/
def ChanLand.halfBand (l : ChanLand) : Int :=
  let h := bits (l.standing.getD 5 0) 4 2
  if h = 0 then 0 else 640 * (10 * 2 ^ h : Nat)

/-- The latches judged against the thresholds in force at a land voltage (R366). Without hysteresis a threshold keeps no memory. -/
def ChanLand.judged (l : ChanLand) (v : Int) : ChanLand :=
  let b := l.halfBand
  let latch (old set clear : Bool) := if set then true else if clear || b == 0 then false else old
  { l with ah := latch l.ah (decide (l.volt 1 16 + b < v)) (decide (v < l.volt 1 16 - b))
           bl := latch l.bl (decide (v < l.volt 1 0 - b)) (decide (l.volt 1 0 + b < v)) }

/-- The comparator's state (R366): 0 below VOL, 1 between, 2 above VOH. -/
def ChanLand.state (l : ChanLand) : Nat := if l.ah then 2 else if l.bl then 0 else 1

/-- The latches of a channel judged at an instant, where the land's voltage is defined. -/
def State.judgeLand (s : State) (c : Nat) (t : Int) : State :=
  match s.landVolt c t with
  | some v => s.setChan c ((s.chan c).judged v)
  | none => s

/-- What acts on the land from outside changes, as (held, amount): at a voltage in 250 µV, or with a current in µA. -/
def State.landFrom (s : State) (c : Nat) (t : Int) (x : Bool × BitVec 16) : State :=
  (s.setChan c { s.chan c with outside := (x.1, x.2.toInt) }).judgeLand c t

/-- The state that the comparator reports at an instant; a free value where nothing defines the land's voltage (R364). -/
def State.comparator (s : State) (c : Nat) (t : Int) : Nat × State :=
  match s.landVolt c t with
  | some v =>
    let l := (s.chan c).judged v
    (l.state, s.setChan c l)
  | none =>
    let (v, s1) := s.free
    (v % 3, s1.setChan c { s1.chan c with ah := v % 3 == 2, bl := v % 3 == 0 })

end Sys2Proof.Machine
end

