-- ==== Sys2Proof/Machine/Land.lean ====
section
/-! DEFINITION. What happens at the channel lands: standing levels and settles (R374 to R377), drive edges in time order
(R330 to R339, R348 to R350), compares (R325, R335, R336, R351, R390), twin storage, readback and untrusted channels
(R354, R378 to R382). -/

namespace Sys2Proof.Machine

/-! ## Drive edges -/

/-- A level edge: turns the driver on at level d, or only sets the level. -/
def levelAct (on d : Bool) : Nat := if on then 1 + b2n d else 3 + b2n d

/-- The drive edges of a data action in format mode, as (order, half-picoseconds, act) (R332): w gives the words of the entry, d the
data, l the last driven data before the vector. A level edge turns a driver on where DON is disabled or not used (R331). -/
def formatEdges (w : Nat → Nat) (d l : Bool) : List (Nat × Nat × Nat) :=
  let fmt := tsFmt w
  let donOn := edgeEn (w 0)
  let at0 := if fmt = 0 then l else if fmt = 1 then false else if fmt = 2 then true else !d
  let back := if fmt = 1 then false else if fmt = 2 then true else !d
  let atD := if fmt = 5 then (if d then 0 else 1) else if fmt = 6 then (if d then 2 else 0) else levelAct (!donOn) d
  (if donOn then [(0, edgeTime (w 0), 1 + b2n at0)] else [])
    ++ (if edgeEn (w 1) then [(1, edgeTime (w 1), atD)] else [])
    ++ (if edgeEn (w 2) then [(2, edgeTime (w 2), levelAct false back)] else [])

/-- The drive edges of a vector on a channel in format mode (R333, R334). -/
def State.edgesFormat (s : State) (f : Flight) (c : Nat) : List (Nat × Nat × Nat) :=
  let w := tsWord f.active c (mwTset f.word)
  let a := s.actionAt f c 0
  let o := s.driveOverride f c
  let off := [(3, dofEff w, 0)]
  if o = 1 then []
  else if o = 2 then off
  else if a = 0x3 then []
  else if actDrives a then
    formatEdges w (actData a (bitAt f.prevData c)) (bitAt f.prevData c)
      ++ (if !actDriveCompare a && edgeEn (w 3) then off else [])
  else off

/-- The drive edges of a vector on a channel, in time order (R338, R349); none if the entry fails (R353). -/
def State.edgesOf (s : State) (f : Flight) (c : Nat) : List Edge :=
  let k := mwTset f.word
  let v := s.clk.vset
  let t0 := v.time0 f.gvc
  if f.bad.contains (tsOff c k) then []
  else if v.format then
    (s.edgesFormat f c).map fun e => ⟨⟨t0 + e.2.1 * v.half, f.gvc, e.1⟩, e.2.2⟩
  else
    let w := tsWord f.active c k
    let o := s.driveOverride f c
    (List.range v.uis).filterMap fun u =>
      let a := s.actionAt f c u
      let key : EdgeKey := ⟨t0 + v.ui0 u + tsDsk w * v.half, f.gvc, u⟩
      if o = 1 || (o = 0 && a = 0x3) then none
      else if o = 0 && actDrives a then some ⟨key, 1 + b2n (actData a (s.dataBefore f c u))⟩
      else some ⟨key, 0⟩

/-- The order of R349. -/
def EdgeKey.before (a b : EdgeKey) : Bool :=
  decide (a.time < b.time) || (a.time == b.time && (decide (a.cycle < b.cycle) || (a.cycle == b.cycle && decide (a.ord < b.ord))))

/-- The edges of channel c that its vectors have scheduled and the land has not applied yet. -/
def State.dueEdges (s : State) (c : Nat) : List Edge :=
  ((s.land.flights.filter fun f => !f.cut).flatMap fun f => s.edgesOf f c).filter fun e =>
    match (s.chan c).cursor with
    | some k => k.before e.key
    | none => true

/-- The first of a list of edges. -/
def firstEdge : List Edge → Option Edge
  | [] => none
  | e :: es => match firstEdge es with
    | some m => if m.key.before e.key then some m else some e
    | none => some e

/-- One edge applied to a driver and its held level (R331). -/
def Edge.apply (e : Edge) (dl : Nat × Nat) : Nat × Nat :=
  let (drv, level) := dl
  if e.act = 0 then (0, level)
  else if e.act ≤ 2 then (e.act, e.act - 1)
  else (if drv = 0 then 0 else e.act - 2, e.act - 3)

/-- A runt at the land (R350). -/
def State.runt (s : State) (c g : Nat) : State :=
  ((((s.inc (PTF_CH_NRUNT c)).inc PTF_NRUNT).put64 (PTF_CH_EVGVC_LO c) (PTF_CH_EVGVC_HI c) g).raise srcPtfRunt c 0).recordCause
    (s.siteMask c) 1

/-- Budding: no channel places an edge or evaluates a compare (R777). -/
def State.budding (s : State) : Bool := s.get PMG_STATUS_STATE == 2

/-- The edges of a channel's vector at the instant of edge e are applied: those of one vector that share it make one transition (R349). A
channel that a trip, a calibration, a PMU or a contact test holds places none (R186, R354, R456, R544). -/
def State.placeEdge (s : State) (c : Nat) (e : Edge) : State :=
  let v := s.clk.vset
  let l := s.chan c
  let group := (s.dueEdges c).filter fun x => x.key.time == e.key.time && x.key.cycle == e.key.cycle
  let (drv, level) := group.foldl (fun dl x => x.apply dl) (l.drv, l.level)
  let cur : EdgeKey := { e.key with ord := 16 }
  let fir := if drv = 0 then l.fir else if v.format then 64 * sign (drv == 2) else s.firSum e.key.cycle c e.key.ord l.drv (drv == 2)
  if s.budding then s.setChan c { l with cursor := some cur }
  else if s.offLand c || s.pmuHeld c then s.setChan c { l with drv := 0, cursor := some cur }
  else if drv = l.drv then (s.setChan c { l with level := level, cursor := some cur, fir := fir }).judgeLand c e.key.time
  else
    let counts := v.format || drv = 0 || l.drv = 0
    let short := counts && (match l.lastTrans with
      | some t => decide (e.key.time - t < 220 * v.half)
      | none => false)
    let s1 := (s.setChan c
      { l with drv := drv, level := level, cursor := some cur, fir := fir
               lastTrans := if counts then some e.key.time else l.lastTrans
               offSince := if drv = 0 then some e.key.time else none }).judgeLand c e.key.time
    if short then s1.runt c e.key.cycle else s1

/-! ## Levels -/

/-- The values of the level-set entry that a vector uses on channel c. -/
def levelWords (f : Flight) (c : Nat) : List Nat := (List.range 7).map (lsWord f.active c (mwLevelset f.word))

/-- A vector's levels become standing on channel c at its time 0; a level settle starts where they differ (R372, R374, R375). -/
def State.standLevels (s : State) (f : Flight) (c : Nat) : State :=
  let l : ChanLand := { s.chan c with ls := mwLevelset f.word, ts := mwTset f.word }
  let ws := levelWords f c
  if f.bad.contains (lsOff c (mwLevelset f.word)) || ws == l.standing then s.setChan c l
  else
    (s.setChan c { l with standing := ws, settle := some (s.clk.vset.time0 f.gvc), rest := none
                          past := (l.settle.toList ++ l.past).take 8 }).judgeLand c (s.clk.vset.time0 f.gvc)

/-- A vector lands (R323, R374, R442): its levels stand, and the first vector of the next word closes the gates that earlier words opened. -/
def State.landVector (s : State) (f : Flight) : State :=
  let s2 := allChannels.foldl (fun t c => t.standLevels f c) s
  let fs := s2.land.flights.map fun x => if x.gvc = f.gvc then { x with landed := true } else x
  let s3 : State := { s2 with land := { s2.land with flights := fs, lastLand := some f.gvc } }
  if f.first then
    (List.range 16).foldl (fun t n =>
      let u := t.tiuUnit n
      if u.gateOpen then t.setTiu n { u with gateOpen := false } else t) s3
  else s3

/-- The vectors of a list whose time 0 is not after an instant land. -/
def State.landUpTo (t : Int) : List Flight → State → State
  | [], s => s
  | f :: fs, s => if f.landed then State.landUpTo t fs s else if s.clk.vset.time0 f.gvc ≤ t then State.landUpTo t fs (s.landVector f) else s

/-- The next n instants of a channel's edges that are not after an instant are applied. -/
def State.placeUpTo (c : Nat) (t : Int) : Nat → State → State
  | 0, s => s
  | n + 1, s =>
    match firstEdge (s.dueEdges c) with
    | none => s
    | some e => if e.key.time ≤ t then State.placeUpTo c t n (s.placeEdge c e) else s

/-- What is due on a channel not after an instant has happened: levels stand, and every edge of the instant is applied before a sample at it
(R349, R374). -/
def State.settleLand (s : State) (c : Nat) (t : Int) : State :=
  State.placeUpTo c t (s.dueEdges c).length (State.landUpTo t s.land.flights s)

/-- EDGE_PLACE: the next scheduled instant of a channel is applied, under the levels that stand then (R349, R374). -/
def execEdgePlace (ch : Fin 256) (s : State) : Out :=
  match firstEdge (s.dueEdges ch.val) with
  | none => .next s
  | some e =>
    match s.reach (e.key.time / s.clk.vset.period).toNat with
    | none => .next s
    | some s1 => .next ((State.landUpTo e.key.time s1.land.flights s1).placeEdge ch.val e)

/-- VECTOR_LAND: time 0 of the oldest vector that has not landed (R323). -/
def execVectorLand (s : State) : Out :=
  match s.land.flights.find? fun f => !f.landed with
  | none => .next s
  | some f =>
    match s.reach (f.gvc + 64) with
    | none => .next s
    | some s1 => .next (s1.landVector f)

/-- LEVEL_SETTLE_END: the running settle of a channel ends 2,000 ns after its start (R375), with the VCLK gate open or closed. -/
def execLevelSettleEnd (ch : Fin 256) (s : State) : Out :=
  let l := s.chan ch.val
  match l.settle, l.rest with
  | some t, _ =>
    match s.reach ((t + s.clk.vset.settleTime) / s.clk.vset.period).toNat with
    | none => .next s
    | some s1 => .next (s1.setChan ch.val { s1.chan ch.val with settle := none, past := (t :: l.past).take 8 })
  | none, some (n, r) =>
    let s1 := s.passRc (r + ((n + 19999) / 20000).toNat - s.time.rc)
    .next (s1.setChan ch.val { s1.chan ch.val with rest := none })
  | none, none => .next s

/-- A level settle of the channel was running at an instant (R376). -/
def State.settling (s : State) (c : Nat) (t : Int) : Bool :=
  let l := s.chan c
  (l.settle.toList ++ l.past).any fun b => decide (b ≤ t) && decide (t < b + s.clk.vset.settleTime)

/-! ## Compares -/

/-- The first and the last sample point of a vector's compare on a channel in UI u (R335, R338), and the instant at which the state
is presented (R336); no points where the entry evaluates no compare. -/
def State.samplePoints (s : State) (f : Flight) (c u : Nat) : Option (Int × Int) × Int :=
  let v := s.clk.vset
  let t0 := v.time0 f.gvc
  let w := tsWord f.active c (mwTset f.word)
  if f.bad.contains (tsOff c (mwTset f.word)) then (none, t0)
  else if v.format then
    let wcl := t0 + edgeTime (w 5) * v.half
    if !edgeEn (w 5) then (none, t0)
    else (some (if tsWindow w then t0 + edgeTime (w 4) * v.half else wcl, wcl), wcl)
  else
    let t := t0 + v.ui0 u + tsStb w * v.half
    (some (t, t), t)

/-- The compares of channel c are masked in a vector (R389, R390). -/
def maskedIn (f : Flight) (c : Nat) : Bool := bankGet f.active (CAP_MS_MASK c (mwMaskset f.word)) == 1

/-- A compare withheld by a level settle (R376). -/
def State.unsettled (s : State) (c : Nat) : State :=
  (((s.inc (LVL_CH_UNSETTLED c)).inc LVL_UNSETTLED).raise srcLvlUnset c 0).recordCause (s.siteMask c) 1

/-- A compare withheld because the driver was not off for long enough (R351). -/
def State.shadowed (s : State) (c g : Nat) : State :=
  ((((s.inc (PTF_CH_NSHADOW c)).inc PTF_NSHADOW).put64 (PTF_CH_EVGVC_LO c) (PTF_CH_EVGVC_HI c) g).raise srcPtfShadow c 0).recordCause
    (s.siteMask c) 1

/-- The driver was off from 450 ps before t until now (R351). -/
def State.offBefore (s : State) (c : Nat) (t : Int) : Bool :=
  let l := s.chan c
  l.drv == 0 && (match l.offSince with
    | some b => decide (b + 900 * s.clk.vset.half ≤ t)
    | none => true)

/-- The results of a period, with one more compare of a site (R219, R325). -/
def notePeriod (ps : List Period) (g site : Nat) (failed : Bool) : List Period :=
  let m := if failed then 2 ^ site else 0
  match ps with
  | [] => [⟨g, m, true⟩]
  | p :: rest => if p.cycle = g then ⟨g, p.failed ||| m, true⟩ :: rest else p :: notePeriod rest g site failed

/-- An evaluated compare counts: in its period, and, unless the vector is of a MATCH word, in the site's interval and among the
sites that have failed (R97, R219, R236). -/
def State.countCompare (s : State) (f : Flight) (site g : Nat) (failed : Bool) : State :=
  let s1 : State := { s with fail := { s.fail with periods := notePeriod s.fail.periods g site failed } }
  if mwOp f.word = 0x11 then s1
  else
    let s2 := s1.noteCompare site f.gvc failed
    let current := s2.seq.running.isSome && decide (s2.seq.startGvc ≤ f.gvc)
    if failed && current then
      let old := s2.fail.siteFail.find? fun e => e.1 == site
      let first := match old with
        | some e => min e.2 g
        | none => g
      { s2 with fail := { s2.fail with siteFail := (site, first) :: s2.fail.siteFail.filter fun e => e.1 != site } }
    else s2

/-- What becomes of a compare of channel c at its last sample point: the result of it (0 not evaluated, 1 passed, 2 failed)
and the state after. -/
def State.judge (s : State) (f : Flight) (c u cmp : Nat) (held : Bool) : Nat × State :=
  let a := s.actionAt f c u
  match s.siteOf c, (s.samplePoints f c u).1 with
  | some site, some (first, last) =>
    if s.budding || !actCompares a || !bitAt f.enabled site || maskedIn f c then (0, s)
    else if s.pmuHeld c then (0, s.recordCause (2 ^ site) 1)
    else if f.bad.contains (lsOff c (mwLevelset f.word)) then (0, s)
    else if s.settling c first || (!actDriveCompare a && !s.offBefore c first) then
      let s1 := if s.settling c first then s.unsettled c else s
      (0, if !actDriveCompare a && !s.offBefore c first then s1.shadowed c f.gvc else s1)
    else
      let ok := actPasses a cmp && (held || !s.clk.vset.format || !tsWindow (tsWord f.active c (mwTset f.word)))
      let g := f.gvc + ((last - s.clk.vset.time0 f.gvc) / s.clk.vset.period).toNat
      (if ok then 1 else 2, s.countCompare f site g (!ok))
  | _, _ => (0, s)

/-- COMPARE_SAMPLE: the comparator of a channel is sampled for a vector (R325, R335, R336, R351, R366). lands is what has acted on the land
from outside since it was last looked at, in order, up to the sample; held says that a window read the expected state throughout. The
state is kept for Rake (R388). -/
def execCompareSample (cycle : Gvc) (ch : Fin 256) (ui : Fin 8) (lands : List (Bool × BitVec 16)) (held : Bool) (s : State) : Out :=
  let c := ch.val
  match s.land.flights.find? fun f => f.gvc == cycle.toNat && !f.cut with
  | none => .next s
  | some f =>
    let t := (s.samplePoints f c ui.val).2
    let dup := f.samples.any fun x => x.ch == c && x.ui == ui.val
    match s.reach (t / s.clk.vset.period).toNat with
    | none => .next s
    | some s1 =>
      if dup || s1.clk.vset.uis ≤ ui.val then .next s
      else
        let (cmp, s11) := (lands.foldl (fun a x => a.landFrom c t x) (s1.settleLand c t)).comparator c t
        let (res, s2) := s11.judge f c ui.val cmp held
        let x : Sample := ⟨c, ui.val, cmp, (s2.chan c).drv, res,
          f.gvc + ((t - s2.clk.vset.time0 f.gvc) / s2.clk.vset.period).toNat⟩
        let fs := s2.land.flights.map fun y => if y.gvc = f.gvc then { y with samples := y.samples ++ [x] } else y
        .next { s2 with land := { s2.land with flights := fs } }

/-! ## Twin storage, readback, untrusted channels -/

/-- The readback of channel c. -/
def State.readback (s : State) (c : Nat) : Readback := Assoc.get Readback.none s.land.readback c

/-- The readback of channel c replaced. -/
def State.setReadback (s : State) (c : Nat) (r : Readback) : State :=
  { s with land := { s.land with readback := Assoc.set Readback.none s.land.readback c r } }

/-- Auxiliary cycles of 250 ns since the power-on reset. -/
def State.nowAc (s : State) : Nat := s.time.rc / 25

/-- The channel is marked untrusted (R381). CH_UNTRUSTED carries the GVC of its last good readback (R102) in a VALUE of 16 bits: that it
is the low 16 bits is the model's choice (DESIGN CHOICE, log entry 102). -/
def State.markUntrusted (s : State) (c : Nat) (cause : Nat → Field) : State :=
  let s1 := ((s.put (cause c) 1).inc LVL_NUNTR).raise srcChUntrusted c (s.get (LVL_CH_RBGOOD_LO c) % 2 ^ 16)
  ((s1.setReadback c { s1.readback c with markAc := some s.nowAc, cleared := false }).recordUntr (s1.siteMask c)).tiuInterrupt (· == c)

/-- The reload of a channel's copies meets a check-code failure of the entry at an offset (R378): what R372 does, in the vector at the land; the
read clears the entry's validity flag (R823). -/
def State.reloadFailed (s : State) (c off : Nat) (cls : Nat) : State :=
  let s1 := (s.inc CMT_NINTEG).put CMT_INTEG_ABAD (s.get CMT_INTEG_ABAD ||| cls)
  let fs := s1.land.flights.map fun f => if s1.land.lastLand = some f.gvc then { f with bad := lsOff c (mwLevelset f.word) :: f.bad } else f
  ({ s1 with land := { s1.land with flights := fs }
             cmt := { s1.cmt with flagCleared := off :: s1.cmt.flagCleared.filter (· ≠ off) } } : State).lsFailed c

/-- TWIN_MISMATCH: the two copies of a level or delay setting differ; the channel is untrusted, with cause CFG, and both copies are loaded
anew from the active bank's entry in use, so that they hold again what they held (R100, R354, R378); bad: the reload meets a check-code
failure. -/
def execTwinMismatch (ch : Fin 256) (delay bad : Bool) (s : State) : Out :=
  let c := ch.val
  let l := s.chan c
  let s1 := s.markUntrusted c (if delay then LVL_CH_UNTR_DLYTWIN else LVL_CH_UNTR_LVTWIN)
  let s2 := s1.setReadback c { s1.readback c with spoilt := true }
  let s3 := s2.recordCause (s2.siteMask c) 0
  .next (if bad then s3.reloadFailed c (if delay then tsOff c l.ts else lsOff c l.ls) (if delay then 1 else 2) else s3)

/-- A readback pass of channel c begins (R379). -/
def State.beginPass (s : State) (c : Nat) : State :=
  s.setReadback c { s.readback c with running := true, step := 0, again := false, void := false, spoilt := false
                                      began := s.cmt.holdSeq, beganAc := s.nowAc }

/-- READBACK_PERIOD: a period boundary, 4 × RBPERIOD ac after the last one (R379, R380); before it has come nothing happens. A pass still
running runs on, late where steps of it were void. -/
def execReadbackPeriod (s : State) : Out :=
  let b := s.land.rbBase + 100 * s.get LVL_CTRL_RBPERIOD
  if s.time.rc < b then .next s
  else
    let s1 : State := { s with land := { s.land with rbBase := b } }
    .next (allChannels.foldl (fun t c =>
      if !t.domOn (29 + 3 * (c / 32)) then t
      else if (t.readback c).running then
        (if (t.readback c).void then (t.put LVL_STATUS_RBLATE 1).raise srcLvlRblate c 0 else t)
      else t.beginPass c) s1)

/-- A pass has done its ninth step (R380). -/
def State.endPass (s : State) (c : Nat) : State :=
  let r := s.readback c
  let s1 := s.setReadback c { r with
    running := false, good := if r.spoilt then r.good else some r.began
    cleared := r.cleared || (!r.spoilt && r.markAc.all fun m => decide (m < r.beganAc)) }
  match s1.stamp with
  | some g => if r.spoilt then s1 else s1.put64 (LVL_CH_RBGOOD_LO c) (LVL_CH_RBGOOD_HI c) g
  | none => s1

/-- READBACK_STEP: one DAC of a channel's pass is read back: void, out of tolerance or good (R379, R380). -/
def execReadbackStep (ch : Fin 256) (void bad : Bool) (s : State) : Out :=
  let c := ch.val
  let r := s.readback c
  if !r.running then .next s
  else if void then .next (s.setReadback c { r with void := true })
  else if bad && !r.again then .next (s.setReadback c { r with again := true })
  else
    let s1 := if bad then
        let t := s.inc (LVL_CH_RBFAIL c)
        let t1 := t.markUntrusted c LVL_CH_UNTR_RBFAIL
        t1.setReadback c { t1.readback c with spoilt := true }
      else s
    let s2 := s1.setReadback c { s1.readback c with step := r.step + 1, again := false }
    if 8 ≤ r.step then .next (s2.endPass c) else .next s2

/-- UNTR_CLEAR: LVL_CH_UNTR.CLR (R382). -/
def effUntrClear (ch : Fin 256) (s : State) : Out :=
  let c := ch.val
  if (s.readback c).cleared then
    .next (((s.put (LVL_CH_UNTR_RBFAIL c) 0).put (LVL_CH_UNTR_DLYTWIN c) 0).put (LVL_CH_UNTR_LVTWIN c) 0)
  else .next (s.put (LVL_CH_UNTR_CLRREF c) 1)

/-- UNTR_CLEAR: its effect, where the write reaches LVL_CH_UNTR (R46, R753, R770, R776). -/
def execUntrClear (ch : Fin 256) (s : State) : Out :=
  s.reachReg .host 0x100E120 (effUntrClear ch)

/-- LVL_CTRL_WRITE: RBPERIOD, 100 to 10,000 µs (R379, R385). -/
def effLvlCtrlWrite (data : BitVec 32) (s : State) : Out :=
  let p := data.toNat
  if 100 ≤ p % 2 ^ 14 && p % 2 ^ 14 ≤ 10000 then
    let s1 := s.put LVL_CTRL_RBPERIOD p
    .next { s1 with land := { s1.land with rbBase := s1.time.rc } }
  else .next (s.put LVL_STATUS_RBREF 1)

/-- LVL_CTRL_WRITE: its effect, where the write reaches LVL_CTRL (R46, R753, R770, R776). -/
def execLvlCtrlWrite (data : BitVec 32) (s : State) : Out :=
  s.reachReg .host 0xA00 (effLvlCtrlWrite data)

end Sys2Proof.Machine
end

