-- ==== Sys2Proof/Machine/Rake.lean ====
section
/-! DEFINITION. Rake: the take point of a vector with its mask test, trigger program, capture record, failing-vector counts and
fail-catalogue records (R386 to R419), kills and the Rake stop. -/

namespace Sys2Proof.Machine

/-! ## What Rake takes (R388) -/

/-- Comparator and drive state of a channel in a UI of a vector. A state that nothing sampled is a free value (log entry 4). -/
def State.taken (s : State) (f : Flight) (c u : Nat) : Nat × Nat :=
  match f.samples.find? fun x => x.ch == c && x.ui == u with
  | some x => (x.cmp, x.drv)
  | none => (Config.freeValue (s.freeCtr + 8 * c + u) % 3, (s.chan c).drv)

/-- The UIs of the vectors of this setting. -/
def uisOf (f : Flight) : List Nat := List.range (2 ^ f.uipv)

/-- The channel has an unmasked failing compare in UI u of the vector. -/
def failedIn (f : Flight) (c u : Nat) : Bool := f.samples.any fun x => x.ch == c && x.ui == u && x.res == 2

/-- Sites with an unmasked failing compare in the vector. -/
def State.failSites (s : State) (f : Flight) : Nat :=
  f.samples.foldl (fun m x => if x.res = 2 then m ||| s.siteMask x.ch else m) 0

/-- The vector belongs to a MATCH word. -/
def matchVec (f : Flight) : Bool := mwOp f.word == 0x11

/-! ## The mask test (R392) -/

/-- The word of the mask set allows a comparator state. -/
def maskAllows (f : Flight) (c cmp : Nat) : Bool :=
  let m := mwMaskset f.word
  (if cmp = 0 then bankGet f.active (CAP_MS_AL c m) else if cmp = 1 then bankGet f.active (CAP_MS_AM c m)
    else bankGet f.active (CAP_MS_AH c m)) == 1

/-- The vector is a mask violation. -/
def State.maskViolation (s : State) (f : Flight) : Bool :=
  bankGet f.active (CAP_MSCFG_MTEST (mwMaskset f.word)) != 0 && !matchVec f && allChannels.any fun c =>
    (match s.siteOf c with
    | some n => bitAt f.enabled n
    | none => false) && (uisOf f).any fun u => !maskAllows f c (s.taken f c u).1

/-! ## Trigger words (R394 to R396) -/

/-- Channel c's bit b in UI u, by SRC, when it matches either value. -/
def State.trigBit (s : State) (f : Flight) (src c u : Nat) : Option Bool :=
  let (cmp, drv) := s.taken f c u
  if src = 0 then (if drv = 0 then none else some (drv == 2))
  else if src = 1 then some (cmp == 2)
  else if src = 2 then some (cmp == 0)
  else some (failedIn f c u)

/-- Trigger word w matches the vector (R395). An invalid active configuration matches nothing (R396). -/
def State.twMatch (s : State) (f : Flight) (w : Nat) : Bool :=
  let b := f.active
  let mark := bankGet b (CAP_TW_CFG_MARK w)
  let src := bankGet b (CAP_TW_CFG_SRC w)
  let inUi (u : Nat) := allChannels.all fun c =>
    !bitAt (bankGet b (CAP_TWCH_CARE c)) w || s.trigBit f src c u == some (bitAt (bankGet b (CAP_TWCH_VALUE c)) w)
  !twUiBad s.clk.vset b w && mwTrigen f.word && (mark == 0 || mark == mwMark f.word)
    && (if bankGet b (CAP_TW_CFG_ANYUI w) = 1 then (uisOf f).any inUi else inUi (bankGet b (CAP_TW_CFG_UISEL w)))

/-! ## The trigger program (R397 to R403) -/

/-- ST, CNT and WIN go to 0 in state n. -/
def State.enterTp (s : State) (n : Nat) : State :=
  let s1 := s.put CAP_STATUS_ST n
  { s1 with cap := { s1.cap with cnt := 0, win := 0 } }

/-- RESET (R409). A gap still to be marked goes with the ring that it lay in (DEDUCED, log entry 115). -/
def State.capReset (s : State) : State :=
  let s1 := ((((((s.put CAP_STATUS_FIRED 0).put CAP_STATUS_FROZEN 0).put CAP_STATUS_FILLED 0).put CAP_STATUS_HOLE 0).put
    CAP_STATUS_SHORTPOST 0).put CAP_STATUS_RINGFULL 0).put CAP_STATUS_ARMED 0
  let s2 := ((s1.put64 CAP_WPTR_LO CAP_WPTR_HI 0).put CAP_STATUS_ST 0)
  { s2 with cap := { s2.cap with cnt := 0, win := 0, fill := 0, post := 0, gap := none, sinceDrop := none, hole := false } }

/-- An ARM acts (R400, R409): nothing for an armed or fired program. -/
def State.capArm (s : State) : State :=
  if s.on CAP_STATUS_ARMED || s.on CAP_STATUS_FIRED then s
  else
    let s1 := (s.enterTp 0).put CAP_STATUS_ARMED 1
    let s2 : State := { s1 with cap := { s1.cap with fill := 0 } }
    s2.flag CAP_STATUS_FILLED (s2.get CAP_PRE == 0 || !s2.cap.capOn)

/-- A Rake stop is asked for, for a vector of the running playlist (R387). -/
def State.askRakeStop (s : State) (g : Nat) : State :=
  if s.seq.running.isSome && decide (s.seq.startGvc ≤ g) && s.fail.rakeStop.isNone then
    { s with fail := { s.fail with rakeStop := some (g + 110) } }
  else s

/-- An action of R398 on a vector: 1 FIRE, 2 STOP, 3 both (R399, R403). -/
def State.tpAct (s : State) (f : Flight) (act : Nat) : State :=
  let s1 := if bitAt act 0 then
      let t := (((s.put CAP_STATUS_FIRED 1).put CAP_STATUS_ARMED 0).put64 CAP_TRIG_GVC_LO CAP_TRIG_GVC_HI f.gvc).put64
        CAP_TRIG_PTR_LO CAP_TRIG_PTR_HI (s.get64 CAP_WPTR_LO CAP_WPTR_HI)
      let t1 := (t.inc CAP_NFIRE).event srcCapFire
      let hole := match t1.cap.sinceDrop with
        | some n => decide (n < t1.get CAP_PRE)
        | none => false
      { t1 with cap := { t1.cap with post := 0, hole := hole } }
    else s
  if bitAt act 1 then s1.askRakeStop f.gvc else s1

/-- The program's event in a vector (R398). -/
def State.tpEvent (s : State) (f : Flight) (tw : Nat) (mviol : Bool) : Bool :=
  let b := f.active
  let st := s.get CAP_STATUS_ST
  let kind := bankGet b (CAP_TP_EV_KIND st)
  let ws := bankGet b (CAP_TP_EV_WSET st)
  if kind = 1 then
    (if bankGet b (CAP_TP_EV_ALL st) = 1 then decide (tw &&& ws = ws) else decide (tw &&& ws ≠ 0))
  else if kind = 2 then f.samples.any fun x => x.res == 2
  else if kind = 3 then mviol
  else false

/-- One step of the armed program (R399). -/
def State.tpStep (s : State) (f : Flight) (tw : Nat) (mviol : Bool) : State :=
  let b := f.active
  let st := s.get CAP_STATUS_ST
  let ev := s.tpEvent f tw mviol
  let cnt := if ev then s.cap.cnt + 1 else s.cap.cnt
  let win := s.cap.win + 1
  let within := bankGet b (CAP_TP_GO_WITHIN st)
  let s1 : State := { s with cap := { s.cap with cnt := cnt, win := win } }
  if ev && cnt = bankGet b (CAP_TP_EV_COUNT st) + 1 then
    (s1.tpAct f (bankGet b (CAP_TP_GO_ACT st))).enterTp (bankGet b (CAP_TP_GO_GO st))
  else if within ≠ 0 && win = within then
    (s1.tpAct f (bankGet b (CAP_TP_GO_TOACT st))).enterTp (bankGet b (CAP_TP_GO_TO st))
  else s1

/-- What precedes the step at a vector's take point: the first vector of a playlist, a change of the class-7 bank, a host
RESET, and an ARM (R400, R401, R402, R409). -/
def State.takeBegin (s : State) (f : Flight) : State :=
  let s1 := if f.playFirst then
      let t : State := { (s.enterTp 0).put CAP_STATUS_ARMED 0 with
        cap := { s.cap with cnt := 0, win := 0, capOn := f.capOn, siteRecs := [], fcBase := none } }
      if t.on CAP_CTRL_AUTORST then t.capReset else t
    else s
  let s2 : State := if f.gen7 ≠ s1.cap.class7 then { s1 with cap := { s1.cap with class7 := f.gen7, cnt := 0, win := 0 } } else s1
  let s3 : State := if s2.cap.resetReq then { s2.capReset with cap := { s2.capReset.cap with resetReq := false } } else s2
  let s4 := if s3.cap.armReq || f.arm then s3.capArm else s3
  { s4 with cap := { s4.cap with armReq := false } }

/-! ## Capture (R404 to R409) -/

/-- Bytes written at ring offset k and on, wrapping at the ring's end (R404). -/
def State.ringWrite (s : State) (k : Nat) : List (BitVec 8) → State
  | [] => s
  | b :: bs =>
    let base := s.get64 CAP_RING_BASE_LO CAP_RING_BASE_HI
    ({ s with mem := Assoc.set 0 s.mem (base + k % 2 ^ s.get CAP_RING_SIZE) b } : State).ringWrite (k + 1) bs

/-- The per-tile values of one group (R407): code gives each channel's two bits. -/
def tileGroup (tiles : Nat) (code : Nat → Nat) : List (BitVec 8) :=
  ((List.range 8).filter (bitAt tiles)).flatMap fun t =>
    bytesOf 8 ((List.range 32).foldl (fun v j => v + code (32 * t + j) * 2 ^ (2 * j)) 0)

/-- Padding with zero bytes to n bytes. -/
def padTo (n : Nat) (bs : List (BitVec 8)) : List (BitVec 8) := bs ++ List.replicate (n - bs.length) 0

/-- The capture record of a vector (R407). -/
def State.captureRecord (s : State) (f : Flight) (units tw : Nat) (mviol fire : Bool) (seq : Nat) : List (BitVec 8) :=
  let tiles := s.get CAP_CFG_TILES
  let drv := s.on CAP_CFG_DRV
  let fs := s.failSites f
  let w2 := 2 ^ 30 + f.uipv * 2 ^ 28 + b2n drv * 2 ^ 27 + b2n (fs ≠ 0) * 2 ^ 26 + b2n mviol * 2 ^ 25
    + b2n (matchVec f) * 2 ^ 24 + mwMark f.word * 2 ^ 21 + b2n fire * 2 ^ 20 + f.slot % 2 ^ 18
  let w3 := tiles * 2 ^ 24 + tw * 2 ^ 16 + units
  let cmps := (uisOf f).flatMap fun u => tileGroup tiles fun c => (s.taken f c u).1
  let drvs := if drv then (uisOf f).flatMap fun u => tileGroup tiles fun c =>
      let d := (s.taken f c u).2
      if d = 0 then 2 else d - 1
    else []
  padTo (32 * units) (wordBytes [f.gvc % 2 ^ 32, f.gvc / 2 ^ 32, w2, w3, fs % 2 ^ 32, fs / 2 ^ 32, seq, 0] ++ cmps ++ drvs)

/-- One record of n bytes goes into the ring, if RMODE lets it (R406); then the counts. -/
def State.capPut (s : State) (bs : Nat → List (BitVec 8)) (n : Nat) : Bool × State :=
  let wp := s.get64 CAP_WPTR_LO CAP_WPTR_HI
  let top := 2 ^ s.get CAP_RING_SIZE
  let once := s.on CAP_CFG_RMODE
  if once && decide (top < wp + n) then (false, s.put CAP_STATUS_RINGFULL 1)
  else
    let s1 := s.inc CAP_NREC
    let s2 := (s1.ringWrite wp (bs (s1.get CAP_NREC))).put64 CAP_WPTR_LO CAP_WPTR_HI (wp + n)
    (true, if once && wp + n = top then s2.put CAP_STATUS_RINGFULL 1 else s2)

/-- The vector is one that CAPSEL captures (R172, R406). -/
def State.captures (s : State) (f : Flight) : Bool :=
  let sel := mwCapsel f.word
  s.cap.capOn && !s.on CAP_STATUS_FROZEN && !s.on CAP_STATUS_RINGFULL &&
    (if sel = 1 then true
    else if sel = 2 then (f.samples.any fun x => x.res == 2) ||
      allChannels.any fun c => (uisOf f).any fun u => s.actionAt f c u == 0x9
    else if sel = 3 then f.first
    else false)

/-- A record found the buffer full (R408): after a fire it lies in the span that the freeze keeps. -/
def State.capDrop (s : State) (g : Nat) : State :=
  let s1 := ((s.incSat CAP_NDROP).put CAP_STATUS_DROP 1).event srcCapDrop
  let gap := match s1.cap.gap with
    | some (n, first) => (min (n + 1) (2 ^ 32 - 1), first)
    | none => (1, g)
  { s1 with cap := { s1.cap with gap := some gap, sinceDrop := some 0, hole := s1.cap.hole || s1.on CAP_STATUS_FIRED } }

/-- With room in the buffer, the gap record goes before the next vector record (R408). -/
def State.writeGap (s : State) : State :=
  match s.cap.gap with
  | none => s
  | some (n, g) =>
    if s.cap.bufFull then s
    else
      let s1 : State := { s with cap := { s.cap with gap := none } }
      (s1.capPut (fun seq => wordBytes [g % 2 ^ 32, g / 2 ^ 32, 2 ^ 31, 1, n, 0, seq, 0]) 32).2

/-- The capture of a vector, and the fill and post counts (R406, R409). -/
def State.capture (s : State) (f : Flight) (tw : Nat) (mviol fire : Bool) : State :=
  let units := captureUnits (s.get CAP_CFG_TILES) (2 ^ f.uipv) (s.on CAP_CFG_DRV)
  let s0 := if s.captures f then s.writeGap else s
  let (done, s1) :=
    if !s0.captures f then (false, s0)
    else if s0.cap.bufFull then (false, s0.capDrop f.gvc)
    else s0.capPut (s0.captureRecord f units tw mviol fire) (32 * units)
  let s2 : State := if done then { s1 with cap := { s1.cap with
      sinceDrop := s1.cap.sinceDrop.map (· + 1)
      fill := s1.cap.fill + b2n (s1.on CAP_STATUS_ARMED)
      post := s1.cap.post + b2n (s1.on CAP_STATUS_FIRED && !fire) } } else s1
  let s3 := if s2.on CAP_STATUS_ARMED && s2.get CAP_PRE ≤ s2.cap.fill then s2.put CAP_STATUS_FILLED 1 else s2
  if s3.on CAP_STATUS_FIRED && !s3.on CAP_STATUS_FROZEN && s3.get CAP_POST ≤ s3.cap.post then s3.freezeRing else s3

/-! ## Kills (R410 to R412) -/

/-- The earliest period that a failing compare of the site in the vector is attributed to. -/
def State.failPeriod (s : State) (f : Flight) (n : Nat) : Nat :=
  (f.samples.filter fun x => x.res == 2 && s.siteOf x.ch == some n).foldl (fun m x => min m x.period) (f.gvc + 4)

/-- A vector's failing sites count, each in its verdict interval that holds the vector while no later one has opened, and a completed count
kills in the vector's own playlist (R410). -/
def State.countFails (s : State) (f : Flight) : State :=
  if matchVec f then s
  else ((List.range 64).filter fun n => bitAt (s.failSites f) n
      && s.cmt.intervals.all fun i => i.site != n || decide (i.opened ≤ f.gvc)).foldl (fun t n =>
    let t1 := t.incSat (CAP_SITE_NFV n)
    let whole := t1.get (CAP_SITE_NFV n) == t1.get CAP_KILL_CFG_KILLN + 1 && t.get (CAP_SITE_NFV n) != t1.get (CAP_SITE_NFV n)
    if t1.on CAP_KILL_CFG_EN && whole && decide (t1.seq.startGvc ≤ f.gvc) && t1.fail.killAt.all fun e => e.1 != n then
      { t1 with fail := { t1.fail with killAt := (n, t1.failPeriod f n + 107) :: t1.fail.killAt } }
    else t1) s

/-- The bit of a site among the kills that registers show. -/
def State.killShown (s : State) (n : Nat) : Bool := bitAt (s.get64 CAP_KILL_LO CAP_KILL_HI) n

/-- Kills shown in CAP_KILL_LO and CAP_KILL_HI (R412). -/
def State.showKills (s : State) (m : Nat) : State :=
  s.put64 CAP_KILL_LO CAP_KILL_HI (s.get64 CAP_KILL_LO CAP_KILL_HI ||| m)

/-- SITE_KILL: a kill that a count completed takes effect (R410, R412). -/
def execSiteKill (site : Fin 64) (s : State) : Out :=
  match s.fail.killAt.find? fun e => e.1 == site.val with
  | none => .next s
  | some e =>
    if s.killShown site.val then .next s
    else
      match s.reach e.2 with
      | none => .next s
      | some s1 => .next ((s1.showKills (2 ^ site.val)).endIntervals (2 ^ site.val) (min (s1.seq.issuedAt.getD 0) (e.2 - 1)))

/-- HOST_SITE_KILL: ones written to CAP_KILL (R411). A kill before the first vector is cleared by it; one at whose boundary the playlist
has ended kills nothing. -/
def effHostSiteKill (mask : BitVec 64) (s : State) : Out :=
  let new := maskOf 64 fun n => bitAt mask.toNat n && !s.killShown n
  if s.seq.running.isNone || !s.seq.started then .next (s.showKills new)
  else if s.endsHere then .next s
  else
    let u := s.boundary
    let alive := maskOf 64 fun n => bitAt new n && !s.failedBy n (u - 105)
    let open_ := s.cmt.intervals.foldl (fun m i => if i.last.isNone then m ||| 2 ^ i.site else m) 0
    let s1 := ((s.recordCause (alive &&& open_) 11).endIntervals new (s.seq.issuedAt.getD 0)).showKills new
    let ks := ((List.range 64).filter (bitAt new)).map fun n => (n, u)
    .next { s1 with fail := { s1.fail with killAt := ks ++ s1.fail.killAt.filter fun e => !bitAt new e.1 } }

/-- HOST_SITE_KILL: its effect, where the write reaches CAP_KILL (R46, R753, R770, R776). -/
def execHostSiteKill (mask : BitVec 64) (s : State) : Out :=
  s.reachReg .host 0x200074 (effHostSiteKill mask)

/-! ## The fail catalogue (R414 to R419) -/

/-- Records that the catalogue holds unconsumed. -/
def State.fcUsed (s : State) : Nat := s.get64 CAP_FC_WPTR_LO CAP_FC_WPTR_HI - s.cap.fcRptr

/-- CAP_FC_STATUS.FULL, live (R423). -/
def State.fcFull (s : State) : Bool := decide (2 ^ 26 ≤ s.fcUsed + 1)

/-- A record is written (R414). -/
def State.fcWrite (s : State) (v : Nat) : State :=
  let k := s.get64 CAP_FC_WPTR_LO CAP_FC_WPTR_HI
  (s.memWrite (0xA00000000 + 16 * (k % 2 ^ 26)) (bytesOf 16 v)).add64 CAP_FC_WPTR_LO CAP_FC_WPTR_HI 1

/-- A record is dropped into the gap (R418). -/
def State.fcDrop (s : State) (g : Nat) : State :=
  let s1 := (((s.incSat CAP_FC_NDROP).put CAP_FC_STATUS_DROP 1).put CAP_FC_STATUS_GAPPEND 1).event srcCapFcDrop
  let gap := match s1.cap.fcGap with
    | some (n, first) => (min (n + 1) (2 ^ 32 - 1), first)
    | none => (1, g)
  { s1 with cap := { s1.cap with fcGap := some gap } }

/-- There is no room for one more record besides the one kept free (R418). -/
def State.fcNoRoom (s : State) : Bool := s.cap.fcBufFull || s.cap.fcGap.isSome || decide (2 ^ 26 ≤ s.fcUsed + 1)

/-- The base record of R417. -/
def State.fcBaseRecord (s : State) (f : Flight) : Nat :=
  2 ^ 127 + s.get CMT_LAST_TAG * 2 ^ 56 + s.get CLK_DEVID * 2 ^ 40 + f.plNum * 2 ^ 24 + f.gvc / 2 ^ 40

/-- One fail record, with the base record that it needs; the site's limit and counts (R417 to R419). -/
def State.fcRecord (s : State) (f : Flight) (site ui : Nat) (all : Bool) (win pins : Nat) : State :=
  let lim := s.get CAP_FC_CFG_SITELIM
  let have_ := Assoc.get 0 s.cap.siteRecs site
  if lim ≠ 0 && lim ≤ have_ then s.put CAP_FC_STATUS_LIMIT 1
  else
    let need := s.cap.fcBase != some (f.gvc / 2 ^ 40)
    if need && s.fcNoRoom then (s.fcDrop f.gvc).fcDrop f.gvc
    else
      let s1 : State := if need then
          let t := s.fcWrite (s.fcBaseRecord f)
          { t with cap := { t.cap with fcBase := some (f.gvc / 2 ^ 40) } }
        else s
      if s1.fcNoRoom then s1.fcDrop f.gvc
      else
        let v := 2 ^ 126 + site * 2 ^ 120 + ui * 2 ^ 117 + b2n all * 2 ^ 116 + win * 2 ^ 112 + pins * 2 ^ 96
          + (f.gvc % 2 ^ 40) * 2 ^ 56 + f.fcZ % 2 ^ 8 * 2 ^ 48 + f.fcY % 2 ^ 24 * 2 ^ 24 + f.fcX % 2 ^ 24
        let s2 := s1.fcWrite v
        let s3 : State := { s2 with cap := { s2.cap with siteRecs := Assoc.set 0 s2.cap.siteRecs site (have_ + 1) } }
        s3.mapIntervals fun i =>
          if i.site = site && decide (i.opened ≤ f.gvc) && i.last.all (fun l => decide (f.gvc ≤ l)) then
            { i with fails := min (i.fails + 1) (2 ^ 32 - 1) }
          else i

/-- The channels of a site in ascending order: pin number by place (R254, R415). -/
def State.pinsOf (s : State) (n : Nat) : List Nat := allChannels.filter fun c => s.siteOf c == some n

/-- The fail records of a vector (R415, R416). -/
def State.fcVector (s : State) (f : Flight) : State :=
  if !s.on CAP_FC_CFG_EN || matchVec f then s
  else ((List.range 64).filter (bitAt (s.failSites f))).foldl (fun t n =>
    let pins := t.pinsOf n
    (List.range 16).foldl (fun t1 w =>
      let pinMask (p : Nat → Bool) := maskOf 16 fun i =>
        match pins[16 * w + i]? with
        | some c => p c
        | none => false
      if f.uipv ≠ 0 && t1.on CAP_FC_CFG_PERUI then
        (uisOf f).foldl (fun t2 u =>
          let m := pinMask fun c => failedIn f c u
          if m = 0 then t2 else t2.fcRecord f n u false w m) t1
      else
        let m := pinMask fun c => (uisOf f).any fun u => failedIn f c u
        if m = 0 then t1 else t1.fcRecord f n 0 (f.uipv ≠ 0) w m) t) s

/-! ## Commands -/

/-- The sites made INVALID when a read of a class-7 entry fails at a vector's take point (R100, R822): a trigger word's entries are read
for a vector with TRIGEN, those of the program's state where the program steps; none for an entry that is not read. -/
def State.trigSites (s : State) (f : Flight) (steps : Bool) (off : Nat) : Option Nat :=
  match regAt off with
  | none => none
  | some (d, i, _, _) =>
    if d.cls ≠ some 7 then none
    else if d.base = (CAP_TWCH_CARE 0).off then (if mwTrigen f.word then some (s.siteMask i) else none)
    else if d.base = (CAP_TW_CFG_SRC 0).off then (if mwTrigen f.word then some allSites else none)
    else if steps && i == s.get CAP_STATUS_ST then some allSites
    else none

/-- The reads of class 7 at a take point: marks of the bank that the vector uses, and failures found now (R822). -/
def State.failTrig (s : State) (f : Flight) (fresh : List Nat) : State :=
  let marks := if f.gen7 = s.cmt.gen7 then s.cmt.activeBad.map (·.2) else []
  s.failRead (s.trigSites f (s.on CAP_STATUS_ARMED && s.on CAP_STATUS_FILLED)) marks fresh

/-- RAKE_TAKE: the take point of the oldest vector (R386), or, for one that the gate's closure has cut short, what it had sampled before (R352;
DEDUCED, log entry 116). full and fcFull say that the on-die buffers are full now; bad: class-7 entries
of the active bank that fail their check code at this vector's reads (R822). -/
def execRakeTake (full fcFull : Bool) (bad : List (BitVec 28)) (s : State) : Out :=
  match s.land.flights with
  | [] => .next s
  | f :: rest =>
    match if f.cut then some s else s.reach (f.gvc + 99) with
    | none => .next s
    | some s0 =>
      let s01 := s0.takeBegin f
      let s1 := s01.failTrig f (offs bad)
      let mviol := s1.maskViolation f
      let s2 : State := if mviol then
          let t := (s1.inc CAP_NMVIOL).event srcCapMviol
          if bankGet f.active (CAP_MSCFG_MTEST (mwMaskset f.word)) = 2 then t.askRakeStop f.gvc else t
        else s1
      let tw := maskOf 8 (s2.twMatch f)
      let s3 := if s2.on CAP_STATUS_ARMED && s2.on CAP_STATUS_FILLED then s2.tpStep f tw mviol else s2
      let fire := !s2.on CAP_STATUS_FIRED && s3.on CAP_STATUS_FIRED
      let s4 : State := { s3 with cap := { s3.cap with bufFull := s3.cap.bufFull || full, fcBufFull := s3.cap.fcBufFull || fcFull } }
      let s5 := s4.capture f tw mviol fire
      let s6 := if (f.disarm || s5.cap.disarmReq) && s5.on CAP_STATUS_ARMED then s5.put CAP_STATUS_ARMED 0 else s5
      let s7 := (s6.countFails f).fcVector f
      let s8 : State := { s7 with cap := { s7.cap with disarmReq := false }, land := { s7.land with flights := rest }
                                  freeCtr := s7.freeCtr + 2048 }
      let ended := s8.seq.running.isNone || decide (f.gvc < s8.seq.startGvc)
      let last := match rest with
        | [] => true
        | n :: _ => n.playFirst
      .next (if ended && last then s8.freezeShort else s8)

/-- RAKE_STOP: a Rake decision stops the playlist at the boundary of cycle c + 110 (R387). -/
def execRakeStop (s : State) : Out :=
  match s.fail.rakeStop, s.seq.running with
  | some g, some _ =>
    match s.reachBoundary g with
    | none => .next s
    | some s1 => .next { s1.softStop 11 with fail := { (s1.softStop 11).fail with rakeStop := none } }
  | _, _ => .next s

/-- No take point is outstanding (R400). -/
def State.noTake (s : State) : Bool := s.seq.running.isNone && s.land.flights.isEmpty

/-- CAP_ARM: CAP_CTRL.ARM acts at the next take point (R400). -/
def effCapArm (s : State) : Out := .next { s with cap := { s.cap with armReq := true } }

/-- CAP_ARM: its effect, where the write reaches CAP_CTRL (R46, R753, R770, R776). -/
def execCapArm (s : State) : Out :=
  s.reachReg .host 0x200000 effCapArm

/-- CAP_DISARM: CAP_CTRL.DISARM acts after the next take point's step, or at once (R400). -/
def effCapDisarm (s : State) : Out :=
  if s.noTake then .next (s.put CAP_STATUS_ARMED 0) else .next { s with cap := { s.cap with disarmReq := true } }

/-- CAP_DISARM: its effect, where the write reaches CAP_CTRL (R46, R753, R770, R776). -/
def execCapDisarm (s : State) : Out :=
  s.reachReg .host 0x200000 effCapDisarm

/-- CAP_RESET: CAP_CTRL.RESET acts at the next take point, or at once (R409, R422). -/
def effCapReset (s : State) : Out :=
  if s.noTake then .next s.capReset
  else .next { s with cap := { s.cap with resetReq := true, armReq := false, disarmReq := false } }

/-- CAP_RESET: its effect, where the write reaches CAP_CTRL (R46, R753, R770, R776). -/
def execCapReset (s : State) : Out :=
  s.reachReg .host 0x200000 effCapReset

/-- CAPTURE_ROOM_RETURN: the buffer has room again, and the gap record is written (R408); while nothing may be captured it waits for the next
vector record. -/
def execCaptureRoomReturn (s : State) : Out :=
  let s1 : State := { s with cap := { s.cap with bufFull := false } }
  if s1.cap.capOn && !s1.on CAP_STATUS_FROZEN && !s1.on CAP_STATUS_RINGFULL then .next s1.writeGap else .next s1

/-- FC_ROOM_RETURN: with room for the gap record, a record with its base and the one kept free, the gap record is written (R418). -/
def execFcRoomReturn (s : State) : Out :=
  let s1 : State := { s with cap := { s.cap with fcBufFull := false } }
  match s1.cap.fcGap with
  | some (n, g) =>
    if s1.fcUsed + 4 ≤ 2 ^ 26 then
      let t := (s1.fcWrite (3 * 2 ^ 126 + (g % 2 ^ 40) * 2 ^ 56 + n)).put CAP_FC_STATUS_GAPPEND 0
      .next { t with cap := { t.cap with fcGap := none, fcBase := none } }
    else .next s1
  | none => .next s1

/-- FC_RPTR_WRITE: the HI write of CAP_FC_RPTR takes effect, or is ignored (R414); an ignored write leaves the pair reading the
count in effect. -/
def effFcRptrWrite (hi : BitVec 32) (s : State) : Out :=
  let v := s.get CAP_FC_RPTR_LO + 2 ^ 32 * hi.toNat
  if s.cap.fcRptr ≤ v && v ≤ s.get64 CAP_FC_WPTR_LO CAP_FC_WPTR_HI then
    .next { s.put64 CAP_FC_RPTR_LO CAP_FC_RPTR_HI v with cap := { s.cap with fcRptr := v } }
  else .next ((s.put64 CAP_FC_RPTR_LO CAP_FC_RPTR_HI s.cap.fcRptr).put CAP_FC_STATUS_RPTRERR 1)

/-- FC_RPTR_WRITE: its effect, where the write reaches CAP_FC_RPTR_HI (R46, R753, R770, R776). -/
def execFcRptrWrite (hi : BitVec 32) (s : State) : Out :=
  s.reachReg .host 0x200064 (effFcRptrWrite hi)

end Sys2Proof.Machine
end

