-- ==== Sys2Proof/Machine/Safe.lean ====
section
/-! DEFINITION. The safe state (R735 to R738), the ramp generator (R536, R737, R738), manual trips (R503) and the condition
sources of the collector (R723). -/

namespace Sys2Proof.Machine

/-! ## Loops and the ramp generator -/

/-- Loop n. -/
def State.loop (s : State) (n : Nat) : Loop := Assoc.get Loop.reset s.cle.loops n

/-- Loop n replaced. -/
def State.setLoop (s : State) (n : Nat) (l : Loop) : State :=
  { s with cle := { s.cle with loops := Assoc.set Loop.reset s.cle.loops n l } }

/-- HELD of tile t clears: a drift, with the GVC of the departure (R535). -/
def State.heldEnd (s : State) (t : Nat) : State :=
  if s.on (CLE_TH_STATUS_HELD t) then
    ((((s.put (CLE_TH_STATUS_HELD t) 0).put (CLE_TH_STATUS_DRIFT t) 1).put64 (CLE_TH_EXIT_LO t) (CLE_TH_EXIT_HI t)
      (s.stamp.getD (2 ^ 64 - 1))).raise srcCleThdrift 0 0)
  else s

/-- A thermal loop that is not in AUTO holds no tile (R535). -/
def State.heldCheck (s : State) (n : Nat) : State :=
  if decide (56 ≤ n) && s.get (CLE_LSTATUS_MODE n) != 2 then s.heldEnd (n - 56) else s

/-- Loop n enters HOLD with a cause of R541: 1 HOST, 2 SIGN, 3 LOST, 4 SAFE (R527, R533, R536). -/
def State.holdLoop (s : State) (n cause : Nat) : State :=
  (((s.put (CLE_LSTATUS_MODE n) 3).put (CLE_CTRL_MODE n) 3).put (CLE_LSTATUS_HCAUSE n) cause).heldCheck n

/-- The target of the ramp for a loop: OUTOFS saturated to the range of its loop-bus word (R526, R737). -/
def State.rampTarget (s : State) (n : Nat) : Nat :=
  (clampI 0 (2 ^ s.get (CLE_WRFMT_WIDTH n) - 1) (signedOf 32 (s.get (CLE_OUTOFS n)))).toNat

/-- The step of the ramp: 2^WIDTH / 4,096 codes, or 1 below 12 bits (R737). -/
def State.rampStep (s : State) (n : Nat) : Nat :=
  if s.get (CLE_WRFMT_WIDTH n) < 12 then 1 else 2 ^ (s.get (CLE_WRFMT_WIDTH n) - 12)

/-- A code moved toward the target by at most a step. -/
def toward (t step c : Nat) : Nat := if c < t then min t (c + step) else max t (c - min c step)

/-- Entry i of port p is a WRITE entry of its schedule (R521). -/
def State.isWrite (s : State) (p i : Nat) : Bool :=
  decide (i ≤ s.get (CLE_LB_CTRL_L p)) && s.get (CLE_LB_SCHED_KIND p i) == 2

/-- Every WRITE entry under the ramp generator has sent its target (R737). -/
def State.rampComplete (s : State) : Bool :=
  s.cle.ramp.all fun p => (List.range 32).all fun i => !s.isWrite p i || s.cle.sent.contains (32 * p + i)

/-- SAFE_N is held low (R28, R29, R41, R44, R536, R752): in a reset, from a power-loss trigger on, while a logic rail is low, in Frost,
while a thermal trip keeps every driver high-impedance (R788), in the safe state once the ramp is over, and otherwise while no loop-bus
port runs. -/
def State.safeLow (s : State) : Bool :=
  decide (s.pins.inReset ≠ 0) || s.pins.testEn || s.grd.powerLoss || s.pins.railLow || s.frozen || s.on GRD_STATUS_THERM ||
    if s.inSafe then s.on FCL_STATUS_RAMPDONE else (List.range 4).all fun p => !s.on (CLE_LB_STATUS_RUN p)

/-- The engine's clock stops: every heater goes to 0 mW, every loop in AUTO presets its integrator when it resumes, and no tile has been
INBAND without a break (R528, R535, R537). -/
def State.cleClockStop (s : State) : State :=
  let s1 := (List.range 8).foldl (fun t k => t.put (CLE_TH_PHTR k) 0) s
  let s2 := (List.range 64).foldl (fun t n => if t.get (CLE_LSTATUS_MODE n) = 2 then t.setLoop n { t.loop n with preset := true } else t) s1
  { s2.put CLE_STATUS_TSETTLED 0 with cle := { s2.cle with inband := [] } }

/-- The ramp is over: RAMPDONE, and SAFE_N is asserted (R28, R736). -/
def State.rampDone (s : State) : State :=
  let s1 : State := (s.put FCL_STATUS_RAMPING 0).put FCL_STATUS_RAMPDONE 1
  { s1 with cle := { s.cle with ramp := [] } }

/-- The code that a WRITE entry sends under the ramp generator, from its last write, a free value if there was none. -/
def State.rampCode (s : State) (p i : Nat) : Nat :=
  let n := s.get (CLE_LB_SCHED_LOOP p i)
  let last := match s.cle.codes.find? fun e => e.1 == 32 * p + i with
    | some e => e.2
    | none => Config.freeValue s.freeCtr % 2 ^ s.get (CLE_WRFMT_WIDTH n)
  toward (s.rampTarget n) (s.rampStep n) last

/-- The word of a WRITE entry for loop n with a sink code (R519, R520). -/
def State.lbWriteWord (s : State) (n code : Nat) : Nat :=
  (s.get (CLE_WRCMD n) + 2 ^ 32 * s.get (CLE_EXT_WRCMDX n)) |||
    ((code % 2 ^ s.get (CLE_WRFMT_WIDTH n)) * 2 ^ s.get (CLE_WRFMT_LSB n) % 2 ^ 40)

/-- One write of the ramp generator at a WRITE entry (R737, R738): a loop-bus transaction (R31, R518). -/
def State.rampEntry (s : State) (p i : Nat) : State :=
  let n := s.get (CLE_LB_SCHED_LOOP p i)
  let c := s.rampCode p i
  let k := 32 * p + i
  let s1 : State := { s with
    freeCtr := s.freeCtr + 1
    cle := { s.cle with codes := (k, c) :: s.cle.codes.filter fun e => e.1 != k
                        sent := if c = s.rampTarget n then insertNat k s.cle.sent else s.cle.sent } }
  (s1.put (CLE_CODE n) c).send (.spi p (s.get (CLE_LB_SCHED_CS p i)) (s.get (CLE_LB_SCHED_LEN p i))
    (s.lbWriteWord n c % 2 ^ s.get (CLE_LB_SCHED_LEN p i)))

/-- The frame of the ramp generator's clock, which neither Frost nor Dormant stops (R737). -/
def State.rampFrame (s : State) : Nat := s.cle.frame + s.cle.missed

/-- Port p has carried its transaction of frame f (R518). -/
def State.lbCarried (s : State) (p f : Nat) : Bool := decide (f < Assoc.get 0 s.cle.carried p)

/-- Port p carries its transaction of frame f. -/
def State.lbCarry (s : State) (p f : Nat) : State := { s with cle := { s.cle with carried := Assoc.set 0 s.cle.carried p (f + 1) } }

/-- RAMP_WRITE: a WRITE entry of a port or a loop under the ramp generator (R737, R738), in a frame F with F mod L = i that has not yet
carried a transaction (R518, R521). -/
def execRampWrite (port : Fin 4) (entry : Fin 32) (s : State) : Out :=
  let p := port.val
  let i := entry.val
  let n := s.get (CLE_LB_SCHED_LOOP p i)
  let f := s.rampFrame
  if !s.isWrite p i || f % (s.get (CLE_LB_CTRL_L p) + 1) ≠ i || s.lbCarried p f then .next s
  else if s.cle.ramp.contains p then
    let s1 := (s.lbCarry p f).rampEntry p i
    .next (if s1.rampComplete then s1.rampDone else s1)
  else if s.cle.rampLoops.contains n then .next ((s.lbCarry p f).rampEntry p i)
  else .next s

/-! ## Trips and the safe state -/

/-- A manual trip of channels (R503). -/
def State.manualTrip (s : State) (cs : List Nat) : State := s.trip 1001 cs

/-- Channels assigned to the sites of a mask (R254). -/
def State.channelsOf (s : State) (sites : Nat) : List Nat :=
  allChannels.filter fun c => match s.siteOf c with
    | some n => bitAt sites n
    | none => false

/-- Every loop with a loop-bus sink enters HOLD with cause SAFE, and running ports pass to the ramp generator (R536, R736). -/
def State.safeLoops (s : State) : State :=
  let ports := (List.range 4).filter fun p => s.on (CLE_LB_STATUS_RUN p)
  let s1 := (List.range 64).foldl (fun t n => if t.get (CLE_CFG_SINK n) = 1 then t.holdLoop n 4 else t) s
  let s2 := ports.foldl (fun t p => t.put (CLE_LB_STATUS_RUN p) 0) s1
  let s3 : State := { s2.put FCL_STATUS_RAMPING 1 with cle := { s2.cle with ramp := ports, sent := []
                                                                            missed := if s2.cle.rampLoops.isEmpty then 0 else s2.cle.missed } }
  if s3.rampComplete then s3.rampDone else s3

/-- The device enters the safe state with a cause of R735; later causes change nothing (R735, R736). -/
def State.enterSafe (s : State) (cause : Nat) : State :=
  if s.inSafe then s
  else
    let s0 : State := { s with pins := { s.pins with syncUntil := 0 } }
    let s1 := (((s0.put FCL_STATUS_SCAUSE cause).put FCL_STATUS_SAFE 1).put GRD_STATUS_SAFE 1).raise srcSafeEnter cause 0
    let s2 := (s1.tripEffects allChannels).safeLoops
    ((s2.recordAll 9).endPlaylist 0xE).loseCommit

/-- A wake starts (R775): from DORMANT at once, and from SINKING when DORMANT is reached (R781). In the safe state the device stays in
DORMANT (R781). -/
def State.startWake (s : State) : State :=
  if s.get PMG_STATUS_STATE = 6 then { s with pmg := { s.pmg with wakePending := true } }
  else if s.get PMG_STATUS_STATE ≠ 1 || s.inSafe then s
  else { s.enterState 4 with pmg := { s.pmg with wakeFrom := s.time.rc, wakePending := false } }

/-- PWR_SEQ_ERR: a rail order that breaks the sequence (R42). -/
def execPwrSeqErr (rail : Fin 320) (s : State) : Out := .next ((s.enterSafe 3).raise srcPwrSeqErr rail.val 0)

/-- RAIL_UNDERVOLT_DISCONNECT: a logic rail is below range, and the tiles hold every driver, load and PMU disconnected until every one is
back in range (R41); low: it falls, or the last one is back. -/
def execRailUndervoltDisconnect (low : Bool) (s : State) : Out :=
  if low then
    let s1 := allChannels.foldl (fun t c => (t.setChan c { t.chan c with drv := 0 }).pmuTrip c) s
    .next { s1 with pins := { s1.pins with railLow := true, railLeft := true } }
  else .next { s with pins := { s.pins with railLow := false } }

/-! ## Condition sources (R723) -/

/-- A condition source of the collector starts or stops to hold. -/
def State.setCond (s : State) (src : Nat) (on : Bool) : State :=
  { s with fcl := { s.fcl with conds := if on then insertNat src s.fcl.conds else s.fcl.conds.filter (· != src) } }

/-- Source src is active: FCL_ACTIVE (R723). -/
def State.srcActive (s : State) (src : Nat) : Bool :=
  if src = srcGrdRail then s.get GRD_RAIL_ACTIVE != 0
  else if src = srcGrdPolrev then (List.range 32).any fun k => s.on (GRD_STATUSM_POLREV (256 + k))
  else if src = srcHbcHot then s.on HBC_STATUS_HOT0 || s.on HBC_STATUS_HOT1
  else if src = srcRefLoss || src = srcTrellisDown || src = srcPcieDown then s.fcl.conds.contains src
  else match s.fcl.last.find? fun e => e.1 == src with
    | some e => decide (s.time.rc < e.2 + 25)
    | none => false

/-- The output lands stand at the column of R27 for a reset and the safe state. -/
def State.landsSafe (s : State) : Bool := decide (s.pins.inReset ≠ 0) || s.pins.testEn || s.inSafe

/-- EXT_EVT[k] is high (R733): a source with OUT bit k is active, or occurred within the last 4 ac; low in a reset and in the safe state
(R27). -/
def State.extEvt (s : State) (k : Nat) : Bool := !s.landsSafe &&
  (List.range 320).any fun src => bitAt (s.get (FCL_SRC_CFG_OUT src)) k &&
    (s.srcActive src || match s.fcl.last.find? fun e => e.1 == src with
      | some e => decide (s.time.rc < e.2 + 100)
      | none => false)

end Sys2Proof.Machine
end

