-- ==== Sys2Proof/Machine/Frost.lean ====
section
/-! DEFINITION. Frost (R749 to R760): requests, the drain of a soft Frost, the stop of the clocks, read-outs and the scan map. The
thaw stands with the vector clock. -/

namespace Sys2Proof.Machine

/-- A power-loss write runs (R46, R764). -/
def State.saving (s : State) : Bool := s.on EVR_STATUS_SAVING

/-- FRZ_STATUS.TRIG and TSRC. -/
def State.frzTrig (s : State) (trig src : Nat) : State := (s.put FRZ_STATUS_TRIG trig).put FRZ_STATUS_TSRC src

/-- A hard Frost is requested with a trigger of R766 and, for trigger 4, a source (R749, R750); in DORMANT, WAKING and SINKING
the request is discarded (R781). In soft Frost it counts only where a THAW is accepted in its own rc (R760). -/
def State.hardFrost (s : State) (trig src : Nat) : State :=
  if s.sleeping || s.saving || s.frz.hard.isSome then s
  else if s.frozen then
    if s.get FRZ_STATUS_STATE = 2 then { s with frz := { s.frz with late := some (trig, src, s.time.rc) } } else s
  else { s.frzTrig trig src with frz := { s.frz with hard := some (trig, src, s.clk.epoch, s.time.rc) } }

/-- The boundary that comes next. -/
def State.nextBoundary (s : State) : Nat := if s.seq.running.isSome then s.boundary else s.clk.gvc + 1

/-- A soft Frost is requested (R749, R751); in DORMANT, WAKING and SINKING the request is discarded (R781). -/
def State.softFrost (s : State) (trig src : Nat) : State :=
  if s.sleeping || s.frozen || s.saving || s.frz.hard.isSome || s.frz.soft.isSome then s
  else if s.on FRZ_CFG_GRP && s.insync then
    let s1 := ((s.frzTrig trig src).put SEQ_UFLAG (setBitN (s.get SEQ_UFLAG) (s.get FRZ_CFG_FLAG))).put FRZ_STATUS_GROUPWAIT 1
    { s1 with frz := { s1.frz with soft := some (trig, src, none), softAt := s.time.rc } }
  else { s.frzTrig trig src with frz := { s.frz with soft := some (trig, src, some s.nextBoundary), softAt := s.time.rc } }

/-- The functional clocks stop, in state 2 soft or 3 hard: running sites take cause HALT, and a commit that is held is lost (R82, R100, R750
to R752). -/
def State.freeze (s : State) (kind epoch : Nat) : State :=
  let s0 := s.recordAll 9
  let s1 := ((((s0.put FRZ_STATUS_STATE kind).put FRZ_STATUS_GROUPWAIT 0).put FRZ_STATUS_ARMED 0).put64 FRZ_GVC_LO FRZ_GVC_HI
    s.clk.gvc).put64 FRZ_EPOCH_LO FRZ_EPOCH_HI epoch
  let s2 : State := { s1.put FRZ_NREAD 0 with frz := { s1.frz with hard := none, soft := none, late := none, wall := s.time.wall } }
  let s3 := ((s2.tiuEndAll 4).manualTrip allChannels).loseCommit.closeGate
  let s4 := s3.cleClockStop
  ((s4.put HBC_STATUS_INSERVICE 0).put CLK_STATUS_LOCKED 0).raise srcFrzEnter (s.get FRZ_STATUS_TRIG) 0

/-- FROST_N_LOW (R52, R749). -/
def execFrostNLow (s : State) : Out := .next (s.hardFrost 1 0)

/-- FRZ_HARD. -/
def effFrzHard (s : State) : Out := .next (s.hardFrost 2 0)

/-- FRZ_HARD: its effect, where the write reaches FRZ_CTRL (R46, R753, R770, R776). -/
def execFrzHard (s : State) : Out :=
  s.reachReg .host 0x60000 effFrzHard

/-- FRZ_SOFT. -/
def effFrzSoft (s : State) : Out := .next (s.softFrost 3 0)

/-- FRZ_SOFT: its effect, where the write reaches FRZ_CTRL (R46, R753, R770, R776). -/
def execFrzSoft (s : State) : Out :=
  s.reachReg .host 0x60000 effFrzSoft

/-- JTAG_FRZ_HARD: the instruction at Update-IR (R757). -/
def execJtagFrzHard (s : State) : Out := .next (s.hardFrost 7 0)

/-- FRZ_ARMAT: the arm of a soft Frost at FRZ_AT, or READREF (R751). -/
def effFrzArmat (s : State) : Out :=
  if s.frozen || s.saving then .next s
  else if !s.gateOpen || s.get64 FRZ_AT_LO FRZ_AT_HI ≤ s.clk.gvc + 16 then .next (s.put FRZ_STATUS_READREF 1)
  else .next (s.put FRZ_STATUS_ARMED 1)

/-- FRZ_ARMAT: its effect, where the write reaches FRZ_CTRL (R46, R753, R770, R776). -/
def execFrzArmat (s : State) : Out :=
  s.reachReg .host 0x60000 effFrzArmat

/-- FRZ_DISARM (R766). -/
def effFrzDisarm (s : State) : Out := .next (s.put FRZ_STATUS_ARMED 0)

/-- FRZ_DISARM: its effect, where the write reaches FRZ_CTRL (R46, R753, R770, R776). -/
def execFrzDisarm (s : State) : Out :=
  s.reachReg .host 0x60000 effFrzDisarm

/-- The playlist stops at the freeze boundary, and the drain begins (R751). -/
def State.beginDrain (s : State) (b : Nat) : State :=
  let s1 := (s.recordAll 9).endPlaylist 0xE
  let s2 := (s1.put FRZ_STATUS_STATE 1).put FRZ_STATUS_GROUPWAIT 0
  { s2 with frz := { s2.frz with soft := some (s2.get FRZ_STATUS_TRIG, s2.get FRZ_STATUS_TSRC, some b) } }

/-- The clocks stop, as a hard Frost if one was asked for meanwhile (R749, R751). -/
def State.stopClocks (s : State) : State :=
  match s.frz.hard with
  | some (_, _, e, _) => s.freeze 3 e
  | none => s.freeze 2 s.clk.epoch

/-- The end of the drain: the clocks stop at the end of vector cycle b + 63, in which GVC b + 63 is in progress; with the gate closed since
its beginning, 16 rc after the request (R751). -/
def State.endDrain (s : State) (b : Nat) : Option State :=
  if s.gateOpen then (s.reach (b + 63)).map State.stopClocks else some (s.waitRc (s.frz.softAt + 16)).stopClocks

/-- FROST_SOFT_BOUNDARY: boundary b of a soft Frost: the playlist stops; when it is draining already, the clocks stop at b + 63. With
the gate closed they stop 16 rc after the request (R751). A GRP device freezes with its group whether or not it asked: b is the first
boundary of a cycle in which the group condition is true. -/
def execFrostSoftBoundary (s : State) : Out :=
  let at_ (t : State) (b : Nat) : Out :=
    match t.reach b with
    | none => .next s
    | some t1 => .next (t1.beginDrain b)
  let group := s.on FRZ_CFG_GRP && s.insync && s.groupCond (s.get FRZ_CFG_GC) s.nextBoundary
  if s.frozen || s.saving then .next s
  else if s.get FRZ_STATUS_STATE = 1 then
    match s.frz.soft with
    | some (_, _, some b) => match s.endDrain b with
      | some t => .next t
      | none => .next s
    | _ => .next s
  else
    match s.frz.soft with
    | some (_, _, some b) => if s.gateOpen then at_ s b else .next (s.waitRc (s.frz.softAt + 16)).stopClocks
    | some (_, _, none) =>
      if !s.gateOpen then .next (s.waitRc (s.frz.softAt + 16)).stopClocks else if group then at_ s s.nextBoundary else .next s
    | none =>
      if s.on FRZ_STATUS_ARMED && s.gateOpen && s.clk.gvc ≤ s.get64 FRZ_AT_LO FRZ_AT_HI then
        at_ ((s.frzTrig 5 0).put FRZ_STATUS_ARMED 0) (s.get64 FRZ_AT_LO FRZ_AT_HI)
      else if group && s.gateOpen then at_ (s.frzTrig 6 0) s.nextBoundary
      else .next (if s.clk.gvc ≤ s.get64 FRZ_AT_LO FRZ_AT_HI then s else s.put FRZ_STATUS_ARMED 0)

/-- The GVC of the vector cycle in progress in rc t of the device's own count, from the phase of the present one. -/
def State.cycleAt (s : State) (t : Nat) : Nat :=
  let n : Int := (((t : Int) - s.time.rc) * s.clk.vset.num - s.clk.phase) / s.clk.vset.den
  s.clk.gvc + n.toNat

/-- The instant 12 rc after a hard request made in rc r, if it has come or can come now: a playlist has its vector of that cycle issued
first (R750). -/
def State.hardStop (s : State) (r : Nat) : Option State :=
  if !s.gateOpen then some (s.waitRc (r + 12))
  else
    let g := s.cycleAt (r + 12)
    if s.seq.running.isSome && decide (s.seq.next ≤ g) then none else s.reach g

/-- FROST_CLOCK_STOP: 12 rc after a hard request, or at the end of a drain, which is the earlier, the functional clocks stop (R749 to
R752). -/
def execFrostClockStop (s : State) : Out :=
  if s.frozen || s.saving then .next s
  else
    match s.frz.hard with
    | some (_, _, e, r) =>
      let b := match s.frz.soft with
        | some (_, _, some b) => b
        | _ => 0
      if s.get FRZ_STATUS_STATE = 1 && s.gateOpen && decide (b + 63 < s.cycleAt (r + 12)) then execFrostSoftBoundary s
      else
        match s.hardStop r with
        | some t => .next (((t.recordAll 9).endPlaylist 0xE).freeze 3 e)
        | none => .next s
    | none => if s.get FRZ_STATUS_STATE = 1 then execFrostSoftBoundary s else .next s

/-! ## Read-out -/

/-- The 64-byte header of an image (R756). -/
def State.frzHeader (s : State) : List (BitVec 8) :=
  let w := s.frz.wall
  wordBytes [0x5A524646, 1, (s.get FRZ_STATUS_STATE - 1) * 2 ^ 28 + s.get FRZ_STATUS_TRIG * 2 ^ 24 + s.get CLK_DEVID,
    if s.get FRZ_STATUS_TRIG = 4 then s.get FRZ_STATUS_TSRC else 0,
    s.get FRZ_GVC_LO, s.get FRZ_GVC_HI, s.get FRZ_EPOCH_LO, s.get FRZ_EPOCH_HI, wallNs w, wallSec w % 2 ^ 32,
    wallFrac w * 2 ^ 16 + wallSec w / 2 ^ 32, 64, 815104, s.get FRZ_NREAD, 0, 0]

/-- FRZ_READ: a DMA read-out of the scan image begins, or is refused (R755). -/
def effFrzRead (s : State) : Out :=
  let dst := s.get64 FRZ_DST_LO FRZ_DST_HI
  if !s.frozen || s.on FRZ_STATUS_READING || dst = 0 || dst % 4096 ≠ 0 || s.on FRZ_CFG_PATH || !s.dmaOn then
    .next (s.put FRZ_STATUS_READREF 1)
  else
    let s1 : State := { s.put FRZ_STATUS_READING 1 with frz := { s.frz with readAt := s.time.rc } }
    .next (s1.toHost (.write dst s.frzHeader))

/-- FRZ_READ: its effect, where the write reaches FRZ_CTRL (R46, R753, R770, R776). -/
def execFrzRead (s : State) : Out :=
  s.reachReg .host 0x60000 effFrzRead

/-- FRZ_PROG: the steps of the read-out that runs, five in two rc as the link takes the data, or those of the last one (R754, R755). -/
def State.frzProg (s : State) : Nat :=
  if s.on FRZ_STATUS_READING then min 815104 ((s.time.rc - s.frz.readAt) * 5 / 2) else s.get FRZ_PROG

/-- A read-out is abandoned (R46, R760). -/
def State.abandonRead (s : State) : State :=
  if s.on FRZ_STATUS_READING then
    (((s.put FRZ_PROG s.frzProg).put FRZ_STATUS_READING 0).put FRZ_STATUS_ABANDONED 1).raise srcFrzDone 1 0
  else s

/-- The trailer of an image (R756): its CRC is over the header and the scan data, and so a free value. -/
def frzTrailer (crc : Nat) : List (BitVec 8) := wordBytes [crc % 2 ^ 32, 0x5A524646, 0, 0, 0, 0, 0, 0]

/-- FROST_READ_DONE: the read-out completes with the data words and the trailer, not before its 815,104 steps of 4 ns (R755, R756); while the
device makes no transactions it does not complete (R704). A power-loss trigger or a reset abandons it (R46, R760). -/
def execFrostReadDone (s : State) : Out :=
  if !s.on FRZ_STATUS_READING || !s.dmaOn then .next s
  else
    let t := s.waitRc (s.frz.readAt + 326042)
    let dst := t.get64 FRZ_DST_LO FRZ_DST_HI
    let (crc, s1) := t.free
    let s2 := (s1.toHost (.scan (dst + 64) 6520832)).toHost (.write (dst + 6520896) (frzTrailer crc))
    .next ((((s2.put FRZ_STATUS_READING 0).put FRZ_PROG 815104).inc FRZ_NREAD).raise srcFrzDone 0 0)

/-- JTAG_FRZ_READ: the instrument shifts out the header, the chains and the trailer; zeros while a DMA read-out runs (R757). What it shifts
out of a device that is not frozen is not stated: a free value. -/
def execJtagFrzRead (s : State) : Out :=
  let (v, s1) := s.free
  if s.on FRZ_STATUS_READING then .next (s.toHost (.jtagZeros 6520928))
  else if !s.frozen then .next (s1.toHost (.jtag (bytesOf 64 v)))
  else .next (((s1.toHost (.jtag s.frzHeader)).toHost (.jtagScan 6520832)).toHost (.jtag (frzTrailer v)))

/-- FRZ_MAPIDX_WRITE: a record of the scan map is loaded (R758). -/
def effFrzMapidxWrite (index : BitVec 32) (s : State) : Out :=
  let (off, chain, bit) := Config.scanMap index.toNat
  .next ((((s.put FRZ_MAPIDX index.toNat).put FRZ_MAPDATA0 off).put FRZ_MAPDATA1_CHAIN chain).put FRZ_MAPDATA1_BIT bit)

/-- FRZ_MAPIDX_WRITE: its effect, where the write reaches FRZ_MAPIDX (R46, R753, R770, R776). -/
def execFrzMapidxWrite (index : BitVec 32) (s : State) : Out :=
  s.reachReg .host 0x6003C (effFrzMapidxWrite index)

end Sys2Proof.Machine
end

