-- ==== Sys2Proof/Machine/Collector.lean ====
section
/-! DEFINITION. The fault collector (R724 to R734, R742), the delivery of events to cores (R583, R584), the Almanac (R740 to R748) and
the power-loss trigger (R43 to R47). -/

namespace Sys2Proof.Machine

/-! ## Delivery (R583) -/

/-- Core c: a Scion, or 16 for the active Rootstock pair. -/
def State.core (s : State) (c : Nat) : Core := Assoc.get Core.reset s.cores c

/-- Core c replaced. -/
def State.setCore (s : State) (c : Nat) (v : Core) : State := { s with cores := Assoc.set Core.reset s.cores c v }

/-- An input with a priority added to a list of inputs, at the higher of two priorities. -/
def addInput (l : List (Nat × Nat)) (i prio : Nat) : List (Nat × Nat) :=
  match l.find? fun e => e.1 == i with
  | some e => (i, max e.2 prio) :: l.filter fun x => x.1 != i
  | none => (i, prio) :: l

/-- Input i is raised to core c; its pending bit follows 16 fc later (R584). A DEAD Scion takes none (R593). -/
def State.deliverTo (s : State) (c i prio : Nat) : State :=
  let k := s.core c
  if c < 16 && s.get (SCN_STATUS_STATE c) = 6 then s else
  s.setCore c { k with arriving := addInput k.arriving i prio }

/-! ## The Almanac -/

/-- The eight words of an entry with count k (R744). -/
def evrWords (src cls : Nat) (promoted first coarse : Bool) (supp arg value wall k : Nat) (gvc : Option Nat) : List Nat :=
  let g := gvc.getD (2 ^ 64 - 1)
  let ws := [wallNs wall, wallSec wall % 2 ^ 32, wallFrac wall * 2 ^ 16 + wallSec wall / 2 ^ 32, g % 2 ^ 32, g / 2 ^ 32,
    src * 2 ^ 23 + cls * 2 ^ 21 + b2n promoted * 2 ^ 20 + b2n first * 2 ^ 19 + b2n gvc.isNone * 2 ^ 18 + b2n coarse * 2 ^ 17 + supp,
    value * 2 ^ 16 + arg]
  let lo := bytesOf 2 (k % 2 ^ 16)
  ws ++ [crc16 (wordBytes ws ++ lo) * 2 ^ 16 + k % 2 ^ 16]

/-- An entry is appended (R740). -/
def State.evrAppend (s : State) (words : List Nat) : State :=
  let k := s.get EVR_WPTR
  { s.inc EVR_WPTR with evr := { s.evr with ring := Assoc.set [] s.evr.ring (k % 16384) words } }

/-- The entry of an occurrence, or its suppression within 4,000 ac of the source's last entry (R741); PWR_LOSS is written in any case
(R747). -/
def State.evrEntry (s : State) (r : Raised) (cls : Nat) (promoted first : Bool) : State :=
  let held := s.evr.hold.find? fun e => e.1 == r.src
  let supp := (held.map (·.2.2)).getD 0
  let quiet := match held with
    | some e => decide (s.time.rc < e.2.1 + 100000)
    | none => false
  let rest := s.evr.hold.filter fun e => e.1 != r.src
  if quiet && !first && cls != 3 && r.src != srcPwrLoss then
    { s with evr := { s.evr with hold := (r.src, (held.map (·.2.1)).getD 0, min (supp + 1) 0xFFFF) :: rest } }
  else
    let s1 := s.evrAppend (evrWords r.src cls promoted first r.coarse supp r.arg r.value r.wall (s.get EVR_WPTR) r.gvc)
    { s1 with evr := { s1.evr with hold := (r.src, s.time.rc, 0) :: rest } }

/-! ## The collector -/

/-- The occurrences of a source by the millisecond of FCL_MS, newest first, with one more in millisecond now; those that no window of 8 slots
can still hold are gone (R726, R727). -/
def occursWith (old : List (Nat × Nat)) (now : Nat) : List (Nat × Nat) :=
  let kept := old.filter fun e => decide (now < e.1 + 8 * 4096)
  match kept with
  | e :: es => if e.1 = now then (now, e.2 + 1) :: es else (now, 1) :: kept
  | [] => [(now, 1)]

/-- The occurrences in the slot of millisecond now and the 7 slots before it (R727). -/
def windowCount (l : List (Nat × Nat)) (pslot now : Nat) : Nat :=
  ((l.filter fun e => decide (now / pslot < e.1 / pslot + 8)).map (·.2)).sum

/-- The source is promoted (R727). -/
def State.promoted (s : State) (src : Nat) : Bool := s.bitOf FCL_PROMO src

/-- An occurrence counts toward the promotion of its source (R727). -/
def State.countPromotion (s : State) (src cls : Nat) : State :=
  let pslot := s.get (FCL_SRC_CFG_PSLOT src)
  let pn := s.get (FCL_SRC_CFG_PN src)
  let l := occursWith (Assoc.get [] s.fcl.slots src) s.nowMs
  let s1 : State := { s with fcl := { s.fcl with slots := Assoc.set [] s.fcl.slots src l } }
  if pn ≠ 0 && pslot ≠ 0 && cls ≤ 1 && !s.promoted src && pn ≤ windowCount l pslot s.nowMs then
    (s1.setBitOf FCL_PROMO src true).raise srcFclPromote src 0
  else s1

/-- The first-source latch meets an occurrence acted on with a class (R729, R730): whether it latched it. -/
def State.firstLatch (s : State) (r : Raised) (cls : Nat) (promoted : Bool) : Bool × State :=
  if !s.on FCL_FIRST_LATCHED then
    if cls < 2 then (false, s)
    else
      let g := r.gvc.getD (2 ^ 64 - 1)
      let s1 := ((((s.put FCL_FIRST_LATCHED 1).put FCL_FIRST_SOURCE r.src).put FCL_FIRST_CLASS cls).flag FCL_FIRST_PROMOTED promoted).put
        FCL_FIRST_CNT 1
      let s2 := ((s1.put FCL_FIRST_NS (wallNs r.wall)).put FCL_FIRST_SEC_LO (wallSec r.wall)).put FCL_FIRST_SEC_HI (wallSec r.wall / 2 ^ 32)
      (true, ((s2.put64 FCL_FIRST_GVC_LO FCL_FIRST_GVC_HI g).put FCL_FIRST_ARG_ARG r.arg).put FCL_FIRST_ARG_VALUE r.value)
  else if s.get FCL_FIRST_SOURCE = r.src then (false, s.incSat FCL_FIRST_CNT)
  else if cls < 2 then (false, s)
  else
    let s1 := s.incSat FCL_NOVF
    (false, if s1.on FCL_FIRST_OVF then s1 else (s1.put FCL_FIRST_OVF 1).raise srcFclOvf r.src 0)

/-- The collector decides one occurrence (R724, R725, R727, R729 to R731, R741, R747, R749); log says whether the Almanac may record it. -/
def State.decideOne (s : State) (r : Raised) (log : Bool) : State :=
  let cls := if r.src = 0 then 3 else s.get (FCL_SRC_CFG_CLASS r.src)
  let s1 := (s.incSat (FCL_SRC_CNT r.src)).countPromotion r.src cls
  let byPromo := decide (cls ≤ 1) && s1.promoted r.src
  let act := if byPromo then 2 else cls
  let (first, s2) := s1.firstLatch r act byPromo
  let s3 := if log && (1 ≤ act || s2.on (FCL_SRC_CFG_ALM r.src) || r.src = srcPwrLoss) then s2.evrEntry r act byPromo first else s2
  let s4 := if s3.on (SCN_EVROUTE_EN r.src) then s3.deliverTo (s3.get (SCN_EVROUTE_CORE r.src)) r.src (s3.get (SCN_EVROUTE_PRIO r.src)) else s3
  let s5 := if 2 ≤ act then s4.deliverTo 16 r.src 15 else s4
  let frz := s5.get (FCL_SRC_CFG_FRZ r.src)
  let s6 := if frz = 1 then s5.softFrost 4 r.src else if frz = 2 then s5.hardFrost 4 r.src else s5
  let s7 := if act = 3 then s6.enterSafe 1 else s6
  if 2 ≤ act && s7.on PMG_CFG_SEVWAKE then s7.startWake else s7

/-- The occurrence that is decided next: of those in the ac of the oldest, the one with the lowest source number (R728). -/
def nextRaised (rs : List Raised) : Option Nat :=
  match rs with
  | [] => none
  | o :: _ =>
    let same := rs.filter fun r => r.rc / 25 == o.rc / 25
    let low := same.foldl (fun m r => min m r.src) o.src
    indexOf? (fun r : Raised => r.rc / 25 == o.rc / 25 && r.src == low) rs

/-- EVENT_OCCURRENCE: the collector decides the next occurrence (R724, R728). -/
def execEventOccurrence (s : State) : Out :=
  match nextRaised s.raised with
  | none => .next s
  | some k =>
    match s.raised[k]? with
    | none => .next s
    | some r => .next (({ s with raised := s.raised.eraseIdx k } : State).decideOne r true)

/-- An occurrence is raised and decided at once, where its own rule fixes what happens in its ac. -/
def State.raiseNow (s : State) (src arg : Nat) (log : Bool) : State :=
  let s1 := s.raise src arg 0
  match s1.raised.getLast? with
  | some r => ({ s1 with raised := s1.raised.dropLast } : State).decideOne r log
  | none => s1

/-- FCL_SELF: a mismatch between the collector's two copies (R734). The entry is written only if the Almanac's copies agree. -/
def execFclSelf (agree : Bool) (s : State) : Out := .next (((s.put FCL_STATUS_SELF 1).enterSafe 2).raiseNow srcFclSelf 0 agree)

/-- FCL_CLR: a clear of the first-source latch (R732). -/
def effFclClr (req : Req) (s : State) : Out :=
  let src := s.get FCL_FIRST_SOURCE
  let fatal := s.get FCL_FIRST_CLASS == 3
  if s.on FCL_FIRST_LATCHED && (s.srcActive src || (fatal && (req != Req.rootstock || s.inSafe))) then
    .next (s.put FCL_STATUS_CLRREF 1)
  else
    .next (((((s.put FCL_FIRST_LATCHED 0).put FCL_FIRST_OVF 0).put FCL_FIRST_PROMOTED 0).put FCL_FIRST_CLASS 0).put FCL_FIRST_SOURCE 0
      |>.put FCL_FIRST_CNT 0)

/-- FCL_CLR: its effect, where the write reaches FCL_CLR (R46, R753, R770, R776). -/
def execFclClr (req : Req) (s : State) : Out :=
  s.reachReg req 0x4002C (effFclClr req)

/-- FCL_PROMO_CLEAR: ones written to FCL_PROMOr end promotions (R727). -/
def effFclPromoClear (word : Fin 10) (mask : BitVec 32) (s : State) : Out :=
  .next (s.put (FCL_PROMO word.val) (maskOf 32 fun b => bitAt (s.get (FCL_PROMO word.val)) b && !bitAt mask.toNat b))

/-- FCL_PROMO_CLEAR: its effect, where the write reaches FCL_PROMO (R46, R753, R770, R776). -/
def execFclPromoClear (word : Fin 10) (mask : BitVec 32) (s : State) : Out :=
  s.reachReg .host 0x40080 (effFclPromoClear word mask)

/-- FCL_SWEVT: a software source, or SWREF (R742, R761). -/
def effFclSwevt (data : BitVec 32) (s : State) : Out :=
  let n := bits data.toNat 26 6
  if 39 < n then .next (s.put FCL_STATUS_SWREF 1) else .next (s.raise (280 + n) (data.toNat % 2 ^ 16) 0)

/-- FCL_SWEVT: its effect, where the write reaches FCL_SWEVT (R46, R753, R770, R776). -/
def execFclSwevt (data : BitVec 32) (s : State) : Out :=
  s.reachReg .host 0x40030 (effFclSwevt data)

/-- EVR_RSCW_SRC: Rootstock writes one entry at once (R742). -/
def effEvrRscwSrc (req : Req) (data : BitVec 32) (s : State) : Out :=
  if req = Req.rootstock then
    let s1 := (s.put EVR_RSCW_SRC_CLASS (bits data.toNat 9 2)).put EVR_RSCW_SRC_SOURCE (data.toNat % 2 ^ 9)
    .next (s1.evrAppend (evrWords (s1.get EVR_RSCW_SRC_SOURCE) (s1.get EVR_RSCW_SRC_CLASS) false false (s.on WTM_STATUS_COARSE) 0
      (s.get EVR_RSCW_ARG_ARG) (s.get EVR_RSCW_ARG_VALUE) s.time.wall (s.get EVR_WPTR) s.stamp))
  else .next s

/-- EVR_RSCW_SRC: its effect, where the write reaches EVR_RSCW_SRC (R46, R753, R770, R776). -/
def execEvrRscwSrc (req : Req) (data : BitVec 32) (s : State) : Out :=
  s.reachReg req 0x50014 (effEvrRscwSrc req data)

/-- EVR_RIDX_WRITE: entry k into the requester's read registers (R745). -/
def effEvrRidxWrite (req : Req) (index : BitVec 32) (s : State) : Out :=
  let k := index.toNat
  let w := s.get EVR_WPTR
  let gone := decide (k + 16384 < w)
  let none_ := decide (w ≤ k)
  let words := if gone || none_ then [] else Assoc.get [] s.evr.ring (k % 16384)
  let s1 := ((s.put (EVR_RIDX.per req) k).flag (EVR_RSTAT_GONE.per req) gone).flag (EVR_RSTAT_NONE.per req) none_
  .next ((List.range 8).foldl (fun t i => t.put ((EVR_RDATA i).per req) (words.getD i 0)) s1)

/-- EVR_RIDX_WRITE: its effect, where the write reaches EVR_RIDX (R46, R753, R770, R776). -/
def execEvrRidxWrite (req : Req) (index : BitVec 32) (s : State) : Out :=
  s.reachReg req 0x50008 (effEvrRidxWrite req index)

/-- A saved set of the Almanac. -/
def State.savedSet (s : State) (n : Nat) : SavedSet := if n = 0 then s.evr.set0 else s.evr.set1

/-- A saved set replaced, with the registers that show its descriptor (R746, R764). -/
def State.putSet (s : State) (n : Nat) (v : SavedSet) : State :=
  let s1 : State := if n = 0 then { s with evr := { s.evr with set0 := v } } else { s with evr := { s.evr with set1 := v } }
  ((s1.flag (EVR_SET_INFO_VALID n) v.valid).flag (EVR_SET_INFO_NEWER n) v.newer).put (EVR_SET_WPTR n) v.wptr

/-- EVR_SIDX_WRITE: an entry of a saved set into the requester's read registers (R748). -/
def effEvrSidxWrite (req : Req) (set : Fin 2) (entry : Fin 4096) (s : State) : Out :=
  let words := (s.savedSet set.val).entries.getD entry.val []
  let s1 := (s.put (EVR_SIDX_SET.per req) set.val).put (EVR_SIDX_ENTRY.per req) entry.val
  .next ((List.range 8).foldl (fun t i => t.put ((EVR_SDATA i).per req) (words.getD i 0)) s1)

/-- EVR_SIDX_WRITE: its effect, where the write reaches EVR_SIDX (R46, R753, R770, R776). -/
def execEvrSidxWrite (req : Req) (set : Fin 2) (entry : Fin 4096) (s : State) : Out :=
  s.reachReg req 0x50040 (effEvrSidxWrite req set entry)

/-- EVR_SET_DISCARD: Rootstock clears a saved set's VALID (R748). -/
def effEvrSetDiscard (req : Req) (set : Fin 2) (s : State) : Out :=
  if req = Req.rootstock then .next (s.putSet set.val { s.savedSet set.val with valid := false }) else .next s

/-- EVR_SET_DISCARD: its effect, where the write reaches EVR_SET_INFO (R46, R753, R770, R776). -/
def execEvrSetDiscard (req : Req) (set : Fin 2) (s : State) : Out :=
  s.reachReg req 0x50080 (effEvrSetDiscard req set)

/-! ## Power loss (R43 to R47, R747) -/

/-- The power-loss trigger, with ARG 0 for PFAIL_N or the rail monitor (R43, R44, R46, R722, R747). -/
def State.powerLoss (s : State) (arg : Nat) : State :=
  if s.saving then s
  else
    let s1 : State := { s with grd := { s.grd with powerLoss := true }
                               frz := { s.frz with afterLoss := true }
                               pins := { s.pins with railLeft := s.pins.railLeft || arg != 0 } }
    let s2 := ((s1.tripEffects allChannels).abandonRead).raiseNow srcPwrLoss arg true
    { s2.put EVR_STATUS_SAVING 1 with evr := { s2.evr with lossAt := some (s2.get EVR_WPTR) } }

/-- A power-loss trigger names PFAIL_N as 0, or the internal-rail monitor of a rail other than VDD_AO, which is monitor 294 (R43, R489). -/
def lossSource (rail : Nat) : Bool := rail == 0 || (decide (288 ≤ rail) && decide (rail < 312) && rail != 294)

/-- POWER_LOSS_TRIGGER: PFAIL_N falls (rail 0), or a rail monitor sees its rail leave its range (R43). -/
def execPowerLossTrigger (rail : Fin 320) (s : State) : Out := .next (if lossSource rail.val then s.powerLoss rail.val else s)

/-- The 4,096 entries that end before count w; entries that were never written are zero (R747). -/
def State.lossEntries (s : State) (w : Nat) : List (List Nat) :=
  let first := w - 4096
  (List.range 4096).map fun i =>
    if first + i < w then Assoc.get [] s.evr.ring ((first + i) % 16384) else List.replicate 8 0

end Sys2Proof.Machine
end

