-- ==== Sys2Proof/Machine/Guard.lean ====
section
/-! DEFINITION. The guard monitors (R485 to R500), their trips and release (R501 to R507), and the driver current limit (R505). -/

namespace Sys2Proof.Machine

/-- Monitor m. -/
def State.monitor (s : State) (m : Nat) : Monitor := Assoc.get Monitor.settled s.grd.monitors m

/-- Monitor m replaced. -/
def State.setMonitor (s : State) (m : Nat) (v : Monitor) : State :=
  { s with grd := { s.grd with monitors := Assoc.set Monitor.settled s.grd.monitors m v } }

/-- The mode that a monitor is configured to run in now: P in Dormant, and M in place of F while domain 61 is off (R491, R492). -/
def State.grdTarget (s : State) (m : Nat) : Nat :=
  let c := s.get (GRD_CFG_MODE m)
  if s.get PMG_STATUS_STATE = 1 then 3 else if c = 0 && !s.domOn 61 then 1 else c

/-- The mode in force (R493). -/
def State.grdMode (s : State) (m : Nat) : Nat :=
  match (s.monitor m).mode with
  | some k => if s.get PMG_STATUS_STATE = 1 then 3 else k
  | none => s.grdTarget m

/-- GRD_m_STATUS.DEGRADED (R491). -/
def State.grdDegraded (s : State) (m : Nat) : Bool := s.get (GRD_CFG_MODE m) = 0 && !s.domOn 61

/-- A monitor's bit of the argument of its events: its channel, 0 for the others (log entry 17). -/
def grdArg (m : Nat) : Nat := if m < 256 then m else 0

/-- The site mask of DUT-supply monitor 256 + k. -/
def State.dsSites (s : State) (k : Nat) : Nat := s.get (GRD_DS_SITES_LO k) + 2 ^ 32 * s.get (GRD_DS_SITES_HI k)

/-- The channels that a decision of monitor m trips (R503). -/
def State.grdChannels (s : State) (m : Nat) : List Nat :=
  if m < 256 then
    if s.get (GRD_CFG_ACT m) = 1 then insertNat m (s.channelsOf (s.siteMask m)) else [m]
  else if m < 288 then s.channelsOf (s.dsSites (m - 256))
  else []

/-- The trip action of a tripping decision (R503, R504, R738). -/
def State.grdTrip (s : State) (m : Nat) : State :=
  let held := if m < 288 then (s.grdChannels m).all fun c => (s.holders c).contains m else s.allTripped
  let s0 := if held && s.on (GRD_STATUSM_LATCHED m) then s else s.inc GRD_NTRIP
  let s1 := s0.put (GRD_STATUSM_LATCHED m) 1
  if m < 256 then s1.trip m (s1.grdChannels m)
  else if m < 288 then
    let k := m - 256
    let s2 := s1.trip m (s1.grdChannels m)
    if s.get (GRD_CFG_ACT m) = 1 then
      let s3 := s2.holdLoop k 4
      { s3 with cle := { s3.cle with rampLoops := insertNat k s3.cle.rampLoops
                                     missed := if s3.cle.rampLoops.isEmpty && s3.cle.ramp.isEmpty then 0 else s3.cle.missed } }
    else if s.get (GRD_CFG_ACT m) = 2 then s2.enterSafe 5
    else s2
  else if m = 294 then s1.enterSafe 5
  else s1.powerLoss m

/-- What an internal-rail decision shows (R504). -/
def State.railDecision (s : State) (m : Nat) : State :=
  if m < 288 then s else ((s.put (GRD_STATUSM_LATCHED m) 1).put GRD_STATUS_RAILTRIP 1).raise srcGrdRail 0 0

/-- A raw decision of monitor m: it trips at once where SRC is RAW (R502, R506). -/
def State.rawDecision (s : State) (m : Nat) : State :=
  if s.get (GRD_CFG_SRC m) = 2 then (s.railDecision m).grdTrip m else s

/-- The filtered decision of monitor m goes out of window: ACTIVE, LATCHED, the count, and with SRC FILT the trip (R502, R506). -/
def State.filtDecision (s : State) (m : Nat) : State :=
  if s.on (GRD_STATUSM_ACTIVE m) then s
  else
    let s1 := (s.put (GRD_STATUSM_ACTIVE m) 1).inc (GRD_COUNT m)
    let s2 := if s1.get (GRD_CFG_SRC m) = 2 then s1 else s1.railDecision m
    let s3 := if s2.get (GRD_CFG_SRC m) = 1 then s2.grdTrip m else s2
    s3.put (GRD_STATUSM_LATCHED m) 1

/-- A DUT-supply monitor's filtered decision sees reversed polarity (R494). -/
def State.revDecision (s : State) (m : Nat) : State :=
  if m < 256 || 288 ≤ m || s.on (GRD_STATUSM_POLREV m) then s else (s.put (GRD_STATUSM_POLREV m) 1).raise srcGrdPolrev 0 0

/-- Filtered decisions return in window (R506). -/
def State.inWindow (s : State) (m : Nat) (out rev : Bool) : State :=
  let s1 := if out then s.put (GRD_STATUSM_ACTIVE m) 0 else s
  if rev then s1.put (GRD_STATUSM_POLREV m) 0 else s1

/-- The majority filter: at least K of the last N samples were out of window (R499). -/
def majority (k n hist : Nat) : Bool := decide (k ≤ popcount n hist)

/-- The thresholds that a monitor decides against, as a word of GRD_m_THR (R497). -/
def State.grdThr (s : State) (m : Nat) : Nat := (s.monitor m).thr.getD (s.get (GRD_THR_HI m) * 2 ^ 16 + s.get (GRD_THR_LO m))

/-- A point at a voltage, in 250 µV, is out of the window of its monitor (R494). -/
def State.grdOutside (s : State) (m : Nat) (v : Int) : Bool :=
  decide (v < signedOf 16 (s.grdThr m)) || decide (signedOf 16 (s.grdThr m / 2 ^ 16) < v)

/-- A DUT supply at a differential voltage of −200 mV or below is reversed (R494). -/
def grdReversed (m : Nat) (v : Int) : Bool := decide (256 ≤ m) && decide (m < 288) && decide (v ≤ -800)

/-- One sample of monitor m's point, filtered over the last N (R494, R499). In P mode the sample is the raw decision too (R490). -/
def State.grdSample (s : State) (m : Nat) (v : Int) : State :=
  let w := s.monitor m
  let out := s.grdOutside m v
  let h := (w.hist * 2 + b2n out) % 2 ^ 15
  let r := (w.rev * 2 + b2n (grdReversed m v)) % 2 ^ 15
  let k := s.get (GRD_CFG_K m)
  let n := s.get (GRD_CFG_N m)
  let s1 := s.setMonitor m { w with hist := h, rev := r }
  let s2 := if majority k n r then s1.revDecision m else s1.inWindow m false true
  let s3 := if out && s2.grdMode m == 3 then s2.rawDecision m else s2
  if majority k n h then s3.filtDecision m else s3.inWindow m true false

/-- The next samples of a monitor that runs in F, M or S; one in P mode samples at its tick alone (R490, R499). -/
def State.grdSamples (s : State) (m : Nat) (points : List (BitVec 16)) : State :=
  if s.grdMode m = 3 then s else points.foldl (fun t v => t.grdSample m v.toInt) s

/-- GRD_DECISION: the samples with which a filtered decision goes out of window, or finds the polarity reversed (R494, R499, R500). -/
def execGrdDecision (monitor : Fin 312) (points : List (BitVec 16)) (s : State) : Out := .next (s.grdSamples monitor.val points)

/-- GRD_RAW_DECISION: the monitored point goes to a voltage; out of window it is the raw decision (R494, R502). -/
def execGrdRawDecision (monitor : Fin 312) (point : BitVec 16) (s : State) : Out :=
  .next (if s.grdMode monitor.val ≠ 3 && s.grdOutside monitor.val point.toInt then s.rawDecision monitor.val else s)

/-- GRD_IN_WINDOW: the samples with which a filtered decision returns in window (R499, R506). -/
def execGrdInWindow (monitor : Fin 312) (points : List (BitVec 16)) (s : State) : Out := .next (s.grdSamples monitor.val points)

/-- GRD_P_TICK: every monitor in P mode takes one reading, GRD_TICK ac after the last tick (R490); points holds the voltage at each monitor's
point. Before the tick has come nothing happens; in a reset, in which the model's time stands, it comes at once. -/
def execGrdPTick (points : List (BitVec 16)) (s : State) : Out :=
  let b := s.grd.tickBase + 25 * s.get GRD_TICK
  if s.pins.inReset = 0 && decide (s.time.rc < b) then .next s
  else
    let s1 : State := { s with grd := { s.grd with tickBase := if s.pins.inReset = 0 then b else s.time.rc } }
    .next ((List.range 312).foldl (fun t m => if t.grdMode m = 3 then t.grdSample m (points.getD m 0#16).toInt else t) s1)

/-- GRD_ILIM: a driver that is on has been in limit for 8 ns and its channel trips (R505). -/
def execGrdIlim (ch : Fin 256) (s : State) : Out :=
  let c := ch.val
  if (s.chan c).drv = 0 && !s.zeroDriven c then .next s
  else
  let s0 := if (s.holders c).contains 1000 && s.on (GRD_STATUSM_ILIM c) then s else s.inc GRD_NTRIP
  .next ((((s0.put (GRD_STATUSM_ILIM c) 1).inc GRD_NILIM).raise srcGrdIlim c 0).trip 1000 [c])

/-- GRD_MTRIP: ones trip their channels (R503). -/
def effGrdMtrip (word : Fin 8) (mask : BitVec 32) (s : State) : Out :=
  .next (s.manualTrip (((List.range 32).filter (bitAt mask.toNat)).map (32 * word.val + ·)))

/-- GRD_MTRIP: its effect, where the write reaches GRD_MTRIP (R46, R753, R770, R776). -/
def execGrdMtrip (word : Fin 8) (mask : BitVec 32) (s : State) : Out :=
  s.reachReg .host 0x380100 (effGrdMtrip word mask)

/-- The release of channel c is refused; unfit: its current limit is still in force, or a new tripping decision meets the
request in its fc (R507). -/
def State.releaseRefused (s : State) (c : Nat) (unfit : Bool) : Bool :=
  unfit || s.allTripped || (s.holders c).any fun h => decide (h < 312) && s.on (GRD_STATUSM_ACTIVE h)

/-- The release of channel c (R507). -/
def State.releaseChannel (s : State) (c : Nat) (unfit : Bool) : State :=
  if s.releaseRefused c unfit then s.put (GRD_STATUSM_CLRREF c) 1
  else
    ({ s with grd := { s.grd with holders := Assoc.set [] s.grd.holders c [] } } : State).put (GRD_STATUSM_LATCHED c) 0
      |>.put (GRD_STATUSM_ILIM c) 0

/-- GRD_RELEASE: a write handled channel by channel, lowest first (R507). -/
def effGrdRelease (word : Fin 8) (mask unfit : BitVec 32) (s : State) : Out :=
  .next ((List.range 32).foldl (fun t b =>
    if bitAt mask.toNat b then t.releaseChannel (32 * word.val + b) (bitAt unfit.toNat b) else t) s)

/-- GRD_RELEASE: its effect, where the write reaches GRD_RELEASE (R46, R753, R770, R776). -/
def execGrdRelease (word : Fin 8) (mask unfit : BitVec 32) (s : State) : Out :=
  s.reachReg .host 0x380120 (effGrdRelease word mask unfit)

/-- LATCHED of monitor m from 256 is cleared, or the clear is refused (R507, R512). -/
def State.clearLatched (s : State) (m : Nat) : State :=
  if s.on (GRD_STATUSM_ACTIVE m) || s.on GRD_STATUS_THERM || s.inSafe then s.put (GRD_STATUSM_CLRREF m) 1
  else s.put (GRD_STATUSM_LATCHED m) 0

/-- GRD_DS_CLEAR: a one written to LATCHED of a DUT-supply or internal-rail monitor; that of a channel monitor is read-only (R507,
R512). -/
def effGrdDsClear (monitor : Fin 312) (s : State) : Out :=
  .next (if monitor.val < 256 then s else s.clearLatched monitor.val)

/-- GRD_DS_CLEAR: its effect, where the write reaches GRD_STATUSM (R46, R753, R770, R776). -/
def execGrdDsClear (monitor : Fin 312) (s : State) : Out :=
  s.reachReg .host 0x381008 (effGrdDsClear monitor)

/-- A write refused under R495. -/
def State.grdRefuse (s : State) (m : Nat) : State :=
  ((s.incSat GRD_WREFUSED).put GRD_STATUS_ENVREF 1).raise srcGrdEnvref (grdArg m) 0

/-- A window lies outside the envelope of its kind (R495); internal-rail monitors have none. -/
def State.outsideEnvelope (s : State) (m hi lo : Nat) : Bool :=
  if 288 ≤ m then false
  else
    let eh := if m < 256 then s.get GRD_ENV_CH_HI else s.get GRD_ENV_DS_HI
    let el := if m < 256 then s.get GRD_ENV_CH_LO else s.get GRD_ENV_DS_LO
    decide (signedOf 16 eh < signedOf 16 hi) || decide (signedOf 16 lo < signedOf 16 el)

/-- GRD_THR_WRITE: a threshold write; 100 mV is 400 codes (R494, R495, R497). -/
def effGrdThrWrite (req : Req) (monitor : Fin 312) (data : BitVec 32) (s : State) : Out :=
  let m := monitor.val
  let hi := data.toNat / 2 ^ 16
  let lo := data.toNat % 2 ^ 16
  if decide (signedOf 16 hi - signedOf 16 lo < 400) || s.outsideEnvelope m hi lo || (decide (288 ≤ m) && req != Req.rootstock) then
    .next (s.grdRefuse m)
  else
    let v := s.monitor m
    let old := v.thr.getD (s.get (GRD_THR_HI m) * 2 ^ 16 + s.get (GRD_THR_LO m))
    .next (((s.setMonitor m { v with thr := if old = data.toNat then none else some old }).put (GRD_THR_HI m) hi).put (GRD_THR_LO m) lo)

/-- GRD_THR_WRITE: its effect, where the write reaches GRD_THR (R46, R753, R770, R776). -/
def execGrdThrWrite (req : Req) (monitor : Fin 312) (data : BitVec 32) (s : State) : Out :=
  s.reachReg req 0x381004 (effGrdThrWrite req monitor data)

/-- GRD_THR_SETTLED: the monitor changes over to the written thresholds (R497). -/
def execGrdThrSettled (monitor : Fin 312) (s : State) : Out :=
  .next (s.setMonitor monitor.val { s.monitor monitor.val with thr := none })

/-- GRD_MODE_WRITE: a write of GRD_m_CFG. It is discarded for a reserved SRC or ACT, K or N out of range, or an internal-rail monitor
not written by Rootstock, and refused for SRC NONE where the policy forbids it; otherwise a new mode begins to settle (R493, R496,
R499, R502, R511). -/
def effGrdModeWrite (req : Req) (monitor : Fin 312) (data : BitVec 32) (s : State) : Out :=
  let m := monitor.val
  let d := data.toNat
  let src := bits d 28 2
  let k := bits d 20 4
  let n := bits d 16 4
  if decide (288 ≤ m) && req != Req.rootstock then .next s
  else if src = 3 || bits d 26 2 = 3 then .next s
  else if k = 0 || n < k then .next (s.put GRD_STATUS_ENVREF 1)
  else if src = 0 && decide (m < 256) && s.on GRD_POLICY_NODIS && req != Req.rootstock then .next (s.grdRefuse m)
  else
    let old := s.grdMode m
    let s1 := ((((s.put (GRD_CFG_MODE m) (bits d 30 2)).put (GRD_CFG_SRC m) src).put (GRD_CFG_ACT m) (bits d 26 2)).put
      (GRD_CFG_K m) k).put (GRD_CFG_N m) n
    .next (s1.setMonitor m { s1.monitor m with mode := if s1.grdTarget m = old then none else some old })

/-- GRD_MODE_WRITE: its effect, where the write reaches GRD_CFG (R46, R753, R770, R776). -/
def execGrdModeWrite (req : Req) (monitor : Fin 312) (data : BitVec 32) (s : State) : Out :=
  s.reachReg req 0x381000 (effGrdModeWrite req monitor data)

/-- GRD_MODE_SETTLED: the monitor changes over to its configured mode, and its P samples begin anew (R493). -/
def execGrdModeSettled (monitor : Fin 312) (s : State) : Out :=
  let v := s.monitor monitor.val
  match v.mode with
  | none => .next s
  | some _ => .next (s.setMonitor monitor.val { v with mode := none, hist := 0, rev := 0 })

/-- The sites that a monitor watches: those of its channel, those of its DUT supply, or for an internal rail every one (R100). -/
def State.grdSites (s : State) (m : Nat) : Nat :=
  if m < 256 then s.siteMask m else if m < 288 then s.dsSites (m - 256) else allSites

/-- GRD_TWIN: a mismatch of a monitor's two copies acts as an out-of-window decision, with cause CFG; both are reloaded (R100, R498). -/
def execGrdTwin (monitor : Fin 312) (s : State) : Out :=
  let m := monitor.val
  let s1 := (((s.put (GRD_STATUSM_TWIN m) 1).raise srcGrdTwin (grdArg m) 0).inc (GRD_COUNT m)).railDecision m
  let s2 := if s1.get (GRD_CFG_SRC m) = 0 then s1 else s1.grdTrip m
  .next ((s2.recordCause (s.grdSites m) 0).put (GRD_STATUSM_LATCHED m) 1)

end Sys2Proof.Machine
end

