-- ==== Sys2Proof/Machine/Pmu.lean ====
section
/-! DEFINITION. Parametric measurement units (R453 to R462), the contact test (R463 to R468) and the filter chains (R469 to R479). -/

namespace Sys2Proof.Machine

/-! ## PMUs -/

/-- The power domain of PMU n: its tile's PMUs (R453, R768). -/
def pmuDomain (n : Nat) : Nat := 30 + 3 * (n / 4)

/-- The OWNER code of a requester (R454, R481). -/
def pmuWho (r : Req) : Nat := if r = Req.host then 1 else 2

/-- A write by the owner of PMU n; any other is discarded and counted (R455). -/
def State.byOwner (s : State) (r : Req) (n base : Nat) (k : State → State) : State :=
  if s.get (PMU_STATUS_OWNER n) = pmuWho r then k s else (s.incSat PMU_WREFUSED).claimDenied base

/-- A change under R458 or R462 falls at the next modulator sample of PMU n. -/
def State.pmuChange (s : State) (n : Nat) : State :=
  { s with pmu := { s.pmu with change := Assoc.insert s.pmu.change n s.modSample } }

/-- The switch of PMU n opens (R458). -/
def State.pmuOpen (s : State) (n : Nat) : State :=
  let s1 : State := { s with pmu := { s.pmu with closing := s.pmu.closing.filter fun e => e.1 != n } }
  s1.put (PMU_STATUS_CONN n) 0

/-- PMU_TAKE: a free PMU of a domain that is on goes to the writer (R454, R770). -/
def effPmuTake (req : Req) (pmu : Fin 32) (s : State) : Out :=
  if s.get (PMU_STATUS_OWNER pmu.val) = 0 && s.domOn (pmuDomain pmu.val) then
    .next (s.put (PMU_STATUS_OWNER pmu.val) (pmuWho req))
  else .next (s.claimDenied 0x300000)

/-- PMU_TAKE: its effect, where the write reaches PMU_CTRL (R46, R753, R770, R776). -/
def execPmuTake (req : Req) (pmu : Fin 32) (s : State) : Out :=
  s.takeReg req (0x301000+0x100*pmu.val) (effPmuTake req pmu)

/-- PMU_RELEASE by the owner (R454, R481). -/
def effPmuRelease (req : Req) (pmu : Fin 32) (s : State) : Out :=
  let n := pmu.val
  .next (s.byOwner req n 0x300000 fun t =>
    let t1 := if t.on (PMU_STATUS_CONN n) then t.put (PMU_STATUS_END n) 2 else t
    (t1.pmuOpen n).put (PMU_STATUS_OWNER n) 0)

/-- PMU_RELEASE: its effect, where the write reaches PMU_CTRL (R46, R753, R770, R776). -/
def execPmuRelease (req : Req) (pmu : Fin 32) (s : State) : Out :=
  s.reachReg req (0x301000+0x100*pmu.val) (effPmuRelease req pmu)

/-- A write of PMU_n_CTRL by its owner: range, mode and connection; a reserved range keeps the old one (R458, R462, R481). -/
def State.pmuCtrl (s : State) (n d : Nat) : State :=
  let rng := bits d 2 3
  let s1 := if rng < 5 then s.put (PMU_CTRL_IRANGE n) rng else s.put (PMU_STATUS_VALERR n) 1
  let s2 := s1.put (PMU_CTRL_MODE n) (bits d 0 2)
  let moved := decide (bits d 15 1 ≠ s.get (PMU_CTRL_CONN n)) || decide (bits d 6 3 ≠ s.get (PMU_CTRL_CH n))
  let tuned := decide (s2.get (PMU_CTRL_IRANGE n) ≠ s.get (PMU_CTRL_IRANGE n)) || decide (bits d 0 2 ≠ s.get (PMU_CTRL_MODE n))
  if moved then
    let s20 := if s2.on (PMU_STATUS_CONN n) then s2.pmuChange n else s2
    let s3 := ((s20.pmuOpen n).put (PMU_CTRL_CONN n) (bits d 15 1)).put (PMU_CTRL_CH n) (bits d 6 3)
    if bits d 15 1 = 1 then { s3 with pmu := { s3.pmu with closing := (n, 8 * n + bits d 6 3) :: s3.pmu.closing } } else s3
  else if tuned && s2.on (PMU_STATUS_CONN n) then s2.pmuChange n
  else s2

/-- PMU_CONNECT: a write of PMU_n_CTRL; a new connection closes 10 µs later; one to a channel under
calibration or graft is refused (R455, R458, R557). -/
def effPmuConnect (req : Req) (pmu : Fin 32) (data : BitVec 32) (s : State) : Out :=
  let n := pmu.val
  let d := data.toNat
  .next (s.inDomain (pmuDomain n) fun t => t.byOwner req n 0x300000 fun u =>
    if bits d 15 1 = 1 && u.inCal (8 * n + bits d 6 3) then u.claimDenied 0x300000 else u.pmuCtrl n d)

/-- PMU_CONNECT: its effect, where the write reaches PMU_CTRL (R46, R753, R770, R776). -/
def execPmuConnect (req : Req) (pmu : Fin 32) (data : BitVec 32) (s : State) : Out :=
  s.reachReg req (0x301000+0x100*pmu.val) (effPmuConnect req pmu data)

/-- PMU_CONNECT_DONE: the new connection closes; a tripped channel's switch stays open, and every one while a logic rail is low (R41, R456 to R458). -/
def execPmuConnectDone (pmu : Fin 32) (s : State) : Out :=
  let n := pmu.val
  match s.pmu.closing.find? fun e => e.1 == n with
  | none => .next s
  | some (_, c) =>
    let s1 := s.pmuOpen n
    if s.tripped c || s.pins.railLow then .next (s1.put (PMU_STATUS_END n) 1)
    else
      let s2 := ((s1.put (PMU_STATUS_CONN n) 1).setChan c { s1.chan c with drv := 0 }).pmuChange n
      .next { s2 with pmu := { s2.pmu with since := Assoc.insert s2.pmu.since n s2.modSample } }

/-- A value that PMU_n_FORCE, PMU_n_CLAMP or PMU_n_VCLAMP takes (R460, R461): a voltage from -2.0 V to +7.0 V of FS 8 V; a
current, and in FNMV any force value, within the full scale; a current clamp from 5 % to 110 % of range. -/
def State.pmuValueOk (s : State) (n which : Nat) (d : Nat) : Bool :=
  let v := signedOf 32 d
  if which = 0 then
    if s.get (PMU_CTRL_MODE n) % 2 = 1 then decide (-268435456 ≤ v) && decide (v ≤ 939524096)
    else decide (-1073741824 ≤ v) && decide (v ≤ 1073741824)
  else if which = 1 then decide (53687092 ≤ v) && decide (v ≤ 1181116006)
  else
    let h := signedOf 16 (d / 2 ^ 16)
    let l := signedOf 16 d
    decide (-8000 ≤ l) && decide (h ≤ 28000) && decide (800 ≤ h - l)

/-- PMU_FORCE_WRITE: a write of PMU_n_FORCE (0), PMU_n_CLAMP (1) or PMU_n_VCLAMP (2), applied, or discarded with VALERR (R455,
R460, R462). -/
def effPmuForceWrite (req : Req) (pmu : Fin 32) (which : Fin 3) (data : BitVec 32) (s : State) : Out :=
  let n := pmu.val
  let d := data.toNat
  .next (s.inDomain (pmuDomain n) fun t => t.byOwner req n 0x300000 fun u =>
    if !u.pmuValueOk n which.val d then u.put (PMU_STATUS_VALERR n) 1
    else
      let u1 := if which.val = 0 then u.put (PMU_FORCE n) d
        else if which.val = 1 then u.put (PMU_CLAMP n) d
        else (u.put (PMU_VCLAMP_VCLH n) (d / 2 ^ 16)).put (PMU_VCLAMP_VCLL n) (d % 2 ^ 16)
      if u1.on (PMU_STATUS_CONN n) then u1.pmuChange n else u1)

/-- PMU_FORCE_WRITE: its effect, where the write reaches PMU_FORCE (R46, R753, R770, R776). -/
def execPmuForceWrite (req : Req) (pmu : Fin 32) (which : Fin 3) (data : BitVec 32) (s : State) : Out :=
  s.reachReg req (0x301008+0x100*pmu.val) (effPmuForceWrite req pmu which data)

/-! ## Contact test -/

/-- The drivers of the channels under contact test are off as pattern drivers (R456, R464); a neighbour's drives 0 V instead (R465). -/
def State.quietContact (s : State) : State :=
  allChannels.foldl (fun t c => if t.underContact c then t.setChan c { t.chan c with drv := 0 } else t) s

/-- PMU n begins to test its next channel: its switch opens and the connection to that channel is to close (R458, R464); a tripped channel is
not forced at all (R466). -/
def State.contactNext (s : State) (n : Nat) : State :=
  let s1 := s.pmuOpen n
  match s1.ctNow n with
  | none => s1
  | some c => if s1.tripped c then s1 else { s1 with pmu := { s1.pmu with closing := (n, c) :: s1.pmu.closing } }

/-- A contact test with nothing left to do ends (R468). -/
def State.contactEnd (s : State) : State :=
  if s.on PMU_CT_STATUS_BUSY && s.pmu.contact.isEmpty then
    let bad := s.pmu.tested.filter fun c => s.get (PMU_CT_RES_RESULT c) != 1 && s.get (PMU_CT_RES_RESULT c) != 0
    let s1 := ((s.put PMU_CT_STATUS_BUSY 0).put PMU_CT_STATUS_DONE 1).put PMU_CT_NFAIL (s.get PMU_CT_NFAIL + bad.length)
    ({ s1 with pmu := { s1.pmu with tested := [] } } : State).raise srcPmuCtdone 0 0
  else s

/-- CONTACT_TEST_GO: a test of the selected channels begins, or is refused as a whole (R463, R557). -/
def effContactTestGo (s : State) : Out :=
  let sel := allChannels.filter fun c => s.bitOf PMU_CT_SEL c
  let pmus := (List.range 32).filter fun n => sel.any fun c => c / 8 == n
  if (pmus.any fun n => s.on (PMU_STATUS_OWNER n) || !s.domOn (pmuDomain n)) || sel.any s.inCal then
    .next ((s.put PMU_CT_STATUS_CTREF 1).claimDenied 0x300000)
  else
    let s1 := pmus.foldl (fun t n => t.put (PMU_STATUS_OWNER n) 4) s
    let s2 : State := { s1 with pmu := { s1.pmu with contact := s1.pmu.contact ++ sel, tested := s1.pmu.tested ++ sel } }
    .next ((pmus.foldl (fun t n => t.contactNext n) (s2.put PMU_CT_STATUS_BUSY 1).quietContact).contactEnd)

/-- CONTACT_TEST_GO: its effect, where the write reaches PMU_CT_CTRL (R46, R753, R770, R776). -/
def execContactTestGo (s : State) : Out :=
  s.reachReg .host 0x300000 effContactTestGo

/-- The class of a reading in µV (R466): 0 CLAMP, 1 SHORT, 2 DIODE, 3 OTHER; pos: the reading at +ICT. -/
def State.contactClass (s : State) (v : Int) (pos : Bool) : Nat :=
  let a := v.natAbs
  if (s.get PMU_CT_CFG1_VCL : Int) * 1000 - 50000 ≤ a then 0
  else if a ≤ s.get PMU_CT_CFG3_VSHORT * 1000 then 1
  else if decide (s.get PMU_CT_CFG2_VDLO * 1000 ≤ a) && decide (a ≤ s.get PMU_CT_CFG2_VDHI * 1000)
    && (if pos then decide (0 < v) else decide (v < 0)) then 2
  else 3

/-- RESULT of a pair of classes (R466). -/
def contactResult (n p : Nat) : Nat :=
  if n = 1 || p = 1 then 3
  else if n = 2 && p = 2 then 1
  else if n = 0 && p = 0 then 2
  else if (n = 2 && p = 0) || (n = 0 && p = 2) then 4
  else 5

/-- A quotient whose rounding the manual leaves open: a free value chooses where it is not exact. -/
def State.roundOpen (s : State) (v : Int) (d : Int) : Int × State :=
  if v % d = 0 then (v / d, s) else let (f, s1) := s.free; (v / d + f % 2, s1)

/-- CONTACT_CHANNEL_DONE: a channel's readings in µV, which its connection precedes, and the PMU goes to its next channel; a tripped channel is
ABORT and is not forced (R464, R466, R468). -/
def execContactChannelDone (ch : Fin 256) (vn vp : BitVec 32) (s : State) : Out :=
  let c := ch.val
  let n := c / 8
  if s.ctNow n ≠ some c || (!s.tripped c && !s.on (PMU_STATUS_CONN n)) then .next s
  else
    let s1 := if s.tripped c then s.put (PMU_CT_RES_RESULT c) 6
      else
        let (cn, t1) := s.roundOpen vn.toInt 2000
        let (cp, t2) := t1.roundOpen vp.toInt 2000
        ((t2.put (PMU_CT_RES_RESULT c) (contactResult (s.contactClass vn.toInt false) (s.contactClass vp.toInt true))).put
          (PMU_CT_RES_VN c) (codeOf 13 cn)).put (PMU_CT_RES_VP c) (codeOf 13 cp)
    let s2 : State := { s1 with pmu := { s1.pmu with contact := s1.pmu.contact.filter (· != c) } }
    let s3 := s2.contactNext n
    .next (if (s3.ctNow n).isNone then s3.put (PMU_STATUS_OWNER n) 0 else s3.quietContact).contactEnd

/-! ## Filter chains -/

/-- Chain n. -/
def State.chain (s : State) (n : Nat) : DfcChain := Assoc.get DfcChain.idle s.pmu.chains n

/-- Chain n replaced. -/
def State.setChain (s : State) (n : Nat) (v : DfcChain) : State :=
  { s with pmu := { s.pmu with chains := Assoc.set DfcChain.idle s.pmu.chains n v } }

/-- R of chain n (R469, R483). -/
def State.dfcR (s : State) (n : Nat) : Nat := 2 * s.get (DFC_CFG_RH n)

/-- Dt of chain n (R469). -/
def State.dfcDt (s : State) (n : Nat) : Nat := s.dfcR n * 2 ^ s.get (DFC_CFG_H n) * (s.get (DFC_CFG_DF n) + 1)

/-- G of chain n: DFC_n_GDELAY (R470); 47.5 R 2^H is 95 RH 2^H. -/
def State.dfcG (s : State) (n : Nat) : Nat :=
  2 * (s.dfcR n - 1) + 15 * s.dfcR n * (2 ^ s.get (DFC_CFG_H n) - 1) + 95 * s.get (DFC_CFG_RH n) * 2 ^ s.get (DFC_CFG_H n)

/-- The configuration of chain n passes R469, R475 and R477. -/
def State.dfcValid (s : State) (n : Nat) : Bool :=
  let rh := s.get (DFC_CFG_RH n)
  let dck := s.get (DFC_CFG_DCK n)
  let rr := s.get (DFC_RATIO n)
  decide (2 ≤ rh) && decide (rh ≤ 128) && decide (s.get (DFC_CFG_H n) ≤ 6)
    && (decide (dck = 0) || (decide (4 ≤ dck) && decide (dck ≤ 24)))
    && (decide (rr = 0) || (decide (s.dfcDt n * 2 ^ 32 ≤ 20000000 * rr) && decide (20 * rr ≤ s.dfcDt n * 2 ^ 32)))

/-- The GVC of the vector cycle in progress d reference cycles on, if the gate stays as it is; all ones with none (R472). A closure before then
is the gate's to note. -/
def State.stampAt (s : State) (d : Nat) : Nat :=
  match s.stamp with
  | none => 2 ^ 64 - 1
  | some g => g + (if s.clk.vset.den = 0 then 0 else (d * s.clk.vset.num - s.clk.phase) / s.clk.vset.den)

/-- DFC_START: chain n begins at the next modulator sample, or is refused (R455, R472, R474). -/
def effDfcStart (req : Req) (chain : Fin 32) (s : State) : Out :=
  let n := chain.val
  .next (s.inDomain 14 fun t => t.byOwner req n 0x340000 fun u =>
    if !u.dfcValid n then u.put (DFC_STATUS_CFGERR n) 1
    else
      let g := u.stampAt (5 * u.modSample - u.time.rc)
      let u1 := ((((u.put (DFC_STATUS_RUN n) 1).put64 (DFC_NOUT_LO n) (DFC_NOUT_HI n) 0).put64 (DFC_START_GVC_LO n) (DFC_START_GVC_HI n) g).put
        (DFC_BASE n) 0)
      u1.setChain n ⟨u.modSample, [], 0, 0, 0, [], 0⟩)

/-- DFC_START: its effect, where the write reaches DFC_CTRL (R46, R753, R770, R776). -/
def execDfcStart (req : Req) (chain : Fin 32) (s : State) : Out :=
  s.reachReg req (0x341008+0x100*chain.val) (effDfcStart req chain)

/-- DFC_STOP (R482). -/
def effDfcStop (req : Req) (chain : Fin 32) (s : State) : Out :=
  .next (s.inDomain 14 fun t => t.byOwner req chain.val 0x340000 fun u => u.put (DFC_STATUS_RUN chain.val) 0)

/-- DFC_STOP: its effect, where the write reaches DFC_CTRL (R46, R753, R770, R776). -/
def execDfcStop (req : Req) (chain : Fin 32) (s : State) : Out :=
  s.reachReg req (0x341008+0x100*chain.val) (effDfcStop req chain)

/-- DFC_FREEZE: the baseline is held, or its updates resume (R476). -/
def effDfcFreeze (req : Req) (chain : Fin 32) (on : Bool) (s : State) : Out :=
  .next (s.inDomain 14 fun t => t.byOwner req chain.val 0x340000 fun u =>
    (u.flag (DFC_CTRL_FREEZE chain.val) on).flag (DFC_STATUS_FROZEN chain.val) on)

/-- DFC_FREEZE: its effect, where the write reaches DFC_CTRL (R46, R753, R770, R776). -/
def execDfcFreeze (req : Req) (chain : Fin 32) (on : Bool) (s : State) : Out :=
  s.reachReg req (0x341008+0x100*chain.val) (effDfcFreeze req chain on)

/-- DFC_BASE_WRITE: the baseline is set while frozen (R476, R482). -/
def effDfcBaseWrite (req : Req) (chain : Fin 32) (data : BitVec 32) (s : State) : Out :=
  let n := chain.val
  .next (s.inDomain 14 fun t => t.byOwner req n 0x340000 fun u =>
    if u.on (DFC_STATUS_FROZEN n) then
      (u.put (DFC_BASE n) data.toNat).setChain n { u.chain n with b := data.toInt, bExp := 0 }
    else u)

/-- DFC_BASE_WRITE: its effect, where the write reaches DFC_BASE (R46, R753, R770, R776). -/
def execDfcBaseWrite (req : Req) (chain : Fin 32) (data : BitVec 32) (s : State) : Out :=
  s.reachReg req (0x341014+0x100*chain.val) (effDfcBaseWrite req chain data)

/-- v / 2^e as a 32-bit sample code: where it is no such code the manual states none, and rounding is a free choice. -/
def State.sampleCode (s : State) (v : Int) (e : Nat) : Nat × State :=
  let (q, s1) := s.roundOpen v (2 ^ e)
  if decide (q < -2147483648) || decide (2147483647 < q) then let (f, s2) := s1.free; (f % 2 ^ 32, s2) else (codeOf 32 q, s1)

/-- The flags of FIR output j of chain n, whose span ends at modulator sample i (R473): SETTLING 8, CLIP 4, CHG 2, SRCINT 1. -/
def State.dfcFlags (s : State) (n : Nat) (c : DfcChain) (clip : Bool) : Nat :=
  let i := (c.inputs + 1) * s.dfcDt n - 1
  let g2 := 2 * s.dfcG n
  let chg := match s.pmu.change.find? fun e => e.1 == n with
    | some e => decide (c.start + i ≤ e.2 + g2) && decide (e.2 ≤ c.start + i)
    | none => false
  let ch := (s.ctNow n).getD (8 * n + s.get (PMU_CTRL_CH n))
  let cut := !s.on (PMU_STATUS_CONN n) || s.tripped ch || s.inCal ch || match s.pmu.since.find? fun e => e.1 == n with
    | some e => decide (c.start + i < e.2 + g2)
    | none => false
  b2n (decide (i < g2)) * 8 + b2n clip * 4 + b2n chg * 2 + b2n cut

/-- The record of a chain output (R479). -/
def State.dfcRecord (s : State) (n : Nat) : List (BitVec 8) :=
  wordBytes [s.get (DFC_OUT n), s.get (DFC_FLAGS n) * 2 ^ 28 + s.get (DFC_STATUS_FROZEN n) * 2 ^ 27 + n * 2 ^ 13 + s.get CLK_DEVID,
    s.get (DFC_NOUT_LO n), s.get (DFC_NOUT_HI n)]

/-- A chain output replaces DFC_n_OUT (R479). -/
def State.dfcPut (s : State) (n v flags : Nat) : State :=
  let s1 := ((s.put (DFC_OUT n) v).put (DFC_FLAGS n) flags).add64 (DFC_NOUT_LO n) (DFC_NOUT_HI n) 1
  if s1.on (DFC_QUEUE_EN n) then s1.enq (s1.get (DFC_QUEUE_Q n)) (s1.dfcRecord n) else s1

/-- The DC-blocking stage on a sample x (R475, R476): its output over 2^bExp, and the chain with the new baseline. -/
def dcBlock (dck : Nat) (frozen : Bool) (c : DfcChain) (x : Int) : Int × Nat × DfcChain :=
  if dck = 0 then (x, 0, c)
  else
    let y := x * 2 ^ c.bExp - c.b
    if frozen then (y, c.bExp, c) else (y, c.bExp, { c with b := c.b * 2 ^ dck + y, bExp := c.bExp + dck })

/-- The FIR of a chain on its last 96 inputs, newest first, in 2^-23: the 48 coefficients of the set are mirrored (R471, R482). -/
def State.firOutput (s : State) (set : Nat) (xs : List Int) : Int :=
  (List.range 48).foldl (fun v t => v + signedOf 24 (s.get (DFC_FIR_C set t)) * (xs.getD t 0 + xs.getD (95 - t) 0)) 0

/-- The last modulator sample of the next FIR output of chain n has been taken (R472). -/
def State.dfcDue (s : State) (n : Nat) : Bool :=
  let c := s.chain n
  decide (5 * (c.start + ((c.inputs + 1) * s.dfcDt n - 1)) ≤ s.time.rc)

/-- DFC_OUTPUT: the FIR of chain n takes the DF inputs that its half-bands give since its last output, oldest first, and gives its next output
with the coefficients of FSET; that passes the DC-blocking stage and, with RATIO not 0, enters the resampler, which gives an output when its
phase accumulator carries; what its 64 phases compute the manual does not state, so that value is free (R469 to R479). The inputs carry
the calibration's gain, with which the whole chain has a DC gain of 1. clip: a sample of the span lies beyond 1.25 FS. -/
def execDfcOutput (chain : Fin 32) (xs : List (BitVec 32)) (clip : Bool) (s : State) : Out :=
  let n := chain.val
  if !s.on (DFC_STATUS_RUN n) || !s.domOn 14 || s.frozen || xs.length ≠ s.get (DFC_CFG_DF n) + 1 || !s.dfcDue n then .next s
  else
    let c0 := s.chain n
    let c := { c0 with fir := ((xs.reverse.map (·.toInt)) ++ c0.fir).take 96 }
    let fl := s.dfcFlags n c clip
    let (x, s0) := s.sampleCode (s.firOutput (s.get (DFC_CFG_FSET n)) c.fir) 23
    let (y, e, c1) := dcBlock (s.get (DFC_CFG_DCK n)) (s.on (DFC_STATUS_FROZEN n)) c (signedOf 32 x)
    let (code, s1) := s0.sampleCode y e
    let (base, s2) := s1.sampleCode c1.b c1.bExp
    let rr := s.get (DFC_RATIO n)
    let past := (fl :: c1.past).take 16
    let s3 := (s2.put (DFC_BASE n) base).setChain n { c1 with inputs := c.inputs + 1, past := past, acc := (c.acc + rr) % 2 ^ 32 }
    if rr = 0 then .next (s3.dfcPut n code fl)
    else if c.acc + rr < 2 ^ 32 then .next s3
    else
      let (v, s4) := s3.free
      .next (s4.dfcPut n (v % 2 ^ 32) (past.foldl (· ||| ·) 0))

end Sys2Proof.Machine
end

