-- ==== Sys2Proof/Machine/Cal.lean ====
section
/-! DEFINITION. Calibration, the maintenance arbiter and grafts (R544 to R571). -/

namespace Sys2Proof.Machine

/-! ## Requests (R560 to R563) -/

/-- The tile of an entry (R453, R562). -/
def CalEntry.tile (e : CalEntry) : Nat := if e.kind = 6 then e.target / 4 else e.target / 32

/-- A request is refused (R563). -/
def State.calRefuse (s : State) : State := ((s.incSat CAL_NREFUSED).put CAL_STATUS_REFUSED 1).event srcCalRefused

/-- An entry of the kind and target is queued, with which a request merges (R562). -/
def State.calQueued (s : State) (kind target : Nat) : Bool := s.cal.queue.any fun e => e.kind == kind && e.target == target

/-- Entries are requested, all with one deadline; there must be room for those that do not merge (R561 to R563). -/
def State.calRequest (s : State) (es : List (Nat × Nat × Nat)) : State :=
  let fresh := (es.filter fun e => !s.calQueued e.1 e.2.2).length
  if 1024 ≤ s.cal.queue.length || 1024 < s.cal.queue.length + fresh then s.calRefuse
  else
    let d := s.time.rc + 100000 * s.get CAL_REQ_DEADLINE
    { s with cal := { s.cal with
      queue := es.foldl (fun q e => mergeEntry ⟨e.1, e.2.1, e.2.2, d, false, false, 0⟩ q) s.cal.queue } }

/-- CAL_REQ of kind TIMING. -/
def effCalReqTiming (elem : Fin 4) (target : Fin 256) (s : State) : Out :=
  .next (if elem.val ≠ 0 then s.calRefuse else s.calRequest [(1, 0, target.val)])

/-- CAL_REQ_TIMING: its effect, where the write reaches CAL_REQ (R46, R753, R770, R776). -/
def execCalReqTiming (elem : Fin 4) (target : Fin 256) (s : State) : Out :=
  s.reachReg .host 0x400008 (effCalReqTiming elem target)

/-- CAL_REQ of kind DC. -/
def effCalReqDc (elem : Fin 4) (target : Fin 256) (s : State) : Out :=
  .next (if elem.val ≠ 0 then s.calRefuse else s.calRequest [(2, 0, target.val)])

/-- CAL_REQ_DC: its effect, where the write reaches CAL_REQ (R46, R753, R770, R776). -/
def execCalReqDc (elem : Fin 4) (target : Fin 256) (s : State) : Out :=
  s.reachReg .host 0x400008 (effCalReqDc elem target)

/-- CAL_REQ of kind BOTH: timing, then DC. -/
def effCalReqBoth (elem : Fin 4) (target : Fin 256) (s : State) : Out :=
  .next (if elem.val ≠ 0 then s.calRefuse else s.calRequest [(1, 0, target.val), (2, 0, target.val)])

/-- CAL_REQ_BOTH: its effect, where the write reaches CAL_REQ (R46, R753, R770, R776). -/
def execCalReqBoth (elem : Fin 4) (target : Fin 256) (s : State) : Out :=
  s.reachReg .host 0x400008 (effCalReqBoth elem target)

/-- Spare p of a channel's tile serves another channel, or is marked BAD (R563). -/
def State.spareTaken (s : State) (c p : Nat) : Bool :=
  let t := c / 32
  if p = 0 then s.on (CAL_GRAFT_SP0BAD t) || (s.on (CAL_GRAFT_SP0USE t) && s.get (CAL_GRAFT_SP0CH t) != c % 32)
  else s.on (CAL_GRAFT_SP1BAD t) || (s.on (CAL_GRAFT_SP1USE t) && s.get (CAL_GRAFT_SP1CH t) != c % 32)

/-- CAL_REQ of kind GRAFT: to SP0, SP1 or the own element (R563 to R565). -/
def effCalReqGraft (elem : Fin 4) (target : Fin 256) (s : State) : Out :=
  let c := target.val
  let bad := decide (elem.val = 3) || (decide (elem.val < 2) && s.spareTaken c elem.val)
    || (decide (elem.val = 2) && decide (s.get (CAL_CH_STATUS_ELEM c) = 0))
  .next (if bad then s.calRefuse else s.calRequest [(4, elem.val, c)])

/-- CAL_REQ_GRAFT: its effect, where the write reaches CAL_REQ (R46, R753, R770, R776). -/
def execCalReqGraft (elem : Fin 4) (target : Fin 256) (s : State) : Out :=
  s.reachReg .host 0x400008 (effCalReqGraft elem target)

/-- CAL_REQ of kind TILE: 64 entries (R562). -/
def effCalReqTile (elem : Fin 4) (target : Fin 256) (s : State) : Out :=
  let t := target.val
  let cs := (List.range 32).map (32 * t + ·)
  .next (if elem.val ≠ 0 || 8 ≤ t then s.calRefuse
    else s.calRequest (cs.map (fun c => (1, 0, c)) ++ cs.map fun c => (2, 0, c)))

/-- CAL_REQ_TILE: its effect, where the write reaches CAL_REQ (R46, R753, R770, R776). -/
def execCalReqTile (elem : Fin 4) (target : Fin 256) (s : State) : Out :=
  s.reachReg .host 0x400008 (effCalReqTile elem target)

/-- CAL_REQ of kind PMU. -/
def effCalReqPmu (elem : Fin 4) (target : Fin 256) (s : State) : Out :=
  .next (if elem.val ≠ 0 || 32 ≤ target.val then s.calRefuse else s.calRequest [(6, 0, target.val)])

/-- CAL_REQ_PMU: its effect, where the write reaches CAL_REQ (R46, R753, R770, R776). -/
def execCalReqPmu (elem : Fin 4) (target : Fin 256) (s : State) : Out :=
  s.reachReg .host 0x400008 (effCalReqPmu elem target)

/-! ## Starts (R554, R555, R559, R561) -/

/-- The channel is idle (R554). -/
def State.idleChannel (s : State) (c : Nat) : Bool :=
  s.untrusted c || match s.siteOf c with
    | some n => (s.cmt.intervals.all fun i => i.site != n || !i.running s.clk.gvc)
        && s.seq.running.all (fun p => !bitAt p.sites n) && s.seq.queued.all fun p => !bitAt p.sites n
    | none => s.seq.running.isNone && s.seq.queued.isNone

/-- The arbiter holds a calibration or graft entry for tile t (R778). -/
def State.entryFor (s : State) (t : Nat) : Bool := (s.cal.queue ++ s.cal.running).any fun e => e.kind != 7 && e.tile == t

/-- Tile t is at full bias: in Bloom and on the way to it every tile is; in Budding a tile is raised once the arbiter holds an entry for it, and
returns to hold bias when it has none left (R778, R779). The manual bounds the raise by 20 µs; here it is done at once (DESIGN CHOICE, log
entry 118). -/
def State.fullBias (s : State) (t : Nat) : Bool :=
  s.get PMG_STATUS_STATE == 3 || s.get PMG_STATUS_STATE == 5
    || (s.get PMG_STATUS_STATE == 2 && s.entryFor t)

/-- The conditions of an entry hold (R454, R555, R560, R778). A graft waits while its spare serves another channel (DEDUCED, log entry
119). -/
def State.calReady (s : State) (e : CalEntry) : Bool :=
  (s.get PMG_STATUS_STATE != 2 || s.fullBias e.tile) && s.domOn 63 && (s.cal.running.all fun r => r.kind == 7 || r.tile != e.tile) &&
    if e.kind = 6 then s.get (PMU_STATUS_OWNER e.target) == 0 && s.domOn (pmuDomain e.target)
    else decide (e.kind ≤ 4) && s.idleChannel e.target && (decide (e.kind = 4) || !s.tripped e.target)
      && (decide (e.kind ≠ 4) || decide (2 ≤ e.elem) || !s.spareTaken e.target e.elem)
      && !s.pmuOn e.target && (s.pmu.closing.all fun k => k.2 != e.target) && !s.pmu.tested.contains e.target && !s.inCal e.target

/-- The entry that the engine of a tile starts: of those whose conditions hold, the earliest deadline, then the first requested
(R561). -/
def State.calNext (s : State) (t : Nat) : Option CalEntry :=
  (s.cal.queue.filter fun e => e.kind != 7 && e.tile == t && s.calReady e).foldl (fun m e => match m with
    | none => some e
    | some b => if e.deadline < b.deadline then some e else some b) none

/-- CAL_ENTRY_START: the engine of a tile starts an entry: the channel's land is high-impedance and counts as untrusted (R544, R546,
R556, R557); a PMU is owned by calibration. -/
def execCalEntryStart (tile : Fin 8) (s : State) : Out :=
  match s.calNext tile.val with
  | none => .next s
  | some e =>
    let e1 := { e with refbad := s.on CLK_STATUS_REFLOST, began := s.time.rc }
    let s1 : State := { s with cal := { s.cal with queue := s.cal.queue.filter (· ≠ e), running := s.cal.running ++ [e1] } }
    if e.kind = 6 then .next (s1.put (PMU_STATUS_OWNER e.target) 3)
    else
      let c := e.target
      .next (((s1.setChan c { s1.chan c with drv := 0 }).tiuInterrupt (· == c)).recordCause (s1.siteMask c) 5)

/-- CAL_LATE: a queued entry meets its deadline unstarted (R561). -/
def execCalLate (kind : Fin 8) (target : Fin 256) (s : State) : Out :=
  match s.cal.queue.find? fun e => e.kind == kind.val && e.target == target.val with
  | none => .next s
  | some e => if e.late || s.time.rc < e.deadline then .next s else .next (s.calLate e)

/-! ## Ends (R547 to R553, R564 to R567) -/

/-- VREF_CAL is within 4.096 V ±1 % (R547), in 250 µV. -/
def vrefGood (v : Nat) : Bool := decide (16221 ≤ v) && decide (v ≤ 16547)

/-- Timing results of a PASS (R549, R552). -/
def State.timingPass (s : State) (c : Nat) (cells : Nat) : State :=
  (((s.put (CAL_CH_STATUS_TVALID c) 1).put (CAL_CH_CELLS_LO c) cells).put (CAL_CH_CELLS_HI c) (cells / 2 ^ 32)).put (CAL_CH_TTEMP c)
    (s.get (PMG_TEMP_T (1 + c / 32)))

/-- DC results of a PASS (R551, R552). -/
def State.dcPass (s : State) (c cmp seg : Nat) : State :=
  (((s.put (CAL_CH_STATUS_DVALID c) 1).put (CAL_CH_CMP_VOH c) cmp).put (CAL_CH_CMP_VOL c) (cmp / 4)).put (CAL_CH_SEG c) seg

/-- The closing readback pass, of 9 ac, is good (R379, R380, R552). -/
def State.closingPass (s : State) (c : Nat) : State :=
  let s1 := s.beginPass c
  (s1.setReadback c { s1.readback c with beganAc := s1.nowAc - 9 }).endPass c

/-- The result registers of channel c that the non-volatile store holds (R572). -/
def calStored (c : Nat) : List Field :=
  [CAL_CH_STATUS_TVALID c, CAL_CH_STATUS_DVALID c, CAL_CH_STATUS_LASTRES c, CAL_CH_TTEMP c, CAL_CH_CELLS_LO c, CAL_CH_CELLS_HI c,
   CAL_CH_CMP_VOL c, CAL_CH_CMP_VOH c, CAL_CH_SEG c]

/-- The graft map of a tile (R571), with the elements of its channels. -/
def graftStored (t : Nat) : List Field :=
  [CAL_GRAFT_SP1USE t, CAL_GRAFT_SP1BAD t, CAL_GRAFT_SP1CH t, CAL_GRAFT_SP0USE t, CAL_GRAFT_SP0BAD t, CAL_GRAFT_SP0CH t]
    ++ (List.range 32).map fun j => CAL_CH_STATUS_ELEM (32 * t + j)

/-- Fields written to the non-volatile store where CAL_CTRL.PERSIST is 1 (R552, R567). -/
def State.persist (s : State) (fs : List Field) : State :=
  if s.on CAL_CTRL_PERSIST then
    { s with cal := { s.cal with nv := fs.foldl (fun m f => Assoc.set f.rst m f.id (s.get f)) s.cal.nv } }
  else s

/-- A calibration of an element with result RANGE: its channel is marked untrusted (R553). -/
def State.calRange (s : State) (c : Nat) : State :=
  let s1 := (s.inc (LVL_CH_RBFAIL c)).markUntrusted c LVL_CH_UNTR_RBFAIL
  s1.setReadback c { s1.readback c with spoilt := true }

/-- The run time of an activity, in rc: 1.600 ms, 3.200 ms, 4.900 ms and 12.800 ms (R548, R550, R560, R564). -/
def calTime (kind : Nat) : Nat := if kind = 1 then 160000 else if kind = 2 then 320000 else if kind = 4 then 490000 else 1280000

/-- An entry has run its time; one that ends REFBAD may end before (R546, R547). -/
def State.calRan (s : State) (e : CalEntry) : Bool := decide (e.began + calTime e.kind ≤ s.time.rc)

/-- CAL_END: a calibration of kind 1, 2 or 6 ends at its run time, or before with REFBAD (R546, R547, R552, R553); range: what R549 or
R551 tests or the closing pass has failed, or a PMU's calibration has not passed. -/
def execCalEnd (kind : Fin 8) (target : Fin 256) (range : Bool) (cells : BitVec 48) (cmp : BitVec 4) (seg : BitVec 27)
    (vref : BitVec 16) (s : State) : Out :=
  let c := target.val
  match s.cal.running.find? fun e => e.kind == kind.val && e.target == c with
  | none => .next s
  | some e =>
    if kind.val = 1 then
      if e.refbad then .next (s.calEnded e 4)
      else if !s.calRan e then .next s
      else if range then .next ((s.calRange c).calEnded e 2)
      else
        let s1 := ((s.timingPass c cells.toNat).closingPass c).inc (CAL_CH_NCAL c)
        .next ((s1.calEnded e 1).persist (calStored c))
    else if kind.val = 2 then
      let s0 := s.put CAL_VREF vref.toNat
      if !vrefGood vref.toNat then .next ((s0.calEnded e 4).raise srcCalRefbad c 0)
      else if !s.calRan e then .next s
      else if range then .next ((s0.calRange c).calEnded e 2)
      else
        let s1 := ((s0.dcPass c cmp.toNat seg.toNat).closingPass c).inc (CAL_CH_NCAL c)
        .next ((s1.calEnded e 1).persist (calStored c))
    else if kind.val = 6 then
      let s0 := (s.put CAL_VREF vref.toNat).put (PMU_STATUS_OWNER c) 0
      if !vrefGood vref.toNat then .next ((s0.calEnded e 4).raise srcCalRefbad 0 0)
      else if !s.calRan e then .next s
      else .next (s0.calEnded e (if range then 2 else 1))
    else .next s

/-- The spare that serves channel c is freed (R565). -/
def State.freeSpare (s : State) (c : Nat) : State :=
  match s.get (CAL_CH_STATUS_ELEM c) with
  | 1 => s.put (CAL_GRAFT_SP0USE (c / 32)) 0
  | 2 => s.put (CAL_GRAFT_SP1USE (c / 32)) 0
  | _ => s

/-- Element elem of a graft serves channel c (R564, R565): 0 SP0, 1 SP1, 2 its own. -/
def State.serve (s : State) (c elem : Nat) : State :=
  let t := c / 32
  let s1 := s.freeSpare c
  if elem = 0 then ((s1.put (CAL_GRAFT_SP0USE t) 1).put (CAL_GRAFT_SP0CH t) (c % 32)).put (CAL_CH_STATUS_ELEM c) 1
  else if elem = 1 then ((s1.put (CAL_GRAFT_SP1USE t) 1).put (CAL_GRAFT_SP1CH t) (c % 32)).put (CAL_CH_STATUS_ELEM c) 2
  else s1.put (CAL_CH_STATUS_ELEM c) 0

/-- GRAFT_END: a graft ends at its run time with result 1 PASS or 2 RANGE, or before with 4 REFBAD (R564 to R567, R570); others end none. One that lost REFCLK, or
whose VREF_CAL is out of bounds, ends REFBAD (R546, R547). -/
def execGraftEnd (ch : Fin 256) (result : Fin 5) (cells : BitVec 48) (cmp : BitVec 4) (seg : BitVec 27) (vref : BitVec 16)
    (s : State) : Out :=
  let c := ch.val
  match s.cal.running.find? fun e => e.kind == 4 && e.target == c with
  | none => .next s
  | some e =>
    let s0 := if e.refbad then s else s.put CAL_VREF vref.toNat
    if (e.refbad && decide (result.val ∈ [1, 2, 4])) || (decide (result.val = 1) && !vrefGood vref.toNat) then
      let s1 := if vrefGood vref.toNat || e.refbad then s0 else s0.raise srcCalRefbad c 0
      .next (s1.calEnded e 4)
    else if result.val ≤ 2 && !s.calRan e then .next s
    else if result.val = 1 then
      let s1 := (((s0.serve c e.elem).timingPass c cells.toNat).dcPass c cmp.toNat seg.toNat).closingPass c
      .next ((s1.calEnded e 1).persist (calStored c ++ graftStored (c / 32)))
    else if result.val = 2 then
      let s1 := if e.elem = 0 then s0.put (CAL_GRAFT_SP0BAD (c / 32)) 1
        else if e.elem = 1 then s0.put (CAL_GRAFT_SP1BAD (c / 32)) 1 else s0
      .next (s1.calEnded e 2)
    else if result.val = 4 then
      let s1 := if vrefGood vref.toNat then s0 else s0.raise srcCalRefbad c 0
      .next (s1.calEnded e 4)
    else .next s

end Sys2Proof.Machine
end

