-- ==== Sys2Proof/Machine/Cle.lean ====
section
/-! DEFINITION. The closed-loop engine (R514 to R537): the loop bus, the control law, modes and the thermal hold. -/

namespace Sys2Proof.Machine

/-- The engine has its clock (R537). -/
def State.cleRuns (s : State) : Bool := s.domOn 15 && !s.frozen

/-! ## Arithmetic (R524) -/

/-- Saturation to the signed 32-bit range. -/
def sat32 (i : Int) : Int := satI 32 i

/-- A product with n fraction bits, rounded to the nearest unit with a half toward plus infinity, and saturated. -/
def mulR (a b : Int) (n : Nat) : Int := sat32 (if n = 0 then a * b else (a * b + 2 ^ (n - 1)) / 2 ^ n)

/-- A saturated sum. -/
def addS (a b : Int) : Int := sat32 (a + b)

/-- A saturated difference. -/
def subS (a b : Int) : Int := sat32 (a - b)

/-- A register of a loop as a signed value. -/
def State.int32 (s : State) (f : Field) : Int := signedOf 32 (s.get f)

/-! ## Ports -/

/-- The OWNER code of a requester (R523, R530). -/
def cleWho (r : Req) : Nat := if r = Req.host then 1 else 2

/-- A write refused under R523, R529 or R530. -/
def State.cleRefuse (s : State) : State := s.incSat CLE_WREFUSED

/-- LB_TAKE: a free port goes to its writer (R523). -/
def effLbTake (req : Req) (port : Fin 4) (s : State) : Out :=
  .next (s.inDomain 15 fun t =>
    if t.get (CLE_LB_STATUS_OWNER port.val) = 0 then t.put (CLE_LB_STATUS_OWNER port.val) (cleWho req) else t.claimDenied 0x3C0000)

/-- LB_TAKE: its effect, where the write reaches CLE_LB_CTRL (R46, R753, R770, R776). -/
def execLbTake (req : Req) (port : Fin 4) (s : State) : Out :=
  s.reachReg req 0x3C0100 (effLbTake req port)

/-- LB_RELEASE: the owner frees the port (R523, R540). -/
def effLbRelease (req : Req) (port : Fin 4) (s : State) : Out :=
  .next (s.inDomain 15 fun t =>
    if t.get (CLE_LB_STATUS_OWNER port.val) = cleWho req then t.put (CLE_LB_STATUS_OWNER port.val) 0 else t.cleRefuse)

/-- LB_RELEASE: its effect, where the write reaches CLE_LB_CTRL (R46, R753, R770, R776). -/
def execLbRelease (req : Req) (port : Fin 4) (s : State) : Out :=
  s.reachReg req 0x3C0100 (effLbRelease req port)

/-- LB_ENABLE: the owner writes EN and L - 1; the schedule, and with it L, is written only while EN is 0 (R523). A port whose EN is
cleared stops. -/
def effLbEnable (req : Req) (port : Fin 4) (data : BitVec 32) (s : State) : Out :=
  let p := port.val
  let d := data.toNat
  .next (s.inDomain 15 fun t =>
    if t.get (CLE_LB_STATUS_OWNER p) ≠ cleWho req then t.cleRefuse
    else
      let t1 := if !t.on (CLE_LB_CTRL_EN p) then t.put (CLE_LB_CTRL_L p) (d % 32)
        else if t.get (CLE_LB_CTRL_L p) ≠ d % 32 then t.cleRefuse else t
      if bits d 5 1 = 1 then t1.put (CLE_LB_CTRL_EN p) 1 else (t1.put (CLE_LB_CTRL_EN p) 0).put (CLE_LB_STATUS_RUN p) 0)

/-- LB_ENABLE: its effect, where the write reaches CLE_LB_CTRL (R46, R753, R770, R776). -/
def execLbEnable (req : Req) (port : Fin 4) (data : BitVec 32) (s : State) : Out :=
  s.reachReg req 0x3C0100 (effLbEnable req port data)

/-- LB_HOST_TX_WRITE: a write of CLE_LBp_HTX marks the host word ready (R520, R521). -/
def effLbHostTxWrite (port : Fin 4) (data : BitVec 32) (s : State) : Out :=
  .next (s.inDomain 15 fun t =>
    let t1 := t.put (CLE_LB_HTX port.val) data.toNat
    { t1 with cle := { t1.cle with htx := insertNat port.val t1.cle.htx } })

/-- LB_HOST_TX_WRITE: its effect, where the write reaches CLE_LB_HTX (R46, R753, R770, R776). -/
def execLbHostTxWrite (port : Fin 4) (data : BitVec 32) (s : State) : Out :=
  s.reachReg .host 0x3C0108 (effLbHostTxWrite port data)

/-- The entry of port p's schedule that serves this frame (R521). -/
def State.lbEntry (s : State) (p : Nat) : Nat := s.cle.frame % (s.get (CLE_LB_CTRL_L p) + 1)

/-- The transaction of entry i of port p with the word received (R518 to R521); a loop in OFF has none (R527), and the ramp generator
writes the entries that it holds (R738). -/
def State.lbTransfer (s : State) (p i rx : Nat) : State :=
  let n := s.get (CLE_LB_SCHED_LOOP p i)
  let len := s.get (CLE_LB_SCHED_LEN p i)
  let w := rx % 2 ^ len
  let spi (t : State) (word : Nat) := t.send (.spi p (s.get (CLE_LB_SCHED_CS p i)) len (word % 2 ^ len))
  match s.get (CLE_LB_SCHED_KIND p i) with
  | 1 =>
    if s.get (CLE_LSTATUS_MODE n) = 0 then s
    else (spi s (s.get (CLE_RDCMD n) + 2 ^ 32 * s.get (CLE_EXT_RDCMDX n))).setLoop n { s.loop n with read := some (w, s.cle.frame) }
  | 2 =>
    if s.get (CLE_LSTATUS_MODE n) = 0 || s.cle.rampLoops.contains n then s
    else
      let code := s.get (CLE_CODE n) % 2 ^ s.get (CLE_WRFMT_WIDTH n)
      let s1 := spi s (s.lbWriteWord n code)
      { s1 with cle := { s1.cle with codes := (32 * p + i, code) :: s1.cle.codes.filter fun e => e.1 != 32 * p + i } }
  | 3 =>
    if s.cle.htx.contains p then
      let s1 := spi s (s.get (CLE_LB_HTX p) + 2 ^ 32 * s.get (CLE_LB_HTXX p))
      let s2 := ((s1.put (CLE_LB_HRX p) w).put (CLE_LB_HRXX p) (w / 2 ^ 32)).inc (CLE_LB_HSEQ p)
      { s2 with cle := { s2.cle with htx := s2.cle.htx.filter (· != p) } }
    else s
  | _ => s

/-- LB_TRANSACTION: at a frame boundary a running port carries its entry's transaction; an enabled one starts at the frame F with
F mod L = 0; a frame carries at most one (R518, R521, R523). -/
def execLbTransaction (port : Fin 4) (rx : BitVec 40) (s : State) : Out :=
  let p := port.val
  let i := s.lbEntry p
  let f := s.cle.frame
  if !s.cleRuns || s.inSafe || !s.on (CLE_LB_CTRL_EN p) || s.lbCarried p f then .next s
  else if s.on (CLE_LB_STATUS_RUN p) then .next ((s.lbCarry p f).lbTransfer p i rx.toNat)
  else if i = 0 then .next (((s.put (CLE_LB_STATUS_RUN p) 1).lbCarry p f).lbTransfer p i rx.toNat)
  else .next s

/-! ## Configuration of a loop (R515 to R520, R543) -/

/-- Loop n is the thermal loop of a tile whose thermal hold is enabled (R534). -/
def State.thermal (s : State) (n : Nat) : Bool := decide (56 ≤ n) && s.on (CLE_TH_CFG_EN (n - 56))

/-- Input source and index of loop n. -/
def State.loopIn (s : State) (n : Nat) : Nat × Nat :=
  if s.thermal n then (1, n - 56) else (s.get (CLE_CFG_INSRC n), s.get (CLE_CFG_INIDX n))

/-- Sink and index of loop n. -/
def State.loopOut (s : State) (n : Nat) : Nat × Nat :=
  if s.thermal n then (3, n - 56) else (s.get (CLE_CFG_SINK n), s.get (CLE_CFG_OUTIDX n))

/-- Entries of port p's schedule of a kind for loop n. -/
def State.entriesFor (s : State) (p kind n : Nat) : List Nat :=
  (List.range (s.get (CLE_LB_CTRL_L p) + 1)).filter fun i =>
    s.get (CLE_LB_SCHED_KIND p i) == kind && s.get (CLE_LB_SCHED_LOOP p i) == n

/-- The port whose schedule gives loop n its period, if it uses the loop bus (R517). -/
def State.loopPort (s : State) (n : Nat) : Option Nat :=
  if (s.loopIn n).1 = 2 then some (s.loopIn n).2 else if (s.loopOut n).1 = 1 then some (s.loopOut n).2 else none

/-- Period and phase of loop n's evaluations (R516, R517). -/
def State.loopTime (s : State) (n : Nat) : Nat × Nat :=
  match s.loopPort n with
  | none => (s.get (CLE_PER n), s.get (CLE_PHASE n))
  | some p =>
    (s.get (CLE_LB_CTRL_L p) + 1,
      if (s.loopIn n).1 = 2 then ((s.entriesFor p 1 n).head?).getD 0 else s.get (CLE_PHASE n))

/-- A source, sink or index that loop n may not name (R534, R543). -/
def State.sinkBad (s : State) (n : Nat) : Bool :=
  let (src, i) := s.loopIn n
  let (snk, o) := s.loopOut n
  decide (src = 3) || (decide (src = 1) && decide (8 ≤ i)) || (decide (src = 2) && decide (4 ≤ i))
    || (decide (snk = 1) && decide (4 ≤ o)) || (decide (snk = 2) && decide (8 ≤ o)) || (decide (snk = 3) && decide (8 ≤ o))
    || (decide (snk = 3) && decide (n < 56))

/-- The schedule breaks R517 or R520 for loop n, or its period and phase break R516. -/
def State.schedBad (s : State) (n : Nat) : Bool :=
  let (src, i) := s.loopIn n
  let (snk, o) := s.loopOut n
  let rd := s.entriesFor i 1 n
  let wr := s.entriesFor o 2 n
  let (per, ph) := s.loopTime n
  decide (per = 0) || decide (per ≤ ph)
    || (decide (src = 2) && (decide (rd.length ≠ 1)
      || decide (s.get (CLE_LB_SCHED_LEN i (rd.headD 0)) < s.get (CLE_RDFMT_LSB n) + s.get (CLE_RDFMT_WIDTH n))))
    || (decide (snk = 1) && (decide (wr.length ≠ 1) || decide (wr.headD 0 = ph)
      || decide (s.get (CLE_LB_SCHED_LEN o (wr.headD 0)) < s.get (CLE_WRFMT_LSB n) + s.get (CLE_WRFMT_WIDTH n))))
    || (decide (src = 2) && decide (snk = 1) && decide (s.get (CLE_LB_CTRL_L i) ≠ s.get (CLE_LB_CTRL_L o)))

/-- Two loops are evaluated in one frame: their phases agree modulo the greatest common divisor of their periods. -/
def together (a b : Nat × Nat) : Bool := a.2 % Nat.gcd a.1 b.1 == b.2 % Nat.gcd a.1 b.1

/-- The largest number of loops of a list that any frame evaluates: pairwise common frames give one common to all. -/
def maxLoad : Nat → List (Nat × Nat) → Nat
  | 0, _ => 0
  | _, [] => 0
  | k + 1, x :: xs => max (maxLoad k xs) (1 + maxLoad k (xs.filter (together x)))

/-- The largest evaluations in a frame with loop n taken out of OFF (R515). -/
def State.loadWith (s : State) (n : Option Nat) : Nat :=
  let l := ((List.range 64).filter fun m => n == some m || s.get (CLE_LSTATUS_MODE m) != 0).map s.loopTime
  maxLoad l.length l

/-- The refusal of a mode change of loop n out of OFF: 0 none, 1 LOAD, 2 SCHED, 4 SINK. -/
def State.modeRefusal (s : State) (n : Nat) : Nat :=
  if s.sinkBad n then 4 else if s.schedBad n then 2 else if 16 < s.loadWith (some n) then 1 else 0

/-- A mode change or an APPLY of loop n is refused with a code (R541). -/
def State.loopRefuse (s : State) (n code : Nat) : State := (s.put (CLE_LSTATUS_CFGERR n) 1).put (CLE_LSTATUS_CODE n) code

/-! ## Modes (R527 to R530) -/

/-- The staging set of loop n. -/
def State.staging (s : State) (n : Nat) : List Int :=
  [CLE_SP n, CLE_KP n, CLE_KI n, CLE_KD n, CLE_OUTMIN n, CLE_OUTMAX n, CLE_MANOUT n].map s.int32

/-- The last output becomes MANOUT (R528). -/
def State.copyOut (s : State) (n : Nat) : State :=
  let s1 := s.put (CLE_MANOUT n) (s.get (CLE_OUT n))
  s1.setLoop n { s1.loop n with eff := (s1.loop n).eff.set 6 (s1.int32 (CLE_OUT n)) }

/-- CTRL.MODE and the mode in force. -/
def State.setMode (s : State) (n mode : Nat) : State := ((s.put (CLE_CTRL_MODE n) mode).put (CLE_LSTATUS_MODE n) mode).heldCheck n

/-- The sink code that loop n applies in the present frame: an evaluation's output applies from the boundary that begins the next frame
(R516). -/
def State.codeInForce (s : State) (n : Nat) : Nat := if s.cle.frame < (s.loop n).done then (s.loop n).codeWas else s.get (CLE_CODE n)

/-- Loop n goes to OFF: its heater is at 0 mW, its PWM land low (R527). The end of a HOLD clears C (R533). -/
def State.loopOff (s : State) (n : Nat) : State :=
  let s0 := if s.get (CLE_LSTATUS_MODE n) = 3 then s.put (CLE_LSTATUS_C n) 0 else s
  let s1 := (s0.setMode n 0).put (CLE_LSTATUS_HCAUSE n) 0
  let noCode (t : State) := (t.setLoop n { t.loop n with codeWas := 0 }).put (CLE_CODE n) 0
  let s2 := match s.loopOut n with
    | (3, t) => (noCode s1).put (CLE_TH_PHTR t) 0
    | (2, _) => noCode s1
    | _ => s1
  s2.put CLE_LOAD (s2.loadWith none)

/-- The ramp generator hands the entries of loop n back: the loop resumes from code T, that is from an output of 0 (R738). -/
def State.handBack (s : State) (n : Nat) : State :=
  if s.cle.rampLoops.contains n then
    let s1 := s.put (CLE_OUT n) 0
    { s1 with cle := { s1.cle with rampLoops := s1.cle.rampLoops.filter (· != n) } }
  else s

/-- Loop n changes from mode old to another mode than OFF and HOLD (R528, R533). -/
def State.enterMode (s : State) (n old mode : Nat) : State :=
  let s1 := s.handBack n
  let l := s1.loop n
  let s2 := if old = 0 then s1.setLoop n { l with first := true, preset := mode == 2, us := [], apply := some (s1.staging n) }
    else if old = 3 && mode = 2 then s1.setLoop n { l with preset := true }
    else if mode = 1 then s1.copyOut n
    else s1
  let s3 := if old = 3 then (s2.put (CLE_LSTATUS_HCAUSE n) 0).put (CLE_LSTATUS_C n) 0 else s2
  s3.setMode n mode

/-- A mode write of loop n (R527, R528, R533, R543). -/
def State.modeWrite (s : State) (n mode : Nat) : State :=
  let old := s.get (CLE_LSTATUS_MODE n)
  if mode = 0 then (s.handBack n).loopOff n
  else if old = mode then s
  else if old = 0 && s.modeRefusal n ≠ 0 then s.loopRefuse n (s.modeRefusal n)
  else
    let s1 := if mode = 3 then
        let t := if old = 0 then s.setLoop n { s.loop n with first := true, us := [], apply := some (s.staging n) } else s
        (t.setMode n 3).put (CLE_LSTATUS_HCAUSE n) 1
      else s.enterMode n old mode
    s1.put CLE_LOAD (s1.loadWith none)

/-- A write to loop n by its owner; any other is refused (R530). -/
def State.loopOwned (s : State) (r : Req) (n : Nat) (k : State → State) : State :=
  s.inDomain 15 fun t => if t.get (CLE_LSTATUS_OWNER n) = cleWho r then k t else t.cleRefuse

/-- LOOP_TAKE (R530). -/
def effLoopTake (req : Req) (loop : Fin 64) (s : State) : Out :=
  .next (s.inDomain 15 fun t =>
    if t.get (CLE_LSTATUS_OWNER loop.val) = 0 then t.put (CLE_LSTATUS_OWNER loop.val) (cleWho req) else t.claimDenied 0x3C0000)

/-- LOOP_TAKE: its effect, where the write reaches CLE_CTRL (R46, R753, R770, R776). -/
def execLoopTake (req : Req) (loop : Fin 64) (s : State) : Out :=
  s.reachReg req 0x3C1000 (effLoopTake req loop)

/-- LOOP_RELEASE: the loop is free and goes to OFF (R530). -/
def effLoopRelease (req : Req) (loop : Fin 64) (s : State) : Out :=
  .next (s.loopOwned req loop.val fun t => ((t.handBack loop.val).loopOff loop.val).put (CLE_LSTATUS_OWNER loop.val) 0)

/-- LOOP_RELEASE: its effect, where the write reaches CLE_CTRL (R46, R753, R770, R776). -/
def execLoopRelease (req : Req) (loop : Fin 64) (s : State) : Out :=
  s.reachReg req 0x3C1000 (effLoopRelease req loop)

/-- LOOP_MODE_WRITE: a mode change, bumpless in every direction, or refused (R528, R543). -/
def effLoopModeWrite (req : Req) (loop : Fin 64) (mode : Fin 4) (s : State) : Out :=
  .next (s.loopOwned req loop.val fun t => t.modeWrite loop.val mode.val)

/-- LOOP_MODE_WRITE: its effect, where the write reaches CLE_CTRL (R46, R753, R770, R776). -/
def execLoopModeWrite (req : Req) (loop : Fin 64) (mode : Fin 4) (s : State) : Out :=
  s.reachReg req 0x3C1000 (effLoopModeWrite req loop mode)

/-- LOOP_APPLY: the staging set is effective at the next evaluation, or the APPLY is refused (R529). -/
def effLoopApply (req : Req) (loop : Fin 64) (bumpless : Bool) (s : State) : Out :=
  let n := loop.val
  .next (s.loopOwned req n fun t =>
    if t.int32 (CLE_OUTMAX n) < t.int32 (CLE_OUTMIN n) then t.loopRefuse n 3
    else t.setLoop n { t.loop n with apply := some (t.staging n), preset := (t.loop n).preset || bumpless })

/-- LOOP_APPLY: its effect, where the write reaches CLE_CTRL (R46, R753, R770, R776). -/
def execLoopApply (req : Req) (loop : Fin 64) (bumpless : Bool) (s : State) : Out :=
  s.reachReg req 0x3C1000 (effLoopApply req loop bumpless)

/-! ## Evaluation (R525 to R533) -/

/-- The tile temperature of CLE_TH_t_TEMP, in 1/128 °C (R787). -/
def State.tileTemp (s : State) (t : Nat) : Int := signedOf 16 (s.get (PMG_TEMP_T (1 + t)))

/-- The raw input of loop n, none while it is invalid (R519, R531). -/
def State.rawInput (s : State) (n : Nat) : Option Int :=
  match s.loopIn n with
  | (0, c) => if s.on (DFC_STATUS_RUN c) && s.get (DFC_FLAGS c) == 0 then some (s.int32 (DFC_OUT c)) else none
  | (1, t) => if s.on (PMG_TEMP_FAULT (1 + t)) then none else some (s.tileTemp t)
  | (2, p) =>
    match (s.loop n).read with
    | none => none
    | some (w, f) =>
      let mask := s.get (CLE_CHKMASK n) + 2 ^ 32 * s.get (CLE_EXT_CHKMASKX n)
      let val := s.get (CLE_CHKVAL n) + 2 ^ 32 * s.get (CLE_EXT_CHKVALX n)
      let v := bits w (s.get (CLE_RDFMT_LSB n)) (s.get (CLE_RDFMT_WIDTH n))
      if s.on (CLE_LB_STATUS_RUN p) && f == s.cle.frame && (w &&& mask) == val then
        some (if s.on (CLE_RDFMT_SIGNED n) then signedOf (s.get (CLE_RDFMT_WIDTH n)) v else (v : Int))
      else none
  | _ => none

/-- The sink's range (R526). -/
def State.satSink (s : State) (n : Nat) (v : Int) : Int :=
  match s.loopOut n with
  | (1, _) => clampI 0 (2 ^ s.get (CLE_WRFMT_WIDTH n) - 1) v
  | (2, k) => clampI 0 (s.get (CLE_PWM_PER k)) v
  | (3, _) => clampI 0 30000 v
  | _ => v

/-- The sink code of an output u (R526). -/
def State.sinkCode (s : State) (n : Nat) (u : Int) : Nat :=
  codeOf 32 (s.satSink n (addS (mulR u (s.int32 (CLE_OUTGAIN n)) 30) (s.int32 (CLE_OUTOFS n))))

/-- The sign-check counter after an evaluation with changes du and s × dpv (R532). -/
def signCount (c : Nat) (du dpv : Int) (dush dpvsh : Nat) : Nat :=
  if decide (du.natAbs < 2 ^ dush) || decide (dpv.natAbs < 2 ^ dpvsh) then c
  else if (0 < du) = (0 < dpv) then c - 1 else min (c + 1) 255

/-- A loop enters HOLD with cause LOST or SIGN (R533). -/
def State.holdFault (s : State) (n cause src : Nat) : State :=
  let s1 := (((s.holdLoop n cause).inc CLE_NHOLD).raise src n 0).raise srcCleHold n 0
  if s.on (CLE_CFG_HTRIP n) then
    s1.manualTrip (s1.channelsOf (s.get (CLE_SITES_LO n) + 2 ^ 32 * s.get (CLE_SITES_HI n)))
  else s1

/-- An evaluation with an invalid input (R531). -/
def State.loopInvalid (s : State) (n : Nat) : State :=
  let s1 := ((s.put (CLE_LSTATUS_INVALID n) 1).inc (CLE_NEVAL n)).inc (CLE_NINVAL n)
  if s.get (CLE_LSTATUS_MODE n) = 3 then s1
  else
    let k := (s.loop n).lost + 1
    if s.get (CLE_CFG_LOSTN n) ≤ k then (s1.setLoop n { s1.loop n with lost := 0 }).holdFault n 3 srcCleLost
    else s1.setLoop n { s1.loop n with lost := k }

/-- An evaluation with a valid raw input (R525 to R529, R532). In HOLD the input is taken and the sign check updated; u and I are
held. -/
def State.loopValid (s : State) (n : Nat) (raw : Int) : State :=
  let mode := s.get (CLE_LSTATUS_MODE n)
  let l0 := s.loop n
  let l := match l0.apply with
    | some e => { l0 with eff := e, apply := none }
    | none => l0
  let decl := signedOf 16 (s.get (CLE_TH_CFG_TDECL (n - 56)))
  let eff := if s.thermal n then l.eff.set 0 decl else l.eff
  let sgn : Int := if s.on (CLE_CFG_DIR n) then -1 else 1
  let pv := mulR (subS raw (s.int32 (CLE_INOFS n))) (s.int32 (CLE_INGAIN n)) 16
  let prev := if l.first then pv else l.pvPrev
  let d0 := if l.first then 0 else l.d
  let e := sat32 (sgn * subS (eff.getD 0 0) pv)
  let p := mulR (eff.getD 1 0) e 24
  let dpv := sat32 (sgn * subS pv prev)
  let d := addS d0 (mulR (subS (sat32 (-(mulR (eff.getD 3 0) dpv 24))) d0) 1 (s.get (CLE_CFG_DSH n)))
  let lo := eff.getD 4 0
  let hi := eff.getD 5 0
  let man := eff.getD 6 0
  let uOld := s.int32 (CLE_OUT n)
  let i0 := if l.preset then subS (subS (if l.first then man else uOld) p) d else s.int32 (CLE_I n)
  let inc := mulR (eff.getD 2 0) e 24
  let v := addS (addS p i0) d
  let iAuto := if (decide (hi < v) && decide (0 < inc)) || (decide (v < lo) && decide (inc < 0)) then i0
    else clampI lo hi (addS i0 inc)
  let u := if mode = 2 then clampI lo hi (addS (addS p iAuto) d) else if mode = 1 then clampI lo hi man else uOld
  let i := if mode = 2 then iAuto else if mode = 1 then subS (subS u p) d else s.int32 (CLE_I n)
  let lag := s.get (CLE_SCCFG_LAG n)
  let du := match l.us[lag]?, l.us[lag + 1]? with
    | some a, some b => a - b
    | _, _ => 0
  let c := if s.on (CLE_CFG_SIGNCHK n) && decide (2 ≤ mode) then
      signCount (s.get (CLE_LSTATUS_C n)) du dpv (s.get (CLE_SCCFG_DUSH n)) (s.get (CLE_SCCFG_DPVSH n))
    else s.get (CLE_LSTATUS_C n)
  let sp := if s.thermal n then s.put (CLE_SP n) (codeOf 32 decl) else s
  let s1 := ((((sp.put (CLE_PV n) (codeOf 32 pv)).put (CLE_OUT n) (codeOf 32 u)).put (CLE_I n) (codeOf 32 i)).inc (CLE_NEVAL n)).put
    (CLE_LSTATUS_INVALID n) 0
  let s2 := ((s1.flag (CLE_LSTATUS_SATHI n) (u = hi)).flag (CLE_LSTATUS_SATLO n) (u = lo)).put (CLE_LSTATUS_C n) c
  let s3 := s2.put (CLE_CODE n) (s2.sinkCode n u)
  let l1 := { l with d := if mode = 3 then d0 else d, pvPrev := pv, first := false, preset := l.preset && mode == 3, eff := eff
                     lost := 0, us := (u :: l.us).take 18 }
  let s4 := s3.setLoop n l1
  if mode = 2 && s.on (CLE_CFG_SIGNCHK n) && decide (s.get (CLE_SCCFG_SCN n) ≤ c) then s4.holdFault n 2 srcCleSign else s4

/-- Loop n takes its evaluation of this frame: the sink code that stands until the frame ends is kept (R516). -/
def State.evalFrame (s : State) (n : Nat) : State :=
  s.setLoop n { s.loop n with codeWas := s.codeInForce n, done := s.cle.frame + 1 }

/-- LOOP_EVALUATE: loop n evaluates in its frame, once (R516, R517, R525). -/
def execLoopEvaluate (loop : Fin 64) (s : State) : Out :=
  let n := loop.val
  let (per, ph) := s.loopTime n
  if !s.cleRuns || s.get (CLE_LSTATUS_MODE n) = 0 || decide (s.cle.frame < (s.loop n).done)
      || decide ((s.cle.frame + per - ph) % per ≠ 0) then .next s
  else
    match s.rawInput n with
    | none => .next ((s.evalFrame n).loopInvalid n)
    | some raw => .next ((s.evalFrame n).loopValid n raw)

/-! ## Thermal hold (R534, R535) -/

/-- The tile lies within k/128 K of TDECL, its sensor being sound. -/
def State.nearDecl (s : State) (t k : Nat) : Bool :=
  !s.on (PMG_TEMP_FAULT (1 + t)) && decide ((s.tileTemp t - signedOf 16 (s.get (CLE_TH_CFG_TDECL t))).natAbs ≤ k)

/-- INBAND and HELD of tile t as they stand; a fall of HELD is a drift (R535). -/
def State.thermalStatus (s : State) (t : Nat) : State :=
  let en := s.on (CLE_TH_CFG_EN t)
  let held := en && s.get (CLE_LSTATUS_MODE (56 + t)) == 2 && s.nearDecl t 192
  let near := en && s.nearDecl t 64
  let s1 := s.flag (CLE_TH_STATUS_INBAND t) near
  let rest := s.cle.inband.filter fun e => e.1 != t
  let s2 : State := { s1 with cle := { s1.cle with
    inband := if !near then rest else if s.cle.inband.any (fun e => e.1 == t) then s.cle.inband else (t, s.time.rc) :: s.cle.inband } }
  let s3 := if en && !near then s2.put CLE_STATUS_TSETTLED 0 else s2
  if held then s3.put (CLE_TH_STATUS_HELD t) 1 else s3.heldEnd t

/-- The power of tile t's heater while its hold is off: the code of the thermal loop that names it and is out of OFF (R526, R527). -/
def State.heaterCode (s : State) (t : Nat) : Nat :=
  match (List.range' 56 8).find? fun n => s.get (CLE_LSTATUS_MODE n) != 0 && s.loopOut n == (3, t) with
  | some n => s.codeInForce n
  | none => 0

/-- THERMAL_FRAME: in a frame the heater of a tile takes PDECL less the tile's power plus the loop's code, within 0 to 30,000 mW, while
the hold of the tile is enabled (R534), and otherwise the code of a loop that names it (R526). -/
def execThermalFrame (tile : Fin 8) (ptile : BitVec 32) (s : State) : Out :=
  let t := tile.val
  let en := s.on (CLE_TH_CFG_EN t)
  if !s.cleRuns then .next s
  else
    let c : Int := signedOf 32 (s.codeInForce (56 + t))
    let ph := if !en then s.heaterCode t
      else if s.get (CLE_LSTATUS_MODE (56 + t)) = 0 then 0
      else (clampI 0 30000 ((s.get (CLE_TH_PDECL t) : Int) - (ptile.toNat : Int) + c)).toNat
    let s1 := ((s.put (CLE_TH_PTILE t) ptile.toNat).put (CLE_TH_PHTR t) ph).flag (CLE_TH_STATUS_HSAT t) (en && (ph == 0 || ph == 30000))
    .next (s1.thermalStatus t)

/-- TEMP_SETTLED: every enabled tile has held INBAND for 1.000 s (R535). -/
def execTempSettled (s : State) : Out :=
  let on := (List.range 8).filter fun t => s.on (CLE_TH_CFG_EN t)
  let settled (t : Nat) : Bool := s.on (CLE_TH_STATUS_INBAND t) && s.cle.inband.any fun e => e.1 == t && decide (e.2 + 100000000 ≤ s.time.rc)
  if on.isEmpty || !(on.all settled) || s.on CLE_STATUS_TSETTLED then .next s
  else .next ((s.put CLE_STATUS_TSETTLED 1).event srcTempSettled)

/-! ## The coarse loop of the time-interval units (R439, R450) -/

/-- COARSE_LOOP_UNLOCK: TIU_COARSE clears and every measurement ends with END CLOCK. -/
def execCoarseLoopUnlock (s : State) : Out := .next ((s.put TIU_COARSE_LOCK 0).tiuEndAll 4)

/-- COARSE_LOOP_LOCK. -/
def execCoarseLoopLock (s : State) : Out := .next (s.put TIU_COARSE_LOCK 1)

end Sys2Proof.Machine
end

