-- ==== Sys2Proof/Machine/Clock.lean ====
section
/-! DEFINITION. The reference (R114 to R120), relocks and the VCLK gate (R121 to R128, R347), forming, starting and joining a group
(R129 to R145), what breaks its alignment (R136, R137, R142), the thaw (R759), and the entry of BUDDING (R671, R782, R803). -/

namespace Sys2Proof.Machine

/-! ## States that follow the clock -/

/-- The device enters BUDDING from START once HBM is in service and the gate is open (R782, R803). -/
def State.toBudding (s : State) : State :=
  if s.get PMG_STATUS_STATE = 0 && s.gateOpen && s.on HBC_STATUS_INSERVICE then s.enterState 2 else s

/-- HBC_INSERVICE_SET: firmware takes HBM into service, or is refused while a stack is untrained; a host write is discarded (R671,
R672, R803). -/
def effHbcInserviceSet (req : Req) (trained : Bool) (s : State) : Out :=
  if req = Req.host then .next s
  else if !trained then .next (s.put HBC_STATUS_RETREF 1)
  else .next (((s.put HBC_CTRL_INSERVICE 1).put HBC_STATUS_INSERVICE 1).startCycles.toBudding)

/-- HBC_INSERVICE_SET: its effect, where the write reaches HBC_CTRL (R46, R753, R770, R776). -/
def execHbcInserviceSet (req : Req) (trained : Bool) (s : State) : Out :=
  s.reachReg req 0x500000 (effHbcInserviceSet req trained)

/-! ## Relocks (R121 to R127, R347) -/

/-- The setting that CLK_VCLK_CFG and CLK_VCLK_FRAC name, valid or not (R122, R153). -/
def State.cfgSetting (s : State) : VSet :=
  ⟨s.get CLK_VCLK_CFG_N, s.get CLK_VCLK_FRAC, divOf (s.get CLK_VCLK_CFG_DIV), s.get CLK_VCLK_CFG_UIPV⟩

/-- A relock to a setting begins: the gate closes, the setting is loaded, every entry is revalidated, and vector phases begin anew
(R123, R128, R347); an invalid setting is refused with CFGERR (R122). R123 says that a relock caused by lost lock is never refused; that
R122 holds for it too while the registers hold an invalid setting is the model's reading (DEDUCED, log entry 104). -/
def State.startRelock (s : State) (v : VSet) : State :=
  if !v.valid then s.put CLK_STATUS_CFGERR 1
  else
    let s1 := (s.closeGate.put CLK_STATUS_LOCKED 0).put CLK_STATUS_CFGERR 0
    let s2 := (s1.put PTF_STATUS_REVAL 1).put LVL_STATUS_REVAL 1
    { s2 with clk := { s2.clk with vset := v, relocking := true, phase := 0 } }

/-- A join is pending, at the root that sent its message or at the joining device: CLK_GRP_STATUS.JOINPEND (R144, R155). -/
def State.joinPending (s : State) : Bool :=
  (match s.clk.joinUntil with
  | some t => decide (s.clk.epoch < t)
  | none => false) || (s.clk.startMsg.isSome && !s.on CLK_GRP_STATUS_STARTPEND)

/-- A start or join is pending (R123, R138, R145). -/
def State.startPending (s : State) : Bool := s.joinPending || s.clk.startMsg.isSome

/-- RELOCK: a host relock, refused while a playlist runs or a start or join is pending (R123). -/
def effRelock (s : State) : Out :=
  if s.seq.running.isSome || s.startPending then .next (s.put CLK_STATUS_RLREF 1)
  else .next ((s.put CLK_STATUS_RLREF 0).startRelock s.cfgSetting)

/-- RELOCK: its effect, where the write reaches CLK_CTRL (R46, R753, R770, R776). -/
def execRelock (s : State) : Out :=
  s.reachReg .host 0x20000 effRelock

/-- Every entry has been revalidated: the flag of an active entry is 0 only if it fails a test at the new setting or its check code (R347,
R371, R823). -/
def State.revalidated (s : State) (bad : List Nat) : State :=
  let s1 := (s.put PTF_STATUS_REVAL 0).put LVL_STATUS_REVAL 0
  { s1 with cmt := { s1.cmt with flagCleared := bad } }

/-- REVAL_DONE: the revalidation of a relock ends (R347, R371): badTs and badLs are active timing-set and level-set entries, by BAR0 offset,
that fail their check code at it. -/
def execRevalDone (badTs badLs : List (BitVec 28)) (s : State) : Out :=
  if s.on PTF_STATUS_REVAL then .next (s.revalidated (offs badTs ++ offs badLs)) else .next s

/-- VCLK_UNLOCK: a comparison outside ±200 ps (R124): the gate closes and, while REFCLK is there, a relock begins. -/
def execVclkUnlock (s : State) : Out :=
  if !s.on CLK_STATUS_LOCKED then .next s
  else
    let s1 := ((s.closeGate.put CLK_STATUS_LOCKED 0).put CLK_STATUS_UNLOCKED 1).event srcVclkUnlock
    .next (if s1.on CLK_STATUS_REFLOST then { s1 with clk := { s1.clk with relocking := false } } else s1.startRelock s1.cfgSetting)

/-- A relock has held its lock: LOCKED, the count, and the stream rates judged again (R125, R277); the revalidation always ends before (R347).
-/
def State.relocked (s : State) : State :=
  let s0 := if s.on PTF_STATUS_REVAL then s.revalidated [] else s
  let s1 := ((s0.put CLK_STATUS_LOCKED 1).inc CLK_NRELOCK).strRecheck
  { s1 with clk := { s1.clk with relocking := false } }

/-- GATE_OPEN: lock has held for 4,096 rc; the gate opens, unless CLK_CTRL.HOLD keeps it closed, at a VCLK rising edge with the GVC
that it held (R125, R151). A gate that waits for a group start opens under R139. -/
def execGateOpen (s : State) : Out :=
  if s.gateOpen || s.clk.startMsg.isSome || s.frozen || s.on CLK_STATUS_REFLOST || !(s.clk.relocking || s.on CLK_STATUS_LOCKED) then
    .next s
  else
    let s1 := if s.clk.relocking then s.relocked else s
    .next (if s1.on CLK_CTRL_HOLD then s1 else (s1.openGate (s1.clk.gvc + 1)).toBudding)

/-- GATE_HOLD: CLK_CTRL.HOLD (R151). -/
def effGateHold (hold : Bool) (s : State) : Out :=
  let s1 := s.flag CLK_CTRL_HOLD hold
  .next (if hold then s1.closeGate else s1)

/-- GATE_HOLD: its effect, where the write reaches CLK_CTRL (R46, R753, R770, R776). -/
def execGateHold (hold : Bool) (s : State) : Out :=
  s.reachReg .host 0x20000 (effGateHold hold)

/-! ## The reference and the oven (R115 to R119) -/

/-- A running entry is at its timing calibration, or comes to it: that of a graft runs from 100 µs to 1.700 ms (R546, R548, R564). -/
def State.timingPhase (s : State) (e : CalEntry) : Bool :=
  e.kind == 1 || (e.kind == 4 && decide (s.time.rc < e.began + 170000))

/-- REF_LOSS: REFCLK is declared lost (R116): measurements end with CLOCK, calibrations of their units end without a table (R448), and timing
calibrations with REFBAD (R439, R546). -/
def execRefLoss (s : State) : Out :=
  if s.on CLK_STATUS_REFLOST then .next s
  else
    let s1 := (((s.put CLK_STATUS_REFLOST 1).put CLK_STATUS_AOSRC 1).closeGate.put CLK_STATUS_LOCKED 0).tiuEndAll 4
    let s1 := s1.tiuCalDrop
    let s2 : State := { s1 with
      clk := { s1.clk with relocking := false }
      cal := { s1.cal with running := s1.cal.running.map fun e => { e with refbad := e.refbad || s1.timingPhase e } } }
    .next ((s2.setCond srcRefLoss true).event srcRefLoss)

/-- REF_BACK: REFCLK is qualified (R115, R117). The first time after a reset it is no return. A graft still in its first 100 µs begins its
timing calibration with REFCLK good (R546, R564). -/
def execRefBack (s : State) : Out :=
  if !s.on CLK_STATUS_REFLOST then .next s
  else
    let keep (e : CalEntry) : CalEntry := if e.kind == 4 && decide (s.time.rc < e.began + 10000) then { e with refbad := false } else e
    let s0 : State := { s with cal := { s.cal with running := s.cal.running.map keep } }
    let s1 := ((s0.put CLK_STATUS_REFLOST 0).put CLK_STATUS_AOSRC 0).setCond srcRefLoss false
    let s2 : State := { s1 with clk := { s1.clk with refSeen := true } }
    if !s.clk.refSeen then .next s2
    else
      let s3 := s2.event srcRefBack
      .next (if s3.on CLK_CTRL_AUTORELOCK then s3.startRelock s3.cfgSetting else s3)

/-- OVEN_OK_RISE: an accepted rise of OVEN_OK begins the warm-up count (R118). -/
def execOvenOkRise (s : State) : Out :=
  if s.on CLK_STATUS_OVEN then .next s
  else
    let s1 := (s.put CLK_STATUS_OVEN 1).put CLK_WARM_S 0
    .next { s1 with clk := { s1.clk with ovenRc := 0 } }

/-- WARMUP_DONE: OVEN_OK has been high for CLK_WARMUP seconds (R118). -/
def execWarmupDone (s : State) : Out :=
  if s.on CLK_STATUS_OVEN then .next ((s.put CLK_STATUS_WARM 0).put CLK_WARM_S (max (s.get CLK_WARM_S) (s.get CLK_WARMUP))) else .next s

/-- OVEN_LOW: an accepted fall of OVEN_OK (R119). -/
def execOvenLow (s : State) : Out :=
  if !s.on CLK_STATUS_OVEN then .next s
  else
    let s1 := (((s.put CLK_STATUS_OVEN 0).put CLK_STATUS_WARM 1).put CLK_WARM_S 0).event srcOvenLow
    .next { s1 with clk := { s1.clk with ovenRc := 0 } }

/-! ## Forming a group (R129 to R134, R141) -/

/-- The device is its own root with H = 0 (R132, R134). -/
def State.ownRoot (s : State) : State :=
  ((((s.put CMT_HOPS 0).put CLK_DEPTH_D 0).put CLK_DEPTH_UP 0xF).put CLK_DEPTH_DOWN 0).put CMT_STATUS_ROOT 1

/-- The old group is dissolved on this device: its gate closes where the group had started, and from that moment the device is its own
root (R67, R129). -/
def State.dissolve (s : State) : State :=
  (if s.on CLK_GRP_STATUS_STARTED then (s.closeGate).put CLK_GRP_STATUS_STARTED 0 else s).ownRoot

/-- FORM: this device is to be the root, or the request is refused (R129, R130). -/
def effForm (s : State) : Out :=
  if s.on CLK_GRP_STATUS_FORMING || (s.on CLK_GRP_STATUS_STARTED && !s.on CLK_GRP_CTRL_FORCE) then .next (s.put CLK_GRP_STATUS_FAIL 3)
  else
    let s1 := ((s.dissolve.put CLK_GRP_STATUS_FORMING 1).put CLK_GRP_STATUS_FORMED 0).send (.discovery 1)
    .next { s1 with clk := { s1.clk with formRoot := true, place := none } }

/-- FORM: its effect, where the write reaches CLK_GRP_CTRL (R46, R753, R770, R776). -/
def execForm (s : State) : Out :=
  s.reachReg .host 0x20020 effForm

/-- DISCOVERY_RECEIVE: the first discovery gives the device its place in the tree; beyond depth 8, or beyond the 8,192nd device of the
tree in breadth-first order, it is left out (R129, R130, R132). beyond: the devices that come before it number 8,192. -/
def execDiscoveryReceive (port : Fin 4) (depth : Fin 16) (beyond : Bool) (s : State) : Out :=
  if s.on CLK_GRP_STATUS_FORMING then .next s
  else
    let s1 := s.dissolve.put CLK_GRP_STATUS_FORMED 0
    if beyond || 8 < depth.val then .next s1
    else
      let s2 := (s1.put CLK_GRP_STATUS_FORMING 1).send (.discovery (depth.val + 1))
      .next { s2 with clk := { s2.clk with formRoot := false, place := some (port.val, depth.val) } }

/-- LINK_MEASURE: the raw latency of a link in 1/16 rc; at most 56 rc makes it a tree link (R131). -/
def execLinkMeasure (port : Fin 4) (raw : BitVec 16) (s : State) : Out :=
  let p := port.val
  let ok := decide (raw.toNat ≤ 896)
  let s1 := ((s.put (CLK_HOPLAT_RAW p) raw.toNat).flag (CLK_HOPLAT_TREE p) ok).flag (CLK_HOPLAT_TOOLONG p) (!ok)
  match s1.clk.place with
  | some (q, _) =>
    if q = p && !ok then
      let s2 := s1.put CLK_GRP_STATUS_FORMING 0
      .next { s2 with clk := { s2.clk with place := none } }
    else .next s1
  | none => .next s1

/-- The lowest ID that a list does not hold (R133). -/
def lowestFree (taken : List Nat) : Nat :=
  ((List.range (taken.length + 1)).find? fun n => !taken.contains n).getD taken.length

/-- ID_ASSIGN_RECEIVE: the stored ID, or the lowest free one (R133). taken: the stored IDs of the members, and the IDs that the members
before this one in breadth-first order have been given; the message goes on with this one added. -/
def execIdAssignReceive (taken : List (BitVec 13)) (s : State) : Out :=
  let used := taken.map (·.toNat)
  let id := if s.on CLK_ID_REQ_VALID then s.get CLK_ID_REQ_ID else lowestFree used
  .next ((s.put CLK_DEVID id).send (.idsTaken (insertNat id used)))

/-- H_RECEIVE: H is distributed, and the device takes its place (R130); down: the ports that have become downstream tree links. -/
def execHReceive (h : Fin 9) (down : BitVec 4) (s : State) : Out :=
  let s1 := (s.put CMT_HOPS h.val).put CLK_DEPTH_DOWN down.toNat
  let s2 := match s.clk.place with
    | some (p, d) => ((s1.put CLK_DEPTH_UP p).put CLK_DEPTH_D d).put CMT_STATUS_ROOT 0
    | none => ((s1.put CLK_DEPTH_UP 0xF).put CLK_DEPTH_D 0).put CMT_STATUS_ROOT 1
  .next (if down.toNat = 0 then s2 else s2.send (.hDepth h.val))

/-- GC_PATH_PROBE: the probes have measured M (R141). -/
def execGcPathProbe (m : BitVec 16) (s : State) : Out := .next (s.put CLK_GC_PATH m.toNat)

/-- DET on the ports that are tree links (R691). -/
def State.setDet (s : State) : State :=
  (List.range 4).foldl (fun t p => t.flag (LNK_AZ_STATUS_DET p) (s.get CLK_DEPTH_UP == p || bitAt (s.get CLK_DEPTH_DOWN) p)) s

/-- LNK_ROUTE from the members of the tree, each with the port toward it; every other byte is invalid (R698, R715). -/
def State.setRoutes (s : State) (routes : List (BitVec 13 × Fin 4)) : State :=
  let clear := (List.range 2048).foldl (fun t i => t.put (LNK_ROUTE i) 0) s
  routes.foldl (fun t r =>
    let n := r.1.toNat
    let sh := 8 * (n % 4)
    let w := t.get (LNK_ROUTE (n / 4))
    t.put (LNK_ROUTE (n / 4)) (w - bits w sh 8 * 2 ^ sh + (0x80 + r.2.val) * 2 ^ sh)) clear

/-- FORMATION_DONE: formation ends (R130, R132, R134, R141); a failed one leaves every device its own root. size and leftOut are
known at the root, and so is the failure, of which its message tells the others by conflict. DET and LNK_ROUTE follow the tree
(R691, R698). -/
def execFormationDone (conflict : Bool) (size leftOut : BitVec 14) (routes : List (BitVec 13 × Fin 4)) (s : State) : Out :=
  if !s.on CLK_GRP_STATUS_FORMING then .next s
  else
    let badPath := decide (s.get CLK_GC_PATH ≠ 128 * s.get CMT_HOPS + 16)
    let s1 : State := { s.put CLK_GRP_STATUS_FORMING 0 with clk := { s.clk with formRoot := false, place := none } }
    let tell (t : State) (f : Bool) := if s.on CLK_DEPTH_DOWN then t.send (.formDone f) else t
    let failed (t : State) := (t.ownRoot.setDet).setRoutes []
    let formed (t : State) := t.setDet.setRoutes routes
    if !s.clk.formRoot then .next (if conflict then failed s1 else formed (tell s1 false))
    else if conflict then .next (failed (tell (s1.put CLK_GRP_STATUS_FAIL 1) true))
    else if badPath then .next (failed (tell (s1.put CLK_GRP_STATUS_FAIL 2) true))
    else .next (formed (tell (((s1.put CLK_GRP_STATUS_FORMED 1).put CLK_GRP_SIZE size.toNat).put CLK_GRP_LEFTOUT leftOut.toNat) false))

/-! ## Starting the group (R138 to R140) -/

/-- A member acts on a start or a join that is lead rc away: it closes its gate, so that the playlist stops, and loads the settings
into its registers and its VCLK (R121, R123, R139). With an invalid setting its lock never holds, so it is unlocked until a later relock
(R122, R140). -/
def State.takeStart (s : State) (lead epoch gvc cfg frac : Nat) : State :=
  let v := vsetOf cfg frac
  let s0 := ((s.closeGate.put CLK_VCLK_CFG_N (bits cfg 0 8)).put CLK_VCLK_CFG_DIV (bits cfg 11 3)).put CLK_VCLK_CFG_UIPV (bits cfg 14 2)
  let s1 := ((s0.put CLK_VCLK_FRAC frac).put CLK_STATUS_LOCKED 0).startRelock v
  { s1 with clk := { s1.clk with startMsg := some ⟨s.time.rc + lead, epoch, gvc, v.valid⟩ } }

/-- CLK_VCLK_CFG as a word. -/
def State.vclkCfg (s : State) : Nat :=
  s.get CLK_VCLK_CFG_UIPV * 2 ^ 14 + s.get CLK_VCLK_CFG_DIV * 2 ^ 11 + s.get CLK_VCLK_CFG_N

/-- The start of the group at the root, or its refusal (R138, R139). A start message carries the rc from its arrival, one hop of 64 rc
on, to ts. -/
def State.groupStart (s : State) : State :=
  if !s.on CLK_GRP_STATUS_FORMED || s.startPending || s.frozen || s.inSafe then s.put CLK_GRP_STATUS_FAIL 4
  else
    let lead := 64 * s.get CMT_HOPS + 64
    let gvc := s.get64 CLK_START_GVC_LO CLK_START_GVC_HI
    let s1 := if s.on CLK_DEPTH_DOWN then s.send (.start (lead - 64) gvc s.vclkCfg (s.get CLK_VCLK_FRAC)) else s
    ((s1.put CLK_GRP_STATUS_STARTPEND 1).put CLK_GRP_NOSYNC 0).takeStart lead 0 gvc s.vclkCfg (s.get CLK_VCLK_FRAC)

/-- GROUP_START: CLK_GRP_CTRL.START (R138). -/
def effGroupStart (s : State) : Out := .next s.groupStart

/-- GROUP_START: its effect, where the write reaches CLK_GRP_CTRL (R46, R753, R770, R776). -/
def execGroupStart (s : State) : Out :=
  s.reachReg .host 0x20020 effGroupStart

/-- SYNC_IN_START: SYNC_IN high on 4 REFCLK edges with SYNCIN_EN at the root (R138). -/
def execSyncInStart (s : State) : Out :=
  if s.on CLK_GRP_CTRL_SYNCIN_EN && s.on CMT_STATUS_ROOT then .next s.groupStart else .next s

/-- START_RECEIVE: the start message, lead rc before ts; it goes on downstream, one hop nearer (R139). -/
def execStartReceive (lead : BitVec 16) (gvc : Gvc) (cfg frac : BitVec 32) (s : State) : Out :=
  if s.frozen || s.on CMT_STATUS_ROOT then .next s
  else
    let s1 := if s.on CLK_DEPTH_DOWN then s.send (.start (lead.toNat - 64) gvc.toNat cfg.toNat frac.toNat) else s
    .next ((s1.put CLK_GRP_STATUS_STARTPEND 1).takeStart lead.toNat 0 gvc.toNat cfg.toNat frac.toNat)

/-- The dividers are reset at the rc of a start or join: CLK_EPOCH takes its value, and SYNC_OUT is high for 4 rc (R139, R144). -/
def State.resetDividers (s : State) (m : StartMsg) : State :=
  let s1 := s.waitRc m.ts
  { s1 with clk := { s1.clk with epoch := m.epoch, counting := true, phase := 0 }, pins := { s1.pins with syncUntil := s1.time.rc + 4 } }

/-- START_DIVIDER_RESET: rc ts of a start (R139). -/
def execStartDividerReset (s : State) : Out :=
  match s.clk.startMsg with
  | some m => if s.on CLK_GRP_STATUS_STARTPEND then .next (s.resetDividers m) else .next s
  | none => .next s

/-- The gate of a start or join opens, with the vector cycle that carries its GVC, at the first VCLK rising edge 16,384 rc or more
after the divider reset, which is vector k after it (R139, R140, R143). Where the lock has not held, it stays closed. CLK_CTRL.HOLD keeps
it closed too (R151); the manual does not say what a start or a join is then: here the member is locked, its gate closed, and it is out of
sync (DESIGN CHOICE, log entry 105). -/
def State.openInSync (s : State) (m : StartMsg) (lockHeld : Bool) : State :=
  let v := s.clk.vset
  let s0 : State := { s with clk := { s.clk with startMsg := none } }
  if !lockHeld || !m.good || s.on CLK_STATUS_REFLOST then
    let s1 : State := { s0.waitRc (m.ts + 16384) with clk := { (s0.waitRc (m.ts + 16384)).clk with relocking := false } }
    let s2 := (s1.put CLK_GRP_STATUS_STARTED 1).event srcSyncFail
    if s2.on CMT_STATUS_ROOT then s2.inc CLK_GRP_NOSYNC else s2.send .syncFail
  else
    let k := ceilDiv (16384 * v.num) v.den
    let at_ := k * v.den
    let s1 := (s0.waitRc (m.ts + at_ / v.num)).relocked
    let s2 : State := { s1 with clk := { s1.clk with gvc := m.gvc, epoch := m.epoch + at_ / v.num, phase := at_ % v.num } }
    if s2.on CLK_CTRL_HOLD then s2.put CLK_GRP_STATUS_STARTED 1
    else
      let s3 := ((s2.openGate m.gvc).put CMT_STATUS_INSYNC 1).put CLK_GRP_STATUS_STARTED 1
      let s4 : State := { s3 with clk := { s3.clk with syncFrom := m.gvc } }
      (s4.setCond srcTrellisDown false).toBudding

/-- GROUP_GATE_OPEN: ts + 16,384 rc (R139, R140); nosync: members that have reported a failure to the root. -/
def execGroupGateOpen (lockHeld : Bool) (nosync : BitVec 14) (s : State) : Out :=
  match s.clk.startMsg with
  | none => .next s
  | some m =>
    if !s.on CLK_GRP_STATUS_STARTPEND then .next s
    else
      let s1 := if s.on CMT_STATUS_ROOT then s.put CLK_GRP_NOSYNC nosync.toNat else s
      .next ((s1.put CLK_GRP_STATUS_STARTPEND 0).openInSync m lockHeld)

/-! ## Joining (R143 to R145) -/

/-- The exponent k of a power of two. -/
def log2Exact (a : Nat) : Nat := Nat.log2 a

/-- A = 2^k in rc (R143). -/
def VSet.align (v : VSet) : Nat := v.den / Nat.gcd v.num v.den

/-- CLK_ALIGN (R143). -/
def State.alignK (s : State) : Nat := log2Exact s.clk.vset.align

/-- The GVC of the first vector cycle that begins at or after rc t of CLK_EPOCH. -/
def State.gvcFrom (s : State) (t : Nat) : Nat :=
  let p : Int := s.clk.vset.num
  let d : Int := s.clk.vset.den
  let need : Int := ((t : Int) - s.clk.epoch) * p - s.clk.phase
  ((s.clk.gvc : Int) + -(-need / d)).toNat

/-- JOIN: the root picks tj and sends the join message, or refuses; inSync: the named device is a member in sync; tooDeep: its path
to the root would exceed H (R144, R145). That a device which is no root, or a root that is itself out of sync, refuses too is the model's
choice (DESIGN CHOICE, log entry 51). -/
def effJoin (inSync tooDeep : Bool) (s : State) : Out :=
  if inSync || tooDeep || s.startPending || !s.on CMT_STATUS_ROOT || !s.insync then .next (s.put CLK_GRP_STATUS_FAIL 5)
  else
    let a := s.clk.vset.align
    let tj := ceilDiv (s.clk.epoch + 64 * s.get CMT_HOPS + 64) a * a
    let s1 := s.send (.join (s.get CLK_JOIN) (tj - s.clk.epoch - 64) tj (s.gvcFrom (tj + 16384)) s.vclkCfg (s.get CLK_VCLK_FRAC))
    .next { s1 with clk := { s1.clk with joinUntil := some (tj + 16384) } }

/-- JOIN: its effect, where the write reaches CLK_GRP_CTRL (R46, R753, R770, R776). -/
def execJoin (inSync tooDeep : Bool) (s : State) : Out :=
  s.reachReg .host 0x20020 (effJoin inSync tooDeep)

/-- JOIN_RECEIVE: the join message, lead rc before tj, with the CLK_EPOCH of tj (R144). -/
def execJoinReceive (lead : BitVec 64) (epoch : BitVec 64) (gvc : Gvc) (cfg frac : BitVec 32) (s : State) : Out :=
  if s.frozen || s.insync then .next s
  else .next (s.takeStart lead.toNat epoch.toNat gvc.toNat cfg.toNat frac.toNat)

/-- JOIN_ALIGN: the divider reset at tj and the opening of the gate in sync (R144); at the root the join ends, and one that the joining
device has reported as failed is counted (R140). -/
def execJoinAlign (lockHeld : Bool) (s : State) : Out :=
  match s.clk.startMsg with
  | none =>
    if s.clk.joinUntil.all fun t => decide (s.clk.epoch < t) then .next s
    else .next { if lockHeld then s else s.inc CLK_GRP_NOSYNC with clk := { s.clk with joinUntil := none } }
  | some m =>
    if s.on CLK_GRP_STATUS_STARTPEND then .next s
    else .next ((s.resetDividers m).openInSync m lockHeld)

/-! ## Losing alignment (R136, R137, R142) -/

/-- The downstream device of a slipped hop (R136, R695). -/
def State.hopSlip (s : State) : State :=
  ((s.put CLK_STATUS_SLIP 1).inc CLK_NSLIP).loseInsync.raise srcHopSlip (s.get CLK_DEPTH_UP) 0

/-- HOP_SLIP: at the downstream device of the hop, or above this device (R136). -/
def execHopSlip (here : Bool) (s : State) : Out := .next (if here then s.hopSlip else s.loseInsync)

/-- TRELLIS_DOWN: the upstream tree link of this device, or one above it, carries no timing words (R137). -/
def execTrellisDown (here : Bool) (s : State) : Out :=
  if here && s.get CLK_DEPTH_UP = 0xF then .next s
  else .next ((s.loseInsync.setCond srcTrellisDown true).raise srcTrellisDown (s.get CLK_DEPTH_UP) 0)

/-- SYNC_SKEW: the rc of a SYNC_IN pulse less ts, on a checking device that is not the root (R142). -/
def execSyncSkew (skew : BitVec 16) (s : State) : Out :=
  if s.on CMT_STATUS_ROOT || !s.on CLK_SYNC_CFG_CHK then .next s
  else
    let s1 := s.put CLK_SYNC_SKEW skew.toNat
    if s.get CLK_SYNC_CFG_EXPECT = skew.toNat then .next s1
    else .next ((s1.put CLK_STATUS_SYNCSKEW 1).event srcSyncSkew)

/-! ## Thaw (R759) -/

/-- FRZ_THAW: a soft Frost ends, or the request is refused (R759); a hard request of the same rc prevails and stops the clocks again (R760). -/
def effFrzThaw (s : State) : Out :=
  if s.get FRZ_STATUS_STATE ≠ 2 || s.on FRZ_STATUS_READING || s.frz.afterLoss then .next (s.put FRZ_STATUS_THAWREF 1)
  else
    let s1 := (s.put FRZ_STATUS_STATE 0).put HBC_STATUS_INSERVICE (s.get HBC_CTRL_INSERVICE)
    let s2 := (s1.startCycles.startRelock s1.cfgSetting).event srcFrzThaw
    .next (match s.frz.late with
      | some (trig, src, r) => if r = s.time.rc then s2.hardFrost trig src else s2
      | none => s2)

/-- FRZ_THAW: its effect, where the write reaches FRZ_CTRL (R46, R753, R770, R776). -/
def execFrzThaw (s : State) : Out :=
  s.reachReg .host 0x60000 effFrzThaw

end Sys2Proof.Machine
end

