-- ==== Sys2Proof/Machine/Feed.lean ====
section
/-! DEFINITION. What the vector feed reads ahead for a retrain pause: the shadow slots of the live streams (R660 to R662). -/

namespace Sys2Proof.Machine

/-- The HBM bytes that a stream takes from record r of the first of a list of segments on, n bytes of them, as (address, length). -/
def State.streamBytes (s : State) : List Nat → Nat → Nat → List (Nat × Nat)
  | [], _, _ => []
  | k :: ks, r, n =>
    let d := s.segDesc k
    let a := d.base + d.recordBytes * r
    let l := min n (d.limit - a)
    if n = 0 then [] else (a, l) :: s.streamBytes ks 0 (n - l)

/-- The granules of a run of bytes (R650). -/
def granulesOf (e : Nat × Nat) : List Nat := if e.2 = 0 then [] else (List.range ((e.1 + e.2 - 1) / 64 - e.1 / 64 + 1)).map (e.1 / 64 + ·)

/-- Channel c's granules of a stream from a data position on: the next 20,480 bytes of them, which lie within 32 times as many bytes of the
stream (R661; DEDUCED, log entry 114). -/
def State.streamGranules (s : State) (p : Playlist) (c : Nat) (q : Nat × Nat) : List Nat :=
  (((s.streamBytes (p.segs.drop q.1) q.2 655360).flatMap granulesOf).filter fun g => s.hbmChan (g * 64) == c).take 320

/-- The data position n records on. -/
def State.posOn (s : State) (p : Playlist) (q : Nat × Nat) (n : Nat) : Nat × Nat :=
  slotLinked ((p.segs.drop q.1).map fun k => (s.segDesc k).dw1) q.1 (q.2 + n)

/-- The live streams of the running playlist, by shadow slot (R661): the fall-through path behind the buffer in use, every rooted target behind
its head, and every level of the micro-stack behind its return buffer. -/
def State.liveStreams (s : State) (p : Playlist) : List (Nat × (Nat × Nat)) :=
  let roots := (List.range p.roots.length).map fun k =>
    let r := p.roots.getD k ⟨0, 0, 0⟩
    (1 + k, s.posOn p (r.idx, r.datum) 512)
  let levels := (List.range s.seq.stack.length).map fun k =>
    let e := s.seq.stack.reverse.getD k (0, 0, 0)
    (65 + k, s.posOn p e.2 512)
  (0, s.posOn p s.seq.pos s.seq.buf.length) :: roots ++ levels

/-- Before a pause of channel c, the slot of every live stream in its stack's buffer is filled (R661). -/
def State.fillShadow (s : State) (c : Nat) : State :=
  match s.seq.running with
  | none => s
  | some p => (s.liveStreams p).foldl (fun t e => t.setShadow (c / 16) e.1 (s.streamGranules p c e.2)) s

/-- The retrain cycle in progress (R660), of 4,000,000 fc, or 400,000 rc. -/
def State.retrainCycle (s : State) : Nat := (s.time.rc - s.hbc.base) / 400000

/-- The rc that have passed since the scheduled instant of channel c's pause in this cycle; none before it. Channel Mm.Cnn has index 16 × m +
nn (R660, R675). -/
def State.pauseAge (s : State) (c : Nat) : Option Nat :=
  let now := (s.time.rc - s.hbc.base) % 400000
  let at_ := 25000 * (c % 16) + 12500 * (c / 16)
  if now < at_ then none else some (now - at_)

/-- Channel c has had its pause of this cycle. -/
def State.pauseDone (s : State) (c : Nat) : Bool := Assoc.get 0 s.hbc.begun c == s.retrainCycle + 1

/-- A pause of channel c is put off: it is counted once (R662). -/
def State.deferPause (s : State) (c : Nat) : State :=
  if Assoc.get 0 s.hbc.deferred c = s.retrainCycle + 1 then s
  else { s.inc HBC_NDEFER with hbc := { s.hbc with deferred := Assoc.set 0 s.hbc.deferred c (s.retrainCycle + 1) } }

/-- RETRAIN_PAUSE_START: the pause of a channel begins, at its scheduled instant of the cycle or later (R660 to R662). slots: 0 every shadow slot is filled, 1 not
yet, so that the pause is deferred and counted, 2 not yet at the limit of 50,000 fc, so that it begins anyway. A retired
channel has no pauses (R669), no two channels are in pause at once, and one whose slots are not filled begins only at the limit. -/
def execRetrainPauseStart (ch : Fin 32) (slots : Fin 3) (s : State) : Out :=
  if !s.hbmOn || decide (s.get (HBC_CH_STATUS_STATE ch.val) = 3) || (List.range 32).any s.hbmPaused then .next s
  else match s.pauseAge ch.val with
  | none => .next s
  | some age =>
    if s.pauseDone ch.val then .next s
    else if slots.val = 1 || (slots.val = 2 && age < 5000) then .next (s.deferPause ch.val)
    else
    let s0 : State := { s with hbc := { s.hbc with begun := Assoc.set 0 s.hbc.begun ch.val (s.retrainCycle + 1) } }
    let s1 := if slots.val = 0 then s0.fillShadow ch.val else s0
    .next { s1.put (HBC_CH_STATUS_STATE ch.val) 1 with hbc := { s1.hbc with unfilled := decide (slots.val = 2) } }

end Sys2Proof.Machine
end

