-- ==== Sys2Proof/Machine/Lnk.lean ====
section
/-! DEFINITION. The Azith links (R678 to R697): flits and retry, training, width and lane repair, FALLOW, TEST and PRBS, and the
Trellis blocks; and what the PCI Express port does on its own (R703 to R705, R715, R776). -/

namespace Sys2Proof.Machine

/-- Port p. -/
def State.port (s : State) (p : Nat) : Port := Assoc.get Port.reset s.lnk.ports p

/-- Port p replaced. -/
def State.setPort (s : State) (p : Nat) (v : Port) : State :=
  { s with lnk := { s.lnk with ports := Assoc.set Port.reset s.lnk.ports p v } }

/-- LNK_AZp_STATUS.STATE (R684): 0 DOWN, 1 DETECT, 2 TRAIN, 3 ALIGN, 4 ACTIVE, 5 FALLOW, 6 TEST. -/
def State.portState (s : State) (p : Nat) : Nat := s.get (LNK_AZ_STATUS_STATE p)

/-- The port is a tree link of a formed group (R131, R696). -/
def State.treeLink (s : State) (p : Nat) : Bool :=
  !s.on CLK_GRP_STATUS_FORMING && (s.get CLK_DEPTH_UP == p || bitAt (s.get CLK_DEPTH_DOWN) p)

/-- The lanes in the width, with WIDTH and INWIDTH (R717). -/
def State.setLanes (s : State) (p lanes : Nat) : State :=
  let n := popcount 4 lanes
  let s1 := (s.put (LNK_AZ_STATUS_LANES p) lanes).put (LNK_AZ_STATUS_WIDTH p) (if n = 4 then 3 else n)
  (List.range 4).foldl (fun t l => t.flag (LNK_LSTATUS_INWIDTH p l) (bitAt lanes l)) s1

/-- A lane set that a port may run at: 1, 2 or 4 lanes, no more than MAXW names (R678, R716). -/
def State.widthOk (s : State) (p lanes : Nat) : Bool :=
  let n := popcount 4 lanes
  (n == 1 || n == 2 || n == 4) && decide (n ≤ 2 ^ s.get (LNK_AZ_CTRL_MAXW p))

/-! ## Flits and retry (R682, R683) -/

/-- A message that a CTRL flit carries; the others travel in DATA flits (R682). -/
def TxMsg.ctrl : TxMsg → Bool
  | .widthProposal _ _ _ => true
  | .widthRefusal _ => true
  | .fallowAsk _ => true
  | _ => false

/-- The width becomes a lane set (R688). -/
def State.changeWidth (s : State) (p lanes : Nat) : State :=
  if s.get (LNK_AZ_STATUS_LANES p) = lanes then s else (s.setLanes p lanes).inc (LNK_AZ_NWIDTH p)

/-- A numbered flit is sent, or waits while 1,024 are unacknowledged (R683). -/
def State.numberFlit (s : State) (p : Nat) (m : TxMsg) : State :=
  let v := s.port p
  if v.unacked.length < 1024 && s.portState p = 4 then
    (s.setPort p { v with tx := (v.tx + 1) % 4096, unacked := v.unacked ++ [(v.tx, m)] }).send m
  else s.setPort p { v with wait := v.wait ++ [m] }

/-- This end proposes a lane set, with a switch SEQ 64 flits after the CTRL flit that names it (R688). -/
def State.proposeNow (s : State) (p lanes : Nat) : State :=
  let v := s.port p
  let at_ := (v.tx + v.wait.length + 64) % 4096
  (s.setPort p { v with switch := some ⟨lanes, some at_, none, 0⟩ }).numberFlit p (.widthProposal p lanes at_)

/-- This end proposes a lane set, after the change that waits, if one does. -/
def State.propose (s : State) (p lanes : Nat) : State :=
  match (s.port p).switch with
  | some w => s.setPort p { s.port p with switch := some { w with next := lanes } }
  | none => s.proposeNow p lanes

/-- The width change that waits, with the switch points passed that the two streams have reached: with none ahead the width changes, and
what this end still proposes follows (R688). -/
def State.passSwitch (s : State) (p : Nat) : State :=
  let v := s.port p
  match v.switch with
  | none => s
  | some w =>
    let own := if w.own = some v.tx then none else w.own
    let peer := if w.peer = some v.rx then none else w.peer
    if own = none && peer = none then
      let s1 := (s.setPort p { v with switch := none }).changeWidth p w.lanes
      if w.next = 0 || w.next = w.lanes then s1 else s1.proposeNow p w.next
    else s.setPort p { v with switch := some { w with own := own, peer := peer } }

/-- A numbered flit is sent, and a switch point that it reaches passes. -/
def State.sendFlit (s : State) (p : Nat) (m : TxMsg) : State := (s.numberFlit p m).passSwitch p

/-- Waiting flits are sent while fewer than 1,024 are unacknowledged (R683). -/
def State.sendWaiting (s : State) (p : Nat) : State :=
  let w := (s.port p).wait
  w.foldl (fun t m => t.sendFlit p m) (s.setPort p { s.port p with wait := [] })

/-- A port enters FALLOW once no flit is unacknowledged (R696). -/
def State.tryFallow (s : State) (p : Nat) : State :=
  let v := s.port p
  if v.seekFallow && v.unacked.isEmpty && v.wait.isEmpty && s.portState p = 4 && !s.treeLink p then
    (List.range 4).foldl (fun t l => t.put (LNK_LSTATUS_LOCK p l) 0)
      ((s.setPort p { v with seekFallow := false }).put (LNK_AZ_STATUS_STATE p) 5)
  else s

/-- ACK of SEQ a arrives: the flits up to it are done with (R682, R683). -/
def State.ackFlits (s : State) (p a : Nat) : State :=
  let v := s.port p
  match indexOf? (fun e : Nat × TxMsg => e.1 == a) v.unacked with
  | none => s
  | some k => (((s.setPort p { v with unacked := v.unacked.drop (k + 1), naks := 0 }).sendWaiting p).tryFallow p)

/-- Unacknowledged flits after a retrain: the DATA flits, numbered from the first of them on (R686). -/
def renumber : Nat → List (Nat × TxMsg) → List (Nat × TxMsg)
  | _, [] => []
  | n, e :: es => if e.2.ctrl then renumber n es else (n, e.2) :: renumber ((n + 1) % 4096) es

/-- A training of a port starts: it draws a token (R685), a free value. -/
def State.startTraining (s : State) (p : Nat) : State :=
  let s1 : State := { s with freeCtr := s.freeCtr + 1 }
  (s1.setPort p { s1.port p with token := Config.freeValue s.freeCtr % 2 ^ 16, role := 0 }).put (LNK_AZ_STATUS_STATE p) 2

/-- This end asks the partner to retrain. -/
def State.askRetrain (s : State) (p : Nat) : State := s.send (.retrainAsk p (s.get CLK_DEVID) (s.port p).token)

/-- Requests of both ends cross: the end with the lower device ID leads, or with the lower token where the IDs are equal (R687). None
where the tokens are equal too. -/
def State.leads (s : State) (p dev token : Nat) : Option Bool :=
  let me := s.get CLK_DEVID
  let t := (s.port p).token
  if me < dev then some true else if dev < me then some false
  else if t < token then some true else if token < t then some false else none

/-- A port retrains with a cause of R717: 1 HOST, 2 LOCK, 3 RETRY, 4 PARTNER (R686). -/
def State.retrain (s : State) (p cause : Nat) : State :=
  let v := s.port p
  let first := (v.unacked.head?.map (·.1)).getD v.tx
  let kept := renumber first v.unacked
  let v1 : Port := { v with unacked := kept, tx := (first + kept.length) % 4096, discarding := false, naks := 0
                            wait := v.wait.filter fun m => !m.ctrl
                            switch := none, partial_ := []
                            seekFallow := false, waking := false }
  let s1 := (((s.setPort p v1).startTraining p).inc (LNK_AZ_NRETRAIN p)).put (LNK_AZ_STATUS_CAUSE p) cause
  let s2 := (List.range 4).foldl (fun t l => t.put (LNK_LSTATUS_LOCK p l) 0) (s1.setLanes p 0)
  if cause = 4 then s2.setPort p { s2.port p with role := 2 } else s2.askRetrain p

/-- A request to retrain meets the port's own one: the leader sends the first TRAIN blocks and the follower waits for them; with equal IDs
and tokens both draw anew and ask again (R687). -/
def State.crossRetrain (s : State) (p dev token : Nat) : State :=
  match s.leads p dev token with
  | some true => (s.setPort p { s.port p with role := 1 }).send (.train p (s.get CLK_DEVID) (s.port p).token)
  | some false => s.setPort p { s.port p with role := 2 }
  | none => (s.startTraining p).askRetrain p

/-- A NAK flit arrives with the last SEQ that the partner accepted: a replay of what follows it, or after 8 consecutive ones a retrain
(R683). -/
def State.nak (s : State) (p a : Nat) : State :=
  let s1 := (s.inc (LNK_AZ_NREPLAY p)).ackFlits p a
  let v := s1.port p
  if 7 ≤ v.naks then s1.retrain p 3
  else (s1.setPort p { v with naks := v.naks + 1 }).send (.replay p ((a + 1) % 4096))

/-- A flit that is not accepted: it is discarded, with a NAK that holds the last SEQ accepted (R683). A port that discards already
answers only a failed CRC. -/
def State.refuseFlit (s : State) (p : Nat) (again : Bool) : State :=
  let v := s.port p
  if v.discarding && !again then s
  else (s.setPort p { v with discarding := true }).send (.nak p ((v.rx + 4095) % 4096))

/-- The CRC of a flit passes: the CRC-32 over its bytes 0 to 59 (R682). -/
def flitCrcOk (flit : BitVec 512) : Bool :=
  decide (crc32 (bytesOf 60 flit.toNat) = bits flit.toNat 480 32)

/-- FLIT_RECEIVE: a flit of 512 bits arrives, with its TYPE, SEQ and ACK (R682, R683); an accepted one may reach the switch point of a
width change (R688). -/
def execFlitReceive (port : Fin 4) (flit : BitVec 512) (s : State) : Out :=
  let p := port.val
  let ack := bits flit.toNat 4 12
  let seq := bits flit.toNat 16 12
  let ty := bits flit.toNat 28 4
  if s.portState p ≠ 4 then .next s
  else if !flitCrcOk flit then .next ((s.inc (LNK_AZ_NCRC p)).refuseFlit p true)
  else if ty = 0 then .next (s.ackFlits p ack)
  else if ty = 2 then .next (s.nak p ack)
  else if ty = 1 || ty = 3 then
    let v := s.port p
    if seq = v.rx then
      .next (((s.setPort p { v with rx := (v.rx + 1) % 4096, discarding := false }).ackFlits p ack).passSwitch p)
    else .next (s.refuseFlit p false)
  else .next s

/-- NAK_RECEIVE (R683). -/
def execNakReceive (port : Fin 4) (ack : BitVec 12) (s : State) : Out :=
  if s.portState port.val = 4 then .next (s.nak port.val ack.toNat) else .next s

/-! ## Training (R684 to R687) -/

/-- LINK_DETECT: an enabled port finds its partner and trains (R684). -/
def execLinkDetect (port : Fin 4) (s : State) : Out :=
  let p := port.val
  if s.on (LNK_AZ_CTRL_EN p) && s.portState p ≤ 1 then .next (s.startTraining p) else .next s

/-- The port is ACTIVE: block lock on its lanes, and what waits is sent, a replay first (R684, R686). -/
def State.portActive (s : State) (p lanes : Nat) : State :=
  let s1 := (List.range 4).foldl (fun t l => if bitAt lanes l then t.put (LNK_LSTATUS_LOCK p l) 1 else t)
    (s.put (LNK_AZ_STATUS_STATE p) 4)
  let v := s1.port p
  let s2 := match v.unacked with
    | [] => s1
    | e :: _ => s1.send (.replay p e.1)
  (s2.setPort p { v with waking := false }).sendWaiting p

/-- LINK_TRAIN_DONE: training and alignment end (R685), or the exit from FALLOW with its last settings (R696). lmap: 2 bits for each
lane, the sender's lane number; taps: POST and PRE of each lane, 11 bits each; rx: CTLE and DFE of each lane, 17 bits each. -/
def execLinkTrainDone (port : Fin 4) (lanes : BitVec 4) (lmap : BitVec 8) (pol : BitVec 4) (taps : BitVec 44) (rx : BitVec 68)
    (s : State) : Out :=
  let p := port.val
  if s.portState p = 3 && (s.port p).waking then .next (s.portActive p (s.get (LNK_AZ_STATUS_LANES p)))
  else if (s.portState p ≠ 2 && s.portState p ≠ 3) || !s.widthOk p lanes.toNat then .next s
  else
    let s1 := (((s.setLanes p lanes.toNat).flag (LNK_AZ_STATUS_REVERSED p) (lmap.toNat ≠ 0xE4)).put (LNK_AZ_STATUS_POLINV p)
      pol.toNat).raise srcLnkRemap p 0
    let s2 := s1.put (LNK_AZ_STATUS_DROPPED p) (maskOf 4 fun l => bitAt (s.get (LNK_AZ_STATUS_DROPPED p)) l && !bitAt lanes.toNat l)
    let s3 := if s.on (LNK_AZ_CTRL_AUTOEQ p) then
      (List.range 4).foldl (fun t l => (t.put (LNK_TXEQ_POST p l) (bits taps.toNat (11 * l + 5) 6)).put (LNK_TXEQ_PRE p l)
        (bits taps.toNat (11 * l) 5)) s2 else s2
    let s4 := (List.range 4).foldl (fun t l => (t.put (LNK_RXEQ_CTLE p l) (bits rx.toNat (17 * l + 12) 5)).put (LNK_RXEQ_DFE p l)
      (bits rx.toNat (17 * l) 12)) s3
    .next (s4.portActive p lanes.toNat)

/-- A port that trains or carries flits. -/
def State.portLive (s : State) (p : Nat) : Bool := s.portState p == 2 || s.portState p == 3 || s.portState p == 4

/-- The port trains at its own request, which the partner's may still cross (R687). -/
def State.asked (s : State) (p : Nat) : Bool := s.portState p == 2 && (s.port p).role == 0 && s.get (LNK_AZ_STATUS_CAUSE p) != 4

/-- RETRAIN written (R686, R716). -/
def effLinkRetrain (port : Fin 4) (s : State) : Out :=
  if s.portLive port.val then .next (s.retrain port.val 1) else .next s

/-- LINK_RETRAIN: RETRAIN written by the host, where the write reaches LNK_AZ_CTRL (R46, R753, R770, R776), or the partner's request
with its device ID and token, which may cross this end's own (R686, R687, R717). -/
def execLinkRetrain (port : Fin 4) (partner : Bool) (dev : BitVec 13) (token : BitVec 16) (s : State) : Out :=
  let p := port.val
  if !partner then s.reachReg .host (0x581000 + 0x400 * p) (effLinkRetrain port)
  else if s.asked p then .next (s.crossRetrain p dev.toNat token.toNat)
  else if s.portLive p && !(s.portState p == 2) then .next (s.retrain p 4)
  else .next s

/-- LINK_LOCK_LOSS: block lock is lost on a lane after errs invalid headers (R681, R686). -/
def execLinkLockLoss (port lane : Fin 4) (errs : BitVec 32) (s : State) : Out :=
  let p := port.val
  let s1 := (s.put (LNK_NHDRERR p lane.val) (s.get (LNK_NHDRERR p lane.val) + errs.toNat)).put (LNK_LSTATUS_LOCK p lane.val) 0
  if s.portState p = 4 && bitAt (s.get (LNK_AZ_STATUS_LANES p)) lane.val then .next (s1.retrain p 2) else .next s1

/-! ## Width and lane repair (R688, R689) -/

/-- Lanes that the port holds good: those with block lock that are not dropped. -/
def State.goodLanes (s : State) (p : Nat) : Nat :=
  maskOf 4 fun l => s.on (LNK_LSTATUS_LOCK p l) && !bitAt (s.get (LNK_AZ_STATUS_DROPPED p)) l

/-- Proposals of one width cross: the lane set of the end that leads stands; with equal IDs and tokens both draw anew and propose again
(R687). -/
def State.crossWidth (s : State) (p : Nat) (w : Switch) (lanes switch dev token : Nat) : State :=
  match s.leads p dev token with
  | some true => s
  | some false => s.setPort p { s.port p with switch := some ⟨lanes, none, some switch, w.next⟩ }
  | none =>
    let s1 : State := { s with freeCtr := s.freeCtr + 1 }
    (s1.setPort p { s1.port p with token := Config.freeValue s.freeCtr % 2 ^ 16, switch := none }).proposeNow p w.lanes

/-- A proposal that this end can take (R688): it waits for its switch point; where it crosses this end's own, the narrower of the two is
taken at the later of the two points, and this end, if it proposed the wider, proposes it again. -/
def State.takeProposal (s : State) (p lanes switch dev token : Nat) : State :=
  let v := s.port p
  let set (w : Switch) : State := s.setPort p { v with switch := some w }
  match v.switch with
  | none => set ⟨lanes, none, some switch, 0⟩
  | some w =>
    if w.own = none then set ⟨lanes, none, some switch, w.next⟩
    else if popcount 4 w.lanes = popcount 4 lanes then s.crossWidth p w lanes switch dev token
    else if popcount 4 w.lanes < popcount 4 lanes then set { w with peer := some switch }
    else set ⟨lanes, w.own, some switch, if w.next = 0 then w.lanes else w.next⟩

/-- WIDTH_PROPOSAL_RECEIVE: the partner, of a device ID and token, proposes a lane set with a switch SEQ of its stream; refusal: it
refuses what this end proposed, and the width is unchanged (R687, R688). -/
def execWidthProposalReceive (port : Fin 4) (refusal : Bool) (lanes : BitVec 4) (switch : BitVec 12) (dev : BitVec 13)
    (token : BitVec 16) (s : State) : Out :=
  let p := port.val
  let n := popcount 4 lanes.toNat
  if s.portState p ≠ 4 then .next s
  else if refusal then
    let own := (s.port p).switch.any fun w => w.own.isSome && w.peer.isNone
    .next (if own then s.setPort p { s.port p with switch := none } else s)
  else if popcount 4 (s.goodLanes p) < n || n = 0 || n = 3 then .next (s.sendFlit p (.widthRefusal p))
  else .next (s.takeProposal p lanes.toNat switch.toNat dev.toNat token.toNat)

/-- The largest width that the good lanes and MAXW allow (R678, R689). -/
def State.bestWidth (s : State) (p : Nat) : Nat :=
  let n := min (popcount 4 (s.goodLanes p)) (2 ^ s.get (LNK_AZ_CTRL_MAXW p))
  if 4 ≤ n then 4 else if 2 ≤ n then 2 else n

/-- The good lanes below the n-th, as a lane set. -/
def lowLanes (good : Nat) : Nat → Nat
  | 0 => 0
  | n + 1 => let r := lowLanes good n; (lowestBit 4 (good &&& (15 ^^^ r))).elim r fun l => setBitN r l

/-- A lane set of the largest width (R689): the one named, where it is one; the lowest good lanes otherwise. -/
def State.bestLanes (s : State) (p named : Nat) : Nat :=
  let set := named &&& s.goodLanes p
  if popcount 4 set = s.bestWidth p then set else lowLanes (s.goodLanes p) (s.bestWidth p)

/-- LANE_DROP: a lane of the width shows more than 4 invalid headers in 2^20 blocks and drops out; the port proposes the largest width of
its remaining good lanes, lanes naming which of several sets (R688, R689). With no good lane left there is no width to propose. -/
def execLaneDrop (port lane : Fin 4) (lanes : BitVec 4) (errs : BitVec 32) (s : State) : Out :=
  let p := port.val
  let l := lane.val
  if s.portState p ≠ 4 || !bitAt (s.get (LNK_AZ_STATUS_LANES p)) l || bitAt (s.get (LNK_AZ_STATUS_DROPPED p)) l then .next s
  else
    let s1 := (s.put (LNK_NHDRERR p l) (s.get (LNK_NHDRERR p l) + errs.toNat)).put (LNK_AZ_STATUS_DROPPED p)
      (setBitN (s.get (LNK_AZ_STATUS_DROPPED p)) l)
    .next (if s1.bestWidth p = 0 then s1 else s1.propose p (s1.bestLanes p lanes.toNat))

/-- LANE_RESTORE: a dropped lane has run 2^36 bits without error and counts as good; with AUTOWIDEN the port proposes the wider lane set
(R688, R689). -/
def execLaneRestore (port lane : Fin 4) (lanes : BitVec 4) (s : State) : Out :=
  let p := port.val
  let l := lane.val
  if !bitAt (s.get (LNK_AZ_STATUS_DROPPED p)) l then .next s
  else
    let s1 := (s.put (LNK_AZ_STATUS_DROPPED p) (clrBitN (s.get (LNK_AZ_STATUS_DROPPED p)) l)).put (LNK_LSTATUS_LOCK p l) 1
    let wider := popcount 4 (s.get (LNK_AZ_STATUS_LANES p)) < s1.bestWidth p
    .next (if s.on (LNK_AZ_CTRL_AUTOWIDEN p) && s.portState p = 4 && wider then s1.propose p (s1.bestLanes p lanes.toNat) else s1)

/-! ## FALLOW, TEST and PRBS (R690, R696, R697, R716) -/

/-- A request for FALLOW; leave: a request to leave meets it, and prevails (R696, R697). The port enters it once the flits that it has sent,
this CTRL flit the last, are acknowledged. -/
def effFallowRequest (port : Fin 4) (leave : Bool) (s : State) : Out :=
  let p := port.val
  if s.portState p ≠ 4 || s.treeLink p || leave then .next s
  else
    let s1 := s.sendFlit p (.fallowAsk p)
    .next (s1.setPort p { s1.port p with seekFallow := true })

/-- FALLOW_REQUEST: FALLOW written by the host, where the write reaches LNK_AZ_CTRL (R46, R753, R770, R776), or the partner's request
(R696). -/
def execFallowRequest (port : Fin 4) (partner leave : Bool) (s : State) : Out :=
  if partner then effFallowRequest port leave s else s.reachReg .host (0x581000 + 0x400 * port.val) (effFallowRequest port leave)

/-- A port leaves FALLOW with its last settings: it gains block lock again (R696). A request that has not led to FALLOW lapses (R697). -/
def State.leaveFallow (s : State) (p : Nat) : State :=
  let v := s.port p
  if s.portState p = 5 then (s.setPort p { v with waking := true }).put (LNK_AZ_STATUS_STATE p) 3
  else s.setPort p { v with seekFallow := false }

/-- A WAKE write (R696, R716). -/
def effFallowWake (port : Fin 4) (s : State) : Out := .next (s.leaveFallow port.val)

/-- FALLOW_WAKE: a WAKE write at this end, where the write reaches LNK_AZ_CTRL (R46, R753, R770, R776). -/
def execFallowWake (port : Fin 4) (s : State) : Out := s.reachReg .host (0x581000 + 0x400 * port.val) (effFallowWake port)

/-- SQUELCH_WAKE: the squelch detector sees the partner wake (R696); in DORMANT the port waits for the device, which LINKWAKE
wakes (R775). -/
def execSquelchWake (port : Fin 4) (s : State) : Out :=
  if s.portState port.val ≠ 5 then .next s
  else if s.sleeping then .next (if s.on PMG_CFG_LINKWAKE then s.startWake else s)
  else .next (s.leaveFallow port.val)

/-- FALLOW_EXIT_TIMEOUT: no block lock 40 µs after the wake (R696). -/
def execFallowExitTimeout (port : Fin 4) (s : State) : Out :=
  if (s.port port.val).waking && s.portState port.val = 3 then .next (s.retrain port.val 2) else .next s

/-- PORT_TEST: the TEST bit is written (R684, R716). Leaving TEST, the port seeks its partner anew. -/
def effPortTest (port : Fin 4) (test : Bool) (s : State) : Out :=
  let p := port.val
  if test then
    if s.treeLink p || !s.on (LNK_AZ_CTRL_EN p) then .next s
    else .next (((s.put (LNK_AZ_CTRL_TEST p) 1).put (LNK_AZ_STATUS_STATE p) 6).setLanes p 0)
  else if s.portState p = 6 then .next ((s.put (LNK_AZ_CTRL_TEST p) 0).put (LNK_AZ_STATUS_STATE p) 1)
  else .next (s.put (LNK_AZ_CTRL_TEST p) 0)

/-- PORT_TEST: its effect, where the write reaches LNK_AZ_CTRL (R46, R753, R770, R776). -/
def execPortTest (port : Fin 4) (test : Bool) (s : State) : Out :=
  s.reachReg .host (0x581000+0x400*port.val) (effPortTest port test)

/-- A lane carries no traffic (R690). -/
def State.laneFree (s : State) (p l : Nat) : Bool := bitAt (s.get (LNK_AZ_STATUS_DROPPED p)) l || s.portState p == 6

/-- PRBS_CTRL_WRITE: a write of a lane's PRBS_CTRL (R690). -/
def effPrbsCtrlWrite (port lane : Fin 4) (data : BitVec 32) (s : State) : Out :=
  let p := port.val
  let l := lane.val
  let d := data.toNat
  s.inDomain (22 + p) (fun s =>
    if bitAt d 0 && !s.laneFree p l then s.put (LNK_LSTATUS_PRBSREF p l) 1
    else
      let s1 := ((s.put (LNK_PRBS_CTRL_PAT p l) (bits d 2 2)).flag (LNK_PRBS_CTRL_CHK p l) (bitAt d 1)).flag (LNK_PRBS_CTRL_GEN p l)
        (bitAt d 0)
      if bitAt d 1 then s1 else s1.put (LNK_LSTATUS_PRBSSYNC p l) 0) |> .next

/-- PRBS_CTRL_WRITE: its effect, where the write reaches LNK_PRBS_CTRL (R46, R753, R770, R776). -/
def execPrbsCtrlWrite (port lane : Fin 4) (data : BitVec 32) (s : State) : Out :=
  s.reachReg .host (0x58110C+0x400*port.val) (effPrbsCtrlWrite port lane data)

/-- PRBS_CHECKER_SYNC: the checker synchronises on 64 error-free bits; a checker in synchronisation counts bits and errors seen since
(R690). -/
def execPrbsCheckerSync (port lane : Fin 4) (nbits : BitVec 48) (errs : BitVec 32) (s : State) : Out :=
  let p := port.val
  let l := lane.val
  let on := s.on (LNK_PRBS_CTRL_CHK p l) || bitAt (s.get (LNK_AZ_STATUS_DROPPED p)) l
  if !on then .next s
  else if !s.on (LNK_LSTATUS_PRBSSYNC p l) then .next (s.put (LNK_LSTATUS_PRBSSYNC p l) 1)
  else .next ((s.add64 (LNK_PRBS_BITS_LO p l) (LNK_PRBS_BITS_HI p l) nbits.toNat).addSat (LNK_PRBS_ERR p l) errs.toNat)

/-- TXEQ_WRITE: a lane's transmit taps, under the limits of test 0xB of R342 (R680). -/
def effTxeqWrite (port lane : Fin 4) (data : BitVec 32) (s : State) : Out :=
  let p := port.val
  let l := lane.val
  let pre := bits data.toNat 0 5
  let post := bits data.toNat 8 6
  s.inDomain (22 + p) (fun s =>
    if 16 < pre || 24 < post || 32 < pre + post then s.put (LNK_AZ_STATUS_EQREF p) 1
    else (s.put (LNK_TXEQ_PRE p l) pre).put (LNK_TXEQ_POST p l) post) |> .next

/-- TXEQ_WRITE: its effect, where the write reaches LNK_TXEQ (R46, R753, R770, R776). -/
def execTxeqWrite (port lane : Fin 4) (data : BitVec 32) (s : State) : Out :=
  s.reachReg .host (0x581100+0x400*port.val) (effTxeqWrite port lane data)

/-! ## The Trellis stream (R691 to R695) -/

/-- The fields of a Trellis word (R692). -/
def wordGc (w : Nat) : Nat := bits w 48 8
def wordKind (w : Nat) : Nat := bits w 40 4
def wordFirst (w : Nat) : Bool := bitAt w 39
def wordFrag (w : Nat) : Nat := bits w 0 39

/-- The number of words of a message of a kind; 0 where the kind is none or reserved (R693). -/
def kindWords (k : Nat) : Nat := [0, 3, 5, 1, 3, 1, 1, 2, 5].getD k 0

/-- A word joins the message of its kind, which it begins or carries on; a message that is whole is done with: its effect is a command of its
own (R693, R694). -/
def gatherWord (ms : List (Nat × List Nat)) (w : Nat) : List (Nat × List Nat) :=
  let k := wordKind w
  let before := if wordFirst w then [] else Assoc.get [] ms k
  let frags := before ++ [wordFrag w]
  if kindWords k = 0 || (!wordFirst w && before.isEmpty) then ms
  else if kindWords k ≤ frags.length then Assoc.set [] ms k [] else Assoc.set [] ms k frags

/-- A copy of a TRELLIS block passes: its type, and the CRC-16 over bytes 0 to 28 in bytes 29 and 30 (R681, R691). -/
def copyOk (copy : BitVec 256) : Bool :=
  bits copy.toNat 0 8 == 0x1E && crc16 (bytesOf 29 copy.toNat) == bits copy.toNat 232 16

/-- TRELLIS_BLOCK_RECEIVE: the two copies of a block of four words arrive on a port with DET; the first whose CRC passes gives the words.
With none the words are lost, the loss counts as a slip, and the messages under way are discarded (R691 to R695). -/
def execTrellisBlockReceive (port : Fin 4) (first second : BitVec 256) (s : State) : Out :=
  let p := port.val
  let v := s.port p
  if !s.on (LNK_AZ_STATUS_DET p) then .next s
  else if copyOk first || copyOk second then
    let copy := if copyOk first then first else second
    let words := (List.range 4).map fun i => bits copy.toNat (8 + 56 * i) 56
    .next (s.setPort p { v with words := words, partial_ := words.foldl gatherWord v.partial_ })
  else
    let s1 := (s.inc (LNK_AZ_NTLOST p)).setPort p { v with words := [], partial_ := [] }
    .next (if s.get CLK_DEPTH_UP = p then s1.hopSlip else s1)

/-- Fields packed from bit 0 up: the value and width of each (R693). -/
def packFields : List (Nat × Nat) → Nat
  | [] => 0
  | e :: es => e.1 % 2 ^ e.2 + 2 ^ e.2 * packFields es

/-- What a message is on a Trellis link (R693): its kind and its fields, each with its width; a message that travels otherwise
has kind 0. -/
def TxMsg.fields : TxMsg → Nat × List (Nat × Nat)
  | .start _ gvc cfg frac => (1, [(cfg, 8), (frac, 24), (bits cfg 11 3, 3), (bits cfg 14 2, 2), (gvc, 64)])
  | .join dev _ tj gvc cfg frac => (2, [(cfg, 8), (frac, 24), (bits cfg 11 3, 3), (bits cfg 14 2, 2), (dev, 13), (tj, 64), (gvc, 64)])
  | .discovery d => (3, [(1, 4), (d, 35)])
  | .probe => (3, [(2, 4), (0, 35)])
  | .hDepth h => (3, [(5, 4), (h, 35)])
  | .prepare t sc tag => (4, [(sc, 9), (tag, 16), (t, 64)])
  | .decision c r tag reason dev => (6, [(if c then 1 else 0, 1), (if r then 1 else 0, 1), (tag, 16), (reason, 4), (dev, 13)])
  | .harvest t => (7, [(t, 64)])
  | .vote v => (5, [(if v.ready then 1 else 0, 1), (v.reason, 4), (v.dev, 13)])
  | .time sec ns frac seq corr => (8, [(seq, 16), (frac, 16), (ns, 32), (sec, 48), (codeOf 48 corr, 48)])
  | _ => (0, [])

/-- The words of a message without their GC and EPOCH4 fields, in the order sent (R692, R693). -/
def TxMsg.words (m : TxMsg) : List Nat :=
  let f := m.fields
  (List.range (kindWords f.1)).map fun i =>
    f.1 * 2 ^ 40 + (if i = 0 then 2 ^ 39 else 0) + bits (packFields f.2) (39 * i) 39

/-! ## The PCI Express port -/

/-- PCIE_DOWN: the link goes down, in D0 or not (R705). -/
def execPcieDown (s : State) : Out :=
  let s1 := s.put LNK_PCIE_STATUS_UP 0
  if !s.on LNK_PCIE_STATUS_UP || s.lnk.d3hot then .next s1
  else
    let s2 : State := { (s1.setCond srcPcieDown true).inc LNK_PCIE_NDOWN with hostOut := [] }
    .next (s2.event srcPcieDown)

/-- PCIE_LINK_UP: the link trains with a rate code of 1 to 6 and a width, and the condition of PCIE_DOWN ends; the
device is in D0 then (R703, R715, R723). -/
def execPcieLinkUp (flit reversed : Bool) (rate : Fin 8) (width : Fin 16) (pol : BitVec 8) (s : State) : Out :=
  let s1 := ((s.put LNK_PCIE_STATUS_UP 1).flag LNK_PCIE_STATUS_FLIT flit).flag LNK_PCIE_STATUS_REVERSED reversed
  let s2 := ((s1.put LNK_PCIE_STATUS_RATE rate.val).put LNK_PCIE_STATUS_WIDTH width.val).put LNK_PCIE_STATUS_POL pol.toNat
  .next { (s2.put LNK_PCIE_STATUS_LPWR 0).setCond srcPcieDown false with lnk := { s2.lnk with d3hot := false } }

/-- The device initiates no entry to L1: a stream channel is open, or a bound host ring has a cell that waits to be written (R704). -/
def State.l1Held (s : State) : Bool :=
  (List.range 8).any (fun n => s.on (SEG_STR_STATUS_OPEN n)) ||
    (List.range 256).any fun r => s.on (QUE_HR_STATUS_BOUND r) &&
      !(Assoc.get Queue.closed s.que.queues (s.get (QUE_HR_CFG_QUEUE r))).cells.isEmpty

/-- PCIE_L1_2_ENTRY: the link goes into L1.2, with the device in D0 or put into D3hot by the host; in D0 the device takes part only where
R704 lets it; in DORMANT the domain switches off (R704, R768, R776). -/
def execPcieL12Entry (d3hot : Bool) (s : State) : Out :=
  if !d3hot && s.l1Held then .next s
  else
    let s1 : State := { s.put LNK_PCIE_STATUS_LPWR 2 with lnk := { s.lnk with d3hot := d3hot } }
    .next (if s.get PMG_STATUS_STATE = 1 then s1.put PMG_DOM_ON0 (clrBitN (s.get PMG_DOM_ON0) 21) else s1)

/-- PCIE_L1_2_EXIT: CLKREQ_N powers the domain, and the link leaves L1.2, with the device in D3hot or put into D0 by the host (R704,
R776). -/
def execPcieL12Exit (d3hot : Bool) (s : State) : Out :=
  let s1 : State := { s.put LNK_PCIE_STATUS_LPWR 0 with lnk := { s.lnk with d3hot := d3hot } }
  .next (s1.put PMG_DOM_ON0 (setBitN (s.get PMG_DOM_ON0) 21))

end Sys2Proof.Machine
end

