-- ==== Sys2Proof/Machine/Wtm.lean ====
section
/-! DEFINITION. The wall time (R707 to R711), its time messages (R712, R713), and the stamps of the EXT_TRIG inputs (R714). -/

namespace Sys2Proof.Machine

/-- WTM_SET: SET loads SET_SEC and SET_NS with FRAC 0 at the next tick, or is refused (R709). -/
def effWtmSet (s : State) : Out :=
  let ns := s.get WTM_SET_NS
  if 1000000000 ≤ ns then .next (s.put WTM_STATUS_SETREF 1)
  else
    let sec := s.get WTM_SET_SEC_LO + 2 ^ 32 * s.get WTM_SET_SEC_HI
    .next { s with time := { s.time with load := some (sec * wallSecond + ns * 2 ^ 32) } }

/-- WTM_SET: its effect, where the write reaches WTM_CTRL (R46, R753, R770, R776). -/
def execWtmSet (s : State) : Out :=
  s.reachReg .host 0x5C0000 effWtmSet

/-- WTM_ADJ: a signed adjustment in 2^-16 ns, once, at the next tick (R709). -/
def effWtmAdj (data : BitVec 32) (s : State) : Out :=
  .next { s with time := { s.time with adj := some (data.toInt * 2 ^ 16) } }

/-- WTM_ADJ: its effect, where the write reaches WTM_ADJ (R46, R753, R770, R776). -/
def execWtmAdj (data : BitVec 32) (s : State) : Out :=
  s.reachReg .host 0x5C002C (effWtmAdj data)

/-- INC lies in 3.996 ns to 4.004 ns (R708). -/
def incOk (inc : Nat) : Bool := decide (3996 * 2 ^ 32 ≤ inc * 1000) && decide (inc * 1000 ≤ 4004 * 2 ^ 32)

/-- WTM_INC_WRITE: a write of WTM_INC_HI (R708). -/
def effWtmIncWrite (data : BitVec 32) (s : State) : Out :=
  let inc := s.get WTM_INC_LO + 2 ^ 32 * (data.toNat % 2 ^ 8)
  if incOk inc then .next { s.put WTM_INC_HI data.toNat with time := { s.time with inc := inc } }
  else .next (s.put WTM_STATUS_INCREF 1)

/-- WTM_INC_WRITE: its effect, where the write reaches WTM_INC_HI (R46, R753, R770, R776). -/
def execWtmIncWrite (data : BitVec 32) (s : State) : Out :=
  s.reachReg .host 0x5C000C (effWtmIncWrite data)

/-- WTM_NOW_LATCH: a read of WTM_NOW_FRAC latches NS and SEC for the requester (R710). -/
def State.latchNow (s : State) (req : Req) : State :=
  let w := s.time.wall
  ((s.put (WTM_NOW_NS.per req) (wallNs w)).put (WTM_NOW_SEC_LO.per req) (wallSec w)).put (WTM_NOW_SEC_HI.per req)
    (wallSec w / 2 ^ 32)

/-- WTM_NOW_LATCH (R710). -/
def execWtmNowLatch (req : Req) (s : State) : Out := .next (s.latchNow req)

/-! ## Time messages -/

/-- TIME_SEND: the root originates a message; CORR is 0 (R712). -/
def execTimeSend (s : State) : Out :=
  if !s.on CMT_STATUS_ROOT || !s.on WTM_CTRL_ROOTSRC then .next s
  else
    let w := s.time.wall
    let n := (s.time.seq + 1) % 2 ^ 16
    let s1 : State := { s with time := { s.time with seq := n } }
    .next (if s.on CLK_DEPTH_DOWN then s1.send (.time (wallSec w) (wallNs w) (wallFrac w) n 0) else s1)

/-- A wall time in 2^-16 ns. -/
def wall16 (w : Nat) : Int := (w / 2 ^ 16 : Nat)

/-- TIME_RECEIVE: a message with its ORIGIN and CORR; residence: rc from its receipt to this device's sending of its first word (R713).
The hop is 640 ns. -/
def execTimeReceive (seq : BitVec 16) (sec : BitVec 48) (ns : BitVec 32) (frac : BitVec 16) (corr : BitVec 48) (residence : BitVec 16)
    (s : State) : Out :=
  if s.on CMT_STATUS_ROOT then .next s
  else
    let c := corr.toInt + 640 * 2 ^ 16
    let origin : Int := ((sec.toNat * 1000000000 + ns.toNat) * 2 ^ 16 + frac.toNat : Nat)
    let ofs := origin + c - wall16 s.time.wall
    let s1 := (((s.put64 WTM_OFS_LO WTM_OFS_HI (codeOf 64 ofs)).put WTM_OFS_SEQ seq.toNat).inc WTM_NSYNC).put WTM_STATUS_SYNCED 1
    let s2 := s1.event srcWtmSync
    .next (if s.on CLK_DEPTH_DOWN then
      s2.send (.time sec.toNat ns.toNat frac.toNat seq.toNat (c + 10 * 2 ^ 16 * residence.toNat)) else s2)

/-- WTM_SYNC_TIMEOUT: no message for 2 × 2^SYNCP ms (R713). -/
def execWtmSyncTimeout (s : State) : Out := .next (s.put WTM_STATUS_SYNCED 0)

/-! ## Trigger stamps -/

/-- EXT_TRIG_STAMP: an edge of EXT_TRIG[i], sixteenths of a nanosecond into the present rc; edges that EDGE does not select and those
within 4 ns of a stamped one are not stamped (R714). The 250 MHz tick stands half a tick before an odd rc. -/
def execExtTrigStamp (input : Fin 8) (rising : Bool) (sixteenths : Fin 160) (s : State) : Out :=
  let i := input.val
  let t := 160 * s.time.rc + sixteenths.val
  let dead := match s.time.stamps.find? fun e => e.1 == i with
    | some e => decide (t ≤ e.2 + 64)
    | none => false
  if !bitAt (s.get (WTM_ET_CFG_EDGE i)) (if rising then 0 else 1) || dead then .next s
  else
    let coarse := s.on WTM_STATUS_COARSE
    let half := if coarse then 0 else s.time.rc % 2 * (s.time.inc / 2)
    let w := s.time.wall + half + sixteenths.val * 2 ^ 28
    let gvc := s.stamp.getD (2 ^ 64 - 1)
    let hi := bits (wallFrac w) 12 4 * 2 ^ 28 + b2n rising * 2 ^ 27 + b2n coarse * 2 ^ 26
    let s1 : State := { s with time := { s.time with stamps := Assoc.insert s.time.stamps i t } }
    let s2 := ((s1.put (WTM_ET_NS i) (wallNs w)).put (WTM_ET_SEC_LO i) (wallSec w)).put64 (WTM_ET_GVC_LO i) (WTM_ET_GVC_HI i) gvc
    let s3 := (((s2.put (WTM_ET_SEC_HI_FRAC16 i) (bits (wallFrac w) 12 4)).flag (WTM_ET_SEC_HI_EDGE i) rising).flag
      (WTM_ET_SEC_HI_COARSE i) coarse).put (WTM_ET_SEC_HI_SEC i) (wallSec w / 2 ^ 32)
    let s4 := s3.inc (WTM_ET_NSTAMP i)
    .next (if s.on (WTM_ET_QUEUE_EN i) then
      s4.enq (s.get (WTM_ET_QUEUE_Q i)) (wordBytes [wallNs w, wallSec w % 2 ^ 32, hi + i * 2 ^ 23 + wallSec w / 2 ^ 32 % 2 ^ 16,
        gvc % 2 ^ 32, gvc / 2 ^ 32, s4.get (WTM_ET_NSTAMP i), s.get CLK_DEVID, 0])
      else s4)

end Sys2Proof.Machine
end

