-- ==== Sys2Proof/Machine/Rsc.lean ====
section
/-! DEFINITION. Rootstock and the Scions (R574 to R615): plots, interrupts and doorbells, the fast-entry unit, Wilted cores, the checks
of images, and the takeover. The firmware mailbox stands in Fw. -/

namespace Sys2Proof.Machine

/-! ## Plots (R579 to R582) -/

/-- SCN_c_STATUS.STATE (R613): 0 OFF, 1 RUN, 2 WILTED, 3 RESTARTING, 4 DRAINING, 5 SWITCHING, 6 DEAD. -/
def State.scnState (s : State) (c : Nat) : Nat := s.get (SCN_STATUS_STATE c)

/-- Byte addresses of a plot field. -/
def plotBase (v : Nat) : Nat := v * 4096

/-- Plot k of a set of core c covers n bytes from core address a. -/
def State.plotCovers (s : State) (c k a n : Nat) : Bool :=
  let vb := plotBase (s.get (SCN_PLOT_VB c k))
  s.on (SCN_PLOT_ATTR_EN c k) && decide (vb ≤ a) && decide (a + n ≤ vb + 2 ^ s.get (SCN_PLOT_ATTR_SIZE c k))

/-- The bytes of a target of R581 that a window may take: local memory, HBM, BAR0. -/
def targetSize (t : Nat) : Nat := if t = 0 then 262144 else if t = 1 then hbmTop else 0x10000000

/-- Two ranges of bytes overlap. -/
def overlap (a n b m : Nat) : Bool := decide (a < b + m) && decide (b < a + n)

/-- The fields of plot k in the active or the standby set: VB, TB, EN and SIZE. -/
def State.plotOf (s : State) (standby : Bool) (c k : Nat) : Nat × Nat × Bool × Nat :=
  if standby then (plotBase (s.get (SCN_SPLOT_VB c k)), plotBase (s.get (SCN_SPLOT_TB c k)), s.on (SCN_SPLOT_ATTR_EN c k),
    s.get (SCN_SPLOT_ATTR_SIZE c k))
  else (plotBase (s.get (SCN_PLOT_VB c k)), plotBase (s.get (SCN_PLOT_TB c k)), s.on (SCN_PLOT_ATTR_EN c k),
    s.get (SCN_PLOT_ATTR_SIZE c k))

/-- An ATTR that R581 allows with EN = 1. -/
def State.plotOk (s : State) (standby : Bool) (c k attr : Nat) : Bool :=
  let size := bits attr 0 6
  let tgt := bits attr 26 2
  let (vb, tb, _, _) := s.plotOf standby c k
  let n := 2 ^ size
  decide (12 ≤ size) && decide (size ≤ 36) && decide (vb % n = 0) && decide (tb % n = 0) && decide (tgt ≠ 3)
    && decide (tb + n ≤ targetSize tgt) && !(tgt == 2 && overlap tb n 0x600000 0xA00000) && !(bitAt attr 28 && tgt != 0)
    && (List.range 8).all fun j =>
      let (vb', _, en, size') := s.plotOf standby c j
      decide (j = k) || !en || !overlap vb n vb' (2 ^ size')

/-- The ATTR fields of plot k written; with EN cleared where the write is refused. -/
def State.putAttr (s : State) (standby : Bool) (c k attr : Nat) (en : Bool) : State :=
  if standby then
    (((((s.flag (SCN_SPLOT_ATTR_EN c k) en).flag (SCN_SPLOT_ATTR_R c k) (bitAt attr 30)).flag (SCN_SPLOT_ATTR_W c k) (bitAt attr 29)).flag
      (SCN_SPLOT_ATTR_X c k) (bitAt attr 28)).put (SCN_SPLOT_ATTR_TGT c k) (bits attr 26 2)).put (SCN_SPLOT_ATTR_SIZE c k) (bits attr 0 6)
  else
    (((((s.flag (SCN_PLOT_ATTR_EN c k) en).flag (SCN_PLOT_ATTR_R c k) (bitAt attr 30)).flag (SCN_PLOT_ATTR_W c k) (bitAt attr 29)).flag
      (SCN_PLOT_ATTR_X c k) (bitAt attr 28)).put (SCN_PLOT_ATTR_TGT c k) (bits attr 26 2)).put (SCN_PLOT_ATTR_SIZE c k) (bits attr 0 6)

/-- The plots of core c that take part in an access: those of the active set that are enabled and cover all of its bytes with the needed
permission; LR, SC and the AMOs only where the target is local memory or HBM; no load from a Scion area (R576, R580, R652). -/
def State.plotAllows (s : State) (c : Nat) (kind : Access) (a n : Nat) : Bool :=
  (List.range 8).any fun k => s.plotCovers c k a n &&
    let r := s.on (SCN_PLOT_ATTR_R c k)
    let w := s.on (SCN_PLOT_ATTR_W c k)
    let mem := s.get (SCN_PLOT_ATTR_TGT c k) != 2
    let t := plotBase (s.get (SCN_PLOT_TB c k)) + (a - plotBase (s.get (SCN_PLOT_VB c k)))
    let area := s.get (SCN_PLOT_ATTR_TGT c k) == 1 && hbmScionArea t n
    match kind with
    | .load => r && !area
    | .store => w
    | .fetch => s.on (SCN_PLOT_ATTR_X c k)
    | .lr => r && mem && !area
    | .sc => r && w && mem
    | .amo => r && w && mem

/-- mcause of the access fault: 1, 5 or 7 (R580). -/
def accessCause : Access → Nat
  | .fetch => 1
  | .load => 5
  | .lr => 5
  | .store => 7
  | .sc => 7
  | .amo => 7

/-- A Scion's plots are frozen from its entry to Wilted until its restart (R582, R589, R592). -/
def State.plotsFrozen (s : State) (c : Nat) : Bool := s.scnState c == 2 || s.scnState c == 3

/-- PLOT_WRITE: a write of ATTR of an active or standby plot by Rootstock (R581, R582). A refused write with EN leaves the plot
disabled; TGT 0b11 is refused (R614). -/
def effPlotWrite (req : Req) (core : Fin 16) (standby : Bool) (plot : Fin 8) (data : BitVec 32) (s : State) : Out :=
  let c := core.val
  let k := plot.val
  let d := data.toNat
  if req ≠ Req.rootstock || s.plotsFrozen c || bits d 26 2 = 3 then .next s
  else
    s.inDomain (3 + c / 4) (fun s =>
      if !bitAt d 31 then s.putAttr standby c k d false
      else if s.plotOk standby c k d then s.putAttr standby c k d true
      else if standby then s.put (SCN_SPLOT_ATTR_EN c k) 0
      else s.put (SCN_PLOT_ATTR_EN c k) 0) |> .next

/-- PLOT_WRITE: its effect, where the write reaches SCN_PLOT_ATTR (R46, R753, R770, R776). -/
def execPlotWrite (req : Req) (core : Fin 16) (standby : Bool) (plot : Fin 8) (data : BitVec 32) (s : State) : Out :=
  s.reachReg req (0x601040+0x400*core.val) (effPlotWrite req core standby plot data)

/-- PLOT_ACCESS_FAULT: an access of a running Scion, at pc, that no plot allows is not made: the core takes the access-fault exception, with
mepc, mcause and mtval as the RISC-V privileged architecture sets them, and NPLOTF counts (R580). One that a plot allows is no fault. -/
def execPlotAccessFault (core : Fin 16) (kind : Access) (addr : BitVec 40) (bytes : Fin 65) (pc : BitVec 64) (s : State) : Out :=
  let c := core.val
  if !s.scnRuns c || s.plotAllows c kind addr.toNat bytes.val then .next s
  else
    let k := s.core c
    .next ((s.setCore c { k with csr := [pc.toNat, accessCause kind, addr.toNat, k.csr.getD 3 0] }).inc (SCN_NPLOTF c))

/-! ## Interrupts and doorbells (R583, R584) -/

/-- INTERRUPT_PENDING: 16 fc after it was raised, an input of a core becomes pending (R584). -/
def execInterruptPending (core : Fin 17) (input : Fin 336) (s : State) : Out :=
  let k := s.core core.val
  match k.arriving.find? fun e => e.1 == input.val with
  | none => .next s
  | some e => .next (s.setCore core.val
      { k with arriving := k.arriving.filter fun x => x.1 != e.1, pending := addInput k.pending e.1 e.2 })

/-- Pending inputs that are not masked. -/
def Core.ready (k : Core) : List (Nat × Nat) := k.pending.filter fun e => !k.masked.contains e.1

/-- The input with the highest priority, the lowest number among equals (R584). -/
def topInput : List (Nat × Nat) → Option (Nat × Nat)
  | [] => none
  | e :: es =>
    match topInput es with
    | none => some e
    | some f => if f.2 < e.2 || (f.2 = e.2 && e.1 < f.1) then some e else some f

/-- The machine external interrupt pending bit of a core whose threshold CSR holds thr (R584). -/
def Core.meip (k : Core) (thr : Nat) : Bool :=
  match topInput k.ready with
  | none => false
  | some e => decide (thr < e.2)

/-- INTERRUPT_CLAIM: a read of CSR 0x7C2 returns the input number plus 1 and masks the input, or returns 0 (R584). -/
def execInterruptClaim (core : Fin 17) (s : State) : Out :=
  let k := s.core core.val
  match topInput k.ready with
  | none => .next (s.setCore core.val { k with claim := 0 })
  | some e => .next (s.setCore core.val
      { k with claim := e.1 + 1, pending := k.pending.filter fun x => x.1 != e.1, masked := insertNat e.1 k.masked })

/-- INTERRUPT_COMPLETE: a write of CSR 0x7C3 unmasks the input (R584). -/
def execInterruptComplete (core : Fin 17) (value : BitVec 32) (s : State) : Out :=
  let k := s.core core.val
  if value = 0#32 then .next s
  else .next (s.setCore core.val { k with masked := k.masked.filter fun i => i + 1 != value.toNat })

/-- DOORBELL: the active pair rings doorbells of a Scion; doorbell d is input 320 + d, of priority 15 (R583, R584). -/
def effDoorbell (req : Req) (core : Fin 16) (data : BitVec 32) (s : State) : Out :=
  if req = Req.rootstock then
    .next (s.inDomain (3 + core.val / 4) fun s =>
      (List.range 16).foldl (fun t d => if bitAt data.toNat d then t.deliverTo core.val (320 + d) 15 else t) s)
  else .next s

/-- DOORBELL: its effect, where the write reaches SCN_DOORBELL (R46, R753, R770, R776). -/
def execDoorbell (req : Req) (core : Fin 16) (data : BitVec 32) (s : State) : Out :=
  s.reachReg req (0x601014+0x400*core.val) (effDoorbell req core data)

/-! ## Images (R594 to R598) -/

/-- Image slot n. -/
def State.slotImg (s : State) (n : Nat) : List (BitVec 8) := Assoc.get [] s.rsc.slots n

/-- Key slot n, 1 to 4. -/
def State.keySlot (s : State) (n : Nat) : KeySlot := Assoc.get ⟨0, 0, false⟩ s.rsc.keys n

/-- Bytes of an image or record. -/
def imgBytes (img : List (BitVec 8)) (a n : Nat) : List (BitVec 8) := (img.drop a).take n

/-- A little-endian header word at a byte offset. -/
def hdrWord (img : List (BitVec 8)) (a : Nat) : Nat := ofBytes (imgBytes img a 4)

/-- CLASS, SIGNER, VERSION, ROLLBACK, LENGTH and ENTRY (R594). -/
def imgClass (img : List (BitVec 8)) : Nat := hdrWord img 0x008
/-- SIGNER. -/
def imgSigner (img : List (BitVec 8)) : Nat := hdrWord img 0x00C
/-- VERSION. -/
def imgVersion (img : List (BitVec 8)) : Nat := hdrWord img 0x010
/-- ROLLBACK. -/
def imgRollback (img : List (BitVec 8)) : Nat := hdrWord img 0x014
/-- LENGTH. -/
def imgLength (img : List (BitVec 8)) : Nat := hdrWord img 0x018
/-- ENTRY. -/
def imgEntry (img : List (BitVec 8)) : Nat := hdrWord img 0x01C
/-- The payload. -/
def imgPayload (img : List (BitVec 8)) : List (BitVec 8) := imgBytes img 0x140 (imgLength img)

/-- Every byte is 0. -/
def zeroBytes (bs : List (BitVec 8)) : Bool := bs.all fun b => b == 0

/-- LENGTH and ENTRY fit the class (R594); ENTRY lies in local memory. -/
def imgSizesOk (img : List (BitVec 8)) : Bool :=
  let n := imgLength img
  let e := imgEntry img
  if imgClass img = 1 then n % 16 == 0 && decide (16 ≤ n) && decide (n ≤ 458752) && decide (e < 524288)
  else if imgClass img = 2 then n % 16 == 0 && decide (16 ≤ n) && decide (n ≤ 262144) && decide (e < 262144)
  else if imgClass img = 3 then n == 64 && e == 0
  else true

/-- The bytes of a key-slot record's payload are as R595 states. -/
def recordOk (p : List (BitVec 8)) : Bool :=
  let b (i : Nat) := (p.getD i 0).toNat
  (b 0 == 1 || b 0 == 2) && decide (1 ≤ b 1) && decide (b 1 ≤ 4) && decide (b 2 ≤ 1) && zeroBytes (imgBytes p 3 13)
    && (b 0 == 1 || zeroBytes (imgBytes p 16 48))

/-- The FORMAT check of R596. -/
def imgFormatOk (img : List (BitVec 8)) : Bool :=
  decide (320 ≤ img.length) && decide (hdrWord img 0 = 0x32474D49) && decide (hdrWord img 4 = 1) && zeroBytes (imgBytes img 0x020 32)
    && zeroBytes (imgBytes img 0x070 16) && imgSizesOk img && decide (320 + imgLength img ≤ img.length)
    && (imgClass img != 3 || recordOk (imgPayload img))

/-- The hash of the key that a signer names, where the class may take that signer (R596). -/
def State.signerHash (s : State) (cls signer : Nat) : Option Nat :=
  if signer = 0 then some Config.vendorKeyHash
  else if cls = 1 || 4 < signer then none
  else
    let k := s.keySlot signer
    if k.st = 1 && (cls != 3 || k.auth) then some k.hash else none

/-- The result of the checks of R596 on an item of which class cls is wanted: 0, or the code of the first that fails. -/
def State.verify (s : State) (img : List (BitVec 8)) (cls : Nat) : Nat :=
  let pub := imgBytes img 0x080 96
  let sig := imgBytes img 0x0E0 96
  if !imgFormatOk img then 0x02
  else if imgClass img ≠ cls then 0x07
  else if s.signerHash cls (imgSigner img) ≠ some (sha384 pub) then 0x05
  else if sha384 (imgPayload img) ≠ beNat (imgBytes img 0x040 48) then 0x03
  else if !p384Verify (beNat (pub.take 48)) (beNat (pub.drop 48)) (sha384 (img.take 0x0E0)) (beNat (sig.take 48)) (beNat (sig.drop 48)) then
    0x04
  else if imgRollback img < s.get (RSC_RBK (cls - 1)) then 0x06
  else 0

/-- The rollback counter of a class rises to an accepted item's ROLLBACK (R597). -/
def State.raiseRollback (s : State) (cls : Nat) (img : List (BitVec 8)) : State :=
  s.put (RSC_RBK (cls - 1)) (max (s.get (RSC_RBK (cls - 1))) (imgRollback img))

/-- A local memory that holds a payload from its start, and zeros (R592). -/
def memOf (bs : List (BitVec 8)) : List Host.Cell := memPut [] 0 bs

/-! ## Wilted cores (R589 to R593) -/

/-- A Scion enters Wilted (R589 to R591, R630): cause 1 ALIGN, 2 PLOT, 3 DEPTH, 4 POPFAULT; x and csr are the core's registers. -/
def State.wilt (s : State) (c cause : Nat) (x : List (Nat × Nat)) (csr : List Nat) : State :=
  let k := s.core c
  let recent := k.wilts.filter fun t => decide (s.time.rc < t + 100000000)
  let s1 := s.setCore c { k with x := x, csr := csr, gvc := s.clk.gvc, wilts := s.time.rc :: recent }
  let s2 := ((s1.setScn c 2).put (SCN_STATUS_CAUSE c) cause).inc (SCN_NWILT c)
  (s2.retryCore c).raise srcScnWilted c 0

/-- Registers as the core gives them: x1 to x31 and the trap CSRs. -/
def xRegs (x : List (BitVec 64)) : List (Nat × Nat) :=
  (List.range 31).map fun i => (i + 1, (x.getD i 0).toNat)

/-- The registers of the fast-entry unit in ascending address order (R585). -/
def pushRegs : List Nat := [1, 5, 6, 7, 10, 11, 12, 13, 14, 15, 16, 17, 28, 29, 30, 31]

/-- A register of a core. -/
def xGet (x : List (Nat × Nat)) (r : Nat) : Nat := Assoc.get 0 x r

/-- The offset in local memory of n bytes from address a, if one plot, or for Rootstock its local memory, holds them (R586). -/
def State.pushArea (s : State) (c a n : Nat) : Option Nat :=
  if c = 16 then (if a + n ≤ 524288 then some a else none)
  else
    ((List.range 8).find? fun k => s.plotCovers c k a n && s.get (SCN_PLOT_ATTR_TGT c k) == 0 && s.on (SCN_PLOT_ATTR_R c k)
      && s.on (SCN_PLOT_ATTR_W c k)).map fun k => plotBase (s.get (SCN_PLOT_TB c k)) + (a - plotBase (s.get (SCN_PLOT_VB c k)))

/-- XLEN in bytes. -/
def xlenBytes (c : Nat) : Nat := if c = 16 then 4 else 8

/-- The fast-entry depth of a core. -/
def State.depthOf (s : State) (c : Nat) : Nat := if c = 16 then (s.core 16).depth else s.get (SCN_STATUS_DEPTH c)

/-- The fast-entry depth of a core set. -/
def State.setDepth (s : State) (c d : Nat) : State :=
  if c = 16 then s.setCore 16 { s.core 16 with depth := d } else s.put (SCN_STATUS_DEPTH c) d

/-- A push or restore that fails its checks (R586 to R588). -/
def State.fastFail (s : State) (c cause : Nat) (x : List (Nat × Nat)) (csr : List Nat) : State :=
  if c = 16 then s.enterSafe 7 else s.wilt c cause x csr

/-- A Scion that executes: RUN or DRAINING. -/
def State.executes (s : State) (c : Nat) : Bool := c == 16 || s.scnRuns c

/-- FAST_ENTRY_PUSH: a machine-mode trap with fast entry on; x: x1 to x31 at the trap (R585, R586, R588). -/
def execFastEntryPush (core : Fin 17) (x : List (BitVec 64)) (mepc mcause mtval mstatus : BitVec 64) (s : State) : Out :=
  let c := core.val
  let w := xlenBytes c
  let regs := xRegs x
  let csr := [mepc.toNat, mcause.toNat, mtval.toNat, mstatus.toNat]
  let sp := xGet regs 2
  if !s.executes c then .next s
  else if sp % 16 ≠ 0 then .next (s.fastFail c 1 regs csr)
  else if sp < 16 * w then .next (s.fastFail c 2 regs csr)
  else
    match s.pushArea c (sp - 16 * w) (16 * w) with
    | none => .next (s.fastFail c 2 regs csr)
    | some off =>
      let d := s.depthOf c
      if 15 ≤ d then .next (s.fastFail c 3 regs csr)
      else
        let k := s.core c
        let bytes := pushRegs.flatMap fun r => bytesOf w (xGet regs r)
        let k1 : Core := { k with mem := memPut k.mem off bytes, x := Assoc.insert regs 2 (sp - 16 * w), csr := csr }
        .next ((s.setCore c k1).setDepth c (d + 1))

/-- MRET_RESTORE: an mret with a depth above 0 restores the registers, or fails (R587, R588); x: x1 to x31 before it. -/
def execMretRestore (core : Fin 17) (x : List (BitVec 64)) (mepc mcause mtval mstatus : BitVec 64) (s : State) : Out :=
  let c := core.val
  let w := xlenBytes c
  let regs := xRegs x
  let csr := [mepc.toNat, mcause.toNat, mtval.toNat, mstatus.toNat]
  let sp := xGet regs 2
  let d := s.depthOf c
  if !s.executes c || d = 0 then .next s
  else if sp % 16 ≠ 0 then .next (s.fastFail c 4 regs csr)
  else
    match s.pushArea c sp (16 * w) with
    | none => .next (s.fastFail c 4 regs csr)
    | some off =>
      let k := s.core c
      let word (i : Nat) := ofBytes ((List.range w).map fun j => Assoc.get 0 k.mem (off + w * i + j))
      let x1 := (List.range 16).foldl (fun m i => Assoc.insert m (pushRegs.getD i 0) (word i)) regs
      .next ((s.setCore c { k with x := Assoc.insert x1 2 (sp + 16 * w), csr := csr }).setDepth c (d - 1))

/-- SCN_c_WREC from the captured registers (R590). -/
def State.writeWrec (s : State) (c : Nat) : State :=
  let k := s.core c
  let s1 := (List.range 32).foldl (fun t r => t.put64 (SCN_WREC_X_LO c r) (SCN_WREC_X_HI c r) (xGet k.x r)) s
  let two (t : State) (f : Nat → Nat → Field) (v : Nat) := t.put64 (f c 0) (f c 1) v
  let s2 := two (two (two (two s1 SCN_WREC_MEPC (k.csr.getD 0 0)) SCN_WREC_MCAUSE (k.csr.getD 1 0)) SCN_WREC_MTVAL (k.csr.getD 2 0))
    SCN_WREC_MSTATUS (k.csr.getD 3 0)
  two (s2.put (SCN_WREC_CAUSE c) (s.get (SCN_STATUS_CAUSE c))) SCN_WREC_GVC k.gvc

/-- Rootstock's own Almanac entry for a Wilted core (R590). -/
def State.wiltEntry (s : State) (c : Nat) : State :=
  s.evrAppend (evrWords srcScnWilted 2 false false (s.on WTM_STATUS_COARSE) 0 c (s.get (SCN_STATUS_CAUSE c)) s.time.wall
    (s.get EVR_WPTR) s.stamp)

/-- A core that a graft has in hand after its step 1 (R605). -/
def State.grafting (s : State) (c : Nat) : Bool :=
  match s.rsc.graft with
  | some g => g.loaded && g.cores.head? == some c
  | none => false

/-- A core is on its way to a restart: its local memory is cleared (R592). -/
def State.beginRestart (s : State) (c : Nat) : State :=
  (s.setCore c { s.core c with mem := [], x := [], csr := [0, 0, 0, 0] }).setScn c 3

/-- WILTED_CAPTURE_DONE: the capture ends, with a dump if RSC_CFG asks for one (R590). A graft goes on to its switch (R606), a fourth
entry within 1,000 ms leads to DEAD (R593), and otherwise the restart begins (R592). -/
def execWiltedCaptureDone (core : Fin 16) (s : State) : Out :=
  let c := core.val
  if s.scnState c ≠ 2 then .next s
  else
    let dump := (List.range 262144).map fun i => Assoc.get 0 (s.core c).mem i
    let s1 := if s.on RSC_CFG_DUMP then s.memWrite (0xA80000000 + 0x40000 * c) dump else s
    let s2 := (s1.writeWrec c).wiltEntry c
    if s.grafting c then .next (s2.put (SCN_STATUS_STATE c) 5)
    else if 4 ≤ (s.core c).wilts.length then .next ((s2.put (SCN_STATUS_STATE c) 6).raise srcScnDead c 0)
    else .next (s2.beginRestart c)

/-- SCION_RESTART_DONE: the image of the core's slot passes its hash check and the core runs, or it goes to DEAD (R592). -/
def execScionRestartDone (core : Fin 16) (s : State) : Out :=
  let c := core.val
  let img := s.slotImg (s.get (SCN_IMG_SLOT c))
  if s.scnState c ≠ 3 then .next s
  else if img.length < 320 || sha384 (imgPayload img) ≠ beNat (imgBytes img 0x040 48) then
    .next ((s.put (SCN_STATUS_STATE c) 6).raise srcScnDead c 0)
  else
    let s1 := s.setCore c { s.core c with mem := memOf (imgPayload img) }
    .next ((s1.put (SCN_STATUS_DEPTH c) 0).put (SCN_STATUS_STATE c) 1)

/-- SCN_RESTART: RESTART written by the active pair (R612). A DEAD core waits for a graft or SRESTART (R593). -/
def effScnRestart (req : Req) (core : Fin 16) (s : State) : Out :=
  let c := core.val
  if req ≠ Req.rootstock || s.scnState c = 6 then .next s
  else .next (s.inDomain (3 + c / 4) fun s => s.beginRestart c)

/-- SCN_RESTART: its effect, where the write reaches SCN_CTRL (R46, R753, R770, R776). -/
def execScnRestart (req : Req) (core : Fin 16) (s : State) : Out :=
  s.reachReg req (0x601000+0x400*core.val) (effScnRestart req core)

/-! ## The active pair and its standby (R577, R608 to R611) -/

/-- A mailbox command ends: RESULT, TAG, the count and FW_DONE (R603). -/
def State.fwEnd (s : State) (result : Nat) : State :=
  let s1 : State := { s with rsc := { s.rsc with cmd := none, result := none } }
  ((((s1.put GLB_FW_STATUS_RESULT result).put GLB_FW_STATUS_TAG (s.get GLB_FW_CMD_TAG)).put GLB_FW_STATUS_BUSY 0).inc GLB_FW_SEQ).event
    srcFwDone

/-- The other pair. -/
def otherPair (a : Nat) : Nat := if a = 1 then 2 else 1

/-- The standby takes RSO authority (R608): ACTIVE, the non-volatile record and boot slot, and the class-1 counter. -/
def State.passAuthority (s : State) : State :=
  let a := otherPair (s.get RSC_STATUS_ACTIVE)
  let s1 := (s.put RSC_STATUS_ACTIVE a).put RSC_STATUS_SBYREADY 0
  let s2 : State := { s1 with rsc := { s1.rsc with active := a, kick := some s.time.rc, bootSlot := s.rsc.sbySlot, runSlot := s.rsc.sbySlot } }
  s2.raiseRollback 1 (s.slotImg s.rsc.sbySlot)

/-- A takeover, which holds the failed pair in reset, or the safe state where no standby is ready (R577, R610). -/
def State.takeover (s : State) : State :=
  if !s.on RSC_STATUS_SBYREADY then s.enterSafe 6
  else
    let s1 := ((s.passAuthority.put RSC_STATUS_REBUILT 1).put RSC_STATUS_HOSTATE 0).inc RSC_NTAKEOVER
    let s2 : State := { s1 with rsc := { s1.rsc with handover := none, held := true } }
    let s3 := s2.event srcRscTakeover
    if s.on GLB_FW_STATUS_BUSY then s3.fwEnd 0x0B else s3

/-- RSC_LOCKSTEP: a mismatch in the active or the standby pair (R577, R611). A standby that fails is held in reset, but during a handover
it boots the active pair's slot. -/
def execRscLockstep (standby : Bool) (s : State) : Out :=
  let s1 := s.event srcRscLockstep
  if !standby then .next s1.takeover
  else
    let s2 := s1.put RSC_STATUS_SBYREADY 0
    match s2.rsc.handover with
    | none => .next { s2 with rsc := { s2.rsc with held := true } }
    | some _ =>
      .next { s2.put RSC_STATUS_HOSTATE 0 with rsc := { s2.rsc with handover := none, sbySlot := s2.rsc.bootSlot, result := some 0x0B } }

/-- RSC_WDOG_KICK: the active pair kicks its watchdog (R610). -/
def effRscWdogKick (req : Req) (s : State) : Out :=
  if req = Req.rootstock then .next { s with rsc := { s.rsc with kick := some s.time.rc } } else .next s

/-- RSC_WDOG_KICK: its effect, where the write reaches RSC_WDOG_KICK (R46, R753, R770, R776). -/
def execRscWdogKick (req : Req) (s : State) : Out :=
  s.reachReg req 0x600024 (effRscWdogKick req)

/-- RSC_WDOG ms have passed since the last kick, or since the active pair took authority (R610). -/
def State.wdogDue (s : State) : Bool :=
  match s.rsc.kick with
  | some k => decide (k + 100000 * s.get RSC_WDOG ≤ s.time.rc)
  | none => false

/-- RSC_WDOG_EXPIRY: a watchdog period has ended with no kick (R610). -/
def execRscWdogExpiry (s : State) : Out := if s.wdogDue then .next s.takeover else .next s

end Sys2Proof.Machine
end

