-- ==== Sys2Proof/Machine/Pmg.lean ====
section
/-! DEFINITION. Power domains, sleep states, the peak budget and the temperature limits (R768 to R793). -/

namespace Sys2Proof.Machine

/-! ## State requests (R773) -/

/-- A state request is refused with a code of R773. -/
def State.pmgRefuse (s : State) (code : Nat) : State := (s.put PMG_STATUS_REFUSED 1).put PMG_STATUS_REF code

/-- A playlist runs, is queued or is in its start check. -/
def State.playlistAbout (s : State) : Bool := s.seq.running.isSome || s.seq.queued.isSome

/-- A loop-bus port is enabled, or a loop with a loop-bus sink is not OFF. -/
def State.loopsUp (s : State) : Bool :=
  ((List.range 4).any fun p => s.on (CLE_LB_CTRL_EN p)) ||
    (List.range 64).any fun n => s.get (CLE_CFG_SINK n) == 1 && s.get (CLE_LSTATUS_MODE n) != 0

/-- The first condition of R773 that a request for a state fails, 0 if it fails none: which is 0 DORMANT, 1 WAKE, 2 BUDDING, 3 BLOOM. -/
def State.pmgCode (s : State) (which : Nat) : Nat :=
  let st := s.get PMG_STATUS_STATE
  let stateOk := if which = 0 then st == 2 else if which = 1 then st == 1 || st == 6 else if which = 2 then st == 3 else st == 2
  if !stateOk then 1
  else if s.inSafe || s.frozen then 2
  else if (which = 0 || which = 2) && s.playlistAbout then 3
  else if which ≠ 0 then 0
  else if s.loopsUp then 4
  else if (List.range 8).any (fun n => s.on (SEG_STR_STATUS_OPEN n)) then 5
  else if !s.cal.queue.isEmpty || !s.cal.running.isEmpty then 6
  else 0

/-- A state request of the host or the active Rootstock pair: k if it is accepted (R773). -/
def State.pmgRequest (s : State) (req : Req) (which : Nat) (k : State → State) : State :=
  if req ≠ Req.host && req ≠ Req.rootstock then s
  else if s.pmgCode which ≠ 0 then s.pmgRefuse (s.pmgCode which)
  else k s

/-! ## Dormant (R774 to R776) -/

/-- SINKING begins (R774): the group is left, ports enter FALLOW, the gate closes, HBM enters self refresh, and guard monitors and
loops lose their clock (R492, R537, R673). -/
def State.sink (s : State) : State :=
  let s1 := ((((s.closeGate.ownRoot).put CLK_GRP_STATUS_STARTED 0).put CLK_GRP_STATUS_FORMED 0).put CLK_GRP_STATUS_STARTPEND 0).setDet
  let s2 := (List.range 4).foldl (fun t p => if t.portState p = 4 then
      (List.range 4).foldl (fun u l => u.put (LNK_LSTATUS_LOCK p l) 0) (t.put (LNK_AZ_STATUS_STATE p) 5) else t) s1
  let s3 : State := { s2.put CLK_STATUS_LOCKED 0 with clk := { s2.clk with relocking := false, startMsg := none, joinUntil := none } }
  (((s3.put HBC_STATUS_INSERVICE 0).cleClockStop).enterState 6)

/-- PMG_DORMANT: a DORMANT request (R773, R774). -/
def effPmgDormant (req : Req) (s : State) : Out := .next (s.pmgRequest req 0 State.sink)

/-- PMG_DORMANT: its effect, where the write reaches PMG_CTRL (R46, R753, R770, R776). -/
def execPmgDormant (req : Req) (s : State) : Out :=
  s.reachReg req 0x30000 (effPmgDormant req)

/-- The domains of Dormant (R768). -/
def State.dormantDomains (s : State) : State :=
  (s.put PMG_DOM_ON0 (if s.get LNK_PCIE_STATUS_LPWR = 2 then 1 else 1 + 2 ^ 21)).put PMG_DOM_ON1 0

/-- SINK_DONE: SINKING ends in DORMANT (R774), with every driver off (R776, R777); the wall time steps coarsely (R711), and a wake that waits starts (R781). -/
def execSinkDone (s : State) : Out :=
  if s.get PMG_STATUS_STATE ≠ 6 || s.grd.powerLoss then .next s
  else
    let s0 := allChannels.foldl (fun t c => t.setChan c { t.chan c with drv := 0 }) s
    let s1 := (s0.dormantDomains.put WTM_STATUS_COARSE 1).enterState 1
    .next (if s1.pmg.wakePending then s1.startWake else s1)

/-- PMG_WAKE: a WAKE request (R773, R775, R781). -/
def effPmgWake (req : Req) (s : State) : Out := .next (s.pmgRequest req 1 State.startWake)

/-- PMG_WAKE: its effect, where the write reaches PMG_CTRL (R46, R753, R770, R776). -/
def execPmgWake (req : Req) (s : State) : Out :=
  s.reachReg req 0x30000 (effPmgWake req)

/-- The domains of Budding and Bloom, without those that Rootstock has switched off (R768, R769). Heater bits follow CLE_TH_t_CFG.EN. -/
def State.awakeDomains (s : State) : State :=
  let off0 := s.get PMG_DOM_OFF0
  let off1 := s.get PMG_DOM_OFF1
  (s.put PMG_DOM_ON0 (maskOf 32 fun b => !bitAt off0 b)).put PMG_DOM_ON1 (maskOf 32 fun b => bitAt 0xF00FFFFF b && !bitAt off1 b)

/-- WAKE_DONE: WAKING ends in BUDDING with the gate open (R775). Without REFCLK it waits (R781). -/
def execWakeDone (s : State) : Out :=
  if s.get PMG_STATUS_STATE ≠ 4 || s.on CLK_STATUS_REFLOST || s.grd.powerLoss then .next s
  else
    let s1 := ((s.awakeDomains.put WTM_STATUS_COARSE 0).put HBC_STATUS_INSERVICE (s.get HBC_CTRL_INSERVICE)).startCycles
    let s2 := allChannels.foldl (fun t c => t.beginPass c) s1
    let s3 := (List.range 4).foldl (fun t p => if t.portState p = 5 then t.portActive p (t.get (LNK_AZ_STATUS_LANES p)) else t) s2
    let s4 := if s3.on CLK_CTRL_HOLD then s3.relocked else s3.relocked.openGate (s3.clk.gvc + 1)
    .next ((s4.put PMG_WAKE_US ((s.time.rc - s.pmg.wakeFrom) / 100)).enterState 2)

/-! ## Budding and Bloom (R777 to R780) -/

/-- PMG_BUDDING: a BUDDING request (R780). -/
def effPmgBudding (req : Req) (s : State) : Out := .next (s.pmgRequest req 2 fun t => t.enterState 2)

/-- PMG_BUDDING: its effect, where the write reaches PMG_CTRL (R46, R753, R770, R776). -/
def execPmgBudding (req : Req) (s : State) : Out :=
  s.reachReg req 0x30000 (effPmgBudding req)

/-- PMG_BLOOM: a BLOOM request (R779). -/
def effPmgBloom (req : Req) (s : State) : Out := .next (s.pmgRequest req 3 fun t => t.enterState 5)

/-- PMG_BLOOM: its effect, where the write reaches PMG_CTRL (R46, R753, R770, R776). -/
def execPmgBloom (req : Req) (s : State) : Out :=
  s.reachReg req 0x30000 (effPmgBloom req)

/-- BLOOMING_DONE: every tile is at full bias, and TSETTLED where WAITSETTLE asks for it (R779). -/
def execBloomingDone (s : State) : Out :=
  if s.get PMG_STATUS_STATE ≠ 5 || s.grd.powerLoss || (s.on PMG_CFG_WAITSETTLE && !s.on CLE_STATUS_TSETTLED) then .next s
  else .next (s.enterState 3)

/-- BLOOM_IDLE_TIMEOUT: IDLE_MS with no playlist and no entry that asks for a tile at full bias (R780). -/
def execBloomIdleTimeout (s : State) : Out :=
  if s.get PMG_STATUS_STATE ≠ 3 || s.get PMG_CFG_IDLE_MS = 0 || !s.bloomIdle || s.pmg.idleRc < 100000 * s.get PMG_CFG_IDLE_MS then
    .next s
  else .next (s.enterState 2)

/-! ## Domains (R769) -/

/-- The domain is switchable (R768). -/
def switchable (d : Nat) : Bool :=
  (decide (3 ≤ d) && decide (d ≤ 6)) || (decide (12 ≤ d) && decide (d ≤ 14)) || (decide (22 ≤ d) && decide (d ≤ 25))
    || (decide (30 ≤ d) && decide (d ≤ 51) && d % 3 == 0) || d == 61

/-- The condition of R769 for switching a domain off. -/
def State.offOk (s : State) (d : Nat) : Bool :=
  if d ≤ 6 then (List.range 4).all fun i => s.scnState (4 * (d - 3) + i) == 0 || s.scnState (4 * (d - 3) + i) == 6
  else if d ≤ 13 then
    ((List.range 8).all fun i => s.get (TIU_STATUS_OWNER (8 * (d - 12) + i)) == 0) &&
      (s.cal.queue ++ s.cal.running).all fun e => e.kind != 7 || e.target / 8 != d - 12
  else if d = 14 then (List.range 32).all fun n => !s.on (DFC_STATUS_RUN n)
  else if d ≤ 25 then s.portState (d - 22) == 0
  else if d = 61 then true
  else (List.range 4).all fun i => s.get (PMU_STATUS_OWNER (4 * ((d - 30) / 3) + i)) == 0

/-- The word of PMG_DOM_ON and of PMG_DOM_OFF that holds a domain. -/
def domOnWord (d : Nat) : Field := if d < 32 then PMG_DOM_ON0 else PMG_DOM_ON1
/-- PMG_DOM_OFF. -/
def domOffWord (d : Nat) : Field := if d < 32 then PMG_DOM_OFF0 else PMG_DOM_OFF1

/-- A domain switches on or off, and the request bit with it; in Dormant only the request is kept. -/
def State.switchDom (s : State) (d : Nat) (on : Bool) : State :=
  let set (w : Nat) (b : Bool) := if b then setBitN w (d % 32) else clrBitN w (d % 32)
  let s1 := s.put (domOffWord d) (set (s.get (domOffWord d)) (!on))
  if s.sleeping then s1 else s1.put (domOnWord d) (set (s.get (domOnWord d)) on)

/-- One bit of a write of PMG_DOM_OFF (R769). -/
def State.domBit (s : State) (d : Nat) (off : Bool) : State :=
  let isOff := bitAt (s.get (domOffWord d)) (d % 32)
  if off then
    if isOff then s
    else if switchable d && s.offOk d then s.switchDom d false
    else (s.put PMG_STATUS_DOMREF 1).put PMG_STATUS_REF 7
  else if isOff then s.switchDom d true
  else s

/-- PMG_DOM_OFF_WRITE: a write of PMG_DOM_OFF0 or PMG_DOM_OFF1 by the active Rootstock pair (R769). -/
def effPmgDomOffWrite (req : Req) (word : Fin 2) (data : BitVec 32) (s : State) : Out :=
  if req = Req.rootstock then
    .next ((List.range 32).foldl (fun t b => t.domBit (32 * word.val + b) (bitAt data.toNat b)) s)
  else .next s

/-- PMG_DOM_OFF_WRITE: its effect, where the write reaches PMG_DOM_OFF (R46, R753, R770, R776). -/
def execPmgDomOffWrite (req : Req) (word : Fin 2) (data : BitVec 32) (s : State) : Out :=
  s.reachReg req 0x30038 (effPmgDomOffWrite req word data)

/-! ## The peak budget (R783 to R786) -/

/-- One PWR_OVERCLASS. -/
def State.overclass (s : State) (value : Nat) : State :=
  (s.inc PMG_NOVER).raise srcPwrOverclass ((s.seq.running.map (·.number)).getD 0) value

/-- The slot that ends now gives its excess to the bucket, and the next one begins with the power declared now (R784). -/
def State.endSlot (s : State) (m : Nat) : State :=
  let s1 : State := { s.put PMG_PMEAS m with pmg := { s.pmg with
    excess := ((max s.pmg.declMax m - 520000) :: s.pmg.excess).take 999, declMax := s.get PMG_PDECL, slot := s.pmg.slot + 1 } }
  s1.setBucket

/-- POWER_SLOT: the current slot, one FCL_MS, has ended with its measured power in mW (R784, R786); before its end nothing happens. -/
def execPowerSlot (meas : BitVec 20) (s : State) : Out :=
  let m := meas.toNat
  let decl := s.pmg.declMax
  let s1 := s.endSlot m
  let ms := s.pmg.slot
  if s.nowMs ≤ s.pmg.slot then .next s else
  match s.seq.running with
  | none => .next s1
  | some p =>
    let quiet := match s.pmg.overAt with
      | some t => decide (ms < t + 1000)
      | none => false
    let s2 := if decl * 103 < m * 100 && !quiet then
        ({ s1 with pmg := { s1.pmg with overAt := some ms } } : State).overclass 1 else s1
    if p.pclass = 7 && s2.get PMG_BUCKET = 0 && !s2.pmg.drained then
      .next (({ s2 with pmg := { s2.pmg with drained := true } } : State).overclass 2)
    else .next s2

/-! ## Temperature limits (R787, R788) -/

/-- The reading of die d in 1/128 °C. -/
def State.dieTemp (s : State) (d : Nat) : Int := signedOf 16 (s.get (PMG_TEMP_T d))

/-- Every die is below a temperature. -/
def State.allBelow (s : State) (t : Int) : Bool := (List.range 9).all fun d => decide (s.dieTemp d < t)

/-- PMG_TMAX shows the hottest die. -/
def State.setTmax (s : State) : State :=
  let h := (List.range 9).foldl (fun b d => if s.dieTemp b < s.dieTemp d then d else b) 0
  (s.put PMG_TMAX_DIE h).put PMG_TMAX_TEMP (s.get (PMG_TEMP_T h))

/-- The warning threshold is reached by die d (R788). -/
def State.thermWarn (s : State) (d : Nat) : State :=
  if s.on PMG_STATUS_WARN then s else (s.put PMG_STATUS_WARN 1).raise srcThermWarn d 0

/-- The thermal stop threshold is reached by die d (R788). -/
def State.thermStop (s : State) (d : Nat) : State :=
  if s.on PMG_STATUS_STOPHOLD then s
  else
    let s1 := ((s.put PMG_STATUS_STOPHOLD 1).inc PMG_NTSTOP).raise srcThermalStop d 0
    (s1.recordAll 3).endPlaylist 0xC

/-- What ends below its temperature (R788): the warning at 102 °C, the stop hold at 100 °C, the trip at 105 °C. -/
def State.thermEnds (s : State) : State :=
  let s1 := if s.allBelow 13056 then s.put PMG_STATUS_WARN 0 else s
  let s2 := if s.allBelow 12800 then s1.put PMG_STATUS_STOPHOLD 0 else s1
  if s.allBelow 13440 then (s2.put PMG_STATUS_TRIPHOLD 0).put GRD_STATUS_THERM 0 else s2

/-- TEMP_SAMPLE: die d is sampled: 0 the core die, 1 + t tile t (R787, R788). A reading with a sensor fault is shown and not judged. -/
def execTempSample (die : Fin 9) (fault : Bool) (temp : BitVec 16) (s : State) : Out :=
  let d := die.val
  let s1 := ((s.flag (PMG_TEMP_FAULT d) fault).put (PMG_TEMP_T d) temp.toNat).setTmax
  if fault then .next s1
  else
    let s2 := if 13440 ≤ temp.toInt then s1.thermWarn d else s1
    let s3 := if 14336 ≤ temp.toInt then s2.thermStop d else s2
    .next s3.thermEnds

/-- THERM_TRIP: the comparator of a die at 125 °C trips every channel; the warning and the stop stand as well (R503, R788). -/
def execThermTrip (die : Fin 9) (s : State) : Out :=
  let d := die.val
  if s.on PMG_STATUS_TRIPHOLD then .next s
  else
    let s1 := ((s.put PMG_STATUS_TRIPHOLD 1).put GRD_STATUS_THERM 1).raise srcThermTrip d 0
    .next (((s1.trip 1002 allChannels).thermWarn d).thermStop d)

end Sys2Proof.Machine
end

