-- ==== Sys2Proof/Machine/Reset.lean ====
section
/-! DEFINITION. Resets (R794 to R806): what each kind keeps, the end of a reset with the boot of R600, function-level resets and
PERST_N, and TEST_EN (R30). -/

namespace Sys2Proof.Machine

/-! ## What a reset keeps (R796) -/

/-- Registers in the non-volatile store, other than calibration results: CLK_ID_REQ, EVR_SETn_INFO and _WPTR, the retirement map, the
keys, the rollback counters, the image slots and SCN_c_IMG. -/
def nvOffset (off : Nat) : Bool :=
  off == 0x2002C || (decide (0x50080 ≤ off) && decide (off < 0x50090)) || off == 0x500018
    || (decide (0x600010 ≤ off) && decide (off < 0x600020)) || (decide (0x600040 ≤ off) && decide (off < 0x600090))
    || (decide (0x601000 ≤ off) && decide (off < 0x605000) && off % 0x400 == 0x8)

/-- Registers that a cold or warm reset keeps besides (R711, R767, R805): FCL_FIRST with its companions, FCL_NOVF and FCL_SRCs_CNT,
EVR_WPTR, INC, and GLB_RST_COUNT. -/
def warmOffset (off : Nat) : Bool :=
  (decide (0x40008 ≤ off) && decide (off < 0x4002C)) || (decide (0x41000 ≤ off) && decide (off < 0x41A00) && off % 8 == 4)
    || off == 0x50004 || off == 0x5C0008 || off == 0x5C000C || off == 0x24

/-- The register cells after a reset of a kind of R722: those that it keeps, with the calibration results and the graft map from the
non-volatile store (R567). -/
def keptCells (kind : Nat) (cells nv : Cells) : Cells :=
  let kept := cells.filter fun e => nvOffset (e.1 / 32) || (kind != 1 && warmOffset (e.1 / 32))
  nv.foldl (fun m e => Assoc.insert m e.1 e.2) kept

/-- GLB_RST_CAUSE for a reset of a kind and a source (R806): what stood when the reset began, which a stronger reset that prevails over
one in force finds shown (R799). -/
def State.rstCause (s : State) (from_ : State) (kind src : Nat) : State :=
  let s1 := (s.put GLB_RST_CAUSE_KIND kind).put GLB_RST_CAUSE_SRC src
  if from_.pins.inReset ≠ 0 then
    (((s1.put GLB_RST_CAUSE_PWRLOSS (from_.get GLB_RST_CAUSE_PWRLOSS)).put GLB_RST_CAUSE_SAFE (from_.get GLB_RST_CAUSE_SAFE)).put
      GLB_RST_CAUSE_SCAUSE (from_.get GLB_RST_CAUSE_SCAUSE)).put GLB_RST_CAUSE_FROZEN (from_.get GLB_RST_CAUSE_FROZEN)
  else
    (((s1.flag GLB_RST_CAUSE_PWRLOSS (from_.frz.afterLoss && !from_.saving)).flag GLB_RST_CAUSE_SAFE from_.inSafe).put
      GLB_RST_CAUSE_SCAUSE (from_.get FCL_STATUS_SCAUSE)).flag GLB_RST_CAUSE_FROZEN from_.frozen

/-- GLB_RST_COUNT counts the reset that ends (R799, R805). -/
def State.countReset (s : State) : State :=
  if s.pins.inReset = 2 then s.incSat GLB_RST_COUNT_COLD else if s.pins.inReset = 3 then s.incSat GLB_RST_COUNT_WARM else s

/-- The image slots after a reset: the target of a STAGE in progress is empty (R799). -/
def RscState.afterReset (r : RscState) : RscState :=
  let slots := match r.cmd with
    | some (1, args) => Assoc.erase r.slots (args.getD 2 0)
    | _ => r.slots
  { slots := slots, keys := r.keys, active := r.active, bootSlot := r.bootSlot, runSlot := r.bootSlot, sbySlot := r.bootSlot
    cmd := none, result := none, graft := none, handover := none, kick := none, held := false }

/-- The state in a reset of a kind of R722 (R795 to R797): every block as after a power-on reset but for what R796 keeps. Calibrations
and grafts end with result RESET (R573). -/
def State.resetState (s : State) (kind src : Nat) : State :=
  let ended := s.cal.running.foldl (fun t e => t.calEnded e 5) s
  let t0 : TimeState := if kind = 1 then State.reset.time else { s.time with adj := none, load := none, seq := 0, stamps := [] }
  let evr0 : EvrState := { ring := if kind = 1 then [] else s.evr.ring, hold := [], set0 := s.evr.set0, set1 := s.evr.set1, lossAt := none }
  let s1 : State := { State.reset with
    pending := s.pending
    cells := keptCells kind s.cells s.cal.nv
    raised := if kind = 1 then [] else ended.raised
    freeCtr := s.freeCtr
    pins := { s.pins with syncUntil := 0, inReset := kind, railLeft := false }
    cal := { State.reset.cal with nv := s.cal.nv }
    time := t0
    pmg := { State.reset.pmg with slot := t0.rc / 100000 }
    evr := evr0
    rsc := s.rsc.afterReset }
  let s2 := s.cal.running.foldl (fun t e => if e.kind ≤ 4 then t.put (CAL_CH_STATUS_LASTRES e.target) 5 else t) s1
  let s3 := match s.rsc.cmd with
    | some (1, args) => if args.getD 2 0 < 10 then s2.put (RSC_SLOT_INFO_VALID (args.getD 2 0)) 0 else s2
    | _ => s2
  (s3.put HBC_RMAP_COPYING 0).rstCause s kind src

/-- A reset comes into force, unless one that prevails is in force (R794, R799), or a power-loss write runs, which only the loss of VDD_AO
cuts short (R47). -/
def State.beginReset (s : State) (kind src : Nat) : State :=
  if (s.pins.inReset ≠ 0 && decide (s.pins.inReset ≤ kind)) || (s.on EVR_STATUS_SAVING && kind != 1) then s else s.resetState kind src

/-- POWER_ON_RESET: VDD_AO leaves its range (R794). -/
def execPowerOnReset (s : State) : Out := .next (s.beginReset 1 0)

/-- COLD_RESET: RESET_N low after a rail left its range (R794); ignored during a power-loss write (R46). -/
def execColdReset (s : State) : Out := if s.saving then .next s else .next (s.beginReset 2 0)

/-- WARM_RESET: RESET_N low with every rail in range since the previous reset; after a rail has left its range it is a cold one (R794).
Ignored during a power-loss write (R46). -/
def execWarmReset (s : State) : Out :=
  if s.saving then .next s else .next (if s.pins.railLeft then s.beginReset 2 0 else s.beginReset 3 1)

/-- WARMRST: the active pair writes FCL_CTRL.WARMRST (R739, R794); ignored during a power-loss write (R799). -/
def effWarmrst (req : Req) (s : State) : Out :=
  if req = Req.rootstock && !s.saving then .next (s.beginReset 3 2) else .next s

/-- WARMRST: its effect, where the write reaches FCL_CTRL (R46, R753, R770, R776). -/
def execWarmrst (req : Req) (s : State) : Out :=
  s.reachReg req 0x40000 (effWarmrst req)

/-- TEST_EN_HIGH: TEST_EN rises or falls; while it is high the device is held in reset (R30), from the end of a power-loss write on
(R47). -/
def execTestEnHigh (high : Bool) (s : State) : Out :=
  if !high then .next { s with pins := { s.pins with testEn := false } }
  else
    let s1 := s.beginReset 3 0
    .next { s1 with pins := { s1.pins with testEn := true } }

/-- POWER_LOSS_WRITE_DONE: the saved set and its descriptor are written; the safe state follows (R47, R747), or the reset
that TEST_EN holds (R30). -/
def execPowerLossWriteDone (s : State) : Out :=
  match s.evr.lossAt with
  | none => .next s
  | some w =>
    let n := if !s.evr.set0.valid || !s.evr.set0.newer then 0 else 1
    let s1 := s.putSet n ⟨true, true, w - 4096, w, s.lossEntries w⟩
    let s2 := s1.putSet (1 - n) { s1.savedSet (1 - n) with newer := false }
    let s3 : State := { (s2.put EVR_STATUS_SAVING 0).put (EVR_SET_INFO_CRCOK n) 1 with evr := { s2.evr with lossAt := none } }
    let s4 := s3.enterSafe 4
    .next (if s4.pins.testEn then s4.beginReset 3 0 else s4)

/-! ## The end of a reset (R600, R601, R797) -/

/-- A Scion at boot: its plot 0 opens onto its local memory, and its image is verified, loaded and started (R600). -/
def State.bootScion (s : State) (c : Nat) : State :=
  let img := s.slotImg (s.get (SCN_IMG_SLOT c))
  let s1 := s.putAttr false c 0 0xF0000012 true
  if s1.verify img 2 = 0 then
    ((s1.setCore c { s1.core c with mem := memOf (imgPayload img) }).put (SCN_CTRL_RUN c) 1).put (SCN_STATUS_STATE c) 1
  else s1.put RSC_BOOT_FAILED (setBitN (s1.get RSC_BOOT_FAILED) c)

/-- The other Rootstock slot. -/
def otherSlot (n : Nat) : Nat := if n = 8 then 9 else 8

/-- The boot of R600 and R601: the recorded Rootstock slot, then the other one, then recovery mode. -/
def State.boot (s : State) : State :=
  let a := s.rsc.bootSlot
  let ra := s.verify (s.slotImg a) 1
  let rb := s.verify (s.slotImg (otherSlot a)) 1
  let run (n : Nat) : State :=
    let s1 : State := { (s.put RSC_STATUS_ACTIVE s.rsc.active).put RSC_BOOT_RESULT 0 with rsc := { s.rsc with runSlot := n, kick := some s.time.rc } }
    (List.range 16).foldl (fun t c => t.bootScion c) s1
  if ra = 0 then run a
  else if rb = 0 then run (otherSlot a)
  else (((s.put RSC_STATUS_ACTIVE s.rsc.active).put RSC_BOOT_RESULT rb).put RSC_STATUS_RECOVERY 1).enterSafe 8

/-- The saved sets after a reset: their CRC is shown, and a valid one is raised (R748). -/
def State.checkSet (s : State) (n : Nat) (crcOk : Bool) : State :=
  let s1 := s.flag (EVR_SET_INFO_CRCOK n) crcOk
  if (s.savedSet n).valid && crcOk then s1.raise srcEvrRestored n 0 else s1

/-- RESET_END: the reset in force ends (R797); crc0 and crc1: the CRC of each saved set is good. With TEST_EN high it does not end
(R30). -/
def execResetEnd (crc0 crc1 : Bool) (s : State) : Out :=
  if s.pins.inReset = 0 || s.pins.testEn then .next s
  else
    let s0 := s.countReset
    let s1 : State := { s0 with pins := { s.pins with inReset := 0 }, land := { s.land with rbBase := s.time.rc }
                                grd := { s.grd with tickBase := s.time.rc } }
    let s2 := s1.raise srcReset s.pins.inReset 0
    .next (((s2.checkSet 0 crc0).checkSet 1 crc1).boot)

/-! ## Function-level resets (R800, R801) -/

/-- A remote access of a requester ends with a result of R701. -/
def State.rraEnd (s : State) (r : Req) (result : Nat) : State :=
  let s1 := (s.put (LNK_RRA_STAT_BUSY.per r) 0).put (LNK_RRA_STAT_RESULT.per r) result
  { s1 with lnk := { s1.lnk with rra := s1.lnk.rra.filter fun e => e.1 != r.idx } }

/-- Every remote access of the host requester ends with ABORTED (R706). -/
def State.rraAbort (s : State) : State := if s.on (LNK_RRA_STAT_BUSY.per Req.host) then s.rraEnd Req.host 5 else s

/-- A function-level reset's effect on capture (R424). -/
def State.flrCap (s : State) : State :=
  let s1 := s.capReset
  let s2 := ((((s1.put CAP_CTRL_AUTORST CAP_CTRL_AUTORST.rst).put CAP_CTRL_ENABLE CAP_CTRL_ENABLE.rst).put CAP_STATUS_CFGREF 0).put
    CAP_STATUS_CFGERR 0).put CAP_STATUS_DROP 0
  let s3 := ((s2.put64 CAP_FC_WPTR_LO CAP_FC_WPTR_HI 0).put64 CAP_FC_RPTR_LO CAP_FC_RPTR_HI 0).put64 CAP_KILL_LO CAP_KILL_HI 0
  { s3 with cap := { s3.cap with fcRptr := 0, armReq := false, disarmReq := false, resetReq := false }
            fail := { s3.fail with killAt := [] } }

/-- A function-level reset's effect on the time-interval units (R452). -/
def State.flrTiu (s : State) : State :=
  (List.range 16).foldl (fun t n =>
    let t1 := if t.get (TIU_STATUS_OWNER n) = tiuHost then t.tiuFree n else t.tiuEnd n 2
    let t2 := ((t1.put (TIU_STATUS_ARMED n) 0).put (TIU_STATUS_END n) 0).put (TIU_COUNT n) 0
    (List.range 16).foldl (fun u k => u.put64 (TIU_RES_LO n k) (TIU_RES_HI n k) 0)
      (t2.put64 (TIU_START_GVC_LO n) (TIU_START_GVC_HI n) 0)) s

/-- A function-level reset's effect on PMUs, chains and the contact test (R484), and on loop ownership (R538). Owner codes: 1 the host;
4 the contact test. -/
def State.flrOwners (s : State) : State :=
  let s1 := (List.range 32).foldl (fun t n =>
    let o := t.get (PMU_STATUS_OWNER n)
    let t1 := t.pmuOpen n
    let t2 := if o = 1 || o = 4 then t1.put (PMU_STATUS_OWNER n) 0 else t1
    t2.put (DFC_STATUS_RUN n) 0) s
  let s2 : State := { s1.put PMU_CT_STATUS_BUSY 0 with pmu := { s1.pmu with contact := [], tested := [] } }
  let s3 := (List.range 4).foldl (fun t p => if t.get (CLE_LB_STATUS_OWNER p) = 1 then t.put (CLE_LB_STATUS_OWNER p) 0 else t) s2
  (List.range 64).foldl (fun t n => if t.get (CLE_LSTATUS_OWNER n) = 1 then t.put (CLE_LSTATUS_OWNER n) 0 else t) s3

/-- A function-level reset (R800); SEQ_STATUS, the loop counters and the flags read zero after it too (R246), and the standing levels are those of the all-zero entry (R374). -/
def State.flr (s : State) : State :=
  let s1 := if s.seq.queued.isSome then s.refusePlaylist 0xF else s
  let s2 := if s1.seq.running.isSome then s1.softStop 3 else s1
  let s21 := ((((List.range 16).foldl (fun t k => t.put (SEQ_LOOP k) 0) s2).put SEQ_UFLAG 0).put SEQ_STATUS_ARMED 0).put SEQ_STATUS_SAREF 0
  let s3 := (List.range 8).foldl (fun t n => (t.strClear n).put (SEG_STR_STATUS_OPEN n) 0) (s21.put SEQ_STATUS_HEADSRDY 0)
  let chans := (s3.land.chans.map fun e => (e.1, { e.2 with standing := ChanLand.reset.standing })).filter fun e => e.2 ≠ ChanLand.reset
  let s4 : State := { s3 with land := { s3.land with chans := chans } }
  (((s4.rraAbort.flrCap).flrTiu).flrOwners.flrQueues).inc GLB_NFLR

/-- FUNCTION_LEVEL_RESET: discarded while another reset is in force (R799, R800), and ignored during a power-loss
write (R46). -/
def execFunctionLevelReset (s : State) : Out := if s.pins.inReset ≠ 0 || s.saving then .next s else .next s.flr

/-- PERST_N_ASSERT: the PCI Express port is held in reset, and its link goes down (R705, R706, R801); ignored during a power-loss
write (R46). -/
def execPerstNAssert (s : State) : Out :=
  if s.saving || s.pins.perst then .next s
  else
    let s1 : State := { s.rraAbort with pins := { s.pins with perst := true } }
    let s2 := ((s1.put LNK_PCIE_STATUS_FLIT 0).put LNK_PCIE_STATUS_RATE 0).put LNK_PCIE_STATUS_WIDTH 0
    execPcieDown { s2 with lnk := { s2.lnk with d3hot := false } }

/-- PERST_N_RELEASE: acts as a function-level reset (R799, R801); ignored during a power-loss write (R46). -/
def execPerstNRelease (s : State) : Out :=
  if s.saving || !s.pins.perst then .next s
  else
    let s1 : State := { s with pins := { s.pins with perst := false } }
    .next (if s.pins.inReset ≠ 0 then s1 else s1.flr)

end Sys2Proof.Machine
end

