-- ==== Sys2Proof/Machine/Fw.lean ====
section
/-! DEFINITION. The firmware mailbox (R602 to R604), Scion grafts (R605 to R607) and the handover (R608, R611). -/

namespace Sys2Proof.Machine

/-! ## Starting a command (R602, R603) -/

/-- A write of GLB_FW_CMD: refused while BUSY, discarded from any requester but the host; otherwise the command starts with the
arguments of GLB_FW_ARG0 to 3 (R602, R603). -/
def State.fwStart (s : State) (req : Req) (cmd tag : Nat) : State :=
  if req ≠ Req.host then s
  else if s.on GLB_FW_STATUS_BUSY then s.put GLB_FW_STATUS_REFUSED 1
  else
    let s1 := ((s.put GLB_FW_CMD_CMD cmd).put GLB_FW_CMD_TAG tag).put GLB_FW_STATUS_BUSY 1
    { s1 with rsc := { s1.rsc with cmd := some (cmd, (List.range 4).map fun i => s.get (GLB_FW_ARG i)), result := none } }

/-- A result that is known at the start, which FW_DONE posts. -/
def State.fwResult (s : State) (r : Nat) : State := { s with rsc := { s.rsc with result := some r } }

/-- The command has started now, with argument i. -/
def State.fwArg (s : State) (i : Nat) : Nat :=
  match s.rsc.cmd with
  | some (_, args) => args.getD i 0
  | none => 0

/-- In recovery mode the mailbox accepts only STAGE into a Rootstock slot and QUERY (R601). -/
def State.recovery (s : State) : Bool := s.on RSC_STATUS_RECOVERY

/-- A command begins, with what follows where the mailbox accepts it. -/
def State.fwBegin (s : State) (req : Req) (cmd tag : Nat) (k : State → State) : State :=
  if req ≠ Req.host || s.on GLB_FW_STATUS_BUSY then s.fwStart req cmd tag else k (s.fwStart req cmd tag)

/-- FW_STAGE (R604). -/
def effFwStage (req : Req) (tag : BitVec 16) (s : State) : Out :=
  .next (s.fwBegin req 1 tag.toNat fun t => if t.recovery && t.fwArg 2 < 8 then t.fwResult 0x0C else t)

/-- FW_STAGE: its effect, where the write reaches GLB_FW_CMD (R46, R753, R770, R776). -/
def execFwStage (req : Req) (tag : BitVec 16) (s : State) : Out :=
  s.reachReg req 0xC00 (effFwStage req tag)

/-- The Scions that a mask names, ascending. -/
def maskCores (m : Nat) : List Nat := (List.range 16).filter (bitAt m)

/-- FW_SGRAFT: the graft of the first core named begins with its step 1 (R604, R605). -/
def effFwSgraft (req : Req) (tag : BitVec 16) (s : State) : Out :=
  .next (s.fwBegin req 2 tag.toNat fun t =>
    let lim := t.fwArg 2
    if t.recovery then t.fwResult 0x0C
    else if t.fwArg 0 ≥ 2 ^ 16 || 7 < t.fwArg 1 || lim = 0 || 1000000 < lim then t.fwResult 0x0D
    else if t.fwArg 0 = 0 then t.fwResult 0
    else { t with rsc := { t.rsc with graft := some ⟨maskCores (t.fwArg 0), t.fwArg 1, false, lim, 0⟩ } })

/-- FW_SGRAFT: its effect, where the write reaches GLB_FW_CMD (R46, R753, R770, R776). -/
def execFwSgraft (req : Req) (tag : BitVec 16) (s : State) : Out :=
  s.reachReg req 0xC00 (effFwSgraft req tag)

/-- FW_HANDOVER: the standby pair resets to boot the slot (R604, R608); REBUILT clears (R612). -/
def effFwHandover (req : Req) (tag : BitVec 16) (s : State) : Out :=
  .next (s.fwBegin req 3 tag.toNat fun t =>
    if t.recovery then t.fwResult 0x0C
    else if t.fwArg 0 ≠ 8 && t.fwArg 0 ≠ 9 then t.fwResult 0x0D
    else
      let t1 := ((t.put RSC_STATUS_REBUILT 0).put RSC_STATUS_SBYREADY 0).put RSC_STATUS_HOSTATE 1
      { t1 with rsc := { t1.rsc with handover := some (t.fwArg 0), held := false } })

/-- FW_HANDOVER: its effect, where the write reaches GLB_FW_CMD (R46, R753, R770, R776). -/
def execFwHandover (req : Req) (tag : BitVec 16) (s : State) : Out :=
  s.reachReg req 0xC00 (effFwHandover req tag)

/-- FW_KEYREC (R604). -/
def effFwKeyrec (req : Req) (tag : BitVec 16) (s : State) : Out :=
  .next (s.fwBegin req 4 tag.toNat fun t => if t.recovery then t.fwResult 0x0C else t)

/-- FW_KEYREC: its effect, where the write reaches GLB_FW_CMD (R46, R753, R770, R776). -/
def execFwKeyrec (req : Req) (tag : BitVec 16) (s : State) : Out :=
  s.reachReg req 0xC00 (effFwKeyrec req tag)

/-- FW_SRESTART (R604). -/
def effFwSrestart (req : Req) (tag : BitVec 16) (s : State) : Out :=
  .next (s.fwBegin req 5 tag.toNat fun t => if t.recovery then t.fwResult 0x0C else t)

/-- FW_SRESTART: its effect, where the write reaches GLB_FW_CMD (R46, R753, R770, R776). -/
def execFwSrestart (req : Req) (tag : BitVec 16) (s : State) : Out :=
  s.reachReg req 0xC00 (effFwSrestart req tag)

/-- FW_QUERY (R604). -/
def effFwQuery (req : Req) (tag : BitVec 16) (s : State) : Out := .next (s.fwBegin req 6 tag.toNat id)

/-- FW_QUERY: its effect, where the write reaches GLB_FW_CMD (R46, R753, R770, R776). -/
def execFwQuery (req : Req) (tag : BitVec 16) (s : State) : Out :=
  s.reachReg req 0xC00 (effFwQuery req tag)

/-- A write of GLB_FW_CMD with a reserved CMD (R604): it ends with ARG. -/
def State.fwReserved (s : State) (req : Req) (cmd tag : Nat) : State := s.fwBegin req cmd tag fun t => t.fwResult 0x0D

/-! ## What the commands do at their end -/

/-- The item at the HBM address of ARG0 and ARG1, none where its read is uncorrectable (R604, R665). -/
def State.fwItem (s : State) (limit : Nat) : Option (List (BitVec 8)) × State :=
  let a := s.fwArg 0 + 2 ^ 32 * (s.fwArg 1 % 16)
  match s.hbmRead a 320 with
  | (none, s1) => (none, s1)
  | (some h, s1) =>
    let n := min (imgLength h) limit
    match s1.hbmRead (a + 320) n with
    | (none, s2) => (none, s2)
    | (some p, s2) => (some (h ++ p), s2)

/-- The checks of R596 on an item read from HBM: an uncorrectable read gives HASH (R665). -/
def State.fwVerify (s : State) (item : Option (List (BitVec 8))) (cls : Nat) : Nat :=
  match item with
  | none => 0x03
  | some img => s.verify img cls

/-- A slot that a running or Wilted core names, or from which the active pair booted (R598). In recovery mode the active pair runs its
ROM and booted from no slot (R601). -/
def State.slotInUse (s : State) (n : Nat) : Bool :=
  (n == s.rsc.runSlot && !s.recovery) ||
    (decide (n < 8) && (List.range 16).any fun c =>
      s.get (SCN_IMG_SLOT c) == n && s.scnState c != 0 && s.scnState c != 6)

/-- STAGE: the result, and the image in its slot where every check passes (R596, R598, R604). -/
def State.fwDoStage (s : State) : Nat × State :=
  let n := s.fwArg 2
  let a := s.fwArg 0 + 2 ^ 32 * s.fwArg 1
  if 9 < n || a % 4096 ≠ 0 || hbmTop ≤ a then (0x0D, s)
  else if s.slotInUse n then (0x08, s)
  else
    let (item, s1) := s.fwItem 458752
    let r := s1.fwVerify item (if n < 8 then 2 else 1)
    if r = 0 then (0, { s1 with rsc := { s1.rsc with slots := Assoc.insert s1.rsc.slots n (item.getD []) } }) else (r, s1)

/-- KEYREC: the result, and the key slot changed where R595 lets the record change it. -/
def State.fwDoKeyrec (s : State) : Nat × State :=
  if hbmTop ≤ s.fwArg 0 + 2 ^ 32 * s.fwArg 1 then (0x0D, s)
  else
    let (item, s1) := s.fwItem 64
    let r := s1.fwVerify item 3
    if r ≠ 0 then (r, s1)
    else
      let img := item.getD []
      let p := imgPayload img
      let b (i : Nat) := (p.getD i 0).toNat
      let k := s1.keySlot (b 1)
      let put (v : KeySlot) : State := { s1.raiseRollback 3 img with rsc := { s1.rsc with keys := Assoc.insert s1.rsc.keys (b 1) v } }
      if b 0 = 1 then
        if k.st = 0 then (0, put ⟨1, beNat (imgBytes p 16 48), decide (b 2 = 1)⟩) else (0x08, s1)
      else if k.st = 2 then (0x08, s1)
      else (0, put { k with st := 2 })

/-- SRESTART: each DEAD Scion named restarts (R592, R604). -/
def State.fwDoSrestart (s : State) : Nat × State :=
  if s.fwArg 0 ≥ 2 ^ 16 then (0x0D, s)
  else (0, (maskCores (s.fwArg 0)).foldl (fun t c => if t.scnState c = 6 then t.beginRestart c else t) s)

/-- QUERY: RSC_SLOT0 to RSC_SLOT9 and RSC_KEYS from the store (R604, R612). -/
def State.fwDoQuery (s : State) : State :=
  let s1 := (List.range 10).foldl (fun t n =>
    let img := t.slotImg n
    let t1 := (t.put (RSC_SLOT_VER n) (imgVersion img)).flag (RSC_SLOT_INFO_VALID n) (!img.isEmpty)
    (t1.flag (RSC_SLOT_INFO_INUSE n) (t.slotInUse n)).put (RSC_SLOT_INFO_SIGNER n) (imgSigner img)) s
  ((s1.put RSC_KEYS_VALID (maskOf 4 fun i => (s.keySlot (i + 1)).st == 1)).put RSC_KEYS_REVOKED
    (maskOf 4 fun i => (s.keySlot (i + 1)).st == 2)).put RSC_KEYS_AUTH (maskOf 4 fun i => (s.keySlot (i + 1)).auth)

/-- FW_DONE: the command in progress ends with its result (R603). A graft or a handover ends only once it has one. A STAGE that passes in
recovery mode restarts the device (R601). -/
def execFwDone (s : State) : Out :=
  match s.rsc.cmd with
  | none => .next s
  | some (cmd, _) =>
    match s.rsc.result with
    | some r => .next (s.fwEnd r)
    | none =>
      if cmd = 1 then
        let (r, s1) := s.fwDoStage
        let s2 := s1.fwEnd r
        .next (if r = 0 && s.recovery then s2.beginReset 3 3 else s2)
      else if cmd = 4 then .next (s.fwDoKeyrec.2.fwEnd s.fwDoKeyrec.1)
      else if cmd = 5 then .next (s.fwDoSrestart.2.fwEnd s.fwDoSrestart.1)
      else if cmd = 6 then .next (s.fwDoQuery.fwEnd 0)
      else .next s

/-! ## Grafts of Scions (R605 to R607) -/

/-- A graft ends with a result; the command that asked for it posts it. -/
def State.graftEnds (s : State) (r : Nat) : State :=
  { s with rsc := { s.rsc with graft := none, result := if s.rsc.cmd.isSome then some r else none } }

/-- SGRAFT_LOAD_DONE: step 1 of the graft of the present core: the image is checked and loaded into its standby area (R605, R606). A core
that runs drains; any other goes on to the switch. -/
def execSgraftLoadDone (s : State) : Out :=
  match s.rsc.graft with
  | none => .next s
  | some g =>
    match g.cores with
    | [] => .next s
    | c :: _ =>
      let img := s.slotImg g.slot
      let r := s.verify img 2
      if g.loaded then .next s
      else if r ≠ 0 then .next (s.graftEnds r)
      else
        let s1 := s.memWrite (0xA80400000 + 0x40000 * c) (imgPayload img)
        let s2 : State := { s1 with rsc := { s1.rsc with graft := some { g with loaded := true, since := s1.time.rc } } }
        .next (s2.setScn c (if s.scnState c = 1 then 4 else if s.scnState c = 2 then 2 else 5))

/-- The drain limit of the graft in progress is reached (R605). -/
def State.drainOver (s : State) : Bool :=
  match s.rsc.graft with
  | some g => decide (g.since + 100 * g.limit ≤ s.time.rc)
  | none => false

/-- SCN_DRAIN_LIMIT: at the drain limit the tasks still in service return to ready, and the core is ready to switch (R605). -/
def execScnDrainLimit (core : Fin 16) (s : State) : Out :=
  let c := core.val
  if s.grafting c && s.scnState c = 4 && s.drainOver then .next ((s.retryCore c).put (SCN_STATUS_STATE c) 5) else .next s

/-- The standby plots of a core become its active ones, and the old active ones become standby, disabled (R605). -/
def State.swapPlots (s : State) (c : Nat) : State :=
  (List.range 8).foldl (fun t k =>
    let t1 := ((t.put (SCN_PLOT_VB c k) (s.get (SCN_SPLOT_VB c k))).put (SCN_PLOT_TB c k) (s.get (SCN_SPLOT_TB c k))).put
      (SCN_SPLOT_VB c k) (s.get (SCN_PLOT_VB c k))
    let t2 := t1.put (SCN_SPLOT_TB c k) (s.get (SCN_PLOT_TB c k))
    let attr (r w x : Bool) (tgt size : Nat) : Nat := b2n r * 2 ^ 30 + b2n w * 2 ^ 29 + b2n x * 2 ^ 28 + tgt * 2 ^ 26 + size
    let t3 := t2.putAttr false c k (attr (s.on (SCN_SPLOT_ATTR_R c k)) (s.on (SCN_SPLOT_ATTR_W c k)) (s.on (SCN_SPLOT_ATTR_X c k))
      (s.get (SCN_SPLOT_ATTR_TGT c k)) (s.get (SCN_SPLOT_ATTR_SIZE c k))) (s.on (SCN_SPLOT_ATTR_EN c k))
    t3.putAttr true c k (attr (s.on (SCN_PLOT_ATTR_R c k)) (s.on (SCN_PLOT_ATTR_W c k)) (s.on (SCN_PLOT_ATTR_X c k))
      (s.get (SCN_PLOT_ATTR_TGT c k)) (s.get (SCN_PLOT_ATTR_SIZE c k))) false) s

/-- SCN_GRAFT_SWITCH: a drained core switches to its standby image and plots and runs (R605, R607); a copy that fails ends the graft with
LOAD, and the core restarts on its old slot (R606). -/
def execScnGraftSwitch (core : Fin 16) (failed : Bool) (s : State) : Out :=
  let c := core.val
  match s.rsc.graft with
  | none => .next s
  | some g =>
    if !s.grafting c || !(s.scnState c = 5 || (s.scnState c = 4 && s.inService c = 0)) then .next s
    else
      let img := s.slotImg g.slot
      let (copy, s1) := s.hbmRead (0xA80400000 + 0x40000 * c) (imgLength img)
      match copy with
      | none => .next ((s1.graftEnds 0x0A).beginRestart c)
      | some bytes =>
        if failed then .next ((s1.graftEnds 0x0A).beginRestart c)
        else
          let s2 := (s1.setCore c { s1.core c with mem := memOf bytes }).swapPlots c
          let s3 := (((s2.put (SCN_IMG_SLOT c) g.slot).put (SCN_STATUS_DEPTH c) 0).put (SCN_STATUS_STATE c) 1).raiseRollback 2 img
          match g.cores.tail with
          | [] => .next (s3.graftEnds 0)
          | rest => .next { s3 with rsc := { s3.rsc with graft := some { g with cores := rest, loaded := false } } }

/-! ## The handover (R608, R611) -/

/-- HANDOVER_STANDBY_READY: the standby pair has booted: in a handover the new slot, which then may fail, and otherwise a slot that passes
(R600, R608, R611). A pair that is held in reset does not boot (R577, R610). -/
def execHandoverStandbyReady (s : State) : Out :=
  match s.rsc.handover with
  | some n =>
    if s.get RSC_STATUS_HOSTATE ≠ 1 then .next s
    else if s.verify (s.slotImg n) 1 = 0 then
      .next { (s.put RSC_STATUS_SBYREADY 1).put RSC_STATUS_HOSTATE 2 with rsc := { s.rsc with sbySlot := n } }
    else
      .next { s.put RSC_STATUS_HOSTATE 0 with
        rsc := { s.rsc with handover := none, sbySlot := s.rsc.runSlot, result := some 0x0B } }
  | none =>
    let a := s.rsc.bootSlot
    if s.rsc.held then .next s
    else if s.verify (s.slotImg a) 1 = 0 then .next { s.put RSC_STATUS_SBYREADY 1 with rsc := { s.rsc with sbySlot := a } }
    else if s.verify (s.slotImg (otherSlot a)) 1 = 0 then
      .next { s.put RSC_STATUS_SBYREADY 1 with rsc := { s.rsc with sbySlot := otherSlot a } }
    else .next s

/-- HANDOVER_COMMIT: after the soft-state copy the standby takes RSO authority in one fc (R608). The former active pair boots as the new
standby. -/
def execHandoverCommit (s : State) : Out :=
  if s.rsc.handover.isNone || s.get RSC_STATUS_HOSTATE ≠ 2 then .next s
  else
    let s1 := s.passAuthority.put RSC_STATUS_HOSTATE 0
    .next { s1 with rsc := { s1.rsc with handover := none, result := some 0 } }

end Sys2Proof.Machine
end

