-- ==== Sys2Proof/Machine/Loader.lean ====
section
/-! DEFINITION. The response of an HBM port, with what the loaders of the control store and of the generators' tables make of it (R199,
R200, R314, R315, R655, R658, R665). -/

namespace Sys2Proof.Machine

/-- The oldest request r of port p leaves it, with rest behind it: fences over the port count it, and the channel that serves it notes the
port (R654, R656). -/
def State.hbmPop (s : State) (p : Nat) (r : HbmReq) (rest : List HbmReq) : State :=
  { s with hbc := { s.hbc with
    ports := Assoc.set [] s.hbc.ports p rest, fences := s.hbc.fences.map (fenceCount p)
    turn := if r.refused then s.hbc.turn else Assoc.set 7 s.hbc.turn (s.hbmChan r.addr) p } }

/-- A port's answer, the data of a read where there is any, which a loader that asked for it takes (R199, R200, R314, R315, R658). -/
def State.hbmAnswer (s : State) (p who : Nat) (d : Option (List (BitVec 8))) : State :=
  let t : State := { s with hbc := { s.hbc with resp := some ⟨p, d⟩ } }
  if who = 1 then t.cslStep d else if who = 2 then t.tldStep d else t

/-- A read of a port that reached HBM: its data, and the count of a corrected error; an uncorrectable response, of the device or for a poisoned
granule, gives none (R665). -/
def State.hbmFetch (s : State) (r : HbmReq) (err : Nat) : Option (List (BitVec 8)) × State :=
  if err = 2 || s.poisoned r.addr r.len then (none, s.hbmUe (s.hbmChan (s.firstPoison r.addr r.len)) false)
  else (some (s.memBytes r.addr r.len), if err = 1 then s.inc (HBC_CH_CE (s.hbmChan r.addr)) else s)

/-- A write of a port that reached HBM; port 6 merges partly covered bursts, by reads that fail where err is 2 (R665, R812). -/
def State.hbmPut (s : State) (p : Nat) (r : HbmReq) (err : Nat) : State :=
  if p = 6 then s.memMerge (if err = 2 then 3 else 0) r.addr r.data else s.memStore r.addr r.data

/-- HBM_RESPONSE: the oldest request of a port completes (R655, R658), if its channel serves it next: no pause and
no port of a higher level holds it up (R654, R660, R661). The image that
a loader asked for is written as it comes (R199, R200, R314, R315). err: 0 clean, 1 corrected, 2 uncorrectable or a
second parity error (R665), which for a write of port 6 is that of its merge read (R812). lat is the latency of a live-stream request in fc, for HBC_LATMAX. -/
def execHbmResponse (port : Fin 8) (err : Fin 3) (live : Bool) (lat : BitVec 10) (s : State) : Out :=
  match s.hbmQueue port.val with
  | [] => .next s
  | r :: rest =>
    if !s.hbmServes port.val r then .next s
    else
      let s1 := s.hbmPop port.val r rest
      let s2 := if live && decide (port.val = 0) then s1.put HBC_LATMAX (max (s1.get HBC_LATMAX) lat.toNat) else s1
      if r.refused || !s.hbmOn then .next (s2.hbmAnswer port.val r.who (if r.write then some [] else none))
      else if r.write then .next ((s2.hbmPut port.val r err.val).hbmAnswer port.val r.who (some []))
      else .next ((s2.hbmFetch r err.val).2.hbmAnswer port.val r.who (s2.hbmFetch r err.val).1)

end Sys2Proof.Machine
end

