-- ==== Sys2Proof/Machine/RegRead.lean ====
section
/-! DEFINITION. Reads of the register map (R13 to R17, R807 to R810, R819): live fields, the harvest images (R85 to R93, R816, R817)
and HARVEST_TAKE. -/

namespace Sys2Proof.Machine

/-! ## Live fields -/

/-- A 32-bit word of a family that shows one bit per unit, word i. -/
def word32 (i : Nat) (p : Nat → Bool) : Nat := maskOf 32 fun b => p (32 * i + b)

/-- GRD_STATUS.ANY: some channel is tripped (R510). -/
def State.anyTripped (s : State) : Bool := allChannels.any s.tripped

/-- A channel is marked untrusted: LVL_UNTR (R385). -/
def State.untrWord (s : State) (i : Nat) : Nat := word32 i s.untrusted

/-- GLB_SUMMARY (R815). -/
def State.summary (s : State) : Nat :=
  s.get PMG_STATUS_STATE * 2 ^ 29 + b2n s.inSafe * 2 ^ 28 + s.get FRZ_STATUS_STATE * 2 ^ 25 + b2n s.insync * 2 ^ 24
    + s.get CMT_STATUS_ROOT * 2 ^ 23 + s.get CMT_STATUS_PENDING * 2 ^ 22 + s.get HBC_STATUS_INSERVICE * 2 ^ 21
    + b2n s.hbmNormal * 2 ^ 20 + s.get SEQ_STATUS_RUN * 2 ^ 19 + s.get SEG_PL_STATUS_QUEUED * 2 ^ 18
    + s.get FCL_FIRST_LATCHED * 2 ^ 17 + b2n s.anyTripped * 2 ^ 16 + s.get CLK_STATUS_WARM * 2 ^ 15
    + b2n ((List.range 8).any fun i => s.untrWord i != 0) * 2 ^ 14 + s.get CLK_DEVID

/-- Live fields of the GLB block (R356, R357, R384, R385, R815). -/
def State.liveGlb (s : State) (base i : Nat) : Nat :=
  if base = 0x14 then s.summary
  else if base = 0x800 then b2n (allChannels.any s.tsActBad)
  else if base = 0x880 then word32 i s.tsRef
  else if base = 0x900 then word32 i s.tsBad
  else if base = 0x980 then word32 i s.tsChBad
  else if base = 0xA04 then b2n (allChannels.any s.lsActBad)
  else if base = 0xA80 then word32 i s.lsRef
  else if base = 0xAA0 then word32 i s.lsBad
  else if base = 0xAC0 then word32 i s.lsChBad
  else if base = 0xAE0 then s.untrWord i
  else 0

/-- Live fields of the CMT and CLK blocks (R65, R106, R113, R143, R150); lo: the field's lowest bit. -/
def State.liveCmt (s : State) (base i : Nat) : Nat :=
  if base = 0x10000 then s.clk.gvc % 2 ^ 32
  else if base = 0x10004 then s.clk.gvc / 2 ^ 32
  else if base = 0x1000C then s.leadVc
  else if base = 0x10030 then maskOf 9 s.classReady
  else if base = 0x10074 then maskOf 9 s.shadowFails
  else if base = 0x10100 then s.vrdSite i
  else if base = 0x20010 then (if s.gateOpen then s.clk.vset.khz else 0)
  else if base = 0x20024 then b2n s.joinPending
  else if base = 0x20058 then s.clk.epoch % 2 ^ 32
  else if base = 0x2005C then s.clk.epoch / 2 ^ 32
  else if base = 0x20060 then s.alignK
  else if base = 0x20078 then s.gcAge
  else 0

/-- Live fields of the SEQ, SEG and APG blocks (R207, R243, R284, R318, R319); seg: the requester's own descriptor index. -/
def State.liveSeq (s : State) (req : Req) (base i lo : Nat) : Nat :=
  if base = 0x8002C then s.get SEQ_UFLAG
  else if base = 0x80824 then s.csInvalid
  else if base = 0x100014 then s.segDstat (s.get (SEG_DIDX.per req))
  else if base = 0x180004 then b2n s.apgLocked
  else if base = 0x180134 then s.apgInvalid i
  else if base = 0x18018C then s.apgSvalid i
  else if base = 0x200004 then b2n ((List.range 8).any (twUiBad s.clk.vset s.active))
  else if base = 0x200054 then b2n s.fcFull
  else if base = 0x20007C then
    (maskOf 8 fun w => !s.twBad w) + 2 ^ 8 * (maskOf 16 fun k => !s.tpBad k) + 2 ^ 24 * b2n (!allChannels.any s.twchBad)
  else if base = 0x200600 then word32 i s.msRef
  else if base = 0x200620 then word32 i s.msBad
  else if base = 0x200640 then word32 i s.twchBad
  else lo * 0

/-- Live fields of the GRD block (R503, R506, R510, R512). -/
def State.liveGrd (s : State) (base i lo : Nat) : Nat :=
  let active (m : Nat) := s.on (GRD_STATUSM_ACTIVE m)
  let latched (m : Nat) := s.on (GRD_STATUSM_LATCHED m)
  if base = 0x380000 then b2n (if lo = 3 then s.inSafe else s.anyTripped)
  else if base = 0x380020 then word32 i s.tripped
  else if base = 0x380040 then word32 i active
  else if base = 0x380060 then maskOf 32 fun k => latched (256 + k)
  else if base = 0x380064 then maskOf 32 fun k => active (256 + k)
  else if base = 0x380068 then maskOf 24 fun j => active (288 + j)
  else if base = 0x38006C then maskOf 24 fun j => latched (288 + j)
  else if base = 0x381008 then b2n (if lo = 25 then s.grdDegraded i else (s.monitor i).mode.isSome)
  else 0

/-- Live fields of the CLE, CAL, TSK, QUE, HBC and WTM blocks (R539, R568, R569, R572, R644, R645, R676, R710, R718). -/
def State.liveRest (s : State) (req : Req) (base i lo : Nat) : Nat :=
  if base = 0x3C0000 then b2n ((List.range 4).any fun p => s.on (CLE_LB_STATUS_RUN p))
  else if base = 0x3C0004 then s.cle.frame % 2 ^ 32
  else if base = 0x3C0008 then s.cle.frame / 2 ^ 32
  else if base = 0x3C3010 then s.get (PMG_TEMP_T (1 + i))
  else if base = 0x400004 then maskOf 8 fun t => s.cal.running.any fun e => e.kind != 7 && e.tile == t
  else if base = 0x400010 then s.cal.queue.length
  else if base = 0x480000 then b2n s.readyOverflow
  else if base = 0x480020 then s.tskQstate (s.get TSK_QUERY)
  else if base = 0x480024 then s.readyCount
  else if base = 0x48102C then s.inService i
  else if base = 0x4C0000 then b2n (s.poolAvail == 0)
  else if base = 0x4C0014 then s.poolFree
  else if base = 0x4C0028 then s.qstat (s.get (QUE_IDX.per req))
  else if base = 0x4C002C then (s.queue (s.get (QUE_IDX.per req))).ndrop
  else if base = 0x4C0030 then (s.queue (s.get (QUE_IDX.per req))).seq
  else if base = 0x500004 then
    b2n (if lo = 5 then (List.range 32).any s.hbmPaused else if lo = 4 then s.hbmForced else s.hbmNormal)
  else if base = 0x5C0004 then s.get CLK_STATUS_AOSRC
  else if base = 0x5C0010 then wallFrac s.time.wall
  else 0

/-- Live fields of the FCL, DFC and PIN blocks (R136, R355, R383, R470, R482, R761, R762). -/
def State.liveChan (s : State) (base i j lo : Nat) : Nat :=
  if base = 0x40008 then b2n (s.on FCL_FIRST_LATCHED && s.srcActive (s.get FCL_FIRST_SOURCE))
  else if base = 0x40040 then word32 i s.srcActive
  else if base = 0x60030 then s.frzProg
  else if base = 0x341010 then s.dfcG i
  else if base = 0x100001C then statWord (s.tsShadowReason i j)
  else if base = 0x100801C then statWord (s.lsShadowReason i j)
  else if base = 0x100E000 then s.ptfChStatus i
  else if base = 0x100E100 then s.lvlChStatus i
  else if base = 0x100E200 then
    b2n (if lo = 29 then s.cal.queue.any fun e => e.kind ≤ 4 && e.target == i else s.cal.running.any fun e => e.kind ≤ 4 && e.target == i)
  else if base = 0x100F034 then s.pinDvalid i
  else 0

/-- The value of a live field. -/
def State.liveField (s : State) (req : Req) (base i j lo : Nat) : Nat :=
  if base < 0x10000 then s.liveGlb base i
  else if base < 0x30000 then s.liveCmt base i
  else if base < 0x80000 then s.liveChan base i j lo
  else if base < 0x280000 then s.liveSeq req base i lo
  else if base < 0x380000 then s.liveChan base i j lo
  else if base < 0x3C0000 then s.liveGrd base i lo
  else if base < 0x1000000 then s.liveRest req base i lo
  else s.liveChan base i j lo

/-! ## Reads -/

/-- What a read returns of a field: write-only fields and requests read 0, RWC fields the shadow bank (R17, R62, R819). -/
def State.readField (s : State) (req : Req) (d : RegDesc) (i j : Nat) (f : FieldDesc) : Nat :=
  if f.live then s.liveField req d.base i j f.fld.lo % 2 ^ f.fld.width
  else match f.acc with
  | .wo | .w1s | .rso1 => 0
  | .rwc => s.getShadow f.fld
  | _ => s.get (if d.perReq then f.fld.per req else f.fld)

/-- The word of a register (R15). -/
def State.readReg (s : State) (req : Req) (d : RegDesc) (i j k : Nat) : Nat :=
  let v := ((d.flds i j k).map fun f => s.readField req d i j f * 2 ^ f.fld.lo).sum
  if d.base = 0x30034 then
    (List.range 8).foldl (fun w t => if bitAt w (20 + t) || s.sleeping || !s.on (CLE_TH_CFG_EN t) then w else w + 2 ^ (20 + t)) v
  else v

/-- A word of a control-store slot (R157, R159). -/
def State.csWord (s : State) (n w : Nat) : Nat :=
  let v := s.slot n
  if w < 6 then bits v.mw (32 * w) 32 else if w = 6 then v.chk else v.stat

/-- A word of an APG instruction (R322). -/
def State.iwWord (s : State) (g n w : Nat) : Nat :=
  let v := s.iw g n
  if w < 2 then bits v.mw (32 * w) 32 else if w = 2 then v.chk else v.iwStat

/-- A word of the MSI-X table (R703). -/
def MSIX_WORD (i : Nat) : Field := ⟨0x5A0000 + 4 * i, 0, 32, 0⟩

/-- The harvest bank that the window shows (R92). -/
def State.shownBank (s : State) : HarvestBank := if s.get CMT_HRV_STATUS_SHOWN = 0 then s.cmt.bank0 else s.cmt.bank1

/-- A read of the word at a BAR0 offset (R16, R753, R770, R776, R807, R816). -/
def State.regRead (s : State) (req : Req) (off : Nat) : Nat :=
  if s.dark off || !s.regOn off then 0
  else if 0x8000000 ≤ off then (if off < 0xA000000 then Assoc.get 0 s.shownBank.img (off - 0x8000000) else 0)
  else if 0x4000000 ≤ off && off < 0x4800000 then s.csWord ((off - 0x4000000) / 32) (off / 4 % 8)
  else if 0x5A0000 ≤ off && off < 0x5A8000 then s.get (MSIX_WORD ((off - 0x5A0000) / 4))
  else if 0x5000000 ≤ off && off < 0x5200000 && off % 0x100000 < 0x10000 then
    s.iwWord ((off - 0x5000000) / 0x100000) (off % 0x10000 / 16) (off / 4 % 4)
  else
    match regAt off with
    | some (d, i, j, k) => s.readReg req d i j k
    | none => 0

/-- What a read does: a read of WTM_NOW_FRAC latches the rest of the wall time (R710). -/
def State.readEffect (s : State) (req : Req) (off : Nat) : State :=
  if off = 0x5C0010 && !s.dark off then s.latchNow req else s

/-- A 64-bit aligned read: two 32-bit reads, lower address first (R13). -/
def State.regRead64 (s : State) (req : Req) (off : Nat) : Nat :=
  s.regRead req off + 2 ^ 32 * (s.readEffect req off).regRead req (off + 4)

/-! ## Harvest (R85 to R93) -/

/-- The harvest image of a register: what it holds at the end of the vector cycle (R85, R710). -/
def State.imageOf (s : State) (d : RegDesc) (i j k : Nat) : Nat :=
  if d.base = 0x5C0014 then wallNs s.time.wall
  else if d.base = 0x5C0018 then wallSec s.time.wall % 2 ^ 32
  else if d.base = 0x5C001C then wallSec s.time.wall / 2 ^ 32
  else s.readReg .host d i j k

/-- The registers of a family that have indices i, j, k, with their offsets. -/
def RegDesc.instances (d : RegDesc) : List (Nat × Nat × Nat × Nat) :=
  (List.range d.n1).flatMap fun i => (List.range d.n2).flatMap fun j => (List.range d.n3).map fun k =>
    (d.base + i * d.s1 + j * d.s2 + k * d.s3, i, j, k)

/-- Every register that has a harvest image (R86). -/
def harvestRegs : List RegDesc :=
  ([regsGlb, regsCmt, regsClk, regsPmg, regsFcl, regsEvr, regsFrz, regsSeq, regsSeg, regsApg, regsCap, regsTiu, regsPmu, regsDfc,
    regsGrd, regsCle, regsCal, regsTsk, regsQue, regsHbc, regsLnk, regsWtm, regsRsc, regsPin].flatten).filter (·.hrv)

/-- The image of a harvest: every harvest register that is on, where it is not 0 (R85, R817, R824). -/
def State.harvestImage (s : State) : Cells :=
  harvestRegs.foldl (fun m d =>
    d.instances.foldl (fun m e =>
      if s.regOn e.1 then
        let v := s.imageOf d e.2.1 e.2.2.1 e.2.2.2
        if v = 0 then m else Assoc.insert m e.1 v
      else m) m) []

/-- A harvest at GVC h, at the end of that cycle: the bank that the window does not show receives it, and the window switches unless
HOLD is 1 (R85, R92). -/
def State.takeHarvest (s : State) (h : Nat) : State :=
  let bank : HarvestBank := ⟨h, s.harvestImage⟩
  let c := s.cmt
  let c1 : CmtState := if s.get CMT_HRV_STATUS_SHOWN = 0 then { c with bank1 := bank, hrvNewer := true } else { c with bank0 := bank, hrvNewer := true }
  let s1 : State := { s with cmt := { c1 with hrvSwitch := false, hrvGroup := if c.hrvGroup = some h then none else c.hrvGroup
                                              hrvLocal := if c.hrvLocal = some h then none else c.hrvLocal } }
  let s2 := s1.harvestDone
  if s.on CMT_HRV_CTRL_HOLD then s2 else s2.switchWindow

/-- The earlier of two pending targets. -/
def earliest : Option Nat → Option Nat → Option Nat
  | some a, some b => some (min a b)
  | some a, none => some a
  | none, b => b

/-- HARVEST_TAKE: the end of the harvest vector cycle (R85, R88, R90, R92). Without a pending harvest, or before its cycle can have
come, nothing happens. -/
def execHarvestTake (s : State) : Out :=
  match earliest s.cmt.hrvGroup s.cmt.hrvLocal with
  | none => .next s
  | some h =>
    match s.reach (h + 1) with
    | some s1 => .next (s1.takeHarvest h)
    | none => .next s

end Sys2Proof.Machine
end

