-- ==== Sys2Proof/Machine/RegWrite.lean ====
section
/-! DEFINITION. Writes of the register map (R13 to R17, R807 to R809, R819, R820): what a write of each register does, with the effects
that have command rows of their own, and REGISTER_WRITE. Remote accesses (R698 to R702) begin here, because a local one is a write. -/

namespace Sys2Proof.Machine

/-! ## Parts of a write -/

/-- A command's effect as a change of the state. -/
def State.run (s : State) (f : State → Out) : State :=
  match f s with
  | .next t => t
  | _ => s

/-- The W1S bits of a write, on their own, in the order of the list: from the highest bit down (R820). -/
def State.runBits (s : State) (w : Nat) (l : List (Nat × (State → Out))) : State :=
  l.foldl (fun t e => if bitAt w e.1 then t.run e.2 else t) s

/-- A command that rests on what happens around the device, which a write does not say (log entry 32). -/
def State.runFree (s : State) (f : Nat → State → Out) : State := s.free.2.run (f s.free.1)

/-- Field f of the word w. -/
def Field.of (f : Field) (w : Nat) : Nat := bits w f.lo f.width

/-- The place where a register's field is held for a requester. -/
def RegDesc.cell (d : RegDesc) (req : Req) (f : Field) : Field := if d.perReq then f.per req else f

/-- One field of a write, by its access type (R17, R819). -/
def State.writeField (s : State) (req : Req) (d : RegDesc) (w : Nat) (f : FieldDesc) : State :=
  let g := d.cell req f.fld
  match f.acc with
  | .rw => s.put g (f.fld.of w)
  | .rso => if req = Req.rootstock then s.put g (f.fld.of w) else s
  | .w1c => s.put g (s.get g - (s.get g &&& f.fld.of w))
  | _ => s

/-- The bits of w that no field of the list holds. -/
def reservedOf (fs : List FieldDesc) (w : Nat) : Nat := w - (fs.map fun f => f.fld.of w * 2 ^ f.fld.lo).sum

/-- A write of an entry of a commit class at offset x: to the shadow bank, or refused in the vote window (R62, R76, R822). A reserved bit
that is set makes the entry invalid in the classes whose tests name reserved bits (R253, R310, R391, R396, R398). -/
def State.writeShadow (s : State) (cls x w : Nat) (fs : List FieldDesc) : State :=
  if s.classLocked cls then s.refuseRwc
  else
    let s1 := (fs.foldl (fun t f => t.putShadow f.fld (f.fld.of w)) s).cleanShadow cls x
    if reservedOf fs w ≠ 0 && [2, 3, 4, 6, 7].contains cls then
      { s1 with cmt := { s1.cmt with resvShadow := s1.cmt.resvShadow ++ [(cls, x)] } }
    else s1

/-- A write of a register that has no rule of its own. -/
def State.writePlain (s : State) (req : Req) (x w : Nat) (d : RegDesc) (i j k : Nat) : State :=
  match d.cls with
  | some c => s.writeShadow c x w (d.flds i j k)
  | none => (d.flds i j k).foldl (fun t f => t.writeField req d w f) s

/-- An argument of a command. -/
abbrev fin (n : Nat) [NeZero n] (x : Nat) : Fin n := Fin.ofNat n x

/-- A playlist runs or is queued. -/
def State.playing (s : State) : Bool := s.seq.running.isSome || s.seq.queued.isSome

/-! ## Writes with a rule of their own, by block: none where a register of the block has none -/

/-- GLB: LVL_CTRL (R385) and the mailbox (R602 to R604). -/
def State.writeGlb (s : State) (req : Req) (base w : Nat) : Option State :=
  let tag := BitVec.ofNat 16 w
  if base = 0xA00 then some (s.run (effLvlCtrlWrite (BitVec.ofNat 32 w)))
  else if base = 0xC00 then
    match bits w 24 8 with
    | 1 => some (s.run (effFwStage req tag))
    | 2 => some (s.run (effFwSgraft req tag))
    | 3 => some (s.run (effFwHandover req tag))
    | 4 => some (s.run (effFwKeyrec req tag))
    | 5 => some (s.run (effFwSrestart req tag))
    | 6 => some (s.run (effFwQuery req tag))
    | c => some (s.fwReserved req c tag.toNat)
  else none

/-- CMT: CMT_CTRL and CMT_HRV_CTRL (R107, R110). -/
def State.writeCmt (s : State) (base w : Nat) : Option State :=
  if base = 0x10010 then
    some (((s.put CMT_CTRL_TAG (CMT_CTRL_TAG.of w)).put CMT_CTRL_RETRY_EN (CMT_CTRL_RETRY_EN.of w)).runBits w
      [(3, effAcklost), (2, effCommitCancel), (0, effCommitGo)])
  else if base = 0x10050 then
    some (((s.put CMT_HRV_CTRL_LOCAL (CMT_HRV_CTRL_LOCAL.of w)).run (effHarvestHold (bitAt w 3))).runBits w
      [(1, effHarvestCancel), (0, effHarvestGo)])
  else none

/-- CLK: CLK_CTRL and CLK_GRP_CTRL (R150, R152). -/
def State.writeClk (s : State) (base w : Nat) : Option State :=
  if base = 0x20000 then
    some (((s.put CLK_CTRL_AUTORELOCK (CLK_CTRL_AUTORELOCK.of w)).run (effGateHold (bitAt w 1))).runBits w [(0, effRelock)])
  else if base = 0x20020 then
    let s1 := (s.put CLK_GRP_CTRL_SYNCIN_EN (CLK_GRP_CTRL_SYNCIN_EN.of w)).put CLK_GRP_CTRL_FORCE (CLK_GRP_CTRL_FORCE.of w)
    let s2 := if bitAt w 3 then s1.runFree fun v => effJoin (bitAt v 0) (bitAt v 1) else s1
    some (s2.runBits w [(2, effGroupStart), (1, effForm)])
  else none

/-- PMG: requests, the reservation and the switch-off requests (R769, R786, R791). -/
def State.writePmg (s : State) (req : Req) (base w : Nat) : Option State :=
  if base = 0x30000 then
    some (s.runBits w [(31, effPmgDormant req), (30, effPmgWake req), (29, effPmgBudding req), (28, effPmgBloom req)])
  else if base = 0x3000C then
    let v := PMG_PEAK_RES.of w
    some (if 1 ≤ v && v ≤ 4500 then s.put PMG_PEAK_RES v else s)
  else if base = 0x30038 then some (s.run (effPmgDomOffWrite req 0 (BitVec.ofNat 32 w)))
  else if base = 0x3003C then some (s.run (effPmgDomOffWrite req 1 (BitVec.ofNat 32 w)))
  else none

/-- FCL_SRCs_CFG (R763). -/
def State.writeSrcCfg (s : State) (req : Req) (i w : Nat) : State :=
  let pn := (FCL_SRC_CFG_PN i).of w
  let slot := (FCL_SRC_CFG_PSLOT i).of w
  if bits w 28 2 = 3 || (decide (pn ≠ 0) && decide (slot = 0)) then s
  else
    let s1 := ((s.put (FCL_SRC_CFG_FRZ i) (bits w 28 2)).put (FCL_SRC_CFG_OUT i) ((FCL_SRC_CFG_OUT i).of w)).put (FCL_SRC_CFG_ALM i)
      ((FCL_SRC_CFG_ALM i).of w)
    if req ≠ Req.rootstock then s1
    else
      let s2 := (s1.put (FCL_SRC_CFG_PN i) pn).put (FCL_SRC_CFG_PSLOT i) slot
      if i = 0 then s2 else s2.put (FCL_SRC_CFG_CLASS i) (bits w 30 2)

/-- FCL, EVR and FRZ (R732, R733, R739, R742, R745, R748, R761 to R766). -/
def State.writeFcl (s : State) (req : Req) (base i w : Nat) : Option State :=
  let v := BitVec.ofNat 32 w
  if base = 0x40000 then some (s.runBits w [(0, effWarmrst req)])
  else if base = 0x4002C then some (s.runBits w [(0, effFclClr req)])
  else if base = 0x40030 then some (s.run (effFclSwevt v))
  else if base = 0x40080 then some (s.run (effFclPromoClear (fin 10 i) v))
  else if base = 0x41000 then some (s.writeSrcCfg req i w)
  else if base = 0x50008 then some (s.run (effEvrRidxWrite req v))
  else if base = 0x50014 then some (s.run (effEvrRscwSrc req v))
  else if base = 0x50040 then some (s.run (effEvrSidxWrite req (fin 2 (bits w 31 1)) (fin 4096 w)))
  else if base = 0x50080 then some (s.runBits w [(0, effEvrSetDiscard req (fin 2 i))])
  else if base = 0x60000 then
    some (s.runBits w [(31, effFrzHard), (30, effFrzSoft), (29, effFrzThaw), (28, effFrzRead), (27, effFrzArmat), (26, effFrzDisarm)])
  else if base = 0x6003C then some (s.run (effFrzMapidxWrite v))
  else none

/-- SEQ: SEQ_CTRL, the user flags and the loader (R208, R224, R244). -/
def State.writeSeq (s : State) (base w : Nat) : Option State :=
  if base = 0x80000 then
    some ((s.put SEQ_CTRL_KEEPFLAGS (SEQ_CTRL_KEEPFLAGS.of w)).runBits w [(2, effStopatArm), (1, effSeqStop), (0, effStopatDisarm)])
  else if base = 0x80028 then some (s.run (effUflagSet (BitVec.ofNat 16 w)))
  else if base = 0x8002C then some (s.run (effUflagClear (BitVec.ofNat 16 w)))
  else if base = 0x80800 then
    some ((s.put SEQ_CS_CTRL_SCRUB_EN (SEQ_CS_CTRL_SCRUB_EN.of w)).runBits w [(2, effCslAbort), (1, effCslGo)])
  else none

/-- SEG: descriptors, playlists and streams (R262, R276, R278, R282, R285, R287). -/
def State.writeSeg (s : State) (req : Req) (base i w : Nat) : Option State :=
  if base = 0x100000 then some (s.run (effSegDidxWrite req (fin 65536 w)))
  else if base = 0x100010 then some (s.runBits w [(0, effDescriptorWrite req)])
  else if base = 0x100110 then
    some ((s.put SEG_PL_CTRL_WHEN (SEG_PL_CTRL_WHEN.of w)).runBits w [(1, effPlaylistWithdraw), (0, effPlaylistStart)])
  else if base = 0x100400 then
    let s1 := if s.on (SEG_STR_STATUS_OPEN i) then s else s.put (SEG_STR_CTRL_WIDTH i) (bits w 2 2)
    some (s1.runBits w [(1, effStreamClose (fin 8 i)), (0, effStreamOpen (fin 8 i) (fin 4 (s1.get (SEG_STR_CTRL_WIDTH i))))])
  else if base = 0x10041C then some (s.run (effStreamProdWrite (fin 8 i) (BitVec.ofNat 32 w)))
  else none

/-- APG: the loader, and the lock of INIT registers and data immediates (R306, R318). -/
def State.writeApg (s : State) (base w : Nat) : Option State :=
  if base = 0x180010 then some (s.runBits w [(1, effApgTldAbort), (0, effApgTldGo)])
  else if ((0x180150 ≤ base && base ≤ 0x180174) || base = 0x5010000 || base = 0x5010004) && s.apgLocked then some s.apgRefuse
  else none

/-- CAP: CAP_CTRL, the configuration that a playlist fixes, RPTR and the kills (R400, R405, R411, R412, R414, R422). -/
def State.writeCap (s : State) (base w : Nat) : Option State :=
  if base = 0x200000 then
    some (((s.put CAP_CTRL_ENABLE (CAP_CTRL_ENABLE.of w)).put CAP_CTRL_AUTORST (CAP_CTRL_AUTORST.of w)).runBits w
      [(3, effCapReset), (2, effCapDisarm), (1, effCapArm)])
  else if ((0x200008 ≤ base && base ≤ 0x20001C) || base = 0x200050) && s.playing then some (s.put CAP_STATUS_CFGREF 1)
  else if base = 0x200064 then some (s.run (effFcRptrWrite (BitVec.ofNat 32 w)))
  else if base = 0x200070 && bits w 29 2 = 3 then some (s.put CAP_STATUS_CFGREF 1)
  else if base = 0x200074 then some (s.run (effHostSiteKill (BitVec.ofNat 64 w)))
  else if base = 0x200078 then some (s.run (effHostSiteKill (BitVec.ofNat 64 (w * 2 ^ 32))))
  else none

/-- A source register's word is one of R429's. -/
def tiuSrcOk (w : Nat) : Bool :=
  decide (bits w 16 16 = 0) && decide (bits w 8 4 = 0) && (decide (bits w 12 4 < 6) || (decide (bits w 12 4 < 8) && decide (bits w 0 8 < 8)))

/-- TIU_n_CTRL (R433, R435, R451): CONT and MODE are kept while a playlist or a calibration owns the unit; ARM, TAKE and the rest are
the host's. -/
def State.writeTiuCtrl (s : State) (req : Req) (i w : Nat) : State :=
  let u := fin 16 i
  let s1 := if s.get (TIU_STATUS_OWNER i) ≤ tiuHost then (s.put (TIU_CTRL_CONT i) (bits w 4 1)).put (TIU_CTRL_MODE i) (bits w 0 2) else s
  if req = Req.host then s1.runBits w [(31, effTiuArm u), (30, effTiuDisarm u), (29, effTiuTake u), (28, effTiuRelease u)]
  else if bitAt w 31 || bitAt w 29 then s1.claimDenied 0x280000
  else s1

/-- TIU: calibration requests, control, and configuration while the unit is free or the host's (R429, R434, R446, R450). -/
def State.writeTiu (s : State) (req : Req) (base i w : Nat) : Option State :=
  let cfg := base = 0x281008 || base = 0x28100C || base = 0x281010 || base = 0x281014 || base = 0x281018 || base = 0x281040
  if base = 0x280000 then some (s.run (effTiuCalReq (BitVec.ofNat 16 w)))
  else if base = 0x281000 then some (s.writeTiuCtrl req i w)
  else if cfg && tiuHost < s.get (TIU_STATUS_OWNER i) then some ((s.incSat TIU_WREFUSED).claimDenied 0x280000)
  else if ((base = 0x281008 || base = 0x281040) && !tiuSrcOk w) || (base = 0x281014 && w = 0) then some (s.put (TIU_STATUS_SRCERR i) 1)
  else none

/-- The first stage of R820 of a write to the control register at offset x by another than its owner: without TAKE the write is refused.
With TAKE the RW fields are refused where they differ from those that the register holds in the bits m, and a TAKE that is itself
refused counts as the refusal of the write, once (log entry 74). -/
def State.outsider (s : State) (req : Req) (x w m : Nat) (take granted : Bool) (count deny : State → State) : State :=
  let differs := w &&& m != s.regRead req x &&& m
  if !take then deny (count s) else if granted then (if differs then deny (count s) else s) else count s

/-- PMU_n_CTRL: the RW fields by the owner, then TAKE and RELEASE (R454, R455, R481, R820). -/
def State.writePmuCtrl (s : State) (req : Req) (i w : Nat) : State :=
  let s1 := if s.get (PMU_STATUS_OWNER i) = pmuWho req then s.run (effPmuConnect req (fin 32 i) (BitVec.ofNat 32 w))
    else s.outsider req (PMU_CTRL_CH i).off w 0x81DF (bitAt w 31) (s.get (PMU_STATUS_OWNER i) = 0 && s.domOn (pmuDomain i))
      (·.incSat PMU_WREFUSED) (·.claimDenied 0x300000)
  if s.get (PMU_STATUS_OWNER i) = pmuWho req || bitAt w 31 then
    s1.runBits w [(31, effPmuTake req (fin 32 i)), (30, effPmuRelease req (fin 32 i))]
  else s1

/-- PMU and DFC (R455, R463, R474, R476, R480 to R483). -/
def State.writePmu (s : State) (req : Req) (base i w : Nat) : Option State :=
  let v := BitVec.ofNat 32 w
  let own := s.get (PMU_STATUS_OWNER i) = pmuWho req
  if base = 0x300000 then some (s.runBits w [(0, effContactTestGo)])
  else if base = 0x300008 && !(500 ≤ bits w 16 15 && bits w 16 15 ≤ 2000 && 1 ≤ bits w 0 16 && bits w 0 16 ≤ 1000) then some s
  else if base = 0x301000 then some (s.writePmuCtrl req i w)
  else if base = 0x301008 then some (s.run (effPmuForceWrite req (fin 32 i) 0 v))
  else if base = 0x30100C then some (s.run (effPmuForceWrite req (fin 32 i) 1 v))
  else if base = 0x301010 then some (s.run (effPmuForceWrite req (fin 32 i) 2 v))
  else if base = 0x340000 && (List.range 32).any (fun n => s.on (DFC_STATUS_RUN n) && s.get (DFC_CFG_FSET n) == i) then some s
  else if (base = 0x341000 || base = 0x341004 || base = 0x341008 || base = 0x341030) && !own then
    some ((s.incSat PMU_WREFUSED).claimDenied 0x340000)
  else if (base = 0x341000 || base = 0x341004) && s.on (DFC_STATUS_RUN i) then some s
  else if base = 0x341008 then
    some ((s.run (effDfcFreeze req (fin 32 i) (bitAt w 0))).runBits w [(31, effDfcStart req (fin 32 i)), (30, effDfcStop req (fin 32 i))])
  else if base = 0x341014 then some (s.run (effDfcBaseWrite req (fin 32 i) v))
  else none

/-- GRD_m_STATUS: TWIN and CLRREF clear; a one to LATCHED asks for the clear of R507 (R512). -/
def State.writeGrdStatus (s : State) (m w : Nat) : State :=
  let s1 := if bitAt w 29 then s.put (GRD_STATUSM_CLRREF m) 0 else s
  let s2 := if bitAt w 26 then s1.put (GRD_STATUSM_TWIN m) 0 else s1
  s2.runBits w [(30, effGrdDsClear (fin 312 m))]

/-- GRD (R490, R494 to R512). -/
def State.writeGrd (s : State) (req : Req) (base i w : Nat) : Option State :=
  let v := BitVec.ofNat 32 w
  if base = 0x380008 then
    some (if 40 ≤ bits w 0 16 then s.put GRD_TICK (bits w 0 16) else s.put GRD_STATUS_ENVREF 1)
  else if base = 0x38006C then
    some ((List.range 24).foldl (fun t j => if bitAt w j then t.clearLatched (288 + j) else t) s)
  else if base = 0x380100 then some (s.run (effGrdMtrip (fin 8 i) v))
  else if base = 0x380120 then some (s.runFree fun u => effGrdRelease (fin 8 i) v (BitVec.ofNat 32 u))
  else if base = 0x381000 then some (s.run (effGrdModeWrite req (fin 312 i) v))
  else if base = 0x381004 then some (s.run (effGrdThrWrite req (fin 312 i) v))
  else if base = 0x381008 then some (s.writeGrdStatus i w)
  else if (base = 0x383000 || base = 0x383004) && s.get (GRD_CFG_ACT (256 + i)) ≠ 0 && s.playing then some (s.grdRefuse (256 + i))
  else none

/-- A schedule entry (R523, R540): by the owner, while EN is 0, and naming a loop of that owner. -/
def State.writeSched (s : State) (req : Req) (p i w : Nat) : State :=
  if s.get (CLE_LB_STATUS_OWNER p) ≠ cleWho req || s.on (CLE_LB_CTRL_EN p) then s.cleRefuse
  else if (bits w 30 2 = 1 || bits w 30 2 = 2) && s.get (CLE_LSTATUS_OWNER (bits w 24 6)) ≠ cleWho req then
    s.cleRefuse.claimDenied 0x3C0000
  else (((s.put (CLE_LB_SCHED_KIND p i) (bits w 30 2)).put (CLE_LB_SCHED_LOOP p i) (bits w 24 6)).put (CLE_LB_SCHED_CS p i)
    (bits w 21 3)).put (CLE_LB_SCHED_LEN p i) (bits w 15 6)

/-- CLE_LBp_CTRL: EN and L by the owner, then TAKE and RELEASE (R523, R820). -/
def State.writeLbCtrl (s : State) (req : Req) (p w : Nat) : State :=
  let own := s.get (CLE_LB_STATUS_OWNER p) = cleWho req
  let s1 := if own then s.run (effLbEnable req (fin 4 p) (BitVec.ofNat 32 w))
    else s.outsider req (CLE_LB_CTRL_L p).off w 0x3FFFFFFF (bitAt w 31) (s.get (CLE_LB_STATUS_OWNER p) = 0) (·.cleRefuse) id
  if own || bitAt w 31 then s1.runBits w [(31, effLbTake req (fin 4 p)), (30, effLbRelease req (fin 4 p))] else s1

/-- CLE_n_CTRL: MODE by the owner, then TAKE, RELEASE and APPLY (R528 to R530, R541, R820). -/
def State.writeLoopCtrl (s : State) (req : Req) (n w : Nat) : State :=
  let own := s.get (CLE_LSTATUS_OWNER n) = cleWho req
  let s1 := if own then s.run (effLoopModeWrite req (fin 64 n) (fin 4 (bits w 0 2)))
    else s.outsider req (CLE_CTRL_MODE n).off w 3 (bitAt w 31) (s.get (CLE_LSTATUS_OWNER n) = 0) (·.cleRefuse) id
  if own || bitAt w 31 then
    s1.runBits w [(31, effLoopTake req (fin 64 n)), (30, effLoopRelease req (fin 64 n)), (29, effLoopApply req (fin 64 n) (bitAt w 28))]
  else s1

/-- The loop registers that are written in OFF alone (R529): CFG, PER, PHASE, formats, commands, checks, SITES and EXT. -/
def loopOffOnly (base : Nat) : Bool :=
  (decide (0x3C1008 ≤ base) && decide (base ≤ 0x3C1010)) || (decide (0x3C1044 ≤ base) && decide (base ≤ 0x3C1060)) || base == 0x3C107C

/-- CLE (R520, R523, R526, R529, R530). -/
def State.writeCle (s : State) (req : Req) (base i j w : Nat) : Option State :=
  let per := bits w 0 16
  if base = 0x3C0100 then some (s.writeLbCtrl req i w)
  else if base = 0x3C0108 then some (s.run (effLbHostTxWrite (fin 4 i) (BitVec.ofNat 32 w)))
  else if base = 0x3C0180 then some (s.writeSched req i j w)
  else if base = 0x3C0800 && !(per ≠ 0 && (1000 % per = 0 || per % 1000 = 0)) then some (s.put CLE_STATUS_PWMREF 1)
  else if base = 0x3C1000 then some (s.writeLoopCtrl req i w)
  else if 0x3C1000 ≤ base && base < 0x3C3000
      && (s.get (CLE_LSTATUS_OWNER i) ≠ cleWho req || (loopOffOnly base && s.get (CLE_LSTATUS_MODE i) ≠ 0)) then some s.cleRefuse
  else none

/-- CAL_REQ (R560, R563, R569): a reserved KIND is refused. -/
def State.writeCalReq (s : State) (w : Nat) : State :=
  let e := fin 4 (bits w 8 2)
  let t := fin 256 (bits w 0 8)
  match bits w 28 4 with
  | 1 => s.run (effCalReqTiming e t)
  | 2 => s.run (effCalReqDc e t)
  | 3 => s.run (effCalReqBoth e t)
  | 4 => s.run (effCalReqGraft e t)
  | 5 => s.run (effCalReqTile e t)
  | 6 => s.run (effCalReqPmu e t)
  | _ => s.calRefuse

/-- TSK_c_DONE (R627 to R629, R644). -/
def State.writeTaskDone (s : State) (c w : Nat) : State :=
  let k := fin 1048576 w
  match bits w 30 2 with
  | 1 => s.run (effTaskDoneOk (fin 16 c) k)
  | 2 => s.run (effTaskRetry (fin 16 c) k)
  | 3 => s.run (effTaskDoneFail (fin 16 c) k)
  | _ => s

/-- CAL and TSK (R569, R618 to R623, R644). -/
def State.writeTsk (s : State) (base i w : Nat) : Option State :=
  let k := fin 1048576 w
  if base = 0x400008 then some (s.writeCalReq w)
  else if (base = 0x480008 || base = 0x48000C) && s.que.tasks.any (fun e => e.2.st != 0) then some s
  else if base = 0x480010 then some (s.run (effTskArm k))
  else if base = 0x480014 then some (s.run (effTskDec k))
  else if base = 0x480018 then some (s.run (effTskFree k))
  else if base = 0x481000 then some (s.runBits w [(0, effTskReq (fin 16 i))])
  else if base = 0x481028 then some (s.writeTaskDone i w)
  else none

/-- QUE_CFG of the requester, for the queue of its QUE_IDX (R634, R637, R638, R646). -/
def State.writeQueCfg (s : State) (req : Req) (w : Nat) : State :=
  let q := fin 65536 (s.get (QUE_IDX.per req))
  (s.put (QUE_CFG_LIMIT.per req) (bits w 0 25)).runBits w
    [(31, effQueueOpen q (BitVec.ofNat 25 w)), (30, effQueueClose q), (29, effQueueFlush q)]

/-- QUE_WIN_CMD (R640): a reserved OP ends with ARG. -/
def State.writeWinCmd (s : State) (req : Req) (w : Nat) : State :=
  let q := fin 65536 w
  match bits w 30 2 with
  | 1 => s.run (effQueueEnq req q (BitVec.ofNat 10 (bits w 16 10)))
  | 2 => s.runFree fun v => effQueueDeq req q (bitAt v 0)
  | _ => s.winStat req 4

/-- QUE_HRr_CFG (R641, R645): discarded while bound, but for a write with BIND 0. -/
def State.writeRingCfg (s : State) (i w : Nat) : State :=
  let msi := bitAt w 30
  let size := BitVec.ofNat 6 (bits w 16 6)
  if bitAt w 31 then s.run (effHostRingBind (fin 256 i) msi size (fin 65536 w)) else s.run (effHostRingUnbind (fin 256 i) msi size (fin 65536 w))

/-- QUE (R631, R640, R641, R645, R646). -/
def State.writeQue (s : State) (req : Req) (base i w : Nat) : Option State :=
  if (base = 0x4C0008 || base = 0x4C000C || base = 0x4C0010) && !s.noQueueOpen then some (s.put QUE_STATUS_CFGREF 1)
  else if base = 0x4C0024 then some (s.writeQueCfg req w)
  else if base = 0x4C0040 then some (s.writeWinCmd req w)
  else if base = 0x4C1000 then some (s.writeRingCfg i w)
  else if base = 0x4C1024 then some (s.run (effHostRingConsWrite (fin 256 i) (BitVec.ofNat 32 w)))
  else none

/-- HBC (R656, R667, R671, R675, R676): the host leaves INSERVICE. -/
def State.writeHbc (s : State) (req : Req) (base w : Nat) : Option State :=
  if base = 0x500000 then
    let s1 := (s.put HBC_CTRL_SCRUB_EN (bits w 3 1)).put HBC_CTRL_AUTORETIRE (bits w 4 1)
    some (if req = Req.host then s1
      else if bitAt w 0 then (if s1.on HBC_CTRL_INSERVICE then s1 else s1.runFree fun v => effHbcInserviceSet req (bitAt v 0))
      else (s1.put HBC_CTRL_INSERVICE 0).put HBC_STATUS_INSERVICE 0)
  else if base = 0x500008 then some (s.put HBC_PORT_PRIO (w &&& 0x77777777))
  else if base = 0x50000C then some (if bits w 0 8 = 0 then s else s.run (effHbmFence (BitVec.ofNat 8 w)))
  else if base = 0x500014 then some (s.runBits w [(31, effHbcRetire (fin 32 w))])
  else if base = 0x500030 then some (if 1 ≤ bits w 0 5 && bits w 0 5 ≤ 24 then s.put HBC_SCRUB_HRS (bits w 0 5) else s)
  else none

/-- The port is disabled: it is DOWN and has no lanes (R684). -/
def State.portDown (s : State) (p : Nat) : State :=
  (List.range 4).foldl (fun t l => t.put (LNK_LSTATUS_LOCK p l) 0) ((s.put (LNK_AZ_STATUS_STATE p) 0).setLanes p 0)

/-- LNK_AZp_CTRL (R684, R716): EN, the RW fields, TEST, then RETRAIN, FALLOW and WAKE. -/
def State.writeAzCtrl (s : State) (p w : Nat) : State :=
  let q := fin 4 p
  let s1 := ((s.put (LNK_AZ_CTRL_AUTOWIDEN p) (bits w 3 1)).put (LNK_AZ_CTRL_AUTOEQ p) (bits w 2 1)).put (LNK_AZ_CTRL_MAXW p) (bits w 24 2)
  let s2 := s1.put (LNK_AZ_CTRL_EN p) (bits w 0 1)
  let s3 := if !bitAt w 0 then s2.portDown p else if s2.portState p = 0 then s2.put (LNK_AZ_STATUS_STATE p) 1 else s2
  let s4 := if bitAt w 28 = s3.on (LNK_AZ_CTRL_TEST p) then s3 else s3.run (effPortTest q (bitAt w 28))
  s4.runBits w [(31, effLinkRetrain q), (30, effFallowRequest q false), (29, effFallowWake q)]

/-- LNK, but for remote accesses (R680, R684, R690, R716). -/
def State.writeLnk (s : State) (base i j w : Nat) : Option State :=
  let v := BitVec.ofNat 32 w
  if base = 0x581000 then some (s.writeAzCtrl i w)
  else if base = 0x581100 then some (s.run (effTxeqWrite (fin 4 i) (fin 4 j) v))
  else if base = 0x58110C then some (s.run (effPrbsCtrlWrite (fin 4 i) (fin 4 j) v))
  else none

/-- WTM (R708, R709, R718). -/
def State.writeWtm (s : State) (base w : Nat) : Option State :=
  if base = 0x5C0000 then
    some (((s.put WTM_CTRL_SYNCP (WTM_CTRL_SYNCP.of w)).put WTM_CTRL_ROOTSRC (WTM_CTRL_ROOTSRC.of w)).runBits w [(0, effWtmSet)])
  else if base = 0x5C000C then some (s.run (effWtmIncWrite (BitVec.ofNat 32 w)))
  else if base = 0x5C002C then some (s.run (effWtmAdj (BitVec.ofNat 32 w)))
  else none

/-- SCN_c_CTRL by the active pair (R612): RUN starts a core in OFF, and RUN 0 puts any core but a DEAD one in OFF; then RESTART. -/
def State.writeScnCtrl (s : State) (req : Req) (c w : Nat) : State :=
  if req ≠ Req.rootstock then s
  else
    let s1 := s.put (SCN_CTRL_RUN c) (bits w 31 1)
    let s2 := if s1.scnState c = 6 then s1 else if !bitAt w 31 then s1.setScn c 0 else if s1.scnState c = 0 then s1.put (SCN_STATUS_STATE c) 1 else s1
    s2.runBits w [(30, effScnRestart req (fin 16 c))]

/-- RSC and SCN, written by the active pair (R581, R582, R610, R612). -/
def State.writeRsc (s : State) (req : Req) (base i j w : Nat) : Option State :=
  let v := BitVec.ofNat 32 w
  if base = 0x600024 then some (s.runBits w [(0, effRscWdogKick req)])
  else if base = 0x601000 then some (s.writeScnCtrl req i w)
  else if base = 0x601014 then some (s.run (effDoorbell req (fin 16 i) v))
  else if base = 0x601048 then some (s.run (effPlotWrite req (fin 16 i) false (fin 8 j) v))
  else if base = 0x6010C8 then some (s.run (effPlotWrite req (fin 16 i) true (fin 8 j) v))
  else if (base = 0x601040 || base = 0x601044 || base = 0x6010C0 || base = 0x6010C4) && s.plotsFrozen i then some s
  else none

/-- PIN: entries of timing and level sets, the untrusted mark and the site map (R254, R340, R368, R382). -/
def State.writePin (s : State) (req : Req) (base i j k w : Nat) : Option State :=
  let v := BitVec.ofNat 32 w
  if base = 0x1000000 then
    some (if k < 6 then s.run (effPtfTsLatchWrite req (fin 256 i) (fin 1024 j) (fin 6 k) v) else s.run (effPtfTsCfgWrite req (fin 256 i) (fin 1024 j) v))
  else if base = 0x1008000 then
    some (if k < 6 then s.run (effLvlLsLatchWrite req (fin 256 i) (fin 256 j) (fin 6 k) v) else s.run (effLvlLsCfgWrite req (fin 256 i) (fin 256 j) v))
  else if base = 0x100E120 then
    some ((if bitAt w 30 then s.put (LVL_CH_UNTR_CLRREF i) 0 else s).runBits w [(31, effUntrClear (fin 256 i))])
  else if base = 0x100F030 && s.playing then some (s.incSat SEG_CREFUSED)
  else none

/-- A write with a rule of its own, if the register has one. -/
def State.writeSpecial (s : State) (req : Req) (base i j k w : Nat) : Option State :=
  if base < 0x10000 then s.writeGlb req base w
  else if base < 0x20000 then s.writeCmt base w
  else if base < 0x30000 then s.writeClk base w
  else if base < 0x40000 then s.writePmg req base w
  else if base < 0x80000 then s.writeFcl req base i w
  else if base < 0x100000 then s.writeSeq base w
  else if base < 0x180000 then s.writeSeg req base i w
  else if base < 0x200000 then s.writeApg base w
  else if base < 0x280000 then s.writeCap base w
  else if base < 0x300000 then s.writeTiu req base i w
  else if base < 0x380000 then s.writePmu req base i w
  else if base < 0x3C0000 then s.writeGrd req base i w
  else if base < 0x400000 then s.writeCle req base i j w
  else if base < 0x4C0000 then s.writeTsk base i w
  else if base < 0x500000 then s.writeQue req base i w
  else if base < 0x580000 then s.writeHbc req base w
  else if base < 0x5C0000 then s.writeLnk base i j w
  else if base < 0x600000 then s.writeWtm base w
  else if base < 0x1000000 then s.writeRsc req base i j w
  else if base < 0x2000000 then s.writePin req base i j k w
  else s.writeApg base w

/-! ## Whole writes -/

/-- A word of a control-store slot: MW0 to MW5 go to the latch, MWCHK completes it, MWSTAT is discarded (R192, R193, R195). -/
def State.writeSlotWord (s : State) (req : Req) (n k w : Nat) : State :=
  if k < 6 then s.run (effCsLatchWrite req (fin 262144 n) (fin 6 k) (BitVec.ofNat 32 w))
  else if k = 6 then s.run (effCsSlotWrite req (fin 262144 n) (BitVec.ofNat 16 w))
  else s

/-- A word of an APG instruction (R301, R322). -/
def State.writeIwWord (s : State) (req : Req) (g n k w : Nat) : State :=
  if k < 2 then s.run (effApgIwLatch req (fin 2 g) (fin 4096 n) (fin 2 k) (BitVec.ofNat 32 w))
  else if k = 2 then s.run (effApgIwchkWrite req (fin 2 g) (fin 4096 n) (BitVec.ofNat 16 w))
  else s

/-- A write of the word at BAR0 offset x, where it reaches a register; rra: what a write of LNK_RRA_CMD does (R16, R807, R817). -/
def State.writeAt (s : State) (rra : State → State) (req : Req) (x w : Nat) : State :=
  if 0x8000000 ≤ x then s
  else if 0x4000000 ≤ x && x < 0x4800000 then s.writeSlotWord req ((x - 0x4000000) / 32) (x / 4 % 8) w
  else if 0x5A0000 ≤ x && x < 0x5A8000 then s.put (MSIX_WORD ((x - 0x5A0000) / 4)) w
  else if 0x5000000 ≤ x && x < 0x5200000 && x % 0x100000 < 0x10000 then
    s.writeIwWord req ((x - 0x5000000) / 0x100000) (x % 0x10000 / 16) (x / 4 % 4) w
  else if x = 0x58002C then rra s
  else
    match regAt x with
    | none => s
    | some (d, i, j, k) => (s.writeSpecial req d.base i j k w).getD (s.writePlain req x w d i j k)

/-- The write asks for a claim that R770 refuses with CLAIM_DENIED in a domain that is off: TAKE of a unit or a PMU. -/
def takesClaim (x w : Nat) : Bool :=
  (decide (0x281000 ≤ x) && decide (x < 0x282000) && x % 0x100 == 0 && bitAt w 29)
    || (decide (0x301000 ≤ x) && decide (x < 0x303000) && x % 0x100 == 0 && bitAt w 31)

/-- A write of the word at BAR0 offset x by a requester (R46, R578, R753, R770, R776). -/
def State.writeWith (s : State) (rra : State → State) (req : Req) (x w : Nat) : State :=
  if s.ignored req x then s
  else if req = Req.host && rscRange x then s.incSat RSC_HWREFUSED
  else if s.regOn x then s.writeAt rra req x w
  else
    let s1 := s.incSat PMG_NOFFWR
    if takesClaim x w then s1.claimDenied (x / 0x100000 * 0x100000 + x / 0x80000 % 2 * 0x80000) else s1

/-! ## Remote accesses (R698 to R702) -/

/-- A broadcast goes down every tree link in a DATA flit each (R702). -/
def State.sendDown (s : State) (addr data : Nat) : State :=
  ((List.range 4).filter (bitAt (s.get CLK_DEPTH_DOWN))).foldl (fun t p => t.sendFlit p (.remote p 3 0 addr data)) s

/-- A broadcast goes up toward the root (R702). -/
def State.sendUp (s : State) (addr data : Nat) : State :=
  s.sendFlit (s.get CLK_DEPTH_UP) (.remote (s.get CLK_DEPTH_UP) 3 0 addr data)

/-- A write of LNK_RRA_CMD while BUSY is 1 (R699). -/
def State.rraRefuse (s : State) (req : Req) : State := s.put (LNK_RRA_STAT_CMDREF.per req) 1

/-- The port toward a device, if LNK_ROUTE has a valid entry for it and the port is ACTIVE (R698, R701). -/
def State.rraPort (s : State) (dev : Nat) : Option Nat :=
  let b := bits (s.get (LNK_ROUTE (dev / 4))) (8 * (dev % 4)) 8
  if bitAt b 7 && s.portState (b % 4) = 4 then some (b % 4) else none

/-- A remote access begins: BUSY, and the operation of the requester. -/
def State.rraBegin (s : State) (req : Req) (op : Nat) : State :=
  let s1 := s.put (LNK_RRA_STAT_BUSY.per req) 1
  { s1 with lnk := { s1.lnk with rra := (req.idx, op) :: s1.lnk.rra.filter fun e => e.1 != req.idx } }

/-- An access by the host requester at this device (R700): the state after it, its result and the data of a READ. A write to
0x600000 to 0xFFFFFF is discarded with REFUSED. -/
def State.rraLocal (s : State) (wr : Nat → Nat → State → State) (op addr data : Nat) : State × Nat × Nat :=
  if op = 1 then (s.readEffect .host addr, 0, s.regRead .host addr)
  else (wr addr data s, if rscRange addr then 3 else 0, 0)

/-- The access that a requester's registers describe, with OP op, starts; wr: a write by the host requester at this device
(R698 to R702). The root applies a BCAST and sends it down; another member sends it to the root. -/
def State.rraStart (s : State) (wr : Nat → Nat → State → State) (req : Req) (op : Nat) : State :=
  let dev := s.get (LNK_RRA_DEV.per req)
  let addr := s.get (LNK_RRA_ADDR.per req)
  let data := s.get (LNK_RRA_DATA.per req)
  if s.on (LNK_RRA_STAT_BUSY.per req) then s.rraRefuse req
  else
    let s0 := s.rraBegin req op
    if op = 0 || addr % 4 ≠ 0 || 0x10000000 ≤ addr then s0.rraEnd req 4
    else if op = 3 then
      if s.on CMT_STATUS_ROOT then
        let s1 := wr addr data s0
        if s.get CLK_GRP_SIZE = 1 then (s1.put (LNK_RRA_DATA.per req) 1).rraEnd req 0 else s1.sendDown addr data
      else if s.portState (s.get CLK_DEPTH_UP) = 4 then s0.sendUp addr data
      else s0.rraEnd req 1
    else if dev = s.get CLK_DEVID then
      let (s1, res, v) := s0.rraLocal wr op addr data
      (if op = 1 then s1.put (LNK_RRA_DATA.per req) v else s1).rraEnd req res
    else
      match s.rraPort dev with
      | none => s0.rraEnd req 1
      | some p => s0.sendFlit p (.remote p op dev addr data)

/-- A write that the host requester makes at this device within a remote access of its own: BUSY is 1 then, and a write of
LNK_RRA_CMD is refused. -/
def State.hostWrite0 (x w : Nat) (s : State) : State := s.writeWith (fun t => t.rraRefuse .host) .host x w

/-- A write that the host requester makes at this device within a remote access of another requester. -/
def State.hostWrite (x w : Nat) (s : State) : State :=
  s.writeWith (fun t => t.rraStart State.hostWrite0 .host (bits w 30 2)) .host x w

/-- A whole word written at BAR0 offset x by a requester. -/
def State.regWrite (s : State) (req : Req) (x w : Nat) : State :=
  s.writeWith (fun t => t.rraStart State.hostWrite req (bits w 30 2)) req x w

/-- The part of a write within the word at offset x; byte enables other than all four discard it whole (R809). -/
def State.writePart (s : State) (req : Req) (x : Nat) (data : BitVec 32) (be : BitVec 4) : State :=
  if be = 15#4 then s.regWrite req x data.toNat else if s.ignored req x then s else s.incSat GLB_BADACC

/-- REGISTER_WRITE: a write within the word at an offset, and of an access that goes on into the next word, the part there: a 64-bit
access is two 32-bit ones, lower address first (R13, R809). The word's low two address bits are those that the byte enables stand for. A
Scion's access needs a plot that covers all of it (R580). -/
def execRegisterWrite (req : Req) (off : BitVec 28) (data : BitVec 32) (be : BitVec 4) (hi : Option (BitVec 32 × BitVec 4))
    (s : State) : Out :=
  let x := off.toNat / 4 * 4
  let s1 := s.writePart req x data be
  if !s.issues req x (if hi.isSome then 8 else 4) then .next (s.notIssued req)
  else match hi with
  | none => .next s1
  | some (d, b) => .next (if x + 4 < 2 ^ 28 then s1.writePart req (x + 4) d b else s1)

end Sys2Proof.Machine
end

