-- ==== Sys2Proof/Machine/Rra.lean ====
section
/-! DEFINITION. The commands of remote register access (R698 to R702): the three operations, what a target does, and how an access
ends. -/

namespace Sys2Proof.Machine

/-- A write of LNK_RRA_CMD with an OP by a requester. -/
def State.rraCmd (s : State) (req : Req) (op : Nat) : Out :=
  s.reachReg req 0x58002C fun t => .next (t.rraStart State.hostWrite req op)

/-- RRA_READ: a remote READ begins, or is made at once at this device (R699 to R701). -/
def execRraRead (req : Req) (s : State) : Out := s.rraCmd req 1

/-- RRA_WRITE: a remote WRITE begins, or is made at once at this device (R699 to R701). -/
def execRraWrite (req : Req) (s : State) : Out := s.rraCmd req 2

/-- RRA_BCAST: a broadcast write begins (R699, R702). -/
def execRraBcast (req : Req) (s : State) : Out := s.rraCmd req 3

/-- RRA_SERVE: an access arrives at a port (op 1 READ, 2 WRITE, 3 BCAST) and is performed as one of the host requester; a response
leaves by the port with its result (R700, R702, R715). A broadcast on its way to the root goes on up, and one on its way down goes on
down every tree link. Nothing arrives while the links have no clock (R752, R776). -/
def execRraServe (port op : Fin 4) (addr data : BitVec 32) (s : State) : Out :=
  let p := port.val
  let a := addr.toNat
  let d := data.toNat
  if op.val = 0 || s.dark 0x580000 then .next s
  else if op.val = 3 && !s.on CMT_STATUS_ROOT && s.get CLK_DEPTH_UP ≠ p then .next (s.sendUp a d)
  else
    let (s1, res, v) := (s.inc LNK_NRRA).rraLocal State.hostWrite op.val a d
    .next ((if op.val = 3 then s1.sendDown a d else s1).sendFlit p (.response p (s.get CLK_DEVID) res v))

/-- The operation that a requester's access in progress performs. -/
def State.rraOp (s : State) (req : Req) : Nat := (s.lnk.rra.find? fun e => e.1 == req.idx).elim 0 (·.2)

/-- RRA_RESPONSE: the response to a requester's access arrives: for a READ its data; for a BCAST the number of members that acknowledged
it, with CLK_GRP_SIZE of the root, which it must equal (R701, R702). With no access in progress it is discarded. -/
def execRraResponse (req : Req) (refused : Bool) (data : BitVec 32) (size : BitVec 14) (s : State) : Out :=
  if !s.on (LNK_RRA_STAT_BUSY.per req) || s.dark 0x580000 then .next s
  else if s.rraOp req = 3 then
    .next ((s.put (LNK_RRA_DATA.per req) data.toNat).rraEnd req (if data.toNat = size.toNat then 0 else 2))
  else
    let s1 := if s.rraOp req = 1 then s.put (LNK_RRA_DATA.per req) data.toNat else s
    .next (s1.rraEnd req (if refused then 3 else 0))

/-- RRA_TIMEOUT: LNK_RRA_TMO passes with no response; a BCAST gives the number of members that acknowledged it (R701, R702). -/
def execRraTimeout (req : Req) (count : BitVec 14) (s : State) : Out :=
  if !s.on (LNK_RRA_STAT_BUSY.per req) || s.dark 0x580000 then .next s
  else .next ((if s.rraOp req = 3 then s.put (LNK_RRA_DATA.per req) count.toNat else s).rraEnd req 2)

end Sys2Proof.Machine
end

