-- ==== Sys2Proof/Machine/Dispatch.lean ====
section
/-! DEFINITION. One arm per command: a direct call of its meaning. -/

namespace Sys2Proof.Machine

def exec (i : Instr) (s : State) : Host.Outcome State Fault Refusal :=
  match i with
  | .registerWrite req off data be hi => Sys2Proof.Machine.execRegisterWrite req off data be hi s
  | .hostBar2Write addr data bad => Sys2Proof.Machine.execHostBar2Write addr data bad s
  | .hbmRequest port write addr len data => Sys2Proof.Machine.execHbmRequest port write addr len data s
  | .hbmResponse port err live lat => Sys2Proof.Machine.execHbmResponse port err live lat s
  | .powerOnReset => Sys2Proof.Machine.execPowerOnReset s
  | .coldReset => Sys2Proof.Machine.execColdReset s
  | .warmReset => Sys2Proof.Machine.execWarmReset s
  | .resetEnd crc0 crc1 => Sys2Proof.Machine.execResetEnd crc0 crc1 s
  | .functionLevelReset => Sys2Proof.Machine.execFunctionLevelReset s
  | .perstNAssert => Sys2Proof.Machine.execPerstNAssert s
  | .perstNRelease => Sys2Proof.Machine.execPerstNRelease s
  | .powerLossTrigger rail => Sys2Proof.Machine.execPowerLossTrigger rail s
  | .powerLossWriteDone => Sys2Proof.Machine.execPowerLossWriteDone s
  | .pwrSeqErr rail => Sys2Proof.Machine.execPwrSeqErr rail s
  | .railUndervoltDisconnect low => Sys2Proof.Machine.execRailUndervoltDisconnect low s
  | .testEnHigh high => Sys2Proof.Machine.execTestEnHigh high s
  | .commitGo => Sys2Proof.Machine.execCommitGo s
  | .commitCancel => Sys2Proof.Machine.execCommitCancel s
  | .acklost => Sys2Proof.Machine.execAcklost s
  | .prepareReceive target scope tag => Sys2Proof.Machine.execPrepareReceive target scope tag s
  | .voteReceive port ready reason dev => Sys2Proof.Machine.execVoteReceive port ready reason dev s
  | .voteForward => Sys2Proof.Machine.execVoteForward s
  | .commitDecide => Sys2Proof.Machine.execCommitDecide s
  | .decisionReceive commit retry tag reason dev => Sys2Proof.Machine.execDecisionReceive commit retry tag reason dev s
  | .commitExchange => Sys2Proof.Machine.execCommitExchange s
  | .resyncEnd => Sys2Proof.Machine.execResyncEnd s
  | .commitLost => Sys2Proof.Machine.execCommitLost s
  | .cfgScrub active cls offset fails => Sys2Proof.Machine.execCfgScrub active cls offset fails s
  | .harvestGo => Sys2Proof.Machine.execHarvestGo s
  | .harvestCancel => Sys2Proof.Machine.execHarvestCancel s
  | .harvestHold hold => Sys2Proof.Machine.execHarvestHold hold s
  | .harvestReceive target => Sys2Proof.Machine.execHarvestReceive target s
  | .harvestTake => Sys2Proof.Machine.execHarvestTake s
  | .harvestMiss => Sys2Proof.Machine.execHarvestMiss s
  | .verdictSettle site => Sys2Proof.Machine.execVerdictSettle site s
  | .verdictRelease site => Sys2Proof.Machine.execVerdictRelease site s
  | .refLoss => Sys2Proof.Machine.execRefLoss s
  | .refBack => Sys2Proof.Machine.execRefBack s
  | .warmupDone => Sys2Proof.Machine.execWarmupDone s
  | .ovenLow => Sys2Proof.Machine.execOvenLow s
  | .relock => Sys2Proof.Machine.execRelock s
  | .revalDone badTs badLs => Sys2Proof.Machine.execRevalDone badTs badLs s
  | .vclkUnlock => Sys2Proof.Machine.execVclkUnlock s
  | .gateOpen => Sys2Proof.Machine.execGateOpen s
  | .gateHold hold => Sys2Proof.Machine.execGateHold hold s
  | .form => Sys2Proof.Machine.execForm s
  | .discoveryReceive port depth beyond => Sys2Proof.Machine.execDiscoveryReceive port depth beyond s
  | .linkMeasure port raw => Sys2Proof.Machine.execLinkMeasure port raw s
  | .idAssignReceive taken => Sys2Proof.Machine.execIdAssignReceive taken s
  | .hReceive h down => Sys2Proof.Machine.execHReceive h down s
  | .gcPathProbe m => Sys2Proof.Machine.execGcPathProbe m s
  | .formationDone conflict size leftOut routes => Sys2Proof.Machine.execFormationDone conflict size leftOut routes s
  | .groupStart => Sys2Proof.Machine.execGroupStart s
  | .syncInStart => Sys2Proof.Machine.execSyncInStart s
  | .startReceive lead gvc cfg frac => Sys2Proof.Machine.execStartReceive lead gvc cfg frac s
  | .startDividerReset => Sys2Proof.Machine.execStartDividerReset s
  | .groupGateOpen lockHeld nosync => Sys2Proof.Machine.execGroupGateOpen lockHeld nosync s
  | .join inSync tooDeep => Sys2Proof.Machine.execJoin inSync tooDeep s
  | .joinReceive lead epoch gvc cfg frac => Sys2Proof.Machine.execJoinReceive lead epoch gvc cfg frac s
  | .joinAlign lockHeld => Sys2Proof.Machine.execJoinAlign lockHeld s
  | .hopSlip here => Sys2Proof.Machine.execHopSlip here s
  | .trellisDown here => Sys2Proof.Machine.execTrellisDown here s
  | .syncSkew skew => Sys2Proof.Machine.execSyncSkew skew s
  | .csLatchWrite req slot word data => Sys2Proof.Machine.execCsLatchWrite req slot word data s
  | .csSlotWrite req slot chk => Sys2Proof.Machine.execCsSlotWrite req slot chk s
  | .cslGo => Sys2Proof.Machine.execCslGo s
  | .cslAbort => Sys2Proof.Machine.execCslAbort s
  | .cslDone => Sys2Proof.Machine.execCslDone s
  | .csScrub slot flip => Sys2Proof.Machine.execCsScrub slot flip s
  | .vectorIssue late flip flipA flipB bad => Sys2Proof.Machine.execVectorIssue late flip flipA flipB bad s
  | .seqNext => Sys2Proof.Machine.execSeqNext s
  | .seqJump => Sys2Proof.Machine.execSeqJump s
  | .seqCall => Sys2Proof.Machine.execSeqCall s
  | .seqReturn => Sys2Proof.Machine.execSeqReturn s
  | .seqBranch => Sys2Proof.Machine.execSeqBranch s
  | .seqBranchf => Sys2Proof.Machine.execSeqBranchf s
  | .seqCcall => Sys2Proof.Machine.execSeqCcall s
  | .seqCreturn => Sys2Proof.Machine.execSeqCreturn s
  | .seqLoadloop bad => Sys2Proof.Machine.execSeqLoadloop bad s
  | .seqLoadloopi => Sys2Proof.Machine.execSeqLoadloopi s
  | .seqLoop => Sys2Proof.Machine.execSeqLoop s
  | .seqLoopr bad => Sys2Proof.Machine.execSeqLoopr bad s
  | .seqWait late flip flipA flipB bad => Sys2Proof.Machine.execSeqWait late flip flipA flipB bad s
  | .seqMatch late flip flipA flipB bad => Sys2Proof.Machine.execSeqMatch late flip flipA flipB bad s
  | .seqStopfail => Sys2Proof.Machine.execSeqStopfail s
  | .seqHalt => Sys2Proof.Machine.execSeqHalt s
  | .cwaitRelease late flipA flipB bad => Sys2Proof.Machine.execCwaitRelease late flipA flipB bad s
  | .waitLimitExpiry late flipA flipB bad => Sys2Proof.Machine.execWaitLimitExpiry late flipA flipB bad s
  | .stallHoldEnd => Sys2Proof.Machine.execStallHoldEnd s
  | .stallLimit => Sys2Proof.Machine.execStallLimit s
  | .cmark => Sys2Proof.Machine.execCmark s
  | .patternEvent => Sys2Proof.Machine.execPatternEvent s
  | .tiuctlArm => Sys2Proof.Machine.execTiuctlArm s
  | .tiuctlGate => Sys2Proof.Machine.execTiuctlGate s
  | .tiuctlDisarm => Sys2Proof.Machine.execTiuctlDisarm s
  | .streamRun => Sys2Proof.Machine.execStreamRun s
  | .streamPause => Sys2Proof.Machine.execStreamPause s
  | .streamRunall => Sys2Proof.Machine.execStreamRunall s
  | .streamPauseall => Sys2Proof.Machine.execStreamPauseall s
  | .flagSet => Sys2Proof.Machine.execFlagSet s
  | .flagClear => Sys2Proof.Machine.execFlagClear s
  | .flagToggle => Sys2Proof.Machine.execFlagToggle s
  | .holdall => Sys2Proof.Machine.execHoldall s
  | .offall => Sys2Proof.Machine.execOffall s
  | .holdout => Sys2Proof.Machine.execHoldout s
  | .offout => Sys2Proof.Machine.execOffout s
  | .capctlArm => Sys2Proof.Machine.execCapctlArm s
  | .capctlDisarm => Sys2Proof.Machine.execCapctlDisarm s
  | .seqStop => Sys2Proof.Machine.execSeqStop s
  | .stopatArm => Sys2Proof.Machine.execStopatArm s
  | .stopatDisarm => Sys2Proof.Machine.execStopatDisarm s
  | .stopatReached => Sys2Proof.Machine.execStopatReached s
  | .uflagSet mask => Sys2Proof.Machine.execUflagSet mask s
  | .uflagClear mask => Sys2Proof.Machine.execUflagClear mask s
  | .segDidxWrite req index => Sys2Proof.Machine.execSegDidxWrite req index s
  | .descriptorWrite req => Sys2Proof.Machine.execDescriptorWrite req s
  | .playlistStart => Sys2Proof.Machine.execPlaylistStart s
  | .playlistWithdraw => Sys2Proof.Machine.execPlaylistWithdraw s
  | .startCheckDone => Sys2Proof.Machine.execStartCheckDone s
  | .headsLoaded => Sys2Proof.Machine.execHeadsLoaded s
  | .playlistFirstVector flip flipA flipB bad => Sys2Proof.Machine.execPlaylistFirstVector flip flipA flipB bad s
  | .streamOpen channel width => Sys2Proof.Machine.execStreamOpen channel width s
  | .streamClose channel => Sys2Proof.Machine.execStreamClose channel s
  | .streamProdWrite channel hi => Sys2Proof.Machine.execStreamProdWrite channel hi s
  | .streamFetch channel addr data => Sys2Proof.Machine.execStreamFetch channel addr data s
  | .apgIwLatch req gen index word data => Sys2Proof.Machine.execApgIwLatch req gen index word data s
  | .apgIwchkWrite req gen index chk => Sys2Proof.Machine.execApgIwchkWrite req gen index chk s
  | .apgScrub gen index flip => Sys2Proof.Machine.execApgScrub gen index flip s
  | .apgTldGo => Sys2Proof.Machine.execApgTldGo s
  | .apgTldAbort => Sys2Proof.Machine.execApgTldAbort s
  | .apgTldDone => Sys2Proof.Machine.execApgTldDone s
  | .ptfTsLatchWrite req ch entry word data => Sys2Proof.Machine.execPtfTsLatchWrite req ch entry word data s
  | .ptfTsCfgWrite req ch entry data => Sys2Proof.Machine.execPtfTsCfgWrite req ch entry data s
  | .vectorLand => Sys2Proof.Machine.execVectorLand s
  | .levelSettleEnd ch => Sys2Proof.Machine.execLevelSettleEnd ch s
  | .edgePlace ch => Sys2Proof.Machine.execEdgePlace ch s
  | .compareSample cycle ch ui lands held => Sys2Proof.Machine.execCompareSample cycle ch ui lands held s
  | .twinMismatch ch delay bad => Sys2Proof.Machine.execTwinMismatch ch delay bad s
  | .lvlLsLatchWrite req ch entry word data => Sys2Proof.Machine.execLvlLsLatchWrite req ch entry word data s
  | .lvlLsCfgWrite req ch entry data => Sys2Proof.Machine.execLvlLsCfgWrite req ch entry data s
  | .readbackPeriod => Sys2Proof.Machine.execReadbackPeriod s
  | .readbackStep ch void bad => Sys2Proof.Machine.execReadbackStep ch void bad s
  | .untrClear ch => Sys2Proof.Machine.execUntrClear ch s
  | .lvlCtrlWrite data => Sys2Proof.Machine.execLvlCtrlWrite data s
  | .rakeTake full fcFull bad => Sys2Proof.Machine.execRakeTake full fcFull bad s
  | .rakeStop => Sys2Proof.Machine.execRakeStop s
  | .siteKill site => Sys2Proof.Machine.execSiteKill site s
  | .hostSiteKill mask => Sys2Proof.Machine.execHostSiteKill mask s
  | .capArm => Sys2Proof.Machine.execCapArm s
  | .capDisarm => Sys2Proof.Machine.execCapDisarm s
  | .capReset => Sys2Proof.Machine.execCapReset s
  | .captureRoomReturn => Sys2Proof.Machine.execCaptureRoomReturn s
  | .fcRoomReturn => Sys2Proof.Machine.execFcRoomReturn s
  | .fcRptrWrite hi => Sys2Proof.Machine.execFcRptrWrite hi s
  | .tiuTake unit => Sys2Proof.Machine.execTiuTake unit s
  | .tiuRelease unit => Sys2Proof.Machine.execTiuRelease unit s
  | .tiuArm unit => Sys2Proof.Machine.execTiuArm unit s
  | .tiuDisarm unit => Sys2Proof.Machine.execTiuDisarm unit s
  | .tiuEvent unit input tick bin => Sys2Proof.Machine.execTiuEvent unit input tick bin s
  | .tiuTimeout unit => Sys2Proof.Machine.execTiuTimeout unit s
  | .tiuRange unit => Sys2Proof.Machine.execTiuRange unit s
  | .tiuCalReq mask => Sys2Proof.Machine.execTiuCalReq mask s
  | .tiuCalStart unit => Sys2Proof.Machine.execTiuCalStart unit s
  | .tiuCalEnd unit hist => Sys2Proof.Machine.execTiuCalEnd unit hist s
  | .tiuCallate unit => Sys2Proof.Machine.execTiuCallate unit s
  | .pmuTake req pmu => Sys2Proof.Machine.execPmuTake req pmu s
  | .pmuRelease req pmu => Sys2Proof.Machine.execPmuRelease req pmu s
  | .pmuConnect req pmu data => Sys2Proof.Machine.execPmuConnect req pmu data s
  | .pmuConnectDone pmu => Sys2Proof.Machine.execPmuConnectDone pmu s
  | .pmuForceWrite req pmu which data => Sys2Proof.Machine.execPmuForceWrite req pmu which data s
  | .contactTestGo => Sys2Proof.Machine.execContactTestGo s
  | .contactChannelDone ch vn vp => Sys2Proof.Machine.execContactChannelDone ch vn vp s
  | .dfcStart req chain => Sys2Proof.Machine.execDfcStart req chain s
  | .dfcStop req chain => Sys2Proof.Machine.execDfcStop req chain s
  | .dfcFreeze req chain on => Sys2Proof.Machine.execDfcFreeze req chain on s
  | .dfcBaseWrite req chain data => Sys2Proof.Machine.execDfcBaseWrite req chain data s
  | .dfcOutput chain xs clip => Sys2Proof.Machine.execDfcOutput chain xs clip s
  | .grdDecision monitor points => Sys2Proof.Machine.execGrdDecision monitor points s
  | .grdRawDecision monitor point => Sys2Proof.Machine.execGrdRawDecision monitor point s
  | .grdIlim ch => Sys2Proof.Machine.execGrdIlim ch s
  | .grdMtrip word mask => Sys2Proof.Machine.execGrdMtrip word mask s
  | .grdRelease word mask unfit => Sys2Proof.Machine.execGrdRelease word mask unfit s
  | .grdDsClear monitor => Sys2Proof.Machine.execGrdDsClear monitor s
  | .grdThrWrite req monitor data => Sys2Proof.Machine.execGrdThrWrite req monitor data s
  | .grdThrSettled monitor => Sys2Proof.Machine.execGrdThrSettled monitor s
  | .grdModeWrite req monitor data => Sys2Proof.Machine.execGrdModeWrite req monitor data s
  | .grdModeSettled monitor => Sys2Proof.Machine.execGrdModeSettled monitor s
  | .grdTwin monitor => Sys2Proof.Machine.execGrdTwin monitor s
  | .grdPTick points => Sys2Proof.Machine.execGrdPTick points s
  | .lbTransaction port rx => Sys2Proof.Machine.execLbTransaction port rx s
  | .lbHostTxWrite port data => Sys2Proof.Machine.execLbHostTxWrite port data s
  | .lbTake req port => Sys2Proof.Machine.execLbTake req port s
  | .lbRelease req port => Sys2Proof.Machine.execLbRelease req port s
  | .lbEnable req port data => Sys2Proof.Machine.execLbEnable req port data s
  | .loopEvaluate loop => Sys2Proof.Machine.execLoopEvaluate loop s
  | .thermalFrame tile ptile => Sys2Proof.Machine.execThermalFrame tile ptile s
  | .tempSettled => Sys2Proof.Machine.execTempSettled s
  | .loopTake req loop => Sys2Proof.Machine.execLoopTake req loop s
  | .loopRelease req loop => Sys2Proof.Machine.execLoopRelease req loop s
  | .loopModeWrite req loop mode => Sys2Proof.Machine.execLoopModeWrite req loop mode s
  | .loopApply req loop bumpless => Sys2Proof.Machine.execLoopApply req loop bumpless s
  | .calReqTiming elem target => Sys2Proof.Machine.execCalReqTiming elem target s
  | .calReqDc elem target => Sys2Proof.Machine.execCalReqDc elem target s
  | .calReqBoth elem target => Sys2Proof.Machine.execCalReqBoth elem target s
  | .calReqGraft elem target => Sys2Proof.Machine.execCalReqGraft elem target s
  | .calReqTile elem target => Sys2Proof.Machine.execCalReqTile elem target s
  | .calReqPmu elem target => Sys2Proof.Machine.execCalReqPmu elem target s
  | .calEntryStart tile => Sys2Proof.Machine.execCalEntryStart tile s
  | .calLate kind target => Sys2Proof.Machine.execCalLate kind target s
  | .calEnd kind target range cells cmp seg vref => Sys2Proof.Machine.execCalEnd kind target range cells cmp seg vref s
  | .graftEnd ch result cells cmp seg vref => Sys2Proof.Machine.execGraftEnd ch result cells cmp seg vref s
  | .rscLockstep standby => Sys2Proof.Machine.execRscLockstep standby s
  | .rscWdogKick req => Sys2Proof.Machine.execRscWdogKick req s
  | .rscWdogExpiry => Sys2Proof.Machine.execRscWdogExpiry s
  | .plotWrite req core standby plot data => Sys2Proof.Machine.execPlotWrite req core standby plot data s
  | .plotAccessFault core kind addr bytes pc => Sys2Proof.Machine.execPlotAccessFault core kind addr bytes pc s
  | .interruptPending core input => Sys2Proof.Machine.execInterruptPending core input s
  | .interruptClaim core => Sys2Proof.Machine.execInterruptClaim core s
  | .interruptComplete core value => Sys2Proof.Machine.execInterruptComplete core value s
  | .doorbell req core data => Sys2Proof.Machine.execDoorbell req core data s
  | .fastEntryPush core x mepc mcause mtval mstatus => Sys2Proof.Machine.execFastEntryPush core x mepc mcause mtval mstatus s
  | .mretRestore core x mepc mcause mtval mstatus => Sys2Proof.Machine.execMretRestore core x mepc mcause mtval mstatus s
  | .wiltedCaptureDone core => Sys2Proof.Machine.execWiltedCaptureDone core s
  | .scionRestartDone core => Sys2Proof.Machine.execScionRestartDone core s
  | .scnRestart req core => Sys2Proof.Machine.execScnRestart req core s
  | .fwStage req tag => Sys2Proof.Machine.execFwStage req tag s
  | .fwSgraft req tag => Sys2Proof.Machine.execFwSgraft req tag s
  | .fwHandover req tag => Sys2Proof.Machine.execFwHandover req tag s
  | .fwKeyrec req tag => Sys2Proof.Machine.execFwKeyrec req tag s
  | .fwSrestart req tag => Sys2Proof.Machine.execFwSrestart req tag s
  | .fwQuery req tag => Sys2Proof.Machine.execFwQuery req tag s
  | .fwDone => Sys2Proof.Machine.execFwDone s
  | .scnDrainLimit core => Sys2Proof.Machine.execScnDrainLimit core s
  | .scnGraftSwitch core failed => Sys2Proof.Machine.execScnGraftSwitch core failed s
  | .handoverStandbyReady => Sys2Proof.Machine.execHandoverStandbyReady s
  | .handoverCommit => Sys2Proof.Machine.execHandoverCommit s
  | .tskArm task => Sys2Proof.Machine.execTskArm task s
  | .tskDec task => Sys2Proof.Machine.execTskDec task s
  | .tskFree task => Sys2Proof.Machine.execTskFree task s
  | .tskReq core => Sys2Proof.Machine.execTskReq core s
  | .taskDeliver core => Sys2Proof.Machine.execTaskDeliver core s
  | .taskDoneOk core task => Sys2Proof.Machine.execTaskDoneOk core task s
  | .taskRetry core task => Sys2Proof.Machine.execTaskRetry core task s
  | .taskDoneFail core task => Sys2Proof.Machine.execTaskDoneFail core task s
  | .taskOverflowMove => Sys2Proof.Machine.execTaskOverflowMove s
  | .queueOpen queue limit => Sys2Proof.Machine.execQueueOpen queue limit s
  | .queueClose queue => Sys2Proof.Machine.execQueueClose queue s
  | .queueFlush queue => Sys2Proof.Machine.execQueueFlush queue s
  | .queueEnq req queue len => Sys2Proof.Machine.execQueueEnq req queue len s
  | .queueDeq req queue bad => Sys2Proof.Machine.execQueueDeq req queue bad s
  | .hostRingBind ring msien size queue => Sys2Proof.Machine.execHostRingBind ring msien size queue s
  | .hostRingUnbind ring msien size queue => Sys2Proof.Machine.execHostRingUnbind ring msien size queue s
  | .hostRingConsWrite ring hi => Sys2Proof.Machine.execHostRingConsWrite ring hi s
  | .hostRingDeliver ring count bad => Sys2Proof.Machine.execHostRingDeliver ring count bad s
  | .hbmFence ports => Sys2Proof.Machine.execHbmFence ports s
  | .fenceDone => Sys2Proof.Machine.execFenceDone s
  | .retrainPauseStart ch slots => Sys2Proof.Machine.execRetrainPauseStart ch slots s
  | .retrainPauseEnd ch failed => Sys2Proof.Machine.execRetrainPauseEnd ch failed s
  | .hbmRefresh ch => Sys2Proof.Machine.execHbmRefresh ch s
  | .hbmTempRead stack temp => Sys2Proof.Machine.execHbmTempRead stack temp s
  | .hbmScrub granule result => Sys2Proof.Machine.execHbmScrub granule result s
  | .hbcRetire ch => Sys2Proof.Machine.execHbcRetire ch s
  | .retirementCopyDone => Sys2Proof.Machine.execRetirementCopyDone s
  | .hbcInserviceSet req trained => Sys2Proof.Machine.execHbcInserviceSet req trained s
  | .linkDetect port => Sys2Proof.Machine.execLinkDetect port s
  | .linkTrainDone port lanes lmap pol taps rx => Sys2Proof.Machine.execLinkTrainDone port lanes lmap pol taps rx s
  | .linkRetrain port partner dev token => Sys2Proof.Machine.execLinkRetrain port partner dev token s
  | .linkLockLoss port lane errs => Sys2Proof.Machine.execLinkLockLoss port lane errs s
  | .flitReceive port flit => Sys2Proof.Machine.execFlitReceive port flit s
  | .nakReceive port ack => Sys2Proof.Machine.execNakReceive port ack s
  | .widthProposalReceive port refusal lanes switch dev token => Sys2Proof.Machine.execWidthProposalReceive port refusal lanes switch dev token s
  | .laneDrop port lane lanes errs => Sys2Proof.Machine.execLaneDrop port lane lanes errs s
  | .laneRestore port lane lanes => Sys2Proof.Machine.execLaneRestore port lane lanes s
  | .fallowRequest port partner leave => Sys2Proof.Machine.execFallowRequest port partner leave s
  | .fallowWake port => Sys2Proof.Machine.execFallowWake port s
  | .squelchWake port => Sys2Proof.Machine.execSquelchWake port s
  | .fallowExitTimeout port => Sys2Proof.Machine.execFallowExitTimeout port s
  | .portTest port test => Sys2Proof.Machine.execPortTest port test s
  | .prbsCtrlWrite port lane data => Sys2Proof.Machine.execPrbsCtrlWrite port lane data s
  | .txeqWrite port lane data => Sys2Proof.Machine.execTxeqWrite port lane data s
  | .trellisBlockReceive port first second => Sys2Proof.Machine.execTrellisBlockReceive port first second s
  | .rraRead req => Sys2Proof.Machine.execRraRead req s
  | .rraWrite req => Sys2Proof.Machine.execRraWrite req s
  | .rraBcast req => Sys2Proof.Machine.execRraBcast req s
  | .rraServe port op addr data => Sys2Proof.Machine.execRraServe port op addr data s
  | .rraResponse req refused data size => Sys2Proof.Machine.execRraResponse req refused data size s
  | .rraTimeout req count => Sys2Proof.Machine.execRraTimeout req count s
  | .pcieDown => Sys2Proof.Machine.execPcieDown s
  | .pcieL12Exit d3hot => Sys2Proof.Machine.execPcieL12Exit d3hot s
  | .wtmSet => Sys2Proof.Machine.execWtmSet s
  | .wtmAdj data => Sys2Proof.Machine.execWtmAdj data s
  | .wtmIncWrite data => Sys2Proof.Machine.execWtmIncWrite data s
  | .wtmNowLatch req => Sys2Proof.Machine.execWtmNowLatch req s
  | .timeSend => Sys2Proof.Machine.execTimeSend s
  | .timeReceive seq sec ns frac corr residence => Sys2Proof.Machine.execTimeReceive seq sec ns frac corr residence s
  | .wtmSyncTimeout => Sys2Proof.Machine.execWtmSyncTimeout s
  | .extTrigStamp input rising sixteenths => Sys2Proof.Machine.execExtTrigStamp input rising sixteenths s
  | .eventOccurrence => Sys2Proof.Machine.execEventOccurrence s
  | .fclSelf agree => Sys2Proof.Machine.execFclSelf agree s
  | .rampWrite port entry => Sys2Proof.Machine.execRampWrite port entry s
  | .fclClr req => Sys2Proof.Machine.execFclClr req s
  | .fclPromoClear word mask => Sys2Proof.Machine.execFclPromoClear word mask s
  | .fclSwevt data => Sys2Proof.Machine.execFclSwevt data s
  | .evrRscwSrc req data => Sys2Proof.Machine.execEvrRscwSrc req data s
  | .evrRidxWrite req index => Sys2Proof.Machine.execEvrRidxWrite req index s
  | .evrSidxWrite req set entry => Sys2Proof.Machine.execEvrSidxWrite req set entry s
  | .evrSetDiscard req set => Sys2Proof.Machine.execEvrSetDiscard req set s
  | .warmrst req => Sys2Proof.Machine.execWarmrst req s
  | .frostNLow => Sys2Proof.Machine.execFrostNLow s
  | .frzHard => Sys2Proof.Machine.execFrzHard s
  | .frzSoft => Sys2Proof.Machine.execFrzSoft s
  | .frzArmat => Sys2Proof.Machine.execFrzArmat s
  | .frzDisarm => Sys2Proof.Machine.execFrzDisarm s
  | .frzThaw => Sys2Proof.Machine.execFrzThaw s
  | .frzRead => Sys2Proof.Machine.execFrzRead s
  | .jtagFrzHard => Sys2Proof.Machine.execJtagFrzHard s
  | .jtagFrzRead => Sys2Proof.Machine.execJtagFrzRead s
  | .frostClockStop => Sys2Proof.Machine.execFrostClockStop s
  | .frostSoftBoundary => Sys2Proof.Machine.execFrostSoftBoundary s
  | .frostReadDone => Sys2Proof.Machine.execFrostReadDone s
  | .frzMapidxWrite index => Sys2Proof.Machine.execFrzMapidxWrite index s
  | .pmgDormant req => Sys2Proof.Machine.execPmgDormant req s
  | .pmgWake req => Sys2Proof.Machine.execPmgWake req s
  | .pmgBudding req => Sys2Proof.Machine.execPmgBudding req s
  | .pmgBloom req => Sys2Proof.Machine.execPmgBloom req s
  | .sinkDone => Sys2Proof.Machine.execSinkDone s
  | .wakeDone => Sys2Proof.Machine.execWakeDone s
  | .bloomingDone => Sys2Proof.Machine.execBloomingDone s
  | .bloomIdleTimeout => Sys2Proof.Machine.execBloomIdleTimeout s
  | .pmgDomOffWrite req word data => Sys2Proof.Machine.execPmgDomOffWrite req word data s
  | .powerSlot meas => Sys2Proof.Machine.execPowerSlot meas s
  | .tempSample die fault temp => Sys2Proof.Machine.execTempSample die fault temp s
  | .thermTrip die => Sys2Proof.Machine.execThermTrip die s
  | .ovenOkRise => Sys2Proof.Machine.execOvenOkRise s
  | .coarseLoopUnlock => Sys2Proof.Machine.execCoarseLoopUnlock s
  | .coarseLoopLock => Sys2Proof.Machine.execCoarseLoopLock s
  | .grdInWindow monitor points => Sys2Proof.Machine.execGrdInWindow monitor points s
  | .pcieLinkUp flit reversed rate width pol => Sys2Proof.Machine.execPcieLinkUp flit reversed rate width pol s
  | .pcieL12Entry d3hot => Sys2Proof.Machine.execPcieL12Entry d3hot s
  | .prbsCheckerSync port lane nbits errs => Sys2Proof.Machine.execPrbsCheckerSync port lane nbits errs s
  | .sgraftLoadDone => Sys2Proof.Machine.execSgraftLoadDone s
  | .refreshManagementRequest ch => Sys2Proof.Machine.execRefreshManagementRequest ch s

end Sys2Proof.Machine
end

