-- ==== Sys2Proof/Machine/Tick.lean ====
section
/-! DEFINITION. What passes when no command waits (log entry 5): the messages sent are gone, and time goes on by one vector cycle, or by
one reference cycle while the VCLK gate is closed. -/

namespace Sys2Proof.Machine

/-- What was sent since the last tick is taken away. -/
def State.drain (s : State) : State := { s with tx := [], hostOut := [] }

/-- One tick. In a reset no time passes; while a playlist runs, its vector cycles come with the sequencer's commands. -/
def State.tick (s : State) : State :=
  let s1 := s.drain
  if s.pins.inReset ≠ 0 then s1
  else if !s.gateOpen then s1.passRc 1
  else if s.seq.running.isSome then s1
  else s1.advanceTo (s1.clk.gvc + 1)

end Sys2Proof.Machine
end

