-- ==== Sys2Proof/Safety.lean ====
section
/-! DEFINITION. What a sound state of the block is, and the vocabulary of the statements: a command that completes, a write that
reaches its register, and the registers that a command leaves alone. -/

namespace Sys2Proof.Machine

/-- HBM is in its canonical form (log entry 3). -/
abbrev State.memInv (s : State) : Prop := Memory.wf s.mem = true

/-- The reset in force is none or one of the three kinds (R722, R794). -/
abbrev State.resetInv (s : State) : Prop := s.pins.inReset ≤ 3

/-- The outcome is a next state, and P holds of it. -/
def Completes (o : Out) (P : State → Prop) : Prop := ∃ t, o = .next t ∧ P t

/-- A write by the requester reaches the register at the BAR0 offset: no reset, Frost, Dormant or power-loss write hides it, its power
domain is on, it is not the host's write to a register of Rootstock or the Scions, and a Scion's goes through a plot of its own (R46, R578,
R580, R753, R770, R776). -/
def State.reaches (s : State) (req : Req) (off : Nat) : Bool :=
  s.issues req off 4 && !s.ignored req off && !(req == Req.host && rscRange off) && s.regOn off

/-- The word w of the running playlist p is in issue, and vector cycles go by (R161). -/
def State.inWord (s : State) (p : Playlist) (w : Nat) : Bool :=
  decide (s.seq.running = some p) && s.gateOpen && !s.frozen && decide (s.seq.word = some w)

/-- The word w, whose OP is op, has issued its last vector (R161, R163). -/
def State.lastOf (s : State) (p : Playlist) (w op : Nat) : Bool :=
  s.inWord p w && decide (mwOp w = op) && decide (s.seq.vecs = mwRepeat w + 1)

/-- Every register field but those listed reads in t as it does in s. -/
def State.regsBut (s t : State) (fs : List Field) : Prop := ∀ f : Field, (∀ g ∈ fs, f.id ≠ g.id) → t.get f = s.get f

/-- Task k enters READY as v: at the next sequence value, or back at its old one, in the ready store if that has room; no other task moves, and
HBM changes only in the overflow list (R621, R622). -/
def State.entersReady (s t : State) (k : Nat) (v : Task) (fresh : Bool) : Prop :=
  t.task k = { v with st := 2, seq := if fresh then s.que.readySeq else v.seq, inStore := decide (s.readyCount < 65536) } ∧
  t.que.readySeq = (if fresh then (s.que.readySeq + 1) % 2 ^ 64 else s.que.readySeq) ∧ (∀ j, j ≠ k → t.task j = s.task j) ∧
  (∀ a, (a < s.get64 TSK_TBL_BASE_LO TSK_TBL_BASE_HI + 0x2000000 ∨
      s.get64 TSK_TBL_BASE_LO TSK_TBL_BASE_HI + 0x2000000 + 4 * t.overflowTasks.length ≤ a) → t.memByte a = s.memByte a)

end Sys2Proof.Machine
end

