-- ==== Sys2Proof/Certificates/Slice0/Obligations.lean ====
section
/-! DEFINITION. The statements about this model. Each says which numbered rules of the manual it states; where a clause rests on a
choice of the model, its docstring names the log entry. A command of the table completes where a clause says that exec answers a next
state, and the same clause says what that state holds and what it leaves alone. -/

open Sys2Proof Sys2Proof.Machine

/-- HBM_REQUEST, HBM_RESPONSE, HBM_FENCE and FENCE_DONE. A request joins the end of its port's queue (R655). One that is not addressable, or
that is a write of port 4 or 6 to a Scion area, is counted in HBC_REFUSED and waits as refused (R649, R652); a write of a locked byte is
refused under the lock (R268); a read of a Scion area by port 4 is not made. The oldest request of a port completes when it is refused or
its channel serves it; otherwise nothing happens. It leaves the queue, and the port's answer stands. A write that is not refused stores its
bytes, or for port 6 merges them; a read gives the bytes that memory holds and counts a corrected error, and an uncorrectable response or a
poisoned granule counts, raises the channel's event and gives no data (R665); a refused request and one before service store and give
nothing, and a live-stream request notes its latency. A fence waits for the requests that then stand at the ports it names, and ends with
its count and its event once none of them is left (R656). -/
def Obligations.HbmPorts : Prop :=
  (∀ (s : State) (p : Fin 8) (w : Bool) (a : BitVec 40) (l : Fin 65) (d : List Byte) (n : Nat), n = (if w then d.length else l.val) →
    (w = false ∧ p.val = 4 ∧ hbmScionArea a.toNat n = true → exec (.hbmRequest p w a l d) s = .next s) ∧
    (¬(w = false ∧ p.val = 4 ∧ hbmScionArea a.toNat n = true) →
      (hbmAddressable a.toNat n = false ∨ (w = true ∧ (p.val = 4 ∨ p.val = 6) ∧ hbmScionArea a.toNat n = true) →
        exec (.hbmRequest p w a l d) s = .next ((s.incSat HBC_REFUSED).setHbmQueue p.val (s.hbmQueue p.val ++ [⟨w, a.toNat, n, d, true, 0⟩]))) ∧
      (hbmAddressable a.toNat n = true → ¬(w = true ∧ (p.val = 4 ∨ p.val = 6) ∧ hbmScionArea a.toNat n = true) →
        (w = true ∧ s.segLocked a.toNat n = true → exec (.hbmRequest p w a l d) s =
          .next ((s.refuseLocked a.toNat).setHbmQueue p.val (s.hbmQueue p.val ++ [⟨w, a.toNat, n, d, true, 0⟩]))) ∧
        (w = false ∨ s.segLocked a.toNat n = false → exec (.hbmRequest p w a l d) s =
          .next (s.setHbmQueue p.val (s.hbmQueue p.val ++ [⟨w, a.toNat, n, d, false, 0⟩])))))) ∧
  (∀ (s : State) (p : Fin 8) (err : Fin 3) (live : Bool) (lat : BitVec 10),
    (s.hbmQueue p.val = [] → exec (.hbmResponse p err live lat) s = .next s) ∧
    (∀ (r : HbmReq) (rest : List HbmReq), s.hbmQueue p.val = r :: rest → s.hbmServes p.val r = false →
      exec (.hbmResponse p err live lat) s = .next s)) ∧
  (∀ (s : State) (p : Fin 8) (err : Fin 3) (lat : BitVec 10) (r : HbmReq) (rest : List HbmReq),
    s.hbmQueue p.val = r :: rest → s.hbmServes p.val r = true →
    (r.refused = true ∨ s.hbmOn = false → exec (.hbmResponse p err false lat) s =
      .next ((s.hbmPop p.val r rest).hbmAnswer p.val r.who (if r.write then some [] else none))) ∧
    (r.refused = false → s.hbmOn = true → r.write = true → (p.val = 6 → s.badMerges (if err.val = 2 then 3 else 0) r.addr r.data.length = []) →
      exec (.hbmResponse p err false lat) s = .next ({ s.hbmPop p.val r rest with
        mem := memPut s.mem r.addr r.data
        poison := s.poison.filter fun g => !(decide (r.addr ≤ g * 64) && decide (g * 64 + 64 ≤ r.addr + r.data.length)) }.hbmAnswer
          p.val r.who (some []))) ∧
    (r.refused = false → s.hbmOn = true → r.write = false → err.val ≠ 2 → s.poisoned r.addr r.len = false →
      exec (.hbmResponse p err false lat) s = .next ((if err.val = 1 then (s.hbmPop p.val r rest).inc (HBC_CH_CE (s.hbmChan r.addr))
        else s.hbmPop p.val r rest).hbmAnswer p.val r.who (some (s.memBytes r.addr r.len)))) ∧
    (r.refused = false → s.hbmOn = true → r.write = false → err.val = 2 ∨ s.poisoned r.addr r.len = true → s.on HBC_CTRL_AUTORETIRE = false →
      exec (.hbmResponse p err false lat) s =
        .next (((((s.hbmPop p.val r rest).inc (HBC_CH_UE (s.hbmChan (s.firstPoison r.addr r.len)))).raise srcHbcUe
          (s.hbmChan (s.firstPoison r.addr r.len)) 0)).hbmAnswer p.val r.who none))) ∧
  (∀ (s : State) (err : Fin 3) (lat : BitVec 10) (r : HbmReq) (rest : List HbmReq),
    s.hbmQueue 0 = r :: rest → s.hbmServes 0 r = true → r.refused = false → s.hbmOn = true → r.write = false → r.who = 0 → err.val = 0 →
    s.poisoned r.addr r.len = false →
    exec (.hbmResponse 0 err true lat) s = .next (((s.hbmPop 0 r rest).put HBC_LATMAX (max (s.get HBC_LATMAX) lat.toNat)).hbmAnswer 0 0
      (some (s.memBytes r.addr r.len)))) ∧
  (∀ (s : State) (ports : BitVec 8), s.reaches .host 0x50000C = true →
    exec (.hbmFence ports) s = .next { s with hbc := { s.hbc with fences := s.hbc.fences ++ [((List.range 8).filter (bitAt ports.toNat)).map fun p => (p, (s.hbmQueue p).length)] } }) ∧
  (∀ s : State, (s.hbc.fences = [] → exec .fenceDone s = .next s) ∧
    (∀ (f : List (Nat × Nat)) (fs : List (List (Nat × Nat))), s.hbc.fences = f :: fs →
      (f.all (fun e => decide (e.2 = 0)) = true →
        exec .fenceDone s = .next (({ s with hbc := { s.hbc with fences := fs } }.inc HBC_FENCE_SEQ).event srcHbcFence)) ∧
      (f.all (fun e => decide (e.2 = 0)) = false → exec .fenceDone s = .next s)))

/-- HOST_BAR2_WRITE, HBM_SCRUB, HBC_RETIRE, RETIREMENT_COPY_DONE and REFRESH_MANAGEMENT_REQUEST. A host write through BAR2 that is not
discarded stores its bytes at the HBM address of its BAR2 offset and touches nothing else, but one whose merge read is uncorrectable stores
nothing and leaves the granule poisoned (R812); one that is not addressable (R649) or is of a Scion area (R652) is refused and counted, one
of a locked byte is refused under the lock (R268), and one before service is discarded (R670). The scrub of a granule, where it is on,
counts a correction; an uncorrectable or poisoned one is marked poisoned, counts and raises its event (R666). A retirement that is asked for
starts its copy, or sets RETREF and nothing else where a channel is retired or retiring or this one is not in service (R667); the end of a
copy puts the channel out of service and raises its event (R669). Refresh management changes no state that the manual names (R648). -/
def Obligations.HbmHostAndScrub : Prop :=
  (∀ (s : State) (a : BitVec 36) (d : List Byte) (bad : BitVec 2),
    (s.ignored .host 0x10000 = true → exec (.hostBar2Write a d bad) s = .next s) ∧
    (s.ignored .host 0x10000 = false →
      (hbmAddressable a.toNat d.length = false ∨ hbmScionArea a.toNat d.length = true →
        exec (.hostBar2Write a d bad) s = .next (s.incSat HBC_REFUSED)) ∧
      (hbmAddressable a.toNat d.length = true → hbmScionArea a.toNat d.length = false →
        (s.segLocked a.toNat d.length = true → exec (.hostBar2Write a d bad) s = .next (s.refuseLocked a.toNat)) ∧
        (s.segLocked a.toNat d.length = false → s.hbmOn = false → exec (.hostBar2Write a d bad) s = .next s)))) ∧
  (∀ (s : State) (a : BitVec 36) (d : List Byte) (bad : BitVec 2), s.ignored .host 0x10000 = false → hbmAddressable a.toNat d.length = true →
    hbmScionArea a.toNat d.length = false → s.segLocked a.toNat d.length = false → s.hbmOn = true →
    (s.badMerges bad.toNat a.toNat d.length = [] →
      exec (.hostBar2Write a d bad) s = .next { s with
        mem := memPut s.mem a.toNat d
        poison := s.poison.filter fun g => !(decide (a.toNat ≤ g * 64) && decide (g * 64 + 64 ≤ a.toNat + d.length)) }) ∧
    (s.badMerges bad.toNat a.toNat d.length ≠ [] →
      ∃ t, exec (.hostBar2Write a d bad) s = .next t ∧ t.mem = s.mem ∧ ∀ x ∈ s.badMerges bad.toNat a.toNat d.length, x / 64 ∈ t.poison)) ∧
  (∀ (s : State) (g : BitVec 30) (r : Fin 3),
    (s.on HBC_CTRL_SCRUB_EN = false ∨ s.hbmOn = false ∨ hbmAddressable (g.toNat * 64) 64 = false → exec (.hbmScrub g r) s = .next s) ∧
    (s.on HBC_CTRL_SCRUB_EN = true → s.hbmOn = true → hbmAddressable (g.toNat * 64) 64 = true →
      (r = 0 → s.poisoned (g.toNat * 64) 64 = false → exec (.hbmScrub g r) s = .next s) ∧
      (r = 1 → s.poisoned (g.toNat * 64) 64 = false → exec (.hbmScrub g r) s = .next (s.inc (HBC_CH_CE (s.hbmChan (g.toNat * 64))))) ∧
      (r = 2 ∨ s.poisoned (g.toNat * 64) 64 = true → exec (.hbmScrub g r) s =
        .next (({ s with poison := insertNat g.toNat s.poison }.inc (HBC_CH_UE (s.hbmChan (g.toNat * 64)))).raise srcHbcUe
          (s.hbmChan (g.toNat * 64)) 0)))) ∧
  (∀ (s : State) (k : Fin 32), s.reaches .host 0x500014 = true →
    (s.on HBC_RMAP_VALID = true ∨ s.on HBC_RMAP_COPYING = true ∨ s.hbmOn = false ∨ s.get (HBC_CH_STATUS_STATE k.val) = 3 →
      exec (.hbcRetire k) s = .next (s.put HBC_STATUS_RETREF 1)) ∧
    (s.on HBC_RMAP_VALID = false → s.on HBC_RMAP_COPYING = false → s.hbmOn = true → s.get (HBC_CH_STATUS_STATE k.val) ≠ 3 →
      (s.hbmPaused k.val = false → exec (.hbcRetire k) s = .next (((((s.put HBC_RMAP_COPYING 1).put HBC_RMAP_CH k.val).put HBC_STATUS_RETBUSY 1).put
        HBC_RETIRE_PROG 0).put (HBC_CH_STATUS_STATE k.val) 2)) ∧
      (s.hbmPaused k.val = true → exec (.hbcRetire k) s = .next ((((s.put HBC_RMAP_COPYING 1).put HBC_RMAP_CH k.val).put HBC_STATUS_RETBUSY 1).put
        HBC_RETIRE_PROG 0)))) ∧
  (∀ s : State, (s.on HBC_RMAP_COPYING = false → exec .retirementCopyDone s = .next s) ∧ (s.on HBC_RMAP_COPYING = true →
    exec .retirementCopyDone s = .next ((((((s.put HBC_RMAP_COPYING 0).put HBC_RMAP_VALID 1).put HBC_STATUS_RETBUSY 0).put
      HBC_RETIRE_PROG 1472).put (HBC_CH_STATUS_STATE (s.get HBC_RMAP_CH)) 3).raise srcHbcRetired (s.get HBC_RMAP_CH) 0))) ∧
  (∀ (s : State) (ch : Fin 32), exec (.refreshManagementRequest ch) s = .next s)

/-- RETRAIN_PAUSE_START, RETRAIN_PAUSE_END, HBM_REFRESH and HBM_TEMP_READ. A pause begins once in each retrain cycle from its instant on, in
a device in service with no channel in pause and a channel not retired (R660, R669); with shadow slots not filled it is deferred, which is
counted once a cycle, up to the limit of 50,000 fc, and then begins unfilled (R661, R662). The end of a pause takes the channel back into
service, or into retiring; a failed retrain counts and raises RTSEQ, a good one clears it (R677), and the third in a row asks for retirement
(R667). A refresh that falls due in a pause is postponed, and else none is left over. A reading is shown; one above 85 °C halves the refresh
interval of every channel of its stack, the 32nd in a row of 83 °C or below restores it (R663), and above 95 °C the stack is hot and raises
its event once (R664). -/
def Obligations.HbmPauses : Prop :=
  (∀ (s : State) (ch : Fin 32) (slots : Fin 3),
    (s.hbmOn = false ∨ s.get (HBC_CH_STATUS_STATE ch.val) = 3 ∨ (List.range 32).any s.hbmPaused = true ∨ s.pauseAge ch.val = none ∨
      s.pauseDone ch.val = true → exec (.retrainPauseStart ch slots) s = .next s) ∧
    (∀ age : Nat, s.hbmOn = true → s.get (HBC_CH_STATUS_STATE ch.val) ≠ 3 → (List.range 32).any s.hbmPaused = false → s.pauseAge ch.val = some age →
      s.pauseDone ch.val = false →
      (slots = 1 ∨ slots = 2 ∧ age < 5000 → exec (.retrainPauseStart ch slots) s = .next (s.deferPause ch.val)) ∧
      (slots = 0 → s.seq.running = none → exec (.retrainPauseStart ch slots) s = .next { s.put (HBC_CH_STATUS_STATE ch.val) 1 with
        hbc := { s.hbc with begun := Assoc.set 0 s.hbc.begun ch.val (s.retrainCycle + 1), unfilled := false } }) ∧
      (slots = 0 → ∀ p, s.seq.running = some p → ∃ t, exec (.retrainPauseStart ch slots) s = .next t ∧
        t = { s.put (HBC_CH_STATUS_STATE ch.val) 1 with hbc := { s.hbc with
          begun := Assoc.set 0 s.hbc.begun ch.val (s.retrainCycle + 1), unfilled := false, shadow := t.hbc.shadow } } ∧
        t.shadowSlot (ch.val / 16) 0 = s.streamGranules p ch.val (s.posOn p s.seq.pos s.seq.buf.length)) ∧
      (slots = 2 → 5000 ≤ age → exec (.retrainPauseStart ch slots) s = .next { s.put (HBC_CH_STATUS_STATE ch.val) 1 with
        hbc := { s.hbc with begun := Assoc.set 0 s.hbc.begun ch.val (s.retrainCycle + 1), unfilled := true } }))) ∧
  (∀ (s : State) (c : Nat), s.deferPause c = if Assoc.get 0 s.hbc.deferred c = s.retrainCycle + 1 then s
    else { s.inc HBC_NDEFER with hbc := { s.hbc with deferred := Assoc.set 0 s.hbc.deferred c (s.retrainCycle + 1) } }) ∧
  (∀ (s : State) (ch : Fin 32) (bad : Bool),
    (s.hbmPaused ch.val = false → exec (.retrainPauseEnd ch bad) s = .next s) ∧
    (s.hbmPaused ch.val = true → exec (.retrainPauseEnd ch false) s = .next ({ s.put (HBC_CH_STATUS_STATE ch.val)
      (if s.on HBC_RMAP_COPYING && decide (s.get HBC_RMAP_CH = ch.val) then 2 else 0) with
      hbc := { s.hbc with unfilled := false } }.put (HBC_CH_STATUS_RTSEQ ch.val) 0)) ∧
    (s.hbmPaused ch.val = true → s.get (HBC_CH_STATUS_RTSEQ ch.val) < 2 → s.on HBC_RMAP_COPYING = false → ∃ t, exec (.retrainPauseEnd ch true) s = .next t ∧
      t.get (HBC_CH_NRTFAIL ch.val) = (s.get (HBC_CH_NRTFAIL ch.val) + 1) % 2 ^ 32 ∧
      t.get (HBC_CH_STATUS_RTSEQ ch.val) = s.get (HBC_CH_STATUS_RTSEQ ch.val) + 1 ∧ t.get (HBC_CH_STATUS_STATE ch.val) = 0 ∧
      t.hbc.unfilled = false ∧ t.mem = s.mem)) ∧
  (∀ (s : State) (ch : Fin 32), s.hbmPaused ch.val = true → s.get (HBC_CH_STATUS_RTSEQ ch.val) = 2 → s.on HBC_RMAP_COPYING = false →
    s.on HBC_RMAP_VALID = false → s.hbmOn = true → s.on HBC_CTRL_AUTORETIRE = true → ∃ t, exec (.retrainPauseEnd ch true) s = .next t ∧
      t.get (HBC_CH_STATUS_RTSEQ ch.val) = 3 ∧ t.on HBC_RMAP_COPYING = true ∧ t.get HBC_RMAP_CH = ch.val ∧ t.get (HBC_CH_STATUS_STATE ch.val) = 2) ∧
  (∀ (s : State) (ch : Fin 32), Completes (exec (.hbmRefresh ch) s) fun t =>
    Assoc.get false t.hbc.postponed ch.val = s.hbmPaused ch.val ∧ t = { s with hbc := { s.hbc with postponed := t.hbc.postponed } }) ∧
  (∀ (s : State) (m : Fin 2) (t : BitVec 8), Completes (exec (.hbmTempRead m t) s) fun u =>
    u.get (if m = 0 then HBC_TEMP_M0 else HBC_TEMP_M1) = t.toNat ∧
    u.get (if m = 0 then HBC_STATUS_HOT0 else HBC_STATUS_HOT1) = (if 95 < t.toInt then 1 else 0) ∧
    (∀ i : Fin 16, u.get (HBC_CH_STATUS_DBL (16 * m.val + i.val)) =
      if 85 < t.toInt then 1 else if t.toInt ≤ 83 ∧ 31 ≤ Assoc.get 0 s.hbc.cool m.val then 0 else s.get (HBC_CH_STATUS_DBL (16 * m.val + i.val))) ∧
    (95 < t.toInt → s.on (if m = 0 then HBC_STATUS_HOT0 else HBC_STATUS_HOT1) = false → ∃ r, u.raised = s.raised ++ [r] ∧ r.src = srcHbcHot) ∧
    (t.toInt ≤ 95 ∨ s.on (if m = 0 then HBC_STATUS_HOT0 else HBC_STATUS_HOT1) = true → u.raised = s.raised) ∧
    u.mem = s.mem ∧ u.hbc.ports = s.hbc.ports)

/-- QUEUE_OPEN, QUEUE_CLOSE, QUEUE_FLUSH, QUEUE_ENQ and QUEUE_DEQ, where the write reaches its register. OPEN is ignored while the queue is
open; else it opens the queue with its limit, a held-back cell and sequence 0, or sets OPENREF and nothing else where the limit is out of
range or the pool can keep back no more cell (R634, R646). CLOSE returns every cell and the held-back one and writes no marker (R638), and
while a ring binds the queue it sets BINDREF of that ring alone. FLUSH of an open queue leaves one flush marker with its counts as the only
cell, and takes a new held-back cell (R637); a closed queue, or one with neither a cell nor a held-back cell (log entry 16), stays as it is.
ENQ answers 4 for LEN 0 or above 896, 3 for a closed queue with the drop counted in QUE_NDROP alone, 0 where the item is enqueued whole, and
1 where it is dropped whole, in the gap marker at the tail or a new one, counted and raised (R635, R640); a drop with neither a marker at
the tail nor a held-back cell only counts (log entry 16). DEQ answers 4 on a bound queue, 3 on a closed one, 2 on an empty one, and
otherwise 0, and hands the oldest cell to the read latch of the requester (R636), as a gap marker of one item and cell where its read is
uncorrectable (R665). -/
def Obligations.QueuePool : Prop :=
  (∀ (s : State) (q : Fin 65536) (l : BitVec 25), s.reaches .host 0x4C0024 = true →
    ((s.queue q.val).isOpen = true → exec (.queueOpen q l) s = .next s) ∧
    ((s.queue q.val).isOpen = false → l.toNat < 2 ∨ 16777216 < l.toNat ∨ s.poolAvail = 0 →
      exec (.queueOpen q l) s = .next (s.put QUE_STATUS_OPENREF 1)) ∧
    ((s.queue q.val).isOpen = false → 2 ≤ l.toNat → l.toNat ≤ 16777216 → s.poolAvail ≠ 0 →
      exec (.queueOpen q l) s = .next (s.setQueue q.val ⟨true, l.toNat, true, 0, (s.queue q.val).ndrop, []⟩))) ∧
  (∀ (s : State) (q : Fin 65536), s.reaches .host 0x4C0024 = true →
    (s.ringOf q.val = none → exec (.queueClose q) s =
      .next ((s.setQueue q.val { s.queue q.val with isOpen := false, held := false, cells := [] }).rehold)) ∧
    (∀ r : Nat, s.ringOf q.val = some r → exec (.queueClose q) s = .next (s.put (QUE_HR_STATUS_BINDREF r) 1))) ∧
  (∀ (s : State) (q : Fin 65536), s.reaches .host 0x4C0024 = true →
    ((s.queue q.val).isOpen = false ∨ (s.queue q.val).held = false ∧ (s.queue q.val).cells = [] → exec (.queueFlush q) s = .next s) ∧
    ((s.queue q.val).isOpen = true → (s.queue q.val).held = true ∨ (s.queue q.val).cells ≠ [] →
      exec (.queueFlush q) s = .next ((s.setQueue q.val { s.queue q.val with
        cells := [⟨3, true, true, (s.queue q.val).seq, markerPayload (s.queue q.val).n
          ((s.queue q.val).cells.filter fun c => decide (c.ty = 1) && c.last).length⟩]
        seq := ((s.queue q.val).seq + 1) % 2 ^ 32
        held := false }).rehold))) ∧
  (∀ (s : State) (req : Req) (q : Fin 65536) (n : BitVec 10) (k : Nat), s.reaches req 0x4C0040 = true →
    k = ceilDiv (s.winData req n.toNat).length 56 →
    (n.toNat = 0 ∨ 896 < n.toNat → exec (.queueEnq req q n) s = .next (s.put (QUE_WIN_STAT_RES.per req) 4)) ∧
    (1 ≤ n.toNat → n.toNat ≤ 896 → (s.queue q.val).isOpen = false →
      exec (.queueEnq req q n) s = .next ((s.incSat QUE_NDROP).put (QUE_WIN_STAT_RES.per req) 3)) ∧
    (1 ≤ n.toNat → n.toNat ≤ 896 → (s.queue q.val).isOpen = true → (s.queue q.val).n + k + 1 ≤ (s.queue q.val).limit → k ≤ s.poolAvail →
      exec (.queueEnq req q n) s = .next (((s.setQueue q.val { s.queue q.val with
        cells := (s.queue q.val).cells ++ itemCells (s.queue q.val).seq (s.winData req n.toNat)
        seq := ((s.queue q.val).seq + k) % 2 ^ 32 }).rehold).put (QUE_WIN_STAT_RES.per req) 0))) ∧
  (∀ (s : State) (req : Req) (q : Fin 65536) (n : BitVec 10) (k : Nat), s.reaches req 0x4C0040 = true →
    k = ceilDiv (s.winData req n.toNat).length 56 → 1 ≤ n.toNat → n.toNat ≤ 896 → (s.queue q.val).isOpen = true →
    (s.queue q.val).limit < (s.queue q.val).n + k + 1 ∨ s.poolAvail < k →
    ((s.queue q.val).gapTail = true → exec (.queueEnq req q n) s = .next (((((s.setQueue q.val { s.queue q.val with
        ndrop := satAdd32 (s.queue q.val).ndrop 1, cells := addToGap k (s.queue q.val).cells }).rehold).incSat QUE_NDROP).raise srcQueDrop
          q.val 0).put (QUE_WIN_STAT_RES.per req) 1)) ∧
    ((s.queue q.val).gapTail = false → (s.queue q.val).held = true → exec (.queueEnq req q n) s =
      .next (((((s.setQueue q.val { s.queue q.val with
        ndrop := satAdd32 (s.queue q.val).ndrop 1
        cells := (s.queue q.val).cells ++ [⟨2, true, true, (s.queue q.val).seq, markerPayload 1 k⟩]
        seq := ((s.queue q.val).seq + 1) % 2 ^ 32
        held := false }).rehold).incSat QUE_NDROP).raise srcQueDrop q.val 0).put (QUE_WIN_STAT_RES.per req) 1)) ∧
    ((s.queue q.val).gapTail = false → (s.queue q.val).held = false → exec (.queueEnq req q n) s =
      .next (((((s.setQueue q.val { s.queue q.val with ndrop := satAdd32 (s.queue q.val).ndrop 1 }).rehold).incSat QUE_NDROP).raise
        srcQueDrop q.val 0).put (QUE_WIN_STAT_RES.per req) 1))) ∧
  (∀ (s : State) (req : Req) (q : Fin 65536) (bad : Bool), s.reaches req 0x4C0040 = true →
    ((s.ringOf q.val).isSome = true → exec (.queueDeq req q bad) s = .next (s.put (QUE_WIN_STAT_RES.per req) 4)) ∧
    ((s.ringOf q.val).isSome = false → (s.queue q.val).isOpen = false → exec (.queueDeq req q bad) s = .next (s.put (QUE_WIN_STAT_RES.per req) 3)) ∧
    ((s.ringOf q.val).isSome = false → (s.queue q.val).isOpen = true → (s.queue q.val).cells = [] →
      exec (.queueDeq req q bad) s = .next (s.put (QUE_WIN_STAT_RES.per req) 2)) ∧
    (∀ (c : QCell) (cs : List QCell), (s.ringOf q.val).isSome = false → (s.queue q.val).isOpen = true → (s.queue q.val).cells = c :: cs →
      exec (.queueDeq req q bad) s = .next ((((s.setQueue q.val { s.queue q.val with cells := cs }).rehold).loadWinRd req
        (if bad then ⟨2, true, true, c.seq, markerPayload 1 1⟩ else c)).put (QUE_WIN_STAT_RES.per req) 0)))

/-- HOST_RING_BIND, HOST_RING_UNBIND, HOST_RING_CONS_WRITE and HOST_RING_DELIVER; a register write is meant where it reaches its register. A
write to a bound ring that is not BIND 0 is discarded (R645); a free ring is bound to an open queue that no ring binds, with both counts 0,
and otherwise the binding is refused with BINDREF (R641), also for a size outside 12 to 32 (log entry 16); unbinding clears BOUND. A
consumer count from the one in effect up to the producer count takes effect whole, and any other is ignored with CONSERR. A delivery to a
ring that is bound, with the host reachable, writes as many of the oldest cells as the group asks for, the queue holds and the ring has room
for, at the ring's places from the producer count on, dequeues them, then writes the producer count back and sends the ring's vector where
MSIEN is 1; one that writes no cell writes back nothing. -/
def Obligations.HostRings : Prop :=
  (∀ (s : State) (r : Fin 256) (m : Bool) (z : BitVec 6) (q : Fin 65536), s.reaches .host 0x4C1000 = true →
    (s.on (QUE_HR_STATUS_BOUND r.val) = true → exec (.hostRingBind r m z q) s = .next s) ∧
    (s.on (QUE_HR_STATUS_BOUND r.val) = false →
      (s.ringOf q.val).isSome = true ∨ (s.queue q.val).isOpen = false ∨ z.toNat < 12 ∨ 32 < z.toNat →
      exec (.hostRingBind r m z q) s = .next ((((s.flag (QUE_HR_CFG_MSIEN r.val) m).put (QUE_HR_CFG_SIZE r.val) z.toNat).put
        (QUE_HR_CFG_QUEUE r.val) q.val).put (QUE_HR_STATUS_BINDREF r.val) 1)) ∧
    (s.on (QUE_HR_STATUS_BOUND r.val) = false → (s.ringOf q.val).isSome = false → (s.queue q.val).isOpen = true →
      12 ≤ z.toNat → z.toNat ≤ 32 →
      exec (.hostRingBind r m z q) s = .next { (((((((s.flag (QUE_HR_CFG_MSIEN r.val) m).put (QUE_HR_CFG_SIZE r.val) z.toNat).put
        (QUE_HR_CFG_QUEUE r.val) q.val).put (QUE_HR_CFG_BIND r.val) 1).put (QUE_HR_STATUS_BOUND r.val) 1).put64 (QUE_HR_PROD_LO r.val)
        (QUE_HR_PROD_HI r.val) 0).put64 (QUE_HR_CONS_LO r.val) (QUE_HR_CONS_HI r.val) 0) with
          que := { s.que with cons := Assoc.set 0 s.que.cons r.val 0 } })) ∧
  (∀ (s : State) (r : Fin 256) (m : Bool) (z : BitVec 6) (q : Fin 65536), s.reaches .host 0x4C1000 = true →
    exec (.hostRingUnbind r m z q) s = .next (((((s.put (QUE_HR_STATUS_BOUND r.val) 0).put (QUE_HR_CFG_BIND r.val) 0).flag
      (QUE_HR_CFG_MSIEN r.val) m).put (QUE_HR_CFG_SIZE r.val) z.toNat).put (QUE_HR_CFG_QUEUE r.val) q.val)) ∧
  (∀ (s : State) (r : Fin 256) (hi : BitVec 32) (v : Nat), s.reaches .host 0x4C1024 = true →
    v = s.get (QUE_HR_CONS_LO r.val) + 2 ^ 32 * hi.toNat →
    (Assoc.get 0 s.que.cons r.val ≤ v → v ≤ s.get64 (QUE_HR_PROD_LO r.val) (QUE_HR_PROD_HI r.val) →
      exec (.hostRingConsWrite r hi) s = .next { s.put (QUE_HR_CONS_HI r.val) hi.toNat with
        que := { s.que with cons := Assoc.set 0 s.que.cons r.val v } }) ∧
    (v < Assoc.get 0 s.que.cons r.val ∨ s.get64 (QUE_HR_PROD_LO r.val) (QUE_HR_PROD_HI r.val) < v →
      exec (.hostRingConsWrite r hi) s = .next ((s.put64 (QUE_HR_CONS_LO r.val) (QUE_HR_CONS_HI r.val)
        (Assoc.get 0 s.que.cons r.val)).put (QUE_HR_STATUS_CONSERR r.val) 1))) ∧
  (∀ (s : State) (r : Fin 256) (n : Fin 1024) (bad : Bool),
    s.on (QUE_HR_STATUS_BOUND r.val) = false ∨ s.dmaOn = false → exec (.hostRingDeliver r n bad) s = .next s) ∧
  (∀ (s : State) (r : Fin 256) (n : Fin 1024) (bad : Bool) (q prod cons k : Nat), s.on (QUE_HR_STATUS_BOUND r.val) = true → s.dmaOn = true →
    q = s.get (QUE_HR_CFG_QUEUE r.val) → prod = s.get64 (QUE_HR_PROD_LO r.val) (QUE_HR_PROD_HI r.val) → cons = Assoc.get 0 s.que.cons r.val →
    cons ≤ prod → prod + n.val < 2 ^ 64 →
    k = min n.val (min (s.queue q).cells.length (2 ^ s.get (QUE_HR_CFG_SIZE r.val) / 64 - (prod - cons))) →
    Completes (exec (.hostRingDeliver r n bad) s) fun t =>
      t.get64 (QUE_HR_PROD_LO r.val) (QUE_HR_PROD_HI r.val) = prod + k ∧ (t.queue q).cells = (s.queue q).cells.drop k ∧
      t.hostOut = s.hostOut ++ (((s.queue q).cells.take k).zipIdx.map fun e => HostMsg.write (s.get64 (QUE_HR_BASE_LO r.val) (QUE_HR_BASE_HI r.val) +
        64 * (prod + e.2) % 2 ^ s.get (QUE_HR_CFG_SIZE r.val)) (e.1.orGap bad).bytes) ++
        (if k = 0 then [] else [.write (s.get64 (QUE_HR_WB_LO r.val) (QUE_HR_WB_HI r.val)) (bytesOf 8 (prod + k))] ++
          (if s.on (QUE_HR_CFG_MSIEN r.val) then [.msix (s.get (QUE_HR_VEC r.val))] else [])) ∧
      s.regsBut t [QUE_HR_PROD_LO r.val, QUE_HR_PROD_HI r.val] ∧ t = { s with cells := t.cells, que := t.que, hostOut := t.hostOut })

/-- TSK_ARM, TSK_DEC, TSK_FREE, TASK_DONE_OK, TASK_RETRY and TASK_DONE_FAIL, where the write reaches its register. ARM reads the descriptor
of a FREE, DONE or FAILED task and makes it WAITING with its dependence count, or READY where that is 0; it is refused for a task in another
state, for a descriptor that the rule refuses and for one that cannot be read (R618). A decrement to 0 makes a WAITING task READY, a higher
count falls by 1, and a task that is not WAITING is counted as an error and raises its event (R620). FREE returns a DONE or FAILED task to
FREE and is otherwise refused (R619). A Scion completes a task with OK, RETRY or FAIL; a completion of a task that is not in SERVICE on that
core is discarded with DEPERR (R627). OK makes it DONE and counts, FAIL makes it FAILED, counts and raises its event, and each decrements
the enabled successors, which a FAIL poisons, and enqueues the completion record where CQEN is 1 (R629). RETRY returns it to READY at its
old place with one retry more, or completes it as FAIL where the count is used up (R628). -/
def Obligations.TaskLifecycle : Prop :=
  (∀ (s : State) (k : Fin 1048576), s.reaches .host 0x480010 = true →
    ((s.task k.val).st ≠ 0 → (s.task k.val).st ≠ 4 → (s.task k.val).st ≠ 5 →
      exec (.tskArm k) s = .next ((s.put TSK_STATUS_ARMREF 1).incSat TSK_NREFUSED)) ∧
    ((s.task k.val).st = 0 ∨ (s.task k.val).st = 4 ∨ (s.task k.val).st = 5 →
      (∀ s1, s.hbmRead (s.get64 TSK_TBL_BASE_LO TSK_TBL_BASE_HI + 32 * k.val) 32 = (none, s1) →
        exec (.tskArm k) s = .next ((s1.put TSK_STATUS_ARMREF 1).incSat TSK_NREFUSED)) ∧
      (∀ bs, s.hbmRead (s.get64 TSK_TBL_BASE_LO TSK_TBL_BASE_HI + 32 * k.val) 32 = (some bs, s) → descOk k.val (wordsOf bs) = false →
        exec (.tskArm k) s = .next ((s.put TSK_STATUS_ARMREF 1).incSat TSK_NREFUSED)) ∧
      (∀ bs d, s.hbmRead (s.get64 TSK_TBL_BASE_LO TSK_TBL_BASE_HI + 32 * k.val) 32 = (some bs, s) → d = wordsOf bs → descOk k.val d = true →
        bits (d.getD 0 0) 0 16 ≠ 0 → exec (.tskArm k) s = .next (s.setTask k.val ⟨1, bits (d.getD 0 0) 0 16, 0, false, 0, d, false, 0⟩)) ∧
      (∀ bs d, s.hbmRead (s.get64 TSK_TBL_BASE_LO TSK_TBL_BASE_HI + 32 * k.val) 32 = (some bs, s) → d = wordsOf bs → descOk k.val d = true →
        bits (d.getD 0 0) 0 16 = 0 → Completes (exec (.tskArm k) s) fun t => s.entersReady t k.val ⟨1, 0, 0, false, 0, d, false, 0⟩ true ∧
          t = { s with que := t.que, mem := t.mem }))) ∧
  (∀ (s : State) (k : Fin 1048576), s.reaches .host 0x480014 = true →
    ((s.task k.val).st = 1 → (s.task k.val).dep ≠ 1 → (s.task k.val).dep ≠ 0 →
      exec (.tskDec k) s = .next (s.setTask k.val { s.task k.val with dep := (s.task k.val).dep - 1 })) ∧
    ((s.task k.val).st = 1 → (s.task k.val).dep ≤ 1 → Completes (exec (.tskDec k) s) fun t =>
      s.entersReady t k.val { s.task k.val with dep := 0 } true ∧ t = { s with que := t.que, mem := t.mem }) ∧
    ((s.task k.val).st ≠ 1 → exec (.tskDec k) s = .next (((s.incSat TSK_NDEPERR).put TSK_STATUS_DEPERR 1).event srcTskDeperr))) ∧
  (∀ (s : State) (k : Fin 1048576), s.reaches .host 0x480018 = true →
    ((s.task k.val).st = 4 ∨ (s.task k.val).st = 5 → exec (.tskFree k) s = .next (s.setTask k.val Task.free)) ∧
    ((s.task k.val).st ≠ 4 → (s.task k.val).st ≠ 5 → exec (.tskFree k) s = .next ((s.put TSK_STATUS_ARMREF 1).incSat TSK_NREFUSED))) ∧
  (∀ (s : State) (c : Fin 16) (k : Fin 1048576) (v : Task), s.reaches (.scion c) (0x481028 + 0x100 * c.val) = true → v = s.task k.val → v.st = 3 → v.core = c.val →
    exec (.taskDoneOk c k) s = .next (
      let u := v.succs.foldl (fun u j => u.decrement j false) ((s.setTask k.val { v with st := 4 }).inc TSK_NDONE)
      if bitAt (v.word 4) 31 then u.enq (bits (v.word 4) 0 16) (completionRecord k.val v true s.clk.gvc) else u) ∧
    exec (.taskDoneFail c k) s = .next (
      let u := v.succs.foldl (fun u j => u.decrement j true) (((s.setTask k.val { v with st := 5 }).inc TSK_NFAIL).event srcTskFail)
      if bitAt (v.word 4) 31 then u.enq (bits (v.word 4) 0 16) (completionRecord k.val v false s.clk.gvc) else u)) ∧
  (∀ (s : State) (j : Nat) (bad : Bool), (s.task j).st = 1 → 2 ≤ (s.task j).dep →
    s.decrement j bad = s.setTask j { s.task j with dep := (s.task j).dep - 1, poison := (s.task j).poison || bad }) ∧
  (∀ (s : State) (c : Fin 16) (k : Fin 1048576) (v : Task), s.reaches (.scion c) (0x481028 + 0x100 * c.val) = true → v = s.task k.val → v.st = 3 → v.core = c.val →
    (v.retry + 1 ≤ v.retryMax → Completes (exec (.taskRetry c k) s) fun t =>
      s.entersReady t k.val { v with retry := v.retry + 1 } false ∧ t.get TSK_NRETRY = (s.get TSK_NRETRY + 1) % 2 ^ 32 ∧ s.regsBut t [TSK_NRETRY] ∧
      t = { s with que := t.que, cells := t.cells, mem := t.mem }) ∧
    (v.retryMax < v.retry + 1 → exec (.taskRetry c k) s = .next (
      let u := v.succs.foldl (fun u j => u.decrement j true)
        (((s.setTask k.val { v with retry := v.retry + 1, st := 5 }).inc TSK_NFAIL).event srcTskFail)
      if bitAt (v.word 4) 31 then u.enq (bits (v.word 4) 0 16) (completionRecord k.val { v with retry := v.retry + 1 } false s.clk.gvc) else u))) ∧
  (∀ (s : State) (c : Fin 16) (k : Fin 1048576), s.reaches (.scion c) (0x481028 + 0x100 * c.val) = true → (s.task k.val).st ≠ 3 ∨ (s.task k.val).core ≠ c.val →
    exec (.taskDoneOk c k) s = .next ((s.incSat TSK_NDEPERR).put TSK_STATUS_DEPERR 1) ∧
    exec (.taskRetry c k) s = .next ((s.incSat TSK_NDEPERR).put TSK_STATUS_DEPERR 1) ∧
    exec (.taskDoneFail c k) s = .next ((s.incSat TSK_NDEPERR).put TSK_STATUS_DEPERR 1))

/-- TSK_REQ, TASK_DELIVER and TASK_OVERFLOW_MOVE. A request that reaches its register sets the core's REQ (R623). The task that the
selection round gives a core enters SERVICE on it, its window holds the task, REQ clears, and the dispatch counts and is raised; with none
given nothing happens (R624). The round gives a core an eligible task that none comes before in dispatch order, of descending priority and
then ascending sequence value (R621). Of the overflow tasks that of the lowest sequence value enters the ready store when an entry is free
(R622). -/
def Obligations.TaskDispatch : Prop :=
  (∀ (s : State) (c : Fin 16), s.reaches (.scion c) (0x481000 + 0x100 * c.val) = true → exec (.tskReq c) s = .next (s.put (TSK_C_REQ_REQ c.val) 1)) ∧
  (∀ (s : State) (c : Fin 16) (k : Nat), (s.round (List.range 16) []).find? (fun e => decide (e.1 = c.val)) = some (c.val, k) →
    Completes (exec (.taskDeliver c) s) fun t =>
      t.task k = { s.task k with st := 3, inStore := false, core := c.val } ∧ (∀ j, j ≠ k → t.task j = s.task j) ∧
      t.get (TSK_C_WINSTAT_VALID c.val) = 1 ∧ t.get (TSK_C_WINSTAT_POISON c.val) = b2n (s.task k).poison ∧
      t.get (TSK_C_WINSTAT_RETRY c.val) = min 15 (s.task k).retry ∧ t.get (TSK_C_WINSTAT_TASK c.val) = k % 2 ^ 20 ∧
      (∀ i : Fin 8, t.get (TSK_C_WIN c.val i.val) = (s.task k).word i.val % 2 ^ 32) ∧
      t.get (TSK_C_REQ_REQ c.val) = 0 ∧ t.get TSK_NDISP = (s.get TSK_NDISP + 1) % 2 ^ 32 ∧
      (∃ r, t.raised = s.raised ++ [r] ∧ r.src = srcTskDisp c.val) ∧
      t = { s with que := t.que, cells := t.cells, raised := t.raised }) ∧
  (∀ (s : State) (c : Fin 16), (s.round (List.range 16) []).find? (fun e => decide (e.1 = c.val)) = none →
    exec (.taskDeliver c) s = .next s) ∧
  (∀ (s : State) (c : Nat) (cs : List Nat) (given : List (Nat × Nat)),
    (s.ableToTake c = false → s.round (c :: cs) given = s.round cs given) ∧
    (s.ableToTake c = true → s.firstEligible (given.map (·.2)) c = none → s.round (c :: cs) given = s.round cs given) ∧
    (s.ableToTake c = true → ∀ e, s.firstEligible (given.map (·.2)) c = some e →
      s.round (c :: cs) given = s.round cs (given ++ [(c, e.1)]) ∧ e ∈ s.que.tasks ∧ s.eligible (given.map (·.2)) c e.1 e.2 = true ∧
      ∀ f ∈ s.que.tasks, s.eligible (given.map (·.2)) c f.1 f.2 = true →
        f.2.prio < e.2.prio ∨ f.2.prio = e.2.prio ∧ e.2.seq ≤ f.2.seq)) ∧
  (∀ s : State, (∀ e ∈ s.que.tasks, e.2.st ≠ 2 ∨ e.2.inStore = true) ∨ 65536 ≤ s.readyCount → exec .taskOverflowMove s = .next s) ∧
  (∀ (s : State) (k : Nat) (v : Task), (k, v) ∈ s.que.tasks → v.st = 2 → v.inStore = false →
    (∀ f ∈ s.que.tasks, f.2.st = 2 → f.2.inStore = false → f ≠ (k, v) → v.seq < f.2.seq) → s.readyCount < 65536 →
    Completes (exec .taskOverflowMove s) fun t => t.task k = { v with inStore := true } ∧ (∀ j, j ≠ k → t.task j = s.task j) ∧
      t = { s with que := { s.que with tasks := t.que.tasks }, mem := t.mem } ∧
      ∀ a, (a < s.get64 TSK_TBL_BASE_LO TSK_TBL_BASE_HI + 0x2000000 ∨
        s.get64 TSK_TBL_BASE_LO TSK_TBL_BASE_HI + 0x2000000 + 4 * t.overflowTasks.length ≤ a) → t.memByte a = s.memByte a)

/-- COMMIT_GO, COMMIT_CANCEL, ACKLOST and PREPARE_RECEIVE, the writes where they reach CMT_CTRL. A GO is refused in the cases of R70, with
the code of the first of them in the order of the codes, which is the model's choice (log entry 101), and nothing else changes; an accepted
one sets PENDING, loads the retry count and is the prepare's arrival at the root (R71, R72). A prepare that arrives at a device that is not
frozen records the device's own vote, sets PENDING, LOCKED and VOTED, is forwarded where a device hangs below, and is what a CWAIT word in
issue holds for (R72, R73, R238); a frozen device takes none (R82). CANCEL at the root before the decision is kept for it, and otherwise
does nothing (R75); ACKLOST ends the marking of a lost commit (R80). -/
def Obligations.CommitGo : Prop :=
  (∀ s : State, s.reaches .host 0x10010 = true → s.goRefusal ≠ 0 → exec .commitGo s = .next (s.put CMT_STATUS_GOREF s.goRefusal)) ∧
  (∀ s : State, s.goRefusal ≠ 0 ↔ s.on CMT_STATUS_ROOT = false ∨ s.on CMT_STATUS_PENDING = true ∨
    s.get64 CMT_TARGET_LO CMT_TARGET_HI < s.clk.gvc + s.leadVc ∨ s.gateOpen = false ∨ s.get CMT_SCOPE = 0 ∨ s.frozen = true ∨ s.inSafe = true) ∧
  (∀ s : State, (s.on CMT_STATUS_ROOT = false → s.goRefusal = 1) ∧
    (s.on CMT_STATUS_ROOT = true → s.on CMT_STATUS_PENDING = true → s.goRefusal = 2) ∧
    (s.on CMT_STATUS_ROOT = true → s.on CMT_STATUS_PENDING = false →
      (s.gateOpen = false ∨ s.get64 CMT_TARGET_LO CMT_TARGET_HI < s.clk.gvc + s.leadVc → s.goRefusal = 3) ∧
      (s.gateOpen = true → s.clk.gvc + s.leadVc ≤ s.get64 CMT_TARGET_LO CMT_TARGET_HI →
        (s.get CMT_SCOPE = 0 → s.goRefusal = 4) ∧
        (s.get CMT_SCOPE ≠ 0 → s.frozen = true ∨ s.inSafe = true → s.goRefusal = 5)))) ∧
  (∀ s : State, s.reaches .host 0x10010 = true → s.goRefusal = 0 →
    Completes (exec .commitGo s) fun t =>
      t.get CMT_STATUS_PENDING = 1 ∧ t.get CMT_STATUS_VOTED = 1 ∧ t.get CMT_STATUS_LOCKED = 1 ∧
      t.get CMT_STATUS_RETRYLEFT = (if s.on CMT_CTRL_RETRY_EN then s.get CMT_RETRY_COUNT % 2 ^ 8 else 0) ∧
      t.cmt.commit = some ⟨s.get64 CMT_TARGET_LO CMT_TARGET_HI, s.get CMT_SCOPE, s.get CMT_CTRL_TAG,
        ⟨decide (s.voteReason (s.get CMT_SCOPE) = 0), s.get CLK_DEVID, s.voteReason (s.get CMT_SCOPE)⟩, [], false⟩ ∧
      t.tx = s.tx ++ (if s.on CLK_DEPTH_DOWN then
        [.prepare (s.get64 CMT_TARGET_LO CMT_TARGET_HI) (s.get CMT_SCOPE) (s.get CMT_CTRL_TAG)] else []) ∧
      s.regsBut t [CMT_STATUS_PENDING, CMT_STATUS_VOTED, CMT_STATUS_LOCKED, CMT_STATUS_RETRYLEFT] ∧
      t = { s with cells := t.cells, cmt := t.cmt, tx := t.tx, seq := t.seq }) ∧
  (∀ s : State, s.reaches .host 0x10010 = true →
    (s.on CMT_STATUS_ROOT = true → s.on CMT_STATUS_VOTED = true → exec .commitCancel s = .next { s with cmt := { s.cmt with cancel := true } }) ∧
    (s.on CMT_STATUS_ROOT = false ∨ s.on CMT_STATUS_VOTED = false → exec .commitCancel s = .next s)) ∧
  (∀ s : State, s.reaches .host 0x10010 = true → exec .acklost s = .next { s with cmt := { s.cmt with lostMark := none } }) ∧
  (∀ (s : State) (g : Gvc) (c : BitVec 9) (n : BitVec 16),
    (s.frozen = true → exec (.prepareReceive g c n) s = .next s) ∧
    (s.frozen = false → ∃ t, exec (.prepareReceive g c n) s = .next t ∧
      t.cmt = { s.cmt with
        commit := some ⟨g.toNat, c.toNat, n.toNat, ⟨decide (s.voteReason c.toNat = 0), s.get CLK_DEVID, s.voteReason c.toNat⟩, [], false⟩
        lostAwait := false } ∧
      t.get CMT_STATUS_PENDING = 1 ∧ t.get CMT_STATUS_LOCKED = 1 ∧ t.get CMT_STATUS_VOTED = 1 ∧
      s.regsBut t [CMT_STATUS_PENDING, CMT_STATUS_LOCKED, CMT_STATUS_VOTED] ∧
      t.tx = s.tx ++ (if s.on CLK_DEPTH_DOWN then [.prepare g.toNat c.toNat n.toNat] else []) ∧
      (∀ w, s.seq.word = some w → s.seq.cwait = none → mwCwait w = true → t.seq = { s.seq with cwait := some (g.toNat, 0) }) ∧
      (s.seq.word = none ∨ s.seq.cwait ≠ none ∨ (∀ w, s.seq.word = some w → mwCwait w = false) → t.seq = s.seq) ∧
      t = { s with cells := t.cells, cmt := t.cmt, tx := t.tx, seq := t.seq }))

/-- VOTE_RECEIVE, VOTE_FORWARD, COMMIT_DECIDE, DECISION_RECEIVE, COMMIT_EXCHANGE, RESYNC_END, COMMIT_LOST and CFG_SCRUB. Votes are held by
port, a combined vote is ready only where both are, and else has the lower device ID (R74); the combined vote goes upstream. The root
decides commit when the combined vote is ready and no CANCEL has been written, sends the decision downstream, and either decision clears
LOCKED and VOTED (R72, R75). A commit decision marks the commit decided: at the commit point the banks of its scope exchange (R63), with
NCOMMIT, LAST and the last target and tag set (R77). An abort keeps both banks, counts, records its reason and device, and raises its event
(R78); one for an incomplete shadow is retried with its later target while retries are left and the target is outside the lead (R83). A
commit whose decision has not come at the target is lost: it counts, raises its event, and leaves both banks as they were (R80); so does one
that is decided after it, and a decision that comes after the target counts as well (R81). The end of the resync copy clears RESYNC (R64). A
failing check code counts, and marks the entry in its bank (R822). -/
def Obligations.CommitDecision : Prop :=
  (∀ (s : State) (p : Fin 4) (r : Bool) (n : BitVec 4) (d : BitVec 13),
    (s.cmt.commit = none ∨ s.frozen = true → exec (.voteReceive p r n d) s = .next s ∧ exec .voteForward s = .next s) ∧
    (∀ c : Commit, s.cmt.commit = some c → s.frozen = false →
      exec (.voteReceive p r n d) s = .next { s with cmt := { s.cmt with
        commit := some { c with down := Assoc.set ⟨true, 0x2000, 0⟩ c.down p.val ⟨r, d.toNat, n.toNat⟩ } } } ∧
      (s.on CMT_STATUS_ROOT = false → exec .voteForward s = .next { s with tx := s.tx ++ [.vote (s.combined c)] }) ∧
      (s.on CMT_STATUS_ROOT = true → exec .voteForward s = .next s))) ∧
  (∀ a b : Vote, (combine a b).ready = (a.ready && b.ready) ∧ (a.ready = false → b.ready = false → (combine a b).dev = min a.dev b.dev)) ∧
  (∀ s : State, (s.cmt.commit = none ∨ s.on CMT_STATUS_ROOT = false ∨ s.frozen = true ∨ (∃ c, s.cmt.commit = some c ∧ c.decided = true)) →
    exec .commitDecide s = .next s) ∧
  (∀ (s : State) (c : Commit), s.cmt.commit = some c → c.decided = false → s.frozen = false → s.on CMT_STATUS_ROOT = true →
    s.cmt.cancel = false → (s.combined c).ready = true →
    exec .commitDecide s = .next { (s.put CMT_STATUS_LOCKED 0).put CMT_STATUS_VOTED 0 with
      tx := s.tx ++ (if s.on CLK_DEPTH_DOWN then [.decision true false c.tag 0 0] else [])
      cmt := { s.cmt with commit := some { c with decided := true } } }) ∧
  (∀ (s : State) (c : Commit) (v : Vote), s.cmt.commit = some c → c.decided = false → s.frozen = false → s.on CMT_STATUS_ROOT = true →
    v = (if s.cmt.cancel then ⟨false, s.get CLK_DEVID, 7⟩ else s.combined c) → v.ready = false →
    v.reason ≠ 1 ∨ s.on CMT_CTRL_RETRY_EN = false ∨ s.get CMT_STATUS_RETRYLEFT = 0 ∨
      c.target + s.get CMT_RETRY_STEP * 256 < s.clk.gvc + s.leadVc →
    Completes (exec .commitDecide s) fun t =>
      t.cmt.commit = none ∧ t.get CMT_STATUS_LOCKED = 0 ∧ t.get CMT_STATUS_VOTED = 0 ∧ t.get CMT_STATUS_PENDING = 0 ∧
      t.get CMT_NABORT = (s.get CMT_NABORT + 1) % 2 ^ 32 ∧ t.get CMT_ABORT_CAUSE_REASON = v.reason % 2 ^ 4 ∧
      t.get CMT_ABORT_CAUSE_DEVID = v.dev % 2 ^ 13 ∧ t.get CMT_STATUS_LAST = 2 ∧ (∃ r, t.raised = s.raised ++ [r] ∧ r.src = srcCmtAbort) ∧
      t.tx = s.tx ++ (if s.on CLK_DEPTH_DOWN then [.decision false false c.tag v.reason v.dev] else []) ∧
      t = { s with cells := t.cells, cmt := { s.cmt with commit := none, cancel := false }, tx := t.tx, raised := t.raised, seq := t.seq }) ∧
  (∀ (s : State) (c : Commit), s.cmt.commit = some c → c.decided = false → s.frozen = false → s.on CMT_STATUS_ROOT = true →
    s.cmt.cancel = false → (s.combined c).ready = false → (s.combined c).reason = 1 → s.on CMT_CTRL_RETRY_EN = true →
    s.get CMT_STATUS_RETRYLEFT ≠ 0 → s.get CMT_STATUS_RETRYLEFT < 2 ^ 8 → s.clk.gvc + s.leadVc ≤ c.target + s.get CMT_RETRY_STEP * 256 →
    Completes (exec .commitDecide s) fun t =>
      (∃ d, t.cmt.commit = some d ∧ d.target = c.target + s.get CMT_RETRY_STEP * 256 ∧ d.scope = c.scope ∧ d.tag = c.tag ∧ d.decided = false) ∧
      t.get CMT_STATUS_PENDING = 1 ∧ t.get CMT_STATUS_LOCKED = 1 ∧ t.get CMT_STATUS_VOTED = 1 ∧
      t.get CMT_STATUS_RETRYLEFT = s.get CMT_STATUS_RETRYLEFT - 1 ∧ t.get CMT_NABORT = (s.get CMT_NABORT + 1) % 2 ^ 32 ∧
      t.get CMT_ABORT_CAUSE_REASON = 1 ∧ t.get CMT_STATUS_LAST = 2 ∧ (∃ r, t.raised = s.raised ++ [r] ∧ r.src = srcCmtAbort) ∧
      t = { s with cells := t.cells, cmt := t.cmt, tx := t.tx, raised := t.raised, seq := t.seq }) ∧
  (∀ (s s1 : State) (ok retry : Bool) (n : BitVec 16) (r : BitVec 4) (d : BitVec 13),
    (s.frozen = true ∨ s.on CMT_STATUS_ROOT = true → exec (.decisionReceive ok retry n r d) s = .next s) ∧
    (s.frozen = false → s.on CMT_STATUS_ROOT = false →
      s1 = { s with tx := s.tx ++ (if s.on CLK_DEPTH_DOWN then [.decision ok retry n.toNat r.toNat d.toNat] else []) } →
      (s.cmt.commit = none → s.cmt.lostAwait = false → exec (.decisionReceive ok retry n r d) s = .next s1) ∧
      (s.cmt.commit = none → s.cmt.lostAwait = true → exec (.decisionReceive ok retry n r d) s =
        .next { s1.inc CMT_NLOST with cmt := { s.cmt with lostAwait := false } }) ∧
      (∀ c, s.cmt.commit = some c →
        (c.decided = true → exec (.decisionReceive ok retry n r d) s = .next s1) ∧
        (c.decided = false → s.clk.gvc ≤ c.target → ok = true → exec (.decisionReceive ok retry n r d) s =
          .next { (s1.put CMT_STATUS_LOCKED 0).put CMT_STATUS_VOTED 0 with cmt := { s.cmt with commit := some { c with decided := true } } }) ∧
        (c.decided = false → s.clk.gvc ≤ c.target → ok = false → Completes (exec (.decisionReceive ok retry n r d) s) fun t =>
          t.cmt = { s.cmt with commit := none, cancel := false } ∧ t.get CMT_STATUS_PENDING = 0 ∧ t.get CMT_STATUS_LOCKED = 0 ∧
          t.get CMT_STATUS_VOTED = 0 ∧ t.get CMT_NABORT = (s.get CMT_NABORT + 1) % 2 ^ 32 ∧ t.get CMT_ABORT_CAUSE_REASON = r.toNat ∧
          t.get CMT_ABORT_CAUSE_DEVID = d.toNat ∧ t.get CMT_STATUS_LAST = 2 ∧ (∃ e, t.raised = s.raised ++ [e] ∧ e.src = srcCmtAbort) ∧
          t = { s1 with cells := t.cells, cmt := t.cmt, raised := t.raised, seq := t.seq }) ∧
        (c.decided = false → c.target < s.clk.gvc → Completes (exec (.decisionReceive ok retry n r d) s) fun t =>
          t.cmt.commit = none ∧ t.cmt.lostMark = some c.target ∧ t.get CMT_NLOST = (s.get CMT_NLOST + 2) % 2 ^ 32 ∧
          t.get CMT_STATUS_LAST = 3 ∧ t.active = s.active ∧ t.shadow = s.shadow ∧ t.tx = s1.tx ∧ t.mem = s.mem)))) ∧
  (∀ s : State, (s.cmt.commit = none → exec .commitExchange s = .next s ∧ exec .commitLost s = .next s) ∧
    (∀ c, s.cmt.commit = some c →
      (c.decided = false ∨ s.gateOpen = false → exec .commitExchange s = .next s) ∧
      (c.decided = true → exec .commitLost s = .next s) ∧
      (c.decided = true → s.gateOpen = true → c.target < s.clk.gvc → exec .commitExchange s = .next s.loseCommit) ∧
      (s.clk.gvc ≤ c.target → s.reachTarget c.target = none → exec .commitExchange s = .next s ∧ exec .commitLost s = .next s))) ∧
  (∀ (s u : State) (c : Commit), s.cmt.commit = some c → c.decided = true → s.gateOpen = true → s.clk.gvc ≤ c.target →
    s.reachTarget c.target = some u →
    Completes (exec .commitExchange s) fun t =>
      t.active = exchanged c.scope u.shadow u.active ∧ t.cmt.commit = none ∧ t.cmt.lostMark = none ∧
      t.get CMT_STATUS_LAST = 1 ∧ t.get CMT_LAST_TAG = c.tag % 2 ^ 16 ∧ t.get CMT_STATUS_PENDING = 0 ∧
      t.get CMT_NCOMMIT = (u.get CMT_NCOMMIT + 1) % 2 ^ 32 ∧ t.get CMT_STATUS_RESYNC = 1 ∧
      t.get64 CMT_LAST_LO CMT_LAST_HI = c.target % 2 ^ 64 ∧ t.shadow = u.shadow ∧ t.mem = u.mem ∧ t.raised = u.raised ∧ t.clk = u.clk) ∧
  (∀ s : State, exec .resyncEnd s = .next { s.put CMT_STATUS_RESYNC 0 with cmt := { s.cmt with resync := 0 } }) ∧
  (∀ (s u : State) (c : Commit), s.cmt.commit = some c → c.decided = false → s.reachTarget c.target = some u → u.cmt.commit = some c →
    Completes (exec .commitLost s) fun t =>
      t.cmt.commit = none ∧ t.cmt.lostMark = some c.target ∧ t.get CMT_STATUS_LAST = 3 ∧ t.get CMT_STATUS_LOCKED = 0 ∧
      t.get CMT_STATUS_VOTED = 0 ∧ t.get CMT_NLOST = (u.get CMT_NLOST + 1) % 2 ^ 32 ∧ t.active = u.active ∧ t.shadow = u.shadow ∧
      (∃ r, t.raised = u.raised ++ [r] ∧ r.src = srcCmtLost) ∧ t.mem = u.mem ∧
      (∀ i ∈ t.cmt.intervals, i.site < 64 → i.running t.clk.gvc = true → bitAt i.cause 4 = true)) ∧
  (∀ (s : State) (k : Fin 9) (o : BitVec 28), (classOf o.toNat ≠ some k.val → ∀ a b, exec (.cfgScrub a k o b) s = .next s) ∧
    (classOf o.toNat = some k.val →
      exec (.cfgScrub true k o true) s = .next { (s.inc CMT_NINTEG).put CMT_INTEG_ABAD ((s.inc CMT_NINTEG).get CMT_INTEG_ABAD ||| 2 ^ k.val) with
        cmt := { s.cmt with activeBad := addMark (k.val, o.toNat) s.cmt.activeBad } } ∧
      exec (.cfgScrub false k o true) s = .next { s.inc CMT_NINTEG with
        cmt := { s.cmt with shadowBad := addMark (k.val, o.toNat) s.cmt.shadowBad } } ∧
      exec (.cfgScrub true k o false) s = .next s ∧ exec (.cfgScrub false k o false) s = .next s))

/-- HARVEST_GO, HARVEST_CANCEL, HARVEST_HOLD, HARVEST_RECEIVE, HARVEST_TAKE and HARVEST_MISS, the writes where they reach CMT_HRV_CTRL. A GO
is refused in the cases of R89 and R90, with the code of the first of them in the order of the codes, which is the model's choice (log entry
101), and nothing else changes; else it sets PENDING with its target. CANCEL takes a local harvest back before its target's cycle, and a
group one whose request has not left (R110). HOLD fixes the window, and clearing it lets the window switch to a newer harvest in the next
vector cycle (R92). A request is forwarded where a device hangs below; one that comes before its target's cycle is pending, and one that
comes too late, or with the gate closed, sets MISSED and raises its event, as does the instant of a target for which none came, which leaves
the harvest banks as they were (R91). A harvest copies the harvest image into the bank that is not shown (R85), and the window then shows it
unless HOLD is 1 (R92, R93); a frozen device takes no request (R752). -/
def Obligations.Harvest : Prop :=
  (∀ (s : State) (alone : Bool) (target lead : Nat), s.reaches .host 0x10050 = true → alone = s.on CMT_HRV_CTRL_LOCAL →
    target = s.get64 CMT_HRV_TARGET_LO CMT_HRV_TARGET_HI → lead = s.clk.vset.vcOf (if alone then 16 else 128 + 64 * s.get CMT_HOPS) →
    (alone = false → s.on CMT_STATUS_ROOT = false → exec .harvestGo s = .next (s.put CMT_HRV_STATUS_GOREF 1)) ∧
    (alone = true ∨ s.on CMT_STATUS_ROOT = true →
      (s.on CMT_HRV_STATUS_PENDING = true → exec .harvestGo s = .next (s.put CMT_HRV_STATUS_GOREF 2)) ∧
      (s.on CMT_HRV_STATUS_PENDING = false → s.gateOpen = false ∨ target < s.clk.gvc + lead →
        exec .harvestGo s = .next (s.put CMT_HRV_STATUS_GOREF 3)) ∧
      (s.on CMT_HRV_STATUS_PENDING = false → s.gateOpen = true → s.clk.gvc + lead ≤ target →
        (alone = true → exec .harvestGo s = .next { s.put CMT_HRV_STATUS_PENDING 1 with cmt := { s.cmt with hrvLocal := some target } }) ∧
        (alone = false → exec .harvestGo s =
          .next { s.put CMT_HRV_STATUS_PENDING 1 with cmt := { s.cmt with hrvGroup := some target, hrvSent := false } })))) ∧
  (∀ (s : State) (g l : Option Nat), s.reaches .host 0x10050 = true → g = (if s.cmt.hrvSent then s.cmt.hrvGroup else none) →
    (s.cmt.hrvLocal = none → l = none) → (∀ h, s.cmt.hrvLocal = some h → s.clk.gvc < h → l = none) →
    (∀ h, s.cmt.hrvLocal = some h → h ≤ s.clk.gvc → l = some h) →
    exec .harvestCancel s = .next ({ s with cmt := { s.cmt with hrvGroup := g, hrvLocal := l } }.put CMT_HRV_STATUS_PENDING
      (b2n (g.isSome || l.isSome)))) ∧
  (∀ (s : State) (b : Bool), s.reaches .host 0x10050 = true →
    exec (.harvestHold b) s = .next { (s.put CMT_HRV_CTRL_HOLD (b2n b)).put CMT_HRV_STATUS_HELD (b2n b) with
      cmt := { s.cmt with hrvSwitch := !b && s.cmt.hrvNewer } }) ∧
  (∀ s : State, s.cmt.hrvSwitch = true → s.pins.inReset = 0 → s.gateOpen = true → s.seq.running = none → s.tiu.releases = [] →
    s.get CMT_HRV_STATUS_SHOWN ≤ 1 →
    s.tick.get CMT_HRV_STATUS_SHOWN = 1 - s.get CMT_HRV_STATUS_SHOWN ∧ s.tick.get CMT_HRV_SEQ = (s.get CMT_HRV_SEQ + 1) % 2 ^ 32 ∧
      s.tick.cmt.hrvSwitch = false) ∧
  (∀ (s s1 : State) (g : Gvc), (s.frozen = true → exec (.harvestReceive g) s = .next s) ∧
    (s.frozen = false → s1 = { s with tx := s.tx ++ (if s.on CLK_DEPTH_DOWN then [.harvest g.toNat] else []) } →
      (g.toNat ≤ s.clk.gvc ∨ s.gateOpen = false →
        exec (.harvestReceive g) s = .next ((s1.put CMT_HRV_STATUS_MISSED 1).event srcCmtHrvMiss)) ∧
      (s.clk.gvc < g.toNat → s.gateOpen = true → exec (.harvestReceive g) s = .next { s1.put CMT_HRV_STATUS_PENDING 1 with
        cmt := { s.cmt with hrvGroup := some g.toNat, hrvSent := true } }))) ∧
  (∀ s : State, exec .harvestMiss s = .next ((s.put CMT_HRV_STATUS_MISSED 1).event srcCmtHrvMiss)) ∧
  (∀ s : State, (s.cmt.hrvGroup = none → s.cmt.hrvLocal = none → exec .harvestTake s = .next s) ∧
    (∀ h, earliest s.cmt.hrvGroup s.cmt.hrvLocal = some h → s.reach (h + 1) = none → exec .harvestTake s = .next s) ∧
    (∀ h u b, earliest s.cmt.hrvGroup s.cmt.hrvLocal = some h → s.reach (h + 1) = some u → b = (⟨h, u.harvestImage⟩ : HarvestBank) →
      Completes (exec .harvestTake s) fun t =>
        (u.get CMT_HRV_STATUS_SHOWN = 0 → t.cmt.bank1 = b ∧ t.cmt.bank0 = u.cmt.bank0) ∧
        (u.get CMT_HRV_STATUS_SHOWN = 1 → t.cmt.bank0 = b ∧ t.cmt.bank1 = u.cmt.bank1) ∧
        t.cmt.hrvGroup = (if u.cmt.hrvGroup = some h then none else u.cmt.hrvGroup) ∧
        t.cmt.hrvLocal = (if u.cmt.hrvLocal = some h then none else u.cmt.hrvLocal) ∧
        t.get CMT_HRV_STATUS_PENDING = b2n (t.cmt.hrvGroup.isSome || t.cmt.hrvLocal.isSome) ∧
        (u.on CMT_HRV_CTRL_HOLD = true → t.get CMT_HRV_STATUS_SHOWN = u.get CMT_HRV_STATUS_SHOWN ∧ t.get CMT_HRV_SEQ = u.get CMT_HRV_SEQ) ∧
        (u.on CMT_HRV_CTRL_HOLD = false → u.get CMT_HRV_STATUS_SHOWN ≤ 1 → t.get CMT_HRV_STATUS_SHOWN = 1 - u.get CMT_HRV_STATUS_SHOWN ∧
          t.get64 CMT_HRV_GVC_LO CMT_HRV_GVC_HI = h % 2 ^ 64 ∧ t.get CMT_HRV_SEQ = (u.get CMT_HRV_SEQ + 1) % 2 ^ 32) ∧
        t = { u with cells := t.cells, cmt := t.cmt }))

/-- VERDICT_SETTLE and VERDICT_RELEASE. A recorded cause makes a verdict INVALID, an unmasked fail without one makes it FAIL, and otherwise
it is PASS (R97, R98). At its settle GVC, that of its last vector plus 108 (R96), the verdict of a site's oldest interval that has ended is
formed, with cause NOCMP where no compare was evaluated and NOCMP_PASS is 0 (R99), and is released to its site; where CONFIRM is set a PASS
is held instead (R101). Before that instant, or with no such interval, nothing happens. A held PASS is released once every channel of its
site has been read back since, or with its cause where one was recorded, and not in Frost (R101, R752). A release writes the verdict record
to the site's queue, or drops it, counts and raises (R103, R643); the site then shows the newest of its released verdicts (R113). -/
def Obligations.Verdicts : Prop :=
  (∀ i : Interval, i.verdict = (if i.cause ≠ 0 then 3 else if i.failed then 2 else 1) ∧ i.settle = i.last.map (· + 108)) ∧
  (∀ old p word : Nat, (old < 2 ^ 32 → releasedWord old p word = p * 2 ^ 32 + word) ∧
    (p < old / 2 ^ 32 → releasedWord old p word = old - 2 ^ 32)) ∧
  (∀ (s : State) (k : Nat) (i : Interval), s.releaseAt k i = ({ s with cmt := { s.cmt with
    intervals := s.cmt.intervals.eraseIdx k
    verdicts := Assoc.set 0 s.cmt.verdicts i.site (releasedWord (Assoc.get 0 s.cmt.verdicts i.site)
      ((s.cmt.intervals.take k).filter fun x : Interval => decide (x.site = i.site)).length (i.verdict * 2 ^ 30 + i.cause)) } }).writeVerdict i) ∧
  (∀ (s : State) (i : Interval),
    (s.on (QUE_SITERQ_EN i.site) = true → (s.queue (s.get (QUE_SITERQ_Q i.site))).isOpen = true →
      s.writeVerdict i = s.enq (s.get (QUE_SITERQ_Q i.site)) (verdictRecord i (s.get CLK_DEVID))) ∧
    (s.on (QUE_SITERQ_EN i.site) = false ∨ (s.queue (s.get (QUE_SITERQ_Q i.site))).isOpen = false →
      s.writeVerdict i = (s.incSat QUE_NVRDROP).raise srcQueVrdrop (s.get (QUE_SITERQ_Q i.site)) 0)) ∧
  (∀ (s : State) (n : Fin 64), (∀ i ∈ s.cmt.intervals, i.site ≠ n.val ∨ i.last = none ∨ i.held = true) → exec (.verdictSettle n) s = .next s) ∧
  (∀ (s : State) (n : Fin 64) (older newer : List Interval) (i : Interval) (l : Nat), s.cmt.intervals = older ++ i :: newer →
    (∀ j ∈ older, j.site ≠ n.val ∨ j.last = none ∨ j.held = true) → i.site = n.val → i.last = some l → i.held = false →
    (s.reach (l + 108) = none → exec (.verdictSettle n) s = .next s) ∧
    (∀ (u : State) (j : Interval), s.reach (l + 108) = some u →
      j = { i with gen := u.get CMT_LAST_TAG
                   cause := if i.evaluated = false ∧ s.on CMT_VRD_CTRL_NOCMP_PASS = false then setBitN i.cause 12 else i.cause } →
      (j.verdict = 1 → u.on CMT_VRD_CTRL_CONFIRM = true → exec (.verdictSettle n) s = .next { u with cmt := { u.cmt with
        intervals := u.cmt.intervals.set older.length { j with held := true, heldAt := u.cmt.holdSeq + 1 }
        holdSeq := u.cmt.holdSeq + 1 } }) ∧
      (j.verdict ≠ 1 ∨ u.on CMT_VRD_CTRL_CONFIRM = false → exec (.verdictSettle n) s = .next (u.releaseAt older.length j)))) ∧
  (∀ (s : State) (n : Fin 64), (∀ i ∈ s.cmt.intervals, i.site ≠ n.val ∨ i.held = false) ∨ s.frozen = true → exec (.verdictRelease n) s = .next s) ∧
  (∀ (s : State) (n : Fin 64) (older newer : List Interval) (i : Interval), s.cmt.intervals = older ++ i :: newer →
    (∀ j ∈ older, j.site ≠ n.val ∨ j.held = false) → i.site = n.val → i.held = true → s.frozen = false →
    (i.cause ≠ 0 ∨ (∀ c < 256, s.siteOf c = some n.val → s.readBackAfter c i.heldAt = true) →
      exec (.verdictRelease n) s = .next (s.releaseAt older.length i)) ∧
    (i.cause = 0 → (∃ c < 256, s.siteOf c = some n.val ∧ s.readBackAfter c i.heldAt = false) → exec (.verdictRelease n) s = .next s))

/-- CS_LATCH_WRITE, CS_SLOT_WRITE, CSL_GO, CSL_ABORT, CSL_DONE and CS_SCRUB, the writes where they reach the store or SEQ_CS_CTRL. A word
goes to the latch of its requester alone, and one of another slot discards what the latch held (R192, R194). The completing write empties
the latch; it tests the latched word with its check bits and writes the slot whole, valid or with the REASON of the failing test (R193,
R197), and without all six words of the slot it makes the slot invalid with REASON 2 (R198); under a playlist's lock the slot keeps its
contents and the write is counted and raises its event (R203). GO starts a load by asking HBM for its first image, or sets LREF while one
runs; ABORT stops the load after the image in progress (R199, R208); the end of a load, which does not come while an image is being read,
clears LBUSY and sets LDONE (R200). Each image is written as it comes, and counted as processed and as bad where it fails or its slot is
locked (R200, R203). The scrub of a valid slot leaves a clean one alone, writes a corrected one back, counted, and makes an uncorrectable
one invalid with REASON 0xD (R204). -/
def Obligations.ControlStore : Prop :=
  (∀ (s : State) (req : Req) (n : Fin 262144) (i : Fin 6) (d : BitVec 32), s.reaches req 0x4000000 = true →
    Completes (exec (.csLatchWrite req n i d) s) fun t =>
      (t.latch 0 req).key = n.val ∧ Assoc.get 0 (t.latch 0 req).words i.val = d.toNat ∧
      ((s.latch 0 req).key = n.val → ∀ j, j ≠ i.val → Assoc.get 0 (t.latch 0 req).words j = Assoc.get 0 (s.latch 0 req).words j) ∧
      ((s.latch 0 req).key ≠ n.val → (t.latch 0 req).words = [(i.val, d.toNat)]) ∧
      (∀ k, k ≠ 32 * 0 + req.idx → Assoc.get Latch.empty t.latches k = Assoc.get Latch.empty s.latches k) ∧ t = { s with latches := t.latches }) ∧
  (∀ (s : State) (req : Req) (n : Fin 262144) (c : BitVec 16) (l : Latch), s.reaches req 0x4000000 = true → l = s.latch 0 req →
    (s.slotLocked n.val = true → exec (.csSlotWrite req n c) s = .next (((s.emptyLatch 0 req).incSat SEQ_CS_WREFUSED).event srcSeqCsWlock)) ∧
    (s.slotLocked n.val = false → l.key ≠ n.val ∨ l.words.length ≠ 6 →
      exec (.csSlotWrite req n c) s = .next (((((s.emptyLatch 0 req).setSlot n.val { s.slot n.val with valid := false, reason := 2 }).put
        SEQ_CS_STATUS_LASTREASON 2).put SEQ_CS_STATUS_CHKERR 1).event srcSeqCsWerr)) ∧
    (s.slotLocked n.val = false → l.key = n.val → l.words.length = 6 →
      (c.toNat ≠ checkBits l.value n.val →
        exec (.csSlotWrite req n c) s = .next (((((s.emptyLatch 0 req).setSlot n.val ⟨l.value, c.toNat, false, 1, 0⟩).put
          SEQ_CS_STATUS_LASTREASON 1).put SEQ_CS_STATUS_CHKERR 1).event srcSeqCsWerr)) ∧
      (c.toNat = checkBits l.value n.val → mwReason l.value ≠ 0 →
        exec (.csSlotWrite req n c) s = .next (((s.emptyLatch 0 req).setSlot n.val ⟨l.value, c.toNat, false, mwReason l.value, 0⟩).put
          SEQ_CS_STATUS_LASTREASON (mwReason l.value))) ∧
      (c.toNat = checkBits l.value n.val → mwReason l.value = 0 →
        exec (.csSlotWrite req n c) s = .next ((s.emptyLatch 0 req).setSlot n.val ⟨l.value, c.toNat, true, 0, 0⟩)))) ∧
  (∀ s : State, s.reaches .host 0x80800 = true →
    (s.on SEQ_CS_STATUS_LBUSY = true → exec .cslGo s = .next (s.put SEQ_CS_STATUS_LREF 1)) ∧
    (s.on SEQ_CS_STATUS_LBUSY = false → s.get SEQ_CSL_COUNT = 0 →
      exec .cslGo s = .next { ((s.put SEQ_CS_STATUS_LBUSY 1).put SEQ_CSL_DONE 0).put SEQ_CSL_BAD 0 with
        seq := { s.seq with csl := some ⟨s.get64 SEQ_CSL_SRC_LO SEQ_CSL_SRC_HI, s.get SEQ_CSL_DST, 0, false, 0, 0, false⟩ } }) ∧
    (s.on SEQ_CS_STATUS_LBUSY = false → s.get SEQ_CSL_COUNT ≠ 0 →
      exec .cslGo s = .next (({ ((s.put SEQ_CS_STATUS_LBUSY 1).put SEQ_CSL_DONE 0).put SEQ_CSL_BAD 0 with
        seq := { s.seq with csl := some ⟨s.get64 SEQ_CSL_SRC_LO SEQ_CSL_SRC_HI, s.get SEQ_CSL_DST, s.get SEQ_CSL_COUNT, false, 0, 0, true⟩ } } :
          State).askImage 1 (s.get64 SEQ_CSL_SRC_LO SEQ_CSL_SRC_HI) 32))) ∧
  (∀ s : State, s.reaches .host 0x80800 = true →
    exec .cslAbort s = .next { s with seq := { s.seq with csl := s.seq.csl.map fun r => { r with aborted := true } } }) ∧
  (∀ s : State, (s.seq.csl = none → exec .cslDone s = .next s) ∧ (∀ r, s.seq.csl = some r →
    (r.reading = true → exec .cslDone s = .next s) ∧
    (r.reading = false → exec .cslDone s =
      .next { (s.put SEQ_CS_STATUS_LBUSY 0).put SEQ_CS_STATUS_LDONE 1 with seq := { s.seq with csl := none } }))) ∧
  (∀ (s : State) (n : Nat), (s.slotLocked n = true → n < 262144 → ∀ d, s.loadImage d n =
      (((s.inc SEQ_CSL_BAD).incSat SEQ_CS_WREFUSED).event srcSeqCsWlock).inc SEQ_CSL_DONE) ∧
    (s.slotLocked n = false → n < 262144 → ∀ bs : List (BitVec 8),
      (ofBytes ((bs.drop 24).take 2) = checkBits (ofBytes (bs.take 24)) n → mwReason (ofBytes (bs.take 24)) = 0 →
        s.loadImage (some bs) n = (s.setSlot n ⟨ofBytes (bs.take 24), ofBytes ((bs.drop 24).take 2), true, 0, 0⟩).inc SEQ_CSL_DONE) ∧
      (ofBytes ((bs.drop 24).take 2) ≠ checkBits (ofBytes (bs.take 24)) n ∨ mwReason (ofBytes (bs.take 24)) ≠ 0 →
        (s.loadImage (some bs) n).get SEQ_CSL_BAD = (s.get SEQ_CSL_BAD + 1) % 2 ^ 32 ∧
        (s.loadImage (some bs) n).get SEQ_CSL_DONE = (s.get SEQ_CSL_DONE + 1) % 2 ^ 32 ∧ ((s.loadImage (some bs) n).slot n).valid = false))) ∧
  (∀ (s : State) (d : Option (List (BitVec 8))) (r : LoaderRun), s.seq.csl = some r →
    s.cslStep d = ({ s.loadImage d (r.dst + r.done) with
      seq := { (s.loadImage d (r.dst + r.done)).seq with csl := some { r with done := r.done + 1, reading := false } } } : State).cslAsk) ∧
  (∀ (s : State) (n : Fin 262144) (f : BitVec 208), s.on SEQ_CS_CTRL_SCRUB_EN = false ∨ (s.slot n.val).valid = false →
    exec (.csScrub n f) s = .next s) ∧
  (∀ (s : State) (n : Fin 262144) (f : BitVec 208) (v : Slot), s.on SEQ_CS_CTRL_SCRUB_EN = true → (s.slot n.val).valid = true →
    v = (s.slot n.val).upsetBy f.toNat →
    (∀ w, readRow (v.row 192).1 (v.row 192).2 n.val = .clean w → Completes (exec (.csScrub n f) s) fun t =>
      t.slot n.val = { v with mw := w, chk := checkBits w n.val, upset := 0 } ∧ (∀ m, m ≠ n.val → t.slot m = s.slot m) ∧
      t = { s with seq := { s.seq with store := t.seq.store } }) ∧
    (∀ w, readRow (v.row 192).1 (v.row 192).2 n.val = .corrected w → Completes (exec (.csScrub n f) s) fun t =>
      t.slot n.val = { v with mw := w, chk := checkBits w n.val, upset := 0 } ∧ (∀ m, m ≠ n.val → t.slot m = s.slot m) ∧
      t.get SEQ_CS_CE = (s.get SEQ_CS_CE + 1) % 2 ^ 32 ∧ t.raised = s.raised ∧ t = { s with seq := { s.seq with store := t.seq.store }, cells := t.cells }) ∧
    (readRow (v.row 192).1 (v.row 192).2 n.val = .uncorrectable ∨ readRow (v.row 192).1 (v.row 192).2 n.val = .addressError →
      Completes (exec (.csScrub n f) s) fun t =>
        t.slot n.val = { v with valid := false, reason := 0xD } ∧ (∀ m, m ≠ n.val → t.slot m = s.slot m) ∧
        t.get SEQ_CS_UE = (s.get SEQ_CS_UE + 1) % 2 ^ 32 ∧ t.get SEQ_CS_LASTERR_SLOT = n.val ∧
        (∃ r, t.raised = s.raised ++ [r] ∧ r.src = srcSeqCsUerr) ∧ t.seq.running = s.seq.running ∧ t.mem = s.mem))

/-- PTF_TS_LATCH_WRITE, PTF_TS_CFG_WRITE, LVL_LS_LATCH_WRITE and LVL_LS_CFG_WRITE, where they reach the channel region. A word goes to the
latch of its requester and to nothing else (R340, R368). The write of the CFG word empties the latch and writes the seven words of the
shadow entry whole, and no active one; the words that the latch does not hold keep their shadow values, and an entry that fails a test of
R342 or R369 is stored, counted, recorded with its REASON and raised (R344, R369). While a commit locks its class the write is refused,
discards the latch and leaves the shadow entry (R76, R341). -/
def Obligations.TableEntries : Prop :=
  (∀ (s : State) (req : Req) (c : Fin 256) (k : Fin 1024) (i : Fin 6) (d : BitVec 32), s.reaches req 0x1000000 = true →
    exec (.ptfTsLatchWrite req c k i d) s = .next (s.latchWord 3 req (c.val * 1024 + k.val) i.val d.toNat)) ∧
  (∀ (s : State) (req : Req) (c : Fin 256) (k : Fin 256) (i : Fin 6) (d : BitVec 32), s.reaches req 0x1008000 = true →
    exec (.lvlLsLatchWrite req c k i d) s = .next (s.latchWord 4 req (c.val * 256 + k.val) i.val d.toNat)) ∧
  (∀ (s : State) (req : Req) (c : Fin 256) (k : Fin 1024) (d : BitVec 32) (w : Nat → Nat), s.reaches req 0x1000000 = true →
    w = (fun i => if i = 6 then d.toNat else s.merged 3 req (c.val * 1024 + k.val) (tsWord s.shadow c.val k.val) i) →
    (s.classLocked 0 = true → exec (.ptfTsCfgWrite req c k d) s = .next (s.emptyLatch 3 req).refuseRwc) ∧
    (s.classLocked 0 = false → tsReason s.clk.vset w = 0 →
      exec (.ptfTsCfgWrite req c k d) s = .next (((List.range 7).foldl (fun t i => t.putShadow (PTF_TS_W c.val k.val i) (w i))
        (s.emptyLatch 3 req)).cleanShadow 0 (tsOff c.val k.val))) ∧
    (s.classLocked 0 = false → tsReason s.clk.vset w ≠ 0 →
      exec (.ptfTsCfgWrite req c k d) s = .next ((((((((List.range 7).foldl (fun t i => t.putShadow (PTF_TS_W c.val k.val i) (w i))
        (s.emptyLatch 3 req)).cleanShadow 0 (tsOff c.val k.val)).incSat (PTF_CH_NREJ c.val)).incSat PTF_NREJ).put
          (PTF_CH_LASTREJ_REASON c.val) (tsReason s.clk.vset w)).put (PTF_CH_LASTREJ_ENTRY c.val) k.val).raise srcPtfTsrej c.val 0))) ∧
  (∀ (s : State) (req : Req) (c : Fin 256) (k : Fin 256) (d : BitVec 32) (w : Nat → Nat), s.reaches req 0x1008000 = true →
    w = (fun i => if i = 6 then d.toNat else s.merged 4 req (c.val * 256 + k.val) (lsWord s.shadow c.val k.val) i) →
    (s.classLocked 1 = true → exec (.lvlLsCfgWrite req c k d) s = .next (s.emptyLatch 4 req).refuseRwc) ∧
    (s.classLocked 1 = false → lsReason s.clk.vset w = 0 →
      exec (.lvlLsCfgWrite req c k d) s = .next (((List.range 7).foldl (fun t i => t.putShadow (LVL_LS_W c.val k.val i) (w i))
        (s.emptyLatch 4 req)).cleanShadow 1 (lsOff c.val k.val))) ∧
    (s.classLocked 1 = false → lsReason s.clk.vset w ≠ 0 →
      exec (.lvlLsCfgWrite req c k d) s = .next ((((((((List.range 7).foldl (fun t i => t.putShadow (LVL_LS_W c.val k.val i) (w i))
        (s.emptyLatch 4 req)).cleanShadow 1 (lsOff c.val k.val)).incSat (LVL_CH_NREJ c.val)).incSat LVL_NREJ).put
          (LVL_CH_LASTREJ_REASON c.val) (lsReason s.clk.vset w)).put (LVL_CH_LASTREJ_ENTRY c.val) k.val).raise srcLvlLsrej c.val 0)))

/-- APG_IW_LATCH, APG_IWCHK_WRITE, APG_SCRUB, APG_TLD_GO, APG_TLD_ABORT and APG_TLD_DONE, the writes where they reach the program area or
APG_TLD_CTRL. While the programs are locked no write reaches them, and each is counted with PWREF and its event (R306). Otherwise a word
goes to the latch of its requester (R301), and the completing write empties the latch and writes the instruction whole, valid or with the
REASON of the failing test of R300, which sets CHKERR and raises its event (R301). The table loader starts with GO by asking HBM for its
first image, or sets TLREF while one runs or where FIRST plus COUNT exceeds the table (R315); ABORT stops it after the image in progress
(R318); its end, which does not come while an image is being read, clears TLBUSY and sets TLDONE. The scrub of a valid instruction follows
the control store's (R304): a clean or corrected one is written back, an uncorrectable one loses VALID with REASON 0xD. -/
def Obligations.PatternGenerators : Prop :=
  (∀ (s : State) (req : Req) (g : Fin 2) (n : Fin 4096) (i : Fin 2) (d : BitVec 32) (c : BitVec 16), s.reaches req 0x5000000 = true →
    (s.apgLocked = true →
      exec (.apgIwLatch req g n i d) s = .next (((s.incSat APG_PWREFUSED).put APG_STATUS_PWREF 1).event srcApgPlock) ∧
      exec (.apgIwchkWrite req g n c) s =
        .next ((((s.emptyLatch (1 + g.val) req).incSat APG_PWREFUSED).put APG_STATUS_PWREF 1).event srcApgPlock)) ∧
    (s.apgLocked = false → exec (.apgIwLatch req g n i d) s = .next (s.latchWord (1 + g.val) req n.val i.val d.toNat))) ∧
  (∀ (s : State) (req : Req) (g : Fin 2) (n : Fin 4096) (c : BitVec 16) (l : Latch) (i : Nat), s.reaches req 0x5000000 = true → s.apgLocked = false →
    l = s.latch (1 + g.val) req → i = Assoc.get 0 l.words 0 + 2 ^ 32 * Assoc.get 0 l.words 1 →
    (l.key ≠ n.val ∨ l.words.length ≠ 2 → exec (.apgIwchkWrite req g n c) s =
      .next ((((s.emptyLatch (1 + g.val) req).setIw g.val n.val { s.iw g.val n.val with valid := false, reason := 2 }).put APG_STATUS_CHKERR 1).event srcApgPwerr)) ∧
    (l.key = n.val → l.words.length = 2 →
      (c.toNat ≠ codeBits 64 12 i n.val → exec (.apgIwchkWrite req g n c) s =
        .next ((((s.emptyLatch (1 + g.val) req).setIw g.val n.val ⟨i, c.toNat, false, 1, 0⟩).put APG_STATUS_CHKERR 1).event srcApgPwerr)) ∧
      (c.toNat = codeBits 64 12 i n.val → iwReason i ≠ 0 → exec (.apgIwchkWrite req g n c) s =
        .next ((((s.emptyLatch (1 + g.val) req).setIw g.val n.val ⟨i, c.toNat, false, iwReason i, 0⟩).put APG_STATUS_CHKERR 1).event srcApgPwerr)) ∧
      (c.toNat = codeBits 64 12 i n.val → iwReason i = 0 → exec (.apgIwchkWrite req g n c) s =
        .next ((s.emptyLatch (1 + g.val) req).setIw g.val n.val ⟨i, c.toNat, true, 0, 0⟩)))) ∧
  (∀ (s : State) (g : Fin 2) (n : Fin 4096) (f : BitVec 80), s.on APG_CTRL_SCRUB_EN = false ∨ (s.iw g.val n.val).valid = false →
    exec (.apgScrub g n f) s = .next s) ∧
  (∀ (s t : State) (g : Fin 2) (n : Fin 4096) (f : BitVec 80) (v : Slot), s.on APG_CTRL_SCRUB_EN = true → (s.iw g.val n.val).valid = true →
    v = (s.iw g.val n.val).upsetBy f.toNat →
    (∀ w, s.iwRead g.val n.val f.toNat = (some w, t) →
      exec (.apgScrub g n f) s = .next (t.setIw g.val n.val { v with mw := w, chk := codeBits 64 12 w n.val, upset := 0 })) ∧
    (s.iwRead g.val n.val f.toNat = (none, t) →
      exec (.apgScrub g n f) s = .next (t.setIw g.val n.val { v with valid := false, reason := 0xD }))) ∧
  (∀ (s : State) (n : Nat), s.reaches .host 0x180010 = true → n = (if s.get APG_TLD_TGT_TBL = 3 then 4096 else 65536) →
    (s.on APG_STATUS_TLBUSY = true ∨ n < s.get APG_TLD_TGT_FIRST + s.get APG_TLD_COUNT → exec .apgTldGo s = .next (s.put APG_STATUS_TLREF 1)) ∧
    (s.on APG_STATUS_TLBUSY = false → s.get APG_TLD_TGT_FIRST + s.get APG_TLD_COUNT ≤ n → ∀ r : LoaderRun,
      r = ⟨s.get64 APG_TLD_SRC_LO APG_TLD_SRC_HI, s.get APG_TLD_TGT_FIRST, s.get APG_TLD_COUNT, false,
        s.get APG_TLD_TGT_GEN * 4 + s.get APG_TLD_TGT_TBL, 0, decide (0 < s.get APG_TLD_COUNT)⟩ →
      (s.get APG_TLD_COUNT = 0 → exec .apgTldGo s = .next { ((s.put APG_STATUS_TLBUSY 1).put APG_TLD_DONE 0).put APG_TLD_BAD 0 with
        apg := { s.apg with tld := some r } }) ∧
      (s.get APG_TLD_COUNT ≠ 0 → exec .apgTldGo s = .next (({ ((s.put APG_STATUS_TLBUSY 1).put APG_TLD_DONE 0).put APG_TLD_BAD 0 with
        apg := { s.apg with tld := some r } } : State).askImage 2 (s.get64 APG_TLD_SRC_LO APG_TLD_SRC_HI) (tldSize r.target))))) ∧
  (∀ s : State, s.reaches .host 0x180010 = true →
    exec .apgTldAbort s = .next { s with apg := { s.apg with tld := s.apg.tld.map fun r => { r with aborted := true } } }) ∧
  (∀ s : State, (s.apg.tld = none → exec .apgTldDone s = .next s) ∧ (∀ r, s.apg.tld = some r →
    (r.reading = true → exec .apgTldDone s = .next s) ∧
    (r.reading = false → exec .apgTldDone s =
      .next { (s.put APG_STATUS_TLBUSY 0).put APG_STATUS_TLDONE 1 with apg := { s.apg with tld := none } })))

/-- SEG_DIDX_WRITE, DESCRIPTOR_WRITE, STREAM_OPEN, STREAM_CLOSE, STREAM_PROD_WRITE and STREAM_FETCH, the writes where they reach their
register. A write of SEG_DIDX loads the staging words of its own requester from the descriptor (R262). WRITE makes them the descriptor, with
its validity by R261; a descriptor that a window holds keeps its value, and the refusal is counted and raises SEG_WLOCK (R268). OPEN of a
channel that is open leaves it; of a closed one it clears the counts and the buffer and opens it in PAUSE, or sets RATEREF where its ring is
not configured or the rates add up to more than 48 GB/s (R276); that a SIZE outside 12 to 32 counts as a ring that is not configured is the
model's choice (log entry 109). CLOSE is refused with CLOSEREF while the channel runs, and otherwise clears it (R282). A producer count that
is not below the last one nor more than a ring above FETCH takes effect; any other is ignored with PRODERR (R278). Bytes fetched from the
ring's next address join the end of the buffer of their channel and move FETCH on, as many as were produced, as the buffer has room for and
as lie before the ring's end (R278, R279), without those that an underrun has missed (R281); a channel that is closed, a device that may not
read the host and any other address fetch nothing. -/
def Obligations.SegmentsAndStreams : Prop :=
  (∀ (s : State) (req : Req) (k : Fin 65536), s.reaches req 0x100000 = true →
    exec (.segDidxWrite req k) s = .next ((((s.put (SEG_DIDX.per req) k.val).put ((SEG_DW 0).per req) (s.segDesc k.val).dw0).put
      ((SEG_DW 1).per req) (s.segDesc k.val).dw1).put ((SEG_DW 2).per req) (s.segDesc k.val).dw2)) ∧
  (∀ (s : State) (req : Req) (k r : Nat), s.reaches req 0x100010 = true → k = s.get (SEG_DIDX.per req) →
    r = segReason (s.get ((SEG_DW 0).per req)) (s.get ((SEG_DW 1).per req)) (s.get ((SEG_DW 2).per req)) →
    (s.segHolders k ≠ 0 → exec (.descriptorWrite req) s = .next ((s.incSat SEG_CREFUSED).event srcSegWlock)) ∧
    (s.segHolders k = 0 → Completes (exec (.descriptorWrite req) s) fun t =>
      t.segDesc k = ⟨s.get ((SEG_DW 0).per req), s.get ((SEG_DW 1).per req), s.get ((SEG_DW 2).per req), r == 0, r⟩ ∧
      (∀ j, j ≠ k → t.segDesc j = s.segDesc j) ∧ t = { s with seg := { s.seg with desc := t.seg.desc } })) ∧
  (∀ (s u : State) (n : Fin 8) (w : Fin 4) (bad : Prop), s.reaches .host 0x100400 = true → u = s.put (SEG_STR_CTRL_WIDTH n.val) w.val →
    (bad ↔ u.get (SEG_STR_SIZE n.val) < 12 ∨ 32 < u.get (SEG_STR_SIZE n.val) ∨
      u.rateTooHigh (fun m => m == n.val || u.on (SEG_STR_STATUS_OPEN m)) = true) →
    (s.on (SEG_STR_STATUS_OPEN n.val) = true → exec (.streamOpen n w) s = .next s) ∧
    (s.on (SEG_STR_STATUS_OPEN n.val) = false → bad → exec (.streamOpen n w) s = .next (u.put (SEG_STR_STATUS_RATEREF n.val) 1)) ∧
    (s.on (SEG_STR_STATUS_OPEN n.val) = false → ¬ bad →
      exec (.streamOpen n w) s = .next (((u.strClear n.val).put (SEG_STR_STATUS_OPEN n.val) 1).put (SEG_STR_STATUS_RUN n.val) 0))) ∧
  (∀ (s : State) (n : Fin 8), s.reaches .host 0x100400 = true →
    exec (.streamClose n) s = .next (if s.on (SEG_STR_STATUS_RUN n.val) then s.put (SEG_STR_STATUS_CLOSEREF n.val) 1
      else (s.strClear n.val).put (SEG_STR_STATUS_OPEN n.val) 0)) ∧
  (∀ (s : State) (n : Fin 8) (hi : BitVec 32) (v old top : Nat), s.reaches .host 0x10041C = true →
    v = s.get (SEG_STR_PROD_LO n.val) + 2 ^ 32 * hi.toNat → old = Assoc.get 0 s.seg.prod n.val →
    top = s.get64 (SEG_STR_FETCH_LO n.val) (SEG_STR_FETCH_HI n.val) + 2 ^ s.get (SEG_STR_SIZE n.val) →
    (old ≤ v ∧ v ≤ top → exec (.streamProdWrite n hi) s = .next { s.put (SEG_STR_PROD_HI n.val) hi.toNat with
      seg := { s.seg with prod := Assoc.set 0 s.seg.prod n.val v } }) ∧
    (v < old ∨ top < v → exec (.streamProdWrite n hi) s =
      .next ((s.put64 (SEG_STR_PROD_LO n.val) (SEG_STR_PROD_HI n.val) old).put (SEG_STR_STATUS_PRODERR n.val) 1))) ∧
  (∀ (s : State) (n : Fin 8) (a : BitVec 64) (d : List Byte) (f k m : Nat), f = s.get64 (SEG_STR_FETCH_LO n.val) (SEG_STR_FETCH_HI n.val) →
    k = min d.length (min (Assoc.get 0 s.seg.prod n.val - f) (min (524288 - (s.strBuf n.val).length)
      (2 ^ s.get (SEG_STR_SIZE n.val) - f % 2 ^ s.get (SEG_STR_SIZE n.val)))) → m = min k (Assoc.get 0 s.seg.skip n.val) →
    (s.on (SEG_STR_STATUS_OPEN n.val) = false ∨ s.dmaOn = false ∨ a.toNat ≠ s.ringAddr n.val f → exec (.streamFetch n a d) s = .next s) ∧
    (s.on (SEG_STR_STATUS_OPEN n.val) = true → s.dmaOn = true → a.toNat = s.ringAddr n.val f → Completes (exec (.streamFetch n a d) s) fun t =>
      t.strBuf n.val = s.strBuf n.val ++ (d.take k).drop m ∧ Assoc.get 0 t.seg.skip n.val = Assoc.get 0 s.seg.skip n.val - m ∧
      (∀ j, j ≠ n.val → t.strBuf j = s.strBuf j ∧ Assoc.get 0 t.seg.skip j = Assoc.get 0 s.seg.skip j) ∧
      t.cells = (s.put64 (SEG_STR_FETCH_LO n.val) (SEG_STR_FETCH_HI n.val) (f + k)).cells ∧
      t = { s with cells := t.cells, seg := { s.seg with buf := t.seg.buf, skip := t.seg.skip } }))

/-- PLAYLIST_START, PLAYLIST_WITHDRAW, START_CHECK_DONE and HEADS_LOADED, the writes where they reach SEG_PL_CTRL. START reads the image and
queues it with QUEUED and QCHECK set, or is refused with BUSY while one is queued (R271), and at AT with LATE while the gate is closed or
for a GVC not above the present one by more than 16 (R273). An image that fails its own tests is queued with its code and locks no slot, for
the check of R205 never begins (log entry 18). WITHDRAW refuses the queued playlist with WITHDRAWN and has no effect without one (R274). A
start check that fails refuses it with the code of the first test that failed (R272), a POWER refusal being counted in PMG_NADMREF with its
event too (R785); one that passes gives the playlist the units it claims, and in Budding begins the rise to Bloom (R779). The refusal clears
the queue and is recorded, and leaves the running playlist. The heads that find a head slot are loaded and QREADY sets once all are (R229,
R230, R273), which waits for Bloom; without a playlist that passed its check nothing is loaded. -/
def Obligations.PlaylistQueue : Prop :=
  (∀ s : State, s.reaches .host 0x100110 = true →
    (s.seq.queued.isSome = true →
      exec .playlistStart s = .next ((((s.put SEG_PL_STATUS_REFUSE 1).put SEG_PL_STATUS_REFUSED 1).inc SEG_PL_NREFUSE).event srcSegPlref)) ∧
    (s.seq.queued = none → s.on SEG_PL_CTRL_WHEN = true → s.gateOpen = false ∨ s.get64 SEG_PL_AT_LO SEG_PL_AT_HI ≤ s.clk.gvc + 16 →
      exec .playlistStart s = .next ((((s.put SEG_PL_STATUS_REFUSE 0xE).put SEG_PL_STATUS_REFUSED 1).inc SEG_PL_NREFUSE).event srcSegPlref))) ∧
  (∀ (s u : State) (img : List Byte) (unread : Bool) (start : Option Nat) (p : Playlist), s.reaches .host 0x100110 = true → s.seq.queued = none →
    (s.on SEG_PL_CTRL_WHEN = false ∧ start = none ∨ s.on SEG_PL_CTRL_WHEN = true ∧ s.gateOpen = true ∧
      s.clk.gvc + 16 < s.get64 SEG_PL_AT_LO SEG_PL_AT_HI ∧ start = some (s.get64 SEG_PL_AT_LO SEG_PL_AT_HI)) →
    s.readImage (s.get64 SEG_PL_ADDR_LO SEG_PL_ADDR_HI) = (img, unread, u) → p = imgPlaylist img start unread →
    (∀ q : Playlist, (p.bad = 0 → q = p) →
      (p.bad ≠ 0 → q = { p with first := 1, last := 0, roots := [], claim := 0, segs := if unread then [] else p.segs }) →
      exec .playlistStart s = .next ((({ u with seq := { u.seq with queued := some q, queuedReady := false } }.put SEG_PL_STATUS_QUEUED 1).put
        SEG_PL_STATUS_QCHECK 1).put SEG_PL_NUM_QUEUED p.number))) ∧
  (∀ s : State, s.reaches .host 0x100110 = true →
    (s.seq.queued = none → exec .playlistWithdraw s = .next s) ∧
    (s.seq.queued.isSome = true → exec .playlistWithdraw s = .next (s.refusePlaylist 0xF))) ∧
  (∀ (s : State) (code : Nat), code < 32 →
    (s.refusePlaylist code).seq.queued = none ∧ (s.refusePlaylist code).get SEG_PL_STATUS_REFUSE = code ∧
    (s.refusePlaylist code).get SEG_PL_STATUS_REFUSED = 1 ∧ (s.refusePlaylist code).get SEG_PL_STATUS_QUEUED = 0 ∧
    (s.refusePlaylist code).get SEG_PL_STATUS_QCHECK = 0 ∧ (s.refusePlaylist code).get SEG_PL_STATUS_QREADY = 0 ∧
    (s.refusePlaylist code).get SEG_PL_NREFUSE = (s.get SEG_PL_NREFUSE + 1) % 2 ^ 32 ∧
    (∃ r, (s.refusePlaylist code).raised = s.raised ++ [r] ∧ r.src = srcSegPlref) ∧ (s.refusePlaylist code).seq.running = s.seq.running ∧
    (∀ n < 16, ∀ p, s.seq.queued = some p → s.seq.queuedReady = true → bitAt p.claim n = true → s.get (TIU_STATUS_OWNER n) = tiuPlay →
      (s.refusePlaylist code).get (TIU_STATUS_OWNER n) = 0)) ∧
  (∀ s : State, (s.seq.queued = none ∨ s.seq.queuedReady = true → exec .startCheckDone s = .next s) ∧
    (∀ p, s.seq.queued = some p → s.seq.queuedReady = false →
      (s.startCode p ≠ 0 → s.startCode p ≠ 0xA → exec .startCheckDone s = .next (s.refusePlaylist (s.startCode p))) ∧
      (s.startCode p = 0xA → exec .startCheckDone s = .next (((s.inc PMG_NADMREF).raise srcPwrAdmitRef p.number 0).refusePlaylist 0xA)))) ∧
  (∀ (s u : State) (p : Playlist), s.seq.queued = some p → s.seq.queuedReady = false → s.startCode p = 0 →
    u = { s with seq := { s.seq with queuedReady := true }
                 cells := (((List.range 16).filter fun n => bitAt p.claim n).foldl (fun t n => t.put (TIU_STATUS_OWNER n) tiuPlay) s).cells } →
    ((u.put SEG_PL_STATUS_QCHECK 0).get PMG_STATUS_STATE ≠ 2 → exec .startCheckDone s = .next (u.put SEG_PL_STATUS_QCHECK 0)) ∧
    ((u.put SEG_PL_STATUS_QCHECK 0).get PMG_STATUS_STATE = 2 → exec .startCheckDone s =
      .next (((u.put SEG_PL_STATUS_QCHECK 0).put PMG_STATUS_STATE 5).raise srcPmgState 5 0))) ∧
  (∀ s : State, (s.seq.queued = none ∨ s.seq.queuedReady = false → exec .headsLoaded s = .next s) ∧
    (∀ (p : Playlist) (u : State), s.seq.queued = some p → s.seq.queuedReady = true → u = (State.loadHeads p p.heads s).setHeads →
      (s.get PMG_STATUS_STATE = 3 ∧ (∀ k ∈ p.heads, (u.headOf k).isSome = true) →
        exec .headsLoaded s = .next ((u.put SEG_PL_STATUS_QREADY 1).put SEQ_STATUS_HEADSRDY 1)) ∧
      (s.get PMG_STATUS_STATE ≠ 3 ∨ (∃ k ∈ p.heads, u.headOf k = none) → exec .headsLoaded s = .next u))) ∧
  (∀ (s : State) (p : Playlist) (k : Nat × Nat × Nat × List Nat) (ks : List (Nat × Nat × Nat × List Nat)),
    ((s.headOf k).isSome = true ∨ 64 ≤ s.seq.heads.length → State.loadHeads p (k :: ks) s = State.loadHeads p ks s) ∧
    (s.headOf k = none → s.seq.heads.length < 64 → ∀ rs u, State.readRecords p 512 (k.2.1, k.2.2.1) s = (rs, u) →
      State.loadHeads p (k :: ks) s = State.loadHeads p ks { u with seq := { u.seq with heads := u.seq.heads ++ [⟨k.1, k.2.1, k.2.2.1, k.2.2.2, rs⟩] } }))

/-- REF_LOSS, REF_BACK, OVEN_OK_RISE, WARMUP_DONE, OVEN_LOW, RELOCK, REVAL_DONE, VCLK_UNLOCK, GATE_OPEN and GATE_HOLD, each in every state;
RELOCK and GATE_HOLD where they reach CLK_CTRL. A lost REFCLK sets REFLOST, switches the always-on clock, closes the gate and ends
measurements with CLOCK (R116, R439); its return clears both, and after the first time raises REF_BACK and with AUTORELOCK relocks (R117). A
rise of OVEN_OK starts the warm-up count at 0, which sets WARM to 0 at its end (R118), and a fall sets WARM and restarts the count (R119). A
relock is refused with RLREF while a playlist runs or a start or join is pending, and otherwise begins with the configured setting (R123):
the gate closes, the setting is in force and REVAL sets; an invalid setting only sets CFGERR (R122), also after a lost lock, which is the
model's reading (log entry 104). The end of the revalidation clears REVAL and leaves the flags of the entries that failed their check code
cleared (R347). A lost lock closes the gate, sets UNLOCKED and relocks while REFCLK is there (R124). GATE_OPEN, which comes once lock has
held, opens the gate with the next GVC unless HOLD keeps it closed (R125, R151), and does nothing where the gate is open, a start or join
waits, the device is frozen, REFCLK is lost or VCLK neither locks nor is locked. A closed gate leaves synchronisation, and with an open one
the playlist ends (R128). -/
def Obligations.ReferenceAndLock : Prop :=
  (∀ s : State, (s.on CLK_STATUS_REFLOST = true → exec .refLoss s = .next s) ∧
    (s.on CLK_STATUS_REFLOST = false → ∀ u : State,
      u = ((((s.put CLK_STATUS_REFLOST 1).put CLK_STATUS_AOSRC 1).closeGate.put CLK_STATUS_LOCKED 0).tiuEndAll 4).tiuCalDrop →
      exec .refLoss s = .next ((({ u with
        clk := { u.clk with relocking := false }
        cal := { u.cal with running := u.cal.running.map fun e => { e with refbad := e.refbad || u.timingPhase e } } } : State).setCond srcRefLoss true).event
          srcRefLoss))) ∧
  (∀ s u v : State, u = { s with cal := { s.cal with running := s.cal.running.map fun e =>
        if e.kind = 4 ∧ s.time.rc < e.began + 10000 then { e with refbad := false } else e } } →
    v = { ((u.put CLK_STATUS_REFLOST 0).put CLK_STATUS_AOSRC 0).setCond srcRefLoss false with clk := { s.clk with refSeen := true } } →
    (s.on CLK_STATUS_REFLOST = false → exec .refBack s = .next s) ∧
    (s.on CLK_STATUS_REFLOST = true → s.clk.refSeen = false → exec .refBack s = .next v) ∧
    (s.on CLK_STATUS_REFLOST = true → s.clk.refSeen = true → exec .refBack s =
      .next (if (v.event srcRefBack).on CLK_CTRL_AUTORELOCK then (v.event srcRefBack).startRelock (v.event srcRefBack).cfgSetting
        else v.event srcRefBack))) ∧
  (∀ (s : State) (v : VSet), (v.valid = false → s.startRelock v = s.put CLK_STATUS_CFGERR 1) ∧
    (v.valid = true → ∀ u : State, u = ((((s.closeGate.put CLK_STATUS_LOCKED 0).put CLK_STATUS_CFGERR 0).put PTF_STATUS_REVAL 1).put LVL_STATUS_REVAL 1) →
      s.startRelock v = { u with clk := { u.clk with vset := v, relocking := true, phase := 0 } })) ∧
  (∀ s : State, (s.gateOpen = false → s.closeGate = s.loseInsync) ∧ s.closeGate.gateOpen = false ∧ s.closeGate.insync = false ∧
    (s.gateOpen = true → s.closeGate.seq.running = none)) ∧
  (∀ s : State, (s.on CLK_STATUS_OVEN = true → exec .ovenOkRise s = .next s) ∧
    (s.on CLK_STATUS_OVEN = false → exec .ovenOkRise s =
      .next { (s.put CLK_STATUS_OVEN 1).put CLK_WARM_S 0 with clk := { s.clk with ovenRc := 0 } }) ∧
    (s.on CLK_STATUS_OVEN = false → exec .warmupDone s = .next s ∧ exec .ovenLow s = .next s) ∧
    (s.on CLK_STATUS_OVEN = true → exec .warmupDone s =
      .next ((s.put CLK_STATUS_WARM 0).put CLK_WARM_S (max (s.get CLK_WARM_S) (s.get CLK_WARMUP)))) ∧
    (s.on CLK_STATUS_OVEN = true → ∀ u : State, u = (((s.put CLK_STATUS_OVEN 0).put CLK_STATUS_WARM 1).put CLK_WARM_S 0).event srcOvenLow →
      exec .ovenLow s = .next { u with clk := { u.clk with ovenRc := 0 } })) ∧
  (∀ s : State, s.reaches .host 0x20000 = true →
    (s.seq.running.isSome = true ∨ s.startPending = true → exec .relock s = .next (s.put CLK_STATUS_RLREF 1)) ∧
    (s.seq.running = none → s.startPending = false → exec .relock s = .next ((s.put CLK_STATUS_RLREF 0).startRelock s.cfgSetting))) ∧
  (∀ (s : State) (ts ls : List (BitVec 28)), (s.on PTF_STATUS_REVAL = false → exec (.revalDone ts ls) s = .next s) ∧
    (s.on PTF_STATUS_REVAL = true → exec (.revalDone ts ls) s = .next { (s.put PTF_STATUS_REVAL 0).put LVL_STATUS_REVAL 0 with
      cmt := { s.cmt with flagCleared := ts.map (·.toNat) ++ ls.map (·.toNat) } })) ∧
  (∀ s : State, (s.on CLK_STATUS_LOCKED = false → exec .vclkUnlock s = .next s) ∧
    (s.on CLK_STATUS_LOCKED = true → ∀ u : State, u = ((s.closeGate.put CLK_STATUS_LOCKED 0).put CLK_STATUS_UNLOCKED 1).event srcVclkUnlock →
      (u.on CLK_STATUS_REFLOST = true → exec .vclkUnlock s = .next { u with clk := { u.clk with relocking := false } }) ∧
      (u.on CLK_STATUS_REFLOST = false → exec .vclkUnlock s = .next (u.startRelock u.cfgSetting)))) ∧
  (∀ s u : State, u = (if s.clk.relocking then s.relocked else s) →
    (s.gateOpen = true ∨ s.clk.startMsg.isSome = true ∨ s.frozen = true ∨ s.on CLK_STATUS_REFLOST = true ∨
      s.clk.relocking = false ∧ s.on CLK_STATUS_LOCKED = false → exec .gateOpen s = .next s) ∧
    (s.gateOpen = false → s.clk.startMsg = none → s.frozen = false → s.on CLK_STATUS_REFLOST = false →
      s.clk.relocking = true ∨ s.on CLK_STATUS_LOCKED = true →
      (u.on CLK_CTRL_HOLD = true → exec .gateOpen s = .next u) ∧
      (u.on CLK_CTRL_HOLD = false → exec .gateOpen s = .next (u.openGate (u.clk.gvc + 1)).toBudding))) ∧
  (∀ (s : State) (g : Nat), (s.openGate g).gateOpen = true ∧ (s.openGate g).clk = s.clk ∧ s.relocked.on CLK_STATUS_LOCKED = true ∧
    s.relocked.clk.relocking = false ∧ s.relocked.get CLK_NRELOCK = (s.get CLK_NRELOCK + 1) % 2 ^ 32) ∧
  (∀ s : State, s.reaches .host 0x20000 = true → exec (.gateHold false) s = .next (s.put CLK_CTRL_HOLD 0) ∧
    exec (.gateHold true) s = .next (s.put CLK_CTRL_HOLD 1).closeGate)

/-- FORM, DISCOVERY_RECEIVE, LINK_MEASURE, ID_ASSIGN_RECEIVE, H_RECEIVE, GC_PATH_PROBE and FORMATION_DONE, each in every state; FORM where
it reaches CLK_GRP_CTRL. FORM during a formation, or in a started group without FORCE, is refused with FAIL 3 (R129); otherwise the device
dissolves its group, its gate closing where the group had started, and sends the first discovery (R130). The first discovery dissolves the
old group too, sets FORMING and goes on one hop deeper; beyond depth 8 or the 8,192nd device the device stays out as its own root with H = 0
(R130, R132). A hop above 56 rc is marked TOOLONG and no tree link, and a device whose place hangs on it leaves the formation (R131). A
device keeps the ID it asks for, and otherwise takes the lowest one that is free (R133). H sets CMT_HOPS and the device's place, and is sent
on where there are downstream links (R130). The end of the formation takes the device out of it; a failed one, by an ID conflict with FAIL 1
or a path that is not 128 H + 16 with FAIL 2, leaves it its own root and no routes (R132, R134, R141); a formed one sets FORMED, the size
and the left-out count at the root, DET on the tree links and the routes (R691, R698). -/
def Obligations.GroupFormation : Prop :=
  (∀ s : State, s.reaches .host 0x20020 = true →
    (s.on CLK_GRP_STATUS_FORMING = true ∨ s.on CLK_GRP_STATUS_STARTED = true ∧ s.on CLK_GRP_CTRL_FORCE = false →
      exec .form s = .next (s.put CLK_GRP_STATUS_FAIL 3)) ∧
    (s.on CLK_GRP_STATUS_FORMING = false → s.on CLK_GRP_STATUS_STARTED = false ∨ s.on CLK_GRP_CTRL_FORCE = true → ∀ u : State,
      u = ((s.dissolve.put CLK_GRP_STATUS_FORMING 1).put CLK_GRP_STATUS_FORMED 0).send (.discovery 1) →
      exec .form s = .next { u with clk := { u.clk with formRoot := true, place := none } })) ∧
  (∀ s u : State, s.ownRoot = ((((s.put CMT_HOPS 0).put CLK_DEPTH_D 0).put CLK_DEPTH_UP 0xF).put CLK_DEPTH_DOWN 0).put CMT_STATUS_ROOT 1 ∧
    (u = (if s.on CLK_GRP_STATUS_STARTED then s.closeGate.put CLK_GRP_STATUS_STARTED 0 else s) → s.dissolve = u.ownRoot)) ∧
  (∀ (s : State) (p : Fin 4) (d : Fin 16) (b : Bool), (s.on CLK_GRP_STATUS_FORMING = true → exec (.discoveryReceive p d b) s = .next s) ∧
    (s.on CLK_GRP_STATUS_FORMING = false →
      (b = true ∨ 8 < d.val → exec (.discoveryReceive p d b) s = .next (s.dissolve.put CLK_GRP_STATUS_FORMED 0)) ∧
      (b = false → d.val ≤ 8 → ∀ u : State,
        u = ((s.dissolve.put CLK_GRP_STATUS_FORMED 0).put CLK_GRP_STATUS_FORMING 1).send (.discovery (d.val + 1)) →
        exec (.discoveryReceive p d b) s = .next { u with clk := { u.clk with formRoot := false, place := some (p.val, d.val) } }))) ∧
  (∀ (s u : State) (p : Fin 4) (raw : BitVec 16), u = ((s.put (CLK_HOPLAT_RAW p.val) raw.toNat).flag (CLK_HOPLAT_TREE p.val)
      (decide (raw.toNat ≤ 896))).flag (CLK_HOPLAT_TOOLONG p.val) (decide (896 < raw.toNat)) →
    (raw.toNat ≤ 896 ∨ (s.clk.place.map (·.1)) ≠ some p.val → exec (.linkMeasure p raw) s = .next u) ∧
    (896 < raw.toNat → (s.clk.place.map (·.1)) = some p.val → exec (.linkMeasure p raw) s =
      .next { u.put CLK_GRP_STATUS_FORMING 0 with clk := { s.clk with place := none } })) ∧
  (∀ (s : State) (taken : List (BitVec 13)) (i : Nat), i = (if s.on CLK_ID_REQ_VALID then s.get CLK_ID_REQ_ID else lowestFree (taken.map (·.toNat))) →
    exec (.idAssignReceive taken) s = .next ((s.put CLK_DEVID i).send (.idsTaken (insertNat i (taken.map (·.toNat)))))) ∧
  (∀ l : List Nat, lowestFree l ∉ l ∧ ∀ m, m < lowestFree l → m ∈ l) ∧
  (∀ (s u : State) (h : Fin 9) (down : BitVec 4), u = (s.put CMT_HOPS h.val).put CLK_DEPTH_DOWN down.toNat → ∀ v : State,
    (∀ q d, s.clk.place = some (q, d) → v = ((u.put CLK_DEPTH_UP q).put CLK_DEPTH_D d).put CMT_STATUS_ROOT 0) →
    (s.clk.place = none → v = ((u.put CLK_DEPTH_UP 0xF).put CLK_DEPTH_D 0).put CMT_STATUS_ROOT 1) →
    exec (.hReceive h down) s = .next (if down = 0 then v else v.send (.hDepth h.val))) ∧
  (∀ (s : State) (m : BitVec 16), exec (.gcPathProbe m) s = .next (s.put CLK_GC_PATH m.toNat)) ∧
  (∀ (s u : State) (c : Bool) (n l : BitVec 14) (rs : List (BitVec 13 × Fin 4)) (tell : Bool → State → State), (s.on CLK_GRP_STATUS_FORMING = false →
      exec (.formationDone c n l rs) s = .next s) ∧
    (s.on CLK_GRP_STATUS_FORMING = true → u = { s.put CLK_GRP_STATUS_FORMING 0 with clk := { s.clk with formRoot := false, place := none } } →
      (tell = fun f t => if s.on CLK_DEPTH_DOWN then t.send (.formDone f) else t) →
      (s.clk.formRoot = false →
        exec (.formationDone c n l rs) s = .next (if c then (u.ownRoot.setDet).setRoutes [] else ((tell false u).setDet).setRoutes rs)) ∧
      (s.clk.formRoot = true →
        (c = true → exec (.formationDone c n l rs) s = .next (((tell true (u.put CLK_GRP_STATUS_FAIL 1)).ownRoot.setDet).setRoutes [])) ∧
        (c = false → s.get CLK_GC_PATH ≠ 128 * s.get CMT_HOPS + 16 →
          exec (.formationDone c n l rs) s = .next (((tell true (u.put CLK_GRP_STATUS_FAIL 2)).ownRoot.setDet).setRoutes [])) ∧
        (c = false → s.get CLK_GC_PATH = 128 * s.get CMT_HOPS + 16 → exec (.formationDone c n l rs) s =
          .next (((tell false (((u.put CLK_GRP_STATUS_FORMED 1).put CLK_GRP_SIZE n.toNat).put CLK_GRP_LEFTOUT l.toNat)).setDet).setRoutes rs))))) ∧
  (∀ s : State, (∀ p < 4, s.setDet.on (LNK_AZ_STATUS_DET p) = (s.get CLK_DEPTH_UP == p || bitAt (s.get CLK_DEPTH_DOWN) p)) ∧
    (∀ i < 2048, (s.setRoutes []).get (LNK_ROUTE i) = 0) ∧
    (∀ (rs : List (BitVec 13 × Fin 4)) (n : BitVec 13) (p : Fin 4),
      bits ((s.setRoutes (rs ++ [(n, p)])).get (LNK_ROUTE (n.toNat / 4))) (8 * (n.toNat % 4)) 8 = 0x80 + p.val ∧
      (∀ i, i < 2048 → i ≠ n.toNat / 4 → (s.setRoutes (rs ++ [(n, p)])).get (LNK_ROUTE i) = (s.setRoutes rs).get (LNK_ROUTE i))))

/-- GROUP_START, SYNC_IN_START, START_RECEIVE, START_DIVIDER_RESET, GROUP_GATE_OPEN, JOIN, JOIN_RECEIVE, JOIN_ALIGN, HOP_SLIP, TRELLIS_DOWN
and SYNC_SKEW, each in every state; GROUP_START and JOIN where they reach CLK_GRP_CTRL. A START without a formed group, with a start or join
pending, frozen or in the safe state is refused with FAIL 4, and a JOIN of a member in sync, of a device too deep or with a start or join
pending with FAIL 5 (R138, R145); that a device which is no root or out of sync refuses JOIN too is the model's choice (log entry 51). An
accepted START, and SYNC_IN with SYNCIN_EN at the root, sends the start message to the members and takes it here (R138). A start or join
message closes the gate, loads the settings and is held until its rc; a frozen device and a root ignore a start, a frozen device and one in
sync a join (R139, R144). At that rc the dividers are reset: CLK_EPOCH takes its value and SYNC_OUT goes high (R139). Where the lock held,
the gate then opens with the GVC of the message and INSYNC set, where HOLD does not keep it closed (R151; what a start is then is the
model's choice, log entry 105); where it did not, the gate stays closed and SYNC_FAIL is raised, counted at the root and reported to it by a
member (R140). A root that sent a join ends it at its rc and counts a failed one. A slipped hop counts and leaves synchronisation, raised at
its downstream device (R136), and a lost upstream link leaves it too (R137). A SYNC_IN pulse off its expected rc sets SYNCSKEW and raises an
event on a checking device that is not the root (R142). -/
def Obligations.GroupStartAndJoin : Prop :=
  (∀ s u : State, (s.on CLK_GRP_STATUS_FORMED = false ∨ s.startPending = true ∨ s.frozen = true ∨ s.inSafe = true →
      s.groupStart = s.put CLK_GRP_STATUS_FAIL 4) ∧
    (s.on CLK_GRP_STATUS_FORMED = true → s.startPending = false → s.frozen = false → s.inSafe = false →
      u = (if s.on CLK_DEPTH_DOWN then s.send (.start (64 * s.get CMT_HOPS) (s.get64 CLK_START_GVC_LO CLK_START_GVC_HI) s.vclkCfg (s.get CLK_VCLK_FRAC)) else s) →
      s.groupStart = ((u.put CLK_GRP_STATUS_STARTPEND 1).put CLK_GRP_NOSYNC 0).takeStart (64 * s.get CMT_HOPS + 64) 0
        (s.get64 CLK_START_GVC_LO CLK_START_GVC_HI) s.vclkCfg (s.get CLK_VCLK_FRAC)) ∧
    (s.reaches .host 0x20020 = true → exec .groupStart s = .next s.groupStart) ∧
    exec .syncInStart s = .next (if s.on CLK_GRP_CTRL_SYNCIN_EN && s.on CMT_STATUS_ROOT then s.groupStart else s)) ∧
  (∀ (s u : State) (l : BitVec 16) (g : Gvc) (c f : BitVec 32), (s.frozen = true ∨ s.on CMT_STATUS_ROOT = true → exec (.startReceive l g c f) s = .next s) ∧
    (s.frozen = false → s.on CMT_STATUS_ROOT = false →
      u = (if s.on CLK_DEPTH_DOWN then s.send (.start (l.toNat - 64) g.toNat c.toNat f.toNat) else s) →
      exec (.startReceive l g c f) s = .next ((u.put CLK_GRP_STATUS_STARTPEND 1).takeStart l.toNat 0 g.toNat c.toNat f.toNat))) ∧
  (∀ (s u : State) (l e g c f : Nat), u = (((((s.closeGate.put CLK_VCLK_CFG_N (bits c 0 8)).put CLK_VCLK_CFG_DIV (bits c 11 3)).put CLK_VCLK_CFG_UIPV
      (bits c 14 2)).put CLK_VCLK_FRAC f).put CLK_STATUS_LOCKED 0).startRelock (vsetOf c f) →
    s.takeStart l e g c f = { u with clk := { u.clk with startMsg := some ⟨s.time.rc + l, e, g, (vsetOf c f).valid⟩ } }) ∧
  (∀ s : State, (s.clk.startMsg = none ∨ s.on CLK_GRP_STATUS_STARTPEND = false → exec .startDividerReset s = .next s) ∧
    (∀ m : StartMsg, s.clk.startMsg = some m → s.on CLK_GRP_STATUS_STARTPEND = true → exec .startDividerReset s = .next (s.resetDividers m)) ∧
    (∀ (m : StartMsg) (u : State), u = s.waitRc m.ts → s.resetDividers m = { u with
      clk := { u.clk with epoch := m.epoch, counting := true, phase := 0 }, pins := { u.pins with syncUntil := u.time.rc + 4 } })) ∧
  (∀ (s : State) (held : Bool) (n : BitVec 14), (s.clk.startMsg = none ∨ s.on CLK_GRP_STATUS_STARTPEND = false → exec (.groupGateOpen held n) s = .next s) ∧
    (∀ (m : StartMsg) (u : State), s.clk.startMsg = some m → s.on CLK_GRP_STATUS_STARTPEND = true →
      u = (if s.on CMT_STATUS_ROOT then s.put CLK_GRP_NOSYNC n.toNat else s) →
      exec (.groupGateOpen held n) s = .next ((u.put CLK_GRP_STATUS_STARTPEND 0).openInSync m held))) ∧
  (∀ (s u : State) (m : StartMsg) (held : Bool), held = false ∨ m.good = false ∨ s.on CLK_STATUS_REFLOST = true →
    u = ({ s with clk := { s.clk with startMsg := none } } : State).waitRc (m.ts + 16384) → ∀ v : State,
    v = (({ u with clk := { u.clk with relocking := false } } : State).put CLK_GRP_STATUS_STARTED 1).event srcSyncFail →
    s.openInSync m held = (if v.on CMT_STATUS_ROOT then v.inc CLK_GRP_NOSYNC else v.send .syncFail)) ∧
  (∀ (s : State) (m : StartMsg), m.good = true → s.on CLK_STATUS_REFLOST = false → (s.openInSync m true).clk.gvc = m.gvc ∧
    (s.openInSync m true).clk.startMsg = none ∧ (s.openInSync m true).get CLK_GRP_STATUS_STARTED = 1 ∧ (s.openInSync m true).on CLK_STATUS_LOCKED = true ∧
    (s.on CLK_CTRL_HOLD = false → (s.openInSync m true).gateOpen = true ∧ (s.openInSync m true).insync = true) ∧
    (s.on CLK_CTRL_HOLD = true → (s.openInSync m true).gateOpen = s.gateOpen ∧ (s.openInSync m true).insync = s.insync)) ∧
  (∀ (s : State) (a b : Bool) (tj : Nat), s.reaches .host 0x20020 = true →
    (a = true ∨ b = true ∨ s.startPending = true ∨ s.on CMT_STATUS_ROOT = false ∨ s.insync = false →
      exec (.join a b) s = .next (s.put CLK_GRP_STATUS_FAIL 5)) ∧
    (a = false → b = false → s.startPending = false → s.on CMT_STATUS_ROOT = true → s.insync = true →
      tj = ceilDiv (s.clk.epoch + 64 * s.get CMT_HOPS + 64) s.clk.vset.align * s.clk.vset.align → exec (.join a b) s = .next { s with
        clk := { s.clk with joinUntil := some (tj + 16384) }
        tx := s.tx ++ [.join (s.get CLK_JOIN) (tj - s.clk.epoch - 64) tj (s.gvcFrom (tj + 16384)) s.vclkCfg (s.get CLK_VCLK_FRAC)] })) ∧
  (∀ (s : State) (l e : BitVec 64) (g : Gvc) (c f : BitVec 32), exec (.joinReceive l e g c f) s =
    .next (if s.frozen || s.insync then s else s.takeStart l.toNat e.toNat g.toNat c.toNat f.toNat)) ∧
  (∀ (s : State) (b : Bool), (∀ m : StartMsg, s.clk.startMsg = some m →
      exec (.joinAlign b) s = .next (if s.on CLK_GRP_STATUS_STARTPEND then s else (s.resetDividers m).openInSync m b)) ∧
    (s.clk.startMsg = none →
      (s.clk.joinUntil = none ∨ (∃ t, s.clk.joinUntil = some t ∧ s.clk.epoch < t) → exec (.joinAlign b) s = .next s) ∧
      (∀ t, s.clk.joinUntil = some t → t ≤ s.clk.epoch → ∀ u : State, u = (if b then s else s.inc CLK_GRP_NOSYNC) →
        exec (.joinAlign b) s = .next { u with clk := { s.clk with joinUntil := none } }))) ∧
  (∀ s : State, exec (.hopSlip true) s = .next (((s.put CLK_STATUS_SLIP 1).inc CLK_NSLIP).loseInsync.raise srcHopSlip (s.get CLK_DEPTH_UP) 0) ∧
    exec (.hopSlip false) s = .next s.loseInsync) ∧
  (∀ (s : State) (h : Bool), (h = true ∧ s.get CLK_DEPTH_UP = 0xF → exec (.trellisDown h) s = .next s) ∧
    (h = false ∨ s.get CLK_DEPTH_UP ≠ 0xF →
      exec (.trellisDown h) s = .next ((s.loseInsync.setCond srcTrellisDown true).raise srcTrellisDown (s.get CLK_DEPTH_UP) 0))) ∧
  (∀ (s : State) (k : BitVec 16), (s.on CMT_STATUS_ROOT = true ∨ s.on CLK_SYNC_CFG_CHK = false → exec (.syncSkew k) s = .next s) ∧
    (s.on CMT_STATUS_ROOT = false → s.on CLK_SYNC_CFG_CHK = true →
      exec (.syncSkew k) s = .next (if s.get CLK_SYNC_CFG_EXPECT = k.toNat then s.put CLK_SYNC_SKEW k.toNat
        else ((s.put CLK_SYNC_SKEW k.toNat).put CLK_STATUS_SYNCSKEW 1).event srcSyncSkew)))

/-- The word operations NEXT, JUMP, CALL, RETURN, BRANCH, BRANCHF, CCALL, CRETURN, LOADLOOP, LOADLOOPI, LOOP, LOOPR, STOPFAIL and HALT, in
every state. Each acts once the last vector of a word with its OP has issued, and leaves everything as it is otherwise. The next address is
then the one of R163's table: A + 1, T, or the popped address; STOPFAIL ends the playlist where every site has failed or been killed (R166),
and HALT ends it (R167). A parameter that a loop reads comes from the bank active in the word's last vector (R168), and an entry that fails
its check code is recorded as CFG in every site (R822). A next address outside the program range, a push on a full stack of 16, a pop from
an empty one and a lockstep transfer to a slot that is no rooted target stop the playlist with the event of R206. A call pushes A + 1 with
its data position and the records from there on, a return takes them back (R214, R231), a rooted target takes its data position and its head
(R229, R258), and in waiting mode another slot is fetched with a hold at its slot-linked position (R258). A transition between segments that
is not seamless counts in SEG_NDEAD and puts 256 dead cycles before the next word (R263). -/
def Obligations.SequencerFlow : Prop :=
  (∀ (s : State) (b : Bool),
    ((∀ p w, s.lastOf p w 0x0 = false) → exec .seqNext s = .next s) ∧
    ((∀ p w, s.lastOf p w 0x1 = false) → exec .seqJump s = .next s) ∧
    ((∀ p w, s.lastOf p w 0x2 = false) → exec .seqCall s = .next s) ∧
    ((∀ p w, s.lastOf p w 0x3 = false) → exec .seqReturn s = .next s) ∧
    ((∀ p w, s.lastOf p w 0x4 = false) → exec .seqBranch s = .next s) ∧
    ((∀ p w, s.lastOf p w 0x5 = false) → exec .seqBranchf s = .next s) ∧
    ((∀ p w, s.lastOf p w 0x6 = false) → exec .seqCcall s = .next s) ∧
    ((∀ p w, s.lastOf p w 0x7 = false) → exec .seqCreturn s = .next s) ∧
    ((∀ p w, s.lastOf p w 0x8 = false) → exec (.seqLoadloop b) s = .next s) ∧
    ((∀ p w, s.lastOf p w 0x9 = false) → exec .seqLoadloopi s = .next s) ∧
    ((∀ p w, s.lastOf p w 0xa = false) → exec .seqLoop s = .next s) ∧
    ((∀ p w, s.lastOf p w 0xb = false) → exec (.seqLoopr b) s = .next s) ∧
    ((∀ p w, s.lastOf p w 0x18 = false) → exec .seqStopfail s = .next s) ∧
    ((∀ p w, s.lastOf p w 0x3f = false) → exec .seqHalt s = .next s)) ∧
  (∀ (s : State) (p : Playlist) (w : Nat), s.lastOf p w 0x0 = true →
    exec .seqNext s = .next (s.fallThrough p)) ∧
  (∀ (s : State) (p : Playlist) (w : Nat), s.lastOf p w 0x1 = true →
    exec .seqJump s = .next (s.transfer p (mwT w))) ∧
  (∀ (s : State) (p : Playlist) (w : Nat), s.lastOf p w 0x2 = true →
    exec .seqCall s = .next (s.callTo p (mwT w))) ∧
  (∀ (s : State) (p : Playlist) (w : Nat), s.lastOf p w 0x3 = true →
    exec .seqReturn s = .next (s.returnTo p)) ∧
  (∀ (s : State) (p : Playlist) (w : Nat), s.lastOf p w 0x4 = true →
    exec .seqBranch s = .next (if s.lastCond w then s.transfer p (mwT w) else s.fallThrough p)) ∧
  (∀ (s : State) (p : Playlist) (w : Nat), s.lastOf p w 0x5 = true →
    exec .seqBranchf s = .next (if s.lastCond w then s.fallThrough p else s.transfer p (mwT w))) ∧
  (∀ (s : State) (p : Playlist) (w : Nat), s.lastOf p w 0x6 = true →
    exec .seqCcall s = .next (if s.lastCond w then s.callTo p (mwT w) else s.fallThrough p)) ∧
  (∀ (s : State) (p : Playlist) (w : Nat), s.lastOf p w 0x7 = true →
    exec .seqCreturn s = .next (if s.lastCond w then s.returnTo p else s.fallThrough p)) ∧
  (∀ (s u : State) (p : Playlist) (w v : Nat) (b : Bool), s.lastOf p w 0x08 = true → s.loopParam (bits (mwTarget w) 0 6) b = (v, u) →
    exec (.seqLoadloop b) s = .next ((u.put (SEQ_LOOP (mwLoopsel w)) v).fallThrough p)) ∧
  (∀ (s : State) (p : Playlist) (w : Nat), s.lastOf p w 0x9 = true →
    exec .seqLoadloopi s = .next ((s.put (SEQ_LOOP (mwLoopsel w)) (mwTarget w)).fallThrough p)) ∧
  (∀ (s : State) (p : Playlist) (w : Nat), s.lastOf p w 0xa = true →
    exec .seqLoop s = .next (if 1 < s.get (SEQ_LOOP (mwLoopsel w))
      then (s.put (SEQ_LOOP (mwLoopsel w)) (s.get (SEQ_LOOP (mwLoopsel w)) - 1)).transfer p (mwT w)
      else (s.put (SEQ_LOOP (mwLoopsel w)) 0).fallThrough p)) ∧
  (∀ (s u : State) (p : Playlist) (w v : Nat) (b : Bool), s.lastOf p w 0x0B = true → s.loopParam (bits (mwTarget w) 18 6) b = (v, u) →
    exec (.seqLoopr b) s = .next (if 1 < s.get (SEQ_LOOP (mwLoopsel w))
      then (s.put (SEQ_LOOP (mwLoopsel w)) (s.get (SEQ_LOOP (mwLoopsel w)) - 1)).transfer p (mwT w)
      else (u.put (SEQ_LOOP (mwLoopsel w)) v).fallThrough p)) ∧
  (∀ (s : State) (k : Nat) (b : Bool), (∀ x, (s.land.flights.find? fun x => s.seq.issuedAt == some x.gvc) = some x →
      (s.loopParam k b).1 = bankGet x.active (SEQ_LPARAM k)) ∧
    ((s.land.flights.find? fun x => s.seq.issuedAt == some x.gvc) = none → (s.loopParam k b).1 = bankGet s.active (SEQ_LPARAM k)) ∧
    (b = false → (∀ o ∈ s.cmt.activeBad, o.2 ≠ (SEQ_LPARAM k).off) → (s.loopParam k b).2 = s) ∧
    (b = true → (s.loopParam k b).2.get CMT_NINTEG = (s.get CMT_NINTEG + 1) % 2 ^ 32)) ∧
  (∀ (s : State) (p : Playlist) (w u : Nat), s.lastOf p w 0x18 = true → u = s.seq.issuedAt.getD 0 →
    ((∀ n < 64, bitAt s.playSites n = true → s.failedBy n (u - 104) = true ∨ s.killedBy n u = true) → exec .seqStopfail s = .next (s.endPlaylist 2)) ∧
    ((∃ n < 64, bitAt s.playSites n = true ∧ s.failedBy n (u - 104) = false ∧ s.killedBy n u = false) →
      exec .seqStopfail s = .next (s.fallThrough p))) ∧
  (∀ (s : State) (p : Playlist) (w : Nat), s.lastOf p w 0x3f = true →
    exec .seqHalt s = .next (s.endPlaylist 1)) ∧
  (∀ (s : State) (p : Playlist), s.fallThrough p =
    if p.last < s.seq.cur + 1 then
      ((if p.segs.length ≤ (s.posAfter p s.seq.pos).1 then s.event srcSegEndData else s).event srcSeqRange).endPlaylist 6
    else s.goTo p (s.seq.cur + 1) (s.posAfter p s.seq.pos) s.seq.buf.tail false) ∧
  (∀ (s : State) (p : Playlist) (t : Nat), s.raiseTarget p t =
    (let u := if t < p.first ∨ p.last < t then s.event srcSeqRange else s
     if t ≠ s.seq.cur + 1 ∧ p.waiting = false ∧ (p.roots.any fun r => r.slot == t) = false then u.event srcSeqUnrooted else u)) ∧
  (∀ (s : State) (p : Playlist) (t : Nat), (t < p.first ∨ p.last < t → s.transfer p t = (s.raiseTarget p t).endPlaylist 6) ∧
    (p.first ≤ t → t = s.seq.cur + 1 → s.transfer p t = s.fallThrough p) ∧
    (p.first ≤ t → t ≤ p.last → t ≠ s.seq.cur + 1 →
      (∀ (r : Root) (k : Nat), (p.roots.find? fun q => q.slot == t) = some r → indexOf? (fun x : Root => x.slot == t) p.roots = some k →
        s.transfer p t = (s.shadowCopy (1 + k) 0).goTo p t (r.idx, r.datum)
          (((s.headOf (r.slot, r.idx, r.datum, p.segs)).map (·.recs)).getD []) false) ∧
      ((p.roots.find? fun q => q.slot == t) = none → s.transfer p t = (if p.waiting then
          s.goTo p t (slotLinked (p.segs.map fun k => (s.segDesc k).dw1) 0 (t - p.first)) [] true
        else (s.event srcSeqUnrooted).endPlaylist 9)))) ∧
  (∀ (s : State) (p : Playlist) (t : Nat), (16 ≤ s.seq.stack.length → s.callTo p t = ((s.event srcSeqStkOvf).raiseTarget p t).endPlaylist 7) ∧
    (s.seq.stack.length < 16 → ∀ (rs : List (Option (List Byte))) (v : State),
      (511 < s.seq.buf.tail.length → rs = s.seq.buf.tail.take 512 ∧ v = s) →
      (s.seq.buf.tail.length < 512 → State.readRecords p 512 (s.posAfter p s.seq.pos) s = (rs, v)) → ∀ u : State,
      u = { v with seq := { v.seq with stack := (s.seq.cur + 1, (s.posAfter p s.seq.pos).1, (s.posAfter p s.seq.pos).2) :: s.seq.stack
                                       rets := rs :: s.seq.rets } } →
      s.callTo p t = ((u.shadowMove 0 (65 + s.seq.stack.length)).put SEQ_STK_DEPTH (s.seq.stack.length + 1)).transfer p t)) ∧
  (∀ (s : State) (p : Playlist), (s.seq.stack = [] → s.returnTo p = (s.event srcSeqStkUnf).endPlaylist 8) ∧
    (∀ (n i r : Nat) (rest : List (Nat × Nat × Nat)) (u : State), s.seq.stack = (n, i, r) :: rest →
      u = (({ s with seq := { s.seq with stack := rest, rets := s.seq.rets.tail } } : State).shadowMove (65 + rest.length) 0).put SEQ_STK_DEPTH rest.length →
      (n < p.first ∨ p.last < n → s.returnTo p = (u.event srcSeqRange).endPlaylist 6) ∧
      (p.first ≤ n → n ≤ p.last → s.returnTo p = u.goTo p n (i, r) ((s.seq.rets.head?).getD []) false))) ∧
  (∀ (s t : State) (p : Playlist) (n : Nat) (q : Nat × Nat) (buf : List (Option (List Byte))) (fetch : Bool), n < 2 ^ 18 → t = s.goTo p n q buf fetch →
    t.get SEQ_PC = n ∧ t.get SEQ_STATUS_MATCHING = 0 ∧ t.seq.cur = n ∧ t.seq.pos = q ∧ t.seq.vecs = 0 ∧ t.seq.holds = 0 ∧ t.seq.word = none ∧
    t.seq.stack = s.seq.stack ∧ t.seq.buf = buf ∧ t.seq.stalled = fetch ∧ t.seq.running = s.seq.running ∧
    s.regsBut t [SEQ_PC, SEQ_STATUS_MATCHING, SEG_NDEAD] ∧ t.mem = s.mem ∧ t.land = s.land ∧ t.fail = s.fail ∧ t.raised = s.raised ∧
    (∀ i, i = s.seq.pos.1 → q = (i + 1, 0) → s.seq.pos.2 + 1 = s.segLength p i → i + 1 < p.segs.length →
      (seamless (s.segLength p i) = false ∨ seamless (s.segLength p (i + 1)) = false →
        t.seq.next = s.seq.next + 256 ∧ t.get SEG_NDEAD = (s.get SEG_NDEAD + 1) % 2 ^ 32) ∧
      (seamless (s.segLength p i) = true → seamless (s.segLength p (i + 1)) = true → t.seq.next = s.seq.next ∧ t.get SEG_NDEAD = s.get SEG_NDEAD)) ∧
    (q ≠ (s.seq.pos.1 + 1, 0) → t.seq.next = s.seq.next ∧ t.get SEG_NDEAD = s.get SEG_NDEAD))

/-- VECTOR_ISSUE, PLAYLIST_FIRST_VECTOR, WAIT, MATCH, CWAIT_RELEASE, WAIT_LIMIT_EXPIRY, STALL_HOLD_END and STALL_LIMIT, in every state.
Without a running playlist, with the gate closed and in Frost no cycle passes. A word is read before its first cycle: a slot that does not
give it ends the playlist with CSERR and its event (R206), a data position beyond the list with RANGE and SEG_END_DATA (R259). One cycle of
a word is then a hold that counts in SEQ_NHOLD, or a vector whose GVC and slot the device notes and which lands later. A WAIT word holds
while its condition is false and then issues and goes to A + 1 (R233), a MATCH word issues one vector and goes to A + 1 where its condition
is true (R235); at its limit either goes to T with SEQ_NEXPIRE and SEQ_WAITEXP (R233, R235, R237). A CWAIT word goes to A + 1 at the target
of a commit that applied, else to T on the same exit (R84, R177, R237, R238). In waiting mode a vector waits in stall holds for its records
and its stream data (R234, R266, R281), and the playlist ends at the stall limit. A queued playlist begins at NEXT once it is ready, or at
its AT, where one that is not ready is refused LATE and a thermal stop hold refuses POWER (R273, R781). -/
def Obligations.SequencerCycles : Prop :=
  (∀ (s : State) (late : Bool) (flip : BitVec 208) (fa fb : BitVec 80) (bad : List (BitVec 28)), s.seq.running = none ∨ s.gateOpen = false ∨ s.frozen = true →
    exec (.vectorIssue late flip fa fb bad) s = .next s ∧ exec (.seqWait late flip fa fb bad) s = .next s ∧
    exec (.seqMatch late flip fa fb bad) s = .next s ∧ exec (.cwaitRelease late fa fb bad) s = .next s ∧
    exec (.waitLimitExpiry late fa fb bad) s = .next s ∧ exec .stallLimit s = .next s) ∧
  (∀ (s t : State) (p : Playlist) (w : Nat) (late : Bool) (flip : BitVec 208) (fa fb : BitVec 80) (bad : List (BitVec 28)), s.seq.running = some p → s.gateOpen = true → s.frozen = false →
    (s.readWord p flip.toNat = (none, t) → exec (.vectorIssue late flip fa fb bad) s = .next t ∧ exec (.seqWait late flip fa fb bad) s = .next t ∧
      exec (.seqMatch late flip fa fb bad) s = .next t) ∧
    (s.readWord p flip.toNat = (some w, t) →
      (mwOp w = 0x10 → exec (.vectorIssue late flip fa fb bad) s = .next (t.waitCycle p w late fa.toNat fb.toNat (bad.map (·.toNat))) ∧
        exec (.seqWait late flip fa fb bad) s = .next (t.waitCycle p w late fa.toNat fb.toNat (bad.map (·.toNat))) ∧ exec (.seqMatch late flip fa fb bad) s = .next t) ∧
      (mwOp w = 0x11 → exec (.vectorIssue late flip fa fb bad) s = .next (t.matchCycle p w late fa.toNat fb.toNat (bad.map (·.toNat))) ∧
        exec (.seqMatch late flip fa fb bad) s = .next (t.matchCycle p w late fa.toNat fb.toNat (bad.map (·.toNat))) ∧ exec (.seqWait late flip fa fb bad) s = .next t) ∧
      (mwOp w ≠ 0x10 → mwOp w ≠ 0x11 → exec (.seqWait late flip fa fb bad) s = .next t ∧ exec (.seqMatch late flip fa fb bad) s = .next t ∧
        exec (.vectorIssue late flip fa fb bad) s =
          .next (if mwRepeat w < t.seq.vecs then t else t.vectorCycle p w late fa.toNat fb.toNat (bad.map (·.toNat)))))) ∧
  (∀ (s u : State) (p : Playlist) (flip : Nat), (∀ w, s.seq.word = some w → s.readWord p flip = (some w, s)) ∧
    (s.seq.word = none → s.csRead s.seq.cur flip = (none, u) → s.readWord p flip =
      (none, (if p.segs.length ≤ s.seq.pos.1 then (u.recordAll 7).event srcSegEndData else u.recordAll 7).endPlaylist 5)) ∧
    (∀ w, s.seq.word = none → s.csRead s.seq.cur flip = (some w, u) →
      (p.segs.length ≤ s.seq.pos.1 → s.readWord p flip = (none, (u.event srcSegEndData).endPlaylist 6)) ∧
      (s.seq.pos.1 < p.segs.length → s.readWord p flip = (some w, ((({ u with seq := { u.seq with word := some w } } : State).flag SEQ_STATUS_MATCHING
        (decide (mwOp w = 0x11))).gateWord p w).cwaitLatch)))) ∧
  (∀ (s t : State) (p : Playlist) (w : Nat) (late : Bool) (fa fb : Nat) (bad : List Nat), t = s.vectorCycle p w late fa fb bad →
    (mwWaitVc w ≤ s.seq.holds → s.waitCycle p w late fa fb bad = s) ∧
    (s.seq.holds < mwWaitVc w → mwCwait w = true → s.waitCycle p w late fa fb bad = (if s.cwaitDue then s else s.holdCycle 2)) ∧
    (s.seq.holds < mwWaitVc w → mwCwait w = false → s.cond (mwCond w) (max s.seq.next s.clk.gvc) = false → s.waitCycle p w late fa fb bad = s.holdCycle 1) ∧
    (s.seq.holds < mwWaitVc w → mwCwait w = false → s.cond (mwCond w) (max s.seq.next s.clk.gvc) = true →
      s.waitCycle p w late fa fb bad = (if t.seq.vecs = 1 then t.fallThrough p else t)) ∧
    (mwWaitVc w ≤ s.seq.vecs → s.matchCycle p w late fa fb bad = s) ∧
    (s.seq.vecs < mwWaitVc w → s.matchCycle p w late fa fb bad =
      (if t.seq.vecs ≠ s.seq.vecs ∧ t.condAge (mwCond w) ≤ s.seq.vecs ∧ t.cond (mwCond w) (t.seq.issuedAt.getD 0) = true then t.fallThrough p else t))) ∧
  (∀ (s u : State) (kind : Nat), kind < 4 → u = s.advanceTo s.seq.next → s.holdCycle kind = { (u.add64 SEQ_NHOLD_LO SEQ_NHOLD_HI 1).put SEQ_STATUS_HOLDKIND kind with
    seq := { u.seq with next := u.clk.gvc + 1, holds := if kind = 3 then u.seq.holds else u.seq.holds + 1
                        stalls := if kind = 3 then u.seq.stalls + 1 else 0 } }) ∧
  (∀ (s u : State) (p : Playlist) (w : Nat) (late : Bool) (fa fb : Nat) (bad : List Nat), u = s.standWord w →
    (u.mustStall p late = true → s.vectorCycle p w late fa fb bad = u.holdCycle 3) ∧
    (u.mustStall p late = false → (s.vectorCycle p w late fa fb bad).seq.vecs = s.seq.vecs + 1 ∧
      (s.vectorCycle p w late fa fb bad).seq.issuedAt = some (u.advanceTo u.seq.next).clk.gvc ∧
      (s.vectorCycle p w late fa fb bad).seq.issuedSlot = s.seq.cur ∧ (s.vectorCycle p w late fa fb bad).seq.next = (u.advanceTo u.seq.next).clk.gvc + 1 ∧
      ∃ f, (s.vectorCycle p w late fa fb bad).land.flights = s.land.flights ++ [f] ∧ f.word = w ∧ f.slot = s.seq.cur ∧
        f.gvc = (u.advanceTo u.seq.next).clk.gvc ∧ f.active = (u.advanceTo u.seq.next).active ∧ f.plNum = p.number ∧ f.landed = false)) ∧
  (∀ (s : State) (p : Playlist) (late : Bool), s.mustStall p late = true ↔ p.waiting = true ∧ (s.seq.stalled = true ∨
    late = true ∧ s.seq.buf = [] ∧ s.hbmNormal = false ∨ ∃ n < 8, s.on (SEG_STR_STATUS_OPEN n) = true ∧ s.on (SEG_STR_STATUS_RUN n) = true ∧ s.strReady n = false)) ∧
  (∀ (s : State) (late : Bool) (fa fb : BitVec 80) (bad : List (BitVec 28)), (s.seq.word = none ∨ s.seq.cwait = none → exec (.cwaitRelease late fa fb bad) s = .next s) ∧
    (∀ (p : Playlist) (w t r n : Nat), s.inWord p w = true → s.seq.cwait = some (t, r) → n = t - s.seq.next →
      (r = 0 ∨ mwCwait w = false ∨ s.seq.vecs ≠ 0 ∨ mwWaitVc w < s.seq.holds + n → exec (.cwaitRelease late fa fb bad) s = .next s) ∧
      (r ≠ 0 → mwCwait w = true → s.seq.vecs = 0 → s.seq.holds + n ≤ mwWaitVc w → ∀ a u v : State,
        a = (s.advanceTo t).add64 SEQ_NHOLD_LO SEQ_NHOLD_HI n → u = { a with seq := { a.seq with holds := a.seq.holds + n, next := max t a.seq.next } } →
        v = u.vectorCycle p w late fa.toNat fb.toNat (bad.map (·.toNat)) → exec (.cwaitRelease late fa fb bad) s =
          .next (if v.seq.vecs = 0 then v else if r = 1 then v.fallThrough p else ((v.inc SEQ_NEXPIRE).event srcSeqWaitexp).transfer p (mwT w))))) ∧
  (∀ (s : State) (late : Bool) (fa fb : BitVec 80) (bad : List (BitVec 28)), (s.seq.word = none → exec (.waitLimitExpiry late fa fb bad) s = .next s) ∧
    (∀ (p : Playlist) (w : Nat) (v : State), s.inWord p w = true → v = s.vectorCycle p w late fa.toNat fb.toNat (bad.map (·.toNat)) →
      (mwOp w = 0x10 → mwWaitVc w ≤ s.seq.holds → s.cwaitDue = false → exec (.waitLimitExpiry late fa fb bad) s =
        .next (if v.seq.vecs = 0 then v else ((v.inc SEQ_NEXPIRE).event srcSeqWaitexp).transfer p (mwT w))) ∧
      (mwOp w = 0x11 → mwWaitVc w ≤ s.seq.vecs → exec (.waitLimitExpiry late fa fb bad) s = .next (((s.inc SEQ_NEXPIRE).event srcSeqWaitexp).transfer p (mwT w))) ∧
      (mwOp w = 0x10 ∧ (s.seq.holds < mwWaitVc w ∨ s.cwaitDue = true) ∨ mwOp w = 0x11 ∧ s.seq.vecs < mwWaitVc w ∨ mwOp w ≠ 0x10 ∧ mwOp w ≠ 0x11 →
        exec (.waitLimitExpiry late fa fb bad) s = .next s))) ∧
  (∀ s : State, exec .stallHoldEnd s = .next { if s.get SEQ_STATUS_HOLDKIND = 3 then s.put SEQ_STATUS_HOLDKIND 0 else s with
    seq := { s.seq with stalled := false, stalls := 0 } }) ∧
  (∀ (s : State) (p : Playlist), s.seq.running = some p → s.gateOpen = true → s.frozen = false →
    exec .stallLimit s = .next (if s.stallLimit ≤ s.seq.stalls then s.endPlaylist 0xA else s)) ∧
  (∀ (s : State) (flip : BitVec 208) (fa fb : BitVec 80) (bad : List (BitVec 28)) (go : Playlist → State → Nat → State),
    (go = fun p t g => if t.on PMG_STATUS_STOPHOLD then ((t.inc PMG_NADMREF).raise srcPwrAdmitRef p.number 0).refusePlaylist 0xA
      else (t.beginPlaylist p g).seqCycle p false flip.toNat fa.toNat fb.toNat (bad.map (·.toNat))) →
    (s.seq.queued = none ∨ s.gateOpen = false ∨ s.frozen = true → exec (.playlistFirstVector flip fa fb bad) s = .next s) ∧
    (∀ p, s.seq.queued = some p → s.gateOpen = true → s.frozen = false →
      (p.at_ = none → exec (.playlistFirstVector flip fa fb bad) s =
        .next (if s.on SEG_PL_STATUS_QREADY && s.seq.running.isNone then go p s s.firstCycle else s)) ∧
      (∀ a, p.at_ = some a → (s.reach a = none → exec (.playlistFirstVector flip fa fb bad) s = .next s) ∧
        (∀ v, s.reach a = some v →
          (v.clk.gvc ≠ a ∨ v.on SEG_PL_STATUS_QREADY = false ∨ v.seq.running.isSome = true →
            exec (.playlistFirstVector flip fa fb bad) s = .next (v.refusePlaylist 0xE)) ∧
          (v.clk.gvc = a → v.on SEG_PL_STATUS_QREADY = true → v.seq.running = none → exec (.playlistFirstVector flip fa fb bad) s = .next (go p v a))))))

/-- CMARK, PATTERN_EVENT, TIUCTL_ARM, TIUCTL_GATE, TIUCTL_DISARM, STREAM_RUN, STREAM_PAUSE, STREAM_RUNALL, STREAM_PAUSEALL, FLAG_SET,
FLAG_CLEAR, FLAG_TOGGLE, HOLDALL, OFFALL, HOLDOUT, OFFOUT, CAPCTL_ARM, CAPCTL_DISARM, SEQ_STOP, STOPAT_ARM, STOPAT_DISARM, STOPAT_REACHED,
UFLAG_SET and UFLAG_CLEAR, in every state, the host's requests where they reach their register: the other actions of a word, each once a
word that has it and nothing otherwise, and the host's requests. CMARK copies the GVC and the slot of the word's first vector (R176), an
EVENT is raised and with EN gives its record to the queue (R178), a FLAGOP sets, clears or toggles its user flag (R184), a DCTL is in force
in every vector of the word (R185), and ARM and DISARM mark its first vector (R172). A TIUCTL action acts on a unit that a playlist claimed
at time 0 of the word's first vector (R442). A stream action acts before the first vector, on a closed channel only raises SEQ_STRM_CLOSED,
and RUNALL and PAUSEALL act only on open channels (R181, R182). STOP ends the playlist at the first boundary unless its own program ends it
there (R241, R242); STOPAT within 16 vc or at a closed gate sets SAREF, and otherwise is armed (R241); the armed stop ends the playlist at
its boundary, and with no playlist there stops nothing, which is the model's reading (log entry 113). A host write sets or clears the flags
of its mask, a FLAGOP of the same cycle applying last (R217). -/
def Obligations.SequencerActions : Prop :=
  (∀ s : State, s.seq.act = none →
    exec .cmark s = .next s ∧ exec .patternEvent s = .next s ∧ exec .flagSet s = .next s ∧ exec .flagClear s = .next s ∧ exec .flagToggle s = .next s ∧ exec .holdall s = .next s ∧
    exec .offall s = .next s ∧ exec .holdout s = .next s ∧ exec .offout s = .next s ∧ exec .capctlArm s = .next s ∧ exec .capctlDisarm s = .next s) ∧
  (∀ (s : State) (x : WordAct), s.seq.act = some x →
    (mwCommit x.word ≠ 2 ∨ bitAt x.done actCmark = true → exec .cmark s = .next s) ∧
    (mwEvent x.word = 0 ∨ bitAt x.done actEvent = true → exec .patternEvent s = .next s) ∧
    (mwFlagOp x.word ≠ 1 ∨ bitAt x.done actFlag = true → exec .flagSet s = .next s) ∧
    (mwFlagOp x.word ≠ 2 ∨ bitAt x.done actFlag = true → exec .flagClear s = .next s) ∧
    (mwFlagOp x.word ≠ 3 ∨ bitAt x.done actFlag = true → exec .flagToggle s = .next s) ∧
    (mwDctl x.word ≠ 1 ∨ bitAt x.done actDctl = true → exec .holdall s = .next s) ∧
    (mwDctl x.word ≠ 2 ∨ bitAt x.done actDctl = true → exec .offall s = .next s) ∧
    (mwDctl x.word ≠ 3 ∨ bitAt x.done actDctl = true → exec .holdout s = .next s) ∧
    (mwDctl x.word ≠ 4 ∨ bitAt x.done actDctl = true → exec .offout s = .next s) ∧
    (mwArm x.word = false ∨ bitAt x.done 5 = true → exec .capctlArm s = .next s) ∧
    (mwDisarm x.word = false ∨ bitAt x.done 6 = true → exec .capctlDisarm s = .next s)) ∧
  (∀ (s u : State) (x : WordAct), s.seq.act = some x → mwCommit x.word = 2 → bitAt x.done actCmark = false →
    u = { s with seq := { s.seq with act := some { x with done := setBitN x.done actCmark } } } →
    exec .cmark s = .next (((u.put64 SEQ_CMARK_LO SEQ_CMARK_HI x.gvc).put SEQ_CMARK_SLOT x.slot).event srcSeqCmark)) ∧
  (∀ (s u : State) (x : WordAct), s.seq.act = some x → mwEvent x.word ≠ 0 → bitAt x.done actEvent = false →
    u = { s with seq := { s.seq with act := some { x with done := setBitN x.done actEvent } } } →
    exec .patternEvent s = .next (if (u.event srcSeqPevent).on SEQ_PEV_CFG_EN then (u.event srcSeqPevent).enq ((u.event srcSeqPevent).get SEQ_PEV_CFG_QUEUE)
      (wordBytes [x.gvc % 2 ^ 32, x.gvc / 2 ^ 32, mwEvent x.word * 2 ^ 26 + x.slot, x.number * 2 ^ 16]) else u.event srcSeqPevent)) ∧
  (∀ (s u : State) (x : WordAct), s.seq.act = some x → mwFlagOp x.word = 1 → bitAt x.done actFlag = false →
    u = { s with seq := { s.seq with act := some { x with done := setBitN x.done actFlag } } } →
    exec .flagSet s = .next (u.put SEQ_UFLAG (setBitN (u.get SEQ_UFLAG) (mwFlag x.word)))) ∧
  (∀ (s u : State) (x : WordAct), s.seq.act = some x → mwFlagOp x.word = 2 → bitAt x.done actFlag = false →
    u = { s with seq := { s.seq with act := some { x with done := setBitN x.done actFlag } } } →
    exec .flagClear s = .next (u.put SEQ_UFLAG (clrBitN (u.get SEQ_UFLAG) (mwFlag x.word)))) ∧
  (∀ (s u : State) (x : WordAct), s.seq.act = some x → mwFlagOp x.word = 3 → bitAt x.done actFlag = false →
    u = { s with seq := { s.seq with act := some { x with done := setBitN x.done actFlag } } } →
    exec .flagToggle s = .next (u.put SEQ_UFLAG (if bitAt (u.get SEQ_UFLAG) (mwFlag x.word) then clrBitN (u.get SEQ_UFLAG) (mwFlag x.word)
      else setBitN (u.get SEQ_UFLAG) (mwFlag x.word)))) ∧
  (∀ (s u : State) (x : WordAct), s.seq.act = some x → mwArm x.word = true → bitAt x.done 5 = false →
    u = { s with seq := { s.seq with act := some { x with done := setBitN x.done 5 } } } →
    exec .capctlArm s = .next ({ u with land := { u.land with flights := u.land.flights.map fun f => if f.gvc = x.gvc then { f with arm := true } else f } })) ∧
  (∀ (s u : State) (x : WordAct), s.seq.act = some x → mwDisarm x.word = true → bitAt x.done 6 = false →
    u = { s with seq := { s.seq with act := some { x with done := setBitN x.done 6 } } } →
    exec .capctlDisarm s = .next ({ u with land := { u.land with flights := u.land.flights.map fun f => if f.gvc = x.gvc then { f with disarm := true } else f } })) ∧
  (∀ (s : State) (x : WordAct) (code : Nat) (own : List Flight), s.seq.act = some x → mwDctl x.word = code → bitAt x.done actDctl = false →
    own = (s.land.flights.filter fun f => decide (x.gvc ≤ f.gvc)).map (fun f => { f with dctl := code }) → ∀ o : Out,
    (code = 1 ∧ o = exec .holdall s ∨ code = 2 ∧ o = exec .offall s ∨ code = 3 ∧ o = exec .holdout s ∨ code = 4 ∧ o = exec .offout s) →
    Completes o fun t => (own = [] → t.land = s.land ∧ t.fail = s.fail) ∧
      (∀ f fs, own = f :: fs → t.land = { s.land with flights :=
          (s.land.flights.filter fun f => decide (f.gvc < x.gvc)) ++ (s.redoData f.prevData own).1 } ∧
        t.fail = { s.fail with lastData := (s.redoData f.prevData own).2 }) ∧
      t = { s with seq := { s.seq with act := some { x with done := setBitN x.done actDctl } }, land := t.land, fail := t.fail }) ∧
  (∀ (s : State) (d : Nat) (fs : List Flight), (s.redoData d fs).1.map (fun f => { f with prevData := 0 }) = fs.map (fun f => { f with prevData := 0 }) ∧
    (∀ f rest, fs = f :: rest → (s.redoData d fs).1 = { f with prevData := d } :: (s.redoData (s.newData { f with prevData := d }) rest).1)) ∧
  (∀ s : State, s.seq.running = none ∨ s.gateOpen = false ∨ s.frozen = true →
    exec .streamRun s = .next s ∧ exec .streamPause s = .next s ∧ exec .streamRunall s = .next s ∧ exec .streamPauseall s = .next s) ∧
  (∀ (s : State) (p : Playlist) (w : Nat), s.seq.running = some p → s.gateOpen = true → s.frozen = false → w = s.seq.word.getD (s.slot s.seq.cur).mw →
    exec .streamRun s = .next (if mwStrAct w = 1 then s.standWord w else s) ∧ exec .streamPause s = .next (if mwStrAct w = 2 then s.standWord w else s) ∧
    exec .streamRunall s = .next (if mwStrAct w = 3 then s.standWord w else s) ∧ exec .streamPauseall s = .next (if mwStrAct w = 4 then s.standWord w else s)) ∧
  (∀ (s u : State) (w : Nat), (s.seq.strDone = true ∨ s.seq.vecs ≠ 0 → s.standWord w = s) ∧
    (s.seq.strDone = false → s.seq.vecs = 0 → u = { s with seq := { s.seq with strDone := true } } →
      (∀ run : Bool, mwStrAct w = (if run then 1 else 2) → s.standWord w =
        (if u.on (SEG_STR_STATUS_OPEN (mwStrCh w)) then u.strStand (mwStrCh w) run else u.raise srcSeqStrmClosed (mwStrCh w) 0)) ∧
      (∀ run : Bool, mwStrAct w = (if run then 3 else 4) → s.standWord w =
        (List.range 8).foldl (fun t n => if t.on (SEG_STR_STATUS_OPEN n) then t.strStand n run else t) u))) ∧
  (∀ (s : State) (c n : Nat), (c = 1 ∨ c = 2 ∨ c = 3) → ∀ o : Out,
    (c = 1 ∧ o = exec .tiuctlArm s ∨ c = 2 ∧ o = exec .tiuctlGate s ∨ c = 3 ∧ o = exec .tiuctlDisarm s) →
    ((∀ x ∈ s.land.flights, x.tiu = false ∨ mwTiuAct x.word ≠ c) → o = .next s) ∧
    (∀ x, (s.land.flights.find? fun x => x.tiu && mwTiuAct x.word == c) = some x → n = mwTiuUnit x.word → (s.reach (x.gvc + 64) = none → o = .next s) ∧
      (∀ v u : State, s.reach (x.gvc + 64) = some v →
        u = { v with land := { v.land with flights := v.land.flights.map fun y => if y.gvc = x.gvc then { y with tiu := false } else y } } →
        (u.get (TIU_STATUS_OWNER n) ≠ tiuPlay → o = .next u) ∧
        (u.get (TIU_STATUS_OWNER n) = tiuPlay →
          (c = 1 → o = .next (if u.get (TIU_CTRL_MODE n) = 3 then u.put (TIU_STATUS_SRCERR n) 1 else if u.tiuBusy n then u else u.tiuArmUnit n)) ∧
          (c = 2 → o = .next (u.setTiu n { u.tiuUnit n with gated := true, gateOpen := true })) ∧ (c = 3 → o = .next (u.tiuEnd n 2)))))) ∧
  (∀ s : State, (s.reaches .host 0x80000 = true → exec .seqStop s = .next (s.softStop 3)) ∧ (∀ r, s.seq.running = none → s.softStop r = s) ∧
    (∀ p r, s.seq.running = some p → ((s.flowOn p).seq.running = none → s.softStop r = s.flowOn p) ∧
      ((s.flowOn p).seq.running.isSome = true → s.softStop r = s.endPlaylist (if s.stallLimit ≤ s.seq.stalls then 0xA else s.softReason r)))) ∧
  (∀ (s : State) (r : Nat), ((∃ g, s.fail.rakeStop = some g ∧ g ≤ s.boundary) → s.softReason r = 11) ∧
    ((∀ g, s.fail.rakeStop = some g → s.boundary < g) → s.softReason r =
      (if s.on SEQ_STATUS_ARMED = true ∧ s.get64 SEQ_STOPAT_LO SEQ_STOPAT_HI = s.boundary ∧ r = 3 then 4 else r))) ∧
  (∀ s : State, s.reaches .host 0x80000 = true →
    (s.gateOpen = false ∨ s.get64 SEQ_STOPAT_LO SEQ_STOPAT_HI ≤ s.clk.gvc + 16 → exec .stopatArm s = .next (s.put SEQ_STATUS_SAREF 1)) ∧
    (s.gateOpen = true → s.clk.gvc + 16 < s.get64 SEQ_STOPAT_LO SEQ_STOPAT_HI → exec .stopatArm s = .next (s.put SEQ_STATUS_ARMED 1)) ∧
    exec .stopatDisarm s = .next (s.put SEQ_STATUS_ARMED 0)) ∧
  (∀ (s : State) (t : Nat), t = s.get64 SEQ_STOPAT_LO SEQ_STOPAT_HI →
    (s.on SEQ_STATUS_ARMED = false ∨ s.gateOpen = false → exec .stopatReached s = .next s) ∧
    (s.on SEQ_STATUS_ARMED = true → s.gateOpen = true →
      (t < s.clk.gvc → exec .stopatReached s = .next (s.put SEQ_STATUS_ARMED 0)) ∧
      (s.clk.gvc ≤ t → s.seq.running.isSome = true → s.seq.next < t → exec .stopatReached s = .next s) ∧
      (s.clk.gvc ≤ t → s.seq.running = none ∨ t ≤ s.seq.next →
        exec .stopatReached s = .next ((((s.advanceTo (t - 1)).softStop 4).put SEQ_STATUS_ARMED 0).advanceTo t)))) ∧
  (∀ (s : State) (m : BitVec 16), (s.reaches .host 0x80028 = true → exec (.uflagSet m) s = .next (s.hostFlags m.toNat (s.get SEQ_UFLAG ||| m.toNat))) ∧
    (s.reaches .host 0x8002C = true → exec (.uflagClear m) s = .next (s.hostFlags m.toNat (s.get SEQ_UFLAG &&& (0xFFFF - m.toNat)))) ∧
    (∀ v : Nat, (∀ x, s.seq.act = some x → bitAt x.done actFlag = false ∨ x.gvc ≠ s.clk.gvc ∨ bitAt m.toNat (mwFlag x.word) = false) →
      s.hostFlags m.toNat v = s.put SEQ_UFLAG v) ∧
    (∀ (v : Nat) (x : WordAct), s.seq.act = some x → bitAt x.done actFlag = true → x.gvc = s.clk.gvc → bitAt m.toNat (mwFlag x.word) = true →
      s.hostFlags m.toNat v = s.put SEQ_UFLAG (flagOp v (mwFlagOp x.word) (mwFlag x.word))))

/-- VECTOR_LAND, LEVEL_SETTLE_END, EDGE_PLACE and COMPARE_SAMPLE, in every state. Time 0 of a vector reaches the land 64 vc after its issue,
and its levels become standing, with a settle where they differ, but for an entry that fails its check (R323, R372, R374, R375); a settle
ends 2,000 ns after its start, also with the gate closed (R375). The edges of one instant make one transition under the levels that stand
then; in Budding, and on a channel that a trip, a calibration or a PMU holds, none is made (R349, R354, R777). A compare is sampled once,
after what is due at its instant, and kept for Rake (R349, R388); it is not evaluated where its action compares nothing, its site is not
enabled or its channel masked (R389), records LVLSET or SHADOW where a level settle runs or its driver was not off for 450 ps (R351, R376),
and otherwise counts (R97). The comparator says above VOH or below VOL with the hysteresis of R366; where nothing defines the land's voltage
its state is a free value (log entry 4). A command that comes before its time, or for a vector that is not there, has no effect (log entry
6). -/
def Obligations.LandAndCompare : Prop :=
  (∀ s : State, ((s.land.flights.find? fun x => !x.landed) = none → exec .vectorLand s = .next s) ∧
    (∀ f : Flight, (s.land.flights.find? fun x => !x.landed) = some f → (s.reach (f.gvc + 64) = none → exec .vectorLand s = .next s) ∧
      (∀ u : State, s.reach (f.gvc + 64) = some u → exec .vectorLand s = .next (u.landVector f)))) ∧
  (∀ (s : State) (f : Flight), (s.landVector f).land.lastLand = some f.gvc ∧ (s.landVector f).clk = s.clk ∧ (s.landVector f).mem = s.mem ∧
    (s.landVector f).land.flights = s.land.flights.map (fun x => if x.gvc = f.gvc then { x with landed := true } else x) ∧
    (∀ c < 256, (f.bad.contains (lsOff c (mwLevelset f.word)) = true → ((s.landVector f).chan c).standing = (s.chan c).standing ∧
        ((s.landVector f).chan c).settle = (s.chan c).settle) ∧
      (f.bad.contains (lsOff c (mwLevelset f.word)) = false → ((s.landVector f).chan c).standing = levelWords f c ∧
        ((s.landVector f).chan c).settle = (if levelWords f c = (s.chan c).standing then (s.chan c).settle else some (s.clk.vset.time0 f.gvc))))) ∧
  (∀ (s : State) (c : Fin 256), ((s.chan c.val).settle = none → (s.chan c.val).rest = none → exec (.levelSettleEnd c) s = .next s) ∧
    (∀ b : Int, (s.chan c.val).settle = some b →
      (s.reach ((b + s.clk.vset.settleTime) / s.clk.vset.period).toNat = none → exec (.levelSettleEnd c) s = .next s) ∧
      (∀ u, s.reach ((b + s.clk.vset.settleTime) / s.clk.vset.period).toNat = some u → exec (.levelSettleEnd c) s =
        .next (u.setChan c.val { u.chan c.val with settle := none, past := (b :: (s.chan c.val).past).take 8 }))) ∧
    (∀ (n : Int) (r : Nat) (u : State), (s.chan c.val).settle = none → (s.chan c.val).rest = some (n, r) →
      u = s.passRc (r + ((n + 19999) / 20000).toNat - s.time.rc) → exec (.levelSettleEnd c) s = .next (u.setChan c.val { u.chan c.val with rest := none }))) ∧
  (∀ (s : State) (c : Fin 256), (firstEdge (s.dueEdges c.val) = none → exec (.edgePlace c) s = .next s) ∧
    (∀ e : Edge, firstEdge (s.dueEdges c.val) = some e →
      (s.reach (e.key.time / s.clk.vset.period).toNat = none → exec (.edgePlace c) s = .next s) ∧
      (∀ u, s.reach (e.key.time / s.clk.vset.period).toNat = some u →
        exec (.edgePlace c) s = .next ((State.landUpTo e.key.time u.land.flights u).placeEdge c.val e)))) ∧
  (∀ (s : State) (c : Nat) (e : Edge), (s.budding = true → s.placeEdge c e = s.setChan c { s.chan c with cursor := some { e.key with ord := 16 } }) ∧
    (s.budding = false → (s.offLand c || s.pmuHeld c) = true →
      s.placeEdge c e = s.setChan c { s.chan c with drv := 0, cursor := some { e.key with ord := 16 } }) ∧
    (s.budding = false → (s.offLand c || s.pmuHeld c) = false → ∀ dl : Nat × Nat,
      dl = ((s.dueEdges c).filter fun x => x.key.time == e.key.time && x.key.cycle == e.key.cycle).foldl (fun dl x => x.apply dl)
        ((s.chan c).drv, (s.chan c).level) →
      ((s.placeEdge c e).chan c).drv = dl.1 ∧ ((s.placeEdge c e).chan c).level = dl.2 ∧
      ((s.placeEdge c e).chan c).cursor = some { e.key with ord := 16 } ∧ (s.placeEdge c e).land.flights = s.land.flights ∧
      (∀ d, d ≠ c → (s.placeEdge c e).chan d = s.chan d) ∧ (s.placeEdge c e).clk = s.clk ∧ (s.placeEdge c e).mem = s.mem)) ∧
  (∀ (s : State) (g : Gvc) (c : Fin 256) (ui : Fin 8) (ls : List (Bool × BitVec 16)) (held : Bool),
    ((∀ x ∈ s.land.flights, x.gvc ≠ g.toNat ∨ x.cut = true) → exec (.compareSample g c ui ls held) s = .next s) ∧
    (∀ (f : Flight) (t : Int), (s.land.flights.find? fun x => x.gvc == g.toNat && !x.cut) = some f → t = (s.samplePoints f c.val ui.val).2 →
      (s.reach (t / s.clk.vset.period).toNat = none → exec (.compareSample g c ui ls held) s = .next s) ∧
      (∀ u, s.reach (t / s.clk.vset.period).toNat = some u →
        ((f.samples.any fun x => x.ch == c.val && x.ui == ui.val) = true ∨ u.clk.vset.uis ≤ ui.val → exec (.compareSample g c ui ls held) s = .next s) ∧
        ((f.samples.any fun x => x.ch == c.val && x.ui == ui.val) = false → ui.val < u.clk.vset.uis → ∀ (v w : State) (cmp res : Nat),
          (ls.foldl (fun a x => a.landFrom c.val t x) (u.settleLand c.val t)).comparator c.val t = (cmp, v) →
          v.judge f c.val ui.val cmp held = (res, w) → exec (.compareSample g c ui ls held) s = .next { w with land := { w.land with
            flights := w.land.flights.map fun y => if y.gvc = f.gvc then { y with samples := y.samples ++ [⟨c.val, ui.val, cmp, (w.chan c.val).drv, res,
              f.gvc + ((t - w.clk.vset.time0 f.gvc) / w.clk.vset.period).toNat⟩] } else y } })))) ∧
  (∀ (s : State) (f : Flight) (c u cmp : Nat) (held : Bool), (s.siteOf c = none ∨ (s.samplePoints f c u).1 = none → s.judge f c u cmp held = (0, s)) ∧
    (∀ (n : Nat) (a b : Int), s.siteOf c = some n → (s.samplePoints f c u).1 = some (a, b) →
      (s.budding = true ∨ actCompares (s.actionAt f c u) = false ∨ bitAt f.enabled n = false ∨ maskedIn f c = true → s.judge f c u cmp held = (0, s)) ∧
      (s.budding = false → actCompares (s.actionAt f c u) = true → bitAt f.enabled n = true → maskedIn f c = false →
        (s.pmuHeld c = true → s.judge f c u cmp held = (0, s.recordCause (2 ^ n) 1)) ∧
        (s.pmuHeld c = false → f.bad.contains (lsOff c (mwLevelset f.word)) = true → s.judge f c u cmp held = (0, s)) ∧
        (s.pmuHeld c = false → f.bad.contains (lsOff c (mwLevelset f.word)) = false → ∀ shadow : Bool,
          shadow = (!actDriveCompare (s.actionAt f c u) && !s.offBefore c a) →
          (s.settling c a = true → shadow = false → s.judge f c u cmp held = (0, s.unsettled c)) ∧
          (s.settling c a = true → shadow = true → s.judge f c u cmp held = (0, (s.unsettled c).shadowed c f.gvc)) ∧
          (s.settling c a = false → shadow = true → s.judge f c u cmp held = (0, s.shadowed c f.gvc)) ∧
          (s.settling c a = false → shadow = false → ∀ ok : Bool,
            ok = (actPasses (s.actionAt f c u) cmp && (held || !s.clk.vset.format || !tsWindow (tsWord f.active c (mwTset f.word)))) →
            s.judge f c u cmp held = (if ok then 1 else 2,
              s.countCompare f n (f.gvc + ((b - s.clk.vset.time0 f.gvc) / s.clk.vset.period).toNat) (!ok))))))) ∧
  (∀ (s : State) (c : Nat) (t : Int), (∀ v, s.landVolt c t = some v → s.comparator c t = (((s.chan c).judged v).state, s.setChan c ((s.chan c).judged v))) ∧
    (s.landVolt c t = none → ∃ v, s.free.1 = v ∧ (s.comparator c t).1 = v % 3) ∧
    (∀ (l : ChanLand) (v : Int), (l.volt 1 16 + l.halfBand < v → (l.judged v).ah = true) ∧
      (v ≤ l.volt 1 16 + l.halfBand → (v < l.volt 1 16 - l.halfBand ∨ l.halfBand = 0 → (l.judged v).ah = false) ∧
        (l.volt 1 16 - l.halfBand ≤ v → l.halfBand ≠ 0 → (l.judged v).ah = l.ah)) ∧
      (v < l.volt 1 0 - l.halfBand → (l.judged v).bl = true) ∧
      (l.volt 1 0 - l.halfBand ≤ v → (l.volt 1 0 + l.halfBand < v ∨ l.halfBand = 0 → (l.judged v).bl = false) ∧
        (v ≤ l.volt 1 0 + l.halfBand → l.halfBand ≠ 0 → (l.judged v).bl = l.bl))))

/-- TWIN_MISMATCH, READBACK_PERIOD, READBACK_STEP, UNTR_CLEAR and LVL_CTRL_WRITE, in every state, the writes where they reach their
register. A mismatch of the twin copies marks the channel untrusted with cause CFG and spoils its pass, and a reload that fails its check
counts and clears the entry's flag (R372, R378, R381, R823). At a period boundary, 4 × RBPERIOD ac after the last one, a pass begins on
every channel that is on and has none; one that still runs goes on, late where steps of it were void (R379, R380). A void step is done
again, so is one reading out of tolerance, and a second one marks the channel and counts it; the ninth step ends the pass, and a good one
stamps RBGOOD (R379, R380). CLR clears the marks only after a later good pass, and otherwise sets CLRREF (R382); RBPERIOD outside 100 to
10,000 is refused with RBREF, and an accepted one counts from now on (R379). A marking sets its bit, counts in LVL_NUNTR and raises
CH_UNTRUSTED (R381), with the low 16 bits of the GVC as VALUE, which is the model's choice (log entry 102). -/
def Obligations.ReadbackAndTrust : Prop :=
  (∀ (s u v : State) (c : Fin 256) (delay : Bool), u = s.markUntrusted c.val (if delay then LVL_CH_UNTR_DLYTWIN else LVL_CH_UNTR_LVTWIN) →
    v = u.setReadback c.val { u.readback c.val with spoilt := true } →
    exec (.twinMismatch c delay false) s = .next (v.recordCause (v.siteMask c.val) 0) ∧
    exec (.twinMismatch c delay true) s = .next ((v.recordCause (v.siteMask c.val) 0).reloadFailed c.val
      (if delay then tsOff c.val (s.chan c.val).ts else lsOff c.val (s.chan c.val).ls) (if delay then 1 else 2))) ∧
  (∀ (s : State) (c off cls : Nat), c < 256 → (s.reloadFailed c off cls).get CMT_NINTEG = (s.get CMT_NINTEG + 1) % 2 ^ 32 ∧
    (s.reloadFailed c off cls).get LVL_NCFG = (s.get LVL_NCFG + 1) % 2 ^ 32 ∧ off ∈ (s.reloadFailed c off cls).cmt.flagCleared ∧
    (s.reloadFailed c off cls).seq = s.seq) ∧
  (∀ (s : State) (c : Nat) (k : Nat → Field), c < 256 → k = LVL_CH_UNTR_RBFAIL ∨ k = LVL_CH_UNTR_DLYTWIN ∨ k = LVL_CH_UNTR_LVTWIN →
    (s.markUntrusted c k).get (k c) = 1 ∧ (s.markUntrusted c k).get LVL_NUNTR = (s.get LVL_NUNTR + 1) % 2 ^ 32 ∧
    ((s.markUntrusted c k).readback c).cleared = false ∧ ((s.markUntrusted c k).readback c).markAc = some (s.time.rc / 25) ∧
    (∃ r ∈ (s.markUntrusted c k).raised, r.src = srcChUntrusted ∧ r.arg = c ∧ r.value = s.get (LVL_CH_RBGOOD_LO c) % 2 ^ 16) ∧
    (s.markUntrusted c k).mem = s.mem ∧ (s.markUntrusted c k).seq = s.seq) ∧
  (∀ s : State, (s.time.rc < s.land.rbBase + 100 * s.get LVL_CTRL_RBPERIOD → exec .readbackPeriod s = .next s) ∧
    (s.land.rbBase + 100 * s.get LVL_CTRL_RBPERIOD ≤ s.time.rc → Completes (exec .readbackPeriod s) fun t =>
      t.land.rbBase = s.land.rbBase + 100 * s.get LVL_CTRL_RBPERIOD ∧ t.mem = s.mem ∧ t.seq = s.seq ∧ s.regsBut t [LVL_STATUS_RBLATE] ∧
      (∀ c < 256, t.readback c = if s.domOn (29 + 3 * (c / 32)) && !(s.readback c).running then
        { s.readback c with running := true, step := 0, again := false, void := false, spoilt := false, began := s.cmt.holdSeq, beganAc := s.time.rc / 25 }
        else s.readback c) ∧
      ((∃ c < 256, s.domOn (29 + 3 * (c / 32)) = true ∧ (s.readback c).running = true ∧ (s.readback c).void = true) → t.get LVL_STATUS_RBLATE = 1) ∧
      ((∀ c < 256, s.domOn (29 + 3 * (c / 32)) = false ∨ (s.readback c).running = false ∨ (s.readback c).void = false) →
        t.get LVL_STATUS_RBLATE = s.get LVL_STATUS_RBLATE ∧ t.raised = s.raised))) ∧
  (∀ (s : State) (c : Fin 256) (void bad : Bool) (r : Readback), r = s.readback c.val → (r.running = false → exec (.readbackStep c void bad) s = .next s) ∧
    (r.running = true → (void = true → exec (.readbackStep c void bad) s = .next (s.setReadback c.val { r with void := true })) ∧
      (void = false → bad = true → r.again = false → exec (.readbackStep c void bad) s = .next (s.setReadback c.val { r with again := true })) ∧
      (void = false → bad = false ∨ r.again = true → ∀ m u v : State, m = (s.inc (LVL_CH_RBFAIL c.val)).markUntrusted c.val LVL_CH_UNTR_RBFAIL →
        u = (if bad then m.setReadback c.val { m.readback c.val with spoilt := true } else s) →
        v = u.setReadback c.val { u.readback c.val with step := r.step + 1, again := false } →
        exec (.readbackStep c void bad) s = .next (if 8 ≤ r.step then v.endPass c.val else v)))) ∧
  (∀ (s : State) (c : Nat), ((s.endPass c).readback c).running = false ∧
    ((s.readback c).spoilt = true → (s.endPass c).cells = s.cells ∧ ((s.endPass c).readback c).cleared = (s.readback c).cleared) ∧
    ((s.readback c).spoilt = false → ((s.endPass c).readback c).good = some (s.readback c).began ∧
      ((∀ m, (s.readback c).markAc = some m → m < (s.readback c).beganAc) → ((s.endPass c).readback c).cleared = true) ∧
      (∀ g, s.stamp = some g → (s.endPass c).cells = (s.put64 (LVL_CH_RBGOOD_LO c) (LVL_CH_RBGOOD_HI c) g).cells))) ∧
  (∀ (s : State) (c : Fin 256), s.reaches .host 0x100E120 = true →
    ((s.readback c.val).cleared = true → exec (.untrClear c) s =
      .next (((s.put (LVL_CH_UNTR_RBFAIL c.val) 0).put (LVL_CH_UNTR_DLYTWIN c.val) 0).put (LVL_CH_UNTR_LVTWIN c.val) 0)) ∧
    ((s.readback c.val).cleared = false → exec (.untrClear c) s = .next (s.put (LVL_CH_UNTR_CLRREF c.val) 1))) ∧
  (∀ (s : State) (d : BitVec 32), s.reaches .host 0xA00 = true →
    (100 ≤ d.toNat % 2 ^ 14 ∧ d.toNat % 2 ^ 14 ≤ 10000 → exec (.lvlCtrlWrite d) s =
      .next { s.put LVL_CTRL_RBPERIOD d.toNat with land := { s.land with rbBase := s.time.rc } }) ∧
    (d.toNat % 2 ^ 14 < 100 ∨ 10000 < d.toNat % 2 ^ 14 → exec (.lvlCtrlWrite d) s = .next (s.put LVL_STATUS_RBREF 1)))

/-- RAKE_TAKE, RAKE_STOP, SITE_KILL and HOST_SITE_KILL, in every state. At its take point, or once a closed gate has cut it short, which is
the model's reading (log entry 116), the oldest vector leaves the land, requests of the host for the trigger program are done with, and its
free values are drawn (R352, R386, R400); a mask violation counts in CAP_NMVIOL (R392). A Rake decision stops the playlist with reason RAKE
at its boundary, unless its program ends it there (R242, R387); a kill that a count completed shows in CAP_KILL and ends the site's interval
(R410, R412); a host kill before a playlist's first vector only shows (R411), one at whose boundary the playlist ends does nothing, and
another kills its sites from the next boundary on. A command before its time, or with nothing to do, leaves everything as it is (log entry
6). -/
def Obligations.RakeAtTake : Prop :=
  (∀ (s : State) (full fcFull : Bool) (bad : List (BitVec 28)), (s.land.flights = [] → exec (.rakeTake full fcFull bad) s = .next s) ∧
    (∀ (f : Flight) (rest : List Flight), s.land.flights = f :: rest →
      (f.cut = false → s.reach (f.gvc + 99) = none → exec (.rakeTake full fcFull bad) s = .next s) ∧
      (∀ u : State, f.cut = true ∧ u = s ∨ f.cut = false ∧ s.reach (f.gvc + 99) = some u → Completes (exec (.rakeTake full fcFull bad) s) fun t =>
        t.land.flights = rest ∧ t.freeCtr = u.freeCtr + 2048 ∧ t.clk.gvc = u.clk.gvc ∧ t.seq.running = u.seq.running ∧
        t.cap.armReq = false ∧ t.cap.disarmReq = false ∧ t.cap.resetReq = false ∧
        t.get CAP_NMVIOL = (if ((u.takeBegin f).failTrig f (bad.map (·.toNat))).maskViolation f then (u.get CAP_NMVIOL + 1) % 2 ^ 32 else u.get CAP_NMVIOL)))) ∧
  (∀ s : State, (s.fail.rakeStop = none ∨ s.seq.running = none → exec .rakeStop s = .next s) ∧
    (∀ (g : Nat) (p : Playlist), s.fail.rakeStop = some g → s.seq.running = some p → (s.reachBoundary g = none → exec .rakeStop s = .next s) ∧
      (∀ u, s.reachBoundary g = some u → exec .rakeStop s = .next { u.softStop 11 with fail := { (u.softStop 11).fail with rakeStop := none } }))) ∧
  (∀ (s : State) (n : Fin 64), ((∀ e ∈ s.fail.killAt, e.1 ≠ n.val) ∨ s.killShown n.val = true → exec (.siteKill n) s = .next s) ∧
    (∀ g, (s.fail.killAt.find? fun e => e.1 == n.val) = some (n.val, g) → s.killShown n.val = false → (s.reach g = none → exec (.siteKill n) s = .next s) ∧
      (∀ u, s.reach g = some u → exec (.siteKill n) s =
        .next ((u.showKills (2 ^ n.val)).endIntervals (2 ^ n.val) (min (u.seq.issuedAt.getD 0) (g - 1)))))) ∧
  (∀ (s : State) (m : BitVec 64) (new : Nat), s.reaches .host 0x200074 = true → new = maskOf 64 (fun n => bitAt m.toNat n && !s.killShown n) →
    (s.seq.running = none ∨ s.seq.started = false → exec (.hostSiteKill m) s = .next (s.showKills new)) ∧
    (s.seq.running.isSome = true → s.seq.started = true → (s.endsHere = true → exec (.hostSiteKill m) s = .next s) ∧
      (s.endsHere = false → Completes (exec (.hostSiteKill m) s) fun t => t.seq = s.seq ∧ t.fail.siteFail = s.fail.siteFail ∧ t.land = s.land ∧ t.mem = s.mem ∧
        (∀ n < 64, t.killShown n = (s.killShown n || bitAt m.toNat n)) ∧ (∀ n < 64, bitAt new n = true → (n, s.boundary) ∈ t.fail.killAt) ∧
        (∀ e, bitAt new e.1 = false → (e ∈ t.fail.killAt ↔ e ∈ s.fail.killAt)))))

/-- CAP_ARM, CAP_DISARM, CAP_RESET, CAPTURE_ROOM_RETURN, FC_ROOM_RETURN and FC_RPTR_WRITE, in every state, the writes where they reach their
register. ARM waits for the next take point; DISARM and RESET act at once where no take point is outstanding, and otherwise at the next
(R400, R409). RESET clears the program's state, its flags and the write count, and a gap still to be marked goes with the ring, which is the
model's reading (log entry 115). Room for a record writes the gap record while capture goes on (R408), and in the fail catalogue where it
has the room that the gap needs (R418). A read count past the write count or behind the count in effect is ignored and sets RPTRERR (R414).
-/
def Obligations.CaptureControl : Prop :=
  (∀ s : State, s.reaches .host 0x200000 = true → exec .capArm s = .next { s with cap := { s.cap with armReq := true } } ∧
    (s.seq.running = none → s.land.flights = [] → exec .capDisarm s = .next (s.put CAP_STATUS_ARMED 0) ∧ exec .capReset s = .next s.capReset) ∧
    (s.seq.running ≠ none ∨ s.land.flights ≠ [] → exec .capDisarm s = .next { s with cap := { s.cap with disarmReq := true } } ∧
      exec .capReset s = .next { s with cap := { s.cap with resetReq := true, armReq := false, disarmReq := false } })) ∧
  (∀ s : State, s.capReset.cap = { s.cap with cnt := 0, win := 0, fill := 0, post := 0, gap := none, sinceDrop := none, hole := false } ∧
    (∀ f ∈ [CAP_STATUS_FIRED, CAP_STATUS_FROZEN, CAP_STATUS_FILLED, CAP_STATUS_HOLE, CAP_STATUS_SHORTPOST, CAP_STATUS_RINGFULL, CAP_STATUS_ARMED,
      CAP_STATUS_ST, CAP_WPTR_LO, CAP_WPTR_HI], s.capReset.get f = 0) ∧
    s.regsBut s.capReset [CAP_STATUS_FIRED, CAP_STATUS_FROZEN, CAP_STATUS_FILLED, CAP_STATUS_HOLE, CAP_STATUS_SHORTPOST, CAP_STATUS_RINGFULL, CAP_STATUS_ARMED,
      CAP_STATUS_ST, CAP_WPTR_LO, CAP_WPTR_HI] ∧ s.capReset = { s with cells := s.capReset.cells, cap := s.capReset.cap }) ∧
  (∀ s u : State, u = { s with cap := { s.cap with bufFull := false } } →
    (s.cap.capOn = false ∨ s.on CAP_STATUS_FROZEN = true ∨ s.on CAP_STATUS_RINGFULL = true ∨ s.cap.gap = none → exec .captureRoomReturn s = .next u) ∧
    (∀ n g, s.cap.capOn = true → s.on CAP_STATUS_FROZEN = false → s.on CAP_STATUS_RINGFULL = false → s.cap.gap = some (n, g) →
      exec .captureRoomReturn s = .next ((({ u with cap := { u.cap with gap := none } } : State).capPut
        (fun seq => wordBytes [g % 2 ^ 32, g / 2 ^ 32, 2 ^ 31, 1, n, 0, seq, 0]) 32).2))) ∧
  (∀ s u : State, u = { s with cap := { s.cap with fcBufFull := false } } → (s.cap.fcGap = none ∨ 2 ^ 26 < u.fcUsed + 4 → exec .fcRoomReturn s = .next u) ∧
    (∀ (n g : Nat) (t : State), s.cap.fcGap = some (n, g) → u.fcUsed + 4 ≤ 2 ^ 26 →
      t = (u.fcWrite (3 * 2 ^ 126 + (g % 2 ^ 40) * 2 ^ 56 + n)).put CAP_FC_STATUS_GAPPEND 0 →
      exec .fcRoomReturn s = .next { t with cap := { t.cap with fcGap := none, fcBase := none } })) ∧
  (∀ (s : State) (hi : BitVec 32) (v : Nat), s.reaches .host 0x200064 = true → v = s.get CAP_FC_RPTR_LO + 2 ^ 32 * hi.toNat →
    (s.cap.fcRptr ≤ v ∧ v ≤ s.get64 CAP_FC_WPTR_LO CAP_FC_WPTR_HI → exec (.fcRptrWrite hi) s =
      .next { s.put64 CAP_FC_RPTR_LO CAP_FC_RPTR_HI v with cap := { s.cap with fcRptr := v } }) ∧
    (v < s.cap.fcRptr ∨ s.get64 CAP_FC_WPTR_LO CAP_FC_WPTR_HI < v →
      exec (.fcRptrWrite hi) s = .next ((s.put64 CAP_FC_RPTR_LO CAP_FC_RPTR_HI s.cap.fcRptr).put CAP_FC_STATUS_RPTRERR 1)))

/-- TIU_TAKE, TIU_RELEASE, TIU_ARM, TIU_DISARM, TIU_TIMEOUT, TIU_RANGE, TIU_CAL_REQ, TIU_CAL_START, TIU_CAL_END and TIU_CALLATE, in every
state, the writes where they reach their register. A free unit of a bank that is on goes to the host, and any other raises CLAIM_DENIED
(R433, R770); the host releases and disarms only a unit of its own. An ARM of the owner arms it, in a reserved mode sets SRCERR, while armed
does nothing, and of another is refused (R435, R436, R451); DISARM, TIMEOUT and RANGE end the measurement with codes 2, 1 and 3 (R439); a
calibration is queued for every unit named while the queue has room, from the highest down (R446, R820), takes a free unit, and its 17
histograms of 2^22 hits replace the tables or set TIU_CAL_FAIL (R446 to R448); an entry that meets its deadline unstarted counts as late,
stays queued and raises TIU_CALLATE (R446, R561). -/
def Obligations.TimeIntervalUnits : Prop :=
  (∀ (s : State) (n : Fin 16), s.reaches .host (0x281000 + 0x100 * n.val) = true →
    (s.get (TIU_STATUS_OWNER n.val) = 0 → bitAt (s.get PMG_DOM_ON0) (12 + n.val / 8) = true → exec (.tiuTake n) s = .next (s.put (TIU_STATUS_OWNER n.val) 1)) ∧
    (s.get (TIU_STATUS_OWNER n.val) ≠ 0 ∨ bitAt (s.get PMG_DOM_ON0) (12 + n.val / 8) = false → exec (.tiuTake n) s = .next (s.raise srcClaimDenied 0x28 0))) ∧
  (∀ (s : State) (n : Fin 16), s.reaches .host (0x281000 + 0x100 * n.val) = true →
    (s.get (TIU_STATUS_OWNER n.val) ≠ 1 → exec (.tiuRelease n) s = .next s ∧ exec (.tiuDisarm n) s = .next s ∧
      exec (.tiuArm n) s = .next (s.raise srcClaimDenied 0x28 0)) ∧
    (s.get (TIU_STATUS_OWNER n.val) = 1 → (∀ u : State, u = (s.tiuEnd n.val 2).put (TIU_STATUS_OWNER n.val) 0 →
        exec (.tiuRelease n) s = .next (u.setTiu n.val { u.tiuUnit n.val with gated := false, gateOpen := false })) ∧
      exec (.tiuDisarm n) s = .next (s.tiuEnd n.val 2) ∧
      (s.get (TIU_CTRL_MODE n.val) = 3 → exec (.tiuArm n) s = .next (s.put (TIU_STATUS_SRCERR n.val) 1)) ∧
      (s.get (TIU_CTRL_MODE n.val) ≠ 3 → exec (.tiuArm n) s = .next (if s.tiuBusy n.val then s else s.tiuArmUnit n.val)))) ∧
  (∀ (s : State) (n : Nat), n < 16 → (s.tiuArmUnit n).get (TIU_STATUS_ARMED n) = 1 ∧ (s.tiuArmUnit n).get (TIU_STATUS_STARTED n) = 0 ∧
    ((s.tiuArmUnit n).tiuUnit n).e0 = none ∧ ((s.tiuArmUnit n).tiuUnit n).taken = [] ∧ s.regsBut (s.tiuArmUnit n) [TIU_STATUS_ARMED n, TIU_STATUS_STARTED n] ∧
    ∀ k, k ≠ n → (s.tiuArmUnit n).tiuUnit k = s.tiuUnit k) ∧
  (∀ (s : State) (n : Fin 16), exec (.tiuTimeout n) s = .next (s.tiuEnd n.val 1) ∧
    exec (.tiuRange n) s = .next (if s.on (TIU_STATUS_STARTED n.val) then s.tiuEnd n.val 3 else s)) ∧
  (∀ (s : State) (m : BitVec 16), s.reaches .host 0x280000 = true → exec (.tiuCalReq m) s = .next ((List.range 16).reverse.foldl (fun t n =>
      if bitAt m.toNat n && decide (t.cal.queue.length < 1024) then
        ({ t with cal := { t.cal with queue := mergeEntry ⟨7, 0, n, t.time.rc + 100000 * t.get TIU_CAL_DEADLINE, false, false, 0⟩ t.cal.queue } } : State).put
          (TIU_STATUS_CALQ n) 1
      else t) s)) ∧
  (∀ (s : State) (n : Fin 16), (s.tiuCalEntry n.val = none ∨ s.get (TIU_STATUS_OWNER n.val) ≠ 0 → exec (.tiuCalStart n) s = .next s) ∧
    (∀ (e : CalEntry) (u : State), s.tiuCalEntry n.val = some e → s.get (TIU_STATUS_OWNER n.val) = 0 → u = { s with
        cal := { s.cal with queue := s.cal.queue.filter (· ≠ e), running := s.cal.running ++ [{ e with began := s.time.rc }] } } →
      exec (.tiuCalStart n) s = .next (((u.put (TIU_STATUS_OWNER n.val) 3).put (TIU_STATUS_CALQ n.val) 0).put TIU_CAL_STATUS_CALBUSY
        (setBitN (u.get TIU_CAL_STATUS_CALBUSY) n.val)))) ∧
  (∀ (s : State) (n : Fin 16) (h : List (List (BitVec 23))),
    ((∀ e ∈ s.cal.running, e.kind ≠ 7 ∨ e.target ≠ n.val) ∨ h.length ≠ 17 ∨ h.all histWhole = false → exec (.tiuCalEnd n h) s = .next s) ∧
    ((∃ e ∈ s.cal.running, e.kind = 7 ∧ e.target = n.val) → h.length = 17 → h.all histWhole = true → Completes (exec (.tiuCalEnd n h) s) fun t =>
      t.get (TIU_STATUS_OWNER n.val) = 0 ∧ t.cal.running = s.cal.running.filter (fun e => !(e.kind == 7 && e.target == n.val)) ∧
      (h.any histBad = true → t.tiu.bins = s.tiu.bins ∧ t.get TIU_CAL_FAIL = setBitN (s.get TIU_CAL_FAIL) n.val % 2 ^ 16 ∧
        ∃ r, t.raised = s.raised ++ [r] ∧ r.src = srcTiuCalfail ∧ r.arg = n.val) ∧
      (h.any histBad = false → t.get TIU_CAL_STATUS_CALVALID = setBitN (s.get TIU_CAL_STATUS_CALVALID) n.val % 2 ^ 16 ∧
        t.tiu.bins = (List.range 17).foldl (fun m i => Assoc.set [] m (17 * n.val + i) (binTable (h.getD i []) 0)) s.tiu.bins))) ∧
  (∀ (s : State) (n : Fin 16), (s.tiuCalEntry n.val = none → exec (.tiuCallate n) s = .next s) ∧
    (∀ e, s.tiuCalEntry n.val = some e → (e.late = true ∨ s.time.rc < e.deadline → exec (.tiuCallate n) s = .next s) ∧
      (e.late = false → e.deadline ≤ s.time.rc → exec (.tiuCallate n) s = .next ((s.calLate e).raise srcTiuCallate n.val 0) ∧
        (s.calLate e).cal.queue = s.cal.queue.map (fun x => if x = e then { x with late := true } else x) ∧
        (s.calLate e).get CAL_NLATE = (s.get CAL_NLATE + 1) % 2 ^ 32 ∧ (s.calLate e).get CAL_STATUS_LATE = 1)))

/-- TIU_EVENT, in every state. Frozen, and for a drive event that is no transition at the land, nothing happens (R430); otherwise the
comparator of a compare event's channel follows it (R366, R429), and a unit that does not listen to the input, whose source is interrupted
or whose gate is closed takes no event (R431, R432, R436, R442). A taken event is timestamped 32768 times the coarse count plus the bin's
entry, the coarse counter making 20 counts in a reference cycle (R425, R426); an interpolator in its dead time takes none (R428), and within
a FREQ gate events are only counted (R438). The first on the start input starts the armed unit (R436); a stop input's is taken once, in
INTERVAL mode alone, after the hold-off, and within 250 ps of it the choice is a free value (R436, R437); a result beyond the range ends the
measurement with 3, and the last one with 0 (R427, R439). A unit that ends posts its END code, frees its status bits and counts in TIU_SEQ
(R439, R440). -/
def Obligations.TimeIntervalEvents : Prop :=
  (∀ (s : State) (n : Fin 16) (i : Fin 17) (k : Fin 20) (b : Fin 1024) (edge sel : Nat), s.tiuSrc n.val i.val = (edge, sel) →
    (s.frozen = true ∨ s.tiuDrives edge sel = false → exec (.tiuEvent n i k b) s = .next s) ∧
    (s.frozen = false → s.tiuDrives edge sel = true → ∀ (u : State) (x : TiuUnit), u = s.tiuCompare edge sel → x = s.tiuUnit n.val →
      (u.tiuListens n.val i.val x = false ∨ u.tiuWatches n.val i.val u.interrupted = true ∨ x.gated = true ∧ x.gateOpen = false →
        exec (.tiuEvent n i k b) s = .next u) ∧
      (u.tiuListens n.val i.val x = true → u.tiuWatches n.val i.val u.interrupted = false → x.gated = false ∨ x.gateOpen = true →
        ∀ (key f : Nat) (valid : Bool) (v : State) (t : Int), key = x.interp (s.get (TIU_CTRL_MODE n.val)) i.val → u.tiuBin n.val key b.val = (f, valid, v) →
        t = 32768 * ((20 * s.time.rc + k.val : Nat) : Int) + (f : Int) →
        (v.tiuOnlyCounts n.val x t = true → exec (.tiuEvent n i k b) s = .next (v.tiuStart n.val (32768 * ((20 * s.time.rc + k.val : Nat) : Int)) x)) ∧
        (v.tiuOnlyCounts n.val x t = false → v.tiuDead (17 * n.val + key) t = true → exec (.tiuEvent n i k b) s = .next u) ∧
        (v.tiuOnlyCounts n.val x t = false → v.tiuDead (17 * n.val + key) t = false → exec (.tiuEvent n i k b) s =
          .next (if i.val = 0 then (v.tiuConvert (17 * n.val + key) t).tiuStart n.val t { x with nocal := x.nocal || !valid }
            else (v.tiuConvert (17 * n.val + key) t).tiuStop n.val (i.val - 1) t { x with nocal := x.nocal || !valid }))))) ∧
  (∀ (s : State) (n : Nat) (t : Int) (u : TiuUnit), n < 16 → u.e0 = none →
    (s.tiuStart n t u).get (TIU_STATUS_STARTED n) = 1 ∧ (s.tiuStart n t u).get (TIU_STATUS_ARMED n) = 0 ∧
    ((s.tiuStart n t u).tiuUnit n).e0 = some t ∧ ((s.tiuStart n t u).tiuUnit n).last = t) ∧
  (∀ (s : State) (n k : Nat) (t d : Int) (u : TiuUnit) (e : Int), u.e0 = some e → d = t - (e + (s.get (TIU_CFG_HOLDOFF n) : Int) * 32768) →
    (s.get (TIU_CTRL_MODE n) ≠ 0 ∨ s.get (TIU_CFG_NSTOP n) < k ∨ (u.taken.any fun r => r.1 == k) = true → s.tiuStop n k t u = s) ∧
    (s.get (TIU_CTRL_MODE n) = 0 → k ≤ s.get (TIU_CFG_NSTOP n) → (u.taken.any fun r => r.1 == k) = false →
      (16384 ≤ d → s.tiuStop n k t u = s.tiuTakeResult n k (interval t e) u) ∧ (d ≤ -16384 → s.tiuStop n k t u = s) ∧
      (-16384 < d → d < 16384 → s.tiuStop n k t u = (if s.free.1 % 2 = 1 then s.free.2.tiuTakeResult n k (interval t e) u else s.free.2)))) ∧
  (∀ (s : State) (n k : Nat) (v : Int) (u x : TiuUnit), x = { u with taken := Assoc.insert u.taken k v } →
    (2 ^ 47 ≤ v.natAbs → s.tiuTakeResult n k v u = (s.setTiu n u).tiuEnd n 3) ∧
    (v.natAbs < 2 ^ 47 → s.tiuTakeResult n k v u = (if x.taken.length = s.tiuResults n then (s.setTiu n x).tiuEnd n 0 else s.setTiu n x))) ∧
  (∀ (s : State) (n e : Nat), (s.tiuBusy n = false → s.tiuEnd n e = s) ∧
    (n < 16 → e < 8 → s.tiuBusy n = true → (s.tiuEnd n e).get (TIU_STATUS_END n) = e ∧
      (s.tiuEnd n e).get (TIU_SEQ n) = (s.get (TIU_SEQ n) + 1) % 2 ^ 32 ∧
      (s.on (TIU_CTRL_CONT n) = false ∨ e = 2 → (s.tiuEnd n e).tiuBusy n = false) ∧
      (s.on (TIU_CTRL_CONT n) = true → e ≠ 2 → (s.tiuEnd n e).get (TIU_STATUS_ARMED n) = 1)))

/-- PMU_TAKE, PMU_RELEASE, PMU_CONNECT, PMU_CONNECT_DONE, PMU_FORCE_WRITE, CONTACT_TEST_GO and CONTACT_CHANNEL_DONE, in every state, the
writes where they reach their register. A free PMU of a powered tile goes to the writer, and any other raises CLAIM_DENIED (R454, R770); a
write to the registers of a powered tile by any other than the owner is discarded and counted (R454, R455), and one to a domain that is off
is counted as its own rule says (R770). The owner's write of PMU_CTRL sets the range and the mode, a reserved range setting VALERR, and
starts a new connection, but one to a channel under calibration is refused (R458, R462, R557). A new connection closes when its 10 µs are
over, except to a tripped channel or while a logic rail is low, where it ends with TRIP (R41, R456 to R458). A value out of range sets
VALERR, and another one is taken (R460, R461). A contact test with an owned PMU, one of a tile that is off or a channel under calibration is
refused whole; an accepted one takes its PMUs (R463). A channel of it gets its result when its connection has closed, ABORT where it is
tripped (R464, R466, R468). Rounding of contact readings is free (log entry 4). -/
def Obligations.SourceUnits : Prop :=
  (∀ (s : State) (r : Req) (n : Fin 32), s.reaches r (0x301000 + 0x100 * n.val) = true →
    (s.get (PMU_STATUS_OWNER n.val) = 0 → s.domOn (30 + 3 * (n.val / 4)) = true →
      exec (.pmuTake r n) s = .next (s.put (PMU_STATUS_OWNER n.val) (if r = .host then 1 else 2))) ∧
    (s.get (PMU_STATUS_OWNER n.val) ≠ 0 ∨ s.domOn (30 + 3 * (n.val / 4)) = false → exec (.pmuTake r n) s = .next (s.raise srcClaimDenied 0x30 0)) ∧
    (s.get (PMU_STATUS_OWNER n.val) ≠ (if r = .host then 1 else 2) → exec (.pmuRelease r n) s = .next ((s.incSat PMU_WREFUSED).raise srcClaimDenied 0x30 0)) ∧
    (s.get (PMU_STATUS_OWNER n.val) = (if r = .host then 1 else 2) →
      exec (.pmuRelease r n) s = .next (((if s.on (PMU_STATUS_CONN n.val) then s.put (PMU_STATUS_END n.val) 2 else s).pmuOpen n.val).put
        (PMU_STATUS_OWNER n.val) 0))) ∧
  (∀ (s : State) (r : Req) (n : Fin 32) (d : BitVec 32) (k : Fin 3),
    (s.reaches r (0x301000 + 0x100 * n.val) = true → s.domOn (30 + 3 * (n.val / 4)) = false → exec (.pmuConnect r n d) s = .next (s.incSat PMG_NOFFWR)) ∧
    (s.reaches r (0x301008 + 0x100 * n.val) = true → s.domOn (30 + 3 * (n.val / 4)) = false → exec (.pmuForceWrite r n k d) s = .next (s.incSat PMG_NOFFWR)) ∧
    (s.domOn (30 + 3 * (n.val / 4)) = true → s.get (PMU_STATUS_OWNER n.val) ≠ (if r = .host then 1 else 2) →
      (s.reaches r (0x301000 + 0x100 * n.val) = true → exec (.pmuConnect r n d) s = .next ((s.incSat PMU_WREFUSED).raise srcClaimDenied 0x30 0)) ∧
      (s.reaches r (0x301008 + 0x100 * n.val) = true → exec (.pmuForceWrite r n k d) s = .next ((s.incSat PMU_WREFUSED).raise srcClaimDenied 0x30 0)))) ∧
  (∀ (s : State) (r : Req) (n : Fin 32) (d : BitVec 32), s.reaches r (0x301000 + 0x100 * n.val) = true → s.domOn (30 + 3 * (n.val / 4)) = true →
    s.get (PMU_STATUS_OWNER n.val) = (if r = .host then 1 else 2) → exec (.pmuConnect r n d) s =
      .next (if bits d.toNat 15 1 = 1 ∧ s.inCal (8 * n.val + bits d.toNat 6 3) = true then s.raise srcClaimDenied 0x30 0 else s.pmuCtrl n.val d.toNat)) ∧
  (∀ (s : State) (n d : Nat), n < 32 → (s.pmuCtrl n d).get (PMU_CTRL_MODE n) = bits d 0 2 ∧
    (bits d 2 3 < 5 → (s.pmuCtrl n d).get (PMU_CTRL_IRANGE n) = bits d 2 3) ∧
    (5 ≤ bits d 2 3 → (s.pmuCtrl n d).get (PMU_CTRL_IRANGE n) = s.get (PMU_CTRL_IRANGE n) ∧ (s.pmuCtrl n d).get (PMU_STATUS_VALERR n) = 1) ∧
    (bits d 15 1 ≠ s.get (PMU_CTRL_CONN n) ∨ bits d 6 3 ≠ s.get (PMU_CTRL_CH n) →
      (s.pmuCtrl n d).get (PMU_CTRL_CONN n) = bits d 15 1 ∧ (s.pmuCtrl n d).get (PMU_CTRL_CH n) = bits d 6 3 ∧ (s.pmuCtrl n d).get (PMU_STATUS_CONN n) = 0 ∧
      ((s.pmuCtrl n d).pmu.closing.find? fun e => e.1 == n) = (if bits d 15 1 = 1 then some (n, 8 * n + bits d 6 3) else none)) ∧
    (bits d 15 1 = s.get (PMU_CTRL_CONN n) → bits d 6 3 = s.get (PMU_CTRL_CH n) → (s.pmuCtrl n d).pmu.closing = s.pmu.closing ∧
      (s.pmuCtrl n d).get (PMU_STATUS_CONN n) = s.get (PMU_STATUS_CONN n))) ∧
  (∀ (s : State) (n : Fin 32), ((∀ e ∈ s.pmu.closing, e.1 ≠ n.val) → exec (.pmuConnectDone n) s = .next s) ∧
    (∀ c, (s.pmu.closing.find? fun e => e.1 == n.val) = some (n.val, c) →
      (s.tripped c = true ∨ s.pins.railLow = true → exec (.pmuConnectDone n) s = .next ((s.pmuOpen n.val).put (PMU_STATUS_END n.val) 1)) ∧
      (s.tripped c = false → s.pins.railLow = false → ∀ t u : State, t = s.pmuOpen n.val →
        u = ((t.put (PMU_STATUS_CONN n.val) 1).setChan c { t.chan c with drv := 0 }).pmuChange n.val →
        exec (.pmuConnectDone n) s = .next { u with pmu := { u.pmu with since := Assoc.insert u.pmu.since n.val u.modSample } }))) ∧
  (∀ (s : State) (r : Req) (n : Fin 32) (k : Fin 3) (d : BitVec 32), s.reaches r (0x301008 + 0x100 * n.val) = true →
    s.domOn (30 + 3 * (n.val / 4)) = true → s.get (PMU_STATUS_OWNER n.val) = (if r = .host then 1 else 2) →
    (s.pmuValueOk n.val k.val d.toNat = false → exec (.pmuForceWrite r n k d) s = .next (s.put (PMU_STATUS_VALERR n.val) 1)) ∧
    (s.pmuValueOk n.val k.val d.toNat = true → ∀ u : State, u = (if k = 0 then s.put (PMU_FORCE n.val) d.toNat else if k = 1 then s.put (PMU_CLAMP n.val) d.toNat
        else (s.put (PMU_VCLAMP_VCLH n.val) (d.toNat / 2 ^ 16)).put (PMU_VCLAMP_VCLL n.val) (d.toNat % 2 ^ 16)) →
      exec (.pmuForceWrite r n k d) s = .next (if u.on (PMU_STATUS_CONN n.val) then u.pmuChange n.val else u))) ∧
  (∀ (s : State) (sel pmus : List Nat), s.reaches .host 0x300000 = true → sel = allChannels.filter (fun c => s.bitOf PMU_CT_SEL c) →
    pmus = (List.range 32).filter (fun n => sel.any fun c => c / 8 == n) →
    ((∃ n ∈ pmus, s.on (PMU_STATUS_OWNER n) = true ∨ s.domOn (30 + 3 * (n / 4)) = false) ∨ (∃ c ∈ sel, s.inCal c = true) →
      exec .contactTestGo s = .next ((s.put PMU_CT_STATUS_CTREF 1).raise srcClaimDenied 0x30 0)) ∧
    ((∀ n ∈ pmus, s.on (PMU_STATUS_OWNER n) = false ∧ s.domOn (30 + 3 * (n / 4)) = true) → (∀ c ∈ sel, s.inCal c = false) →
      Completes (exec .contactTestGo s) fun t => t.pmu.contact = s.pmu.contact ++ sel ∧ (∀ n ∈ pmus, t.get (PMU_STATUS_OWNER n) = 4) ∧
        (∀ n < 32, n ∉ pmus → t.get (PMU_STATUS_OWNER n) = s.get (PMU_STATUS_OWNER n)) ∧
        (s.pmu.contact ++ sel ≠ [] → t.get PMU_CT_STATUS_BUSY = 1) ∧
        (s.pmu.contact ++ sel = [] → t.get PMU_CT_STATUS_BUSY = 0 ∧ t.get PMU_CT_STATUS_DONE = 1))) ∧
  (∀ (s : State) (c : Fin 256) (vn vp : BitVec 32),
    (s.ctNow (c.val / 8) ≠ some c.val ∨ s.tripped c.val = false ∧ s.on (PMU_STATUS_CONN (c.val / 8)) = false → exec (.contactChannelDone c vn vp) s = .next s) ∧
    (s.ctNow (c.val / 8) = some c.val → s.tripped c.val = true ∨ s.on (PMU_STATUS_CONN (c.val / 8)) = true →
      Completes (exec (.contactChannelDone c vn vp) s) fun t =>
        t.get (PMU_CT_RES_RESULT c.val) = (if s.tripped c.val then 6
          else contactResult (s.contactClass vn.toInt false) (s.contactClass vp.toInt true)) ∧
        t.pmu.contact = s.pmu.contact.filter (· != c.val) ∧ (t.pmu.contact = [] → s.on PMU_CT_STATUS_BUSY = true →
          t.get PMU_CT_STATUS_BUSY = 0 ∧ t.get PMU_CT_STATUS_DONE = 1)))

/-- DFC_START, DFC_STOP, DFC_FREEZE, DFC_BASE_WRITE and DFC_OUTPUT, in every state, the writes where they reach their register. A write by
any other than the owner of the chain's PMU is discarded and counted (R455), and one while the chains' domain is off is counted as its own
rule says (R770). START of a valid configuration clears the output count, notes the GVC of modulator sample 0 and runs; an invalid one sets
CFGERR (R469, R472, R482). FREEZE holds the baseline, and a BASE write sets it only while frozen (R476). A chain that runs, when its next
output is due with the DF inputs of it, gives the FIR output of its last 96 inputs (R471, R472), which passes the DC-blocking stage (R475,
R476); without the resampler it replaces DFC_OUT and counts (R472, R479), with it it does so only where the phase accumulator carries, and
what the resampler's phases compute is a free value (log entry 4). -/
def Obligations.FilterChains : Prop :=
  (∀ (s : State) (r : Req) (n : Fin 32) (d : BitVec 32) (b : Bool) (v : State), s.domOn 14 = false ∧ v = s.incSat PMG_NOFFWR ∨
      s.domOn 14 = true ∧ s.get (PMU_STATUS_OWNER n.val) ≠ (if r = .host then 1 else 2) ∧ v = (s.incSat PMU_WREFUSED).raise srcClaimDenied 0x34 0 →
    (s.reaches r (0x341008 + 0x100 * n.val) = true → exec (.dfcStart r n) s = .next v ∧ exec (.dfcStop r n) s = .next v ∧ exec (.dfcFreeze r n b) s = .next v) ∧
    (s.reaches r (0x341014 + 0x100 * n.val) = true → exec (.dfcBaseWrite r n d) s = .next v)) ∧
  (∀ (s : State) (r : Req) (n : Fin 32) (d : BitVec 32) (b : Bool), s.reaches r (0x341008 + 0x100 * n.val) = true → s.domOn 14 = true →
    s.get (PMU_STATUS_OWNER n.val) = (if r = .host then 1 else 2) →
    (s.dfcValid n.val = false → exec (.dfcStart r n) s = .next (s.put (DFC_STATUS_CFGERR n.val) 1)) ∧
    (s.dfcValid n.val = true → exec (.dfcStart r n) s = .next (((((s.put (DFC_STATUS_RUN n.val) 1).put64 (DFC_NOUT_LO n.val) (DFC_NOUT_HI n.val) 0).put64
      (DFC_START_GVC_LO n.val) (DFC_START_GVC_HI n.val) (s.stampAt (5 * s.modSample - s.time.rc))).put (DFC_BASE n.val) 0).setChain n.val
        ⟨s.modSample, [], 0, 0, 0, [], 0⟩)) ∧
    exec (.dfcStop r n) s = .next (s.put (DFC_STATUS_RUN n.val) 0) ∧
    exec (.dfcFreeze r n b) s = .next ((s.put (DFC_CTRL_FREEZE n.val) (b2n b)).put (DFC_STATUS_FROZEN n.val) (b2n b))) ∧
  (∀ (s : State) (r : Req) (n : Fin 32) (d : BitVec 32) (b : Bool), s.reaches r (0x341014 + 0x100 * n.val) = true → s.domOn 14 = true →
    s.get (PMU_STATUS_OWNER n.val) = (if r = .host then 1 else 2) →
    (s.on (DFC_STATUS_FROZEN n.val) = false → exec (.dfcBaseWrite r n d) s = .next s) ∧
    (s.on (DFC_STATUS_FROZEN n.val) = true → exec (.dfcBaseWrite r n d) s =
      .next ((s.put (DFC_BASE n.val) d.toNat).setChain n.val { s.chain n.val with b := d.toInt, bExp := 0 }))) ∧
  (∀ (s : State) (n : Fin 32) (xs : List (BitVec 32)) (clip : Bool),
    (s.on (DFC_STATUS_RUN n.val) = false ∨ s.domOn 14 = false ∨ s.frozen = true ∨ xs.length ≠ s.get (DFC_CFG_DF n.val) + 1 ∨ s.dfcDue n.val = false →
      exec (.dfcOutput n xs clip) s = .next s) ∧
    (s.on (DFC_STATUS_RUN n.val) = true → s.domOn 14 = true → s.frozen = false → xs.length = s.get (DFC_CFG_DF n.val) + 1 → s.dfcDue n.val = true →
      ∀ (c c1 : DfcChain) (fl x e code base rr : Nat) (y : Int) (u v w t : State) (past : List Nat),
      c = { s.chain n.val with fir := ((xs.reverse.map (·.toInt)) ++ (s.chain n.val).fir).take 96 } → fl = s.dfcFlags n.val c clip →
      s.sampleCode (s.firOutput (s.get (DFC_CFG_FSET n.val)) c.fir) 23 = (x, u) →
      dcBlock (s.get (DFC_CFG_DCK n.val)) (s.on (DFC_STATUS_FROZEN n.val)) c (signedOf 32 x) = (y, e, c1) →
      u.sampleCode y e = (code, v) → v.sampleCode c1.b c1.bExp = (base, w) → rr = s.get (DFC_RATIO n.val) → past = (fl :: c1.past).take 16 →
      t = (w.put (DFC_BASE n.val) base).setChain n.val { c1 with inputs := c.inputs + 1, past := past, acc := (c.acc + rr) % 2 ^ 32 } →
      exec (.dfcOutput n xs clip) s = .next (if rr = 0 then t.dfcPut n.val code fl else if c.acc + rr < 2 ^ 32 then t
        else t.free.2.dfcPut n.val (t.free.1 % 2 ^ 32) (past.foldl (· ||| ·) 0)))) ∧
  (∀ (s : State) (n v fl : Nat), n < 32 → v < 2 ^ 32 → fl < 16 → (s.dfcPut n v fl).get (DFC_OUT n) = v ∧ (s.dfcPut n v fl).get (DFC_FLAGS n) = fl ∧
    (s.dfcPut n v fl).get64 (DFC_NOUT_LO n) (DFC_NOUT_HI n) = (s.get64 (DFC_NOUT_LO n) (DFC_NOUT_HI n) + 1) % 2 ^ 64 ∧
    (s.on (DFC_QUEUE_EN n) = false → (s.dfcPut n v fl).mem = s.mem ∧ (s.dfcPut n v fl).raised = s.raised))

/-- GRD_DECISION, GRD_IN_WINDOW, GRD_RAW_DECISION, GRD_P_TICK, GRD_ILIM, GRD_MTRIP and GRD_TWIN, in every state. The samples of a monitor
act one after the other, and one in P mode takes none but at its tick (R490, R494, R499); a tick that is not yet due does nothing (R490). A
sample below LO or above HI is out of window (R494). When K of the last N are out, the filtered decision is out: one that was in window sets
ACTIVE and LATCHED, counts, and trips with SRC FILT, and one that was out leaves them; with fewer ACTIVE clears (R499, R502, R506). A
reversed supply sets POLREV and raises GRD_POLREV once (R494). A raw decision out of window trips with SRC RAW alone (R502). A trip counts,
latches and holds the channel, its own or its site's by ACT (R503), a DUT-supply monitor those of its sites (R503, R504); an internal-rail
decision latches, sets RAIL_LATCHED and raises GRD_RAIL, and its trip is the power-loss trigger, that of VDD_AO's monitor 294 the safe state
(R504). A driver that is on and 8 ns in limit counts and trips, one that is off does nothing (R505); a manual trip trips the channels of its
ones (R503); a twin mismatch latches and counts, trips but with SRC NONE, records CFG for the sites watched (R100, R498). -/
def Obligations.GuardDecisions : Prop :=
  (∀ (s : State) (m : Fin 312), exec (.grdDecision m []) s = .next s ∧ exec (.grdInWindow m []) s = .next s ∧
    ∀ (v : BitVec 16) (vs : List (BitVec 16)),
    (s.grdMode m.val = 3 → exec (.grdDecision m (v :: vs)) s = .next s ∧ exec (.grdInWindow m (v :: vs)) s = .next s) ∧
    (s.grdMode m.val ≠ 3 → exec (.grdDecision m (v :: vs)) s = .next (vs.foldl (fun t x => t.grdSample m.val x.toInt) (s.grdSample m.val v.toInt)) ∧
      exec (.grdInWindow m (v :: vs)) s = .next (vs.foldl (fun t x => t.grdSample m.val x.toInt) (s.grdSample m.val v.toInt)))) ∧
  (∀ (s : State) (m : Nat) (v : Int), s.grdOutside m v = true ↔ v < signedOf 16 (s.grdThr m % 2 ^ 16) ∨ signedOf 16 (s.grdThr m / 2 ^ 16) < v) ∧
  (∀ (s : State) (m : Nat) (v : Int), m < 312 → s.grdMode m ≠ 3 →
    ∀ (h r : Nat), h = ((s.monitor m).hist * 2 + b2n (s.grdOutside m v)) % 2 ^ 15 → r = ((s.monitor m).rev * 2 + b2n (grdReversed m v)) % 2 ^ 15 →
    ∀ u : State, u = s.setMonitor m { s.monitor m with hist := h, rev := r } →
    majority (s.get (GRD_CFG_K m)) (s.get (GRD_CFG_N m)) r = false →
    (majority (s.get (GRD_CFG_K m)) (s.get (GRD_CFG_N m)) h = false →
      s.grdSample m v = (u.put (GRD_STATUSM_POLREV m) 0).put (GRD_STATUSM_ACTIVE m) 0) ∧
    (majority (s.get (GRD_CFG_K m)) (s.get (GRD_CFG_N m)) h = true → s.on (GRD_STATUSM_ACTIVE m) = true →
      s.grdSample m v = u.put (GRD_STATUSM_POLREV m) 0) ∧
    (majority (s.get (GRD_CFG_K m)) (s.get (GRD_CFG_N m)) h = true → s.on (GRD_STATUSM_ACTIVE m) = false → m < 288 →
      ∀ w, w = ((u.put (GRD_STATUSM_POLREV m) 0).put (GRD_STATUSM_ACTIVE m) 1).inc (GRD_COUNT m) →
      s.grdSample m v = (if s.get (GRD_CFG_SRC m) = 1 then w.grdTrip m else w).put (GRD_STATUSM_LATCHED m) 1)) ∧
  (∀ (s : State) (m : Nat), (m < 256 ∨ 288 ≤ m ∨ s.on (GRD_STATUSM_POLREV m) = true → s.revDecision m = s) ∧
    (256 ≤ m → m < 288 → s.on (GRD_STATUSM_POLREV m) = false → s.revDecision m = (s.put (GRD_STATUSM_POLREV m) 1).raise srcGrdPolrev 0 0) ∧
    ∀ v, grdReversed m v = true ↔ 256 ≤ m ∧ m < 288 ∧ v ≤ -800) ∧
  (∀ (s : State) (m : Fin 312), 288 ≤ m.val → s.railDecision m.val = ((s.put (GRD_STATUSM_LATCHED m.val) 1).put GRD_STATUS_RAILTRIP 1).raise srcGrdRail 0 0 ∧
    (s.railDecision m.val).get GRD_STATUS_RAILTRIP = 1 ∧ (s.railDecision m.val).get (GRD_STATUSM_LATCHED m.val) = 1 ∧
    (m.val = 294 → s.grdTrip m.val = ((if s.allTripped && s.on (GRD_STATUSM_LATCHED m.val) then s else s.inc GRD_NTRIP).put (GRD_STATUSM_LATCHED m.val) 1).enterSafe 5) ∧
    (m.val ≠ 294 → s.grdTrip m.val = ((if s.allTripped && s.on (GRD_STATUSM_LATCHED m.val) then s else s.inc GRD_NTRIP).put (GRD_STATUSM_LATCHED m.val) 1).powerLoss m.val) ∧
    ∀ v : Int, s.grdMode m.val ≠ 3 → s.on (GRD_STATUSM_ACTIVE m.val) = false → s.get (GRD_CFG_SRC m.val) = 0 →
      majority (s.get (GRD_CFG_K m.val)) (s.get (GRD_CFG_N m.val)) (((s.monitor m.val).hist * 2 + b2n (s.grdOutside m.val v)) % 2 ^ 15) = true →
      (s.grdSample m.val v).get (GRD_STATUSM_ACTIVE m.val) = 1 ∧ (s.grdSample m.val v).get GRD_STATUS_RAILTRIP = 1 ∧
      (s.grdSample m.val v).get (GRD_STATUSM_LATCHED m.val) = 1 ∧ ∃ r, (s.grdSample m.val v).raised = s.raised ++ [r] ∧ r.src = srcGrdRail) ∧
  (∀ (s : State) (m : Fin 312) (v : BitVec 16),
    (s.grdMode m.val = 3 ∨ s.grdOutside m.val v.toInt = false ∨ s.get (GRD_CFG_SRC m.val) ≠ 2 → exec (.grdRawDecision m v) s = .next s) ∧
    (s.grdMode m.val ≠ 3 → s.grdOutside m.val v.toInt = true → s.get (GRD_CFG_SRC m.val) = 2 → exec (.grdRawDecision m v) s =
      .next ((if m.val < 288 then s else ((s.put (GRD_STATUSM_LATCHED m.val) 1).put GRD_STATUS_RAILTRIP 1).raise srcGrdRail 0 0).grdTrip m.val))) ∧
  (∀ (s : State) (c : Nat), c < 256 → s.get (GRD_CFG_ACT c) ≠ 1 →
    (∀ d, d ∈ s.grdChannels c ↔ d = c) ∧ (s.grdTrip c).get (GRD_STATUSM_LATCHED c) = 1 ∧ (s.grdTrip c).tripped c = true ∧ c ∈ (s.grdTrip c).holders c ∧
    ((s.grdTrip c).chan c).drv = 0 ∧ (c ∉ s.holders c ∨ s.on (GRD_STATUSM_LATCHED c) = false → (s.grdTrip c).get GRD_NTRIP = (s.get GRD_NTRIP + 1) % 2 ^ 32) ∧
    ∀ d, d ≠ c → (s.grdTrip c).holders d = s.holders d ∧ (s.grdTrip c).chan d = s.chan d) ∧
  (∀ (s : State) (c : Nat), c < 256 → s.get (GRD_CFG_ACT c) = 1 →
    (∀ d, d ∈ s.grdChannels c ↔ d = c ∨ d ∈ s.channelsOf (s.siteMask c)) ∧ ∀ d, d ∈ s.grdChannels c → c ∈ (s.grdTrip c).holders d ∧ (s.grdTrip c).tripped d = true) ∧
  (∀ (s : State) (k : Nat), k < 32 → s.grdChannels (256 + k) = s.channelsOf (s.dsSites k) ∧
    (∀ d ∈ s.channelsOf (s.dsSites k), (s.grdTrip (256 + k)).tripped d = true ∧ 256 + k ∈ (s.grdTrip (256 + k)).holders d) ∧
    (s.get (GRD_CFG_ACT (256 + k)) = 2 → s.inSafe = false → (s.grdTrip (256 + k)).inSafe = true) ∧
    (s.get (GRD_CFG_ACT (256 + k)) = 1 → k ∈ (s.grdTrip (256 + k)).cle.rampLoops)) ∧
  (∀ (s : State) (ps : List (BitVec 16)), (s.pins.inReset = 0 → s.time.rc < s.grd.tickBase + 25 * s.get GRD_TICK → exec (.grdPTick ps) s = .next s) ∧
    ∀ b, s.pins.inReset = 0 ∧ s.grd.tickBase + 25 * s.get GRD_TICK ≤ s.time.rc ∧ b = s.grd.tickBase + 25 * s.get GRD_TICK ∨
        s.pins.inReset ≠ 0 ∧ b = s.time.rc →
      exec (.grdPTick ps) s = .next ((List.range 312).foldl (fun t m => if t.grdMode m = 3 then t.grdSample m (ps.getD m 0).toInt else t)
        { s with grd := { s.grd with tickBase := b } })) ∧
  (∀ (s : State) (c : Fin 256), ((s.chan c.val).drv = 0 → s.zeroDriven c.val = false → exec (.grdIlim c) s = .next s) ∧
    ((s.chan c.val).drv ≠ 0 ∨ s.zeroDriven c.val = true → Completes (exec (.grdIlim c) s) fun t =>
      t.get (GRD_STATUSM_ILIM c.val) = 1 ∧ t.get GRD_NILIM = (s.get GRD_NILIM + 1) % 2 ^ 32 ∧ t.tripped c.val = true ∧ (t.chan c.val).drv = 0 ∧
      (∃ r, r ∈ t.raised ∧ r.src = srcGrdIlim ∧ r.arg = c.val) ∧ (1000 ∉ s.holders c.val → t.get GRD_NTRIP = (s.get GRD_NTRIP + 1) % 2 ^ 32) ∧
      ∀ d, d ≠ c.val → t.chan d = s.chan d ∧ t.holders d = s.holders d)) ∧
  (∀ (s : State) (w : Fin 8) (m : BitVec 32), s.reaches .host 0x380100 = true → Completes (exec (.grdMtrip w m) s) fun t =>
    (∀ b < 32, bitAt m.toNat b = true → 1001 ∈ t.holders (32 * w.val + b) ∧ t.tripped (32 * w.val + b) = true) ∧
    ∀ c < 256, c / 32 ≠ w.val ∨ bitAt m.toNat (c % 32) = false → t.holders c = s.holders c ∧ t.chan c = s.chan c) ∧
  (∀ (s : State) (m : Fin 312), Completes (exec (.grdTwin m) s) fun t =>
    t.get (GRD_STATUSM_TWIN m.val) = 1 ∧ t.get (GRD_STATUSM_LATCHED m.val) = 1 ∧ t.get (GRD_COUNT m.val) = (s.get (GRD_COUNT m.val) + 1) % 2 ^ 32 ∧
    (∃ r, r ∈ t.raised ∧ r.src = srcGrdTwin ∧ r.arg = (if m.val < 256 then m.val else 0)) ∧ (288 ≤ m.val → t.get GRD_STATUS_RAILTRIP = 1)) ∧
  (∀ (s : State) (m : Fin 312), m.val < 288 → s.get (GRD_CFG_SRC m.val) = 0 → exec (.grdTwin m) s =
      .next ((((s.put (GRD_STATUSM_TWIN m.val) 1).raise srcGrdTwin (grdArg m.val) 0).inc (GRD_COUNT m.val) |>.recordCause (s.grdSites m.val) 0).put (GRD_STATUSM_LATCHED m.val) 1))

/-- GRD_RELEASE, GRD_DS_CLEAR, GRD_THR_WRITE, GRD_THR_SETTLED, GRD_MODE_WRITE and GRD_MODE_SETTLED, in every state, the writes where they
reach their register. A release acts channel by channel, lowest first: it clears every cause, LATCHED and ILIM, or sets CLRREF where a
tripping decision still stands, the limit is still in force or the thermal trip, the safe state or the power-loss trigger holds every
channel (R507). A clear of LATCHED from monitor 256 on goes by the same rule, and that of a channel monitor is read-only (R507, R512). A
threshold outside the envelope, less than 100 mV wide, or of an internal rail and not from Rootstock is refused and counted (R495); an
accepted one is in force when it has settled (R497). A configuration with a reserved SRC or ACT, of an internal rail not from Rootstock, or
with K = 0 or K above N is not taken, the last setting ENVREF, and SRC NONE of a channel monitor is refused where the policy forbids it
(R496, R499, R502); a new mode is in force when it has settled, and its samples begin anew (R493). -/
def Obligations.GuardControl : Prop :=
  (∀ (s : State) (w : Fin 8) (m u : BitVec 32), s.reaches .host 0x380120 = true →
    exec (.grdRelease w m u) s = .next ((List.range 32).foldl (fun t b =>
      if bitAt m.toNat b then t.releaseChannel (32 * w.val + b) (bitAt u.toNat b) else t) s)) ∧
  (∀ (s : State) (c : Nat) (unfit : Bool), c < 256 →
    (unfit = true ∨ s.allTripped = true ∨ (∃ h ∈ s.holders c, h < 312 ∧ s.on (GRD_STATUSM_ACTIVE h) = true) →
      s.releaseChannel c unfit = s.put (GRD_STATUSM_CLRREF c) 1) ∧
    (unfit = false → s.allTripped = false → (∀ h ∈ s.holders c, h < 312 → s.on (GRD_STATUSM_ACTIVE h) = false) →
      ∀ t, t = s.releaseChannel c unfit → t.tripped c = false ∧ t.holders c = [] ∧ t.get (GRD_STATUSM_LATCHED c) = 0 ∧ t.get (GRD_STATUSM_ILIM c) = 0 ∧
        s.regsBut t [GRD_STATUSM_LATCHED c, GRD_STATUSM_ILIM c] ∧ ∀ d, d ≠ c → t.holders d = s.holders d)) ∧
  (∀ (s : State) (m : Fin 312), s.reaches .host 0x381008 = true →
    (m.val < 256 → exec (.grdDsClear m) s = .next s) ∧
    (256 ≤ m.val → s.on (GRD_STATUSM_ACTIVE m.val) = true ∨ s.on GRD_STATUS_THERM = true ∨ s.inSafe = true →
      exec (.grdDsClear m) s = .next (s.put (GRD_STATUSM_CLRREF m.val) 1)) ∧
    (256 ≤ m.val → s.on (GRD_STATUSM_ACTIVE m.val) = false → s.on GRD_STATUS_THERM = false → s.inSafe = false →
      exec (.grdDsClear m) s = .next (s.put (GRD_STATUSM_LATCHED m.val) 0))) ∧
  (∀ (s : State) (r : Req) (m : Fin 312) (d : BitVec 32) (hi lo : Nat), s.reaches r 0x381004 = true → hi = d.toNat / 2 ^ 16 → lo = d.toNat % 2 ^ 16 →
    (signedOf 16 hi - signedOf 16 lo < 400 ∨ s.outsideEnvelope m.val hi lo = true ∨ 288 ≤ m.val ∧ r ≠ .rootstock →
      exec (.grdThrWrite r m d) s = .next (((s.incSat GRD_WREFUSED).put GRD_STATUS_ENVREF 1).raise srcGrdEnvref (grdArg m.val) 0)) ∧
    (400 ≤ signedOf 16 hi - signedOf 16 lo → s.outsideEnvelope m.val hi lo = false → m.val < 288 ∨ r = .rootstock →
      exec (.grdThrWrite r m d) s = .next (((s.setMonitor m.val { s.monitor m.val with
        thr := if s.grdThr m.val = d.toNat then none else some (s.grdThr m.val) }).put (GRD_THR_HI m.val) hi).put (GRD_THR_LO m.val) lo))) ∧
  (∀ (s : State) (k hi lo : Nat), (288 ≤ k → s.outsideEnvelope k hi lo = false) ∧
    (k < 256 → (s.outsideEnvelope k hi lo = true ↔ signedOf 16 (s.get GRD_ENV_CH_HI) < signedOf 16 hi ∨ signedOf 16 lo < signedOf 16 (s.get GRD_ENV_CH_LO))) ∧
    (256 ≤ k → k < 288 → (s.outsideEnvelope k hi lo = true ↔ signedOf 16 (s.get GRD_ENV_DS_HI) < signedOf 16 hi ∨ signedOf 16 lo < signedOf 16 (s.get GRD_ENV_DS_LO)))) ∧
  (∀ (s : State) (m : Fin 312), exec (.grdThrSettled m) s = .next (s.setMonitor m.val { s.monitor m.val with thr := none }) ∧
    ((s.setMonitor m.val { s.monitor m.val with thr := none }).grdThr m.val = s.get (GRD_THR_HI m.val) * 2 ^ 16 + s.get (GRD_THR_LO m.val)) ∧
    ((s.monitor m.val).mode = none → exec (.grdModeSettled m) s = .next s) ∧
    ∀ k, (s.monitor m.val).mode = some k → exec (.grdModeSettled m) s = .next (s.setMonitor m.val { s.monitor m.val with mode := none, hist := 0, rev := 0 }) ∧
      (s.setMonitor m.val { s.monitor m.val with mode := none, hist := 0, rev := 0 }).grdMode m.val = s.grdTarget m.val) ∧
  (∀ (s : State) (r : Req) (m : Fin 312) (d : BitVec 32), s.reaches r 0x381000 = true → ∀ (mode src act k n : Nat),
    mode = bits d.toNat 30 2 → src = bits d.toNat 28 2 → act = bits d.toNat 26 2 → k = bits d.toNat 20 4 → n = bits d.toNat 16 4 →
    (288 ≤ m.val ∧ r ≠ .rootstock ∨ src = 3 ∨ act = 3 → exec (.grdModeWrite r m d) s = .next s) ∧
    (m.val < 288 ∨ r = .rootstock → src ≠ 3 → act ≠ 3 →
      (k = 0 ∨ n < k → exec (.grdModeWrite r m d) s = .next (s.put GRD_STATUS_ENVREF 1)) ∧
      (1 ≤ k → k ≤ n → src = 0 → m.val < 256 → s.on GRD_POLICY_NODIS = true → r ≠ .rootstock →
        exec (.grdModeWrite r m d) s = .next (((s.incSat GRD_WREFUSED).put GRD_STATUS_ENVREF 1).raise srcGrdEnvref m.val 0)) ∧
      (1 ≤ k → k ≤ n → src ≠ 0 ∨ 256 ≤ m.val ∨ s.on GRD_POLICY_NODIS = false ∨ r = .rootstock →
        ∀ u : State, u = ((((s.put (GRD_CFG_MODE m.val) mode).put (GRD_CFG_SRC m.val) src).put (GRD_CFG_ACT m.val) act).put (GRD_CFG_K m.val) k).put (GRD_CFG_N m.val) n →
        exec (.grdModeWrite r m d) s = .next (u.setMonitor m.val { u.monitor m.val with
          mode := if u.grdTarget m.val = s.grdMode m.val then none else some (s.grdMode m.val) })))) ∧
  (∀ (s : State) (m : Nat), (s.get PMG_STATUS_STATE = 1 → s.grdTarget m = 3 ∧ s.grdMode m = 3) ∧
    (s.get PMG_STATUS_STATE ≠ 1 → (s.get (GRD_CFG_MODE m) ≠ 0 ∨ s.domOn 61 = true → s.grdTarget m = s.get (GRD_CFG_MODE m)) ∧
      (s.get (GRD_CFG_MODE m) = 0 → s.domOn 61 = false → s.grdTarget m = 1) ∧
      ∀ k, (s.monitor m).mode = some k → s.grdMode m = k))

/-- LB_TAKE, LB_RELEASE, LB_ENABLE, LB_HOST_TX_WRITE and LB_TRANSACTION, in every state, the writes where they reach their register and
counted as lost while domain 15 is off (R770). A free port goes to its writer, another raises CLAIM_DENIED, and only the owner frees or
enables it; another's write counts in CLE_WREFUSED (R523). The schedule's length is written only while EN is 0 (R523). A port whose engine
has no clock, that is disabled, or in the safe state, carries nothing, and none carries two transactions in a frame (R518, R537); a running
port carries the transaction of entry F mod L, an enabled one starts at the frame with F mod L = 0, and otherwise waits (R518, R521, R523).
A READ of a loop out of OFF keeps the received word, a HOST entry sends the host's word once and takes the received one (R519, R521, R527).
-/
def Obligations.LoopBus : Prop :=
  (∀ (s : State) (r : Req) (p : Fin 4) (d : BitVec 32), s.reaches r 0x3C0100 = true →
    (s.domOn 15 = false → exec (.lbTake r p) s = .next (s.incSat PMG_NOFFWR) ∧ exec (.lbRelease r p) s = .next (s.incSat PMG_NOFFWR) ∧
      exec (.lbEnable r p d) s = .next (s.incSat PMG_NOFFWR)) ∧
    (s.domOn 15 = true → ∀ w, w = (if r = .host then 1 else 2) →
      (s.get (CLE_LB_STATUS_OWNER p.val) = 0 → exec (.lbTake r p) s = .next (s.put (CLE_LB_STATUS_OWNER p.val) w)) ∧
      (s.get (CLE_LB_STATUS_OWNER p.val) ≠ 0 → exec (.lbTake r p) s = .next (s.raise srcClaimDenied 0x3C 0)) ∧
      (s.get (CLE_LB_STATUS_OWNER p.val) = w → exec (.lbRelease r p) s = .next (s.put (CLE_LB_STATUS_OWNER p.val) 0)) ∧
      (s.get (CLE_LB_STATUS_OWNER p.val) ≠ w → exec (.lbRelease r p) s = .next (s.incSat CLE_WREFUSED) ∧
        exec (.lbEnable r p d) s = .next (s.incSat CLE_WREFUSED)) ∧
      (s.get (CLE_LB_STATUS_OWNER p.val) = w → ∀ u : State,
        u = (if s.on (CLE_LB_CTRL_EN p.val) = false then s.put (CLE_LB_CTRL_L p.val) (d.toNat % 32)
          else if s.get (CLE_LB_CTRL_L p.val) ≠ d.toNat % 32 then s.incSat CLE_WREFUSED else s) →
        (bits d.toNat 5 1 = 1 → exec (.lbEnable r p d) s = .next (u.put (CLE_LB_CTRL_EN p.val) 1)) ∧
        (bits d.toNat 5 1 = 0 → exec (.lbEnable r p d) s = .next ((u.put (CLE_LB_CTRL_EN p.val) 0).put (CLE_LB_STATUS_RUN p.val) 0))))) ∧
  (∀ (s : State) (p : Fin 4) (d : BitVec 32), s.reaches .host 0x3C0108 = true →
    (s.domOn 15 = false → exec (.lbHostTxWrite p d) s = .next (s.incSat PMG_NOFFWR)) ∧
    (s.domOn 15 = true → exec (.lbHostTxWrite p d) s = .next { s.put (CLE_LB_HTX p.val) d.toNat with cle := { s.cle with htx := insertNat p.val s.cle.htx } })) ∧
  (∀ (s : State) (p : Fin 4) (rx : BitVec 40) (i : Nat) (u : State), i = s.cle.frame % (s.get (CLE_LB_CTRL_L p.val) + 1) → u = s.lbCarry p.val s.cle.frame →
    (s.cleRuns = false ∨ s.inSafe = true ∨ s.on (CLE_LB_CTRL_EN p.val) = false ∨ s.lbCarried p.val s.cle.frame = true → exec (.lbTransaction p rx) s = .next s) ∧
    (s.cleRuns = true → s.inSafe = false → s.on (CLE_LB_CTRL_EN p.val) = true → s.lbCarried p.val s.cle.frame = false →
      (s.on (CLE_LB_STATUS_RUN p.val) = true → exec (.lbTransaction p rx) s = .next (u.lbTransfer p.val i rx.toNat)) ∧
      (s.on (CLE_LB_STATUS_RUN p.val) = false → i = 0 → exec (.lbTransaction p rx) s =
        .next (((s.put (CLE_LB_STATUS_RUN p.val) 1).lbCarry p.val s.cle.frame).lbTransfer p.val 0 rx.toNat)) ∧
      (s.on (CLE_LB_STATUS_RUN p.val) = false → i ≠ 0 → exec (.lbTransaction p rx) s = .next s)) ∧ u.lbCarried p.val s.cle.frame = true) ∧
  (∀ (s : State) (p i rx n len : Nat), n = s.get (CLE_LB_SCHED_LOOP p i) → len = s.get (CLE_LB_SCHED_LEN p i) →
    (s.get (CLE_LB_SCHED_KIND p i) = 0 → s.lbTransfer p i rx = s) ∧
    (s.get (CLE_LB_SCHED_KIND p i) = 1 ∨ s.get (CLE_LB_SCHED_KIND p i) = 2 → s.get (CLE_LSTATUS_MODE n) = 0 → s.lbTransfer p i rx = s) ∧
    (s.get (CLE_LB_SCHED_KIND p i) = 1 → s.get (CLE_LSTATUS_MODE n) ≠ 0 → ((s.lbTransfer p i rx).loop n).read = some (rx % 2 ^ len, s.cle.frame) ∧
      (s.lbTransfer p i rx).cells = s.cells) ∧
    (s.get (CLE_LB_SCHED_KIND p i) = 2 → s.get (CLE_LSTATUS_MODE n) ≠ 0 → n ∉ s.cle.rampLoops →
      (32 * p + i, s.get (CLE_CODE n) % 2 ^ s.get (CLE_WRFMT_WIDTH n)) ∈ (s.lbTransfer p i rx).cle.codes ∧ (s.lbTransfer p i rx).cells = s.cells) ∧
    (s.get (CLE_LB_SCHED_KIND p i) = 3 → (p ∉ s.cle.htx → s.lbTransfer p i rx = s) ∧ (p < 4 → p ∈ s.cle.htx → p ∉ (s.lbTransfer p i rx).cle.htx ∧
      (s.lbTransfer p i rx).get (CLE_LB_HRX p) = rx % 2 ^ len % 2 ^ 32 ∧ (s.lbTransfer p i rx).get (CLE_LB_HSEQ p) = (s.get (CLE_LB_HSEQ p) + 1) % 2 ^ 32)))

/-- LOOP_TAKE, LOOP_RELEASE, LOOP_MODE_WRITE, LOOP_APPLY, LOOP_EVALUATE, THERMAL_FRAME, TEMP_SETTLED, COARSE_LOOP_UNLOCK and
COARSE_LOOP_LOCK, in every state, the writes where they reach their register and counted as lost while domain 15 is off (R770). A free loop
goes to its writer, and other writes than the owner's count as refused (R530). A mode change out of OFF that breaks a configuration rule
sets CFGERR and its code, any other puts the loop in its mode (R527, R528, R543); APPLY with OUTMAX below OUTMIN is refused, another is
effective at the next evaluation (R529). A loop evaluates once in its frame and at no other time, a valid input taking its PV and in MAN its
output (R516, R525), an invalid one setting INVALID, counted, at the LOSTN-th in sequence holding the loop (R531). A heater with its hold
enabled has a power within 0 to 30,000 mW (R534). TSETTLED is set and TEMP_SETTLED raised when every enabled tile has held INBAND for 1 s,
and not before (R535). An unlock of the coarse loop ends every measurement with 4, and a lock shows (R439, R450). -/
def Obligations.LoopControl : Prop :=
  (∀ (s : State) (r : Req) (n : Fin 64) (m : Fin 4) (b : Bool), s.reaches r 0x3C1000 = true →
    (s.domOn 15 = false → exec (.loopTake r n) s = .next (s.incSat PMG_NOFFWR) ∧ exec (.loopRelease r n) s = .next (s.incSat PMG_NOFFWR) ∧
      exec (.loopModeWrite r n m) s = .next (s.incSat PMG_NOFFWR) ∧ exec (.loopApply r n b) s = .next (s.incSat PMG_NOFFWR)) ∧
    (s.domOn 15 = true → ∀ w, w = (if r = .host then 1 else 2) →
      (s.get (CLE_LSTATUS_OWNER n.val) = 0 → exec (.loopTake r n) s = .next (s.put (CLE_LSTATUS_OWNER n.val) w)) ∧
      (s.get (CLE_LSTATUS_OWNER n.val) ≠ 0 → exec (.loopTake r n) s = .next (s.raise srcClaimDenied 0x3C 0)) ∧
      (s.get (CLE_LSTATUS_OWNER n.val) ≠ w → exec (.loopRelease r n) s = .next (s.incSat CLE_WREFUSED) ∧
        exec (.loopModeWrite r n m) s = .next (s.incSat CLE_WREFUSED) ∧ exec (.loopApply r n b) s = .next (s.incSat CLE_WREFUSED)) ∧
      (s.get (CLE_LSTATUS_OWNER n.val) = w →
        exec (.loopRelease r n) s = .next (((s.handBack n.val).loopOff n.val).put (CLE_LSTATUS_OWNER n.val) 0) ∧
        exec (.loopModeWrite r n m) s = .next (s.modeWrite n.val m.val) ∧
        (s.int32 (CLE_OUTMAX n.val) < s.int32 (CLE_OUTMIN n.val) →
          exec (.loopApply r n b) s = .next ((s.put (CLE_LSTATUS_CFGERR n.val) 1).put (CLE_LSTATUS_CODE n.val) 3)) ∧
        (s.int32 (CLE_OUTMIN n.val) ≤ s.int32 (CLE_OUTMAX n.val) →
          exec (.loopApply r n b) s = .next (s.setLoop n.val { s.loop n.val with apply := some (s.staging n.val), preset := (s.loop n.val).preset || b }))))) ∧
  (∀ (s : State) (n m : Nat), n < 64 → m < 4 →
    (m ≠ 0 → s.get (CLE_LSTATUS_MODE n) = 0 → s.modeRefusal n ≠ 0 →
      s.modeWrite n m = (s.put (CLE_LSTATUS_CFGERR n) 1).put (CLE_LSTATUS_CODE n) (s.modeRefusal n)) ∧
    (m ≠ 0 → s.get (CLE_LSTATUS_MODE n) = m → s.modeWrite n m = s) ∧
    (m = 0 ∨ s.get (CLE_LSTATUS_MODE n) ≠ 0 ∨ s.modeRefusal n = 0 → (s.modeWrite n m).get (CLE_LSTATUS_MODE n) = m) ∧
    (s.sinkBad n = true → s.modeRefusal n = 4) ∧ (s.sinkBad n = false → s.schedBad n = true → s.modeRefusal n = 2) ∧
    (s.sinkBad n = false → s.schedBad n = false → 16 < s.loadWith (some n) → s.modeRefusal n = 1) ∧
    (s.sinkBad n = false → s.schedBad n = false → s.loadWith (some n) ≤ 16 → s.modeRefusal n = 0)) ∧
  (∀ (s : State) (n : Fin 64) (per ph : Nat), s.loopTime n.val = (per, ph) →
    (s.cleRuns = false ∨ s.get (CLE_LSTATUS_MODE n.val) = 0 ∨ s.cle.frame < (s.loop n.val).done ∨ (s.cle.frame + per - ph) % per ≠ 0 →
      exec (.loopEvaluate n) s = .next s) ∧
    (s.cleRuns = true → s.get (CLE_LSTATUS_MODE n.val) ≠ 0 → (s.loop n.val).done ≤ s.cle.frame → (s.cle.frame + per - ph) % per = 0 →
      (s.rawInput n.val = none → exec (.loopEvaluate n) s = .next ((s.evalFrame n.val).loopInvalid n.val)) ∧
      (∀ raw, s.rawInput n.val = some raw → exec (.loopEvaluate n) s = .next ((s.evalFrame n.val).loopValid n.val raw)))) ∧
  (∀ (s : State) (n : Nat) (raw : Int), n < 56 → s.get (CLE_LSTATUS_MODE n) = 1 → (s.loop n).apply = none → ∀ t, t = s.loopValid n raw →
    t.get (CLE_PV n) = codeOf 32 (mulR (subS raw (s.int32 (CLE_INOFS n))) (s.int32 (CLE_INGAIN n)) 16) ∧
    t.get (CLE_OUT n) = codeOf 32 (clampI ((s.loop n).eff.getD 4 0) ((s.loop n).eff.getD 5 0) ((s.loop n).eff.getD 6 0)) ∧
    t.get (CLE_NEVAL n) = (s.get (CLE_NEVAL n) + 1) % 2 ^ 32 ∧ t.get (CLE_LSTATUS_INVALID n) = 0 ∧ (t.loop n).lost = 0 ∧ t.mem = s.mem ∧ t.raised = s.raised) ∧
  (∀ (s : State) (n : Nat), n < 64 → ∀ t, t = s.loopInvalid n → t.get (CLE_LSTATUS_INVALID n) = 1 ∧ t.get (CLE_OUT n) = s.get (CLE_OUT n) ∧ t.get (CLE_I n) = s.get (CLE_I n) ∧
    t.get (CLE_NINVAL n) = (s.get (CLE_NINVAL n) + 1) % 2 ^ 32 ∧ (t.loop n).eff = (s.loop n).eff ∧
    (s.get (CLE_LSTATUS_MODE n) = 3 ∨ (s.loop n).lost + 1 < s.get (CLE_CFG_LOSTN n) → t.get (CLE_LSTATUS_MODE n) = s.get (CLE_LSTATUS_MODE n) ∧ t.raised = s.raised) ∧
    (s.get (CLE_LSTATUS_MODE n) ≠ 3 → s.get (CLE_CFG_LOSTN n) ≤ (s.loop n).lost + 1 → t.get (CLE_LSTATUS_MODE n) = 3 ∧ t.get (CLE_LSTATUS_HCAUSE n) = 3 ∧
      ∃ r ∈ t.raised, r.src = srcCleLost ∧ r.arg = n)) ∧
  (∀ (s : State) (t : Fin 8) (w : BitVec 32), (s.cleRuns = false → exec (.thermalFrame t w) s = .next s) ∧
    (s.cleRuns = true → Completes (exec (.thermalFrame t w) s) fun u => u.get (CLE_TH_PTILE t.val) = w.toNat ∧ u.mem = s.mem ∧
      (s.on (CLE_TH_CFG_EN t.val) = false → u.get (CLE_TH_PHTR t.val) = s.heaterCode t.val % 2 ^ 32 ∧ u.get (CLE_TH_STATUS_HSAT t.val) = 0) ∧
      (s.on (CLE_TH_CFG_EN t.val) = true → s.get (CLE_LSTATUS_MODE (56 + t.val)) = 0 → u.get (CLE_TH_PHTR t.val) = 0 ∧ u.get (CLE_TH_STATUS_HSAT t.val) = 1) ∧
      (s.on (CLE_TH_CFG_EN t.val) = true → s.get (CLE_LSTATUS_MODE (56 + t.val)) ≠ 0 →
        ∀ p, p = clampI 0 30000 ((s.get (CLE_TH_PDECL t.val) : Int) - (w.toNat : Int) + signedOf 32 (s.codeInForce (56 + t.val))) →
        u.get (CLE_TH_PHTR t.val) = p.toNat ∧ (u.get (CLE_TH_STATUS_HSAT t.val) = 1 ↔ p = 0 ∨ p = 30000) ∧ 0 ≤ p ∧ p ≤ 30000))) ∧
  (∀ s : State, ((∀ t < 8, s.on (CLE_TH_CFG_EN t) = false) ∨ (∃ t < 8, s.on (CLE_TH_CFG_EN t) = true ∧ (s.on (CLE_TH_STATUS_INBAND t) = false ∨
        ∀ e ∈ s.cle.inband, e.1 = t → s.time.rc < e.2 + 100000000)) ∨ s.on CLE_STATUS_TSETTLED = true → exec .tempSettled s = .next s) ∧
    ((∃ t < 8, s.on (CLE_TH_CFG_EN t) = true) → s.on CLE_STATUS_TSETTLED = false → (∀ t < 8, s.on (CLE_TH_CFG_EN t) = true →
        s.on (CLE_TH_STATUS_INBAND t) = true ∧ ∃ e ∈ s.cle.inband, e.1 = t ∧ e.2 + 100000000 ≤ s.time.rc) →
      exec .tempSettled s = .next ((s.put CLE_STATUS_TSETTLED 1).raise srcTempSettled 0 0))) ∧
  (∀ s : State, exec .coarseLoopUnlock s = .next ((s.put TIU_COARSE_LOCK 0).tiuEndAll 4) ∧ exec .coarseLoopLock s = .next (s.put TIU_COARSE_LOCK 1))

/-- CAL_REQ_TIMING, CAL_REQ_DC, CAL_REQ_BOTH, CAL_REQ_GRAFT, CAL_REQ_TILE and CAL_REQ_PMU, in every state where the write reaches CAL_REQ
and for every operand. A valid request queues its entries, all with the deadline now plus CAL_REQ_DEADLINE ms, and merges with one of its
kind and target, keeping the earlier deadline (R561, R562); a TILE request is 64 entries (R562). A request that does not fit, names a target
out of range, a spare taken or bad, or an ELEM that its kind does not use is refused and counted (R563). -/
def Obligations.CalibrationRequests : Prop :=
  (∀ (s : State) (e : Fin 4) (c : Fin 256), s.reaches .host 0x400008 = true →
    (e.val ≠ 0 → exec (.calReqTiming e c) s = .next s.calRefuse ∧ exec (.calReqDc e c) s = .next s.calRefuse ∧
      exec (.calReqBoth e c) s = .next s.calRefuse ∧ exec (.calReqTile e c) s = .next s.calRefuse ∧ exec (.calReqPmu e c) s = .next s.calRefuse) ∧
    (e.val = 0 → exec (.calReqTiming e c) s = .next (s.calRequest [(1, 0, c.val)]) ∧ exec (.calReqDc e c) s = .next (s.calRequest [(2, 0, c.val)]) ∧
      exec (.calReqBoth e c) s = .next (s.calRequest [(1, 0, c.val), (2, 0, c.val)]) ∧
      (8 ≤ c.val → exec (.calReqTile e c) s = .next s.calRefuse) ∧ (32 ≤ c.val → exec (.calReqPmu e c) s = .next s.calRefuse) ∧
      (c.val < 8 → exec (.calReqTile e c) s = .next (s.calRequest (((List.range 32).map fun j => (1, 0, 32 * c.val + j)) ++
        (List.range 32).map fun j => (2, 0, 32 * c.val + j)))) ∧
      (c.val < 32 → exec (.calReqPmu e c) s = .next (s.calRequest [(6, 0, c.val)]))) ∧
    s.calRefuse = ((s.incSat CAL_NREFUSED).put CAL_STATUS_REFUSED 1).raise srcCalRefused 0 0) ∧
  (∀ (s : State) (e : Fin 4) (c : Fin 256), s.reaches .host 0x400008 = true →
    (e.val = 3 ∨ e.val < 2 ∧ s.spareTaken c.val e.val = true ∨ e.val = 2 ∧ s.get (CAL_CH_STATUS_ELEM c.val) = 0 →
      exec (.calReqGraft e c) s = .next s.calRefuse) ∧
    (e.val < 2 ∧ s.spareTaken c.val e.val = false ∨ e.val = 2 ∧ s.get (CAL_CH_STATUS_ELEM c.val) ≠ 0 →
      exec (.calReqGraft e c) s = .next (s.calRequest [(4, e.val, c.val)])) ∧
    ∀ t : Nat, t = c.val / 32 →
      (s.spareTaken c.val 0 = true ↔ s.on (CAL_GRAFT_SP0BAD t) = true ∨ s.on (CAL_GRAFT_SP0USE t) = true ∧ s.get (CAL_GRAFT_SP0CH t) ≠ c.val % 32) ∧
      (s.spareTaken c.val 1 = true ↔ s.on (CAL_GRAFT_SP1BAD t) = true ∨ s.on (CAL_GRAFT_SP1USE t) = true ∧ s.get (CAL_GRAFT_SP1CH t) ≠ c.val % 32)) ∧
  (∀ (s : State) (es : List (Nat × Nat × Nat)) (fresh : Nat), fresh = (es.filter fun e => !s.calQueued e.1 e.2.2).length →
    (1024 ≤ s.cal.queue.length ∨ 1024 < s.cal.queue.length + fresh → s.calRequest es = s.calRefuse) ∧
    (s.cal.queue.length < 1024 → s.cal.queue.length + fresh ≤ 1024 → s.calRequest es = { s with cal := { s.cal with
      queue := es.foldl (fun q e => mergeEntry ⟨e.1, e.2.1, e.2.2, s.time.rc + 100000 * s.get CAL_REQ_DEADLINE, false, false, 0⟩ q) s.cal.queue } })) ∧
  (∀ (e : CalEntry) (q : List CalEntry), (∀ x ∈ q, x.kind ≠ e.kind ∨ x.target ≠ e.target) → mergeEntry e q = q ++ [e] ∧
    ∀ (x : CalEntry) (r : List CalEntry), x.kind = e.kind → x.target = e.target → mergeEntry e (q ++ x :: r) = q ++ { x with deadline := min x.deadline e.deadline } :: r)

/-- CAL_ENTRY_START, CAL_LATE, CAL_END and GRAFT_END, in every state. The engine starts the entry with the earliest deadline whose
conditions hold; a channel's land is then off, a PMU owned by calibration (R544, R555, R561). A queued entry at its deadline, and not
before, counts as late once and stays queued (R561). A calibration ends when it has run its time, or before with REFBAD when REFCLK was lost
or the reference is out of its bounds (R546 to R548, R550, R560): one out of range keeps the old results and marks the channel untrusted,
and a PASS replaces them and counts (R552, R553). A graft that passes gives the channel its new element, one out of range marks the spare
BAD, and neither that nor REFBAD changes the element (R564 to R567). No end of another entry does anything. -/
def Obligations.CalibrationRuns : Prop :=
  (∀ (s : State) (t : Fin 8), (s.calNext t.val = none → exec (.calEntryStart t) s = .next s) ∧
    ∀ e, s.calNext t.val = some e → ∀ u : State, u = { s with
        cal := { s.cal with queue := s.cal.queue.filter (· ≠ e), running := s.cal.running ++ [{ e with refbad := s.on CLK_STATUS_REFLOST, began := s.time.rc }] } } →
      (e.kind = 6 → exec (.calEntryStart t) s = .next (u.put (PMU_STATUS_OWNER e.target) 3)) ∧
      (e.kind ≠ 6 → exec (.calEntryStart t) s = .next (((u.setChan e.target { u.chan e.target with drv := 0 }).tiuInterrupt (· == e.target)).recordCause (u.siteMask e.target) 5))) ∧
  (∀ (s : State) (t : Nat) (e : CalEntry), s.calNext t = some e → e ∈ s.cal.queue ∧ e.kind ≠ 7 ∧ e.tile = t ∧ s.calReady e = true ∧
    ∀ x ∈ s.cal.queue, x.kind ≠ 7 → x.tile = t → s.calReady x = true → e.deadline ≤ x.deadline) ∧
  (∀ (s : State) (k : Fin 8) (c : Fin 256), ((∀ e ∈ s.cal.queue, e.kind ≠ k.val ∨ e.target ≠ c.val) → exec (.calLate k c) s = .next s) ∧
    ∀ e, (s.cal.queue.find? fun e => e.kind == k.val && e.target == c.val) = some e →
      (e.late = true ∨ s.time.rc < e.deadline → exec (.calLate k c) s = .next s) ∧
      (e.late = false → e.deadline ≤ s.time.rc → exec (.calLate k c) s = .next
        (((({ s with cal := { s.cal with queue := s.cal.queue.map fun x => if x = e then { x with late := true } else x } } : State).inc
        CAL_NLATE).put CAL_STATUS_LATE 1).raise srcCalLate (if e.kind ≤ 4 then e.target else 0) 0))) ∧
  (∀ (s : State) (k : Fin 8) (c : Fin 256) (range : Bool) (cells : BitVec 48) (cmp : BitVec 4) (seg : BitVec 27) (v : BitVec 16),
    (k.val ∉ [1, 2, 6] ∨ (∀ e ∈ s.cal.running, e.kind ≠ k.val ∨ e.target ≠ c.val) → exec (.calEnd k c range cells cmp seg v) s = .next s) ∧
    ∀ e, (s.cal.running.find? fun e => e.kind == k.val && e.target == c.val) = some e →
      (k.val = 1 → e.refbad = true → exec (.calEnd k c range cells cmp seg v) s = .next (s.calEnded e 4)) ∧
      (k.val = 1 → e.refbad = false → (s.time.rc < e.began + 160000 → exec (.calEnd k c range cells cmp seg v) s = .next s) ∧
        (e.began + 160000 ≤ s.time.rc → (range = true → exec (.calEnd k c range cells cmp seg v) s = .next ((s.calRange c.val).calEnded e 2)) ∧
          (range = false → exec (.calEnd k c range cells cmp seg v) s = .next
            (((((s.timingPass c.val cells.toNat).closingPass c.val).inc (CAL_CH_NCAL c.val)).calEnded e 1).persist (calStored c.val))))) ∧
      (k.val = 2 → vrefGood v.toNat = false → exec (.calEnd k c range cells cmp seg v) s = .next (((s.put CAL_VREF v.toNat).calEnded e 4).raise srcCalRefbad c.val 0)) ∧
      (k.val = 2 → vrefGood v.toNat = true → (s.time.rc < e.began + 320000 → exec (.calEnd k c range cells cmp seg v) s = .next s) ∧
        (e.began + 320000 ≤ s.time.rc → (range = true → exec (.calEnd k c range cells cmp seg v) s = .next (((s.put CAL_VREF v.toNat).calRange c.val).calEnded e 2)) ∧
          (range = false → exec (.calEnd k c range cells cmp seg v) s = .next
            ((((((s.put CAL_VREF v.toNat).dcPass c.val cmp.toNat seg.toNat).closingPass c.val).inc (CAL_CH_NCAL c.val)).calEnded e 1).persist (calStored c.val))))) ∧
      (k.val = 6 → ∀ u : State, u = (s.put CAL_VREF v.toNat).put (PMU_STATUS_OWNER c.val) 0 →
        (vrefGood v.toNat = false → exec (.calEnd k c range cells cmp seg v) s = .next ((u.calEnded e 4).raise srcCalRefbad 0 0)) ∧
        (vrefGood v.toNat = true → (s.time.rc < e.began + 1280000 → exec (.calEnd k c range cells cmp seg v) s = .next s) ∧
          (e.began + 1280000 ≤ s.time.rc → exec (.calEnd k c range cells cmp seg v) s = .next (u.calEnded e (if range then 2 else 1)))))) ∧
  (∀ (s : State) (c cells cmp seg : Nat), c < 256 → cells < 2 ^ 48 → cmp < 2 ^ 4 → seg < 2 ^ 27 →
    (s.timingPass c cells).get (CAL_CH_STATUS_TVALID c) = 1 ∧ (s.timingPass c cells).get (CAL_CH_CELLS_LO c) = cells % 2 ^ 32 ∧
    (s.timingPass c cells).get (CAL_CH_CELLS_HI c) = cells / 2 ^ 32 ∧ (s.dcPass c cmp seg).get (CAL_CH_STATUS_DVALID c) = 1 ∧
    (s.dcPass c cmp seg).get (CAL_CH_SEG c) = seg ∧ (s.calRange c).untrusted c = true ∧
    ∀ (e : CalEntry) (x : Nat), e.target = c → e.elem < 4 → e.kind < 8 → x < 8 → (s.calEnded e x).get CAL_LAST_RESULT = x ∧ (s.calEnded e x).get CAL_LAST_TARGET = c ∧
      (s.calEnded e x).cal.running = s.cal.running.filter (· ≠ e) ∧ (e.kind ≤ 4 → (s.calEnded e x).get (CAL_CH_STATUS_LASTRES c) = x) ∧
      (x = 1 → (s.calEnded e x).get CAL_NDONE = (s.get CAL_NDONE + 1) % 2 ^ 32) ∧ (x ≠ 1 → (s.calEnded e x).get CAL_NFAIL = (s.get CAL_NFAIL + 1) % 2 ^ 32)) ∧
  (∀ (s : State) (c : Fin 256) (x : Fin 5) (cells : BitVec 48) (cmp : BitVec 4) (seg : BitVec 27) (v : BitVec 16),
    ((∀ e ∈ s.cal.running, e.kind ≠ 4 ∨ e.target ≠ c.val) → exec (.graftEnd c x cells cmp seg v) s = .next s) ∧
    ∀ e, (s.cal.running.find? fun e => e.kind == 4 && e.target == c.val) = some e →
      (x.val = 0 ∨ x.val = 3 → exec (.graftEnd c x cells cmp seg v) s = .next s) ∧
      (e.refbad = true → x.val ≠ 0 → x.val ≠ 3 → exec (.graftEnd c x cells cmp seg v) s = .next (s.calEnded e 4)) ∧
      (e.refbad = false → ∀ u : State, u = s.put CAL_VREF v.toNat →
        (x.val = 1 ∧ vrefGood v.toNat = false ∨ x.val = 4 → exec (.graftEnd c x cells cmp seg v) s =
          .next ((if vrefGood v.toNat = true then u else u.raise srcCalRefbad c.val 0).calEnded e 4)) ∧
        (s.time.rc < e.began + 490000 → x.val = 2 ∨ x.val = 1 ∧ vrefGood v.toNat = true → exec (.graftEnd c x cells cmp seg v) s = .next s) ∧
        (e.began + 490000 ≤ s.time.rc → x.val = 2 → exec (.graftEnd c x cells cmp seg v) s =
          .next ((if e.elem = 0 then u.put (CAL_GRAFT_SP0BAD (c.val / 32)) 1 else if e.elem = 1 then u.put (CAL_GRAFT_SP1BAD (c.val / 32)) 1 else u).calEnded e 2)) ∧
        (e.began + 490000 ≤ s.time.rc → x.val = 1 → vrefGood v.toNat = true → exec (.graftEnd c x cells cmp seg v) s =
          .next ((((((u.serve c.val e.elem).timingPass c.val cells.toNat).dcPass c.val cmp.toNat seg.toNat).closingPass c.val).calEnded e 1).persist
            (calStored c.val ++ graftStored (c.val / 32)))))) ∧
  (∀ (s : State) (c : Nat), c < 256 → (s.serve c 0).get (CAL_CH_STATUS_ELEM c) = 1 ∧ (s.serve c 0).get (CAL_GRAFT_SP0USE (c / 32)) = 1 ∧ (s.serve c 0).get (CAL_GRAFT_SP0CH (c / 32)) = c % 32 ∧
    (s.serve c 1).get (CAL_CH_STATUS_ELEM c) = 2 ∧ (s.serve c 1).get (CAL_GRAFT_SP1USE (c / 32)) = 1 ∧ (s.serve c 1).get (CAL_GRAFT_SP1CH (c / 32)) = c % 32 ∧
    (s.serve c 2).get (CAL_CH_STATUS_ELEM c) = 0 ∧ (s.get (CAL_CH_STATUS_ELEM c) = 1 → (s.serve c 2).get (CAL_GRAFT_SP0USE (c / 32)) = 0) ∧
    (s.get (CAL_CH_STATUS_ELEM c) = 2 → (s.serve c 2).get (CAL_GRAFT_SP1USE (c / 32)) = 0))

/-- PLOT_WRITE, PLOT_ACCESS_FAULT, INTERRUPT_PENDING, INTERRUPT_CLAIM, INTERRUPT_COMPLETE and DOORBELL, in every state, the writes where
they reach their register. Only Rootstock writes a plot, not one of a Wilted or restarting core nor with the reserved target (R582, R614);
an enabled plot that fails the rules of R581 is left disabled. An access of a running Scion that no plot allows traps with its cause and
counts, and any other access is no fault (R580). An input becomes pending 16 fc after it was raised (R584); a claim returns the highest
pending unmasked input plus 1, the lowest number among equals, or 0, and masks it, a completion unmasks it (R584). Rootstock's doorbell d is
input 320 + d of priority 15 (R583). The claim also takes the input out of those pending (log entry 43). -/
def Obligations.ScionPlotsAndInterrupts : Prop :=
  (∀ (s : State) (r : Req) (c : Fin 16) (b : Bool) (k : Fin 8) (d : BitVec 32), s.reaches r (0x601040 + 0x400 * c.val) = true →
    (r ≠ .rootstock ∨ s.scnState c.val = 2 ∨ s.scnState c.val = 3 ∨ bits d.toNat 26 2 = 3 → exec (.plotWrite r c b k d) s = .next s) ∧
    (r = .rootstock → s.scnState c.val ≠ 2 → s.scnState c.val ≠ 3 → bits d.toNat 26 2 ≠ 3 →
      (s.domOn (3 + c.val / 4) = true →
        (bitAt d.toNat 31 = false → exec (.plotWrite r c b k d) s = .next (s.putAttr b c.val k.val d.toNat false)) ∧
        (bitAt d.toNat 31 = true → s.plotOk b c.val k.val d.toNat = true → exec (.plotWrite r c b k d) s = .next (s.putAttr b c.val k.val d.toNat true)) ∧
        (bitAt d.toNat 31 = true → s.plotOk b c.val k.val d.toNat = false → exec (.plotWrite r c b k d) s =
          .next (s.put (if b = true then SCN_SPLOT_ATTR_EN c.val k.val else SCN_PLOT_ATTR_EN c.val k.val) 0))))) ∧
  (∀ (s : State) (c : Fin 16) (kind : Access) (a : BitVec 40) (n : Fin 65) (pc : BitVec 64),
    (s.scnRuns c.val = false ∨ s.plotAllows c.val kind a.toNat n.val = true → exec (.plotAccessFault c kind a n pc) s = .next s) ∧
    (s.scnRuns c.val = true → s.plotAllows c.val kind a.toNat n.val = false → exec (.plotAccessFault c kind a n pc) s = .next ((s.setCore c.val { s.core c.val with
      csr := [pc.toNat, if kind = .fetch then 1 else if kind = .load ∨ kind = .lr then 5 else 7, a.toNat, (s.core c.val).csr.getD 3 0] }).inc (SCN_NPLOTF c.val))) ∧
    (s.scnRuns c.val = true ↔ s.scnState c.val = 1 ∨ s.scnState c.val = 4)) ∧
  (∀ (s : State) (c : Fin 17) (i : Fin 336), ((∀ e ∈ (s.core c.val).arriving, e.1 ≠ i.val) → exec (.interruptPending c i) s = .next s) ∧
    ∀ p, ((s.core c.val).arriving.find? fun e => e.1 == i.val) = some (i.val, p) →
    exec (.interruptPending c i) s = .next (s.setCore c.val { s.core c.val with
      pending := addInput (s.core c.val).pending i.val p
      arriving := (s.core c.val).arriving.filter fun x => x.1 != i.val })) ∧
  (∀ (s : State) (c : Fin 17), (topInput (s.core c.val).ready = none → exec (.interruptClaim c) s = .next (s.setCore c.val { s.core c.val with claim := 0 })) ∧
    ∀ e, topInput (s.core c.val).ready = some e → exec (.interruptClaim c) s = .next (s.setCore c.val { s.core c.val with
      claim := e.1 + 1
      masked := insertNat e.1 (s.core c.val).masked
      pending := (s.core c.val).pending.filter fun x => x.1 != e.1 })) ∧
  (∀ (l : List (Nat × Nat)) (e : Nat × Nat), (topInput l = none ↔ l = []) ∧ (topInput l = some e → e ∈ l ∧ ∀ f ∈ l, f.2 ≤ e.2 ∧ (f.2 = e.2 → e.1 ≤ f.1))) ∧
  (∀ (s : State) (c : Fin 17) (v : BitVec 32), (v = 0 → exec (.interruptComplete c v) s = .next s) ∧
    (v ≠ 0 → exec (.interruptComplete c v) s = .next (s.setCore c.val { s.core c.val with masked := (s.core c.val).masked.filter fun i => i + 1 != v.toNat }))) ∧
  (∀ (s : State) (r : Req) (c : Fin 16) (d : BitVec 32), s.reaches r (0x601014 + 0x400 * c.val) = true →
    (r ≠ .rootstock → exec (.doorbell r c d) s = .next s) ∧
    (r = .rootstock → s.domOn (3 + c.val / 4) = true →
      exec (.doorbell r c d) s = .next ((List.range 16).foldl (fun t k => if bitAt d.toNat k then t.deliverTo c.val (320 + k) 15 else t) s))) ∧
  (∀ (s : State) (c i p : Nat), c < 16 → (s.scnState c = 6 → s.deliverTo c i p = s) ∧
    (s.scnState c ≠ 6 → s.deliverTo c i p = s.setCore c { s.core c with arriving := addInput (s.core c).arriving i p }))

/-- FAST_ENTRY_PUSH, MRET_RESTORE, WILTED_CAPTURE_DONE, SCION_RESTART_DONE, SCN_RESTART and SCN_DRAIN_LIMIT, in every state. A trap with
fast entry writes 16 registers below the stack pointer and adds one to the depth (R585); a misaligned stack pointer, one that no plot covers
or a depth of 15 wilts a Scion with cause 1, 2 or 3, and puts Rootstock's device into the safe state with cause 7 (R586, R588). An mret with
depth above 0 restores them, and one that fails its checks wilts with cause 4; with depth 0 it does nothing (R587, R588). A core that does
not execute does neither (R589). A captured core restarts, is switched by its graft, or is DEAD at its fourth entry in 1,000 ms (R590, R593,
R606); a restarted image runs if its hash is right, and else the core is DEAD (R592). Only Rootstock restarts a core, and not a DEAD one
(R593, R612). At its graft's drain limit, and not before, a draining core is ready to switch (R605). -/
def Obligations.FastEntryAndWilting : Prop :=
  (∀ (s : State) (c : Fin 17) (x : List (BitVec 64)) (a b d e : BitVec 64) (regs : List (Nat × Nat)) (csr : List Nat) (w sp : Nat),
    regs = xRegs x → csr = [a.toNat, b.toNat, d.toNat, e.toNat] → w = (if c.val = 16 then 4 else 8) → sp = xGet regs 2 →
    (s.executes c.val = false → exec (.fastEntryPush c x a b d e) s = .next s) ∧
    (s.executes c.val = true →
      (sp % 16 ≠ 0 → exec (.fastEntryPush c x a b d e) s = .next (s.fastFail c.val 1 regs csr)) ∧
      (sp % 16 = 0 → sp < 16 * w ∨ s.pushArea c.val (sp - 16 * w) (16 * w) = none → exec (.fastEntryPush c x a b d e) s = .next (s.fastFail c.val 2 regs csr)) ∧
      (sp % 16 = 0 → 16 * w ≤ sp → ∀ off, s.pushArea c.val (sp - 16 * w) (16 * w) = some off →
        (15 ≤ s.depthOf c.val → exec (.fastEntryPush c x a b d e) s = .next (s.fastFail c.val 3 regs csr)) ∧
        (s.depthOf c.val < 15 → exec (.fastEntryPush c x a b d e) s = .next ((s.setCore c.val { s.core c.val with
          mem := memPut (s.core c.val).mem off (pushRegs.flatMap fun r => bytesOf w (xGet regs r))
          x := Assoc.insert regs 2 (sp - 16 * w)
          csr := csr }).setDepth c.val (s.depthOf c.val + 1)))))) ∧
  (∀ (s : State) (c k : Nat) (x : List (Nat × Nat)) (csr : List Nat), s.fastFail 16 k x csr = s.enterSafe 7 ∧
    (c < 16 → k < 8 → s.fastFail c k x csr = s.wilt c k x csr ∧ (s.wilt c k x csr).scnState c = 2 ∧ (s.wilt c k x csr).get (SCN_STATUS_CAUSE c) = k ∧
      (s.wilt c k x csr).get (SCN_NWILT c) = (s.get (SCN_NWILT c) + 1) % 2 ^ (SCN_NWILT c).width ∧ ((s.wilt c k x csr).core c).x = x ∧
      (s.scnState c = 1 → (s.wilt c k x csr).get (TSK_C_REQ_REQ c) = 0) ∧ ∃ r ∈ (s.wilt c k x csr).raised, r.src = srcScnWilted ∧ r.arg = c)) ∧
  (∀ (s : State) (c : Fin 17) (x : List (BitVec 64)) (a b d e : BitVec 64) (regs : List (Nat × Nat)) (csr : List Nat) (w sp : Nat),
    regs = xRegs x → csr = [a.toNat, b.toNat, d.toNat, e.toNat] → w = (if c.val = 16 then 4 else 8) → sp = xGet regs 2 →
    (s.executes c.val = false ∨ s.depthOf c.val = 0 → exec (.mretRestore c x a b d e) s = .next s) ∧
    (s.executes c.val = true → s.depthOf c.val ≠ 0 →
      (sp % 16 ≠ 0 ∨ s.pushArea c.val sp (16 * w) = none → exec (.mretRestore c x a b d e) s = .next (s.fastFail c.val 4 regs csr)) ∧
      (sp % 16 = 0 → ∀ off, s.pushArea c.val sp (16 * w) = some off → Completes (exec (.mretRestore c x a b d e) s) fun t =>
        (t.depthOf c.val = s.depthOf c.val - 1) ∧
        xGet (t.core c.val).x 2 = sp + 16 * w ∧ t.mem = s.mem ∧ (t.core c.val).mem = (s.core c.val).mem ∧ (t.core c.val).csr = csr ∧
        (∀ i < 16, xGet (t.core c.val).x (pushRegs.getD i 0) = ofBytes ((List.range w).map fun j => Assoc.get 0 (s.core c.val).mem (off + w * i + j))) ∧
        s.regsBut t [SCN_STATUS_DEPTH c.val]))) ∧
  (∀ (s : State) (c : Fin 16) (u : State), u = ((if s.on RSC_CFG_DUMP = true then s.memWrite (0xA80000000 + 0x40000 * c.val)
        ((List.range 262144).map fun i => Assoc.get 0 (s.core c.val).mem i) else s).writeWrec c.val).wiltEntry c.val →
    (s.scnState c.val ≠ 2 → exec (.wiltedCaptureDone c) s = .next s) ∧
    (s.scnState c.val = 2 → s.grafting c.val = true → exec (.wiltedCaptureDone c) s = .next (u.put (SCN_STATUS_STATE c.val) 5)) ∧
    (s.scnState c.val = 2 → s.grafting c.val = false → 4 ≤ (s.core c.val).wilts.length →
      exec (.wiltedCaptureDone c) s = .next ((u.put (SCN_STATUS_STATE c.val) 6).raise srcScnDead c.val 0)) ∧
    (s.scnState c.val = 2 → s.grafting c.val = false → (s.core c.val).wilts.length < 4 → exec (.wiltedCaptureDone c) s = .next (u.beginRestart c.val))) ∧
  (∀ (s : State) (c : Fin 16) (img : List Byte), img = s.slotImg (s.get (SCN_IMG_SLOT c.val)) →
    (s.scnState c.val ≠ 3 → exec (.scionRestartDone c) s = .next s) ∧
    (s.scnState c.val = 3 → img.length < 320 ∨ sha384 (imgPayload img) ≠ beNat (imgBytes img 0x040 48) →
      exec (.scionRestartDone c) s = .next ((s.put (SCN_STATUS_STATE c.val) 6).raise srcScnDead c.val 0)) ∧
    (s.scnState c.val = 3 → 320 ≤ img.length → sha384 (imgPayload img) = beNat (imgBytes img 0x040 48) →
      exec (.scionRestartDone c) s = .next (((s.setCore c.val { s.core c.val with mem := memOf (imgPayload img) }).put (SCN_STATUS_DEPTH c.val) 0).put
        (SCN_STATUS_STATE c.val) 1))) ∧
  (∀ (s : State) (r : Req) (c : Fin 16), s.reaches r (0x601000 + 0x400 * c.val) = true →
    (r ≠ .rootstock ∨ s.scnState c.val = 6 → exec (.scnRestart r c) s = .next s) ∧
    (r = .rootstock → s.scnState c.val ≠ 6 → s.domOn (3 + c.val / 4) = true → exec (.scnRestart r c) s =
      .next ((s.setCore c.val { s.core c.val with mem := [], x := [], csr := [0, 0, 0, 0] }).setScn c.val 3))) ∧
  (∀ (s : State) (c : Fin 16), (s.grafting c.val = false ∨ s.scnState c.val ≠ 4 ∨ (∀ g, s.rsc.graft = some g → s.time.rc < g.since + 100 * g.limit) →
      exec (.scnDrainLimit c) s = .next s) ∧
    ∀ g, s.rsc.graft = some g → s.grafting c.val = true → s.scnState c.val = 4 → g.since + 100 * g.limit ≤ s.time.rc →
      exec (.scnDrainLimit c) s = .next ((s.retryCore c.val).put (SCN_STATUS_STATE c.val) 5))

/-- RSC_LOCKSTEP, RSC_WDOG_KICK, RSC_WDOG_EXPIRY, HANDOVER_STANDBY_READY and HANDOVER_COMMIT, in every state. A mismatch of the active pair
raises RSC_LOCKSTEP, and it or a watchdog period with no kick hands RSO authority to a ready standby and counts a takeover, and otherwise
puts the device into the safe state with cause 6; the failed pair is held in reset and does not become ready (R577, R610). A mismatch of the
standby clears SBYREADY and holds it, or in a handover ends that with ABORT (R577, R611). Only Rootstock's kick counts; the period is
RSC_WDOG ms from the last kick or from taking authority (R610, log entry 122). A handover goes on when the new slot passes its checks, fails
with ABORT when it does not (R608, R611), and ends at its commit in the passing of authority (R608); with no handover a standby is ready on
a slot that passes (R600), and otherwise nothing happens. -/
def Obligations.RootstockAuthority : Prop :=
  (∀ s : State, exec (.rscLockstep false) s = .next (s.raise srcRscLockstep 0 0).takeover ∧
    ∀ u : State, u = (s.raise srcRscLockstep 0 0).put RSC_STATUS_SBYREADY 0 →
    (s.rsc.handover = none → exec (.rscLockstep true) s = .next { u with rsc := { u.rsc with held := true } }) ∧
    (s.rsc.handover ≠ none → exec (.rscLockstep true) s = .next { u.put RSC_STATUS_HOSTATE 0 with
        rsc := { u.rsc with handover := none, sbySlot := u.rsc.bootSlot, result := some 0x0B } })) ∧
  (∀ s : State, (s.on RSC_STATUS_SBYREADY = false → s.takeover = s.enterSafe 6) ∧
    (s.on RSC_STATUS_SBYREADY = true → s.takeover.get RSC_STATUS_ACTIVE = otherPair (s.get RSC_STATUS_ACTIVE) ∧ s.takeover.get RSC_STATUS_SBYREADY = 0 ∧
      s.takeover.get RSC_STATUS_REBUILT = 1 ∧ s.takeover.get RSC_NTAKEOVER = (s.get RSC_NTAKEOVER + 1) % 2 ^ RSC_NTAKEOVER.width ∧
      s.takeover.rsc.handover = none ∧ s.takeover.rsc.held = true ∧ s.takeover.rsc.kick = some s.time.rc ∧ s.takeover.rsc.runSlot = s.rsc.sbySlot ∧
      (∃ r ∈ s.takeover.raised, r.src = srcRscTakeover) ∧ s.takeover.get GLB_FW_STATUS_BUSY = 0 ∧ s.takeover.mem = s.mem)) ∧
  (∀ (s : State) (r : Req), s.reaches r 0x600024 = true →
    (r = .rootstock → exec (.rscWdogKick r) s = .next { s with rsc := { s.rsc with kick := some s.time.rc } }) ∧
    (r ≠ .rootstock → exec (.rscWdogKick r) s = .next s)) ∧
  (∀ s : State, (s.rsc.kick = none → exec .rscWdogExpiry s = .next s) ∧ ∀ k, s.rsc.kick = some k →
    (s.time.rc < k + 100000 * s.get RSC_WDOG → exec .rscWdogExpiry s = .next s) ∧
    (k + 100000 * s.get RSC_WDOG ≤ s.time.rc → exec .rscWdogExpiry s = .next s.takeover)) ∧
  (∀ s : State, (∀ n, s.rsc.handover = some n → (s.get RSC_STATUS_HOSTATE ≠ 1 → exec .handoverStandbyReady s = .next s) ∧
      (s.get RSC_STATUS_HOSTATE = 1 → s.verify (s.slotImg n) 1 = 0 → exec .handoverStandbyReady s =
        .next { (s.put RSC_STATUS_SBYREADY 1).put RSC_STATUS_HOSTATE 2 with rsc := { s.rsc with sbySlot := n } }) ∧
      (s.get RSC_STATUS_HOSTATE = 1 → s.verify (s.slotImg n) 1 ≠ 0 → exec .handoverStandbyReady s =
        .next { s.put RSC_STATUS_HOSTATE 0 with rsc := { s.rsc with handover := none, sbySlot := s.rsc.runSlot, result := some 0x0B } })) ∧
    (s.rsc.handover = none → (s.rsc.held = true ∨ s.verify (s.slotImg s.rsc.bootSlot) 1 ≠ 0 ∧ s.verify (s.slotImg (otherSlot s.rsc.bootSlot)) 1 ≠ 0 →
        exec .handoverStandbyReady s = .next s) ∧
      ∀ a, s.rsc.held = false → a = (if s.verify (s.slotImg s.rsc.bootSlot) 1 = 0 then s.rsc.bootSlot else otherSlot s.rsc.bootSlot) →
        s.verify (s.slotImg a) 1 = 0 → exec .handoverStandbyReady s = .next { s.put RSC_STATUS_SBYREADY 1 with rsc := { s.rsc with sbySlot := a } })) ∧
  (∀ s : State, (s.rsc.handover = none ∨ s.get RSC_STATUS_HOSTATE ≠ 2 → exec .handoverCommit s = .next s) ∧
    (s.rsc.handover ≠ none → s.get RSC_STATUS_HOSTATE = 2 → exec .handoverCommit s = .next { s.passAuthority.put RSC_STATUS_HOSTATE 0 with
      rsc := { s.passAuthority.rsc with handover := none, result := some 0 } } ∧
      s.passAuthority.get RSC_STATUS_ACTIVE = otherPair (s.get RSC_STATUS_ACTIVE) ∧ s.passAuthority.rsc.bootSlot = s.rsc.sbySlot ∧
      s.passAuthority.get (RSC_RBK 0) = (max (s.get (RSC_RBK 0)) (imgRollback (s.slotImg s.rsc.sbySlot))) % 2 ^ 32))

/-- FW_STAGE, FW_SGRAFT, FW_HANDOVER, FW_KEYREC, FW_SRESTART, FW_QUERY, FW_DONE, SGRAFT_LOAD_DONE and SCN_GRAFT_SWITCH, in every state, the
writes where they reach GLB_FW_CMD. Only the host's write is a command, and one written while BUSY is refused (R602, R603); in recovery mode
all but STAGE of a Rootstock slot and QUERY end with 0x0C (R601); a graft or handover of bad arguments ends with 0x0D (R604), and a graft of
no core with 0. A command that ends posts RESULT and TAG, clears BUSY, counts and raises FW_DONE (R603); a STAGE that passes in recovery
mode restarts the device (R601), and a graft or a handover ends when it has a result. A graft verifies and loads its image, a failed check
ending it with its code (R596, R605), then switches the drained core's image and plots, a failed copy ending it with LOAD and a restart
(R605 to R607); outside a graft neither does anything. -/
def Obligations.FirmwareMailbox : Prop :=
  (∀ (s : State) (r : Req) (tag : BitVec 16), s.reaches r 0xC00 = true →
    ∀ c ∈ [Instr.fwStage r tag, .fwSgraft r tag, .fwHandover r tag, .fwKeyrec r tag, .fwSrestart r tag, .fwQuery r tag],
      (r ≠ .host → exec c s = .next s) ∧ (r = .host → s.on GLB_FW_STATUS_BUSY = true → exec c s = .next (s.put GLB_FW_STATUS_REFUSED 1))) ∧
  (∀ (s : State) (tag : BitVec 16), s.reaches .host 0xC00 = true → s.on GLB_FW_STATUS_BUSY = false → ∀ (u : Nat → State) (ends : State → Nat → State),
    (∀ k, u k = { ((s.put GLB_FW_CMD_CMD k).put GLB_FW_CMD_TAG tag.toNat).put GLB_FW_STATUS_BUSY 1 with
      rsc := { s.rsc with cmd := some (k, (List.range 4).map fun i => s.get (GLB_FW_ARG i)), result := none } }) →
    (∀ v k, ends v k = { v with rsc := { v.rsc with result := some k } }) →
    exec (.fwQuery .host tag) s = .next (u 6) ∧
    (s.on RSC_STATUS_RECOVERY = false → exec (.fwStage .host tag) s = .next (u 1) ∧ exec (.fwKeyrec .host tag) s = .next (u 4) ∧ exec (.fwSrestart .host tag) s = .next (u 5)) ∧
    (s.on RSC_STATUS_RECOVERY = true → (8 ≤ s.get (GLB_FW_ARG 2) → exec (.fwStage .host tag) s = .next (u 1)) ∧
      (s.get (GLB_FW_ARG 2) < 8 → exec (.fwStage .host tag) s = .next (ends (u 1) 0x0C)) ∧ exec (.fwSgraft .host tag) s = .next (ends (u 2) 0x0C) ∧
      exec (.fwHandover .host tag) s = .next (ends (u 3) 0x0C) ∧ exec (.fwKeyrec .host tag) s = .next (ends (u 4) 0x0C) ∧
      exec (.fwSrestart .host tag) s = .next (ends (u 5) 0x0C)) ∧
    (s.on RSC_STATUS_RECOVERY = false → ∀ m slot lim, m = s.get (GLB_FW_ARG 0) → slot = s.get (GLB_FW_ARG 1) → lim = s.get (GLB_FW_ARG 2) →
      (2 ^ 16 ≤ m ∨ 7 < slot ∨ lim = 0 ∨ 1000000 < lim → exec (.fwSgraft .host tag) s = .next (ends (u 2) 0x0D)) ∧
      (m = 0 → slot ≤ 7 → 0 < lim → lim ≤ 1000000 → exec (.fwSgraft .host tag) s = .next (ends (u 2) 0)) ∧
      (0 < m → m < 2 ^ 16 → slot ≤ 7 → 0 < lim → lim ≤ 1000000 →
        exec (.fwSgraft .host tag) s = .next { u 2 with rsc := { (u 2).rsc with graft := some ⟨maskCores m, slot, false, lim, 0⟩ } })) ∧
    (s.on RSC_STATUS_RECOVERY = false → (s.get (GLB_FW_ARG 0) ≠ 8 → s.get (GLB_FW_ARG 0) ≠ 9 → exec (.fwHandover .host tag) s = .next (ends (u 3) 0x0D)) ∧
      (s.get (GLB_FW_ARG 0) = 8 ∨ s.get (GLB_FW_ARG 0) = 9 → exec (.fwHandover .host tag) s = .next
        { (((u 3).put RSC_STATUS_REBUILT 0).put RSC_STATUS_SBYREADY 0).put RSC_STATUS_HOSTATE 1 with
          rsc := { (u 3).rsc with handover := some (s.get (GLB_FW_ARG 0)), held := false } }))) ∧
  (∀ s : State, (s.rsc.cmd = none → exec .fwDone s = .next s) ∧ ∀ cmd args, s.rsc.cmd = some (cmd, args) →
    (∀ r, s.rsc.result = some r → exec .fwDone s = .next (s.fwEnd r)) ∧
    (s.rsc.result = none →
      (cmd = 1 → s.recovery = false ∨ s.fwDoStage.1 ≠ 0 → exec .fwDone s = .next (s.fwDoStage.2.fwEnd s.fwDoStage.1)) ∧
      (cmd = 1 → s.recovery = true → s.fwDoStage.1 = 0 → exec .fwDone s = .next ((s.fwDoStage.2.fwEnd 0).beginReset 3 3)) ∧
      (cmd = 4 → exec .fwDone s = .next (s.fwDoKeyrec.2.fwEnd s.fwDoKeyrec.1)) ∧
      (cmd = 5 → exec .fwDone s = .next (s.fwDoSrestart.2.fwEnd s.fwDoSrestart.1)) ∧
      (cmd = 6 → exec .fwDone s = .next (s.fwDoQuery.fwEnd 0)) ∧
      (cmd ∉ [1, 4, 5, 6] → exec .fwDone s = .next s))) ∧
  (∀ (s : State) (r : Nat), r < 16 → (s.fwEnd r).get GLB_FW_STATUS_RESULT = r ∧ (s.fwEnd r).get GLB_FW_STATUS_BUSY = 0 ∧
    (s.fwEnd r).get GLB_FW_STATUS_TAG = s.get GLB_FW_CMD_TAG ∧ (s.fwEnd r).rsc.cmd = none ∧ (s.fwEnd r).get GLB_FW_SEQ = (s.get GLB_FW_SEQ + 1) % 2 ^ 32 ∧
    (s.fwEnd r).raised = s.raised ++ [⟨srcFwDone, 0, 0, s.time.rc, s.stamp, s.time.wall, s.on WTM_STATUS_COARSE⟩]) ∧
  (∀ (s : State) (img : List Byte) (cls : Nat), (imgFormatOk img = false → s.verify img cls = 2) ∧ s.verify [] cls = 2 ∧
    (imgFormatOk img = true → imgClass img ≠ cls → s.verify img cls = 7) ∧
    (imgFormatOk img = true → imgClass img = cls → s.signerHash cls (imgSigner img) ≠ some (sha384 (imgBytes img 0x080 96)) → s.verify img cls = 5)) ∧
  (∀ s : State, (s.rsc.graft = none → exec .sgraftLoadDone s = .next s) ∧ ∀ g, s.rsc.graft = some g →
    (g.cores = [] ∨ g.loaded = true → exec .sgraftLoadDone s = .next s) ∧
    ∀ c cs, g.cores = c :: cs → g.loaded = false →
      (s.verify (s.slotImg g.slot) 2 ≠ 0 → exec .sgraftLoadDone s = .next (s.graftEnds (s.verify (s.slotImg g.slot) 2))) ∧
      (s.verify (s.slotImg g.slot) 2 = 0 → ∀ t : State, t = s.memWrite (0xA80400000 + 0x40000 * c) (imgPayload (s.slotImg g.slot)) →
        exec .sgraftLoadDone s = .next (({ t with rsc := { t.rsc with graft := some { g with loaded := true, since := t.time.rc } } } : State).setScn c
          (if s.scnState c = 1 then 4 else if s.scnState c = 2 then 2 else 5)))) ∧
  (∀ (s : State) (c : Fin 16) (failed : Bool),
    (s.grafting c.val = false ∨ s.scnState c.val ≠ 5 ∧ (s.scnState c.val ≠ 4 ∨ s.inService c.val ≠ 0) → exec (.scnGraftSwitch c failed) s = .next s) ∧
    ∀ g u copy, s.rsc.graft = some g → s.grafting c.val = true → s.scnState c.val = 5 ∨ s.scnState c.val = 4 ∧ s.inService c.val = 0 →
      s.hbmRead (0xA80400000 + 0x40000 * c.val) (imgLength (s.slotImg g.slot)) = (copy, u) →
      (copy = none ∨ failed = true → exec (.scnGraftSwitch c failed) s = .next ((u.graftEnds 0x0A).beginRestart c.val)) ∧
      (∀ bytes v, copy = some bytes → failed = false → v = (((((u.setCore c.val { u.core c.val with mem := memOf bytes }).swapPlots c.val).put
          (SCN_IMG_SLOT c.val) g.slot).put (SCN_STATUS_DEPTH c.val) 0).put (SCN_STATUS_STATE c.val) 1).raiseRollback 2 (s.slotImg g.slot) →
        (g.cores = [c.val] → exec (.scnGraftSwitch c failed) s = .next (v.graftEnds 0)) ∧
        (∀ d ds, g.cores = c.val :: d :: ds →
          exec (.scnGraftSwitch c failed) s = .next { v with rsc := { v.rsc with graft := some { g with cores := d :: ds, loaded := false } } })))

/-- LINK_DETECT, LINK_TRAIN_DONE, LINK_RETRAIN, LINK_LOCK_LOSS, FALLOW_REQUEST, FALLOW_WAKE, SQUELCH_WAKE, FALLOW_EXIT_TIMEOUT and
PORT_TEST, in every state, the host's writes where they reach LNK_AZ_CTRL. An enabled port in DOWN or DETECT finds its partner and trains,
drawing a token that is a free value (R684, R685; log entry 4); training ends ACTIVE with its lanes where their set is one that the port may
run at, and the way out of FALLOW ends ACTIVE with the last settings (R684, R685, R696). A live port retrains with its cause and count,
discarding its unacknowledged CTRL flits (R686); requests of both ends that cross are decided by device ID, then token (R687). Invalid
headers count and block lock clears, and a lane of the width that loses it retrains (R681, R686). A tree link enters neither FALLOW nor TEST
(R696, R716), and a request to leave FALLOW prevails (R697); a port leaves FALLOW through ALIGN on a WAKE or a squelch, waking a Dormant
device only where LINKWAKE is 1 (R696, R775), and retrains if it finds no lock in time (R696). -/
def Obligations.LinkStates : Prop :=
  (∀ (s : State) (p : Fin 4), (s.on (LNK_AZ_CTRL_EN p.val) = false ∨ 2 ≤ s.portState p.val → exec (.linkDetect p) s = .next s) ∧
    (s.on (LNK_AZ_CTRL_EN p.val) = true → s.portState p.val ≤ 1 → exec (.linkDetect p) s = .next
      ((({ s with freeCtr := s.freeCtr + 1 } : State).setPort p.val { s.port p.val with token := Config.freeValue s.freeCtr % 2 ^ 16, role := 0 }).put
        (LNK_AZ_STATUS_STATE p.val) 2))) ∧
  (∀ (s : State) (p : Fin 4) (l pol : BitVec 4) (m : BitVec 8) (t : BitVec 44) (r : BitVec 68),
    (s.portState p.val = 3 → (s.port p.val).waking = true → exec (.linkTrainDone p l m pol t r) s = .next (s.portActive p.val (s.get (LNK_AZ_STATUS_LANES p.val)))) ∧
    (s.portState p.val ≠ 2 ∧ s.portState p.val ≠ 3 ∨ s.widthOk p.val l.toNat = false ∧ (s.portState p.val = 2 ∨ (s.port p.val).waking = false) →
      exec (.linkTrainDone p l m pol t r) s = .next s) ∧
    (s.portState p.val = 2 ∨ s.portState p.val = 3 ∧ (s.port p.val).waking = false → s.widthOk p.val l.toNat = true →
      Completes (exec (.linkTrainDone p l m pol t r) s) fun u => u.portState p.val = 4 ∧ u.get (LNK_AZ_STATUS_LANES p.val) = l.toNat ∧
        u.get (LNK_AZ_STATUS_POLINV p.val) = pol.toNat ∧ u.get (LNK_AZ_STATUS_REVERSED p.val) = b2n (decide (m.toNat ≠ 0xE4)) ∧ u.mem = s.mem ∧
        (∀ k < 4, bitAt l.toNat k = true → u.on (LNK_LSTATUS_LOCK p.val k) = true ∧ bitAt (u.get (LNK_AZ_STATUS_DROPPED p.val)) k = false) ∧
        ∃ e ∈ u.raised, e.src = srcLnkRemap ∧ e.arg = p.val)) ∧
  (∀ (s : State) (p : Fin 4) (dev : BitVec 13) (token : BitVec 16),
    (s.reaches .host (0x581000 + 0x400 * p.val) = true → (s.portLive p.val = true → exec (.linkRetrain p false dev token) s = .next (s.retrain p.val 1)) ∧
      (s.portLive p.val = false → exec (.linkRetrain p false dev token) s = .next s)) ∧
    (s.asked p.val = true → exec (.linkRetrain p true dev token) s = .next (s.crossRetrain p.val dev.toNat token.toNat)) ∧
    (s.portState p.val = 3 ∨ s.portState p.val = 4 → exec (.linkRetrain p true dev token) s = .next (s.retrain p.val 4)) ∧
    (s.portState p.val = 2 ∧ s.asked p.val = false ∨ s.portLive p.val = false → exec (.linkRetrain p true dev token) s = .next s) ∧
    (s.portLive p.val = true ↔ s.portState p.val = 2 ∨ s.portState p.val = 3 ∨ s.portState p.val = 4)) ∧
  (∀ (s : State) (p cause : Nat), p < 4 → cause < 8 → (s.retrain p cause).portState p = 2 ∧
    (s.retrain p cause).get (LNK_AZ_STATUS_CAUSE p) = cause ∧ (s.retrain p cause).get (LNK_AZ_STATUS_LANES p) = 0 ∧
    (s.retrain p cause).get (LNK_AZ_NRETRAIN p) = (s.get (LNK_AZ_NRETRAIN p) + 1) % 2 ^ (LNK_AZ_NRETRAIN p).width ∧
    (∀ l < 4, (s.retrain p cause).on (LNK_LSTATUS_LOCK p l) = false) ∧
    ((s.retrain p cause).port p).unacked.map (·.2) = ((s.port p).unacked.map (·.2)).filter fun m => !m.ctrl) ∧
  (∀ (s : State) (p dev token me t : Nat), me = s.get CLK_DEVID → t = (s.port p).token →
    (me < dev ∨ me = dev ∧ t < token → s.crossRetrain p dev token = (s.setPort p { s.port p with role := 1 }).send (.train p me t)) ∧
    (dev < me ∨ me = dev ∧ token < t → s.crossRetrain p dev token = s.setPort p { s.port p with role := 2 }) ∧
    (me = dev → t = token → s.crossRetrain p dev token = (s.startTraining p).askRetrain p)) ∧
  (∀ (s : State) (p l : Fin 4) (n : BitVec 32) (u : State), u = (s.put (LNK_NHDRERR p.val l.val) (s.get (LNK_NHDRERR p.val l.val) + n.toNat)).put
      (LNK_LSTATUS_LOCK p.val l.val) 0 →
    (s.portState p.val = 4 → bitAt (s.get (LNK_AZ_STATUS_LANES p.val)) l.val = true → exec (.linkLockLoss p l n) s = .next (u.retrain p.val 2)) ∧
    (s.portState p.val ≠ 4 ∨ bitAt (s.get (LNK_AZ_STATUS_LANES p.val)) l.val = false → exec (.linkLockLoss p l n) s = .next u)) ∧
  (∀ (s : State) (p : Fin 4) (partner leave : Bool), partner = true ∨ s.reaches .host (0x581000 + 0x400 * p.val) = true →
    (s.portState p.val ≠ 4 ∨ s.treeLink p.val = true ∨ leave = true → exec (.fallowRequest p partner leave) s = .next s) ∧
    (s.portState p.val = 4 → s.treeLink p.val = false → leave = false → ∀ u : State, u = s.sendFlit p.val (.fallowAsk p.val) →
      exec (.fallowRequest p partner leave) s = .next (u.setPort p.val { u.port p.val with seekFallow := true }))) ∧
  (∀ (s : State) (p : Fin 4), (s.reaches .host (0x581000 + 0x400 * p.val) = true → exec (.fallowWake p) s = .next (s.leaveFallow p.val)) ∧
    (s.portState p.val ≠ 5 → exec (.squelchWake p) s = .next s) ∧
    (s.portState p.val = 5 → s.sleeping = false → exec (.squelchWake p) s = .next (s.leaveFallow p.val)) ∧
    (s.portState p.val = 5 → s.sleeping = true → exec (.squelchWake p) s = .next (if s.on PMG_CFG_LINKWAKE = true then s.startWake else s)) ∧
    (s.portState p.val = 5 → s.leaveFallow p.val = (s.setPort p.val { s.port p.val with waking := true }).put (LNK_AZ_STATUS_STATE p.val) 3) ∧
    (s.portState p.val ≠ 5 → s.leaveFallow p.val = s.setPort p.val { s.port p.val with seekFallow := false }) ∧
    ((s.port p.val).waking = true → s.portState p.val = 3 → exec (.fallowExitTimeout p) s = .next (s.retrain p.val 2)) ∧
    ((s.port p.val).waking = false ∨ s.portState p.val ≠ 3 → exec (.fallowExitTimeout p) s = .next s)) ∧
  (∀ (s : State) (p : Fin 4), s.reaches .host (0x581000 + 0x400 * p.val) = true →
    (s.treeLink p.val = true ∨ s.on (LNK_AZ_CTRL_EN p.val) = false → exec (.portTest p true) s = .next s) ∧
    (s.treeLink p.val = false → s.on (LNK_AZ_CTRL_EN p.val) = true →
      exec (.portTest p true) s = .next (((s.put (LNK_AZ_CTRL_TEST p.val) 1).put (LNK_AZ_STATUS_STATE p.val) 6).setLanes p.val 0)) ∧
    (s.portState p.val = 6 → exec (.portTest p false) s = .next ((s.put (LNK_AZ_CTRL_TEST p.val) 0).put (LNK_AZ_STATUS_STATE p.val) 1)) ∧
    (s.portState p.val ≠ 6 → exec (.portTest p false) s = .next (s.put (LNK_AZ_CTRL_TEST p.val) 0)))

/-- FLIT_RECEIVE, NAK_RECEIVE, WIDTH_PROPOSAL_RECEIVE, LANE_DROP, LANE_RESTORE, PRBS_CTRL_WRITE, PRBS_CHECKER_SYNC, TXEQ_WRITE and
TRELLIS_BLOCK_RECEIVE, in every state, the writes where they reach their register and counted as lost while the port's domain is off (R770).
A flit with its CRC and the next SEQ is accepted; one with a failed CRC counts and answers a NAK, and one with another SEQ answers a NAK
once (R682, R683); the eighth consecutive NAK retrains with cause RETRY, any other replays (R683). A proposal beyond the good lanes is
refused, a refusal withdraws this end's own, another waits for its switch point, and where two cross the narrower stands (R688; R687 between
equal ones). A dropped lane counts its errors and is marked, and the port proposes the best width left (R689); a restored one counts as
good, and with AUTOWIDEN the port proposes more (R689). A generator on a lane with traffic, and taps out of limits, are refused (R680,
R690); a checker synchronises, then counts (R690). A Trellis block both of whose copies fail counts as lost, and as a slip where it comes
from the parent (R691, R695); the first good copy gives its four words (R691, R692). -/
def Obligations.LinkTraffic : Prop :=
  (∀ (s : State) (p : Fin 4) (f : BitVec 512) (ack seq ty : Nat), ack = bits f.toNat 4 12 → seq = bits f.toNat 16 12 → ty = bits f.toNat 28 4 →
    (s.portState p.val ≠ 4 → exec (.flitReceive p f) s = .next s) ∧
    (s.portState p.val = 4 →
      (flitCrcOk f = false → ∀ u : State, u = s.inc (LNK_AZ_NCRC p.val) → exec (.flitReceive p f) s =
        .next ((u.setPort p.val { s.port p.val with discarding := true }).send (.nak p.val (((s.port p.val).rx + 4095) % 4096)))) ∧
      (flitCrcOk f = true →
        (ty = 0 → exec (.flitReceive p f) s = .next (s.ackFlits p.val ack)) ∧ (ty = 2 → exec (.flitReceive p f) s = .next (s.nak p.val ack)) ∧
        (ty = 1 ∨ ty = 3 → seq = (s.port p.val).rx → exec (.flitReceive p f) s = .next
          (((s.setPort p.val { s.port p.val with rx := ((s.port p.val).rx + 1) % 4096, discarding := false }).ackFlits p.val ack).passSwitch p.val)) ∧
        (ty = 1 ∨ ty = 3 → seq ≠ (s.port p.val).rx → (s.port p.val).discarding = true → exec (.flitReceive p f) s = .next s) ∧
        (ty = 1 ∨ ty = 3 → seq ≠ (s.port p.val).rx → (s.port p.val).discarding = false → exec (.flitReceive p f) s =
          .next ((s.setPort p.val { s.port p.val with discarding := true }).send (.nak p.val (((s.port p.val).rx + 4095) % 4096)))) ∧
        (3 < ty → exec (.flitReceive p f) s = .next s)))) ∧
  (∀ (s : State) (p : Fin 4) (a : BitVec 12) (u : State), u = (s.inc (LNK_AZ_NREPLAY p.val)).ackFlits p.val a.toNat →
    (s.portState p.val ≠ 4 → exec (.nakReceive p a) s = .next s) ∧
    (s.portState p.val = 4 → 7 ≤ (u.port p.val).naks → exec (.nakReceive p a) s = .next (u.retrain p.val 3)) ∧
    (s.portState p.val = 4 → (u.port p.val).naks < 7 → exec (.nakReceive p a) s =
      .next ((u.setPort p.val { u.port p.val with naks := (u.port p.val).naks + 1 }).send (.replay p.val ((a.toNat + 1) % 4096))))) ∧
  (∀ (s : State) (p : Fin 4) (f : Bool) (l : BitVec 4) (q : BitVec 12) (dev : BitVec 13) (tok : BitVec 16),
    (s.portState p.val ≠ 4 → exec (.widthProposalReceive p f l q dev tok) s = .next s) ∧
    (s.portState p.val = 4 → ∀ v : Port, v = s.port p.val →
      ((∃ w, v.switch = some w ∧ w.own ≠ none ∧ w.peer = none) → exec (.widthProposalReceive p true l q dev tok) s = .next (s.setPort p.val { v with switch := none })) ∧
      ((∀ w, v.switch = some w → w.own = none ∨ w.peer ≠ none) → exec (.widthProposalReceive p true l q dev tok) s = .next s) ∧
      (popcount 4 (s.goodLanes p.val) < popcount 4 l.toNat ∨ popcount 4 l.toNat = 0 ∨ popcount 4 l.toNat = 3 →
        exec (.widthProposalReceive p false l q dev tok) s = .next (s.sendFlit p.val (.widthRefusal p.val))) ∧
      (popcount 4 l.toNat ≤ popcount 4 (s.goodLanes p.val) → popcount 4 l.toNat ≠ 0 → popcount 4 l.toNat ≠ 3 →
        exec (.widthProposalReceive p false l q dev tok) s = .next (s.takeProposal p.val l.toNat q.toNat dev.toNat tok.toNat)))) ∧
  (∀ (s : State) (p l q dev tok : Nat) (v : Port), v = s.port p →
    (v.switch = none → s.takeProposal p l q dev tok = s.setPort p { v with switch := some ⟨l, none, some q, 0⟩ }) ∧
    ∀ w, v.switch = some w →
      (w.own = none → s.takeProposal p l q dev tok = s.setPort p { v with switch := some ⟨l, none, some q, w.next⟩ }) ∧
      (w.own ≠ none → popcount 4 w.lanes < popcount 4 l → s.takeProposal p l q dev tok = s.setPort p { v with switch := some { w with peer := some q } }) ∧
      (w.own ≠ none → popcount 4 l < popcount 4 w.lanes → s.takeProposal p l q dev tok =
        s.setPort p { v with switch := some ⟨l, w.own, some q, if w.next = 0 then w.lanes else w.next⟩ }) ∧
      (w.own ≠ none → popcount 4 w.lanes = popcount 4 l → (s.leads p dev tok = some true → s.takeProposal p l q dev tok = s) ∧
        (s.leads p dev tok = some false → s.takeProposal p l q dev tok = s.setPort p { v with switch := some ⟨l, none, some q, w.next⟩ }))) ∧
  (∀ (s : State) (p l : Fin 4) (m : BitVec 4) (n : BitVec 32) (u : State),
    u = (s.put (LNK_NHDRERR p.val l.val) (s.get (LNK_NHDRERR p.val l.val) + n.toNat)).put (LNK_AZ_STATUS_DROPPED p.val) (setBitN (s.get (LNK_AZ_STATUS_DROPPED p.val)) l.val) →
    (s.portState p.val ≠ 4 ∨ bitAt (s.get (LNK_AZ_STATUS_LANES p.val)) l.val = false ∨ bitAt (s.get (LNK_AZ_STATUS_DROPPED p.val)) l.val = true →
      exec (.laneDrop p l m n) s = .next s) ∧
    (s.portState p.val = 4 → bitAt (s.get (LNK_AZ_STATUS_LANES p.val)) l.val = true → bitAt (s.get (LNK_AZ_STATUS_DROPPED p.val)) l.val = false →
      (u.bestWidth p.val = 0 → exec (.laneDrop p l m n) s = .next u) ∧
      (u.bestWidth p.val ≠ 0 → exec (.laneDrop p l m n) s = .next (u.propose p.val (u.bestLanes p.val m.toNat))))) ∧
  (∀ (s : State) (p : Nat) (m : Nat), p < 4 → m < 16 → s.bestWidth p ∈ [0, 1, 2, 4] ∧ s.bestWidth p ≤ 2 ^ s.get (LNK_AZ_CTRL_MAXW p) ∧ s.bestWidth p ≤ popcount 4 (s.goodLanes p) ∧
    popcount 4 (s.bestLanes p m) = s.bestWidth p ∧ ∀ k < 4, bitAt (s.bestLanes p m) k = true → bitAt (s.goodLanes p) k = true) ∧
  (∀ (s : State) (p l : Fin 4) (m : BitVec 4) (u : State), u = (s.put (LNK_AZ_STATUS_DROPPED p.val) (clrBitN (s.get (LNK_AZ_STATUS_DROPPED p.val)) l.val)).put (LNK_LSTATUS_LOCK p.val l.val) 1 →
    (bitAt (s.get (LNK_AZ_STATUS_DROPPED p.val)) l.val = false → exec (.laneRestore p l m) s = .next s) ∧
    (bitAt (s.get (LNK_AZ_STATUS_DROPPED p.val)) l.val = true →
      (s.on (LNK_AZ_CTRL_AUTOWIDEN p.val) = false ∨ s.portState p.val ≠ 4 ∨ u.bestWidth p.val ≤ popcount 4 (s.get (LNK_AZ_STATUS_LANES p.val)) →
        exec (.laneRestore p l m) s = .next u) ∧
      (s.on (LNK_AZ_CTRL_AUTOWIDEN p.val) = true → s.portState p.val = 4 → popcount 4 (s.get (LNK_AZ_STATUS_LANES p.val)) < u.bestWidth p.val →
        exec (.laneRestore p l m) s = .next (u.propose p.val (u.bestLanes p.val m.toNat))))) ∧
  (∀ (s : State) (p l : Fin 4) (d : BitVec 32), s.reaches .host (0x58110C + 0x400 * p.val) = true →
    (s.domOn (22 + p.val) = false → exec (.prbsCtrlWrite p l d) s = .next (s.incSat PMG_NOFFWR)) ∧
    (s.domOn (22 + p.val) = true →
      (bitAt d.toNat 0 = true → s.laneFree p.val l.val = false → exec (.prbsCtrlWrite p l d) s = .next (s.put (LNK_LSTATUS_PRBSREF p.val l.val) 1)) ∧
      (bitAt d.toNat 0 = false ∨ s.laneFree p.val l.val = true → ∀ u : State,
        u = ((s.put (LNK_PRBS_CTRL_PAT p.val l.val) (bits d.toNat 2 2)).put (LNK_PRBS_CTRL_CHK p.val l.val) (b2n (bitAt d.toNat 1))).put
          (LNK_PRBS_CTRL_GEN p.val l.val) (b2n (bitAt d.toNat 0)) →
        (bitAt d.toNat 1 = true → exec (.prbsCtrlWrite p l d) s = .next u) ∧
        (bitAt d.toNat 1 = false → exec (.prbsCtrlWrite p l d) s = .next (u.put (LNK_LSTATUS_PRBSSYNC p.val l.val) 0))))) ∧
  (∀ (s : State) (p l : Fin 4) (n : BitVec 48) (e : BitVec 32),
    (s.on (LNK_PRBS_CTRL_CHK p.val l.val) = false → bitAt (s.get (LNK_AZ_STATUS_DROPPED p.val)) l.val = false → exec (.prbsCheckerSync p l n e) s = .next s) ∧
    (s.on (LNK_PRBS_CTRL_CHK p.val l.val) = true ∨ bitAt (s.get (LNK_AZ_STATUS_DROPPED p.val)) l.val = true →
      (s.on (LNK_LSTATUS_PRBSSYNC p.val l.val) = false → exec (.prbsCheckerSync p l n e) s = .next (s.put (LNK_LSTATUS_PRBSSYNC p.val l.val) 1)) ∧
      (s.on (LNK_LSTATUS_PRBSSYNC p.val l.val) = true → exec (.prbsCheckerSync p l n e) s =
        .next ((s.add64 (LNK_PRBS_BITS_LO p.val l.val) (LNK_PRBS_BITS_HI p.val l.val) n.toNat).addSat (LNK_PRBS_ERR p.val l.val) e.toNat)))) ∧
  (∀ (s : State) (p l : Fin 4) (d : BitVec 32), s.reaches .host (0x581100 + 0x400 * p.val) = true →
    (s.domOn (22 + p.val) = false → exec (.txeqWrite p l d) s = .next (s.incSat PMG_NOFFWR)) ∧
    (s.domOn (22 + p.val) = true → ∀ pre post, pre = bits d.toNat 0 5 → post = bits d.toNat 8 6 →
      (16 < pre ∨ 24 < post ∨ 32 < pre + post → exec (.txeqWrite p l d) s = .next (s.put (LNK_AZ_STATUS_EQREF p.val) 1)) ∧
      (pre ≤ 16 → post ≤ 24 → pre + post ≤ 32 → exec (.txeqWrite p l d) s = .next ((s.put (LNK_TXEQ_PRE p.val l.val) pre).put (LNK_TXEQ_POST p.val l.val) post)))) ∧
  (∀ (s : State) (p : Fin 4) (a b : BitVec 256), (s.on (LNK_AZ_STATUS_DET p.val) = false → exec (.trellisBlockReceive p a b) s = .next s) ∧
    (s.on (LNK_AZ_STATUS_DET p.val) = true →
      (∀ c ws, copyOk a = true ∧ c = a ∨ copyOk a = false ∧ copyOk b = true ∧ c = b → ws = (List.range 4).map (fun i => bits c.toNat (8 + 56 * i) 56) →
        exec (.trellisBlockReceive p a b) s = .next (s.setPort p.val { s.port p.val with words := ws, partial_ := ws.foldl gatherWord (s.port p.val).partial_ })) ∧
      (copyOk a = false → copyOk b = false → ∀ u : State, u = (s.inc (LNK_AZ_NTLOST p.val)).setPort p.val { s.port p.val with words := [], partial_ := [] } →
        exec (.trellisBlockReceive p a b) s = .next (if s.get CLK_DEPTH_UP = p.val then u.hopSlip else u))))

/-- RRA_READ, RRA_WRITE, RRA_BCAST, RRA_SERVE, RRA_RESPONSE, RRA_TIMEOUT, PCIE_DOWN, PCIE_LINK_UP, PCIE_L1_2_ENTRY and PCIE_L1_2_EXIT, in
every state, the command writes where they reach LNK_RRA_CMD. A command starts the requester's access with OP 1, 2 or 3 (R699): one while
busy is refused, one of an address not aligned or not below 2^28 ends with ARG, one at this device is made at once, and one without a route
ends with NOROUTE (R699 to R701). An access that arrives is made as one of the host, and a response leaves with its result (R700); a
broadcast goes up to the root and then down every tree link (R702). A response or the limit ends the access in progress with its result, and
later ones are discarded (R701, R702). While the links have no clock nothing arrives (R752, R776). A link that goes down in D0 discards what
was bound for the host, raises PCIE_DOWN and counts, and one in D3hot only goes down (R705); a link that comes up shows its settings (R715).
In D0 the device enters no L1 while a stream channel is open or a bound ring has a cell to write (R704); in Dormant the domain switches off
with the entry and on with the exit (R768, R776). -/
def Obligations.RemoteAccess : Prop :=
  (∀ (s : State) (r : Req), s.reaches r 0x58002C = true →
    exec (.rraRead r) s = .next (s.rraStart State.hostWrite r 1) ∧ exec (.rraWrite r) s = .next (s.rraStart State.hostWrite r 2) ∧
    exec (.rraBcast r) s = .next (s.rraStart State.hostWrite r 3)) ∧
  (∀ (s : State) (r : Req) (op a dev d : Nat), a = s.get (LNK_RRA_ADDR.per r) → dev = s.get (LNK_RRA_DEV.per r) → d = s.get (LNK_RRA_DATA.per r) →
    (s.on (LNK_RRA_STAT_BUSY.per r) = true → s.rraStart State.hostWrite r op = s.rraRefuse r) ∧
    (s.on (LNK_RRA_STAT_BUSY.per r) = false → ∀ u : State, u = s.rraBegin r op →
      (op = 0 ∨ a % 4 ≠ 0 ∨ 0x10000000 ≤ a → s.rraStart State.hostWrite r op = u.rraEnd r 4) ∧
      (a % 4 = 0 → a < 0x10000000 →
        (op = 1 → dev = s.get CLK_DEVID → s.rraStart State.hostWrite r op = ((u.readEffect .host a).put (LNK_RRA_DATA.per r) (u.regRead .host a)).rraEnd r 0) ∧
        (op = 2 → dev = s.get CLK_DEVID → s.rraStart State.hostWrite r op = (State.hostWrite a d u).rraEnd r (if rscRange a = true then 3 else 0)) ∧
        (op = 1 ∨ op = 2 → dev ≠ s.get CLK_DEVID → (s.rraPort dev = none → s.rraStart State.hostWrite r op = u.rraEnd r 1) ∧
          ∀ p, s.rraPort dev = some p → s.rraStart State.hostWrite r op = u.sendFlit p (.remote p op dev a d)) ∧
        (op = 3 → s.on CMT_STATUS_ROOT = false → (s.portState (s.get CLK_DEPTH_UP) = 4 → s.rraStart State.hostWrite r op = u.sendUp a d) ∧
          (s.portState (s.get CLK_DEPTH_UP) ≠ 4 → s.rraStart State.hostWrite r op = u.rraEnd r 1)) ∧
        (op = 3 → s.on CMT_STATUS_ROOT = true → ∀ v : State, v = State.hostWrite a d u →
          (s.get CLK_GRP_SIZE = 1 → s.rraStart State.hostWrite r op = (v.put (LNK_RRA_DATA.per r) 1).rraEnd r 0) ∧
          (s.get CLK_GRP_SIZE ≠ 1 → s.rraStart State.hostWrite r op = v.sendDown a d))))) ∧
  (∀ (s : State) (r : Req) (x : Nat), x < 8 → (s.rraEnd r x).on (LNK_RRA_STAT_BUSY.per r) = false ∧ (s.rraEnd r x).get (LNK_RRA_STAT_RESULT.per r) = x ∧
    (s.rraEnd r x).rraOp r = 0) ∧
  (∀ (s : State) (p op : Fin 4) (a d : BitVec 32),
    (op.val = 0 ∨ s.dark 0x580000 = true → exec (.rraServe p op a d) s = .next s) ∧
    (s.dark 0x580000 = false →
      (op.val = 3 → s.on CMT_STATUS_ROOT = false → s.get CLK_DEPTH_UP ≠ p.val → exec (.rraServe p op a d) s = .next (s.sendUp a.toNat d.toNat)) ∧
      ∀ (u : State) (res v : Nat), (s.inc LNK_NRRA).rraLocal State.hostWrite op.val a.toNat d.toNat = (u, res, v) →
        (op.val = 1 ∨ op.val = 2 → exec (.rraServe p op a d) s = .next (u.sendFlit p.val (.response p.val (s.get CLK_DEVID) res v))) ∧
        (op.val = 3 → s.on CMT_STATUS_ROOT = true ∨ s.get CLK_DEPTH_UP = p.val →
          exec (.rraServe p op a d) s = .next ((u.sendDown a.toNat d.toNat).sendFlit p.val (.response p.val (s.get CLK_DEVID) res v))))) ∧
  (∀ (s : State) (r : Req) (f : Bool) (d : BitVec 32) (n : BitVec 14),
    (s.on (LNK_RRA_STAT_BUSY.per r) = false ∨ s.dark 0x580000 = true → exec (.rraResponse r f d n) s = .next s ∧ exec (.rraTimeout r n) s = .next s) ∧
    (s.on (LNK_RRA_STAT_BUSY.per r) = true → s.dark 0x580000 = false →
      (s.rraOp r = 1 → exec (.rraResponse r f d n) s = .next ((s.put (LNK_RRA_DATA.per r) d.toNat).rraEnd r (if f = true then 3 else 0))) ∧
      (s.rraOp r ≠ 1 → s.rraOp r ≠ 3 → exec (.rraResponse r f d n) s = .next (s.rraEnd r (if f = true then 3 else 0))) ∧
      (s.rraOp r = 3 → exec (.rraResponse r f d n) s = .next ((s.put (LNK_RRA_DATA.per r) d.toNat).rraEnd r (if d.toNat = n.toNat then 0 else 2)) ∧
        exec (.rraTimeout r n) s = .next ((s.put (LNK_RRA_DATA.per r) n.toNat).rraEnd r 2)) ∧
      (s.rraOp r ≠ 3 → exec (.rraTimeout r n) s = .next (s.rraEnd r 2)))) ∧
  (∀ s : State, (s.on LNK_PCIE_STATUS_UP = false ∨ s.lnk.d3hot = true → exec .pcieDown s = .next (s.put LNK_PCIE_STATUS_UP 0)) ∧
    (s.on LNK_PCIE_STATUS_UP = true → s.lnk.d3hot = false → Completes (exec .pcieDown s) fun t => t.hostOut = [] ∧
      t.get LNK_PCIE_STATUS_UP = 0 ∧ srcPcieDown ∈ t.fcl.conds ∧ t.get LNK_PCIE_NDOWN = (s.get LNK_PCIE_NDOWN + 1) % 2 ^ LNK_PCIE_NDOWN.width ∧
      (∃ r, t.raised = s.raised ++ [r] ∧ r.src = srcPcieDown) ∧ s.regsBut t [LNK_PCIE_STATUS_UP, LNK_PCIE_NDOWN] ∧ t.que = s.que ∧ t.mem = s.mem)) ∧
  (∀ (s : State) (f r : Bool) (g : Fin 8) (w : Fin 16) (p : BitVec 8), Completes (exec (.pcieLinkUp f r g w p) s) fun t =>
    t.get LNK_PCIE_STATUS_UP = 1 ∧ t.get LNK_PCIE_STATUS_RATE = g.val ∧ t.get LNK_PCIE_STATUS_WIDTH = w.val ∧ t.get LNK_PCIE_STATUS_FLIT = b2n f ∧
    t.get LNK_PCIE_STATUS_REVERSED = b2n r ∧ t.get LNK_PCIE_STATUS_POL = p.toNat ∧ srcPcieDown ∉ t.fcl.conds ∧ t.hostOut = s.hostOut ∧ t.lnk.d3hot = false ∧ t.mem = s.mem) ∧
  (∀ (s : State) (d : Bool) (u : State), u = { s.put LNK_PCIE_STATUS_LPWR 2 with lnk := { s.lnk with d3hot := d } } →
    (d = false → s.l1Held = true → exec (.pcieL12Entry d) s = .next s) ∧
    (d = true ∨ s.l1Held = false → exec (.pcieL12Entry d) s = .next (if s.get PMG_STATUS_STATE = 1 then u.put PMG_DOM_ON0 (clrBitN (s.get PMG_DOM_ON0) 21) else u)) ∧
    exec (.pcieL12Exit d) s = .next (({ s.put LNK_PCIE_STATUS_LPWR 0 with lnk := { s.lnk with d3hot := d } } : State).put PMG_DOM_ON0 (setBitN (s.get PMG_DOM_ON0) 21)))

/-- WTM_SET, WTM_ADJ, WTM_INC_WRITE, WTM_NOW_LATCH, TIME_SEND, TIME_RECEIVE, WTM_SYNC_TIMEOUT and EXT_TRIG_STAMP, in every state, the writes
where they reach their register. SET loads the wall time at the next tick, unless its NS is not below 10^9; ADJ adds its signed value at
that tick, a second one before it replacing the first (R709). An increment outside 3.996 ns to 4.004 ns is discarded, another is in effect
from the next tick, and after reset it is 4.000 ns (R708). A read of NOW_FRAC latches the rest for its requester (R710). The root with
ROOTSRC sends a TIME message, any other device none (R712). A member records its offset with a hop of 640 ns, is SYNCED and forwards it with
its residence, and the root takes none; a timeout clears SYNCED (R713). An edge that EDGE selects, and not within 4 ns of a stamped one, is
stamped, and any other is not (R714). -/
def Obligations.WallTime : Prop :=
  (∀ s : State, s.reaches .host 0x5C0000 = true →
    (1000000000 ≤ s.get WTM_SET_NS → exec .wtmSet s = .next (s.put WTM_STATUS_SETREF 1)) ∧
    (s.get WTM_SET_NS < 1000000000 → exec .wtmSet s = .next { s with time := { s.time with
        load := some ((s.get WTM_SET_SEC_LO + 2 ^ 32 * s.get WTM_SET_SEC_HI) * wallSecond + s.get WTM_SET_NS * 2 ^ 32) } })) ∧
  (∀ (s : State) (d e : BitVec 32), s.reaches .host 0x5C002C = true → ∀ t u : State, t = { s with time := { s.time with adj := some (d.toInt * 2 ^ 16) } } →
    u = { s with time := { s.time with adj := some (e.toInt * 2 ^ 16) } } →
    exec (.wtmAdj d) s = .next t ∧ (t.reaches .host 0x5C002C = true → exec (.wtmAdj e) t = .next u)) ∧
  (∀ (t : TimeState) (c : Bool) (k : Nat), (t.pass c k).rc = t.rc + k ∧ (t.pass c k).inc = t.inc ∧
    (incBetween c 1 t.rc (t.rc + k) = 0 → (t.pass c k).load = t.load ∧ (t.pass c k).adj = t.adj ∧ (t.pass c k).wall = t.wall) ∧
    (incBetween c 1 t.rc (t.rc + k) ≠ 0 → (t.pass c k).load = none ∧ (t.pass c k).adj = none ∧
      (t.pass c k).wall = (((match t.load with
      | some v => (v : Int) - t.inc
      | none => t.wall) + (incBetween c t.inc t.rc (t.rc + k) : Nat) + t.adj.getD 0) % (wallWrap : Int)).toNat)) ∧
  (∀ (s : State) (d : BitVec 32) (inc : Nat), s.reaches .host 0x5C000C = true → inc = s.get WTM_INC_LO + 2 ^ 32 * (d.toNat % 2 ^ 8) →
    (inc * 1000 < 3996 * 2 ^ 32 ∨ 4004 * 2 ^ 32 < inc * 1000 → exec (.wtmIncWrite d) s = .next (s.put WTM_STATUS_INCREF 1)) ∧
    (3996 * 2 ^ 32 ≤ inc * 1000 → inc * 1000 ≤ 4004 * 2 ^ 32 → exec (.wtmIncWrite d) s = .next { s.put WTM_INC_HI d.toNat with time := { s.time with inc := inc } }) ∧
    State.reset.time.inc = 0x400000000 ∧ State.reset.get WTM_INC_LO + 2 ^ 32 * State.reset.get WTM_INC_HI = 0x400000000) ∧
  (∀ (s : State) (r : Req), exec (.wtmNowLatch r) s = .next (((s.put (WTM_NOW_NS.per r) (wallNs s.time.wall)).put (WTM_NOW_SEC_LO.per r)
    (wallSec s.time.wall)).put (WTM_NOW_SEC_HI.per r) (wallSec s.time.wall / 2 ^ 32))) ∧
  (∀ s : State, (s.on CMT_STATUS_ROOT = false ∨ s.on WTM_CTRL_ROOTSRC = false → exec .timeSend s = .next s) ∧
    (s.on CMT_STATUS_ROOT = true → s.on WTM_CTRL_ROOTSRC = true → ∀ u : State, u = { s with time := { s.time with seq := (s.time.seq + 1) % 2 ^ 16 } } →
      exec .timeSend s = .next (if s.on CLK_DEPTH_DOWN = true then u.send (.time (wallSec s.time.wall) (wallNs s.time.wall) (wallFrac s.time.wall)
        ((s.time.seq + 1) % 2 ^ 16) 0) else u))) ∧
  (∀ (s : State) (q : BitVec 16) (sec : BitVec 48) (ns : BitVec 32) (fr : BitVec 16) (co : BitVec 48) (re : BitVec 16),
    (s.on CMT_STATUS_ROOT = true → exec (.timeReceive q sec ns fr co re) s = .next s) ∧
    (s.on CMT_STATUS_ROOT = false →
      Completes (exec (.timeReceive q sec ns fr co re) s) fun t => t.get WTM_STATUS_SYNCED = 1 ∧ t.get WTM_OFS_SEQ = q.toNat ∧
      t.get64 WTM_OFS_LO WTM_OFS_HI = codeOf 64 ((((sec.toNat * 1000000000 + ns.toNat) * 2 ^ 16 + fr.toNat : Nat) : Int) +
        (co.toInt + 640 * 2 ^ 16) - ((s.time.wall / 2 ^ 16 : Nat) : Int)) ∧
      t.get WTM_NSYNC = (s.get WTM_NSYNC + 1) % 2 ^ WTM_NSYNC.width ∧ t.time = s.time ∧
      t.raised = s.raised ++ [⟨srcWtmSync, 0, 0, s.time.rc, s.stamp, s.time.wall, s.on WTM_STATUS_COARSE⟩] ∧
      t.tx = (if s.on CLK_DEPTH_DOWN = true then s.tx ++ [.time sec.toNat ns.toNat fr.toNat q.toNat (co.toInt + 640 * 2 ^ 16 + 10 * 2 ^ 16 * re.toNat)] else s.tx) ∧
      s.regsBut t [WTM_OFS_LO, WTM_OFS_HI, WTM_OFS_SEQ, WTM_NSYNC, WTM_STATUS_SYNCED])) ∧
  (∀ s : State, exec .wtmSyncTimeout s = .next (s.put WTM_STATUS_SYNCED 0)) ∧
  (∀ (s : State) (i : Fin 8) (r : Bool) (k : Fin 160),
    (bitAt (s.get (WTM_ET_CFG_EDGE i.val)) (if r = true then 0 else 1) = false ∨
        (∃ e, (s.time.stamps.find? fun e => e.1 == i.val) = some e ∧ 160 * s.time.rc + k.val ≤ e.2 + 64) → exec (.extTrigStamp i r k) s = .next s) ∧
    (bitAt (s.get (WTM_ET_CFG_EDGE i.val)) (if r = true then 0 else 1) = true →
        (∀ e, (s.time.stamps.find? fun e => e.1 == i.val) = some e → e.2 + 64 < 160 * s.time.rc + k.val) →
      Completes (exec (.extTrigStamp i r k) s) fun t => t.get (WTM_ET_NSTAMP i.val) = (s.get (WTM_ET_NSTAMP i.val) + 1) % 2 ^ (WTM_ET_NSTAMP i.val).width ∧
        t.get64 (WTM_ET_GVC_LO i.val) (WTM_ET_GVC_HI i.val) = s.stamp.getD (2 ^ 64 - 1) % 2 ^ 64 ∧ t.get (WTM_ET_SEC_HI_EDGE i.val) = b2n r ∧
        (i.val, 160 * s.time.rc + k.val) ∈ t.time.stamps ∧ (s.on WTM_STATUS_COARSE = true →
          t.get (WTM_ET_NS i.val) = wallNs (s.time.wall + k.val * 2 ^ 28) % 2 ^ 32 ∧ t.get (WTM_ET_SEC_HI_COARSE i.val) = 1) ∧
        (s.on (WTM_ET_QUEUE_EN i.val) = false → t.que = s.que ∧ t.mem = s.mem)))

/-- EVENT_OCCURRENCE, FCL_SELF, FCL_CLR, FCL_PROMO_CLEAR, FCL_SWEVT and WARMRST, in every state, the writes where they reach their register.
An occurrence leaves the queue and is decided, of those in the ac of the oldest the one with the lowest source first (R724, R728); it counts
(R725), one of class 2 or more goes to Rootstock and, where no source is latched, into the first-source latch (R583, R729), and a fatal one
enters the safe state and the Almanac (R725, R741); one of class 0 that nothing else names only counts. A mismatch of the collector's copies
enters the safe state with cause 2 (R734). A clear of the first-source latch is refused while its source is active, or after a fatal one in
the safe state or from any other than Rootstock, and otherwise clears it (R732). Ones written end promotions (R727). A software source above
39 is refused, any other occurs (R742). Only the active pair starts a warm reset, and not during a power-loss write (R739, R799). -/
def Obligations.EventCollector : Prop :=
  (∀ s : State, (s.raised = [] → exec .eventOccurrence s = .next s) ∧
    ∀ (k : Nat) (r : Raised), nextRaised s.raised = some k → s.raised[k]? = some r →
      exec .eventOccurrence s = .next (({ s with raised := s.raised.eraseIdx k } : State).decideOne r true)) ∧
  (∀ (o : Raised) (os : List Raised), ∃ (k : Nat) (r : Raised), nextRaised (o :: os) = some k ∧ (o :: os)[k]? = some r ∧ r.rc / 25 = o.rc / 25 ∧
    ∀ x ∈ o :: os, x.rc / 25 = o.rc / 25 → r.src ≤ x.src) ∧
  (∀ (s : State) (r : Raised) (log : Bool) (cls act : Nat) (u t : State), r.src < 320 → cls = (if r.src = 0 then 3 else s.get (FCL_SRC_CFG_CLASS r.src)) →
    u = (s.incSat (FCL_SRC_CNT r.src)).countPromotion r.src cls → act = (if cls ≤ 1 ∧ u.promoted r.src = true then 2 else cls) → t = s.decideOne r log →
    t.get (FCL_SRC_CNT r.src) = min (s.get (FCL_SRC_CNT r.src) + 1) (2 ^ (FCL_SRC_CNT r.src).width - 1) ∧
    (2 ≤ act → ∃ p, (r.src, p) ∈ (t.core 16).arriving ∧ 15 ≤ p) ∧
    (2 ≤ act → s.on FCL_FIRST_LATCHED = false → t.on FCL_FIRST_LATCHED = true ∧ t.get FCL_FIRST_SOURCE = r.src ∧ t.get FCL_FIRST_CLASS = act ∧ t.get FCL_FIRST_CNT = 1) ∧
    (s.on FCL_FIRST_LATCHED = true → t.get FCL_FIRST_SOURCE = s.get FCL_FIRST_SOURCE ∧ t.get FCL_FIRST_CLASS = s.get FCL_FIRST_CLASS) ∧
    (act = 3 → t.inSafe = true) ∧ (act = 3 → log = true → t.get EVR_WPTR = (s.get EVR_WPTR + 1) % 2 ^ EVR_WPTR.width)) ∧
  (∀ (s : State) (r : Raised) (log : Bool), r.src < 320 → r.src ≠ 0 → r.src ≠ srcPwrLoss → s.get (FCL_SRC_CFG_CLASS r.src) = 0 → s.get (FCL_SRC_CFG_PN r.src) = 0 →
    s.promoted r.src = false → s.on (FCL_SRC_CFG_ALM r.src) = false → s.on (SCN_EVROUTE_EN r.src) = false →
    s.get (FCL_SRC_CFG_FRZ r.src) = 0 → s.on FCL_FIRST_LATCHED = false → ∀ t, t = s.decideOne r log →
    s.regsBut t [FCL_SRC_CNT r.src] ∧ t.raised = s.raised ∧ t.evr = s.evr ∧ t.cores = s.cores ∧ t.frz = s.frz ∧ t.mem = s.mem) ∧
  (∀ (s : State) (b : Bool), exec (.fclSelf b) s = .next (((s.put FCL_STATUS_SELF 1).enterSafe 2).raiseNow srcFclSelf 0 b)) ∧
  (∀ (s : State) (r : Req) (src : Nat), s.reaches r 0x4002C = true → src = s.get FCL_FIRST_SOURCE →
    (s.on FCL_FIRST_LATCHED = true → s.srcActive src = true ∨ s.get FCL_FIRST_CLASS = 3 ∧ (r ≠ .rootstock ∨ s.inSafe = true) →
      exec (.fclClr r) s = .next (s.put FCL_STATUS_CLRREF 1)) ∧
    (s.on FCL_FIRST_LATCHED = false ∨ s.srcActive src = false ∧ (s.get FCL_FIRST_CLASS ≠ 3 ∨ r = .rootstock ∧ s.inSafe = false) →
      exec (.fclClr r) s = .next ((((((s.put FCL_FIRST_LATCHED 0).put FCL_FIRST_OVF 0).put FCL_FIRST_PROMOTED 0).put FCL_FIRST_CLASS 0).put
        FCL_FIRST_SOURCE 0).put FCL_FIRST_CNT 0))) ∧
  (∀ (s : State) (w : Fin 10) (m : BitVec 32), s.reaches .host 0x40080 = true →
    exec (.fclPromoClear w m) s = .next (s.put (FCL_PROMO w.val) (maskOf 32 fun b => bitAt (s.get (FCL_PROMO w.val)) b && !bitAt m.toNat b))) ∧
  (∀ (s : State) (d : BitVec 32), s.reaches .host 0x40030 = true →
    (39 < bits d.toNat 26 6 → exec (.fclSwevt d) s = .next (s.put FCL_STATUS_SWREF 1)) ∧
    (bits d.toNat 26 6 ≤ 39 → exec (.fclSwevt d) s = .next (s.raise (280 + bits d.toNat 26 6) (d.toNat % 2 ^ 16) 0))) ∧
  (∀ (s : State) (src arg value : Nat), s.raise src arg value = { s with
    raised := s.raised ++ [⟨src, arg % 2 ^ 16, value % 2 ^ 16, s.time.rc, s.stamp, s.time.wall, s.on WTM_STATUS_COARSE⟩]
    fcl := { s.fcl with last := Assoc.insert s.fcl.last src s.time.rc } }) ∧
  (∀ (s : State) (r : Req), s.reaches r 0x40000 = true → (r ≠ .rootstock ∨ s.saving = true → exec (.warmrst r) s = .next s) ∧
    (r = .rootstock → s.saving = false → exec (.warmrst r) s = .next (s.beginReset 3 2)))

/-- EVR_RSCW_SRC, EVR_RIDX_WRITE, EVR_SIDX_WRITE, EVR_SET_DISCARD, POWER_LOSS_TRIGGER and POWER_LOSS_WRITE_DONE, in every state, the writes
where they reach their register. Only Rootstock writes an entry of its own or discards a saved set (R742, R748). A read of an entry gives
its words; one that the ring no longer holds is marked GONE, one not yet written NONE, and both read zeros (R745); an entry of a saved set
reads likewise (R748). PFAIL_N, or a rail monitor other than that of VDD_AO, is the power-loss trigger, any other number none (R43, R489):
unless a write runs it trips every channel, abandons a read-out, writes the PWR_LOSS entry and starts the saving write of what stands up to
it (R44, R46, R747). At its end the write stands with NEWER in the set that was invalid or older, the other set's NEWER is clear, and the
device is in the safe state, with cause 4 where it was not before, or in the reset that TEST_EN holds (R30, R47, R747); with no write
running its end is nothing. -/
def Obligations.Almanac : Prop :=
  (∀ (s : State) (r : Req) (d : BitVec 32), s.reaches r 0x50014 = true → (r ≠ .rootstock → exec (.evrRscwSrc r d) s = .next s) ∧
    (r = .rootstock → Completes (exec (.evrRscwSrc r d) s) fun t => t.get EVR_WPTR = (s.get EVR_WPTR + 1) % 2 ^ EVR_WPTR.width ∧
      t.get EVR_RSCW_SRC_SOURCE = d.toNat % 2 ^ 9 ∧ t.get EVR_RSCW_SRC_CLASS = bits d.toNat 9 2 ∧
      Assoc.get [] t.evr.ring (s.get EVR_WPTR % 16384) = evrWords (d.toNat % 2 ^ 9) (bits d.toNat 9 2) false false (s.on WTM_STATUS_COARSE) 0
        (s.get EVR_RSCW_ARG_ARG) (s.get EVR_RSCW_ARG_VALUE) s.time.wall (s.get EVR_WPTR) s.stamp ∧
      s.regsBut t [EVR_WPTR, EVR_RSCW_SRC_SOURCE, EVR_RSCW_SRC_CLASS] ∧ t.mem = s.mem ∧ t.raised = s.raised)) ∧
  (∀ (s : State) (r : Req) (i : BitVec 32) (w : Nat), s.reaches r 0x50008 = true → w = s.get EVR_WPTR →
    Completes (exec (.evrRidxWrite r i) s) fun t => t.get (EVR_RIDX.per r) = i.toNat ∧
      (i.toNat + 16384 < w → t.get (EVR_RSTAT_GONE.per r) = 1 ∧ t.get (EVR_RSTAT_NONE.per r) = 0 ∧ ∀ k < 8, t.get ((EVR_RDATA k).per r) = 0) ∧
      (w ≤ i.toNat → t.get (EVR_RSTAT_GONE.per r) = 0 ∧ t.get (EVR_RSTAT_NONE.per r) = 1 ∧ ∀ k < 8, t.get ((EVR_RDATA k).per r) = 0) ∧
      (i.toNat < w → w ≤ i.toNat + 16384 → t.get (EVR_RSTAT_GONE.per r) = 0 ∧ t.get (EVR_RSTAT_NONE.per r) = 0 ∧
        ∀ k < 8, t.get ((EVR_RDATA k).per r) = (Assoc.get [] s.evr.ring (i.toNat % 16384)).getD k 0 % 2 ^ 32) ∧ t.evr = s.evr ∧ t.mem = s.mem) ∧
  (∀ (s : State) (r : Req) (n : Fin 2) (e : Fin 4096), s.reaches r 0x50040 = true →
    Completes (exec (.evrSidxWrite r n e) s) fun t => t.get (EVR_SIDX_SET.per r) = n.val ∧ t.get (EVR_SIDX_ENTRY.per r) = e.val ∧
      (∀ k < 8, t.get ((EVR_SDATA k).per r) = ((s.savedSet n.val).entries.getD e.val []).getD k 0 % 2 ^ 32) ∧ t.evr = s.evr ∧ t.mem = s.mem) ∧
  (∀ (s : State) (r : Req) (n : Fin 2), s.reaches r 0x50080 = true → (r ≠ .rootstock → exec (.evrSetDiscard r n) s = .next s) ∧
    (r = .rootstock → exec (.evrSetDiscard r n) s = .next (s.putSet n.val { s.savedSet n.val with valid := false }))) ∧
  (∀ (s : State) (r : Fin 320), (r.val ≠ 0 ∧ (r.val < 288 ∨ 312 ≤ r.val ∨ r.val = 294) ∨ s.saving = true → exec (.powerLossTrigger r) s = .next s) ∧
    (r.val = 0 ∨ 288 ≤ r.val ∧ r.val < 312 ∧ r.val ≠ 294 → s.saving = false → Completes (exec (.powerLossTrigger r) s) fun t =>
      t.saving = true ∧ t.grd.powerLoss = true ∧ t.frz.afterLoss = true ∧ t.safeLow = true ∧ (∀ c < 256, t.tripped c = true ∧ (t.chan c).drv = 0) ∧
      t.get EVR_WPTR = (s.get EVR_WPTR + 1) % 2 ^ EVR_WPTR.width ∧ t.evr.lossAt = some (t.get EVR_WPTR) ∧ t.on FRZ_STATUS_READING = false ∧
      (r.val ≠ 0 → t.pins.railLeft = true) ∧ t.get (FCL_SRC_CNT srcPwrLoss) = min (s.get (FCL_SRC_CNT srcPwrLoss) + 1) (2 ^ (FCL_SRC_CNT srcPwrLoss).width - 1))) ∧
  (∀ s : State, (s.evr.lossAt = none → exec .powerLossWriteDone s = .next s) ∧
    ∀ w n, s.evr.lossAt = some w → n = (if s.evr.set0.valid = false ∨ s.evr.set0.newer = false then 0 else 1) →
      ∃ u : State, exec .powerLossWriteDone s = .next (if s.pins.testEn = true then u.beginReset 3 0 else u) ∧ u.saving = false ∧ u.inSafe = true ∧
        (s.inSafe = false → u.get FCL_STATUS_SCAUSE = 4) ∧ u.evr.lossAt = none ∧ u.savedSet n = ⟨true, true, w - 4096, w, s.lossEntries w⟩ ∧
        (u.savedSet (1 - n)).newer = false ∧ (u.savedSet (1 - n)).entries = (s.savedSet (1 - n)).entries ∧ u.mem = s.mem) ∧
  (∀ (s : State) (w i : Nat), i < 4096 → (s.lossEntries w).length = 4096 ∧
    (w - 4096 + i < w → (s.lossEntries w).getD i [] = Assoc.get [] s.evr.ring ((w - 4096 + i) % 16384)) ∧
    (w ≤ w - 4096 + i → (s.lossEntries w).getD i [] = List.replicate 8 0))

/-- FROST_N_LOW, FRZ_HARD, FRZ_SOFT, JTAG_FRZ_HARD, FRZ_ARMAT, FRZ_DISARM, FRZ_READ, FROST_READ_DONE, JTAG_FRZ_READ and FRZ_MAPIDX_WRITE, in
every state, the writes where they reach their register. A hard request notes its trigger and the first one stands; in soft Frost it counts
only for a THAW of its rc (R749, R750, R760). A soft one names the next boundary, or with GRP in a synchronised group sets its user flag and
waits (R751); none is taken while hard-frozen, while the device sleeps or during a power-loss write (R46, R749, R781). ARMAT within 16 vc or
at a closed gate sets READREF, and another arms (R751). A READ is refused unfrozen, while a read-out runs, with a destination of 0 or not
aligned, with PATH or with no link, and otherwise sends the header (R755); the read-out completes, in no fewer than its 815,104 steps, with
its data and trailer (R755, R756), the data words and the checksum coming from outside the model or being free (log entry 4). The JTAG
instrument shifts out zeros while a read-out runs, the image of a frozen device, and free values otherwise (R757, log entry 127). A map
record is loaded (R758). -/
def Obligations.FrostRequests : Prop :=
  (∀ s : State, exec .frostNLow s = .next (s.hardFrost 1 0) ∧ exec .jtagFrzHard s = .next (s.hardFrost 7 0) ∧
    (s.reaches .host 0x60000 = true → exec .frzHard s = .next (s.hardFrost 2 0) ∧ exec .frzSoft s = .next (s.softFrost 3 0) ∧
      exec .frzDisarm s = .next (s.put FRZ_STATUS_ARMED 0))) ∧
  (∀ (s : State) (t src : Nat),
    (s.sleeping = true ∨ s.saving = true ∨ s.frz.hard ≠ none → s.hardFrost t src = s ∧ s.softFrost t src = s) ∧
    (s.frozen = true ∨ s.frz.soft ≠ none → s.softFrost t src = s) ∧
    (s.sleeping = false → s.saving = false → s.frz.hard = none →
      (s.get FRZ_STATUS_STATE = 2 → s.hardFrost t src = { s with frz := { s.frz with late := some (t, src, s.time.rc) } }) ∧
      (3 ≤ s.get FRZ_STATUS_STATE → s.hardFrost t src = s) ∧
      (s.frozen = false → s.hardFrost t src = { (s.put FRZ_STATUS_TRIG t).put FRZ_STATUS_TSRC src with
        frz := { s.frz with hard := some (t, src, s.clk.epoch, s.time.rc) } }) ∧
      (s.frozen = false → s.frz.soft = none → s.on FRZ_CFG_GRP = false ∨ s.insync = false → s.softFrost t src = { (s.put FRZ_STATUS_TRIG t).put FRZ_STATUS_TSRC src with
        frz := { s.frz with soft := some (t, src, some s.nextBoundary), softAt := s.time.rc } }) ∧
      (s.frozen = false → s.frz.soft = none → s.on FRZ_CFG_GRP = true → s.insync = true → ∀ u : State, u = (s.put FRZ_STATUS_TRIG t).put FRZ_STATUS_TSRC src →
        s.softFrost t src = { (u.put SEQ_UFLAG (setBitN (u.get SEQ_UFLAG) (u.get FRZ_CFG_FLAG))).put FRZ_STATUS_GROUPWAIT 1 with
          frz := { s.frz with soft := some (t, src, none), softAt := s.time.rc } }))) ∧
  (∀ s : State, s.reaches .host 0x60000 = true → (s.frozen = true ∨ s.saving = true → exec .frzArmat s = .next s) ∧
    (s.frozen = false → s.saving = false →
      (s.gateOpen = false ∨ s.get64 FRZ_AT_LO FRZ_AT_HI ≤ s.clk.gvc + 16 → exec .frzArmat s = .next (s.put FRZ_STATUS_READREF 1)) ∧
      (s.gateOpen = true → s.clk.gvc + 16 < s.get64 FRZ_AT_LO FRZ_AT_HI → exec .frzArmat s = .next (s.put FRZ_STATUS_ARMED 1)))) ∧
  (∀ (s : State) (dst : Nat), s.reaches .host 0x60000 = true → dst = s.get64 FRZ_DST_LO FRZ_DST_HI →
    (s.frozen = false ∨ s.on FRZ_STATUS_READING = true ∨ dst = 0 ∨ dst % 4096 ≠ 0 ∨ s.on FRZ_CFG_PATH = true ∨ s.dmaOn = false →
      exec .frzRead s = .next (s.put FRZ_STATUS_READREF 1)) ∧
    (s.frozen = true → s.on FRZ_STATUS_READING = false → dst ≠ 0 → dst % 4096 = 0 → s.on FRZ_CFG_PATH = false → s.dmaOn = true →
      exec .frzRead s = .next (({ s.put FRZ_STATUS_READING 1 with frz := { s.frz with readAt := s.time.rc } } : State).toHost
        (.write dst s.frzHeader)))) ∧
  (∀ s : State, (s.on FRZ_STATUS_READING = false ∨ s.dmaOn = false → exec .frostReadDone s = .next s) ∧
    (s.on FRZ_STATUS_READING = true → s.dmaOn = true → Completes (exec .frostReadDone s) fun t => t.get FRZ_STATUS_READING = 0 ∧ t.get FRZ_PROG = 815104 ∧
      t.get FRZ_NREAD = (s.get FRZ_NREAD + 1) % 2 ^ FRZ_NREAD.width ∧ s.frz.readAt + 326042 ≤ t.time.rc ∧ (∃ r ∈ t.raised, r.src = srcFrzDone ∧ r.arg = 0) ∧
      .scan (s.get64 FRZ_DST_LO FRZ_DST_HI + 64) 6520832 ∈ t.hostOut) ∧
    (s.on FRZ_STATUS_READING = true → s.abandonRead = (((s.put FRZ_PROG s.frzProg).put FRZ_STATUS_READING 0).put FRZ_STATUS_ABANDONED 1).raise srcFrzDone 1 0) ∧
    (s.on FRZ_STATUS_READING = false → s.abandonRead = s)) ∧
  (∀ (s t : State) (v : Nat), s.free = (v, t) → (s.on FRZ_STATUS_READING = true → exec .jtagFrzRead s = .next (s.toHost (.jtagZeros 6520928))) ∧
    (s.on FRZ_STATUS_READING = false → s.frozen = false → exec .jtagFrzRead s = .next (t.toHost (.jtag (bytesOf 64 v)))) ∧
    (s.on FRZ_STATUS_READING = false → s.frozen = true → exec .jtagFrzRead s = .next (((t.toHost (.jtag s.frzHeader)).toHost (.jtagScan 6520832)).toHost (.jtag (frzTrailer v))))) ∧
  (∀ (s : State) (i : BitVec 32), s.reaches .host 0x6003C = true →
    exec (.frzMapidxWrite i) s = .next ((((s.put FRZ_MAPIDX i.toNat).put FRZ_MAPDATA0 (Config.scanMap i.toNat).1).put FRZ_MAPDATA1_CHAIN
      (Config.scanMap i.toNat).2.1).put FRZ_MAPDATA1_BIT (Config.scanMap i.toNat).2.2))

/-- FROST_CLOCK_STOP, FROST_SOFT_BOUNDARY and FRZ_THAW, in every state, the THAW where the write reaches FRZ_CTRL. At the boundary of a soft
request, of ARMAT or of the group's condition the playlist ends with reason FROST and the drain begins; it ends, and the clocks stop, 63
cycles later, and with the gate closed 16 rc after the request (R751). They stop 12 rc after a hard request, or at the end of a drain, which
is the earlier (R749, R750); while frozen or in a power-loss write nothing stops (R46, R749). A stop notes the state, the GVC and the epoch,
closes the gate, takes HBM out of service and trips every channel, and its requests are done with (R750 to R752). Only a soft Frost thaws,
and not during a read-out or after a power loss: the state is RUN, HBM is in service as configured, a relock starts, and a hard request of
the same rc prevails (R759, R760; DRAIN does not thaw, log entry 128). -/
def Obligations.FrostStops : Prop :=
  (∀ s : State, (s.frozen = true ∨ s.saving = true → exec .frostClockStop s = .next s ∧ exec .frostSoftBoundary s = .next s) ∧
    (s.frozen = false → s.saving = false → s.get FRZ_STATUS_STATE = 1 → ∀ t src b, s.frz.soft = some (t, src, some b) →
      (s.endDrain b = none → exec .frostSoftBoundary s = .next s) ∧ ∀ u, s.endDrain b = some u → exec .frostSoftBoundary s = .next u) ∧
    (s.frozen = false → s.saving = false → s.get FRZ_STATUS_STATE ≠ 1 →
      (∀ t src b, s.frz.soft = some (t, src, some b) → s.gateOpen = true →
        (s.reach b = none → exec .frostSoftBoundary s = .next s) ∧ ∀ u, s.reach b = some u → exec .frostSoftBoundary s = .next (u.beginDrain b)) ∧
      (s.frz.soft ≠ none → s.gateOpen = false → exec .frostSoftBoundary s = .next (s.waitRc (s.frz.softAt + 16)).stopClocks) ∧
      ∀ g, g = (s.on FRZ_CFG_GRP && s.insync && s.groupCond (s.get FRZ_CFG_GC) s.nextBoundary) →
        (∀ t src, s.frz.soft = some (t, src, none) → s.gateOpen = true → (g = false ∨ s.reach s.nextBoundary = none → exec .frostSoftBoundary s = .next s) ∧
          ∀ u, g = true → s.reach s.nextBoundary = some u → exec .frostSoftBoundary s = .next (u.beginDrain s.nextBoundary)) ∧
        (s.frz.soft = none → s.on FRZ_STATUS_ARMED = true → s.gateOpen = true → s.clk.gvc ≤ s.get64 FRZ_AT_LO FRZ_AT_HI →
          ∀ v : State, v = (((s.put FRZ_STATUS_TRIG 5).put FRZ_STATUS_TSRC 0).put FRZ_STATUS_ARMED 0) →
            (v.reach (s.get64 FRZ_AT_LO FRZ_AT_HI) = none → exec .frostSoftBoundary s = .next s) ∧
            ∀ u, v.reach (s.get64 FRZ_AT_LO FRZ_AT_HI) = some u → exec .frostSoftBoundary s = .next (u.beginDrain (s.get64 FRZ_AT_LO FRZ_AT_HI))) ∧
        (s.frz.soft = none → s.on FRZ_STATUS_ARMED = false → s.gateOpen = true → g = true →
          ∀ u, ((s.put FRZ_STATUS_TRIG 6).put FRZ_STATUS_TSRC 0).reach s.nextBoundary = some u → exec .frostSoftBoundary s = .next (u.beginDrain s.nextBoundary)) ∧
        (s.frz.soft = none → s.gateOpen = false ∨ s.on FRZ_STATUS_ARMED = false ∧ g = false → s.clk.gvc ≤ s.get64 FRZ_AT_LO FRZ_AT_HI →
          exec .frostSoftBoundary s = .next s))) ∧
  (∀ (s : State) (b : Nat), (s.gateOpen = true → (s.reach (b + 63) = none → s.endDrain b = none) ∧ ∀ u, s.reach (b + 63) = some u → s.endDrain b = some u.stopClocks) ∧
    (s.gateOpen = false → s.endDrain b = some (s.waitRc (s.frz.softAt + 16)).stopClocks) ∧ (s.frz.hard = none → s.stopClocks = s.freeze 2 s.clk.epoch) ∧
    (∀ t src e r, s.frz.hard = some (t, src, e, r) → s.stopClocks = s.freeze 3 e)) ∧
  (∀ s : State, s.frozen = false → s.saving = false →
    (s.frz.hard = none → s.get FRZ_STATUS_STATE ≠ 1 → exec .frostClockStop s = .next s) ∧
    (s.frz.hard = none → s.get FRZ_STATUS_STATE = 1 → exec .frostClockStop s = exec .frostSoftBoundary s) ∧
    ∀ t src e r, s.frz.hard = some (t, src, e, r) → s.get FRZ_STATUS_STATE ≠ 1 ∨ s.gateOpen = false →
      (s.hardStop r = none → exec .frostClockStop s = .next s) ∧ ∀ u, s.hardStop r = some u → exec .frostClockStop s = .next (((u.recordAll 9).endPlaylist 0xE).freeze 3 e)) ∧
  (∀ (s : State) (r : Nat), s.gateOpen = false → s.hardStop r = some (s.waitRc (r + 12)) ∧ r + 12 ≤ (s.waitRc (r + 12)).time.rc) ∧
  (∀ (s : State) (k e : Nat), k < 4 → ∀ t, t = s.freeze k e → t.get FRZ_STATUS_STATE = k ∧ t.gateOpen = false ∧
    t.get HBC_STATUS_INSERVICE = 0 ∧ t.get64 FRZ_GVC_LO FRZ_GVC_HI = s.clk.gvc % 2 ^ 64 ∧ t.get64 FRZ_EPOCH_LO FRZ_EPOCH_HI = e % 2 ^ 64 ∧
    (∀ c < 256, t.tripped c = true ∧ (t.chan c).drv = 0) ∧ t.frz.hard = none ∧ t.frz.soft = none ∧ t.frz.late = none ∧ t.get FRZ_STATUS_ARMED = 0 ∧
    t.get CLK_STATUS_LOCKED = 0 ∧ (∃ r ∈ t.raised, r.src = srcFrzEnter) ∧ t.mem = s.mem) ∧
  (∀ s : State, s.reaches .host 0x60000 = true →
    (s.get FRZ_STATUS_STATE ≠ 2 ∨ s.on FRZ_STATUS_READING = true ∨ s.frz.afterLoss = true → exec .frzThaw s = .next (s.put FRZ_STATUS_THAWREF 1)) ∧
    (s.get FRZ_STATUS_STATE = 2 → s.on FRZ_STATUS_READING = false → s.frz.afterLoss = false →
      ∀ u v : State, u = (s.put FRZ_STATUS_STATE 0).put HBC_STATUS_INSERVICE (s.get HBC_CTRL_INSERVICE) → v = (u.startCycles.startRelock u.cfgSetting).raise srcFrzThaw 0 0 →
      (s.frz.late = none → exec .frzThaw s = .next v) ∧
      ∀ t src r, s.frz.late = some (t, src, r) → (r = s.time.rc → exec .frzThaw s = .next (v.hardFrost t src)) ∧ (r ≠ s.time.rc → exec .frzThaw s = .next v)))

/-- PMG_DORMANT, PMG_WAKE, PMG_BUDDING, PMG_BLOOM, SINK_DONE, WAKE_DONE, BLOOMING_DONE and BLOOM_IDLE_TIMEOUT, in every state, the requests
where the write reaches PMG_CTRL. A state request is refused with the first condition that fails, and only the host and the active pair make
one (R773). A sink leaves the group, closes the gate and puts the active ports into FALLOW (R774), and ends in DORMANT with its domains, the
coarse wall time and every driver off (R768, R774, R776), or in a wake that waits (R781). A wake starts in DORMANT outside the safe state,
waits in SINKING (R775, R781), and ends in Budding with the domains on, the gate open unless HOLD holds it, and the ports out of FALLOW
(R775), but not without REFCLK (R781). Bloom follows Blooming, after TSETTLED where WAITSETTLE asks for it (R779), and returns to Budding on
a request or after IDLE_MS with nothing to do (R780). A power loss abandons every transition (R781). -/
def Obligations.PowerStates : Prop :=
  (∀ (s : State) (r : Req), s.reaches r 0x30000 = true → r ≠ .host → r ≠ .rootstock →
    exec (.pmgDormant r) s = .next s ∧ exec (.pmgWake r) s = .next s ∧ exec (.pmgBudding r) s = .next s ∧ exec (.pmgBloom r) s = .next s) ∧
  (∀ (s : State) (r : Req), s.reaches r 0x30000 = true → r = .host ∨ r = .rootstock →
    (s.pmgCode 0 ≠ 0 → exec (.pmgDormant r) s = .next ((s.put PMG_STATUS_REFUSED 1).put PMG_STATUS_REF (s.pmgCode 0))) ∧
    (s.pmgCode 1 ≠ 0 → exec (.pmgWake r) s = .next ((s.put PMG_STATUS_REFUSED 1).put PMG_STATUS_REF (s.pmgCode 1))) ∧
    (s.pmgCode 2 ≠ 0 → exec (.pmgBudding r) s = .next ((s.put PMG_STATUS_REFUSED 1).put PMG_STATUS_REF (s.pmgCode 2))) ∧
    (s.pmgCode 3 ≠ 0 → exec (.pmgBloom r) s = .next ((s.put PMG_STATUS_REFUSED 1).put PMG_STATUS_REF (s.pmgCode 3))) ∧
    (s.pmgCode 0 = 0 → exec (.pmgDormant r) s = .next s.sink) ∧ (s.pmgCode 1 = 0 → exec (.pmgWake r) s = .next s.startWake) ∧
    (s.pmgCode 2 = 0 → exec (.pmgBudding r) s = .next ((s.put PMG_STATUS_STATE 2).raise srcPmgState 2 0)) ∧
    (s.pmgCode 3 = 0 → exec (.pmgBloom r) s = .next ((s.put PMG_STATUS_STATE 5).raise srcPmgState 5 0))) ∧
  (∀ s : State,
    (s.get PMG_STATUS_STATE ≠ 2 → s.pmgCode 0 = 1 ∧ s.pmgCode 3 = 1) ∧
    (s.get PMG_STATUS_STATE ≠ 1 → s.get PMG_STATUS_STATE ≠ 6 → s.pmgCode 1 = 1) ∧
    (s.get PMG_STATUS_STATE ≠ 3 → s.pmgCode 2 = 1) ∧
    (s.inSafe = true ∨ s.frozen = true → (s.get PMG_STATUS_STATE = 2 → s.pmgCode 0 = 2 ∧ s.pmgCode 3 = 2) ∧
      (s.get PMG_STATUS_STATE = 1 ∨ s.get PMG_STATUS_STATE = 6 → s.pmgCode 1 = 2) ∧ (s.get PMG_STATUS_STATE = 3 → s.pmgCode 2 = 2)) ∧
    (s.inSafe = false → s.frozen = false →
      (s.get PMG_STATUS_STATE = 1 ∨ s.get PMG_STATUS_STATE = 6 → s.pmgCode 1 = 0) ∧
      (s.get PMG_STATUS_STATE = 3 → s.pmgCode 2 = if s.playlistAbout then 3 else 0) ∧
      (s.get PMG_STATUS_STATE = 2 → s.pmgCode 3 = 0 ∧ s.pmgCode 0 =
        if s.playlistAbout then 3 else if s.loopsUp then 4
        else if (List.range 8).any (fun n => s.on (SEG_STR_STATUS_OPEN n)) then 5
        else if s.cal.queue = [] ∧ s.cal.running = [] then 0 else 6)) ∧
    (s.playlistAbout = true ↔ s.seq.running ≠ none ∨ s.seq.queued ≠ none) ∧
    (s.loopsUp = true ↔ (∃ p < 4, s.on (CLE_LB_CTRL_EN p) = true) ∨ ∃ n < 64, s.get (CLE_CFG_SINK n) = 1 ∧ s.get (CLE_LSTATUS_MODE n) ≠ 0)) ∧
  (∀ s t : State, t = s.sink → t.get PMG_STATUS_STATE = 6 ∧ t.gateOpen = false ∧ t.get CLK_STATUS_LOCKED = 0 ∧
    t.get CMT_HOPS = 0 ∧ t.get CLK_DEPTH_D = 0 ∧ t.get CMT_STATUS_ROOT = 1 ∧ t.get CLK_GRP_STATUS_STARTED = 0 ∧
    t.get CLK_DEVID = s.get CLK_DEVID ∧ t.get HBC_STATUS_INSERVICE = 0 ∧ (∀ p < 4, t.get (LNK_AZ_STATUS_DET p) = 0) ∧
    (∀ p < 4, s.portState p = 4 → t.portState p = 5) ∧ (∀ p < 4, s.portState p ≠ 4 → t.portState p = s.portState p) ∧
    t.que.tasks = s.que.tasks ∧ t.mem = s.mem ∧ (s.get PMG_STATUS_STATE ≠ 6 → ∃ r ∈ t.raised, r.src = srcPmgState ∧ r.arg = 6)) ∧
  (∀ s : State, (s.get PMG_STATUS_STATE = 6 → s.startWake = { s with pmg := { s.pmg with wakePending := true } }) ∧
    (s.get PMG_STATUS_STATE ≠ 6 → s.get PMG_STATUS_STATE ≠ 1 ∨ s.inSafe = true → s.startWake = s) ∧
    (s.get PMG_STATUS_STATE = 1 → s.inSafe = false → s.startWake =
      { (s.put PMG_STATUS_STATE 4).raise srcPmgState 4 0 with pmg := { s.pmg with wakeFrom := s.time.rc, wakePending := false } })) ∧
  (∀ s : State, (s.get PMG_STATUS_STATE ≠ 6 ∨ s.grd.powerLoss = true → exec .sinkDone s = .next s) ∧
    (s.get PMG_STATUS_STATE = 6 → s.grd.powerLoss = false → ∃ u : State,
      exec .sinkDone s = .next (if s.pmg.wakePending = true then u.startWake else u) ∧ u.get PMG_STATUS_STATE = 1 ∧ u.get WTM_STATUS_COARSE = 1 ∧
      (∀ d < 64, u.domOn d = (decide (d = 0) || (decide (d = 21) && decide (s.get LNK_PCIE_STATUS_LPWR ≠ 2)))) ∧ (∀ c < 256, (u.chan c).drv = 0) ∧
      (∃ r ∈ u.raised, r.src = srcPmgState ∧ r.arg = 1) ∧ s.regsBut u [PMG_STATUS_STATE, WTM_STATUS_COARSE, PMG_DOM_ON0, PMG_DOM_ON1] ∧ u.mem = s.mem ∧ u.que = s.que)) ∧
  (∀ s : State, (s.get PMG_STATUS_STATE ≠ 4 ∨ s.on CLK_STATUS_REFLOST = true ∨ s.grd.powerLoss = true → exec .wakeDone s = .next s) ∧
    (s.get PMG_STATUS_STATE = 4 → s.on CLK_STATUS_REFLOST = false → s.grd.powerLoss = false →
      Completes (exec .wakeDone s) fun t => t.get PMG_STATUS_STATE = 2 ∧ t.get WTM_STATUS_COARSE = 0 ∧ t.get CLK_STATUS_LOCKED = 1 ∧
        (s.on CLK_CTRL_HOLD = false → t.gateOpen = true) ∧ t.get HBC_STATUS_INSERVICE = s.get HBC_CTRL_INSERVICE % 2 ∧
        t.get PMG_WAKE_US = (s.time.rc - s.pmg.wakeFrom) / 100 % 2 ^ PMG_WAKE_US.width ∧ (∀ p < 4, s.portState p = 5 → t.portState p = 4) ∧
        (∀ d < 52, t.domOn d = !bitAt (s.get (domOffWord d)) (d % 32)) ∧ (∀ c < 256, (t.readback c).running = true ∧ (t.readback c).step = 0) ∧
        (∃ r ∈ t.raised, r.src = srcPmgState ∧ r.arg = 2) ∧ t.mem = s.mem)) ∧
  (∀ s : State, (s.get PMG_STATUS_STATE ≠ 5 ∨ s.grd.powerLoss = true ∨ s.on PMG_CFG_WAITSETTLE = true ∧ s.on CLE_STATUS_TSETTLED = false →
      exec .bloomingDone s = .next s) ∧
    (s.get PMG_STATUS_STATE = 5 → s.grd.powerLoss = false → s.on PMG_CFG_WAITSETTLE = false ∨ s.on CLE_STATUS_TSETTLED = true →
      exec .bloomingDone s = .next ((s.put PMG_STATUS_STATE 3).raise srcPmgState 3 0))) ∧
  (∀ s : State, (s.get PMG_CFG_IDLE_MS = 0 ∨ s.bloomIdle = false ∨ s.pmg.idleRc < 100000 * s.get PMG_CFG_IDLE_MS → exec .bloomIdleTimeout s = .next s) ∧
    (s.get PMG_CFG_IDLE_MS ≠ 0 → s.bloomIdle = true → 100000 * s.get PMG_CFG_IDLE_MS ≤ s.pmg.idleRc →
      exec .bloomIdleTimeout s = .next ((s.put PMG_STATUS_STATE 2).raise srcPmgState 2 0)) ∧
    (s.bloomIdle = true ↔ s.get PMG_STATUS_STATE = 3 ∧ s.seq.running = none ∧ s.seq.queued = none ∧ ∀ e ∈ s.cal.queue ++ s.cal.running, e.kind = 7))

/-- PMG_DOM_OFF_WRITE, POWER_SLOT, TEMP_SAMPLE and THERM_TRIP, in every state, the write where it reaches PMG_DOM_OFF. Each bit of a write
of the active pair switches a domain off where it is switchable and R769's condition holds, is refused with REF DOMAIN otherwise, or
switches it on (R769); the request alone is kept while the device sleeps. A slot that is over gives the measured power, the bucket and the
next slot (R784), and PWR_OVERCLASS with VALUE 1 where a playlist's slot exceeds its declared power by more than 3 %, once in 1,000 ms, and
with VALUE 2 where a playlist of PCLASS 7 finds the bucket empty, once (R786). A reading is shown; the warning, the stop and the trip rise
and end at R788's temperatures, each once, the stop and the trip end the playlist, and the trip trips every channel (R503, R787, R788). A
reading with a sensor fault is shown and not judged (log entry 72). -/
def Obligations.PowerLimits : Prop :=
  (∀ (s : State) (r : Req) (w : Fin 2) (d : BitVec 32), s.reaches r 0x30038 = true → (r ≠ .rootstock → exec (.pmgDomOffWrite r w d) s = .next s) ∧
    (r = .rootstock → exec (.pmgDomOffWrite r w d) s = .next ((List.range 32).foldl (fun t b => t.domBit (32 * w.val + b) (bitAt d.toNat b)) s))) ∧
  (∀ (s : State) (d : Nat), d < 64 →
    (bitAt (s.get (domOffWord d)) (d % 32) = false → s.domBit d false = s ∧
      (switchable d = false ∨ s.offOk d = false → s.domBit d true = (s.put PMG_STATUS_DOMREF 1).put PMG_STATUS_REF 7) ∧
      (switchable d = true → s.offOk d = true → bitAt ((s.domBit d true).get (domOffWord d)) (d % 32) = true ∧
        (s.sleeping = false → (s.domBit d true).domOn d = false ∧ s.regsBut (s.domBit d true) [domOffWord d, domOnWord d]) ∧
        (s.sleeping = true → s.regsBut (s.domBit d true) [domOffWord d]))) ∧
    (bitAt (s.get (domOffWord d)) (d % 32) = true → s.domBit d true = s ∧ bitAt ((s.domBit d false).get (domOffWord d)) (d % 32) = false ∧
      (s.sleeping = false → (s.domBit d false).domOn d = true ∧ s.regsBut (s.domBit d false) [domOffWord d, domOnWord d]) ∧
      (s.sleeping = true → s.regsBut (s.domBit d false) [domOffWord d]))) ∧
  (∀ (s : State) (k : Nat),
    (k < 4 → (s.offOk (3 + k) = true ↔ ∀ i < 4, s.scnState (4 * k + i) = 0 ∨ s.scnState (4 * k + i) = 6)) ∧
    (k < 2 → (s.offOk (12 + k) = true ↔ (∀ i < 8, s.get (TIU_STATUS_OWNER (8 * k + i)) = 0) ∧
      ∀ e ∈ s.cal.queue ++ s.cal.running, e.kind = 7 → e.target / 8 ≠ k)) ∧
    (s.offOk 14 = true ↔ ∀ n < 32, s.on (DFC_STATUS_RUN n) = false) ∧
    (k < 4 → (s.offOk (22 + k) = true ↔ s.portState k = 0)) ∧
    (k < 8 → (s.offOk (30 + 3 * k) = true ↔ ∀ i < 4, s.get (PMU_STATUS_OWNER (4 * k + i)) = 0)) ∧ s.offOk 61 = true) ∧
  (∀ (s : State) (m : BitVec 20), (s.nowMs ≤ s.pmg.slot → exec (.powerSlot m) s = .next s) ∧
    (s.pmg.slot < s.nowMs → s.seq.running = none → exec (.powerSlot m) s = .next (s.endSlot m.toNat)) ∧
    (s.pmg.slot < s.nowMs → ∀ p, s.seq.running = some p → ∀ ovd spent : Bool,
      ovd = (decide (s.pmg.declMax * 103 < m.toNat * 100) && !s.pmg.overAt.any fun t => decide (s.pmg.slot < t + 1000)) →
      spent = (decide (p.pclass = 7) && decide ((s.endSlot m.toNat).get PMG_BUCKET = 0) && !s.pmg.drained) →
      Completes (exec (.powerSlot m) s) fun t =>
        t.raised.map (fun r => (r.src, r.arg, r.value)) = s.raised.map (fun r => (r.src, r.arg, r.value)) ++
          (if ovd = true then [(srcPwrOverclass, p.number % 2 ^ 16, 1)] else []) ++ (if spent = true then [(srcPwrOverclass, p.number % 2 ^ 16, 2)] else []) ∧
        t.get PMG_NOVER = (if ovd = false ∧ spent = false then s.get PMG_NOVER else (s.get PMG_NOVER + b2n ovd + b2n spent) % 2 ^ PMG_NOVER.width) ∧ t.pmg.drained = (s.pmg.drained || spent) ∧
        t.pmg.overAt = (if ovd = true then some s.pmg.slot else s.pmg.overAt) ∧ t.get PMG_PMEAS = m.toNat ∧ t.get PMG_BUCKET = (s.endSlot m.toNat).get PMG_BUCKET ∧
        t.pmg.excess = (s.endSlot m.toNat).pmg.excess ∧ t.pmg.slot = s.pmg.slot + 1 ∧ s.regsBut t [PMG_NOVER, PMG_PMEAS, PMG_BUCKET] ∧ t.seq = s.seq ∧ t.mem = s.mem)) ∧
  (∀ (s : State) (m : Nat), m < 2 ^ 20 → ∀ t, t = s.endSlot m →
    t.pmg.excess = ((max s.pmg.declMax m - 520000) :: s.pmg.excess).take 999 ∧ t.pmg.declMax = s.get PMG_PDECL ∧ t.pmg.slot = s.pmg.slot + 1 ∧
    t.get PMG_PMEAS = m ∧ t.get PMG_BUCKET = (4500000 - ((s.get PMG_PDECL - 520000) + t.pmg.excess.sum)) / 1000 % 2 ^ PMG_BUCKET.width ∧
    s.regsBut t [PMG_PMEAS, PMG_BUCKET] ∧ t.raised = s.raised ∧ t.seq = s.seq ∧ t.mem = s.mem) ∧
  (∀ (s : State) (d : Fin 9) (f : Bool) (v : BitVec 16), ∃ u : State, u = ((s.put (PMG_TEMP_FAULT d.val) (b2n f)).put (PMG_TEMP_T d.val) v.toNat).setTmax ∧
    (f = true → exec (.tempSample d f v) s = .next u) ∧
    (f = false → v.toInt < 13440 → exec (.tempSample d f v) s = .next u.thermEnds) ∧
    (f = false → 13440 ≤ v.toInt → v.toInt < 14336 → exec (.tempSample d f v) s = .next (u.thermWarn d.val).thermEnds) ∧
    (f = false → 14336 ≤ v.toInt → exec (.tempSample d f v) s = .next ((u.thermWarn d.val).thermStop d.val).thermEnds)) ∧
  (∀ (s : State) (d : Nat), d < 9 →
    (∀ t, t = s.setTmax → t.get PMG_TMAX_TEMP = t.get (PMG_TEMP_T (t.get PMG_TMAX_DIE)) ∧ (∀ e < 9, t.dieTemp e ≤ t.dieTemp (t.get PMG_TMAX_DIE)) ∧
      s.regsBut t [PMG_TMAX_DIE, PMG_TMAX_TEMP]) ∧
    (s.on PMG_STATUS_WARN = true → s.thermWarn d = s) ∧ (s.on PMG_STATUS_WARN = false → s.thermWarn d = (s.put PMG_STATUS_WARN 1).raise srcThermWarn d 0) ∧
    (s.on PMG_STATUS_STOPHOLD = true → s.thermStop d = s) ∧
    (s.on PMG_STATUS_STOPHOLD = false → ∀ t, t = s.thermStop d → t.on PMG_STATUS_STOPHOLD = true ∧ t.get PMG_NTSTOP = (s.get PMG_NTSTOP + 1) % 2 ^ PMG_NTSTOP.width ∧
      (∃ r ∈ t.raised, r.src = srcThermalStop ∧ r.arg = d) ∧ t.seq.running = none ∧ (s.seq.running ≠ none → t.get SEQ_STOP_REASON = 0xC ∧
        (s.seq.queued ≠ none → t.seq.queued = none)) ∧ (s.seq.running = none → t.seq = s.seq) ∧ t.mem = s.mem)) ∧
  (∀ s t : State, t = s.thermEnds → (∀ v, s.allBelow v = true ↔ ∀ e < 9, s.dieTemp e < v) ∧
    t.get PMG_STATUS_WARN = (if s.allBelow 13056 = true then 0 else s.get PMG_STATUS_WARN) ∧
    t.get PMG_STATUS_STOPHOLD = (if s.allBelow 12800 = true then 0 else s.get PMG_STATUS_STOPHOLD) ∧
    t.get PMG_STATUS_TRIPHOLD = (if s.allBelow 13440 = true then 0 else s.get PMG_STATUS_TRIPHOLD) ∧
    t.get GRD_STATUS_THERM = (if s.allBelow 13440 = true then 0 else s.get GRD_STATUS_THERM) ∧
    s.regsBut t [PMG_STATUS_WARN, PMG_STATUS_STOPHOLD, PMG_STATUS_TRIPHOLD, GRD_STATUS_THERM] ∧ t.raised = s.raised ∧ t.seq = s.seq ∧ t.grd = s.grd ∧ t.mem = s.mem) ∧
  (∀ (s : State) (d : Fin 9), (s.on PMG_STATUS_TRIPHOLD = true → exec (.thermTrip d) s = .next s) ∧
    (s.on PMG_STATUS_TRIPHOLD = false → exec (.thermTrip d) s = .next ((((((s.put PMG_STATUS_TRIPHOLD 1).put GRD_STATUS_THERM 1).raise srcThermTrip d.val 0).trip
        1002 allChannels).thermWarn d.val).thermStop d.val) ∧
      Completes (exec (.thermTrip d) s) fun t => t.on PMG_STATUS_TRIPHOLD = true ∧ t.on GRD_STATUS_THERM = true ∧ t.on PMG_STATUS_WARN = true ∧
        t.on PMG_STATUS_STOPHOLD = true ∧ ∀ c < 256, t.tripped c = true ∧ (t.chan c).drv = 0 ∧ 1002 ∈ Assoc.get [] t.grd.holders c))

/-- POWER_ON_RESET, COLD_RESET, WARM_RESET, RESET_END, FUNCTION_LEVEL_RESET, PERST_N_ASSERT, PERST_N_RELEASE and TEST_EN_HIGH, in every
state. A reset in force yields to none that it prevails over, and a power-loss write shuts out all but a power-on reset (R46, R47, R794,
R799); RESET_N after a rail has left its range is a cold one (R794, log entry 131). A reset gives every register its reset value but what
R796 keeps, shows its cause (R795 to R797, R806), and its end counts, raises RESET and boots (R797, R805), into the recorded slot, the other
one, or recovery mode (R600, R601). A function-level reset is discarded in another reset; it refuses the queued playlist, stops the one that
runs, closes the streams, aborts the host's access, has its effects on capture, the units, the chains, ownership, the rings and levels, and
leaves the group, the commit protocol and HBM (R800). PERST_N takes the link down and its release acts as a function-level reset (R705,
R801). TEST_EN high holds the device in reset (R30; the kind and source it shows are the model's choice, log entry 69). -/
def Obligations.Resets : Prop :=
  (∀ s : State,
    (s.pins.inReset = 1 → exec .powerOnReset s = .next s) ∧ (s.pins.inReset ≠ 1 → exec .powerOnReset s = .next (s.resetState 1 0)) ∧
    (s.saving = true ∨ s.pins.inReset = 1 ∨ s.pins.inReset = 2 → exec .coldReset s = .next s) ∧
    (s.saving = false → s.pins.inReset ≠ 1 → s.pins.inReset ≠ 2 → exec .coldReset s = .next (s.resetState 2 0)) ∧
    (s.saving = true → exec .warmReset s = .next s) ∧
    (s.saving = false → s.pins.railLeft = true → exec .warmReset s = exec .coldReset s) ∧
    (s.saving = false → s.pins.railLeft = false → (1 ≤ s.pins.inReset ∧ s.pins.inReset ≤ 3 → exec .warmReset s = .next s) ∧
      (s.pins.inReset = 0 ∨ 4 ≤ s.pins.inReset → exec .warmReset s = .next (s.resetState 3 1)))) ∧
  (∀ (s t : State) (k src : Nat), k < 4 → src < 16 → t = s.resetState k src → t.pins.inReset = k ∧ t.pins.testEn = s.pins.testEn ∧ t.pins.railLeft = false ∧ t.pending = s.pending ∧
    t.mem = [] ∧ t.clk = State.reset.clk ∧ t.cmt = State.reset.cmt ∧ t.seq = State.reset.seq ∧ t.seg = State.reset.seg ∧ t.apg = State.reset.apg ∧
    t.land = State.reset.land ∧ t.cap = State.reset.cap ∧ t.que = State.reset.que ∧ t.hbc = State.reset.hbc ∧ t.tiu = State.reset.tiu ∧ t.grd = State.reset.grd ∧
    t.cle = State.reset.cle ∧ t.pmu = State.reset.pmu ∧ t.lnk = State.reset.lnk ∧ t.frz = State.reset.frz ∧ t.cores = State.reset.cores ∧ t.shadow = State.reset.shadow ∧ t.active = State.reset.active ∧
    t.cal.queue = [] ∧ t.cal.running = [] ∧ t.cal.nv = s.cal.nv ∧ t.rsc.slots = (match s.rsc.cmd with | some (1, args) => Assoc.erase s.rsc.slots (args.getD 2 0) | _ => s.rsc.slots) ∧
    t.rsc.keys = s.rsc.keys ∧ t.rsc.bootSlot = s.rsc.bootSlot ∧ t.evr.set0 = s.evr.set0 ∧ t.evr.set1 = s.evr.set1 ∧ t.evr.ring = (if k = 1 then [] else s.evr.ring) ∧
    (k ≠ 1 → t.time.wall = s.time.wall ∧ t.time.inc = s.time.inc) ∧ (k = 1 → t.time = State.reset.time) ∧ t.freeCtr = s.freeCtr ∧
    t.get GLB_RST_CAUSE_KIND = k ∧ t.get GLB_RST_CAUSE_SRC = src ∧
    (s.pins.inReset = 0 → t.on GLB_RST_CAUSE_SAFE = s.inSafe ∧ t.on GLB_RST_CAUSE_FROZEN = s.frozen ∧ t.get GLB_RST_CAUSE_SCAUSE = s.get FCL_STATUS_SCAUSE % 16 ∧
      t.on GLB_RST_CAUSE_PWRLOSS = (s.frz.afterLoss && !s.saving))) ∧
  (∀ (s : State) (k src : Nat) (f : Field), f.lo < 32 → f.off ≠ 0x20 → (∀ e ∈ s.cal.running, f.off ≠ (CAL_CH_STATUS_LASTRES e.target).off) → f.id ≠ HBC_RMAP_COPYING.id →
    (∀ n < 10, f.id ≠ (RSC_SLOT_INFO_VALID n).id) → (∀ e ∈ s.cal.nv, e.1 ≠ f.id) →
    (nvOffset f.off = false → k = 1 ∨ warmOffset f.off = false → (s.resetState k src).get f = f.rst) ∧
    (nvOffset f.off = true ∨ k ≠ 1 ∧ warmOffset f.off = true → (s.resetState k src).get f = s.get f)) ∧
  (∀ (s : State) (a b : Bool), (s.pins.inReset = 0 ∨ s.pins.testEn = true → exec (.resetEnd a b) s = .next s) ∧
    (s.pins.inReset ≠ 0 → s.pins.testEn = false → ∃ u : State, exec (.resetEnd a b) s = .next u.boot ∧ u.pins = { s.pins with inReset := 0 } ∧
      u.raised.map (fun r => (r.src, r.arg)) = s.raised.map (fun r => (r.src, r.arg)) ++ [(srcReset, s.pins.inReset % 2 ^ 16)] ++
        (if (s.evr.set0.valid && a) = true then [(srcEvrRestored, 0)] else []) ++ (if (s.evr.set1.valid && b) = true then [(srcEvrRestored, 1)] else []) ∧
      u.get GLB_RST_COUNT_COLD = (if s.pins.inReset = 2 then min (s.get GLB_RST_COUNT_COLD + 1) 65535 else s.get GLB_RST_COUNT_COLD) ∧
      u.get GLB_RST_COUNT_WARM = (if s.pins.inReset = 3 then min (s.get GLB_RST_COUNT_WARM + 1) 65535 else s.get GLB_RST_COUNT_WARM) ∧
      s.regsBut u [GLB_RST_COUNT_COLD, GLB_RST_COUNT_WARM, EVR_SET_INFO_CRCOK 0, EVR_SET_INFO_CRCOK 1] ∧ u.rsc = s.rsc ∧ u.mem = s.mem)) ∧
  (∀ s : State, ∀ ra rb : Nat, ra = s.verify (s.slotImg s.rsc.bootSlot) 1 → rb = s.verify (s.slotImg (otherSlot s.rsc.bootSlot)) 1 →
    (ra = 0 → s.boot.get RSC_BOOT_RESULT = 0 ∧ s.boot.rsc.runSlot = s.rsc.bootSlot) ∧
    (ra ≠ 0 → rb = 0 → s.boot.get RSC_BOOT_RESULT = 0 ∧ s.boot.rsc.runSlot = otherSlot s.rsc.bootSlot) ∧
    (ra ≠ 0 → rb ≠ 0 → s.boot.on RSC_STATUS_RECOVERY = true ∧ s.boot.inSafe = true ∧ (s.inSafe = false → s.boot.get FCL_STATUS_SCAUSE = 8)) ∧
    s.boot.get RSC_STATUS_ACTIVE = s.rsc.active % 2 ∧ s.boot.rsc.bootSlot = s.rsc.bootSlot ∧ s.boot.mem = s.mem) ∧
  (∀ (s : State) (c : Nat), c < 16 → (s.verify (s.slotImg (s.get (SCN_IMG_SLOT c))) 2 = 0 → (s.bootScion c).scnState c = 1 ∧
      (s.bootScion c).on (SCN_CTRL_RUN c) = true ∧ ((s.bootScion c).core c).mem = memOf (imgPayload (s.slotImg (s.get (SCN_IMG_SLOT c))))) ∧
    (s.verify (s.slotImg (s.get (SCN_IMG_SLOT c))) 2 ≠ 0 → (s.bootScion c).scnState c = s.scnState c ∧ bitAt ((s.bootScion c).get RSC_BOOT_FAILED) c = true)) ∧
  (∀ s : State, (s.pins.inReset ≠ 0 ∨ s.saving = true → exec .functionLevelReset s = .next s) ∧ (s.pins.inReset = 0 → s.saving = false → exec .functionLevelReset s = .next s.flr)) ∧
  (∀ s t : State, t = s.flr → t.get GLB_NFLR = (s.get GLB_NFLR + 1) % 2 ^ 32 ∧ t.seq.queued = none ∧ t.seq.running = none ∧
    (∀ n < 8, t.get (SEG_STR_STATUS_OPEN n) = 0) ∧ t.get (LNK_RRA_STAT_BUSY.per .host) = 0 ∧ (s.on (LNK_RRA_STAT_BUSY.per .host) = true → t.get (LNK_RRA_STAT_RESULT.per .host) = 5) ∧
    (∀ k < 16, t.get (SEQ_LOOP k) = 0) ∧ t.get SEQ_UFLAG = 0 ∧ t.get SEQ_STATUS_ARMED = 0 ∧ t.get CAP_STATUS_ARMED = 0 ∧ t.get CAP_STATUS_ST = 0 ∧
    t.get64 CAP_WPTR_LO CAP_WPTR_HI = 0 ∧ t.get64 CAP_FC_WPTR_LO CAP_FC_WPTR_HI = 0 ∧ t.get64 CAP_KILL_LO CAP_KILL_HI = 0 ∧
    (∀ n < 16, t.get (TIU_STATUS_ARMED n) = 0 ∧ t.get (TIU_STATUS_OWNER n) ≠ tiuHost ∧ ∀ k < 16, t.get64 (TIU_RES_LO n k) (TIU_RES_HI n k) = 0) ∧
    (∀ n < 32, t.get (PMU_STATUS_CONN n) = 0 ∧ t.get (PMU_STATUS_OWNER n) ≠ 1 ∧ t.get (PMU_STATUS_OWNER n) ≠ 4 ∧ t.get (DFC_STATUS_RUN n) = 0) ∧
    (∀ p < 4, t.get (CLE_LB_STATUS_OWNER p) ≠ 1 ∧ t.get (CLE_LB_STATUS_RUN p) = s.get (CLE_LB_STATUS_RUN p)) ∧
    (∀ n < 64, t.get (CLE_LSTATUS_OWNER n) ≠ 1 ∧ t.get (CLE_LSTATUS_MODE n) = s.get (CLE_LSTATUS_MODE n)) ∧
    (∀ r < 256, t.on (QUE_HR_STATUS_BOUND r) = false) ∧ (∀ n < 64, t.get (QUE_SITERQ_EN n) = 0) ∧ t.que.tasks = s.que.tasks ∧
    (∀ c < 256, (t.chan c).standing = ChanLand.reset.standing) ∧ (s.seq.running = none → t.clk.gvc = s.clk.gvc) ∧
    t.get CMT_STATUS_INSYNC = s.get CMT_STATUS_INSYNC ∧ t.get CMT_STATUS_PENDING = s.get CMT_STATUS_PENDING ∧ t.cmt.hrvGroup = s.cmt.hrvGroup ∧
    t.get CLK_GRP_STATUS_STARTED = s.get CLK_GRP_STATUS_STARTED ∧ (∀ p < 4, t.portState p = s.portState p) ∧ t.mem = s.mem ∧ t.cal = s.cal ∧ t.get PMG_STATUS_STATE = s.get PMG_STATUS_STATE) ∧
  (∀ s : State, (s.saving = true ∨ s.pins.perst = true → exec .perstNAssert s = .next s) ∧
    (s.saving = false → s.pins.perst = false → Completes (exec .perstNAssert s) fun t => t.pins.perst = true ∧ t.lnk.d3hot = false ∧
      t.get LNK_PCIE_STATUS_UP = 0 ∧ t.get LNK_PCIE_STATUS_RATE = 0 ∧ t.get LNK_PCIE_STATUS_WIDTH = 0 ∧ t.get LNK_PCIE_STATUS_FLIT = 0 ∧
      t.get (LNK_RRA_STAT_BUSY.per .host) = 0 ∧ (s.on (LNK_RRA_STAT_BUSY.per .host) = true → t.get (LNK_RRA_STAT_RESULT.per .host) = 5) ∧
      (s.on LNK_PCIE_STATUS_UP = true → t.get LNK_PCIE_NDOWN = (s.get LNK_PCIE_NDOWN + 1) % 2 ^ LNK_PCIE_NDOWN.width ∧ (∃ r ∈ t.raised, r.src = srcPcieDown) ∧ t.hostOut = []) ∧
      t.seq = s.seq ∧ t.clk = s.clk ∧ t.mem = s.mem ∧ t.que = s.que ∧ t.time = s.time) ∧
    (s.saving = true ∨ s.pins.perst = false → exec .perstNRelease s = .next s) ∧
    (s.saving = false → s.pins.perst = true → ∀ u : State, u = { s with pins := { s.pins with perst := false } } →
      (s.pins.inReset = 0 → exec .perstNRelease s = .next u.flr) ∧ (s.pins.inReset ≠ 0 → exec .perstNRelease s = .next u))) ∧
  (∀ s : State, exec (.testEnHigh false) s = .next { s with pins := { s.pins with testEn := false } } ∧
    (s.pins.inReset ≠ 0 ∧ s.pins.inReset ≤ 3 ∨ s.saving = true → exec (.testEnHigh true) s = .next { s with pins := { s.pins with testEn := true } }) ∧
    (s.pins.inReset = 0 ∨ 4 ≤ s.pins.inReset → s.saving = false → ∀ u, u = s.resetState 3 0 → exec (.testEnHigh true) s = .next { u with pins := { u.pins with testEn := true } }) ∧
    (s.pins.testEn = true ∨ s.pins.inReset ≠ 0 → s.safeLow = true))

/-- RAMP_WRITE, PWR_SEQ_ERR, RAIL_UNDERVOLT_DISCONNECT and HBC_INSERVICE_SET, in every state, the last where the write reaches HBC_CTRL. A
write entry under the ramp generator, in its frame and once in it (log entry 136), sends the code of its last write moved by a step toward
its target, never past it; the ramp ends when every entry has sent its target (R737), and a loop that a DUT-supply monitor ramps is written
alike (R738). A rail order error enters the safe state (R42, R735): its first cause is recorded, every channel trips, the playlist ends, the
loops with a loop-bus sink hold with cause SAFE and running ports ramp (R736); a later cause changes nothing. While a logic rail is below
its range every driver and PMU is disconnected (R41). Firmware alone takes HBM into service, not while a stack is untrained (R671, R672),
and Budding follows START once the gate is open too (R782). -/
def Obligations.SafeState : Prop :=
  (∀ (s : State) (p : Fin 4) (i : Fin 32) (n f : Nat), n = s.get (CLE_LB_SCHED_LOOP p.val i.val) → f = s.rampFrame →
    (s.isWrite p.val i.val = false ∨ f % (s.get (CLE_LB_CTRL_L p.val) + 1) ≠ i.val ∨ s.lbCarried p.val f = true ∨
      s.cle.ramp.contains p.val = false ∧ s.cle.rampLoops.contains n = false → exec (.rampWrite p i) s = .next s) ∧
    (s.isWrite p.val i.val = true → f % (s.get (CLE_LB_CTRL_L p.val) + 1) = i.val → s.lbCarried p.val f = false → ∀ u, u = (s.lbCarry p.val f).rampEntry p.val i.val →
      (s.cle.ramp.contains p.val = true → (u.rampComplete = true → exec (.rampWrite p i) s = .next u.rampDone) ∧ (u.rampComplete = false → exec (.rampWrite p i) s = .next u)) ∧
      (s.cle.ramp.contains p.val = false → s.cle.rampLoops.contains n = true → exec (.rampWrite p i) s = .next u))) ∧
  (∀ (s : State) (p i n : Nat) (t : State), n = s.get (CLE_LB_SCHED_LOOP p i) → t = s.rampEntry p i →
    t.get (CLE_CODE n) = s.rampCode p i % 2 ^ 32 ∧ t.cle.codes.head? = some (32 * p + i, s.rampCode p i) ∧
    t.tx = s.tx ++ [.spi p (s.get (CLE_LB_SCHED_CS p i)) (s.get (CLE_LB_SCHED_LEN p i)) (s.lbWriteWord n (s.rampCode p i) % 2 ^ s.get (CLE_LB_SCHED_LEN p i))] ∧
    (s.rampCode p i = s.rampTarget n → 32 * p + i ∈ t.cle.sent) ∧ s.regsBut t [CLE_CODE n] ∧ t.seq = s.seq ∧ t.mem = s.mem) ∧
  (∀ s : State, s.rampDone = { (s.put FCL_STATUS_RAMPING 0).put FCL_STATUS_RAMPDONE 1 with cle := { s.cle with ramp := [] } } ∧
    (s.rampComplete = true ↔ ∀ p ∈ s.cle.ramp, ∀ i < 32, s.isWrite p i = true → 32 * p + i ∈ s.cle.sent)) ∧
  (∀ (s : State) (p i c : Nat), s.cle.codes.find? (fun e => e.1 == 32 * p + i) = some (32 * p + i, c) →
    (c ≤ s.rampTarget (s.get (CLE_LB_SCHED_LOOP p i)) → c ≤ s.rampCode p i ∧ s.rampCode p i ≤ s.rampTarget (s.get (CLE_LB_SCHED_LOOP p i)) ∧
      (s.rampCode p i = s.rampTarget (s.get (CLE_LB_SCHED_LOOP p i)) ∨ s.rampCode p i = c + s.rampStep (s.get (CLE_LB_SCHED_LOOP p i)))) ∧
    (s.rampTarget (s.get (CLE_LB_SCHED_LOOP p i)) ≤ c → s.rampTarget (s.get (CLE_LB_SCHED_LOOP p i)) ≤ s.rampCode p i ∧ s.rampCode p i ≤ c ∧
      (s.rampCode p i = s.rampTarget (s.get (CLE_LB_SCHED_LOOP p i)) ∨ c = s.rampCode p i + s.rampStep (s.get (CLE_LB_SCHED_LOOP p i))))) ∧
  (∀ (s : State) (r : Fin 320), (s.inSafe = true → exec (.pwrSeqErr r) s = .next (s.raise srcPwrSeqErr r.val 0)) ∧
    (s.inSafe = false → Completes (exec (.pwrSeqErr r) s) fun t => t.inSafe = true ∧ t.get FCL_STATUS_SCAUSE = 3 ∧ t.on GRD_STATUS_SAFE = true ∧
      (∃ e ∈ t.raised, e.src = srcSafeEnter ∧ e.arg = 3) ∧ (∃ e ∈ t.raised, e.src = srcPwrSeqErr ∧ e.arg = r.val) ∧
      (∀ c < 256, t.tripped c = true ∧ (t.chan c).drv = 0) ∧ t.seq.running = none ∧ (s.seq.running ≠ none → t.get SEQ_STOP_REASON = 0xE) ∧
      (∀ n < 64, s.get (CLE_CFG_SINK n) = 1 → t.get (CLE_LSTATUS_MODE n) = 3 ∧ t.get (CLE_LSTATUS_HCAUSE n) = 4) ∧ (∀ p < 4, t.on (CLE_LB_STATUS_RUN p) = false) ∧ t.mem = s.mem)) ∧
  (∀ s : State, exec (.railUndervoltDisconnect false) s = .next { s with pins := { s.pins with railLow := false } } ∧
    Completes (exec (.railUndervoltDisconnect true) s) fun t => t.pins = { s.pins with railLow := true, railLeft := true } ∧ (∀ c < 256, (t.chan c).drv = 0) ∧
      (∀ c < 256, t.pmuOn c = false) ∧ t.safeLow = true ∧ (∀ f : Field, (∀ n < 32, f.id ≠ (PMU_STATUS_CONN n).id ∧ f.id ≠ (PMU_STATUS_END n).id) → t.get f = s.get f) ∧
      t.seq = s.seq ∧ t.raised = s.raised ∧ t.mem = s.mem) ∧
  (∀ (s : State) (r : Req) (b : Bool), s.reaches r 0x500000 = true → (r = .host → exec (.hbcInserviceSet r b) s = .next s) ∧
    (r ≠ .host → b = false → exec (.hbcInserviceSet r b) s = .next (s.put HBC_STATUS_RETREF 1)) ∧
    (r ≠ .host → b = true → ∀ u, u = ((s.put HBC_CTRL_INSERVICE 1).put HBC_STATUS_INSERVICE 1).startCycles →
      (s.get PMG_STATUS_STATE = 0 → s.gateOpen = true → exec (.hbcInserviceSet r b) s = .next ((u.put PMG_STATUS_STATE 2).raise srcPmgState 2 0)) ∧
      (s.get PMG_STATUS_STATE ≠ 0 ∨ s.gateOpen = false → exec (.hbcInserviceSet r b) s = .next u)) ∧
    s.startCycles.hbc.base = s.time.rc ∧ s.startCycles.hbc.begun = [])

/-- REGISTER_WRITE, in every state. A Scion's write leaves it through a plot that covers it, or counts (R580). A 64-bit access is two 32-bit
ones, lower address first (R13), and each part without all four byte enables is discarded and counted (R809). What Frost, Dormant, a reset
or a power-loss write hides is ignored (R46, R753, R776), the host's writes to Rootstock's range are counted (R578), and those to a domain
that is off, with CLAIM_DENIED where they take a unit (R770, log entry 10). A register without a rule of its own takes each field by its
access type (R17), one of a commit class into the shadow bank (R62, R76), and an offset that no register occupies nothing (R16). The writes
named in the last clause are the commands whose registers they write (R820). -/
def Obligations.RegisterWrites : Prop :=
  (∀ (s : State) (r : Req) (o : BitVec 28) (d : BitVec 32) (be : BitVec 4),
    (s.issues r (o.toNat / 4 * 4) 4 = false → exec (.registerWrite r o d be none) s = .next (s.notIssued r)) ∧
    (s.issues r (o.toNat / 4 * 4) 4 = true → exec (.registerWrite r o d be none) s = .next (s.writePart r (o.toNat / 4 * 4) d be)) ∧
    ∀ (d1 : BitVec 32) (b1 : BitVec 4), (s.issues r (o.toNat / 4 * 4) 8 = false → exec (.registerWrite r o d be (some (d1, b1))) s = .next (s.notIssued r)) ∧
      (s.issues r (o.toNat / 4 * 4) 8 = true → (o.toNat / 4 * 4 + 4 < 2 ^ 28 →
          exec (.registerWrite r o d be (some (d1, b1))) s = .next ((s.writePart r (o.toNat / 4 * 4) d be).writePart r (o.toNat / 4 * 4 + 4) d1 b1)) ∧
        (2 ^ 28 ≤ o.toNat / 4 * 4 + 4 → exec (.registerWrite r o d be (some (d1, b1))) s = .next (s.writePart r (o.toNat / 4 * 4) d be)))) ∧
  (∀ (s : State) (r : Req) (x : Nat) (d : BitVec 32) (be : BitVec 4), (be = 15#4 → s.writePart r x d be = s.regWrite r x d.toNat) ∧
    (be ≠ 15#4 → s.ignored r x = true → s.writePart r x d be = s) ∧ (be ≠ 15#4 → s.ignored r x = false → s.writePart r x d be = s.incSat GLB_BADACC)) ∧
  (∀ (s : State) (r : Req) (x w : Nat), (s.ignored r x = true → s.regWrite r x w = s) ∧
    (s.ignored r x = false → (r = .host → rscRange x = true → s.regWrite r x w = s.incSat RSC_HWREFUSED) ∧
      (r ≠ .host ∨ rscRange x = false → s.regOn x = false →
        (takesClaim x w = false → s.regWrite r x w = s.incSat PMG_NOFFWR) ∧
        (takesClaim x w = true → s.regWrite r x w = (s.incSat PMG_NOFFWR).claimDenied (x / 0x100000 * 0x100000 + x / 0x80000 % 2 * 0x80000))))) ∧
  (∀ (s : State) (r : Req) (x w : Nat) (d : RegDesc) (i j k : Nat), s.reaches r x = true → x < 0x4000000 → x < 0x5A0000 ∨ 0x5A8000 ≤ x → x ≠ 0x58002C →
    (regAt x = none → s.regWrite r x w = s) ∧
    (regAt x = some (d, i, j, k) → s.writeSpecial r d.base i j k w = none →
      (d.cls = none → s.regWrite r x w = (d.flds i j k).foldl (fun t f => t.writeField r d w f) s) ∧
      (∀ c, d.cls = some c → (s.classLocked c = true → s.regWrite r x w = s.refuseRwc) ∧
        (s.classLocked c = false → ∀ f ∈ d.flds i j k, (∀ g ∈ d.flds i j k, g.fld.id = f.fld.id → g = f) →
          (s.regWrite r x w).getShadow f.fld = bits w f.fld.lo f.fld.width)))) ∧
  (∀ (s : State) (r : Req) (d : RegDesc) (w : Nat) (f : FieldDesc),
    (f.acc = .rw → s.writeField r d w f = s.put (d.cell r f.fld) (bits w f.fld.lo f.fld.width)) ∧
    (f.acc = .rso → (r ≠ .rootstock → s.writeField r d w f = s) ∧ (r = .rootstock → s.writeField r d w f = s.put (d.cell r f.fld) (bits w f.fld.lo f.fld.width))) ∧
    (f.acc = .w1c → s.writeField r d w f = s.put (d.cell r f.fld) (s.get (d.cell r f.fld) - (s.get (d.cell r f.fld) &&& bits w f.fld.lo f.fld.width))) ∧
    (f.acc = .ro → s.writeField r d w f = s) ∧
    (d.perReq = true → d.cell r f.fld = f.fld.per r) ∧ (d.perReq = false → d.cell r f.fld = f.fld)) ∧
  (∀ (s : State) (r : Req) (d : BitVec 32),
    (s.reaches r 0x1C = true → exec (.registerWrite r 0x1C#28 d 15#4 none) s = .next (s.put GLB_SCRATCH d.toNat)) ∧
    (s.reaches .host 0xA00 = true → exec (.registerWrite .host 0xA00#28 d 15#4 none) s = exec (.lvlCtrlWrite d) s) ∧
    (s.reaches r 0xC00 = true → d.toNat / 2 ^ 24 = 6 → exec (.registerWrite r 0xC00#28 d 15#4 none) s = exec (.fwQuery r (BitVec.ofNat 16 d.toNat)) s) ∧
    (s.reaches r 0x30000 = true → d.toNat / 2 ^ 28 = 8 → exec (.registerWrite r 0x30000#28 d 15#4 none) s = exec (.pmgDormant r) s) ∧
    (s.reaches r 0x30000 = true → d.toNat / 2 ^ 28 = 1 → exec (.registerWrite r 0x30000#28 d 15#4 none) s = exec (.pmgBloom r) s) ∧
    (s.reaches r 0x30038 = true → exec (.registerWrite r 0x30038#28 d 15#4 none) s = exec (.pmgDomOffWrite r 0 d) s) ∧
    (s.reaches .host 0x40030 = true → exec (.registerWrite .host 0x40030#28 d 15#4 none) s = exec (.fclSwevt d) s) ∧
    (s.reaches r 0x50008 = true → exec (.registerWrite r 0x50008#28 d 15#4 none) s = exec (.evrRidxWrite r d) s) ∧
    (s.reaches .host 0x60000 = true → d.toNat / 2 ^ 26 = 16 → exec (.registerWrite .host 0x60000#28 d 15#4 none) s = exec .frzSoft s) ∧
    (s.reaches .host 0x80028 = true → exec (.registerWrite .host 0x80028#28 d 15#4 none) s = exec (.uflagSet (BitVec.ofNat 16 d.toNat)) s))

/-- A step takes the command at the front of the queue, first in, first out, and is its effect on the state with the rest of the queue (log
entry 1). -/
def Obligations.StepRunsFront : Prop :=
  ∀ (c : Instr) (s : State) (rest : List Instr), s.pending = c :: rest → step s = exec c { s with pending := rest }

/-- On an empty queue the block idles for one tick, the model's choice (log entry 5): what was sent is gone; in a reset, or while a playlist
runs, nothing else changes; with the gate closed one reference cycle passes and the GVC stands (R60); with it open and no playlist running
one vector cycle passes, and the GVC counts (R58), the units that a playlist has left coming free on the way (log entry 110). -/
def Obligations.IdleStep : Prop :=
  (∀ s : State, s.pending = [] → step s = .next s.tick) ∧
  (∀ s : State, s.drain = { s with tx := [], hostOut := [] } ∧ (s.pins.inReset ≠ 0 → s.tick = s.drain) ∧
    (s.pins.inReset = 0 → (s.gateOpen = false → s.tick = s.drain.passRc 1) ∧
      (s.gateOpen = true → (s.seq.running ≠ none → s.tick = s.drain) ∧
        (s.seq.running = none → s.tick = s.drain.advanceTo (s.clk.gvc + 1) ∧ (s.tiu.releases = [] → s.tick = s.drain.advance 1))))) ∧
  (∀ s t : State, t = s.passRc 1 → t.clk.gvc = s.clk.gvc ∧ t.time.rc = s.time.rc + 1 ∧ t.mem = s.mem ∧ t.get64 FCL_MS_LO FCL_MS_HI = (s.time.rc + 1) / 100000 % 2 ^ 64 ∧
    (s.clk.counting = true → t.clk.epoch = (s.clk.epoch + 1) % 2 ^ 64) ∧ (s.clk.counting = false → t.clk.epoch = s.clk.epoch) ∧ t.seq = s.seq ∧ t.raised = s.raised ∧
    s.regsBut t [FCL_MS_LO, FCL_MS_HI, CLK_WARM_S]) ∧
  (∀ s t : State, t = s.advance 1 → t.clk.gvc = (s.clk.gvc + 1) % 2 ^ 64 ∧ t.mem = s.mem ∧ s.time.rc ≤ t.time.rc ∧ t.seq.running = s.seq.running ∧ t.seq.queued = s.seq.queued)

/-- State.reset: after the end of a reset STATE reads START, the VCLK gate is closed and CLK_STATUS reads 0x38 (R797); INSERVICE and NORMAL
are 0, SCRUB_EN and AUTORETIRE 1 (R676); the wall-time increment is 4 ns (R709); every register reads its reset value. Memory is in its form
and no reset is in force. That no program, image or table is loaded is the model's choice (log entries 1 and 2). A reset leaves the device
in START with its gate closed. -/
def Obligations.ResetState : Prop :=
  (State.reset.memInv ∧ State.reset.resetInv ∧ State.reset.pending = [] ∧ State.reset.mem = [] ∧ State.reset.get PMG_STATUS_STATE = 0 ∧
    State.reset.gateOpen = false ∧ State.reset.regRead .host 0x20004 = 0x38 ∧ State.reset.get HBC_CTRL_SCRUB_EN = 1 ∧
    State.reset.get HBC_CTRL_AUTORETIRE = 1 ∧ State.reset.get HBC_STATUS_INSERVICE = 0 ∧ State.reset.get HBC_STATUS_NORMAL = 0 ∧
    State.reset.seq.running = none ∧ State.reset.seq.queued = none ∧ State.reset.inSafe = false ∧ State.reset.frozen = false ∧
    State.reset.get LNK_PCIE_STATUS_UP = 0 ∧ (∀ p < 4, State.reset.portState p = 0) ∧ State.reset.time.inc = 0x400000000) ∧
  (∀ f : Field, State.reset.get f = f.rst ∧ State.reset.getShadow f = f.rst) ∧
  (∀ (s : State) (k src : Nat), (s.resetState k src).get PMG_STATUS_STATE = 0 ∧ (s.resetState k src).gateOpen = false ∧ (s.resetState k src).memInv)

/-- Every step from a state whose HBM is in canonical form answers a state whose HBM is in canonical form (log entry 3): addresses rise, and
no entry equals what an unlisted byte reads as. -/
def Obligations.HbmCanonical : Prop :=
  ∀ s t : State, s.memInv → step s = .next t → t.memInv

/-- The reset in force stays none or one of the three kinds (R722, R794), whatever command is taken. -/
def Obligations.ResetKinds : Prop :=
  ∀ s t : State, s.resetInv → step s = .next t → t.resetInv

/-- No command changes the queue of waiting commands, resets among them: after a step exactly the rest waits, in its order (log entry 1). -/
def Obligations.QueueFirstInFirstOut : Prop :=
  ∀ (s t : State) (c : Instr) (rest : List Instr), s.pending = c :: rest → step s = .next t → t.pending = rest

/-- Every command of the table completes in every state: none of them ends in a fault or a refusal, because the manual gives each of them an
effect, a refusal that it records in a register, or none. -/
def Obligations.EveryCommandCompletes : Prop :=
  ∀ (c : Instr) (s : State), ∃ t, exec c s = .next t
end

