-- ==== Sys2Proof/Laws/Dispatch.lean ====
section
/-! SUPPORT. Which meaning each command has: one equation per arm of exec, so that no proof unfolds exec itself. -/

namespace Sys2Proof.Machine

@[simp] theorem exec_registerWrite (req : Req) (off : BitVec 28) (data : BitVec 32) (be : BitVec 4) (hi : Option (BitVec 32 × BitVec 4))
    (s : State) :
    exec (.registerWrite req off data be hi) s = execRegisterWrite req off data be hi s := rfl
@[simp] theorem exec_hostBar2Write (addr : BitVec 36) (data : List Byte) (bad : BitVec 2) (s : State) :
    exec (.hostBar2Write addr data bad) s = execHostBar2Write addr data bad s := rfl
@[simp] theorem exec_hbmRequest (port : Fin 8) (write : Bool) (addr : BitVec 40) (len : Fin 65) (data : List Byte) (s : State) :
    exec (.hbmRequest port write addr len data) s = execHbmRequest port write addr len data s := rfl
@[simp] theorem exec_hbmResponse (port : Fin 8) (err : Fin 3) (live : Bool) (lat : BitVec 10) (s : State) :
    exec (.hbmResponse port err live lat) s = execHbmResponse port err live lat s := rfl
@[simp] theorem exec_powerOnReset (s : State) :
    exec (.powerOnReset) s = execPowerOnReset s := rfl
@[simp] theorem exec_coldReset (s : State) :
    exec (.coldReset) s = execColdReset s := rfl
@[simp] theorem exec_warmReset (s : State) :
    exec (.warmReset) s = execWarmReset s := rfl
@[simp] theorem exec_resetEnd (crc0 crc1 : Bool) (s : State) :
    exec (.resetEnd crc0 crc1) s = execResetEnd crc0 crc1 s := rfl
@[simp] theorem exec_functionLevelReset (s : State) :
    exec (.functionLevelReset) s = execFunctionLevelReset s := rfl
@[simp] theorem exec_perstNAssert (s : State) :
    exec (.perstNAssert) s = execPerstNAssert s := rfl
@[simp] theorem exec_perstNRelease (s : State) :
    exec (.perstNRelease) s = execPerstNRelease s := rfl
@[simp] theorem exec_powerLossTrigger (rail : Fin 320) (s : State) :
    exec (.powerLossTrigger rail) s = execPowerLossTrigger rail s := rfl
@[simp] theorem exec_powerLossWriteDone (s : State) :
    exec (.powerLossWriteDone) s = execPowerLossWriteDone s := rfl
@[simp] theorem exec_pwrSeqErr (rail : Fin 320) (s : State) :
    exec (.pwrSeqErr rail) s = execPwrSeqErr rail s := rfl
@[simp] theorem exec_railUndervoltDisconnect (low : Bool) (s : State) :
    exec (.railUndervoltDisconnect low) s = execRailUndervoltDisconnect low s := rfl
@[simp] theorem exec_testEnHigh (high : Bool) (s : State) :
    exec (.testEnHigh high) s = execTestEnHigh high s := rfl
@[simp] theorem exec_commitGo (s : State) :
    exec (.commitGo) s = execCommitGo s := rfl
@[simp] theorem exec_commitCancel (s : State) :
    exec (.commitCancel) s = execCommitCancel s := rfl
@[simp] theorem exec_acklost (s : State) :
    exec (.acklost) s = execAcklost s := rfl
@[simp] theorem exec_prepareReceive (target : Gvc) (scope : BitVec 9) (tag : BitVec 16) (s : State) :
    exec (.prepareReceive target scope tag) s = execPrepareReceive target scope tag s := rfl
@[simp] theorem exec_voteReceive (port : Fin 4) (ready : Bool) (reason : BitVec 4) (dev : BitVec 13) (s : State) :
    exec (.voteReceive port ready reason dev) s = execVoteReceive port ready reason dev s := rfl
@[simp] theorem exec_voteForward (s : State) :
    exec (.voteForward) s = execVoteForward s := rfl
@[simp] theorem exec_commitDecide (s : State) :
    exec (.commitDecide) s = execCommitDecide s := rfl
@[simp] theorem exec_decisionReceive (commit retry : Bool) (tag : BitVec 16) (reason : BitVec 4) (dev : BitVec 13) (s : State) :
    exec (.decisionReceive commit retry tag reason dev) s = execDecisionReceive commit retry tag reason dev s := rfl
@[simp] theorem exec_commitExchange (s : State) :
    exec (.commitExchange) s = execCommitExchange s := rfl
@[simp] theorem exec_resyncEnd (s : State) :
    exec (.resyncEnd) s = execResyncEnd s := rfl
@[simp] theorem exec_commitLost (s : State) :
    exec (.commitLost) s = execCommitLost s := rfl
@[simp] theorem exec_cfgScrub (active : Bool) (cls : Fin 9) (offset : BitVec 28) (fails : Bool) (s : State) :
    exec (.cfgScrub active cls offset fails) s = execCfgScrub active cls offset fails s := rfl
@[simp] theorem exec_harvestGo (s : State) :
    exec (.harvestGo) s = execHarvestGo s := rfl
@[simp] theorem exec_harvestCancel (s : State) :
    exec (.harvestCancel) s = execHarvestCancel s := rfl
@[simp] theorem exec_harvestHold (hold : Bool) (s : State) :
    exec (.harvestHold hold) s = execHarvestHold hold s := rfl
@[simp] theorem exec_harvestReceive (target : Gvc) (s : State) :
    exec (.harvestReceive target) s = execHarvestReceive target s := rfl
@[simp] theorem exec_harvestTake (s : State) :
    exec (.harvestTake) s = execHarvestTake s := rfl
@[simp] theorem exec_harvestMiss (s : State) :
    exec (.harvestMiss) s = execHarvestMiss s := rfl
@[simp] theorem exec_verdictSettle (site : Fin 64) (s : State) :
    exec (.verdictSettle site) s = execVerdictSettle site s := rfl
@[simp] theorem exec_verdictRelease (site : Fin 64) (s : State) :
    exec (.verdictRelease site) s = execVerdictRelease site s := rfl
@[simp] theorem exec_refLoss (s : State) :
    exec (.refLoss) s = execRefLoss s := rfl
@[simp] theorem exec_refBack (s : State) :
    exec (.refBack) s = execRefBack s := rfl
@[simp] theorem exec_warmupDone (s : State) :
    exec (.warmupDone) s = execWarmupDone s := rfl
@[simp] theorem exec_ovenLow (s : State) :
    exec (.ovenLow) s = execOvenLow s := rfl
@[simp] theorem exec_relock (s : State) :
    exec (.relock) s = execRelock s := rfl
@[simp] theorem exec_revalDone (badTs badLs : List (BitVec 28)) (s : State) :
    exec (.revalDone badTs badLs) s = execRevalDone badTs badLs s := rfl
@[simp] theorem exec_vclkUnlock (s : State) :
    exec (.vclkUnlock) s = execVclkUnlock s := rfl
@[simp] theorem exec_gateOpen (s : State) :
    exec (.gateOpen) s = execGateOpen s := rfl
@[simp] theorem exec_gateHold (hold : Bool) (s : State) :
    exec (.gateHold hold) s = execGateHold hold s := rfl
@[simp] theorem exec_form (s : State) :
    exec (.form) s = execForm s := rfl
@[simp] theorem exec_discoveryReceive (port : Fin 4) (depth : Fin 16) (beyond : Bool) (s : State) :
    exec (.discoveryReceive port depth beyond) s = execDiscoveryReceive port depth beyond s := rfl
@[simp] theorem exec_linkMeasure (port : Fin 4) (raw : BitVec 16) (s : State) :
    exec (.linkMeasure port raw) s = execLinkMeasure port raw s := rfl
@[simp] theorem exec_idAssignReceive (taken : List (BitVec 13)) (s : State) :
    exec (.idAssignReceive taken) s = execIdAssignReceive taken s := rfl
@[simp] theorem exec_hReceive (h : Fin 9) (down : BitVec 4) (s : State) :
    exec (.hReceive h down) s = execHReceive h down s := rfl
@[simp] theorem exec_gcPathProbe (m : BitVec 16) (s : State) :
    exec (.gcPathProbe m) s = execGcPathProbe m s := rfl
@[simp] theorem exec_formationDone (conflict : Bool) (size leftOut : BitVec 14) (routes : List (BitVec 13 × Fin 4)) (s : State) :
    exec (.formationDone conflict size leftOut routes) s = execFormationDone conflict size leftOut routes s := rfl
@[simp] theorem exec_groupStart (s : State) :
    exec (.groupStart) s = execGroupStart s := rfl
@[simp] theorem exec_syncInStart (s : State) :
    exec (.syncInStart) s = execSyncInStart s := rfl
@[simp] theorem exec_startReceive (lead : BitVec 16) (gvc : Gvc) (cfg frac : BitVec 32) (s : State) :
    exec (.startReceive lead gvc cfg frac) s = execStartReceive lead gvc cfg frac s := rfl
@[simp] theorem exec_startDividerReset (s : State) :
    exec (.startDividerReset) s = execStartDividerReset s := rfl
@[simp] theorem exec_groupGateOpen (lockHeld : Bool) (nosync : BitVec 14) (s : State) :
    exec (.groupGateOpen lockHeld nosync) s = execGroupGateOpen lockHeld nosync s := rfl
@[simp] theorem exec_join (inSync tooDeep : Bool) (s : State) :
    exec (.join inSync tooDeep) s = execJoin inSync tooDeep s := rfl
@[simp] theorem exec_joinReceive (lead : BitVec 64) (epoch : BitVec 64) (gvc : Gvc) (cfg frac : BitVec 32) (s : State) :
    exec (.joinReceive lead epoch gvc cfg frac) s = execJoinReceive lead epoch gvc cfg frac s := rfl
@[simp] theorem exec_joinAlign (lockHeld : Bool) (s : State) :
    exec (.joinAlign lockHeld) s = execJoinAlign lockHeld s := rfl
@[simp] theorem exec_hopSlip (here : Bool) (s : State) :
    exec (.hopSlip here) s = execHopSlip here s := rfl
@[simp] theorem exec_trellisDown (here : Bool) (s : State) :
    exec (.trellisDown here) s = execTrellisDown here s := rfl
@[simp] theorem exec_syncSkew (skew : BitVec 16) (s : State) :
    exec (.syncSkew skew) s = execSyncSkew skew s := rfl
@[simp] theorem exec_csLatchWrite (req : Req) (slot : Fin 262144) (word : Fin 6) (data : BitVec 32) (s : State) :
    exec (.csLatchWrite req slot word data) s = execCsLatchWrite req slot word data s := rfl
@[simp] theorem exec_csSlotWrite (req : Req) (slot : Fin 262144) (chk : BitVec 16) (s : State) :
    exec (.csSlotWrite req slot chk) s = execCsSlotWrite req slot chk s := rfl
@[simp] theorem exec_cslGo (s : State) :
    exec (.cslGo) s = execCslGo s := rfl
@[simp] theorem exec_cslAbort (s : State) :
    exec (.cslAbort) s = execCslAbort s := rfl
@[simp] theorem exec_cslDone (s : State) :
    exec (.cslDone) s = execCslDone s := rfl
@[simp] theorem exec_csScrub (slot : Fin 262144) (flip : BitVec 208) (s : State) :
    exec (.csScrub slot flip) s = execCsScrub slot flip s := rfl
@[simp] theorem exec_vectorIssue (late : Bool) (flip : BitVec 208) (flipA flipB : BitVec 80) (bad : List (BitVec 28)) (s : State) :
    exec (.vectorIssue late flip flipA flipB bad) s = execVectorIssue late flip flipA flipB bad s := rfl
@[simp] theorem exec_seqNext (s : State) :
    exec (.seqNext) s = execSeqNext s := rfl
@[simp] theorem exec_seqJump (s : State) :
    exec (.seqJump) s = execSeqJump s := rfl
@[simp] theorem exec_seqCall (s : State) :
    exec (.seqCall) s = execSeqCall s := rfl
@[simp] theorem exec_seqReturn (s : State) :
    exec (.seqReturn) s = execSeqReturn s := rfl
@[simp] theorem exec_seqBranch (s : State) :
    exec (.seqBranch) s = execSeqBranch s := rfl
@[simp] theorem exec_seqBranchf (s : State) :
    exec (.seqBranchf) s = execSeqBranchf s := rfl
@[simp] theorem exec_seqCcall (s : State) :
    exec (.seqCcall) s = execSeqCcall s := rfl
@[simp] theorem exec_seqCreturn (s : State) :
    exec (.seqCreturn) s = execSeqCreturn s := rfl
@[simp] theorem exec_seqLoadloop (bad : Bool) (s : State) :
    exec (.seqLoadloop bad) s = execSeqLoadloop bad s := rfl
@[simp] theorem exec_seqLoadloopi (s : State) :
    exec (.seqLoadloopi) s = execSeqLoadloopi s := rfl
@[simp] theorem exec_seqLoop (s : State) :
    exec (.seqLoop) s = execSeqLoop s := rfl
@[simp] theorem exec_seqLoopr (bad : Bool) (s : State) :
    exec (.seqLoopr bad) s = execSeqLoopr bad s := rfl
@[simp] theorem exec_seqWait (late : Bool) (flip : BitVec 208) (flipA flipB : BitVec 80) (bad : List (BitVec 28)) (s : State) :
    exec (.seqWait late flip flipA flipB bad) s = execSeqWait late flip flipA flipB bad s := rfl
@[simp] theorem exec_seqMatch (late : Bool) (flip : BitVec 208) (flipA flipB : BitVec 80) (bad : List (BitVec 28)) (s : State) :
    exec (.seqMatch late flip flipA flipB bad) s = execSeqMatch late flip flipA flipB bad s := rfl
@[simp] theorem exec_seqStopfail (s : State) :
    exec (.seqStopfail) s = execSeqStopfail s := rfl
@[simp] theorem exec_seqHalt (s : State) :
    exec (.seqHalt) s = execSeqHalt s := rfl
@[simp] theorem exec_cwaitRelease (late : Bool) (flipA flipB : BitVec 80) (bad : List (BitVec 28)) (s : State) :
    exec (.cwaitRelease late flipA flipB bad) s = execCwaitRelease late flipA flipB bad s := rfl
@[simp] theorem exec_waitLimitExpiry (late : Bool) (flipA flipB : BitVec 80) (bad : List (BitVec 28)) (s : State) :
    exec (.waitLimitExpiry late flipA flipB bad) s = execWaitLimitExpiry late flipA flipB bad s := rfl
@[simp] theorem exec_stallHoldEnd (s : State) :
    exec (.stallHoldEnd) s = execStallHoldEnd s := rfl
@[simp] theorem exec_stallLimit (s : State) :
    exec (.stallLimit) s = execStallLimit s := rfl
@[simp] theorem exec_cmark (s : State) :
    exec (.cmark) s = execCmark s := rfl
@[simp] theorem exec_patternEvent (s : State) :
    exec (.patternEvent) s = execPatternEvent s := rfl
@[simp] theorem exec_tiuctlArm (s : State) :
    exec (.tiuctlArm) s = execTiuctlArm s := rfl
@[simp] theorem exec_tiuctlGate (s : State) :
    exec (.tiuctlGate) s = execTiuctlGate s := rfl
@[simp] theorem exec_tiuctlDisarm (s : State) :
    exec (.tiuctlDisarm) s = execTiuctlDisarm s := rfl
@[simp] theorem exec_streamRun (s : State) :
    exec (.streamRun) s = execStreamRun s := rfl
@[simp] theorem exec_streamPause (s : State) :
    exec (.streamPause) s = execStreamPause s := rfl
@[simp] theorem exec_streamRunall (s : State) :
    exec (.streamRunall) s = execStreamRunall s := rfl
@[simp] theorem exec_streamPauseall (s : State) :
    exec (.streamPauseall) s = execStreamPauseall s := rfl
@[simp] theorem exec_flagSet (s : State) :
    exec (.flagSet) s = execFlagSet s := rfl
@[simp] theorem exec_flagClear (s : State) :
    exec (.flagClear) s = execFlagClear s := rfl
@[simp] theorem exec_flagToggle (s : State) :
    exec (.flagToggle) s = execFlagToggle s := rfl
@[simp] theorem exec_holdall (s : State) :
    exec (.holdall) s = execHoldall s := rfl
@[simp] theorem exec_offall (s : State) :
    exec (.offall) s = execOffall s := rfl
@[simp] theorem exec_holdout (s : State) :
    exec (.holdout) s = execHoldout s := rfl
@[simp] theorem exec_offout (s : State) :
    exec (.offout) s = execOffout s := rfl
@[simp] theorem exec_capctlArm (s : State) :
    exec (.capctlArm) s = execCapctlArm s := rfl
@[simp] theorem exec_capctlDisarm (s : State) :
    exec (.capctlDisarm) s = execCapctlDisarm s := rfl
@[simp] theorem exec_seqStop (s : State) :
    exec (.seqStop) s = execSeqStop s := rfl
@[simp] theorem exec_stopatArm (s : State) :
    exec (.stopatArm) s = execStopatArm s := rfl
@[simp] theorem exec_stopatDisarm (s : State) :
    exec (.stopatDisarm) s = execStopatDisarm s := rfl
@[simp] theorem exec_stopatReached (s : State) :
    exec (.stopatReached) s = execStopatReached s := rfl
@[simp] theorem exec_uflagSet (mask : BitVec 16) (s : State) :
    exec (.uflagSet mask) s = execUflagSet mask s := rfl
@[simp] theorem exec_uflagClear (mask : BitVec 16) (s : State) :
    exec (.uflagClear mask) s = execUflagClear mask s := rfl
@[simp] theorem exec_segDidxWrite (req : Req) (index : Fin 65536) (s : State) :
    exec (.segDidxWrite req index) s = execSegDidxWrite req index s := rfl
@[simp] theorem exec_descriptorWrite (req : Req) (s : State) :
    exec (.descriptorWrite req) s = execDescriptorWrite req s := rfl
@[simp] theorem exec_playlistStart (s : State) :
    exec (.playlistStart) s = execPlaylistStart s := rfl
@[simp] theorem exec_playlistWithdraw (s : State) :
    exec (.playlistWithdraw) s = execPlaylistWithdraw s := rfl
@[simp] theorem exec_startCheckDone (s : State) :
    exec (.startCheckDone) s = execStartCheckDone s := rfl
@[simp] theorem exec_headsLoaded (s : State) :
    exec (.headsLoaded) s = execHeadsLoaded s := rfl
@[simp] theorem exec_playlistFirstVector (flip : BitVec 208) (flipA flipB : BitVec 80) (bad : List (BitVec 28)) (s : State) :
    exec (.playlistFirstVector flip flipA flipB bad) s = execPlaylistFirstVector flip flipA flipB bad s := rfl
@[simp] theorem exec_streamOpen (channel : Fin 8) (width : Fin 4) (s : State) :
    exec (.streamOpen channel width) s = execStreamOpen channel width s := rfl
@[simp] theorem exec_streamClose (channel : Fin 8) (s : State) :
    exec (.streamClose channel) s = execStreamClose channel s := rfl
@[simp] theorem exec_streamProdWrite (channel : Fin 8) (hi : BitVec 32) (s : State) :
    exec (.streamProdWrite channel hi) s = execStreamProdWrite channel hi s := rfl
@[simp] theorem exec_streamFetch (channel : Fin 8) (addr : BitVec 64) (data : List Byte) (s : State) :
    exec (.streamFetch channel addr data) s = execStreamFetch channel addr data s := rfl
@[simp] theorem exec_apgIwLatch (req : Req) (gen : Fin 2) (index : Fin 4096) (word : Fin 2) (data : BitVec 32) (s : State) :
    exec (.apgIwLatch req gen index word data) s = execApgIwLatch req gen index word data s := rfl
@[simp] theorem exec_apgIwchkWrite (req : Req) (gen : Fin 2) (index : Fin 4096) (chk : BitVec 16) (s : State) :
    exec (.apgIwchkWrite req gen index chk) s = execApgIwchkWrite req gen index chk s := rfl
@[simp] theorem exec_apgScrub (gen : Fin 2) (index : Fin 4096) (flip : BitVec 80) (s : State) :
    exec (.apgScrub gen index flip) s = execApgScrub gen index flip s := rfl
@[simp] theorem exec_apgTldGo (s : State) :
    exec (.apgTldGo) s = execApgTldGo s := rfl
@[simp] theorem exec_apgTldAbort (s : State) :
    exec (.apgTldAbort) s = execApgTldAbort s := rfl
@[simp] theorem exec_apgTldDone (s : State) :
    exec (.apgTldDone) s = execApgTldDone s := rfl
@[simp] theorem exec_ptfTsLatchWrite (req : Req) (ch : Fin 256) (entry : Fin 1024) (word : Fin 6) (data : BitVec 32) (s : State) :
    exec (.ptfTsLatchWrite req ch entry word data) s = execPtfTsLatchWrite req ch entry word data s := rfl
@[simp] theorem exec_ptfTsCfgWrite (req : Req) (ch : Fin 256) (entry : Fin 1024) (data : BitVec 32) (s : State) :
    exec (.ptfTsCfgWrite req ch entry data) s = execPtfTsCfgWrite req ch entry data s := rfl
@[simp] theorem exec_vectorLand (s : State) :
    exec (.vectorLand) s = execVectorLand s := rfl
@[simp] theorem exec_levelSettleEnd (ch : Fin 256) (s : State) :
    exec (.levelSettleEnd ch) s = execLevelSettleEnd ch s := rfl
@[simp] theorem exec_edgePlace (ch : Fin 256) (s : State) :
    exec (.edgePlace ch) s = execEdgePlace ch s := rfl
@[simp] theorem exec_compareSample (cycle : Gvc) (ch : Fin 256) (ui : Fin 8) (lands : List (Bool × BitVec 16)) (held : Bool) (s : State) :
    exec (.compareSample cycle ch ui lands held) s = execCompareSample cycle ch ui lands held s := rfl
@[simp] theorem exec_twinMismatch (ch : Fin 256) (delay bad : Bool) (s : State) :
    exec (.twinMismatch ch delay bad) s = execTwinMismatch ch delay bad s := rfl
@[simp] theorem exec_lvlLsLatchWrite (req : Req) (ch : Fin 256) (entry : Fin 256) (word : Fin 6) (data : BitVec 32) (s : State) :
    exec (.lvlLsLatchWrite req ch entry word data) s = execLvlLsLatchWrite req ch entry word data s := rfl
@[simp] theorem exec_lvlLsCfgWrite (req : Req) (ch : Fin 256) (entry : Fin 256) (data : BitVec 32) (s : State) :
    exec (.lvlLsCfgWrite req ch entry data) s = execLvlLsCfgWrite req ch entry data s := rfl
@[simp] theorem exec_readbackPeriod (s : State) :
    exec (.readbackPeriod) s = execReadbackPeriod s := rfl
@[simp] theorem exec_readbackStep (ch : Fin 256) (void bad : Bool) (s : State) :
    exec (.readbackStep ch void bad) s = execReadbackStep ch void bad s := rfl
@[simp] theorem exec_untrClear (ch : Fin 256) (s : State) :
    exec (.untrClear ch) s = execUntrClear ch s := rfl
@[simp] theorem exec_lvlCtrlWrite (data : BitVec 32) (s : State) :
    exec (.lvlCtrlWrite data) s = execLvlCtrlWrite data s := rfl
@[simp] theorem exec_rakeTake (full fcFull : Bool) (bad : List (BitVec 28)) (s : State) :
    exec (.rakeTake full fcFull bad) s = execRakeTake full fcFull bad s := rfl
@[simp] theorem exec_rakeStop (s : State) :
    exec (.rakeStop) s = execRakeStop s := rfl
@[simp] theorem exec_siteKill (site : Fin 64) (s : State) :
    exec (.siteKill site) s = execSiteKill site s := rfl
@[simp] theorem exec_hostSiteKill (mask : BitVec 64) (s : State) :
    exec (.hostSiteKill mask) s = execHostSiteKill mask s := rfl
@[simp] theorem exec_capArm (s : State) :
    exec (.capArm) s = execCapArm s := rfl
@[simp] theorem exec_capDisarm (s : State) :
    exec (.capDisarm) s = execCapDisarm s := rfl
@[simp] theorem exec_capReset (s : State) :
    exec (.capReset) s = execCapReset s := rfl
@[simp] theorem exec_captureRoomReturn (s : State) :
    exec (.captureRoomReturn) s = execCaptureRoomReturn s := rfl
@[simp] theorem exec_fcRoomReturn (s : State) :
    exec (.fcRoomReturn) s = execFcRoomReturn s := rfl
@[simp] theorem exec_fcRptrWrite (hi : BitVec 32) (s : State) :
    exec (.fcRptrWrite hi) s = execFcRptrWrite hi s := rfl
@[simp] theorem exec_tiuTake (unit : Fin 16) (s : State) :
    exec (.tiuTake unit) s = execTiuTake unit s := rfl
@[simp] theorem exec_tiuRelease (unit : Fin 16) (s : State) :
    exec (.tiuRelease unit) s = execTiuRelease unit s := rfl
@[simp] theorem exec_tiuArm (unit : Fin 16) (s : State) :
    exec (.tiuArm unit) s = execTiuArm unit s := rfl
@[simp] theorem exec_tiuDisarm (unit : Fin 16) (s : State) :
    exec (.tiuDisarm unit) s = execTiuDisarm unit s := rfl
@[simp] theorem exec_tiuEvent (unit : Fin 16) (input : Fin 17) (tick : Fin 20) (bin : Fin 1024) (s : State) :
    exec (.tiuEvent unit input tick bin) s = execTiuEvent unit input tick bin s := rfl
@[simp] theorem exec_tiuTimeout (unit : Fin 16) (s : State) :
    exec (.tiuTimeout unit) s = execTiuTimeout unit s := rfl
@[simp] theorem exec_tiuRange (unit : Fin 16) (s : State) :
    exec (.tiuRange unit) s = execTiuRange unit s := rfl
@[simp] theorem exec_tiuCalReq (mask : BitVec 16) (s : State) :
    exec (.tiuCalReq mask) s = execTiuCalReq mask s := rfl
@[simp] theorem exec_tiuCalStart (unit : Fin 16) (s : State) :
    exec (.tiuCalStart unit) s = execTiuCalStart unit s := rfl
@[simp] theorem exec_tiuCalEnd (unit : Fin 16) (hist : List (List (BitVec 23))) (s : State) :
    exec (.tiuCalEnd unit hist) s = execTiuCalEnd unit hist s := rfl
@[simp] theorem exec_tiuCallate (unit : Fin 16) (s : State) :
    exec (.tiuCallate unit) s = execTiuCallate unit s := rfl
@[simp] theorem exec_pmuTake (req : Req) (pmu : Fin 32) (s : State) :
    exec (.pmuTake req pmu) s = execPmuTake req pmu s := rfl
@[simp] theorem exec_pmuRelease (req : Req) (pmu : Fin 32) (s : State) :
    exec (.pmuRelease req pmu) s = execPmuRelease req pmu s := rfl
@[simp] theorem exec_pmuConnect (req : Req) (pmu : Fin 32) (data : BitVec 32) (s : State) :
    exec (.pmuConnect req pmu data) s = execPmuConnect req pmu data s := rfl
@[simp] theorem exec_pmuConnectDone (pmu : Fin 32) (s : State) :
    exec (.pmuConnectDone pmu) s = execPmuConnectDone pmu s := rfl
@[simp] theorem exec_pmuForceWrite (req : Req) (pmu : Fin 32) (which : Fin 3) (data : BitVec 32) (s : State) :
    exec (.pmuForceWrite req pmu which data) s = execPmuForceWrite req pmu which data s := rfl
@[simp] theorem exec_contactTestGo (s : State) :
    exec (.contactTestGo) s = execContactTestGo s := rfl
@[simp] theorem exec_contactChannelDone (ch : Fin 256) (vn vp : BitVec 32) (s : State) :
    exec (.contactChannelDone ch vn vp) s = execContactChannelDone ch vn vp s := rfl
@[simp] theorem exec_dfcStart (req : Req) (chain : Fin 32) (s : State) :
    exec (.dfcStart req chain) s = execDfcStart req chain s := rfl
@[simp] theorem exec_dfcStop (req : Req) (chain : Fin 32) (s : State) :
    exec (.dfcStop req chain) s = execDfcStop req chain s := rfl
@[simp] theorem exec_dfcFreeze (req : Req) (chain : Fin 32) (on : Bool) (s : State) :
    exec (.dfcFreeze req chain on) s = execDfcFreeze req chain on s := rfl
@[simp] theorem exec_dfcBaseWrite (req : Req) (chain : Fin 32) (data : BitVec 32) (s : State) :
    exec (.dfcBaseWrite req chain data) s = execDfcBaseWrite req chain data s := rfl
@[simp] theorem exec_dfcOutput (chain : Fin 32) (xs : List (BitVec 32)) (clip : Bool) (s : State) :
    exec (.dfcOutput chain xs clip) s = execDfcOutput chain xs clip s := rfl
@[simp] theorem exec_grdDecision (monitor : Fin 312) (points : List (BitVec 16)) (s : State) :
    exec (.grdDecision monitor points) s = execGrdDecision monitor points s := rfl
@[simp] theorem exec_grdRawDecision (monitor : Fin 312) (point : BitVec 16) (s : State) :
    exec (.grdRawDecision monitor point) s = execGrdRawDecision monitor point s := rfl
@[simp] theorem exec_grdIlim (ch : Fin 256) (s : State) :
    exec (.grdIlim ch) s = execGrdIlim ch s := rfl
@[simp] theorem exec_grdMtrip (word : Fin 8) (mask : BitVec 32) (s : State) :
    exec (.grdMtrip word mask) s = execGrdMtrip word mask s := rfl
@[simp] theorem exec_grdRelease (word : Fin 8) (mask unfit : BitVec 32) (s : State) :
    exec (.grdRelease word mask unfit) s = execGrdRelease word mask unfit s := rfl
@[simp] theorem exec_grdDsClear (monitor : Fin 312) (s : State) :
    exec (.grdDsClear monitor) s = execGrdDsClear monitor s := rfl
@[simp] theorem exec_grdThrWrite (req : Req) (monitor : Fin 312) (data : BitVec 32) (s : State) :
    exec (.grdThrWrite req monitor data) s = execGrdThrWrite req monitor data s := rfl
@[simp] theorem exec_grdThrSettled (monitor : Fin 312) (s : State) :
    exec (.grdThrSettled monitor) s = execGrdThrSettled monitor s := rfl
@[simp] theorem exec_grdModeWrite (req : Req) (monitor : Fin 312) (data : BitVec 32) (s : State) :
    exec (.grdModeWrite req monitor data) s = execGrdModeWrite req monitor data s := rfl
@[simp] theorem exec_grdModeSettled (monitor : Fin 312) (s : State) :
    exec (.grdModeSettled monitor) s = execGrdModeSettled monitor s := rfl
@[simp] theorem exec_grdTwin (monitor : Fin 312) (s : State) :
    exec (.grdTwin monitor) s = execGrdTwin monitor s := rfl
@[simp] theorem exec_grdPTick (points : List (BitVec 16)) (s : State) :
    exec (.grdPTick points) s = execGrdPTick points s := rfl
@[simp] theorem exec_lbTransaction (port : Fin 4) (rx : BitVec 40) (s : State) :
    exec (.lbTransaction port rx) s = execLbTransaction port rx s := rfl
@[simp] theorem exec_lbHostTxWrite (port : Fin 4) (data : BitVec 32) (s : State) :
    exec (.lbHostTxWrite port data) s = execLbHostTxWrite port data s := rfl
@[simp] theorem exec_lbTake (req : Req) (port : Fin 4) (s : State) :
    exec (.lbTake req port) s = execLbTake req port s := rfl
@[simp] theorem exec_lbRelease (req : Req) (port : Fin 4) (s : State) :
    exec (.lbRelease req port) s = execLbRelease req port s := rfl
@[simp] theorem exec_lbEnable (req : Req) (port : Fin 4) (data : BitVec 32) (s : State) :
    exec (.lbEnable req port data) s = execLbEnable req port data s := rfl
@[simp] theorem exec_loopEvaluate (loop : Fin 64) (s : State) :
    exec (.loopEvaluate loop) s = execLoopEvaluate loop s := rfl
@[simp] theorem exec_thermalFrame (tile : Fin 8) (ptile : BitVec 32) (s : State) :
    exec (.thermalFrame tile ptile) s = execThermalFrame tile ptile s := rfl
@[simp] theorem exec_tempSettled (s : State) :
    exec (.tempSettled) s = execTempSettled s := rfl
@[simp] theorem exec_loopTake (req : Req) (loop : Fin 64) (s : State) :
    exec (.loopTake req loop) s = execLoopTake req loop s := rfl
@[simp] theorem exec_loopRelease (req : Req) (loop : Fin 64) (s : State) :
    exec (.loopRelease req loop) s = execLoopRelease req loop s := rfl
@[simp] theorem exec_loopModeWrite (req : Req) (loop : Fin 64) (mode : Fin 4) (s : State) :
    exec (.loopModeWrite req loop mode) s = execLoopModeWrite req loop mode s := rfl
@[simp] theorem exec_loopApply (req : Req) (loop : Fin 64) (bumpless : Bool) (s : State) :
    exec (.loopApply req loop bumpless) s = execLoopApply req loop bumpless s := rfl
@[simp] theorem exec_calReqTiming (elem : Fin 4) (target : Fin 256) (s : State) :
    exec (.calReqTiming elem target) s = execCalReqTiming elem target s := rfl
@[simp] theorem exec_calReqDc (elem : Fin 4) (target : Fin 256) (s : State) :
    exec (.calReqDc elem target) s = execCalReqDc elem target s := rfl
@[simp] theorem exec_calReqBoth (elem : Fin 4) (target : Fin 256) (s : State) :
    exec (.calReqBoth elem target) s = execCalReqBoth elem target s := rfl
@[simp] theorem exec_calReqGraft (elem : Fin 4) (target : Fin 256) (s : State) :
    exec (.calReqGraft elem target) s = execCalReqGraft elem target s := rfl
@[simp] theorem exec_calReqTile (elem : Fin 4) (target : Fin 256) (s : State) :
    exec (.calReqTile elem target) s = execCalReqTile elem target s := rfl
@[simp] theorem exec_calReqPmu (elem : Fin 4) (target : Fin 256) (s : State) :
    exec (.calReqPmu elem target) s = execCalReqPmu elem target s := rfl
@[simp] theorem exec_calEntryStart (tile : Fin 8) (s : State) :
    exec (.calEntryStart tile) s = execCalEntryStart tile s := rfl
@[simp] theorem exec_calLate (kind : Fin 8) (target : Fin 256) (s : State) :
    exec (.calLate kind target) s = execCalLate kind target s := rfl
@[simp] theorem exec_calEnd (kind : Fin 8) (target : Fin 256) (range : Bool) (cells : BitVec 48) (cmp : BitVec 4) (seg : BitVec 27)
    (vref : BitVec 16) (s : State) :
    exec (.calEnd kind target range cells cmp seg vref) s = execCalEnd kind target range cells cmp seg vref s := rfl
@[simp] theorem exec_graftEnd (ch : Fin 256) (result : Fin 5) (cells : BitVec 48) (cmp : BitVec 4) (seg : BitVec 27) (vref : BitVec 16)
    (s : State) :
    exec (.graftEnd ch result cells cmp seg vref) s = execGraftEnd ch result cells cmp seg vref s := rfl
@[simp] theorem exec_rscLockstep (standby : Bool) (s : State) :
    exec (.rscLockstep standby) s = execRscLockstep standby s := rfl
@[simp] theorem exec_rscWdogKick (req : Req) (s : State) :
    exec (.rscWdogKick req) s = execRscWdogKick req s := rfl
@[simp] theorem exec_rscWdogExpiry (s : State) :
    exec (.rscWdogExpiry) s = execRscWdogExpiry s := rfl
@[simp] theorem exec_plotWrite (req : Req) (core : Fin 16) (standby : Bool) (plot : Fin 8) (data : BitVec 32) (s : State) :
    exec (.plotWrite req core standby plot data) s = execPlotWrite req core standby plot data s := rfl
@[simp] theorem exec_plotAccessFault (core : Fin 16) (kind : Access) (addr : BitVec 40) (bytes : Fin 65) (pc : BitVec 64) (s : State) :
    exec (.plotAccessFault core kind addr bytes pc) s = execPlotAccessFault core kind addr bytes pc s := rfl
@[simp] theorem exec_interruptPending (core : Fin 17) (input : Fin 336) (s : State) :
    exec (.interruptPending core input) s = execInterruptPending core input s := rfl
@[simp] theorem exec_interruptClaim (core : Fin 17) (s : State) :
    exec (.interruptClaim core) s = execInterruptClaim core s := rfl
@[simp] theorem exec_interruptComplete (core : Fin 17) (value : BitVec 32) (s : State) :
    exec (.interruptComplete core value) s = execInterruptComplete core value s := rfl
@[simp] theorem exec_doorbell (req : Req) (core : Fin 16) (data : BitVec 32) (s : State) :
    exec (.doorbell req core data) s = execDoorbell req core data s := rfl
@[simp] theorem exec_fastEntryPush (core : Fin 17) (x : List (BitVec 64)) (mepc mcause mtval mstatus : BitVec 64) (s : State) :
    exec (.fastEntryPush core x mepc mcause mtval mstatus) s = execFastEntryPush core x mepc mcause mtval mstatus s := rfl
@[simp] theorem exec_mretRestore (core : Fin 17) (x : List (BitVec 64)) (mepc mcause mtval mstatus : BitVec 64) (s : State) :
    exec (.mretRestore core x mepc mcause mtval mstatus) s = execMretRestore core x mepc mcause mtval mstatus s := rfl
@[simp] theorem exec_wiltedCaptureDone (core : Fin 16) (s : State) :
    exec (.wiltedCaptureDone core) s = execWiltedCaptureDone core s := rfl
@[simp] theorem exec_scionRestartDone (core : Fin 16) (s : State) :
    exec (.scionRestartDone core) s = execScionRestartDone core s := rfl
@[simp] theorem exec_scnRestart (req : Req) (core : Fin 16) (s : State) :
    exec (.scnRestart req core) s = execScnRestart req core s := rfl
@[simp] theorem exec_fwStage (req : Req) (tag : BitVec 16) (s : State) :
    exec (.fwStage req tag) s = execFwStage req tag s := rfl
@[simp] theorem exec_fwSgraft (req : Req) (tag : BitVec 16) (s : State) :
    exec (.fwSgraft req tag) s = execFwSgraft req tag s := rfl
@[simp] theorem exec_fwHandover (req : Req) (tag : BitVec 16) (s : State) :
    exec (.fwHandover req tag) s = execFwHandover req tag s := rfl
@[simp] theorem exec_fwKeyrec (req : Req) (tag : BitVec 16) (s : State) :
    exec (.fwKeyrec req tag) s = execFwKeyrec req tag s := rfl
@[simp] theorem exec_fwSrestart (req : Req) (tag : BitVec 16) (s : State) :
    exec (.fwSrestart req tag) s = execFwSrestart req tag s := rfl
@[simp] theorem exec_fwQuery (req : Req) (tag : BitVec 16) (s : State) :
    exec (.fwQuery req tag) s = execFwQuery req tag s := rfl
@[simp] theorem exec_fwDone (s : State) :
    exec (.fwDone) s = execFwDone s := rfl
@[simp] theorem exec_scnDrainLimit (core : Fin 16) (s : State) :
    exec (.scnDrainLimit core) s = execScnDrainLimit core s := rfl
@[simp] theorem exec_scnGraftSwitch (core : Fin 16) (failed : Bool) (s : State) :
    exec (.scnGraftSwitch core failed) s = execScnGraftSwitch core failed s := rfl
@[simp] theorem exec_handoverStandbyReady (s : State) :
    exec (.handoverStandbyReady) s = execHandoverStandbyReady s := rfl
@[simp] theorem exec_handoverCommit (s : State) :
    exec (.handoverCommit) s = execHandoverCommit s := rfl
@[simp] theorem exec_tskArm (task : Fin 1048576) (s : State) :
    exec (.tskArm task) s = execTskArm task s := rfl
@[simp] theorem exec_tskDec (task : Fin 1048576) (s : State) :
    exec (.tskDec task) s = execTskDec task s := rfl
@[simp] theorem exec_tskFree (task : Fin 1048576) (s : State) :
    exec (.tskFree task) s = execTskFree task s := rfl
@[simp] theorem exec_tskReq (core : Fin 16) (s : State) :
    exec (.tskReq core) s = execTskReq core s := rfl
@[simp] theorem exec_taskDeliver (core : Fin 16) (s : State) :
    exec (.taskDeliver core) s = execTaskDeliver core s := rfl
@[simp] theorem exec_taskDoneOk (core : Fin 16) (task : Fin 1048576) (s : State) :
    exec (.taskDoneOk core task) s = execTaskDoneOk core task s := rfl
@[simp] theorem exec_taskRetry (core : Fin 16) (task : Fin 1048576) (s : State) :
    exec (.taskRetry core task) s = execTaskRetry core task s := rfl
@[simp] theorem exec_taskDoneFail (core : Fin 16) (task : Fin 1048576) (s : State) :
    exec (.taskDoneFail core task) s = execTaskDoneFail core task s := rfl
@[simp] theorem exec_taskOverflowMove (s : State) :
    exec (.taskOverflowMove) s = execTaskOverflowMove s := rfl
@[simp] theorem exec_queueOpen (queue : Fin 65536) (limit : BitVec 25) (s : State) :
    exec (.queueOpen queue limit) s = execQueueOpen queue limit s := rfl
@[simp] theorem exec_queueClose (queue : Fin 65536) (s : State) :
    exec (.queueClose queue) s = execQueueClose queue s := rfl
@[simp] theorem exec_queueFlush (queue : Fin 65536) (s : State) :
    exec (.queueFlush queue) s = execQueueFlush queue s := rfl
@[simp] theorem exec_queueEnq (req : Req) (queue : Fin 65536) (len : BitVec 10) (s : State) :
    exec (.queueEnq req queue len) s = execQueueEnq req queue len s := rfl
@[simp] theorem exec_queueDeq (req : Req) (queue : Fin 65536) (bad : Bool) (s : State) :
    exec (.queueDeq req queue bad) s = execQueueDeq req queue bad s := rfl
@[simp] theorem exec_hostRingBind (ring : Fin 256) (msien : Bool) (size : BitVec 6) (queue : Fin 65536) (s : State) :
    exec (.hostRingBind ring msien size queue) s = execHostRingBind ring msien size queue s := rfl
@[simp] theorem exec_hostRingUnbind (ring : Fin 256) (msien : Bool) (size : BitVec 6) (queue : Fin 65536) (s : State) :
    exec (.hostRingUnbind ring msien size queue) s = execHostRingUnbind ring msien size queue s := rfl
@[simp] theorem exec_hostRingConsWrite (ring : Fin 256) (hi : BitVec 32) (s : State) :
    exec (.hostRingConsWrite ring hi) s = execHostRingConsWrite ring hi s := rfl
@[simp] theorem exec_hostRingDeliver (ring : Fin 256) (count : Fin 1024) (bad : Bool) (s : State) :
    exec (.hostRingDeliver ring count bad) s = execHostRingDeliver ring count bad s := rfl
@[simp] theorem exec_hbmFence (ports : BitVec 8) (s : State) :
    exec (.hbmFence ports) s = execHbmFence ports s := rfl
@[simp] theorem exec_fenceDone (s : State) :
    exec (.fenceDone) s = execFenceDone s := rfl
@[simp] theorem exec_retrainPauseStart (ch : Fin 32) (slots : Fin 3) (s : State) :
    exec (.retrainPauseStart ch slots) s = execRetrainPauseStart ch slots s := rfl
@[simp] theorem exec_retrainPauseEnd (ch : Fin 32) (failed : Bool) (s : State) :
    exec (.retrainPauseEnd ch failed) s = execRetrainPauseEnd ch failed s := rfl
@[simp] theorem exec_hbmRefresh (ch : Fin 32) (s : State) :
    exec (.hbmRefresh ch) s = execHbmRefresh ch s := rfl
@[simp] theorem exec_hbmTempRead (stack : Fin 2) (temp : BitVec 8) (s : State) :
    exec (.hbmTempRead stack temp) s = execHbmTempRead stack temp s := rfl
@[simp] theorem exec_hbmScrub (granule : BitVec 30) (result : Fin 3) (s : State) :
    exec (.hbmScrub granule result) s = execHbmScrub granule result s := rfl
@[simp] theorem exec_hbcRetire (ch : Fin 32) (s : State) :
    exec (.hbcRetire ch) s = execHbcRetire ch s := rfl
@[simp] theorem exec_retirementCopyDone (s : State) :
    exec (.retirementCopyDone) s = execRetirementCopyDone s := rfl
@[simp] theorem exec_hbcInserviceSet (req : Req) (trained : Bool) (s : State) :
    exec (.hbcInserviceSet req trained) s = execHbcInserviceSet req trained s := rfl
@[simp] theorem exec_linkDetect (port : Fin 4) (s : State) :
    exec (.linkDetect port) s = execLinkDetect port s := rfl
@[simp] theorem exec_linkTrainDone (port : Fin 4) (lanes : BitVec 4) (lmap : BitVec 8) (pol : BitVec 4) (taps : BitVec 44)
    (rx : BitVec 68) (s : State) :
    exec (.linkTrainDone port lanes lmap pol taps rx) s = execLinkTrainDone port lanes lmap pol taps rx s := rfl
@[simp] theorem exec_linkRetrain (port : Fin 4) (partner : Bool) (dev : BitVec 13) (token : BitVec 16) (s : State) :
    exec (.linkRetrain port partner dev token) s = execLinkRetrain port partner dev token s := rfl
@[simp] theorem exec_linkLockLoss (port lane : Fin 4) (errs : BitVec 32) (s : State) :
    exec (.linkLockLoss port lane errs) s = execLinkLockLoss port lane errs s := rfl
@[simp] theorem exec_flitReceive (port : Fin 4) (flit : BitVec 512) (s : State) :
    exec (.flitReceive port flit) s = execFlitReceive port flit s := rfl
@[simp] theorem exec_nakReceive (port : Fin 4) (ack : BitVec 12) (s : State) :
    exec (.nakReceive port ack) s = execNakReceive port ack s := rfl
@[simp] theorem exec_widthProposalReceive (port : Fin 4) (refusal : Bool) (lanes : BitVec 4) (switch : BitVec 12) (dev : BitVec 13)
    (token : BitVec 16) (s : State) :
    exec (.widthProposalReceive port refusal lanes switch dev token) s = execWidthProposalReceive port refusal lanes switch dev token s := rfl
@[simp] theorem exec_laneDrop (port lane : Fin 4) (lanes : BitVec 4) (errs : BitVec 32) (s : State) :
    exec (.laneDrop port lane lanes errs) s = execLaneDrop port lane lanes errs s := rfl
@[simp] theorem exec_laneRestore (port lane : Fin 4) (lanes : BitVec 4) (s : State) :
    exec (.laneRestore port lane lanes) s = execLaneRestore port lane lanes s := rfl
@[simp] theorem exec_fallowRequest (port : Fin 4) (partner leave : Bool) (s : State) :
    exec (.fallowRequest port partner leave) s = execFallowRequest port partner leave s := rfl
@[simp] theorem exec_fallowWake (port : Fin 4) (s : State) :
    exec (.fallowWake port) s = execFallowWake port s := rfl
@[simp] theorem exec_squelchWake (port : Fin 4) (s : State) :
    exec (.squelchWake port) s = execSquelchWake port s := rfl
@[simp] theorem exec_fallowExitTimeout (port : Fin 4) (s : State) :
    exec (.fallowExitTimeout port) s = execFallowExitTimeout port s := rfl
@[simp] theorem exec_portTest (port : Fin 4) (test : Bool) (s : State) :
    exec (.portTest port test) s = execPortTest port test s := rfl
@[simp] theorem exec_prbsCtrlWrite (port lane : Fin 4) (data : BitVec 32) (s : State) :
    exec (.prbsCtrlWrite port lane data) s = execPrbsCtrlWrite port lane data s := rfl
@[simp] theorem exec_txeqWrite (port lane : Fin 4) (data : BitVec 32) (s : State) :
    exec (.txeqWrite port lane data) s = execTxeqWrite port lane data s := rfl
@[simp] theorem exec_trellisBlockReceive (port : Fin 4) (first second : BitVec 256) (s : State) :
    exec (.trellisBlockReceive port first second) s = execTrellisBlockReceive port first second s := rfl
@[simp] theorem exec_rraRead (req : Req) (s : State) :
    exec (.rraRead req) s = execRraRead req s := rfl
@[simp] theorem exec_rraWrite (req : Req) (s : State) :
    exec (.rraWrite req) s = execRraWrite req s := rfl
@[simp] theorem exec_rraBcast (req : Req) (s : State) :
    exec (.rraBcast req) s = execRraBcast req s := rfl
@[simp] theorem exec_rraServe (port op : Fin 4) (addr data : BitVec 32) (s : State) :
    exec (.rraServe port op addr data) s = execRraServe port op addr data s := rfl
@[simp] theorem exec_rraResponse (req : Req) (refused : Bool) (data : BitVec 32) (size : BitVec 14) (s : State) :
    exec (.rraResponse req refused data size) s = execRraResponse req refused data size s := rfl
@[simp] theorem exec_rraTimeout (req : Req) (count : BitVec 14) (s : State) :
    exec (.rraTimeout req count) s = execRraTimeout req count s := rfl
@[simp] theorem exec_pcieDown (s : State) :
    exec (.pcieDown) s = execPcieDown s := rfl
@[simp] theorem exec_pcieL12Exit (d3hot : Bool) (s : State) :
    exec (.pcieL12Exit d3hot) s = execPcieL12Exit d3hot s := rfl
@[simp] theorem exec_wtmSet (s : State) :
    exec (.wtmSet) s = execWtmSet s := rfl
@[simp] theorem exec_wtmAdj (data : BitVec 32) (s : State) :
    exec (.wtmAdj data) s = execWtmAdj data s := rfl
@[simp] theorem exec_wtmIncWrite (data : BitVec 32) (s : State) :
    exec (.wtmIncWrite data) s = execWtmIncWrite data s := rfl
@[simp] theorem exec_wtmNowLatch (req : Req) (s : State) :
    exec (.wtmNowLatch req) s = execWtmNowLatch req s := rfl
@[simp] theorem exec_timeSend (s : State) :
    exec (.timeSend) s = execTimeSend s := rfl
@[simp] theorem exec_timeReceive (seq : BitVec 16) (sec : BitVec 48) (ns : BitVec 32) (frac : BitVec 16) (corr : BitVec 48)
    (residence : BitVec 16) (s : State) :
    exec (.timeReceive seq sec ns frac corr residence) s = execTimeReceive seq sec ns frac corr residence s := rfl
@[simp] theorem exec_wtmSyncTimeout (s : State) :
    exec (.wtmSyncTimeout) s = execWtmSyncTimeout s := rfl
@[simp] theorem exec_extTrigStamp (input : Fin 8) (rising : Bool) (sixteenths : Fin 160) (s : State) :
    exec (.extTrigStamp input rising sixteenths) s = execExtTrigStamp input rising sixteenths s := rfl
@[simp] theorem exec_eventOccurrence (s : State) :
    exec (.eventOccurrence) s = execEventOccurrence s := rfl
@[simp] theorem exec_fclSelf (agree : Bool) (s : State) :
    exec (.fclSelf agree) s = execFclSelf agree s := rfl
@[simp] theorem exec_rampWrite (port : Fin 4) (entry : Fin 32) (s : State) :
    exec (.rampWrite port entry) s = execRampWrite port entry s := rfl
@[simp] theorem exec_fclClr (req : Req) (s : State) :
    exec (.fclClr req) s = execFclClr req s := rfl
@[simp] theorem exec_fclPromoClear (word : Fin 10) (mask : BitVec 32) (s : State) :
    exec (.fclPromoClear word mask) s = execFclPromoClear word mask s := rfl
@[simp] theorem exec_fclSwevt (data : BitVec 32) (s : State) :
    exec (.fclSwevt data) s = execFclSwevt data s := rfl
@[simp] theorem exec_evrRscwSrc (req : Req) (data : BitVec 32) (s : State) :
    exec (.evrRscwSrc req data) s = execEvrRscwSrc req data s := rfl
@[simp] theorem exec_evrRidxWrite (req : Req) (index : BitVec 32) (s : State) :
    exec (.evrRidxWrite req index) s = execEvrRidxWrite req index s := rfl
@[simp] theorem exec_evrSidxWrite (req : Req) (set : Fin 2) (entry : Fin 4096) (s : State) :
    exec (.evrSidxWrite req set entry) s = execEvrSidxWrite req set entry s := rfl
@[simp] theorem exec_evrSetDiscard (req : Req) (set : Fin 2) (s : State) :
    exec (.evrSetDiscard req set) s = execEvrSetDiscard req set s := rfl
@[simp] theorem exec_warmrst (req : Req) (s : State) :
    exec (.warmrst req) s = execWarmrst req s := rfl
@[simp] theorem exec_frostNLow (s : State) :
    exec (.frostNLow) s = execFrostNLow s := rfl
@[simp] theorem exec_frzHard (s : State) :
    exec (.frzHard) s = execFrzHard s := rfl
@[simp] theorem exec_frzSoft (s : State) :
    exec (.frzSoft) s = execFrzSoft s := rfl
@[simp] theorem exec_frzArmat (s : State) :
    exec (.frzArmat) s = execFrzArmat s := rfl
@[simp] theorem exec_frzDisarm (s : State) :
    exec (.frzDisarm) s = execFrzDisarm s := rfl
@[simp] theorem exec_frzThaw (s : State) :
    exec (.frzThaw) s = execFrzThaw s := rfl
@[simp] theorem exec_frzRead (s : State) :
    exec (.frzRead) s = execFrzRead s := rfl
@[simp] theorem exec_jtagFrzHard (s : State) :
    exec (.jtagFrzHard) s = execJtagFrzHard s := rfl
@[simp] theorem exec_jtagFrzRead (s : State) :
    exec (.jtagFrzRead) s = execJtagFrzRead s := rfl
@[simp] theorem exec_frostClockStop (s : State) :
    exec (.frostClockStop) s = execFrostClockStop s := rfl
@[simp] theorem exec_frostSoftBoundary (s : State) :
    exec (.frostSoftBoundary) s = execFrostSoftBoundary s := rfl
@[simp] theorem exec_frostReadDone (s : State) :
    exec (.frostReadDone) s = execFrostReadDone s := rfl
@[simp] theorem exec_frzMapidxWrite (index : BitVec 32) (s : State) :
    exec (.frzMapidxWrite index) s = execFrzMapidxWrite index s := rfl
@[simp] theorem exec_pmgDormant (req : Req) (s : State) :
    exec (.pmgDormant req) s = execPmgDormant req s := rfl
@[simp] theorem exec_pmgWake (req : Req) (s : State) :
    exec (.pmgWake req) s = execPmgWake req s := rfl
@[simp] theorem exec_pmgBudding (req : Req) (s : State) :
    exec (.pmgBudding req) s = execPmgBudding req s := rfl
@[simp] theorem exec_pmgBloom (req : Req) (s : State) :
    exec (.pmgBloom req) s = execPmgBloom req s := rfl
@[simp] theorem exec_sinkDone (s : State) :
    exec (.sinkDone) s = execSinkDone s := rfl
@[simp] theorem exec_wakeDone (s : State) :
    exec (.wakeDone) s = execWakeDone s := rfl
@[simp] theorem exec_bloomingDone (s : State) :
    exec (.bloomingDone) s = execBloomingDone s := rfl
@[simp] theorem exec_bloomIdleTimeout (s : State) :
    exec (.bloomIdleTimeout) s = execBloomIdleTimeout s := rfl
@[simp] theorem exec_pmgDomOffWrite (req : Req) (word : Fin 2) (data : BitVec 32) (s : State) :
    exec (.pmgDomOffWrite req word data) s = execPmgDomOffWrite req word data s := rfl
@[simp] theorem exec_powerSlot (meas : BitVec 20) (s : State) :
    exec (.powerSlot meas) s = execPowerSlot meas s := rfl
@[simp] theorem exec_tempSample (die : Fin 9) (fault : Bool) (temp : BitVec 16) (s : State) :
    exec (.tempSample die fault temp) s = execTempSample die fault temp s := rfl
@[simp] theorem exec_thermTrip (die : Fin 9) (s : State) :
    exec (.thermTrip die) s = execThermTrip die s := rfl
@[simp] theorem exec_ovenOkRise (s : State) :
    exec (.ovenOkRise) s = execOvenOkRise s := rfl
@[simp] theorem exec_coarseLoopUnlock (s : State) :
    exec (.coarseLoopUnlock) s = execCoarseLoopUnlock s := rfl
@[simp] theorem exec_coarseLoopLock (s : State) :
    exec (.coarseLoopLock) s = execCoarseLoopLock s := rfl
@[simp] theorem exec_grdInWindow (monitor : Fin 312) (points : List (BitVec 16)) (s : State) :
    exec (.grdInWindow monitor points) s = execGrdInWindow monitor points s := rfl
@[simp] theorem exec_pcieLinkUp (flit reversed : Bool) (rate : Fin 8) (width : Fin 16) (pol : BitVec 8) (s : State) :
    exec (.pcieLinkUp flit reversed rate width pol) s = execPcieLinkUp flit reversed rate width pol s := rfl
@[simp] theorem exec_pcieL12Entry (d3hot : Bool) (s : State) :
    exec (.pcieL12Entry d3hot) s = execPcieL12Entry d3hot s := rfl
@[simp] theorem exec_prbsCheckerSync (port lane : Fin 4) (nbits : BitVec 48) (errs : BitVec 32) (s : State) :
    exec (.prbsCheckerSync port lane nbits errs) s = execPrbsCheckerSync port lane nbits errs s := rfl
@[simp] theorem exec_sgraftLoadDone (s : State) :
    exec (.sgraftLoadDone) s = execSgraftLoadDone s := rfl
@[simp] theorem exec_refreshManagementRequest (ch : Fin 32) (s : State) :
    exec (.refreshManagementRequest ch) s = execRefreshManagementRequest ch s := rfl

end Sys2Proof.Machine
end

