-- ==== Sys2Proof/Laws/Map.lean ====
section
/-! SUPPORT. The laws of the sparse maps: what an entry reads as after a write there and elsewhere, and that a write keeps the
canonical form. -/

namespace Sys2Proof.Machine

variable {α : Type}

@[simp] theorem Assoc.get_insert_same (d : α) (m : List (Nat × α)) (k : Nat) (v : α) :
    Assoc.get d (Assoc.insert m k v) k = v := by
  induction m with
  | nil => simp [Assoc.insert, Assoc.get]
  | cons e m ih =>
    simp only [Assoc.insert]
    split
    · simp [Assoc.get]
    · split
      · simp [Assoc.get]
      · simp [Assoc.get, *]

theorem Assoc.get_insert_ne (d : α) (m : List (Nat × α)) {k j : Nat} (v : α) (h : j ≠ k) :
    Assoc.get d (Assoc.insert m k v) j = Assoc.get d m j := by
  induction m with
  | nil => simp [Assoc.insert, Assoc.get, h]
  | cons e m ih =>
    simp only [Assoc.insert]
    split
    · simp [Assoc.get, h]
    · split
      · rename_i hk
        have : j ≠ e.1 := hk ▸ h
        simp [Assoc.get, h, this]
      · simp only [Assoc.get, ih]

@[simp] theorem Assoc.get_erase_same (d : α) (m : List (Nat × α)) (k : Nat) :
    Assoc.get d (Assoc.erase m k) k = d := by
  induction m with
  | nil => simp [Assoc.erase, Assoc.get]
  | cons e m ih =>
    simp only [Assoc.erase]
    split
    · exact ih
    · simp [Assoc.get, *]

theorem Assoc.get_erase_ne (d : α) (m : List (Nat × α)) {k j : Nat} (h : j ≠ k) :
    Assoc.get d (Assoc.erase m k) j = Assoc.get d m j := by
  induction m with
  | nil => simp [Assoc.erase]
  | cons e m ih =>
    simp only [Assoc.erase]
    split
    · rename_i hk
      have : j ≠ e.1 := hk ▸ h
      simp [Assoc.get, this, ih]
    · simp only [Assoc.get, ih]

@[simp] theorem Assoc.get_set_same [DecidableEq α] (d : α) (m : List (Nat × α)) (k : Nat) (v : α) :
    Assoc.get d (Assoc.set d m k v) k = v := by
  unfold Assoc.set
  split
  · simp [*]
  · simp

theorem Assoc.get_set_ne [DecidableEq α] (d d' : α) (m : List (Nat × α)) {k j : Nat} (v : α) (h : j ≠ k) :
    Assoc.get d (Assoc.set d' m k v) j = Assoc.get d m j := by
  unfold Assoc.set
  split
  · exact Assoc.get_erase_ne d m h
  · exact Assoc.get_insert_ne d m v h

/-- The canonical form, entry by entry. -/
theorem Assoc.wf_iff [DecidableEq α] (d : α) (m : List (Nat × α)) :
    Assoc.wf d m = true ↔ m.Pairwise (fun a b => a.1 < b.1) ∧ ∀ e ∈ m, e.2 ≠ d := by
  have hs : ∀ m : List (Nat × α), Assoc.sorted m = true ↔ m.Pairwise (fun a b => a.1 < b.1) := by
    intro m
    induction m with
    | nil => simp [Assoc.sorted]
    | cons e m ih =>
      cases m with
      | nil => simp [Assoc.sorted]
      | cons f m =>
        simp only [Assoc.sorted, Bool.and_eq_true, decide_eq_true_eq, ih, List.pairwise_cons]
        constructor
        · rintro ⟨h, h1, h2⟩
          refine ⟨?_, h1, h2⟩
          intro a ha
          rcases List.mem_cons.mp ha with rfl | ha
          · exact h
          · exact Nat.lt_trans h (h1 a ha)
        · rintro ⟨h, h1, h2⟩
          exact ⟨h f List.mem_cons_self, h1, h2⟩
  simp [Assoc.wf, hs, List.all_eq_true]

theorem Assoc.mem_insert {m : List (Nat × α)} {k : Nat} {v : α} {e : Nat × α}
    (h : e ∈ Assoc.insert m k v) : e = (k, v) ∨ e ∈ m := by
  induction m with
  | nil => simpa [Assoc.insert] using h
  | cons f m ih =>
    simp only [Assoc.insert] at h
    split at h
    · simpa using h
    · split at h
      · rcases List.mem_cons.mp h with h | h
        · exact .inl h
        · exact .inr (List.mem_cons_of_mem _ h)
      · rcases List.mem_cons.mp h with h | h
        · exact .inr (h ▸ List.mem_cons_self)
        · exact (ih h).imp_right (List.mem_cons_of_mem _)

theorem Assoc.mem_erase {m : List (Nat × α)} {k : Nat} {e : Nat × α} (h : e ∈ Assoc.erase m k) : e ∈ m := by
  induction m with
  | nil => simp [Assoc.erase] at h
  | cons f m ih =>
    simp only [Assoc.erase] at h
    split at h
    · exact List.mem_cons_of_mem _ (ih h)
    · rcases List.mem_cons.mp h with h | h
      · exact h ▸ List.mem_cons_self
      · exact List.mem_cons_of_mem _ (ih h)

theorem Assoc.pairwise_insert {m : List (Nat × α)} (k : Nat) (v : α)
    (h : m.Pairwise (fun a b => a.1 < b.1)) : (Assoc.insert m k v).Pairwise (fun a b => a.1 < b.1) := by
  induction m with
  | nil => simp [Assoc.insert]
  | cons f m ih =>
    obtain ⟨h1, h2⟩ := List.pairwise_cons.mp h
    simp only [Assoc.insert]
    split
    · rename_i hk
      refine List.pairwise_cons.mpr ⟨?_, h⟩
      intro a ha
      rcases List.mem_cons.mp ha with rfl | ha
      · exact hk
      · exact Nat.lt_trans hk (h1 a ha)
    · split
      · rename_i hk
        exact List.pairwise_cons.mpr ⟨fun a ha => hk ▸ h1 a ha, h2⟩
      · refine List.pairwise_cons.mpr ⟨?_, ih h2⟩
        intro a ha
        rcases Assoc.mem_insert ha with rfl | ha
        · simp only []; omega
        · exact h1 a ha

theorem Assoc.pairwise_erase {m : List (Nat × α)} (k : Nat)
    (h : m.Pairwise (fun a b => a.1 < b.1)) : (Assoc.erase m k).Pairwise (fun a b => a.1 < b.1) := by
  induction m with
  | nil => simp [Assoc.erase]
  | cons f m ih =>
    obtain ⟨h1, h2⟩ := List.pairwise_cons.mp h
    simp only [Assoc.erase]
    split
    · exact ih h2
    · exact List.pairwise_cons.mpr ⟨fun a ha => h1 a (Assoc.mem_erase ha), ih h2⟩

/-- A write keeps the canonical form. -/
theorem Assoc.wf_set [DecidableEq α] (d : α) (m : List (Nat × α)) (k : Nat) (v : α) (h : Assoc.wf d m = true) :
    Assoc.wf d (Assoc.set d m k v) = true := by
  obtain ⟨h1, h2⟩ := (Assoc.wf_iff d m).mp h
  rw [Assoc.wf_iff]
  unfold Assoc.set
  split
  · exact ⟨Assoc.pairwise_erase k h1, fun e he => h2 e (Assoc.mem_erase he)⟩
  · rename_i hv
    refine ⟨Assoc.pairwise_insert k v h1, fun e he => ?_⟩
    rcases Assoc.mem_insert he with rfl | he
    · exact hv
    · exact h2 e he

end Sys2Proof.Machine
end

