-- ==== Sys2Proof/Laws/State.lean ====
section
/-! SUPPORT. What each named update of the state leaves in each of its components, one lemma per component per update, and what a
register field reads as after a write; the operations of Ops that are one update are stated as it. -/

namespace Sys2Proof.Machine

/-! ## put -/

@[simp] theorem State.put_pending (s : State) (f : Field) (v : Nat) : (s.put f v).pending = s.pending := rfl
@[simp] theorem State.put_shadow (s : State) (f : Field) (v : Nat) : (s.put f v).shadow = s.shadow := rfl
@[simp] theorem State.put_active (s : State) (f : Field) (v : Nat) : (s.put f v).active = s.active := rfl
@[simp] theorem State.put_latches (s : State) (f : Field) (v : Nat) : (s.put f v).latches = s.latches := rfl
@[simp] theorem State.put_raised (s : State) (f : Field) (v : Nat) : (s.put f v).raised = s.raised := rfl
@[simp] theorem State.put_tx (s : State) (f : Field) (v : Nat) : (s.put f v).tx = s.tx := rfl
@[simp] theorem State.put_hostOut (s : State) (f : Field) (v : Nat) : (s.put f v).hostOut = s.hostOut := rfl
@[simp] theorem State.put_freeCtr (s : State) (f : Field) (v : Nat) : (s.put f v).freeCtr = s.freeCtr := rfl
@[simp] theorem State.put_pins (s : State) (f : Field) (v : Nat) : (s.put f v).pins = s.pins := rfl
@[simp] theorem State.put_clk (s : State) (f : Field) (v : Nat) : (s.put f v).clk = s.clk := rfl
@[simp] theorem State.put_cmt (s : State) (f : Field) (v : Nat) : (s.put f v).cmt = s.cmt := rfl
@[simp] theorem State.put_seq (s : State) (f : Field) (v : Nat) : (s.put f v).seq = s.seq := rfl
@[simp] theorem State.put_fail (s : State) (f : Field) (v : Nat) : (s.put f v).fail = s.fail := rfl
@[simp] theorem State.put_seg (s : State) (f : Field) (v : Nat) : (s.put f v).seg = s.seg := rfl
@[simp] theorem State.put_apg (s : State) (f : Field) (v : Nat) : (s.put f v).apg = s.apg := rfl
@[simp] theorem State.put_land (s : State) (f : Field) (v : Nat) : (s.put f v).land = s.land := rfl
@[simp] theorem State.put_cap (s : State) (f : Field) (v : Nat) : (s.put f v).cap = s.cap := rfl
@[simp] theorem State.put_que (s : State) (f : Field) (v : Nat) : (s.put f v).que = s.que := rfl
@[simp] theorem State.put_hbc (s : State) (f : Field) (v : Nat) : (s.put f v).hbc = s.hbc := rfl
@[simp] theorem State.put_tiu (s : State) (f : Field) (v : Nat) : (s.put f v).tiu = s.tiu := rfl
@[simp] theorem State.put_grd (s : State) (f : Field) (v : Nat) : (s.put f v).grd = s.grd := rfl
@[simp] theorem State.put_cal (s : State) (f : Field) (v : Nat) : (s.put f v).cal = s.cal := rfl
@[simp] theorem State.put_pmu (s : State) (f : Field) (v : Nat) : (s.put f v).pmu = s.pmu := rfl
@[simp] theorem State.put_lnk (s : State) (f : Field) (v : Nat) : (s.put f v).lnk = s.lnk := rfl
@[simp] theorem State.put_pmg (s : State) (f : Field) (v : Nat) : (s.put f v).pmg = s.pmg := rfl
@[simp] theorem State.put_time (s : State) (f : Field) (v : Nat) : (s.put f v).time = s.time := rfl
@[simp] theorem State.put_fcl (s : State) (f : Field) (v : Nat) : (s.put f v).fcl = s.fcl := rfl
@[simp] theorem State.put_evr (s : State) (f : Field) (v : Nat) : (s.put f v).evr = s.evr := rfl
@[simp] theorem State.put_frz (s : State) (f : Field) (v : Nat) : (s.put f v).frz = s.frz := rfl
@[simp] theorem State.put_cle (s : State) (f : Field) (v : Nat) : (s.put f v).cle = s.cle := rfl
@[simp] theorem State.put_cores (s : State) (f : Field) (v : Nat) : (s.put f v).cores = s.cores := rfl
@[simp] theorem State.put_rsc (s : State) (f : Field) (v : Nat) : (s.put f v).rsc = s.rsc := rfl
@[simp] theorem State.put_mem (s : State) (f : Field) (v : Nat) : (s.put f v).mem = s.mem := rfl
@[simp] theorem State.put_poison (s : State) (f : Field) (v : Nat) : (s.put f v).poison = s.poison := rfl

/-! ## putShadow -/

@[simp] theorem State.putShadow_pending (s : State) (f : Field) (v : Nat) : (s.putShadow f v).pending = s.pending := rfl
@[simp] theorem State.putShadow_cells (s : State) (f : Field) (v : Nat) : (s.putShadow f v).cells = s.cells := rfl
@[simp] theorem State.putShadow_active (s : State) (f : Field) (v : Nat) : (s.putShadow f v).active = s.active := rfl
@[simp] theorem State.putShadow_latches (s : State) (f : Field) (v : Nat) : (s.putShadow f v).latches = s.latches := rfl
@[simp] theorem State.putShadow_raised (s : State) (f : Field) (v : Nat) : (s.putShadow f v).raised = s.raised := rfl
@[simp] theorem State.putShadow_tx (s : State) (f : Field) (v : Nat) : (s.putShadow f v).tx = s.tx := rfl
@[simp] theorem State.putShadow_hostOut (s : State) (f : Field) (v : Nat) : (s.putShadow f v).hostOut = s.hostOut := rfl
@[simp] theorem State.putShadow_freeCtr (s : State) (f : Field) (v : Nat) : (s.putShadow f v).freeCtr = s.freeCtr := rfl
@[simp] theorem State.putShadow_pins (s : State) (f : Field) (v : Nat) : (s.putShadow f v).pins = s.pins := rfl
@[simp] theorem State.putShadow_clk (s : State) (f : Field) (v : Nat) : (s.putShadow f v).clk = s.clk := rfl
@[simp] theorem State.putShadow_cmt (s : State) (f : Field) (v : Nat) : (s.putShadow f v).cmt = s.cmt := rfl
@[simp] theorem State.putShadow_seq (s : State) (f : Field) (v : Nat) : (s.putShadow f v).seq = s.seq := rfl
@[simp] theorem State.putShadow_fail (s : State) (f : Field) (v : Nat) : (s.putShadow f v).fail = s.fail := rfl
@[simp] theorem State.putShadow_seg (s : State) (f : Field) (v : Nat) : (s.putShadow f v).seg = s.seg := rfl
@[simp] theorem State.putShadow_apg (s : State) (f : Field) (v : Nat) : (s.putShadow f v).apg = s.apg := rfl
@[simp] theorem State.putShadow_land (s : State) (f : Field) (v : Nat) : (s.putShadow f v).land = s.land := rfl
@[simp] theorem State.putShadow_cap (s : State) (f : Field) (v : Nat) : (s.putShadow f v).cap = s.cap := rfl
@[simp] theorem State.putShadow_que (s : State) (f : Field) (v : Nat) : (s.putShadow f v).que = s.que := rfl
@[simp] theorem State.putShadow_hbc (s : State) (f : Field) (v : Nat) : (s.putShadow f v).hbc = s.hbc := rfl
@[simp] theorem State.putShadow_tiu (s : State) (f : Field) (v : Nat) : (s.putShadow f v).tiu = s.tiu := rfl
@[simp] theorem State.putShadow_grd (s : State) (f : Field) (v : Nat) : (s.putShadow f v).grd = s.grd := rfl
@[simp] theorem State.putShadow_cal (s : State) (f : Field) (v : Nat) : (s.putShadow f v).cal = s.cal := rfl
@[simp] theorem State.putShadow_pmu (s : State) (f : Field) (v : Nat) : (s.putShadow f v).pmu = s.pmu := rfl
@[simp] theorem State.putShadow_lnk (s : State) (f : Field) (v : Nat) : (s.putShadow f v).lnk = s.lnk := rfl
@[simp] theorem State.putShadow_pmg (s : State) (f : Field) (v : Nat) : (s.putShadow f v).pmg = s.pmg := rfl
@[simp] theorem State.putShadow_time (s : State) (f : Field) (v : Nat) : (s.putShadow f v).time = s.time := rfl
@[simp] theorem State.putShadow_fcl (s : State) (f : Field) (v : Nat) : (s.putShadow f v).fcl = s.fcl := rfl
@[simp] theorem State.putShadow_evr (s : State) (f : Field) (v : Nat) : (s.putShadow f v).evr = s.evr := rfl
@[simp] theorem State.putShadow_frz (s : State) (f : Field) (v : Nat) : (s.putShadow f v).frz = s.frz := rfl
@[simp] theorem State.putShadow_cle (s : State) (f : Field) (v : Nat) : (s.putShadow f v).cle = s.cle := rfl
@[simp] theorem State.putShadow_cores (s : State) (f : Field) (v : Nat) : (s.putShadow f v).cores = s.cores := rfl
@[simp] theorem State.putShadow_rsc (s : State) (f : Field) (v : Nat) : (s.putShadow f v).rsc = s.rsc := rfl
@[simp] theorem State.putShadow_mem (s : State) (f : Field) (v : Nat) : (s.putShadow f v).mem = s.mem := rfl
@[simp] theorem State.putShadow_poison (s : State) (f : Field) (v : Nat) : (s.putShadow f v).poison = s.poison := rfl

/-! ## send -/

@[simp] theorem State.send_pending (s : State) (m : TxMsg) : (s.send m).pending = s.pending := rfl
@[simp] theorem State.send_cells (s : State) (m : TxMsg) : (s.send m).cells = s.cells := rfl
@[simp] theorem State.send_shadow (s : State) (m : TxMsg) : (s.send m).shadow = s.shadow := rfl
@[simp] theorem State.send_active (s : State) (m : TxMsg) : (s.send m).active = s.active := rfl
@[simp] theorem State.send_latches (s : State) (m : TxMsg) : (s.send m).latches = s.latches := rfl
@[simp] theorem State.send_raised (s : State) (m : TxMsg) : (s.send m).raised = s.raised := rfl
@[simp] theorem State.send_hostOut (s : State) (m : TxMsg) : (s.send m).hostOut = s.hostOut := rfl
@[simp] theorem State.send_freeCtr (s : State) (m : TxMsg) : (s.send m).freeCtr = s.freeCtr := rfl
@[simp] theorem State.send_pins (s : State) (m : TxMsg) : (s.send m).pins = s.pins := rfl
@[simp] theorem State.send_clk (s : State) (m : TxMsg) : (s.send m).clk = s.clk := rfl
@[simp] theorem State.send_cmt (s : State) (m : TxMsg) : (s.send m).cmt = s.cmt := rfl
@[simp] theorem State.send_seq (s : State) (m : TxMsg) : (s.send m).seq = s.seq := rfl
@[simp] theorem State.send_fail (s : State) (m : TxMsg) : (s.send m).fail = s.fail := rfl
@[simp] theorem State.send_seg (s : State) (m : TxMsg) : (s.send m).seg = s.seg := rfl
@[simp] theorem State.send_apg (s : State) (m : TxMsg) : (s.send m).apg = s.apg := rfl
@[simp] theorem State.send_land (s : State) (m : TxMsg) : (s.send m).land = s.land := rfl
@[simp] theorem State.send_cap (s : State) (m : TxMsg) : (s.send m).cap = s.cap := rfl
@[simp] theorem State.send_que (s : State) (m : TxMsg) : (s.send m).que = s.que := rfl
@[simp] theorem State.send_hbc (s : State) (m : TxMsg) : (s.send m).hbc = s.hbc := rfl
@[simp] theorem State.send_tiu (s : State) (m : TxMsg) : (s.send m).tiu = s.tiu := rfl
@[simp] theorem State.send_grd (s : State) (m : TxMsg) : (s.send m).grd = s.grd := rfl
@[simp] theorem State.send_cal (s : State) (m : TxMsg) : (s.send m).cal = s.cal := rfl
@[simp] theorem State.send_pmu (s : State) (m : TxMsg) : (s.send m).pmu = s.pmu := rfl
@[simp] theorem State.send_lnk (s : State) (m : TxMsg) : (s.send m).lnk = s.lnk := rfl
@[simp] theorem State.send_pmg (s : State) (m : TxMsg) : (s.send m).pmg = s.pmg := rfl
@[simp] theorem State.send_time (s : State) (m : TxMsg) : (s.send m).time = s.time := rfl
@[simp] theorem State.send_fcl (s : State) (m : TxMsg) : (s.send m).fcl = s.fcl := rfl
@[simp] theorem State.send_evr (s : State) (m : TxMsg) : (s.send m).evr = s.evr := rfl
@[simp] theorem State.send_frz (s : State) (m : TxMsg) : (s.send m).frz = s.frz := rfl
@[simp] theorem State.send_cle (s : State) (m : TxMsg) : (s.send m).cle = s.cle := rfl
@[simp] theorem State.send_cores (s : State) (m : TxMsg) : (s.send m).cores = s.cores := rfl
@[simp] theorem State.send_rsc (s : State) (m : TxMsg) : (s.send m).rsc = s.rsc := rfl
@[simp] theorem State.send_mem (s : State) (m : TxMsg) : (s.send m).mem = s.mem := rfl
@[simp] theorem State.send_poison (s : State) (m : TxMsg) : (s.send m).poison = s.poison := rfl

/-! ## toHost -/

@[simp] theorem State.toHost_pending (s : State) (m : HostMsg) : (s.toHost m).pending = s.pending := rfl
@[simp] theorem State.toHost_cells (s : State) (m : HostMsg) : (s.toHost m).cells = s.cells := rfl
@[simp] theorem State.toHost_shadow (s : State) (m : HostMsg) : (s.toHost m).shadow = s.shadow := rfl
@[simp] theorem State.toHost_active (s : State) (m : HostMsg) : (s.toHost m).active = s.active := rfl
@[simp] theorem State.toHost_latches (s : State) (m : HostMsg) : (s.toHost m).latches = s.latches := rfl
@[simp] theorem State.toHost_raised (s : State) (m : HostMsg) : (s.toHost m).raised = s.raised := rfl
@[simp] theorem State.toHost_tx (s : State) (m : HostMsg) : (s.toHost m).tx = s.tx := rfl
@[simp] theorem State.toHost_freeCtr (s : State) (m : HostMsg) : (s.toHost m).freeCtr = s.freeCtr := rfl
@[simp] theorem State.toHost_pins (s : State) (m : HostMsg) : (s.toHost m).pins = s.pins := rfl
@[simp] theorem State.toHost_clk (s : State) (m : HostMsg) : (s.toHost m).clk = s.clk := rfl
@[simp] theorem State.toHost_cmt (s : State) (m : HostMsg) : (s.toHost m).cmt = s.cmt := rfl
@[simp] theorem State.toHost_seq (s : State) (m : HostMsg) : (s.toHost m).seq = s.seq := rfl
@[simp] theorem State.toHost_fail (s : State) (m : HostMsg) : (s.toHost m).fail = s.fail := rfl
@[simp] theorem State.toHost_seg (s : State) (m : HostMsg) : (s.toHost m).seg = s.seg := rfl
@[simp] theorem State.toHost_apg (s : State) (m : HostMsg) : (s.toHost m).apg = s.apg := rfl
@[simp] theorem State.toHost_land (s : State) (m : HostMsg) : (s.toHost m).land = s.land := rfl
@[simp] theorem State.toHost_cap (s : State) (m : HostMsg) : (s.toHost m).cap = s.cap := rfl
@[simp] theorem State.toHost_que (s : State) (m : HostMsg) : (s.toHost m).que = s.que := rfl
@[simp] theorem State.toHost_hbc (s : State) (m : HostMsg) : (s.toHost m).hbc = s.hbc := rfl
@[simp] theorem State.toHost_tiu (s : State) (m : HostMsg) : (s.toHost m).tiu = s.tiu := rfl
@[simp] theorem State.toHost_grd (s : State) (m : HostMsg) : (s.toHost m).grd = s.grd := rfl
@[simp] theorem State.toHost_cal (s : State) (m : HostMsg) : (s.toHost m).cal = s.cal := rfl
@[simp] theorem State.toHost_pmu (s : State) (m : HostMsg) : (s.toHost m).pmu = s.pmu := rfl
@[simp] theorem State.toHost_lnk (s : State) (m : HostMsg) : (s.toHost m).lnk = s.lnk := rfl
@[simp] theorem State.toHost_pmg (s : State) (m : HostMsg) : (s.toHost m).pmg = s.pmg := rfl
@[simp] theorem State.toHost_time (s : State) (m : HostMsg) : (s.toHost m).time = s.time := rfl
@[simp] theorem State.toHost_fcl (s : State) (m : HostMsg) : (s.toHost m).fcl = s.fcl := rfl
@[simp] theorem State.toHost_evr (s : State) (m : HostMsg) : (s.toHost m).evr = s.evr := rfl
@[simp] theorem State.toHost_frz (s : State) (m : HostMsg) : (s.toHost m).frz = s.frz := rfl
@[simp] theorem State.toHost_cle (s : State) (m : HostMsg) : (s.toHost m).cle = s.cle := rfl
@[simp] theorem State.toHost_cores (s : State) (m : HostMsg) : (s.toHost m).cores = s.cores := rfl
@[simp] theorem State.toHost_rsc (s : State) (m : HostMsg) : (s.toHost m).rsc = s.rsc := rfl
@[simp] theorem State.toHost_mem (s : State) (m : HostMsg) : (s.toHost m).mem = s.mem := rfl
@[simp] theorem State.toHost_poison (s : State) (m : HostMsg) : (s.toHost m).poison = s.poison := rfl

/-! ## raise -/

@[simp] theorem State.raise_pending (s : State) (n a v : Nat) : (s.raise n a v).pending = s.pending := rfl
@[simp] theorem State.raise_cells (s : State) (n a v : Nat) : (s.raise n a v).cells = s.cells := rfl
@[simp] theorem State.raise_shadow (s : State) (n a v : Nat) : (s.raise n a v).shadow = s.shadow := rfl
@[simp] theorem State.raise_active (s : State) (n a v : Nat) : (s.raise n a v).active = s.active := rfl
@[simp] theorem State.raise_latches (s : State) (n a v : Nat) : (s.raise n a v).latches = s.latches := rfl
@[simp] theorem State.raise_tx (s : State) (n a v : Nat) : (s.raise n a v).tx = s.tx := rfl
@[simp] theorem State.raise_hostOut (s : State) (n a v : Nat) : (s.raise n a v).hostOut = s.hostOut := rfl
@[simp] theorem State.raise_freeCtr (s : State) (n a v : Nat) : (s.raise n a v).freeCtr = s.freeCtr := rfl
@[simp] theorem State.raise_pins (s : State) (n a v : Nat) : (s.raise n a v).pins = s.pins := rfl
@[simp] theorem State.raise_clk (s : State) (n a v : Nat) : (s.raise n a v).clk = s.clk := rfl
@[simp] theorem State.raise_cmt (s : State) (n a v : Nat) : (s.raise n a v).cmt = s.cmt := rfl
@[simp] theorem State.raise_seq (s : State) (n a v : Nat) : (s.raise n a v).seq = s.seq := rfl
@[simp] theorem State.raise_fail (s : State) (n a v : Nat) : (s.raise n a v).fail = s.fail := rfl
@[simp] theorem State.raise_seg (s : State) (n a v : Nat) : (s.raise n a v).seg = s.seg := rfl
@[simp] theorem State.raise_apg (s : State) (n a v : Nat) : (s.raise n a v).apg = s.apg := rfl
@[simp] theorem State.raise_land (s : State) (n a v : Nat) : (s.raise n a v).land = s.land := rfl
@[simp] theorem State.raise_cap (s : State) (n a v : Nat) : (s.raise n a v).cap = s.cap := rfl
@[simp] theorem State.raise_que (s : State) (n a v : Nat) : (s.raise n a v).que = s.que := rfl
@[simp] theorem State.raise_hbc (s : State) (n a v : Nat) : (s.raise n a v).hbc = s.hbc := rfl
@[simp] theorem State.raise_tiu (s : State) (n a v : Nat) : (s.raise n a v).tiu = s.tiu := rfl
@[simp] theorem State.raise_grd (s : State) (n a v : Nat) : (s.raise n a v).grd = s.grd := rfl
@[simp] theorem State.raise_cal (s : State) (n a v : Nat) : (s.raise n a v).cal = s.cal := rfl
@[simp] theorem State.raise_pmu (s : State) (n a v : Nat) : (s.raise n a v).pmu = s.pmu := rfl
@[simp] theorem State.raise_lnk (s : State) (n a v : Nat) : (s.raise n a v).lnk = s.lnk := rfl
@[simp] theorem State.raise_pmg (s : State) (n a v : Nat) : (s.raise n a v).pmg = s.pmg := rfl
@[simp] theorem State.raise_time (s : State) (n a v : Nat) : (s.raise n a v).time = s.time := rfl
@[simp] theorem State.raise_evr (s : State) (n a v : Nat) : (s.raise n a v).evr = s.evr := rfl
@[simp] theorem State.raise_frz (s : State) (n a v : Nat) : (s.raise n a v).frz = s.frz := rfl
@[simp] theorem State.raise_cle (s : State) (n a v : Nat) : (s.raise n a v).cle = s.cle := rfl
@[simp] theorem State.raise_cores (s : State) (n a v : Nat) : (s.raise n a v).cores = s.cores := rfl
@[simp] theorem State.raise_rsc (s : State) (n a v : Nat) : (s.raise n a v).rsc = s.rsc := rfl
@[simp] theorem State.raise_mem (s : State) (n a v : Nat) : (s.raise n a v).mem = s.mem := rfl
@[simp] theorem State.raise_poison (s : State) (n a v : Nat) : (s.raise n a v).poison = s.poison := rfl

/-! ## memWrite -/

@[simp] theorem State.memWrite_pending (s : State) (a : Nat) (bs : List (BitVec 8)) : (s.memWrite a bs).pending = s.pending := rfl
@[simp] theorem State.memWrite_cells (s : State) (a : Nat) (bs : List (BitVec 8)) : (s.memWrite a bs).cells = s.cells := rfl
@[simp] theorem State.memWrite_shadow (s : State) (a : Nat) (bs : List (BitVec 8)) : (s.memWrite a bs).shadow = s.shadow := rfl
@[simp] theorem State.memWrite_active (s : State) (a : Nat) (bs : List (BitVec 8)) : (s.memWrite a bs).active = s.active := rfl
@[simp] theorem State.memWrite_latches (s : State) (a : Nat) (bs : List (BitVec 8)) : (s.memWrite a bs).latches = s.latches := rfl
@[simp] theorem State.memWrite_raised (s : State) (a : Nat) (bs : List (BitVec 8)) : (s.memWrite a bs).raised = s.raised := rfl
@[simp] theorem State.memWrite_tx (s : State) (a : Nat) (bs : List (BitVec 8)) : (s.memWrite a bs).tx = s.tx := rfl
@[simp] theorem State.memWrite_hostOut (s : State) (a : Nat) (bs : List (BitVec 8)) : (s.memWrite a bs).hostOut = s.hostOut := rfl
@[simp] theorem State.memWrite_freeCtr (s : State) (a : Nat) (bs : List (BitVec 8)) : (s.memWrite a bs).freeCtr = s.freeCtr := rfl
@[simp] theorem State.memWrite_pins (s : State) (a : Nat) (bs : List (BitVec 8)) : (s.memWrite a bs).pins = s.pins := rfl
@[simp] theorem State.memWrite_clk (s : State) (a : Nat) (bs : List (BitVec 8)) : (s.memWrite a bs).clk = s.clk := rfl
@[simp] theorem State.memWrite_cmt (s : State) (a : Nat) (bs : List (BitVec 8)) : (s.memWrite a bs).cmt = s.cmt := rfl
@[simp] theorem State.memWrite_seq (s : State) (a : Nat) (bs : List (BitVec 8)) : (s.memWrite a bs).seq = s.seq := rfl
@[simp] theorem State.memWrite_fail (s : State) (a : Nat) (bs : List (BitVec 8)) : (s.memWrite a bs).fail = s.fail := rfl
@[simp] theorem State.memWrite_seg (s : State) (a : Nat) (bs : List (BitVec 8)) : (s.memWrite a bs).seg = s.seg := rfl
@[simp] theorem State.memWrite_apg (s : State) (a : Nat) (bs : List (BitVec 8)) : (s.memWrite a bs).apg = s.apg := rfl
@[simp] theorem State.memWrite_land (s : State) (a : Nat) (bs : List (BitVec 8)) : (s.memWrite a bs).land = s.land := rfl
@[simp] theorem State.memWrite_cap (s : State) (a : Nat) (bs : List (BitVec 8)) : (s.memWrite a bs).cap = s.cap := rfl
@[simp] theorem State.memWrite_que (s : State) (a : Nat) (bs : List (BitVec 8)) : (s.memWrite a bs).que = s.que := rfl
@[simp] theorem State.memWrite_hbc (s : State) (a : Nat) (bs : List (BitVec 8)) : (s.memWrite a bs).hbc = s.hbc := rfl
@[simp] theorem State.memWrite_tiu (s : State) (a : Nat) (bs : List (BitVec 8)) : (s.memWrite a bs).tiu = s.tiu := rfl
@[simp] theorem State.memWrite_grd (s : State) (a : Nat) (bs : List (BitVec 8)) : (s.memWrite a bs).grd = s.grd := rfl
@[simp] theorem State.memWrite_cal (s : State) (a : Nat) (bs : List (BitVec 8)) : (s.memWrite a bs).cal = s.cal := rfl
@[simp] theorem State.memWrite_pmu (s : State) (a : Nat) (bs : List (BitVec 8)) : (s.memWrite a bs).pmu = s.pmu := rfl
@[simp] theorem State.memWrite_lnk (s : State) (a : Nat) (bs : List (BitVec 8)) : (s.memWrite a bs).lnk = s.lnk := rfl
@[simp] theorem State.memWrite_pmg (s : State) (a : Nat) (bs : List (BitVec 8)) : (s.memWrite a bs).pmg = s.pmg := rfl
@[simp] theorem State.memWrite_time (s : State) (a : Nat) (bs : List (BitVec 8)) : (s.memWrite a bs).time = s.time := rfl
@[simp] theorem State.memWrite_fcl (s : State) (a : Nat) (bs : List (BitVec 8)) : (s.memWrite a bs).fcl = s.fcl := rfl
@[simp] theorem State.memWrite_evr (s : State) (a : Nat) (bs : List (BitVec 8)) : (s.memWrite a bs).evr = s.evr := rfl
@[simp] theorem State.memWrite_frz (s : State) (a : Nat) (bs : List (BitVec 8)) : (s.memWrite a bs).frz = s.frz := rfl
@[simp] theorem State.memWrite_cle (s : State) (a : Nat) (bs : List (BitVec 8)) : (s.memWrite a bs).cle = s.cle := rfl
@[simp] theorem State.memWrite_cores (s : State) (a : Nat) (bs : List (BitVec 8)) : (s.memWrite a bs).cores = s.cores := rfl
@[simp] theorem State.memWrite_rsc (s : State) (a : Nat) (bs : List (BitVec 8)) : (s.memWrite a bs).rsc = s.rsc := rfl
@[simp] theorem State.memWrite_poison (s : State) (a : Nat) (bs : List (BitVec 8)) : (s.memWrite a bs).poison = s.poison := rfl

/-! ## setChan -/

@[simp] theorem State.setChan_pending (s : State) (c : Nat) (l : ChanLand) : (s.setChan c l).pending = s.pending := rfl
@[simp] theorem State.setChan_cells (s : State) (c : Nat) (l : ChanLand) : (s.setChan c l).cells = s.cells := rfl
@[simp] theorem State.setChan_shadow (s : State) (c : Nat) (l : ChanLand) : (s.setChan c l).shadow = s.shadow := rfl
@[simp] theorem State.setChan_active (s : State) (c : Nat) (l : ChanLand) : (s.setChan c l).active = s.active := rfl
@[simp] theorem State.setChan_latches (s : State) (c : Nat) (l : ChanLand) : (s.setChan c l).latches = s.latches := rfl
@[simp] theorem State.setChan_raised (s : State) (c : Nat) (l : ChanLand) : (s.setChan c l).raised = s.raised := rfl
@[simp] theorem State.setChan_tx (s : State) (c : Nat) (l : ChanLand) : (s.setChan c l).tx = s.tx := rfl
@[simp] theorem State.setChan_hostOut (s : State) (c : Nat) (l : ChanLand) : (s.setChan c l).hostOut = s.hostOut := rfl
@[simp] theorem State.setChan_freeCtr (s : State) (c : Nat) (l : ChanLand) : (s.setChan c l).freeCtr = s.freeCtr := rfl
@[simp] theorem State.setChan_pins (s : State) (c : Nat) (l : ChanLand) : (s.setChan c l).pins = s.pins := rfl
@[simp] theorem State.setChan_clk (s : State) (c : Nat) (l : ChanLand) : (s.setChan c l).clk = s.clk := rfl
@[simp] theorem State.setChan_cmt (s : State) (c : Nat) (l : ChanLand) : (s.setChan c l).cmt = s.cmt := rfl
@[simp] theorem State.setChan_seq (s : State) (c : Nat) (l : ChanLand) : (s.setChan c l).seq = s.seq := rfl
@[simp] theorem State.setChan_fail (s : State) (c : Nat) (l : ChanLand) : (s.setChan c l).fail = s.fail := rfl
@[simp] theorem State.setChan_seg (s : State) (c : Nat) (l : ChanLand) : (s.setChan c l).seg = s.seg := rfl
@[simp] theorem State.setChan_apg (s : State) (c : Nat) (l : ChanLand) : (s.setChan c l).apg = s.apg := rfl
@[simp] theorem State.setChan_cap (s : State) (c : Nat) (l : ChanLand) : (s.setChan c l).cap = s.cap := rfl
@[simp] theorem State.setChan_que (s : State) (c : Nat) (l : ChanLand) : (s.setChan c l).que = s.que := rfl
@[simp] theorem State.setChan_hbc (s : State) (c : Nat) (l : ChanLand) : (s.setChan c l).hbc = s.hbc := rfl
@[simp] theorem State.setChan_tiu (s : State) (c : Nat) (l : ChanLand) : (s.setChan c l).tiu = s.tiu := rfl
@[simp] theorem State.setChan_grd (s : State) (c : Nat) (l : ChanLand) : (s.setChan c l).grd = s.grd := rfl
@[simp] theorem State.setChan_cal (s : State) (c : Nat) (l : ChanLand) : (s.setChan c l).cal = s.cal := rfl
@[simp] theorem State.setChan_pmu (s : State) (c : Nat) (l : ChanLand) : (s.setChan c l).pmu = s.pmu := rfl
@[simp] theorem State.setChan_lnk (s : State) (c : Nat) (l : ChanLand) : (s.setChan c l).lnk = s.lnk := rfl
@[simp] theorem State.setChan_pmg (s : State) (c : Nat) (l : ChanLand) : (s.setChan c l).pmg = s.pmg := rfl
@[simp] theorem State.setChan_time (s : State) (c : Nat) (l : ChanLand) : (s.setChan c l).time = s.time := rfl
@[simp] theorem State.setChan_fcl (s : State) (c : Nat) (l : ChanLand) : (s.setChan c l).fcl = s.fcl := rfl
@[simp] theorem State.setChan_evr (s : State) (c : Nat) (l : ChanLand) : (s.setChan c l).evr = s.evr := rfl
@[simp] theorem State.setChan_frz (s : State) (c : Nat) (l : ChanLand) : (s.setChan c l).frz = s.frz := rfl
@[simp] theorem State.setChan_cle (s : State) (c : Nat) (l : ChanLand) : (s.setChan c l).cle = s.cle := rfl
@[simp] theorem State.setChan_cores (s : State) (c : Nat) (l : ChanLand) : (s.setChan c l).cores = s.cores := rfl
@[simp] theorem State.setChan_rsc (s : State) (c : Nat) (l : ChanLand) : (s.setChan c l).rsc = s.rsc := rfl
@[simp] theorem State.setChan_mem (s : State) (c : Nat) (l : ChanLand) : (s.setChan c l).mem = s.mem := rfl
@[simp] theorem State.setChan_poison (s : State) (c : Nat) (l : ChanLand) : (s.setChan c l).poison = s.poison := rfl

/-! ## flag -/

@[simp] theorem State.flag_pending (s : State) (f : Field) (b : Bool) : (s.flag f b).pending = s.pending := rfl
@[simp] theorem State.flag_shadow (s : State) (f : Field) (b : Bool) : (s.flag f b).shadow = s.shadow := rfl
@[simp] theorem State.flag_active (s : State) (f : Field) (b : Bool) : (s.flag f b).active = s.active := rfl
@[simp] theorem State.flag_latches (s : State) (f : Field) (b : Bool) : (s.flag f b).latches = s.latches := rfl
@[simp] theorem State.flag_raised (s : State) (f : Field) (b : Bool) : (s.flag f b).raised = s.raised := rfl
@[simp] theorem State.flag_tx (s : State) (f : Field) (b : Bool) : (s.flag f b).tx = s.tx := rfl
@[simp] theorem State.flag_hostOut (s : State) (f : Field) (b : Bool) : (s.flag f b).hostOut = s.hostOut := rfl
@[simp] theorem State.flag_freeCtr (s : State) (f : Field) (b : Bool) : (s.flag f b).freeCtr = s.freeCtr := rfl
@[simp] theorem State.flag_pins (s : State) (f : Field) (b : Bool) : (s.flag f b).pins = s.pins := rfl
@[simp] theorem State.flag_clk (s : State) (f : Field) (b : Bool) : (s.flag f b).clk = s.clk := rfl
@[simp] theorem State.flag_cmt (s : State) (f : Field) (b : Bool) : (s.flag f b).cmt = s.cmt := rfl
@[simp] theorem State.flag_seq (s : State) (f : Field) (b : Bool) : (s.flag f b).seq = s.seq := rfl
@[simp] theorem State.flag_fail (s : State) (f : Field) (b : Bool) : (s.flag f b).fail = s.fail := rfl
@[simp] theorem State.flag_seg (s : State) (f : Field) (b : Bool) : (s.flag f b).seg = s.seg := rfl
@[simp] theorem State.flag_apg (s : State) (f : Field) (b : Bool) : (s.flag f b).apg = s.apg := rfl
@[simp] theorem State.flag_land (s : State) (f : Field) (b : Bool) : (s.flag f b).land = s.land := rfl
@[simp] theorem State.flag_cap (s : State) (f : Field) (b : Bool) : (s.flag f b).cap = s.cap := rfl
@[simp] theorem State.flag_que (s : State) (f : Field) (b : Bool) : (s.flag f b).que = s.que := rfl
@[simp] theorem State.flag_hbc (s : State) (f : Field) (b : Bool) : (s.flag f b).hbc = s.hbc := rfl
@[simp] theorem State.flag_tiu (s : State) (f : Field) (b : Bool) : (s.flag f b).tiu = s.tiu := rfl
@[simp] theorem State.flag_grd (s : State) (f : Field) (b : Bool) : (s.flag f b).grd = s.grd := rfl
@[simp] theorem State.flag_cal (s : State) (f : Field) (b : Bool) : (s.flag f b).cal = s.cal := rfl
@[simp] theorem State.flag_pmu (s : State) (f : Field) (b : Bool) : (s.flag f b).pmu = s.pmu := rfl
@[simp] theorem State.flag_lnk (s : State) (f : Field) (b : Bool) : (s.flag f b).lnk = s.lnk := rfl
@[simp] theorem State.flag_pmg (s : State) (f : Field) (b : Bool) : (s.flag f b).pmg = s.pmg := rfl
@[simp] theorem State.flag_time (s : State) (f : Field) (b : Bool) : (s.flag f b).time = s.time := rfl
@[simp] theorem State.flag_fcl (s : State) (f : Field) (b : Bool) : (s.flag f b).fcl = s.fcl := rfl
@[simp] theorem State.flag_evr (s : State) (f : Field) (b : Bool) : (s.flag f b).evr = s.evr := rfl
@[simp] theorem State.flag_frz (s : State) (f : Field) (b : Bool) : (s.flag f b).frz = s.frz := rfl
@[simp] theorem State.flag_cle (s : State) (f : Field) (b : Bool) : (s.flag f b).cle = s.cle := rfl
@[simp] theorem State.flag_cores (s : State) (f : Field) (b : Bool) : (s.flag f b).cores = s.cores := rfl
@[simp] theorem State.flag_rsc (s : State) (f : Field) (b : Bool) : (s.flag f b).rsc = s.rsc := rfl
@[simp] theorem State.flag_mem (s : State) (f : Field) (b : Bool) : (s.flag f b).mem = s.mem := rfl
@[simp] theorem State.flag_poison (s : State) (f : Field) (b : Bool) : (s.flag f b).poison = s.poison := rfl

/-! ## inc -/

@[simp] theorem State.inc_pending (s : State) (f : Field) : (s.inc f).pending = s.pending := rfl
@[simp] theorem State.inc_shadow (s : State) (f : Field) : (s.inc f).shadow = s.shadow := rfl
@[simp] theorem State.inc_active (s : State) (f : Field) : (s.inc f).active = s.active := rfl
@[simp] theorem State.inc_latches (s : State) (f : Field) : (s.inc f).latches = s.latches := rfl
@[simp] theorem State.inc_raised (s : State) (f : Field) : (s.inc f).raised = s.raised := rfl
@[simp] theorem State.inc_tx (s : State) (f : Field) : (s.inc f).tx = s.tx := rfl
@[simp] theorem State.inc_hostOut (s : State) (f : Field) : (s.inc f).hostOut = s.hostOut := rfl
@[simp] theorem State.inc_freeCtr (s : State) (f : Field) : (s.inc f).freeCtr = s.freeCtr := rfl
@[simp] theorem State.inc_pins (s : State) (f : Field) : (s.inc f).pins = s.pins := rfl
@[simp] theorem State.inc_clk (s : State) (f : Field) : (s.inc f).clk = s.clk := rfl
@[simp] theorem State.inc_cmt (s : State) (f : Field) : (s.inc f).cmt = s.cmt := rfl
@[simp] theorem State.inc_seq (s : State) (f : Field) : (s.inc f).seq = s.seq := rfl
@[simp] theorem State.inc_fail (s : State) (f : Field) : (s.inc f).fail = s.fail := rfl
@[simp] theorem State.inc_seg (s : State) (f : Field) : (s.inc f).seg = s.seg := rfl
@[simp] theorem State.inc_apg (s : State) (f : Field) : (s.inc f).apg = s.apg := rfl
@[simp] theorem State.inc_land (s : State) (f : Field) : (s.inc f).land = s.land := rfl
@[simp] theorem State.inc_cap (s : State) (f : Field) : (s.inc f).cap = s.cap := rfl
@[simp] theorem State.inc_que (s : State) (f : Field) : (s.inc f).que = s.que := rfl
@[simp] theorem State.inc_hbc (s : State) (f : Field) : (s.inc f).hbc = s.hbc := rfl
@[simp] theorem State.inc_tiu (s : State) (f : Field) : (s.inc f).tiu = s.tiu := rfl
@[simp] theorem State.inc_grd (s : State) (f : Field) : (s.inc f).grd = s.grd := rfl
@[simp] theorem State.inc_cal (s : State) (f : Field) : (s.inc f).cal = s.cal := rfl
@[simp] theorem State.inc_pmu (s : State) (f : Field) : (s.inc f).pmu = s.pmu := rfl
@[simp] theorem State.inc_lnk (s : State) (f : Field) : (s.inc f).lnk = s.lnk := rfl
@[simp] theorem State.inc_pmg (s : State) (f : Field) : (s.inc f).pmg = s.pmg := rfl
@[simp] theorem State.inc_time (s : State) (f : Field) : (s.inc f).time = s.time := rfl
@[simp] theorem State.inc_fcl (s : State) (f : Field) : (s.inc f).fcl = s.fcl := rfl
@[simp] theorem State.inc_evr (s : State) (f : Field) : (s.inc f).evr = s.evr := rfl
@[simp] theorem State.inc_frz (s : State) (f : Field) : (s.inc f).frz = s.frz := rfl
@[simp] theorem State.inc_cle (s : State) (f : Field) : (s.inc f).cle = s.cle := rfl
@[simp] theorem State.inc_cores (s : State) (f : Field) : (s.inc f).cores = s.cores := rfl
@[simp] theorem State.inc_rsc (s : State) (f : Field) : (s.inc f).rsc = s.rsc := rfl
@[simp] theorem State.inc_mem (s : State) (f : Field) : (s.inc f).mem = s.mem := rfl
@[simp] theorem State.inc_poison (s : State) (f : Field) : (s.inc f).poison = s.poison := rfl

/-! ## incSat -/

@[simp] theorem State.incSat_pending (s : State) (f : Field) : (s.incSat f).pending = s.pending := rfl
@[simp] theorem State.incSat_shadow (s : State) (f : Field) : (s.incSat f).shadow = s.shadow := rfl
@[simp] theorem State.incSat_active (s : State) (f : Field) : (s.incSat f).active = s.active := rfl
@[simp] theorem State.incSat_latches (s : State) (f : Field) : (s.incSat f).latches = s.latches := rfl
@[simp] theorem State.incSat_raised (s : State) (f : Field) : (s.incSat f).raised = s.raised := rfl
@[simp] theorem State.incSat_tx (s : State) (f : Field) : (s.incSat f).tx = s.tx := rfl
@[simp] theorem State.incSat_hostOut (s : State) (f : Field) : (s.incSat f).hostOut = s.hostOut := rfl
@[simp] theorem State.incSat_freeCtr (s : State) (f : Field) : (s.incSat f).freeCtr = s.freeCtr := rfl
@[simp] theorem State.incSat_pins (s : State) (f : Field) : (s.incSat f).pins = s.pins := rfl
@[simp] theorem State.incSat_clk (s : State) (f : Field) : (s.incSat f).clk = s.clk := rfl
@[simp] theorem State.incSat_cmt (s : State) (f : Field) : (s.incSat f).cmt = s.cmt := rfl
@[simp] theorem State.incSat_seq (s : State) (f : Field) : (s.incSat f).seq = s.seq := rfl
@[simp] theorem State.incSat_fail (s : State) (f : Field) : (s.incSat f).fail = s.fail := rfl
@[simp] theorem State.incSat_seg (s : State) (f : Field) : (s.incSat f).seg = s.seg := rfl
@[simp] theorem State.incSat_apg (s : State) (f : Field) : (s.incSat f).apg = s.apg := rfl
@[simp] theorem State.incSat_land (s : State) (f : Field) : (s.incSat f).land = s.land := rfl
@[simp] theorem State.incSat_cap (s : State) (f : Field) : (s.incSat f).cap = s.cap := rfl
@[simp] theorem State.incSat_que (s : State) (f : Field) : (s.incSat f).que = s.que := rfl
@[simp] theorem State.incSat_hbc (s : State) (f : Field) : (s.incSat f).hbc = s.hbc := rfl
@[simp] theorem State.incSat_tiu (s : State) (f : Field) : (s.incSat f).tiu = s.tiu := rfl
@[simp] theorem State.incSat_grd (s : State) (f : Field) : (s.incSat f).grd = s.grd := rfl
@[simp] theorem State.incSat_cal (s : State) (f : Field) : (s.incSat f).cal = s.cal := rfl
@[simp] theorem State.incSat_pmu (s : State) (f : Field) : (s.incSat f).pmu = s.pmu := rfl
@[simp] theorem State.incSat_lnk (s : State) (f : Field) : (s.incSat f).lnk = s.lnk := rfl
@[simp] theorem State.incSat_pmg (s : State) (f : Field) : (s.incSat f).pmg = s.pmg := rfl
@[simp] theorem State.incSat_time (s : State) (f : Field) : (s.incSat f).time = s.time := rfl
@[simp] theorem State.incSat_fcl (s : State) (f : Field) : (s.incSat f).fcl = s.fcl := rfl
@[simp] theorem State.incSat_evr (s : State) (f : Field) : (s.incSat f).evr = s.evr := rfl
@[simp] theorem State.incSat_frz (s : State) (f : Field) : (s.incSat f).frz = s.frz := rfl
@[simp] theorem State.incSat_cle (s : State) (f : Field) : (s.incSat f).cle = s.cle := rfl
@[simp] theorem State.incSat_cores (s : State) (f : Field) : (s.incSat f).cores = s.cores := rfl
@[simp] theorem State.incSat_rsc (s : State) (f : Field) : (s.incSat f).rsc = s.rsc := rfl
@[simp] theorem State.incSat_mem (s : State) (f : Field) : (s.incSat f).mem = s.mem := rfl
@[simp] theorem State.incSat_poison (s : State) (f : Field) : (s.incSat f).poison = s.poison := rfl

/-! ## addSat -/

@[simp] theorem State.addSat_pending (s : State) (f : Field) (k : Nat) : (s.addSat f k).pending = s.pending := rfl
@[simp] theorem State.addSat_shadow (s : State) (f : Field) (k : Nat) : (s.addSat f k).shadow = s.shadow := rfl
@[simp] theorem State.addSat_active (s : State) (f : Field) (k : Nat) : (s.addSat f k).active = s.active := rfl
@[simp] theorem State.addSat_latches (s : State) (f : Field) (k : Nat) : (s.addSat f k).latches = s.latches := rfl
@[simp] theorem State.addSat_raised (s : State) (f : Field) (k : Nat) : (s.addSat f k).raised = s.raised := rfl
@[simp] theorem State.addSat_tx (s : State) (f : Field) (k : Nat) : (s.addSat f k).tx = s.tx := rfl
@[simp] theorem State.addSat_hostOut (s : State) (f : Field) (k : Nat) : (s.addSat f k).hostOut = s.hostOut := rfl
@[simp] theorem State.addSat_freeCtr (s : State) (f : Field) (k : Nat) : (s.addSat f k).freeCtr = s.freeCtr := rfl
@[simp] theorem State.addSat_pins (s : State) (f : Field) (k : Nat) : (s.addSat f k).pins = s.pins := rfl
@[simp] theorem State.addSat_clk (s : State) (f : Field) (k : Nat) : (s.addSat f k).clk = s.clk := rfl
@[simp] theorem State.addSat_cmt (s : State) (f : Field) (k : Nat) : (s.addSat f k).cmt = s.cmt := rfl
@[simp] theorem State.addSat_seq (s : State) (f : Field) (k : Nat) : (s.addSat f k).seq = s.seq := rfl
@[simp] theorem State.addSat_fail (s : State) (f : Field) (k : Nat) : (s.addSat f k).fail = s.fail := rfl
@[simp] theorem State.addSat_seg (s : State) (f : Field) (k : Nat) : (s.addSat f k).seg = s.seg := rfl
@[simp] theorem State.addSat_apg (s : State) (f : Field) (k : Nat) : (s.addSat f k).apg = s.apg := rfl
@[simp] theorem State.addSat_land (s : State) (f : Field) (k : Nat) : (s.addSat f k).land = s.land := rfl
@[simp] theorem State.addSat_cap (s : State) (f : Field) (k : Nat) : (s.addSat f k).cap = s.cap := rfl
@[simp] theorem State.addSat_que (s : State) (f : Field) (k : Nat) : (s.addSat f k).que = s.que := rfl
@[simp] theorem State.addSat_hbc (s : State) (f : Field) (k : Nat) : (s.addSat f k).hbc = s.hbc := rfl
@[simp] theorem State.addSat_tiu (s : State) (f : Field) (k : Nat) : (s.addSat f k).tiu = s.tiu := rfl
@[simp] theorem State.addSat_grd (s : State) (f : Field) (k : Nat) : (s.addSat f k).grd = s.grd := rfl
@[simp] theorem State.addSat_cal (s : State) (f : Field) (k : Nat) : (s.addSat f k).cal = s.cal := rfl
@[simp] theorem State.addSat_pmu (s : State) (f : Field) (k : Nat) : (s.addSat f k).pmu = s.pmu := rfl
@[simp] theorem State.addSat_lnk (s : State) (f : Field) (k : Nat) : (s.addSat f k).lnk = s.lnk := rfl
@[simp] theorem State.addSat_pmg (s : State) (f : Field) (k : Nat) : (s.addSat f k).pmg = s.pmg := rfl
@[simp] theorem State.addSat_time (s : State) (f : Field) (k : Nat) : (s.addSat f k).time = s.time := rfl
@[simp] theorem State.addSat_fcl (s : State) (f : Field) (k : Nat) : (s.addSat f k).fcl = s.fcl := rfl
@[simp] theorem State.addSat_evr (s : State) (f : Field) (k : Nat) : (s.addSat f k).evr = s.evr := rfl
@[simp] theorem State.addSat_frz (s : State) (f : Field) (k : Nat) : (s.addSat f k).frz = s.frz := rfl
@[simp] theorem State.addSat_cle (s : State) (f : Field) (k : Nat) : (s.addSat f k).cle = s.cle := rfl
@[simp] theorem State.addSat_cores (s : State) (f : Field) (k : Nat) : (s.addSat f k).cores = s.cores := rfl
@[simp] theorem State.addSat_rsc (s : State) (f : Field) (k : Nat) : (s.addSat f k).rsc = s.rsc := rfl
@[simp] theorem State.addSat_mem (s : State) (f : Field) (k : Nat) : (s.addSat f k).mem = s.mem := rfl
@[simp] theorem State.addSat_poison (s : State) (f : Field) (k : Nat) : (s.addSat f k).poison = s.poison := rfl

/-! ## put64 -/

@[simp] theorem State.put64_pending (s : State) (f g : Field) (v : Nat) : (s.put64 f g v).pending = s.pending := rfl
@[simp] theorem State.put64_shadow (s : State) (f g : Field) (v : Nat) : (s.put64 f g v).shadow = s.shadow := rfl
@[simp] theorem State.put64_active (s : State) (f g : Field) (v : Nat) : (s.put64 f g v).active = s.active := rfl
@[simp] theorem State.put64_latches (s : State) (f g : Field) (v : Nat) : (s.put64 f g v).latches = s.latches := rfl
@[simp] theorem State.put64_raised (s : State) (f g : Field) (v : Nat) : (s.put64 f g v).raised = s.raised := rfl
@[simp] theorem State.put64_tx (s : State) (f g : Field) (v : Nat) : (s.put64 f g v).tx = s.tx := rfl
@[simp] theorem State.put64_hostOut (s : State) (f g : Field) (v : Nat) : (s.put64 f g v).hostOut = s.hostOut := rfl
@[simp] theorem State.put64_freeCtr (s : State) (f g : Field) (v : Nat) : (s.put64 f g v).freeCtr = s.freeCtr := rfl
@[simp] theorem State.put64_pins (s : State) (f g : Field) (v : Nat) : (s.put64 f g v).pins = s.pins := rfl
@[simp] theorem State.put64_clk (s : State) (f g : Field) (v : Nat) : (s.put64 f g v).clk = s.clk := rfl
@[simp] theorem State.put64_cmt (s : State) (f g : Field) (v : Nat) : (s.put64 f g v).cmt = s.cmt := rfl
@[simp] theorem State.put64_seq (s : State) (f g : Field) (v : Nat) : (s.put64 f g v).seq = s.seq := rfl
@[simp] theorem State.put64_fail (s : State) (f g : Field) (v : Nat) : (s.put64 f g v).fail = s.fail := rfl
@[simp] theorem State.put64_seg (s : State) (f g : Field) (v : Nat) : (s.put64 f g v).seg = s.seg := rfl
@[simp] theorem State.put64_apg (s : State) (f g : Field) (v : Nat) : (s.put64 f g v).apg = s.apg := rfl
@[simp] theorem State.put64_land (s : State) (f g : Field) (v : Nat) : (s.put64 f g v).land = s.land := rfl
@[simp] theorem State.put64_cap (s : State) (f g : Field) (v : Nat) : (s.put64 f g v).cap = s.cap := rfl
@[simp] theorem State.put64_que (s : State) (f g : Field) (v : Nat) : (s.put64 f g v).que = s.que := rfl
@[simp] theorem State.put64_hbc (s : State) (f g : Field) (v : Nat) : (s.put64 f g v).hbc = s.hbc := rfl
@[simp] theorem State.put64_tiu (s : State) (f g : Field) (v : Nat) : (s.put64 f g v).tiu = s.tiu := rfl
@[simp] theorem State.put64_grd (s : State) (f g : Field) (v : Nat) : (s.put64 f g v).grd = s.grd := rfl
@[simp] theorem State.put64_cal (s : State) (f g : Field) (v : Nat) : (s.put64 f g v).cal = s.cal := rfl
@[simp] theorem State.put64_pmu (s : State) (f g : Field) (v : Nat) : (s.put64 f g v).pmu = s.pmu := rfl
@[simp] theorem State.put64_lnk (s : State) (f g : Field) (v : Nat) : (s.put64 f g v).lnk = s.lnk := rfl
@[simp] theorem State.put64_pmg (s : State) (f g : Field) (v : Nat) : (s.put64 f g v).pmg = s.pmg := rfl
@[simp] theorem State.put64_time (s : State) (f g : Field) (v : Nat) : (s.put64 f g v).time = s.time := rfl
@[simp] theorem State.put64_fcl (s : State) (f g : Field) (v : Nat) : (s.put64 f g v).fcl = s.fcl := rfl
@[simp] theorem State.put64_evr (s : State) (f g : Field) (v : Nat) : (s.put64 f g v).evr = s.evr := rfl
@[simp] theorem State.put64_frz (s : State) (f g : Field) (v : Nat) : (s.put64 f g v).frz = s.frz := rfl
@[simp] theorem State.put64_cle (s : State) (f g : Field) (v : Nat) : (s.put64 f g v).cle = s.cle := rfl
@[simp] theorem State.put64_cores (s : State) (f g : Field) (v : Nat) : (s.put64 f g v).cores = s.cores := rfl
@[simp] theorem State.put64_rsc (s : State) (f g : Field) (v : Nat) : (s.put64 f g v).rsc = s.rsc := rfl
@[simp] theorem State.put64_mem (s : State) (f g : Field) (v : Nat) : (s.put64 f g v).mem = s.mem := rfl
@[simp] theorem State.put64_poison (s : State) (f g : Field) (v : Nat) : (s.put64 f g v).poison = s.poison := rfl

/-! ## event -/

@[simp] theorem State.event_pending (s : State) (n : Nat) : (s.event n).pending = s.pending := rfl
@[simp] theorem State.event_cells (s : State) (n : Nat) : (s.event n).cells = s.cells := rfl
@[simp] theorem State.event_shadow (s : State) (n : Nat) : (s.event n).shadow = s.shadow := rfl
@[simp] theorem State.event_active (s : State) (n : Nat) : (s.event n).active = s.active := rfl
@[simp] theorem State.event_latches (s : State) (n : Nat) : (s.event n).latches = s.latches := rfl
@[simp] theorem State.event_tx (s : State) (n : Nat) : (s.event n).tx = s.tx := rfl
@[simp] theorem State.event_hostOut (s : State) (n : Nat) : (s.event n).hostOut = s.hostOut := rfl
@[simp] theorem State.event_freeCtr (s : State) (n : Nat) : (s.event n).freeCtr = s.freeCtr := rfl
@[simp] theorem State.event_pins (s : State) (n : Nat) : (s.event n).pins = s.pins := rfl
@[simp] theorem State.event_clk (s : State) (n : Nat) : (s.event n).clk = s.clk := rfl
@[simp] theorem State.event_cmt (s : State) (n : Nat) : (s.event n).cmt = s.cmt := rfl
@[simp] theorem State.event_seq (s : State) (n : Nat) : (s.event n).seq = s.seq := rfl
@[simp] theorem State.event_fail (s : State) (n : Nat) : (s.event n).fail = s.fail := rfl
@[simp] theorem State.event_seg (s : State) (n : Nat) : (s.event n).seg = s.seg := rfl
@[simp] theorem State.event_apg (s : State) (n : Nat) : (s.event n).apg = s.apg := rfl
@[simp] theorem State.event_land (s : State) (n : Nat) : (s.event n).land = s.land := rfl
@[simp] theorem State.event_cap (s : State) (n : Nat) : (s.event n).cap = s.cap := rfl
@[simp] theorem State.event_que (s : State) (n : Nat) : (s.event n).que = s.que := rfl
@[simp] theorem State.event_hbc (s : State) (n : Nat) : (s.event n).hbc = s.hbc := rfl
@[simp] theorem State.event_tiu (s : State) (n : Nat) : (s.event n).tiu = s.tiu := rfl
@[simp] theorem State.event_grd (s : State) (n : Nat) : (s.event n).grd = s.grd := rfl
@[simp] theorem State.event_cal (s : State) (n : Nat) : (s.event n).cal = s.cal := rfl
@[simp] theorem State.event_pmu (s : State) (n : Nat) : (s.event n).pmu = s.pmu := rfl
@[simp] theorem State.event_lnk (s : State) (n : Nat) : (s.event n).lnk = s.lnk := rfl
@[simp] theorem State.event_pmg (s : State) (n : Nat) : (s.event n).pmg = s.pmg := rfl
@[simp] theorem State.event_time (s : State) (n : Nat) : (s.event n).time = s.time := rfl
@[simp] theorem State.event_evr (s : State) (n : Nat) : (s.event n).evr = s.evr := rfl
@[simp] theorem State.event_frz (s : State) (n : Nat) : (s.event n).frz = s.frz := rfl
@[simp] theorem State.event_cle (s : State) (n : Nat) : (s.event n).cle = s.cle := rfl
@[simp] theorem State.event_cores (s : State) (n : Nat) : (s.event n).cores = s.cores := rfl
@[simp] theorem State.event_rsc (s : State) (n : Nat) : (s.event n).rsc = s.rsc := rfl
@[simp] theorem State.event_mem (s : State) (n : Nat) : (s.event n).mem = s.mem := rfl
@[simp] theorem State.event_poison (s : State) (n : Nat) : (s.event n).poison = s.poison := rfl

/-! ## Register fields -/

@[simp] theorem State.get_put_same (s : State) (f : Field) (v : Nat) : (s.put f v).get f = v % 2 ^ f.width := by
  simp [State.get, State.put]

theorem State.get_put_ne (s : State) {f g : Field} (v : Nat) (h : g.id ≠ f.id) : (s.put f v).get g = s.get g := by
  simp only [State.get, State.put]
  exact Assoc.get_set_ne _ _ _ _ h

/-- A field reads from the cells alone. -/
theorem State.get_congr {s t : State} (f : Field) (h : t.cells = s.cells) : t.get f = s.get f := by
  simp [State.get, h]

@[simp] theorem State.get_putShadow (s : State) (f g : Field) (v : Nat) : (s.putShadow f v).get g = s.get g := rfl
@[simp] theorem State.get_send (s : State) (m : TxMsg) (g : Field) : (s.send m).get g = s.get g := rfl
@[simp] theorem State.get_toHost (s : State) (m : HostMsg) (g : Field) : (s.toHost m).get g = s.get g := rfl
@[simp] theorem State.get_raise (s : State) (n a v : Nat) (g : Field) : (s.raise n a v).get g = s.get g := rfl
@[simp] theorem State.get_memWrite (s : State) (a : Nat) (bs : List (BitVec 8)) (g : Field) :
    (s.memWrite a bs).get g = s.get g := rfl
@[simp] theorem State.get_setChan (s : State) (c : Nat) (l : ChanLand) (g : Field) : (s.setChan c l).get g = s.get g := rfl

@[simp] theorem State.getShadow_putShadow_same (s : State) (f : Field) (v : Nat) :
    (s.putShadow f v).getShadow f = v % 2 ^ f.width := by
  simp [State.getShadow, State.putShadow]

theorem State.getShadow_putShadow_ne (s : State) {f g : Field} (v : Nat) (h : g.id ≠ f.id) :
    (s.putShadow f v).getShadow g = s.getShadow g := by
  simp only [State.getShadow, State.putShadow]
  exact Assoc.get_set_ne _ _ _ _ h

/-- A field cut to its width fits it. -/
theorem State.get_put_lt (s : State) (f : Field) (v : Nat) : (s.put f v).get f < 2 ^ f.width := by
  rw [State.get_put_same]
  exact Nat.mod_lt _ (Nat.two_pow_pos _)

theorem State.flag_eq (s : State) (f : Field) (b : Bool) : s.flag f b = s.put f (b2n b) := rfl
theorem State.inc_eq (s : State) (f : Field) : s.inc f = s.put f (s.get f + 1) := rfl
theorem State.incSat_eq (s : State) (f : Field) : s.incSat f = s.put f (min (s.get f + 1) (2 ^ f.width - 1)) := rfl
theorem State.event_eq (s : State) (n : Nat) : s.event n = s.raise n 0 0 := rfl

theorem State.on_true (s : State) (f : Field) : (s.on f = true) = (s.get f ≠ 0) := by simp [State.on]

theorem State.on_false (s : State) (f : Field) : (s.on f = false) = (s.get f = 0) := by simp [State.on]

/-- An occurrence joins the end of those not yet decided, with its instant and stamp. -/
theorem State.raise_raised (s : State) (n a v : Nat) : (s.raise n a v).raised =
    s.raised ++ [⟨n, a % 2 ^ 16, v % 2 ^ 16, s.time.rc, s.stamp, s.time.wall, s.on WTM_STATUS_COARSE⟩] := rfl

@[simp] theorem State.chan_setChan_same (s : State) (c : Nat) (l : ChanLand) : (s.setChan c l).chan c = l := by
  simp [State.chan, State.setChan]

theorem State.chan_setChan_ne (s : State) {c d : Nat} (l : ChanLand) (h : d ≠ c) : (s.setChan c l).chan d = s.chan d := by
  simp only [State.chan, State.setChan]
  exact Assoc.get_set_ne _ _ _ _ h

end Sys2Proof.Machine
end

