-- ==== Sys2Proof/Laws/Memory.lean ====
section
/-! SUPPORT. HBM: a read after a write there gives the byte written, a write leaves every other byte alone, and every write keeps the
canonical form. -/

namespace Sys2Proof.Machine

/-- A byte outside the bytes written is as it was. -/
theorem get_memPut_out (m : List Host.Cell) (a : Nat) (bs : List (BitVec 8)) {x : Nat} (h : x < a ∨ a + bs.length ≤ x) :
    Assoc.get 0 (memPut m a bs) x = Assoc.get 0 m x := by
  induction bs generalizing m a with
  | nil => rfl
  | cons b bs ih =>
    simp only [List.length_cons] at h
    rw [memPut, ih _ _ (by omega)]
    exact Assoc.get_set_ne _ _ _ _ (by omega)

/-- A byte written reads back. -/
theorem get_memPut_in (m : List Host.Cell) (a : Nat) (bs : List (BitVec 8)) (i : Nat) (h : i < bs.length) :
    Assoc.get 0 (memPut m a bs) (a + i) = bs[i] := by
  induction bs generalizing m a i with
  | nil => simp at h
  | cons b bs ih =>
    rw [memPut]
    cases i with
    | zero =>
      rw [get_memPut_out _ _ _ (by omega)]
      simp
    | succ i =>
      have h' : i < bs.length := by simpa using h
      have := ih (Assoc.set 0 m a b) (a + 1) i h'
      rw [show a + (i + 1) = a + 1 + i by omega, this]
      simp

theorem memPut_wf (m : List Host.Cell) (a : Nat) (bs : List (BitVec 8)) (h : Memory.wf m = true) :
    Memory.wf (memPut m a bs) = true := by
  induction bs generalizing m a with
  | nil => exact h
  | cons b bs ih => exact ih _ _ (Assoc.wf_set _ _ _ _ h)

theorem State.memByte_memWrite_out (s : State) (a : Nat) (bs : List (BitVec 8)) {x : Nat} (h : x < a ∨ a + bs.length ≤ x) :
    (s.memWrite a bs).memByte x = s.memByte x := get_memPut_out _ _ _ h

theorem State.memByte_memWrite_in (s : State) (a : Nat) (bs : List (BitVec 8)) (i : Nat) (h : i < bs.length) :
    (s.memWrite a bs).memByte (a + i) = bs[i] := get_memPut_in _ _ _ _ h

theorem State.memWrite_wf (s : State) (a : Nat) (bs : List (BitVec 8)) (h : Memory.wf s.mem = true) :
    Memory.wf (s.memWrite a bs).mem = true := memPut_wf _ _ _ h

end Sys2Proof.Machine
end

