-- ==== Sys2Proof/Laws/Reach.lean ====
section
/-! SUPPORT. What a write to a register does as a whole: where it reaches the register its effect is made, and elsewhere at most one
counter counts. -/

namespace Sys2Proof.Machine

theorem State.reaches_iff (s : State) (req : Req) (off : Nat) : s.reaches req off = true ↔
    s.issues req off 4 = true ∧ s.ignored req off = false ∧ (req == Req.host && rscRange off) = false ∧ s.regOn off = true := by
  simp only [State.reaches, Bool.and_eq_true, Bool.not_eq_true', and_assoc]

/-- What a requester other than a Scion writes leaves it. -/
@[simp] theorem State.issues_host (s : State) (off n : Nat) : s.issues .host off n = true := rfl
@[simp] theorem State.issues_rootstock (s : State) (off n : Nat) : s.issues .rootstock off n = true := rfl

/-- A write that reaches its register has its effect. -/
theorem State.reachReg_of_reaches {s : State} {req : Req} {off : Nat} (k : State → Out) (h : s.reaches req off = true) :
    s.reachReg req off k = k s := by
  obtain ⟨h0, h1, h2, h3⟩ := (s.reaches_iff req off).mp h
  simp [State.reachReg, h0, h1, h2, h3]

/-- A write of TAKE that reaches its register has its effect. -/
theorem State.takeReg_of_reaches {s : State} {req : Req} {off : Nat} (k : State → Out) (h : s.reaches req off = true) :
    s.takeReg req off k = k s := by
  obtain ⟨h0, h1, h2, h3⟩ := (s.reaches_iff req off).mp h
  simp [State.takeReg, h0, h1, h3]

/-- Everything that a write to a register can do. -/
theorem State.reachReg_cases (s : State) (req : Req) (off : Nat) (k : State → Out) :
    s.reachReg req off k = .next (s.notIssued req) ∨ s.reachReg req off k = .next s ∨
      s.reachReg req off k = .next (s.incSat RSC_HWREFUSED) ∨ s.reachReg req off k = k s ∨
      s.reachReg req off k = .next (s.incSat PMG_NOFFWR) := by
  unfold State.reachReg
  split
  · exact .inl rfl
  · split
    · exact .inr (.inl rfl)
    · split
      · exact .inr (.inr (.inl rfl))
      · split
        · exact .inr (.inr (.inr (.inl rfl)))
        · exact .inr (.inr (.inr (.inr rfl)))

/-- An outcome that is a next state, with what holds of it. -/
theorem completes_next {t : State} {P : State → Prop} : Completes (.next t) P ↔ P t := by
  simp [Completes]

theorem completes_of_eq {o : Out} {t : State} {P : State → Prop} (h : o = .next t) (hp : P t) : Completes o P := ⟨t, h, hp⟩

/-- A write of one field leaves every other. -/
theorem State.regsBut_put (s : State) (f : Field) (v : Nat) : s.regsBut (s.put f v) [f] := by
  intro g hg
  exact State.get_put_ne s v (hg f (by simp))

theorem State.regsBut_refl (s : State) (fs : List Field) : s.regsBut s fs := fun _ _ => rfl

/-- In a word's issue a command of the sequencer acts on the playlist. -/
theorem State.whenRunning_of_inWord {s : State} {p : Playlist} {w : Nat} (f : Playlist → State) (h : s.inWord p w = true) :
    s.whenRunning f = .next (f p) := by
  simp only [State.inWord, Bool.and_eq_true, decide_eq_true_eq, Bool.not_eq_true'] at h
  simp [State.whenRunning, h]

/-- The word in issue is the word. -/
theorem State.word_of_inWord {s : State} {p : Playlist} {w : Nat} (h : s.inWord p w = true) : s.seq.word = some w := by
  simp only [State.inWord, Bool.and_eq_true, decide_eq_true_eq, Bool.not_eq_true'] at h
  exact h.2

/-- After the last vector of a word its operation acts. -/
theorem State.atLast_of_lastOf {s : State} {p : Playlist} {w op : Nat} (f : Playlist → Nat → State) (h : s.lastOf p w op = true) :
    s.atLast op f = .next (f p w) := by
  simp only [State.lastOf, Bool.and_eq_true, decide_eq_true_eq] at h
  rw [State.atLast, State.whenRunning_of_inWord _ h.1.1, State.word_of_inWord h.1.1]
  simp [h.1.2, h.2]

end Sys2Proof.Machine
end

