-- ==== Sys2Proof/Machine/Pins.lean ====
section
/-! DEFINITION. The output lands of R27: what each stands at in a reset, in the safe state and otherwise. They are read off the state;
no command reads them. -/

namespace Sys2Proof.Machine

/-- An output land of R27, with its port, lane or channel. -/
inductive OutLand where
  | channel (c : Fin 256)
  | lbSck (p : Fin 4)
  | lbMosi (p : Fin 4)
  | lbCsn (p : Fin 4) (k : Fin 8)
  | pwm (k : Fin 8)
  | syncOut
  | extEvt (k : Fin 4)
  | safeN
  | tdo
  | pet (l : Fin 8)
  | clkreqN
  | azTx (p l : Fin 4)
  | avsClk
  | avsMdata
  | vcoreSns
  deriving DecidableEq, Repr

/-- What a land stands at: a level, high impedance, electrical idle, released (open drain), connected, or driven by the unit that it
serves. -/
inductive LandLevel where
  | low
  | high
  | highZ
  | idle
  | released
  | connected
  | driven
  deriving DecidableEq, Repr

/-- The loop-bus outputs of port p carry transactions: the port runs, or the ramp generator drives it (R31, R536). -/
def State.lbDriven (s : State) (p : Nat) : Bool :=
  decide (s.pins.inReset = 0) && !s.pins.testEn && (if s.inSafe then s.cle.ramp.contains p else s.on (CLE_LB_STATUS_RUN p))

/-- A loop out of OFF drives PWM land k, and the engine has its clock (R516, R527, R537). -/
def State.pwmRuns (s : State) (k : Nat) : Bool :=
  s.domOn 15 && !s.frozen && (List.range 64).any fun n =>
    s.get (CLE_LSTATUS_MODE n) != 0 && s.get (CLE_CFG_SINK n) == 2 && s.get (CLE_CFG_OUTIDX n) == k && !(decide (56 ≤ n) && s.on (CLE_TH_CFG_EN (n - 56)))

/-- What an output land stands at (R27, R28, R31, R139, R354, R501, R733). -/
def State.landLevel (s : State) : OutLand → LandLevel
  | .channel c => if s.landsSafe || s.offLand c.val || (s.chan c.val).drv = 0 then .highZ else if (s.chan c.val).drv = 1 then .low else .high
  | .lbSck p => if s.lbDriven p.val then .driven else .low
  | .lbMosi p => if s.lbDriven p.val then .driven else .low
  | .lbCsn p _ => if s.lbDriven p.val then .driven else .high
  | .pwm k => if s.landsSafe || !s.pwmRuns k.val then .low else .driven
  | .syncOut => if !s.landsSafe && decide (s.time.rc < s.pins.syncUntil) then .high else .low
  | .extEvt k => if s.extEvt k.val then .high else .low
  | .safeN => if s.safeLow then .low else .released
  | .tdo => .highZ
  | .pet _ => if s.landsSafe || !s.on LNK_PCIE_STATUS_UP then .idle else .driven
  | .clkreqN => if s.landsSafe || s.get LNK_PCIE_STATUS_LPWR = 2 then .released else .low
  | .azTx p l =>
    if s.landsSafe || !(s.get (LNK_AZ_STATUS_STATE p.val) = 2 || s.get (LNK_AZ_STATUS_STATE p.val) = 3
      || s.get (LNK_AZ_STATUS_STATE p.val) = 4 && bitAt (s.get (LNK_AZ_STATUS_LANES p.val)) l.val || s.get (LNK_AZ_STATUS_STATE p.val) = 6)
    then .idle else .driven
  | .avsClk => if s.landsSafe then .low else .driven
  | .avsMdata => if s.landsSafe then .high else .driven
  | .vcoreSns => .connected

end Sys2Proof.Machine
end

