-- ==== Sys2Proof/WellFormed.lean ====
section
/-! DEFINITION. Well-formed commands: what the operands of a command satisfy beyond their types. -/

namespace Sys2Proof

/-- A list of registers as a core gives them: x1 to x31 (R585, R590). -/
def wfRegs (x : List (BitVec 64)) : Bool := x.length == 31

/-- A write over PCI Express carries 1 to 512 bytes (R703). -/
def wfPayload (d : List Byte) : Bool := decide (1 ≤ d.length) && decide (d.length ≤ 512)

/-- A request of an HBM port is 1 to 64 bytes, the size of a granule, and a read carries no data (R650, R653). -/
def wfHbm (write : Bool) (len : Nat) (d : List Byte) : Bool :=
  if write then decide (1 ≤ d.length) && decide (d.length ≤ 64) else decide (1 ≤ len) && d.isEmpty

/-- The histograms of a calibration: 17 interpolators of 1,024 bins (R425, R447). -/
def wfHist (h : List (List (BitVec 23))) : Bool := h.length == 17 && h.all fun b => b.length == 1024 && b.foldl (fun n x => n + x.toNat) 0 == 2 ^ 22

/-- A remote access names an operation of R699 and an address that R701 accepts. -/
def wfRemote (op addr : Nat) : Bool := decide (op ≠ 0) && decide (addr % 4 = 0) && decide (addr < 0x10000000)

/-- A PCI Express link trains at one of six rates and one of three widths (R703, R715). -/
def wfPcie (rate width : Nat) : Bool := decide (1 ≤ rate) && decide (rate ≤ 6) && (width == 1 || width == 4 || width == 8)

/-- A command is well formed. Operands of every other command are bounded by their types. -/
def Instr.wf : Instr → Bool
  | .hostBar2Write _ d _ => wfPayload d
  | .hbmRequest _ w _ l d => wfHbm w l.val d
  | .streamFetch _ _ d => !d.isEmpty
  | .grdPTick p => p.length == 312
  | .tiuCalEnd _ h => wfHist h
  | .formationDone _ _ _ r => decide (r.length < 8192)
  | .fastEntryPush _ x _ _ _ _ => wfRegs x
  | .mretRestore _ x _ _ _ _ => wfRegs x
  | .rraServe _ op a _ => wfRemote op.val a.toNat
  | .pcieLinkUp _ _ r w _ => wfPcie r.val w.val
  | _ => true

end Sys2Proof
end

