-- ==== Sys2Proof/Tests/Slice0.lean ====
section
/-! SUPPORT. The model's own tests, and for every statement with hypotheses a concrete state and operands that meet them. -/

namespace Sys2Proof.Tests

open Sys2Proof.Machine

-- One theorem after the other: each is checked by the kernel before the next is read, so that no thread waits for another.
set_option Elab.async false

/-- HBM in service, nothing asked of the reserve. -/
def wHbm : State := (State.reset.put HBC_STATUS_INSERVICE 1).put HBC_CTRL_AUTORETIRE 0

/-- HBM in service with one read of 64 bytes waiting at port 1. -/
def wHbmRead : State := wHbm.setHbmQueue 1 [⟨false, 64, 64, [], false, 0⟩]

/-- HBM in service with one write of a whole granule waiting at port 1. -/
def wHbmWrite : State := wHbm.setHbmQueue 1 [⟨true, 64, 1, [7], false, 0⟩]

/-- A playlist of one word, slot 5, whose data is segment 3. -/
def wPlaylist : Playlist := ⟨1, true, 0, 0, 0, 5, 9, 1, [⟨5, 0, 0⟩], [3], none, 0⟩

/-- A playlist runs whose window locks the first eight bytes of HBM. -/
def wSegLocked : State := { wHbm with
  seq := { wHbm.seq with running := some wPlaylist }
  seg := { wHbm.seg with desc := [(3, ⟨0x1000000, 1, 0, true, 0⟩)] } }

theorem wHbm_paused (k : Nat) : wHbm.hbmPaused k = false := by
  have h1 : (HBC_CH_STATUS_STATE k).id ≠ HBC_CTRL_AUTORETIRE.id := by
    simp [HBC_CH_STATUS_STATE, HBC_CTRL_AUTORETIRE, Field.id]; omega
  have h2 : (HBC_CH_STATUS_STATE k).id ≠ HBC_STATUS_INSERVICE.id := by
    simp [HBC_CH_STATUS_STATE, HBC_STATUS_INSERVICE, Field.id]; omega
  have h : wHbm.get (HBC_CH_STATUS_STATE k) = 0 := by
    show ((State.reset.put HBC_STATUS_INSERVICE 1).put HBC_CTRL_AUTORETIRE 0).get _ = 0
    rw [State.get_put_ne _ _ h1, State.get_put_ne _ _ h2]
    rfl
  simp [State.hbmPaused, h]

/-- The only request that waits is served. -/
theorem wHbm_serves (p : Fin 8) (r : HbmReq) : (wHbm.setHbmQueue p.val [r]).hbmServes p.val r = true := by
  have hp : ∀ k, (wHbm.setHbmQueue p.val [r]).hbmPaused k = false := wHbm_paused
  have hq : ∀ q : Fin 8, q ≠ p → (wHbm.setHbmQueue p.val [r]).hbmQueue q.val = [] := by
    intro q h
    simp only [State.setHbmQueue, State.hbmQueue]
    rw [Assoc.get_set_ne _ _ _ _ (by simpa [Fin.ext_iff] using h)]; rfl
  have hn : (wHbm.setHbmQueue p.val [r]).hbmNext ((wHbm.setHbmQueue p.val [r]).hbmChan r.addr) p.val = true := by
    simp only [State.hbmNext, List.all_eq_true, List.mem_range]
    intro q h
    by_cases e : (⟨q, h⟩ : Fin 8) = p
    · subst e; simp
    · have := hq ⟨q, h⟩ e
      simp only at this
      simp [State.hbmContends, this]
  simp [State.hbmServes, State.hbmWaits, hp, hn]

/-- Core c runs, with a plot that covers BAR0. -/
def withPlot (s : State) (c : Nat) : State :=
  ((((s.put (SCN_STATUS_STATE c) 1).put (SCN_PLOT_ATTR_EN c 0) 1).put (SCN_PLOT_ATTR_W c 0) 1).put (SCN_PLOT_ATTR_TGT c 0) 2).put
    (SCN_PLOT_ATTR_SIZE c 0) 26
theorem witness_hbmPorts_1 :
    hbmScionArea 0xA80000000 1 = true ∧ hbmAddressable 0xA80000000 1 = true ∧ hbmAddressable 0xB80000000 1 = false ∧
      hbmAddressable 64 64 = true ∧ hbmScionArea 64 64 = false ∧ State.reset.segLocked 64 64 = false ∧ wSegLocked.segLocked 7 1 = true := by
  decide +kernel
theorem witness_hbmPorts_2 :
    State.reset.hbmQueue 7 = [] ∧ (wHbmRead.put (HBC_CH_STATUS_STATE (wHbmRead.hbmChan 64)) 1).hbmQueue 1 = [⟨false, 64, 64, [], false, 0⟩] ∧
      (wHbmRead.put (HBC_CH_STATUS_STATE (wHbmRead.hbmChan 64)) 1).hbmServes 1 ⟨false, 64, 64, [], false, 0⟩ = false := by
  refine ⟨by decide +kernel, by decide +kernel, ?_⟩
  have h1 : ∀ k, HBC_RMAP_VALID.id ≠ (HBC_CH_STATUS_STATE k).id := by
    intro k; simp [HBC_CH_STATUS_STATE, HBC_RMAP_VALID, Field.id]; omega
  have hg : ∀ (s t : State) (a : Nat), s.on HBC_RMAP_VALID = false → t.on HBC_RMAP_VALID = false → s.hbmChan a = t.hbmChan a := by
    intro s t a e f; simp [State.hbmChan, e, f]
  have hc : (wHbmRead.put (HBC_CH_STATUS_STATE (wHbmRead.hbmChan 64)) 1).hbmChan 64 = wHbmRead.hbmChan 64 :=
    hg _ _ _ (by rw [State.on, State.get_put_ne _ _ (h1 _)]; decide +kernel) (by decide +kernel)
  have hp : (wHbmRead.put (HBC_CH_STATUS_STATE (wHbmRead.hbmChan 64)) 1).hbmPaused (wHbmRead.hbmChan 64) = true := by
    simp [State.hbmPaused, HBC_CH_STATUS_STATE]
  simp [State.hbmServes, State.hbmWaits, hc, hp]
theorem witness_hbmPorts_3 :
    wHbmRead.hbmQueue 1 = [⟨false, 64, 64, [], false, 0⟩] ∧ wHbmRead.hbmOn = true ∧ wHbmRead.poisoned 64 64 = false ∧
      wHbmRead.on HBC_CTRL_AUTORETIRE = false ∧ wHbmWrite.hbmQueue 1 = [⟨true, 64, 1, [7], false, 0⟩] ∧ wHbmWrite.hbmOn = true ∧
      wHbmRead.hbmServes 1 ⟨false, 64, 64, [], false, 0⟩ = true ∧ wHbmWrite.hbmServes 1 ⟨true, 64, 1, [7], false, 0⟩ = true ∧
      { wHbmRead with poison := [1] }.poisoned 64 64 = true := by
  exact ⟨by decide +kernel, by decide +kernel, by decide +kernel, by decide +kernel, by decide +kernel, by decide +kernel,
    wHbm_serves 1 _, wHbm_serves 1 _, by decide +kernel⟩
theorem witness_hbmPorts_4 :
    (wHbm.setHbmQueue 0 [⟨false, 64, 64, [], false, 0⟩]).hbmQueue 0 = [⟨false, 64, 64, [], false, 0⟩] ∧ wHbm.hbmOn = true ∧
      wHbm.poisoned 64 64 = false ∧ (wHbm.setHbmQueue 0 [⟨false, 64, 64, [], false, 0⟩]).hbmServes 0 ⟨false, 64, 64, [], false, 0⟩ = true := by
  exact ⟨by decide +kernel, by decide +kernel, by decide +kernel, wHbm_serves 0 _⟩
theorem witness_hbmPorts_5 :
    State.reset.reaches .host 0x50000C = true := by
  decide +kernel
theorem witness_hbmPorts_6 :
    State.reset.hbc.fences = [] ∧ [(0, 0)].all (fun e : Nat × Nat => decide (e.2 = 0)) = true ∧ [(7, 1)].all (fun e : Nat × Nat => decide (e.2 = 0)) = false := by
  decide +kernel
theorem witness_hbmHostAndScrub_1 :
    wHbm.ignored .host 0x10000 = false ∧ (State.reset.resetState 2 0).ignored .host 0x10000 = true ∧ hbmAddressable 0xB7FFFFFFF 1 = true ∧
      hbmAddressable 0xB7FFFFFFF 2 = false ∧ hbmScionArea 0xA80000000 1 = true ∧ hbmScionArea 0xA7FFFFFFF 1 = false ∧
      wSegLocked.segLocked 7 1 = true ∧ wSegLocked.segLocked 8 1 = false ∧ State.reset.hbmOn = false := by
  decide +kernel
theorem witness_hbmHostAndScrub_2 :
    wHbm.ignored .host 0x10000 = false ∧ hbmAddressable 0 4 = true ∧ hbmScionArea 0 4 = false ∧ wHbm.segLocked 0 4 = false ∧
      wHbm.hbmOn = true ∧ wHbm.badMerges 0 0 4 = [] ∧ wHbm.badMerges 1 0 4 = [0] ∧ wHbm.badMerges 3 31 34 = [0, 64] := by
  decide +kernel
theorem witness_hbmHostAndScrub_3 :
    wHbm.on HBC_CTRL_SCRUB_EN = true ∧ wHbm.hbmOn = true ∧ hbmAddressable (771751935 * 64) 64 = true ∧ hbmAddressable (771751936 * 64) 64 = false ∧
      wHbm.poisoned 0 64 = false ∧ State.reset.hbmOn = false ∧ { wHbm with poison := [0] }.poisoned 0 64 = true := by
  decide +kernel
theorem witness_hbmHostAndScrub_4 :
    wHbm.reaches .host 0x500014 = true ∧ wHbm.on HBC_RMAP_VALID = false ∧ wHbm.on HBC_RMAP_COPYING = false ∧ wHbm.hbmOn = true ∧
      wHbm.get (HBC_CH_STATUS_STATE 3) ≠ 3 ∧ wHbm.hbmPaused 3 = false ∧ (wHbm.put (HBC_CH_STATUS_STATE 31) 1).hbmPaused 31 = true ∧
      (wHbm.put HBC_RMAP_COPYING 1).reaches .host 0x500014 = true ∧ (wHbm.put HBC_RMAP_COPYING 1).on HBC_RMAP_COPYING = true := by
  decide +kernel
theorem witness_hbmHostAndScrub_5 :
    (wHbm.put HBC_RMAP_COPYING 1).on HBC_RMAP_COPYING = true ∧ wHbm.on HBC_RMAP_COPYING = false := by
  decide +kernel
theorem witness_hbmPauses_1 :
    wHbm.hbmOn = true ∧ wHbm.get (HBC_CH_STATUS_STATE 0) ≠ 3 ∧ (List.range 32).any wHbm.hbmPaused = false ∧ wHbm.pauseAge 0 = some 0 ∧
      wHbm.pauseDone 0 = false ∧ wHbm.pauseAge 16 = none ∧ wHbm.seq.running = none ∧ wSegLocked.seq.running = some wPlaylist ∧
      ({ wHbm with time := { wHbm.time with rc := 5000 } } : State).pauseAge 0 = some 5000 ∧
      ({ wHbm with hbc := { wHbm.hbc with begun := [(0, 1)] } } : State).pauseDone 0 = true := by
  decide +kernel
theorem witness_hbmPauses_3 :
    (wHbm.put (HBC_CH_STATUS_STATE 5) 1).hbmPaused 5 = true ∧ wHbm.hbmPaused 5 = false ∧ (wHbm.put (HBC_CH_STATUS_STATE 5) 1).on HBC_RMAP_COPYING = false ∧
      ((wHbm.put (HBC_CH_STATUS_STATE 5) 1).put (HBC_CH_STATUS_RTSEQ 5) 1).get (HBC_CH_STATUS_RTSEQ 5) = 1 := by
  decide +kernel
theorem witness_hbmPauses_4 :
    ((((wHbm.put HBC_CTRL_AUTORETIRE 1).put (HBC_CH_STATUS_STATE 5) 1).put (HBC_CH_STATUS_RTSEQ 5) 2)).hbmPaused 5 = true ∧
      ((((wHbm.put HBC_CTRL_AUTORETIRE 1).put (HBC_CH_STATUS_STATE 5) 1).put (HBC_CH_STATUS_RTSEQ 5) 2)).get (HBC_CH_STATUS_RTSEQ 5) = 2 ∧
      ((((wHbm.put HBC_CTRL_AUTORETIRE 1).put (HBC_CH_STATUS_STATE 5) 1).put (HBC_CH_STATUS_RTSEQ 5) 2)).on HBC_CTRL_AUTORETIRE = true ∧
      ((((wHbm.put HBC_CTRL_AUTORETIRE 1).put (HBC_CH_STATUS_STATE 5) 1).put (HBC_CH_STATUS_RTSEQ 5) 2)).hbmOn = true ∧
      ((((wHbm.put HBC_CTRL_AUTORETIRE 1).put (HBC_CH_STATUS_STATE 5) 1).put (HBC_CH_STATUS_RTSEQ 5) 2)).on HBC_RMAP_VALID = false ∧
      ((((wHbm.put HBC_CTRL_AUTORETIRE 1).put (HBC_CH_STATUS_STATE 5) 1).put (HBC_CH_STATUS_RTSEQ 5) 2)).on HBC_RMAP_COPYING = false := by
  decide +kernel
theorem witness_hbmPauses_6 :
    95 < (96 : BitVec 8).toInt ∧ 85 < (86 : BitVec 8).toInt ∧ (83 : BitVec 8).toInt ≤ 83 ∧ wHbm.on HBC_STATUS_HOT1 = false ∧
      (wHbm.put HBC_STATUS_HOT1 1).on HBC_STATUS_HOT1 = true := by
  decide +kernel

/-- A pool of 64 cells with queue 3 open, empty, limit 10. -/
def wQue : State := (State.reset.put QUE_POOL_CELLS 64).setQueue 3 ⟨true, 10, true, 0, 0, []⟩
/-- Queue 3 with one cell. -/
def wCell : State := wQue.setQueue 3 ⟨true, 10, true, 1, 0, [⟨1, true, true, 0, [5]⟩]⟩
/-- Queue 3 bound to ring 2, with the host link up. -/
def wRing : State :=
  (((wCell.put (QUE_HR_STATUS_BOUND 2) 1).put (QUE_HR_CFG_QUEUE 2) 3).put LNK_PCIE_STATUS_UP 1).put (QUE_HR_CFG_SIZE 2) 12
/-- Queue 3 open with a limit of one cell. -/
def wFull : State := wQue.setQueue 3 ⟨true, 1, true, 0, 0, []⟩
/-- Queue 3 with a limit of one cell, which a gap marker holds. -/
def wGap : State := wQue.setQueue 3 ⟨true, 1, false, 1, 1, [⟨2, true, true, 0, markerPayload 1 1⟩]⟩
/-- Queue 3 with a limit of one cell and neither a cell nor a held-back cell. -/
def wBare : State := wQue.setQueue 3 ⟨true, 1, false, 0, 0, []⟩
theorem witness_queuePool_1 :
    wQue.reaches .host 0x4C0024 = true ∧ (wQue.queue 4).isOpen = false ∧ 2 ≤ (2 : BitVec 25).toNat ∧ (wQue.queue 3).isOpen = true ∧
      (1 : BitVec 25).toNat < 2 ∧ 16777216 < (16777217 : BitVec 25).toNat ∧
      (16777216 : BitVec 25).toNat ≤ 16777216 ∧ wQue.poolAvail ≠ 0 ∧ State.reset.poolAvail = 0 ∧ State.reset.reaches .host 0x4C0024 = true := by
  decide +kernel
theorem witness_queuePool_2 :
    wQue.reaches .host 0x4C0024 = true ∧ wQue.ringOf 3 = none ∧ wRing.reaches .host 0x4C0024 = true ∧
      wRing.ringOf 3 = some 2 := by
  decide +kernel
theorem witness_queuePool_3 :
    wQue.reaches .host 0x4C0024 = true ∧ (wQue.queue 3).isOpen = true ∧ (wQue.queue 3).held = true ∧ (wQue.queue 4).isOpen = false ∧
      (wBare.queue 3).held = false ∧ (wBare.queue 3).cells = [] ∧ (wGap.queue 3).held = false ∧ (wGap.queue 3).cells ≠ [] ∧
      wGap.reaches .host 0x4C0024 = true := by
  decide +kernel
theorem witness_queuePool_4 :
    wQue.reaches .host 0x4C0040 = true ∧ State.reset.reaches (.scion 3) 0x4C0040 = false ∧ wQue.reaches .rootstock 0x4C0040 = true ∧ (0 : BitVec 10).toNat = 0 ∧ 896 < (897 : BitVec 10).toNat ∧
      (896 : BitVec 10).toNat ≤ 896 ∧ (wQue.queue 4).isOpen = false ∧ (wQue.queue 3).isOpen = true ∧
      (wQue.queue 3).n + ceilDiv (wQue.winData .host 4).length 56 + 1 ≤ (wQue.queue 3).limit ∧
      ceilDiv (wQue.winData .host 4).length 56 ≤ wQue.poolAvail := by
  decide +kernel
theorem witness_queuePool_5 :
    wFull.reaches .host 0x4C0040 = true ∧ 1 ≤ (1 : BitVec 10).toNat ∧ (4 : BitVec 10).toNat ≤ 896 ∧
      (wFull.queue 3).isOpen = true ∧ (wFull.queue 3).gapTail = false ∧ (wFull.queue 3).held = true ∧
      (wFull.queue 3).limit < (wFull.queue 3).n + ceilDiv (wFull.winData .host 4).length 56 + 1 ∧
      wGap.reaches .host 0x4C0040 = true ∧ (wGap.queue 3).isOpen = true ∧ (wGap.queue 3).gapTail = true ∧
      (wGap.queue 3).limit < (wGap.queue 3).n + ceilDiv (wGap.winData .host 4).length 56 + 1 ∧
      wBare.reaches .host 0x4C0040 = true ∧ (wBare.queue 3).isOpen = true ∧ (wBare.queue 3).gapTail = false ∧ (wBare.queue 3).held = false ∧
      (wBare.queue 3).limit < (wBare.queue 3).n + ceilDiv (wBare.winData .host 4).length 56 + 1 := by
  decide +kernel
theorem witness_queuePool_6 :
    wCell.reaches .host 0x4C0040 = true ∧ (wCell.ringOf 3).isSome = false ∧ (wCell.queue 3).isOpen = true ∧
      (wCell.queue 3).cells = ⟨1, true, true, 0, [5]⟩ :: [] ∧
      wQue.reaches .host 0x4C0040 = true ∧ (wQue.ringOf 3).isSome = false ∧ (wQue.queue 3).isOpen = true ∧ (wQue.queue 3).cells = [] ∧
      (wQue.queue 4).isOpen = false ∧ wRing.reaches .host 0x4C0040 = true ∧ (wRing.ringOf 3).isSome = true := by
  decide +kernel
theorem witness_hostRings_1 :
    wQue.reaches .host 0x4C1000 = true ∧ wQue.on (QUE_HR_STATUS_BOUND 0) = false ∧ (wQue.ringOf 3).isSome = false ∧
      (wQue.queue 3).isOpen = true ∧ 12 ≤ (12 : BitVec 6).toNat ∧ (32 : BitVec 6).toNat ≤ 32 ∧ (11 : BitVec 6).toNat < 12 ∧
      32 < (33 : BitVec 6).toNat ∧ (wQue.queue 4).isOpen = false ∧ wRing.on (QUE_HR_STATUS_BOUND 2) = true ∧ (wRing.ringOf 3).isSome = true ∧
      wRing.reaches .host 0x4C1000 = true ∧ wRing.on (QUE_HR_STATUS_BOUND 3) = false := by
  decide +kernel
theorem witness_hostRings_2 :
    State.reset.reaches .host 0x4C1000 = true := by
  decide +kernel
theorem witness_hostRings_3 :
    State.reset.reaches .host 0x4C1024 = true ∧
      Assoc.get 0 State.reset.que.cons 7 ≤ State.reset.get (QUE_HR_CONS_LO 7) + 2 ^ 32 * (0 : BitVec 32).toNat ∧
      State.reset.get (QUE_HR_CONS_LO 7) + 2 ^ 32 * (0 : BitVec 32).toNat ≤ State.reset.get64 (QUE_HR_PROD_LO 7) (QUE_HR_PROD_HI 7) ∧
      State.reset.get64 (QUE_HR_PROD_LO 7) (QUE_HR_PROD_HI 7) < State.reset.get (QUE_HR_CONS_LO 7) + 2 ^ 32 * (1 : BitVec 32).toNat := by
  decide +kernel
theorem witness_hostRings_4 :
    wQue.on (QUE_HR_STATUS_BOUND 255) = false ∧ State.reset.dmaOn = false ∧ wRing.dmaOn = true := by
  decide +kernel
theorem witness_hostRings_5 :
    wRing.on (QUE_HR_STATUS_BOUND 2) = true ∧ wRing.dmaOn = true ∧ wRing.get (QUE_HR_CFG_QUEUE 2) = 3 ∧
      (wRing.queue 3).cells.length = 1 ∧ wRing.get64 (QUE_HR_PROD_LO 2) (QUE_HR_PROD_HI 2) = 0 ∧ Assoc.get 0 wRing.que.cons 2 = 0 ∧
      min 1 (min (wRing.queue 3).cells.length (2 ^ wRing.get (QUE_HR_CFG_SIZE 2) / 64 - (0 - 0))) = 1 := by
  decide +kernel

/-- Task 9 in SERVICE on core 2, which runs, with no successor and no completion queue. -/
def wTask : State := (withPlot State.reset 2).setTask 9 ⟨3, 0, 0, false, 4, [0, 1, 0, 0, 0, 0, 0, 0], false, 2⟩
/-- Task 9 in a state of R617, with a dependence count. -/
def wTaskIn (st dep : Nat) : State := State.reset.setTask 9 ⟨st, dep, 0, false, 4, [], false, 0⟩
/-- HBM in service, with a descriptor of task 0 in it. -/
def wDesc (dep core : BitVec 8) : State := (State.reset.put HBC_STATUS_INSERVICE 1).memWrite 0 [dep, 0, 0, 0, core]
/-- Core 0 able to take a task, and task 9 READY for it. -/
def wReady : State := ((withPlot State.reset 0).put (TSK_C_REQ_REQ 0) 1).setTask 9 ⟨2, 0, 0, false, 4, [0, 1], true, 0⟩
theorem witness_taskLifecycle_1 :
    (wDesc 3 1).reaches .host 0x480010 = true ∧ (State.reset.task 0).st = 0 ∧ (wTaskIn 1 1).reaches .host 0x480010 = true ∧
      ((wTaskIn 1 1).task 9).st = 1 ∧ State.reset.hbmRead 0 32 = (none, State.reset) ∧ State.reset.reaches .host 0x480010 = true ∧
      (wDesc 3 1).hbmRead ((wDesc 3 1).get64 TSK_TBL_BASE_LO TSK_TBL_BASE_HI + 32 * 0) 32 = (some ([3, 0, 0, 0, 1] ++ List.replicate 27 0), wDesc 3 1) ∧
      descOk 0 (wordsOf ([3, 0, 0, 0, 1] ++ List.replicate 27 0)) = true ∧
      bits ((wordsOf ([3, 0, 0, 0, 1] ++ List.replicate 27 0)).getD 0 0) 0 16 ≠ 0 ∧
      (wDesc 0 1).hbmRead ((wDesc 0 1).get64 TSK_TBL_BASE_LO TSK_TBL_BASE_HI + 32 * 0) 32 = (some ([0, 0, 0, 0, 1] ++ List.replicate 27 0), wDesc 0 1) ∧
      descOk 0 (wordsOf ([0, 0, 0, 0, 1] ++ List.replicate 27 0)) = true ∧
      bits ((wordsOf ([0, 0, 0, 0, 1] ++ List.replicate 27 0)).getD 0 0) 0 16 = 0 ∧
      (wDesc 3 0).hbmRead ((wDesc 3 0).get64 TSK_TBL_BASE_LO TSK_TBL_BASE_HI + 32 * 0) 32 = (some ([3, 0, 0, 0, 0] ++ List.replicate 27 0), wDesc 3 0) ∧
      descOk 0 (wordsOf ([3, 0, 0, 0, 0] ++ List.replicate 27 0)) = false := by
  decide +kernel
theorem witness_taskLifecycle_2 :
    (wTaskIn 1 2).reaches .host 0x480014 = true ∧ ((wTaskIn 1 2).task 9).st = 1 ∧ ((wTaskIn 1 2).task 9).dep = 2 ∧
      (wTaskIn 1 1).reaches .host 0x480014 = true ∧ ((wTaskIn 1 1).task 9).dep = 1 ∧ State.reset.reaches .host 0x480014 = true ∧ (State.reset.task 9).st ≠ 1 := by
  decide +kernel
theorem witness_taskLifecycle_3 :
    (wTaskIn 4 0).reaches .host 0x480018 = true ∧ ((wTaskIn 4 0).task 9).st = 4 ∧ ((wTaskIn 5 0).task 9).st = 5 ∧ ((wTaskIn 3 0).task 9).st = 3 := by
  decide +kernel
theorem witness_taskLifecycle_4 :
    wTask.reaches (.scion 2) 0x481228 = true ∧ (wTask.task 9).st = 3 ∧ (wTask.task 9).core = 2 ∧ (wTask.task 9).succs = [] ∧
      bitAt ((wTask.task 9).word 4) 31 = false := by
  decide +kernel
theorem witness_taskLifecycle_5 :
    ((wTaskIn 1 2).task 9).st = 1 ∧ 2 ≤ ((wTaskIn 1 2).task 9).dep := by
  decide +kernel
theorem witness_taskLifecycle_6 :
    (wTask.setTask 9 ⟨3, 0, 0, false, 4, [4194304, 1], false, 2⟩).reaches (.scion 2) 0x481228 = true ∧
      ((wTask.setTask 9 ⟨3, 0, 0, false, 4, [4194304, 1], false, 2⟩).task 9).st = 3 ∧
      ((wTask.setTask 9 ⟨3, 0, 0, false, 4, [4194304, 1], false, 2⟩).task 9).core = 2 ∧
      ((wTask.setTask 9 ⟨3, 0, 0, false, 4, [4194304, 1], false, 2⟩).task 9).retry + 1 ≤
        ((wTask.setTask 9 ⟨3, 0, 0, false, 4, [4194304, 1], false, 2⟩).task 9).retryMax ∧
      (wTask.task 9).retryMax < (wTask.task 9).retry + 1 := by
  decide +kernel
theorem witness_taskLifecycle_7 :
    (withPlot State.reset 2).reaches (.scion 2) 0x481228 = true ∧ (State.reset.task 9).st ≠ 3 ∧ (withPlot wTask 15).reaches (.scion 15) 0x481F28 = true ∧
      ((withPlot wTask 15).task 9).core ≠ 15 := by
  decide +kernel
theorem witness_taskDispatch_1 :
    (withPlot State.reset 0).reaches (.scion 0) 0x481000 = true ∧ (withPlot State.reset 15).reaches (.scion 15) 0x481F00 = true := by
  decide +kernel
theorem witness_taskDispatch_2 :
    (wReady.round (List.range 16) []).find? (fun e => decide (e.1 = 0)) = some (0, 9) := by
  decide +kernel
theorem witness_taskDispatch_3 :
    (State.reset.round (List.range 16) []).find? (fun e => decide (e.1 = 0)) = none := by
  decide +kernel
theorem witness_taskDispatch_4 :
    wReady.ableToTake 0 = true ∧ (wReady.firstEligible [] 0).isSome = true ∧ State.reset.ableToTake 0 = false ∧ (wReady.firstEligible [9] 0) = none := by
  decide +kernel
theorem witness_taskDispatch_5 :
    (wTaskIn 1 1).que.tasks.all (fun e => decide (e.2.st ≠ 2) || e.2.inStore) = true := by
  decide +kernel
theorem witness_taskDispatch_6 :
    (9, ⟨2, 0, 0, false, 4, [], false, 0⟩) ∈ (wTaskIn 2 0).que.tasks ∧ (wTaskIn 2 0).readyCount < 65536 ∧
      (∀ f ∈ (wTaskIn 2 0).que.tasks, f.2.st = 2 → f.2.inStore = false → f ≠ (9, ⟨2, 0, 0, false, 4, [], false, 0⟩) → 4 < f.2.seq) := by
  decide +kernel

/-- A synchronised root with the gate open that has received its own prepare: scope class 0, target 5,000. -/
def wCommit (decided : Bool) : State :=
  { ((((State.reset.put CLK_STATUS_GATE 1).put CMT_STATUS_INSYNC 1).put CMT_STATUS_ROOT 1).put CMT_STATUS_PENDING 1).put
      CMT_STATUS_VOTED 1 with
    cmt := { State.reset.cmt with commit := some ⟨5000, 1, 7, ⟨true, 0, 0⟩, [], decided⟩ } }
/-- The same with no commit. -/
def wRoot : State := ((State.reset.put CLK_STATUS_GATE 1).put CMT_STATUS_INSYNC 1).put CMT_STATUS_ROOT 1
/-- A device that is not the root, with a commit held. -/
def wMember : State := (wCommit false).put CMT_STATUS_ROOT 0
/-- A state at another GVC. -/
def atGvc (s : State) (g : Nat) : State := { s with clk := { s.clk with gvc := g } }
/-- A root whose host has asked for a commit of class 0 at 5,000. -/
def wGo : State := (wRoot.put CMT_SCOPE 1).put64 CMT_TARGET_LO CMT_TARGET_HI 5000
/-- A device with a harvest asked for at 5,000, of this device alone or of the group. -/
def wHrv (alone : Nat) : State := (wRoot.put CMT_HRV_CTRL_LOCAL alone).put64 CMT_HRV_TARGET_LO CMT_HRV_TARGET_HI 5000
/-- A device with a local harvest pending at 9. -/
def wHrvOn : State := { wRoot with cmt := { wRoot.cmt with hrvLocal := some 9 } }
/-- Two intervals of site 2, the older one ended at 20. -/
def wVerdict (held : Bool) (cause : Nat) : State :=
  { atGvc wRoot 200 with cmt := { wRoot.cmt with
    intervals := [⟨2, 10, some 20, cause, true, false, 0, 1, held, 0, 1⟩, ⟨2, 150, none, 0, true, false, 0, 2, false, 0, 0⟩] } }
theorem witness_commitGo_1 :
    State.reset.reaches .host 0x10010 = true ∧ State.reset.goRefusal ≠ 0 := by
  decide +kernel
theorem witness_commitGo_3 :
    wMember.on CMT_STATUS_ROOT = false ∧ (wCommit false).on CMT_STATUS_PENDING = true ∧ (wCommit false).on CMT_STATUS_ROOT = true ∧
      wRoot.on CMT_STATUS_PENDING = false ∧ (wRoot.put CLK_STATUS_GATE 0).gateOpen = false ∧ wRoot.gateOpen = true ∧
      wRoot.clk.gvc + wRoot.leadVc ≤ wRoot.get64 CMT_TARGET_LO CMT_TARGET_HI ∧ wRoot.get CMT_SCOPE = 0 ∧ wGo.get CMT_SCOPE ≠ 0 ∧
      (atGvc wRoot 1).get64 CMT_TARGET_LO CMT_TARGET_HI < (atGvc wRoot 1).clk.gvc + (atGvc wRoot 1).leadVc ∧
      (wGo.put FRZ_STATUS_STATE 2).frozen = true ∧ (wGo.put FRZ_STATUS_STATE 2).gateOpen = true := by
  decide +kernel
theorem witness_commitGo_4 :
    wGo.reaches .host 0x10010 = true ∧ wGo.goRefusal = 0 := by
  decide +kernel
theorem witness_commitGo_5 :
    (wCommit false).reaches .host 0x10010 = true ∧ (wCommit false).on CMT_STATUS_ROOT = true ∧ (wCommit false).on CMT_STATUS_VOTED = true ∧
      wRoot.on CMT_STATUS_VOTED = false ∧ wMember.on CMT_STATUS_ROOT = false := by
  decide +kernel
theorem witness_commitGo_6 :
    State.reset.reaches .host 0x10010 = true := by
  decide +kernel
theorem witness_commitGo_7 :
    wRoot.frozen = false ∧ wRoot.seq.word = none ∧ (wRoot.put FRZ_STATUS_STATE 2).frozen = true := by
  decide +kernel
theorem witness_commitDecision_1 :
    (wCommit false).cmt.commit = some ⟨5000, 1, 7, ⟨true, 0, 0⟩, [], false⟩ ∧ (wCommit false).frozen = false ∧
      wMember.cmt.commit = some ⟨5000, 1, 7, ⟨true, 0, 0⟩, [], false⟩ ∧ wMember.frozen = false ∧ wMember.on CMT_STATUS_ROOT = false ∧
      (wCommit false).on CMT_STATUS_ROOT = true ∧ wRoot.cmt.commit = none := by
  decide +kernel
theorem witness_commitDecision_2 :
    (⟨false, 0, 6⟩ : Vote).ready = false := by
  decide +kernel
theorem witness_commitDecision_3 :
    wRoot.cmt.commit = none ∧ wMember.on CMT_STATUS_ROOT = false ∧ (wCommit true).cmt.commit = some ⟨5000, 1, 7, ⟨true, 0, 0⟩, [], true⟩ := by
  decide +kernel
theorem witness_commitDecision_4 :
    (wCommit false).cmt.commit = some ⟨5000, 1, 7, ⟨true, 0, 0⟩, [], false⟩ ∧ (wCommit false).frozen = false ∧
      (wCommit false).on CMT_STATUS_ROOT = true ∧ (wCommit false).cmt.cancel = false ∧
      ((wCommit false).combined ⟨5000, 1, 7, ⟨true, 0, 0⟩, [], false⟩).ready = true := by
  decide +kernel
theorem witness_commitDecision_5 :
    (wCommit false).cmt.commit = some ⟨5000, 1, 7, ⟨true, 0, 0⟩, [], false⟩ ∧ (wCommit false).frozen = false ∧
      (wCommit false).on CMT_STATUS_ROOT = true ∧ (wCommit false).on CMT_CTRL_RETRY_EN = false ∧
      ({ wCommit false with cmt := { (wCommit false).cmt with cancel := true } } : State).cmt.cancel = true := by
  decide +kernel
theorem witness_commitDecision_6 :
    ({ (((wCommit false).put CMT_CTRL_RETRY_EN 1).put CMT_STATUS_RETRYLEFT 2) with
        cmt := { (wCommit false).cmt with commit := some ⟨5000, 1, 7, ⟨false, 0, 1⟩, [], false⟩ } } : State).combined
          ⟨5000, 1, 7, ⟨false, 0, 1⟩, [], false⟩ = ⟨false, 0, 1⟩ ∧
      (((wCommit false).put CMT_CTRL_RETRY_EN 1).put CMT_STATUS_RETRYLEFT 2).on CMT_CTRL_RETRY_EN = true ∧
      (((wCommit false).put CMT_CTRL_RETRY_EN 1).put CMT_STATUS_RETRYLEFT 2).get CMT_STATUS_RETRYLEFT = 2 ∧
      (((wCommit false).put CMT_CTRL_RETRY_EN 1).put CMT_STATUS_RETRYLEFT 2).clk.gvc +
        (((wCommit false).put CMT_CTRL_RETRY_EN 1).put CMT_STATUS_RETRYLEFT 2).leadVc ≤ 5000 := by
  decide +kernel
theorem witness_commitDecision_7 :
    wMember.cmt.commit = some ⟨5000, 1, 7, ⟨true, 0, 0⟩, [], false⟩ ∧ wMember.frozen = false ∧
      wMember.on CMT_STATUS_ROOT = false ∧ (atGvc wMember 5000).clk.gvc ≤ 5000 ∧ 5000 < (atGvc wMember 5001).clk.gvc ∧
      ((wCommit true).put CMT_STATUS_ROOT 0).cmt.commit = some ⟨5000, 1, 7, ⟨true, 0, 0⟩, [], true⟩ ∧ (wRoot.put CMT_STATUS_ROOT 0).cmt.commit = none ∧
      ({ wRoot.put CMT_STATUS_ROOT 0 with cmt := { wRoot.cmt with lostAwait := true } } : State).cmt.lostAwait = true := by
  decide +kernel
theorem witness_commitDecision_8 :
    wRoot.cmt.commit = none ∧ (wCommit true).cmt.commit = some ⟨5000, 1, 7, ⟨true, 0, 0⟩, [], true⟩ ∧ (wCommit true).gateOpen = true ∧
      5000 < (atGvc (wCommit true) 5001).clk.gvc ∧ (wMember.put CLK_STATUS_GATE 0).gateOpen = false ∧
      ((wMember.put CLK_STATUS_GATE 0).reachTarget 5000).isNone = true ∧ (wMember.put CLK_STATUS_GATE 0).clk.gvc ≤ 5000 := by
  decide +kernel
theorem witness_commitDecision_9 :
    (wCommit true).cmt.commit = some ⟨5000, 1, 7, ⟨true, 0, 0⟩, [], true⟩ ∧ (wCommit true).gateOpen = true ∧
      (atGvc (wCommit true) 5000).clk.gvc ≤ 5000 ∧ (atGvc (wCommit true) 5000).reachTarget 5000 = some (atGvc (wCommit true) 5000) ∧
      ((wCommit true).reachTarget 5000).isSome = true := by
  decide +kernel
theorem witness_commitDecision_11 :
    (wCommit false).cmt.commit = some ⟨5000, 1, 7, ⟨true, 0, 0⟩, [], false⟩ ∧
      (atGvc (wCommit false) 5000).reachTarget 5000 = some (atGvc (wCommit false) 5000) ∧
      (atGvc (wCommit false) 5000).cmt.commit = some ⟨5000, 1, 7, ⟨true, 0, 0⟩, [], false⟩ := by
  decide +kernel
theorem witness_commitDecision_12 :
    classOf (CAP_MS_MASK 0 0).off = some 4 ∧ classOf 0 ≠ some 4 := by
  decide +kernel
theorem witness_harvest_1 :
    (wHrv 1).reaches .host 0x10050 = true ∧ (wHrv 1).on CMT_HRV_CTRL_LOCAL = true ∧ (wHrv 1).on CMT_HRV_STATUS_PENDING = false ∧
      (wHrv 1).gateOpen = true ∧ (wHrv 1).clk.gvc + (wHrv 1).clk.vset.vcOf 16 ≤ (wHrv 1).get64 CMT_HRV_TARGET_LO CMT_HRV_TARGET_HI ∧
      (wHrv 0).on CMT_HRV_CTRL_LOCAL = false ∧ (wHrv 0).on CMT_STATUS_ROOT = true ∧
      (wHrv 0).clk.gvc + (wHrv 0).clk.vset.vcOf (128 + 64 * (wHrv 0).get CMT_HOPS) ≤ (wHrv 0).get64 CMT_HRV_TARGET_LO CMT_HRV_TARGET_HI ∧
      wMember.reaches .host 0x10050 = true ∧ wMember.on CMT_HRV_CTRL_LOCAL = false ∧ wMember.on CMT_STATUS_ROOT = false ∧
      (wRoot.put CLK_STATUS_GATE 0).gateOpen = false ∧ ((wHrv 0).put CMT_HRV_STATUS_PENDING 1).on CMT_HRV_STATUS_PENDING = true ∧
      5000 < (atGvc (wHrv 1) 5001).clk.gvc + (wHrv 1).clk.vset.vcOf 16 := by
  decide +kernel
theorem witness_harvest_2 :
    wHrvOn.reaches .host 0x10050 = true ∧ wHrvOn.cmt.hrvLocal = some 9 ∧ (atGvc wHrvOn 8).clk.gvc < 9 ∧ 9 ≤ (atGvc wHrvOn 9).clk.gvc ∧ wRoot.cmt.hrvLocal = none := by
  decide +kernel
theorem witness_harvest_3 :
    wRoot.reaches .host 0x10050 = true := by
  decide +kernel
theorem witness_harvest_4 :
    ({ wRoot with cmt := { wRoot.cmt with hrvSwitch := true } } : State).cmt.hrvSwitch = true ∧ wRoot.pins.inReset = 0 ∧ wRoot.gateOpen = true ∧
      wRoot.seq.running = none ∧ wRoot.tiu.releases = [] ∧ wRoot.get CMT_HRV_STATUS_SHOWN ≤ 1 := by
  decide +kernel
theorem witness_harvest_5 :
    wRoot.frozen = false ∧ wRoot.gateOpen = true ∧ wRoot.clk.gvc < (1 : Gvc).toNat ∧ (0 : Gvc).toNat ≤ wRoot.clk.gvc ∧
      (wRoot.put FRZ_STATUS_STATE 2).frozen = true ∧ (wRoot.put CLK_STATUS_GATE 0).gateOpen = false := by
  decide +kernel
theorem witness_harvest_7 :
    wRoot.cmt.hrvGroup = none ∧ wRoot.cmt.hrvLocal = none ∧ earliest wHrvOn.cmt.hrvGroup wHrvOn.cmt.hrvLocal = some 9 ∧
      ((wHrvOn.put CLK_STATUS_GATE 0).reach 10).isNone = true ∧ (atGvc wHrvOn 10).reach 10 = some (atGvc wHrvOn 10) ∧
      wHrvOn.get CMT_HRV_STATUS_SHOWN = 0 ∧ (wHrvOn.put CMT_HRV_CTRL_HOLD 1).on CMT_HRV_CTRL_HOLD = true ∧ wHrvOn.on CMT_HRV_CTRL_HOLD = false ∧
      (wHrvOn.put CMT_HRV_STATUS_SHOWN 1).get CMT_HRV_STATUS_SHOWN = 1 := by
  decide +kernel
theorem witness_verdicts_2 :
    (0 : Nat) < 2 ^ 32 ∧ 0 < 2 ^ 32 / 2 ^ 32 := by
  decide +kernel
theorem witness_verdicts_4 :
    (wQue.put (QUE_SITERQ_EN 2) 1).on (QUE_SITERQ_EN 2) = true ∧ wQue.on (QUE_SITERQ_EN 2) = false ∧ (wQue.queue 3).isOpen = true := by
  decide +kernel
theorem witness_verdicts_5 :
    ∀ i ∈ wRoot.cmt.intervals, i.site ≠ 2 ∨ i.last = none ∨ i.held = true := by
  decide +kernel
theorem witness_verdicts_6 :
    (wVerdict false 0).cmt.intervals = [] ++ ⟨2, 10, some 20, 0, true, false, 0, 1, false, 0, 1⟩ :: [⟨2, 150, none, 0, true, false, 0, 2, false, 0, 0⟩] ∧
      (wVerdict false 0).reach (20 + 108) = some (wVerdict false 0) ∧ ((atGvc (wVerdict false 0) 100).put CLK_STATUS_GATE 0).reach (20 + 108) = none ∧
      ((wVerdict false 0).put CMT_VRD_CTRL_CONFIRM 1).on CMT_VRD_CTRL_CONFIRM = true ∧ ((wVerdict false 0).put CMT_VRD_CTRL_CONFIRM 0).on CMT_VRD_CTRL_CONFIRM = false ∧
      (⟨2, 10, some 20, 0, true, false, 0, 1, false, 0, 1⟩ : Interval).verdict = 1 := by
  decide +kernel
theorem witness_verdicts_7 :
    (wRoot.cmt.intervals = []) ∧ ((wVerdict true 0).put FRZ_STATUS_STATE 2).frozen = true := by
  decide +kernel
theorem witness_verdicts_8 :
    (wVerdict true 32).cmt.intervals = [] ++ ⟨2, 10, some 20, 32, true, false, 0, 1, true, 0, 1⟩ :: [⟨2, 150, none, 0, true, false, 0, 2, false, 0, 0⟩] ∧
      (wVerdict true 32).frozen = false ∧ (((wVerdict true 0).put (PIN_SITE_ASSIGNED 7) 1).put (PIN_SITE_SITE 7) 2).siteOf 7 = some 2 ∧
      (wVerdict true 0).readBackAfter 7 1 = false := by
  decide +kernel

/-- The host's latch holds all six words of slot 5. -/
def wLatch : State := State.reset.setLatch 0 .host ⟨5, [(0, 0), (1, 0), (2, 0), (3, 0), (4, 0), (5, 0)]⟩
/-- The host's latch holds six words whose mode test fails. -/
def wLatchBad : State := State.reset.setLatch 0 .host ⟨5, [(0, 0), (1, 0), (2, 0), (3, 0), (4, 0), (5, 0xFFFFFFFF)]⟩
/-- A valid slot 5 in the control store. -/
def wSlot : State := State.reset.setSlot 5 ⟨0, checkBits 0 5, true, 0, 0⟩
/-- A playlist whose program range is slots 5 to 9 is queued. -/
def wLock : State := { State.reset with seq := { State.reset.seq with
  queued := some ⟨1, false, 0, 0, 0, 5, 9, 1, [], [], none, 0⟩ } }
/-- A load of one image that has been read, or is being read. -/
def wCsl (reading : Bool) : State := { State.reset with seq := { State.reset.seq with csl := some ⟨0, 5, 1, false, 0, b2n !reading, reading⟩ } }
/-- A table load of one instruction of APG-A that has been read, or is being read. -/
def wTld (reading : Bool) : State := { State.reset with apg := { State.reset.apg with tld := some ⟨0, 5, 1, false, 3, b2n !reading, reading⟩ } }
/-- A valid instruction 3 in the program of APG-B. -/
def wIw : State := State.reset.setIw 1 3 ⟨0, codeBits 64 12 0 3, true, 0, 0⟩
/-- The host's latch of APG-A holds both words of instruction 5. -/
def wIwLatch : State := State.reset.setLatch 1 .host ⟨5, [(0, 1), (1, 0)]⟩
/-- A commit locks classes 0 and 1. -/
def wTsLock : State := { State.reset.put CMT_STATUS_LOCKED 1 with
  cmt := { State.reset.cmt with commit := some ⟨5000, 3, 7, ⟨true, 0, 0⟩, [], false⟩ } }
theorem witness_controlStore_1 :
    wLatch.reaches .host 0x4000000 = true ∧ (wLatch.latch 0 .host).key = 5 ∧ (wLatch.latch 0 .rootstock).key ≠ 262143 := by
  decide +kernel
theorem witness_controlStore_2 :
    wLatch.reaches .host 0x4000000 = true ∧ wLatch.slotLocked 5 = false ∧ (wLatch.latch 0 .host).key = 5 ∧
      (wLatch.latch 0 .host).words.length = 6 ∧ State.reset.reaches .rootstock 0x4000000 = true ∧ (State.reset.latch 0 .rootstock).words.length ≠ 6 ∧
      (BitVec.ofNat 16 (checkBits (wLatch.latch 0 .host).value 5)).toNat = checkBits (wLatch.latch 0 .host).value 5 ∧
      mwReason (wLatch.latch 0 .host).value = 0 ∧ (0xFFFF : BitVec 16).toNat ≠ checkBits (wLatch.latch 0 .host).value 5 ∧
      (BitVec.ofNat 16 (checkBits (wLatchBad.latch 0 .host).value 5)).toNat = checkBits (wLatchBad.latch 0 .host).value 5 ∧
      mwReason (wLatchBad.latch 0 .host).value ≠ 0 ∧ wLock.reaches .host 0x4000000 = true ∧ wLock.slotLocked 5 = true ∧ wLock.slotLocked 9 = true ∧
      wLock.slotLocked 10 = false := by
  decide +kernel
theorem witness_controlStore_3 :
    State.reset.reaches .host 0x80800 = true ∧ State.reset.on SEQ_CS_STATUS_LBUSY = false ∧ State.reset.get SEQ_CSL_COUNT = 0 ∧
      (State.reset.put SEQ_CSL_COUNT 1).get SEQ_CSL_COUNT ≠ 0 ∧ (State.reset.put SEQ_CS_STATUS_LBUSY 1).on SEQ_CS_STATUS_LBUSY = true := by
  decide +kernel
theorem witness_controlStore_4 :
    (wCsl true).reaches .host 0x80800 = true := by
  decide +kernel
theorem witness_controlStore_5 :
    State.reset.seq.csl = none ∧ (wCsl true).seq.csl = some ⟨0, 5, 1, false, 0, 0, true⟩ ∧ (wCsl false).seq.csl = some ⟨0, 5, 1, false, 0, 1, false⟩ := by
  decide +kernel
theorem witness_controlStore_6 :
    wLock.slotLocked 5 = true ∧ State.reset.slotLocked 262143 = false ∧ ofBytes (((List.replicate 32 (0 : BitVec 8)).drop 24).take 2) ≠
      checkBits (ofBytes ((List.replicate 32 (0 : BitVec 8)).take 24)) 5 := by
  decide +kernel
theorem witness_controlStore_7 :
    (wCsl true).seq.csl = some ⟨0, 5, 1, false, 0, 0, true⟩ := by
  decide +kernel
theorem witness_controlStore_8 :
    (State.reset.slot 262143).valid = false := by
  decide +kernel
theorem witness_controlStore_9 :
    (wSlot.put SEQ_CS_CTRL_SCRUB_EN 1).on SEQ_CS_CTRL_SCRUB_EN = true ∧ (wSlot.slot 5).valid = true ∧
      readRow (((wSlot.slot 5).upsetBy 0).row 192).1 (((wSlot.slot 5).upsetBy 0).row 192).2 5 = .clean 0 ∧
      readRow (((wSlot.slot 5).upsetBy 1).row 192).1 (((wSlot.slot 5).upsetBy 1).row 192).2 5 = .corrected 0 ∧
      readRow (((wSlot.slot 5).upsetBy 3).row 192).1 (((wSlot.slot 5).upsetBy 3).row 192).2 5 = .uncorrectable := by
  decide +kernel
theorem witness_tableEntries_1 :
    State.reset.reaches .host 0x1000000 = true := by
  decide +kernel
theorem witness_tableEntries_2 :
    State.reset.reaches .host 0x1008000 = true := by
  decide +kernel
theorem witness_tableEntries_3 :
    State.reset.reaches .host 0x1000000 = true ∧ State.reset.classLocked 0 = false ∧
      tsReason State.reset.clk.vset (fun i => if i = 6 then (0 : BitVec 32).toNat else State.reset.merged 3 .host (0 * 1024 + 0) (tsWord State.reset.shadow 0 0) i) = 0 ∧
      tsReason State.reset.clk.vset (fun i => if i = 6 then (0x80000000 : BitVec 32).toNat else State.reset.merged 3 .host (0 * 1024 + 0) (tsWord State.reset.shadow 0 0) i) ≠ 0 ∧
      wTsLock.reaches .host 0x1000000 = true ∧ wTsLock.classLocked 0 = true := by
  decide +kernel
theorem witness_tableEntries_4 :
    State.reset.reaches .host 0x1008000 = true ∧ State.reset.classLocked 1 = false ∧
      lsReason State.reset.clk.vset (fun i => if i = 6 then (0 : BitVec 32).toNat else State.reset.merged 4 .host (0 * 256 + 0) (lsWord State.reset.shadow 0 0) i) = 0 ∧
      lsReason State.reset.clk.vset (fun i => if i = 6 then (3 : BitVec 32).toNat else State.reset.merged 4 .host (0 * 256 + 0) (lsWord State.reset.shadow 0 0) i) ≠ 0 ∧
      wTsLock.reaches .host 0x1008000 = true ∧ wTsLock.classLocked 1 = true := by
  decide +kernel
theorem witness_patternGenerators_1 :
    wLock.reaches .host 0x5000000 = true ∧ wLock.apgLocked = true ∧ State.reset.reaches .host 0x5000000 = true ∧ State.reset.apgLocked = false := by
  decide +kernel
theorem witness_patternGenerators_2 :
    wIwLatch.reaches .host 0x5000000 = true ∧ wIwLatch.apgLocked = false ∧ (wIwLatch.latch 1 .host).key = 5 ∧
      (wIwLatch.latch 1 .host).words.length = 2 ∧ State.reset.reaches .rootstock 0x5000000 = true ∧ (State.reset.latch 2 .rootstock).words.length ≠ 2 ∧
      iwReason 0 = 0 ∧ iwReason 1 = 5 ∧ (0 : BitVec 16).toNat ≠ codeBits 64 12 1 5 := by
  decide +kernel
theorem witness_patternGenerators_3 :
    (State.reset.iw 1 4095).valid = false := by
  decide +kernel
theorem witness_patternGenerators_4 :
    (wIw.put APG_CTRL_SCRUB_EN 1).on APG_CTRL_SCRUB_EN = true ∧ (wIw.iw 1 3).valid = true ∧ wIw.iwRead 1 3 0 = (some 0, wIw) ∧
      (wIw.iwRead 1 3 1).1 = some 0 ∧ (wIw.iwRead 1 3 3).1 = none := by
  decide +kernel
theorem witness_patternGenerators_5 :
    (State.reset.put APG_TLD_TGT_TBL 3).reaches .host 0x180010 = true ∧ (State.reset.put APG_TLD_TGT_TBL 3).on APG_STATUS_TLBUSY = false ∧
      (State.reset.put APG_TLD_TGT_TBL 3).get APG_TLD_TGT_TBL = 3 ∧ State.reset.get APG_TLD_COUNT = 0 ∧
      ((State.reset.put APG_TLD_TGT_TBL 3).put APG_TLD_COUNT 4096).get APG_TLD_TGT_FIRST +
        ((State.reset.put APG_TLD_TGT_TBL 3).put APG_TLD_COUNT 4096).get APG_TLD_COUNT = 4096 ∧
      (State.reset.put APG_STATUS_TLBUSY 1).reaches .host 0x180010 = true ∧ (State.reset.put APG_STATUS_TLBUSY 1).on APG_STATUS_TLBUSY = true := by
  decide +kernel
theorem witness_patternGenerators_6 :
    (wTld true).reaches .host 0x180010 = true := by
  decide +kernel
theorem witness_patternGenerators_7 :
    State.reset.apg.tld = none ∧ (wTld true).apg.tld = some ⟨0, 5, 1, false, 3, 0, true⟩ ∧ (wTld false).apg.tld = some ⟨0, 5, 1, false, 3, 1, false⟩ := by
  decide +kernel

/-- A device in Bloom with that playlist queued and checked. -/
def wQueued (ready : Bool) : State := { State.reset.put PMG_STATUS_STATE 3 with
  seq := { State.reset.seq with queued := some wPlaylist, queuedReady := ready } }
/-- A device with the gate open and that playlist queued, its slots and its segment in place. -/
def wChecked : State :=
  { (((((((wQueued false).put CLK_STATUS_GATE 1).setSlot 5 ⟨0, 0, true, 0, 0⟩).setSlot 6 ⟨0, 0, true, 0, 0⟩).setSlot 7 ⟨0, 0, true, 0, 0⟩).setSlot 8
      ⟨0, 0, true, 0, 0⟩).setSlot 9 ⟨0, 0, true, 0, 0⟩) with
    seg := { State.reset.seg with desc := [(3, ⟨1, 4, 0, true, 0⟩)] } }
/-- The same device with a playlist of class 7 queued while its bucket is empty. -/
def wPeak : State := ({ wChecked with seq := { wChecked.seq with queued := some { wPlaylist with pclass := 7 } } }.put PMG_BUCKET 0).put PMG_PEAK_RES 1
/-- The image of a playlist: number 1, one segment, one rooted target at slot 5, site 0. -/
def wImage : List Byte :=
  let head := wordBytes [0x10001, 0x10000, 5, 9, 1, 0, 0, 0, 0, 0, 0, 0, 0, 0, 0]
  let tail := wordBytes [5, 0, 3]
  head ++ wordBytes [crc32 (head ++ tail)] ++ tail
/-- HBM in service, holding that image at address 0. -/
def wImaged : State := (State.reset.put HBC_STATUS_INSERVICE 1).memWrite 0 wImage
/-- Stream channel 2 open and paused, its ring of 4 KiB at host address 0, nine bytes produced. -/
def wStream : State := { (((State.reset.put (SEG_STR_STATUS_OPEN 2) 1).put (SEG_STR_SIZE 2) 12).put LNK_PCIE_STATUS_UP 1) with
  seg := { State.reset.seg with prod := [(2, 9)] } }
theorem witness_segmentsAndStreams_1 :
    State.reset.reaches .host 0x100000 = true ∧ State.reset.reaches .rootstock 0x100000 = true := by
  decide +kernel
theorem witness_segmentsAndStreams_2 :
    State.reset.reaches .host 0x100010 = true ∧ State.reset.segHolders (State.reset.get (SEG_DIDX.per .host)) = 0 ∧
      ((wQueued true).put (SEG_DIDX.per .host) 3).reaches .host 0x100010 = true ∧
      ((wQueued true).put (SEG_DIDX.per .host) 3).segHolders (((wQueued true).put (SEG_DIDX.per .host) 3).get (SEG_DIDX.per .host)) ≠ 0 := by
  decide +kernel
theorem witness_segmentsAndStreams_3 :
    State.reset.reaches .host 0x100400 = true ∧ State.reset.on (SEG_STR_STATUS_OPEN 2) = false ∧ State.reset.get (SEG_STR_SIZE 2) < 12 ∧
      (State.reset.put (SEG_STR_SIZE 2) 12).reaches .host 0x100400 = true ∧ (State.reset.put (SEG_STR_SIZE 2) 12).on (SEG_STR_STATUS_OPEN 2) = false ∧
      ((State.reset.put (SEG_STR_SIZE 2) 12).put (SEG_STR_CTRL_WIDTH 2) 0).get (SEG_STR_SIZE 2) = 12 ∧
      ((State.reset.put (SEG_STR_SIZE 7) 32).put (SEG_STR_CTRL_WIDTH 7) 3).get (SEG_STR_SIZE 7) = 32 ∧
      ((State.reset.put (SEG_STR_SIZE 2) 12).put (SEG_STR_CTRL_WIDTH 2) 0).rateTooHigh (fun m => m == 2 ||
        ((State.reset.put (SEG_STR_SIZE 2) 12).put (SEG_STR_CTRL_WIDTH 2) 0).on (SEG_STR_STATUS_OPEN m)) = false ∧
      wStream.reaches .host 0x100400 = true ∧ wStream.on (SEG_STR_STATUS_OPEN 2) = true := by
  decide +kernel
theorem witness_segmentsAndStreams_4 :
    wStream.reaches .host 0x100400 = true ∧ wStream.on (SEG_STR_STATUS_RUN 2) = false ∧ (wStream.put (SEG_STR_STATUS_RUN 2) 1).reaches .host 0x100400 = true ∧
      (wStream.put (SEG_STR_STATUS_RUN 2) 1).on (SEG_STR_STATUS_RUN 2) = true := by
  decide +kernel
theorem witness_segmentsAndStreams_5 :
    wStream.reaches .host 0x10041C = true ∧ Assoc.get 0 wStream.seg.prod 2 = 9 ∧ wStream.get (SEG_STR_PROD_LO 2) + 2 ^ 32 * (0 : BitVec 32).toNat < 9 ∧
      (wStream.put (SEG_STR_PROD_LO 2) 9).reaches .host 0x10041C = true ∧ (wStream.put (SEG_STR_PROD_LO 2) 9).get (SEG_STR_PROD_LO 2) = 9 ∧
      wStream.get64 (SEG_STR_FETCH_LO 2) (SEG_STR_FETCH_HI 2) + 2 ^ wStream.get (SEG_STR_SIZE 2) = 4096 ∧
      (wStream.put (SEG_STR_PROD_LO 2) 4096).get (SEG_STR_PROD_LO 2) = 4096 ∧ 4096 < (wStream.put (SEG_STR_PROD_LO 2) 4097).get (SEG_STR_PROD_LO 2) := by
  decide +kernel
theorem witness_segmentsAndStreams_6 :
    wStream.on (SEG_STR_STATUS_OPEN 2) = true ∧ wStream.dmaOn = true ∧ (0 : BitVec 64).toNat = wStream.ringAddr 2 0 ∧
      wStream.get64 (SEG_STR_FETCH_LO 2) (SEG_STR_FETCH_HI 2) = 0 ∧ State.reset.on (SEG_STR_STATUS_OPEN 2) = false ∧ (4096 : BitVec 64).toNat ≠ wStream.ringAddr 2 0 := by
  decide +kernel
theorem witness_playlistQueue_1 :
    (wQueued true).reaches .host 0x100110 = true ∧ (wQueued true).seq.queued.isSome = true ∧ (State.reset.put SEG_PL_CTRL_WHEN 1).reaches .host 0x100110 = true ∧
      (State.reset.put SEG_PL_CTRL_WHEN 1).on SEG_PL_CTRL_WHEN = true ∧ (State.reset.put SEG_PL_CTRL_WHEN 1).gateOpen = false ∧
      (((State.reset.put SEG_PL_CTRL_WHEN 1).put CLK_STATUS_GATE 1).put SEG_PL_AT_LO 16).get64 SEG_PL_AT_LO SEG_PL_AT_HI ≤ State.reset.clk.gvc + 16 := by
  decide +kernel
theorem witness_playlistQueue_2 :
    wImaged.reaches .host 0x100110 = true ∧ wImaged.seq.queued = none ∧ wImaged.on SEG_PL_CTRL_WHEN = false ∧
      wImaged.readImage (wImaged.get64 SEG_PL_ADDR_LO SEG_PL_ADDR_HI) = (wImage, false, wImaged) ∧ (imgPlaylist wImage none false).bad = 0 ∧
      (imgPlaylist [] none true).bad ≠ 0 ∧ (imgPlaylist (wImage ++ [0]) none false).bad ≠ 0 ∧
      (((State.reset.put SEG_PL_CTRL_WHEN 1).put CLK_STATUS_GATE 1).put SEG_PL_AT_LO 17).gateOpen = true ∧
      State.reset.clk.gvc + 16 < (((State.reset.put SEG_PL_CTRL_WHEN 1).put CLK_STATUS_GATE 1).put SEG_PL_AT_LO 17).get64 SEG_PL_AT_LO SEG_PL_AT_HI := by
  decide +kernel
theorem witness_playlistQueue_3 :
    (wQueued true).reaches .host 0x100110 = true ∧ (wQueued true).seq.queued.isSome = true ∧ State.reset.reaches .host 0x100110 = true ∧ State.reset.seq.queued = none := by
  decide +kernel
theorem witness_playlistQueue_4 :
    (wQueued true).seq.queued = some wPlaylist ∧ (wQueued true).seq.queuedReady = true ∧
      bitAt ({ wPlaylist with claim := 0x8001 } : Playlist).claim 15 = true ∧ (State.reset.put (TIU_STATUS_OWNER 15) tiuPlay).get (TIU_STATUS_OWNER 15) = tiuPlay := by
  decide +kernel
theorem witness_playlistQueue_5 :
    State.reset.seq.queued = none ∧ (wQueued true).seq.queuedReady = true ∧ (wQueued false).seq.queued = some wPlaylist ∧ (wQueued false).seq.queuedReady = false ∧
      (wQueued false).startCode wPlaylist ≠ 0 ∧ (wQueued false).startCode wPlaylist ≠ 0xA ∧ wPeak.seq.queuedReady = false ∧
      wPeak.startCode { wPlaylist with pclass := 7 } = 0xA := by
  decide +kernel
theorem witness_playlistQueue_6 :
    wChecked.seq.queued = some wPlaylist ∧ wChecked.seq.queuedReady = false ∧ wChecked.startCode wPlaylist = 0 ∧ wChecked.get PMG_STATUS_STATE ≠ 2 ∧
      (wChecked.put PMG_STATUS_STATE 2).startCode wPlaylist = 0 ∧ (wChecked.put PMG_STATUS_STATE 2).get PMG_STATUS_STATE = 2 := by
  decide +kernel
theorem witness_playlistQueue_7 :
    State.reset.seq.queued = none ∧ (wQueued false).seq.queuedReady = false ∧ (wQueued true).seq.queued = some wPlaylist ∧ (wQueued true).seq.queuedReady = true ∧
      (wQueued true).get PMG_STATUS_STATE = 3 ∧ ((wQueued true).put PMG_STATUS_STATE 2).get PMG_STATUS_STATE ≠ 3 := by
  decide +kernel
theorem witness_playlistQueue_8 :
    State.reset.headOf (5, 0, 0, [3]) = none ∧ State.reset.seq.heads.length < 64 := by
  decide +kernel

/-- VCLK locked. -/
def wLocked : State := State.reset.put CLK_STATUS_LOCKED 1
/-- VCLK locked, with REFCLK there. -/
def wLockedRef : State := wLocked.put CLK_STATUS_REFLOST 0
/-- REFCLK is lost, after it was there once. -/
def wRefGone : State := { State.reset with clk := { State.reset.clk with refSeen := true } }
/-- A device that is forming a group as its root. -/
def wForming : State := { State.reset.put CLK_GRP_STATUS_FORMING 1 with clk := { State.reset.clk with formRoot := true } }
/-- A forming device with a place under port 1 at depth 2. -/
def wPlaced : State := { State.reset.put CLK_GRP_STATUS_FORMING 1 with clk := { State.reset.clk with place := some (1, 2) } }
/-- A root whose group is formed. -/
def wFormed : State := (State.reset.put CLK_GRP_STATUS_FORMED 1).put CMT_STATUS_ROOT 1
/-- A member that holds a start message for rc 0, with REFCLK there. -/
def wStart : State := { (State.reset.put CLK_GRP_STATUS_STARTPEND 1).put CLK_STATUS_REFLOST 0 with
  clk := { State.reset.clk with startMsg := some ⟨0, 0, 77, true⟩ } }
/-- A device that holds a join message for rc 0. -/
def wJoin : State := { State.reset.put CLK_STATUS_REFLOST 0 with
  clk := { State.reset.clk with startMsg := some ⟨0, 4096, 77, true⟩ } }
theorem witness_referenceAndLock_1 :
    State.reset.on CLK_STATUS_REFLOST = true ∧ (State.reset.put CLK_STATUS_REFLOST 0).on CLK_STATUS_REFLOST = false := by
  decide +kernel
theorem witness_referenceAndLock_2 :
    State.reset.on CLK_STATUS_REFLOST = true ∧ State.reset.clk.refSeen = false ∧ wRefGone.on CLK_STATUS_REFLOST = true ∧ wRefGone.clk.refSeen = true ∧
      (State.reset.put CLK_STATUS_REFLOST 0).on CLK_STATUS_REFLOST = false := by
  decide +kernel
theorem witness_referenceAndLock_3 :
    State.reset.cfgSetting.valid = true ∧ (State.reset.put CLK_VCLK_CFG_N 1).cfgSetting.valid = false := by
  decide +kernel
theorem witness_referenceAndLock_4 :
    State.reset.gateOpen = false ∧ (State.reset.put CLK_STATUS_GATE 1).gateOpen = true := by
  decide +kernel
theorem witness_referenceAndLock_5 :
    State.reset.on CLK_STATUS_OVEN = false ∧ (State.reset.put CLK_STATUS_OVEN 1).on CLK_STATUS_OVEN = true := by
  decide +kernel
theorem witness_referenceAndLock_6 :
    ({ State.reset with seq := { State.reset.seq with running := some wPlaylist } } : State).reaches .host 0x20000 = true ∧
      ({ State.reset with seq := { State.reset.seq with running := some wPlaylist } } : State).seq.running.isSome = true ∧
      wJoin.reaches .host 0x20000 = true ∧ wJoin.startPending = true ∧ State.reset.reaches .host 0x20000 = true ∧ State.reset.seq.running = none ∧
      State.reset.startPending = false := by
  decide +kernel
theorem witness_referenceAndLock_7 :
    State.reset.on PTF_STATUS_REVAL = false ∧ (State.reset.put PTF_STATUS_REVAL 1).on PTF_STATUS_REVAL = true := by
  decide +kernel
theorem witness_referenceAndLock_8 :
    State.reset.on CLK_STATUS_LOCKED = false ∧ wLocked.on CLK_STATUS_LOCKED = true ∧
      (((wLocked.closeGate.put CLK_STATUS_LOCKED 0).put CLK_STATUS_UNLOCKED 1).event srcVclkUnlock).on CLK_STATUS_REFLOST = true ∧
      (((wLockedRef.closeGate.put CLK_STATUS_LOCKED 0).put CLK_STATUS_UNLOCKED 1).event srcVclkUnlock).on CLK_STATUS_REFLOST = false := by
  decide +kernel
theorem witness_referenceAndLock_9 :
    (State.reset.put CLK_STATUS_GATE 1).gateOpen = true ∧ wLockedRef.gateOpen = false ∧ wLockedRef.clk.startMsg = none ∧
      wLockedRef.frozen = false ∧ wLockedRef.on CLK_STATUS_REFLOST = false ∧ wLockedRef.clk.relocking = false ∧ wLockedRef.on CLK_STATUS_LOCKED = true ∧
      wLockedRef.on CLK_CTRL_HOLD = false ∧ (wLockedRef.put CLK_CTRL_HOLD 1).on CLK_CTRL_HOLD = true := by
  decide +kernel
theorem witness_referenceAndLock_11 :
    State.reset.reaches .host 0x20000 = true := by
  decide +kernel
theorem witness_groupFormation_1 :
    wForming.reaches .host 0x20020 = true ∧ wForming.on CLK_GRP_STATUS_FORMING = true ∧ State.reset.reaches .host 0x20020 = true ∧
      State.reset.on CLK_GRP_STATUS_FORMING = false ∧ State.reset.on CLK_GRP_STATUS_STARTED = false ∧
      (State.reset.put CLK_GRP_STATUS_STARTED 1).on CLK_GRP_STATUS_STARTED = true ∧ (State.reset.put CLK_GRP_STATUS_STARTED 1).on CLK_GRP_CTRL_FORCE = false := by
  decide +kernel
theorem witness_groupFormation_3 :
    wForming.on CLK_GRP_STATUS_FORMING = true ∧ State.reset.on CLK_GRP_STATUS_FORMING = false ∧ (8 : Fin 16).val ≤ 8 ∧ 8 < (9 : Fin 16).val := by
  decide +kernel
theorem witness_groupFormation_4 :
    State.reset.clk.place = none ∧ (896 : BitVec 16).toNat ≤ 896 ∧ 896 < (897 : BitVec 16).toNat ∧ (wPlaced.clk.place.map (·.1)) = some (1 : Fin 4).val := by
  decide +kernel
theorem witness_groupFormation_5 :
    State.reset.on CLK_ID_REQ_VALID = false ∧ (State.reset.put CLK_ID_REQ_VALID 1).on CLK_ID_REQ_VALID = true := by
  decide +kernel
theorem witness_groupFormation_7 :
    wPlaced.clk.place = some (1, 2) ∧ State.reset.clk.place = none := by
  decide +kernel
theorem witness_groupFormation_9 :
    State.reset.on CLK_GRP_STATUS_FORMING = false ∧ (wForming.put CLK_GC_PATH 16).on CLK_GRP_STATUS_FORMING = true ∧ (wForming.put CLK_GC_PATH 16).clk.formRoot = true ∧
      (wForming.put CLK_GC_PATH 16).get CLK_GC_PATH = 128 * (wForming.put CLK_GC_PATH 16).get CMT_HOPS + 16 ∧
      (wForming.put CLK_GC_PATH 17).get CLK_GC_PATH ≠ 128 * (wForming.put CLK_GC_PATH 17).get CMT_HOPS + 16 ∧ wPlaced.on CLK_GRP_STATUS_FORMING = true ∧
      wPlaced.clk.formRoot = false := by
  decide +kernel
theorem witness_groupStartAndJoin_1 :
    wFormed.reaches .host 0x20020 = true ∧ wFormed.on CLK_GRP_STATUS_FORMED = true ∧ wFormed.startPending = false ∧
      wFormed.frozen = false ∧ wFormed.inSafe = false ∧ wFormed.on CLK_DEPTH_DOWN = false ∧ State.reset.on CLK_GRP_STATUS_FORMED = false ∧
      (wFormed.put CLK_GRP_CTRL_SYNCIN_EN 1).on CLK_GRP_CTRL_SYNCIN_EN = true ∧ wFormed.on CMT_STATUS_ROOT = true := by
  decide +kernel
theorem witness_groupStartAndJoin_2 :
    (wStart.put CMT_STATUS_ROOT 0).frozen = false ∧ (wStart.put CMT_STATUS_ROOT 0).on CMT_STATUS_ROOT = false ∧ wFormed.on CMT_STATUS_ROOT = true := by
  decide +kernel
theorem witness_groupStartAndJoin_4 :
    wStart.clk.startMsg = some ⟨0, 0, 77, true⟩ ∧ wStart.on CLK_GRP_STATUS_STARTPEND = true ∧ State.reset.clk.startMsg = none ∧
      wJoin.on CLK_GRP_STATUS_STARTPEND = false := by
  decide +kernel
theorem witness_groupStartAndJoin_5 :
    wStart.clk.startMsg = some ⟨0, 0, 77, true⟩ ∧ wStart.on CLK_GRP_STATUS_STARTPEND = true ∧ wStart.on CMT_STATUS_ROOT = true ∧
      State.reset.clk.startMsg = none ∧ wJoin.on CLK_GRP_STATUS_STARTPEND = false := by
  decide +kernel
theorem witness_groupStartAndJoin_6 :
    (⟨0, 0, 77, false⟩ : StartMsg).good = false ∧ State.reset.on CLK_STATUS_REFLOST = true := by
  decide +kernel
theorem witness_groupStartAndJoin_7 :
    (⟨0, 0, 77, true⟩ : StartMsg).good = true ∧ wStart.on CLK_STATUS_REFLOST = false ∧ wStart.on CLK_CTRL_HOLD = false ∧
      (wStart.put CLK_CTRL_HOLD 1).on CLK_CTRL_HOLD = true := by
  decide +kernel
theorem witness_groupStartAndJoin_8 :
    State.reset.reaches .host 0x20020 = true ∧ wRoot.reaches .host 0x20020 = true ∧ wRoot.startPending = false ∧ wRoot.on CMT_STATUS_ROOT = true ∧ wRoot.insync = true := by
  decide +kernel
theorem witness_groupStartAndJoin_10 :
    wJoin.clk.startMsg = some ⟨0, 4096, 77, true⟩ ∧ wJoin.on CLK_GRP_STATUS_STARTPEND = false ∧ State.reset.clk.joinUntil = none ∧
      ({ State.reset with clk := { State.reset.clk with joinUntil := some 0 } } : State).clk.joinUntil = some 0 ∧
      0 ≤ ({ State.reset with clk := { State.reset.clk with joinUntil := some 0 } } : State).clk.epoch := by
  decide +kernel
theorem witness_groupStartAndJoin_12 :
    State.reset.get CLK_DEPTH_UP = 0xF ∧ (State.reset.put CLK_DEPTH_UP 3).get CLK_DEPTH_UP ≠ 0xF := by
  decide +kernel
theorem witness_groupStartAndJoin_13 :
    (wJoin.put CMT_STATUS_ROOT 0).on CMT_STATUS_ROOT = false ∧ (wJoin.put CLK_SYNC_CFG_CHK 1).on CLK_SYNC_CFG_CHK = true ∧
      State.reset.on CLK_SYNC_CFG_CHK = false := by
  decide +kernel

/-- A device with its gate open that runs a playlist of slots 5 to 9, with segment 3 of four records and word w in issue after n
vectors. -/
def wWord (w n : Nat) : State :=
  let s : State := State.reset.put CLK_STATUS_GATE 1
  { s with seq := { s.seq with running := some wPlaylist, word := some w, vecs := n, cur := 5, next := 1, started := true }
           seg := { s.seg with desc := [(3, ⟨1, 4, 0, true, 0⟩)] } }
/-- The same device before the word of slot 5, which is valid, has been read. -/
def wUnread : State := { (wWord 0 0).setSlot 5 ⟨0, checkBits 0 5, true, 0, 0⟩ with
  seq := { ((wWord 0 0).setSlot 5 ⟨0, checkBits 0 5, true, 0, 0⟩).seq with word := none } }
/-- A STOPFAIL word after its vector, its one site failed long before. -/
def wStopfail : State :=
  let s := wWord (0x18 * 2 ^ 186) 1
  { s with fail := { s.fail with siteFail := [(0, 0)] }
           clk := { s.clk with gvc := 500 }
           seq := { s.seq with issuedAt := some 400 } }
/-- The same playlist in lockstep mode. -/
def wLockstep : Playlist := { wPlaylist with waiting := false }
/-- A WAIT word on user flag 0 with T = 7 and a limit of 16 holds. -/
def wWaitUf0 : Nat := 0x10 * 2 ^ 186 + 7 * 2 ^ 162 + 0x20 * 2 ^ 85 + 15 * 2 ^ 31
/-- A MATCH word on user flag 0 with T = 7 and a limit of 1 vector. -/
def wMatchUf0 : Nat := 0x11 * 2 ^ 186 + 7 * 2 ^ 162 + 0x20 * 2 ^ 85
/-- A CWAIT word. -/
def wCwait : Nat := 0x10 * 2 ^ 186 + 7 * 2 ^ 162 + 1 * 2 ^ 79 + 15 * 2 ^ 31
/-- The WAIT word in issue, with the user flags as given. -/
def wWaiting (uf : Nat) : State := (wWord wWaitUf0 0).put SEQ_UFLAG uf
/-- The CWAIT word in issue, with the commit that it holds for. -/
def wCwaiting (c : Option (Nat × Nat)) : State := { wWord wCwait 0 with seq := { (wWord wCwait 0).seq with cwait := c } }
/-- The playlist queued and ready at an open gate. -/
def wQready : State := (wQueued true).put CLK_STATUS_GATE 1 |>.put SEG_PL_STATUS_QREADY 1
/-- An AT start at cycle 3, ready or not. -/
def wLate (ready : Nat) : State := { ((wQueued false).put CLK_STATUS_GATE 1).put SEG_PL_STATUS_QREADY ready with
  seq := { State.reset.seq with queued := some { wPlaylist with at_ := some 3 } } }
/-- A vector of word w in flight, issued in cycle 10, with a claimed unit's action. -/
def wFlight (w : Nat) : Flight :=
  { gvc := 10, slot := 5, word := w, first := true, playFirst := false, uipv := 0, active := [], bad := [], record := [], tiles := 0
    memKept := false, apgA := 0, apgB := 0, fcX := 0, fcY := 0, fcZ := 0, strm := [], undr := 0, enabled := 1, siteset := 1, dctl := 0
    killed := 0, killDrv := 0, plNum := 1, gen7 := State.reset.cmt.gen7, prevData := 0, arm := false, disarm := false, capOn := false
    tiu := true, landed := false, cut := false, samples := [] }
/-- A device with that vector in flight. -/
def wInFlight (w : Nat) : State :=
  let s := State.reset.put CLK_STATUS_GATE 1
  { s with clk := { s.clk with gvc := 1000 }, land := { s.land with flights := [wFlight w] } }
/-- A device on which word w has issued its first vector in cycle 10, with done its actions that are done. -/
def wActs (w done : Nat) : State := { wInFlight w with seq := { (wInFlight w).seq with act := some ⟨w, 5, 10, 1, done⟩ } }
/-- A device with its gate open and a stop set for cycle 100. -/
def wStopat : State := (State.reset.put CLK_STATUS_GATE 1).put64 SEQ_STOPAT_LO SEQ_STOPAT_HI 100
theorem witness_sequencerFlow_1 :
    ∀ p w, State.reset.lastOf p w 0x3F = false := by
  intro p w
  have h : State.reset.seq.running = none := rfl
  simp [State.lastOf, State.inWord, h]
theorem witness_sequencerFlow_2 :
    (wWord (0) 1).lastOf wPlaylist (0) 0x0 = true := by
  decide +kernel
theorem witness_sequencerFlow_3 :
    (wWord (0x1 * 2 ^ 186) 1).lastOf wPlaylist (0x1 * 2 ^ 186) 0x1 = true := by
  decide +kernel
theorem witness_sequencerFlow_4 :
    (wWord (0x2 * 2 ^ 186) 1).lastOf wPlaylist (0x2 * 2 ^ 186) 0x2 = true := by
  decide +kernel
theorem witness_sequencerFlow_5 :
    (wWord (0x3 * 2 ^ 186) 1).lastOf wPlaylist (0x3 * 2 ^ 186) 0x3 = true := by
  decide +kernel
theorem witness_sequencerFlow_6 :
    (wWord (0x4 * 2 ^ 186) 1).lastOf wPlaylist (0x4 * 2 ^ 186) 0x4 = true := by
  decide +kernel
theorem witness_sequencerFlow_7 :
    (wWord (0x5 * 2 ^ 186) 1).lastOf wPlaylist (0x5 * 2 ^ 186) 0x5 = true := by
  decide +kernel
theorem witness_sequencerFlow_8 :
    (wWord (0x6 * 2 ^ 186) 1).lastOf wPlaylist (0x6 * 2 ^ 186) 0x6 = true := by
  decide +kernel
theorem witness_sequencerFlow_9 :
    (wWord (0x7 * 2 ^ 186) 1).lastOf wPlaylist (0x7 * 2 ^ 186) 0x7 = true := by
  decide +kernel
theorem witness_sequencerFlow_10 :
    (wWord (0x08 * 2 ^ 186) 1).lastOf wPlaylist (0x08 * 2 ^ 186) 0x08 = true ∧
      ((wWord (0x08 * 2 ^ 186) 1).loopParam (bits (mwTarget (0x08 * 2 ^ 186)) 0 6) false).1 = 0 := by
  decide +kernel
theorem witness_sequencerFlow_11 :
    (wWord (0x9 * 2 ^ 186) 1).lastOf wPlaylist (0x9 * 2 ^ 186) 0x9 = true := by
  decide +kernel
theorem witness_sequencerFlow_12 :
    (wWord (0xa * 2 ^ 186) 1).lastOf wPlaylist (0xa * 2 ^ 186) 0xa = true := by
  decide +kernel
theorem witness_sequencerFlow_13 :
    (wWord (0x0B * 2 ^ 186) 1).lastOf wPlaylist (0x0B * 2 ^ 186) 0x0B = true ∧
      ((wWord (0x0B * 2 ^ 186) 1).loopParam (bits (mwTarget (0x0B * 2 ^ 186)) 18 6) false).1 = 0 := by
  decide +kernel
theorem witness_sequencerFlow_14 :
    (State.reset.land.flights.find? fun x => State.reset.seq.issuedAt == some x.gvc) = none ∧
      (({ wWord 0 1 with land := (wInFlight 0).land, seq := { (wWord 0 1).seq with issuedAt := some 10 } } : State).land.flights.find?
        fun x => some 10 == some x.gvc) = some (wFlight 0) ∧ ∀ o ∈ State.reset.cmt.activeBad, o.2 ≠ (SEQ_LPARAM 63).off := by
  decide +kernel
theorem witness_sequencerFlow_15 :
    wStopfail.lastOf wPlaylist (0x18 * 2 ^ 186) 0x18 = true ∧ wStopfail.allOut wStopfail.playSites (400 - 104) 400 = true ∧
      (wWord (0x18 * 2 ^ 186) 1).lastOf wPlaylist (0x18 * 2 ^ 186) 0x18 = true ∧ bitAt (wWord (0x18 * 2 ^ 186) 1).playSites 0 = true ∧
      (wWord (0x18 * 2 ^ 186) 1).failedBy 0 0 = false ∧ (wWord (0x18 * 2 ^ 186) 1).killedBy 0 0 = false := by
  decide +kernel
theorem witness_sequencerFlow_16 :
    (wWord (0x3f * 2 ^ 186) 1).lastOf wPlaylist (0x3f * 2 ^ 186) 0x3f = true := by
  decide +kernel
theorem witness_sequencerFlow_19 :
    (4 < wPlaylist.first ∨ wPlaylist.last < 4) ∧ (10 < wPlaylist.first ∨ wPlaylist.last < 10) ∧ wPlaylist.first ≤ (wWord 0 1).seq.cur + 1 ∧
      5 ≠ State.reset.seq.cur + 1 ∧ wPlaylist.first ≤ 5 ∧ 9 ≤ wPlaylist.last ∧ (wPlaylist.roots.find? fun q => q.slot == 5) = some ⟨5, 0, 0⟩ ∧
      indexOf? (fun x : Root => x.slot == 5) wPlaylist.roots = some 0 ∧ (wPlaylist.roots.find? fun q => q.slot == 9) = none ∧ wLockstep.waiting = false := by
  decide +kernel
theorem witness_sequencerFlow_20 :
    State.reset.seq.stack.length < 16 ∧ State.reset.seq.buf.tail.length < 512 ∧
      16 ≤ ({ State.reset with seq := { State.reset.seq with stack := List.replicate 16 (6, 0, 1) } } : State).seq.stack.length ∧
      511 < ({ State.reset with seq := { State.reset.seq with buf := List.replicate 513 none } } : State).seq.buf.tail.length := by
  decide +kernel
theorem witness_sequencerFlow_21 :
    State.reset.seq.stack = [] ∧ ({ State.reset with seq := { State.reset.seq with stack := [(6, 0, 1)] } } : State).seq.stack = (6, 0, 1) :: [] ∧
      wPlaylist.first ≤ 6 ∧ 6 ≤ wPlaylist.last ∧ (4 < wPlaylist.first ∨ wPlaylist.last < 4) := by
  decide +kernel
theorem witness_sequencerFlow_22 :
    (262143 : Nat) < 2 ^ 18 ∧ seamless 4096 = true ∧ seamless 4160 = true ∧ seamless 4032 = false ∧ seamless 4097 = false ∧
      ({ (wWord 0 1) with seq := { (wWord 0 1).seq with pos := (0, 3) } } : State).seq.pos.2 + 1 = (wWord 0 1).segLength { wPlaylist with segs := [3, 3] } 0 := by
  decide +kernel
theorem witness_sequencerCycles_1 :
    State.reset.seq.running = none ∧ (wQueued true).gateOpen = false := by
  decide +kernel
theorem witness_sequencerCycles_2 :
    (wWord 0 0).seq.running = some wPlaylist ∧ (wWord 0 0).gateOpen = true ∧ (wWord 0 0).frozen = false ∧
      ((wWord 0 0).readWord wPlaylist 0).1 = some 0 ∧ ((wWord wWaitUf0 0).readWord wPlaylist 0).1 = some wWaitUf0 ∧ mwOp wWaitUf0 = 0x10 ∧
      ((wWord wMatchUf0 0).readWord wPlaylist 0).1 = some wMatchUf0 ∧ mwOp wMatchUf0 = 0x11 ∧
      (({ wWord 0 0 with seq := { (wWord 0 0).seq with word := none } } : State).readWord wPlaylist 0).1 = none := by
  decide +kernel
theorem witness_sequencerCycles_3 :
    (wWord 0 0).seq.word = some 0 ∧ wUnread.seq.word = none ∧ (wUnread.csRead wUnread.seq.cur 0).1 = some 0 ∧
      wUnread.seq.pos.1 < wPlaylist.segs.length ∧ (wUnread.csRead wUnread.seq.cur 3).1 = none := by
  decide +kernel
theorem witness_sequencerCycles_4 :
    (wWord wWaitUf0 0).seq.holds < mwWaitVc wWaitUf0 ∧ mwCwait wWaitUf0 = false ∧ mwCwait wCwait = true ∧ (wWord wCwait 0).seq.holds < mwWaitVc wCwait ∧
      (wWord wWaitUf0 0).cond (mwCond wWaitUf0) (max (wWord wWaitUf0 0).seq.next (wWord wWaitUf0 0).clk.gvc) = false ∧
      (wWaiting 1).cond (mwCond wWaitUf0) (max (wWaiting 1).seq.next (wWaiting 1).clk.gvc) = true ∧ (wWord wMatchUf0 0).seq.vecs < mwWaitVc wMatchUf0 ∧
      mwWaitVc wMatchUf0 ≤ (wWord wMatchUf0 1).seq.vecs ∧ mwWaitVc wWaitUf0 ≤ 16 := by
  decide +kernel
theorem witness_sequencerCycles_5 :
    (3 : Nat) < 4 := by
  decide +kernel
theorem witness_sequencerCycles_6 :
    ((wWord 0 0).standWord 0).mustStall wPlaylist false = false ∧
      (({ wWord 0 0 with seq := { (wWord 0 0).seq with stalled := true } } : State).standWord 0).mustStall wPlaylist false = true := by
  decide +kernel
theorem witness_sequencerCycles_8 :
    State.reset.seq.word = none ∧ (wCwaiting (some (5, 1))).inWord wPlaylist wCwait = true ∧ (wCwaiting (some (5, 1))).seq.cwait = some (5, 1) ∧
      mwCwait wCwait = true ∧ (wWord wCwait 0).seq.vecs = 0 ∧ (wWord wCwait 0).seq.holds + (17 - (wWord wCwait 0).seq.next) ≤ mwWaitVc wCwait ∧
      mwWaitVc wCwait < (wWord wCwait 0).seq.holds + (18 - (wWord wCwait 0).seq.next) := by
  decide +kernel
theorem witness_sequencerCycles_9 :
    State.reset.seq.word = none ∧ (wWord wMatchUf0 1).inWord wPlaylist wMatchUf0 = true ∧ mwOp wMatchUf0 = 0x11 ∧ mwWaitVc wMatchUf0 ≤ (wWord wMatchUf0 1).seq.vecs ∧
      ({ wWaiting 0 with seq := { (wWaiting 0).seq with holds := 16 } } : State).inWord wPlaylist wWaitUf0 = true ∧ mwOp wWaitUf0 = 0x10 ∧ mwWaitVc wWaitUf0 ≤ 16 ∧
      (wWaiting 0).cwaitDue = false ∧ (wWaiting 0).seq.holds < mwWaitVc wWaitUf0 ∧ mwOp 0 ≠ 0x10 ∧ mwOp 0 ≠ 0x11 := by
  decide +kernel
theorem witness_sequencerCycles_11 :
    (wWord 0 0).seq.running = some wPlaylist ∧ (wWord 0 0).gateOpen = true ∧ (wWord 0 0).frozen = false := by
  decide +kernel
theorem witness_sequencerCycles_12 :
    State.reset.seq.queued = none ∧ wQready.seq.queued = some wPlaylist ∧ wPlaylist.at_ = none ∧ wQready.gateOpen = true ∧ wQready.frozen = false ∧
      wQready.on SEG_PL_STATUS_QREADY = true ∧ wQready.seq.running = none ∧ wQready.on PMG_STATUS_STOPHOLD = false ∧
      (wQready.put PMG_STATUS_STOPHOLD 1).on PMG_STATUS_STOPHOLD = true ∧
      (wLate 0).seq.queued = some { wPlaylist with at_ := some 3 } ∧ (wLate 0).gateOpen = true ∧ (wLate 0).frozen = false ∧ (wLate 0).reach 3 = some ((wLate 0).advanceTo 3) ∧
      ((wLate 0).advanceTo 3).clk.gvc = 3 ∧ ((wLate 0).advanceTo 3).on SEG_PL_STATUS_QREADY = false ∧ ((wLate 1).advanceTo 3).on SEG_PL_STATUS_QREADY = true ∧
      ((wLate 1).advanceTo 3).seq.running = none := by
  decide +kernel
theorem witness_sequencerActions_1 :
    State.reset.seq.act = none := by
  decide +kernel
theorem witness_sequencerActions_2 :
    (wActs 0 0).seq.act = some ⟨0, 5, 10, 1, 0⟩ ∧ mwCommit 0 ≠ 2 ∧ mwEvent 0 = 0 ∧ mwFlagOp 0 ≠ 1 ∧ mwDctl 0 ≠ 4 ∧ mwArm 0 = false ∧
      bitAt (127 : Nat) 5 = true := by
  decide +kernel
theorem witness_sequencerActions_3 :
    (wActs (2 * 2 ^ 79) 0).seq.act = some ⟨2 * 2 ^ 79, 5, 10, 1, 0⟩ ∧ mwCommit (2 * 2 ^ 79) = 2 ∧ bitAt 0 actCmark = false := by
  decide +kernel
theorem witness_sequencerActions_4 :
    (wActs (5 * 2 ^ 73) 0).seq.act = some ⟨5 * 2 ^ 73, 5, 10, 1, 0⟩ ∧ mwEvent (5 * 2 ^ 73) ≠ 0 ∧ bitAt 0 actEvent = false := by
  decide +kernel
theorem witness_sequencerActions_5 :
    (wActs (1 * 2 ^ 29) 0).seq.act = some ⟨1 * 2 ^ 29, 5, 10, 1, 0⟩ ∧ mwFlagOp (1 * 2 ^ 29) = 1 ∧ bitAt 0 actFlag = false := by
  decide +kernel
theorem witness_sequencerActions_6 :
    (wActs (2 * 2 ^ 29) 0).seq.act = some ⟨2 * 2 ^ 29, 5, 10, 1, 0⟩ ∧ mwFlagOp (2 * 2 ^ 29) = 2 ∧ bitAt 0 actFlag = false := by
  decide +kernel
theorem witness_sequencerActions_7 :
    (wActs (3 * 2 ^ 29) 0).seq.act = some ⟨3 * 2 ^ 29, 5, 10, 1, 0⟩ ∧ mwFlagOp (3 * 2 ^ 29) = 3 ∧ bitAt 0 actFlag = false := by
  decide +kernel
theorem witness_sequencerActions_8 :
    (wActs (2 ^ 103) 0).seq.act = some ⟨2 ^ 103, 5, 10, 1, 0⟩ ∧ mwArm (2 ^ 103) = true ∧ bitAt 0 5 = false := by
  decide +kernel
theorem witness_sequencerActions_9 :
    (wActs (2 ^ 102) 0).seq.act = some ⟨2 ^ 102, 5, 10, 1, 0⟩ ∧ mwDisarm (2 ^ 102) = true ∧ bitAt 0 6 = false := by
  decide +kernel
theorem witness_sequencerActions_10 :
    (wActs (1 * 2 ^ 19) 0).seq.act = some ⟨1 * 2 ^ 19, 5, 10, 1, 0⟩ ∧ mwDctl (1 * 2 ^ 19) = 1 ∧ mwDctl (4 * 2 ^ 19) = 4 ∧ bitAt 0 actDctl = false := by
  decide +kernel
theorem witness_sequencerActions_12 :
    State.reset.seq.running = none := by
  decide +kernel
theorem witness_sequencerActions_13 :
    (wWord (1 * 2 ^ 43) 0).seq.running = some wPlaylist ∧ (wWord (1 * 2 ^ 43) 0).gateOpen = true ∧ (wWord (1 * 2 ^ 43) 0).frozen = false ∧
      mwStrAct (1 * 2 ^ 43) = 1 ∧ mwStrAct (2 * 2 ^ 43) = 2 ∧ mwStrAct (3 * 2 ^ 43) = 3 ∧ mwStrAct (4 * 2 ^ 43) = 4 := by
  decide +kernel
theorem witness_sequencerActions_14 :
    (wWord (1 * 2 ^ 43) 0).seq.strDone = false ∧ (wWord (1 * 2 ^ 43) 0).seq.vecs = 0 ∧ mwStrAct (4 * 2 ^ 43) = 4 ∧ (wWord 0 1).seq.vecs ≠ 0 := by
  decide +kernel
theorem witness_sequencerActions_15 :
    (wInFlight (2 ^ 51 * 1)).land.flights.find? (fun x => x.tiu && mwTiuAct x.word == 1) = some (wFlight (2 ^ 51 * 1)) ∧
      (wInFlight (2 ^ 51 * 2)).land.flights.find? (fun x => x.tiu && mwTiuAct x.word == 2) = some (wFlight (2 ^ 51 * 2)) ∧
      (wInFlight (2 ^ 51 * 3)).land.flights.find? (fun x => x.tiu && mwTiuAct x.word == 3) = some (wFlight (2 ^ 51 * 3)) ∧
      (wInFlight (2 ^ 51 * 3)).reach ((wFlight (2 ^ 51 * 3)).gvc + 64) = some (wInFlight (2 ^ 51 * 3)) ∧
      ((wInFlight 0).put (TIU_STATUS_OWNER 0) tiuPlay).get (TIU_STATUS_OWNER 0) = tiuPlay ∧ ∀ x ∈ State.reset.land.flights, x.tiu = false := by
  decide +kernel
theorem witness_sequencerActions_16 :
    State.reset.reaches .host 0x80000 = true ∧ State.reset.seq.running = none ∧ (wWord 0 0).seq.running = some wPlaylist ∧
      ((wWord (0x3F * 2 ^ 186) 1).flowOn wPlaylist).seq.running = none ∧ ((wWord 0 0).flowOn wPlaylist).seq.running.isSome = true := by
  decide +kernel
theorem witness_sequencerActions_17 :
    ({ State.reset with fail := { State.reset.fail with rakeStop := some 0 } } : State).fail.rakeStop = some 0 ∧ State.reset.fail.rakeStop = none := by
  decide +kernel
theorem witness_sequencerActions_18 :
    State.reset.reaches .host 0x80000 = true ∧ State.reset.gateOpen = false ∧
      wStopat.reaches .host 0x80000 = true ∧ wStopat.gateOpen = true ∧ wStopat.clk.gvc + 16 < wStopat.get64 SEQ_STOPAT_LO SEQ_STOPAT_HI := by
  decide +kernel
theorem witness_sequencerActions_19 :
    State.reset.on SEQ_STATUS_ARMED = false ∧ (wStopat.put SEQ_STATUS_ARMED 1).seq.running = none ∧ (wStopat.put SEQ_STATUS_ARMED 1).on SEQ_STATUS_ARMED = true ∧
      (wStopat.put SEQ_STATUS_ARMED 1).gateOpen = true ∧ (wStopat.put SEQ_STATUS_ARMED 1).clk.gvc ≤ 100 ∧
      wStopat.get64 SEQ_STOPAT_LO SEQ_STOPAT_HI = 100 ∧ (wWord 0 0).seq.running.isSome = true ∧ (wWord 0 0).seq.next < 100 := by
  decide +kernel
theorem witness_sequencerActions_20 :
    State.reset.reaches .host 0x80028 = true ∧ State.reset.reaches .host 0x8002C = true ∧ State.reset.seq.act = none ∧
      (wActs (1 * 2 ^ 29) 4).seq.act = some ⟨1 * 2 ^ 29, 5, 10, 1, 4⟩ ∧ bitAt 4 actFlag = true ∧ bitAt (1 : BitVec 16).toNat (mwFlag (1 * 2 ^ 29)) = true := by
  decide +kernel

/-- A device at cycle 200 with one vector in flight, issued in cycle 10. -/
def wLanding : State := { wInFlight 0 with clk := { State.reset.clk with gvc := 200 } }
/-- The same vector, in an instant that the device cannot reach yet. -/
def wAfar : State := { wInFlight 0 with clk := { State.reset.clk with gvc := 20 }, seq := { (wWord 0 1).seq with next := 21 } }
/-- A settle of channel 3 has run since cycle 0. -/
def wSettling : State := ({ State.reset with clk := { State.reset.clk with gvc := 9000 } } : State).setChan 3 { State.reset.chan 3 with settle := some 0 }
/-- A settle of channel 3 had 30,000 half-picoseconds left when the gate closed at rc 0. -/
def wResting : State := State.reset.setChan 3 { State.reset.chan 3 with rest := some (30000, 0) }
/-- A channel whose marks a later pass has cleared for CLR. -/
def wMarked : State := { (State.reset.put (LVL_CH_UNTR_RBFAIL 0) 1) with
  land := { State.reset.land with readback := [(0, { Readback.none with cleared := true })] } }
/-- A channel marked untrusted by a failed readback. -/
def wDoubted : State := State.reset.markUntrusted 0 LVL_CH_UNTR_RBFAIL
/-- A channel in step n of a readback pass. -/
def wPass (n : Nat) (again : Bool) : State := { State.reset with
  land := { State.reset.land with readback := [(0, { Readback.none with running := true, step := n, again := again })] } }
/-- A playlist that a Rake decision has asked to stop. -/
def wRakeStop : State := { wWord 0 1 with fail := { State.reset.fail with rakeStop := some 0 } }
/-- A landed vector whose word turns every driver off. -/
def wUntripped : State := { wInFlight (2 * 2 ^ 19) with
  land := { State.reset.land with flights := [{ wFlight 0 with dctl := 2 }] }, clk := { State.reset.clk with gvc := 200 } }
/-- The same with channel 0 tripped. -/
def wTripped : State := wUntripped.trip 1001 [0]
/-- The drive-off edge of that vector on channel 0. -/
def wOffEdge : Edge := (firstEdge (wUntripped.dueEdges 0)).getD ⟨⟨0, 0, 0⟩, 0⟩
/-- A site's kill is due in cycle 0. -/
def wKill : State := { State.reset with fail := { State.reset.fail with killAt := [(2, 0)] } }
/-- Capture is active and a gap of two records is still to be marked. -/
def wCapGap : State := { State.reset with cap := { State.reset.cap with gap := some (2, 7), capOn := true } }
/-- A gap in the fail catalogue. -/
def wFcGap : State := { State.reset with cap := { State.reset.cap with fcGap := some (2, 7) } }
theorem witness_landAndCompare_1 :
    (State.reset.land.flights.find? fun x => !x.landed) = none ∧ (wLanding.land.flights.find? fun x => !x.landed) = some (wFlight 0) ∧
      wLanding.reach 74 = some wLanding ∧ (wAfar.land.flights.find? fun x => !x.landed) = some (wFlight 0) ∧ wAfar.reach 74 = none := by
  decide +kernel
theorem witness_landAndCompare_3 :
    (State.reset.chan 3).settle = none ∧ (State.reset.chan 3).rest = none ∧ (wSettling.chan 3).settle = some 0 ∧
      wSettling.reach ((0 + State.reset.clk.vset.settleTime) / State.reset.clk.vset.period).toNat = some wSettling ∧
      (wResting.chan 3).settle = none ∧ (wResting.chan 3).rest = some (30000, 0) := by
  decide +kernel
theorem witness_landAndCompare_4 :
    firstEdge (State.reset.dueEdges 0) = none ∧ firstEdge (wUntripped.dueEdges 0) = some wOffEdge ∧
      wUntripped.reach (wOffEdge.key.time / wUntripped.clk.vset.period).toNat = some wUntripped := by
  decide +kernel
theorem witness_landAndCompare_5 :
    wUntripped.budding = false ∧ (wUntripped.offLand 0 || wUntripped.pmuHeld 0) = false ∧ (wTripped.offLand 0 || wTripped.pmuHeld 0) = true ∧
      (wUntripped.put PMG_STATUS_STATE 2).budding = true := by
  decide +kernel
theorem witness_landAndCompare_6 :
    (wLanding.land.flights.find? fun x => x.gvc == (10 : Gvc).toNat && !x.cut) = some (wFlight 0) ∧
      wLanding.reach ((wLanding.samplePoints (wFlight 0) 0 0).2 / wLanding.clk.vset.period).toNat = some wLanding ∧
      ((wFlight 0).samples.any fun x => x.ch == 0 && x.ui == 0) = false ∧ (0 : Fin 8).val < wLanding.clk.vset.uis ∧ wLanding.clk.vset.uis ≤ (7 : Fin 8).val ∧
      wAfar.reach ((wAfar.samplePoints (wFlight 0) 0 0).2 / wAfar.clk.vset.period).toNat = none := by
  decide +kernel
theorem witness_landAndCompare_7 :
    State.reset.siteOf 0 = none ∧ actCompares 4 = true ∧ actCompares 0 = false := by
  decide +kernel
theorem witness_landAndCompare_8 :
    State.reset.landVolt 0 0 = none ∧ (State.reset.setChan 0 { State.reset.chan 0 with outside := (true, 5) }).landVolt 0 0 = some 3200 ∧
      ChanLand.reset.halfBand = 0 ∧ ({ ChanLand.reset with standing := [0, 0, 0, 0, 0, 0x10, 0] } : ChanLand).halfBand ≠ 0 := by
  decide +kernel
theorem witness_readbackAndTrust_2 :
    (255 : Nat) < 256 := by
  decide +kernel
theorem witness_readbackAndTrust_3 :
    (255 : Nat) < 256 := by
  decide +kernel
theorem witness_readbackAndTrust_4 :
    State.reset.time.rc < State.reset.land.rbBase + 100 * State.reset.get LVL_CTRL_RBPERIOD ∧
      ({ State.reset with time := { State.reset.time with rc := 100 * State.reset.get LVL_CTRL_RBPERIOD } } : State).land.rbBase +
        100 * State.reset.get LVL_CTRL_RBPERIOD ≤ 100 * State.reset.get LVL_CTRL_RBPERIOD := by
  decide +kernel
theorem witness_readbackAndTrust_5 :
    (State.reset.readback 0).running = false ∧ ((wPass 7 false).readback 0).running = true ∧ ((wPass 7 false).readback 0).again = false ∧
      ((wPass 8 true).readback 0).again = true ∧ 8 ≤ ((wPass 8 true).readback 0).step := by
  decide +kernel
theorem witness_readbackAndTrust_6 :
    (State.reset.readback 0).spoilt = false ∧ (State.reset.readback 0).markAc = none := by
  decide +kernel
theorem witness_readbackAndTrust_7 :
    wMarked.reaches .host 0x100E120 = true ∧ (wMarked.readback 0).cleared = true ∧ wDoubted.reaches .host 0x100E120 = true ∧ (wDoubted.readback 0).cleared = false := by
  decide +kernel
theorem witness_readbackAndTrust_8 :
    State.reset.reaches .host 0xA00 = true ∧ 100 ≤ (100 : BitVec 32).toNat % 2 ^ 14 ∧ (10000 : BitVec 32).toNat % 2 ^ 14 ≤ 10000 ∧
      (99 : BitVec 32).toNat % 2 ^ 14 < 100 ∧ 10000 < (10001 : BitVec 32).toNat % 2 ^ 14 := by
  decide +kernel
theorem witness_rakeAtTake_1 :
    State.reset.land.flights = [] ∧ wLanding.land.flights = wFlight 0 :: [] ∧ wLanding.reach 109 = some wLanding ∧ (wFlight 0).cut = false ∧
      wAfar.land.flights = wFlight 0 :: [] ∧ wAfar.reach 109 = none ∧ ({ wFlight 0 with cut := true } : Flight).cut = true := by
  decide +kernel
theorem witness_rakeAtTake_2 :
    State.reset.fail.rakeStop = none ∧ wRakeStop.fail.rakeStop = some 0 ∧ wRakeStop.seq.running = some wPlaylist ∧ wRakeStop.reachBoundary 0 = some wRakeStop := by
  decide +kernel
theorem witness_rakeAtTake_3 :
    (wKill.fail.killAt.find? fun e => e.1 == 2) = some (2, 0) ∧ wKill.killShown 2 = false ∧ wKill.reach 0 = some wKill ∧
      (wKill.put CAP_KILL_LO 4).killShown 2 = true ∧ (∀ e ∈ wKill.fail.killAt, e.1 ≠ 63) := by
  decide +kernel
theorem witness_rakeAtTake_4 :
    State.reset.reaches .host 0x200074 = true ∧ State.reset.seq.running = none ∧ (wWord 0 0).reaches .host 0x200074 = true ∧
      (wWord 0 0).seq.running.isSome = true ∧ (wWord 0 0).seq.started = true ∧ (wWord 0 0).endsHere = false ∧ (wWord (0x3F * 2 ^ 186) 1).endsHere = true := by
  decide +kernel
theorem witness_captureControl_1 :
    State.reset.reaches .host 0x200000 = true ∧ State.reset.seq.running = none ∧ State.reset.land.flights = [] ∧
      wLanding.reaches .host 0x200000 = true ∧ (wLanding.seq.running ≠ none ∨ wLanding.land.flights ≠ []) := by
  decide +kernel
theorem witness_captureControl_3 :
    wCapGap.cap.gap = some (2, 7) ∧ wCapGap.cap.capOn = true ∧ wCapGap.on CAP_STATUS_FROZEN = false ∧ wCapGap.on CAP_STATUS_RINGFULL = false ∧
      State.reset.cap.gap = none := by
  decide +kernel
theorem witness_captureControl_4 :
    wFcGap.cap.fcGap = some (2, 7) ∧ ({ wFcGap with cap := { wFcGap.cap with fcBufFull := false } } : State).fcUsed + 4 ≤ 2 ^ 26 ∧
      2 ^ 26 < (wFcGap.put CAP_FC_WPTR_LO (2 ^ 26)).fcUsed + 4 := by
  decide +kernel
theorem witness_captureControl_5 :
    State.reset.reaches .host 0x200064 = true ∧ State.reset.cap.fcRptr ≤ State.reset.get CAP_FC_RPTR_LO + 2 ^ 32 * (0 : BitVec 32).toNat ∧
      State.reset.get CAP_FC_RPTR_LO + 2 ^ 32 * (0 : BitVec 32).toNat ≤ State.reset.get64 CAP_FC_WPTR_LO CAP_FC_WPTR_HI ∧
      State.reset.get64 CAP_FC_WPTR_LO CAP_FC_WPTR_HI < State.reset.get CAP_FC_RPTR_LO + 2 ^ 32 * (1 : BitVec 32).toNat ∧
      0 < ({ State.reset with cap := { State.reset.cap with fcRptr := 1 } } : State).cap.fcRptr := by
  decide +kernel

/-- TIU 0 owned by the host. -/
def wTiu : State := State.reset.put (TIU_STATUS_OWNER 0) tiuHost
/-- TIU 0 armed. -/
def wArmed : State := wTiu.tiuArmUnit 0
/-- TIU 0 started at timestamp 1000. -/
def wStarted : State := (wArmed.put (TIU_STATUS_ARMED 0) 0).put (TIU_STATUS_STARTED 0) 1 |>.setTiu 0 { TiuUnit.idle with e0 := some 1000, last := 1000 }
/-- A calibration of TIU 0, queued. -/
def wTiuEntry : CalEntry := ⟨7, 0, 0, 100, false, false, 0⟩
/-- A device whose arbiter holds it. -/
def wTiuQueued : State := { State.reset with cal := { State.reset.cal with queue := [wTiuEntry] } }
/-- The same device after the entry's deadline. -/
def wTiuLate : State := { wTiuQueued with time := { wTiuQueued.time with rc := 100 } }
/-- A device that runs it. -/
def wTiuRunning : State := { State.reset.put (TIU_STATUS_OWNER 0) tiuCal with cal := { State.reset.cal with running := [wTiuEntry] } }
/-- Histograms of a whole calibration, good or bad. -/
def wHist (bad : Bool) : List (List (BitVec 23)) :=
  List.replicate 17 (if bad then [16385] ++ List.replicate 1022 4084 ++ [4071] else List.replicate 1024 4096)
/-- PMU 0 owned by the host. -/
def wPmu : State := State.reset.put (PMU_STATUS_OWNER 0) 1
/-- The same, with a plot that lets core 3 write BAR0. -/
def wPmuScion : State := withPlot wPmu 3
/-- TIU 0 armed, with a bin table of its start input. -/
def wBinned : State := { wArmed with tiu := { wArmed.tiu with bins := [(0, [5, 7])] } }
/-- TIU 0 started, with a bin table of stop input 0. -/
def wStopping : State := { wStarted with tiu := { wStarted.tiu with bins := [(1, [5, 7])] } }
/-- PMU 0 about to close to channel 0. -/
def wClosing : State := { wPmu with pmu := { wPmu.pmu with closing := [(0, 0)] } }
/-- The same, and then channel 0 trips. -/
def wClosingTripped : State := { (State.reset.put (PMU_STATUS_OWNER 0) 1).trip 1001 [0] with pmu := { wPmu.pmu with closing := [(0, 0)] } }
/-- Channel 0 selected for a contact test. -/
def wContact : State := State.reset.put (PMU_CT_SEL 0) 1
/-- Channel 0 under contact test, its PMU connected to it. -/
def wTesting : State := { State.reset.put (PMU_STATUS_CONN 0) 1 with pmu := { State.reset.pmu with contact := [0], tested := [0] } }
/-- PMU 0 owned by the host, with a valid chain of R = 8. -/
def wChain : State := (wPmu.put (DFC_CFG_RH 0) 4).put (DFC_CFG_DCK 0) 0
/-- The chain runs, and its first output is due. -/
def wChainDue : State := { wChain.put (DFC_STATUS_RUN 0) 1 with time := { wChain.time with rc := 1000 } }
theorem witness_timeIntervalUnits_1 :
    State.reset.reaches .host (0x281000 + 0x100 * (15 : Fin 16).val) = true ∧ State.reset.get (TIU_STATUS_OWNER 15) = 0 ∧
      bitAt (State.reset.get PMG_DOM_ON0) (12 + 15 / 8) = true ∧ wTiu.reaches .host (0x281000 + 0x100 * (0 : Fin 16).val) = true ∧ wTiu.get (TIU_STATUS_OWNER 0) ≠ 0 ∧
      bitAt ((State.reset.put PMG_DOM_ON0 0).get PMG_DOM_ON0) (12 + 7 / 8) = false := by
  decide +kernel
theorem witness_timeIntervalUnits_2 :
    State.reset.reaches .host (0x281000 + 0x100 * (0 : Fin 16).val) = true ∧ State.reset.get (TIU_STATUS_OWNER 0) ≠ 1 ∧
      wTiu.reaches .host (0x281000 + 0x100 * (0 : Fin 16).val) = true ∧ wTiu.get (TIU_STATUS_OWNER 0) = 1 ∧ wTiu.get (TIU_CTRL_MODE 0) ≠ 3 ∧
      wTiu.tiuBusy 0 = false ∧ wArmed.tiuBusy 0 = true ∧ (wTiu.put (TIU_CTRL_MODE 0) 3).get (TIU_CTRL_MODE 0) = 3 := by
  decide +kernel
theorem witness_timeIntervalUnits_3 :
    (15 : Nat) < 16 := by
  decide +kernel
theorem witness_timeIntervalUnits_4 :
    wStarted.on (TIU_STATUS_STARTED 0) = true := by
  decide +kernel
theorem witness_timeIntervalUnits_5 :
    State.reset.reaches .host 0x280000 = true := by
  decide +kernel
theorem witness_timeIntervalUnits_6 :
    wTiuQueued.tiuCalEntry 0 = some wTiuEntry ∧ wTiuQueued.get (TIU_STATUS_OWNER 0) = 0 ∧ State.reset.tiuCalEntry 0 = none ∧
      (wTiuQueued.put (TIU_STATUS_OWNER 0) 1).get (TIU_STATUS_OWNER 0) ≠ 0 := by
  decide +kernel
theorem witness_timeIntervalUnits_7 :
    wTiuRunning.cal.running = [wTiuEntry] ∧ (wHist false).length = 17 ∧ (wHist false).all histWhole = true ∧ (wHist false).any histBad = false ∧
      (wHist true).length = 17 ∧ (wHist true).all histWhole = true ∧ (wHist true).any histBad = true ∧ State.reset.cal.running = [] := by
  decide +kernel
theorem witness_timeIntervalUnits_8 :
    State.reset.tiuCalEntry 0 = none ∧ wTiuLate.tiuCalEntry 0 = some wTiuEntry ∧ wTiuEntry.late = false ∧ wTiuEntry.deadline ≤ wTiuLate.time.rc ∧
      wTiuQueued.time.rc < wTiuEntry.deadline := by
  decide +kernel
theorem witness_timeIntervalEvents_1 :
    wBinned.frozen = false ∧ wBinned.tiuDrives (wBinned.tiuSrc 0 0).1 (wBinned.tiuSrc 0 0).2 = true ∧
      (wBinned.tiuCompare (wBinned.tiuSrc 0 0).1 (wBinned.tiuSrc 0 0).2).tiuListens 0 0 (wBinned.tiuUnit 0) = true ∧
      (wBinned.tiuCompare (wBinned.tiuSrc 0 0).1 (wBinned.tiuSrc 0 0).2).tiuWatches 0 0 (wBinned.tiuCompare (wBinned.tiuSrc 0 0).1 (wBinned.tiuSrc 0 0).2).interrupted = false ∧
      (wBinned.tiuUnit 0).gated = false ∧ (wBinned.tiuBin 0 0 1).1 = 7 ∧ wBinned.tiuOnlyCounts 0 (wBinned.tiuUnit 0) 7 = false ∧ wBinned.tiuDead 0 7 = false ∧
      wStopping.tiuListens 0 1 (wStopping.tiuUnit 0) = true ∧ (wStopping.tiuBin 0 1 1).1 = 7 ∧ State.reset.tiuListens 0 0 (State.reset.tiuUnit 0) = false ∧
      (State.reset.put FRZ_STATUS_STATE 2).frozen = true := by
  decide +kernel
theorem witness_timeIntervalEvents_2 :
    TiuUnit.idle.e0 = none ∧ 15 < 16 := by
  decide +kernel
theorem witness_timeIntervalEvents_3 :
    (wStopping.tiuUnit 0).e0 = some 1000 ∧ wStopping.get (TIU_CTRL_MODE 0) = 0 ∧ 0 ≤ wStopping.get (TIU_CFG_NSTOP 0) ∧
      ((wStopping.tiuUnit 0).taken.any fun r => r.1 == 0) = false := by
  decide +kernel
theorem witness_timeIntervalEvents_4 :
    (2 : Int) ^ 47 ≤ (-140737488355328 : Int).natAbs ∧ (140737488355327 : Int).natAbs < 2 ^ 47 := by
  decide +kernel
theorem witness_timeIntervalEvents_5 :
    State.reset.tiuBusy 0 = false ∧ wArmed.tiuBusy 0 = true ∧ wArmed.on (TIU_CTRL_CONT 0) = false ∧ (wArmed.put (TIU_CTRL_CONT 0) 1).on (TIU_CTRL_CONT 0) = true := by
  decide +kernel
theorem witness_sourceUnits_1 :
    State.reset.reaches .host (0x301000 + 0x100 * (31 : Fin 32).val) = true ∧ State.reset.get (PMU_STATUS_OWNER 31) = 0 ∧
      State.reset.domOn (30 + 3 * (31 / 4)) = true ∧ wPmuScion.reaches (.scion 3) (0x301000 + 0x100 * (0 : Fin 32).val) = true ∧ wPmuScion.get (PMU_STATUS_OWNER 0) ≠ 0 ∧
      wPmuScion.get (PMU_STATUS_OWNER 0) ≠ 2 ∧ wPmu.reaches .host (0x301000 + 0x100 * (0 : Fin 32).val) = true ∧ wPmu.get (PMU_STATUS_OWNER 0) = 1 := by
  decide +kernel
theorem witness_sourceUnits_2 :
    wPmuScion.reaches (.scion 3) (0x301000 + 0x100 * (0 : Fin 32).val) = true ∧ wPmuScion.reaches (.scion 3) (0x301008 + 0x100 * (0 : Fin 32).val) = true ∧
      wPmuScion.domOn (30 + 3 * (0 / 4)) = true ∧ wPmuScion.get (PMU_STATUS_OWNER 0) ≠ 2 := by
  decide +kernel
theorem witness_sourceUnits_3 :
    wPmu.reaches .host (0x301000 + 0x100 * (0 : Fin 32).val) = true ∧ wPmu.domOn (30 + 3 * (0 / 4)) = true ∧
      wPmu.get (PMU_STATUS_OWNER 0) = (if Req.host = .host then 1 else 2) ∧ wPmu.inCal (8 * 0 + bits (0x8040 : BitVec 32).toNat 6 3) = false := by
  decide +kernel
theorem witness_sourceUnits_4 :
    (31 : Nat) < 32 ∧ bits 16 2 3 < 5 ∧ 5 ≤ bits 20 2 3 := by
  decide +kernel
theorem witness_sourceUnits_5 :
    wClosingTripped.tripped 0 = true ∧ (wClosingTripped.pmu.closing.find? fun e => e.1 == 0) = some (0, 0) ∧
      wClosing.tripped 0 = false ∧ wClosing.pins.railLow = false ∧ (wClosing.pmu.closing.find? fun e => e.1 == 0) = some (0, 0) ∧ State.reset.pmu.closing = [] := by
  decide +kernel
theorem witness_sourceUnits_6 :
    wPmu.reaches .host (0x301008 + 0x100 * (0 : Fin 32).val) = true ∧ wPmu.domOn (30 + 3 * (0 / 4)) = true ∧
      wPmu.get (PMU_STATUS_OWNER 0) = (if Req.host = .host then 1 else 2) ∧ wPmu.pmuValueOk 0 0 (0 : BitVec 32).toNat = true ∧
      wPmu.pmuValueOk 0 1 (0 : BitVec 32).toNat = false ∧ wPmu.pmuValueOk 0 1 53687092 = true ∧ wPmu.pmuValueOk 0 1 1181116007 = false := by
  decide +kernel
theorem witness_sourceUnits_7 :
    wContact.reaches .host 0x300000 = true ∧ (∀ n ∈ List.range 32, wContact.on (PMU_STATUS_OWNER n) = false ∧
      wContact.domOn (30 + 3 * (n / 4)) = true) ∧ (∀ c ∈ allChannels, wContact.inCal c = false) ∧ wContact.bitOf PMU_CT_SEL 0 = true ∧
      (wPmu.put (PMU_CT_SEL 0) 1).bitOf PMU_CT_SEL 0 = true ∧ (wPmu.put (PMU_CT_SEL 0) 1).on (PMU_STATUS_OWNER 0) = true := by
  decide +kernel
theorem witness_sourceUnits_8 :
    State.reset.ctNow ((0 : Fin 256).val / 8) ≠ some (0 : Fin 256).val ∧ wTesting.ctNow ((0 : Fin 256).val / 8) = some (0 : Fin 256).val ∧
      wTesting.on (PMU_STATUS_CONN 0) = true ∧ wTesting.tripped 0 = false := by
  decide +kernel
theorem witness_filterChains_1 :
    wPmuScion.domOn 14 = true ∧ wPmuScion.get (PMU_STATUS_OWNER 0) ≠ 2 ∧ wPmuScion.reaches (.scion 3) (0x341008 + 0x100 * (0 : Fin 32).val) = true ∧
      wPmuScion.reaches (.scion 3) (0x341014 + 0x100 * (0 : Fin 32).val) = true := by
  decide +kernel
theorem witness_filterChains_2 :
    wChain.reaches .host (0x341008 + 0x100 * (0 : Fin 32).val) = true ∧ wChain.domOn 14 = true ∧
      wChain.get (PMU_STATUS_OWNER 0) = (if Req.host = .host then 1 else 2) ∧ wChain.dfcValid 0 = true ∧ (wPmu.put (DFC_CFG_RH 0) 0).dfcValid 0 = false ∧
      (wChain.put (DFC_CFG_RH 0) 128).dfcValid 0 = true ∧ (wChain.put (DFC_CFG_RH 0) 129).dfcValid 0 = false := by
  decide +kernel
theorem witness_filterChains_3 :
    wChain.reaches .host (0x341014 + 0x100 * (0 : Fin 32).val) = true ∧ wChain.domOn 14 = true ∧
      wChain.get (PMU_STATUS_OWNER 0) = (if Req.host = .host then 1 else 2) ∧ wChain.on (DFC_STATUS_FROZEN 0) = false ∧
      (wChain.put (DFC_STATUS_FROZEN 0) 1).on (DFC_STATUS_FROZEN 0) = true := by
  decide +kernel
theorem witness_filterChains_4 :
    State.reset.on (DFC_STATUS_RUN 0) = false ∧ wChainDue.on (DFC_STATUS_RUN 0) = true ∧ wChainDue.domOn 14 = true ∧ wChainDue.frozen = false ∧
      [(0 : BitVec 32)].length = wChainDue.get (DFC_CFG_DF 0) + 1 ∧ wChainDue.dfcDue 0 = true ∧ (wChain.put (DFC_STATUS_RUN 0) 1).dfcDue 0 = false ∧
      wChainDue.get (DFC_RATIO 0) = 0 := by
  decide +kernel
theorem witness_filterChains_5 :
    (31 : Nat) < 32 ∧ 2 ^ 32 - 1 < 2 ^ 32 ∧ 15 < 16 := by
  decide +kernel

/-- Monitor 5 trips its channel on the filtered decision. -/
def wFilt : State := State.reset.put (GRD_CFG_SRC 5) 1
/-- Monitor 5 trips its channel on the raw decision. -/
def wRaw : State := State.reset.put (GRD_CFG_SRC 5) 2
/-- Channel 5 held by a manual trip. -/
def wHeld : State := State.reset.trip 1001 [5]
/-- A window of 0x0400 to 0x0100. -/
def wWindow : BitVec 32 := 0x04000100
/-- The envelope holds that window. -/
def wEnvelope : State := (((State.reset.put GRD_ENV_CH_HI 0x4000).put GRD_ENV_CH_LO 0).put GRD_ENV_DS_HI 0x4000).put GRD_ENV_DS_LO 0
/-- Monitor 5 runs in P, and its tick is due. -/
def wPmode : State := { State.reset.put (GRD_CFG_MODE 5) 3 with time := { State.reset.time with rc := 100000000 } }
/-- The driver of channel 7 is on. -/
def wDriving : State := State.reset.setChan 7 { State.reset.chan 7 with drv := 1 }
theorem witness_guardDecisions_1 :
    wPmode.grdMode (5 : Fin 312).val = 3 ∧ wFilt.grdMode (5 : Fin 312).val ≠ 3 := by
  decide +kernel
theorem witness_guardDecisions_3 :
    wFilt.grdMode 5 ≠ 3 ∧ majority (wFilt.get (GRD_CFG_K 5)) (wFilt.get (GRD_CFG_N 5)) 0 = false ∧ wFilt.grdOutside 5 0 = false ∧
      wFilt.grdOutside 5 32001 = true ∧ wFilt.grdOutside 5 32000 = false ∧ wFilt.grdOutside 5 (-12001) = true ∧ wFilt.grdOutside 5 (-12000) = false ∧
      majority (wFilt.get (GRD_CFG_K 5)) (wFilt.get (GRD_CFG_N 5)) 1 = true ∧ wFilt.on (GRD_STATUSM_ACTIVE 5) = false ∧
      (wFilt.put (GRD_STATUSM_ACTIVE 5) 1).on (GRD_STATUSM_ACTIVE 5) = true := by
  decide +kernel
theorem witness_guardDecisions_4 :
    State.reset.on (GRD_STATUSM_POLREV 256) = false ∧ grdReversed 287 (-800) = true ∧ grdReversed 287 (-799) = false ∧ grdReversed 288 (-800) = false := by
  decide +kernel
theorem witness_guardDecisions_5 :
    288 ≤ (294 : Fin 312).val ∧ 288 ≤ (311 : Fin 312).val ∧ State.reset.grdMode 288 ≠ 3 ∧ State.reset.on (GRD_STATUSM_ACTIVE 288) = false ∧
      (State.reset.put (GRD_CFG_SRC 288) 0).get (GRD_CFG_SRC 288) = 0 ∧ State.reset.grdOutside 288 30000 = true ∧
      majority (State.reset.get (GRD_CFG_K 288)) (State.reset.get (GRD_CFG_N 288)) 3 = true := by
  decide +kernel
theorem witness_guardDecisions_6 :
    wRaw.grdMode 5 ≠ 3 ∧ wRaw.grdOutside 5 (0x7FFF#16).toInt = true ∧ wRaw.get (GRD_CFG_SRC 5) = 2 ∧ wPmode.grdMode 5 = 3 ∧
      wRaw.grdOutside 5 (0#16).toInt = false ∧ wFilt.get (GRD_CFG_SRC 5) ≠ 2 := by
  decide +kernel
theorem witness_guardDecisions_7 :
    (5 : Nat) < 256 ∧ wFilt.get (GRD_CFG_ACT 5) ≠ 1 ∧ (5 ∉ wFilt.holders 5 ∨ wFilt.on (GRD_STATUSM_LATCHED 5) = false) := by
  decide +kernel
theorem witness_guardDecisions_8 :
    (255 : Nat) < 256 ∧ (State.reset.put (GRD_CFG_ACT 255) 1).get (GRD_CFG_ACT 255) = 1 := by
  decide +kernel
theorem witness_guardDecisions_9 :
    (31 : Nat) < 32 ∧ (State.reset.put (GRD_CFG_ACT 287) 1).get (GRD_CFG_ACT (256 + 31)) = 1 ∧
      (State.reset.put (GRD_CFG_ACT 287) 2).get (GRD_CFG_ACT (256 + 31)) = 2 ∧ State.reset.inSafe = false := by
  decide +kernel
theorem witness_guardDecisions_10 :
    wPmode.pins.inReset = 0 ∧ wPmode.grd.tickBase + 25 * wPmode.get GRD_TICK ≤ wPmode.time.rc ∧
      State.reset.time.rc < State.reset.grd.tickBase + 25 * State.reset.get GRD_TICK := by
  decide +kernel
theorem witness_guardDecisions_11 :
    (wDriving.chan 7).drv ≠ 0 ∧ 1000 ∉ wDriving.holders 7 ∧ (State.reset.chan 7).drv = 0 ∧ State.reset.zeroDriven 7 = false := by
  decide +kernel
theorem witness_guardDecisions_12 :
    State.reset.reaches .host 0x380100 = true ∧ bitAt (0x80000000 : BitVec 32).toNat 31 = true := by
  decide +kernel
theorem witness_guardDecisions_14 :
    (287 : Fin 312).val < 288 ∧ (State.reset.put (GRD_CFG_SRC 287) 0).get (GRD_CFG_SRC 287) = 0 := by
  decide +kernel
theorem witness_guardControl_1 :
    State.reset.reaches .host 0x380120 = true := by
  decide +kernel
theorem witness_guardControl_2 :
    wHeld.allTripped = false ∧ (∀ h ∈ wHeld.holders 5, h < 312 → wHeld.on (GRD_STATUSM_ACTIVE h) = false) ∧ wHeld.tripped 5 = true ∧
      (State.reset.put GRD_STATUS_THERM 1).allTripped = true ∧
      (∃ h ∈ ((wFilt.put (GRD_STATUSM_ACTIVE 5) 1).trip 5 [5]).holders 5, h < 312 ∧ ((wFilt.put (GRD_STATUSM_ACTIVE 5) 1).trip 5 [5]).on (GRD_STATUSM_ACTIVE h) = true) := by
  decide +kernel
theorem witness_guardControl_3 :
    State.reset.reaches .host 0x381008 = true ∧ (255 : Fin 312).val < 256 ∧ 256 ≤ (256 : Fin 312).val ∧ State.reset.on (GRD_STATUSM_ACTIVE 256) = false ∧
      State.reset.on GRD_STATUS_THERM = false ∧ State.reset.inSafe = false ∧ (State.reset.put (GRD_STATUSM_ACTIVE 256) 1).reaches .host 0x381008 = true ∧
      (State.reset.put (GRD_STATUSM_ACTIVE 256) 1).on (GRD_STATUSM_ACTIVE 256) = true := by
  decide +kernel
theorem witness_guardControl_4 :
    State.reset.reaches .host 0x381004 = true ∧ signedOf 16 ((0x01000080 : BitVec 32).toNat / 2 ^ 16) - signedOf 16 ((0x01000080 : BitVec 32).toNat % 2 ^ 16) < 400 ∧
      wEnvelope.reaches .host 0x381004 = true ∧ 400 ≤ signedOf 16 (wWindow.toNat / 2 ^ 16) - signedOf 16 (wWindow.toNat % 2 ^ 16) ∧
      wEnvelope.outsideEnvelope 287 (wWindow.toNat / 2 ^ 16) (wWindow.toNat % 2 ^ 16) = false ∧ (287 : Fin 312).val < 288 ∧
      wEnvelope.outsideEnvelope 0 0x5000 0 = true ∧ 288 ≤ (311 : Fin 312).val ∧ Req.host ≠ Req.rootstock ∧ State.reset.reaches .rootstock 0x381004 = true := by
  decide +kernel
theorem witness_guardControl_5 :
    (255 : Nat) < 256 ∧ 256 ≤ 287 ∧ 287 < 288 := by
  decide +kernel
theorem witness_guardControl_6 :
    ((State.reset.setMonitor 311 { Monitor.settled with mode := some 1 }).monitor 311).mode = some 1 ∧ (State.reset.monitor 0).mode = none := by
  decide +kernel
theorem witness_guardControl_7 :
    State.reset.reaches .host 0x381000 = true ∧ State.reset.reaches .rootstock 0x381000 = true ∧ 288 ≤ (288 : Fin 312).val ∧ Req.host ≠ Req.rootstock ∧
      bits (0x30000000 : BitVec 32).toNat 28 2 = 3 ∧ bits (0x0C000000 : BitVec 32).toNat 26 2 = 3 ∧ bits (0x00210000 : BitVec 32).toNat 16 4 < bits (0x00210000 : BitVec 32).toNat 20 4 ∧
      bits (0x50330000 : BitVec 32).toNat 28 2 = 1 ∧ bits (0x50330000 : BitVec 32).toNat 20 4 ≤ bits (0x50330000 : BitVec 32).toNat 16 4 ∧
      (State.reset.put GRD_POLICY_NODIS 1).reaches .host 0x381000 = true ∧ (State.reset.put GRD_POLICY_NODIS 1).on GRD_POLICY_NODIS = true ∧ (255 : Fin 312).val < 256 := by
  decide +kernel
theorem witness_guardControl_8 :
    State.reset.get PMG_STATUS_STATE ≠ 1 ∧ (State.reset.put PMG_STATUS_STATE 1).get PMG_STATUS_STATE = 1 := by
  decide +kernel

/-- Port 0 owned by the host. -/
def wPort : State := State.reset.put (CLE_LB_STATUS_OWNER 0) 1
/-- The same, enabled. -/
def wEnabled : State := wPort.put (CLE_LB_CTRL_EN 0) 1
/-- A device whose domain 15 is off. -/
def wCleOff : State := State.reset.put PMG_DOM_ON0 (State.reset.get PMG_DOM_ON0 - 2 ^ 15)
/-- Loop 3 owned by the host. -/
def wLoop : State := State.reset.put (CLE_LSTATUS_OWNER 3) 1
/-- Loop 3, on the engine's own frame with period 1, in MAN and holding no input. -/
def wManual : State := { (wLoop.put (CLE_LSTATUS_MODE 3) 1).put (CLE_PER 3) 1 with pins := { State.reset.pins with inReset := 0 } }
/-- Loop 3 in MAN, reading port 0, which runs and has received the word 5 in this frame. -/
def wReading : State :=
  let s := ((((wManual.put (CLE_CFG_INSRC 3) 2).put (CLE_RDFMT_WIDTH 3) 8).put (CLE_RDFMT_LSB 3) 0).put (CLE_LB_STATUS_RUN 0) 1).put (CLE_CHKMASK 3) 0
  s.setLoop 3 { Loop.reset with read := some (5, s.cle.frame) }
/-- Port 0 runs a READ of loop 3, which is in MAN. -/
def wReadEntry : State := (((State.reset.put (CLE_LB_SCHED_KIND 0 0) 1).put (CLE_LB_SCHED_LOOP 0 0) 3).put (CLE_LB_SCHED_LEN 0 0) 8).put (CLE_LSTATUS_MODE 3) 1
/-- The hold of tile 7 is enabled, and its thermal loop is in AUTO. -/
def wThermal : State := (State.reset.put (CLE_TH_CFG_EN 7) 1).put (CLE_LSTATUS_MODE 63) 2
/-- Tile 7 has held INBAND for 1 s. -/
def wSteady : State :=
  let s := (State.reset.put (CLE_TH_CFG_EN 7) 1).put (CLE_TH_STATUS_INBAND 7) 1
  { s with cle := { s.cle with inband := [(7, 0)] }, time := { s.time with rc := 100000000 } }
/-- A TIMING entry of channel 7. -/
def wCalEntry : CalEntry := ⟨1, 0, 7, 100, false, false, 0⟩
/-- A device whose engine has run it to its end. -/
def wCal : State := { State.reset with cal := { State.reset.cal with running := [wCalEntry] }, time := { State.reset.time with rc := 160000 } }
/-- The entry queued. -/
def wCalQueued : State := { State.reset with cal := { State.reset.cal with queue := [wCalEntry] } }
/-- The same in Bloom, every domain on, so that the entry is ready. -/
def wCalReady : State := (wCalQueued.put PMG_STATUS_STATE 3).put PMG_DOM_ON1 (2 ^ 32 - 1)
/-- A PMU entry queued there. -/
def wPmuReady : State := { wCalReady with cal := { State.reset.cal with queue := [⟨6, 0, 0, 100, false, false, 0⟩] } }
/-- A DC entry of channel 7 that has run its time. -/
def wCalDc : State := { wCal with cal := { State.reset.cal with running := [⟨2, 0, 7, 100, false, false, 0⟩] }, time := { State.reset.time with rc := 320000 } }
/-- A PMU entry that has run its time. -/
def wCalPmu : State := { wCal with cal := { State.reset.cal with running := [⟨6, 0, 7, 100, false, false, 0⟩] }, time := { State.reset.time with rc := 1280000 } }
/-- A graft of channel 7 to SP0. -/
def wGraftEntry : CalEntry := ⟨4, 0, 7, 100, false, false, 0⟩
/-- It has run its time. -/
def wGraft : State := { State.reset with cal := { State.reset.cal with running := [wGraftEntry] }, time := { State.reset.time with rc := 490000 } }
theorem witness_loopBus_1 :
    State.reset.reaches .host 0x3C0100 = true ∧ State.reset.domOn 15 = true ∧ State.reset.get (CLE_LB_STATUS_OWNER 3) = 0 ∧
      wPort.reaches .host 0x3C0100 = true ∧ wPort.get (CLE_LB_STATUS_OWNER 0) = (if Req.host = Req.host then 1 else 2) ∧
      (withPlot wPort 3).reaches (.scion 3) 0x3C0100 = true ∧ (withPlot wPort 3).domOn 15 = true ∧ (withPlot wPort 3).get (CLE_LB_STATUS_OWNER 0) ≠ (if Req.scion 3 = Req.host then 1 else 2) ∧
      wCleOff.reaches .host 0x3C0100 = true ∧ wCleOff.domOn 15 = false ∧ wEnabled.on (CLE_LB_CTRL_EN 0) = true ∧ bits (0x20 : BitVec 32).toNat 5 1 = 1 := by
  decide +kernel
theorem witness_loopBus_2 :
    wPort.reaches .host 0x3C0108 = true ∧ wPort.domOn 15 = true ∧ wCleOff.reaches .host 0x3C0108 = true ∧ wCleOff.domOn 15 = false := by
  decide +kernel
theorem witness_loopBus_3 :
    wEnabled.cleRuns = true ∧ wEnabled.inSafe = false ∧ wEnabled.on (CLE_LB_CTRL_EN 0) = true ∧ wEnabled.lbCarried 0 wEnabled.cle.frame = false ∧
      wEnabled.on (CLE_LB_STATUS_RUN 0) = false ∧ (wEnabled.put (CLE_LB_STATUS_RUN 0) 1).on (CLE_LB_STATUS_RUN 0) = true ∧
      0 = wEnabled.cle.frame % (wEnabled.get (CLE_LB_CTRL_L 0) + 1) ∧ wCleOff.cleRuns = false := by
  decide +kernel
theorem witness_loopBus_4 :
    wReadEntry.get (CLE_LB_SCHED_KIND 0 0) = 1 ∧ wReadEntry.get (CLE_LSTATUS_MODE (wReadEntry.get (CLE_LB_SCHED_LOOP 0 0))) ≠ 0 ∧ State.reset.get (CLE_LB_SCHED_KIND 0 0) = 0 ∧
      (wReadEntry.put (CLE_LB_SCHED_KIND 0 0) 2).get (CLE_LB_SCHED_KIND 0 0) = 2 ∧ 3 ∉ (wReadEntry.put (CLE_LB_SCHED_KIND 0 0) 2).cle.rampLoops ∧
      (wReadEntry.put (CLE_LB_SCHED_KIND 0 0) 3).get (CLE_LB_SCHED_KIND 0 0) = 3 ∧ 0 ∈ ({ wReadEntry with cle := { wReadEntry.cle with htx := [0] } } : State).cle.htx := by
  decide +kernel
theorem witness_loopControl_1 :
    wLoop.reaches .host 0x3C1000 = true ∧ wLoop.domOn 15 = true ∧ wLoop.get (CLE_LSTATUS_OWNER 3) = (if Req.host = Req.host then 1 else 2) ∧
      State.reset.get (CLE_LSTATUS_OWNER 63) = 0 ∧ (withPlot wLoop 3).reaches (.scion 3) 0x3C1000 = true ∧ (withPlot wLoop 3).get (CLE_LSTATUS_OWNER 3) ≠ (if Req.scion 3 = Req.host then 1 else 2) ∧
      wCleOff.reaches .host 0x3C1000 = true ∧ wCleOff.domOn 15 = false ∧ wLoop.int32 (CLE_OUTMIN 3) ≤ wLoop.int32 (CLE_OUTMAX 3) ∧
      ((wLoop.put (CLE_OUTMAX 3) 0).put (CLE_OUTMIN 3) 1).int32 (CLE_OUTMAX 3) < ((wLoop.put (CLE_OUTMAX 3) 0).put (CLE_OUTMIN 3) 1).int32 (CLE_OUTMIN 3) := by
  decide +kernel
theorem witness_loopControl_2 :
    wLoop.get (CLE_LSTATUS_MODE 3) = 0 ∧ (wLoop.put (CLE_CFG_INSRC 3) 3).modeRefusal 3 = 4 ∧ (wLoop.put (CLE_CFG_INSRC 3) 3).sinkBad 3 = true ∧
      (wLoop.put (CLE_PER 3) 1).sinkBad 3 = false ∧ (wLoop.put (CLE_PER 3) 1).schedBad 3 = false ∧ (wLoop.put (CLE_PER 3) 1).loadWith (some 3) ≤ 16 ∧
      (wLoop.put (CLE_PER 3) 0).schedBad 3 = true ∧ wManual.get (CLE_LSTATUS_MODE 3) = 1 := by
  decide +kernel
theorem witness_loopControl_3 :
    wManual.cleRuns = true ∧ wManual.get (CLE_LSTATUS_MODE 3) ≠ 0 ∧ (wManual.loop 3).done ≤ wManual.cle.frame ∧ wManual.loopTime 3 = (1, 0) ∧
      wManual.rawInput 3 = none ∧ wReading.cleRuns = true ∧ wReading.rawInput 3 = some 5 ∧ State.reset.get (CLE_LSTATUS_MODE 3) = 0 := by
  decide +kernel
theorem witness_loopControl_4 :
    wReading.get (CLE_LSTATUS_MODE 3) = 1 ∧ (wReading.loop 3).apply = none := by
  decide +kernel
theorem witness_loopControl_5 :
    wManual.get (CLE_LSTATUS_MODE 3) ≠ 3 ∧ ((wManual.put (CLE_CFG_LOSTN 3) 1).loop 3).lost + 1 = (wManual.put (CLE_CFG_LOSTN 3) 1).get (CLE_CFG_LOSTN 3) ∧
      (State.reset.put (CLE_LSTATUS_MODE 63) 3).get (CLE_LSTATUS_MODE 63) = 3 := by
  decide +kernel
theorem witness_loopControl_6 :
    wThermal.cleRuns = true ∧ wThermal.on (CLE_TH_CFG_EN 7) = true ∧ wThermal.get (CLE_LSTATUS_MODE (56 + 7)) ≠ 0 ∧ wCleOff.cleRuns = false ∧
      State.reset.on (CLE_TH_CFG_EN 0) = false := by
  decide +kernel
theorem witness_loopControl_7 :
    (∃ t, t < 8 ∧ wSteady.on (CLE_TH_CFG_EN t) = true) ∧ wSteady.on CLE_STATUS_TSETTLED = false ∧ (∀ t, t < 8 → wSteady.on (CLE_TH_CFG_EN t) = true →
          wSteady.on (CLE_TH_STATUS_INBAND t) = true ∧ ∃ e ∈ wSteady.cle.inband, e.1 = t ∧ e.2 + 100000000 ≤ wSteady.time.rc) ∧
      ∀ t, t < 8 → State.reset.on (CLE_TH_CFG_EN t) = false := by
  refine ⟨⟨7, by decide +kernel⟩, by decide +kernel, ?_, by decide +kernel⟩
  decide +kernel
theorem witness_calibrationRequests_1 :
    State.reset.reaches .host 0x400008 = true ∧ (3 : Fin 4).val ≠ 0 ∧ (7 : Fin 256).val < 8 ∧ 8 ≤ (8 : Fin 256).val ∧ (31 : Fin 256).val < 32 ∧ 32 ≤ (32 : Fin 256).val := by
  decide +kernel
theorem witness_calibrationRequests_2 :
    State.reset.reaches .host 0x400008 = true ∧ (3 : Fin 4).val = 3 ∧ State.reset.spareTaken 7 0 = false ∧ (State.reset.put (CAL_GRAFT_SP1BAD 0) 1).spareTaken 7 1 = true ∧
      State.reset.get (CAL_CH_STATUS_ELEM 255) = 0 ∧ (State.reset.put (CAL_CH_STATUS_ELEM 255) 1).get (CAL_CH_STATUS_ELEM 255) ≠ 0 := by
  decide +kernel
theorem witness_calibrationRequests_3 :
    ({ State.reset with cal := { State.reset.cal with queue := List.replicate 1024 wCalEntry } } : State).cal.queue.length ≥ 1024 ∧ State.reset.cal.queue.length < 1024 := by
  decide +kernel
theorem witness_calibrationRequests_4 :
    (∀ x ∈ ([] : List CalEntry), x.kind ≠ wCalEntry.kind ∨ x.target ≠ wCalEntry.target) ∧ wCalEntry.kind = 1 := by
  decide +kernel
theorem witness_calibrationRuns_1 :
    State.reset.calNext 0 = none ∧ wCalReady.calNext 0 = some wCalEntry ∧ wCalEntry.kind ≠ 6 ∧ wPmuReady.calNext 0 = some ⟨6, 0, 0, 100, false, false, 0⟩ := by
  decide +kernel
theorem witness_calibrationRuns_2 :
    wCalReady.calNext 0 = some wCalEntry := by
  decide +kernel
theorem witness_calibrationRuns_3 :
    (wCalQueued.cal.queue.find? fun e => e.kind == (1 : Fin 8).val && e.target == (7 : Fin 256).val) = some wCalEntry ∧ wCalEntry.late = false ∧
      wCalQueued.time.rc < wCalEntry.deadline ∧ wCalEntry.deadline ≤ ({ wCalQueued with time := { wCalQueued.time with rc := 100 } } : State).time.rc ∧
      ∀ e ∈ State.reset.cal.queue, e.kind ≠ 1 ∨ e.target ≠ 7 := by
  decide +kernel
theorem witness_calibrationRuns_4 :
    (wCal.cal.running.find? fun e => e.kind == (1 : Fin 8).val && e.target == (7 : Fin 256).val) = some wCalEntry ∧ wCalEntry.began + 160000 ≤ wCal.time.rc ∧
      (wCalDc.cal.running.find? fun e => e.kind == (2 : Fin 8).val && e.target == (7 : Fin 256).val) = some ⟨2, 0, 7, 100, false, false, 0⟩ ∧ 0 + 320000 ≤ wCalDc.time.rc ∧
      (wCalPmu.cal.running.find? fun e => e.kind == (6 : Fin 8).val && e.target == (7 : Fin 256).val) = some ⟨6, 0, 7, 100, false, false, 0⟩ ∧ 0 + 1280000 ≤ wCalPmu.time.rc ∧
      vrefGood (16221 : BitVec 16).toNat = true ∧ vrefGood (16220 : BitVec 16).toNat = false ∧ vrefGood (16547 : BitVec 16).toNat = true ∧ vrefGood (16548 : BitVec 16).toNat = false ∧
      (0 : Fin 8).val ∉ [1, 2, 6] := by
  decide +kernel
theorem witness_calibrationRuns_5 :
    wCalEntry.target = 7 ∧ (255 : Nat) < 256 := by
  decide +kernel
theorem witness_calibrationRuns_6 :
    (wGraft.cal.running.find? fun e => e.kind == 4 && e.target == (7 : Fin 256).val) = some wGraftEntry ∧ wGraftEntry.refbad = false ∧ wGraftEntry.began + 490000 ≤ wGraft.time.rc ∧
      vrefGood (16384 : BitVec 16).toNat = true ∧ ∀ e ∈ State.reset.cal.running, e.kind ≠ 4 ∨ e.target ≠ 7 := by
  decide +kernel
theorem witness_calibrationRuns_7 :
    (255 : Nat) < 256 ∧ (State.reset.put (CAL_CH_STATUS_ELEM 255) 2).get (CAL_CH_STATUS_ELEM 255) = 2 := by
  decide +kernel

/-- Scion 0 in a state of R613. -/
def wScn (st : Nat) : State := State.reset.put (SCN_STATUS_STATE 0) st
/-- Scion 0 with a pending input 5 of priority 3 and an arriving input 6 of priority 4. -/
def wInputs : State := State.reset.setCore 0 { State.reset.core 0 with pending := [(5, 3)], arriving := [(6, 4)] }
/-- Registers of Rootstock at a trap: x2 = 0x1000, x1 = 7. -/
def wRegs : List (BitVec 64) := [7, 0x1000]
/-- A slot image without payload whose hash is right. -/
def wImg : List Byte :=
  let h := sha384 []
  List.replicate 64 0 ++ ((List.range 48).map fun i => BitVec.ofNat 8 (h / 2 ^ (8 * (47 - i)))) ++ List.replicate 208 0
/-- Scion 0 restarting on slot 0, which holds that image. -/
def wRestarting : State := { (wScn 3).put (SCN_IMG_SLOT 0) 0 with
  rsc := { State.reset.rsc with slots := [(0, wImg)] } }
/-- Scion 0 under a graft to slot 1 with its image loaded, ready to switch, HBM in service. -/
def wGrafting : State := { (wScn 5).put HBC_STATUS_INSERVICE 1 with
  rsc := { State.reset.rsc with slots := [(1, wImg)], graft := some ⟨[0], 1, true, 10, 0⟩ } }
/-- Scion 0 draining, at the drain limit of its graft. -/
def wDrained : State := { (wScn 4) with
  rsc := { State.reset.rsc with slots := [(1, wImg)], graft := some ⟨[0], 1, true, 10, 0⟩ }, time := { State.reset.time with rc := 1000 } }
/-- A graft of Scion 0 before its load. -/
def wGraftNew : State := { State.reset with rsc := { State.reset.rsc with graft := some ⟨[0], 1, false, 10, 0⟩ } }
/-- A standby pair that is ready. -/
def wStandby : State := State.reset.put RSC_STATUS_SBYREADY 1
/-- A pair that is held in reset. -/
def wFailedPair : State := { State.reset with rsc := { State.reset.rsc with held := true } }
/-- A handover to slot 9. -/
def wHandover (st : Nat) : State := { State.reset.put RSC_STATUS_HOSTATE st with rsc := { State.reset.rsc with handover := some 9 } }
/-- A watchdog last kicked at rc 0. -/
def wKicked (rc : Nat) : State := { State.reset with rsc := { State.reset.rsc with kick := some 0 }, time := { State.reset.time with rc := rc } }
/-- A mailbox out of recovery mode. -/
def wMailbox : State := State.reset.put RSC_STATUS_RECOVERY 0
/-- A mailbox in recovery mode. -/
def wRecovery : State := State.reset.put RSC_STATUS_RECOVERY 1
/-- A mailbox with a command in progress. -/
def wBusy (cmd : Nat) (args : List Nat) : State := { wMailbox.put GLB_FW_STATUS_BUSY 1 with
  rsc := { State.reset.rsc with cmd := some (cmd, args), result := none } }
/-- Arguments of a graft of every Scion to slot 7. -/
def wGraftArgs : State := ((wMailbox.put (GLB_FW_ARG 0) 0xFFFF).put (GLB_FW_ARG 1) 7).put (GLB_FW_ARG 2) 1000000
theorem witness_scionPlotsAndInterrupts_1 :
    State.reset.reaches .rootstock (0x601040 + 0x400 * (15 : Fin 16).val) = true ∧ State.reset.scnState 15 ≠ 2 ∧ State.reset.scnState 15 ≠ 3 ∧
      State.reset.domOn (3 + 15 / 4) = true ∧ bits (0x8800000C : BitVec 32).toNat 26 2 ≠ 3 ∧ bitAt (0x8000000C : BitVec 32).toNat 31 = true ∧
      State.reset.plotOk false 15 7 (0x8000000C : BitVec 32).toNat = true ∧ State.reset.plotOk false 15 7 (0x8000000B : BitVec 32).toNat = false ∧
      State.reset.reaches .loader (0x601040 + 0x400 * (15 : Fin 16).val) = true ∧ Req.loader ≠ .rootstock ∧ (wScn 2).reaches .rootstock 0x601040 = true ∧ (wScn 2).scnState 0 = 2 := by
  decide +kernel
theorem witness_scionPlotsAndInterrupts_2 :
    (wScn 1).scnRuns 0 = true ∧ (wScn 1).plotAllows 0 .load 0 8 = false ∧ (wScn 6).scnRuns 0 = false ∧ (withPlot (wScn 1) 0).plotAllows 0 .store 0 4 = true := by
  decide +kernel
theorem witness_scionPlotsAndInterrupts_3 :
    ((wInputs.core 0).arriving.find? fun e => e.1 == (6 : Fin 336).val) = some ((6 : Fin 336).val, 4) ∧ ∀ e ∈ (State.reset.core 16).arriving, e.1 ≠ 335 := by
  decide +kernel
theorem witness_scionPlotsAndInterrupts_4 :
    topInput (wInputs.core 0).ready = some (5, 3) ∧ topInput (State.reset.core 0).ready = none := by
  decide +kernel
theorem witness_scionPlotsAndInterrupts_5 :
    topInput [(5, 3), (2, 3), (9, 1)] = some (2, 3) ∧ (5, 3) ∈ [(5, 3), (2, 3), (9, 1)] := by
  decide +kernel
theorem witness_scionPlotsAndInterrupts_6 :
    (6 : BitVec 32) ≠ 0 := by
  decide +kernel
theorem witness_scionPlotsAndInterrupts_7 :
    State.reset.reaches .rootstock (0x601014 + 0x400 * (15 : Fin 16).val) = true ∧ State.reset.domOn (3 + 15 / 4) = true ∧
      State.reset.reaches .loader (0x601014 + 0x400 * (15 : Fin 16).val) = true := by
  decide +kernel
theorem witness_scionPlotsAndInterrupts_8 :
    (wScn 6).scnState 0 = 6 ∧ (wScn 1).scnState 0 ≠ 6 := by
  decide +kernel
theorem witness_fastEntryAndWilting_1 :
    State.reset.executes 16 = true ∧ xGet (xRegs wRegs) 2 % 16 = 0 ∧ 16 * 4 ≤ xGet (xRegs wRegs) 2 ∧
      State.reset.pushArea 16 (xGet (xRegs wRegs) 2 - 16 * 4) (16 * 4) = some 0xFC0 ∧ State.reset.depthOf 16 < 15 ∧ xGet (xRegs [7, 0x1008]) 2 % 16 ≠ 0 ∧
      (wScn 1).executes 0 = true ∧ (wScn 1).pushArea 0 (xGet (xRegs wRegs) 2 - 16 * 8) (16 * 8) = none ∧ (wScn 2).executes 0 = false ∧ 15 ≤ (State.reset.setDepth 16 15).depthOf 16 := by
  decide +kernel
theorem witness_fastEntryAndWilting_2 :
    (15 : Nat) < 16 ∧ (4 : Nat) < 8 ∧ (wScn 1).scnState 0 = 1 := by
  decide +kernel
theorem witness_fastEntryAndWilting_3 :
    (State.reset.setDepth 16 1).executes 16 = true ∧ (State.reset.setDepth 16 1).depthOf 16 ≠ 0 ∧ xGet (xRegs wRegs) 2 % 16 = 0 ∧
      (State.reset.setDepth 16 1).pushArea 16 (xGet (xRegs wRegs) 2) (16 * 4) = some 0x1000 ∧ State.reset.depthOf 16 = 0 ∧
      ((wScn 1).setDepth 0 1).pushArea 0 (xGet (xRegs wRegs) 2) (16 * 8) = none := by
  decide +kernel
theorem witness_fastEntryAndWilting_4 :
    (wScn 2).scnState 0 = 2 ∧ (wScn 2).on RSC_CFG_DUMP = false ∧ (wScn 2).grafting 0 = false ∧ ((wScn 2).core 0).wilts.length < 4 ∧ State.reset.scnState 0 ≠ 2 ∧
      (wGrafting.put (SCN_STATUS_STATE 0) 2).grafting 0 = true ∧ 4 ≤ (((wScn 2).setCore 0 { Core.reset with wilts := [0, 0, 0, 0] }).core 0).wilts.length := by
  decide +kernel
theorem witness_fastEntryAndWilting_5 :
    wRestarting.scnState 0 = 3 ∧ 320 ≤ (wRestarting.slotImg (wRestarting.get (SCN_IMG_SLOT 0))).length ∧
      sha384 (imgPayload (wRestarting.slotImg (wRestarting.get (SCN_IMG_SLOT 0)))) =
        beNat (imgBytes (wRestarting.slotImg (wRestarting.get (SCN_IMG_SLOT 0))) 0x040 48) ∧
      (wScn 3).scnState 0 = 3 ∧ ((wScn 3).slotImg ((wScn 3).get (SCN_IMG_SLOT 0))).length < 320 ∧ (wScn 1).scnState 0 ≠ 3 := by
  decide +kernel
theorem witness_fastEntryAndWilting_6 :
    State.reset.reaches .rootstock (0x601000 + 0x400 * (15 : Fin 16).val) = true ∧ State.reset.domOn (3 + 15 / 4) = true ∧ State.reset.scnState 15 ≠ 6 ∧
      State.reset.reaches .loader (0x601000 + 0x400 * (15 : Fin 16).val) = true ∧ (wScn 6).reaches .rootstock 0x601000 = true ∧ (wScn 6).scnState 0 = 6 := by
  decide +kernel
theorem witness_fastEntryAndWilting_7 :
    wDrained.rsc.graft = some ⟨[0], 1, true, 10, 0⟩ ∧ wDrained.grafting 0 = true ∧ wDrained.scnState 0 = 4 ∧ 0 + 100 * 10 ≤ wDrained.time.rc ∧ State.reset.grafting 0 = false := by
  decide +kernel
theorem witness_rootstockAuthority_1 :
    State.reset.rsc.handover = none ∧ (wHandover 1).rsc.handover ≠ none := by
  decide +kernel
theorem witness_rootstockAuthority_2 :
    wStandby.on RSC_STATUS_SBYREADY = true ∧ State.reset.on RSC_STATUS_SBYREADY = false := by
  decide +kernel
theorem witness_rootstockAuthority_3 :
    State.reset.reaches .rootstock 0x600024 = true ∧ State.reset.reaches .loader 0x600024 = true := by
  decide +kernel
theorem witness_rootstockAuthority_4 :
    (wKicked 0).rsc.kick = some 0 ∧ (wKicked 0).time.rc < 0 + 100000 * (wKicked 0).get RSC_WDOG ∧
      0 + 100000 * (wKicked (100000 * State.reset.get RSC_WDOG)).get RSC_WDOG ≤ (wKicked (100000 * State.reset.get RSC_WDOG)).time.rc := by
  decide +kernel
theorem witness_rootstockAuthority_5 :
    (wHandover 1).rsc.handover = some 9 ∧ (wHandover 1).get RSC_STATUS_HOSTATE = 1 ∧ (wHandover 2).get RSC_STATUS_HOSTATE ≠ 1 ∧
      (wHandover 1).verify ((wHandover 1).slotImg 9) 1 ≠ 0 ∧ wFailedPair.rsc.handover = none ∧ wFailedPair.rsc.held = true ∧ State.reset.rsc.handover = none ∧
      State.reset.verify (State.reset.slotImg State.reset.rsc.bootSlot) 1 ≠ 0 ∧ State.reset.verify (State.reset.slotImg (otherSlot State.reset.rsc.bootSlot)) 1 ≠ 0 := by
  decide +kernel
theorem witness_rootstockAuthority_6 :
    (wHandover 2).rsc.handover ≠ none ∧ (wHandover 2).get RSC_STATUS_HOSTATE = 2 ∧ State.reset.rsc.handover = none := by
  decide +kernel
theorem witness_firmwareMailbox_1 :
    (wBusy 6 []).reaches .host 0xC00 = true ∧ (wBusy 6 []).on GLB_FW_STATUS_BUSY = true ∧ State.reset.reaches .rootstock 0xC00 = true := by
  decide +kernel
theorem witness_firmwareMailbox_2 :
    wMailbox.reaches .host 0xC00 = true ∧ wMailbox.on GLB_FW_STATUS_BUSY = false ∧ wMailbox.on RSC_STATUS_RECOVERY = false ∧ wRecovery.reaches .host 0xC00 = true ∧
      wRecovery.on GLB_FW_STATUS_BUSY = false ∧ wRecovery.on RSC_STATUS_RECOVERY = true ∧ (wRecovery.put (GLB_FW_ARG 2) 8).get (GLB_FW_ARG 2) = 8 ∧
      wGraftArgs.reaches .host 0xC00 = true ∧ wGraftArgs.on RSC_STATUS_RECOVERY = false ∧ 0 < wGraftArgs.get (GLB_FW_ARG 0) ∧ wGraftArgs.get (GLB_FW_ARG 0) < 2 ^ 16 ∧
      wGraftArgs.get (GLB_FW_ARG 1) = 7 ∧ wGraftArgs.get (GLB_FW_ARG 2) = 1000000 ∧ (wMailbox.put (GLB_FW_ARG 0) 9).get (GLB_FW_ARG 0) = 9 := by
  decide +kernel
theorem witness_firmwareMailbox_3 :
    (∀ cmd ∈ [1, 3, 4, 5, 6], (wBusy cmd []).rsc.result = none ∧ (wBusy cmd []).rsc.cmd = some (cmd, []) ∧ (wBusy cmd []).recovery = false) ∧ State.reset.rsc.cmd = none ∧
      ({ wBusy 3 [] with rsc := { (wBusy 3 []).rsc with result := some 0 } } : State).rsc.result = some 0 := by
  decide +kernel
theorem witness_firmwareMailbox_4 :
    (0x0D : Nat) < 16 := by
  decide +kernel
theorem witness_firmwareMailbox_5 :
    imgFormatOk [] = false := by
  decide +kernel
theorem witness_firmwareMailbox_6 :
    wGraftNew.rsc.graft = some ⟨[0], 1, false, 10, 0⟩ ∧ wGraftNew.verify (wGraftNew.slotImg 1) 2 ≠ 0 ∧ State.reset.rsc.graft = none ∧
      wGrafting.rsc.graft = some ⟨[0], 1, true, 10, 0⟩ := by
  decide +kernel
theorem witness_firmwareMailbox_7 :
    wGrafting.rsc.graft = some ⟨[0], 1, true, 10, 0⟩ ∧ wGrafting.scnState 0 = 5 ∧ wGrafting.grafting 0 = true ∧
      (wGrafting.hbmRead (0xA80400000 + 0x40000 * 0) (imgLength (wGrafting.slotImg 1))).1 = some [] ∧ State.reset.grafting 0 = false ∧
      wDrained.scnState 0 = 4 ∧ wDrained.inService 0 = 0 := by
  decide +kernel

/-- Port 0 enabled and in a state of R684, no member of a group's tree. -/
def wPortIn (st : Nat) : State := ((State.reset.put (LNK_AZ_CTRL_EN 0) 1).put (LNK_AZ_STATUS_STATE 0) st).put CLK_DEPTH_UP 0xF
/-- Port 0 active at four lanes in block lock. -/
def wActive : State := [0, 1, 2, 3].foldl (fun t l => t.put (LNK_LSTATUS_LOCK 0 l) 1) ((wPortIn 4).setLanes 0 15)
/-- The same port as a tree link. -/
def wTree : State := wActive.put CLK_DEPTH_UP 0
/-- Port 0 waking from FALLOW. -/
def wWaking : State := (wPortIn 3).setPort 0 { Port.reset with waking := true }
/-- Port 0 has asked for a retrain. -/
def wAsked : State := (wPortIn 2).put (LNK_AZ_STATUS_CAUSE 0) 1
/-- A proposal of one lane waits at port 0. -/
def wProposed : State := wActive.setPort 0 { Port.reset with switch := some ⟨1, some 64, none, 0⟩ }
/-- Lane 3 of port 0 dropped, the other three good at one lane. -/
def wDropped : State := (wActive.setLanes 0 1).put (LNK_AZ_STATUS_DROPPED 0) 8
/-- A flit with this header and a CRC. -/
def wAzFlit (h crc : Nat) : BitVec 512 := BitVec.ofNat 512 (h + 2 ^ 480 * crc)
/-- A Trellis block with its CRC. -/
def wBlock : BitVec 256 := BitVec.ofNat 256 (0x1E + 2 ^ 232 * crc16 (bytesOf 29 0x1E))
/-- Port 3 sees a partner, and lies in no tree. -/
def wDet : State := (State.reset.put (LNK_AZ_STATUS_DET 3) 1).put CLK_DEPTH_UP 0xF
/-- A remote access of the host in progress. -/
def wRemote (op : Nat) : State := { State.reset.put (LNK_RRA_STAT_BUSY.per .host) 1 with
  lnk := { State.reset.lnk with rra := [(Req.host.idx, op)] } }
/-- A member that is not the root, its parent on port 2. -/
def wLeaf : State := (State.reset.put CMT_STATUS_ROOT 0).put CLK_DEPTH_UP 2
/-- An edge of EXT_TRIG[0] was stamped 4 ns into the present rc, and rising edges are selected. -/
def wStamped : State := { State.reset.put (WTM_ET_CFG_EDGE 0) 1 with time := { State.reset.time with stamps := [(0, 64)] } }
theorem witness_linkStates_1 :
    (wPortIn 1).on (LNK_AZ_CTRL_EN 0) = true ∧ (wPortIn 1).portState 0 ≤ 1 ∧ 2 ≤ wActive.portState 0 := by
  decide +kernel
theorem witness_linkStates_2 :
    (wPortIn 2).portState 0 = 2 ∧ (wPortIn 2).widthOk 0 1 = true ∧ (wPortIn 2).widthOk 0 7 = false ∧ wWaking.portState 0 = 3 ∧ (wWaking.port 0).waking = true ∧
      State.reset.portState 0 ≠ 2 ∧ State.reset.portState 0 ≠ 3 ∧ (wPortIn 3).portState 0 = 3 ∧ ((wPortIn 3).port 0).waking = false := by
  decide +kernel
theorem witness_linkStates_3 :
    wActive.reaches .host (0x581000 + 0x400 * (0 : Fin 4).val) = true ∧ wActive.portLive 0 = true ∧ wAsked.asked 0 = true ∧ wActive.portState 0 = 4 ∧
      (wPortIn 5).portLive 0 = false ∧ (wPortIn 5).reaches .host 0x581000 = true ∧ (wAsked.put (LNK_AZ_STATUS_CAUSE 0) 4).asked 0 = false := by
  decide +kernel
theorem witness_linkStates_4 :
    (3 : Nat) < 4 ∧ (4 : Nat) < 8 := by
  decide +kernel
theorem witness_linkStates_5 :
    wAsked.get CLK_DEVID < 8191 ∧ (wAsked.port 0).token = 0 := by
  decide +kernel
theorem witness_linkStates_6 :
    wActive.portState 0 = 4 ∧ bitAt (wActive.get (LNK_AZ_STATUS_LANES 0)) 3 = true ∧ (wPortIn 2).portState 0 ≠ 4 := by
  decide +kernel
theorem witness_linkStates_7 :
    wActive.reaches .host (0x581000 + 0x400 * (0 : Fin 4).val) = true ∧ wActive.portState 0 = 4 ∧ wActive.treeLink 0 = false ∧ wTree.treeLink 0 = true ∧
      wTree.reaches .host 0x581000 = true ∧ State.reset.portState 0 ≠ 4 := by
  decide +kernel
theorem witness_linkStates_8 :
    (wPortIn 5).portState 0 = 5 ∧ (wPortIn 5).sleeping = false ∧ (wPortIn 5).reaches .host (0x581000 + 0x400 * (0 : Fin 4).val) = true ∧ (wWaking.port 0).waking = true ∧
      wWaking.portState 0 = 3 ∧ wActive.portState 0 ≠ 5 ∧ ((wPortIn 5).put PMG_STATUS_STATE 1).sleeping = true := by
  decide +kernel
theorem witness_linkStates_9 :
    wTree.reaches .host (0x581000 + 0x400 * (0 : Fin 4).val) = true ∧ wTree.treeLink 0 = true ∧ wActive.reaches .host 0x581000 = true ∧
      wActive.treeLink 0 = false ∧ wActive.on (LNK_AZ_CTRL_EN 0) = true ∧ (wPortIn 6).reaches .host 0x581000 = true ∧ (wPortIn 6).portState 0 = 6 ∧ wActive.portState 0 ≠ 6 := by
  decide +kernel
theorem witness_linkTraffic_1 :
    wActive.portState 0 = 4 ∧ flitCrcOk (wAzFlit 0x10000000 0x55CEA909) = true ∧ bits (wAzFlit 0x10000000 0x55CEA909).toNat 28 4 = 1 ∧
      bits (wAzFlit 0x10000000 0x55CEA909).toNat 16 12 = (wActive.port 0).rx ∧ flitCrcOk (wAzFlit 0x30010000 0xBCB1E698) = true ∧ bits (wAzFlit 0x30010000 0xBCB1E698).toNat 16 12 ≠ (wActive.port 0).rx ∧
      (wActive.port 0).discarding = false ∧ flitCrcOk 0 = false ∧ flitCrcOk (wAzFlit 0x20000000 0xA7AAC90A) = true ∧ flitCrcOk (wAzFlit 0xF0000000 0x89056585) = true ∧ State.reset.portState 0 ≠ 4 := by
  decide +kernel
theorem witness_linkTraffic_2 :
    wActive.portState 0 = 4 ∧ ((wActive.inc (LNK_AZ_NREPLAY 0)).ackFlits 0 9 |>.port 0).naks < 7 ∧
      7 ≤ ((((wActive.setPort 0 { Port.reset with naks := 7 }).inc (LNK_AZ_NREPLAY 0)).ackFlits 0 9).port 0).naks ∧ State.reset.portState 3 ≠ 4 := by
  decide +kernel
theorem witness_linkTraffic_3 :
    wActive.portState 0 = 4 ∧ popcount 4 (3 : BitVec 4).toNat ≤ popcount 4 (wActive.goodLanes 0) ∧ popcount 4 (3 : BitVec 4).toNat ≠ 0 ∧
      popcount 4 (3 : BitVec 4).toNat ≠ 3 ∧ ((wPortIn 4).setLanes 0 1).portState 0 = 4 ∧ popcount 4 (((wPortIn 4).setLanes 0 1).goodLanes 0) < popcount 4 (15 : BitVec 4).toNat ∧
      (wProposed.port 0).switch = some ⟨1, some 64, none, 0⟩ ∧ wProposed.portState 0 = 4 := by
  decide +kernel
theorem witness_linkTraffic_4 :
    (wProposed.port 0).switch = some ⟨1, some 64, none, 0⟩ ∧ popcount 4 1 < popcount 4 3 ∧ wProposed.leads 0 8191 0 = some true ∧ (wActive.port 0).switch = none := by
  decide +kernel
theorem witness_linkTraffic_5 :
    wActive.portState 0 = 4 ∧ bitAt (wActive.get (LNK_AZ_STATUS_LANES 0)) 3 = true ∧ bitAt (wActive.get (LNK_AZ_STATUS_DROPPED 0)) 3 = false ∧
      (wActive.put (LNK_AZ_STATUS_DROPPED 0) 8).bestWidth 0 = 2 ∧ bitAt (wDropped.get (LNK_AZ_STATUS_DROPPED 0)) 3 = true ∧ State.reset.portState 0 ≠ 4 ∧ (wActive.put (LNK_AZ_STATUS_DROPPED 0) 15).bestWidth 0 = 0 := by
  decide +kernel
theorem witness_linkTraffic_6 :
    wActive.bestWidth 0 = 4 ∧ wActive.bestLanes 0 0 = 15 := by
  decide +kernel
theorem witness_linkTraffic_7 :
    bitAt (wDropped.get (LNK_AZ_STATUS_DROPPED 0)) 3 = true ∧ (wDropped.put (LNK_AZ_CTRL_AUTOWIDEN 0) 0).on (LNK_AZ_CTRL_AUTOWIDEN 0) = false ∧
      (wDropped.put (LNK_AZ_CTRL_AUTOWIDEN 0) 1).on (LNK_AZ_CTRL_AUTOWIDEN 0) = true ∧ wDropped.portState 0 = 4 ∧
      popcount 4 (wDropped.get (LNK_AZ_STATUS_LANES 0)) < (wDropped.put (LNK_AZ_STATUS_DROPPED 0) 0).bestWidth 0 ∧ bitAt (wActive.get (LNK_AZ_STATUS_DROPPED 0)) 3 = false := by
  decide +kernel
theorem witness_linkTraffic_8 :
    wActive.reaches .host (0x58110C + 0x400 * (0 : Fin 4).val) = true ∧ wActive.domOn (22 + 0) = true ∧ bitAt (1 : BitVec 32).toNat 0 = true ∧ wActive.laneFree 0 0 = false ∧
      (wPortIn 6).reaches .host (0x58110C + 0x400 * (0 : Fin 4).val) = true ∧ (wPortIn 6).domOn (22 + 0) = true ∧ (wPortIn 6).laneFree 0 0 = true := by
  decide +kernel
theorem witness_linkTraffic_9 :
    ((wPortIn 6).put (LNK_PRBS_CTRL_CHK 0 0) 1).on (LNK_PRBS_CTRL_CHK 0 0) = true ∧ (wPortIn 6).on (LNK_LSTATUS_PRBSSYNC 0 0) = false ∧
      bitAt (wDropped.get (LNK_AZ_STATUS_DROPPED 0)) 3 = true ∧ State.reset.on (LNK_PRBS_CTRL_CHK 3 3) = false ∧ (wDropped.put (LNK_LSTATUS_PRBSSYNC 0 3) 1).on (LNK_LSTATUS_PRBSSYNC 0 3) = true := by
  decide +kernel
theorem witness_linkTraffic_10 :
    wActive.reaches .host (0x581100 + 0x400 * (0 : Fin 4).val) = true ∧ wActive.domOn (22 + 0) = true ∧ bits (0x1810 : BitVec 32).toNat 0 5 = 16 ∧ bits (0x1810 : BitVec 32).toNat 8 6 = 24 ∧
      bits (0x1010 : BitVec 32).toNat 0 5 + bits (0x1010 : BitVec 32).toNat 8 6 = 32 := by
  decide +kernel
theorem witness_linkTraffic_11 :
    wDet.on (LNK_AZ_STATUS_DET 3) = true ∧ copyOk wBlock = true ∧ copyOk 0 = false ∧ wDet.get CLK_DEPTH_UP ≠ 3 ∧ (wDet.put CLK_DEPTH_UP 3).get CLK_DEPTH_UP = 3 ∧
      State.reset.on (LNK_AZ_STATUS_DET 0) = false := by
  decide +kernel
theorem witness_remoteAccess_1 :
    State.reset.reaches .host 0x58002C = true ∧ (withPlot State.reset 3).reaches (.scion 3) 0x58002C = true := by
  decide +kernel
theorem witness_remoteAccess_2 :
    (wRemote 1).on (LNK_RRA_STAT_BUSY.per .host) = true ∧ State.reset.on (LNK_RRA_STAT_BUSY.per .host) = false ∧ State.reset.get (LNK_RRA_ADDR.per .host) % 4 = 0 ∧
      State.reset.get (LNK_RRA_ADDR.per .host) < 0x10000000 ∧ State.reset.get (LNK_RRA_DEV.per .host) = State.reset.get CLK_DEVID ∧ wLeaf.on CMT_STATUS_ROOT = false := by
  decide +kernel
theorem witness_remoteAccess_3 :
    (5 : Nat) < 8 := by
  decide +kernel
theorem witness_remoteAccess_4 :
    State.reset.dark 0x580000 = false ∧ (State.reset.on CMT_STATUS_ROOT = true ∨ State.reset.get CLK_DEPTH_UP = (0 : Fin 4).val) ∧ wLeaf.dark 0x580000 = false ∧
      wLeaf.on CMT_STATUS_ROOT = false ∧ wLeaf.get CLK_DEPTH_UP ≠ 1 ∧ (State.reset.put FRZ_STATUS_STATE 2).dark 0x580000 = true := by
  decide +kernel
theorem witness_remoteAccess_5 :
    (wRemote 1).on (LNK_RRA_STAT_BUSY.per .host) = true ∧ (wRemote 1).dark 0x580000 = false ∧ (wRemote 1).rraOp .host = 1 ∧ (wRemote 3).rraOp .host = 3 ∧ (wRemote 2).rraOp .host = 2 ∧
      State.reset.on (LNK_RRA_STAT_BUSY.per .host) = false := by
  decide +kernel
theorem witness_remoteAccess_6 :
    (State.reset.put LNK_PCIE_STATUS_UP 1).on LNK_PCIE_STATUS_UP = true ∧ State.reset.lnk.d3hot = false ∧ (State.reset.put LNK_PCIE_STATUS_UP 0).on LNK_PCIE_STATUS_UP = false := by
  decide +kernel
theorem witness_remoteAccess_8 :
    State.reset.l1Held = false ∧ (State.reset.put (SEG_STR_STATUS_OPEN 7) 1).l1Held = true ∧ (State.reset.put PMG_STATUS_STATE 1).get PMG_STATUS_STATE = 1 := by
  decide +kernel
theorem witness_wallTime_1 :
    State.reset.reaches .host 0x5C0000 = true ∧ State.reset.get WTM_SET_NS < 1000000000 ∧ (State.reset.put WTM_SET_NS 1000000000).reaches .host 0x5C0000 = true ∧
      1000000000 ≤ (State.reset.put WTM_SET_NS 1000000000).get WTM_SET_NS := by
  decide +kernel
theorem witness_wallTime_2 :
    State.reset.reaches .host 0x5C002C = true := by
  decide +kernel
theorem witness_wallTime_3 :
    incBetween false 1 State.reset.time.rc (State.reset.time.rc + 1) ≠ 0 ∧ incBetween true 1 0 1 = 0 := by
  decide +kernel
theorem witness_wallTime_4 :
    State.reset.reaches .host 0x5C000C = true ∧ 0x400000000 = State.reset.get WTM_INC_LO + 2 ^ 32 * ((4 : BitVec 32).toNat % 2 ^ 8) := by
  decide +kernel
theorem witness_wallTime_6 :
    ((State.reset.put CMT_STATUS_ROOT 1).put WTM_CTRL_ROOTSRC 1).on CMT_STATUS_ROOT = true ∧
      ((State.reset.put CMT_STATUS_ROOT 1).put WTM_CTRL_ROOTSRC 1).on WTM_CTRL_ROOTSRC = true ∧ wLeaf.on CMT_STATUS_ROOT = false := by
  decide +kernel
theorem witness_wallTime_7 :
    wLeaf.on CMT_STATUS_ROOT = false ∧ (State.reset.put CMT_STATUS_ROOT 1).on CMT_STATUS_ROOT = true := by
  decide +kernel
theorem witness_wallTime_9 :
    bitAt ((State.reset.put (WTM_ET_CFG_EDGE 0) 1).get (WTM_ET_CFG_EDGE 0)) (if true = true then 0 else 1) = true ∧
      (State.reset.time.stamps.find? fun e => e.1 == 0) = none ∧ bitAt (wStamped.get (WTM_ET_CFG_EDGE 0)) (if false = true then 0 else 1) = false ∧
      (wStamped.time.stamps.find? fun e => e.1 == 0) = some (0, 64) ∧ 160 * wStamped.time.rc + 128 ≤ 64 + 64 ∧ 64 + 64 < 160 * wStamped.time.rc + 129 := by
  decide +kernel

/-- A device with a latched first source 12 of class 2. -/
def wLatched : State := ((State.reset.put FCL_FIRST_LATCHED 1).put FCL_FIRST_SOURCE 12).put FCL_FIRST_CLASS 2
/-- The same with a source that still holds. -/
def wHolding : State := ((wLatched.setCond srcRefLoss true).put FCL_FIRST_SOURCE srcRefLoss)
/-- A device with one occurrence waiting. -/
def wRaised : State := State.reset.raise 281 7 0
/-- Source 281 in a class. -/
def wClass (k : Nat) : State := (((wRaised.put (FCL_SRC_CFG_CLASS 281) k).put (FCL_SRC_CFG_PN 281) 0).put (FCL_SRC_CFG_ALM 281) 0)
/-- The occurrence that waits. -/
def wOccurred : Raised := ⟨281, 7, 0, 0, none, 0, false⟩
/-- A frozen device, softly. -/
def wFrozen : State := State.reset.put FRZ_STATUS_STATE 2
/-- A frozen device that can read out to a host address. -/
def wReadable : State := (wFrozen.put64 FRZ_DST_LO FRZ_DST_HI 4096).put LNK_PCIE_STATUS_UP 1
/-- A read-out runs. -/
def wReadOut : State := wReadable.put FRZ_STATUS_READING 1
/-- A device in a power state out of reset. -/
def wAwake (st : Nat) : State := State.reset.put PMG_STATUS_STATE st
/-- A device that serves a playlist's drain from boundary 0 at its cycle 63. -/
def wDraining : State := { (State.reset.put FRZ_STATUS_STATE 1).put CLK_STATUS_GATE 1 with
  clk := { State.reset.clk with gvc := 63 }
  frz := { State.reset.frz with soft := some (3, 0, some 0) } }
/-- A soft request at boundary 0, the gate open. -/
def wSoftAsked : State := wDraining.put FRZ_STATUS_STATE 0
/-- A hard request of rc 0, its 12 rc over, the gate closed. -/
def wHardAsked : State := { State.reset with frz := { State.reset.frz with hard := some (2, 0, 5, 0) }, time := { State.reset.time with rc := 12 } }
/-- A power-loss write from entry 3. -/
def wSaving : State := { State.reset.put EVR_STATUS_SAVING 1 with evr := { State.reset.evr with lossAt := some 3 } }
/-- The same while TEST_EN is high. -/
def wSavingTest : State := { wSaving with pins := { wSaving.pins with testEn := true } }
theorem witness_eventCollector_1 :
    State.reset.raised = [] ∧ nextRaised wRaised.raised = some 0 ∧ wRaised.raised[0]? = some wOccurred := by
  decide +kernel
theorem witness_eventCollector_3 :
    wOccurred.src < 320 ∧ (wClass 3).get (FCL_SRC_CFG_CLASS 281) = 3 ∧ (wClass 3).on FCL_FIRST_LATCHED = false ∧ wLatched.on FCL_FIRST_LATCHED = true := by
  decide +kernel
theorem witness_eventCollector_4 :
    wOccurred.src ≠ 0 ∧ wOccurred.src ≠ srcPwrLoss ∧ (wClass 0).get (FCL_SRC_CFG_CLASS 281) = 0 ∧ (wClass 0).on (FCL_SRC_CFG_ALM 281) = false ∧
      (wClass 0).on (SCN_EVROUTE_EN 281) = false ∧ (wClass 0).get (FCL_SRC_CFG_FRZ 281) = 0 ∧ (wClass 0).promoted 281 = false ∧ (wClass 0).on FCL_FIRST_LATCHED = false ∧
      (wClass 0).get (FCL_SRC_CFG_PN 281) = 0 := by
  decide +kernel
theorem witness_eventCollector_6 :
    wHolding.reaches .host 0x4002C = true ∧ wHolding.on FCL_FIRST_LATCHED = true ∧ wHolding.srcActive (wHolding.get FCL_FIRST_SOURCE) = true ∧
      wLatched.reaches .host 0x4002C = true ∧ wLatched.srcActive (wLatched.get FCL_FIRST_SOURCE) = false ∧ wLatched.get FCL_FIRST_CLASS ≠ 3 ∧
      (wLatched.put FCL_FIRST_CLASS 3).reaches .rootstock 0x4002C = true ∧ (wLatched.put FCL_FIRST_CLASS 3).get FCL_FIRST_CLASS = 3 ∧ wLatched.inSafe = false ∧
      State.reset.on FCL_FIRST_LATCHED = false := by
  decide +kernel
theorem witness_eventCollector_7 :
    State.reset.reaches .host 0x40080 = true := by
  decide +kernel
theorem witness_eventCollector_8 :
    State.reset.reaches .host 0x40030 = true ∧ bits (0x9C000000 : BitVec 32).toNat 26 6 = 39 ∧ bits (0xA0000000 : BitVec 32).toNat 26 6 = 40 := by
  decide +kernel
theorem witness_eventCollector_10 :
    State.reset.reaches .rootstock 0x40000 = true ∧ State.reset.reaches .host 0x40000 = true ∧ State.reset.saving = false := by
  decide +kernel
theorem witness_almanac_1 :
    State.reset.reaches .host 0x50014 = true ∧ State.reset.reaches .rootstock 0x50014 = true := by
  decide +kernel
theorem witness_almanac_2 :
    State.reset.reaches .host 0x50008 = true ∧ State.reset.get EVR_WPTR ≤ (0 : BitVec 32).toNat ∧ (State.reset.put EVR_WPTR 16385).reaches .host 0x50008 = true ∧
      (0 : BitVec 32).toNat + 16384 < (State.reset.put EVR_WPTR 16385).get EVR_WPTR ∧ (State.reset.put EVR_WPTR 16385).get EVR_WPTR ≤ (1 : BitVec 32).toNat + 16384 := by
  decide +kernel
theorem witness_almanac_3 :
    State.reset.reaches .host 0x50040 = true := by
  decide +kernel
theorem witness_almanac_4 :
    State.reset.reaches .rootstock 0x50080 = true ∧ State.reset.reaches .host 0x50080 = true := by
  decide +kernel
theorem witness_almanac_5 :
    State.reset.saving = false ∧ wSaving.saving = true ∧ (294 : Fin 320).val = 294 ∧ 288 ≤ (311 : Fin 320).val ∧ (311 : Fin 320).val < 312 ∧ 312 ≤ (312 : Fin 320).val := by
  decide +kernel
theorem witness_almanac_6 :
    wSaving.evr.lossAt = some 3 ∧ wSaving.pins.testEn = false ∧ wSavingTest.evr.lossAt = some 3 ∧ wSavingTest.pins.testEn = true ∧ State.reset.evr.lossAt = none := by
  decide +kernel
theorem witness_almanac_7 :
    (4095 : Nat) < 4096 ∧ 5000 - 4096 + 4095 < 5000 ∧ 3 ≤ 3 - 4096 + 3 := by
  decide +kernel
theorem witness_frostRequests_1 :
    State.reset.reaches .host 0x60000 = true := by
  decide +kernel
theorem witness_frostRequests_2 :
    State.reset.sleeping = false ∧ State.reset.saving = false ∧ State.reset.frz.hard = none ∧ wFrozen.get FRZ_STATUS_STATE = 2 ∧ wFrozen.sleeping = false ∧
      (wFrozen.put FRZ_STATUS_STATE 3).get FRZ_STATUS_STATE = 3 ∧ State.reset.frozen = false ∧ State.reset.frz.soft = none ∧ State.reset.on FRZ_CFG_GRP = false ∧ (wAwake 1).sleeping = true := by
  decide +kernel
theorem witness_frostRequests_3 :
    State.reset.reaches .host 0x60000 = true ∧ State.reset.frozen = false ∧ State.reset.saving = false ∧ wSoftAsked.reaches .host 0x60000 = true ∧ wSoftAsked.gateOpen = true ∧
      wSoftAsked.clk.gvc + 16 < (wSoftAsked.put64 FRZ_AT_LO FRZ_AT_HI 80).get64 FRZ_AT_LO FRZ_AT_HI ∧ wFrozen.reaches .host 0x60000 = true ∧ wFrozen.frozen = true := by
  decide +kernel
theorem witness_frostRequests_4 :
    wReadable.reaches .host 0x60000 = true ∧ wReadable.frozen = true ∧ wReadable.on FRZ_STATUS_READING = false ∧ wReadable.get64 FRZ_DST_LO FRZ_DST_HI = 4096 ∧
      wReadable.on FRZ_CFG_PATH = false ∧ wReadable.dmaOn = true ∧ State.reset.reaches .host 0x60000 = true ∧ State.reset.frozen = false := by
  decide +kernel
theorem witness_frostRequests_5 :
    wReadOut.on FRZ_STATUS_READING = true ∧ wReadOut.dmaOn = true ∧ State.reset.on FRZ_STATUS_READING = false := by
  decide +kernel
theorem witness_frostRequests_6 :
    wReadOut.on FRZ_STATUS_READING = true ∧ State.reset.frozen = false ∧ State.reset.on FRZ_STATUS_READING = false ∧ wFrozen.frozen = true ∧ wFrozen.on FRZ_STATUS_READING = false := by
  decide +kernel
theorem witness_frostRequests_7 :
    State.reset.reaches .host 0x6003C = true := by
  decide +kernel
theorem witness_frostStops_1 :
    wFrozen.frozen = true ∧ wDraining.frozen = false ∧ wDraining.saving = false ∧ wDraining.get FRZ_STATUS_STATE = 1 ∧ wDraining.frz.soft = some (3, 0, some 0) ∧
      (wDraining.endDrain 0).isSome = true ∧ wSoftAsked.frozen = false ∧ wSoftAsked.get FRZ_STATUS_STATE ≠ 1 ∧ wSoftAsked.gateOpen = true ∧
      wSoftAsked.frz.soft = some (3, 0, some 0) ∧ (wSoftAsked.reach 0).isSome = true ∧ State.reset.frz.soft = none ∧ State.reset.gateOpen = false := by
  decide +kernel
theorem witness_frostStops_2 :
    wDraining.gateOpen = true ∧ (wDraining.reach (0 + 63)).isSome = true ∧ wDraining.frz.hard = none ∧ wHardAsked.frz.hard = some (2, 0, 5, 0) ∧ State.reset.gateOpen = false := by
  decide +kernel
theorem witness_frostStops_3 :
    wHardAsked.frozen = false ∧ wHardAsked.saving = false ∧ wHardAsked.frz.hard = some (2, 0, 5, 0) ∧ wHardAsked.gateOpen = false ∧ (wHardAsked.hardStop 0).isSome = true ∧
      State.reset.frz.hard = none ∧ wDraining.frz.hard = none ∧ wDraining.frozen = false := by
  decide +kernel
theorem witness_frostStops_4 :
    State.reset.gateOpen = false := by
  decide +kernel
theorem witness_frostStops_5 :
    (3 : Nat) < 4 := by
  decide +kernel
theorem witness_frostStops_6 :
    wFrozen.reaches .host 0x60000 = true ∧ wFrozen.get FRZ_STATUS_STATE = 2 ∧ wFrozen.on FRZ_STATUS_READING = false ∧ wFrozen.frz.afterLoss = false ∧ wFrozen.frz.late = none ∧
      State.reset.reaches .host 0x60000 = true ∧ State.reset.get FRZ_STATUS_STATE ≠ 2 ∧ wDraining.get FRZ_STATUS_STATE ≠ 2 := by
  decide +kernel

/-- A device in a state of R772, out of the safe state. -/
def wState (st : Nat) : State := State.reset.put PMG_STATUS_STATE st
/-- The same, long enough in Bloom with nothing to do, with a bound of 1 ms. -/
def wIdle : State := { (wState 3).put PMG_CFG_IDLE_MS 1 with pmg := { State.reset.pmg with idleRc := 100000 } }
/-- A device whose first power slot is over. -/
def wSlotOver : State := State.reset.put64 FCL_MS_LO FCL_MS_HI 1
/-- The same with a playlist that runs. -/
def wSlotRun : State := (wWord 0 0).put64 FCL_MS_LO FCL_MS_HI ((wWord 0 0).pmg.slot + 1)
theorem witness_powerStates_1 :
    (withPlot State.reset 0).reaches (.scion 0) 0x30000 = true ∧ Req.scion 0 ≠ .host ∧ Req.scion 0 ≠ .rootstock := by
  decide +kernel
theorem witness_powerStates_2 :
    State.reset.reaches .host 0x30000 = true ∧ State.reset.pmgCode 0 ≠ 0 ∧ State.reset.pmgCode 1 ≠ 0 ∧ State.reset.pmgCode 2 ≠ 0 ∧ State.reset.pmgCode 3 ≠ 0 ∧
      (wState 2).reaches .host 0x30000 = true ∧ (wState 2).pmgCode 0 = 0 ∧ (wState 1).reaches .host 0x30000 = true ∧ (wState 1).pmgCode 1 = 0 ∧
      (wState 3).reaches .rootstock 0x30000 = true ∧ (wState 3).pmgCode 2 = 0 ∧ (wState 2).pmgCode 3 = 0 := by
  decide +kernel
theorem witness_powerStates_3 :
    (wState 2).get PMG_STATUS_STATE = 2 ∧ (wState 3).get PMG_STATUS_STATE = 3 ∧ (wState 6).get PMG_STATUS_STATE = 6 ∧ (wState 2).inSafe = false ∧ (wState 2).frozen = false := by
  decide +kernel
theorem witness_powerStates_4 :
    (wState 2).get PMG_STATUS_STATE ≠ 6 := by
  decide +kernel
theorem witness_powerStates_5 :
    (wState 6).get PMG_STATUS_STATE = 6 ∧ (wState 1).get PMG_STATUS_STATE = 1 ∧ (wState 1).inSafe = false ∧ (wState 4).get PMG_STATUS_STATE ≠ 6 := by
  decide +kernel
theorem witness_powerStates_6 :
    (wState 6).get PMG_STATUS_STATE = 6 ∧ (wState 6).grd.powerLoss = false ∧ (wState 6).pmg.wakePending = false ∧ State.reset.get PMG_STATUS_STATE ≠ 6 := by
  decide +kernel
theorem witness_powerStates_7 :
    ((wState 4).put CLK_STATUS_REFLOST 0).get PMG_STATUS_STATE = 4 ∧ ((wState 4).put CLK_STATUS_REFLOST 0).on CLK_STATUS_REFLOST = false ∧ (wState 4).grd.powerLoss = false ∧
      State.reset.get PMG_STATUS_STATE ≠ 4 := by
  decide +kernel
theorem witness_powerStates_8 :
    (wState 5).get PMG_STATUS_STATE = 5 ∧ (wState 5).grd.powerLoss = false ∧ (wState 5).on PMG_CFG_WAITSETTLE = false ∧ State.reset.get PMG_STATUS_STATE ≠ 5 := by
  decide +kernel
theorem witness_powerStates_9 :
    wIdle.get PMG_CFG_IDLE_MS ≠ 0 ∧ wIdle.bloomIdle = true ∧ 100000 * wIdle.get PMG_CFG_IDLE_MS ≤ wIdle.pmg.idleRc ∧ State.reset.bloomIdle = false := by
  decide +kernel
theorem witness_powerLimits_1 :
    State.reset.reaches .host 0x30038 = true ∧ State.reset.reaches .rootstock 0x30038 = true := by
  decide +kernel
theorem witness_powerLimits_2 :
    bitAt (State.reset.get (domOffWord 12)) 12 = false ∧ switchable 12 = true ∧ State.reset.offOk 12 = true ∧ (wState 2).sleeping = false ∧ switchable 0 = false ∧
      (wState 1).sleeping = true ∧ bitAt ((State.reset.put PMG_DOM_OFF0 0x1000).get (domOffWord 12)) 12 = true ∧ switchable 63 = false ∧ switchable 61 = true := by
  decide +kernel
theorem witness_powerLimits_4 :
    State.reset.nowMs ≤ State.reset.pmg.slot ∧ wSlotOver.pmg.slot < wSlotOver.nowMs ∧ wSlotOver.seq.running = none ∧
      wSlotRun.pmg.slot < wSlotRun.nowMs ∧ wSlotRun.seq.running = some wPlaylist := by
  decide +kernel
theorem witness_powerLimits_5 :
    (610000 : Nat) < 2 ^ 20 := by
  decide +kernel
theorem witness_powerLimits_6 :
    (0x3480#16).toInt = 13440 ∧ (0x3800#16).toInt = 14336 ∧ (0x347F#16).toInt < 13440 ∧ (0x37FF#16).toInt < 14336 := by
  decide +kernel
theorem witness_powerLimits_7 :
    State.reset.on PMG_STATUS_WARN = false ∧ State.reset.on PMG_STATUS_STOPHOLD = false ∧ (wWord 0 0).seq.running ≠ none ∧ (8 : Nat) < 9 := by
  decide +kernel
theorem witness_powerLimits_9 :
    (State.reset.put PMG_STATUS_TRIPHOLD 1).on PMG_STATUS_TRIPHOLD = true ∧ State.reset.on PMG_STATUS_TRIPHOLD = false := by
  decide +kernel

/-- A device in a cold reset. -/
def wCold : State := State.reset.resetState 2 0
/-- A device whose port 0 writes the loop of schedule entry 0 under the ramp generator. -/
def wRamp : State := { (State.reset.put (CLE_LB_SCHED_KIND 0 0) 2).put FCL_STATUS_SAFE 1 with
  cle := { State.reset.cle with ramp := [0], codes := [(0, 5)] } }
/-- The same with loop 0 under the generator in place of the port. -/
def wRampLoop : State := { wRamp with cle := { wRamp.cle with ramp := [], rampLoops := [0] } }
/-- Domain 12 is off. -/
def wTiuOff : State := State.reset.put PMG_DOM_ON0 0
/-- The host's link is up. -/
def wHostLink : State := State.reset.put LNK_PCIE_STATUS_UP 1
theorem witness_resets_1 :
    State.reset.pins.inReset ≠ 1 ∧ State.reset.saving = false ∧ State.reset.pins.railLeft = false ∧ wCold.pins.inReset = 2 ∧ (wCold.resetState 1 0).pins.inReset = 1 := by
  decide +kernel
theorem witness_resets_2 :
    (3 : Nat) < 4 ∧ (15 : Nat) < 16 ∧ State.reset.pins.inReset = 0 := by
  decide +kernel
theorem witness_resets_3 :
    CMT_CTRL_TAG.lo < 32 ∧ nvOffset CMT_CTRL_TAG.off = false ∧ warmOffset CMT_CTRL_TAG.off = false ∧ CMT_CTRL_TAG.off ≠ 0x20 ∧
      (∀ e ∈ State.reset.cal.running, CMT_CTRL_TAG.off ≠ (CAL_CH_STATUS_LASTRES e.target).off) ∧ (∀ n < 10, CMT_CTRL_TAG.id ≠ (RSC_SLOT_INFO_VALID n).id) ∧ (∀ e ∈ State.reset.cal.nv, e.1 ≠ CMT_CTRL_TAG.id) ∧
      nvOffset 0x2002C = true ∧ warmOffset GLB_RST_COUNT_COLD.off = true := by
  decide +kernel
theorem witness_resets_4 :
    wCold.pins.inReset ≠ 0 ∧ wCold.pins.testEn = false ∧ State.reset.pins.inReset = 0 := by
  decide +kernel
theorem witness_resets_6 :
    (15 : Nat) < 16 := by
  decide +kernel
theorem witness_resets_7 :
    wCold.pins.inReset ≠ 0 ∧ State.reset.pins.inReset = 0 ∧ State.reset.saving = false := by
  decide +kernel
theorem witness_resets_9 :
    State.reset.saving = false ∧ State.reset.pins.perst = false ∧ wHostLink.on LNK_PCIE_STATUS_UP = true ∧ wHostLink.pins.perst = false ∧ State.reset.pins.inReset = 0 := by
  decide +kernel
theorem witness_resets_10 :
    State.reset.pins.inReset = 0 ∧ State.reset.saving = false ∧ wCold.pins.inReset ≠ 0 ∧ wCold.pins.inReset ≤ 3 := by
  decide +kernel
theorem witness_safeState_1 :
    State.reset.isWrite 0 0 = false ∧ wRamp.isWrite 0 0 = true ∧ wRamp.rampFrame % (wRamp.get (CLE_LB_CTRL_L 0) + 1) = 0 ∧ wRamp.lbCarried 0 wRamp.rampFrame = false ∧
      wRamp.cle.ramp.contains 0 = true ∧ wRampLoop.isWrite 0 0 = true ∧ wRampLoop.cle.ramp.contains 0 = false ∧ wRampLoop.get (CLE_LB_SCHED_LOOP 0 0) = 0 ∧ wRampLoop.cle.rampLoops.contains 0 = true := by
  decide +kernel
theorem witness_safeState_4 :
    wRamp.cle.codes.find? (fun e => e.1 == 32 * 0 + 0) = some (32 * 0 + 0, 5) := by
  decide +kernel
theorem witness_safeState_5 :
    wRamp.inSafe = true ∧ State.reset.inSafe = false := by
  decide +kernel
theorem witness_safeState_7 :
    State.reset.reaches .host 0x500000 = true ∧ State.reset.reaches .rootstock 0x500000 = true ∧ State.reset.get PMG_STATUS_STATE = 0 ∧ State.reset.gateOpen = false ∧
      (State.reset.put CLK_STATUS_GATE 1).gateOpen = true := by
  decide +kernel
theorem witness_registerWrites_1 :
    State.reset.issues .host 0x1C 4 = true ∧ State.reset.issues (.scion 0) 0x1C 8 = false ∧ State.reset.issues .rootstock 0x1C 8 = true ∧
      (0xFFFFFFF : BitVec 28).toNat / 4 * 4 + 4 = 2 ^ 28 := by
  decide +kernel
theorem witness_registerWrites_2 :
    (14 : BitVec 4) ≠ 15#4 ∧ State.reset.ignored .host 0x1C = false ∧ (State.reset.resetState 2 0).ignored .host 0x1C = true := by
  decide +kernel
theorem witness_registerWrites_3 :
    (State.reset.resetState 2 0).ignored .host 0x1C = true ∧ State.reset.ignored .host 0x601000 = false ∧ rscRange 0x601000 = true ∧
      wTiuOff.ignored .host 0x281000 = false ∧ wTiuOff.regOn 0x281000 = false ∧ takesClaim 0x281000 0 = false ∧ takesClaim 0x281000 0x20000000 = true ∧ rscRange 0x281000 = false := by
  decide +kernel
theorem witness_registerWrites_4 :
    State.reset.reaches .host 0x1C = true ∧ ((regAt 0x1C).map fun e => e.1.cls.isNone) = some true ∧ (State.reset.writeSpecial .host 0x1C 0 0 0 7).isNone = true ∧
      (regAt 0x4).isNone = false := by
  decide +kernel
theorem witness_registerWrites_6 :
    State.reset.reaches .host 0x1C = true ∧ State.reset.reaches .host 0xA00 = true ∧ State.reset.reaches .host 0xC00 = true ∧ (0x06000003 : BitVec 32).toNat / 2 ^ 24 = 6 ∧
      State.reset.reaches .host 0x30000 = true ∧ (0x80000000 : BitVec 32).toNat / 2 ^ 28 = 8 ∧ (0x10000000 : BitVec 32).toNat / 2 ^ 28 = 1 ∧ State.reset.reaches .rootstock 0x30038 = true ∧
      State.reset.reaches .host 0x40030 = true ∧ State.reset.reaches .host 0x50008 = true ∧ State.reset.reaches .host 0x60000 = true ∧ (0x40000000 : BitVec 32).toNat / 2 ^ 26 = 16 ∧
      State.reset.reaches .host 0x80028 = true := by
  decide +kernel

theorem witness_stepRunsFront_1 :
    ({ State.reset with pending := [.eventOccurrence, .powerOnReset] } : State).pending = .eventOccurrence :: [.powerOnReset] := by
  decide +kernel
theorem witness_idleStep_1 :
    State.reset.pending = [] := by
  decide +kernel
theorem witness_idleStep_2 :
    (State.reset.resetState 2 0).pins.inReset ≠ 0 ∧ State.reset.pins.inReset = 0 ∧ State.reset.gateOpen = false ∧ (wWord 0 0).pins.inReset = 0 ∧
      (wWord 0 0).gateOpen = true ∧ (wWord 0 0).seq.running ≠ none ∧ wRoot.pins.inReset = 0 ∧ wRoot.gateOpen = true ∧ wRoot.seq.running = none ∧ wRoot.tiu.releases = [] := by
  decide +kernel
theorem witness_hbmCanonical_1 :
    State.reset.memInv ∧ ({ State.reset with pending := [.eventOccurrence] } : State).memInv := by
  decide +kernel
theorem witness_resetKinds_1 :
    State.reset.resetInv := by
  decide +kernel
theorem witness_queueFirstInFirstOut_1 :
    ({ State.reset with pending := [.powerOnReset] } : State).pending = .powerOnReset :: [] := by
  decide +kernel

/-! ## Well-formedness: a term that each check refuses -/

theorem test_wf_bar2_empty : Instr.wf (.hostBar2Write 0 [] 0) = false := by decide
theorem test_wf_bar2_byte : Instr.wf (.hostBar2Write 0 [7] 0) = true := by decide
theorem test_wf_hbm_read_with_data : Instr.wf (.hbmRequest 0 false 0 1 [7]) = false := by decide
theorem test_wf_hbm_read_of_nothing : Instr.wf (.hbmRequest 0 false 0 0 []) = false := by decide
theorem test_wf_hbm_write_of_nothing : Instr.wf (.hbmRequest 0 true 0 0 []) = false := by decide
theorem test_wf_stream_fetch_empty : Instr.wf (.streamFetch 0 0 []) = false := by decide
theorem test_wf_tick_decisions : Instr.wf (.grdPTick []) = false := by decide
theorem test_wf_tiu_histograms : Instr.wf (.tiuCalEnd 0 []) = false := by decide
theorem test_wf_fast_entry_registers : wfRegs [] = false := by decide
theorem test_wf_routes (l : List (BitVec 13 × Fin 4)) (h : l.length = 8192) : Instr.wf (.formationDone false 0 0 l) = false := by
  simp only [Instr.wf, h]; decide
theorem test_wf_remote_op : wfRemote 0 0 = false := by decide
theorem test_wf_remote_unaligned : wfRemote 1 2 = false := by decide
theorem test_wf_remote_beyond : wfRemote 1 0x10000000 = false := by decide
theorem test_wf_pcie_rate : wfPcie 7 8 = false := by decide
theorem test_wf_pcie_width : wfPcie 4 2 = false := by decide

/-! ## Values that the manual works out -/

/-- The three-device example after R806: N = 128 and D = 16 give 0x000C_3500 kHz. -/
theorem test_vclk_khz : (⟨128, 0, 16, 0⟩ : VSet).khz = 0xC3500 := by decide +kernel

/-- The same example: 1,088 rc × 8 is the minimum lead of 0x2200 vc. -/
theorem test_lead : (⟨128, 0, 16, 0⟩ : VSet).vcOf 1088 = 0x2200 := by decide +kernel

/-- The same example: CLK_VCLK_CFG = 0x0000_0880 names N = 128, D = 16 in format mode. -/
theorem test_vclk_cfg : vsetOf 0x880 0 = ⟨128, 0, 16, 0⟩ := by decide +kernel

/-- After a power-on reset CLK_STATUS reads 0x0000_0038 (R797). -/
theorem test_clk_status : State.reset.regRead .host 0x20004 = 0x38 := by decide +kernel

/-- The example after R382 writes 0x2580_F6A0 for clamps of 2.4 V and –0.6 V: the low code is –2,400. -/
theorem test_signed_code : signedOf 16 0xF6A0 = -2400 := by decide +kernel

/-- The ramp of R737 stops at its target. -/
theorem test_ramp_stops : toward 100 16 95 = 100 ∧ toward 100 16 105 = 100 ∧ toward 100 16 0 = 16 := by decide

/-- A write without all byte enables is counted in GLB_BADACC (R809). -/
theorem test_badacc : (State.reset.run (execRegisterWrite .host 0x1C 5 3 none)).get GLB_BADACC = 1 := by decide +kernel

/-- A write of GLB_SCRATCH reads back (R17). -/
theorem test_scratch : (State.reset.run (execRegisterWrite .host 0x1C 0x12345678 15 none)).regRead .host 0x1C = 0x12345678 := by decide +kernel

/-- A 64-bit access writes two registers, the lower address first: GLB_BADACC is read-only and GLB_SCRATCH is written (R13). -/
theorem test_wide_write : (State.reset.run (execRegisterWrite .host 0x18 5 15 (some (7, 15)))).get GLB_SCRATCH = 7 := by decide +kernel

/-- The host's write to Rootstock's range is counted (R578). -/
theorem test_rsc_host_write : (State.reset.run (execRegisterWrite .host 0x601000 5 15 none)).get RSC_HWREFUSED = 1 := by decide +kernel

/-- A reset keeps the commands that wait. -/
theorem test_reset_queue : (({ State.reset with pending := [.warmReset] } : State).resetState 2 0).pending = [.warmReset] := by decide +kernel

/-- Memory writes of the byte that an unlisted address reads as leave no entry. -/
theorem test_mem_canonical : ((State.reset.memWrite 5 [1, 2]).memWrite 5 [0, 0]).mem = [] := by decide

end Sys2Proof.Tests
end

