-- ==== Sys2Proof/Proofs/HbmHost.lean ====
section
/-! SUPPORT. The DRAM controller, rule by rule: what a retirement request, an uncorrectable response, a scrub and a merged write leave in
the state; then the statement on the host's BAR2 writes, the scrub and retirement. -/

namespace Sys2Proof.Machine

/-! ## The poison marks (R666) -/

theorem mem_insertNat {x g : Nat} {l : List Nat} : x ∈ insertNat g l ↔ x = g ∨ x ∈ l := by
  induction l with
  | nil => simp [insertNat]
  | cons h t ih =>
    simp only [insertNat]
    split
    · simp
    · split
      · next hg => simp [hg]
      · simp only [List.mem_cons, ih, or_left_comm]

/-! ## Retirement requests (R667) -/

/-- Channel k's copy to the reserve begins: every register that shows it but the channel's own state. -/
def State.beginCopy (s : State) (k : Nat) : State :=
  (((s.put HBC_RMAP_COPYING 1).put HBC_RMAP_CH k).put HBC_STATUS_RETBUSY 1).put HBC_RETIRE_PROG 0

theorem State.retireRequest_refused {s : State} {k : Nat} (h : s.on HBC_RMAP_VALID = true ∨ s.on HBC_RMAP_COPYING = true ∨
    s.hbmOn = false ∨ s.get (HBC_CH_STATUS_STATE k) = 3) : s.retireRequest k = s.put HBC_STATUS_RETREF 1 := by
  rcases h with h | h | h | h <;> simp [State.retireRequest, h]

/-- A channel in pause enters its retiring state only when the pause ends. -/
theorem State.retireRequest_begins {s : State} {k : Nat} (hv : s.on HBC_RMAP_VALID = false) (hc : s.on HBC_RMAP_COPYING = false)
    (ho : s.hbmOn = true) (hk : s.get (HBC_CH_STATUS_STATE k) ≠ 3) : s.retireRequest k =
      if s.hbmPaused k then s.beginCopy k else (s.beginCopy k).put (HBC_CH_STATUS_STATE k) 2 := by
  simp [State.retireRequest, State.beginCopy, hv, hc, ho, hk]

@[simp] theorem State.beginCopy_mem (s : State) (k : Nat) : (s.beginCopy k).mem = s.mem := rfl
@[simp] theorem State.beginCopy_poison (s : State) (k : Nat) : (s.beginCopy k).poison = s.poison := rfl

/-- What a request for retirement can do. -/
theorem State.retireRequest_cases (s : State) (k : Nat) : s.retireRequest k = s.put HBC_STATUS_RETREF 1 ∨
    s.retireRequest k = s.beginCopy k ∨ s.retireRequest k = (s.beginCopy k).put (HBC_CH_STATUS_STATE k) 2 := by
  unfold State.retireRequest
  split
  · exact .inl rfl
  · simp only []
    split
    · exact .inr (.inl rfl)
    · exact .inr (.inr rfl)

@[simp] theorem State.retireRequest_mem (s : State) (k : Nat) : (s.retireRequest k).mem = s.mem := by
  rcases s.retireRequest_cases k with h | h | h <;> simp [h]

@[simp] theorem State.retireRequest_poison (s : State) (k : Nat) : (s.retireRequest k).poison = s.poison := by
  rcases s.retireRequest_cases k with h | h | h <;> simp [h]

/-! ## Uncorrectable responses (R665) -/

theorem State.hbmUe_scrub (s : State) (k : Nat) : s.hbmUe k true = (s.inc (HBC_CH_UE k)).raise srcHbcUe k 0 := by
  simp [State.hbmUe]

@[simp] theorem State.hbmUe_mem (s : State) (k : Nat) (scrub : Bool) : (s.hbmUe k scrub).mem = s.mem := by
  simp only [State.hbmUe]
  split <;> simp

@[simp] theorem State.hbmUe_poison (s : State) (k : Nat) (scrub : Bool) : (s.hbmUe k scrub).poison = s.poison := by
  simp only [State.hbmUe]
  split <;> simp

/-! ## Writes that merge their partly covered bursts (R812) -/

/-- The merge read of the burst at b, whose channel is named as s maps it, is uncorrectable: its granule is left poisoned. -/
def State.poisonBurst (s t : State) (b : Nat) : State :=
  { t with poison := insertNat (b / 64) t.poison }.hbmUe (s.hbmChan b) false

@[simp] theorem State.poisonBurst_mem (s t : State) (b : Nat) : (s.poisonBurst t b).mem = t.mem := by
  simp [State.poisonBurst]

@[simp] theorem State.poisonBurst_poison (s t : State) (b : Nat) : (s.poisonBurst t b).poison = insertNat (b / 64) t.poison := by
  simp [State.poisonBurst]

theorem State.foldl_poisonBurst_mem (s t : State) (l : List Nat) : (l.foldl s.poisonBurst t).mem = t.mem := by
  induction l generalizing t with
  | nil => rfl
  | cons b l ih => simp [ih]

theorem State.mem_foldl_poisonBurst_poison (s t : State) (l : List Nat) (g : Nat) :
    g ∈ (l.foldl s.poisonBurst t).poison ↔ (∃ b ∈ l, g = b / 64) ∨ g ∈ t.poison := by
  induction l generalizing t with
  | nil => simp
  | cons b l ih => simp [ih, mem_insertNat, or_assoc, or_left_comm]

theorem State.memMerge_stores {s : State} {bad a : Nat} {bs : List (BitVec 8)} (h : s.badMerges bad a bs.length = []) :
    s.memMerge bad a bs = s.memStore a bs := by
  simp [State.memMerge, h]

theorem State.memMerge_poisons {s : State} {bad a : Nat} {bs : List (BitVec 8)} (h : s.badMerges bad a bs.length ≠ []) :
    s.memMerge bad a bs = (s.badMerges bad a bs.length).foldl s.poisonBurst s := by
  unfold State.memMerge
  split
  · next hnil => exact absurd hnil h
  · rfl

/-! ## HOST_BAR2_WRITE -/

section
variable {s : State} {a : BitVec 36} {d : List Byte} {bad : BitVec 2}

theorem execHostBar2Write_ignored (h : s.ignored .host 0x10000 = true) : execHostBar2Write a d bad s = .next s := by
  simp [execHostBar2Write, h]

theorem execHostBar2Write_refused (hi : s.ignored .host 0x10000 = false)
    (h : hbmAddressable a.toNat d.length = false ∨ hbmScionArea a.toNat d.length = true) :
    execHostBar2Write a d bad s = .next (s.incSat HBC_REFUSED) := by
  rcases h with h | h <;> simp [execHostBar2Write, hi, h]

theorem execHostBar2Write_locked (hi : s.ignored .host 0x10000 = false) (ha : hbmAddressable a.toNat d.length = true)
    (hs : hbmScionArea a.toNat d.length = false) (hl : s.segLocked a.toNat d.length = true) :
    execHostBar2Write a d bad s = .next (s.refuseLocked a.toNat) := by
  simp [execHostBar2Write, hi, ha, hs, hl]

theorem execHostBar2Write_beforeService (hi : s.ignored .host 0x10000 = false) (ha : hbmAddressable a.toNat d.length = true)
    (hs : hbmScionArea a.toNat d.length = false) (hl : s.segLocked a.toNat d.length = false) (ho : s.hbmOn = false) :
    execHostBar2Write a d bad s = .next s := by
  simp [execHostBar2Write, hi, ha, hs, hl, ho]

theorem execHostBar2Write_merges (hi : s.ignored .host 0x10000 = false) (ha : hbmAddressable a.toNat d.length = true)
    (hs : hbmScionArea a.toNat d.length = false) (hl : s.segLocked a.toNat d.length = false) (ho : s.hbmOn = true) :
    execHostBar2Write a d bad s = .next (s.memMerge bad.toNat a.toNat d) := by
  simp [execHostBar2Write, hi, ha, hs, hl, ho]

end

/-! ## HBM_SCRUB -/

section
variable {s : State} {g : BitVec 30} {r : Fin 3}

theorem execHbmScrub_off (h : s.on HBC_CTRL_SCRUB_EN = false ∨ s.hbmOn = false ∨ hbmAddressable (g.toNat * 64) 64 = false) :
    execHbmScrub g r s = .next s := by
  rcases h with h | h | h <;> simp [execHbmScrub, h]

theorem execHbmScrub_clean (hr : r = 0) (hp : s.poisoned (g.toNat * 64) 64 = false) : execHbmScrub g r s = .next s := by
  simp [execHbmScrub, hr, hp]

theorem execHbmScrub_corrected (he : s.on HBC_CTRL_SCRUB_EN = true) (ho : s.hbmOn = true)
    (ha : hbmAddressable (g.toNat * 64) 64 = true) (hr : r = 1) (hp : s.poisoned (g.toNat * 64) 64 = false) :
    execHbmScrub g r s = .next (s.inc (HBC_CH_CE (s.hbmChan (g.toNat * 64)))) := by
  simp [execHbmScrub, he, ho, ha, hr, hp]

theorem execHbmScrub_uncorrectable (he : s.on HBC_CTRL_SCRUB_EN = true) (ho : s.hbmOn = true)
    (ha : hbmAddressable (g.toNat * 64) 64 = true) (h : r = 2 ∨ s.poisoned (g.toNat * 64) 64 = true) : execHbmScrub g r s =
      .next ({ s with poison := insertNat g.toNat s.poison }.hbmUe (s.hbmChan (g.toNat * 64)) true) := by
  rcases h with h | h <;> simp [execHbmScrub, he, ho, ha, h]

end

/-! ## HBC_RETIRE and RETIREMENT_COPY_DONE -/

theorem execHbcRetire_of_reaches {s : State} (k : Fin 32) (h : s.reaches .host 0x500014 = true) :
    execHbcRetire k s = .next (s.retireRequest k.val) :=
  State.reachReg_of_reaches _ h

theorem execRetirementCopyDone_idle {s : State} (h : s.on HBC_RMAP_COPYING = false) : execRetirementCopyDone s = .next s := by
  simp [execRetirementCopyDone, h]

theorem execRetirementCopyDone_copying {s : State} (h : s.on HBC_RMAP_COPYING = true) : execRetirementCopyDone s =
    .next ((((((s.put HBC_RMAP_COPYING 0).put HBC_RMAP_VALID 1).put HBC_STATUS_RETBUSY 0).put HBC_RETIRE_PROG 1472).put
      (HBC_CH_STATUS_STATE (s.get HBC_RMAP_CH)) 3).raise srcHbcRetired (s.get HBC_RMAP_CH) 0) := by
  simp [execRetirementCopyDone, h]

end Sys2Proof.Machine

namespace Sys2Proof.Proofs

open Sys2Proof.Machine

/-- Settles O2: each clause is the outcome of one command in one case; a write with a bad merge read keeps memory and marks every bad
burst's granule, because the fold over the bad bursts only adds marks. -/
theorem hbmHostAndScrub : Obligations.HbmHostAndScrub := by
  unfold Obligations.HbmHostAndScrub
  refine ⟨?bar2Turned, ?bar2Stored, ?scrub, ?retire, ?copyDone, fun s ch => rfl⟩
  case bar2Turned =>
    exact fun s a d bad => ⟨execHostBar2Write_ignored, fun hi => ⟨execHostBar2Write_refused hi, fun ha hs =>
      ⟨execHostBar2Write_locked hi ha hs, execHostBar2Write_beforeService hi ha hs⟩⟩⟩
  case bar2Stored =>
    intro s a d bad hi ha hs hl ho
    rw [exec_hostBar2Write, execHostBar2Write_merges hi ha hs hl ho]
    refine ⟨fun hb => congrArg _ (State.memMerge_stores hb), fun hb => ⟨_, congrArg _ (State.memMerge_poisons hb), ?_, fun x hx => ?_⟩⟩
    · exact s.foldl_poisonBurst_mem s _
    · exact (s.mem_foldl_poisonBurst_poison s _ _).mpr (.inl ⟨x, hx, rfl⟩)
  case scrub =>
    intro s g r
    refine ⟨execHbmScrub_off, fun he ho ha => ⟨execHbmScrub_clean, execHbmScrub_corrected he ho ha, fun h => ?_⟩⟩
    rw [exec_hbmScrub, execHbmScrub_uncorrectable he ho ha h, State.hbmUe_scrub]
  case retire =>
    intro s k hr
    rw [exec_hbcRetire, execHbcRetire_of_reaches k hr]
    refine ⟨fun h => congrArg _ (State.retireRequest_refused h), fun hv hc ho hk => ?_⟩
    rw [State.retireRequest_begins hv hc ho hk]
    exact ⟨fun hp => by rw [hp]; rfl, fun hp => by rw [hp]; rfl⟩
  case copyDone => exact fun s => ⟨execRetirementCopyDone_idle, execRetirementCopyDone_copying⟩

end Sys2Proof.Proofs
end

