-- ==== Sys2Proof/Proofs/Resets.lean ====
section
/-! SUPPORT. What a boot from neither Rootstock slot leaves in the state (R600, R601), and that RSC_STATUS.ACTIVE shows the whole ACTIVE
record, which is two bits wide (1 RS-A, 2 RS-B); then the statement on resets, which this refutes. -/

namespace Sys2Proof.Machine

theorem State.enterSafe_of_inSafe {s : State} (cause : Nat) (h : s.inSafe = true) : s.enterSafe cause = s := by
  simp [State.enterSafe, h]

/-- A write of any other field leaves the safe state as it is. -/
theorem State.inSafe_put {f : Field} (s : State) (v : Nat) (h : FCL_STATUS_SAFE.id ≠ f.id) : (s.put f v).inSafe = s.inSafe := by
  simp [State.inSafe, State.on, State.get_put_ne s v h]

/-- An empty slot fails the FORMAT check of R596. -/
theorem State.verify_nil (s : State) (cls : Nat) : s.verify [] cls = 2 := rfl

/-- Neither Rootstock slot passes in the safe state: the boot shows the record, the result of the last check and RECOVERY, and nothing else
changes (R601). -/
theorem State.boot_of_inSafe {s : State} {r : Nat} (ha : s.verify (s.slotImg s.rsc.bootSlot) 1 ≠ 0)
    (hb : s.verify (s.slotImg (otherSlot s.rsc.bootSlot)) 1 = r) (hr : r ≠ 0) (hs : s.inSafe = true) :
    s.boot = ((s.put RSC_STATUS_ACTIVE s.rsc.active).put RSC_BOOT_RESULT r).put RSC_STATUS_RECOVERY 1 := by
  have hsafe : (((s.put RSC_STATUS_ACTIVE s.rsc.active).put RSC_BOOT_RESULT r).put RSC_STATUS_RECOVERY 1).inSafe = true := by
    rw [State.inSafe_put _ _ (by decide), State.inSafe_put _ _ (by decide), State.inSafe_put _ _ (by decide), hs]
  simp only [State.boot, hb, if_neg ha, if_neg hr, State.enterSafe_of_inSafe 8 hsafe]

/-- A device in the safe state (R735) whose ACTIVE record is n, 1 for RS-A and 2 for RS-B, with no image in any slot. -/
def bootRecord (n : Nat) : State := { State.reset.put FCL_STATUS_SAFE 1 with rsc := { State.reset.rsc with active := n } }

/-- The boot of that device shows its ACTIVE record in both bits of RSC_STATUS.ACTIVE. -/
theorem boot_bootRecord_active (n : Nat) : (bootRecord n).boot.get RSC_STATUS_ACTIVE = n % 4 := by
  rw [State.boot_of_inSafe (by rw [show (bootRecord n).slotImg _ = [] from rfl, State.verify_nil]; decide)
    (State.verify_nil _ 1) (by decide) rfl, State.get_put_ne _ _ (by decide), State.get_put_ne _ _ (by decide), State.get_put_same]
  rfl

end Sys2Proof.Machine

namespace Sys2Proof.Proofs

open Sys2Proof.Machine

/-- Refutes O51: the clause on the boot says that RSC_STATUS.ACTIVE reads the ACTIVE record modulo 2, but the field is two bits wide and
shows the record 2 of RS-B as 2, where the clause asks for 0. -/
theorem not_resets : ¬ Obligations.Resets := by
  unfold Obligations.Resets
  rintro ⟨-, -, -, -, hboot, -⟩
  obtain ⟨-, -, -, hactive, -⟩ := hboot (bootRecord 2) _ _ rfl rfl
  rw [boot_bootRecord_active] at hactive
  exact absurd hactive (by decide)

end Sys2Proof.Proofs
end

