-- ==== Sys2Proof/Proofs/IdleStep.lean ====
section
/-! SUPPORT. What passes with time: the reference cycles and the vector cycles of one tick, component by component; then the statement on the
idle step. -/

namespace Sys2Proof.Machine

/-! ## Register pairs and sets of registers -/

theorem State.get64_put64 (s : State) {lo hi : Field} (v : Nat) (hlo : lo.lo = 0) (hlw : lo.width = 32) (hhw : hi.width = 32)
    (hne : lo.id ≠ hi.id) : (s.put64 lo hi v).get64 lo hi = v % 2 ^ 64 := by
  simp only [State.get64, State.put64, State.get_put_same, State.get_put_ne _ _ hne, hlo, hlw, hhw]
  omega

theorem State.get_put64_ne (s : State) {lo hi g : Field} (v : Nat) (hlo : g.id ≠ lo.id) (hhi : g.id ≠ hi.id) :
    (s.put64 lo hi v).get g = s.get g := by
  rw [State.put64, State.get_put_ne _ _ hhi, State.get_put_ne _ _ hlo]

theorem State.get_addSat_ne (s : State) {f g : Field} (k : Nat) (h : g.id ≠ f.id) : (s.addSat f k).get g = s.get g :=
  State.get_put_ne s _ h

/-! ## The group harvest request leaves the root (R110) -/

/-- Only the message and the note that it has left are new. -/
theorem State.sendHarvest_eq (s : State) : s.sendHarvest =
    { s with cmt := { s.cmt with hrvSent := s.sendHarvest.cmt.hrvSent }, tx := s.sendHarvest.tx } := by
  unfold State.sendHarvest
  split
  · split
    · rfl
    · simp only []
      split <;> rfl
  · rfl

@[simp] theorem State.sendHarvest_cells (s : State) : s.sendHarvest.cells = s.cells := by rw [sendHarvest_eq]
@[simp] theorem State.sendHarvest_clk (s : State) : s.sendHarvest.clk = s.clk := by rw [sendHarvest_eq]
@[simp] theorem State.sendHarvest_time (s : State) : s.sendHarvest.time = s.time := by rw [sendHarvest_eq]
@[simp] theorem State.sendHarvest_seq (s : State) : s.sendHarvest.seq = s.seq := by rw [sendHarvest_eq]
@[simp] theorem State.sendHarvest_mem (s : State) : s.sendHarvest.mem = s.mem := by rw [sendHarvest_eq]
@[simp] theorem State.sendHarvest_raised (s : State) : s.sendHarvest.raised = s.raised := by rw [sendHarvest_eq]
@[simp] theorem State.sendHarvest_hrvSwitch (s : State) : s.sendHarvest.cmt.hrvSwitch = s.cmt.hrvSwitch := by rw [sendHarvest_eq]

/-! ## Reference cycles -/

@[simp] theorem TimeState.pass_rc (t : TimeState) (coarse : Bool) (k : Nat) : (t.pass coarse k).rc = t.rc + k := by
  simp only [TimeState.pass]
  split <;> rfl

section
variable (s : State) (k : Nat)

@[simp] theorem State.passRc_gvc : (s.passRc k).clk.gvc = s.clk.gvc := by
  simp only [State.passRc]
  split <;> simp

theorem State.passRc_epoch :
    (s.passRc k).clk.epoch = if s.clk.counting then (s.clk.epoch + k) % 2 ^ 64 else s.clk.epoch := by
  simp only [State.passRc]
  split <;> simp

@[simp] theorem State.passRc_rc : (s.passRc k).time.rc = s.time.rc + k := by
  simp only [State.passRc]
  split <;> simp

@[simp] theorem State.passRc_seq : (s.passRc k).seq = s.seq := by
  simp only [State.passRc]
  split <;> simp

@[simp] theorem State.passRc_mem : (s.passRc k).mem = s.mem := by
  simp only [State.passRc]
  split <;> simp

@[simp] theorem State.passRc_raised : (s.passRc k).raised = s.raised := by
  simp only [State.passRc]
  split <;> simp

@[simp] theorem State.passRc_hrvSwitch : (s.passRc k).cmt.hrvSwitch = s.cmt.hrvSwitch := by
  simp only [State.passRc]
  split <;> simp

/-- The registers that count reference cycles: of the cells only FCL_MS and CLK_WARM_S move. -/
theorem State.passRc_cells : ∃ n, (s.passRc k).cells =
    ((s.put64 FCL_MS_LO FCL_MS_HI ((s.time.rc + k) / 100000)).addSat CLK_WARM_S n).cells := by
  refine ⟨(if s.on CLK_STATUS_OVEN then s.clk.ovenRc + k else 0) / 100000000, ?_⟩
  simp only [State.passRc]
  split
  · rfl
  · rw [State.sendHarvest_cells]; rfl

theorem State.regsBut_passRc : s.regsBut (s.passRc k) [FCL_MS_LO, FCL_MS_HI, CLK_WARM_S] := by
  intro g hg
  obtain ⟨n, hn⟩ := s.passRc_cells k
  simp only [List.mem_cons, List.not_mem_nil, or_false, forall_eq_or_imp, forall_eq] at hg
  obtain ⟨hlo, hhi, hwarm⟩ := hg
  rw [State.get_congr g hn, State.get_addSat_ne _ _ hwarm, State.get_put64_ne _ _ hlo hhi]

/-- FCL_MS counts milliseconds of 100,000 rc (R726). -/
theorem State.passRc_ms : (s.passRc k).get64 FCL_MS_LO FCL_MS_HI = (s.time.rc + k) / 100000 % 2 ^ 64 := by
  obtain ⟨n, hn⟩ := s.passRc_cells k
  rw [State.get64, State.get_congr _ hn, State.get_congr _ hn, State.get_addSat_ne _ _ (by decide),
    State.get_addSat_ne _ _ (by decide), ← State.get64, State.get64_put64 _ _ rfl rfl rfl (by decide)]

end

/-! ## Vector cycles -/

section
variable (s : State) (n : Nat)

@[simp] theorem State.advance_gvc : (s.advance n).clk.gvc = (s.clk.gvc + n) % 2 ^ 64 := by
  rw [State.advance, State.passRc_gvc]
  split <;> rfl

@[simp] theorem State.advance_mem : (s.advance n).mem = s.mem := by
  rw [State.advance, State.passRc_mem]
  split <;> rfl

@[simp] theorem State.advance_running : (s.advance n).seq.running = s.seq.running := by
  rw [State.advance, State.passRc_seq]
  split <;> rfl

@[simp] theorem State.advance_queued : (s.advance n).seq.queued = s.seq.queued := by
  rw [State.advance, State.passRc_seq]
  split <;> rfl

theorem State.rc_le_advance : s.time.rc ≤ (s.advance n).time.rc := by
  rw [State.advance, State.passRc_rc]
  refine Nat.le_trans (Nat.le_of_eq ?_) (Nat.le_add_right _ _)
  split <;> rfl

end

/-! ## A tick -/

/-- With no release due, the next vector cycle is one vector cycle. -/
theorem State.advanceTo_next {s : State} (hg : s.gateOpen = true) (hr : s.tiu.releases = []) :
    s.advanceTo (s.clk.gvc + 1) = s.advance 1 := by
  simp [State.advanceTo, hg, hr, State.passReleases, State.passTo]

theorem State.tick_inReset {s : State} (h : s.pins.inReset ≠ 0) : s.tick = s.drain := by
  simp [State.tick, h]

theorem State.tick_gateClosed {s : State} (h : s.pins.inReset = 0) (hg : s.gateOpen = false) : s.tick = s.drain.passRc 1 := by
  simp [State.tick, h, hg]

theorem State.tick_playlistRuns {s : State} (h : s.pins.inReset = 0) (hg : s.gateOpen = true) (hr : s.seq.running ≠ none) :
    s.tick = s.drain := by
  simp [State.tick, h, hg, Option.isSome_iff_ne_none.mpr hr]

theorem State.tick_gateOpen {s : State} (h : s.pins.inReset = 0) (hg : s.gateOpen = true) (hr : s.seq.running = none) :
    s.tick = s.drain.advanceTo (s.clk.gvc + 1) := by
  simp [State.tick, h, hg, hr, State.drain]

theorem State.tick_oneCycle {s : State} (h : s.pins.inReset = 0) (hg : s.gateOpen = true) (hr : s.seq.running = none)
    (hl : s.tiu.releases = []) : s.tick = s.drain.advance 1 :=
  (State.tick_gateOpen h hg hr).trans (State.advanceTo_next (s := s.drain) hg hl)

theorem step_idle {s : State} (h : s.pending = []) : step s = .next s.tick := by
  simp [step, h]

end Sys2Proof.Machine

namespace Sys2Proof.Proofs

open Sys2Proof.Machine

/-- Settles O55: a tick by its cases, then what one reference cycle and one vector cycle leave in each component. -/
theorem idleStep : Obligations.IdleStep := by
  unfold Obligations.IdleStep
  refine ⟨fun s => step_idle, fun s => ⟨rfl, State.tick_inReset, fun h => ⟨State.tick_gateClosed h, fun hg =>
    ⟨State.tick_playlistRuns h hg, fun hr => ⟨State.tick_gateOpen h hg hr, State.tick_oneCycle h hg hr⟩⟩⟩⟩,
    ?referenceCycle, ?vectorCycle⟩
  case referenceCycle =>
    rintro s t rfl
    refine ⟨s.passRc_gvc 1, s.passRc_rc 1, s.passRc_mem 1, s.passRc_ms 1, fun h => ?_, fun h => ?_, s.passRc_seq 1, s.passRc_raised 1,
      s.regsBut_passRc 1⟩
    · rw [State.passRc_epoch, if_pos h]
    · rw [State.passRc_epoch, h, if_neg Bool.false_ne_true]
  case vectorCycle =>
    rintro s t rfl
    exact ⟨s.advance_gvc 1, s.advance_mem 1, s.rc_le_advance 1, s.advance_running 1, s.advance_queued 1⟩

end Sys2Proof.Proofs
end

