-- ==== Sys2Proof/Proofs/CommitGo.lean ====
section
/-! SUPPORT. The group commit up to the vote: what a prepare leaves in the state, that the vote rests on no register that a GO writes, and the
refusals of a GO; then the statement on COMMIT_GO, COMMIT_CANCEL, ACKLOST and PREPARE_RECEIVE. -/

namespace Sys2Proof.Machine

/-! ## What a write of another register leaves -/

theorem State.on_put_ne {f g : Field} (s : State) (v : Nat) (h : g.id ≠ f.id) : (s.put f v).on g = s.on g := by
  simp [State.on, State.get_put_ne s v h]

theorem State.frozen_put {f : Field} (s : State) (v : Nat) (h : FRZ_STATUS_STATE.id ≠ f.id) : (s.put f v).frozen = s.frozen := by
  simp [State.frozen, State.get_put_ne s v h]

/-! ## The device's own vote (R73) -/

/-- The vote reads no register but FRZ_STATUS, FCL_STATUS, CMT_STATUS.INSYNC and CMT_SBUSY: validity is read off the shadow bank, the control
store and the marks. -/
theorem State.voteReason_put {f : Field} (s : State) (v scope : Nat) (hfrozen : FRZ_STATUS_STATE.id ≠ f.id)
    (hsafe : FCL_STATUS_SAFE.id ≠ f.id) (hsync : CMT_STATUS_INSYNC.id ≠ f.id) (hbusy : CMT_SBUSY.id ≠ f.id) :
    (s.put f v).voteReason scope = s.voteReason scope := by
  have hinsync : (s.put f v).insync = s.insync := State.on_put_ne s v hsync
  have hfails : (s.put f v).shadowFails = s.shadowFails := rfl
  have hinvalid : (s.put f v).classInvalid = s.classInvalid := rfl
  have hclass : (s.put f v).classBusy = s.classBusy := by
    funext k
    simp [State.classBusy, State.get_put_ne s v hbusy]
  simp only [State.voteReason, State.frozen_put s v hfrozen, State.inSafe_put s v hsafe, hinsync, hfails, hinvalid, hclass]

/-! ## A CWAIT word in issue (R238) -/

/-- The word holds for the commit that is pending, where it holds for none yet. -/
theorem State.cwaitLatch_seq_of_cwait {s : State} {w : Nat} {c : Commit} (hw : s.seq.word = some w) (hc : s.cmt.commit = some c)
    (hn : s.seq.cwait = none) (hm : mwCwait w = true) : s.cwaitLatch.seq = { s.seq with cwait := some (c.target, 0) } := by
  simp [State.cwaitLatch, hw, hc, hn, hm]

/-- No word in issue, one that holds already, and one without CWAIT are left as they are. -/
theorem State.cwaitLatch_seq_of_not_cwait {s : State}
    (h : s.seq.word = none ∨ s.seq.cwait ≠ none ∨ ∀ w, s.seq.word = some w → mwCwait w = false) :
    s.cwaitLatch.seq = s.seq := by
  unfold State.cwaitLatch
  split
  · next w c hw hc hn =>
    rcases h with h | h | h
    · rw [hw] at h; exact absurd h (by simp)
    · exact absurd hn h
    · simp [h w hw]
  · rfl

/-- Only the sequencer learns of the commit. -/
theorem State.cwaitLatch_eq (s : State) : s.cwaitLatch = { s with seq := s.cwaitLatch.seq } := by
  unfold State.cwaitLatch
  split
  · split <;> rfl
  · rfl

/-! ## A prepare (R72, R73) -/

/-- The commit that a prepare names, with the device's own vote and no other yet. -/
def State.votedCommit (s : State) (target scope tag : Nat) : Commit :=
  ⟨target, scope, tag, ⟨decide (s.voteReason scope = 0), s.get CLK_DEVID, s.voteReason scope⟩, [], false⟩

/-- CMT_STATUS shows the commit pending, locked and voted. -/
def State.showVoted (s : State) : State := ((s.put CMT_STATUS_PENDING 1).put CMT_STATUS_LOCKED 1).put CMT_STATUS_VOTED 1

/-- The device has voted, and holds the commit. -/
def State.voted (s : State) (c : Commit) : State :=
  { s.showVoted with cmt := { s.cmt with commit := some c, lostAwait := false } }

/-- What a device sends down the tree: nothing where no device hangs below it. -/
def State.down (s : State) (m : TxMsg) : List TxMsg := if s.on CLK_DEPTH_DOWN then [m] else []

theorem State.sends_down (s t : State) (m : TxMsg) :
    (if s.on CLK_DEPTH_DOWN then t.send m else t) = { t with tx := t.tx ++ s.down m } := by
  unfold State.down
  split
  · rfl
  · rw [List.append_nil]

/-- A prepare has arrived: the device's vote stands, a CWAIT word in issue holds for the commit, and the prepare goes down the tree. -/
def State.prepared (s : State) (target scope tag : Nat) : State :=
  { s.voted (s.votedCommit target scope tag) with
    tx := s.tx ++ s.down (.prepare target scope tag)
    seq := (s.voted (s.votedCommit target scope tag)).cwaitLatch.seq }

theorem State.showVoted_pending (s : State) : s.showVoted.get CMT_STATUS_PENDING = 1 := by
  rw [State.showVoted, State.get_put_ne _ _ (by decide), State.get_put_ne _ _ (by decide), State.get_put_same]
  rfl

theorem State.showVoted_locked (s : State) : s.showVoted.get CMT_STATUS_LOCKED = 1 := by
  rw [State.showVoted, State.get_put_ne _ _ (by decide), State.get_put_same]
  rfl

theorem State.showVoted_voted (s : State) : s.showVoted.get CMT_STATUS_VOTED = 1 := by
  rw [State.showVoted, State.get_put_same]
  rfl

theorem State.get_showVoted (s : State) {g : Field} (hp : g.id ≠ CMT_STATUS_PENDING.id) (hl : g.id ≠ CMT_STATUS_LOCKED.id)
    (hv : g.id ≠ CMT_STATUS_VOTED.id) : s.showVoted.get g = s.get g := by
  rw [State.showVoted, State.get_put_ne _ _ hv, State.get_put_ne _ _ hl, State.get_put_ne _ _ hp]

section
variable (s : State) (target scope tag : Nat)

@[simp] theorem State.get_prepared (g : Field) : (s.prepared target scope tag).get g = s.showVoted.get g := rfl

theorem State.receivePrepare_frozen (h : s.frozen = true) : s.receivePrepare target scope tag = s := by
  simp [State.receivePrepare, h]

theorem State.receivePrepare_votes (h : s.frozen = false) : s.receivePrepare target scope tag = s.prepared target scope tag := by
  have hsent : s.receivePrepare target scope tag = if s.on CLK_DEPTH_DOWN then
      (s.voted (s.votedCommit target scope tag)).cwaitLatch.send (.prepare target scope tag)
      else (s.voted (s.votedCommit target scope tag)).cwaitLatch := by
    simp only [State.receivePrepare, h]
    rfl
  rw [hsent, State.sends_down, State.cwaitLatch_eq]
  rfl

end

/-! ## COMMIT_GO (R69 to R71) -/

theorem State.goRefusal_eq_zero_iff (s : State) : s.goRefusal = 0 ↔ s.on CMT_STATUS_ROOT = true ∧ s.on CMT_STATUS_PENDING = false ∧
    s.gateOpen = true ∧ s.clk.gvc + s.leadVc ≤ s.get64 CMT_TARGET_LO CMT_TARGET_HI ∧ s.get CMT_SCOPE ≠ 0 ∧ s.frozen = false ∧
    s.inSafe = false := by
  unfold State.goRefusal
  grind

theorem State.goRefusal_ne_zero_iff (s : State) : s.goRefusal ≠ 0 ↔ s.on CMT_STATUS_ROOT = false ∨ s.on CMT_STATUS_PENDING = true ∨
    s.get64 CMT_TARGET_LO CMT_TARGET_HI < s.clk.gvc + s.leadVc ∨ s.gateOpen = false ∨ s.get CMT_SCOPE = 0 ∨ s.frozen = true ∨
    s.inSafe = true := by
  rw [Ne, State.goRefusal_eq_zero_iff]
  grind

section
variable {s : State}

theorem State.goRefusal_notRoot (h : s.on CMT_STATUS_ROOT = false) : s.goRefusal = 1 := by
  simp [State.goRefusal, h]

theorem State.goRefusal_pending (hr : s.on CMT_STATUS_ROOT = true) (hp : s.on CMT_STATUS_PENDING = true) : s.goRefusal = 2 := by
  simp [State.goRefusal, hr, hp]

theorem State.goRefusal_target (hr : s.on CMT_STATUS_ROOT = true) (hp : s.on CMT_STATUS_PENDING = false)
    (h : s.gateOpen = false ∨ s.get64 CMT_TARGET_LO CMT_TARGET_HI < s.clk.gvc + s.leadVc) : s.goRefusal = 3 := by
  rcases h with h | h <;> simp [State.goRefusal, hr, hp, h]

theorem State.goRefusal_scope (hr : s.on CMT_STATUS_ROOT = true) (hp : s.on CMT_STATUS_PENDING = false) (hg : s.gateOpen = true)
    (ht : s.clk.gvc + s.leadVc ≤ s.get64 CMT_TARGET_LO CMT_TARGET_HI) (h : s.get CMT_SCOPE = 0) : s.goRefusal = 4 := by
  simp [State.goRefusal, hr, hp, hg, Nat.not_lt.mpr ht, h]

theorem State.goRefusal_stopped (hr : s.on CMT_STATUS_ROOT = true) (hp : s.on CMT_STATUS_PENDING = false) (hg : s.gateOpen = true)
    (ht : s.clk.gvc + s.leadVc ≤ s.get64 CMT_TARGET_LO CMT_TARGET_HI) (hs : s.get CMT_SCOPE ≠ 0)
    (h : s.frozen = true ∨ s.inSafe = true) : s.goRefusal = 5 := by
  rcases h with h | h <;> simp [State.goRefusal, hr, hp, hg, Nat.not_lt.mpr ht, hs, h]

theorem execCommitGo_refused (hr : s.reaches .host 0x10010 = true) (h : s.goRefusal ≠ 0) :
    execCommitGo s = .next (s.put CMT_STATUS_GOREF s.goRefusal) := by
  rw [execCommitGo, State.reachReg_of_reaches _ hr, effCommitGo, if_pos h]

end

/-- A GO has been accepted, before its prepare arrives: no CANCEL stands, and the retries are loaded (R71). -/
def State.goAccepted (s : State) : State :=
  (({ s with cmt := { s.cmt with cancel := false } } : State).put CMT_STATUS_PENDING 1).put CMT_STATUS_RETRYLEFT
    (if s.on CMT_CTRL_RETRY_EN then s.get CMT_RETRY_COUNT else 0)

theorem State.get_goAccepted (s : State) (g : Field) (hp : g.id ≠ CMT_STATUS_PENDING.id) (hl : g.id ≠ CMT_STATUS_RETRYLEFT.id) :
    s.goAccepted.get g = s.get g := by
  rw [State.goAccepted, State.get_put_ne _ _ hl, State.get_put_ne _ _ hp]
  rfl

theorem State.goAccepted_voteReason (s : State) (scope : Nat) : s.goAccepted.voteReason scope = s.voteReason scope := by
  rw [State.goAccepted, State.voteReason_put _ _ _ (by decide) (by decide) (by decide) (by decide),
    State.voteReason_put _ _ _ (by decide) (by decide) (by decide) (by decide)]
  rfl

theorem State.goAccepted_votedCommit (s : State) (target scope tag : Nat) :
    s.goAccepted.votedCommit target scope tag = s.votedCommit target scope tag := by
  simp only [State.votedCommit, State.goAccepted_voteReason, s.get_goAccepted CLK_DEVID (by decide) (by decide)]

theorem State.goAccepted_down (s : State) (m : TxMsg) : s.goAccepted.down m = s.down m := by
  rw [State.down, State.on, s.get_goAccepted CLK_DEPTH_DOWN (by decide) (by decide)]
  rfl

theorem State.goAccepted_frozen (s : State) : s.goAccepted.frozen = s.frozen := by
  simp only [State.frozen, s.get_goAccepted FRZ_STATUS_STATE (by decide) (by decide)]

theorem State.goAccepted_retryLeft (s : State) :
    s.goAccepted.get CMT_STATUS_RETRYLEFT = if s.on CMT_CTRL_RETRY_EN then s.get CMT_RETRY_COUNT % 2 ^ 8 else 0 := by
  rw [State.goAccepted, State.get_put_same]
  split <;> rfl

/-- An accepted GO is its own prepare's arrival at the root. -/
theorem execCommitGo_accepted {s : State} (hr : s.reaches .host 0x10010 = true) (h : s.goRefusal = 0) : execCommitGo s =
    .next (s.goAccepted.receivePrepare (s.get64 CMT_TARGET_LO CMT_TARGET_HI) (s.get CMT_SCOPE) (s.get CMT_CTRL_TAG)) := by
  rw [execCommitGo, State.reachReg_of_reaches _ hr, effCommitGo, if_neg (not_not_intro h)]
  rfl

/-! ## COMMIT_CANCEL and ACKLOST (R75, R80) -/

theorem execCommitCancel_of_reaches {s : State} (hr : s.reaches .host 0x10010 = true) : execCommitCancel s = .next
    (if s.on CMT_STATUS_ROOT && s.on CMT_STATUS_VOTED then { s with cmt := { s.cmt with cancel := true } } else s) := by
  rw [execCommitCancel, State.reachReg_of_reaches _ hr, effCommitCancel]
  split <;> rfl

theorem execAcklost_of_reaches {s : State} (hr : s.reaches .host 0x10010 = true) :
    execAcklost s = .next { s with cmt := { s.cmt with lostMark := none } } :=
  State.reachReg_of_reaches _ hr

end Sys2Proof.Machine

namespace Sys2Proof.Proofs

open Sys2Proof.Machine

/-- Settles O8: a refusal is read off the tests in order; an accepted GO and a prepare both end in the device's vote, which no register that
the GO writes can change. -/
theorem commitGo : Obligations.CommitGo := by
  unfold Obligations.CommitGo
  refine ⟨fun s => execCommitGo_refused, fun s => s.goRefusal_ne_zero_iff,
    fun s => ⟨State.goRefusal_notRoot, State.goRefusal_pending, fun hr hp => ⟨State.goRefusal_target hr hp, fun hg ht =>
      ⟨State.goRefusal_scope hr hp hg ht, State.goRefusal_stopped hr hp hg ht⟩⟩⟩,
    ?accepted, ?cancel, fun s => execAcklost_of_reaches, ?prepare⟩
  case accepted =>
    intro s hr h
    obtain ⟨-, -, -, -, -, hfrozen, -⟩ := s.goRefusal_eq_zero_iff.mp h
    refine completes_of_eq (execCommitGo_accepted hr h) ?_
    rw [State.receivePrepare_votes _ _ _ _ (s.goAccepted_frozen.trans hfrozen)]
    refine ⟨s.goAccepted.showVoted_pending, s.goAccepted.showVoted_voted, s.goAccepted.showVoted_locked, ?_, ?_, ?_, fun g hg => ?_, rfl⟩
    · rw [State.get_prepared, State.get_showVoted _ (by decide) (by decide) (by decide), State.goAccepted_retryLeft]
    · rw [State.prepared, State.goAccepted_votedCommit]
      rfl
    · rw [State.prepared, State.goAccepted_down]
      rfl
    · simp only [List.mem_cons, List.not_mem_nil, or_false, forall_eq_or_imp, forall_eq] at hg
      obtain ⟨hp, hv, hl, hleft⟩ := hg
      rw [State.get_prepared, State.get_showVoted _ hp hl hv, State.get_goAccepted _ _ hp hleft]
  case cancel =>
    intro s hr
    rw [exec_commitCancel, execCommitCancel_of_reaches hr]
    refine ⟨fun hroot hvoted => by simp [hroot, hvoted], fun h => ?_⟩
    rcases h with h | h <;> simp [h]
  case prepare =>
    intro s g c n
    rw [exec_prepareReceive, execPrepareReceive]
    refine ⟨fun h => by rw [State.receivePrepare_frozen _ _ _ _ h], fun h => ⟨s.prepared g.toNat c.toNat n.toNat, ?_, rfl,
      s.showVoted_pending, s.showVoted_locked, s.showVoted_voted, fun f hf => ?_, rfl, fun w hw hn hm => ?_, fun hkeep => ?_, rfl⟩⟩
    · rw [State.receivePrepare_votes _ _ _ _ h]
    · simp only [List.mem_cons, List.not_mem_nil, or_false, forall_eq_or_imp, forall_eq] at hf
      obtain ⟨hp, hl, hv⟩ := hf
      rw [State.get_prepared, State.get_showVoted _ hp hl hv]
    · exact State.cwaitLatch_seq_of_cwait (s := s.voted (s.votedCommit g.toNat c.toNat n.toNat)) hw rfl hn hm
    · exact State.cwaitLatch_seq_of_not_cwait (s := s.voted (s.votedCommit g.toNat c.toNat n.toNat)) hkeep

end Sys2Proof.Proofs
end

