-- ==== Sys2Proof/Proofs/CommitDecision.lean ====
section
/-! SUPPORT. An abort at the root raises its event, and the collector then notes its instant; then the statement on votes and decisions, which
this refutes. -/

namespace Sys2Proof.Machine

/-- A commit that a CANCEL stands against is aborted with no retry: CANCELLED is not an incomplete shadow (R75, R83). -/
theorem execCommitDecide_cancelled {s : State} {c : Commit} (hc : s.cmt.commit = some c) (hd : c.decided = false)
    (hf : s.frozen = false) (hr : s.on CMT_STATUS_ROOT = true) (hcancel : s.cmt.cancel = true) : execCommitDecide s = .next
      ((if s.on CLK_DEPTH_DOWN then s.send (.decision false false c.tag 7 (s.get CLK_DEVID)) else s).applyDecision
        c false false 7 (s.get CLK_DEVID)) := by
  simp [execCommitDecide, hc, hd, hf, hr, hcancel]

theorem State.cwaitOutcome_fcl (s : State) (r : Option Nat) : (s.cwaitOutcome r).fcl = s.fcl := by
  unfold State.cwaitOutcome
  split <;> rfl

/-- An abort is the last occurrence of its event: the collector's instant of it is the present rc (R724). -/
theorem State.applyDecision_abort_last (s : State) (c : Commit) (retry : Bool) (reason dev : Nat) :
    (s.applyDecision c false retry reason dev).fcl.last = Assoc.insert s.fcl.last srcCmtAbort s.time.rc := by
  rw [State.applyDecision, if_neg Bool.false_ne_true, State.cwaitOutcome_fcl]
  rfl

/-- A root that holds a commit of class 0 against which a CANCEL stands, and nothing else since a reset. -/
def cancelledRoot : State :=
  { State.reset with cmt := { State.reset.cmt with commit := some ⟨0, 1, 0, ⟨true, 0, 0⟩, [], false⟩, cancel := true } }

end Sys2Proof.Machine

namespace Sys2Proof.Proofs

open Sys2Proof.Machine

/-- Refutes O9: the clause on an abort says that nothing changes but the registers, the commit, what is sent, what is raised and the sequencer;
but an event that is raised is also noted as the last occurrence of its source, which after a reset no source has. -/
theorem not_commitDecision : ¬ Obligations.CommitDecision := by
  unfold Obligations.CommitDecision
  rintro ⟨-, -, -, -, habort, -⟩
  obtain ⟨t, hexec, -, -, -, -, -, -, -, -, -, -, hframe⟩ :=
    habort cancelledRoot _ _ rfl rfl (by decide) (by decide) rfl rfl (.inl (by decide))
  have hlast : t.fcl.last = [(srcCmtAbort, 0)] := by
    rw [exec_commitDecide, execCommitDecide_cancelled rfl rfl (by decide) (by decide) rfl] at hexec
    rw [← Host.Outcome.next.inj hexec, State.applyDecision_abort_last]
    rfl
  have hkept : t.fcl = cancelledRoot.fcl := by rw [hframe]
  rw [hkept] at hlast
  exact absurd hlast (by decide)

end Sys2Proof.Proofs
end

