-- ==== Sys2Proof/Proofs/Verdicts.lean ====
section
/-! SUPPORT. Which interval of a site a settle or a release acts on, and what each does to it; then the statement on verdicts. -/

namespace Sys2Proof.Machine

/-! ## The first element that satisfies a test -/

theorem indexOf?_append_cons {α : Type} {p : α → Bool} {l r : List α} {a : α} (hl : ∀ b ∈ l, p b = false) (ha : p a = true) :
    indexOf? p (l ++ a :: r) = some l.length := by
  induction l with
  | nil => simp [indexOf?, ha]
  | cons b l ih =>
    simp only [List.mem_cons, forall_eq_or_imp] at hl
    simp [indexOf?, hl.1, ih hl.2]

theorem find?_append_cons {α : Type} {p : α → Bool} {l r : List α} {a : α} (hl : ∀ b ∈ l, p b = false) (ha : p a = true) :
    (l ++ a :: r).find? p = some a := by
  rw [List.find?_append, List.find?_eq_none.mpr (by simpa using hl), Option.none_or, List.find?_cons_of_pos ha]

/-! ## Releases (R103, R113) -/

theorem State.writeVerdict_queued {s : State} {i : Interval} (he : s.on (QUE_SITERQ_EN i.site) = true)
    (ho : (s.queue (s.get (QUE_SITERQ_Q i.site))).isOpen = true) :
    s.writeVerdict i = s.enq (s.get (QUE_SITERQ_Q i.site)) (verdictRecord i (s.get CLK_DEVID)) := by
  simp [State.writeVerdict, he, ho]

theorem State.writeVerdict_dropped {s : State} {i : Interval} (h : s.on (QUE_SITERQ_EN i.site) = false ∨
    (s.queue (s.get (QUE_SITERQ_Q i.site))).isOpen = false) :
    s.writeVerdict i = (s.incSat QUE_NVRDROP).raise srcQueVrdrop (s.get (QUE_SITERQ_Q i.site)) 0 := by
  rcases h with h | h <;> simp [State.writeVerdict, h]

/-! ## VERDICT_SETTLE (R96 to R101) -/

/-- The interval has ended, is of the site, and its verdict is not held. -/
def Interval.settles (n : Nat) (i : Interval) : Bool := decide (i.site = n) && i.last.isSome && !i.held

theorem Interval.settles_eq_false {n : Nat} {i : Interval} : i.settles n = false ↔ i.site ≠ n ∨ i.last = none ∨ i.held = true := by
  simp only [Interval.settles, Bool.and_eq_false_iff, decide_eq_false_iff_not, Option.isSome_eq_false_iff, Option.isNone_iff_eq_none,
    Bool.not_eq_false', or_assoc, ne_eq]

/-- The verdict of an interval as it is formed: with the tag of the last commit applied, and cause NOCMP where no compare was evaluated and that
is not a pass (R99). -/
def Interval.formed (i : Interval) (s u : State) : Interval :=
  { i with gen := u.get CMT_LAST_TAG
           cause := if i.evaluated = false ∧ s.on CMT_VRD_CTRL_NOCMP_PASS = false then setBitN i.cause 12 else i.cause }

/-- A PASS at place k is held for readback (R101). -/
def State.holdPass (u : State) (k : Nat) (j : Interval) : State :=
  { u with cmt := { u.cmt with
      intervals := u.cmt.intervals.set k { j with held := true, heldAt := u.cmt.holdSeq + 1 }
      holdSeq := u.cmt.holdSeq + 1 } }

section
variable {s : State} {n : Fin 64}

theorem execVerdictSettle_none (h : ∀ i ∈ s.cmt.intervals, i.settles n.val = false) : execVerdictSettle n s = .next s := by
  have hfind : s.cmt.intervals.find? (fun i => decide (i.site = n.val) && i.last.isSome && !i.held) = none :=
    List.find?_eq_none.mpr fun i hi => ne_true_of_eq_false (h i hi)
  simp only [execVerdictSettle, hfind]

variable {older newer : List Interval} {i : Interval}

/-- The interval that a settle acts on is the site's oldest one that has ended, in its place of the list. -/
theorem find?_settles (hs : s.cmt.intervals = older ++ i :: newer) (ho : ∀ j ∈ older, j.settles n.val = false)
    (hi : i.settles n.val = true) :
    s.cmt.intervals.find? (fun i => decide (i.site = n.val) && i.last.isSome && !i.held) = some i ∧
    indexOf? (fun i : Interval => decide (i.site = n.val) && i.last.isSome && !i.held) s.cmt.intervals = some older.length :=
  hs ▸ ⟨find?_append_cons ho hi, indexOf?_append_cons ho hi⟩

theorem execVerdictSettle_early (hs : s.cmt.intervals = older ++ i :: newer) (ho : ∀ j ∈ older, j.settles n.val = false)
    (hi : i.settles n.val = true) (hr : s.reach (i.settle.getD 0) = none) : execVerdictSettle n s = .next s := by
  obtain ⟨hfind, hindex⟩ := find?_settles hs ho hi
  simp only [execVerdictSettle, hfind, hindex, hr]

theorem execVerdictSettle_forms {u : State} (hs : s.cmt.intervals = older ++ i :: newer) (ho : ∀ j ∈ older, j.settles n.val = false)
    (hi : i.settles n.val = true) (hr : s.reach (i.settle.getD 0) = some u) : execVerdictSettle n s = .next
      (if (i.formed s u).verdict = 1 ∧ u.on CMT_VRD_CTRL_CONFIRM = true then u.holdPass older.length (i.formed s u)
      else u.releaseAt older.length (i.formed s u)) := by
  obtain ⟨hfind, hindex⟩ := find?_settles hs ho hi
  simp only [execVerdictSettle, hfind, hindex, hr, Bool.and_eq_true, Bool.not_eq_true', decide_eq_true_eq]
  exact (apply_ite _ _ _ _).symm

end

/-! ## VERDICT_RELEASE (R101, R752) -/

/-- The interval is of the site and its PASS is held. -/
def Interval.heldOf (n : Nat) (i : Interval) : Bool := decide (i.site = n) && i.held

theorem Interval.heldOf_eq_false {n : Nat} {i : Interval} : i.heldOf n = false ↔ i.site ≠ n ∨ i.held = false := by
  simp only [Interval.heldOf, Bool.and_eq_false_iff, decide_eq_false_iff_not, ne_eq]

/-- Every channel of the site has been read back since the hold count reached t. -/
def State.siteReadBack (s : State) (n t : Nat) : Prop := ∀ c < 256, s.siteOf c = some n → s.readBackAfter c t = true

section
variable {s : State} {n : Fin 64}

theorem execVerdictRelease_none (h : ∀ i ∈ s.cmt.intervals, i.heldOf n.val = false) : execVerdictRelease n s = .next s := by
  have hfind : s.cmt.intervals.find? (fun i => decide (i.site = n.val) && i.held) = none :=
    List.find?_eq_none.mpr fun i hi => ne_true_of_eq_false (h i hi)
  simp only [execVerdictRelease, hfind]

theorem execVerdictRelease_frozen (h : s.frozen = true) : execVerdictRelease n s = .next s := by
  simp only [execVerdictRelease]
  split
  · simp [h]
  · rfl

variable {older newer : List Interval} {i : Interval}

theorem execVerdictRelease_oldest (hs : s.cmt.intervals = older ++ i :: newer) (ho : ∀ j ∈ older, j.heldOf n.val = false)
    (hi : i.heldOf n.val = true) (hf : s.frozen = false) :
    (i.cause ≠ 0 ∨ s.siteReadBack n.val i.heldAt → execVerdictRelease n s = .next (s.releaseAt older.length i)) ∧
    (i.cause = 0 → ¬ s.siteReadBack n.val i.heldAt → execVerdictRelease n s = .next s) := by
  have hfind : s.cmt.intervals.find? (fun i => decide (i.site = n.val) && i.held) = some i := hs ▸ find?_append_cons ho hi
  have hindex : indexOf? (fun i : Interval => decide (i.site = n.val) && i.held) s.cmt.intervals = some older.length :=
    hs ▸ indexOf?_append_cons ho hi
  have htest : ((decide (i.cause ≠ 0) || (List.range 256).all fun c => decide (s.siteOf c ≠ some n.val) || s.readBackAfter c i.heldAt) &&
      !s.frozen) = true ↔ i.cause ≠ 0 ∨ s.siteReadBack n.val i.heldAt := by
    simp only [hf, Bool.not_false, Bool.and_true, Bool.or_eq_true, decide_eq_true_eq, List.all_eq_true, List.mem_range, ne_eq,
      State.siteReadBack, ← Decidable.imp_iff_not_or (a := s.siteOf _ = some n.val)]
  simp only [execVerdictRelease, hfind, hindex]
  exact ⟨fun h => if_pos (htest.mpr h), fun hc hb => if_neg fun h => (htest.mp h).elim (fun hne => hne hc) hb⟩

end

end Sys2Proof.Machine

namespace Sys2Proof.Proofs

open Sys2Proof.Machine

/-- Settles O11: the interval that a command acts on is the first of its list that passes the command's test, and its outcome follows from
the instant, the verdict and CONFIRM, or from the readbacks. -/
theorem verdicts : Obligations.Verdicts := by
  unfold Obligations.Verdicts
  refine ⟨fun i => ⟨rfl, rfl⟩, fun old p word => ⟨fun h => ?word, fun h => if_pos h⟩, fun s k i => rfl,
    fun s i => ⟨State.writeVerdict_queued, State.writeVerdict_dropped⟩,
    fun s n h => execVerdictSettle_none fun i hi => Interval.settles_eq_false.mpr (h i hi), ?settle, ?idle, ?release⟩
  case word => rw [releasedWord, Nat.div_eq_of_lt h, if_neg (Nat.not_lt_zero p)]
  case settle =>
    intro s n older newer i l hs ho hsite hlast hheld
    have hold : ∀ j ∈ older, j.settles n.val = false := fun j hj => Interval.settles_eq_false.mpr (ho j hj)
    have hi : i.settles n.val = true := by simp [Interval.settles, hsite, hlast, hheld]
    have ht : i.settle.getD 0 = l + 108 := by simp [Interval.settle, hlast]
    refine ⟨fun hr => execVerdictSettle_early hs hold hi (ht ▸ hr), ?_⟩
    rintro u j hr rfl
    have hexec := execVerdictSettle_forms hs hold hi (ht ▸ hr)
    exact ⟨fun hv hc => hexec.trans (congrArg _ (if_pos ⟨hv, hc⟩)), fun h => hexec.trans (congrArg _ (if_neg fun ⟨hv, hc⟩ =>
      h.elim (fun hne => hne hv) fun hoff => absurd hc (by simp [hoff])))⟩
  case idle =>
    rintro s n (h | h)
    · exact execVerdictRelease_none fun i hi => Interval.heldOf_eq_false.mpr (h i hi)
    · exact execVerdictRelease_frozen h
  case release =>
    intro s n older newer i hs ho hsite hheld hf
    obtain ⟨hrelease, hwait⟩ := execVerdictRelease_oldest hs (fun j hj => Interval.heldOf_eq_false.mpr (ho j hj))
      (show i.heldOf n.val = true by simp [Interval.heldOf, hsite, hheld]) hf
    exact ⟨hrelease, fun hc hb => hwait hc (by simpa [State.siteReadBack] using hb)⟩

end Sys2Proof.Proofs
end

