-- ==== Sys2Proof/Proofs/Harvest.lean ====
section
/-! SUPPORT. The harvest: the refusals of a GO, a withdrawal, the switch of the window, the request on its way and the take; then the statement
on harvests. -/

namespace Sys2Proof.Machine

/-! ## HARVEST_GO (R89, R90) -/

/-- The lead of a harvest GO in vector cycles: 16 rc for a local one, 128 rc and 64 for each hop for a group one (R89, R90). -/
def State.harvestLead (s : State) : Nat := s.clk.vset.vcOf (if s.on CMT_HRV_CTRL_LOCAL then 16 else 128 + 64 * s.get CMT_HOPS)

section
variable {s : State}

theorem execHarvestGo_notRoot (hr : s.reaches .host 0x10050 = true) (hl : s.on CMT_HRV_CTRL_LOCAL = false)
    (h : s.on CMT_STATUS_ROOT = false) : execHarvestGo s = .next (s.put CMT_HRV_STATUS_GOREF 1) := by
  rw [execHarvestGo, State.reachReg_of_reaches _ hr]
  simp [effHarvestGo, hl, h]

/-- A GO that need not come from the root, or does. -/
theorem effHarvestGo_allowed (h : s.on CMT_HRV_CTRL_LOCAL = true ∨ s.on CMT_STATUS_ROOT = true) :
    (!s.on CMT_HRV_CTRL_LOCAL && !s.on CMT_STATUS_ROOT) = false := by
  rcases h with h | h <;> simp [h]

theorem execHarvestGo_pending (hr : s.reaches .host 0x10050 = true)
    (ha : s.on CMT_HRV_CTRL_LOCAL = true ∨ s.on CMT_STATUS_ROOT = true) (hp : s.on CMT_HRV_STATUS_PENDING = true) :
    execHarvestGo s = .next (s.put CMT_HRV_STATUS_GOREF 2) := by
  rw [execHarvestGo, State.reachReg_of_reaches _ hr]
  simp [effHarvestGo, effHarvestGo_allowed ha, hp]

theorem execHarvestGo_target (hr : s.reaches .host 0x10050 = true)
    (ha : s.on CMT_HRV_CTRL_LOCAL = true ∨ s.on CMT_STATUS_ROOT = true) (hp : s.on CMT_HRV_STATUS_PENDING = false)
    (h : s.gateOpen = false ∨ s.get64 CMT_HRV_TARGET_LO CMT_HRV_TARGET_HI < s.clk.gvc + s.harvestLead) :
    execHarvestGo s = .next (s.put CMT_HRV_STATUS_GOREF 3) := by
  have hrefused : (!s.gateOpen || decide (s.get64 CMT_HRV_TARGET_LO CMT_HRV_TARGET_HI < s.clk.gvc + s.harvestLead)) = true := by
    simpa using h
  rw [State.harvestLead] at hrefused
  rw [execHarvestGo, State.reachReg_of_reaches _ hr]
  simp [effHarvestGo, effHarvestGo_allowed ha, hp, hrefused]

theorem execHarvestGo_accepted (hr : s.reaches .host 0x10050 = true)
    (ha : s.on CMT_HRV_CTRL_LOCAL = true ∨ s.on CMT_STATUS_ROOT = true) (hp : s.on CMT_HRV_STATUS_PENDING = false)
    (hg : s.gateOpen = true) (ht : s.clk.gvc + s.harvestLead ≤ s.get64 CMT_HRV_TARGET_LO CMT_HRV_TARGET_HI) :
    execHarvestGo s = .next { s.put CMT_HRV_STATUS_PENDING 1 with
      cmt := if s.on CMT_HRV_CTRL_LOCAL then { s.cmt with hrvLocal := some (s.get64 CMT_HRV_TARGET_LO CMT_HRV_TARGET_HI) }
        else { s.cmt with hrvGroup := some (s.get64 CMT_HRV_TARGET_LO CMT_HRV_TARGET_HI), hrvSent := false } } := by
  have hlead : ¬ s.get64 CMT_HRV_TARGET_LO CMT_HRV_TARGET_HI < s.clk.gvc + s.harvestLead := Nat.not_lt.mpr ht
  rw [State.harvestLead] at hlead
  rw [execHarvestGo, State.reachReg_of_reaches _ hr]
  simp only [effHarvestGo, effHarvestGo_allowed ha, hp, hg, hlead]
  cases s.on CMT_HRV_CTRL_LOCAL <;> rfl

/-! ## HARVEST_CANCEL and HARVEST_HOLD (R92, R110) -/

/-- The harvests g and l are left pending. -/
def State.leavePending (s : State) (g l : Option Nat) : State :=
  { s with cmt := { s.cmt with hrvGroup := g, hrvLocal := l } }.put CMT_HRV_STATUS_PENDING (b2n (g.isSome || l.isSome))

theorem execHarvestCancel_of_reaches (hr : s.reaches .host 0x10050 = true) : execHarvestCancel s = .next (s.leavePending
    (if s.cmt.hrvSent then s.cmt.hrvGroup else none)
    (if s.cmt.hrvLocal.any fun t => decide (s.clk.gvc < t) then none else s.cmt.hrvLocal)) :=
  State.reachReg_of_reaches _ hr

theorem execHarvestHold_of_reaches (b : Bool) (hr : s.reaches .host 0x10050 = true) : execHarvestHold b s =
    .next { (s.put CMT_HRV_CTRL_HOLD (b2n b)).put CMT_HRV_STATUS_HELD (b2n b) with
      cmt := { s.cmt with hrvSwitch := !b && s.cmt.hrvNewer } } :=
  State.reachReg_of_reaches _ hr

end

/-! ## The window (R92, R93) -/

section
variable (s : State)

theorem State.switchWindow_shown :
    s.switchWindow.get CMT_HRV_STATUS_SHOWN = 1 - s.get CMT_HRV_STATUS_SHOWN := by
  have hshown : s.switchWindow.get CMT_HRV_STATUS_SHOWN =
      (s.put CMT_HRV_STATUS_SHOWN (1 - s.get CMT_HRV_STATUS_SHOWN)).get CMT_HRV_STATUS_SHOWN :=
    (State.get_put_ne _ _ (by decide)).trans (State.get_put64_ne _ _ (by decide) (by decide))
  rw [hshown, State.get_put_same]
  exact Nat.mod_eq_of_lt (Nat.lt_succ_of_le (Nat.sub_le 1 _))

theorem State.switchWindow_gvc : s.switchWindow.get64 CMT_HRV_GVC_LO CMT_HRV_GVC_HI =
    (if 1 - s.get CMT_HRV_STATUS_SHOWN = 0 then s.cmt.bank0.gvc else s.cmt.bank1.gvc) % 2 ^ 64 := by
  rw [← State.get64_put64 (s.put CMT_HRV_STATUS_SHOWN (1 - s.get CMT_HRV_STATUS_SHOWN)) _ rfl rfl rfl
    (show CMT_HRV_GVC_LO.id ≠ CMT_HRV_GVC_HI.id by decide), State.get64, State.get64]
  congr 2
  · exact State.get_put_ne _ _ (by decide)
  · exact State.get_put_ne _ _ (by decide)

theorem State.get_switchWindow (g : Field) (hs : g.id ≠ CMT_HRV_STATUS_SHOWN.id) (hlo : g.id ≠ CMT_HRV_GVC_LO.id)
    (hhi : g.id ≠ CMT_HRV_GVC_HI.id) (hseq : g.id ≠ CMT_HRV_SEQ.id) : s.switchWindow.get g = s.get g :=
  (State.get_put_ne _ _ hseq).trans ((State.get_put64_ne _ _ hlo hhi).trans (State.get_put_ne _ _ hs))

theorem State.switchWindow_hrvSeq : s.switchWindow.get CMT_HRV_SEQ = (s.get CMT_HRV_SEQ + 1) % 2 ^ 32 := by
  have hseq : ∀ g lo, ((s.put CMT_HRV_STATUS_SHOWN lo).put64 CMT_HRV_GVC_LO CMT_HRV_GVC_HI g).get CMT_HRV_SEQ = s.get CMT_HRV_SEQ :=
    fun g lo => (State.get_put64_ne _ _ (by decide) (by decide)).trans (State.get_put_ne _ _ (by decide))
  exact (State.get_put_same _ _ _).trans (congrArg (fun n => (n + 1) % 2 ^ 32) (hseq _ _))

end

/-- In the vector cycle after HOLD was cleared the window switches, where a newer harvest waits. -/
theorem State.advance_switches {s : State} (h : s.cmt.hrvSwitch = true) :
    (s.advance 1).cmt.hrvSwitch = false ∧
    ∀ g : Field, g.id ≠ FCL_MS_LO.id → g.id ≠ FCL_MS_HI.id → g.id ≠ CLK_WARM_S.id → (s.advance 1).get g = s.switchWindow.get g := by
  simp only [State.advance, h, Bool.true_and]
  refine ⟨State.passRc_hrvSwitch _ _, fun g hlo hhi hwarm => (State.regsBut_passRc _ _ g (by simp [hlo, hhi, hwarm])).trans ?_⟩
  rfl

/-! ## The request (R89, R91) -/

section
variable {s : State} {g : Gvc}

theorem execHarvestReceive_frozen (h : s.frozen = true) : execHarvestReceive g s = .next s := by
  simp [execHarvestReceive, h]

theorem execHarvestReceive_late (hf : s.frozen = false) (h : g.toNat ≤ s.clk.gvc ∨ s.gateOpen = false) : execHarvestReceive g s = .next
    ((({ s with tx := s.tx ++ s.down (.harvest g.toNat) } : State).put CMT_HRV_STATUS_MISSED 1).event srcCmtHrvMiss) := by
  rw [← State.sends_down]
  rcases h with h | h <;> simp [execHarvestReceive, hf, h]

theorem execHarvestReceive_pending (hf : s.frozen = false) (ht : s.clk.gvc < g.toNat) (hg : s.gateOpen = true) :
    execHarvestReceive g s = .next
      { ({ s with tx := s.tx ++ s.down (.harvest g.toNat) } : State).put CMT_HRV_STATUS_PENDING 1 with
        cmt := { s.cmt with hrvGroup := some g.toNat, hrvSent := true } } := by
  have hrun : (decide (g.toNat ≤ s.clk.gvc) || !s.gateOpen) = false := by simp [ht, hg]
  simp only [execHarvestReceive, hf, hrun, State.sends_down]
  rfl

end

/-! ## HARVEST_TAKE (R85, R92) -/

/-- Without a pending harvest neither target is the earlier one. -/
theorem execHarvestTake_none {s : State} (hg : s.cmt.hrvGroup = none) (hl : s.cmt.hrvLocal = none) : execHarvestTake s = .next s := by
  simp [execHarvestTake, hg, hl, earliest]

theorem execHarvestTake_early {s : State} {h : Nat} (he : earliest s.cmt.hrvGroup s.cmt.hrvLocal = some h)
    (hr : s.reach (h + 1) = none) : execHarvestTake s = .next s := by
  simp only [execHarvestTake, he, hr]

theorem execHarvestTake_takes {s u : State} {h : Nat} (he : earliest s.cmt.hrvGroup s.cmt.hrvLocal = some h)
    (hr : s.reach (h + 1) = some u) : execHarvestTake s = .next (u.takeHarvest h) := by
  simp only [execHarvestTake, he, hr]

theorem b2n_lt_two (b : Bool) : b2n b < 2 := by
  cases b <;> decide

/-- The harvest banks with the image of a harvest in the bank that the window does not show. -/
def State.harvested (u : State) (h : Nat) : CmtState :=
  if u.get CMT_HRV_STATUS_SHOWN = 0 then { u.cmt with bank1 := ⟨h, u.harvestImage⟩, hrvNewer := true }
  else { u.cmt with bank0 := ⟨h, u.harvestImage⟩, hrvNewer := true }

/-- The image has been taken, and the window has not switched yet. -/
def State.harvestTaken (u : State) (h : Nat) : State :=
  ({ u with cmt := { u.harvested h with
      hrvSwitch := false
      hrvGroup := if u.cmt.hrvGroup = some h then none else u.cmt.hrvGroup
      hrvLocal := if u.cmt.hrvLocal = some h then none else u.cmt.hrvLocal } } : State).harvestDone

theorem State.takeHarvest_eq (u : State) (h : Nat) : u.takeHarvest h =
    if u.on CMT_HRV_CTRL_HOLD then u.harvestTaken h else (u.harvestTaken h).switchWindow := rfl

section
variable (u : State) (h : Nat)

/-- The switch of the window moves registers and the note of a newer harvest alone. -/
theorem State.takeHarvest_bank0 : (u.takeHarvest h).cmt.bank0 = (u.harvested h).bank0 := by
  rw [State.takeHarvest_eq]
  split <;> rfl

theorem State.takeHarvest_bank1 : (u.takeHarvest h).cmt.bank1 = (u.harvested h).bank1 := by
  rw [State.takeHarvest_eq]
  split <;> rfl

theorem State.takeHarvest_group :
    (u.takeHarvest h).cmt.hrvGroup = if u.cmt.hrvGroup = some h then none else u.cmt.hrvGroup := by
  rw [State.takeHarvest_eq]
  split <;> rfl

theorem State.takeHarvest_local :
    (u.takeHarvest h).cmt.hrvLocal = if u.cmt.hrvLocal = some h then none else u.cmt.hrvLocal := by
  rw [State.takeHarvest_eq]
  split <;> rfl

theorem State.takeHarvest_frame : u.takeHarvest h = { u with cells := (u.takeHarvest h).cells, cmt := (u.takeHarvest h).cmt } := by
  rw [State.takeHarvest_eq]
  split <;> rfl

theorem State.harvestTaken_get (g : Field) (hp : g.id ≠ CMT_HRV_STATUS_PENDING.id) : (u.harvestTaken h).get g = u.get g :=
  State.get_put_ne _ _ hp

theorem State.harvestTaken_pending : (u.harvestTaken h).get CMT_HRV_STATUS_PENDING =
    b2n ((u.harvestTaken h).cmt.hrvGroup.isSome || (u.harvestTaken h).cmt.hrvLocal.isSome) :=
  (State.get_put_same _ _ _).trans (Nat.mod_eq_of_lt (b2n_lt_two _))

theorem State.takeHarvest_pending : (u.takeHarvest h).get CMT_HRV_STATUS_PENDING =
    b2n ((u.takeHarvest h).cmt.hrvGroup.isSome || (u.takeHarvest h).cmt.hrvLocal.isSome) := by
  rw [State.takeHarvest_eq]
  split
  · exact u.harvestTaken_pending h
  · exact (State.get_switchWindow _ _ (by decide) (by decide) (by decide) (by decide)).trans (u.harvestTaken_pending h)

theorem State.harvested_hides1 (hs : u.get CMT_HRV_STATUS_SHOWN = 0) :
    (u.harvested h).bank1 = ⟨h, u.harvestImage⟩ ∧ (u.harvested h).bank0 = u.cmt.bank0 := by
  rw [State.harvested, if_pos hs]
  exact ⟨rfl, rfl⟩

theorem State.harvested_hides0 (hs : u.get CMT_HRV_STATUS_SHOWN = 1) :
    (u.harvested h).bank0 = ⟨h, u.harvestImage⟩ ∧ (u.harvested h).bank1 = u.cmt.bank1 := by
  rw [State.harvested, if_neg (hs ▸ Nat.one_ne_zero)]
  exact ⟨rfl, rfl⟩

/-- The bank that the window switches to holds the harvest. -/
theorem State.harvestTaken_shows (hs : u.get CMT_HRV_STATUS_SHOWN ≤ 1) : (if 1 - u.get CMT_HRV_STATUS_SHOWN = 0 then
    (u.harvestTaken h).cmt.bank0.gvc else (u.harvestTaken h).cmt.bank1.gvc) = h := by
  rcases Nat.le_one_iff_eq_zero_or_eq_one.mp hs with h0 | h1
  · rw [h0]
    exact congrArg HarvestBank.gvc (u.harvested_hides1 h h0).1
  · rw [h1]
    exact congrArg HarvestBank.gvc (u.harvested_hides0 h h1).1

theorem State.takeHarvest_held (hh : u.on CMT_HRV_CTRL_HOLD = true) :
    (u.takeHarvest h).get CMT_HRV_STATUS_SHOWN = u.get CMT_HRV_STATUS_SHOWN ∧ (u.takeHarvest h).get CMT_HRV_SEQ = u.get CMT_HRV_SEQ := by
  rw [State.takeHarvest_eq, if_pos hh]
  exact ⟨u.harvestTaken_get h _ (by decide), u.harvestTaken_get h _ (by decide)⟩

theorem State.takeHarvest_switches (hh : u.on CMT_HRV_CTRL_HOLD = false) (hs : u.get CMT_HRV_STATUS_SHOWN ≤ 1) :
    (u.takeHarvest h).get CMT_HRV_STATUS_SHOWN = 1 - u.get CMT_HRV_STATUS_SHOWN ∧
    (u.takeHarvest h).get64 CMT_HRV_GVC_LO CMT_HRV_GVC_HI = h % 2 ^ 64 ∧
    (u.takeHarvest h).get CMT_HRV_SEQ = (u.get CMT_HRV_SEQ + 1) % 2 ^ 32 := by
  have hshown := u.harvestTaken_get h CMT_HRV_STATUS_SHOWN (by decide)
  rw [State.takeHarvest_eq, if_neg (by simp [hh]), State.switchWindow_shown, State.switchWindow_gvc,
    State.switchWindow_hrvSeq, hshown, u.harvestTaken_shows h hs, u.harvestTaken_get h CMT_HRV_SEQ (by decide)]
  exact ⟨rfl, rfl, rfl⟩

end

end Sys2Proof.Machine

namespace Sys2Proof.Proofs

open Sys2Proof.Machine

/-- Settles O10: a GO by its tests in order, then what each command leaves; a take writes the bank that is not shown, so the bank that the window
switches to is the one just taken. -/
theorem harvest : Obligations.Harvest := by
  unfold Obligations.Harvest
  refine ⟨?go, ?cancel, fun s b => execHarvestHold_of_reaches b, ?switch, ?receive, fun s => rfl, ?take⟩
  case go =>
    rintro s alone target lead hr rfl rfl rfl
    refine ⟨execHarvestGo_notRoot hr, fun ha => ⟨execHarvestGo_pending hr ha, execHarvestGo_target hr ha, fun hp hg ht => ?_⟩⟩
    rw [exec_harvestGo, execHarvestGo_accepted hr ha hp hg ht]
    exact ⟨fun hl => by rw [if_pos hl], fun hl => by rw [hl]; rfl⟩
  case cancel =>
    rintro s g l hr rfl hnone hahead hpast
    have hl : l = if s.cmt.hrvLocal.any fun h => decide (s.clk.gvc < h) then none else s.cmt.hrvLocal := by
      cases hlocal : s.cmt.hrvLocal with
      | none => simpa using hnone hlocal
      | some h =>
        by_cases hc : s.clk.gvc < h
        · simpa [hc] using hahead h hlocal hc
        · simpa [hc] using hpast h hlocal (Nat.not_lt.mp hc)
    rw [exec_harvestCancel, execHarvestCancel_of_reaches hr, ← hl]
    rfl
  case switch =>
    intro s hsw hreset hg hrun hrel _
    obtain ⟨hdone, hregs⟩ := State.advance_switches (s := s.drain) hsw
    rw [State.tick_oneCycle hreset hg hrun hrel, hregs _ (by decide) (by decide) (by decide),
      hregs _ (by decide) (by decide) (by decide)]
    exact ⟨s.drain.switchWindow_shown, s.drain.switchWindow_hrvSeq, hdone⟩
  case receive =>
    refine fun s s1 g => ⟨execHarvestReceive_frozen, ?_⟩
    rintro hf rfl
    exact ⟨execHarvestReceive_late hf, execHarvestReceive_pending hf⟩
  case take =>
    refine fun s => ⟨execHarvestTake_none, fun h => execHarvestTake_early, ?_⟩
    rintro h u b he hr rfl
    refine completes_of_eq (execHarvestTake_takes he hr) ⟨?_, ?_, u.takeHarvest_group h, u.takeHarvest_local h, u.takeHarvest_pending h,
      u.takeHarvest_held h, u.takeHarvest_switches h, u.takeHarvest_frame h⟩
    · rw [State.takeHarvest_bank0, State.takeHarvest_bank1]
      exact u.harvested_hides1 h
    · rw [State.takeHarvest_bank0, State.takeHarvest_bank1]
      exact u.harvested_hides0 h

end Sys2Proof.Proofs
end

