-- ==== Sys2Proof/Proofs/GateClose.lean ====
section
/-! SUPPORT. What a closing VCLK gate does, operation by operation: the sequencer, which no operation of the time-interval units, of the
queues or of time touches, and the registers of the gate and of synchronisation. -/

namespace Sys2Proof.Machine

/-! ## Folds -/

/-- What each step of a fold keeps, the fold keeps. -/
theorem foldl_keeps {α β γ : Type} (P : α → γ) {f : α → β → α} (h : ∀ a b, P (f a b) = P a) (l : List β) (a : α) :
    P (l.foldl f a) = P a := by
  induction l generalizing a with
  | nil => rfl
  | cons b l ih => rw [List.foldl_cons, ih, h]

/-! ## What leaves the sequencer alone -/

section
variable (s : State)

@[simp] theorem State.free_seq : s.free.2.seq = s.seq := rfl
@[simp] theorem State.setTiu_seq (n : Nat) (u : TiuUnit) : (s.setTiu n u).seq = s.seq := rfl
@[simp] theorem State.tiuArmUnit_seq (n : Nat) : (s.tiuArmUnit n).seq = s.seq := rfl
@[simp] theorem State.setBucket_seq : s.setBucket.seq = s.seq := State.put_seq s _ _
@[simp] theorem State.setDecl_seq (mw : Nat) : (s.setDecl mw).seq = s.seq := State.setBucket_seq _
@[simp] theorem State.recordCause_seq (sites bit : Nat) : (s.recordCause sites bit).seq = s.seq := rfl
@[simp] theorem State.recordAll_seq (bit : Nat) : (s.recordAll bit).seq = s.seq := rfl
@[simp] theorem State.setHeads_running : s.setHeads.seq.running = s.seq.running := rfl

@[simp] theorem State.enq_seq (q : Nat) (bytes : List (BitVec 8)) : (s.enq q bytes).seq = s.seq := by
  simp only [State.enq, State.enqueue]
  split
  · rfl
  · split <;> rfl

@[simp] theorem State.tiuPost_seq (n e : Nat) (u : TiuUnit) : (s.tiuPost n e u).seq = s.seq := by
  unfold State.tiuPost
  apply foldl_keeps
  simp

@[simp] theorem State.tiuRecords_seq (n e : Nat) (u : TiuUnit) : (s.tiuRecords n e u).seq = s.seq := by
  unfold State.tiuRecords
  split
  · exact foldl_keeps State.seq (fun t _ => t.enq_seq _ _) _ _
  · rfl

@[simp] theorem State.tiuEnd_seq (n e : Nat) : (s.tiuEnd n e).seq = s.seq := by
  unfold State.tiuEnd
  split
  · rfl
  · cases he : (s.tiuUnit n).e0 <;> simp [he, apply_ite State.seq]

@[simp] theorem State.tiuFree_seq (n : Nat) : (s.tiuFree n).seq = s.seq := by simp [State.tiuFree]

@[simp] theorem State.tiuFreeClaim_seq (mask : Nat) : (s.tiuFreeClaim mask).seq = s.seq := by
  unfold State.tiuFreeClaim
  apply foldl_keeps
  intro t n
  simp [apply_ite State.seq]

@[simp] theorem State.tiuLeave_seq (mask last : Nat) : (s.tiuLeave mask last).seq = s.seq := by
  unfold State.tiuLeave
  split
  · rfl
  · exact s.tiuFreeClaim_seq mask

@[simp] theorem State.tiuLeaveNow_seq : s.tiuLeaveNow.seq = s.seq := by
  unfold State.tiuLeaveNow
  exact (foldl_keeps State.seq (by simp) _ _).trans rfl

@[simp] theorem State.freezeRing_seq : s.freezeRing.seq = s.seq := by
  unfold State.freezeRing
  dsimp only
  split <;> rfl

@[simp] theorem State.freezeShort_seq : s.freezeShort.seq = s.seq := by
  unfold State.freezeShort
  split <;> simp

@[simp] theorem State.unstampChains_seq : s.unstampChains.seq = s.seq := by
  unfold State.unstampChains
  apply foldl_keeps
  simp

@[simp] theorem State.missHarvest_seq : s.missHarvest.seq = s.seq := by
  unfold State.missHarvest
  split <;> rfl

/-! ## What keeps the running playlist -/

@[simp] theorem State.cwaitOutcome_running (r : Option Nat) : (s.cwaitOutcome r).seq.running = s.seq.running := by
  unfold State.cwaitOutcome
  split <;> rfl

@[simp] theorem State.loseCommit_running : s.loseCommit.seq.running = s.seq.running := by
  unfold State.loseCommit
  split
  · rfl
  · simp [State.dropCommit]

@[simp] theorem State.passTo_running (g : Nat) : (s.passTo g).seq.running = s.seq.running := by
  unfold State.passTo
  split
  · exact s.advance_running _
  · rfl

theorem State.passReleases_running (g : Nat) (l : List (Nat × Nat)) :
    (State.passReleases g l s).seq.running = s.seq.running := by
  induction l generalizing s with
  | nil => exact s.passTo_running g
  | cons e l ih =>
    rw [State.passReleases]
    split
    · rw [ih]; simp
    · exact s.passTo_running g

@[simp] theorem State.toBoundary_running : s.toBoundary.seq.running = s.seq.running := by
  unfold State.toBoundary State.advanceTo
  split
  · split
    · exact s.passReleases_running _ _
    · rfl
  · rfl

@[simp] theorem State.refusePlaylist_running (code : Nat) : (s.refusePlaylist code).seq.running = s.seq.running := by
  unfold State.refusePlaylist
  cases s.seq.queued <;> simp [State.reportRefusal, apply_ite State.seq]

/-- After its end no playlist runs, whatever the reason. -/
theorem State.endPlaylist_running (reason : Nat) : (s.endPlaylist reason).seq.running = none := by
  unfold State.endPlaylist
  split
  · assumption
  · simp [apply_ite State.seq, apply_ite SeqState.running]

/-! ## Registers that a closing gate leaves -/

/-- The start stamps of the filter chains lie above every register of the clock and of the commit unit (R472). -/
theorem State.get_unstampChains {g : Field} (h : g.off < 0x340000) (hlo : g.lo < 32) : s.unstampChains.get g = s.get g := by
  unfold State.unstampChains
  apply foldl_keeps (fun t : State => t.get g)
  intro t e
  apply State.get_put64_ne <;>
  · simp only [Field.id, DFC_START_GVC_LO, DFC_START_GVC_HI]
    omega

theorem State.get_freezeRing {g : Field} (hf : g.id ≠ CAP_STATUS_FROZEN.id) (hh : g.id ≠ CAP_STATUS_HOLE.id) :
    s.freezeRing.get g = s.get g := by
  unfold State.freezeRing
  dsimp only
  split
  · rw [State.get_put_ne _ _ hh, State.get_put_ne _ _ hf]
  · exact State.get_put_ne _ _ hf

theorem State.get_freezeShort {g : Field} (hf : g.id ≠ CAP_STATUS_FROZEN.id) (hh : g.id ≠ CAP_STATUS_HOLE.id)
    (hs : g.id ≠ CAP_STATUS_SHORTPOST.id) : s.freezeShort.get g = s.get g := by
  unfold State.freezeShort
  split
  · rw [State.get_put_ne _ _ hs, s.get_freezeRing hf hh]
  · rfl

/-! ## The gate closes (R128) -/

theorem State.closeGate_closed (h : s.gateOpen = false) : s.closeGate = s.loseInsync := by
  simp [State.closeGate, h]

/-- The registers and the sequencer as a gate that was open leaves them when it closes. -/
def State.gateShut : State :=
  (((((s.recordAll 10).endPlaylist 0xD).tiuLeaveNow.loseCommit.missHarvest).put CMT_STATUS_INSYNC 0).put CLK_STATUS_GATE 0).unstampChains

/-- Beside them only the lands change, and the capture ring may freeze. -/
theorem State.closeGate_open (h : s.gateOpen = true) : ∃ l : LandState,
    s.closeGate = { s.gateShut with land := l, seq := { s.gateShut.seq with act := none } } ∨
    s.closeGate = ({ s.gateShut with land := l, seq := { s.gateShut.seq with act := none } } : State).freezeShort := by
  simp only [State.closeGate, h]
  split
  · contradiction
  · split
    · exact ⟨_, .inr rfl⟩
    · exact ⟨_, .inl rfl⟩

theorem State.gateShut_gate : s.gateShut.gateOpen = false := by
  rw [State.gateOpen, State.on_false, State.gateShut, State.get_unstampChains _ (by decide) (by decide)]
  exact State.get_put_same _ _ _

theorem State.gateShut_insync : s.gateShut.insync = false := by
  rw [State.insync, State.on_false, State.gateShut, State.get_unstampChains _ (by decide) (by decide),
    State.get_put_ne _ _ (by decide)]
  exact State.get_put_same _ _ _

theorem State.gateShut_running : s.gateShut.seq.running = none := by
  simp [State.gateShut, State.endPlaylist_running]

/-! ## A closed gate leaves synchronisation (R60, R128) -/

theorem State.loseInsync_gate : s.loseInsync.gateOpen = s.gateOpen := by
  unfold State.loseInsync
  split
  · simp only [State.gateOpen, State.on]
    rw [State.get_unstampChains _ (by decide) (by decide), State.get_put_ne _ _ (by decide)]
    rfl
  · rfl

theorem State.loseInsync_insync : s.loseInsync.insync = false := by
  unfold State.loseInsync
  split
  · rw [State.insync, State.on_false, State.get_unstampChains _ (by decide) (by decide)]
    exact State.get_put_same _ _ _
  · next h => simpa using h

theorem State.closeGate_gate : s.closeGate.gateOpen = false := by
  cases h : s.gateOpen with
  | false => rw [s.closeGate_closed h, State.loseInsync_gate, h]
  | true =>
    have hshut : s.gateShut.on CLK_STATUS_GATE = false := s.gateShut_gate
    obtain ⟨l, h | h⟩ := s.closeGate_open h
    · rw [h]; exact hshut
    · rw [h, State.gateOpen, State.on, State.get_freezeShort _ (by decide) (by decide) (by decide)]
      exact hshut

theorem State.closeGate_insync : s.closeGate.insync = false := by
  cases h : s.gateOpen with
  | false => rw [s.closeGate_closed h, State.loseInsync_insync]
  | true =>
    have hshut : s.gateShut.on CMT_STATUS_INSYNC = false := s.gateShut_insync
    obtain ⟨l, h | h⟩ := s.closeGate_open h
    · rw [h]; exact hshut
    · rw [h, State.insync, State.on, State.get_freezeShort _ (by decide) (by decide) (by decide)]
      exact hshut

theorem State.closeGate_running (h : s.gateOpen = true) : s.closeGate.seq.running = none := by
  obtain ⟨l, h | h⟩ := s.closeGate_open h
  · rw [h]; exact s.gateShut_running
  · rw [h, State.freezeShort_seq]; exact s.gateShut_running

end

end Sys2Proof.Machine
end

