-- ==== Sys2Proof/Proofs/ReferenceAndLock.lean ====
section
/-! SUPPORT. Relocks, the opening of the gate and the reference; then the statement on REFCLK, the oven, relocks and the VCLK gate. -/

namespace Sys2Proof.Machine

/-! ## Relocks (R122, R123, R125, R277) -/

section
variable (s : State)

theorem State.startRelock_invalid {s : State} {v : VSet} (h : v.valid = false) : s.startRelock v = s.put CLK_STATUS_CFGERR 1 := by
  simp [State.startRelock, h]

/-- The registers and the gate as the beginning of a relock leaves them. -/
def State.relockShown : State :=
  (((s.closeGate.put CLK_STATUS_LOCKED 0).put CLK_STATUS_CFGERR 0).put PTF_STATUS_REVAL 1).put LVL_STATUS_REVAL 1

theorem State.startRelock_valid {s : State} {v : VSet} (h : v.valid = true) : s.startRelock v =
    { s.relockShown with clk := { s.relockShown.clk with vset := v, relocking := true, phase := 0 } } := by
  simp only [State.startRelock, h]
  rfl

/-- A check of the stream rates writes RATEERR alone. -/
theorem State.get_strRecheck {g : Field} (h : ∀ n, g.id ≠ (SEG_STR_STATUS_RATEERR n).id) : s.strRecheck.get g = s.get g := by
  unfold State.strRecheck
  split
  · apply foldl_keeps (fun t : State => t.get g)
    intro t n
    dsimp only
    split
    · exact State.get_put_ne t 1 (h n)
    · rfl
  · rfl

@[simp] theorem State.strRecheck_clk : s.strRecheck.clk = s.clk := by
  unfold State.strRecheck
  split
  · apply foldl_keeps
    intro t n
    dsimp only
    split <;> rfl
  · rfl

/-- RATEERR lies above the registers of the clock. -/
theorem Field.ne_rateErr {g : Field} (ho : g.off < 0x100400) (hl : g.lo < 32) (n : Nat) : g.id ≠ (SEG_STR_STATUS_RATEERR n).id := by
  simp only [Field.id, SEG_STR_STATUS_RATEERR]
  omega

theorem State.get_revalidated {g : Field} (bad : List Nat) (hp : g.id ≠ PTF_STATUS_REVAL.id) (hl : g.id ≠ LVL_STATUS_REVAL.id) :
    (s.revalidated bad).get g = s.get g :=
  (State.get_put_ne (s.put PTF_STATUS_REVAL 0) 0 hl).trans (State.get_put_ne s 0 hp)

/-- A lock that has held ends the revalidation, where one runs. -/
def State.revalEnded : State := if s.on PTF_STATUS_REVAL then s.revalidated [] else s

theorem State.get_revalEnded {g : Field} (hp : g.id ≠ PTF_STATUS_REVAL.id) (hl : g.id ≠ LVL_STATUS_REVAL.id) :
    s.revalEnded.get g = s.get g := by
  unfold State.revalEnded
  split
  · exact s.get_revalidated [] hp hl
  · rfl

@[simp] theorem State.revalEnded_clk : s.revalEnded.clk = s.clk := by
  unfold State.revalEnded
  split <;> rfl

/-- A field reads from the cells, and not from the clock's own state. -/
theorem State.get_withClk (c : ClkState) (g : Field) : ({ s with clk := c } : State).get g = s.get g := rfl

/-- The registers and the streams as a lock that has held leaves them. -/
def State.lockShown : State := ((s.revalEnded.put CLK_STATUS_LOCKED 1).inc CLK_NRELOCK).strRecheck

theorem State.relocked_eq : s.relocked = { s.lockShown with clk := { s.lockShown.clk with relocking := false } } := by
  unfold State.relocked State.lockShown State.revalEnded
  with_reducible rfl

theorem State.relocked_clk : s.relocked.clk = { s.clk with relocking := false } := by
  rw [State.relocked_eq, State.lockShown, State.strRecheck_clk, State.inc_clk, State.put_clk, State.revalEnded_clk]

theorem State.relocked_get (g : Field) : s.relocked.get g = s.lockShown.get g := by
  rw [State.relocked_eq, State.get_withClk]

theorem State.relocked_locked : s.relocked.on CLK_STATUS_LOCKED = true := by
  rw [State.on_true, State.relocked_get, State.lockShown, State.get_strRecheck _ (Field.ne_rateErr (by decide) (by decide)), State.inc_eq,
    State.get_put_ne _ _ (by decide), State.get_put_same]
  decide

theorem State.relocked_count : s.relocked.get CLK_NRELOCK = (s.get CLK_NRELOCK + 1) % 2 ^ 32 := by
  rw [State.relocked_get, State.lockShown, State.get_strRecheck _ (Field.ne_rateErr (by decide) (by decide)), State.inc_eq, State.get_put_same,
    State.get_put_ne _ _ (by decide), State.get_revalEnded _ (by decide) (by decide)]
  rfl

end

/-! ## The gate opens (R125, R151) -/

theorem State.openGate_gate (s : State) (g : Nat) : (s.openGate g).gateOpen = true := by
  rw [State.gateOpen, State.on_true, State.openGate, State.get_put_same]
  decide

theorem State.openGate_clk (s : State) (g : Nat) : (s.openGate g).clk = s.clk := rfl

section
variable {s : State}

theorem execGateOpen_idle (h : s.gateOpen = true ∨ s.clk.startMsg.isSome = true ∨ s.frozen = true ∨ s.on CLK_STATUS_REFLOST = true ∨
    s.clk.relocking = false ∧ s.on CLK_STATUS_LOCKED = false) : execGateOpen s = .next s := by
  have hidle : (s.gateOpen || s.clk.startMsg.isSome || s.frozen || s.on CLK_STATUS_REFLOST ||
      !(s.clk.relocking || s.on CLK_STATUS_LOCKED)) = true := by
    simpa [or_assoc] using h
  rw [execGateOpen, if_pos hidle]

theorem execGateOpen_locked (hg : s.gateOpen = false) (hm : s.clk.startMsg = none) (hf : s.frozen = false)
    (hr : s.on CLK_STATUS_REFLOST = false) (hl : s.clk.relocking = true ∨ s.on CLK_STATUS_LOCKED = true) {u : State}
    (hu : u = if s.clk.relocking then s.relocked else s) :
    execGateOpen s = .next (if u.on CLK_CTRL_HOLD then u else (u.openGate (u.clk.gvc + 1)).toBudding) := by
  have hopens : (s.gateOpen || s.clk.startMsg.isSome || s.frozen || s.on CLK_STATUS_REFLOST ||
      !(s.clk.relocking || s.on CLK_STATUS_LOCKED)) = false := by
    rcases hl with h | h <;> simp [hg, hm, hf, hr, h]
  simp only [execGateOpen, hopens, ← hu]
  rfl

theorem execGateHold_of_reaches (hr : s.reaches .host 0x20000 = true) (b : Bool) :
    execGateHold b s = .next (if b then (s.put CLK_CTRL_HOLD 1).closeGate else s.put CLK_CTRL_HOLD 0) := by
  rw [execGateHold, State.reachReg_of_reaches _ hr]
  cases b <;> rfl

/-! ## The reference and the oven (R115 to R119) -/

theorem execRefLoss_lost (h : s.on CLK_STATUS_REFLOST = true) : execRefLoss s = .next s := by
  rw [execRefLoss, if_pos h]

theorem execRefLoss_here (h : s.on CLK_STATUS_REFLOST = false) {u : State}
    (hu : u = ((((s.put CLK_STATUS_REFLOST 1).put CLK_STATUS_AOSRC 1).closeGate.put CLK_STATUS_LOCKED 0).tiuEndAll 4).tiuCalDrop) :
    execRefLoss s = .next ((({ u with
      clk := { u.clk with relocking := false }
      cal := { u.cal with running := u.cal.running.map fun e => { e with refbad := e.refbad || u.timingPhase e } } } : State).setCond
        srcRefLoss true).event srcRefLoss) := by
  simp only [execRefLoss, h, ← hu]
  rfl

/-- REFCLK is qualified, before any relock. -/
def State.refQualified (s : State) : State :=
  let u : State := { s with cal := { s.cal with running := s.cal.running.map fun e =>
    if e.kind = 4 ∧ s.time.rc < e.began + 10000 then { e with refbad := false } else e } }
  { ((u.put CLK_STATUS_REFLOST 0).put CLK_STATUS_AOSRC 0).setCond srcRefLoss false with clk := { s.clk with refSeen := true } }

theorem execRefBack_idle (h : s.on CLK_STATUS_REFLOST = false) : execRefBack s = .next s := by
  rw [execRefBack, if_pos (by simp [h])]

theorem execRefBack_first (h : s.on CLK_STATUS_REFLOST = true) (hs : s.clk.refSeen = false) :
    execRefBack s = .next s.refQualified := by
  simp only [execRefBack, h, hs, Bool.and_eq_true, beq_iff_eq, decide_eq_true_eq]
  rfl

theorem execRefBack_again (h : s.on CLK_STATUS_REFLOST = true) (hs : s.clk.refSeen = true) : execRefBack s =
    .next (if (s.refQualified.event srcRefBack).on CLK_CTRL_AUTORELOCK then
      (s.refQualified.event srcRefBack).startRelock (s.refQualified.event srcRefBack).cfgSetting
      else s.refQualified.event srcRefBack) := by
  simp only [execRefBack, h, hs, Bool.and_eq_true, beq_iff_eq, decide_eq_true_eq]
  rfl

end

end Sys2Proof.Machine

namespace Sys2Proof.Proofs

open Sys2Proof.Machine

/-- Settles O17: each command by its cases; a closing gate ends the playlist and leaves CLK_STATUS.GATE and CMT_STATUS.INSYNC 0, because what
follows their writes touches only stamps and the capture ring. -/
theorem referenceAndLock : Obligations.ReferenceAndLock := by
  unfold Obligations.ReferenceAndLock
  refine ⟨fun s => ⟨execRefLoss_lost, fun h u => execRefLoss_here h⟩, ?back,
    fun s v => ⟨State.startRelock_invalid, ?begins⟩,
    fun s => ⟨s.closeGate_closed, s.closeGate_gate, s.closeGate_insync, s.closeGate_running⟩,
    ?oven, ?relock, ?reval, ?unlock, ?gateOpen,
    fun s g => ⟨s.openGate_gate g, s.openGate_clk g, s.relocked_locked, by rw [s.relocked_clk], s.relocked_count⟩,
    fun s hr => ⟨execGateHold_of_reaches hr false, execGateHold_of_reaches hr true⟩⟩
  case back =>
    rintro s u v rfl rfl
    exact ⟨execRefBack_idle, execRefBack_first, execRefBack_again⟩
  case begins =>
    rintro h u rfl
    exact State.startRelock_valid h
  case oven =>
    intro s
    refine ⟨fun h => ?_, fun h => ?_, fun h => ⟨?_, ?_⟩, fun h => ?_, fun h => ?_⟩
    · simp [execOvenOkRise, h]
    · simp [execOvenOkRise, h]
    · simp [execWarmupDone, h]
    · simp [execOvenLow, h]
    · simp [execWarmupDone, h]
    · simp [execOvenLow, h]
  case relock =>
    intro s hr
    rw [exec_relock, execRelock, State.reachReg_of_reaches _ hr]
    refine ⟨fun h => ?_, fun h hp => ?_⟩
    · rcases h with h | h <;> simp [effRelock, h]
    · simp [effRelock, h, hp]
  case reval =>
    intro s ts ls
    refine ⟨fun h => ?_, fun h => ?_⟩
    · simp [execRevalDone, h]
    · simp [execRevalDone, h, State.revalidated, offs]
  case unlock =>
    intro s
    refine ⟨fun h => ?_, ?_⟩
    · simp [execVclkUnlock, h]
    · intro h u hu
      refine ⟨fun hl => ?_, fun hl => ?_⟩
      · simp [execVclkUnlock, h, ← hu, hl]
      · simp [execVclkUnlock, h, ← hu, hl]
  case gateOpen =>
    intro s u hu
    refine ⟨execGateOpen_idle, fun hg hm hf hr hl => ⟨fun hh => ?_, fun hh => ?_⟩⟩
    · rw [exec_gateOpen, execGateOpen_locked hg hm hf hr hl hu, if_pos hh]
    · rw [exec_gateOpen, execGateOpen_locked hg hm hf hr hl hu, if_neg (by simp [hh])]

end Sys2Proof.Proofs
end

