-- ==== Sys2Proof/Proofs/GroupFormation.lean ====
section
/-! SUPPORT. The lowest free ID, the fold of writes that makes DET and the routes, and what a link's latency and H do to a device; then the
statement on the formation of a group. -/

namespace Sys2Proof.Machine

/-! ## The lowest free ID (R133) -/

/-- A list that holds every ID below n is at least n long. -/
theorem le_length_of_holds_below {n : Nat} {l : List Nat} (h : ∀ m < n, m ∈ l) : n ≤ l.length := by
  induction n generalizing l with
  | zero => exact Nat.zero_le _
  | succ n ih =>
    have hn : n ∈ l := h n (Nat.lt_succ_self n)
    have hrest : n ≤ (l.erase n).length :=
      ih fun m hm => (List.mem_erase_of_ne (Nat.ne_of_lt hm)).mpr (h m (Nat.lt_succ_of_lt hm))
    have hpos : 0 < l.length := List.length_pos_of_mem hn
    rw [List.length_erase_of_mem hn] at hrest
    omega

/-- Of one more ID than a list holds one is free, and the first that is found is the lowest. -/
theorem lowestFree_spec (l : List Nat) : lowestFree l ∉ l ∧ ∀ m, m < lowestFree l → m ∈ l := by
  unfold lowestFree
  cases hfind : (List.range (l.length + 1)).find? fun n => !l.contains n with
  | none =>
    have hall : ∀ m < l.length + 1, m ∈ l := fun m hm => by
      simpa only [Bool.not_eq_true', Bool.not_eq_false, List.contains_iff_mem] using
        List.find?_eq_none.mp hfind m (List.mem_range.mpr hm)
    exact absurd (le_length_of_holds_below hall) (Nat.not_succ_le_self _)
  | some n =>
    obtain ⟨hn, -, hlow⟩ := List.find?_range_eq_some.mp hfind
    exact ⟨by simpa using hn, fun m hm => by simpa using hlow m hm⟩

/-! ## Routes (R698, R715) -/

theorem LNK_ROUTE_id_ne {i j : Nat} (h : i ≠ j) : (LNK_ROUTE i).id ≠ (LNK_ROUTE j).id := by
  simp only [Field.id, LNK_ROUTE]
  omega

theorem LNK_AZ_STATUS_DET_id_ne {p q : Nat} (h : p ≠ q) : (LNK_AZ_STATUS_DET p).id ≠ (LNK_AZ_STATUS_DET q).id := by
  simp only [Field.id, LNK_AZ_STATUS_DET]
  omega

/-- After a fold that writes a family of fields one by one, a member reads as it was written. -/
theorem get_foldl_range_put (f : Nat → Field) (v : Nat → Nat) (hf : ∀ i j, i ≠ j → (f i).id ≠ (f j).id) {i k : Nat}
    (hi : i < k) (t : State) :
    ((List.range k).foldl (fun t i => t.put (f i) (v i)) t).get (f i) = v i % 2 ^ (f i).width := by
  induction k with
  | zero => simp at hi
  | succ k ih =>
    rw [List.range_succ, List.foldl_append, List.foldl_cons, List.foldl_nil]
    by_cases hk : i = k
    · rw [hk, State.get_put_same]
    · rw [State.get_put_ne _ _ (hf i k hk), ih (by omega)]

section
variable (s : State)

theorem State.setDet_on {p : Nat} (hp : p < 4) :
    s.setDet.on (LNK_AZ_STATUS_DET p) = (s.get CLK_DEPTH_UP == p || bitAt (s.get CLK_DEPTH_DOWN) p) := by
  have hget : s.setDet.get (LNK_AZ_STATUS_DET p) = b2n (s.get CLK_DEPTH_UP == p || bitAt (s.get CLK_DEPTH_DOWN) p) % 2 ^ 1 :=
    get_foldl_range_put LNK_AZ_STATUS_DET _ (fun _ _ => LNK_AZ_STATUS_DET_id_ne) hp s
  rw [State.on, hget]
  cases s.get CLK_DEPTH_UP == p || bitAt (s.get CLK_DEPTH_DOWN) p <;> rfl

theorem State.setRoutes_nil {i : Nat} (hi : i < 2048) : (s.setRoutes []).get (LNK_ROUTE i) = 0 := by
  rw [State.setRoutes, List.foldl_nil]
  exact (get_foldl_range_put LNK_ROUTE (fun _ => 0) (fun _ _ => LNK_ROUTE_id_ne) hi s).trans (Nat.zero_mod _)

/-- The route word of four members with the byte at bit sh replaced. -/
def routeWord (w sh p : Nat) : Nat := w - bits w sh 8 * 2 ^ sh + (0x80 + p) * 2 ^ sh

theorem State.setRoutes_concat (rs : List (BitVec 13 × Fin 4)) (n : BitVec 13) (p : Fin 4) : s.setRoutes (rs ++ [(n, p)]) =
    (s.setRoutes rs).put (LNK_ROUTE (n.toNat / 4)) (routeWord ((s.setRoutes rs).get (LNK_ROUTE (n.toNat / 4))) (8 * (n.toNat % 4)) p.val) := by
  simp only [State.setRoutes, List.foldl_append, List.foldl_cons, List.foldl_nil]
  rfl

theorem bits_routeWord {w k p : Nat} (hk : k < 4) (hp : p < 4) : bits (routeWord w (8 * k) p % 2 ^ 32) (8 * k) 8 = 0x80 + p := by
  simp only [routeWord, bits, Nat.shiftRight_eq_div_pow]
  obtain rfl | rfl | rfl | rfl : k = 0 ∨ k = 1 ∨ k = 2 ∨ k = 3 := by omega
  all_goals
    simp only [Nat.reduceMul, Nat.reducePow]
    omega

theorem State.setRoutes_written (rs : List (BitVec 13 × Fin 4)) (n : BitVec 13) (p : Fin 4) :
    bits ((s.setRoutes (rs ++ [(n, p)])).get (LNK_ROUTE (n.toNat / 4))) (8 * (n.toNat % 4)) 8 = 0x80 + p.val := by
  rw [State.setRoutes_concat, State.get_put_same]
  exact bits_routeWord (Nat.mod_lt _ (by decide)) p.isLt

theorem State.setRoutes_other (rs : List (BitVec 13 × Fin 4)) (n : BitVec 13) (p : Fin 4) {i : Nat} (h : i ≠ n.toNat / 4) :
    (s.setRoutes (rs ++ [(n, p)])).get (LNK_ROUTE i) = (s.setRoutes rs).get (LNK_ROUTE i) := by
  rw [State.setRoutes_concat, State.get_put_ne _ _ (LNK_ROUTE_id_ne h)]

end

/-! ## LINK_MEASURE and H_RECEIVE (R130, R131) -/

section
variable {s : State} {p : Fin 4} {raw : BitVec 16}

/-- The latency of a link as its registers show it. -/
def State.measured (s : State) (p : Fin 4) (raw : BitVec 16) : State :=
  ((s.put (CLK_HOPLAT_RAW p.val) raw.toNat).flag (CLK_HOPLAT_TREE p.val) (decide (raw.toNat ≤ 896))).flag
    (CLK_HOPLAT_TOOLONG p.val) (decide (896 < raw.toNat))

/-- What a measurement does, with the place in the tree that the device holds. -/
theorem execLinkMeasure_eq : execLinkMeasure p raw s =
    match s.clk.place with
    | some (q, _) => if q = p.val ∧ 896 < raw.toNat then
        .next { (s.measured p raw).put CLK_GRP_STATUS_FORMING 0 with clk := { s.clk with place := none } } else .next (s.measured p raw)
    | none => .next (s.measured p raw) := by
  have hlong : (!decide (raw.toNat ≤ 896)) = decide (896 < raw.toNat) := by simp only [← decide_not, Nat.not_le]
  simp only [execLinkMeasure, hlong, State.flag_clk, State.put_clk, Bool.and_eq_true, decide_eq_true_eq]
  rfl

theorem execLinkMeasure_stays (h : raw.toNat ≤ 896 ∨ s.clk.place.map (·.1) ≠ some p.val) :
    execLinkMeasure p raw s = .next (s.measured p raw) := by
  rw [execLinkMeasure_eq]
  cases hp : s.clk.place with
  | none => rfl
  | some e =>
    have hstays : ¬(e.1 = p.val ∧ 896 < raw.toNat) := by
      rw [hp] at h
      exact fun ⟨hq, hl⟩ => h.elim (fun hle => absurd hl (Nat.not_lt.mpr hle)) fun hne => hne (congrArg some hq)
    exact if_neg hstays

theorem execLinkMeasure_leaves (hl : 896 < raw.toNat) (h : s.clk.place.map (·.1) = some p.val) : execLinkMeasure p raw s =
    .next { (s.measured p raw).put CLK_GRP_STATUS_FORMING 0 with clk := { s.clk with place := none } } := by
  rw [execLinkMeasure_eq]
  cases hp : s.clk.place with
  | none => rw [hp] at h; exact absurd h (by simp)
  | some e =>
    rw [hp] at h
    exact if_pos ⟨Option.some.inj h, hl⟩

end

/-- A device's place in the tree with H = h and downstream links. -/
def State.placed (s : State) (h down : Nat) : State :=
  match s.clk.place with
  | some (q, d) => ((((s.put CMT_HOPS h).put CLK_DEPTH_DOWN down).put CLK_DEPTH_UP q).put CLK_DEPTH_D d).put CMT_STATUS_ROOT 0
  | none => ((((s.put CMT_HOPS h).put CLK_DEPTH_DOWN down).put CLK_DEPTH_UP 0xF).put CLK_DEPTH_D 0).put CMT_STATUS_ROOT 1

theorem execHReceive_eq (s : State) (h : Fin 9) (down : BitVec 4) : execHReceive h down s =
    .next (if down = 0 then s.placed h.val down.toNat else (s.placed h.val down.toNat).send (.hDepth h.val)) := by
  simp only [execHReceive, BitVec.toNat_eq]
  rfl

end Sys2Proof.Machine

namespace Sys2Proof.Proofs

open Sys2Proof.Machine

/-- Settles O18: each command by its cases; the routes are read off a fold of writes, in which a member's byte is the last one written to it. -/
theorem groupFormation : Obligations.GroupFormation := by
  unfold Obligations.GroupFormation
  refine ⟨?form, ?dissolve, ?discovery, ?measure, ?assign, lowestFree_spec, ?depth, fun s m => rfl, ?done,
    fun s => ⟨fun p => s.setDet_on, fun i => s.setRoutes_nil, fun rs n p =>
      ⟨s.setRoutes_written rs n p, fun i _ => s.setRoutes_other rs n p⟩⟩⟩
  case form =>
    intro s hr
    rw [exec_form, execForm, State.reachReg_of_reaches _ hr]
    refine ⟨fun h => ?_, ?_⟩
    · rcases h with h | ⟨h, hf⟩
      · simp [effForm, h]
      · simp [effForm, h, hf]
    · rintro h hs u rfl
      rcases hs with hs | hs <;> simp [effForm, h, hs]
  case dissolve =>
    refine fun s u => ⟨rfl, ?_⟩
    rintro rfl
    rfl
  case discovery =>
    intro s p d b
    refine ⟨fun h => by simp [execDiscoveryReceive, h], fun h => ⟨fun hout => ?_, ?_⟩⟩
    · rcases hout with hb | hd
      · simp [execDiscoveryReceive, h, hb]
      · simp [execDiscoveryReceive, h, hd]
    · rintro rfl hd u rfl
      simp [execDiscoveryReceive, h, Nat.not_lt.mpr hd]
  case measure =>
    rintro s u p raw rfl
    exact ⟨execLinkMeasure_stays, execLinkMeasure_leaves⟩
  case assign =>
    rintro s taken i rfl
    rfl
  case depth =>
    rintro s u h down rfl v hplace hroot
    rw [exec_hReceive, execHReceive_eq]
    have hv : s.placed h.val down.toNat = v := by
      cases hp : s.clk.place with
      | none => rw [hroot hp, State.placed, hp]
      | some e => rw [hplace e.1 e.2 hp, State.placed, hp]
    rw [hv]
  case done =>
    intro s u c n l rs tell
    refine ⟨fun h => by simp [execFormationDone, h], ?_⟩
    rintro h rfl rfl
    refine ⟨fun hr => ?_, fun hr => ⟨fun hc => ?_, fun hc hp => ?_, fun hc hp => ?_⟩⟩
    · simp [execFormationDone, h, hr]
    · simp [execFormationDone, h, hr, hc]
    · simp [execFormationDone, h, hr, hc, hp]
    · simp [execFormationDone, h, hr, hc, hp]

end Sys2Proof.Proofs
end

