-- ==== Sys2Proof/Proofs/GroupStartAndJoin.lean ====
section
/-! SUPPORT. The device at the vector boundary of a start or join, the opening of its gate there, and the refusals of START and JOIN; then
the statement on group start, join, hop slips and skew. -/

namespace Sys2Proof.Machine

/-! ## What a wait, a relock and the entry of BUDDING leave -/

section
variable (s : State)

@[simp] theorem State.passRc_startMsg (k : Nat) : (s.passRc k).clk.startMsg = s.clk.startMsg := by
  simp only [State.passRc]
  split <;> simp

theorem State.waitRc_startMsg (t : Nat) : (s.waitRc t).clk.startMsg = s.clk.startMsg := by
  unfold State.waitRc
  split
  · exact s.passRc_startMsg _
  · rfl

theorem State.get_waitRc (t : Nat) {g : Field} (h : ∀ f ∈ [FCL_MS_LO, FCL_MS_HI, CLK_WARM_S], g.id ≠ f.id) :
    (s.waitRc t).get g = s.get g := by
  unfold State.waitRc
  split
  · exact s.regsBut_passRc _ g h
  · rfl

theorem State.relocked_startMsg : s.relocked.clk.startMsg = s.clk.startMsg := by rw [State.relocked_clk]

theorem State.get_relocked {g : Field} (h : ∀ f ∈ [PTF_STATUS_REVAL, LVL_STATUS_REVAL, CLK_STATUS_LOCKED, CLK_NRELOCK], g.id ≠ f.id)
    (hr : ∀ n, g.id ≠ (SEG_STR_STATUS_RATEERR n).id) : s.relocked.get g = s.get g := by
  simp only [List.mem_cons, List.not_mem_nil, or_false, forall_eq_or_imp, forall_eq] at h
  obtain ⟨hptf, hlvl, hlocked, hcount⟩ := h
  rw [State.relocked_get, State.lockShown, State.get_strRecheck _ hr, State.inc_eq, State.get_put_ne _ _ hcount,
    State.get_put_ne _ _ hlocked, State.get_revalEnded _ hptf hlvl]

theorem State.toBudding_clk : s.toBudding.clk = s.clk := by
  simp only [State.toBudding, State.enterState]
  split
  · split <;> rfl
  · rfl

theorem State.get_toBudding {g : Field} (h : g.id ≠ PMG_STATUS_STATE.id) : s.toBudding.get g = s.get g := by
  simp only [State.toBudding, State.enterState]
  split
  · split
    · rfl
    · rw [State.get_raise, State.get_put_ne _ _ h]
  · rfl

theorem State.get_setCond (src : Nat) (on : Bool) (g : Field) : (s.setCond src on).get g = s.get g := rfl

end

/-! ## The gate of a start or a join opens (R139, R140, R151) -/

/-- The GVC, CLK_EPOCH and the phase of a vector boundary. -/
def State.atBoundary (s : State) (g epoch phase : Nat) : State :=
  { s with clk := { s.clk with gvc := g, epoch := epoch, phase := phase } }

theorem State.get_atBoundary (s : State) (g epoch phase : Nat) (f : Field) : (s.atBoundary g epoch phase).get f = s.get f := rfl

theorem State.atBoundary_gvc (s : State) (g epoch phase : Nat) : (s.atBoundary g epoch phase).clk.gvc = g := rfl

theorem State.atBoundary_startMsg (s : State) (g epoch phase : Nat) :
    (s.atBoundary g epoch phase).clk.startMsg = s.clk.startMsg := rfl

/-- The device has waited for the vector boundary of a start or join and is locked, its gate still closed: the GVC, CLK_EPOCH and the phase are
those of that boundary. -/
def State.aligned (s : State) (m : StartMsg) : State :=
  let v := s.clk.vset
  let rcs := ceilDiv (16384 * v.num) v.den * v.den
  (({ s with clk := { s.clk with startMsg := none } } : State).waitRc (m.ts + rcs / v.num)).relocked.atBoundary m.gvc
    (m.epoch + rcs / v.num) (rcs % v.num)

/-- The gate opens in sync at GVC g. -/
def State.gateInSync (s : State) (g : Nat) : State :=
  let t := ((s.openGate g).put CMT_STATUS_INSYNC 1).put CLK_GRP_STATUS_STARTED 1
  (({ t with clk := { t.clk with syncFrom := g } } : State).setCond srcTrellisDown false).toBudding

/-- The lock of a start or join has not held: its settings are unlocked, and the group counts as started. -/
def State.unsynced (s : State) (m : StartMsg) : State :=
  let u := ({ s with clk := { s.clk with startMsg := none } } : State).waitRc (m.ts + 16384)
  (({ u with clk := { u.clk with relocking := false } } : State).put CLK_GRP_STATUS_STARTED 1).event srcSyncFail

theorem State.openInSync_failed {s : State} {m : StartMsg} {held : Bool}
    (h : held = false ∨ m.good = false ∨ s.on CLK_STATUS_REFLOST = true) : s.openInSync m held =
      if (s.unsynced m).on CMT_STATUS_ROOT then (s.unsynced m).inc CLK_GRP_NOSYNC else (s.unsynced m).send .syncFail := by
  have hfailed : (!held || !m.good || s.on CLK_STATUS_REFLOST) = true := by simpa [or_assoc] using h
  unfold State.openInSync State.unsynced
  simp only [hfailed, if_true]

theorem State.openInSync_held {s : State} {m : StartMsg} (hm : m.good = true) (hr : s.on CLK_STATUS_REFLOST = false) :
    s.openInSync m true = if (s.aligned m).on CLK_CTRL_HOLD then (s.aligned m).put CLK_GRP_STATUS_STARTED 1
      else (s.aligned m).gateInSync m.gvc := by
  have hheld : (!true || !m.good || s.on CLK_STATUS_REFLOST) = false := by simp [hm, hr]
  unfold State.openInSync State.aligned State.atBoundary State.gateInSync
  simp only [hheld, Bool.false_eq_true, if_false]

section
variable (s : State) (m : StartMsg)

/-- The registers that neither the wait nor the lock writes. -/
theorem State.get_aligned {g : Field} (hw : ∀ f ∈ [FCL_MS_LO, FCL_MS_HI, CLK_WARM_S], g.id ≠ f.id)
    (hl : ∀ f ∈ [PTF_STATUS_REVAL, LVL_STATUS_REVAL, CLK_STATUS_LOCKED, CLK_NRELOCK], g.id ≠ f.id)
    (hr : ∀ n, g.id ≠ (SEG_STR_STATUS_RATEERR n).id) : (s.aligned m).get g = s.get g := by
  rw [State.aligned, State.get_atBoundary, State.get_relocked _ hl hr, State.get_waitRc _ _ hw, State.get_withClk]

theorem State.aligned_locked : (s.aligned m).on CLK_STATUS_LOCKED = true := by
  rw [State.on, State.aligned, State.get_atBoundary]
  exact State.relocked_locked _

theorem State.aligned_gvc : (s.aligned m).clk.gvc = m.gvc := by
  rw [State.aligned, State.atBoundary_gvc]

theorem State.aligned_startMsg : (s.aligned m).clk.startMsg = none := by
  rw [State.aligned, State.atBoundary_startMsg, State.relocked_startMsg, State.waitRc_startMsg]

theorem State.aligned_gate : (s.aligned m).gateOpen = s.gateOpen := by
  simp only [State.gateOpen, State.on]
  rw [s.get_aligned m (by decide) (by decide) (Field.ne_rateErr (by decide) (by decide))]

theorem State.aligned_insync : (s.aligned m).insync = s.insync := by
  simp only [State.insync, State.on]
  rw [s.get_aligned m (by decide) (by decide) (Field.ne_rateErr (by decide) (by decide))]

theorem State.aligned_hold : (s.aligned m).on CLK_CTRL_HOLD = s.on CLK_CTRL_HOLD := by
  simp only [State.on]
  rw [s.get_aligned m (by decide) (by decide) (Field.ne_rateErr (by decide) (by decide))]

end

section
variable (s : State) (g : Nat)

theorem State.gateInSync_gvc : (s.gateInSync g).clk.gvc = s.clk.gvc := by
  rw [State.gateInSync, State.toBudding_clk]
  rfl

theorem State.gateInSync_startMsg : (s.gateInSync g).clk.startMsg = s.clk.startMsg := by
  rw [State.gateInSync, State.toBudding_clk]
  rfl

theorem State.gateInSync_get {f : Field} (h : f.id ≠ PMG_STATUS_STATE.id) :
    (s.gateInSync g).get f = (((s.openGate g).put CMT_STATUS_INSYNC 1).put CLK_GRP_STATUS_STARTED 1).get f := by
  rw [State.gateInSync, State.get_toBudding _ h, State.get_setCond, State.get_withClk]

theorem State.gateInSync_started : (s.gateInSync g).get CLK_GRP_STATUS_STARTED = 1 := by
  rw [State.gateInSync_get _ _ (by decide), State.get_put_same]
  rfl

theorem State.gateInSync_insync : (s.gateInSync g).insync = true := by
  rw [State.insync, State.on_true, State.gateInSync_get _ _ (by decide), State.get_put_ne _ _ (by decide), State.get_put_same]
  decide

theorem State.gateInSync_gate : (s.gateInSync g).gateOpen = true := by
  have hopen : (s.openGate g).on CLK_STATUS_GATE = true := s.openGate_gate g
  rw [State.gateOpen, State.on, State.gateInSync_get _ _ (by decide), State.get_put_ne _ _ (by decide),
    State.get_put_ne _ _ (by decide)]
  exact hopen

/-- The lands alone and the gate change when the gate opens. -/
theorem State.get_openGate {f : Field} (h : f.id ≠ CLK_STATUS_GATE.id) : (s.openGate g).get f = s.get f := by
  rw [State.openGate, State.get_put_ne _ _ h]
  rfl

theorem State.gateInSync_locked : (s.gateInSync g).on CLK_STATUS_LOCKED = s.on CLK_STATUS_LOCKED := by
  rw [State.on, State.gateInSync_get _ _ (by decide), State.get_put_ne _ _ (by decide),
    State.get_put_ne _ _ (by decide), State.get_openGate _ _ (by decide)]
  rfl

end

/-- A start or join whose lock has held, HOLD keeping the gate closed or not. -/
theorem State.openInSync_opens {s : State} {m : StartMsg} (hm : m.good = true) (hr : s.on CLK_STATUS_REFLOST = false) :
    (s.openInSync m true).clk.gvc = m.gvc ∧ (s.openInSync m true).clk.startMsg = none ∧
    (s.openInSync m true).get CLK_GRP_STATUS_STARTED = 1 ∧ (s.openInSync m true).on CLK_STATUS_LOCKED = true ∧
    (s.on CLK_CTRL_HOLD = false → (s.openInSync m true).gateOpen = true ∧ (s.openInSync m true).insync = true) ∧
    (s.on CLK_CTRL_HOLD = true → (s.openInSync m true).gateOpen = s.gateOpen ∧ (s.openInSync m true).insync = s.insync) := by
  rw [State.openInSync_held hm hr, s.aligned_hold m]
  cases hh : s.on CLK_CTRL_HOLD with
  | true =>
    rw [if_pos rfl, State.put_clk]
    refine ⟨s.aligned_gvc m, s.aligned_startMsg m, State.get_put_same _ _ _, ?_, fun h => absurd h (by decide), fun _ => ⟨?_, ?_⟩⟩
    · exact (State.on_put_ne _ _ (by decide)).trans (s.aligned_locked m)
    · exact (State.on_put_ne _ _ (by decide)).trans (s.aligned_gate m)
    · exact (State.on_put_ne _ _ (by decide)).trans (s.aligned_insync m)
  | false =>
    rw [if_neg (by decide), State.gateInSync_gvc, State.gateInSync_startMsg]
    exact ⟨s.aligned_gvc m, s.aligned_startMsg m, State.gateInSync_started _ _,
      (State.gateInSync_locked _ _).trans (s.aligned_locked m),
      fun _ => ⟨State.gateInSync_gate _ _, State.gateInSync_insync _ _⟩, fun h => absurd h (by decide)⟩

/-! ## START and JOIN (R138, R139, R144, R145) -/

section
variable {s : State}

theorem State.groupStart_refused (h : s.on CLK_GRP_STATUS_FORMED = false ∨ s.startPending = true ∨ s.frozen = true ∨ s.inSafe = true) :
    s.groupStart = s.put CLK_GRP_STATUS_FAIL 4 := by
  have hrefused : (!s.on CLK_GRP_STATUS_FORMED || s.startPending || s.frozen || s.inSafe) = true := by simpa [or_assoc] using h
  rw [State.groupStart, if_pos hrefused]

theorem State.groupStart_accepted (hf : s.on CLK_GRP_STATUS_FORMED = true) (hp : s.startPending = false) (hz : s.frozen = false)
    (hs : s.inSafe = false) {u : State} (hu : u = if s.on CLK_DEPTH_DOWN then
      s.send (.start (64 * s.get CMT_HOPS) (s.get64 CLK_START_GVC_LO CLK_START_GVC_HI) s.vclkCfg (s.get CLK_VCLK_FRAC)) else s) :
    s.groupStart = ((u.put CLK_GRP_STATUS_STARTPEND 1).put CLK_GRP_NOSYNC 0).takeStart (64 * s.get CMT_HOPS + 64) 0
      (s.get64 CLK_START_GVC_LO CLK_START_GVC_HI) s.vclkCfg (s.get CLK_VCLK_FRAC) := by
  simp only [State.groupStart, hf, hp, hz, hs, Nat.add_sub_cancel, ← hu]
  rfl

theorem execStartReceive_ignored {l : BitVec 16} {g : Gvc} {c f : BitVec 32} (h : s.frozen = true ∨ s.on CMT_STATUS_ROOT = true) :
    execStartReceive l g c f s = .next s := by
  rcases h with h | h <;> simp [execStartReceive, h]

theorem execStartReceive_taken {l : BitVec 16} {g : Gvc} {c f : BitVec 32} (hz : s.frozen = false) (hr : s.on CMT_STATUS_ROOT = false)
    {u : State} (hu : u = if s.on CLK_DEPTH_DOWN then s.send (.start (l.toNat - 64) g.toNat c.toNat f.toNat) else s) :
    execStartReceive l g c f s = .next ((u.put CLK_GRP_STATUS_STARTPEND 1).takeStart l.toNat 0 g.toNat c.toNat f.toNat) := by
  simp only [execStartReceive, hz, hr, ← hu]
  rfl

/-! ## The rc of a start or a join (R139, R140, R144) -/

theorem execStartDividerReset_idle (h : s.clk.startMsg = none ∨ s.on CLK_GRP_STATUS_STARTPEND = false) :
    execStartDividerReset s = .next s := by
  unfold execStartDividerReset
  split
  · next m hm =>
    rcases h with h | h
    · exact absurd (hm.symm.trans h) (by simp)
    · rw [h]; rfl
  · rfl

theorem execStartDividerReset_pending {m : StartMsg} (hm : s.clk.startMsg = some m) (hp : s.on CLK_GRP_STATUS_STARTPEND = true) :
    execStartDividerReset s = .next (s.resetDividers m) := by
  simp only [execStartDividerReset, hm, hp, if_true]

variable {held : Bool}

theorem execGroupGateOpen_idle {n : BitVec 14} (h : s.clk.startMsg = none ∨ s.on CLK_GRP_STATUS_STARTPEND = false) :
    execGroupGateOpen held n s = .next s := by
  unfold execGroupGateOpen
  split
  · rfl
  · next m hm =>
    rcases h with h | h
    · exact absurd (hm.symm.trans h) (by simp)
    · rw [h]; rfl

theorem execGroupGateOpen_pending {n : BitVec 14} {m : StartMsg} (hm : s.clk.startMsg = some m)
    (hp : s.on CLK_GRP_STATUS_STARTPEND = true) : execGroupGateOpen held n s = .next
      (((if s.on CMT_STATUS_ROOT then s.put CLK_GRP_NOSYNC n.toNat else s).put CLK_GRP_STATUS_STARTPEND 0).openInSync m held) := by
  simp only [execGroupGateOpen, hm, hp, Bool.not_true, Bool.false_eq_true, if_false]

/-- A device that holds a message of a join is the joining one. -/
theorem execJoinAlign_device {m : StartMsg} (hm : s.clk.startMsg = some m) : execJoinAlign held s =
    .next (if s.on CLK_GRP_STATUS_STARTPEND then s else (s.resetDividers m).openInSync m held) := by
  simp only [execJoinAlign, hm, apply_ite Host.Outcome.next]

theorem execJoinAlign_early (hm : s.clk.startMsg = none)
    (h : s.clk.joinUntil = none ∨ ∃ t, s.clk.joinUntil = some t ∧ s.clk.epoch < t) : execJoinAlign held s = .next s := by
  rcases h with h | ⟨t, h, hlt⟩
  · simp [execJoinAlign, hm, h]
  · simp [execJoinAlign, hm, h, hlt]

theorem execJoinAlign_root (hm : s.clk.startMsg = none) {t : Nat} (ht : s.clk.joinUntil = some t) (hle : t ≤ s.clk.epoch) :
    execJoinAlign held s =
      .next { (if held then s else s.inc CLK_GRP_NOSYNC) with clk := { s.clk with joinUntil := none } } := by
  simp [execJoinAlign, hm, ht, Nat.not_lt.mpr hle]

variable {a b : Bool}

theorem execJoin_refused (hreach : s.reaches .host 0x20020 = true)
    (h : a = true ∨ b = true ∨ s.startPending = true ∨ s.on CMT_STATUS_ROOT = false ∨ s.insync = false) :
    execJoin a b s = .next (s.put CLK_GRP_STATUS_FAIL 5) := by
  have hrefused : (a || b || s.startPending || !s.on CMT_STATUS_ROOT || !s.insync) = true := by simpa [or_assoc] using h
  rw [execJoin, State.reachReg_of_reaches _ hreach, effJoin, if_pos hrefused]

theorem execJoin_accepted (hreach : s.reaches .host 0x20020 = true) (hp : s.startPending = false) (hr : s.on CMT_STATUS_ROOT = true)
    (hi : s.insync = true) {tj : Nat}
    (ht : tj = ceilDiv (s.clk.epoch + 64 * s.get CMT_HOPS + 64) s.clk.vset.align * s.clk.vset.align) :
    execJoin false false s = .next { s with
      clk := { s.clk with joinUntil := some (tj + 16384) }
      tx := s.tx ++ [.join (s.get CLK_JOIN) (tj - s.clk.epoch - 64) tj (s.gvcFrom (tj + 16384)) s.vclkCfg (s.get CLK_VCLK_FRAC)] } := by
  rw [execJoin, State.reachReg_of_reaches _ hreach]
  simp only [effJoin, hp, hr, hi, ← ht]
  rfl

end

end Sys2Proof.Machine

namespace Sys2Proof.Proofs

open Sys2Proof.Machine

/-- Settles O19: each command by its cases; a start or join whose lock has held is the state at its vector boundary, with the gate opened on it
unless HOLD keeps it closed. -/
theorem groupStartAndJoin : Obligations.GroupStartAndJoin := by
  unfold Obligations.GroupStartAndJoin
  refine ⟨fun s u => ⟨State.groupStart_refused, fun hf hp hz hs => State.groupStart_accepted hf hp hz hs,
      State.reachReg_of_reaches effGroupStart, ?syncIn⟩,
    fun s u l g c f => ⟨execStartReceive_ignored, fun hz hr => execStartReceive_taken hz hr⟩, ?takeStart, ?reset, ?gateOpen, ?failed,
    fun s m => State.openInSync_opens, ?join, ?joinReceive, ?joinAlign, fun s => ⟨rfl, rfl⟩, ?down, ?skew⟩
  case syncIn =>
    rw [exec_syncInStart, execSyncInStart, ← apply_ite Host.Outcome.next]
  case takeStart =>
    rintro s u l e g c f rfl
    rfl
  case reset =>
    refine fun s => ⟨execStartDividerReset_idle, fun m => execStartDividerReset_pending, ?_⟩
    rintro m u rfl
    rfl
  case gateOpen =>
    refine fun s held n => ⟨execGroupGateOpen_idle, ?_⟩
    rintro m u hm hp rfl
    exact execGroupGateOpen_pending hm hp
  case failed =>
    rintro s u m held h rfl v rfl
    exact State.openInSync_failed h
  case join =>
    refine fun s a b tj hreach => ⟨execJoin_refused hreach, ?_⟩
    rintro rfl rfl hp hr hi ht
    exact execJoin_accepted hreach hp hr hi ht
  case joinReceive =>
    intro s l e g c f
    rw [exec_joinReceive, execJoinReceive, ← apply_ite Host.Outcome.next]
  case joinAlign =>
    refine fun s b => ⟨fun m => execJoinAlign_device, fun hm => ⟨execJoinAlign_early hm, ?_⟩⟩
    rintro t ht hle u rfl
    exact execJoinAlign_root hm ht hle
  case down =>
    refine fun s h => ⟨?_, fun hup => ?_⟩
    · rintro ⟨rfl, hup⟩
      simp [execTrellisDown, hup]
    · rcases hup with rfl | hup
      · simp [execTrellisDown]
      · simp [execTrellisDown, hup]
  case skew =>
    refine fun s k => ⟨?_, fun hr hc => ?_⟩
    · rintro (h | h) <;> simp [execSyncSkew, h]
    · rw [exec_syncSkew, execSyncSkew]
      simp only [hr, hc, apply_ite Host.Outcome.next]
      rfl

end Sys2Proof.Proofs
end

