-- ==== Sys2Proof/Proofs/ControlStore.lean ====
section
/-! SUPPORT. How an image that fails its check counts as bad in the loader's counter, which has 19 bits; then the statement on the control
store, which this refutes. -/

namespace Sys2Proof.Machine

/-- No slot is locked while no playlist runs or is queued (R202). -/
theorem State.slotLocked_of_no_playlist {s : State} (hr : s.seq.running = none) (hq : s.seq.queued = none) (n : Nat) :
    s.slotLocked n = false := by
  simp [State.slotLocked, hr, hq]

theorem State.get_setSlot (s : State) (n : Nat) (v : Slot) (g : Field) : (s.setSlot n v).get g = s.get g := rfl

@[simp] theorem State.slot_setSlot_same (s : State) (n : Nat) (v : Slot) : (s.setSlot n v).slot n = v := by
  simp [State.slot, State.setSlot]

/-- A slot whose check bits are not those of its word is left invalid with REASON 1 (R197). -/
theorem State.writeSlot_checkFails {s : State} {n mw chk : Nat} (h : chk ≠ checkBits mw n) : s.writeSlot n mw chk =
    (((s.setSlot n ⟨mw, chk, false, 1, 0⟩).put SEQ_CS_STATUS_LASTREASON 1).put SEQ_CS_STATUS_CHKERR 1).event srcSeqCsWerr := by
  rw [State.writeSlot, if_pos h]

theorem State.writeSlot_checkFails_valid {s : State} {n mw chk : Nat} (h : chk ≠ checkBits mw n) :
    ((s.writeSlot n mw chk).slot n).valid = false := by
  rw [State.writeSlot_checkFails h]
  exact congrArg Slot.valid (s.slot_setSlot_same n _)

/-- Of the registers only SEQ_CS_STATUS shows it. -/
theorem State.get_writeSlot_checkFails {s : State} {n mw chk : Nat} {g : Field} (h : chk ≠ checkBits mw n)
    (hr : g.id ≠ SEQ_CS_STATUS_LASTREASON.id) (hc : g.id ≠ SEQ_CS_STATUS_CHKERR.id) : (s.writeSlot n mw chk).get g = s.get g := by
  rw [State.writeSlot_checkFails h, State.event_eq, State.get_raise, State.get_put_ne _ _ hc, State.get_put_ne _ _ hr, State.get_setSlot]

/-- An image that fails its check code counts as bad, modulo 2^19: the counter is no wider (R200, R207). -/
theorem State.loadImage_checkFails_bad {s : State} {n : Nat} {bs : List (BitVec 8)} (hl : s.slotLocked n = false) (hn : n < 262144)
    (h : ofBytes ((bs.drop 24).take 2) ≠ checkBits (ofBytes (bs.take 24)) n) :
    (s.loadImage (some bs) n).get SEQ_CSL_BAD = (s.get SEQ_CSL_BAD + 1) % 2 ^ 19 := by
  have hvalid := State.writeSlot_checkFails_valid (s := s) h
  simp only [State.loadImage, Nat.not_le.mpr hn, hl, hvalid]
  rw [State.inc_eq, State.get_put_ne _ _ (by decide)]
  refine (State.get_put_same _ _ _).trans ?_
  rw [State.get_writeSlot_checkFails h (by decide) (by decide)]
  rfl

/-- The loader's count of bad images stands at all ones. -/
def badImagesFull : State := State.reset.put SEQ_CSL_BAD (2 ^ 19 - 1)

theorem badImagesFull_bad : badImagesFull.get SEQ_CSL_BAD = 2 ^ 19 - 1 := State.get_put_same _ _ _

end Sys2Proof.Machine

namespace Sys2Proof.Proofs

open Sys2Proof.Machine

/-- Refutes O12: the clause on a bad image of the loader lets SEQ_CSL_BAD count modulo 2^32, but the field has 19 bits (R207). With the count
at all ones, an image of no bytes, whose check bits are 0xFFFF and not 0, leaves it at 0, where the clause asks for 2^19. -/
theorem not_controlStore : ¬ Obligations.ControlStore := by
  unfold Obligations.ControlStore
  rintro ⟨-, -, -, -, -, himage, -⟩
  have hlock : badImagesFull.slotLocked 0 = false := State.slotLocked_of_no_playlist rfl rfl 0
  have hcheck : ofBytes ((([] : List (BitVec 8)).drop 24).take 2) ≠ checkBits (ofBytes (([] : List (BitVec 8)).take 24)) 0 := by decide
  obtain ⟨-, hbad⟩ := (himage badImagesFull 0).2 hlock (by decide) []
  obtain ⟨hcount, -, -⟩ := hbad (.inl hcheck)
  rw [State.loadImage_checkFails_bad hlock (by decide) hcheck, badImagesFull_bad] at hcount
  exact absurd hcount (by decide)

end Sys2Proof.Proofs
end

