-- ==== Sys2Proof/Proofs/VectorIssue.lean ====
section
/-! SUPPORT. What the operations of a vector cycle leave alone until the issue itself: the place and the count of the word in issue, the
vectors on their way to the land, and the active bank; then what one issue adds. -/

namespace Sys2Proof.Machine

/-- What only the issue of a vector changes in its cycle: the slot and the vectors of the word in issue, the vectors between issue and take
point, and the active bank that a vector takes with it (R161, R168). -/
def State.unissued (s : State) : Nat × Nat × List Flight × Cells := (s.seq.cur, s.seq.vecs, s.land.flights, s.active)

section
variable (s : State)

@[simp] theorem State.put_unissued (f : Field) (v : Nat) : (s.put f v).unissued = s.unissued := rfl
@[simp] theorem State.inc_unissued (f : Field) : (s.inc f).unissued = s.unissued := rfl
@[simp] theorem State.incSat_unissued (f : Field) : (s.incSat f).unissued = s.unissued := rfl
@[simp] theorem State.put64_unissued (f g : Field) (v : Nat) : (s.put64 f g v).unissued = s.unissued := rfl
@[simp] theorem State.add64_unissued (f g : Field) (k : Nat) : (s.add64 f g k).unissued = s.unissued := rfl
@[simp] theorem State.raise_unissued (n a v : Nat) : (s.raise n a v).unissued = s.unissued := rfl
@[simp] theorem State.event_unissued (n : Nat) : (s.event n).unissued = s.unissued := rfl
@[simp] theorem State.free_unissued : s.free.2.unissued = s.unissued := rfl
@[simp] theorem State.recordCause_unissued (sites bit : Nat) : (s.recordCause sites bit).unissued = s.unissued := rfl
@[simp] theorem State.recordAll_unissued (bit : Nat) : (s.recordAll bit).unissued = s.unissued := rfl
@[simp] theorem State.setTiu_unissued (n : Nat) (u : TiuUnit) : (s.setTiu n u).unissued = s.unissued := rfl
@[simp] theorem State.tiuArmUnit_unissued (n : Nat) : (s.tiuArmUnit n).unissued = s.unissued := rfl
@[simp] theorem State.setGen_unissued (g : Nat) (v : Gen) : (s.setGen g v).unissued = s.unissued := by
  simp [State.setGen]
@[simp] theorem State.claimDenied_unissued (base : Nat) : (s.claimDenied base).unissued = s.unissued := rfl
@[simp] theorem State.openIntervals_unissued (sites untr tripped g num : Nat) :
    (s.openIntervals sites untr tripped g num).unissued = s.unissued := rfl

/-! ## Time passes (R58, R433) -/

@[simp] theorem State.enq_unissued (q : Nat) (bytes : List (BitVec 8)) : (s.enq q bytes).unissued = s.unissued := by
  simp only [State.enq, State.enqueue]
  split
  · rfl
  · split <;> rfl

@[simp] theorem State.tiuPost_unissued (n e : Nat) (u : TiuUnit) : (s.tiuPost n e u).unissued = s.unissued := by
  unfold State.tiuPost
  apply foldl_keeps
  simp

@[simp] theorem State.tiuRecords_unissued (n e : Nat) (u : TiuUnit) : (s.tiuRecords n e u).unissued = s.unissued := by
  unfold State.tiuRecords
  split
  · exact foldl_keeps State.unissued (fun t _ => t.enq_unissued _ _) _ _
  · rfl

@[simp] theorem State.tiuEnd_unissued (n e : Nat) : (s.tiuEnd n e).unissued = s.unissued := by
  unfold State.tiuEnd
  split
  · rfl
  · cases he : (s.tiuUnit n).e0 <;> simp [he, apply_ite State.unissued]

@[simp] theorem State.tiuFree_unissued (n : Nat) : (s.tiuFree n).unissued = s.unissued := by simp [State.tiuFree]

@[simp] theorem State.tiuFreeClaim_unissued (mask : Nat) : (s.tiuFreeClaim mask).unissued = s.unissued := by
  unfold State.tiuFreeClaim
  apply foldl_keeps
  intro t n
  simp [apply_ite State.unissued]

@[simp] theorem State.sendHarvest_unissued : s.sendHarvest.unissued = s.unissued := by
  rw [State.sendHarvest_eq]
  rfl

@[simp] theorem State.passRc_unissued (k : Nat) : (s.passRc k).unissued = s.unissued := by
  simp only [State.passRc]
  split
  · rfl
  · rw [State.sendHarvest_unissued]
    rfl

@[simp] theorem State.advance_unissued (n : Nat) : (s.advance n).unissued = s.unissued := by
  rw [State.advance, State.passRc_unissued]
  split <;> rfl

@[simp] theorem State.passTo_unissued (g : Nat) : (s.passTo g).unissued = s.unissued := by
  unfold State.passTo
  split
  · exact s.advance_unissued _
  · rfl

theorem State.passReleases_unissued (g : Nat) (l : List (Nat × Nat)) : (State.passReleases g l s).unissued = s.unissued := by
  induction l generalizing s with
  | nil => exact s.passTo_unissued g
  | cons e l ih =>
    rw [State.passReleases]
    split
    · rw [ih, State.tiuFreeClaim_unissued]
      exact s.passTo_unissued e.2
    · exact s.passTo_unissued g

@[simp] theorem State.advanceTo_unissued (g : Nat) : (s.advanceTo g).unissued = s.unissued := by
  unfold State.advanceTo
  split
  · exact s.passReleases_unissued g _
  · rfl

/-! ## The word's stream action (R181, R182) -/

@[simp] theorem State.strStand_unissued (n : Nat) (run : Bool) : (s.strStand n run).unissued = s.unissued := by
  unfold State.strStand
  split <;> rfl

@[simp] theorem State.standOne_unissued (n : Nat) (run : Bool) : (s.standOne n run).unissued = s.unissued := by
  simp [State.standOne, apply_ite State.unissued]

@[simp] theorem State.standAll_unissued (run : Bool) : (s.standAll run).unissued = s.unissued := by
  unfold State.standAll
  apply foldl_keeps
  intro t n
  simp [apply_ite State.unissued]

@[simp] theorem State.standWord_unissued (w : Nat) : (s.standWord w).unissued = s.unissued := by
  unfold State.standWord
  split
  · rfl
  · simp only [apply_ite State.unissued, State.standOne_unissued, State.standAll_unissued, ite_self]
    rfl

/-! ## The first vector of a playlist (R275, R293) -/

@[simp] theorem State.noteCapture_unissued (on : Bool) : (s.noteCapture on).unissued = s.unissued := by
  unfold State.noteCapture
  split <;> rfl

/-- That the first vector has issued, and what its start clears of the fails (R401, R410). -/
theorem State.started_unissued (fl : FailState) :
    ({ s with seq := { s.seq with started := true }, fail := fl } : State).unissued = s.unissued := rfl

@[simp] theorem State.firstVector_unissued (p : Playlist) (g : Nat) : (s.firstVector p g).unissued = s.unissued := by
  unfold State.firstVector
  refine (State.started_unissued _ _).trans ?_
  rw [State.setGen_unissued, State.setGen_unissued, State.openIntervals_unissued]
  refine (foldl_keeps State.unissued (fun t n => ?_) (List.range 64) _).trans ?_
  · split <;> rfl
  · simp

/-! ## Reads of a vector (R256, R353, R372, R822) -/

theorem State.retireRequest_unissued (k : Nat) : (s.retireRequest k).unissued = s.unissued := by
  rcases s.retireRequest_cases k with h | h | h <;> rw [h] <;> rfl

@[simp] theorem State.hbmUe_unissued (k : Nat) (scrub : Bool) : (s.hbmUe k scrub).unissued = s.unissued := by
  simp only [State.hbmUe]
  split
  · rw [State.retireRequest_unissued]; rfl
  · rfl

@[simp] theorem State.hbmRead_unissued (a n : Nat) : (s.hbmRead a n).2.unissued = s.unissued := by
  unfold State.hbmRead
  split
  · rfl
  · split
    · rfl
    · split
      · exact s.hbmUe_unissued _ _
      · rfl

@[simp] theorem State.readRecord_unissued (p : Playlist) (q : Nat × Nat) : (s.readRecord p q).2.unissued = s.unissued := by
  simp only [State.readRecord]
  split
  · rfl
  · exact s.hbmRead_unissued _ _

/-- A late record is counted and told of (R266). -/
theorem State.lateRecord_unissued (l : Bool) :
    (if l then ((s.inc SEG_NVFEED).event srcSegVfeed).recordAll 8 else s).unissued = s.unissued := by
  split <;> rfl

@[simp] theorem State.loadRecord_unissued (p : Playlist) (late : Bool) : (s.loadRecord p late).unissued = s.unissued := by
  rw [← s.lateRecord_unissued (s.isLate late)]
  unfold State.loadRecord
  dsimp only
  generalize (if s.isLate late then ((s.inc SEG_NVFEED).event srcSegVfeed).recordAll 8 else s) = t
  have hread := t.readRecord_unissued p t.seq.pos
  split
  · rfl
  · cases t.seq.buf with
    | cons r rs => cases r <;> rfl
    | nil =>
      dsimp only
      rw [← hread]
      cases (t.readRecord p t.seq.pos).1 <;> rfl

@[simp] theorem State.failRead_unissued (sites : Nat → Option Nat) (marks fresh : List Nat) :
    (s.failRead sites marks fresh).unissued = s.unissued := by
  unfold State.failRead
  refine (foldl_keeps State.unissued (fun t o => ?_) _ _).trans (foldl_keeps State.unissued (fun t o => ?_) _ _)
  · dsimp only
    split
    · split <;> rfl
    · rfl
  · split <;> rfl

@[simp] theorem State.failReads_unissued (w : Nat) (fresh : List Nat) : (s.failReads w fresh).unissued = s.unissued :=
  s.failRead_unissued _ _ _

theorem State.tsFailed_unissued (c : Nat) : (s.tsFailed c).unissued = s.unissued := rfl

theorem State.lsFailed_unissued (c : Nat) : (s.lsFailed c).unissued = s.unissued := rfl

/-! ## What the streams and the generators supply (R280, R281, R290) -/

@[simp] theorem State.takeStreams_unissued (w : Nat) : (s.takeStreams w).2.2.unissued = s.unissued := by
  unfold State.takeStreams
  apply foldl_keeps (fun x : List (Nat × (Nat × Nat)) × Nat × State => x.2.2.unissued)
  rintro ⟨vs, undr, t⟩ n
  dsimp only
  split
  · rfl
  · split
    · rfl
    · split <;> rfl

@[simp] theorem State.iwRead_unissued (g n flip : Nat) : (s.iwRead g n flip).2.unissued = s.unissued := by
  have hrow : (if flip = 0 then s else s.setIw g n ((s.iw g n).upsetBy flip)).unissued = s.unissued := by
    split <;> rfl
  unfold State.iwRead
  dsimp only
  split <;> exact hrow

@[simp] theorem State.iwFetch_unissued (g n flip : Nat) : (s.iwFetch g n flip).2.unissued = s.unissued := by
  have hread := s.iwRead_unissued g n flip
  unfold State.iwFetch
  split
  · rfl
  · split
    · next h => rw [← hread, h]
    · next h => rw [← hread, h]; rfl

@[simp] theorem State.runApg_unissued (g n flip : Nat) (fresh : List Nat) : (s.runApg g n flip fresh).2.2.unissued = s.unissued := by
  have hfetch := s.iwFetch_unissued g n flip
  unfold State.runApg
  dsimp only
  rw [State.add64_unissued, State.setGen_unissued, ← hfetch]
  have hbad (l : List Nat) (t : State) : (l.foldl (fun t _ => (t.inc CMT_NINTEG).put CMT_INTEG_ABAD (t.get CMT_INTEG_ABAD ||| 64))
      t).unissued = t.unissued := by
    apply foldl_keeps
    simp
  split
  · exact hbad _ _
  · rw [State.recordAll_unissued, hbad]

@[simp] theorem State.gateWord_unissued (p : Playlist) (w : Nat) : (s.gateWord p w).unissued = s.unissued := by
  unfold State.gateWord
  dsimp only
  split <;> rfl

end

/-! ## One issue -/

section
variable (s : State) (p : Playlist) (w g : Nat) (late : Bool) (flipA flipB : Nat) (fresh : List Nat)

/-- The state in which a vector's record and the reads of its entries have been made: at a playlist's first vector its intervals are open,
and at a word's first vector its record is read (R161, R168). -/
def State.vectorRead : State :=
  let s1 := if !s.seq.started then (s.firstVector p g).noteCapture (!s.seq.started && s.captureOn) else s
  let s2 := if s.seq.vecs = 0 then s1.loadRecord p late else s1
  (s2.lsFails w fresh).foldl (fun t c => t.lsFailed c) ((s2.tsFails w fresh).foldl (fun t c => t.tsFailed c) (s2.failReads w fresh))

/-- The state in which the streams and the generators have supplied a vector too. -/
def State.vectorFed : State :=
  (((((s.vectorRead p w g late fresh).takeStreams w).2.2.runApg 0 (mwApga w) flipA fresh).2.2).runApg 1 (mwApgb w) flipB fresh).2.2

/-- The state in which a vector is ready to issue: a TIUCTL action on a unit that is not the playlist's is refused (R442). -/
def State.vectorReady : State :=
  let s7 := s.vectorFed p w g late flipA flipB fresh
  let act := decide (s.seq.vecs = 0) && decide (mwTiuAct w ≠ 0)
  let owned := s7.get (TIU_STATUS_OWNER (mwTiuUnit w)) == tiuPlay && bitAt p.claim (mwTiuUnit w)
  (if act && !owned then s7.claimDenied 0x280000 else s7).gateWord p w

theorem State.vectorRead_unissued : (s.vectorRead p w g late fresh).unissued = s.unissued := by
  unfold State.vectorRead
  refine (foldl_keeps State.unissued (fun t c => t.lsFailed_unissued c) _ _).trans
    ((foldl_keeps State.unissued (fun t c => t.tsFailed_unissued c) _ _).trans ?_)
  simp [apply_ite State.unissued]

theorem State.vectorFed_unissued : (s.vectorFed p w g late flipA flipB fresh).unissued = s.unissued := by
  rw [State.vectorFed, State.runApg_unissued, State.runApg_unissued, State.takeStreams_unissued, State.vectorRead_unissued]

theorem State.vectorReady_unissued : (s.vectorReady p w g late flipA flipB fresh).unissued = s.unissued := by
  rw [← s.vectorFed_unissued p w g late flipA flipB fresh]
  unfold State.vectorReady
  generalize s.vectorFed p w g late flipA flipB fresh = t
  dsimp only
  rw [State.gateWord_unissued]
  split <;> simp

/-- The vector f has issued in cycle g, and act are the word actions that go with it. -/
def State.withVector (r : State) (g : Nat) (f : Flight) (act : Option WordAct) : State :=
  (({ r with
    land := { r.land with flights := r.land.flights ++ [f] }
    fail := { r.fail with lastData := r.newData f, periods := r.fail.periods.filter fun q => decide (g < q.cycle + 512 + r.gcAge) }
    seq := { r.seq with vecs := r.seq.vecs + 1, next := g + 1, issuedAt := some g, issuedSlot := r.seq.cur, stalls := 0
                        act := act } } : State).put SEQ_PC r.seq.cur).put
    SEQ_STATUS_HOLDKIND 0

/-- An issue adds one vector to the state in which it is ready. -/
theorem State.issue_eq : ∃ (f : Flight) (act : Option WordAct),
    (f.word = w ∧ f.slot = (s.vectorReady p w g late flipA flipB fresh).seq.cur ∧ f.gvc = g ∧
      f.active = (s.vectorReady p w g late flipA flipB fresh).active ∧ f.plNum = p.number ∧ f.landed = false) ∧
    s.issue p w g late flipA flipB fresh =
      (s.vectorReady p w g late flipA flipB fresh).withVector g f act := by
  unfold State.issue State.vectorReady State.vectorFed State.vectorRead
  dsimp only
  generalize (List.foldl (fun t c => t.lsFailed c) _ _ : State) = s4
  rcases s4.takeStreams w with ⟨strm, undr, s5⟩
  dsimp only
  rcases s5.runApg 0 (mwApga w) flipA fresh with ⟨a, adA, s6⟩
  dsimp only
  rcases s6.runApg 1 (mwApgb w) flipB fresh with ⟨b, adB, s7⟩
  dsimp only
  generalize (State.gateWord _ p w) = s9
  refine ⟨_, _, ?_, rfl⟩
  exact ⟨rfl, rfl, rfl, rfl, rfl, rfl⟩

/-- An issue counts one vector of the word at its slot and cycle, and puts it on its way to the land with the active bank (R161, R168). -/
theorem State.issue_vector :
    (s.issue p w g late flipA flipB fresh).seq.vecs = s.seq.vecs + 1 ∧
    (s.issue p w g late flipA flipB fresh).seq.issuedAt = some g ∧
    (s.issue p w g late flipA flipB fresh).seq.issuedSlot = s.seq.cur ∧
    (s.issue p w g late flipA flipB fresh).seq.next = g + 1 ∧
    ∃ f, (s.issue p w g late flipA flipB fresh).land.flights = s.land.flights ++ [f] ∧ f.word = w ∧ f.slot = s.seq.cur ∧
      f.gvc = g ∧ f.active = s.active ∧ f.plNum = p.number ∧ f.landed = false := by
  obtain ⟨f, act, ⟨hword, hslot, hgvc, hactive, hnum, hlanded⟩, hissue⟩ := s.issue_eq p w g late flipA flipB fresh
  have hready := s.vectorReady_unissued p w g late flipA flipB fresh
  simp only [State.unissued, Prod.mk.injEq] at hready
  obtain ⟨hcur, hvecs, hflights, hbank⟩ := hready
  rw [hissue, ← hcur, ← hvecs, ← hflights, ← hbank]
  exact ⟨rfl, rfl, rfl, rfl, f, rfl, hword, hslot, hgvc, hactive, hnum, hlanded⟩

end

end Sys2Proof.Machine
end

