-- ==== Sys2Proof/Proofs/SequencerCycles.lean ====
section
/-! SUPPORT. What one vector cycle of the sequencer is in each case: no cycle, the read of a word, a hold or a vector, the exits of the waiting
words, and the start of a queued playlist; then the statement on the sequencer's cycles. -/

namespace Sys2Proof.Machine

/-! ## When the sequencer acts (R128, R752) -/

section
variable {s : State}

theorem State.whenRunning_idle (f : Playlist → State) (h : s.seq.running = none ∨ s.gateOpen = false ∨ s.frozen = true) :
    s.whenRunning f = .next s := by
  unfold State.whenRunning
  split
  · rfl
  · next hp => rcases h with h | h | h <;> simp_all

theorem State.whenRunning_runs (f : Playlist → State) {p : Playlist} (hr : s.seq.running = some p) (hg : s.gateOpen = true)
    (hf : s.frozen = false) : s.whenRunning f = .next (f p) := by
  simp [State.whenRunning, hr, hg, hf]

/-- What would change nothing for any playlist changes nothing. -/
theorem State.whenRunning_keeps {f : Playlist → State} (h : ∀ p, f p = s) : s.whenRunning f = .next s := by
  unfold State.whenRunning
  split
  · rfl
  · split
    · rw [h]
    · rfl

end

/-! ## The read of a word (R206, R259) -/

section
variable {s u : State} {p : Playlist} {flip : Nat}

theorem State.readWord_held {w : Nat} (h : s.seq.word = some w) : s.readWord p flip = (some w, s) := by
  simp [State.readWord, h]

/-- The store does not give the word: CSERR, and SEG_END_DATA too where no data is left. -/
theorem State.readWord_notGiven (hw : s.seq.word = none) (h : s.csRead s.seq.cur flip = (none, u)) : s.readWord p flip =
    (none, (if p.segs.length ≤ s.seq.pos.1 then (u.recordAll 7).event srcSegEndData else u.recordAll 7).endPlaylist 5) := by
  simp [State.readWord, hw, h]

theorem State.readWord_beyondData {w : Nat} (hw : s.seq.word = none) (h : s.csRead s.seq.cur flip = (some w, u))
    (hd : p.segs.length ≤ s.seq.pos.1) : s.readWord p flip = (none, (u.event srcSegEndData).endPlaylist 6) := by
  simp [State.readWord, State.stopWith, hw, h, hd]

theorem State.readWord_given {w : Nat} (hw : s.seq.word = none) (h : s.csRead s.seq.cur flip = (some w, u))
    (hd : s.seq.pos.1 < p.segs.length) : s.readWord p flip =
      (some w, ((({ u with seq := { u.seq with word := some w } } : State).flag SEQ_STATUS_MATCHING
        (decide (mwOp w = 0x11))).gateWord p w).cwaitLatch) := by
  simp only [State.readWord, hw, h, Nat.not_le.mpr hd, decide_false, Bool.false_eq_true, if_false]
  rfl

end

/-! ## The cycle of a word, whatever its OP -/

section
variable {s t : State} {p : Playlist} {w : Nat} {late : Bool} {flip fa fb : Nat} {bad : List Nat}

theorem State.seqCycle_noWord (h : s.readWord p flip = (none, t)) : s.seqCycle p late flip fa fb bad = t := by
  simp [State.seqCycle, h]

theorem State.seqCycle_wait (h : s.readWord p flip = (some w, t)) (ho : mwOp w = 0x10) :
    s.seqCycle p late flip fa fb bad = t.waitCycle p w late fa fb bad := by
  simp [State.seqCycle, h, ho]

theorem State.seqCycle_match (h : s.readWord p flip = (some w, t)) (ho : mwOp w = 0x11) :
    s.seqCycle p late flip fa fb bad = t.matchCycle p w late fa fb bad := by
  simp [State.seqCycle, h, ho]

theorem State.seqCycle_other (h : s.readWord p flip = (some w, t)) (h0 : mwOp w ≠ 0x10) (h1 : mwOp w ≠ 0x11) :
    s.seqCycle p late flip fa fb bad = if mwRepeat w < t.seq.vecs then t else t.vectorCycle p w late fa fb bad := by
  simp [State.seqCycle, h, h0, h1]

end

/-- The playlist p runs, and vector cycles go by (R161). -/
def State.cycles (s : State) (p : Playlist) : Prop := s.seq.running = some p ∧ s.gateOpen = true ∧ s.frozen = false

section
variable {s t : State} {p : Playlist} {w op flip : Nat} {f : Playlist → Nat → State → State}

theorem State.whenRunning_of_cycles (g : Playlist → State) (h : s.cycles p) : s.whenRunning g = .next (g p) := by
  obtain ⟨hr, hg, hf⟩ := h
  exact State.whenRunning_runs g hr hg hf

theorem State.ownCycle_noWord (hc : s.cycles p) (h : s.readWord p flip = (none, t)) : s.ownCycle op flip f = .next t := by
  rw [State.ownCycle, State.whenRunning_of_cycles _ hc, h]

theorem State.ownCycle_own (hc : s.cycles p) (h : s.readWord p flip = (some w, t)) (ho : mwOp w = op) :
    s.ownCycle op flip f = .next (f p w t) := by
  rw [State.ownCycle, State.whenRunning_of_cycles _ hc, h]
  simp [ho]

theorem State.ownCycle_other (hc : s.cycles p) (h : s.readWord p flip = (some w, t)) (ho : mwOp w ≠ op) :
    s.ownCycle op flip f = .next t := by
  rw [State.ownCycle, State.whenRunning_of_cycles _ hc, h]
  simp [ho]

end

/-! ## WAIT and MATCH words (R233, R235, R238) -/

section
variable {s : State} {p : Playlist} {w : Nat} {late : Bool} {fa fb : Nat} {bad : List Nat}

theorem State.cwaitDue_eq {t r : Nat} (h : s.seq.cwait = some (t, r)) : s.cwaitDue = (decide (r ≠ 0) && decide (t ≤ s.seq.next)) := by
  simp [State.cwaitDue, h]

theorem State.cwaitDue_none (h : s.seq.cwait = none) : s.cwaitDue = false := by
  simp [State.cwaitDue, h]

theorem State.waitCycle_limit (h : mwWaitVc w ≤ s.seq.holds) : s.waitCycle p w late fa fb bad = s := by
  simp [State.waitCycle, h]

theorem State.waitCycle_cwait (h : s.seq.holds < mwWaitVc w) (hc : mwCwait w = true) :
    s.waitCycle p w late fa fb bad = if s.cwaitDue then s else s.holdCycle 2 := by
  simp only [State.waitCycle, Nat.not_le.mpr h, hc, if_true, if_false]
  cases hcw : s.seq.cwait with
  | none => simp [State.cwaitDue_none hcw]
  | some c => simp [State.cwaitDue_eq hcw]

theorem State.waitCycle_false (h : s.seq.holds < mwWaitVc w) (hc : mwCwait w = false)
    (hf : s.cond (mwCond w) (max s.seq.next s.clk.gvc) = false) : s.waitCycle p w late fa fb bad = s.holdCycle 1 := by
  simp [State.waitCycle, Nat.not_le.mpr h, hc, hf]

theorem State.waitCycle_true (h : s.seq.holds < mwWaitVc w) (hc : mwCwait w = false)
    (ht : s.cond (mwCond w) (max s.seq.next s.clk.gvc) = true) : s.waitCycle p w late fa fb bad =
      if (s.vectorCycle p w late fa fb bad).seq.vecs = 1 then (s.vectorCycle p w late fa fb bad).fallThrough p
      else s.vectorCycle p w late fa fb bad := by
  simp [State.waitCycle, Nat.not_le.mpr h, hc, ht]

theorem State.matchCycle_limit (h : mwWaitVc w ≤ s.seq.vecs) : s.matchCycle p w late fa fb bad = s := by
  simp [State.matchCycle, h]

theorem State.matchCycle_vector {t : State} (ht : t = s.vectorCycle p w late fa fb bad) (h : s.seq.vecs < mwWaitVc w) :
    s.matchCycle p w late fa fb bad =
      if t.seq.vecs ≠ s.seq.vecs ∧ t.condAge (mwCond w) ≤ s.seq.vecs ∧ t.cond (mwCond w) (t.seq.issuedAt.getD 0) = true then t.fallThrough p
      else t := by
  simp only [State.matchCycle, Nat.not_le.mpr h, if_false, ← ht]
  by_cases hv : t.seq.vecs = s.seq.vecs <;> simp [hv]

end

/-! ## A vector cycle (R161, R234) -/

section
variable {s : State} {p : Playlist} {w : Nat} {late : Bool} {fa fb : Nat} {bad : List Nat}

theorem State.vectorCycle_stalls (h : (s.standWord w).mustStall p late = true) :
    s.vectorCycle p w late fa fb bad = (s.standWord w).holdCycle 3 := by
  simp [State.vectorCycle, h]

theorem State.vectorCycle_issues {v : State} (hv : v = (s.standWord w).advanceTo (s.standWord w).seq.next)
    (h : (s.standWord w).mustStall p late = false) :
    s.vectorCycle p w late fa fb bad = v.issue p w v.clk.gvc late fa fb bad := by
  simp [State.vectorCycle, h, hv]

theorem State.mustStall_iff : s.mustStall p late = true ↔ p.waiting = true ∧ (s.seq.stalled = true ∨
    late = true ∧ s.seq.buf = [] ∧ s.hbmNormal = false ∨
    ∃ n < 8, s.on (SEG_STR_STATUS_OPEN n) = true ∧ s.on (SEG_STR_STATUS_RUN n) = true ∧ s.strReady n = false) := by
  simp [State.mustStall, State.isLate, State.onDie, State.runStreams, and_assoc, or_assoc]

end

/-! ## CWAIT_RELEASE, WAIT_LIMIT_EXPIRY and STALL_LIMIT -/

section
variable {s : State} {p : Playlist} {w t r : Nat} {late : Bool} {fa fb : BitVec 80} {bad : List (BitVec 28)}

theorem execCwaitRelease_idle (h : s.seq.word = none ∨ s.seq.cwait = none) : execCwaitRelease late fa fb bad s = .next s := by
  refine State.whenRunning_keeps fun p => ?_
  split
  · next hw hc => rcases h with h | h <;> simp_all
  · rfl

theorem execCwaitRelease_holds (hin : s.inWord p w = true) (hc : s.seq.cwait = some (t, r))
    (h : r = 0 ∨ mwCwait w = false ∨ s.seq.vecs ≠ 0 ∨ mwWaitVc w < s.seq.holds + (t - s.seq.next)) :
    execCwaitRelease late fa fb bad s = .next s := by
  rw [execCwaitRelease, State.whenRunning_of_inWord _ hin, State.word_of_inWord hin, hc]
  rcases h with h | h | h | h <;> simp [h]

/-- The word has held up to the target t of its commit, n cycles from its next one on. -/
def State.heldTo (s : State) (t n : Nat) : State :=
  let a := (s.advanceTo t).add64 SEQ_NHOLD_LO SEQ_NHOLD_HI n
  { a with seq := { a.seq with holds := a.seq.holds + n, next := max t a.seq.next } }

theorem execCwaitRelease_releases (hin : s.inWord p w = true) (hc : s.seq.cwait = some (t, r)) (hr : r ≠ 0) (hw : mwCwait w = true)
    (hv : s.seq.vecs = 0) (hl : s.seq.holds + (t - s.seq.next) ≤ mwWaitVc w) {v : State}
    (h : v = (s.heldTo t (t - s.seq.next)).vectorCycle p w late fa.toNat fb.toNat (bad.map (·.toNat))) :
    execCwaitRelease late fa fb bad s = .next (if v.seq.vecs = 0 then v else if r = 1 then v.fallThrough p
      else ((v.inc SEQ_NEXPIRE).event srcSeqWaitexp).transfer p (mwT w)) := by
  rw [execCwaitRelease, State.whenRunning_of_inWord _ hin, State.word_of_inWord hin, hc, h]
  simp only [hr, hw, hv, Nat.not_lt.mpr hl]
  rfl

theorem execWaitLimitExpiry_idle (h : s.seq.word = none) : execWaitLimitExpiry late fa fb bad s = .next s := by
  refine State.whenRunning_keeps fun p => ?_
  rw [h]

theorem execWaitLimitExpiry_wait (hin : s.inWord p w = true) (ho : mwOp w = 0x10) (hl : mwWaitVc w ≤ s.seq.holds)
    (hd : s.cwaitDue = false) {v : State} (h : v = s.vectorCycle p w late fa.toNat fb.toNat (bad.map (·.toNat))) :
    execWaitLimitExpiry late fa fb bad s =
      .next (if v.seq.vecs = 0 then v else ((v.inc SEQ_NEXPIRE).event srcSeqWaitexp).transfer p (mwT w)) := by
  rw [execWaitLimitExpiry, State.whenRunning_of_inWord _ hin, State.word_of_inWord hin, h]
  simp only [ho, hl, hd]
  rfl

theorem execWaitLimitExpiry_match (hin : s.inWord p w = true) (ho : mwOp w = 0x11) (hl : mwWaitVc w ≤ s.seq.vecs) :
    execWaitLimitExpiry late fa fb bad s = .next (((s.inc SEQ_NEXPIRE).event srcSeqWaitexp).transfer p (mwT w)) := by
  rw [execWaitLimitExpiry, State.whenRunning_of_inWord _ hin, State.word_of_inWord hin]
  simp only [ho, hl]
  rfl

theorem execWaitLimitExpiry_early (hin : s.inWord p w = true) (h : mwOp w = 0x10 ∧ (s.seq.holds < mwWaitVc w ∨ s.cwaitDue = true) ∨
    mwOp w = 0x11 ∧ s.seq.vecs < mwWaitVc w ∨ mwOp w ≠ 0x10 ∧ mwOp w ≠ 0x11) : execWaitLimitExpiry late fa fb bad s = .next s := by
  rw [execWaitLimitExpiry, State.whenRunning_of_inWord _ hin, State.word_of_inWord hin]
  rcases h with ⟨ho, h | h⟩ | ⟨ho, h⟩ | ⟨h0, h1⟩
  · simp [ho, Nat.not_le.mpr h]
  · simp [ho, h]
  · simp [ho, Nat.not_le.mpr h]
  · simp [h0, h1]

end

/-! ## PLAYLIST_FIRST_VECTOR (R273, R781) -/

section
variable {s v : State} {p : Playlist} {a : Nat} {flip : BitVec 208} {fa fb : BitVec 80} {bad : List (BitVec 28)}

/-- The queued playlist p begins in cycle g, unless a thermal stop hold refuses it (R781). -/
def State.startOrRefuse (flip : BitVec 208) (fa fb : BitVec 80) (bad : List (BitVec 28)) (p : Playlist) (t : State) (g : Nat) : State :=
  if t.on PMG_STATUS_STOPHOLD then ((t.inc PMG_NADMREF).raise srcPwrAdmitRef p.number 0).refusePlaylist 0xA
  else (t.beginPlaylist p g).seqCycle p false flip.toNat fa.toNat fb.toNat (bad.map (·.toNat))

theorem execPlaylistFirstVector_idle (h : s.seq.queued = none ∨ s.gateOpen = false ∨ s.frozen = true) :
    execPlaylistFirstVector flip fa fb bad s = .next s := by
  unfold execPlaylistFirstVector
  split
  · rfl
  · next hq => rcases h with h | h | h <;> simp_all

theorem execPlaylistFirstVector_next (hq : s.seq.queued = some p) (hg : s.gateOpen = true) (hf : s.frozen = false) (ha : p.at_ = none) :
    execPlaylistFirstVector flip fa fb bad s = .next
      (if s.on SEG_PL_STATUS_QREADY && s.seq.running.isNone then State.startOrRefuse flip fa fb bad p s s.firstCycle else s) := by
  simp only [execPlaylistFirstVector, State.startOrRefuse, hq, hg, hf, ha, ← apply_ite Host.Outcome.next]
  rfl

theorem execPlaylistFirstVector_unreached (hq : s.seq.queued = some p) (hg : s.gateOpen = true) (hf : s.frozen = false)
    (ha : p.at_ = some a) (hr : s.reach a = none) : execPlaylistFirstVector flip fa fb bad s = .next s := by
  simp [execPlaylistFirstVector, hq, hg, hf, ha, hr]

theorem execPlaylistFirstVector_late (hq : s.seq.queued = some p) (hg : s.gateOpen = true) (hf : s.frozen = false)
    (ha : p.at_ = some a) (hr : s.reach a = some v)
    (h : v.clk.gvc ≠ a ∨ v.on SEG_PL_STATUS_QREADY = false ∨ v.seq.running.isSome = true) :
    execPlaylistFirstVector flip fa fb bad s = .next (v.refusePlaylist 0xE) := by
  rcases h with h | h | h <;> simp [execPlaylistFirstVector, hq, hg, hf, ha, hr, h]

theorem execPlaylistFirstVector_at (hq : s.seq.queued = some p) (hg : s.gateOpen = true) (hf : s.frozen = false)
    (ha : p.at_ = some a) (hr : s.reach a = some v) (hv : v.clk.gvc = a) (hy : v.on SEG_PL_STATUS_QREADY = true)
    (hn : v.seq.running = none) :
    execPlaylistFirstVector flip fa fb bad s = .next (State.startOrRefuse flip fa fb bad p v a) := by
  simp [execPlaylistFirstVector, State.startOrRefuse, offs, hq, hg, hf, ha, hr, hv, hy, hn, apply_ite Host.Outcome.next]

end

end Sys2Proof.Machine

namespace Sys2Proof.Proofs

open Sys2Proof.Machine

/-- Settles O21: each command by its cases; a vector is one issue on the state whose next cycle has come, since the stream action of its word
and the cycles that pass before it leave the word and the vectors in flight alone. -/
theorem sequencerCycles : Obligations.SequencerCycles := by
  unfold Obligations.SequencerCycles
  refine ⟨?idle, ?runs, fun s u p flip => ⟨fun w => State.readWord_held, State.readWord_notGiven,
      fun w hw h => ⟨State.readWord_beyondData hw h, State.readWord_given hw h⟩⟩,
    ?waits, ?hold, ?vector, fun s p late => State.mustStall_iff, ?release, ?expiry, fun s => rfl, ?stallLimit, ?start⟩
  case idle =>
    intro s late flip fa fb bad h
    exact ⟨State.whenRunning_idle _ h, State.whenRunning_idle _ h, State.whenRunning_idle _ h, State.whenRunning_idle _ h,
      State.whenRunning_idle _ h, State.whenRunning_idle _ h⟩
  case runs =>
    intro s t p w late flip fa fb bad hr hg hf
    have hc : s.cycles p := ⟨hr, hg, hf⟩
    have hissue {t' : State} (h : s.seqCycle p late flip.toNat fa.toNat fb.toNat (bad.map (·.toNat)) = t') :
        exec (.vectorIssue late flip fa fb bad) s = .next t' :=
      (State.whenRunning_of_cycles _ hc).trans (congrArg _ h)
    refine ⟨fun h => ⟨hissue (State.seqCycle_noWord h), State.ownCycle_noWord hc h, State.ownCycle_noWord hc h⟩,
      fun h => ⟨fun ho => ⟨hissue (State.seqCycle_wait h ho), State.ownCycle_own hc h ho, ?_⟩,
        fun ho => ⟨hissue (State.seqCycle_match h ho), State.ownCycle_own hc h ho, ?_⟩,
        fun h0 h1 => ⟨State.ownCycle_other hc h h0, State.ownCycle_other hc h h1, hissue (State.seqCycle_other h h0 h1)⟩⟩⟩
    · exact State.ownCycle_other hc h (by rw [ho]; decide)
    · exact State.ownCycle_other hc h (by rw [ho]; decide)
  case waits =>
    rintro s t p w late fa fb bad rfl
    exact ⟨State.waitCycle_limit, State.waitCycle_cwait, State.waitCycle_false, State.waitCycle_true,
      State.matchCycle_limit, State.matchCycle_vector rfl⟩
  case hold =>
    rintro s u kind - rfl
    rfl
  case vector =>
    rintro s u p w late fa fb bad rfl
    refine ⟨State.vectorCycle_stalls, fun h => ?_⟩
    rw [State.vectorCycle_issues rfl h]
    have hbefore := ((s.standWord w).advanceTo_unissued (s.standWord w).seq.next).trans (s.standWord_unissued w)
    simp only [State.unissued, Prod.mk.injEq] at hbefore
    obtain ⟨hcur, hvecs, hflights, -⟩ := hbefore
    rw [← hcur, ← hvecs, ← hflights]
    exact State.issue_vector _ _ _ _ _ _ _ _
  case release =>
    refine fun s late fa fb bad => ⟨execCwaitRelease_idle, ?_⟩
    rintro p w t r n hin hc rfl
    refine ⟨execCwaitRelease_holds hin hc, ?_⟩
    rintro hr hw hv hl a u v rfl rfl rfl
    exact execCwaitRelease_releases hin hc hr hw hv hl rfl
  case expiry =>
    refine fun s late fa fb bad => ⟨execWaitLimitExpiry_idle, ?_⟩
    rintro p w v hin rfl
    exact ⟨fun ho hl hd => execWaitLimitExpiry_wait hin ho hl hd rfl, execWaitLimitExpiry_match hin,
      execWaitLimitExpiry_early hin⟩
  case stallLimit => exact fun s p hr hg hf => State.whenRunning_runs _ hr hg hf
  case start =>
    rintro s flip fa fb bad go rfl
    exact ⟨execPlaylistFirstVector_idle, fun p hq hg hf => ⟨execPlaylistFirstVector_next hq hg hf,
      fun a ha => ⟨execPlaylistFirstVector_unreached hq hg hf ha, fun v hr =>
        ⟨execPlaylistFirstVector_late hq hg hf ha hr, execPlaylistFirstVector_at hq hg hf ha hr⟩⟩⟩⟩

end Sys2Proof.Proofs
end

