-- ==== Sys2Proof/Proofs/SequencerActions.lean ====
section
/-! SUPPORT. What each action of a word does, once and where the word has it; the stream and TIUCTL actions; the stops that the host asks for;
then the statement on the sequencer's actions. -/

namespace Sys2Proof.Machine

/-! ## An action of the word whose first vector issued last (R161) -/

/-- Action a of the word has been done. -/
def State.acted (s : State) (x : WordAct) (a : Nat) : State :=
  { s with seq := { s.seq with act := some { x with done := setBitN x.done a } } }

section
variable {s : State} {x : WordAct} {a : Nat} {has : Nat → Bool} {f : WordAct → State → State}

theorem State.wordAct_none (h : s.seq.act = none) : s.wordAct a has f = .next s := by
  simp [State.wordAct, h]

theorem State.wordAct_skips (hx : s.seq.act = some x) (h : has x.word = false ∨ bitAt x.done a = true) : s.wordAct a has f = .next s := by
  rcases h with h | h <;> simp [State.wordAct, hx, h]

theorem State.wordAct_acts (hx : s.seq.act = some x) (hw : has x.word = true) (hd : bitAt x.done a = false) :
    s.wordAct a has f = .next (f x (s.acted x a)) := by
  simp [State.wordAct, State.acted, hx, hw, hd]

/-- A word without the code of an action in its field does nothing. -/
theorem State.wordAct_skips_code {field : Nat → Nat} {code : Nat} (hx : s.seq.act = some x)
    (h : field x.word ≠ code ∨ bitAt x.done a = true) : s.wordAct a (fun w => field w == code) f = .next s :=
  State.wordAct_skips hx (h.imp_left beq_false_of_ne)

theorem State.wordAct_acts_code {field : Nat → Nat} {code : Nat} (hx : s.seq.act = some x) (hw : field x.word = code)
    (hd : bitAt x.done a = false) : s.wordAct a (fun w => field w == code) f = .next (f x (s.acted x a)) :=
  State.wordAct_acts hx (beq_iff_eq.mpr hw) hd

end

/-! ## DCTL (R185, R249) -/

section
variable (s : State)

/-- The last driven data rest on no action of the word. -/
theorem State.redoData_acted (x : WordAct) (a d : Nat) (fs : List Flight) : (s.acted x a).redoData d fs = s.redoData d fs := by
  induction fs generalizing d with
  | nil => rfl
  | cons f fs ih =>
    simp only [State.redoData, ih]
    rfl

/-- Formed anew, the vectors differ in the data before them alone. -/
theorem State.redoData_clear (d : Nat) (fs : List Flight) : (s.redoData d fs).1.map (fun f => { f with prevData := 0 }) =
    fs.map fun f => { f with prevData := 0 } := by
  induction fs generalizing d with
  | nil => rfl
  | cons f fs ih => simp [State.redoData, ih]

end

section
variable {s : State} {x : WordAct} {code : Nat}

theorem State.dctlAct_noVector (hx : s.seq.act = some x) (hc : mwDctl x.word = code) (hd : bitAt x.done actDctl = false)
    (hown : (s.land.flights.filter fun f => decide (x.gvc ≤ f.gvc)).map (fun f => { f with dctl := code }) = []) :
    s.dctlAct code = .next (s.acted x actDctl) := by
  rw [State.dctlAct, State.wordAct_acts_code hx hc hd]
  simp only [State.acted, hown]

/-- The override is set in the word's vectors in flight, and what they drive last is formed anew. -/
theorem State.dctlAct_vectors (hx : s.seq.act = some x) (hc : mwDctl x.word = code) (hd : bitAt x.done actDctl = false)
    {f : Flight} {fs : List Flight}
    (hown : (s.land.flights.filter fun f => decide (x.gvc ≤ f.gvc)).map (fun f => { f with dctl := code }) = f :: fs) :
    s.dctlAct code = .next { s.acted x actDctl with
      land := { s.land with flights := (s.land.flights.filter fun f => decide (f.gvc < x.gvc)) ++ (s.redoData f.prevData (f :: fs)).1 }
      fail := { s.fail with lastData := (s.redoData f.prevData (f :: fs)).2 } } := by
  rw [State.dctlAct, State.wordAct_acts_code hx hc hd, ← s.redoData_acted x actDctl]
  simp only [State.acted, hown]

end

/-! ## The stream action (R181, R182) -/

section
variable {s : State} {w : Nat}

theorem State.standWord_done (h : s.seq.strDone = true ∨ s.seq.vecs ≠ 0) : s.standWord w = s := by
  rcases h with h | h <;> simp [State.standWord, h]

/-- RUN or PAUSE of the channel that the word names. -/
theorem State.standWord_one (hd : s.seq.strDone = false) (hv : s.seq.vecs = 0) {run : Bool} (ha : mwStrAct w = if run then 1 else 2) :
    s.standWord w = ({ s with seq := { s.seq with strDone := true } } : State).standOne (mwStrCh w) run := by
  cases run <;> simp [State.standWord, hd, hv, ha]

/-- RUNALL or PAUSEALL. -/
theorem State.standWord_all (hd : s.seq.strDone = false) (hv : s.seq.vecs = 0) {run : Bool} (ha : mwStrAct w = if run then 3 else 4) :
    s.standWord w = ({ s with seq := { s.seq with strDone := true } } : State).standAll run := by
  cases run <;> simp [State.standWord, hd, hv, ha]

end

/-! ## TIUCTL (R442) -/

/-- The TIUCTL action of the vector of cycle g waits no longer. -/
def State.tiuctlDone (v : State) (g : Nat) : State :=
  { v with land := { v.land with flights := v.land.flights.map fun y => if y.gvc = g then { y with tiu := false } else y } }

section
variable {s v : State} {c : Nat} {f : Nat → State → State} {x : Flight}

theorem State.tiuctl_none (h : ∀ x ∈ s.land.flights, x.tiu = false ∨ mwTiuAct x.word ≠ c) : s.tiuctl c f = .next s := by
  have hfind : (s.land.flights.find? fun x => x.tiu && mwTiuAct x.word == c) = none := by
    rw [List.find?_eq_none]
    intro x hx
    rcases h x hx with h | h <;> simp [h]
  rw [State.tiuctl, hfind]

theorem State.tiuctl_unreached (hx : (s.land.flights.find? fun x => x.tiu && mwTiuAct x.word == c) = some x)
    (hr : s.reach (x.gvc + 64) = none) : s.tiuctl c f = .next s := by
  simp [State.tiuctl, hx, hr]

/-- The action acts where the unit is a playlist's. -/
theorem State.tiuctl_reached (hx : (s.land.flights.find? fun x => x.tiu && mwTiuAct x.word == c) = some x)
    (hr : s.reach (x.gvc + 64) = some v) : s.tiuctl c f =
      .next (if (v.tiuctlDone x.gvc).get (TIU_STATUS_OWNER (mwTiuUnit x.word)) = tiuPlay then f (mwTiuUnit x.word) (v.tiuctlDone x.gvc)
        else v.tiuctlDone x.gvc) := by
  rw [State.tiuctl, hx]
  simp only [hr, apply_ite Host.Outcome.next]
  rfl

end

/-! ## Stops at a boundary (R240 to R242) -/

section
variable {s : State} {p : Playlist} {r : Nat}

theorem State.softStop_none (h : s.seq.running = none) : s.softStop r = s := by
  simp [State.softStop, h]

/-- The program itself ends the playlist at the boundary. -/
theorem State.softStop_endsHere (hr : s.seq.running = some p) (h : (s.flowOn p).seq.running = none) : s.softStop r = s.flowOn p := by
  simp [State.softStop, State.endsHere, hr, h]

theorem State.softStop_stops (hr : s.seq.running = some p) (h : (s.flowOn p).seq.running.isSome = true) :
    s.softStop r = s.endPlaylist (if s.stallLimit ≤ s.seq.stalls then 0xA else s.softReason r) := by
  simp [State.softStop, State.endsHere, hr, ← Option.not_isSome, h]

theorem State.softReason_rake (h : ∃ g, s.fail.rakeStop = some g ∧ g ≤ s.boundary) : s.softReason r = 11 := by
  obtain ⟨g, hg, hb⟩ := h
  simp [State.softReason, hg, hb]

theorem State.softReason_noRake (h : ∀ g, s.fail.rakeStop = some g → s.boundary < g) : s.softReason r =
    if s.on SEQ_STATUS_ARMED = true ∧ s.get64 SEQ_STOPAT_LO SEQ_STOPAT_HI = s.boundary ∧ r = 3 then 4 else r := by
  have hrake : (s.fail.rakeStop.any fun g => decide (g ≤ s.boundary)) = false := by
    cases hg : s.fail.rakeStop with
    | none => rfl
    | some g => simpa using h g hg
  simp [State.softReason, hrake, and_assoc]

theorem execStopatArm_refused (hr : s.reaches .host 0x80000 = true)
    (h : s.gateOpen = false ∨ s.get64 SEQ_STOPAT_LO SEQ_STOPAT_HI ≤ s.clk.gvc + 16) : execStopatArm s = .next (s.put SEQ_STATUS_SAREF 1) := by
  rw [execStopatArm, State.reachReg_of_reaches _ hr]
  rcases h with h | h <;> simp [effStopatArm, h]

theorem execStopatArm_armed (hr : s.reaches .host 0x80000 = true) (hg : s.gateOpen = true)
    (h : s.clk.gvc + 16 < s.get64 SEQ_STOPAT_LO SEQ_STOPAT_HI) : execStopatArm s = .next (s.put SEQ_STATUS_ARMED 1) := by
  rw [execStopatArm, State.reachReg_of_reaches _ hr]
  simp [effStopatArm, hg, Nat.not_le.mpr h]

theorem execStopatReached_idle (h : s.on SEQ_STATUS_ARMED = false ∨ s.gateOpen = false) : execStopatReached s = .next s := by
  rcases h with h | h <;> simp [execStopatReached, h]

theorem execStopatReached_passed (ha : s.on SEQ_STATUS_ARMED = true) (hg : s.gateOpen = true)
    (h : s.get64 SEQ_STOPAT_LO SEQ_STOPAT_HI < s.clk.gvc) : execStopatReached s = .next (s.put SEQ_STATUS_ARMED 0) := by
  simp [execStopatReached, ha, hg, h]

theorem execStopatReached_early (ha : s.on SEQ_STATUS_ARMED = true) (hg : s.gateOpen = true)
    (h : s.clk.gvc ≤ s.get64 SEQ_STOPAT_LO SEQ_STOPAT_HI) (hr : s.seq.running.isSome = true)
    (hn : s.seq.next < s.get64 SEQ_STOPAT_LO SEQ_STOPAT_HI) : execStopatReached s = .next s := by
  simp [execStopatReached, ha, hg, Nat.not_lt.mpr h, hr, hn]

theorem execStopatReached_stops (ha : s.on SEQ_STATUS_ARMED = true) (hg : s.gateOpen = true)
    (h : s.clk.gvc ≤ s.get64 SEQ_STOPAT_LO SEQ_STOPAT_HI)
    (hn : s.seq.running = none ∨ s.get64 SEQ_STOPAT_LO SEQ_STOPAT_HI ≤ s.seq.next) : execStopatReached s =
      .next ((((s.advanceTo (s.get64 SEQ_STOPAT_LO SEQ_STOPAT_HI - 1)).softStop 4).put SEQ_STATUS_ARMED 0).advanceTo
        (s.get64 SEQ_STOPAT_LO SEQ_STOPAT_HI)) := by
  rcases hn with hn | hn
  · simp [execStopatReached, ha, hg, Nat.not_lt.mpr h, hn]
  · simp [execStopatReached, ha, hg, Nat.not_lt.mpr h, Nat.not_lt.mpr hn]

end

/-! ## User flags (R217) -/

section
variable {s : State} {mask v : Nat} {x : WordAct}

/-- No FLAGOP of this cycle is on a flag of the mask. -/
theorem State.hostFlags_alone (h : ∀ x, s.seq.act = some x →
    bitAt x.done actFlag = false ∨ x.gvc ≠ s.clk.gvc ∨ bitAt mask (mwFlag x.word) = false) :
    s.hostFlags mask v = s.put SEQ_UFLAG v := by
  unfold State.hostFlags
  cases hx : s.seq.act with
  | none => rfl
  | some x => rcases h x hx with h | h | h <;> simp [h]

theorem State.hostFlags_flagOp (hx : s.seq.act = some x) (hd : bitAt x.done actFlag = true) (hg : x.gvc = s.clk.gvc)
    (hm : bitAt mask (mwFlag x.word) = true) :
    s.hostFlags mask v = s.put SEQ_UFLAG (flagOp v (mwFlagOp x.word) (mwFlag x.word)) := by
  simp [State.hostFlags, hx, hd, hg, hm]

end

end Sys2Proof.Machine

namespace Sys2Proof.Proofs

open Sys2Proof.Machine

/-- Settles O22: an action of a word acts once and where the word has it; the stream and TIUCTL actions, the stops and the user flags by their
cases. -/
theorem sequencerActions : Obligations.SequencerActions := by
  unfold Obligations.SequencerActions
  refine ⟨?noAct, ?skips, ?cmark, ?event, ?flagSet, ?flagClear, ?flagToggle, ?arm, ?disarm, ?dctl,
    fun s d fs => ⟨s.redoData_clear d fs, ?redo⟩, ?streamIdle, ?streams, ?stand, ?tiuctl, ?stop,
    fun s r => ⟨State.softReason_rake, State.softReason_noRake⟩, ?stopat, ?reached, ?flags⟩
  case noAct =>
    intro s h
    simp only [exec_cmark, exec_patternEvent, exec_flagSet, exec_flagClear, exec_flagToggle, exec_holdall, exec_offall, exec_holdout,
      exec_offout, exec_capctlArm, exec_capctlDisarm, execCmark, execPatternEvent, execFlagSet, execFlagClear, execFlagToggle, execHoldall,
      execOffall, execHoldout, execOffout, execCapctlArm, execCapctlDisarm, State.flagAct, State.dctlAct, State.capAct,
      State.wordAct_none h, and_self]
  case skips =>
    intro s x hx
    have hcode {a code : Nat} {field : Nat → Nat} {f : WordAct → State → State} (h : field x.word ≠ code ∨ bitAt x.done a = true) :
        s.wordAct a (fun w => field w == code) f = .next s := State.wordAct_skips_code hx h
    simp only [exec_cmark, exec_patternEvent, exec_flagSet, exec_flagClear, exec_flagToggle, exec_holdall, exec_offall, exec_holdout,
      exec_offout, exec_capctlArm, exec_capctlDisarm, execCmark, execPatternEvent, execFlagSet, execFlagClear, execFlagToggle, execHoldall,
      execOffall, execHoldout, execOffout, execCapctlArm, execCapctlDisarm, State.flagAct, State.dctlAct, State.capAct]
    exact ⟨hcode, fun h => State.wordAct_skips (has := fun w => mwEvent w != 0) hx (h.imp_left bne_eq_false_iff_eq.mpr), hcode, hcode,
      hcode, hcode, hcode, hcode, hcode, State.wordAct_skips hx, State.wordAct_skips hx⟩
  case cmark =>
    rintro s u x hx hw hd rfl
    rw [exec_cmark, execCmark]
    exact State.wordAct_acts_code hx hw hd
  case event =>
    rintro s u x hx hw hd rfl
    rw [exec_patternEvent, execPatternEvent]
    exact State.wordAct_acts hx (bne_iff_ne.mpr hw) hd
  case flagSet =>
    rintro s u x hx hw hd rfl
    rw [exec_flagSet, execFlagSet, State.flagAct]
    exact State.wordAct_acts_code hx hw hd
  case flagClear =>
    rintro s u x hx hw hd rfl
    rw [exec_flagClear, execFlagClear, State.flagAct]
    exact State.wordAct_acts_code hx hw hd
  case flagToggle =>
    rintro s u x hx hw hd rfl
    rw [exec_flagToggle, execFlagToggle, State.flagAct]
    exact State.wordAct_acts_code hx hw hd
  case arm =>
    rintro s u x hx hw hd rfl
    rw [exec_capctlArm, execCapctlArm, State.capAct]
    exact State.wordAct_acts hx hw hd
  case disarm =>
    rintro s u x hx hw hd rfl
    rw [exec_capctlDisarm, execCapctlDisarm, State.capAct]
    exact State.wordAct_acts hx hw hd
  case dctl =>
    rintro s x code own hx hc hd rfl o ho
    have hact : o = s.dctlAct code := by
      rcases ho with ⟨rfl, rfl⟩ | ⟨rfl, rfl⟩ | ⟨rfl, rfl⟩ | ⟨rfl, rfl⟩ <;> rfl
    cases hown : (s.land.flights.filter fun f => decide (x.gvc ≤ f.gvc)).map (fun f => { f with dctl := code }) with
    | nil =>
      refine completes_of_eq (hact.trans (State.dctlAct_noVector hx hc hd hown)) ⟨fun _ => ⟨rfl, rfl⟩, fun f fs h => ?_, rfl⟩
      contradiction
    | cons g gs =>
      refine completes_of_eq (hact.trans (State.dctlAct_vectors hx hc hd hown)) ⟨fun h => ?_, ?_, rfl⟩
      · contradiction
      · rintro f fs ⟨⟩
        exact ⟨rfl, rfl⟩
  case redo =>
    rintro f rest rfl
    rfl
  case streamIdle =>
    intro s h
    exact ⟨State.whenRunning_idle _ h, State.whenRunning_idle _ h, State.whenRunning_idle _ h, State.whenRunning_idle _ h⟩
  case streams =>
    rintro s p w hr hg hf rfl
    exact ⟨State.whenRunning_runs _ hr hg hf, State.whenRunning_runs _ hr hg hf, State.whenRunning_runs _ hr hg hf,
      State.whenRunning_runs _ hr hg hf⟩
  case stand =>
    refine fun s u w => ⟨State.standWord_done, ?_⟩
    rintro hd hv rfl
    exact ⟨fun run ha => State.standWord_one hd hv ha, fun run ha => State.standWord_all hd hv ha⟩
  case tiuctl =>
    rintro s c n - o ho
    obtain ⟨f, hact, hf⟩ : ∃ f, o = s.tiuctl c f ∧ ∀ (n : Nat) (u : State),
        (c = 1 → f n u = if u.get (TIU_CTRL_MODE n) = 3 then u.put (TIU_STATUS_SRCERR n) 1 else if u.tiuBusy n then u else u.tiuArmUnit n) ∧
        (c = 2 → f n u = u.setTiu n { u.tiuUnit n with gated := true, gateOpen := true }) ∧ (c = 3 → f n u = u.tiuEnd n 2) := by
      rcases ho with ⟨rfl, rfl⟩ | ⟨rfl, rfl⟩ | ⟨rfl, rfl⟩
      · exact ⟨_, rfl, fun n u => ⟨fun _ => rfl, nofun, nofun⟩⟩
      · exact ⟨_, rfl, fun n u => ⟨nofun, fun _ => rfl, nofun⟩⟩
      · exact ⟨_, rfl, fun n u => ⟨nofun, nofun, fun _ => rfl⟩⟩
    subst hact
    refine ⟨State.tiuctl_none, ?_⟩
    rintro x hx rfl
    refine ⟨State.tiuctl_unreached hx, ?_⟩
    rintro v u hv rfl
    obtain ⟨harm, hgate, hdisarm⟩ := hf (mwTiuUnit x.word) (v.tiuctlDone x.gvc)
    have hreached := State.tiuctl_reached (f := f) hx hv
    refine ⟨fun h => hreached.trans (congrArg _ (if_neg h)), fun h => ?_⟩
    have hdone := hreached.trans (congrArg _ (if_pos h))
    exact ⟨fun hc => hdone.trans (congrArg _ (harm hc)), fun hc => hdone.trans (congrArg _ (hgate hc)),
      fun hc => hdone.trans (congrArg _ (hdisarm hc))⟩
  case stop =>
    exact fun s => ⟨State.reachReg_of_reaches effSeqStop, fun r => State.softStop_none, fun p r hr =>
      ⟨State.softStop_endsHere hr, State.softStop_stops hr⟩⟩
  case stopat =>
    exact fun s hr => ⟨execStopatArm_refused hr, execStopatArm_armed hr, State.reachReg_of_reaches effStopatDisarm hr⟩
  case reached =>
    rintro s t rfl
    exact ⟨execStopatReached_idle, fun ha hg => ⟨execStopatReached_passed ha hg, execStopatReached_early ha hg,
      execStopatReached_stops ha hg⟩⟩
  case flags =>
    exact fun s m => ⟨State.reachReg_of_reaches (effUflagSet m), State.reachReg_of_reaches (effUflagClear m),
      fun v => State.hostFlags_alone, fun v x => State.hostFlags_flagOp⟩

end Sys2Proof.Proofs
end

