-- ==== Sys2Proof/Proofs/SegmentsAndStreams.lean ====
section
/-! SUPPORT. What a write of a descriptor, the commands of a stream channel and a fetch do, case by case; then the statement on segment
descriptors and host streams. -/

namespace Sys2Proof.Machine

/-! ## Descriptors (R261, R262, R268) -/

/-- Descriptor k replaced. -/
def State.setSegDesc (s : State) (k : Nat) (d : SegDesc) : State :=
  { s with seg := { s.seg with desc := Assoc.set SegDesc.empty s.seg.desc k d } }

@[simp] theorem State.segDesc_setSegDesc_same (s : State) (k : Nat) (d : SegDesc) : (s.setSegDesc k d).segDesc k = d :=
  Assoc.get_set_same _ _ _ _

theorem State.segDesc_setSegDesc_ne (s : State) {j k : Nat} (d : SegDesc) (h : j ≠ k) : (s.setSegDesc k d).segDesc j = s.segDesc j :=
  Assoc.get_set_ne _ _ _ _ h

/-- The descriptor that words make, with its validity (R261). -/
def checkedDesc (dw0 dw1 dw2 : Nat) : SegDesc := ⟨dw0, dw1, dw2, segReason dw0 dw1 dw2 == 0, segReason dw0 dw1 dw2⟩

section
variable {s : State} {req : Req}

theorem execDescriptorWrite_locked (hr : s.reaches req 0x100010 = true) (h : s.segHolders (s.get (SEG_DIDX.per req)) ≠ 0) :
    execDescriptorWrite req s = .next ((s.incSat SEG_CREFUSED).event srcSegWlock) :=
  (State.reachReg_of_reaches _ hr).trans (if_pos h)

theorem execDescriptorWrite_writes (hr : s.reaches req 0x100010 = true) (h : s.segHolders (s.get (SEG_DIDX.per req)) = 0) :
    execDescriptorWrite req s = .next (s.setSegDesc (s.get (SEG_DIDX.per req))
      (checkedDesc (s.get ((SEG_DW 0).per req)) (s.get ((SEG_DW 1).per req)) (s.get ((SEG_DW 2).per req)))) :=
  (State.reachReg_of_reaches _ hr).trans (if_neg (not_not_intro h))

end

/-! ## Opening and closing a channel (R276, R282) -/

section
variable {s : State} {n : Fin 8}

/-- A channel that takes this width would be refused: its ring is not configured (log entry 109), or the rates add up to too much. -/
def State.openRefused (u : State) (n : Nat) : Prop :=
  u.get (SEG_STR_SIZE n) < 12 ∨ 32 < u.get (SEG_STR_SIZE n) ∨ u.rateTooHigh (fun m => m == n || u.on (SEG_STR_STATUS_OPEN m)) = true

theorem execStreamOpen_open {w : Fin 4} (hr : s.reaches .host 0x100400 = true) (h : s.on (SEG_STR_STATUS_OPEN n.val) = true) :
    execStreamOpen n w s = .next s :=
  (State.reachReg_of_reaches _ hr).trans (if_pos h)

theorem execStreamOpen_refused {w : Fin 4} (hr : s.reaches .host 0x100400 = true) (h : s.on (SEG_STR_STATUS_OPEN n.val) = false)
    (hb : (s.put (SEG_STR_CTRL_WIDTH n.val) w.val).openRefused n.val) :
    execStreamOpen n w s = .next ((s.put (SEG_STR_CTRL_WIDTH n.val) w.val).put (SEG_STR_STATUS_RATEREF n.val) 1) := by
  refine (State.reachReg_of_reaches _ hr).trans ((if_neg (ne_true_of_eq_false h)).trans (if_pos ?_))
  simpa only [Bool.or_eq_true, decide_eq_true_eq, or_assoc, State.openRefused] using hb

theorem execStreamOpen_opens {w : Fin 4} {u : State} (hr : s.reaches .host 0x100400 = true) (h : s.on (SEG_STR_STATUS_OPEN n.val) = false)
    (hu : u = s.put (SEG_STR_CTRL_WIDTH n.val) w.val) (hb : ¬ u.openRefused n.val) :
    execStreamOpen n w s = .next (((u.strClear n.val).put (SEG_STR_STATUS_OPEN n.val) 1).put (SEG_STR_STATUS_RUN n.val) 0) := by
  subst hu
  refine (State.reachReg_of_reaches _ hr).trans ((if_neg (ne_true_of_eq_false h)).trans (if_neg ?_))
  simpa only [Bool.or_eq_true, decide_eq_true_eq, or_assoc, State.openRefused] using hb

theorem execStreamClose_of_reaches (hr : s.reaches .host 0x100400 = true) : execStreamClose n s =
    .next (if s.on (SEG_STR_STATUS_RUN n.val) then s.put (SEG_STR_STATUS_CLOSEREF n.val) 1
      else (s.strClear n.val).put (SEG_STR_STATUS_OPEN n.val) 0) :=
  (State.reachReg_of_reaches _ hr).trans (apply_ite Host.Outcome.next _ _ _).symm

end

/-! ## The producer count (R278) -/

section
variable {s : State} {n : Fin 8} {hi : BitVec 32} {v old : Nat}

theorem execStreamProdWrite_takes (hr : s.reaches .host 0x10041C = true) (hv : v = s.get (SEG_STR_PROD_LO n.val) + 2 ^ 32 * hi.toNat)
    (h : Assoc.get 0 s.seg.prod n.val ≤ v ∧
      v ≤ s.get64 (SEG_STR_FETCH_LO n.val) (SEG_STR_FETCH_HI n.val) + 2 ^ s.get (SEG_STR_SIZE n.val)) :
    execStreamProdWrite n hi s = .next { s.put (SEG_STR_PROD_HI n.val) hi.toNat with
      seg := { s.seg with prod := Assoc.set 0 s.seg.prod n.val v } } := by
  subst hv
  refine (State.reachReg_of_reaches _ hr).trans (if_neg ?_)
  simpa only [Bool.or_eq_true, decide_eq_true_eq, not_or, Nat.not_lt] using h

theorem execStreamProdWrite_ignored (hr : s.reaches .host 0x10041C = true)
    (hv : v = s.get (SEG_STR_PROD_LO n.val) + 2 ^ 32 * hi.toNat)
    (h : v < Assoc.get 0 s.seg.prod n.val ∨
      s.get64 (SEG_STR_FETCH_LO n.val) (SEG_STR_FETCH_HI n.val) + 2 ^ s.get (SEG_STR_SIZE n.val) < v) :
    execStreamProdWrite n hi s = .next ((s.put64 (SEG_STR_PROD_LO n.val) (SEG_STR_PROD_HI n.val) (Assoc.get 0 s.seg.prod n.val)).put
      (SEG_STR_STATUS_PRODERR n.val) 1) := by
  subst hv
  refine (State.reachReg_of_reaches _ hr).trans (if_pos ?_)
  simpa only [Bool.or_eq_true, decide_eq_true_eq] using h

end

/-! ## Fetches (R278, R279, R281) -/

/-- The first k of the bytes d, fetched at count f, as channel n takes them: those that an underrun has missed are discarded. -/
def State.strTake (s : State) (n f k : Nat) (d : List Byte) : State :=
  let m := min k (Assoc.get 0 s.seg.skip n)
  { s.put64 (SEG_STR_FETCH_LO n) (SEG_STR_FETCH_HI n) (f + k) with
    seg := { s.seg with buf := Assoc.set [] s.seg.buf n (s.strBuf n ++ (d.take k).drop m)
                        skip := Assoc.set 0 s.seg.skip n (Assoc.get 0 s.seg.skip n - m) } }

section
variable {s : State} {n f k : Nat} {d : List Byte}

theorem State.strBuf_strTake_same :
    (s.strTake n f k d).strBuf n = s.strBuf n ++ (d.take k).drop (min k (Assoc.get 0 s.seg.skip n)) :=
  Assoc.get_set_same _ _ _ _

theorem State.skip_strTake_same :
    Assoc.get 0 (s.strTake n f k d).seg.skip n = Assoc.get 0 s.seg.skip n - min k (Assoc.get 0 s.seg.skip n) :=
  Assoc.get_set_same _ _ _ _

theorem State.strBuf_strTake_ne {j : Nat} (h : j ≠ n) : (s.strTake n f k d).strBuf j = s.strBuf j := Assoc.get_set_ne _ _ _ _ h

theorem State.skip_strTake_ne {j : Nat} (h : j ≠ n) : Assoc.get 0 (s.strTake n f k d).seg.skip j = Assoc.get 0 s.seg.skip j :=
  Assoc.get_set_ne _ _ _ _ h

end

section
variable {s : State} {n : Fin 8} {a : BitVec 64} {d : List Byte} {f : Nat}

theorem execStreamFetch_nothing (hf : f = s.get64 (SEG_STR_FETCH_LO n.val) (SEG_STR_FETCH_HI n.val))
    (h : s.on (SEG_STR_STATUS_OPEN n.val) = false ∨ s.dmaOn = false ∨ a.toNat ≠ s.ringAddr n.val f) : execStreamFetch n a d s = .next s := by
  subst hf
  refine if_pos ?_
  simpa only [Bool.or_eq_true, Bool.not_eq_true', decide_eq_true_eq, or_assoc] using h

theorem execStreamFetch_takes (hf : f = s.get64 (SEG_STR_FETCH_LO n.val) (SEG_STR_FETCH_HI n.val))
    (ho : s.on (SEG_STR_STATUS_OPEN n.val) = true) (hd : s.dmaOn = true) (ha : a.toNat = s.ringAddr n.val f) :
    execStreamFetch n a d s = .next (s.strTake n.val f (min d.length (min (Assoc.get 0 s.seg.prod n.val - f)
      (min (524288 - (s.strBuf n.val).length) (2 ^ s.get (SEG_STR_SIZE n.val) - f % 2 ^ s.get (SEG_STR_SIZE n.val))))) d) := by
  subst hf
  refine if_neg ?_
  simp only [ho, hd, ha, Bool.not_true, ne_eq, not_true, decide_false, Bool.or_self, Bool.false_eq_true, not_false_eq_true]

end

end Sys2Proof.Machine

namespace Sys2Proof.Proofs

open Sys2Proof.Machine

/-- Settles O15: each command by the cases of its register and its channel. -/
theorem segmentsAndStreams : Obligations.SegmentsAndStreams := by
  unfold Obligations.SegmentsAndStreams
  refine ⟨fun s req k hr => State.reachReg_of_reaches (effSegDidxWrite req k) hr, ?write, ?opens, fun s n hr => execStreamClose_of_reaches hr,
    ?prod, ?fetch⟩
  case write =>
    rintro s req k r hr rfl rfl
    refine ⟨execDescriptorWrite_locked hr, fun h => completes_of_eq (execDescriptorWrite_writes hr h) ⟨?_, fun j hj => ?_, rfl⟩⟩
    · exact State.segDesc_setSegDesc_same _ _ _
    · exact State.segDesc_setSegDesc_ne _ _ hj
  case opens =>
    rintro s u n w bad hr rfl hbad
    exact ⟨execStreamOpen_open hr, fun h hb => execStreamOpen_refused hr h (hbad.mp hb),
      fun h hb => execStreamOpen_opens hr h rfl (mt hbad.mpr hb)⟩
  case prod =>
    rintro s n hi v old top hr hv rfl rfl
    exact ⟨execStreamProdWrite_takes hr hv, execStreamProdWrite_ignored hr hv⟩
  case fetch =>
    rintro s n a d f k m hf rfl rfl
    refine ⟨execStreamFetch_nothing hf, fun ho hd ha => completes_of_eq (execStreamFetch_takes hf ho hd ha) ?_⟩
    exact ⟨State.strBuf_strTake_same, State.skip_strTake_same, fun j hj => ⟨State.strBuf_strTake_ne hj, State.skip_strTake_ne hj⟩, rfl, rfl⟩

end Sys2Proof.Proofs
end

