-- ==== Sys2Proof/Proofs/PlaylistQueue.lean ====
section
/-! SUPPORT. That the end of a measurement raises TIU_DONE (R440), also when a refused playlist frees its units (R433, R439); then the
statement on the playlist queue, which this refutes. -/

namespace Sys2Proof.Machine

/-! ## Occurrences that stay -/

/-- Where each step of a fold only adds to the end of a list, so does the fold. -/
theorem foldl_extends {α β γ : Type} (P : α → List γ) {f : α → β → α} (h : ∀ a b, P a <+: P (f a b)) (l : List β) (a : α) :
    P a <+: P (l.foldl f a) := by
  induction l generalizing a with
  | nil => exact List.prefix_refl _
  | cons b l ih => exact (h a b).trans (ih _)

section
variable (s : State)

@[simp] theorem State.free_raised : s.free.2.raised = s.raised := rfl
@[simp] theorem State.setTiu_raised (n : Nat) (u : TiuUnit) : (s.setTiu n u).raised = s.raised := rfl
@[simp] theorem State.tiuArmUnit_raised (n : Nat) : (s.tiuArmUnit n).raised = s.raised := rfl
@[simp] theorem State.setHeads_raised : s.setHeads.raised = s.raised := rfl

@[simp] theorem State.tiuPost_raised (n e : Nat) (u : TiuUnit) : (s.tiuPost n e u).raised = s.raised := by
  unfold State.tiuPost
  apply foldl_keeps
  simp

theorem State.raised_extends_dropItem (q k : Nat) : s.raised <+: (s.dropItem q k).raised := List.prefix_append _ _

/-- A record offered to a queue raises at most an event of the queue's own (R635). -/
theorem State.raised_extends_enq (q : Nat) (bytes : List (BitVec 8)) : s.raised <+: (s.enq q bytes).raised := by
  simp only [State.enq, State.enqueue]
  split
  · exact List.prefix_refl _
  · split
    · exact List.prefix_refl _
    · exact s.raised_extends_dropItem q _

theorem State.raised_extends_tiuRecords (n e : Nat) (u : TiuUnit) : s.raised <+: (s.tiuRecords n e u).raised := by
  unfold State.tiuRecords
  split
  · exact foldl_extends State.raised (fun t _ => t.raised_extends_enq _ _) _ _
  · exact List.prefix_refl _

/-! ## The end of a measurement (R439, R440) -/

variable {s}

/-- An event that a state raises stands before whatever its records raise. -/
theorem State.raised_raise_tiuRecords {t : State} (src a v n e : Nat) (u : TiuUnit) (h : t.raised = s.raised) :
    ∃ r, s.raised ++ [r] <+: ((t.raise src a v).tiuRecords n e u).raised := by
  have hextends := (t.raise src a v).raised_extends_tiuRecords n e u
  rw [State.raise_raised, h] at hextends
  exact ⟨_, hextends⟩

/-- A measurement in progress that ends raises TIU_DONE. -/
theorem State.raised_tiuEnd_of_busy {n : Nat} (e : Nat) (h : s.tiuBusy n = true) : ∃ r, s.raised ++ [r] <+: (s.tiuEnd n e).raised := by
  rw [State.tiuEnd, if_neg (by simp [h])]
  cases he : (s.tiuUnit n).e0 <;> simp only [apply_ite State.raised, State.tiuArmUnit_raised, State.setTiu_raised, ite_self] <;>
    exact State.raised_raise_tiuRecords _ _ _ _ _ _ (by simp [he, apply_ite State.raised])

theorem State.raised_extends_tiuEnd (n e : Nat) : s.raised <+: (s.tiuEnd n e).raised := by
  cases h : s.tiuBusy n with
  | false => simp [State.tiuEnd, h]
  | true =>
    obtain ⟨r, hr⟩ := State.raised_tiuEnd_of_busy e h
    exact (List.prefix_append _ _).trans hr

/-! ## A refused playlist frees its units (R433) -/

theorem State.tiuFree_raised (n : Nat) : (s.tiuFree n).raised = (s.tiuEnd n 2).raised := rfl

/-- A measurement of unit 0 that the claim holds ends when the claim is freed. -/
theorem State.raised_tiuFreeClaim_of_busy {mask : Nat} (hm : bitAt mask 0 = true) (ho : s.get (TIU_STATUS_OWNER 0) = tiuPlay)
    (hb : s.tiuBusy 0 = true) : ∃ r, s.raised ++ [r] <+: (s.tiuFreeClaim mask).raised := by
  obtain ⟨r, hr⟩ := State.raised_tiuEnd_of_busy 2 hb
  rw [State.tiuFreeClaim, List.range_succ_eq_map, List.foldl_cons, if_pos (by simp [hm, ho])]
  refine ⟨r, hr.trans (foldl_extends State.raised (fun t n => ?_) _ (s.tiuFree 0))⟩
  split
  · exact t.raised_extends_tiuEnd n 2
  · exact List.prefix_refl _

/-- A refusal raises SEG_PLREF after whatever the freed units raise. -/
theorem State.refusePlaylist_raised {p : Playlist} (code : Nat) (hq : s.seq.queued = some p) (hr : s.seq.queuedReady = true) :
    ∃ r, (s.refusePlaylist code).raised = (s.tiuFreeClaim p.claim).raised ++ [r] := by
  simp only [State.refusePlaylist, hq, hr, State.setHeads_raised, State.reportRefusal, State.event_eq, State.raise_raised, State.inc_raised,
    State.put_raised, apply_ite State.raised, ite_self]
  exact ⟨_, rfl⟩

end

/-- A playlist of one word and one segment that claims unit 0. -/
def claimsUnit : Playlist where
  number := 1
  waiting := true
  pclass := 0
  uipv := 0
  claim := 1
  first := 5
  last := 5
  sites := 1
  roots := [⟨5, 0, 0⟩]
  segs := [3]
  at_ := none
  bad := 0

/-- That playlist is queued and checked, and the unit is armed. -/
def queuedWhileArmed : State :=
  (({ State.reset with seq := { State.reset.seq with queued := some claimsUnit, queuedReady := true } } : State).put
    (TIU_STATUS_OWNER 0) tiuPlay).put (TIU_STATUS_ARMED 0) 1

theorem queuedWhileArmed_owner : queuedWhileArmed.get (TIU_STATUS_OWNER 0) = tiuPlay := by
  rw [queuedWhileArmed, State.get_put_ne _ _ (by decide), State.get_put_same]
  rfl

theorem queuedWhileArmed_busy : queuedWhileArmed.tiuBusy 0 = true := by
  have harmed : queuedWhileArmed.get (TIU_STATUS_ARMED 0) = 1 := State.get_put_same _ _ _
  simp [State.tiuBusy, State.on, harmed]

end Sys2Proof.Machine

namespace Sys2Proof.Proofs

open Sys2Proof.Machine

/-- Refutes O16: the clause on a refusal says that SEG_PLREF is all that it raises. A refusal also frees the units that the queued playlist has
claimed (R433), which ends a measurement of theirs (R439) with its own TIU_DONE (R440): with unit 0 armed, two events or more are raised. -/
theorem not_playlistQueue : ¬ Obligations.PlaylistQueue := by
  unfold Obligations.PlaylistQueue
  rintro ⟨-, -, -, hrefuse, -⟩
  obtain ⟨-, -, -, -, -, -, -, ⟨plref, hraised, -⟩, -⟩ := hrefuse queuedWhileArmed 0xF (by decide)
  obtain ⟨last, hlast⟩ := State.refusePlaylist_raised (s := queuedWhileArmed) 0xF rfl rfl
  obtain ⟨done, hdone⟩ := State.raised_tiuFreeClaim_of_busy (mask := claimsUnit.claim) (by decide) queuedWhileArmed_owner queuedWhileArmed_busy
  have hlen := hdone.length_le
  have hevents := congrArg List.length (hraised.symm.trans hlast)
  simp only [List.length_append, List.length_singleton] at hlen hevents
  omega

end Sys2Proof.Proofs
end

