-- ==== Sys2Proof/Proofs/PatternGenerators.lean ====
section
/-! SUPPORT. What a write of a generator's program, its scrub and each command of the table loader do, case by case; then the statement on
program writes and table loads. -/

namespace Sys2Proof.Machine

/-! ## Checked writes of an instruction (R300, R301) -/

section
variable {s : State} {g n iw chk : Nat}

theorem State.writeIw_checkFails (h : chk ≠ codeBits 64 12 iw n) :
    s.writeIw g n iw chk = (s.setIw g n ⟨iw, chk, false, 1, 0⟩).iwFailed :=
  if_pos h

theorem State.writeIw_illegal (h : chk = codeBits 64 12 iw n) (hr : iwReason iw ≠ 0) :
    s.writeIw g n iw chk = (s.setIw g n ⟨iw, chk, false, iwReason iw, 0⟩).iwFailed :=
  (if_neg (not_not_intro h)).trans (if_pos hr)

theorem State.writeIw_valid (h : chk = codeBits 64 12 iw n) (hr : iwReason iw = 0) :
    s.writeIw g n iw chk = s.setIw g n ⟨iw, chk, true, 0, 0⟩ :=
  (if_neg (not_not_intro h)).trans (if_neg (not_not_intro hr))

end

/-! ## Writes of the program area (R301, R306) -/

section
variable {s : State} {req : Req} {g : Fin 2} {n : Fin 4096}

theorem execApgIwLatch_locked {i : Fin 2} {d : BitVec 32} (hr : s.reaches req 0x5000000 = true) (hl : s.apgLocked = true) :
    execApgIwLatch req g n i d s = .next s.apgRefuse :=
  (State.reachReg_of_reaches _ hr).trans (if_pos hl)

theorem execApgIwLatch_latches {i : Fin 2} {d : BitVec 32} (hr : s.reaches req 0x5000000 = true) (hl : s.apgLocked = false) :
    execApgIwLatch req g n i d s = .next (s.latchWord (1 + g.val) req n.val i.val d.toNat) :=
  (State.reachReg_of_reaches _ hr).trans (if_neg (ne_true_of_eq_false hl))

theorem execApgIwchkWrite_locked {c : BitVec 16} (hr : s.reaches req 0x5000000 = true) (hl : s.apgLocked = true) :
    execApgIwchkWrite req g n c s = .next (s.emptyLatch (1 + g.val) req).apgRefuse :=
  (State.reachReg_of_reaches _ hr).trans (if_pos hl)

theorem execApgIwchkWrite_incomplete {c : BitVec 16} (hr : s.reaches req 0x5000000 = true) (hl : s.apgLocked = false)
    (h : (s.latch (1 + g.val) req).key ≠ n.val ∨ (s.latch (1 + g.val) req).words.length ≠ 2) : execApgIwchkWrite req g n c s =
      .next ((s.emptyLatch (1 + g.val) req).setIw g.val n.val { s.iw g.val n.val with valid := false, reason := 2 }).iwFailed := by
  refine (State.reachReg_of_reaches _ hr).trans ((if_neg (ne_true_of_eq_false hl)).trans (if_neg ?_))
  simpa only [Bool.and_eq_true, decide_eq_true_eq, Decidable.not_and_iff_not_or_not] using h

theorem execApgIwchkWrite_complete {c : BitVec 16} (hr : s.reaches req 0x5000000 = true) (hl : s.apgLocked = false)
    (hk : (s.latch (1 + g.val) req).key = n.val) (hw : (s.latch (1 + g.val) req).words.length = 2) : execApgIwchkWrite req g n c s =
      .next ((s.emptyLatch (1 + g.val) req).writeIw g.val n.val (Assoc.get 0 (s.latch (1 + g.val) req).words 0 +
        2 ^ 32 * Assoc.get 0 (s.latch (1 + g.val) req).words 1) c.toNat) := by
  refine (State.reachReg_of_reaches _ hr).trans ((if_neg (ne_true_of_eq_false hl)).trans (if_pos ?_))
  simp only [hk, hw, decide_true, Bool.and_self]

end

/-! ## The scrub (R304) -/

section
variable {s t : State} {g : Fin 2} {n : Fin 4096} {f : BitVec 80}

@[simp] theorem Slot.upsetBy_valid (v : Slot) (flip : Nat) : (v.upsetBy flip).valid = v.valid := rfl

theorem execApgScrub_off (h : s.on APG_CTRL_SCRUB_EN = false ∨ (s.iw g.val n.val).valid = false) : execApgScrub g n f s = .next s := by
  refine if_pos ?_
  simpa only [Bool.or_eq_true, Bool.not_eq_true', Slot.upsetBy_valid] using h

/-- With the scrub on, a valid instruction is not passed over, whatever bits are upset. -/
theorem not_apgScrub_passes (he : s.on APG_CTRL_SCRUB_EN = true) (hv : (s.iw g.val n.val).valid = true) :
    ¬ (!s.on APG_CTRL_SCRUB_EN || !((s.iw g.val n.val).upsetBy f.toNat).valid) = true := by
  simp only [he, Slot.upsetBy_valid, hv, Bool.not_true, Bool.or_self, Bool.false_eq_true, not_false_eq_true]

theorem execApgScrub_writesBack {w : Nat} (he : s.on APG_CTRL_SCRUB_EN = true) (hv : (s.iw g.val n.val).valid = true)
    (hr : s.iwRead g.val n.val f.toNat = (some w, t)) : execApgScrub g n f s = .next (t.setIw g.val n.val
      { (s.iw g.val n.val).upsetBy f.toNat with mw := w, chk := codeBits 64 12 w n.val, upset := 0 }) := by
  refine (if_neg (not_apgScrub_passes he hv)).trans ?_
  rw [hr]

theorem execApgScrub_invalidates (he : s.on APG_CTRL_SCRUB_EN = true) (hv : (s.iw g.val n.val).valid = true)
    (hr : s.iwRead g.val n.val f.toNat = (none, t)) : execApgScrub g n f s = .next (t.setIw g.val n.val
      { (s.iw g.val n.val).upsetBy f.toNat with valid := false, reason := 0xD }) := by
  refine (if_neg (not_apgScrub_passes he hv)).trans ?_
  rw [hr]

end

/-! ## The table loader (R314, R315, R318) -/

/-- The table loader's run replaced. -/
def State.setTld (s : State) (r : LoaderRun) : State := { s with apg := { s.apg with tld := some r } }

/-- The registers as an accepted GO leaves them: the loader is busy and has done nothing. -/
def State.tldBegin (s : State) : State := ((s.put APG_STATUS_TLBUSY 1).put APG_TLD_DONE 0).put APG_TLD_BAD 0

/-- The run that GO starts; its first image is not yet asked for. -/
def State.tldRun (s : State) : LoaderRun :=
  ⟨s.get64 APG_TLD_SRC_LO APG_TLD_SRC_HI, s.get APG_TLD_TGT_FIRST, s.get APG_TLD_COUNT, false,
    s.get APG_TLD_TGT_GEN * 4 + s.get APG_TLD_TGT_TBL, 0, false⟩

/-- Entries of the table that APG_TLD_TGT names. -/
def State.tldEntries (s : State) : Nat := if s.get APG_TLD_TGT_TBL = 3 then 4096 else 65536

section
variable {s : State} {r : LoaderRun}

theorem State.tldAsk_setTld_end (h : r.count ≤ r.done) : (s.setTld r).tldAsk = s.setTld { r with reading := false } := by
  have hmore : (decide (r.done < r.count) && !r.aborted) = false := by simp only [Nat.not_lt.mpr h, decide_false, Bool.false_and]
  simp only [State.tldAsk, State.setTld, hmore, Bool.false_eq_true, if_false]

theorem State.tldAsk_setTld_next (h : r.done < r.count) (ha : r.aborted = false) : (s.setTld r).tldAsk =
    (s.setTld { r with reading := true }).askImage 2 (r.src + tldSize r.target * r.done) (tldSize r.target) := by
  simp only [State.tldAsk, State.setTld, h, ha, decide_true, Bool.not_false, Bool.and_self, if_true]

theorem execApgTldGo_refused (hr : s.reaches .host 0x180010 = true)
    (h : s.on APG_STATUS_TLBUSY = true ∨ s.tldEntries < s.get APG_TLD_TGT_FIRST + s.get APG_TLD_COUNT) :
    execApgTldGo s = .next (s.put APG_STATUS_TLREF 1) := by
  refine (State.reachReg_of_reaches _ hr).trans (if_pos ?_)
  simpa only [Bool.or_eq_true, decide_eq_true_eq, State.tldEntries] using h

theorem execApgTldGo_starts (hr : s.reaches .host 0x180010 = true) (hb : s.on APG_STATUS_TLBUSY = false)
    (hn : s.get APG_TLD_TGT_FIRST + s.get APG_TLD_COUNT ≤ s.tldEntries) :
    execApgTldGo s = .next (s.tldBegin.setTld s.tldRun).tldAsk := by
  refine (State.reachReg_of_reaches _ hr).trans (if_neg ?_)
  simpa only [hb, Bool.false_or, decide_eq_true_eq, Nat.not_lt, State.tldEntries] using hn

theorem execApgTldGo_noImage (hr : s.reaches .host 0x180010 = true) (hb : s.on APG_STATUS_TLBUSY = false)
    (hn : s.get APG_TLD_TGT_FIRST + s.get APG_TLD_COUNT ≤ s.tldEntries) (hc : s.get APG_TLD_COUNT = 0) :
    execApgTldGo s = .next (s.tldBegin.setTld s.tldRun) := by
  rw [execApgTldGo_starts hr hb hn, State.tldAsk_setTld_end (Nat.le_of_eq hc)]
  rfl

theorem execApgTldGo_asks (hr : s.reaches .host 0x180010 = true) (hb : s.on APG_STATUS_TLBUSY = false)
    (hn : s.get APG_TLD_TGT_FIRST + s.get APG_TLD_COUNT ≤ s.tldEntries) (hc : s.get APG_TLD_COUNT ≠ 0) :
    execApgTldGo s = .next ((s.tldBegin.setTld { s.tldRun with reading := true }).askImage 2
      (s.get64 APG_TLD_SRC_LO APG_TLD_SRC_HI) (tldSize s.tldRun.target)) := by
  rw [execApgTldGo_starts hr hb hn, State.tldAsk_setTld_next (Nat.pos_of_ne_zero hc) rfl]
  rfl

theorem execApgTldDone_idle (h : s.apg.tld = none) : execApgTldDone s = .next s := by
  simp only [execApgTldDone, h]

theorem execApgTldDone_reading (h : s.apg.tld = some r) (hr : r.reading = true) : execApgTldDone s = .next s := by
  simp only [execApgTldDone, h, hr, if_true]

theorem execApgTldDone_ends (h : s.apg.tld = some r) (hr : r.reading = false) : execApgTldDone s =
    .next { (s.put APG_STATUS_TLBUSY 0).put APG_STATUS_TLDONE 1 with apg := { s.apg with tld := none } } := by
  simp only [execApgTldDone, h, hr, Bool.false_eq_true, if_false]

end

end Sys2Proof.Machine

namespace Sys2Proof.Proofs

open Sys2Proof.Machine

/-- Settles O14: each command by its cases; a completing write is the checked write of a full latch, and a GO that is accepted is the loader's
request for the first image of a fresh run. -/
theorem patternGenerators : Obligations.PatternGenerators := by
  unfold Obligations.PatternGenerators
  refine ⟨?latch, ?write, fun s g n f => execApgScrub_off, ?scrub, ?go, fun s hr => State.reachReg_of_reaches effApgTldAbort hr, ?done⟩
  case latch =>
    exact fun s req g n i d c hr => ⟨fun hl => ⟨execApgIwLatch_locked hr hl, execApgIwchkWrite_locked hr hl⟩, execApgIwLatch_latches hr⟩
  case write =>
    rintro s req g n c l i hr hl rfl rfl
    refine ⟨execApgIwchkWrite_incomplete hr hl, fun hk hw => ?_⟩
    rw [exec_apgIwchkWrite, execApgIwchkWrite_complete hr hl hk hw]
    exact ⟨fun h => congrArg _ (State.writeIw_checkFails h), fun h hi => congrArg _ (State.writeIw_illegal h hi),
      fun h hi => congrArg _ (State.writeIw_valid h hi)⟩
  case scrub =>
    rintro s t g n f v he hv rfl
    exact ⟨fun w => execApgScrub_writesBack he hv, execApgScrub_invalidates he hv⟩
  case go =>
    rintro s n hr rfl
    refine ⟨execApgTldGo_refused hr, ?_⟩
    rintro hb hn r rfl
    refine ⟨fun hc => ?_, fun hc => ?_⟩
    · have hnone : decide (0 < s.get APG_TLD_COUNT) = false := by simp only [hc, Nat.lt_irrefl, decide_false]
      rw [hnone]
      exact execApgTldGo_noImage hr hb hn hc
    · have hsome : decide (0 < s.get APG_TLD_COUNT) = true := decide_eq_true (Nat.pos_of_ne_zero hc)
      rw [hsome]
      exact execApgTldGo_asks hr hb hn hc
  case done => exact fun s => ⟨execApgTldDone_idle, fun r h => ⟨execApgTldDone_reading h, execApgTldDone_ends h⟩⟩

end Sys2Proof.Proofs
end

