-- ==== Sys2Proof/Proofs/TableEntries.lean ====
section
/-! SUPPORT. The seven words that the write of a CFG word makes an entry of, and what it does with them while a commit locks the entry's class
and otherwise, for timing sets and for level sets; then the statement on both. -/

namespace Sys2Proof.Machine

/-! ## Timing sets (R340 to R344) -/

/-- The seven words that a write of PTF_TS_CFG makes the entry of: the CFG word written, and what the latch holds or the entry held. -/
def State.tsMerged (s : State) (req : Req) (c k cfg : Nat) : Nat → Nat :=
  fun i => if i = 6 then cfg else s.merged 3 req (c * 1024 + k) (tsWord s.shadow c k) i

/-- The latch is empty, and the shadow entry holds seven words w. -/
def State.tsStored (s : State) (req : Req) (c k : Nat) (w : Nat → Nat) : State :=
  ((List.range 7).foldl (fun t i => t.putShadow (PTF_TS_W c k i) (w i)) (s.emptyLatch 3 req)).cleanShadow 0 (tsOff c k)

section
variable {s : State} {req : Req} {c : Fin 256} {k : Fin 1024} {d : BitVec 32}

theorem execPtfTsCfgWrite_locked (hr : s.reaches req 0x1000000 = true) (hl : s.classLocked 0 = true) :
    execPtfTsCfgWrite req c k d s = .next (s.emptyLatch 3 req).refuseRwc :=
  (State.reachReg_of_reaches _ hr).trans (if_pos hl)

theorem execPtfTsCfgWrite_unlocked {w : Nat → Nat} (hr : s.reaches req 0x1000000 = true) (hl : s.classLocked 0 = false)
    (hw : w = s.tsMerged req c.val k.val d.toNat) : execPtfTsCfgWrite req c k d s =
      .next (if tsReason s.clk.vset w = 0 then s.tsStored req c.val k.val w
        else (s.tsStored req c.val k.val w).tsRejected c.val k.val (tsReason s.clk.vset w)) :=
  hw ▸ (State.reachReg_of_reaches _ hr).trans (if_neg (ne_true_of_eq_false hl))

end

/-! ## Level sets (R368, R369) -/

/-- The seven words that a write of LVL_LS_CFG makes the entry of. -/
def State.lsMerged (s : State) (req : Req) (c k cfg : Nat) : Nat → Nat :=
  fun i => if i = 6 then cfg else s.merged 4 req (c * 256 + k) (lsWord s.shadow c k) i

/-- The latch is empty, and the shadow entry holds seven words w. -/
def State.lsStored (s : State) (req : Req) (c k : Nat) (w : Nat → Nat) : State :=
  ((List.range 7).foldl (fun t i => t.putShadow (LVL_LS_W c k i) (w i)) (s.emptyLatch 4 req)).cleanShadow 1 (lsOff c k)

section
variable {s : State} {req : Req} {c : Fin 256} {k : Fin 256} {d : BitVec 32}

theorem execLvlLsCfgWrite_locked (hr : s.reaches req 0x1008000 = true) (hl : s.classLocked 1 = true) :
    execLvlLsCfgWrite req c k d s = .next (s.emptyLatch 4 req).refuseRwc :=
  (State.reachReg_of_reaches _ hr).trans (if_pos hl)

theorem execLvlLsCfgWrite_unlocked {w : Nat → Nat} (hr : s.reaches req 0x1008000 = true) (hl : s.classLocked 1 = false)
    (hw : w = s.lsMerged req c.val k.val d.toNat) : execLvlLsCfgWrite req c k d s =
      .next (if lsReason s.clk.vset w = 0 then s.lsStored req c.val k.val w
        else (s.lsStored req c.val k.val w).lsRejected c.val k.val (lsReason s.clk.vset w)) :=
  hw ▸ (State.reachReg_of_reaches _ hr).trans (if_neg (ne_true_of_eq_false hl))

end

end Sys2Proof.Machine

namespace Sys2Proof.Proofs

open Sys2Proof.Machine

/-- Settles O13: a word of the latch is the effect of its write, and the write of a CFG word is read off the lock of its class and the REASON
of the words that it merges. -/
theorem tableEntries : Obligations.TableEntries := by
  unfold Obligations.TableEntries
  refine ⟨fun s req c k i d hr => State.reachReg_of_reaches _ hr, fun s req c k i d hr => State.reachReg_of_reaches _ hr, ?ts, ?ls⟩
  case ts =>
    intro s req c k d w hr hw
    exact ⟨execPtfTsCfgWrite_locked hr,
      fun hl h => (execPtfTsCfgWrite_unlocked hr hl hw).trans (congrArg _ (if_pos h)),
      fun hl h => (execPtfTsCfgWrite_unlocked hr hl hw).trans (congrArg _ (if_neg h))⟩
  case ls =>
    intro s req c k d w hr hw
    exact ⟨execLvlLsCfgWrite_locked hr,
      fun hl h => (execLvlLsCfgWrite_unlocked hr hl hw).trans (congrArg _ (if_pos h)),
      fun hl h => (execLvlLsCfgWrite_unlocked hr hl hw).trans (congrArg _ (if_neg h))⟩

end Sys2Proof.Proofs
end

