-- ==== Sys2Proof/Proofs/LandAndCompare.lean ====
section
/-! SUPPORT. What judging a land, standing levels, a drive transition and a compare leave of a channel and of everything else; then the statement
on vectors at the land. -/

namespace Sys2Proof.Machine

/-! ## The comparator's latches (R366) -/

@[simp] theorem State.setChan_flights (s : State) (c : Nat) (l : ChanLand) : (s.setChan c l).land.flights = s.land.flights := rfl

/-- Judging a land moves at most the two latches of its channel. -/
theorem State.judgeLand_cases (s : State) (c : Nat) (t : Int) :
    s.judgeLand c t = s ∨ ∃ a b, s.judgeLand c t = s.setChan c { s.chan c with ah := a, bl := b } := by
  unfold State.judgeLand
  split
  · exact .inr ⟨_, _, rfl⟩
  · exact .inl rfl

section
variable (s : State) (c : Nat) (t : Int)

@[simp] theorem State.judgeLand_clk : (s.judgeLand c t).clk = s.clk := by
  rcases s.judgeLand_cases c t with h | ⟨a, b, h⟩ <;> simp only [h, State.setChan_clk]

@[simp] theorem State.judgeLand_mem : (s.judgeLand c t).mem = s.mem := by
  rcases s.judgeLand_cases c t with h | ⟨a, b, h⟩ <;> simp only [h, State.setChan_mem]

@[simp] theorem State.judgeLand_flights : (s.judgeLand c t).land.flights = s.land.flights := by
  rcases s.judgeLand_cases c t with h | ⟨a, b, h⟩ <;> simp only [h, State.setChan_flights]

theorem State.judgeLand_chan_ne {d : Nat} (h : d ≠ c) : (s.judgeLand c t).chan d = s.chan d := by
  rcases s.judgeLand_cases c t with hj | ⟨a, b, hj⟩ <;> rw [hj]
  exact State.chan_setChan_ne s _ h

/-- A channel judged is the channel before but for its latches. -/
theorem State.judgeLand_chan_same : ∃ a b, (s.judgeLand c t).chan c = { s.chan c with ah := a, bl := b } := by
  rcases s.judgeLand_cases c t with h | ⟨a, b, h⟩ <;> rw [h]
  · exact ⟨_, _, rfl⟩
  · exact ⟨a, b, State.chan_setChan_same s c _⟩

end

section
variable (l : ChanLand) (v : Int)

theorem ChanLand.judged_ah_set (h : l.volt 1 16 + l.halfBand < v) : (l.judged v).ah = true :=
  if_pos (decide_eq_true h)

theorem ChanLand.judged_ah_clear (h : v ≤ l.volt 1 16 + l.halfBand) (hc : v < l.volt 1 16 - l.halfBand ∨ l.halfBand = 0) :
    (l.judged v).ah = false := by
  simp [ChanLand.judged, Int.not_lt.mpr h, hc]

theorem ChanLand.judged_ah_keeps (h : v ≤ l.volt 1 16 + l.halfBand) (hk : l.volt 1 16 - l.halfBand ≤ v) (hb : l.halfBand ≠ 0) :
    (l.judged v).ah = l.ah := by
  simp [ChanLand.judged, Int.not_lt.mpr h, Int.not_lt.mpr hk, hb]

theorem ChanLand.judged_bl_set (h : v < l.volt 1 0 - l.halfBand) : (l.judged v).bl = true :=
  if_pos (decide_eq_true h)

theorem ChanLand.judged_bl_clear (h : l.volt 1 0 - l.halfBand ≤ v) (hc : l.volt 1 0 + l.halfBand < v ∨ l.halfBand = 0) :
    (l.judged v).bl = false := by
  simp [ChanLand.judged, Int.not_lt.mpr h, hc]

theorem ChanLand.judged_bl_keeps (h : l.volt 1 0 - l.halfBand ≤ v) (hk : v ≤ l.volt 1 0 + l.halfBand) (hb : l.halfBand ≠ 0) :
    (l.judged v).bl = l.bl := by
  simp [ChanLand.judged, Int.not_lt.mpr h, Int.not_lt.mpr hk, hb]

end

theorem State.comparator_defined {s : State} {c : Nat} {t v : Int} (h : s.landVolt c t = some v) :
    s.comparator c t = (((s.chan c).judged v).state, s.setChan c ((s.chan c).judged v)) := by
  simp only [State.comparator, h]

theorem State.comparator_undefined {s : State} {c : Nat} {t : Int} (h : s.landVolt c t = none) : (s.comparator c t).1 = s.free.1 % 3 := by
  simp only [State.comparator, h]

/-! ## Standing levels (R372, R374, R375) -/

section
variable (s : State) (f : Flight) (c : Nat)

/-- A channel takes the levels of a vector in one update of its land, and is judged where they differ. -/
theorem State.standLevels_cases : ∃ l, (s.standLevels f c = s.setChan c l ∨ ∃ t, s.standLevels f c = (s.setChan c l).judgeLand c t) ∧
    (f.bad.contains (lsOff c (mwLevelset f.word)) = true → l.standing = (s.chan c).standing ∧ l.settle = (s.chan c).settle) ∧
    (f.bad.contains (lsOff c (mwLevelset f.word)) = false → l.standing = levelWords f c ∧
      l.settle = if levelWords f c = (s.chan c).standing then (s.chan c).settle else some (s.clk.vset.time0 f.gvc)) := by
  unfold State.standLevels
  dsimp only
  split
  next h =>
    refine ⟨_, .inl rfl, fun _ => ⟨rfl, rfl⟩, fun hb => ?_⟩
    have he : levelWords f c = (s.chan c).standing := by
      simpa only [hb, Bool.false_or, beq_iff_eq] using h
    exact ⟨he.symm, (if_pos he).symm⟩
  next h =>
    simp only [Bool.or_eq_true, not_or, Bool.not_eq_true, beq_eq_false_iff_ne] at h
    obtain ⟨hb, he⟩ := h
    exact ⟨_, .inr ⟨_, rfl⟩, fun hb' => absurd (hb.symm.trans hb') (by decide), fun _ => ⟨rfl, (if_neg he).symm⟩⟩

@[simp] theorem State.standLevels_clk : (s.standLevels f c).clk = s.clk := by
  obtain ⟨l, h | ⟨t, h⟩, -⟩ := s.standLevels_cases f c <;> simp [h]

@[simp] theorem State.standLevels_mem : (s.standLevels f c).mem = s.mem := by
  obtain ⟨l, h | ⟨t, h⟩, -⟩ := s.standLevels_cases f c <;> simp [h]

@[simp] theorem State.standLevels_flights : (s.standLevels f c).land.flights = s.land.flights := by
  obtain ⟨l, h | ⟨t, h⟩, -⟩ := s.standLevels_cases f c <;> simp [h]

theorem State.standLevels_chan_ne {d : Nat} (hd : d ≠ c) : (s.standLevels f c).chan d = s.chan d := by
  obtain ⟨l, h | ⟨t, h⟩, -⟩ := s.standLevels_cases f c <;> simp [h, hd, State.judgeLand_chan_ne, State.chan_setChan_ne]

/-- On its own channel a vector's levels become standing, with a settle where they differ, unless their entry failed its check. -/
theorem State.standLevels_chan_same :
    (f.bad.contains (lsOff c (mwLevelset f.word)) = true →
      ((s.standLevels f c).chan c).standing = (s.chan c).standing ∧ ((s.standLevels f c).chan c).settle = (s.chan c).settle) ∧
    (f.bad.contains (lsOff c (mwLevelset f.word)) = false → ((s.standLevels f c).chan c).standing = levelWords f c ∧
      ((s.standLevels f c).chan c).settle =
        if levelWords f c = (s.chan c).standing then (s.chan c).settle else some (s.clk.vset.time0 f.gvc)) := by
  obtain ⟨l, h, hl⟩ := s.standLevels_cases f c
  have hsame : ((s.standLevels f c).chan c).standing = l.standing ∧ ((s.standLevels f c).chan c).settle = l.settle := by
    rcases h with h | ⟨t, h⟩
    · rw [h, State.chan_setChan_same]
      exact ⟨rfl, rfl⟩
    · obtain ⟨a, b, hj⟩ := (s.setChan c l).judgeLand_chan_same c t
      rw [h, hj, State.chan_setChan_same]
      exact ⟨rfl, rfl⟩
  rw [hsame.1, hsame.2]
  exact hl

end

/-! ## A vector lands (R323, R442) -/

theorem nodup_allChannels : allChannels.Nodup := List.nodup_range

theorem mem_allChannels {c : Nat} (h : c < 256) : c ∈ allChannels := List.mem_range.mpr h

/-- A vector's levels have become standing on the channels of a list. -/
def State.stood (s : State) (f : Flight) (l : List Nat) : State := l.foldl (fun t c => t.standLevels f c) s

section
variable (s : State) (f : Flight) (l : List Nat)

@[simp] theorem State.stood_clk : (s.stood f l).clk = s.clk := foldl_keeps State.clk (fun t c => t.standLevels_clk f c) l s
@[simp] theorem State.stood_mem : (s.stood f l).mem = s.mem := foldl_keeps State.mem (fun t c => t.standLevels_mem f c) l s
@[simp] theorem State.stood_flights : (s.stood f l).land.flights = s.land.flights :=
  foldl_keeps (fun t : State => t.land.flights) (fun t c => t.standLevels_flights f c) l s

theorem State.stood_chan_notMem {c : Nat} (h : c ∉ l) : (s.stood f l).chan c = s.chan c := by
  refine List.foldlRecOn l (fun (t : State) d => t.standLevels f d) (motive := fun t => t.chan c = s.chan c) rfl fun t ht d hd => ?_
  have hcd : c ≠ d := fun hcd => h (hcd ▸ hd)
  rw [t.standLevels_chan_ne f d hcd]
  exact ht

/-- The levels that stand on a channel of the list are those that its own step left. -/
theorem State.stood_chan_mem {c : Nat} (hn : l.Nodup) (h : c ∈ l) : ∃ t : State, t.clk = s.clk ∧ t.chan c = s.chan c ∧
    (s.stood f l).chan c = (t.standLevels f c).chan c := by
  obtain ⟨before, after, rfl⟩ := List.append_of_mem h
  have hc : c ∉ before ∧ c ∉ after := by
    simp only [List.nodup_append, List.nodup_cons] at hn
    exact ⟨fun hb => hn.2.2 c hb c List.mem_cons_self rfl, hn.2.1.1⟩
  refine ⟨s.stood f before, s.stood_clk f before, s.stood_chan_notMem f before hc.1, ?_⟩
  rw [State.stood, List.foldl_append, List.foldl_cons]
  exact State.stood_chan_notMem _ f after hc.2

/-- The vector of cycle g is marked as landed. -/
def State.markLanded (s : State) (g : Nat) : State :=
  { s with land := { s.land with
    flights := s.land.flights.map fun x => if x.gvc = g then { x with landed := true } else x
    lastLand := some g } }

theorem State.markLanded_chan (g c : Nat) : (s.markLanded g).chan c = s.chan c := rfl

theorem State.markLanded_flights (g : Nat) : (s.markLanded g).land.flights =
    s.land.flights.map fun x => if x.gvc = g then { x with landed := true } else x := rfl

/-- The gates of the time-interval units that words opened are closed (R442). -/
def State.closeTiuGates (s : State) : State :=
  (List.range 16).foldl (fun t n => if (t.tiuUnit n).gateOpen then t.setTiu n { t.tiuUnit n with gateOpen := false } else t) s

/-- The levels of every channel stand, and the vector is marked as landed. -/
def State.landed (s : State) (f : Flight) : State := (s.stood f allChannels).markLanded f.gvc

theorem State.landVector_eq : s.landVector f = if f.first then (s.landed f).closeTiuGates else s.landed f := rfl

/-- What each closed gate leaves alone, closing them all does. -/
theorem State.closeTiuGates_keeps {γ : Type} (P : State → γ) (h : ∀ (t : State) (n : Nat) (u : TiuUnit), P (t.setTiu n u) = P t) :
    P s.closeTiuGates = P s := by
  refine foldl_keeps P (fun t n => ?_) _ s
  split
  · exact h t n _
  · rfl

/-- What no update of a time-interval unit changes is after a landing as the levels and the mark left it. -/
theorem State.landVector_keeps {γ : Type} (P : State → γ) (h : ∀ (t : State) (n : Nat) (u : TiuUnit), P (t.setTiu n u) = P t) :
    P (s.landVector f) = P (s.landed f) := by
  rw [State.landVector_eq]
  split
  · exact (s.landed f).closeTiuGates_keeps P h
  · rfl

@[simp] theorem State.landVector_clk : (s.landVector f).clk = s.clk :=
  (s.landVector_keeps f State.clk fun _ _ _ => rfl).trans (s.stood_clk f _)

@[simp] theorem State.landVector_mem : (s.landVector f).mem = s.mem :=
  (s.landVector_keeps f State.mem fun _ _ _ => rfl).trans (s.stood_mem f _)

theorem State.landVector_lastLand : (s.landVector f).land.lastLand = some f.gvc :=
  s.landVector_keeps f (fun t => t.land.lastLand) fun _ _ _ => rfl

theorem State.landVector_flights : (s.landVector f).land.flights =
    s.land.flights.map fun x => if x.gvc = f.gvc then { x with landed := true } else x :=
  (s.landVector_keeps f (fun t => t.land.flights) fun _ _ _ => rfl).trans
    ((State.markLanded_flights _ _).trans (congrArg _ (s.stood_flights f _)))

/-- What a landing leaves standing on a channel is what the channel's own step leaves (R372, R374, R375). -/
theorem State.landVector_chan {c : Nat} (hc : c < 256) : ∃ t : State, t.clk = s.clk ∧ t.chan c = s.chan c ∧
    (s.landVector f).chan c = (t.standLevels f c).chan c := by
  obtain ⟨t, hclk, hchan, h⟩ := s.stood_chan_mem f allChannels nodup_allChannels (mem_allChannels hc)
  exact ⟨t, hclk, hchan, (s.landVector_keeps f (fun t => t.chan c) fun _ _ _ => rfl).trans ((State.markLanded_chan _ _ c).trans h)⟩

end

/-! ## VECTOR_LAND and LEVEL_SETTLE_END (R323, R375) -/

section
variable {s : State} {f : Flight}

theorem execVectorLand_none (h : (s.land.flights.find? fun x => !x.landed) = none) : execVectorLand s = .next s := by
  simp only [execVectorLand, h]

theorem execVectorLand_unreached (hf : (s.land.flights.find? fun x => !x.landed) = some f) (h : s.reach (f.gvc + 64) = none) :
    execVectorLand s = .next s := by
  simp only [execVectorLand, hf, h]

theorem execVectorLand_lands {u : State} (hf : (s.land.flights.find? fun x => !x.landed) = some f) (h : s.reach (f.gvc + 64) = some u) :
    execVectorLand s = .next (u.landVector f) := by
  simp only [execVectorLand, hf, h]

end

section
variable {s u : State} {c : Fin 256} {b n : Int} {r : Nat}

theorem execLevelSettleEnd_none (hs : (s.chan c.val).settle = none) (hr : (s.chan c.val).rest = none) :
    execLevelSettleEnd c s = .next s := by
  simp only [execLevelSettleEnd, hs, hr]

theorem execLevelSettleEnd_unreached (hs : (s.chan c.val).settle = some b)
    (h : s.reach ((b + s.clk.vset.settleTime) / s.clk.vset.period).toNat = none) : execLevelSettleEnd c s = .next s := by
  simp only [execLevelSettleEnd, hs, h]

theorem execLevelSettleEnd_ends (hs : (s.chan c.val).settle = some b)
    (h : s.reach ((b + s.clk.vset.settleTime) / s.clk.vset.period).toNat = some u) : execLevelSettleEnd c s =
      .next (u.setChan c.val { u.chan c.val with settle := none, past := (b :: (s.chan c.val).past).take 8 }) := by
  simp only [execLevelSettleEnd, hs, h]

/-- A settle that was running when the gate closed ends by the reference. -/
theorem execLevelSettleEnd_rests (hs : (s.chan c.val).settle = none) (hr : (s.chan c.val).rest = some (n, r))
    (hu : u = s.passRc (r + ((n + 19999) / 20000).toNat - s.time.rc)) : execLevelSettleEnd c s =
      .next (u.setChan c.val { u.chan c.val with rest := none }) := by
  simp only [execLevelSettleEnd, hs, hr, hu]

end

/-! ## EDGE_PLACE (R349, R350, R354, R777) -/

section
variable {s u : State} {e : Edge}

theorem execEdgePlace_none {c : Fin 256} (h : firstEdge (s.dueEdges c.val) = none) : execEdgePlace c s = .next s := by
  simp only [execEdgePlace, h]

theorem execEdgePlace_unreached {c : Fin 256} (he : firstEdge (s.dueEdges c.val) = some e)
    (h : s.reach (e.key.time / s.clk.vset.period).toNat = none) : execEdgePlace c s = .next s := by
  simp only [execEdgePlace, he, h]

theorem execEdgePlace_places {c : Fin 256} (he : firstEdge (s.dueEdges c.val) = some e)
    (h : s.reach (e.key.time / s.clk.vset.period).toNat = some u) :
    execEdgePlace c s = .next ((State.landUpTo e.key.time u.land.flights u).placeEdge c.val e) := by
  simp only [execEdgePlace, he, h]

@[simp] theorem State.runt_land (s : State) (c g : Nat) : (s.runt c g).land = s.land := rfl
@[simp] theorem State.runt_clk (s : State) (c g : Nat) : (s.runt c g).clk = s.clk := rfl
@[simp] theorem State.runt_mem (s : State) (c g : Nat) : (s.runt c g).mem = s.mem := rfl

/-- The driver and its held level once the edges of one vector at the instant of edge e have made their transition. -/
def State.transition (s : State) (c : Nat) (e : Edge) : Nat × Nat :=
  ((s.dueEdges c).filter fun x => x.key.time == e.key.time && x.key.cycle == e.key.cycle).foldl (fun dl x => x.apply dl)
    ((s.chan c).drv, (s.chan c).level)

variable {c : Nat}

theorem State.placeEdge_budding (h : s.budding = true) :
    s.placeEdge c e = s.setChan c { s.chan c with cursor := some { e.key with ord := 16 } } := by
  simp only [State.placeEdge, h, if_true]

theorem State.placeEdge_held (hb : s.budding = false) (h : (s.offLand c || s.pmuHeld c) = true) :
    s.placeEdge c e = s.setChan c { s.chan c with drv := 0, cursor := some { e.key with ord := 16 } } := by
  simp only [State.placeEdge, hb, h, Bool.false_eq_true, if_false, if_true]

/-- Elsewhere the channel takes its transition in one update of its land and is judged, and one that comes too soon is a runt. -/
theorem State.placeEdge_free (hb : s.budding = false) (h : (s.offLand c || s.pmuHeld c) = false) : ∃ l : ChanLand,
    (l.drv = (s.transition c e).1 ∧ l.level = (s.transition c e).2 ∧ l.cursor = some { e.key with ord := 16 }) ∧
    (s.placeEdge c e = (s.setChan c l).judgeLand c e.key.time ∨
      s.placeEdge c e = ((s.setChan c l).judgeLand c e.key.time).runt c e.key.cycle) := by
  simp only [State.placeEdge, hb, h, Bool.false_eq_true, if_false]
  by_cases hd : (s.transition c e).1 = (s.chan c).drv
  · refine ⟨_, ?_, .inl (if_pos hd)⟩
    exact ⟨hd.symm, rfl, rfl⟩
  · refine ⟨_, ?_, (Classical.em _).symm.imp (fun h => (if_neg hd).trans (if_neg h)) fun h => (if_neg hd).trans (if_pos h)⟩
    exact ⟨rfl, rfl, rfl⟩

/-- A transition leaves its channel where the edges of the instant put it, and everything else but the latches alone. -/
theorem State.placeEdge_transition (hb : s.budding = false) (h : (s.offLand c || s.pmuHeld c) = false) :
    (((s.placeEdge c e).chan c).drv = (s.transition c e).1 ∧ ((s.placeEdge c e).chan c).level = (s.transition c e).2 ∧
      ((s.placeEdge c e).chan c).cursor = some { e.key with ord := 16 }) ∧
    (s.placeEdge c e).land.flights = s.land.flights ∧ (∀ d, d ≠ c → (s.placeEdge c e).chan d = s.chan d) ∧
    (s.placeEdge c e).clk = s.clk ∧ (s.placeEdge c e).mem = s.mem := by
  obtain ⟨l, ⟨hdrv, hlevel, hcursor⟩, heq⟩ := State.placeEdge_free (e := e) hb h
  obtain ⟨a, b, hj⟩ := (s.setChan c l).judgeLand_chan_same c e.key.time
  have hland : (s.placeEdge c e).land = ((s.setChan c l).judgeLand c e.key.time).land := by
    rcases heq with heq | heq <;> simp only [heq, State.runt_land]
  have hchan (d : Nat) : (s.placeEdge c e).chan d = ((s.setChan c l).judgeLand c e.key.time).chan d := by
    rw [State.chan, State.chan, hland]
  refine ⟨?_, ?_, fun d hd => ?_, ?_, ?_⟩
  · rw [hchan, hj, State.chan_setChan_same]
    exact ⟨hdrv, hlevel, hcursor⟩
  · rw [hland, State.judgeLand_flights, State.setChan_flights]
  · rw [hchan, State.judgeLand_chan_ne _ _ _ hd, State.chan_setChan_ne _ _ hd]
  · rcases heq with heq | heq <;> simp only [heq, State.runt_clk, State.judgeLand_clk, State.setChan_clk]
  · rcases heq with heq | heq <;> simp only [heq, State.runt_mem, State.judgeLand_mem, State.setChan_mem]

end

/-! ## COMPARE_SAMPLE (R349, R388) -/

/-- The sample joins those of the vector of cycle g, for Rake. -/
def State.keepSample (s : State) (g : Nat) (x : Sample) : State :=
  { s with land := { s.land with flights := s.land.flights.map fun y => if y.gvc = g then { y with samples := y.samples ++ [x] } else y } }

section
variable {s u : State} {g : Gvc} {c : Fin 256} {ui : Fin 8} {ls : List (Bool × BitVec 16)} {held : Bool} {f : Flight} {t : Int}

theorem execCompareSample_noVector (h : ∀ x ∈ s.land.flights, x.gvc ≠ g.toNat ∨ x.cut = true) :
    execCompareSample g c ui ls held s = .next s := by
  have hnone : (s.land.flights.find? fun x => x.gvc == g.toNat && !x.cut) = none := by
    rw [List.find?_eq_none]
    intro x hx
    rcases h x hx with hg | hc
    · simp only [beq_eq_false_iff_ne.mpr hg, Bool.false_and, Bool.false_eq_true, not_false_eq_true]
    · simp only [hc, Bool.not_true, Bool.and_false, Bool.false_eq_true, not_false_eq_true]
  simp only [execCompareSample, hnone]

theorem execCompareSample_unreached (hf : (s.land.flights.find? fun x => x.gvc == g.toNat && !x.cut) = some f)
    (h : s.reach ((s.samplePoints f c.val ui.val).2 / s.clk.vset.period).toNat = none) : execCompareSample g c ui ls held s = .next s := by
  simp only [execCompareSample, hf, h]

theorem execCompareSample_again (hf : (s.land.flights.find? fun x => x.gvc == g.toNat && !x.cut) = some f)
    (hu : s.reach ((s.samplePoints f c.val ui.val).2 / s.clk.vset.period).toNat = some u)
    (h : (f.samples.any fun x => x.ch == c.val && x.ui == ui.val) = true ∨ u.clk.vset.uis ≤ ui.val) :
    execCompareSample g c ui ls held s = .next s := by
  simp only [execCompareSample, hf, hu, Bool.or_eq_true, decide_eq_true_eq, h, if_true]

theorem execCompareSample_samples {v w : State} {cmp res : Nat} (hf : (s.land.flights.find? fun x => x.gvc == g.toNat && !x.cut) = some f)
    (ht : t = (s.samplePoints f c.val ui.val).2) (hu : s.reach (t / s.clk.vset.period).toNat = some u)
    (hd : (f.samples.any fun x => x.ch == c.val && x.ui == ui.val) = false) (hi : ui.val < u.clk.vset.uis)
    (hc : (ls.foldl (fun a x => a.landFrom c.val t x) (u.settleLand c.val t)).comparator c.val t = (cmp, v))
    (hj : v.judge f c.val ui.val cmp held = (res, w)) : execCompareSample g c ui ls held s =
      .next (w.keepSample f.gvc ⟨c.val, ui.val, cmp, (w.chan c.val).drv, res,
        f.gvc + ((t - w.clk.vset.time0 f.gvc) / w.clk.vset.period).toNat⟩) := by
  subst ht
  simp only [execCompareSample, hf, hu, hd, Nat.not_le.mpr hi, decide_false, Bool.or_self, Bool.false_eq_true, if_false, hc, hj]
  rfl

end

/-! ## What becomes of a compare (R97, R351, R376, R389) -/

section
variable {s : State} {f : Flight} {c u cmp n : Nat} {held : Bool} {a b : Int}

theorem State.judge_noPoint (h : s.siteOf c = none ∨ (s.samplePoints f c u).1 = none) : s.judge f c u cmp held = (0, s) := by
  unfold State.judge
  split
  next hs hp => rcases h with h | h <;> simp only [h, reduceCtorEq] at hs hp
  next => rfl

/-- A compare of channel c in UI u is evaluated, from its first sample point a to its last b (R389). -/
structure State.Evaluates (s : State) (f : Flight) (c u n : Nat) (a b : Int) : Prop where
  site : s.siteOf c = some n
  points : (s.samplePoints f c u).1 = some (a, b)
  awake : s.budding = false
  compares : actCompares (s.actionAt f c u) = true
  enabled : bitAt f.enabled n = true
  unmasked : maskedIn f c = false

/-- The driver of a compare that wants it off was not off for long enough (R351). -/
def State.inShadow (s : State) (f : Flight) (c u : Nat) (a : Int) : Bool := !actDriveCompare (s.actionAt f c u) && !s.offBefore c a

theorem State.judge_notEvaluated (hs : s.siteOf c = some n) (hp : (s.samplePoints f c u).1 = some (a, b))
    (h : s.budding = true ∨ actCompares (s.actionAt f c u) = false ∨ bitAt f.enabled n = false ∨ maskedIn f c = true) :
    s.judge f c u cmp held = (0, s) := by
  simp only [State.judge, hs, hp]
  refine if_pos ?_
  simpa only [Bool.or_eq_true, Bool.not_eq_true', or_assoc] using h

/-- A compare that is evaluated meets the PMU, its level-set entry, the settles and the driver's shadow in this order. -/
theorem State.judge_evaluated (h : s.Evaluates f c u n a b) : s.judge f c u cmp held =
    if s.pmuHeld c then (0, s.recordCause (2 ^ n) 1)
    else if f.bad.contains (lsOff c (mwLevelset f.word)) then (0, s)
    else if s.settling c a || s.inShadow f c u a then
      (0, if s.inShadow f c u a then (if s.settling c a then s.unsettled c else s).shadowed c f.gvc
        else if s.settling c a then s.unsettled c else s)
    else
      (if actPasses (s.actionAt f c u) cmp && (held || !s.clk.vset.format || !tsWindow (tsWord f.active c (mwTset f.word))) then 1 else 2,
        s.countCompare f n (f.gvc + ((b - s.clk.vset.time0 f.gvc) / s.clk.vset.period).toNat)
          (!(actPasses (s.actionAt f c u) cmp && (held || !s.clk.vset.format || !tsWindow (tsWord f.active c (mwTset f.word)))))) := by
  obtain ⟨hs, hp, hb, ha, he, hm⟩ := h
  simp only [State.judge, hs, hp]
  refine if_neg ?_
  simp only [hb, ha, he, hm, Bool.not_true, Bool.or_self, Bool.false_eq_true, not_false_eq_true]

end

end Sys2Proof.Machine

namespace Sys2Proof.Proofs

open Sys2Proof.Machine

/-- Settles O23: each command by its cases; what a landing and a transition leave of a channel is what one update of that channel's land leaves,
since judging moves only latches, and an evaluated compare meets its tests in order. -/
theorem landAndCompare : Obligations.LandAndCompare := by
  unfold Obligations.LandAndCompare
  refine ⟨fun s => ⟨execVectorLand_none, fun f hf => ⟨execVectorLand_unreached hf, fun u => execVectorLand_lands hf⟩⟩, ?land, ?settle, ?edge, ?place,
    ?sample, ?judge, ?comparator⟩
  case land =>
    intro s f
    refine ⟨s.landVector_lastLand f, s.landVector_clk f, s.landVector_mem f, s.landVector_flights f, fun c hc => ?_⟩
    obtain ⟨t, hclk, hchan, h⟩ := s.landVector_chan f hc
    rw [h, ← hclk, ← hchan]
    exact t.standLevels_chan_same f c
  case settle =>
    exact fun s c => ⟨execLevelSettleEnd_none, fun b hs => ⟨execLevelSettleEnd_unreached hs, fun u => execLevelSettleEnd_ends hs⟩,
      fun n r u => execLevelSettleEnd_rests⟩
  case edge => exact fun s c => ⟨execEdgePlace_none, fun e he => ⟨execEdgePlace_unreached he, fun u => execEdgePlace_places he⟩⟩
  case place =>
    refine fun s c e => ⟨State.placeEdge_budding, State.placeEdge_held, ?_⟩
    rintro hb hh dl rfl
    obtain ⟨⟨hdrv, hlevel, hcursor⟩, hkept⟩ := State.placeEdge_transition (e := e) hb hh
    exact ⟨hdrv, hlevel, hcursor, hkept⟩
  case sample =>
    refine fun s g c ui ls held => ⟨execCompareSample_noVector, ?_⟩
    rintro f t hf rfl
    exact ⟨execCompareSample_unreached hf, fun u hu => ⟨execCompareSample_again hf hu,
      fun hd hi v w cmp res => execCompareSample_samples hf rfl hu hd hi⟩⟩
  case judge =>
    refine fun s f c u cmp held => ⟨State.judge_noPoint, fun n a b hs hp => ⟨State.judge_notEvaluated hs hp, fun hb ha he hm => ?_⟩⟩
    rw [State.judge_evaluated ⟨hs, hp, hb, ha, he, hm⟩]
    refine ⟨fun h => if_pos h, fun h hl => ?_, ?_⟩
    · rw [h, hl]
      rfl
    rintro h hl shadow rfl
    rw [← State.inShadow]
    simp only [h, hl, Bool.false_eq_true, if_false]
    refine ⟨fun ht hd => ?_, fun ht hd => ?_, fun ht hd => ?_, ?_⟩
    · simp [ht, hd]
    · simp [ht, hd]
    · simp [ht, hd]
    · rintro ht hd ok rfl
      simp [ht, hd]
  case comparator =>
    intro s c t
    refine ⟨fun v => State.comparator_defined, fun h => ⟨_, rfl, State.comparator_undefined h⟩, fun l v => ?_⟩
    exact ⟨l.judged_ah_set v, fun h => ⟨l.judged_ah_clear v h, l.judged_ah_keeps v h⟩,
      l.judged_bl_set v, fun h => ⟨l.judged_bl_clear v h, l.judged_bl_keeps v h⟩⟩

end Sys2Proof.Proofs
end

