-- ==== Sys2Proof/Proofs/RakeAtTake.lean ====
section
/-! SUPPORT. What the take point of a vector leaves alone, stage by stage: time, the sequencer, the land, the requests of the host and the count
of mask violations; the kills of a mask; then the statement on Rake. -/

namespace Sys2Proof.Machine

/-! ## What the stages of a take point keep -/

/-- What no stage of a take point but its beginning and its end moves, a mask violation's count apart (R386, R392, R400). -/
structure TakeKept where
  freeCtr : Nat
  clk : ClkState
  seq : SeqState
  land : LandState
  armReq : Bool
  disarmReq : Bool
  resetReq : Bool
  nmviol : Nat

/-- These parts of a state. -/
def State.takeKept (s : State) : TakeKept :=
  ⟨s.freeCtr, s.clk, s.seq, s.land, s.cap.armReq, s.cap.disarmReq, s.cap.resetReq, s.get CAP_NMVIOL⟩

section
variable (s : State)

@[simp] theorem State.event_takeKept (n : Nat) : (s.event n).takeKept = s.takeKept := rfl

@[simp] theorem State.put_takeKept {f : Field} (v : Nat) (h : CAP_NMVIOL.id ≠ f.id) : (s.put f v).takeKept = s.takeKept := by
  simp only [State.takeKept, State.put_freeCtr, State.put_clk, State.put_seq, State.put_land, State.put_cap, State.get_put_ne s v h]

@[simp] theorem State.inc_takeKept {f : Field} (h : CAP_NMVIOL.id ≠ f.id) : (s.inc f).takeKept = s.takeKept := s.put_takeKept _ h
@[simp] theorem State.incSat_takeKept {f : Field} (h : CAP_NMVIOL.id ≠ f.id) : (s.incSat f).takeKept = s.takeKept := s.put_takeKept _ h

@[simp] theorem State.put64_takeKept {lo hi : Field} (v : Nat) (hlo : CAP_NMVIOL.id ≠ lo.id) (hhi : CAP_NMVIOL.id ≠ hi.id) :
    (s.put64 lo hi v).takeKept = s.takeKept := (State.put_takeKept _ _ hhi).trans (s.put_takeKept _ hlo)

/-- An update of Rake's own state keeps these parts where it keeps the requests of the host. -/
theorem State.withCap_takeKept (k : CapState) (ha : k.armReq = s.cap.armReq) (hd : k.disarmReq = s.cap.disarmReq)
    (hr : k.resetReq = s.cap.resetReq) : ({ s with cap := k } : State).takeKept = s.takeKept := by
  simp only [State.takeKept, ha, hd, hr]
  rfl

/-! ## Reads of class 7 (R822) -/

/-- A failing read counts, and marks its class (R822). -/
theorem State.failedClass_takeKept (v : Nat) : ((s.inc CMT_NINTEG).put CMT_INTEG_ABAD v).takeKept = s.takeKept := by
  simp (disch := decide) only [State.put_takeKept, State.inc_takeKept]

@[simp] theorem State.failRead_takeKept (sites : Nat → Option Nat) (marks fresh : List Nat) :
    (s.failRead sites marks fresh).takeKept = s.takeKept := by
  refine (foldl_keeps State.takeKept (fun t o => ?_) _ _).trans (foldl_keeps State.takeKept (fun t o => ?_) _ _)
  · split
    · split
      · exact t.failedClass_takeKept _
      · exact t.failedClass_takeKept _
    · exact t.inc_takeKept (by decide)
  · split <;> rfl

@[simp] theorem State.failTrig_takeKept (f : Flight) (fresh : List Nat) : (s.failTrig f fresh).takeKept = s.takeKept :=
  s.failRead_takeKept _ _ _

/-! ## The trigger program (R387, R398, R399) -/

@[simp] theorem State.askRakeStop_takeKept (g : Nat) : (s.askRakeStop g).takeKept = s.takeKept := by
  unfold State.askRakeStop
  split <;> rfl

@[simp] theorem State.enterTp_takeKept (n : Nat) : (s.enterTp n).takeKept = s.takeKept := s.put_takeKept (f := CAP_STATUS_ST) n (by decide)

/-- The registers that a FIRE writes (R399, R403). -/
def State.fired (s : State) (f : Flight) : State :=
  (((((s.put CAP_STATUS_FIRED 1).put CAP_STATUS_ARMED 0).put64 CAP_TRIG_GVC_LO CAP_TRIG_GVC_HI f.gvc).put64
    CAP_TRIG_PTR_LO CAP_TRIG_PTR_HI (s.get64 CAP_WPTR_LO CAP_WPTR_HI)).inc CAP_NFIRE).event srcCapFire

theorem State.fired_takeKept (f : Flight) : (s.fired f).takeKept = s.takeKept := by
  simp (disch := decide) only [State.fired, State.event_takeKept, State.inc_takeKept, State.put64_takeKept, State.put_takeKept]

@[simp] theorem State.tpAct_takeKept (f : Flight) (act : Nat) : (s.tpAct f act).takeKept = s.takeKept := by
  unfold State.tpAct
  dsimp only
  split
  · split
    · exact (State.askRakeStop_takeKept _ _).trans (s.fired_takeKept f)
    · exact s.askRakeStop_takeKept _
  · split
    · exact s.fired_takeKept f
    · rfl

@[simp] theorem State.tpStep_takeKept (f : Flight) (tw : Nat) (mviol : Bool) : (s.tpStep f tw mviol).takeKept = s.takeKept := by
  simp only [State.tpStep, apply_ite State.takeKept, State.enterTp_takeKept, State.tpAct_takeKept, ite_self]
  rfl

/-! ## Capture (R404 to R409) -/

@[simp] theorem State.freezeRing_takeKept : s.freezeRing.takeKept = s.takeKept := by
  simp (disch := decide) only [State.freezeRing, apply_ite State.takeKept, State.put_takeKept, ite_self]

@[simp] theorem State.freezeShort_takeKept : s.freezeShort.takeKept = s.takeKept := by
  simp (disch := decide) only [State.freezeShort, apply_ite State.takeKept, State.put_takeKept, State.freezeRing_takeKept, ite_self]

@[simp] theorem State.ringWrite_takeKept (k : Nat) (bs : List (BitVec 8)) : (s.ringWrite k bs).takeKept = s.takeKept := by
  induction bs generalizing s k with
  | nil => rfl
  | cons b bs ih => exact ih _ _

@[simp] theorem State.capPut_takeKept (bs : Nat → List (BitVec 8)) (n : Nat) : (s.capPut bs n).2.takeKept = s.takeKept := by
  simp (disch := decide) only [State.capPut, apply_ite Prod.snd, apply_ite State.takeKept, State.put_takeKept, State.put64_takeKept,
    State.ringWrite_takeKept, State.inc_takeKept, ite_self]

@[simp] theorem State.capDrop_takeKept (g : Nat) : (s.capDrop g).takeKept = s.takeKept :=
  (State.put_takeKept (s.incSat CAP_NDROP) (f := CAP_STATUS_DROP) 1 (by decide)).trans (s.incSat_takeKept (by decide))

@[simp] theorem State.writeGap_takeKept : s.writeGap.takeKept = s.takeKept := by
  unfold State.writeGap
  split
  · rfl
  · split
    · rfl
    · exact State.capPut_takeKept _ _ _

/-- The record of a vector that CAPSEL captures goes into the ring, after a gap still to be marked, or is dropped; with whether it went in. -/
def State.capStore (s : State) (f : Flight) (tw : Nat) (mviol fire : Bool) : Bool × State :=
  let units := captureUnits (s.get CAP_CFG_TILES) (2 ^ f.uipv) (s.on CAP_CFG_DRV)
  let s0 := if s.captures f then s.writeGap else s
  if !s0.captures f then (false, s0)
  else if s0.cap.bufFull then (false, s0.capDrop f.gvc)
  else s0.capPut (s0.captureRecord f units tw mviol fire) (32 * units)

/-- A record that went into the ring counts toward the fill and post counts (R409). -/
def State.capCount (s : State) (done fire : Bool) : State :=
  if done then { s with cap := { s.cap with
    sinceDrop := s.cap.sinceDrop.map (· + 1)
    fill := s.cap.fill + b2n (s.on CAP_STATUS_ARMED)
    post := s.cap.post + b2n (s.on CAP_STATUS_FIRED && !fire) } } else s

/-- The ring is filled before a fire, and freezes after it, once its counts are complete (R409). -/
def State.capClose (s : State) : State :=
  let t := if s.on CAP_STATUS_ARMED && s.get CAP_PRE ≤ s.cap.fill then s.put CAP_STATUS_FILLED 1 else s
  if t.on CAP_STATUS_FIRED && !t.on CAP_STATUS_FROZEN && t.get CAP_POST ≤ t.cap.post then t.freezeRing else t

theorem State.capture_eq (f : Flight) (tw : Nat) (mviol fire : Bool) : s.capture f tw mviol fire =
    ((s.capStore f tw mviol fire).2.capCount (s.capStore f tw mviol fire).1 fire).capClose := rfl

theorem State.capStore_takeKept (f : Flight) (tw : Nat) (mviol fire : Bool) : (s.capStore f tw mviol fire).2.takeKept = s.takeKept := by
  simp only [State.capStore, apply_ite Prod.snd, apply_ite State.takeKept, State.capDrop_takeKept, State.capPut_takeKept,
    State.writeGap_takeKept, ite_self]

theorem State.capCount_takeKept (done fire : Bool) : (s.capCount done fire).takeKept = s.takeKept := by
  unfold State.capCount
  split <;> rfl

theorem State.capClose_takeKept : s.capClose.takeKept = s.takeKept := by
  simp (disch := decide) only [State.capClose, apply_ite State.takeKept, State.freezeRing_takeKept, State.put_takeKept, ite_self]

@[simp] theorem State.capture_takeKept (f : Flight) (tw : Nat) (mviol fire : Bool) : (s.capture f tw mviol fire).takeKept = s.takeKept := by
  rw [State.capture_eq, State.capClose_takeKept, State.capCount_takeKept, State.capStore_takeKept]

/-! ## Failing vectors and fail records (R410, R414 to R418) -/

theorem CAP_NMVIOL_id_ne_siteNfv (n : Nat) : CAP_NMVIOL.id ≠ (CAP_SITE_NFV n).id := by
  simp only [Field.id, CAP_NMVIOL, CAP_SITE_NFV]
  omega

@[simp] theorem State.countFails_takeKept (f : Flight) : (s.countFails f).takeKept = s.takeKept := by
  unfold State.countFails
  split
  · rfl
  · refine foldl_keeps State.takeKept (fun t n => ?_) _ _
    rw [← t.incSat_takeKept (CAP_NMVIOL_id_ne_siteNfv n)]
    dsimp only
    split <;> rfl

@[simp] theorem State.fcWrite_takeKept (v : Nat) : (s.fcWrite v).takeKept = s.takeKept :=
  State.put64_takeKept _ _ (by decide) (by decide)

@[simp] theorem State.fcDrop_takeKept (g : Nat) : (s.fcDrop g).takeKept = s.takeKept :=
  (State.put_takeKept ((s.incSat CAP_FC_NDROP).put CAP_FC_STATUS_DROP 1) (f := CAP_FC_STATUS_GAPPEND) 1 (by decide)).trans
    ((State.put_takeKept _ _ (by decide)).trans (s.incSat_takeKept (by decide)))

/-- The base record that a fail record needs (R417). -/
def State.fcBased (s : State) (f : Flight) : State :=
  if s.cap.fcBase != some (f.gvc / 2 ^ 40) then
    { s.fcWrite (s.fcBaseRecord f) with cap := { (s.fcWrite (s.fcBaseRecord f)).cap with fcBase := some (f.gvc / 2 ^ 40) } }
  else s

theorem State.fcBased_takeKept (f : Flight) : (s.fcBased f).takeKept = s.takeKept := by
  unfold State.fcBased
  split
  · exact (State.withCap_takeKept _ _ rfl rfl rfl).trans (s.fcWrite_takeKept (s.fcBaseRecord f))
  · rfl

/-- A fail record v is written, and counts for its site and in the site's interval (R416, R419). -/
def State.fcStored (s : State) (f : Flight) (site recs v : Nat) : State :=
  ({ s.fcWrite v with cap := { (s.fcWrite v).cap with siteRecs := Assoc.set 0 (s.fcWrite v).cap.siteRecs site recs } } : State).mapIntervals fun i =>
    if i.site = site && decide (i.opened ≤ f.gvc) && i.last.all (fun l => decide (f.gvc ≤ l)) then
      { i with fails := min (i.fails + 1) (2 ^ 32 - 1) }
    else i

/-- A fail record meets its site's limit, is dropped with or without its base record, or is written. -/
theorem State.fcRecord_cases (f : Flight) (site ui : Nat) (all : Bool) (win pins : Nat) :
    s.fcRecord f site ui all win pins = s.put CAP_FC_STATUS_LIMIT 1 ∨
    s.fcRecord f site ui all win pins = (s.fcDrop f.gvc).fcDrop f.gvc ∨
    s.fcRecord f site ui all win pins = (s.fcBased f).fcDrop f.gvc ∨
    ∃ recs v, s.fcRecord f site ui all win pins = (s.fcBased f).fcStored f site recs v :=
  (Classical.em _).imp (fun h => if_pos h) fun h => (Classical.em _).imp (fun h' => (if_neg h).trans (if_pos h')) fun h' =>
    (Classical.em _).imp (fun h'' => ((if_neg h).trans (if_neg h')).trans (if_pos h''))
      fun h'' => ⟨_, _, ((if_neg h).trans (if_neg h')).trans (if_neg h'')⟩

theorem State.fcStored_takeKept (f : Flight) (site recs v : Nat) : (s.fcStored f site recs v).takeKept = s.takeKept := s.fcWrite_takeKept v

@[simp] theorem State.fcRecord_takeKept (f : Flight) (site ui : Nat) (all : Bool) (win pins : Nat) :
    (s.fcRecord f site ui all win pins).takeKept = s.takeKept := by
  rcases s.fcRecord_cases f site ui all win pins with h | h | h | ⟨recs, v, h⟩
  · rw [h, State.put_takeKept _ _ (by decide)]
  · rw [h, State.fcDrop_takeKept, State.fcDrop_takeKept]
  · rw [h, State.fcDrop_takeKept, State.fcBased_takeKept]
  · rw [h, State.fcStored_takeKept, State.fcBased_takeKept]

@[simp] theorem State.fcVector_takeKept (f : Flight) : (s.fcVector f).takeKept = s.takeKept := by
  unfold State.fcVector
  split
  · rfl
  · refine foldl_keeps State.takeKept (fun t n => foldl_keeps State.takeKept (fun t1 w => ?_) _ _) _ _
    dsimp only
    split
    · refine foldl_keeps State.takeKept (fun t2 u => ?_) _ _
      split
      · rfl
      · exact t2.fcRecord_takeKept _ _ _ _ _ _
    · split
      · rfl
      · exact t1.fcRecord_takeKept _ _ _ _ _ _

/-! ## The beginning of a take point (R400 to R402, R409) -/

@[simp] theorem State.capReset_takeKept : s.capReset.takeKept = s.takeKept := by
  refine (State.withCap_takeKept (((((((((s.put CAP_STATUS_FIRED 0).put CAP_STATUS_FROZEN 0).put CAP_STATUS_FILLED 0).put CAP_STATUS_HOLE 0).put
    CAP_STATUS_SHORTPOST 0).put CAP_STATUS_RINGFULL 0).put CAP_STATUS_ARMED 0).put64 CAP_WPTR_LO CAP_WPTR_HI 0).put CAP_STATUS_ST 0) _
    rfl rfl rfl).trans ?_
  simp (disch := decide) only [State.put_takeKept, State.put64_takeKept]

@[simp] theorem State.capArm_takeKept : s.capArm.takeKept = s.takeKept := by
  unfold State.capArm
  split
  · rfl
  · refine (State.put_takeKept (f := CAP_STATUS_FILLED) _ _ (by decide)).trans
      ((State.withCap_takeKept ((s.enterTp 0).put CAP_STATUS_ARMED 1) _ rfl rfl rfl).trans ?_)
    simp (disch := decide) only [State.put_takeKept, State.enterTp_takeKept]

/-- The first vector of a playlist begins a program and may reset it (R401). -/
def State.takeFirst (s : State) (f : Flight) : State :=
  if f.playFirst then
    let t : State := { (s.enterTp 0).put CAP_STATUS_ARMED 0 with
      cap := { s.cap with cnt := 0, win := 0, capOn := f.capOn, siteRecs := [], fcBase := none } }
    if t.on CAP_CTRL_AUTORST then t.capReset else t
  else s

/-- A change of the class-7 bank clears the program's counts (R402). -/
def State.takeClass7 (s : State) (f : Flight) : State :=
  if f.gen7 ≠ s.cap.class7 then { s with cap := { s.cap with class7 := f.gen7, cnt := 0, win := 0 } } else s

/-- A RESET of the host acts (R409). -/
def State.takeReset (s : State) : State :=
  if s.cap.resetReq then { s.capReset with cap := { s.capReset.cap with resetReq := false } } else s

/-- An ARM of the host or of the vector acts (R400). -/
def State.takeArm (s : State) (f : Flight) : State :=
  let t := if s.cap.armReq || f.arm then s.capArm else s
  { t with cap := { t.cap with armReq := false } }

theorem State.takeBegin_eq (f : Flight) : s.takeBegin f = (((s.takeFirst f).takeClass7 f).takeReset).takeArm f := rfl

theorem State.takeFirst_takeKept (f : Flight) : (s.takeFirst f).takeKept = s.takeKept := by
  have harmed : ((s.enterTp 0).put CAP_STATUS_ARMED 0).takeKept = s.takeKept := by
    simp (disch := decide) only [State.put_takeKept, State.enterTp_takeKept]
  unfold State.takeFirst
  rw [← harmed]
  split
  · dsimp only
    split
    · exact (State.capReset_takeKept _).trans (State.withCap_takeKept _ _ rfl rfl rfl)
    · exact State.withCap_takeKept ((s.enterTp 0).put CAP_STATUS_ARMED 0) _ rfl rfl rfl
  · exact harmed.symm

theorem State.takeClass7_takeKept (f : Flight) : (s.takeClass7 f).takeKept = s.takeKept := by
  unfold State.takeClass7
  split <;> rfl

theorem State.takeReset_takeKept : s.takeReset.takeKept = { s.takeKept with resetReq := false } := by
  unfold State.takeReset
  split
  next => exact congrArg (fun q : TakeKept => { q with resetReq := false }) s.capReset_takeKept
  next h => simp only [State.takeKept, eq_false_of_ne_true h]

theorem State.takeArm_takeKept (f : Flight) : (s.takeArm f).takeKept = { s.takeKept with armReq := false } := by
  unfold State.takeArm
  dsimp only
  split
  · exact congrArg (fun q : TakeKept => { q with armReq := false }) s.capArm_takeKept
  · rfl

/-- Before the step the requests for an ARM and a RESET are done with, and nothing else that the stages keep has moved. -/
theorem State.takeBegin_takeKept (f : Flight) : (s.takeBegin f).takeKept = { s.takeKept with armReq := false, resetReq := false } := by
  rw [State.takeBegin_eq, State.takeArm_takeKept, State.takeReset_takeKept, State.takeClass7_takeKept, State.takeFirst_takeKept]

/-! ## RAKE_TAKE (R386, R392, R400) -/

/-- A mask violation counts, is raised, and stops the playlist where its mask set says so (R392). -/
def State.countMviol (s : State) (f : Flight) : State :=
  if s.maskViolation f then
    let t := (s.inc CAP_NMVIOL).event srcCapMviol
    if bankGet f.active (CAP_MSCFG_MTEST (mwMaskset f.word)) = 2 then t.askRakeStop f.gvc else t
  else s

theorem State.countMviol_takeKept (f : Flight) : (s.countMviol f).takeKept =
    { s.takeKept with nmviol := if s.maskViolation f then (s.get CAP_NMVIOL + 1) % 2 ^ 32 else s.get CAP_NMVIOL } := by
  have hinc : ((s.inc CAP_NMVIOL).event srcCapMviol).takeKept = { s.takeKept with nmviol := (s.get CAP_NMVIOL + 1) % 2 ^ 32 } := by
    rw [State.event_takeKept, State.inc_eq, State.takeKept, State.get_put_same]
    rfl
  unfold State.countMviol
  split
  · rw [← hinc]
    dsimp only
    split
    · exact State.askRakeStop_takeKept _ _
    · rfl
  · rfl

/-- What a take point does with a vector after its mask test: the program's step, the capture, a DISARM, and the counts and records of its
fails. -/
def State.takeRest (s : State) (f : Flight) (full fcFull mviol : Bool) : State :=
  let tw := maskOf 8 (s.twMatch f)
  let s3 := if s.on CAP_STATUS_ARMED && s.on CAP_STATUS_FILLED then s.tpStep f tw mviol else s
  let fire := !s.on CAP_STATUS_FIRED && s3.on CAP_STATUS_FIRED
  let s4 : State := { s3 with cap := { s3.cap with bufFull := s3.cap.bufFull || full, fcBufFull := s3.cap.fcBufFull || fcFull } }
  let s5 := s4.capture f tw mviol fire
  let s6 := if (f.disarm || s5.cap.disarmReq) && s5.on CAP_STATUS_ARMED then s5.put CAP_STATUS_ARMED 0 else s5
  (s6.countFails f).fcVector f

theorem State.takeRest_takeKept (f : Flight) (full fcFull mviol : Bool) : (s.takeRest f full fcFull mviol).takeKept = s.takeKept := by
  have hstep (tw : Nat) : (if s.on CAP_STATUS_ARMED && s.on CAP_STATUS_FILLED then s.tpStep f tw mviol else s).takeKept = s.takeKept := by
    rw [apply_ite State.takeKept, State.tpStep_takeKept, ite_self]
  simp (disch := decide) only [State.takeRest, State.fcVector_takeKept, State.countFails_takeKept, apply_ite State.takeKept, State.put_takeKept,
    State.capture_takeKept, ite_self]
  exact hstep _

/-- The taken vector is off the land, its free values are drawn, and a DISARM of the host is done with. -/
def State.offLandTaken (s : State) (rest : List Flight) : State :=
  { s with cap := { s.cap with disarmReq := false }, land := { s.land with flights := rest }, freeCtr := s.freeCtr + 2048 }

/-- The state in which the take point of a vector begins its mask test. -/
def State.takeTested (s : State) (f : Flight) (bad : List (BitVec 28)) : State := (s.takeBegin f).failTrig f (offs bad)

/-- All that a take point does, but for the freeze at the end of a playlist that fired. -/
def State.rakeTaken (s : State) (f : Flight) (rest : List Flight) (full fcFull : Bool) (bad : List (BitVec 28)) : State :=
  (((s.takeTested f bad).countMviol f).takeRest f full fcFull ((s.takeTested f bad).maskViolation f)).offLandTaken rest

theorem State.takeTested_takeKept (f : Flight) (bad : List (BitVec 28)) :
    (s.takeTested f bad).takeKept = { s.takeKept with armReq := false, resetReq := false } :=
  (State.failTrig_takeKept _ _ _).trans (s.takeBegin_takeKept f)

/-- What a take point leaves of the kept parts: the requests are done with, a violation counts, the vector is gone and its values are drawn. -/
theorem State.rakeTaken_takeKept (f : Flight) (rest : List Flight) (full fcFull : Bool) (bad : List (BitVec 28)) :
    (s.rakeTaken f rest full fcFull bad).takeKept = ⟨s.freeCtr + 2048, s.clk, s.seq, { s.land with flights := rest }, false, false, false,
      if (s.takeTested f bad).maskViolation f then (s.get CAP_NMVIOL + 1) % 2 ^ 32 else s.get CAP_NMVIOL⟩ := by
  have htested := s.takeTested_takeKept f bad
  have hcount : (s.takeTested f bad).get CAP_NMVIOL = s.get CAP_NMVIOL := congrArg TakeKept.nmviol htested
  have hcounted := State.countMviol_takeKept (s.takeTested f bad) f
  rw [htested, hcount] at hcounted
  exact congrArg (fun q : TakeKept => { q with
    freeCtr := q.freeCtr + 2048, land := { q.land with flights := rest }, disarmReq := false }) ((State.takeRest_takeKept _ _ _ _ _).trans hcounted)

end

section
variable {s u : State} {full fcFull : Bool} {bad : List (BitVec 28)} {f : Flight} {rest : List Flight}

theorem execRakeTake_none (h : s.land.flights = []) : execRakeTake full fcFull bad s = .next s := by
  simp only [execRakeTake, h]

theorem execRakeTake_unreached (hf : s.land.flights = f :: rest) (hc : f.cut = false) (h : s.reach (f.gvc + 99) = none) :
    execRakeTake full fcFull bad s = .next s := by
  simp only [execRakeTake, hf, hc, h, Bool.false_eq_true, if_false]

/-- A vector is taken at its take point, or where it was cut short; a playlist that it was the last of may then freeze the ring. -/
theorem execRakeTake_takes (hf : s.land.flights = f :: rest) (hu : f.cut = true ∧ u = s ∨ f.cut = false ∧ s.reach (f.gvc + 99) = some u) :
    ∃ last : Bool, execRakeTake full fcFull bad s =
      .next (if last then (u.rakeTaken f rest full fcFull bad).freezeShort else u.rakeTaken f rest full fcFull bad) := by
  have hat : (if f.cut then some s else s.reach (f.gvc + 99)) = some u := by
    rcases hu with ⟨hc, rfl⟩ | ⟨hc, hr⟩
    · exact if_pos hc
    · exact (if_neg (ne_true_of_eq_false hc)).trans hr
  simp only [execRakeTake, hf, hat]
  exact ⟨_, rfl⟩

end

/-- A freeze at the end of a playlist moves none of the kept parts. -/
theorem State.takeKept_ite_freezeShort (t : State) (last : Bool) : (if last then t.freezeShort else t).takeKept = t.takeKept := by
  rw [apply_ite State.takeKept, State.freezeShort_takeKept, ite_self]

/-! ## RAKE_STOP (R242, R387) -/

section
variable {s u : State} {g : Nat} {p : Playlist}

theorem execRakeStop_none (h : s.fail.rakeStop = none ∨ s.seq.running = none) : execRakeStop s = .next s := by
  unfold execRakeStop
  split
  next hg hp => rcases h with h | h <;> simp only [h, reduceCtorEq] at hg hp
  next => rfl

theorem execRakeStop_unreached (hg : s.fail.rakeStop = some g) (hp : s.seq.running = some p) (h : s.reachBoundary g = none) :
    execRakeStop s = .next s := by
  simp only [execRakeStop, hg, hp, h]

theorem execRakeStop_stops (hg : s.fail.rakeStop = some g) (hp : s.seq.running = some p) (h : s.reachBoundary g = some u) :
    execRakeStop s = .next { u.softStop 11 with fail := { (u.softStop 11).fail with rakeStop := none } } := by
  simp only [execRakeStop, hg, hp, h]

end

/-! ## Bits of a mask -/

theorem bitAt_eq_testBit (v i : Nat) : bitAt v i = v.testBit i := by
  rw [bitAt, Nat.shiftRight_eq_div_pow, Nat.testBit_eq_decide_div_mod_eq]
  rfl

theorem testBit_ofBits (l : List Bool) (i : Nat) : (ofBits l).testBit i = l[i]?.getD false := by
  induction l generalizing i with
  | nil => simp [ofBits]
  | cons b l ih =>
    cases i with
    | zero => cases b <;> simp [ofBits, b2n, Nat.add_mod]
    | succ i =>
      have hhalf : (b2n b + 2 * ofBits l) / 2 = ofBits l := by
        rw [b2n]
        split <;> omega
      rw [ofBits, Nat.testBit_succ, hhalf, ih, List.getElem?_cons_succ]

theorem bitAt_maskOf (w : Nat) (p : Nat → Bool) (i : Nat) : bitAt (maskOf w p) i = (decide (i < w) && p i) := by
  rw [bitAt_eq_testBit, maskOf, testBit_ofBits, List.getElem?_map]
  by_cases h : i < w
  · simp [h]
  · simp [h]

/-! ## Kills (R410 to R412) -/

/-- Kills that registers show stay, and those of the mask join them. -/
theorem State.killShown_showKills (s : State) (m : Nat) {n : Nat} (hn : n < 64) :
    (s.showKills m).killShown n = (s.killShown n || bitAt m n) := by
  rw [State.killShown, State.showKills, State.get64_put64 _ _ rfl rfl rfl (by decide), State.killShown]
  simp only [bitAt_eq_testBit, Nat.testBit_mod_two_pow, Nat.testBit_or, hn, decide_true, Bool.true_and]

section
variable {s u : State} {n : Fin 64} {g : Nat}

theorem execSiteKill_none (h : (∀ e ∈ s.fail.killAt, e.1 ≠ n.val) ∨ s.killShown n.val = true) : execSiteKill n s = .next s := by
  unfold execSiteKill
  split
  next => rfl
  next e he =>
    refine if_pos (h.resolve_left fun hall => hall e (List.mem_of_find?_eq_some he) ?_)
    simpa only [beq_iff_eq] using List.find?_some he

theorem execSiteKill_unreached (he : (s.fail.killAt.find? fun e => e.1 == n.val) = some (n.val, g)) (hk : s.killShown n.val = false)
    (h : s.reach g = none) : execSiteKill n s = .next s := by
  simp only [execSiteKill, he, hk, h, Bool.false_eq_true, if_false]

theorem execSiteKill_kills (he : (s.fail.killAt.find? fun e => e.1 == n.val) = some (n.val, g)) (hk : s.killShown n.val = false)
    (h : s.reach g = some u) : execSiteKill n s =
      .next ((u.showKills (2 ^ n.val)).endIntervals (2 ^ n.val) (min (u.seq.issuedAt.getD 0) (g - 1))) := by
  simp only [execSiteKill, he, hk, h, Bool.false_eq_true, if_false]

end

/-- The sites of a host's mask that are not killed yet (R411). -/
def State.newKills (s : State) (m : BitVec 64) : Nat := maskOf 64 fun n => bitAt m.toNat n && !s.killShown n

/-- The kills of a mask, from cycle g on, in place of those that its sites had. -/
def State.killsFrom (s : State) (new g : Nat) : List (Nat × Nat) :=
  (((List.range 64).filter (bitAt new)).map fun n => (n, g)) ++ s.fail.killAt.filter fun e => !bitAt new e.1

/-- The intervals of a mask's sites end, with cause STOP for those without a fail (R95, R411). -/
def State.stopSites (s : State) (new : Nat) : State :=
  let alive := maskOf 64 fun n => bitAt new n && !s.failedBy n (s.boundary - 105)
  let open_ := s.cmt.intervals.foldl (fun m i => if i.last.isNone then m ||| 2 ^ i.site else m) 0
  (s.recordCause (alive &&& open_) 11).endIntervals new (s.seq.issuedAt.getD 0)

/-- The sites of a mask are killed from the next boundary on (R411). -/
def State.hostKilled (s : State) (new : Nat) : State :=
  { (s.stopSites new).showKills new with
    fail := { ((s.stopSites new).showKills new).fail with killAt := ((s.stopSites new).showKills new).killsFrom new s.boundary } }

section
variable {s : State} {m : BitVec 64}

theorem execHostSiteKill_early (hr : s.reaches .host 0x200074 = true) (h : s.seq.running = none ∨ s.seq.started = false) :
    execHostSiteKill m s = .next (s.showKills (s.newKills m)) := by
  refine (State.reachReg_of_reaches _ hr).trans (if_pos ?_)
  simpa only [Bool.or_eq_true, Option.isNone_iff_eq_none, Bool.not_eq_true'] using h

theorem execHostSiteKill_running (hr : s.reaches .host 0x200074 = true) (hp : s.seq.running.isSome = true) (hs : s.seq.started = true) :
    execHostSiteKill m s = .next (if s.endsHere then s else s.hostKilled (s.newKills m)) := by
  refine (State.reachReg_of_reaches _ hr).trans ((if_neg ?_).trans (apply_ite Host.Outcome.next _ _ _).symm)
  simp only [← Option.not_isSome, hp, hs, Bool.not_true, Bool.or_self, Bool.false_eq_true, not_false_eq_true]

end

section
variable (s : State) (new g : Nat)

theorem State.mem_killsFrom_of_new {n : Nat} (hn : n < 64) (h : bitAt new n = true) : (n, g) ∈ s.killsFrom new g :=
  List.mem_append_left _ (List.mem_map.mpr ⟨n, List.mem_filter.mpr ⟨List.mem_range.mpr hn, h⟩, rfl⟩)

theorem State.mem_killsFrom_of_old {e : Nat × Nat} (h : bitAt new e.1 = false) : e ∈ s.killsFrom new g ↔ e ∈ s.fail.killAt := by
  have hnot : e ∉ ((List.range 64).filter (bitAt new)).map fun n => (n, g) := by
    rintro he
    obtain ⟨n, hn, rfl⟩ := List.mem_map.mp he
    exact absurd ((List.mem_filter.mp hn).2.symm.trans h) (by decide)
  simp only [State.killsFrom, List.mem_append, hnot, false_or, List.mem_filter, h, Bool.not_false, and_true]

theorem State.stopSites_kept : (s.stopSites new).seq = s.seq ∧ (s.stopSites new).fail = s.fail ∧ (s.stopSites new).land = s.land ∧
    (s.stopSites new).mem = s.mem ∧ ∀ n, (s.stopSites new).killShown n = s.killShown n := ⟨rfl, rfl, rfl, rfl, fun _ => rfl⟩

/-- Kills that registers show move nothing else. -/
theorem State.showKills_kept : (s.showKills new).seq = s.seq ∧ (s.showKills new).fail = s.fail ∧ (s.showKills new).land = s.land ∧
    (s.showKills new).mem = s.mem := ⟨s.put64_seq _ _ _, s.put64_fail _ _ _, s.put64_land _ _ _, s.put64_mem _ _ _⟩

theorem State.killsFrom_congr {t : State} (h : t.fail = s.fail) : t.killsFrom new g = s.killsFrom new g := by
  rw [State.killsFrom, State.killsFrom, h]

/-- A host's kill leaves the sequencer, the fails, the land and HBM, and adds its sites' kills. -/
theorem State.hostKilled_kept : (s.hostKilled new).seq = s.seq ∧ (s.hostKilled new).fail.siteFail = s.fail.siteFail ∧
    (s.hostKilled new).land = s.land ∧ (s.hostKilled new).mem = s.mem ∧
    (s.hostKilled new).fail.killAt = s.killsFrom new s.boundary := by
  obtain ⟨hseq, hfail, hland, hmem, -⟩ := s.stopSites_kept new
  obtain ⟨hseq', hfail', hland', hmem'⟩ := (s.stopSites new).showKills_kept new
  exact ⟨hseq'.trans hseq, (congrArg FailState.siteFail (hfail'.trans hfail) :), hland'.trans hland, hmem'.trans hmem,
    s.killsFrom_congr new _ (hfail'.trans hfail)⟩

theorem State.hostKilled_shown {n : Nat} (hn : n < 64) : (s.hostKilled new).killShown n = (s.killShown n || bitAt new n) := by
  obtain ⟨-, -, -, -, hshown⟩ := s.stopSites_kept new
  rw [← hshown n]
  exact State.killShown_showKills _ new hn

end

end Sys2Proof.Machine

namespace Sys2Proof.Proofs

open Sys2Proof.Machine

/-- Settles O25: each command by its cases; a take point keeps, stage by stage, all that the statement names but the requests of the host and
the count of mask violations, and a host's kill is read off the mask of the sites not yet killed. -/
theorem rakeAtTake : Obligations.RakeAtTake := by
  unfold Obligations.RakeAtTake
  refine ⟨?take, ?stop, ?kill, ?hostKill⟩
  case take =>
    refine fun s full fcFull bad => ⟨execRakeTake_none, fun f rest hf => ⟨execRakeTake_unreached hf, fun u hu => ?_⟩⟩
    obtain ⟨last, h⟩ := execRakeTake_takes (full := full) (fcFull := fcFull) (bad := bad) hf hu
    refine completes_of_eq h ?_
    have hkept := u.rakeTaken_takeKept f rest full fcFull bad
    rw [← State.takeKept_ite_freezeShort _ last] at hkept
    simp only [State.takeKept, TakeKept.mk.injEq] at hkept
    obtain ⟨hfree, hclk, hseq, hland, harm, hdisarm, hreset, hcount⟩ := hkept
    exact ⟨congrArg LandState.flights hland, hfree, congrArg ClkState.gvc hclk, congrArg SeqState.running hseq, harm, hdisarm, hreset, hcount⟩
  case stop =>
    exact fun s => ⟨execRakeStop_none, fun g p hg hp => ⟨execRakeStop_unreached hg hp, fun u => execRakeStop_stops hg hp⟩⟩
  case kill =>
    exact fun s n => ⟨execSiteKill_none, fun g he hk => ⟨execSiteKill_unreached he hk, fun u => execSiteKill_kills he hk⟩⟩
  case hostKill =>
    intro s m new hr (hnew : new = s.newKills m)
    rw [hnew]
    refine ⟨execHostSiteKill_early hr, fun hp hs => ⟨fun he => ?_, fun he => ?_⟩⟩
    · exact (execHostSiteKill_running hr hp hs).trans (congrArg _ (if_pos he))
    refine completes_of_eq ((execHostSiteKill_running hr hp hs).trans (congrArg _ (if_neg (ne_true_of_eq_false he)))) ?_
    obtain ⟨hseq, hfail, hland, hmem, hkills⟩ := s.hostKilled_kept (s.newKills m)
    refine ⟨hseq, hfail, hland, hmem, fun n hn => ?_, fun n hn h => ?_, fun e h => ?_⟩
    · rw [State.hostKilled_shown _ _ hn, State.newKills, bitAt_maskOf, decide_eq_true hn]
      cases s.killShown n <;> simp
    · rw [hkills]
      exact s.mem_killsFrom_of_new _ _ hn h
    · rw [hkills]
      exact s.mem_killsFrom_of_old _ _ h

end Sys2Proof.Proofs
end

