-- ==== Sys2Proof/Proofs/ReadbackAndTrust.lean ====
section
/-! SUPPORT. What a marking, a failed reload, a period boundary and the end of a pass leave of a channel's readback and of the registers; then
the statement on the twin copies and readback. -/

namespace Sys2Proof.Machine

@[simp] theorem State.get_inc_same (s : State) (f : Field) : (s.inc f).get f = (s.get f + 1) % 2 ^ f.width := State.get_put_same s f _

theorem State.get_inc_ne (s : State) {f g : Field} (h : g.id ≠ f.id) : (s.inc f).get g = s.get g := State.get_put_ne s _ h

@[simp] theorem State.readback_setReadback_same (s : State) (c : Nat) (r : Readback) : (s.setReadback c r).readback c = r :=
  Assoc.get_set_same _ _ _ _

theorem State.readback_setReadback_ne (s : State) {c d : Nat} (r : Readback) (h : d ≠ c) : (s.setReadback c r).readback d = s.readback d :=
  Assoc.get_set_ne _ _ _ _ h

/-! ## The registers of the level settings -/

/-- The bits of LVL_CH_UNTR that say why a channel is untrusted (R381). -/
def untrCauses : List (Nat → Field) := [LVL_CH_UNTR_RBFAIL, LVL_CH_UNTR_DLYTWIN, LVL_CH_UNTR_LVTWIN]

section
variable {c : Nat} {k : Nat → Field}

theorem untrCause_width (h : k ∈ untrCauses) : (k c).width = 1 := by
  simp only [untrCauses, List.mem_cons, List.not_mem_nil, or_false] at h
  rcases h with rfl | rfl | rfl <;> rfl

theorem untrCause_ne_nuntr (h : k ∈ untrCauses) : (k c).id ≠ LVL_NUNTR.id := by
  simp only [untrCauses, List.mem_cons, List.not_mem_nil, or_false] at h
  rcases h with rfl | rfl | rfl <;>
    simp only [Field.id, LVL_CH_UNTR_RBFAIL, LVL_CH_UNTR_DLYTWIN, LVL_CH_UNTR_LVTWIN, LVL_NUNTR] <;> omega

end

/-! ## A marking (R102, R381) -/

section
variable (s : State) (c : Nat) (k : Nat → Field)

/-- What no update of a time-interval unit changes, an interruption keeps. -/
theorem State.tiuInterrupt_keeps {γ : Type} (P : State → γ) (h : ∀ (t : State) (n : Nat) (u : TiuUnit), P (t.setTiu n u) = P t)
    (p : Nat → Bool) : P (s.tiuInterrupt p) = P s := by
  refine foldl_keeps P (fun t n => ?_) _ s
  split
  · exact h t n _
  · rfl

/-- The channel's bit, the count and the event of a marking. -/
def State.countMark : State := ((s.put (k c) 1).inc LVL_NUNTR).raise srcChUntrusted c (s.get (LVL_CH_RBGOOD_LO c) % 2 ^ 16)

/-- The readback of a channel just marked. -/
def State.markReadback : State :=
  (s.countMark c k).setReadback c { s.readback c with markAc := some (s.time.rc / 25), cleared := false }

theorem State.markUntrusted_eq : s.markUntrusted c k =
    ((s.markReadback c k).recordUntr ((s.countMark c k).siteMask c)).tiuInterrupt (· == c) := rfl

/-- What neither the intervals nor a time-interval unit hold is after a marking as its bit, count, event and readback left it. -/
theorem State.markUntrusted_keeps {γ : Type} (P : State → γ) (hi : ∀ (t : State) (m : Nat), P (t.recordUntr m) = P t)
    (hu : ∀ (t : State) (n : Nat) (u : TiuUnit), P (t.setTiu n u) = P t) : P (s.markUntrusted c k) = P (s.markReadback c k) := by
  rw [State.markUntrusted_eq, State.tiuInterrupt_keeps _ P hu, hi]

theorem State.get_markUntrusted (f : Field) : (s.markUntrusted c k).get f = ((s.put (k c) 1).inc LVL_NUNTR).get f :=
  s.markUntrusted_keeps c k (fun t => t.get f) (fun _ _ => rfl) fun _ _ _ => rfl

theorem State.markUntrusted_readback :
    (s.markUntrusted c k).readback c = { s.readback c with markAc := some (s.time.rc / 25), cleared := false } :=
  (s.markUntrusted_keeps c k (fun t => t.readback c) (fun _ _ => rfl) fun _ _ _ => rfl).trans (State.readback_setReadback_same _ _ _)

theorem State.markUntrusted_raised : (s.markUntrusted c k).raised = (s.countMark c k).raised :=
  s.markUntrusted_keeps c k State.raised (fun _ _ => rfl) fun _ _ _ => rfl

@[simp] theorem State.markUntrusted_mem : (s.markUntrusted c k).mem = s.mem :=
  s.markUntrusted_keeps c k State.mem (fun _ _ => rfl) fun _ _ _ => rfl

@[simp] theorem State.markUntrusted_seq : (s.markUntrusted c k).seq = s.seq :=
  s.markUntrusted_keeps c k State.seq (fun _ _ => rfl) fun _ _ _ => rfl

/-- A marking sets its bit and counts. -/
theorem State.markUntrusted_counts {k : Nat → Field} (hk : k ∈ untrCauses) :
    (s.markUntrusted c k).get (k c) = 1 ∧ (s.markUntrusted c k).get LVL_NUNTR = (s.get LVL_NUNTR + 1) % 2 ^ 32 := by
  rw [State.get_markUntrusted, State.get_markUntrusted, State.get_inc_ne _ (untrCause_ne_nuntr hk), State.get_put_same, untrCause_width hk,
    State.get_inc_same, State.get_put_ne _ _ (untrCause_ne_nuntr hk).symm]
  exact ⟨rfl, rfl⟩

/-- CH_UNTRUSTED names the channel and carries the low 16 bits of the GVC of its last good readback (R102, log entry 102). -/
theorem State.markUntrusted_event (hc : c < 256) : ∃ r ∈ (s.markUntrusted c k).raised,
    r.src = srcChUntrusted ∧ r.arg = c ∧ r.value = s.get (LVL_CH_RBGOOD_LO c) % 2 ^ 16 := by
  rw [State.markUntrusted_raised, State.countMark, State.raise_raised]
  refine ⟨_, List.mem_append_right _ List.mem_cons_self, rfl, Nat.mod_eq_of_lt ?_, Nat.mod_mod _ _⟩
  omega

end

/-! ## A reload that fails its check (R372, R378, R823) -/

section
variable (s : State) (c off cls : Nat)

/-- A failed reload touches the integrity counter and class bits and the counters of level-set failures, and no other register. -/
theorem State.get_reloadFailed (f : Field) : (s.reloadFailed c off cls).get f =
    ((((s.inc CMT_NINTEG).put CMT_INTEG_ABAD (s.get CMT_INTEG_ABAD ||| cls)).inc (LVL_CH_NCFG c)).inc LVL_NCFG).get f := rfl

theorem nInteg_ne_lvlChNcfg : CMT_NINTEG.id ≠ (LVL_CH_NCFG c).id := by
  simp only [Field.id, CMT_NINTEG, LVL_CH_NCFG]
  omega

theorem lvlNcfg_ne_lvlChNcfg : LVL_NCFG.id ≠ (LVL_CH_NCFG c).id := by
  simp only [Field.id, LVL_NCFG, LVL_CH_NCFG]
  omega

theorem State.reloadFailed_nInteg : (s.reloadFailed c off cls).get CMT_NINTEG = (s.get CMT_NINTEG + 1) % 2 ^ 32 := by
  rw [State.get_reloadFailed, State.get_inc_ne _ (by decide), State.get_inc_ne _ (nInteg_ne_lvlChNcfg c), State.get_put_ne _ _ (by decide),
    State.get_inc_same]
  rfl

theorem State.reloadFailed_nCfg : (s.reloadFailed c off cls).get LVL_NCFG = (s.get LVL_NCFG + 1) % 2 ^ 32 := by
  rw [State.get_reloadFailed, State.get_inc_same, State.get_inc_ne _ (lvlNcfg_ne_lvlChNcfg c), State.get_put_ne _ _ (by decide),
    State.get_inc_ne _ (by decide)]
  rfl

theorem State.reloadFailed_flagCleared : off ∈ (s.reloadFailed c off cls).cmt.flagCleared := List.mem_cons_self

@[simp] theorem State.reloadFailed_seq : (s.reloadFailed c off cls).seq = s.seq := rfl

end

/-! ## A period boundary (R379, R380) -/

section
variable (s : State) (c d : Nat)

/-- The power domain of a channel's readback is on. -/
def State.rbOn : Bool := s.domOn (29 + 3 * (c / 32))

/-- A pass of the channel still runs, late because steps of it were void. -/
def State.lateAt : Bool := s.rbOn c && (s.readback c).running && (s.readback c).void

/-- The readback of a channel once the boundary has begun its pass, where it is on and has none. -/
def State.begun : Readback :=
  if s.rbOn c && !(s.readback c).running then
    { s.readback c with
      running := true, step := 0, again := false, void := false, spoilt := false, began := s.cmt.holdSeq, beganAc := s.time.rc / 25 }
  else s.readback c

/-- A late pass shows in RBLATE and raises LVL_RBLATE. -/
def State.noteLate : State := (s.put LVL_STATUS_RBLATE 1).raise srcLvlRblate c 0

/-- A period boundary at one channel. -/
def State.boundaryAt : State :=
  if !s.rbOn c then s
  else if (s.readback c).running then (if (s.readback c).void then s.noteLate c else s)
  else s.beginPass c

/-- A period boundary at the channels of a list. -/
def State.boundaryOver (l : List Nat) : State := l.foldl State.boundaryAt s

theorem State.beginPass_eq (h : s.rbOn c = true) (hr : (s.readback c).running = false) : s.beginPass c = s.setReadback c (s.begun c) := by
  simp only [State.begun, h, hr, Bool.not_false, Bool.and_self, if_true]
  rfl

/-- At a channel a boundary notes a late pass, does nothing, or begins a pass. -/
theorem State.boundaryAt_cases :
    (s.lateAt c = true ∧ s.boundaryAt c = s.noteLate c ∧ s.begun c = s.readback c) ∨
    (s.lateAt c = false ∧ s.boundaryAt c = s ∧ s.begun c = s.readback c) ∨
    (s.lateAt c = false ∧ s.boundaryAt c = s.setReadback c (s.begun c) ∧ (s.begun c).void = false) := by
  cases hon : s.rbOn c with
  | false => exact .inr (.inl (by simp [State.lateAt, State.boundaryAt, State.begun, hon]))
  | true =>
    cases hr : (s.readback c).running with
    | false =>
      have hb : s.boundaryAt c = s.beginPass c := by simp [State.boundaryAt, hon, hr]
      exact .inr (.inr ⟨by simp [State.lateAt, hr], hb.trans (s.beginPass_eq c hon hr), by simp [State.begun, hon, hr]⟩)
    | true =>
      cases hv : (s.readback c).void with
      | false => exact .inr (.inl (by simp [State.lateAt, State.boundaryAt, State.begun, hon, hr, hv]))
      | true => exact .inl (by simp [State.lateAt, State.boundaryAt, State.begun, hon, hr, hv])

/-- What neither a note nor a readback changes, a boundary keeps. -/
theorem State.boundaryAt_keeps {γ : Type} (P : State → γ) (hn : ∀ (t : State) (d : Nat), P (t.noteLate d) = P t)
    (hr : ∀ (t : State) (d : Nat) (r : Readback), P (t.setReadback d r) = P t) : P (s.boundaryAt c) = P s := by
  rcases s.boundaryAt_cases c with ⟨-, h, -⟩ | ⟨-, h, -⟩ | ⟨-, h, -⟩ <;> rw [h]
  · exact hn s c
  · exact hr s c _

theorem State.boundaryOver_keeps {γ : Type} (P : State → γ) (hn : ∀ (t : State) (d : Nat), P (t.noteLate d) = P t)
    (hr : ∀ (t : State) (d : Nat) (r : Readback), P (t.setReadback d r) = P t) (l : List Nat) : P (s.boundaryOver l) = P s :=
  foldl_keeps P (fun t c => t.boundaryAt_keeps c P hn hr) l s

theorem State.get_noteLate_ne {f : Field} (h : f.id ≠ LVL_STATUS_RBLATE.id) : (s.noteLate c).get f = s.get f := State.get_put_ne s 1 h

@[simp] theorem State.domOn_noteLate (n : Nat) : (s.noteLate c).domOn n = s.domOn n := by
  rw [State.domOn, s.get_noteLate_ne c (f := PMG_DOM_ON0) (by decide), s.get_noteLate_ne c (f := PMG_DOM_ON1) (by decide), State.domOn]

@[simp] theorem State.rbOn_boundaryAt : (s.boundaryAt d).rbOn c = s.rbOn c :=
  s.boundaryAt_keeps d (fun t => t.rbOn c) (fun t n => t.domOn_noteLate n _) fun _ _ _ => rfl

@[simp] theorem State.boundaryAt_holdSeq : (s.boundaryAt d).cmt.holdSeq = s.cmt.holdSeq :=
  s.boundaryAt_keeps d (fun t => t.cmt.holdSeq) (fun _ _ => rfl) fun _ _ _ => rfl

@[simp] theorem State.boundaryAt_rc : (s.boundaryAt d).time.rc = s.time.rc :=
  s.boundaryAt_keeps d (fun t => t.time.rc) (fun _ _ => rfl) fun _ _ _ => rfl

theorem State.boundaryAt_readback_same : (s.boundaryAt c).readback c = s.begun c := by
  rcases s.boundaryAt_cases c with ⟨-, h, hb⟩ | ⟨-, h, hb⟩ | ⟨-, h, -⟩ <;> rw [h]
  · exact hb.symm
  · exact hb.symm
  · exact State.readback_setReadback_same _ _ _

theorem State.boundaryAt_readback_ne {c d : Nat} (hcd : c ≠ d) : (s.boundaryAt d).readback c = s.readback c := by
  rcases s.boundaryAt_cases d with ⟨-, h, -⟩ | ⟨-, h, -⟩ | ⟨-, h, -⟩ <;> rw [h]
  · rfl
  · exact State.readback_setReadback_ne _ _ hcd

/-- A boundary at one channel moves no channel into or out of lateness: a pass that it begins has no void step. -/
@[simp] theorem State.lateAt_boundaryAt : (s.boundaryAt d).lateAt = s.lateAt := by
  funext c
  by_cases hcd : c = d
  · subst hcd
    rw [State.lateAt, State.rbOn_boundaryAt, State.boundaryAt_readback_same]
    rcases s.boundaryAt_cases c with ⟨-, -, hb⟩ | ⟨-, -, hb⟩ | ⟨hl, -, hv⟩
    · rw [hb, State.lateAt]
    · rw [hb, State.lateAt]
    · rw [hv, hl, Bool.and_false]
  · rw [State.lateAt, State.rbOn_boundaryAt, s.boundaryAt_readback_ne hcd, State.lateAt]

theorem State.begun_boundaryAt_ne {c d : Nat} (hcd : c ≠ d) : (s.boundaryAt d).begun c = s.begun c := by
  simp only [State.begun, State.rbOn_boundaryAt, s.boundaryAt_readback_ne hcd, State.boundaryAt_holdSeq, State.boundaryAt_rc]

theorem State.boundaryOver_cons (l : List Nat) : s.boundaryOver (d :: l) = (s.boundaryAt d).boundaryOver l := rfl

/-- A boundary begins a pass on every channel of the list that is on and has none. -/
theorem State.boundaryOver_readback {l : List Nat} (hn : l.Nodup) :
    (s.boundaryOver l).readback c = if c ∈ l then s.begun c else s.readback c := by
  induction l generalizing s with
  | nil => rfl
  | cons d l ih =>
    obtain ⟨hd, hn⟩ := List.nodup_cons.mp hn
    rw [State.boundaryOver_cons, ih _ hn]
    by_cases hcd : c = d
    · subst hcd
      rw [if_neg hd, if_pos List.mem_cons_self, State.boundaryAt_readback_same]
    · simp only [List.mem_cons, hcd, false_or, s.begun_boundaryAt_ne hcd, s.boundaryAt_readback_ne hcd]

theorem State.boundaryAt_rblate : (s.boundaryAt d).get LVL_STATUS_RBLATE = if s.lateAt d then 1 else s.get LVL_STATUS_RBLATE := by
  rcases s.boundaryAt_cases d with ⟨hl, h, -⟩ | ⟨hl, h, -⟩ | ⟨hl, h, -⟩ <;> rw [h, hl]
  · exact State.get_put_same s LVL_STATUS_RBLATE 1
  · rfl
  · rfl

/-- RBLATE shows that a pass of the list is late. -/
theorem State.boundaryOver_rblate (l : List Nat) :
    (s.boundaryOver l).get LVL_STATUS_RBLATE = if l.any s.lateAt then 1 else s.get LVL_STATUS_RBLATE := by
  induction l generalizing s with
  | nil => rfl
  | cons d l ih =>
    rw [State.boundaryOver_cons, ih, State.lateAt_boundaryAt, State.boundaryAt_rblate, List.any_cons]
    cases s.lateAt d <;> cases l.any s.lateAt <;> rfl

/-- Where no pass is late, nothing is raised. -/
theorem State.boundaryOver_raised {l : List Nat} (h : l.any s.lateAt = false) : (s.boundaryOver l).raised = s.raised := by
  induction l generalizing s with
  | nil => rfl
  | cons d l ih =>
    simp only [List.any_cons, Bool.or_eq_false_iff] at h
    obtain ⟨hd, h⟩ := h
    rw [State.boundaryOver_cons, ih _ (by rw [State.lateAt_boundaryAt, h])]
    rcases s.boundaryAt_cases d with ⟨hl, -, -⟩ | ⟨-, hb, -⟩ | ⟨-, hb, -⟩
    · exact absurd (hl.symm.trans hd) (by decide)
    · rw [hb]
    · rw [hb]
      rfl

theorem State.boundaryOver_regsBut (l : List Nat) : s.regsBut (s.boundaryOver l) [LVL_STATUS_RBLATE] := fun f hf =>
  s.boundaryOver_keeps (fun t => t.get f) (fun t d => t.get_noteLate_ne d (hf _ List.mem_cons_self)) (fun _ _ _ => rfl) l

theorem State.any_lateAt_iff : allChannels.any s.lateAt = true ↔
    ∃ c < 256, s.rbOn c = true ∧ (s.readback c).running = true ∧ (s.readback c).void = true := by
  simp only [List.any_eq_true, allChannels, List.mem_range, State.lateAt, Bool.and_eq_true, and_assoc]

theorem State.any_lateAt_false_iff : allChannels.any s.lateAt = false ↔
    ∀ c < 256, s.rbOn c = false ∨ (s.readback c).running = false ∨ (s.readback c).void = false := by
  simp only [List.any_eq_false, allChannels, List.mem_range, State.lateAt, Bool.not_eq_true, Bool.and_eq_false_iff, or_assoc]

/-- The instant of the next period boundary (R379). -/
def State.rbDue : Nat := s.land.rbBase + 100 * s.get LVL_CTRL_RBPERIOD

/-- The period that the due boundary begins is in progress. -/
def State.periodBegun : State := { s with land := { s.land with rbBase := s.rbDue } }

end

section
variable {s : State}

theorem execReadbackPeriod_early (h : s.time.rc < s.rbDue) : execReadbackPeriod s = .next s := if_pos h

theorem execReadbackPeriod_boundary (h : s.rbDue ≤ s.time.rc) :
    execReadbackPeriod s = .next (s.periodBegun.boundaryOver allChannels) := if_neg (Nat.not_lt.mpr h)

end

/-! ## READBACK_STEP and the end of a pass (R379, R380) -/

section
variable {s : State} {c : Fin 256} {void bad : Bool}

theorem execReadbackStep_idle (h : (s.readback c.val).running = false) : execReadbackStep c void bad s = .next s := by
  simp [execReadbackStep, h]

theorem execReadbackStep_void (h : (s.readback c.val).running = true) (hv : void = true) :
    execReadbackStep c void bad s = .next (s.setReadback c.val { s.readback c.val with void := true }) := by
  simp [execReadbackStep, h, hv]

theorem execReadbackStep_again (h : (s.readback c.val).running = true) (hv : void = false) (hb : bad = true)
    (ha : (s.readback c.val).again = false) :
    execReadbackStep c void bad s = .next (s.setReadback c.val { s.readback c.val with again := true }) := by
  simp [execReadbackStep, h, hv, hb, ha]

/-- A second reading out of tolerance marks the channel and spoils its pass; the ninth step ends the pass. -/
theorem execReadbackStep_done {m u v : State} (h : (s.readback c.val).running = true) (hv : void = false)
    (hb : bad = false ∨ (s.readback c.val).again = true) (hm : m = (s.inc (LVL_CH_RBFAIL c.val)).markUntrusted c.val LVL_CH_UNTR_RBFAIL)
    (hu : u = if bad then m.setReadback c.val { m.readback c.val with spoilt := true } else s)
    (hs : v = u.setReadback c.val { u.readback c.val with step := (s.readback c.val).step + 1, again := false }) :
    execReadbackStep c void bad s = .next (if 8 ≤ (s.readback c.val).step then v.endPass c.val else v) := by
  have hb : (bad && !(s.readback c.val).again) = false := by
    rcases hb with hb | hb <;> simp [hb]
  simp only [execReadbackStep, h, hv, hb, Bool.not_true, Bool.false_eq_true, if_false, hs, hu, hm, apply_ite Host.Outcome.next]

end

section
variable (s : State) (c : Nat)

/-- The readback of a channel whose pass has ended. -/
def Readback.ended (r : Readback) : Readback :=
  { r with running := false, good := if r.spoilt then r.good else some r.began
           cleared := r.cleared || (!r.spoilt && r.markAc.all fun m => decide (m < r.beganAc)) }

theorem State.endPass_unstamped (h : s.stamp = none) : s.endPass c = s.setReadback c (s.readback c).ended := by
  unfold State.endPass
  dsimp only
  split
  next g hg => exact absurd (hg.symm.trans h) nofun
  next => rfl

/-- With a stamp, a good pass takes it into RBGOOD (R380). -/
theorem State.endPass_stamped {g : Nat} (h : s.stamp = some g) : s.endPass c =
    if (s.readback c).spoilt then s.setReadback c (s.readback c).ended
    else (s.setReadback c (s.readback c).ended).put64 (LVL_CH_RBGOOD_LO c) (LVL_CH_RBGOOD_HI c) g := by
  unfold State.endPass
  dsimp only
  split
  next g' hg =>
    cases hg.symm.trans h
    rfl
  next hg => exact absurd (hg.symm.trans h) nofun

theorem State.endPass_readback : (s.endPass c).readback c = (s.readback c).ended := by
  cases h : s.stamp with
  | none => rw [s.endPass_unstamped c h, State.readback_setReadback_same]
  | some g =>
    rw [s.endPass_stamped c h]
    split
    · exact State.readback_setReadback_same _ _ _
    · exact State.readback_setReadback_same s c _

theorem State.endPass_cells_of_spoilt (hs : (s.readback c).spoilt = true) : (s.endPass c).cells = s.cells := by
  cases h : s.stamp with
  | none => rw [s.endPass_unstamped c h]; rfl
  | some g => rw [s.endPass_stamped c h, if_pos hs]; rfl

theorem State.endPass_cells_of_good (hs : (s.readback c).spoilt = false) {g : Nat} (h : s.stamp = some g) :
    (s.endPass c).cells = (s.put64 (LVL_CH_RBGOOD_LO c) (LVL_CH_RBGOOD_HI c) g).cells := by
  rw [s.endPass_stamped c h, hs]
  rfl

end

section
variable {r : Readback}

theorem Readback.ended_good (h : r.spoilt = false) : r.ended.good = some r.began := by
  simp [Readback.ended, h]

theorem Readback.ended_cleared_of_spoilt (h : r.spoilt = true) : r.ended.cleared = r.cleared := by
  simp [Readback.ended, h]

/-- A good pass that began in an ac after the latest marking lets CLR clear it (R382). -/
theorem Readback.ended_cleared (h : r.spoilt = false) (hm : ∀ m, r.markAc = some m → m < r.beganAc) : r.ended.cleared = true := by
  have hall : (r.markAc.all fun m => decide (m < r.beganAc)) = true := by
    simpa only [Option.all_eq_true, decide_eq_true_eq] using hm
  simp only [Readback.ended, h, hall, Bool.not_false, Bool.and_self, Bool.or_true]

end

/-! ## TWIN_MISMATCH, UNTR_CLEAR and LVL_CTRL_WRITE (R378, R379, R382) -/

section
variable {s : State} {c : Fin 256} {d : BitVec 32}

section
variable {u v : State} {delay : Bool} (hu : u = s.markUntrusted c.val (if delay then LVL_CH_UNTR_DLYTWIN else LVL_CH_UNTR_LVTWIN))
  (hv : v = u.setReadback c.val { u.readback c.val with spoilt := true })
include hu hv

/-- The channel is marked, its pass is spoilt, and cause CFG is recorded. -/
theorem execTwinMismatch_good : execTwinMismatch c delay false s = .next (v.recordCause (v.siteMask c.val) 0) := by
  rw [hv, hu]
  exact congrArg Host.Outcome.next (if_neg Bool.false_ne_true)

theorem execTwinMismatch_bad : execTwinMismatch c delay true s = .next ((v.recordCause (v.siteMask c.val) 0).reloadFailed c.val
    (if delay then tsOff c.val (s.chan c.val).ts else lsOff c.val (s.chan c.val).ls) (if delay then 1 else 2)) := by
  rw [hv, hu]
  exact congrArg Host.Outcome.next (if_pos rfl)

end

theorem execUntrClear_clears (hr : s.reaches .host 0x100E120 = true) (h : (s.readback c.val).cleared = true) : execUntrClear c s =
    .next (((s.put (LVL_CH_UNTR_RBFAIL c.val) 0).put (LVL_CH_UNTR_DLYTWIN c.val) 0).put (LVL_CH_UNTR_LVTWIN c.val) 0) :=
  (State.reachReg_of_reaches _ hr).trans (if_pos h)

theorem execUntrClear_refused (hr : s.reaches .host 0x100E120 = true) (h : (s.readback c.val).cleared = false) :
    execUntrClear c s = .next (s.put (LVL_CH_UNTR_CLRREF c.val) 1) :=
  (State.reachReg_of_reaches _ hr).trans (if_neg (ne_true_of_eq_false h))

theorem execLvlCtrlWrite_accepted (hr : s.reaches .host 0xA00 = true) (h : 100 ≤ d.toNat % 2 ^ 14 ∧ d.toNat % 2 ^ 14 ≤ 10000) :
    execLvlCtrlWrite d s = .next { s.put LVL_CTRL_RBPERIOD d.toNat with land := { s.land with rbBase := s.time.rc } } :=
  (State.reachReg_of_reaches _ hr).trans (if_pos (by simpa using h))

theorem execLvlCtrlWrite_refused (hr : s.reaches .host 0xA00 = true) (h : d.toNat % 2 ^ 14 < 100 ∨ 10000 < d.toNat % 2 ^ 14) :
    execLvlCtrlWrite d s = .next (s.put LVL_STATUS_RBREF 1) := by
  refine (State.reachReg_of_reaches _ hr).trans (if_neg ?_)
  simp only [Bool.and_eq_true, decide_eq_true_eq]
  omega

end

end Sys2Proof.Machine

namespace Sys2Proof.Proofs

open Sys2Proof.Machine

/-- Settles O24: each command by its cases; a boundary visits each channel once and moves no other channel into or out of lateness, so that
what it leaves is read off the state before. -/
theorem readbackAndTrust : Obligations.ReadbackAndTrust := by
  unfold Obligations.ReadbackAndTrust
  refine ⟨?twin, ?reload, ?mark, ?period, ?step, ?endPass, ?clear, ?ctrl⟩
  case twin => exact fun s u v c delay hu hv => ⟨execTwinMismatch_good hu hv, execTwinMismatch_bad hu hv⟩
  case reload =>
    exact fun s c off cls _ => ⟨s.reloadFailed_nInteg c off cls, s.reloadFailed_nCfg c off cls, s.reloadFailed_flagCleared c off cls,
      s.reloadFailed_seq c off cls⟩
  case mark =>
    intro s c k hc hk
    obtain ⟨hbit, hcount⟩ := s.markUntrusted_counts c (k := k) (by simpa only [untrCauses, List.mem_cons, List.not_mem_nil, or_false] using hk)
    rw [s.markUntrusted_readback c k]
    exact ⟨hbit, hcount, rfl, rfl, s.markUntrusted_event c k hc, s.markUntrusted_mem c k, s.markUntrusted_seq c k⟩
  case period =>
    refine fun s => ⟨execReadbackPeriod_early, fun h => completes_of_eq (execReadbackPeriod_boundary h) ?_⟩
    refine ⟨?_, ?_, ?_, s.periodBegun.boundaryOver_regsBut allChannels, fun c hc => ?_, fun hlate => ?_, fun hlate => ?_⟩
    · exact State.boundaryOver_keeps _ (fun t => t.land.rbBase) (fun _ _ => rfl) (fun _ _ _ => rfl) _
    · exact State.boundaryOver_keeps _ State.mem (fun _ _ => rfl) (fun _ _ _ => rfl) _
    · exact State.boundaryOver_keeps _ State.seq (fun _ _ => rfl) (fun _ _ _ => rfl) _
    · exact (s.periodBegun.boundaryOver_readback c nodup_allChannels).trans (if_pos (mem_allChannels hc))
    · exact (s.periodBegun.boundaryOver_rblate _).trans (if_pos (s.periodBegun.any_lateAt_iff.mpr hlate))
    · have hnone := s.periodBegun.any_lateAt_false_iff.mpr hlate
      exact ⟨(s.periodBegun.boundaryOver_rblate _).trans (if_neg (ne_true_of_eq_false hnone)), s.periodBegun.boundaryOver_raised hnone⟩
  case step =>
    rintro s c void bad r rfl
    exact ⟨execReadbackStep_idle, fun hr => ⟨execReadbackStep_void hr, execReadbackStep_again hr,
      fun hv hb m u v => execReadbackStep_done hr hv hb⟩⟩
  case endPass =>
    intro s c
    rw [s.endPass_readback c]
    exact ⟨rfl, fun h => ⟨s.endPass_cells_of_spoilt c h, Readback.ended_cleared_of_spoilt h⟩,
      fun h => ⟨Readback.ended_good h, Readback.ended_cleared h, fun g => s.endPass_cells_of_good c h⟩⟩
  case clear => exact fun s c hr => ⟨execUntrClear_clears hr, execUntrClear_refused hr⟩
  case ctrl => exact fun s d hr => ⟨execLvlCtrlWrite_accepted hr, execLvlCtrlWrite_refused hr⟩

end Sys2Proof.Proofs
end

