-- ==== Sys2Proof/Proofs/CaptureControl.lean ====
section
/-! SUPPORT. Registers cleared one after the other, and what a RESET clears; each control of the capture and of the fail catalogue in each of
its cases; then the statement on the controls. -/

namespace Sys2Proof.Machine

/-! ## Clearing registers -/

/-- The fields set to 0, in order. -/
def State.cleared (s : State) (fs : List Field) : State := fs.foldl (fun t f => t.put f 0) s

theorem State.cleared_frame (s : State) (fs : List Field) : s.cleared fs = { s with cells := (s.cleared fs).cells } := by
  induction fs generalizing s with
  | nil => rfl
  | cons g fs ih => exact ih (s.put g 0)

theorem State.cleared_regsBut (s : State) (fs : List Field) : s.regsBut (s.cleared fs) fs := by
  induction fs generalizing s with
  | nil => exact s.regsBut_refl []
  | cons g fs ih =>
    intro f hf
    obtain ⟨hg, hfs⟩ := List.forall_mem_cons.mp hf
    exact (ih (s.put g 0) f hfs).trans (s.get_put_ne 0 hg)

theorem State.get_cleared (s : State) {fs : List Field} (hfs : (fs.map Field.id).Nodup) {f : Field} (hf : f ∈ fs) :
    (s.cleared fs).get f = 0 := by
  induction fs generalizing s with
  | nil => exact absurd hf List.not_mem_nil
  | cons g fs ih =>
    obtain ⟨hg, hrest⟩ := List.nodup_cons.mp hfs
    rcases List.mem_cons.mp hf with rfl | hmem
    · have hother : ∀ h ∈ fs, f.id ≠ h.id := fun h hh he => hg (he ▸ List.mem_map_of_mem hh)
      exact ((s.put f 0).cleared_regsBut fs f hother).trans ((s.get_put_same f 0).trans (Nat.zero_mod _))
    · exact ih (s.put g 0) hrest hmem

/-! ## RESET (R409) -/

/-- What a RESET sets to 0: the program's flags and state, and the write count. -/
def capResetFields : List Field :=
  [CAP_STATUS_FIRED, CAP_STATUS_FROZEN, CAP_STATUS_FILLED, CAP_STATUS_HOLE, CAP_STATUS_SHORTPOST, CAP_STATUS_RINGFULL, CAP_STATUS_ARMED,
    CAP_WPTR_LO, CAP_WPTR_HI, CAP_STATUS_ST]

/-- Rake's own state after a RESET. -/
def CapState.wiped (k : CapState) : CapState :=
  { k with cnt := 0, win := 0, fill := 0, post := 0, gap := none, sinceDrop := none, hole := false }

theorem State.capReset_eq (s : State) : s.capReset = { s.cleared capResetFields with cap := s.cap.wiped } := rfl

theorem State.get_capReset (s : State) {f : Field} (hf : f ∈ capResetFields) : s.capReset.get f = 0 :=
  s.get_cleared (by decide) hf

theorem State.capReset_regsBut (s : State) : s.regsBut s.capReset capResetFields := s.cleared_regsBut capResetFields

theorem State.capReset_frame (s : State) : s.capReset = { s with cells := s.capReset.cells, cap := s.capReset.cap } := by
  rw [State.capReset_eq]
  exact congrArg (fun t : State => { t with cap := s.cap.wiped }) (s.cleared_frame capResetFields)

/-! ## ARM, DISARM and RESET of the host (R400, R409) -/

section
variable {s : State}

theorem State.noTake_iff : s.noTake = true ↔ s.seq.running = none ∧ s.land.flights = [] := by
  simp only [State.noTake, Bool.and_eq_true, Option.isNone_iff_eq_none, List.isEmpty_iff]

theorem State.noTake_false_iff : s.noTake = false ↔ s.seq.running ≠ none ∨ s.land.flights ≠ [] := by
  rw [← Bool.not_eq_true, State.noTake_iff, Classical.not_and_iff_not_or_not]

section
variable (hr : s.reaches .host 0x200000 = true)
include hr

theorem execCapArm_requests : execCapArm s = .next { s with cap := { s.cap with armReq := true } } := State.reachReg_of_reaches _ hr

theorem execCapDisarm_atOnce (h : s.noTake = true) : execCapDisarm s = .next (s.put CAP_STATUS_ARMED 0) :=
  (State.reachReg_of_reaches _ hr).trans (if_pos h)

theorem execCapDisarm_waits (h : s.noTake = false) : execCapDisarm s = .next { s with cap := { s.cap with disarmReq := true } } :=
  (State.reachReg_of_reaches _ hr).trans (if_neg (ne_true_of_eq_false h))

theorem execCapReset_atOnce (h : s.noTake = true) : execCapReset s = .next s.capReset :=
  (State.reachReg_of_reaches _ hr).trans (if_pos h)

theorem execCapReset_waits (h : s.noTake = false) :
    execCapReset s = .next { s with cap := { s.cap with resetReq := true, armReq := false, disarmReq := false } } :=
  (State.reachReg_of_reaches _ hr).trans (if_neg (ne_true_of_eq_false h))

end

/-! ## Room for a capture record (R408) -/

theorem State.writeGap_none (h : s.cap.gap = none) : s.writeGap = s := by
  simp only [State.writeGap, h]

theorem State.writeGap_some {n g : Nat} (h : s.cap.gap = some (n, g)) (hb : s.cap.bufFull = false) :
    s.writeGap = (({ s with cap := { s.cap with gap := none } } : State).capPut
      (fun seq => wordBytes [g % 2 ^ 32, g / 2 ^ 32, 2 ^ 31, 1, n, 0, seq, 0]) 32).2 := by
  simp only [State.writeGap, h, hb, Bool.false_eq_true, if_false]

/-- Capture goes on: it is active for the playlist, and the ring is neither frozen nor full (R405, R406, R409). -/
def State.capGoesOn (s : State) : Bool := s.cap.capOn && !s.on CAP_STATUS_FROZEN && !s.on CAP_STATUS_RINGFULL

theorem State.capGoesOn_false (h : s.cap.capOn = false ∨ s.on CAP_STATUS_FROZEN = true ∨ s.on CAP_STATUS_RINGFULL = true) :
    s.capGoesOn = false := by
  rcases h with h | h | h <;> simp [State.capGoesOn, h]

theorem State.capGoesOn_true (hon : s.cap.capOn = true) (hfrozen : s.on CAP_STATUS_FROZEN = false) (hfull : s.on CAP_STATUS_RINGFULL = false) :
    s.capGoesOn = true := by
  simp [State.capGoesOn, hon, hfrozen, hfull]

section
variable {u : State} (hu : u = { s with cap := { s.cap with bufFull := false } })
include hu

theorem execCaptureRoomReturn_stopped (h : s.capGoesOn = false) : execCaptureRoomReturn s = .next u := by
  rw [hu]
  exact if_neg (ne_true_of_eq_false h)

theorem execCaptureRoomReturn_goesOn (h : s.capGoesOn = true) : execCaptureRoomReturn s = .next u.writeGap := by
  rw [hu]
  exact if_pos h

theorem execCaptureRoomReturn_noGap (h : s.cap.gap = none) : execCaptureRoomReturn s = .next u := by
  have hgap : u.cap.gap = none := by rw [hu]; exact h
  cases hc : s.capGoesOn
  · exact execCaptureRoomReturn_stopped hu hc
  · rw [execCaptureRoomReturn_goesOn hu hc, State.writeGap_none hgap]

theorem execCaptureRoomReturn_gap {n g : Nat} (h : s.capGoesOn = true) (hg : s.cap.gap = some (n, g)) :
    execCaptureRoomReturn s = .next (({ u with cap := { u.cap with gap := none } } : State).capPut
      (fun seq => wordBytes [g % 2 ^ 32, g / 2 ^ 32, 2 ^ 31, 1, n, 0, seq, 0]) 32).2 := by
  have hgap : u.cap.gap = some (n, g) := by rw [hu]; exact hg
  have hroom : u.cap.bufFull = false := by rw [hu]
  rw [execCaptureRoomReturn_goesOn hu h, State.writeGap_some hgap hroom]

end

/-! ## Room in the fail catalogue, and its read count (R414, R418) -/

/-- The gap record is written, and the next record needs its base again (R417, R418). -/
def State.fcGapWritten (u : State) (n g : Nat) : State :=
  let t := (u.fcWrite (3 * 2 ^ 126 + (g % 2 ^ 40) * 2 ^ 56 + n)).put CAP_FC_STATUS_GAPPEND 0
  { t with cap := { t.cap with fcGap := none, fcBase := none } }

section
variable {u : State} (hu : u = { s with cap := { s.cap with fcBufFull := false } })
include hu

theorem execFcRoomReturn_noGap (h : s.cap.fcGap = none) : execFcRoomReturn s = .next u := by
  unfold execFcRoomReturn
  extract_lets _ s1
  obtain rfl : u = s1 := hu
  split
  next hgap => exact nomatch h.symm.trans hgap
  next => rfl

theorem execFcRoomReturn_some {n g : Nat} (h : s.cap.fcGap = some (n, g)) :
    execFcRoomReturn s = if u.fcUsed + 4 ≤ 2 ^ 26 then .next (u.fcGapWritten n g) else .next u := by
  unfold execFcRoomReturn
  extract_lets _ s1
  obtain rfl : u = s1 := hu
  split
  next hgap =>
    obtain ⟨rfl, rfl⟩ := Prod.mk.inj (Option.some.inj (h.symm.trans hgap))
    rfl
  next hgap => exact nomatch h.symm.trans hgap

theorem execFcRoomReturn_noRoom (h : 2 ^ 26 < u.fcUsed + 4) : execFcRoomReturn s = .next u := by
  cases hg : s.cap.fcGap with
  | none => exact execFcRoomReturn_noGap hu hg
  | some _ => exact (execFcRoomReturn_some hu hg).trans (if_neg (Nat.not_le.mpr h))

theorem execFcRoomReturn_gap {n g : Nat} (hg : s.cap.fcGap = some (n, g)) (h : u.fcUsed + 4 ≤ 2 ^ 26) :
    execFcRoomReturn s = .next (u.fcGapWritten n g) :=
  (execFcRoomReturn_some hu hg).trans (if_pos h)

end

section
variable {hi : BitVec 32} {v : Nat} (hr : s.reaches .host 0x200064 = true) (hv : v = s.get CAP_FC_RPTR_LO + 2 ^ 32 * hi.toNat)
include hr hv

theorem execFcRptrWrite_accepted (h : s.cap.fcRptr ≤ v ∧ v ≤ s.get64 CAP_FC_WPTR_LO CAP_FC_WPTR_HI) : execFcRptrWrite hi s =
    .next { s.put64 CAP_FC_RPTR_LO CAP_FC_RPTR_HI v with cap := { s.cap with fcRptr := v } } := by
  rw [hv] at h ⊢
  exact (State.reachReg_of_reaches _ hr).trans (if_pos (by simpa only [Bool.and_eq_true, decide_eq_true_eq] using h))

theorem execFcRptrWrite_ignored (h : v < s.cap.fcRptr ∨ s.get64 CAP_FC_WPTR_LO CAP_FC_WPTR_HI < v) : execFcRptrWrite hi s =
    .next ((s.put64 CAP_FC_RPTR_LO CAP_FC_RPTR_HI s.cap.fcRptr).put CAP_FC_STATUS_RPTRERR 1) := by
  rw [hv] at h
  refine (State.reachReg_of_reaches _ hr).trans (if_neg ?_)
  simp only [Bool.and_eq_true, decide_eq_true_eq]
  omega

end

end

end Sys2Proof.Machine

namespace Sys2Proof.Proofs

open Sys2Proof.Machine

/-- Settles O26: each command by its cases; a RESET is ten fields cleared in order and Rake's own state wiped, so that no field outside those
ten moves. -/
theorem captureControl : Obligations.CaptureControl := by
  unfold Obligations.CaptureControl
  refine ⟨?host, ?reset, ?room, ?fcRoom, ?rptr⟩
  case host =>
    refine fun s hr => ⟨execCapArm_requests hr, fun hrun hland => ?_, fun h => ?_⟩
    · have hidle := State.noTake_iff.mpr ⟨hrun, hland⟩
      exact ⟨execCapDisarm_atOnce hr hidle, execCapReset_atOnce hr hidle⟩
    · have hbusy := State.noTake_false_iff.mpr h
      exact ⟨execCapDisarm_waits hr hbusy, execCapReset_waits hr hbusy⟩
  case reset =>
    refine fun s => ⟨congrArg State.cap s.capReset_eq, fun f hf => s.get_capReset ?_, fun f hf => s.capReset_regsBut f fun g hg => hf g ?_,
      s.capReset_frame⟩
    · simpa only [capResetFields, List.mem_cons, List.not_mem_nil, or_false, or_assoc, or_comm, or_left_comm] using hf
    · simpa only [capResetFields, List.mem_cons, List.not_mem_nil, or_false, or_assoc, or_comm, or_left_comm] using hg
  case room =>
    refine fun s u hu => ⟨fun h => ?_, fun n g hon hfrozen hfull => execCaptureRoomReturn_gap hu (State.capGoesOn_true hon hfrozen hfull)⟩
    rcases h with h | h | h | h
    · exact execCaptureRoomReturn_stopped hu (State.capGoesOn_false (.inl h))
    · exact execCaptureRoomReturn_stopped hu (State.capGoesOn_false (.inr (.inl h)))
    · exact execCaptureRoomReturn_stopped hu (State.capGoesOn_false (.inr (.inr h)))
    · exact execCaptureRoomReturn_noGap hu h
  case fcRoom =>
    exact fun s u hu => ⟨fun h => h.elim (execFcRoomReturn_noGap hu) (execFcRoomReturn_noRoom hu),
      fun n g t hg h ht => ht ▸ execFcRoomReturn_gap hu hg h⟩
  case rptr =>
    exact fun s hi v hr hv => ⟨execFcRptrWrite_accepted hr hv, execFcRptrWrite_ignored hr hv⟩

end Sys2Proof.Proofs
end

