-- ==== Sys2Proof/Proofs/TimeIntervalEvents.lean ====
section
/-! SUPPORT. What an event does to a unit in each of its cases, from the input that is not heard to the stop that is taken; which registers the
end of a measurement writes; then the statement on events and results. -/

namespace Sys2Proof.Machine

/-! ## What leaves a unit's status alone -/

theorem TIU_STATUS_ARMED_id_ne_started (n : Nat) : (TIU_STATUS_ARMED n).id ≠ (TIU_STATUS_STARTED n).id := by
  simp [Field.id, TIU_STATUS_ARMED, TIU_STATUS_STARTED]

section
variable (s : State)

@[simp] theorem State.tiuUnit_setTiu_same (n : Nat) (u : TiuUnit) : (s.setTiu n u).tiuUnit n = u := Assoc.get_set_same _ _ _ _
@[simp] theorem State.get_setTiu (n : Nat) (u : TiuUnit) (g : Field) : (s.setTiu n u).get g = s.get g := rfl

/-- A record offered to a queue counts at most in QUE_NDROP (R635). -/
theorem State.get_enq {g : Field} (q : Nat) (bytes : List (BitVec 8)) (h : g.id ≠ QUE_NDROP.id) : (s.enq q bytes).get g = s.get g := by
  simp only [State.enq, State.enqueue]
  split
  · exact s.get_addSat_ne 1 h
  · split
    · rfl
    · exact (State.get_raise _ _ _ _ _).trans (State.get_addSat_ne _ 1 h)

theorem State.get_tiuRecords {g : Field} (n e : Nat) (u : TiuUnit) (h : g.id ≠ QUE_NDROP.id) : (s.tiuRecords n e u).get g = s.get g := by
  unfold State.tiuRecords
  split
  · exact foldl_keeps (fun t : State => t.get g) (fun t _ => t.get_enq _ _ h) _ _
  · rfl

/-- The result registers of a unit lie above its other registers. -/
theorem State.get_tiuPost {g : Field} {n : Nat} (e : Nat) (u : TiuUnit) (h : g.off < 0x281080 + 0x100 * n) (hlo : g.lo < 32) :
    (s.tiuPost n e u).get g = s.get g := by
  refine foldl_keeps (fun t : State => t.get g) (fun t k => ?_) _ _
  refine (State.get_put_ne _ _ ?_).trans (t.get_put_ne _ ?_) <;>
  · simp only [Field.id, TIU_RES_LO, TIU_RES_HI]
    omega

end

/-! ## The end of a measurement (R439, R440) -/

section
variable (s : State) (n e : Nat)

/-- START_GVC of the measurement that ends, with the state that has drawn it. -/
def State.tiuStartGvc : Nat × State :=
  match (s.tiuUnit n).e0 with
  | some _ => ((s.tiuUnit n).gvc, s)
  | none => s.free

/-- The status of a unit whose measurement has ended: neither armed nor started, with the code. -/
def State.tiuIdled : State := ((s.put (TIU_STATUS_ARMED n) 0).put (TIU_STATUS_STARTED n) 0).put (TIU_STATUS_END n) e

/-- The status and the results of the ended measurement are in their registers. -/
def State.tiuSettled : State :=
  let s1 := (((s.tiuStartGvc n).2.tiuIdled n e).tiuPost n e (s.tiuUnit n)).put64 (TIU_START_GVC_LO n) (TIU_START_GVC_HI n) (s.tiuStartGvc n).1
  let s2 := if s.get (TIU_CTRL_MODE n) = 2 then s1.put (TIU_COUNT n) (s.tiuUnit n).evs else s1
  if e = 5 then s2.inc (TIU_NSHORT n) else s2

/-- The set is posted and the unit has no measurement. -/
def State.tiuPosted : State :=
  ((((s.tiuSettled n e).inc (TIU_SEQ n)).raise srcTiuDone n 0).tiuRecords n e (s.tiuUnit n)).setTiu n
    { TiuUnit.idle with gated := (s.tiuUnit n).gated, gateOpen := (s.tiuUnit n).gateOpen }

variable {s n e}

theorem State.tiuEnd_of_idle (h : s.tiuBusy n = false) : s.tiuEnd n e = s := by
  rw [State.tiuEnd, h]
  rfl

/-- A measurement that ends is posted, and a unit that goes on is armed anew. -/
theorem State.tiuEnd_of_busy (h : s.tiuBusy n = true) :
    s.tiuEnd n e = if s.on (TIU_CTRL_CONT n) && decide (e ≠ 2) then (s.tiuPosted n e).tiuArmUnit n else s.tiuPosted n e := by
  rw [State.tiuEnd, h]
  rfl

theorem State.tiuEnd_stays (h : s.tiuBusy n = true) (hc : s.on (TIU_CTRL_CONT n) = false ∨ e = 2) : s.tiuEnd n e = s.tiuPosted n e := by
  rw [State.tiuEnd_of_busy h, if_neg]
  rcases hc with hc | rfl <;> simp [*]

theorem State.tiuEnd_rearms (h : s.tiuBusy n = true) (hc : s.on (TIU_CTRL_CONT n) = true) (he : e ≠ 2) :
    s.tiuEnd n e = (s.tiuPosted n e).tiuArmUnit n := by
  rw [State.tiuEnd_of_busy h, if_pos]
  simp [hc, he]

/-- Arming writes ARMED and STARTED alone. -/
theorem State.get_tiuArmUnit {g : Field} (ha : g.id ≠ (TIU_STATUS_ARMED n).id) (hs : g.id ≠ (TIU_STATUS_STARTED n).id) :
    (s.tiuArmUnit n).get g = s.get g :=
  (State.get_put_ne _ 0 hs).trans (s.get_put_ne 1 ha)

theorem State.tiuArmUnit_armed : (s.tiuArmUnit n).get (TIU_STATUS_ARMED n) = 1 :=
  (State.get_put_ne (s.put (TIU_STATUS_ARMED n) 1) 0 (TIU_STATUS_ARMED_id_ne_started n)).trans (s.get_put_same _ 1)

theorem State.get_tiuStartGvc (g : Field) : (s.tiuStartGvc n).2.get g = s.get g := by
  unfold State.tiuStartGvc
  split <;> rfl

theorem State.tiuIdled_end (he : e < 8) : (s.tiuIdled n e).get (TIU_STATUS_END n) = e :=
  (State.get_put_same _ _ _).trans (Nat.mod_eq_of_lt he)

theorem State.tiuIdled_started : (s.tiuIdled n e).get (TIU_STATUS_STARTED n) = 0 :=
  (State.get_put_ne _ e (by simp [Field.id, TIU_STATUS_STARTED, TIU_STATUS_END])).trans (State.get_put_same _ _ _)

theorem State.tiuIdled_armed : (s.tiuIdled n e).get (TIU_STATUS_ARMED n) = 0 := by
  rw [State.tiuIdled, State.get_put_ne _ e (by simp [Field.id, TIU_STATUS_ARMED, TIU_STATUS_END]),
    State.get_put_ne _ 0 (TIU_STATUS_ARMED_id_ne_started n), State.get_put_same]
  rfl

theorem State.tiuIdled_seq : (s.tiuIdled n e).get (TIU_SEQ n) = s.get (TIU_SEQ n) := by
  rw [State.tiuIdled, State.get_put_ne, State.get_put_ne, State.get_put_ne] <;>
  · simp only [Field.id, TIU_SEQ, TIU_STATUS_ARMED, TIU_STATUS_STARTED, TIU_STATUS_END]
    omega

/-- Below COUNT a unit's registers hold only the status of the ended measurement: the set goes to COUNT and above it. -/
theorem State.get_tiuSettled {g : Field} (h : g.off < 0x281020 + 0x100 * n ∧ g.lo < 32) :
    (s.tiuSettled n e).get g = ((s.tiuStartGvc n).2.tiuIdled n e).get g := by
  have hcount : g.id ≠ (TIU_COUNT n).id := by simp only [Field.id, TIU_COUNT]; omega
  have hshort : g.id ≠ (TIU_NSHORT n).id := by simp only [Field.id, TIU_NSHORT]; omega
  have hgvcLo : g.id ≠ (TIU_START_GVC_LO n).id := by simp only [Field.id, TIU_START_GVC_LO]; omega
  have hgvcHi : g.id ≠ (TIU_START_GVC_HI n).id := by simp only [Field.id, TIU_START_GVC_HI]; omega
  simp only [State.tiuSettled, apply_ite (State.get · g), State.get_inc_ne _ hshort, State.get_put_ne _ _ hcount, ite_self,
    State.get_put64_ne _ _ hgvcLo hgvcHi]
  exact State.get_tiuPost _ _ _ (by omega) h.2

/-- What posting leaves of a register that lies below SEQ and below the queues' registers. -/
theorem State.get_tiuPosted {g : Field} (hn : n < 16) (h : g.off < 0x28101c + 0x100 * n ∧ g.lo < 32) :
    (s.tiuPosted n e).get g = ((s.tiuStartGvc n).2.tiuIdled n e).get g := by
  have hdrop : g.id ≠ QUE_NDROP.id := by simp only [Field.id, QUE_NDROP]; omega
  have hseq : g.id ≠ (TIU_SEQ n).id := by simp only [Field.id, TIU_SEQ]; omega
  rw [State.tiuPosted, State.get_setTiu, State.get_tiuRecords _ _ _ _ hdrop, State.get_raise, State.get_inc_ne _ hseq]
  exact State.get_tiuSettled (by omega)

theorem State.tiuPosted_end (hn : n < 16) (he : e < 8) : (s.tiuPosted n e).get (TIU_STATUS_END n) = e :=
  (State.get_tiuPosted hn (by simp [TIU_STATUS_END])).trans (State.tiuIdled_end he)

theorem State.tiuPosted_armed (hn : n < 16) : (s.tiuPosted n e).get (TIU_STATUS_ARMED n) = 0 :=
  (State.get_tiuPosted hn (by simp [TIU_STATUS_ARMED])).trans State.tiuIdled_armed

theorem State.tiuPosted_started (hn : n < 16) : (s.tiuPosted n e).get (TIU_STATUS_STARTED n) = 0 :=
  (State.get_tiuPosted hn (by simp [TIU_STATUS_STARTED])).trans State.tiuIdled_started

theorem State.tiuPosted_idle (hn : n < 16) : (s.tiuPosted n e).tiuBusy n = false := by
  simp [State.tiuBusy, State.on, State.tiuPosted_armed hn, State.tiuPosted_started hn]

theorem State.tiuPosted_seq (hn : n < 16) : (s.tiuPosted n e).get (TIU_SEQ n) = (s.get (TIU_SEQ n) + 1) % 2 ^ 32 := by
  have hdrop : (TIU_SEQ n).id ≠ QUE_NDROP.id := by simp only [Field.id, TIU_SEQ, QUE_NDROP]; omega
  have hbefore : (s.tiuSettled n e).get (TIU_SEQ n) = s.get (TIU_SEQ n) :=
    (State.get_tiuSettled (by simp [TIU_SEQ])).trans (State.tiuIdled_seq.trans (State.get_tiuStartGvc _))
  rw [State.tiuPosted, State.get_setTiu, State.get_tiuRecords _ _ _ _ hdrop, State.get_raise, State.get_inc_same, hbefore]
  rfl

/-- Outside ARMED and STARTED the registers after an end are those of the posted set, whether or not the unit is armed anew. -/
theorem State.get_tiuEnd {g : Field} (h : s.tiuBusy n = true) (ha : g.id ≠ (TIU_STATUS_ARMED n).id) (hs : g.id ≠ (TIU_STATUS_STARTED n).id) :
    (s.tiuEnd n e).get g = (s.tiuPosted n e).get g := by
  rw [State.tiuEnd_of_busy h]
  split
  · exact State.get_tiuArmUnit ha hs
  · rfl

theorem State.tiuEnd_end (hn : n < 16) (he : e < 8) (h : s.tiuBusy n = true) : (s.tiuEnd n e).get (TIU_STATUS_END n) = e :=
  (State.get_tiuEnd h (by simp [Field.id, TIU_STATUS_END, TIU_STATUS_ARMED]) (by simp [Field.id, TIU_STATUS_END, TIU_STATUS_STARTED])).trans
    (State.tiuPosted_end hn he)

theorem State.tiuEnd_seqCount (hn : n < 16) (h : s.tiuBusy n = true) : (s.tiuEnd n e).get (TIU_SEQ n) = (s.get (TIU_SEQ n) + 1) % 2 ^ 32 := by
  rw [State.get_tiuEnd h, State.tiuPosted_seq hn] <;>
  · simp only [Field.id, TIU_SEQ, TIU_STATUS_ARMED, TIU_STATUS_STARTED]
    omega

end

/-! ## Results (R427, R436, R439) -/

section
variable {s : State} {n k : Nat} {t v : Int} {u : TiuUnit}

theorem State.tiuTakeResult_beyond (h : 2 ^ 47 ≤ v.natAbs) : s.tiuTakeResult n k v u = (s.setTiu n u).tiuEnd n 3 := if_pos h

theorem State.tiuTakeResult_within {x : TiuUnit} (hx : x = { u with taken := Assoc.insert u.taken k v }) (h : v.natAbs < 2 ^ 47) :
    s.tiuTakeResult n k v u = if x.taken.length = s.tiuResults n then (s.setTiu n x).tiuEnd n 0 else s.setTiu n x :=
  hx ▸ if_neg (Nat.not_le_of_lt h)

/-! ## The first event on the start input (R436) -/

/-- E0 starts the unit with its timestamp. -/
theorem State.tiuStart_first (h : u.e0 = none) : ∃ x : TiuUnit, x.e0 = some t ∧ x.last = t ∧
    s.tiuStart n t u = ((s.landGvc.2.put (TIU_STATUS_ARMED n) 0).put (TIU_STATUS_STARTED n) 1).setTiu n x := by
  rw [State.tiuStart, h]
  exact ⟨_, rfl, rfl, rfl⟩

theorem State.get_tiuStart_first (h : u.e0 = none) :
    (s.tiuStart n t u).get (TIU_STATUS_STARTED n) = 1 ∧ (s.tiuStart n t u).get (TIU_STATUS_ARMED n) = 0 := by
  obtain ⟨x, -, -, heq⟩ := State.tiuStart_first (s := s) (n := n) (t := t) h
  rw [heq, State.get_setTiu, State.get_setTiu, State.get_put_same,
    State.get_put_ne _ 1 (TIU_STATUS_ARMED_id_ne_started n), State.get_put_same]
  exact ⟨rfl, rfl⟩

theorem State.tiuUnit_tiuStart_first (h : u.e0 = none) :
    ((s.tiuStart n t u).tiuUnit n).e0 = some t ∧ ((s.tiuStart n t u).tiuUnit n).last = t := by
  obtain ⟨x, he0, hlast, heq⟩ := State.tiuStart_first (s := s) (n := n) (t := t) h
  rw [heq, State.tiuUnit_setTiu_same]
  exact ⟨he0, hlast⟩

/-! ## An event on a stop input (R436, R437) -/

section
variable {e d : Int} (he : u.e0 = some e) (hd : d = t - (e + (s.get (TIU_CFG_HOLDOFF n) : Int) * 32768))
include he

/-- No stop that the mode uses, or one already taken. -/
theorem State.tiuStop_unheard (h : s.get (TIU_CTRL_MODE n) ≠ 0 ∨ s.get (TIU_CFG_NSTOP n) < k ∨ (u.taken.any fun r => r.1 == k) = true) :
    s.tiuStop n k t u = s := by
  rw [State.tiuStop, he]
  exact if_pos (by simpa only [Bool.or_eq_true, decide_eq_true_eq, or_assoc] using h)

section
variable (hm : s.get (TIU_CTRL_MODE n) = 0) (hk : k ≤ s.get (TIU_CFG_NSTOP n)) (hu : (u.taken.any fun r => r.1 == k) = false)
include hd hm hk hu

/-- An open stop at a distance d from the end of the hold-off: near it a free value decides, and elsewhere the sign of d. -/
theorem State.tiuStop_open : s.tiuStop n k t u =
    if d.natAbs < 16384 then (if s.free.1 % 2 = 1 then s.free.2.tiuTakeResult n k (interval t e) u else s.free.2)
    else if 0 < d then s.tiuTakeResult n k (interval t e) u else s := by
  rw [State.tiuStop, he]
  dsimp only
  rw [if_neg (by simp [hm, hk, hu]), ← hd]
  split
  · rfl
  · by_cases hpos : 0 < d <;> simp [hpos, b2n]

theorem State.tiuStop_after (h : 16384 ≤ d) : s.tiuStop n k t u = s.tiuTakeResult n k (interval t e) u := by
  rw [State.tiuStop_open he hd hm hk hu, if_neg (by omega), if_pos (by omega)]

theorem State.tiuStop_before (h : d ≤ -16384) : s.tiuStop n k t u = s := by
  rw [State.tiuStop_open he hd hm hk hu, if_neg (by omega), if_neg (by omega)]

theorem State.tiuStop_near (hlo : -16384 < d) (hhi : d < 16384) :
    s.tiuStop n k t u = if s.free.1 % 2 = 1 then s.free.2.tiuTakeResult n k (interval t e) u else s.free.2 := by
  rw [State.tiuStop_open he hd hm hk hu, if_pos (by omega)]

end

end

end

/-! ## TIU_EVENT -/

section
variable {s : State} {n : Fin 16} {i : Fin 17} {k : Fin 20} {b : Fin 1024} {edge sel : Nat} (hsrc : s.tiuSrc n.val i.val = (edge, sel))
include hsrc

/-- Frozen, or a drive event that is no transition at the land (R430). -/
theorem execTiuEvent_none (h : s.frozen = true ∨ s.tiuDrives edge sel = false) : execTiuEvent n i k b s = .next s := by
  simp only [execTiuEvent, hsrc]
  exact if_pos (by simpa only [Bool.or_eq_true, Bool.not_eq_true'] using h)

section
variable (hf : s.frozen = false) (hdr : s.tiuDrives edge sel = true) {u : State} {x : TiuUnit} (hu : u = s.tiuCompare edge sel)
  (hx : x = s.tiuUnit n.val)
include hf hdr hu hx

/-- The unit does not listen, the source is interrupted or the gate is closed. -/
theorem execTiuEvent_unheard
    (h : u.tiuListens n.val i.val x = false ∨ u.tiuWatches n.val i.val u.interrupted = true ∨ x.gated = true ∧ x.gateOpen = false) :
    execTiuEvent n i k b s = .next u := by
  subst hu hx
  simp only [execTiuEvent, hsrc]
  rw [if_neg (by simp [hf, hdr])]
  exact if_pos (by simpa only [Bool.or_eq_true, Bool.and_eq_true, Bool.not_eq_true', or_assoc] using h)

section
variable (hl : u.tiuListens n.val i.val x = true) (hw : u.tiuWatches n.val i.val u.interrupted = false)
  (hg : x.gated = false ∨ x.gateOpen = true) {key f : Nat} {valid : Bool} {v : State} {t : Int}
  (hkey : key = x.interp (s.get (TIU_CTRL_MODE n.val)) i.val) (hbin : u.tiuBin n.val key b.val = (f, valid, v))
  (ht : t = 32768 * ((20 * s.time.rc + k.val : Nat) : Int) + (f : Int))
include hl hw hg hkey hbin ht

/-- An event that the unit hears, by what becomes of its timestamp. -/
theorem execTiuEvent_heard : execTiuEvent n i k b s =
    if v.tiuOnlyCounts n.val x t then .next (v.tiuStart n.val (32768 * ((20 * s.time.rc + k.val : Nat) : Int)) x)
    else if v.tiuDead (17 * n.val + key) t then .next u
    else .next (if i.val = 0 then (v.tiuConvert (17 * n.val + key) t).tiuStart n.val t { x with nocal := x.nocal || !valid }
      else (v.tiuConvert (17 * n.val + key) t).tiuStop n.val (i.val - 1) t { x with nocal := x.nocal || !valid }) := by
  subst hu hx hkey ht
  simp only [execTiuEvent, hsrc]
  rw [if_neg (by simp [hf, hdr]), if_neg (by rcases hg with hg | hg <;> simp [hl, hw, hg]), hbin]
  rw [apply_ite Host.Outcome.next]

theorem execTiuEvent_counted (hc : v.tiuOnlyCounts n.val x t = true) :
    execTiuEvent n i k b s = .next (v.tiuStart n.val (32768 * ((20 * s.time.rc + k.val : Nat) : Int)) x) :=
  (execTiuEvent_heard hsrc hf hdr hu hx hl hw hg hkey hbin ht).trans (if_pos hc)

section
variable (hc : v.tiuOnlyCounts n.val x t = false)
include hc

theorem execTiuEvent_dead (hdead : v.tiuDead (17 * n.val + key) t = true) : execTiuEvent n i k b s = .next u := by
  rw [execTiuEvent_heard hsrc hf hdr hu hx hl hw hg hkey hbin ht, if_neg (ne_true_of_eq_false hc), if_pos hdead]

theorem execTiuEvent_converted (hdead : v.tiuDead (17 * n.val + key) t = false) : execTiuEvent n i k b s =
    .next (if i.val = 0 then (v.tiuConvert (17 * n.val + key) t).tiuStart n.val t { x with nocal := x.nocal || !valid }
      else (v.tiuConvert (17 * n.val + key) t).tiuStop n.val (i.val - 1) t { x with nocal := x.nocal || !valid }) := by
  rw [execTiuEvent_heard hsrc hf hdr hu hx hl hw hg hkey hbin ht, if_neg (ne_true_of_eq_false hc), if_neg (ne_true_of_eq_false hdead)]

end

end

end

end

end Sys2Proof.Machine

namespace Sys2Proof.Proofs

open Sys2Proof.Machine

/-- Settles O28: an event by what becomes of it on its way to the unit, a stop by its distance from the hold-off, and an end by whether the unit
is armed anew, which writes only ARMED and STARTED. -/
theorem timeIntervalEvents : Obligations.TimeIntervalEvents := by
  unfold Obligations.TimeIntervalEvents
  refine ⟨?event, ?start, ?stop, ?result, ?ends⟩
  case event =>
    refine fun s n i k b edge sel hsrc => ⟨execTiuEvent_none hsrc, fun hf hdr u x hu hx => ⟨execTiuEvent_unheard hsrc hf hdr hu hx, ?_⟩⟩
    exact fun hl hw hg key f valid v t hkey hbin ht => ⟨execTiuEvent_counted hsrc hf hdr hu hx hl hw hg hkey hbin ht,
      execTiuEvent_dead hsrc hf hdr hu hx hl hw hg hkey hbin ht, execTiuEvent_converted hsrc hf hdr hu hx hl hw hg hkey hbin ht⟩
  case start =>
    intro s n t u _ he0
    obtain ⟨hstarted, harmed⟩ := State.get_tiuStart_first (s := s) (n := n) (t := t) he0
    exact ⟨hstarted, harmed, State.tiuUnit_tiuStart_first he0⟩
  case stop =>
    exact fun s n k t d u e he hd => ⟨State.tiuStop_unheard he, fun hm hk hu => ⟨State.tiuStop_after he hd hm hk hu,
      State.tiuStop_before he hd hm hk hu, State.tiuStop_near he hd hm hk hu⟩⟩
  case result => exact fun s n k v u x hx => ⟨State.tiuTakeResult_beyond, State.tiuTakeResult_within hx⟩
  case ends =>
    refine fun s n e => ⟨State.tiuEnd_of_idle, fun hn he hb => ⟨State.tiuEnd_end hn he hb, State.tiuEnd_seqCount hn hb, fun hc => ?_,
      fun hc he2 => ?_⟩⟩
    · rw [State.tiuEnd_stays hb hc]
      exact State.tiuPosted_idle hn
    · rw [State.tiuEnd_rearms hb hc he2]
      exact State.tiuArmUnit_armed

end Sys2Proof.Proofs
end

