-- ==== Sys2Proof/Proofs/Fixed.lean ====
section
/-! SUPPORT. What no command but a few touches: the queue of commands that wait, HBM, and the reset in force. One lemma per operation of the
model says that it leaves them as they are; the operations that write HBM or reset the device are in the file after this one. -/

namespace Sys2Proof.Machine

/-- The queue, HBM and the reset in force. -/
abbrev Fixed := List Instr × List Host.Cell × Nat

/-- The part of the state that the lemmas of this file speak of. -/
def State.fixed (s : State) : Fixed := (s.pending, s.mem, s.pins.inReset)

/-- That part of the state that a command answers, when it answers one. -/
def fixedOf : Out → Option Fixed
  | .next t => some t.fixed
  | _ => none

@[simp] theorem fixedOf_next (t : State) : fixedOf (.next t) = some t.fixed := (rfl)

@[simp] theorem fixedOf_ite (c : Prop) [Decidable c] (a b : Out) :
    fixedOf (if c then a else b) = if c then fixedOf a else fixedOf b := apply_ite _ _ _ _

@[simp] theorem State.fixed_ite (c : Prop) [Decidable c] (a b : State) : (if c then a else b).fixed = if c then a.fixed else b.fixed :=
  apply_ite _ _ _ _

@[simp] theorem snd_ite {α β : Type} (c : Prop) [Decidable c] (a b : α × β) : (if c then a else b).2 = if c then a.2 else b.2 :=
  apply_ite _ _ _ _

@[simp] theorem getD_ite {α : Type} (c : Prop) [Decidable c] (a b : Option α) (d : α) :
    (if c then a else b).getD d = if c then a.getD d else b.getD d := apply_ite (fun o : Option α => o.getD d) _ _ _

/-- An update of any other component leaves it. The proof is in parentheses so that simp takes the lemma as a rewrite, not by reduction, which
would compare whole states. -/
@[simp] theorem State.fixed_mk (pending cells shadow active latches raised tx hostOut freeCtr pins clk cmt seq fail seg apg land cap que hbc tiu grd
    cal pmu lnk pmg time fcl evr frz cle cores rsc mem poison) :
    (State.mk pending cells shadow active latches raised tx hostOut freeCtr pins clk cmt seq fail seg apg land cap que hbc tiu grd
      cal pmu lnk pmg time fcl evr frz cle cores rsc mem poison).fixed =
      (pending, mem, pins.inReset) := (rfl)

@[simp] theorem State.fixed_eta (s : State) : (s.pending, s.mem, s.pins.inReset) = s.fixed := (rfl)

@[simp] theorem foldl_fixed {α : Type} (l : List α) (g : State → α → State) (h : ∀ t x, (g t x).fixed = t.fixed) (s : State) :
    (l.foldl g s).fixed = s.fixed := by
  induction l generalizing s with
  | nil => rfl
  | cons x l ih => rw [List.foldl_cons, ih, h]

/-! ## The operations that every block uses -/

@[simp] theorem State.put_fixed (s : State) (f : Field) (v : Nat) : (s.put f v).fixed = s.fixed := (rfl)
@[simp] theorem State.flag_fixed (s : State) (f : Field) (b : Bool) : (s.flag f b).fixed = s.fixed := by simp [State.flag]
@[simp] theorem State.inc_fixed (s : State) (f : Field) : (s.inc f).fixed = s.fixed := by simp [State.inc]
@[simp] theorem State.addSat_fixed (s : State) (f : Field) (k : Nat) : (s.addSat f k).fixed = s.fixed := by simp [State.addSat]
@[simp] theorem State.incSat_fixed (s : State) (f : Field) : (s.incSat f).fixed = s.fixed := by simp [State.incSat]
@[simp] theorem State.put64_fixed (s : State) (lo hi : Field) (v : Nat) : (s.put64 lo hi v).fixed = s.fixed := by simp [State.put64]
@[simp] theorem State.add64_fixed (s : State) (lo hi : Field) (k : Nat) : (s.add64 lo hi k).fixed = s.fixed := by simp [State.add64]
@[simp] theorem State.setBitOf_fixed (s : State) (fam : Nat → Field) (b : Nat) (v : Bool) :
    (s.setBitOf fam b v).fixed = s.fixed := by simp [State.setBitOf]
@[simp] theorem State.putShadow_fixed (s : State) (f : Field) (v : Nat) : (s.putShadow f v).fixed = s.fixed := (rfl)
@[simp] theorem State.free_fixed (s : State) : (s.free).2.fixed = s.fixed := by simp [State.free]
@[simp] theorem State.send_fixed (s : State) (m : TxMsg) : (s.send m).fixed = s.fixed := (rfl)
@[simp] theorem State.toHost_fixed (s : State) (m : HostMsg) : (s.toHost m).fixed = s.fixed := (rfl)
@[simp] theorem State.raise_fixed (s : State) (src arg value : Nat) : (s.raise src arg value).fixed = s.fixed := (rfl)
@[simp] theorem State.event_fixed (s : State) (src : Nat) : (s.event src).fixed = s.fixed := by simp [State.event]
@[simp] theorem State.sendHarvest_fixed (s : State) : (s.sendHarvest).fixed = s.fixed := by
  unfold State.sendHarvest
  split <;> simp
@[simp] theorem State.passRc_fixed (s : State) (k : Nat) : (s.passRc k).fixed = s.fixed := by simp [State.passRc]
@[simp] theorem State.switchWindow_fixed (s : State) : (s.switchWindow).fixed = s.fixed := by simp [State.switchWindow]
@[simp] theorem State.waitRc_fixed (s : State) (t : Nat) : (s.waitRc t).fixed = s.fixed := by simp [State.waitRc]
@[simp] theorem State.advance_fixed (s : State) (n : Nat) : (s.advance n).fixed = s.fixed := by simp [State.advance]
@[simp] theorem State.inDomain_fixed (s : State) (d : Nat) (k : State → State) (h : ∀ t : State, (k t).fixed = t.fixed) :
    (s.inDomain d k).fixed = s.fixed := by simp [State.inDomain, h]
@[simp] theorem State.notIssued_fixed (s : State) (req : Req) : (s.notIssued req).fixed = s.fixed := by
  unfold State.notIssued
  split <;> simp
@[simp] theorem State.reachReg_fixed (s : State) (req : Req) (off : Nat) (k : State → Out) (h : ∀ t : State, fixedOf (k t) = some t.fixed) :
    fixedOf (s.reachReg req off k) = some s.fixed := by
  rcases s.reachReg_cases req off k with e | e | e | e | e <;> simp [e, h]
@[simp] theorem State.takeReg_fixed (s : State) (req : Req) (off : Nat) (k : State → Out) (h : ∀ t : State, fixedOf (k t) = some t.fixed) :
    fixedOf (s.takeReg req off k) = some s.fixed := by simp [State.takeReg, h]
@[simp] theorem State.setChan_fixed (s : State) (c : Nat) (l : ChanLand) : (s.setChan c l).fixed = s.fixed := by simp [State.setChan]

/-! ## The DRAM controller -/

@[simp] theorem State.retireRequest_fixed (s : State) (k : Nat) : (s.retireRequest k).fixed = s.fixed := by simp [State.retireRequest]
@[simp] theorem State.hbmUe_fixed (s : State) (k : Nat) (scrub : Bool) : (s.hbmUe k scrub).fixed = s.fixed := by simp [State.hbmUe]
@[simp] theorem State.refuseLocked_fixed (s : State) (a : Nat) : (s.refuseLocked a).fixed = s.fixed := by simp [State.refuseLocked]
@[simp] theorem State.hbmRead_fixed (s : State) (a n : Nat) : (s.hbmRead a n).2.fixed = s.fixed := by simp [State.hbmRead]

theorem State.fixed_of_hbmRead {s t : State} {a n : Nat} {r : Option (List (BitVec 8))} (h : s.hbmRead a n = (r, t)) :
    t.fixed = s.fixed := by
  rw [← s.hbmRead_fixed a n, h]

@[simp] theorem State.setHbmQueue_fixed (s : State) (p : Nat) (q : List HbmReq) :
    (s.setHbmQueue p q).fixed = s.fixed := by simp [State.setHbmQueue]
@[simp] theorem State.askImage_fixed (s : State) (who a n : Nat) : (s.askImage who a n).fixed = s.fixed := by simp [State.askImage]
@[simp] theorem execHbmRequest_fixed (port : Fin 8) (write : Bool) (addr : BitVec 40) (len : Fin 65) (data : List Byte) (s : State) :
    fixedOf (execHbmRequest port write addr len data s) = some s.fixed := by simp [execHbmRequest]
@[simp] theorem effHbmFence_fixed (ports : BitVec 8) (s : State) : fixedOf (effHbmFence ports s) = some s.fixed := by simp [effHbmFence]
@[simp] theorem execHbmFence_fixed (ports : BitVec 8) (s : State) : fixedOf (execHbmFence ports s) = some s.fixed := by simp [execHbmFence]
@[simp] theorem execFenceDone_fixed (s : State) : fixedOf (execFenceDone s) = some s.fixed := by
  unfold execFenceDone
  split <;> simp
@[simp] theorem State.setShadow_fixed (s : State) (m k : Nat) (g : List Nat) :
    (s.setShadow m k g).fixed = s.fixed := by simp [State.setShadow]
@[simp] theorem State.shadowCopy_fixed (s : State) (k j : Nat) : (s.shadowCopy k j).fixed = s.fixed := by simp [State.shadowCopy]
@[simp] theorem State.shadowMove_fixed (s : State) (k j : Nat) : (s.shadowMove k j).fixed = s.fixed := by simp [State.shadowMove]
@[simp] theorem State.startCycles_fixed (s : State) : (s.startCycles).fixed = s.fixed := by simp [State.startCycles]
@[simp] theorem execRetrainPauseEnd_fixed (ch : Fin 32) (failed : Bool) (s : State) :
    fixedOf (execRetrainPauseEnd ch failed s) = some s.fixed := by simp [execRetrainPauseEnd]
@[simp] theorem execHbmRefresh_fixed (ch : Fin 32) (s : State) : fixedOf (execHbmRefresh ch s) = some s.fixed := by simp [execHbmRefresh]
@[simp] theorem execRefreshManagementRequest_fixed (_ch : Fin 32) (s : State) :
    fixedOf (execRefreshManagementRequest _ch s) = some s.fixed := by simp [execRefreshManagementRequest]
@[simp] theorem State.setDbl_fixed (s : State) (m : Nat) (b : Bool) : (s.setDbl m b).fixed = s.fixed := by simp [State.setDbl]
@[simp] theorem execHbmTempRead_fixed (stack : Fin 2) (temp : BitVec 8) (s : State) :
    fixedOf (execHbmTempRead stack temp s) = some s.fixed := by simp [execHbmTempRead]
@[simp] theorem execHbmScrub_fixed (granule : BitVec 30) (result : Fin 3) (s : State) :
    fixedOf (execHbmScrub granule result s) = some s.fixed := by simp [execHbmScrub]
@[simp] theorem effHbcRetire_fixed (ch : Fin 32) (s : State) : fixedOf (effHbcRetire ch s) = some s.fixed := by simp [effHbcRetire]
@[simp] theorem execHbcRetire_fixed (ch : Fin 32) (s : State) : fixedOf (execHbcRetire ch s) = some s.fixed := by simp [execHbcRetire]
@[simp] theorem execRetirementCopyDone_fixed (s : State) :
    fixedOf (execRetirementCopyDone s) = some s.fixed := by simp [execRetirementCopyDone]

/-! ## The queue pool and the host rings -/

@[simp] theorem State.setQueue_fixed (s : State) (q : Nat) (v : Queue) : (s.setQueue q v).fixed = s.fixed := by simp [State.setQueue]
@[simp] theorem State.rehold_fixed (s : State) : (s.rehold).fixed = s.fixed := by simp [State.rehold]
@[simp] theorem State.dropItem_fixed (s : State) (q k : Nat) : (s.dropItem q k).fixed = s.fixed := by simp [State.dropItem]
@[simp] theorem State.enqueue_fixed (s : State) (q : Nat) (bytes : List (BitVec 8)) :
    (s.enqueue q bytes).2.fixed = s.fixed := by simp [State.enqueue]
@[simp] theorem State.enq_fixed (s : State) (q : Nat) (bytes : List (BitVec 8)) : (s.enq q bytes).fixed = s.fixed := by simp [State.enq]
@[simp] theorem State.dequeue_fixed (s : State) (q : Nat) : (s.dequeue q).2.fixed = s.fixed := by
  simp only [State.dequeue]
  split <;> simp
@[simp] theorem State.flushQueue_fixed (s : State) (q : Nat) : (s.flushQueue q).fixed = s.fixed := by simp [State.flushQueue]
@[simp] theorem State.closeQueue_fixed (s : State) (q : Nat) : (s.closeQueue q).fixed = s.fixed := by simp [State.closeQueue]
@[simp] theorem State.unbindRing_fixed (s : State) (r : Nat) : (s.unbindRing r).fixed = s.fixed := by simp [State.unbindRing]
@[simp] theorem effQueueOpen_fixed (queue : Fin 65536) (limit : BitVec 25) (s : State) :
    fixedOf (effQueueOpen queue limit s) = some s.fixed := by simp [effQueueOpen]
@[simp] theorem execQueueOpen_fixed (queue : Fin 65536) (limit : BitVec 25) (s : State) :
    fixedOf (execQueueOpen queue limit s) = some s.fixed := by simp [execQueueOpen]
@[simp] theorem effQueueClose_fixed (queue : Fin 65536) (s : State) : fixedOf (effQueueClose queue s) = some s.fixed := by
  unfold effQueueClose
  split <;> simp
@[simp] theorem execQueueClose_fixed (queue : Fin 65536) (s : State) :
    fixedOf (execQueueClose queue s) = some s.fixed := by simp [execQueueClose]
@[simp] theorem effQueueFlush_fixed (queue : Fin 65536) (s : State) :
    fixedOf (effQueueFlush queue s) = some s.fixed := by simp [effQueueFlush]
@[simp] theorem execQueueFlush_fixed (queue : Fin 65536) (s : State) :
    fixedOf (execQueueFlush queue s) = some s.fixed := by simp [execQueueFlush]
@[simp] theorem State.winStat_fixed (s : State) (r : Req) (code : Nat) : (s.winStat r code).fixed = s.fixed := by simp [State.winStat]
@[simp] theorem effQueueEnq_fixed (req : Req) (queue : Fin 65536) (len : BitVec 10) (s : State) :
    fixedOf (effQueueEnq req queue len s) = some s.fixed := by simp [effQueueEnq]
@[simp] theorem execQueueEnq_fixed (req : Req) (queue : Fin 65536) (len : BitVec 10) (s : State) :
    fixedOf (execQueueEnq req queue len s) = some s.fixed := by simp [execQueueEnq]
@[simp] theorem State.loadWinRd_fixed (s : State) (r : Req) (c : QCell) : (s.loadWinRd r c).fixed = s.fixed := by simp [State.loadWinRd]
@[simp] theorem effQueueDeq_fixed (req : Req) (queue : Fin 65536) (bad : Bool) (s : State) :
    fixedOf (effQueueDeq req queue bad s) = some s.fixed := by
  have hd := s.dequeue_fixed queue.val
  simp only [effQueueDeq]
  split
  · simp
  · split
    · simp
    · split <;> simp_all
@[simp] theorem execQueueDeq_fixed (req : Req) (queue : Fin 65536) (bad : Bool) (s : State) :
    fixedOf (execQueueDeq req queue bad s) = some s.fixed := by simp [execQueueDeq]
@[simp] theorem effHostRingBind_fixed (ring : Fin 256) (msien : Bool) (size : BitVec 6) (queue : Fin 65536) (s : State) :
    fixedOf (effHostRingBind ring msien size queue s) = some s.fixed := by simp [effHostRingBind]
@[simp] theorem execHostRingBind_fixed (ring : Fin 256) (msien : Bool) (size : BitVec 6) (queue : Fin 65536) (s : State) :
    fixedOf (execHostRingBind ring msien size queue s) = some s.fixed := by simp [execHostRingBind]
@[simp] theorem effHostRingUnbind_fixed (ring : Fin 256) (msien : Bool) (size : BitVec 6) (queue : Fin 65536) (s : State) :
    fixedOf (effHostRingUnbind ring msien size queue s) = some s.fixed := by simp [effHostRingUnbind]
@[simp] theorem execHostRingUnbind_fixed (ring : Fin 256) (msien : Bool) (size : BitVec 6) (queue : Fin 65536) (s : State) :
    fixedOf (execHostRingUnbind ring msien size queue s) = some s.fixed := by simp [execHostRingUnbind]
@[simp] theorem effHostRingConsWrite_fixed (ring : Fin 256) (hi : BitVec 32) (s : State) :
    fixedOf (effHostRingConsWrite ring hi s) = some s.fixed := by simp [effHostRingConsWrite]
@[simp] theorem execHostRingConsWrite_fixed (ring : Fin 256) (hi : BitVec 32) (s : State) :
    fixedOf (execHostRingConsWrite ring hi s) = some s.fixed := by simp [execHostRingConsWrite]
@[simp] theorem State.deliver_fixed (r q base size : Nat) (bad : Bool) (m : Nat) (s : State) :
    (State.deliver r q base size bad m s).fixed = s.fixed := by
  induction m generalizing s with
  | zero => rfl
  | succ m ih =>
    have hd := s.dequeue_fixed q
    simp only [State.deliver]
    split
    · split <;> simp_all
    · rfl
@[simp] theorem execHostRingDeliver_fixed (ring : Fin 256) (count : Fin 1024) (bad : Bool) (s : State) :
    fixedOf (execHostRingDeliver ring count bad s) = some s.fixed := by simp [execHostRingDeliver]
@[simp] theorem State.flrQueues_fixed (s : State) : (s.flrQueues).fixed = s.fixed := by simp [State.flrQueues]

/-! ## The dispatcher -/

@[simp] theorem State.setTask_fixed (s : State) (k : Nat) (t : Task) : (s.setTask k t).fixed = s.fixed := by simp [State.setTask]
@[simp] theorem State.depErr_fixed (s : State) : (s.depErr).fixed = s.fixed := by simp [State.depErr]
@[simp] theorem State.armRef_fixed (s : State) : (s.armRef).fixed = s.fixed := by simp [State.armRef]
@[simp] theorem effTskFree_fixed (task : Fin 1048576) (s : State) : fixedOf (effTskFree task s) = some s.fixed := by simp [effTskFree]
@[simp] theorem execTskFree_fixed (task : Fin 1048576) (s : State) : fixedOf (execTskFree task s) = some s.fixed := by simp [execTskFree]
@[simp] theorem effTskReq_fixed (core : Fin 16) (s : State) : fixedOf (effTskReq core s) = some s.fixed := by simp [effTskReq]
@[simp] theorem execTskReq_fixed (core : Fin 16) (s : State) : fixedOf (execTskReq core s) = some s.fixed := by simp [execTskReq]
@[simp] theorem State.setScn_fixed (s : State) (c st : Nat) : (s.setScn c st).fixed = s.fixed := by simp [State.setScn]
@[simp] theorem execTaskDeliver_fixed (core : Fin 16) (s : State) : fixedOf (execTaskDeliver core s) = some s.fixed := by
  simp only [execTaskDeliver]
  split <;> simp

/-! ## Verdicts -/

@[simp] theorem State.mapIntervals_fixed (s : State) (f : Interval → Interval) :
    (s.mapIntervals f).fixed = s.fixed := by simp [State.mapIntervals]
@[simp] theorem State.recordCause_fixed (s : State) (sites bit : Nat) :
    (s.recordCause sites bit).fixed = s.fixed := by simp [State.recordCause]
@[simp] theorem State.recordAll_fixed (s : State) (bit : Nat) : (s.recordAll bit).fixed = s.fixed := by simp [State.recordAll]
@[simp] theorem State.recordUntr_fixed (s : State) (sites : Nat) : (s.recordUntr sites).fixed = s.fixed := by simp [State.recordUntr]
@[simp] theorem State.endIntervals_fixed (s : State) (sites g : Nat) :
    (s.endIntervals sites g).fixed = s.fixed := by simp [State.endIntervals]
@[simp] theorem State.openIntervals_fixed (s : State) (sites untr tripped g num : Nat) :
    (s.openIntervals sites untr tripped g num).fixed = s.fixed := by simp [State.openIntervals]
@[simp] theorem State.noteCompare_fixed (s : State) (site g : Nat) (failed : Bool) :
    (s.noteCompare site g failed).fixed = s.fixed := by simp [State.noteCompare]
@[simp] theorem State.writeVerdict_fixed (s : State) (i : Interval) : (s.writeVerdict i).fixed = s.fixed := by simp [State.writeVerdict]
@[simp] theorem State.releaseAt_fixed (s : State) (k : Nat) (i : Interval) : (s.releaseAt k i).fixed = s.fixed := by simp [State.releaseAt]
@[simp] theorem execVerdictRelease_fixed (site : Fin 64) (s : State) : fixedOf (execVerdictRelease site s) = some s.fixed := by
  simp only [execVerdictRelease]
  split <;> simp

/-! ## The control store -/

@[simp] theorem State.setLatch_fixed (s : State) (table : Nat) (r : Req) (l : Latch) :
    (s.setLatch table r l).fixed = s.fixed := by simp [State.setLatch]
@[simp] theorem State.latchWord_fixed (s : State) (table : Nat) (r : Req) (key i v : Nat) :
    (s.latchWord table r key i v).fixed = s.fixed := by simp [State.latchWord]
@[simp] theorem State.emptyLatch_fixed (s : State) (table : Nat) (r : Req) :
    (s.emptyLatch table r).fixed = s.fixed := by simp [State.emptyLatch]
@[simp] theorem State.setSlot_fixed (s : State) (n : Nat) (v : Slot) : (s.setSlot n v).fixed = s.fixed := by simp [State.setSlot]
@[simp] theorem State.writeSlot_fixed (s : State) (n mw chk : Nat) : (s.writeSlot n mw chk).fixed = s.fixed := by simp [State.writeSlot]
@[simp] theorem effCsLatchWrite_fixed (req : Req) (slot : Fin 262144) (word : Fin 6) (data : BitVec 32) (s : State) :
    fixedOf (effCsLatchWrite req slot word data s) = some s.fixed := by simp [effCsLatchWrite]
@[simp] theorem execCsLatchWrite_fixed (req : Req) (slot : Fin 262144) (word : Fin 6) (data : BitVec 32) (s : State) :
    fixedOf (execCsLatchWrite req slot word data s) = some s.fixed := by simp [execCsLatchWrite]
@[simp] theorem effCsSlotWrite_fixed (req : Req) (slot : Fin 262144) (chk : BitVec 16) (s : State) :
    fixedOf (effCsSlotWrite req slot chk s) = some s.fixed := by simp [effCsSlotWrite]
@[simp] theorem execCsSlotWrite_fixed (req : Req) (slot : Fin 262144) (chk : BitVec 16) (s : State) :
    fixedOf (execCsSlotWrite req slot chk s) = some s.fixed := by simp [execCsSlotWrite]
@[simp] theorem State.cslAsk_fixed (s : State) : (s.cslAsk).fixed = s.fixed := by
  unfold State.cslAsk
  split <;> simp
@[simp] theorem effCslGo_fixed (s : State) : fixedOf (effCslGo s) = some s.fixed := by simp [effCslGo]
@[simp] theorem execCslGo_fixed (s : State) : fixedOf (execCslGo s) = some s.fixed := by simp [execCslGo]
@[simp] theorem effCslAbort_fixed (s : State) : fixedOf (effCslAbort s) = some s.fixed := by simp [effCslAbort]
@[simp] theorem execCslAbort_fixed (s : State) : fixedOf (execCslAbort s) = some s.fixed := by simp [execCslAbort]
@[simp] theorem State.loadImage_fixed (s1 : State) (r : Option (List (BitVec 8))) (n : Nat) : (s1.loadImage r n).fixed = s1.fixed := by
  simp only [State.loadImage]
  repeat' split
  all_goals simp
@[simp] theorem State.cslStep_fixed (s : State) (d : Option (List (BitVec 8))) : (s.cslStep d).fixed = s.fixed := by
  unfold State.cslStep
  split <;> simp
@[simp] theorem execCslDone_fixed (s : State) : fixedOf (execCslDone s) = some s.fixed := by
  unfold execCslDone
  split <;> simp
@[simp] theorem State.csLastErr_fixed (s : State) (n : Nat) (unc addr : Bool) :
    (s.csLastErr n unc addr).fixed = s.fixed := by simp [State.csLastErr]
@[simp] theorem State.csUe_fixed (s : State) (n : Nat) (addr : Bool) : (s.csUe n addr).fixed = s.fixed := by simp [State.csUe]
@[simp] theorem State.csRead_fixed (s0 : State) (n flip : Nat) : (s0.csRead n flip).2.fixed = s0.fixed := by
  simp only [State.csRead]
  repeat' split
  all_goals simp
@[simp] theorem execCsScrub_fixed (slot : Fin 262144) (flip : BitVec 208) (s : State) :
    fixedOf (execCsScrub slot flip s) = some s.fixed := by
  have hr := s.csRead_fixed slot.val flip.toNat
  simp only [execCsScrub]
  split
  · rfl
  · split <;> simp_all

/-! ## Timing sets and level sets -/

@[simp] theorem State.refuseRwc_fixed (s : State) : (s.refuseRwc).fixed = s.fixed := by simp [State.refuseRwc]
@[simp] theorem State.cleanShadow_fixed (s : State) (cls off : Nat) : (s.cleanShadow cls off).fixed = s.fixed := by simp [State.cleanShadow]
@[simp] theorem effPtfTsLatchWrite_fixed (req : Req) (ch : Fin 256) (entry : Fin 1024) (word : Fin 6) (data : BitVec 32) (s : State) :
    fixedOf (effPtfTsLatchWrite req ch entry word data s) = some s.fixed := by simp [effPtfTsLatchWrite]
@[simp] theorem execPtfTsLatchWrite_fixed (req : Req) (ch : Fin 256) (entry : Fin 1024) (word : Fin 6) (data : BitVec 32) (s : State) :
    fixedOf (execPtfTsLatchWrite req ch entry word data s) = some s.fixed := by simp [execPtfTsLatchWrite]
@[simp] theorem State.tsRejected_fixed (s : State) (c k reason : Nat) :
    (s.tsRejected c k reason).fixed = s.fixed := by simp [State.tsRejected]
@[simp] theorem effPtfTsCfgWrite_fixed (req : Req) (ch : Fin 256) (entry : Fin 1024) (data : BitVec 32) (s : State) :
    fixedOf (effPtfTsCfgWrite req ch entry data s) = some s.fixed := by simp [effPtfTsCfgWrite]
@[simp] theorem execPtfTsCfgWrite_fixed (req : Req) (ch : Fin 256) (entry : Fin 1024) (data : BitVec 32) (s : State) :
    fixedOf (execPtfTsCfgWrite req ch entry data s) = some s.fixed := by simp [execPtfTsCfgWrite]
@[simp] theorem effLvlLsLatchWrite_fixed (req : Req) (ch : Fin 256) (entry : Fin 256) (word : Fin 6) (data : BitVec 32) (s : State) :
    fixedOf (effLvlLsLatchWrite req ch entry word data s) = some s.fixed := by simp [effLvlLsLatchWrite]
@[simp] theorem execLvlLsLatchWrite_fixed (req : Req) (ch : Fin 256) (entry : Fin 256) (word : Fin 6) (data : BitVec 32) (s : State) :
    fixedOf (execLvlLsLatchWrite req ch entry word data s) = some s.fixed := by simp [execLvlLsLatchWrite]
@[simp] theorem State.lsRejected_fixed (s : State) (c k reason : Nat) :
    (s.lsRejected c k reason).fixed = s.fixed := by simp [State.lsRejected]
@[simp] theorem effLvlLsCfgWrite_fixed (req : Req) (ch : Fin 256) (entry : Fin 256) (data : BitVec 32) (s : State) :
    fixedOf (effLvlLsCfgWrite req ch entry data s) = some s.fixed := by simp [effLvlLsCfgWrite]
@[simp] theorem execLvlLsCfgWrite_fixed (req : Req) (ch : Fin 256) (entry : Fin 256) (data : BitVec 32) (s : State) :
    fixedOf (execLvlLsCfgWrite req ch entry data s) = some s.fixed := by simp [execLvlLsCfgWrite]

/-! ## The pattern generators -/

@[simp] theorem State.setGen_fixed (s : State) (g : Nat) (v : Gen) : (s.setGen g v).fixed = s.fixed := by simp [State.setGen]
@[simp] theorem State.apgRefuse_fixed (s : State) : (s.apgRefuse).fixed = s.fixed := by simp [State.apgRefuse]
@[simp] theorem State.setIw_fixed (s : State) (g n : Nat) (v : Slot) : (s.setIw g n v).fixed = s.fixed := by simp [State.setIw]
@[simp] theorem State.iwFailed_fixed (s : State) : (s.iwFailed).fixed = s.fixed := by simp [State.iwFailed]
@[simp] theorem State.writeIw_fixed (s : State) (g n iw chk : Nat) : (s.writeIw g n iw chk).fixed = s.fixed := by simp [State.writeIw]
@[simp] theorem effApgIwLatch_fixed (req : Req) (gen : Fin 2) (index : Fin 4096) (word : Fin 2) (data : BitVec 32) (s : State) :
    fixedOf (effApgIwLatch req gen index word data s) = some s.fixed := by simp [effApgIwLatch]
@[simp] theorem execApgIwLatch_fixed (req : Req) (gen : Fin 2) (index : Fin 4096) (word : Fin 2) (data : BitVec 32) (s : State) :
    fixedOf (execApgIwLatch req gen index word data s) = some s.fixed := by simp [execApgIwLatch]
@[simp] theorem effApgIwchkWrite_fixed (req : Req) (gen : Fin 2) (index : Fin 4096) (chk : BitVec 16) (s : State) :
    fixedOf (effApgIwchkWrite req gen index chk s) = some s.fixed := by simp [effApgIwchkWrite]
@[simp] theorem execApgIwchkWrite_fixed (req : Req) (gen : Fin 2) (index : Fin 4096) (chk : BitVec 16) (s : State) :
    fixedOf (execApgIwchkWrite req gen index chk s) = some s.fixed := by simp [execApgIwchkWrite]
@[simp] theorem State.apgLastErr_fixed (s : State) (g n : Nat) (unc addr : Bool) :
    (s.apgLastErr g n unc addr).fixed = s.fixed := by simp [State.apgLastErr]
@[simp] theorem State.apgUe_fixed (s : State) (g n : Nat) (addr : Bool) : (s.apgUe g n addr).fixed = s.fixed := by simp [State.apgUe]
@[simp] theorem State.iwRead_fixed (s0 : State) (g n flip : Nat) : (s0.iwRead g n flip).2.fixed = s0.fixed := by
  simp only [State.iwRead]
  split <;> simp
@[simp] theorem State.iwFetch_fixed (s : State) (g n flip : Nat) : (s.iwFetch g n flip).2.fixed = s.fixed := by
  have hr := s.iwRead_fixed g n flip
  unfold State.iwFetch
  split
  · simp
  · split <;> simp_all
@[simp] theorem execApgScrub_fixed (gen : Fin 2) (index : Fin 4096) (flip : BitVec 80) (s : State) :
    fixedOf (execApgScrub gen index flip s) = some s.fixed := by
  have hr := s.iwRead_fixed gen.val index.val flip.toNat
  simp only [execApgScrub]
  split
  · rfl
  · split <;> simp_all
@[simp] theorem State.tldAsk_fixed (s : State) : (s.tldAsk).fixed = s.fixed := by
  unfold State.tldAsk
  split <;> simp
@[simp] theorem effApgTldGo_fixed (s : State) : fixedOf (effApgTldGo s) = some s.fixed := by simp [effApgTldGo]
@[simp] theorem execApgTldGo_fixed (s : State) : fixedOf (execApgTldGo s) = some s.fixed := by simp [execApgTldGo]
@[simp] theorem effApgTldAbort_fixed (s : State) : fixedOf (effApgTldAbort s) = some s.fixed := by simp [effApgTldAbort]
@[simp] theorem execApgTldAbort_fixed (s : State) : fixedOf (execApgTldAbort s) = some s.fixed := by simp [execApgTldAbort]
@[simp] theorem State.writeScramble_fixed (s : State) (g tbl i v : Nat) :
    (s.writeScramble g tbl i v).fixed = s.fixed := by simp [State.writeScramble]
@[simp] theorem State.tldImage_fixed (s : State) (g tbl : Nat) (d : Option (List (BitVec 8))) (i : Nat) :
    (s.tldImage g tbl d i).fixed = s.fixed := by
  simp only [State.tldImage]
  repeat' split
  all_goals simp
@[simp] theorem State.tldStep_fixed (s : State) (d : Option (List (BitVec 8))) : (s.tldStep d).fixed = s.fixed := by
  unfold State.tldStep
  split <;> simp
@[simp] theorem execApgTldDone_fixed (s : State) : fixedOf (execApgTldDone s) = some s.fixed := by
  unfold execApgTldDone
  split <;> simp

/-! ## Segments and streams -/

@[simp] theorem effSegDidxWrite_fixed (req : Req) (index : Fin 65536) (s : State) :
    fixedOf (effSegDidxWrite req index s) = some s.fixed := by simp [effSegDidxWrite]
@[simp] theorem execSegDidxWrite_fixed (req : Req) (index : Fin 65536) (s : State) :
    fixedOf (execSegDidxWrite req index s) = some s.fixed := by simp [execSegDidxWrite]
@[simp] theorem effDescriptorWrite_fixed (req : Req) (s : State) :
    fixedOf (effDescriptorWrite req s) = some s.fixed := by simp [effDescriptorWrite]
@[simp] theorem execDescriptorWrite_fixed (req : Req) (s : State) :
    fixedOf (execDescriptorWrite req s) = some s.fixed := by simp [execDescriptorWrite]
@[simp] theorem State.setStrBuf_fixed (s : State) (n : Nat) (b : List (BitVec 8)) :
    (s.setStrBuf n b).fixed = s.fixed := by simp [State.setStrBuf]
@[simp] theorem State.strClear_fixed (s : State) (n : Nat) : (s.strClear n).fixed = s.fixed := by simp [State.strClear]
@[simp] theorem effStreamOpen_fixed (channel : Fin 8) (width : Fin 4) (s : State) :
    fixedOf (effStreamOpen channel width s) = some s.fixed := by simp [effStreamOpen]
@[simp] theorem execStreamOpen_fixed (channel : Fin 8) (width : Fin 4) (s : State) :
    fixedOf (execStreamOpen channel width s) = some s.fixed := by simp [execStreamOpen]
@[simp] theorem effStreamClose_fixed (channel : Fin 8) (s : State) :
    fixedOf (effStreamClose channel s) = some s.fixed := by simp [effStreamClose]
@[simp] theorem execStreamClose_fixed (channel : Fin 8) (s : State) :
    fixedOf (execStreamClose channel s) = some s.fixed := by simp [execStreamClose]
@[simp] theorem effStreamProdWrite_fixed (channel : Fin 8) (hi : BitVec 32) (s : State) :
    fixedOf (effStreamProdWrite channel hi s) = some s.fixed := by simp [effStreamProdWrite]
@[simp] theorem execStreamProdWrite_fixed (channel : Fin 8) (hi : BitVec 32) (s : State) :
    fixedOf (execStreamProdWrite channel hi s) = some s.fixed := by simp [execStreamProdWrite]
@[simp] theorem execStreamFetch_fixed (channel : Fin 8) (addr : BitVec 64) (data : List Byte) (s : State) :
    fixedOf (execStreamFetch channel addr data s) = some s.fixed := by simp [execStreamFetch]
@[simp] theorem State.strRecheck_fixed (s : State) : (s.strRecheck).fixed = s.fixed := by simp [State.strRecheck]
@[simp] theorem State.strStand_fixed (s : State) (n : Nat) (run : Bool) : (s.strStand n run).fixed = s.fixed := by simp [State.strStand]
@[simp] theorem State.strConsume_fixed (s : State) (n : Nat) : (s.strConsume n).2.fixed = s.fixed := by simp [State.strConsume]
@[simp] theorem State.strUnderrun_fixed (s : State) (n : Nat) : (s.strUnderrun n).fixed = s.fixed := by simp [State.strUnderrun]

/-! ## Trips and measurements that end -/

@[simp] theorem State.setTiu_fixed (s : State) (n : Nat) (u : TiuUnit) : (s.setTiu n u).fixed = s.fixed := by simp [State.setTiu]
@[simp] theorem State.tiuInterrupt_fixed (s : State) (p : Nat → Bool) : (s.tiuInterrupt p).fixed = s.fixed := by simp [State.tiuInterrupt]
@[simp] theorem State.pmuTrip_fixed (s : State) (c : Nat) : (s.pmuTrip c).fixed = s.fixed := by simp [State.pmuTrip]
@[simp] theorem State.calEnded_fixed (s : State) (e : CalEntry) (res : Nat) : (s.calEnded e res).fixed = s.fixed := by simp [State.calEnded]
@[simp] theorem State.calTrip_fixed (s : State) (c : Nat) : (s.calTrip c).fixed = s.fixed := by
  unfold State.calTrip
  split <;> simp
@[simp] theorem State.tripChannel_fixed (s : State) (c : Nat) : (s.tripChannel c).fixed = s.fixed := by simp [State.tripChannel]
@[simp] theorem State.tripEffects_fixed (s : State) (cs : List Nat) : (s.tripEffects cs).fixed = s.fixed := by simp [State.tripEffects]
@[simp] theorem State.trip_fixed (s : State) (h : Nat) (cs : List Nat) : (s.trip h cs).fixed = s.fixed := by simp [State.trip]

/-! ## The time-interval units -/

@[simp] theorem State.claimDenied_fixed (s : State) (base : Nat) : (s.claimDenied base).fixed = s.fixed := by simp [State.claimDenied]
@[simp] theorem State.tiuArmUnit_fixed (s : State) (n : Nat) : (s.tiuArmUnit n).fixed = s.fixed := by simp [State.tiuArmUnit]
@[simp] theorem State.tiuRecords_fixed (s : State) (n e : Nat) (u : TiuUnit) :
    (s.tiuRecords n e u).fixed = s.fixed := by simp [State.tiuRecords]
@[simp] theorem State.tiuPost_fixed (s : State) (n e : Nat) (u : TiuUnit) : (s.tiuPost n e u).fixed = s.fixed := by simp [State.tiuPost]
@[simp] theorem State.tiuEnd_fixed (s : State) (n e : Nat) : (s.tiuEnd n e).fixed = s.fixed := by
  simp only [State.tiuEnd]
  repeat' split
  all_goals simp
@[simp] theorem State.tiuEndAll_fixed (s : State) (e : Nat) : (s.tiuEndAll e).fixed = s.fixed := by simp [State.tiuEndAll]
@[simp] theorem State.tiuFree_fixed (s : State) (n : Nat) : (s.tiuFree n).fixed = s.fixed := by simp [State.tiuFree]
@[simp] theorem State.tiuFreeClaim_fixed (s : State) (mask : Nat) : (s.tiuFreeClaim mask).fixed = s.fixed := by simp [State.tiuFreeClaim]
@[simp] theorem effTiuTake_fixed (unit : Fin 16) (s : State) : fixedOf (effTiuTake unit s) = some s.fixed := by simp [effTiuTake]
@[simp] theorem execTiuTake_fixed (unit : Fin 16) (s : State) : fixedOf (execTiuTake unit s) = some s.fixed := by simp [execTiuTake]
@[simp] theorem effTiuRelease_fixed (unit : Fin 16) (s : State) : fixedOf (effTiuRelease unit s) = some s.fixed := by simp [effTiuRelease]
@[simp] theorem execTiuRelease_fixed (unit : Fin 16) (s : State) :
    fixedOf (execTiuRelease unit s) = some s.fixed := by simp [execTiuRelease]
@[simp] theorem effTiuArm_fixed (unit : Fin 16) (s : State) : fixedOf (effTiuArm unit s) = some s.fixed := by simp [effTiuArm]
@[simp] theorem execTiuArm_fixed (unit : Fin 16) (s : State) : fixedOf (execTiuArm unit s) = some s.fixed := by simp [execTiuArm]
@[simp] theorem effTiuDisarm_fixed (unit : Fin 16) (s : State) : fixedOf (effTiuDisarm unit s) = some s.fixed := by simp [effTiuDisarm]
@[simp] theorem execTiuDisarm_fixed (unit : Fin 16) (s : State) : fixedOf (execTiuDisarm unit s) = some s.fixed := by simp [execTiuDisarm]
@[simp] theorem State.tiuBin_fixed (s : State) (n interp bin : Nat) : (s.tiuBin n interp bin).2.2.fixed = s.fixed := by
  unfold State.tiuBin
  split <;> simp
@[simp] theorem State.landGvc_fixed (s : State) : (s.landGvc).2.fixed = s.fixed := by
  unfold State.landGvc
  split <;> simp
@[simp] theorem State.tiuTakeResult_fixed (s : State) (n k : Nat) (v : Int) (u : TiuUnit) :
    (s.tiuTakeResult n k v u).fixed = s.fixed := by simp [State.tiuTakeResult]
@[simp] theorem State.tiuStart_fixed (s : State) (n : Nat) (t : Int) (u : TiuUnit) : (s.tiuStart n t u).fixed = s.fixed := by
  unfold State.tiuStart
  split <;> simp
@[simp] theorem State.tiuStop_fixed (s : State) (n k : Nat) (t : Int) (u : TiuUnit) : (s.tiuStop n k t u).fixed = s.fixed := by
  unfold State.tiuStop
  split <;> simp
@[simp] theorem State.tiuCompare_fixed (s : State) (edge sel : Nat) : (s.tiuCompare edge sel).fixed = s.fixed := by simp [State.tiuCompare]
@[simp] theorem State.tiuConvert_fixed (s : State) (key : Nat) (t : Int) :
    (s.tiuConvert key t).fixed = s.fixed := by simp [State.tiuConvert]
@[simp] theorem execTiuEvent_fixed (unit : Fin 16) (input : Fin 17) (tick : Fin 20) (bin : Fin 1024) (s : State) :
    fixedOf (execTiuEvent unit input tick bin s) = some s.fixed := by simp [execTiuEvent]
@[simp] theorem execTiuTimeout_fixed (unit : Fin 16) (s : State) :
    fixedOf (execTiuTimeout unit s) = some s.fixed := by simp [execTiuTimeout]
@[simp] theorem execTiuRange_fixed (unit : Fin 16) (s : State) : fixedOf (execTiuRange unit s) = some s.fixed := by simp [execTiuRange]
@[simp] theorem effTiuCalReq_fixed (mask : BitVec 16) (s : State) : fixedOf (effTiuCalReq mask s) = some s.fixed := by
  simp only [effTiuCalReq, fixedOf_next]
  rw [foldl_fixed _ _ fun t n => ?_]
  split <;> simp
@[simp] theorem execTiuCalReq_fixed (mask : BitVec 16) (s : State) :
    fixedOf (execTiuCalReq mask s) = some s.fixed := by simp [execTiuCalReq]
@[simp] theorem execTiuCalStart_fixed (unit : Fin 16) (s : State) : fixedOf (execTiuCalStart unit s) = some s.fixed := by
  unfold execTiuCalStart
  split <;> simp
@[simp] theorem State.tiuCalStop_fixed (s : State) (n : Nat) : (s.tiuCalStop n).fixed = s.fixed := by simp [State.tiuCalStop]
@[simp] theorem State.tiuCalDrop_fixed (s : State) : (s.tiuCalDrop).fixed = s.fixed := by simp [State.tiuCalDrop]
@[simp] theorem execTiuCalEnd_fixed (unit : Fin 16) (hist : List (List (BitVec 23))) (s : State) :
    fixedOf (execTiuCalEnd unit hist s) = some s.fixed := by simp [execTiuCalEnd]
@[simp] theorem State.calLate_fixed (s : State) (e : CalEntry) : (s.calLate e).fixed = s.fixed := by simp [State.calLate]
@[simp] theorem execTiuCallate_fixed (unit : Fin 16) (s : State) : fixedOf (execTiuCallate unit s) = some s.fixed := by
  unfold execTiuCallate
  split <;> simp

/-! ## Vector-clock time -/

@[simp] theorem State.passTo_fixed (s : State) (g : Nat) : (s.passTo g).fixed = s.fixed := by simp [State.passTo]
@[simp] theorem State.passReleases_fixed (g : Nat) (l : List (Nat × Nat)) (s : State) : (State.passReleases g l s).fixed = s.fixed := by
  induction l generalizing s with
  | nil => simp [State.passReleases]
  | cons e l ih =>
    simp only [State.passReleases]
    split <;> simp [ih]
@[simp] theorem State.advanceTo_fixed (s : State) (g : Nat) : (s.advanceTo g).fixed = s.fixed := by simp [State.advanceTo]
@[simp] theorem State.tiuLeave_fixed (s : State) (mask last : Nat) : (s.tiuLeave mask last).fixed = s.fixed := by simp [State.tiuLeave]
@[simp] theorem State.tiuLeaveNow_fixed (s : State) : (s.tiuLeaveNow).fixed = s.fixed := by simp [State.tiuLeaveNow]
theorem State.fixed_of_reach {s t : State} {g : Nat} (h : s.reach g = some t) : t.fixed = s.fixed := by
  unfold State.reach at h
  split at h
  · cases h; rfl
  · split at h
    · cases h; simp
    · cases h
theorem State.fixed_of_reachBoundary {s t : State} {g : Nat} (h : s.reachBoundary g = some t) : t.fixed = s.fixed := by
  obtain ⟨u, -, rfl⟩ := Option.map_eq_some_iff.mp h
  simp
@[simp] theorem execVerdictSettle_fixed (site : Fin 64) (s : State) : fixedOf (execVerdictSettle site s) = some s.fixed := by
  simp only [execVerdictSettle]
  split
  · split
    · rfl
    · next hr => simp [State.fixed_of_reach hr]
  · rfl

/-! ## Commit and harvest -/

@[simp] theorem State.exchange_fixed (s : State) (scope : Nat) : (s.exchange scope).fixed = s.fixed := by simp [State.exchange]
@[simp] theorem State.dropCommit_fixed (s : State) : (s.dropCommit).fixed = s.fixed := by simp [State.dropCommit]
@[simp] theorem State.cwaitOutcome_fixed (s : State) (r : Option Nat) : (s.cwaitOutcome r).fixed = s.fixed := by
  unfold State.cwaitOutcome
  split <;> simp
@[simp] theorem State.cwaitLatch_fixed (s : State) : (s.cwaitLatch).fixed = s.fixed := by
  unfold State.cwaitLatch
  split <;> simp
@[simp] theorem State.loseCommit_fixed (s : State) : (s.loseCommit).fixed = s.fixed := by
  unfold State.loseCommit
  split <;> simp
@[simp] theorem State.receivePrepare_fixed (s : State) (target scope tag : Nat) :
    (s.receivePrepare target scope tag).fixed = s.fixed := by simp [State.receivePrepare]
@[simp] theorem effCommitGo_fixed (s : State) : fixedOf (effCommitGo s) = some s.fixed := by simp [effCommitGo]
@[simp] theorem execCommitGo_fixed (s : State) : fixedOf (execCommitGo s) = some s.fixed := by simp [execCommitGo]
@[simp] theorem effCommitCancel_fixed (s : State) : fixedOf (effCommitCancel s) = some s.fixed := by simp [effCommitCancel]
@[simp] theorem execCommitCancel_fixed (s : State) : fixedOf (execCommitCancel s) = some s.fixed := by simp [execCommitCancel]
@[simp] theorem effAcklost_fixed (s : State) : fixedOf (effAcklost s) = some s.fixed := by simp [effAcklost]
@[simp] theorem execAcklost_fixed (s : State) : fixedOf (execAcklost s) = some s.fixed := by simp [execAcklost]
@[simp] theorem execPrepareReceive_fixed (target : Gvc) (scope : BitVec 9) (tag : BitVec 16) (s : State) :
    fixedOf (execPrepareReceive target scope tag s) = some s.fixed := by simp [execPrepareReceive]
@[simp] theorem execVoteReceive_fixed (port : Fin 4) (ready : Bool) (reason : BitVec 4) (dev : BitVec 13) (s : State) :
    fixedOf (execVoteReceive port ready reason dev s) = some s.fixed := by
  unfold execVoteReceive
  split <;> simp
@[simp] theorem execVoteForward_fixed (s : State) : fixedOf (execVoteForward s) = some s.fixed := by
  unfold execVoteForward
  split <;> simp
@[simp] theorem State.applyDecision_fixed (s : State) (c : Commit) (commit retry : Bool) (reason dev : Nat) :
    (s.applyDecision c commit retry reason dev).fixed = s.fixed := by simp [State.applyDecision]
@[simp] theorem execCommitDecide_fixed (s : State) : fixedOf (execCommitDecide s) = some s.fixed := by
  unfold execCommitDecide
  split <;> simp
@[simp] theorem execDecisionReceive_fixed (commit retry : Bool) (tag : BitVec 16) (reason : BitVec 4) (dev : BitVec 13) (s : State) :
    fixedOf (execDecisionReceive commit retry tag reason dev s) = some s.fixed := by
  simp only [execDecisionReceive]
  repeat' split
  all_goals simp
theorem State.fixed_of_reachTarget {s t : State} {g : Nat} (h : s.reachTarget g = some t) : t.fixed = s.fixed := by
  unfold State.reachTarget at h
  split at h
  · split at h
    · cases h; simp
    · exact State.fixed_of_reach h
  · exact State.fixed_of_reach h
@[simp] theorem execCommitExchange_fixed (s : State) : fixedOf (execCommitExchange s) = some s.fixed := by
  simp only [execCommitExchange]
  split
  · rfl
  · split
    · rfl
    · split
      · simp
      · split
        · rfl
        · next hr => simp [State.fixed_of_reachTarget hr]
@[simp] theorem execResyncEnd_fixed (s : State) : fixedOf (execResyncEnd s) = some s.fixed := by simp [execResyncEnd]
@[simp] theorem execCommitLost_fixed (s : State) : fixedOf (execCommitLost s) = some s.fixed := by
  unfold execCommitLost
  split
  · rfl
  · split
    · rfl
    · split
      · rfl
      · next hr => simp [State.fixed_of_reachTarget hr]
@[simp] theorem execCfgScrub_fixed (active : Bool) (cls : Fin 9) (offset : BitVec 28) (fails : Bool) (s : State) :
    fixedOf (execCfgScrub active cls offset fails s) = some s.fixed := by simp [execCfgScrub]
@[simp] theorem State.harvestDone_fixed (s : State) : (s.harvestDone).fixed = s.fixed := by simp [State.harvestDone]
@[simp] theorem effHarvestGo_fixed (s : State) : fixedOf (effHarvestGo s) = some s.fixed := by simp [effHarvestGo]
@[simp] theorem execHarvestGo_fixed (s : State) : fixedOf (execHarvestGo s) = some s.fixed := by simp [execHarvestGo]
@[simp] theorem effHarvestCancel_fixed (s : State) : fixedOf (effHarvestCancel s) = some s.fixed := by simp [effHarvestCancel]
@[simp] theorem execHarvestCancel_fixed (s : State) : fixedOf (execHarvestCancel s) = some s.fixed := by simp [execHarvestCancel]
@[simp] theorem execHarvestReceive_fixed (target : Gvc) (s : State) :
    fixedOf (execHarvestReceive target s) = some s.fixed := by simp [execHarvestReceive]
@[simp] theorem State.missHarvest_fixed (s : State) : (s.missHarvest).fixed = s.fixed := by simp [State.missHarvest]
@[simp] theorem execHarvestMiss_fixed (s : State) : fixedOf (execHarvestMiss s) = some s.fixed := by simp [execHarvestMiss]
@[simp] theorem effHarvestHold_fixed (hold : Bool) (s : State) : fixedOf (effHarvestHold hold s) = some s.fixed := by simp [effHarvestHold]
@[simp] theorem execHarvestHold_fixed (hold : Bool) (s : State) :
    fixedOf (execHarvestHold hold s) = some s.fixed := by simp [execHarvestHold]

/-! ## The end of a playlist -/

@[simp] theorem State.setHeads_fixed (s : State) : (s.setHeads).fixed = s.fixed := by simp [State.setHeads]
@[simp] theorem State.reportRefusal_fixed (s : State) (code : Nat) : (s.reportRefusal code).fixed = s.fixed := by simp [State.reportRefusal]
@[simp] theorem State.refusePlaylist_fixed (s : State) (code : Nat) : (s.refusePlaylist code).fixed = s.fixed := by
  unfold State.refusePlaylist
  split <;> simp
@[simp] theorem State.setBucket_fixed (s : State) : (s.setBucket).fixed = s.fixed := by simp [State.setBucket]
@[simp] theorem State.setDecl_fixed (s : State) (mw : Nat) : (s.setDecl mw).fixed = s.fixed := by simp [State.setDecl]
@[simp] theorem State.freezeRing_fixed (s : State) : (s.freezeRing).fixed = s.fixed := by
  simp only [State.freezeRing]
  split <;> simp
@[simp] theorem State.freezeShort_fixed (s : State) : (s.freezeShort).fixed = s.fixed := by simp [State.freezeShort]
@[simp] theorem State.toBoundary_fixed (s : State) : (s.toBoundary).fixed = s.fixed := by simp [State.toBoundary]
@[simp] theorem State.endPlaylist_fixed (s : State) (reason : Nat) : (s.endPlaylist reason).fixed = s.fixed := by
  unfold State.endPlaylist
  split <;> simp
@[simp] theorem State.unstampChains_fixed (s : State) : (s.unstampChains).fixed = s.fixed := by simp [State.unstampChains]
@[simp] theorem State.loseInsync_fixed (s : State) : (s.loseInsync).fixed = s.fixed := by simp [State.loseInsync]
@[simp] theorem State.closeGate_fixed (s : State) : (s.closeGate).fixed = s.fixed := by simp [State.closeGate]
@[simp] theorem State.openGate_fixed (s : State) (g : Nat) : (s.openGate g).fixed = s.fixed := by simp [State.openGate]

/-! ## The start of a playlist -/

@[simp] theorem State.readImage_fixed (s : State) (a : Nat) : (s.readImage a).2.2.fixed = s.fixed := by
  unfold State.readImage
  split
  · next h => exact State.fixed_of_hbmRead h
  · next h =>
    simp only []
    split
    all_goals next ht => rw [State.fixed_of_hbmRead ht, State.fixed_of_hbmRead h]
@[simp] theorem effPlaylistStart_fixed (s : State) : fixedOf (effPlaylistStart s) = some s.fixed := by simp [effPlaylistStart]
@[simp] theorem execPlaylistStart_fixed (s : State) : fixedOf (execPlaylistStart s) = some s.fixed := by simp [execPlaylistStart]
@[simp] theorem State.enterState_fixed (s : State) (st : Nat) : (s.enterState st).fixed = s.fixed := by simp [State.enterState]
@[simp] theorem execStartCheckDone_fixed (s : State) : fixedOf (execStartCheckDone s) = some s.fixed := by
  unfold execStartCheckDone
  split <;> simp
@[simp] theorem State.readRecord_fixed (s : State) (p : Playlist) (q : Nat × Nat) :
    (s.readRecord p q).2.fixed = s.fixed := by simp [State.readRecord]
@[simp] theorem State.readRecords_fixed (p : Playlist) (n : Nat) (q : Nat × Nat) (s : State) :
    (State.readRecords p n q s).2.fixed = s.fixed := by
  induction n generalizing q s with
  | zero => rfl
  | succ n ih =>
    simp only [State.readRecords]
    split <;> simp [ih]
@[simp] theorem State.loadHeads_fixed (p : Playlist) (l : List (Nat × Nat × Nat × List Nat)) (s : State) :
    (State.loadHeads p l s).fixed = s.fixed := by
  induction l generalizing s with
  | nil => rfl
  | cons k l ih =>
    simp only [State.loadHeads]
    split <;> simp [ih]
@[simp] theorem execHeadsLoaded_fixed (s : State) : fixedOf (execHeadsLoaded s) = some s.fixed := by
  unfold execHeadsLoaded
  split <;> simp
@[simp] theorem effPlaylistWithdraw_fixed (s : State) : fixedOf (effPlaylistWithdraw s) = some s.fixed := by simp [effPlaylistWithdraw]
@[simp] theorem execPlaylistWithdraw_fixed (s : State) : fixedOf (execPlaylistWithdraw s) = some s.fixed := by simp [execPlaylistWithdraw]
@[simp] theorem State.beginPlaylist_fixed (s : State) (p : Playlist) (g : Nat) : (s.beginPlaylist p g).fixed = s.fixed := by
  unfold State.beginPlaylist
  extract_lets s0 s1 s2 r _ _ s3 s4 s5
  have h0 : s0.fixed = s.fixed := by simp [s0]
  have h1 : s1.fixed = s0.fixed := by simp [s1]
  have h2 : s2.fixed = s1.fixed := by simp [s2]
  have h3 : s3.fixed = s2.fixed := by simp [s3]
  have h4 : s4.fixed = s3.fixed := by simp [s4]
  have h5 : s5.fixed = s4.fixed := by simp only [s5, State.setHeads_fixed, State.setDecl_fixed, State.flag_fixed]
  rw [State.fixed_mk, State.fixed_eta, h5, h4, h3, h2, h1, h0]

/-! ## The sequencer -/

@[simp] theorem State.stopWith_fixed (s : State) (reason src : Nat) : (s.stopWith reason src).fixed = s.fixed := by simp [State.stopWith]
@[simp] theorem State.loadRecord_fixed (s : State) (p : Playlist) (late : Bool) : (s.loadRecord p late).fixed = s.fixed := by
  simp only [State.loadRecord]
  repeat' split
  all_goals simp
@[simp] theorem State.gateWord_fixed (s : State) (p : Playlist) (w : Nat) : (s.gateWord p w).fixed = s.fixed := by simp [State.gateWord]
@[simp] theorem State.readWord_fixed (s : State) (p : Playlist) (flip : Nat) : (s.readWord p flip).2.fixed = s.fixed := by
  have hr := s.csRead_fixed s.seq.cur flip
  simp only [State.readWord]
  split
  · rfl
  · split
    · simp_all
    · split <;> simp_all
@[simp] theorem State.goTo_fixed (s : State) (p : Playlist) (n : Nat) (q : Nat × Nat) (buf : List (Option (List (BitVec 8))))
    (fetch : Bool) :
    (s.goTo p n q buf fetch).fixed = s.fixed := by simp [State.goTo]
@[simp] theorem State.fallThrough_fixed (s : State) (p : Playlist) : (s.fallThrough p).fixed = s.fixed := by simp [State.fallThrough]
@[simp] theorem State.raiseTarget_fixed (s : State) (p : Playlist) (t : Nat) :
    (s.raiseTarget p t).fixed = s.fixed := by simp [State.raiseTarget]
@[simp] theorem State.transfer_fixed (s : State) (p : Playlist) (t : Nat) : (s.transfer p t).fixed = s.fixed := by
  simp only [State.transfer]
  repeat' split
  all_goals simp
@[simp] theorem State.callTo_fixed (s : State) (p : Playlist) (t : Nat) : (s.callTo p t).fixed = s.fixed := by
  simp only [State.callTo]
  split
  · simp
  · split <;> simp
@[simp] theorem State.returnTo_fixed (s : State) (p : Playlist) : (s.returnTo p).fixed = s.fixed := by
  unfold State.returnTo
  split <;> simp
@[simp] theorem State.failRead_fixed (s : State) (sites : Nat → Option Nat) (marks fresh : List Nat) :
    (s.failRead sites marks fresh).fixed = s.fixed := by
  unfold State.failRead
  rw [foldl_fixed _ _ fun t o => ?_, foldl_fixed _ _ fun t o => ?_]
  · split <;> simp
  · simp only []
    split <;> simp
@[simp] theorem State.failReads_fixed (s : State) (w : Nat) (fresh : List Nat) :
    (s.failReads w fresh).fixed = s.fixed := by simp [State.failReads]
@[simp] theorem State.tsFailed_fixed (s : State) (c : Nat) : (s.tsFailed c).fixed = s.fixed := by simp [State.tsFailed]
@[simp] theorem State.lsFailed_fixed (s : State) (c : Nat) : (s.lsFailed c).fixed = s.fixed := by simp [State.lsFailed]
@[simp] theorem State.takeStreams_fixed (s : State) (w : Nat) : (s.takeStreams w).2.2.fixed = s.fixed := by
  unfold State.takeStreams
  refine List.foldlRecOn _ _ (motive := fun (x : List (Nat × (Nat × Nat)) × Nat × State) => x.2.2.fixed = s.fixed) rfl fun x hx n _ => ?_
  obtain ⟨vs, undr, t⟩ := x
  simp only at hx ⊢
  split
  · exact hx
  · split
    · exact hx
    · split <;> simp [hx]
@[simp] theorem State.runApg_fixed (s : State) (g n flip : Nat) (fresh : List Nat) : (s.runApg g n flip fresh).2.2.fixed = s.fixed := by
  simp [State.runApg]
@[simp] theorem State.firstVector_fixed (s : State) (p : Playlist) (g : Nat) :
    (s.firstVector p g).fixed = s.fixed := by simp [State.firstVector]
@[simp] theorem State.noteCapture_fixed (s : State) (capOn : Bool) : (s.noteCapture capOn).fixed = s.fixed := by simp [State.noteCapture]
@[simp] theorem State.issue_fixed (s0 : State) (p : Playlist) (w g : Nat) (late : Bool) (flipA flipB : Nat) (fresh : List Nat) :
    (s0.issue p w g late flipA flipB fresh).fixed = s0.fixed := by simp [State.issue]
@[simp] theorem State.holdCycle_fixed (s : State) (kind : Nat) : (s.holdCycle kind).fixed = s.fixed := by simp [State.holdCycle]
@[simp] theorem State.standOne_fixed (s : State) (n : Nat) (run : Bool) : (s.standOne n run).fixed = s.fixed := by simp [State.standOne]
@[simp] theorem State.standAll_fixed (s : State) (run : Bool) : (s.standAll run).fixed = s.fixed := by simp [State.standAll]
@[simp] theorem State.standWord_fixed (s : State) (w : Nat) : (s.standWord w).fixed = s.fixed := by simp [State.standWord]
@[simp] theorem State.vectorCycle_fixed (s0 : State) (p : Playlist) (w : Nat) (late : Bool) (flipA flipB : Nat) (fresh : List Nat) :
    (s0.vectorCycle p w late flipA flipB fresh).fixed = s0.fixed := by simp [State.vectorCycle]
@[simp] theorem State.waitCycle_fixed (s : State) (p : Playlist) (w : Nat) (late : Bool) (flipA flipB : Nat) (fresh : List Nat) :
    (s.waitCycle p w late flipA flipB fresh).fixed = s.fixed := by
  simp only [State.waitCycle]
  repeat' split
  all_goals simp
@[simp] theorem State.matchCycle_fixed (s : State) (p : Playlist) (w : Nat) (late : Bool) (flipA flipB : Nat) (fresh : List Nat) :
    (s.matchCycle p w late flipA flipB fresh).fixed = s.fixed := by simp [State.matchCycle]
@[simp] theorem State.seqCycle_fixed (s : State) (p : Playlist) (late : Bool) (flip flipA flipB : Nat) (fresh : List Nat) :
    (s.seqCycle p late flip flipA flipB fresh).fixed = s.fixed := by
  have hr := s.readWord_fixed p flip
  unfold State.seqCycle
  split <;> simp_all
@[simp] theorem State.whenRunning_fixed (s : State) (f : Playlist → State) (h : ∀ p, (f p).fixed = s.fixed) :
    fixedOf (s.whenRunning f) = some s.fixed := by
  unfold State.whenRunning
  split <;> simp [h]
@[simp] theorem execVectorIssue_fixed (late : Bool) (flip : BitVec 208) (flipA flipB : BitVec 80) (bad : List (BitVec 28)) (s : State) :
    fixedOf (execVectorIssue late flip flipA flipB bad s) = some s.fixed := by simp [execVectorIssue]
@[simp] theorem execPlaylistFirstVector_fixed (flip : BitVec 208) (flipA flipB : BitVec 80) (bad : List (BitVec 28)) (s : State) :
    fixedOf (execPlaylistFirstVector flip flipA flipB bad s) = some s.fixed := by
  simp only [execPlaylistFirstVector]
  split
  · rfl
  · split
    · rfl
    · split
      · split
        · rfl
        · next hr => simp [State.fixed_of_reach hr]
      · simp
@[simp] theorem State.atLast_fixed (s : State) (op : Nat) (f : Playlist → Nat → State) (h : ∀ p w, (f p w).fixed = s.fixed) :
    fixedOf (s.atLast op f) = some s.fixed := by
  refine s.whenRunning_fixed _ fun p => ?_
  split <;> simp [h]
@[simp] theorem State.loopParam_fixed (s : State) (k : Nat) (bad : Bool) :
    (s.loopParam k bad).2.fixed = s.fixed := by simp [State.loopParam]
@[simp] theorem State.flow_fixed (s : State) (p : Playlist) (w : Nat) (bad : Bool) : (s.flow p w bad).fixed = s.fixed := by
  unfold State.flow
  split <;> simp
@[simp] theorem execSeqNext_fixed (s : State) : fixedOf (execSeqNext s) = some s.fixed := by simp [execSeqNext]
@[simp] theorem execSeqJump_fixed (s : State) : fixedOf (execSeqJump s) = some s.fixed := by simp [execSeqJump]
@[simp] theorem execSeqCall_fixed (s : State) : fixedOf (execSeqCall s) = some s.fixed := by simp [execSeqCall]
@[simp] theorem execSeqReturn_fixed (s : State) : fixedOf (execSeqReturn s) = some s.fixed := by simp [execSeqReturn]
@[simp] theorem execSeqBranch_fixed (s : State) : fixedOf (execSeqBranch s) = some s.fixed := by simp [execSeqBranch]
@[simp] theorem execSeqBranchf_fixed (s : State) : fixedOf (execSeqBranchf s) = some s.fixed := by simp [execSeqBranchf]
@[simp] theorem execSeqCcall_fixed (s : State) : fixedOf (execSeqCcall s) = some s.fixed := by simp [execSeqCcall]
@[simp] theorem execSeqCreturn_fixed (s : State) : fixedOf (execSeqCreturn s) = some s.fixed := by simp [execSeqCreturn]
@[simp] theorem execSeqLoadloop_fixed (bad : Bool) (s : State) : fixedOf (execSeqLoadloop bad s) = some s.fixed := by simp [execSeqLoadloop]
@[simp] theorem execSeqLoadloopi_fixed (s : State) : fixedOf (execSeqLoadloopi s) = some s.fixed := by simp [execSeqLoadloopi]
@[simp] theorem execSeqLoop_fixed (s : State) : fixedOf (execSeqLoop s) = some s.fixed := by simp [execSeqLoop]
@[simp] theorem execSeqLoopr_fixed (bad : Bool) (s : State) : fixedOf (execSeqLoopr bad s) = some s.fixed := by simp [execSeqLoopr]
@[simp] theorem State.ownCycle_fixed (s : State) (op flip : Nat) (f : Playlist → Nat → State → State)
    (h : ∀ p w (t : State), (f p w t).fixed = t.fixed) : fixedOf (s.ownCycle op flip f) = some s.fixed := by
  refine s.whenRunning_fixed _ fun p => ?_
  have hr := s.readWord_fixed p flip
  split <;> simp_all
@[simp] theorem execSeqWait_fixed (late : Bool) (flip : BitVec 208) (flipA flipB : BitVec 80) (bad : List (BitVec 28)) (s : State) :
    fixedOf (execSeqWait late flip flipA flipB bad s) = some s.fixed := by simp [execSeqWait]
@[simp] theorem execSeqMatch_fixed (late : Bool) (flip : BitVec 208) (flipA flipB : BitVec 80) (bad : List (BitVec 28)) (s : State) :
    fixedOf (execSeqMatch late flip flipA flipB bad s) = some s.fixed := by simp [execSeqMatch]
@[simp] theorem execSeqStopfail_fixed (s : State) : fixedOf (execSeqStopfail s) = some s.fixed := by simp [execSeqStopfail]
@[simp] theorem execSeqHalt_fixed (s : State) : fixedOf (execSeqHalt s) = some s.fixed := by simp [execSeqHalt]
@[simp] theorem State.waitExit_fixed (s : State) (p : Playlist) (w : Nat) : (s.waitExit p w).fixed = s.fixed := by simp [State.waitExit]
@[simp] theorem execCwaitRelease_fixed (late : Bool) (flipA flipB : BitVec 80) (bad : List (BitVec 28)) (s : State) :
    fixedOf (execCwaitRelease late flipA flipB bad s) = some s.fixed := by
  unfold execCwaitRelease
  split <;> simp
@[simp] theorem execWaitLimitExpiry_fixed (late : Bool) (flipA flipB : BitVec 80) (bad : List (BitVec 28)) (s : State) :
    fixedOf (execWaitLimitExpiry late flipA flipB bad s) = some s.fixed := by
  unfold execWaitLimitExpiry
  split <;> simp
@[simp] theorem execStallHoldEnd_fixed (s : State) : fixedOf (execStallHoldEnd s) = some s.fixed := by simp [execStallHoldEnd]
@[simp] theorem execStallLimit_fixed (s : State) : fixedOf (execStallLimit s) = some s.fixed := by simp [execStallLimit]
@[simp] theorem State.wordAct_fixed (s : State) (a : Nat) (has : Nat → Bool) (f : WordAct → State → State)
    (h : ∀ x (t : State), (f x t).fixed = t.fixed) : fixedOf (s.wordAct a has f) = some s.fixed := by
  unfold State.wordAct
  split <;> simp [h]
@[simp] theorem execCmark_fixed (s : State) : fixedOf (execCmark s) = some s.fixed := by simp [execCmark]
@[simp] theorem execPatternEvent_fixed (s : State) : fixedOf (execPatternEvent s) = some s.fixed := by simp [execPatternEvent]
@[simp] theorem State.streamAct_fixed (s : State) (act : Nat) : fixedOf (s.streamAct act) = some s.fixed := by simp [State.streamAct]
@[simp] theorem execStreamRun_fixed (s : State) : fixedOf (execStreamRun s) = some s.fixed := by simp [execStreamRun]
@[simp] theorem execStreamPause_fixed (s : State) : fixedOf (execStreamPause s) = some s.fixed := by simp [execStreamPause]
@[simp] theorem execStreamRunall_fixed (s : State) : fixedOf (execStreamRunall s) = some s.fixed := by simp [execStreamRunall]
@[simp] theorem execStreamPauseall_fixed (s : State) : fixedOf (execStreamPauseall s) = some s.fixed := by simp [execStreamPauseall]
@[simp] theorem State.flagAct_fixed (s : State) (opn : Nat) : fixedOf (s.flagAct opn) = some s.fixed := by simp [State.flagAct]
@[simp] theorem execFlagSet_fixed (s : State) : fixedOf (execFlagSet s) = some s.fixed := by simp [execFlagSet]
@[simp] theorem execFlagClear_fixed (s : State) : fixedOf (execFlagClear s) = some s.fixed := by simp [execFlagClear]
@[simp] theorem execFlagToggle_fixed (s : State) : fixedOf (execFlagToggle s) = some s.fixed := by simp [execFlagToggle]
@[simp] theorem State.dctlAct_fixed (s : State) (code : Nat) : fixedOf (s.dctlAct code) = some s.fixed := by
  refine s.wordAct_fixed _ _ _ fun x t => ?_
  simp only []
  split <;> simp
@[simp] theorem execHoldall_fixed (s : State) : fixedOf (execHoldall s) = some s.fixed := by simp [execHoldall]
@[simp] theorem execOffall_fixed (s : State) : fixedOf (execOffall s) = some s.fixed := by simp [execOffall]
@[simp] theorem execHoldout_fixed (s : State) : fixedOf (execHoldout s) = some s.fixed := by simp [execHoldout]
@[simp] theorem execOffout_fixed (s : State) : fixedOf (execOffout s) = some s.fixed := by simp [execOffout]
@[simp] theorem State.capAct_fixed (s : State) (a : Nat) (has : Nat → Bool) (f : Flight → Flight) :
    fixedOf (s.capAct a has f) = some s.fixed := s.wordAct_fixed _ _ _ fun x t => by simp
@[simp] theorem execCapctlArm_fixed (s : State) : fixedOf (execCapctlArm s) = some s.fixed := by simp [execCapctlArm]
@[simp] theorem execCapctlDisarm_fixed (s : State) : fixedOf (execCapctlDisarm s) = some s.fixed := by simp [execCapctlDisarm]
@[simp] theorem State.tiuctl_fixed (s : State) (act : Nat) (f : Nat → State → State) (h : ∀ n (t : State), (f n t).fixed = t.fixed) :
    fixedOf (s.tiuctl act f) = some s.fixed := by
  unfold State.tiuctl
  split
  · rfl
  · split
    · rfl
    · next hr => simp [h, State.fixed_of_reach hr]
@[simp] theorem execTiuctlArm_fixed (s : State) : fixedOf (execTiuctlArm s) = some s.fixed := by simp [execTiuctlArm]
@[simp] theorem execTiuctlGate_fixed (s : State) : fixedOf (execTiuctlGate s) = some s.fixed := by simp [execTiuctlGate]
@[simp] theorem execTiuctlDisarm_fixed (s : State) : fixedOf (execTiuctlDisarm s) = some s.fixed := by simp [execTiuctlDisarm]
@[simp] theorem State.flowOn_fixed (s : State) (p : Playlist) : (s.flowOn p).fixed = s.fixed := by
  unfold State.flowOn
  split <;> simp
@[simp] theorem State.softStop_fixed (s : State) (reason : Nat) : (s.softStop reason).fixed = s.fixed := by
  unfold State.softStop
  split <;> simp
@[simp] theorem effSeqStop_fixed (s : State) : fixedOf (effSeqStop s) = some s.fixed := by simp [effSeqStop]
@[simp] theorem execSeqStop_fixed (s : State) : fixedOf (execSeqStop s) = some s.fixed := by simp [execSeqStop]
@[simp] theorem effStopatArm_fixed (s : State) : fixedOf (effStopatArm s) = some s.fixed := by simp [effStopatArm]
@[simp] theorem execStopatArm_fixed (s : State) : fixedOf (execStopatArm s) = some s.fixed := by simp [execStopatArm]
@[simp] theorem effStopatDisarm_fixed (s : State) : fixedOf (effStopatDisarm s) = some s.fixed := by simp [effStopatDisarm]
@[simp] theorem execStopatDisarm_fixed (s : State) : fixedOf (execStopatDisarm s) = some s.fixed := by simp [execStopatDisarm]
@[simp] theorem execStopatReached_fixed (s : State) : fixedOf (execStopatReached s) = some s.fixed := by simp [execStopatReached]
@[simp] theorem State.hostFlags_fixed (s : State) (mask v : Nat) : (s.hostFlags mask v).fixed = s.fixed := by simp [State.hostFlags]
@[simp] theorem effUflagSet_fixed (mask : BitVec 16) (s : State) : fixedOf (effUflagSet mask s) = some s.fixed := by simp [effUflagSet]
@[simp] theorem execUflagSet_fixed (mask : BitVec 16) (s : State) : fixedOf (execUflagSet mask s) = some s.fixed := by simp [execUflagSet]
@[simp] theorem effUflagClear_fixed (mask : BitVec 16) (s : State) :
    fixedOf (effUflagClear mask s) = some s.fixed := by simp [effUflagClear]
@[simp] theorem execUflagClear_fixed (mask : BitVec 16) (s : State) :
    fixedOf (execUflagClear mask s) = some s.fixed := by simp [execUflagClear]

/-! ## The stage -/

@[simp] theorem State.judgeLand_fixed (s : State) (c : Nat) (t : Int) : (s.judgeLand c t).fixed = s.fixed := by
  unfold State.judgeLand
  split <;> simp
@[simp] theorem State.landFrom_fixed (s : State) (c : Nat) (t : Int) (x : Bool × BitVec 16) :
    (s.landFrom c t x).fixed = s.fixed := by simp [State.landFrom]
@[simp] theorem State.comparator_fixed (s : State) (c : Nat) (t : Int) : (s.comparator c t).2.fixed = s.fixed := by
  unfold State.comparator
  split <;> simp

/-! ## The lands -/

@[simp] theorem State.runt_fixed (s : State) (c g : Nat) : (s.runt c g).fixed = s.fixed := by simp [State.runt]
@[simp] theorem State.placeEdge_fixed (s : State) (c : Nat) (e : Edge) : (s.placeEdge c e).fixed = s.fixed := by simp [State.placeEdge]
@[simp] theorem State.standLevels_fixed (s : State) (f : Flight) (c : Nat) :
    (s.standLevels f c).fixed = s.fixed := by simp [State.standLevels]
@[simp] theorem State.landVector_fixed (s : State) (f : Flight) : (s.landVector f).fixed = s.fixed := by simp [State.landVector]
@[simp] theorem State.landUpTo_fixed (t : Int) (l : List Flight) (s : State) : (State.landUpTo t l s).fixed = s.fixed := by
  induction l generalizing s with
  | nil => rfl
  | cons f l ih => simp [State.landUpTo, ih]
@[simp] theorem State.placeUpTo_fixed (c : Nat) (t : Int) (n : Nat) (s : State) : (State.placeUpTo c t n s).fixed = s.fixed := by
  induction n generalizing s with
  | zero => rfl
  | succ n ih =>
    simp only [State.placeUpTo]
    split <;> simp [ih]
@[simp] theorem State.settleLand_fixed (s : State) (c : Nat) (t : Int) : (s.settleLand c t).fixed = s.fixed := by simp [State.settleLand]
@[simp] theorem execEdgePlace_fixed (ch : Fin 256) (s : State) : fixedOf (execEdgePlace ch s) = some s.fixed := by
  unfold execEdgePlace
  split
  · rfl
  · split
    · rfl
    · next hr => simp [State.fixed_of_reach hr]
@[simp] theorem execVectorLand_fixed (s : State) : fixedOf (execVectorLand s) = some s.fixed := by
  unfold execVectorLand
  split
  · rfl
  · split
    · rfl
    · next hr => simp [State.fixed_of_reach hr]
@[simp] theorem execLevelSettleEnd_fixed (ch : Fin 256) (s : State) : fixedOf (execLevelSettleEnd ch s) = some s.fixed := by
  simp only [execLevelSettleEnd]
  split
  · split
    · rfl
    · next hr => simp [State.fixed_of_reach hr]
  · simp
  · rfl
@[simp] theorem State.unsettled_fixed (s : State) (c : Nat) : (s.unsettled c).fixed = s.fixed := by simp [State.unsettled]
@[simp] theorem State.shadowed_fixed (s : State) (c g : Nat) : (s.shadowed c g).fixed = s.fixed := by simp [State.shadowed]
@[simp] theorem State.countCompare_fixed (s : State) (f : Flight) (site g : Nat) (failed : Bool) :
    (s.countCompare f site g failed).fixed = s.fixed := by simp [State.countCompare]
@[simp] theorem State.judge_fixed (s : State) (f : Flight) (c u cmp : Nat) (held : Bool) : (s.judge f c u cmp held).2.fixed = s.fixed := by
  unfold State.judge
  split <;> simp
@[simp] theorem execCompareSample_fixed (cycle : Gvc) (ch : Fin 256) (ui : Fin 8) (lands : List (Bool × BitVec 16)) (held : Bool)
    (s : State) :
    fixedOf (execCompareSample cycle ch ui lands held s) = some s.fixed := by
  simp only [execCompareSample]
  split
  · rfl
  · split
    · rfl
    · next hr => simp [State.fixed_of_reach hr]
@[simp] theorem State.setReadback_fixed (s : State) (c : Nat) (r : Readback) :
    (s.setReadback c r).fixed = s.fixed := by simp [State.setReadback]
@[simp] theorem State.markUntrusted_fixed (s : State) (c : Nat) (cause : Nat → Field) :
    (s.markUntrusted c cause).fixed = s.fixed := by simp [State.markUntrusted]
@[simp] theorem State.reloadFailed_fixed (s : State) (c off : Nat) (cls : Nat) :
    (s.reloadFailed c off cls).fixed = s.fixed := by simp [State.reloadFailed]
@[simp] theorem execTwinMismatch_fixed (ch : Fin 256) (delay bad : Bool) (s : State) :
    fixedOf (execTwinMismatch ch delay bad s) = some s.fixed := by simp [execTwinMismatch]
@[simp] theorem State.beginPass_fixed (s : State) (c : Nat) : (s.beginPass c).fixed = s.fixed := by simp [State.beginPass]
@[simp] theorem execReadbackPeriod_fixed (s : State) : fixedOf (execReadbackPeriod s) = some s.fixed := by simp [execReadbackPeriod]
@[simp] theorem State.endPass_fixed (s : State) (c : Nat) : (s.endPass c).fixed = s.fixed := by
  simp only [State.endPass]
  split <;> simp
@[simp] theorem execReadbackStep_fixed (ch : Fin 256) (void bad : Bool) (s : State) :
    fixedOf (execReadbackStep ch void bad s) = some s.fixed := by simp [execReadbackStep]
@[simp] theorem effUntrClear_fixed (ch : Fin 256) (s : State) : fixedOf (effUntrClear ch s) = some s.fixed := by simp [effUntrClear]
@[simp] theorem execUntrClear_fixed (ch : Fin 256) (s : State) : fixedOf (execUntrClear ch s) = some s.fixed := by simp [execUntrClear]
@[simp] theorem effLvlCtrlWrite_fixed (data : BitVec 32) (s : State) :
    fixedOf (effLvlCtrlWrite data s) = some s.fixed := by simp [effLvlCtrlWrite]
@[simp] theorem execLvlCtrlWrite_fixed (data : BitVec 32) (s : State) :
    fixedOf (execLvlCtrlWrite data s) = some s.fixed := by simp [execLvlCtrlWrite]

/-! ## Rake -/

@[simp] theorem State.enterTp_fixed (s : State) (n : Nat) : (s.enterTp n).fixed = s.fixed := by simp [State.enterTp]
@[simp] theorem State.capReset_fixed (s : State) : (s.capReset).fixed = s.fixed := by simp [State.capReset]
@[simp] theorem State.capArm_fixed (s : State) : (s.capArm).fixed = s.fixed := by simp [State.capArm]
@[simp] theorem State.askRakeStop_fixed (s : State) (g : Nat) : (s.askRakeStop g).fixed = s.fixed := by simp [State.askRakeStop]
@[simp] theorem State.tpAct_fixed (s : State) (f : Flight) (act : Nat) : (s.tpAct f act).fixed = s.fixed := by simp [State.tpAct]
@[simp] theorem State.tpStep_fixed (s : State) (f : Flight) (tw : Nat) (mviol : Bool) :
    (s.tpStep f tw mviol).fixed = s.fixed := by simp [State.tpStep]
@[simp] theorem State.takeBegin_fixed (s : State) (f : Flight) : (s.takeBegin f).fixed = s.fixed := by
  unfold State.takeBegin
  extract_lets t0 _ t s1 _ s2 t2 _ s3 s4 _
  have ht : t.fixed = s.fixed := by simp only [t, t0, State.fixed_mk, State.fixed_eta, State.put_fixed, State.enterTp_fixed]
  have h1 : s1.fixed = s.fixed := by simp only [s1, State.fixed_ite, State.capReset_fixed, ht, ite_self]
  have h2 : s2.fixed = s1.fixed := by simp [s2]
  have h3 : s3.fixed = s2.fixed := by simp [s3, t2]
  have h4 : s4.fixed = s3.fixed := by simp [s4]
  rw [State.fixed_mk, State.fixed_eta, h4, h3, h2, h1]
@[simp] theorem State.capDrop_fixed (s : State) (g : Nat) : (s.capDrop g).fixed = s.fixed := by simp [State.capDrop]
@[simp] theorem State.countFails_fixed (s : State) (f : Flight) : (s.countFails f).fixed = s.fixed := by
  unfold State.countFails
  split
  · rfl
  · refine foldl_fixed _ _ (fun t n => ?_) s
    simp only []
    split <;> simp
@[simp] theorem State.showKills_fixed (s : State) (m : Nat) : (s.showKills m).fixed = s.fixed := by simp [State.showKills]
@[simp] theorem execSiteKill_fixed (site : Fin 64) (s : State) : fixedOf (execSiteKill site s) = some s.fixed := by
  unfold execSiteKill
  split
  · rfl
  · split
    · rfl
    · split
      · rfl
      · next hr => simp [State.fixed_of_reach hr]
@[simp] theorem effHostSiteKill_fixed (mask : BitVec 64) (s : State) :
    fixedOf (effHostSiteKill mask s) = some s.fixed := by simp [effHostSiteKill]
@[simp] theorem execHostSiteKill_fixed (mask : BitVec 64) (s : State) :
    fixedOf (execHostSiteKill mask s) = some s.fixed := by simp [execHostSiteKill]
@[simp] theorem State.fcDrop_fixed (s : State) (g : Nat) : (s.fcDrop g).fixed = s.fixed := by simp [State.fcDrop]
@[simp] theorem State.failTrig_fixed (s : State) (f : Flight) (fresh : List Nat) :
    (s.failTrig f fresh).fixed = s.fixed := by simp [State.failTrig]
@[simp] theorem execRakeStop_fixed (s : State) : fixedOf (execRakeStop s) = some s.fixed := by
  unfold execRakeStop
  split
  · split
    · rfl
    · next hr => simp [State.fixed_of_reachBoundary hr]
  · rfl
@[simp] theorem effCapArm_fixed (s : State) : fixedOf (effCapArm s) = some s.fixed := by simp [effCapArm]
@[simp] theorem execCapArm_fixed (s : State) : fixedOf (execCapArm s) = some s.fixed := by simp [execCapArm]
@[simp] theorem effCapDisarm_fixed (s : State) : fixedOf (effCapDisarm s) = some s.fixed := by simp [effCapDisarm]
@[simp] theorem execCapDisarm_fixed (s : State) : fixedOf (execCapDisarm s) = some s.fixed := by simp [execCapDisarm]
@[simp] theorem effCapReset_fixed (s : State) : fixedOf (effCapReset s) = some s.fixed := by simp [effCapReset]
@[simp] theorem execCapReset_fixed (s : State) : fixedOf (execCapReset s) = some s.fixed := by simp [execCapReset]
@[simp] theorem effFcRptrWrite_fixed (hi : BitVec 32) (s : State) : fixedOf (effFcRptrWrite hi s) = some s.fixed := by simp [effFcRptrWrite]
@[simp] theorem execFcRptrWrite_fixed (hi : BitVec 32) (s : State) :
    fixedOf (execFcRptrWrite hi s) = some s.fixed := by simp [execFcRptrWrite]

/-! ## The safe state and power loss -/

@[simp] theorem State.setLoop_fixed (s : State) (n : Nat) (l : Loop) : (s.setLoop n l).fixed = s.fixed := by simp [State.setLoop]
@[simp] theorem State.heldEnd_fixed (s : State) (t : Nat) : (s.heldEnd t).fixed = s.fixed := by simp [State.heldEnd]
@[simp] theorem State.heldCheck_fixed (s : State) (n : Nat) : (s.heldCheck n).fixed = s.fixed := by simp [State.heldCheck]
@[simp] theorem State.holdLoop_fixed (s : State) (n cause : Nat) : (s.holdLoop n cause).fixed = s.fixed := by simp [State.holdLoop]
@[simp] theorem State.cleClockStop_fixed (s : State) : (s.cleClockStop).fixed = s.fixed := by simp [State.cleClockStop]
@[simp] theorem State.rampDone_fixed (s : State) : (s.rampDone).fixed = s.fixed := by simp [State.rampDone]
@[simp] theorem State.rampEntry_fixed (s : State) (p i : Nat) : (s.rampEntry p i).fixed = s.fixed := by simp [State.rampEntry]
@[simp] theorem State.lbCarry_fixed (s : State) (p f : Nat) : (s.lbCarry p f).fixed = s.fixed := by simp [State.lbCarry]
@[simp] theorem execRampWrite_fixed (port : Fin 4) (entry : Fin 32) (s : State) :
    fixedOf (execRampWrite port entry s) = some s.fixed := by simp [execRampWrite]
@[simp] theorem State.manualTrip_fixed (s : State) (cs : List Nat) : (s.manualTrip cs).fixed = s.fixed := by simp [State.manualTrip]
@[simp] theorem State.safeLoops_fixed (s : State) : (s.safeLoops).fixed = s.fixed := by simp [State.safeLoops]
@[simp] theorem State.enterSafe_fixed (s : State) (cause : Nat) : (s.enterSafe cause).fixed = s.fixed := by simp [State.enterSafe]
@[simp] theorem State.startWake_fixed (s : State) : (s.startWake).fixed = s.fixed := by simp [State.startWake]
@[simp] theorem execPwrSeqErr_fixed (rail : Fin 320) (s : State) : fixedOf (execPwrSeqErr rail s) = some s.fixed := by simp [execPwrSeqErr]
@[simp] theorem execRailUndervoltDisconnect_fixed (low : Bool) (s : State) :
    fixedOf (execRailUndervoltDisconnect low s) = some s.fixed := by simp [execRailUndervoltDisconnect]
@[simp] theorem State.setCond_fixed (s : State) (src : Nat) (on : Bool) : (s.setCond src on).fixed = s.fixed := by simp [State.setCond]

/-! ## Frost -/

@[simp] theorem State.frzTrig_fixed (s : State) (trig src : Nat) : (s.frzTrig trig src).fixed = s.fixed := by simp [State.frzTrig]
@[simp] theorem State.hardFrost_fixed (s : State) (trig src : Nat) : (s.hardFrost trig src).fixed = s.fixed := by simp [State.hardFrost]
@[simp] theorem State.softFrost_fixed (s : State) (trig src : Nat) : (s.softFrost trig src).fixed = s.fixed := by simp [State.softFrost]
@[simp] theorem State.freeze_fixed (s : State) (kind epoch : Nat) : (s.freeze kind epoch).fixed = s.fixed := by simp [State.freeze]
@[simp] theorem execFrostNLow_fixed (s : State) : fixedOf (execFrostNLow s) = some s.fixed := by simp [execFrostNLow]
@[simp] theorem effFrzHard_fixed (s : State) : fixedOf (effFrzHard s) = some s.fixed := by simp [effFrzHard]
@[simp] theorem execFrzHard_fixed (s : State) : fixedOf (execFrzHard s) = some s.fixed := by simp [execFrzHard]
@[simp] theorem effFrzSoft_fixed (s : State) : fixedOf (effFrzSoft s) = some s.fixed := by simp [effFrzSoft]
@[simp] theorem execFrzSoft_fixed (s : State) : fixedOf (execFrzSoft s) = some s.fixed := by simp [execFrzSoft]
@[simp] theorem execJtagFrzHard_fixed (s : State) : fixedOf (execJtagFrzHard s) = some s.fixed := by simp [execJtagFrzHard]
@[simp] theorem effFrzArmat_fixed (s : State) : fixedOf (effFrzArmat s) = some s.fixed := by simp [effFrzArmat]
@[simp] theorem execFrzArmat_fixed (s : State) : fixedOf (execFrzArmat s) = some s.fixed := by simp [execFrzArmat]
@[simp] theorem effFrzDisarm_fixed (s : State) : fixedOf (effFrzDisarm s) = some s.fixed := by simp [effFrzDisarm]
@[simp] theorem execFrzDisarm_fixed (s : State) : fixedOf (execFrzDisarm s) = some s.fixed := by simp [execFrzDisarm]
@[simp] theorem State.beginDrain_fixed (s : State) (b : Nat) : (s.beginDrain b).fixed = s.fixed := by simp [State.beginDrain]
@[simp] theorem State.stopClocks_fixed (s : State) : (s.stopClocks).fixed = s.fixed := by
  unfold State.stopClocks
  split <;> simp
theorem State.fixed_of_endDrain {s t : State} {b : Nat} (h : s.endDrain b = some t) : t.fixed = s.fixed := by
  unfold State.endDrain at h
  split at h
  · obtain ⟨u, hu, rfl⟩ := Option.map_eq_some_iff.mp h
    simp [State.fixed_of_reach hu]
  · cases h; simp
@[simp] theorem execFrostSoftBoundary_fixed (s : State) : fixedOf (execFrostSoftBoundary s) = some s.fixed := by
  unfold execFrostSoftBoundary
  extract_lets beginAt group
  have hb : ∀ (t : State) (b : Nat), t.fixed = s.fixed → fixedOf (beginAt t b) = some s.fixed := by
    intro t b ht
    simp only [beginAt]
    split
    · rfl
    · next hr => simp [State.fixed_of_reach hr, ht]
  split
  · rfl
  · split
    · split
      · split
        · next hr => simp [State.fixed_of_endDrain hr]
        · rfl
      · rfl
    · split <;> simp [hb]
theorem State.fixed_of_hardStop {s t : State} {r : Nat} (h : s.hardStop r = some t) : t.fixed = s.fixed := by
  simp only [State.hardStop] at h
  split at h
  · cases h; simp
  · split at h
    · cases h
    · exact State.fixed_of_reach h
@[simp] theorem execFrostClockStop_fixed (s : State) : fixedOf (execFrostClockStop s) = some s.fixed := by
  unfold execFrostClockStop
  split
  · rfl
  · split
    · extract_lets b
      split
      · simp
      · split
        · next hr => simp [State.fixed_of_hardStop hr]
        · rfl
    · simp
@[simp] theorem effFrzRead_fixed (s : State) : fixedOf (effFrzRead s) = some s.fixed := by simp [effFrzRead]
@[simp] theorem execFrzRead_fixed (s : State) : fixedOf (execFrzRead s) = some s.fixed := by simp [execFrzRead]
@[simp] theorem State.abandonRead_fixed (s : State) : (s.abandonRead).fixed = s.fixed := by simp [State.abandonRead]
@[simp] theorem execFrostReadDone_fixed (s : State) : fixedOf (execFrostReadDone s) = some s.fixed := by simp [execFrostReadDone]
@[simp] theorem execJtagFrzRead_fixed (s : State) : fixedOf (execJtagFrzRead s) = some s.fixed := by simp [execJtagFrzRead]
@[simp] theorem effFrzMapidxWrite_fixed (index : BitVec 32) (s : State) :
    fixedOf (effFrzMapidxWrite index s) = some s.fixed := by simp [effFrzMapidxWrite]
@[simp] theorem execFrzMapidxWrite_fixed (index : BitVec 32) (s : State) :
    fixedOf (execFrzMapidxWrite index s) = some s.fixed := by simp [execFrzMapidxWrite]

/-! ## The fault collector -/

@[simp] theorem State.setCore_fixed (s : State) (c : Nat) (v : Core) : (s.setCore c v).fixed = s.fixed := by simp [State.setCore]
@[simp] theorem State.deliverTo_fixed (s : State) (c i prio : Nat) : (s.deliverTo c i prio).fixed = s.fixed := by simp [State.deliverTo]
@[simp] theorem State.evrAppend_fixed (s : State) (words : List Nat) : (s.evrAppend words).fixed = s.fixed := by simp [State.evrAppend]
@[simp] theorem State.evrEntry_fixed (s : State) (r : Raised) (cls : Nat) (promoted first : Bool) :
    (s.evrEntry r cls promoted first).fixed = s.fixed := by simp [State.evrEntry]
@[simp] theorem State.countPromotion_fixed (s : State) (src cls : Nat) :
    (s.countPromotion src cls).fixed = s.fixed := by simp [State.countPromotion]
@[simp] theorem State.firstLatch_fixed (s : State) (r : Raised) (cls : Nat) (promoted : Bool) :
    (s.firstLatch r cls promoted).2.fixed = s.fixed := by simp [State.firstLatch]
@[simp] theorem State.decideOne_fixed (s : State) (r : Raised) (log : Bool) :
    (s.decideOne r log).fixed = s.fixed := by simp [State.decideOne]
@[simp] theorem execEventOccurrence_fixed (s : State) : fixedOf (execEventOccurrence s) = some s.fixed := by
  simp only [execEventOccurrence]
  repeat' split
  all_goals simp
@[simp] theorem State.raiseNow_fixed (s : State) (src arg : Nat) (log : Bool) : (s.raiseNow src arg log).fixed = s.fixed := by
  simp only [State.raiseNow]
  split <;> simp
@[simp] theorem execFclSelf_fixed (agree : Bool) (s : State) : fixedOf (execFclSelf agree s) = some s.fixed := by simp [execFclSelf]
@[simp] theorem effFclClr_fixed (req : Req) (s : State) : fixedOf (effFclClr req s) = some s.fixed := by simp [effFclClr]
@[simp] theorem execFclClr_fixed (req : Req) (s : State) : fixedOf (execFclClr req s) = some s.fixed := by simp [execFclClr]
@[simp] theorem effFclPromoClear_fixed (word : Fin 10) (mask : BitVec 32) (s : State) :
    fixedOf (effFclPromoClear word mask s) = some s.fixed := by simp [effFclPromoClear]
@[simp] theorem execFclPromoClear_fixed (word : Fin 10) (mask : BitVec 32) (s : State) :
    fixedOf (execFclPromoClear word mask s) = some s.fixed := by simp [execFclPromoClear]
@[simp] theorem effFclSwevt_fixed (data : BitVec 32) (s : State) : fixedOf (effFclSwevt data s) = some s.fixed := by simp [effFclSwevt]
@[simp] theorem execFclSwevt_fixed (data : BitVec 32) (s : State) : fixedOf (execFclSwevt data s) = some s.fixed := by simp [execFclSwevt]
@[simp] theorem effEvrRscwSrc_fixed (req : Req) (data : BitVec 32) (s : State) :
    fixedOf (effEvrRscwSrc req data s) = some s.fixed := by simp [effEvrRscwSrc]
@[simp] theorem execEvrRscwSrc_fixed (req : Req) (data : BitVec 32) (s : State) :
    fixedOf (execEvrRscwSrc req data s) = some s.fixed := by simp [execEvrRscwSrc]
@[simp] theorem effEvrRidxWrite_fixed (req : Req) (index : BitVec 32) (s : State) :
    fixedOf (effEvrRidxWrite req index s) = some s.fixed := by simp [effEvrRidxWrite]
@[simp] theorem execEvrRidxWrite_fixed (req : Req) (index : BitVec 32) (s : State) :
    fixedOf (execEvrRidxWrite req index s) = some s.fixed := by simp [execEvrRidxWrite]
@[simp] theorem State.putSet_fixed (s : State) (n : Nat) (v : SavedSet) : (s.putSet n v).fixed = s.fixed := by simp [State.putSet]
@[simp] theorem effEvrSidxWrite_fixed (req : Req) (set : Fin 2) (entry : Fin 4096) (s : State) :
    fixedOf (effEvrSidxWrite req set entry s) = some s.fixed := by simp [effEvrSidxWrite]
@[simp] theorem execEvrSidxWrite_fixed (req : Req) (set : Fin 2) (entry : Fin 4096) (s : State) :
    fixedOf (execEvrSidxWrite req set entry s) = some s.fixed := by simp [execEvrSidxWrite]
@[simp] theorem effEvrSetDiscard_fixed (req : Req) (set : Fin 2) (s : State) :
    fixedOf (effEvrSetDiscard req set s) = some s.fixed := by simp [effEvrSetDiscard]
@[simp] theorem execEvrSetDiscard_fixed (req : Req) (set : Fin 2) (s : State) :
    fixedOf (execEvrSetDiscard req set s) = some s.fixed := by simp [execEvrSetDiscard]
@[simp] theorem State.powerLoss_fixed (s : State) (arg : Nat) : (s.powerLoss arg).fixed = s.fixed := by
  unfold State.powerLoss
  split
  · rfl
  · extract_lets _ _ _ s1 s2
    have h1 : s1.fixed = s.fixed := rfl
    have h2 : s2.fixed = s1.fixed := by simp only [s2, State.raiseNow_fixed, State.abandonRead_fixed, State.tripEffects_fixed]
    rw [State.fixed_mk, State.fixed_eta, State.put_fixed, h2, h1]
@[simp] theorem execPowerLossTrigger_fixed (rail : Fin 320) (s : State) :
    fixedOf (execPowerLossTrigger rail s) = some s.fixed := by simp [execPowerLossTrigger]

/-! ## The guard -/

@[simp] theorem State.setMonitor_fixed (s : State) (m : Nat) (v : Monitor) :
    (s.setMonitor m v).fixed = s.fixed := by simp [State.setMonitor]
@[simp] theorem State.grdTrip_fixed (s : State) (m : Nat) : (s.grdTrip m).fixed = s.fixed := by simp [State.grdTrip]
@[simp] theorem State.railDecision_fixed (s : State) (m : Nat) : (s.railDecision m).fixed = s.fixed := by simp [State.railDecision]
@[simp] theorem State.rawDecision_fixed (s : State) (m : Nat) : (s.rawDecision m).fixed = s.fixed := by simp [State.rawDecision]
@[simp] theorem State.filtDecision_fixed (s : State) (m : Nat) : (s.filtDecision m).fixed = s.fixed := by simp [State.filtDecision]
@[simp] theorem State.revDecision_fixed (s : State) (m : Nat) : (s.revDecision m).fixed = s.fixed := by simp [State.revDecision]
@[simp] theorem State.inWindow_fixed (s : State) (m : Nat) (out rev : Bool) :
    (s.inWindow m out rev).fixed = s.fixed := by simp [State.inWindow]
@[simp] theorem State.grdSample_fixed (s : State) (m : Nat) (v : Int) : (s.grdSample m v).fixed = s.fixed := by simp [State.grdSample]
@[simp] theorem State.grdSamples_fixed (s : State) (m : Nat) (points : List (BitVec 16)) :
    (s.grdSamples m points).fixed = s.fixed := by simp [State.grdSamples]
@[simp] theorem execGrdDecision_fixed (monitor : Fin 312) (points : List (BitVec 16)) (s : State) :
    fixedOf (execGrdDecision monitor points s) = some s.fixed := by simp [execGrdDecision]
@[simp] theorem execGrdRawDecision_fixed (monitor : Fin 312) (point : BitVec 16) (s : State) :
    fixedOf (execGrdRawDecision monitor point s) = some s.fixed := by simp [execGrdRawDecision]
@[simp] theorem execGrdInWindow_fixed (monitor : Fin 312) (points : List (BitVec 16)) (s : State) :
    fixedOf (execGrdInWindow monitor points s) = some s.fixed := by simp [execGrdInWindow]
@[simp] theorem execGrdPTick_fixed (points : List (BitVec 16)) (s : State) :
    fixedOf (execGrdPTick points s) = some s.fixed := by simp [execGrdPTick]
@[simp] theorem execGrdIlim_fixed (ch : Fin 256) (s : State) : fixedOf (execGrdIlim ch s) = some s.fixed := by simp [execGrdIlim]
@[simp] theorem effGrdMtrip_fixed (word : Fin 8) (mask : BitVec 32) (s : State) :
    fixedOf (effGrdMtrip word mask s) = some s.fixed := by simp [effGrdMtrip]
@[simp] theorem execGrdMtrip_fixed (word : Fin 8) (mask : BitVec 32) (s : State) :
    fixedOf (execGrdMtrip word mask s) = some s.fixed := by simp [execGrdMtrip]
@[simp] theorem State.releaseChannel_fixed (s : State) (c : Nat) (unfit : Bool) :
    (s.releaseChannel c unfit).fixed = s.fixed := by simp [State.releaseChannel]
@[simp] theorem effGrdRelease_fixed (word : Fin 8) (mask unfit : BitVec 32) (s : State) :
    fixedOf (effGrdRelease word mask unfit s) = some s.fixed := by simp [effGrdRelease]
@[simp] theorem execGrdRelease_fixed (word : Fin 8) (mask unfit : BitVec 32) (s : State) :
    fixedOf (execGrdRelease word mask unfit s) = some s.fixed := by simp [execGrdRelease]
@[simp] theorem State.clearLatched_fixed (s : State) (m : Nat) : (s.clearLatched m).fixed = s.fixed := by simp [State.clearLatched]
@[simp] theorem effGrdDsClear_fixed (monitor : Fin 312) (s : State) :
    fixedOf (effGrdDsClear monitor s) = some s.fixed := by simp [effGrdDsClear]
@[simp] theorem execGrdDsClear_fixed (monitor : Fin 312) (s : State) :
    fixedOf (execGrdDsClear monitor s) = some s.fixed := by simp [execGrdDsClear]
@[simp] theorem State.grdRefuse_fixed (s : State) (m : Nat) : (s.grdRefuse m).fixed = s.fixed := by simp [State.grdRefuse]
@[simp] theorem effGrdThrWrite_fixed (req : Req) (monitor : Fin 312) (data : BitVec 32) (s : State) :
    fixedOf (effGrdThrWrite req monitor data s) = some s.fixed := by simp [effGrdThrWrite]
@[simp] theorem execGrdThrWrite_fixed (req : Req) (monitor : Fin 312) (data : BitVec 32) (s : State) :
    fixedOf (execGrdThrWrite req monitor data s) = some s.fixed := by simp [execGrdThrWrite]
@[simp] theorem execGrdThrSettled_fixed (monitor : Fin 312) (s : State) :
    fixedOf (execGrdThrSettled monitor s) = some s.fixed := by simp [execGrdThrSettled]
@[simp] theorem effGrdModeWrite_fixed (req : Req) (monitor : Fin 312) (data : BitVec 32) (s : State) :
    fixedOf (effGrdModeWrite req monitor data s) = some s.fixed := by simp [effGrdModeWrite]
@[simp] theorem execGrdModeWrite_fixed (req : Req) (monitor : Fin 312) (data : BitVec 32) (s : State) :
    fixedOf (execGrdModeWrite req monitor data s) = some s.fixed := by simp [execGrdModeWrite]
@[simp] theorem execGrdModeSettled_fixed (monitor : Fin 312) (s : State) : fixedOf (execGrdModeSettled monitor s) = some s.fixed := by
  simp only [execGrdModeSettled]
  split <;> simp
@[simp] theorem execGrdTwin_fixed (monitor : Fin 312) (s : State) : fixedOf (execGrdTwin monitor s) = some s.fixed := by simp [execGrdTwin]

/-! ## PMUs and filter chains -/

@[simp] theorem State.byOwner_fixed (s : State) (r : Req) (n base : Nat) (k : State → State) (h : ∀ t : State, (k t).fixed = t.fixed) :
    (s.byOwner r n base k).fixed = s.fixed := by simp [State.byOwner, h]
@[simp] theorem State.pmuChange_fixed (s : State) (n : Nat) : (s.pmuChange n).fixed = s.fixed := by simp [State.pmuChange]
@[simp] theorem State.pmuOpen_fixed (s : State) (n : Nat) : (s.pmuOpen n).fixed = s.fixed := by simp [State.pmuOpen]
@[simp] theorem effPmuTake_fixed (req : Req) (pmu : Fin 32) (s : State) :
    fixedOf (effPmuTake req pmu s) = some s.fixed := by simp [effPmuTake]
@[simp] theorem execPmuTake_fixed (req : Req) (pmu : Fin 32) (s : State) :
    fixedOf (execPmuTake req pmu s) = some s.fixed := by simp [execPmuTake]
@[simp] theorem effPmuRelease_fixed (req : Req) (pmu : Fin 32) (s : State) :
    fixedOf (effPmuRelease req pmu s) = some s.fixed := by simp [effPmuRelease]
@[simp] theorem execPmuRelease_fixed (req : Req) (pmu : Fin 32) (s : State) :
    fixedOf (execPmuRelease req pmu s) = some s.fixed := by simp [execPmuRelease]
@[simp] theorem State.pmuCtrl_fixed (s : State) (n d : Nat) : (s.pmuCtrl n d).fixed = s.fixed := by simp [State.pmuCtrl]
@[simp] theorem effPmuConnect_fixed (req : Req) (pmu : Fin 32) (data : BitVec 32) (s : State) :
    fixedOf (effPmuConnect req pmu data s) = some s.fixed := by simp [effPmuConnect]
@[simp] theorem execPmuConnect_fixed (req : Req) (pmu : Fin 32) (data : BitVec 32) (s : State) :
    fixedOf (execPmuConnect req pmu data s) = some s.fixed := by simp [execPmuConnect]
@[simp] theorem execPmuConnectDone_fixed (pmu : Fin 32) (s : State) : fixedOf (execPmuConnectDone pmu s) = some s.fixed := by
  simp only [execPmuConnectDone]
  split <;> simp
@[simp] theorem effPmuForceWrite_fixed (req : Req) (pmu : Fin 32) (which : Fin 3) (data : BitVec 32) (s : State) :
    fixedOf (effPmuForceWrite req pmu which data s) = some s.fixed := by simp [effPmuForceWrite]
@[simp] theorem execPmuForceWrite_fixed (req : Req) (pmu : Fin 32) (which : Fin 3) (data : BitVec 32) (s : State) :
    fixedOf (execPmuForceWrite req pmu which data s) = some s.fixed := by simp [execPmuForceWrite]
@[simp] theorem State.quietContact_fixed (s : State) : (s.quietContact).fixed = s.fixed := by simp [State.quietContact]
@[simp] theorem State.contactNext_fixed (s : State) (n : Nat) : (s.contactNext n).fixed = s.fixed := by
  simp only [State.contactNext]
  split <;> simp
@[simp] theorem State.contactEnd_fixed (s : State) : (s.contactEnd).fixed = s.fixed := by simp [State.contactEnd]
@[simp] theorem effContactTestGo_fixed (s : State) : fixedOf (effContactTestGo s) = some s.fixed := by simp [effContactTestGo]
@[simp] theorem execContactTestGo_fixed (s : State) : fixedOf (execContactTestGo s) = some s.fixed := by simp [execContactTestGo]
@[simp] theorem State.roundOpen_fixed (s : State) (v : Int) (d : Int) : (s.roundOpen v d).2.fixed = s.fixed := by simp [State.roundOpen]
@[simp] theorem execContactChannelDone_fixed (ch : Fin 256) (vn vp : BitVec 32) (s : State) :
    fixedOf (execContactChannelDone ch vn vp s) = some s.fixed := by simp [execContactChannelDone]
@[simp] theorem State.setChain_fixed (s : State) (n : Nat) (v : DfcChain) : (s.setChain n v).fixed = s.fixed := by simp [State.setChain]
@[simp] theorem effDfcStart_fixed (req : Req) (chain : Fin 32) (s : State) :
    fixedOf (effDfcStart req chain s) = some s.fixed := by simp [effDfcStart]
@[simp] theorem execDfcStart_fixed (req : Req) (chain : Fin 32) (s : State) :
    fixedOf (execDfcStart req chain s) = some s.fixed := by simp [execDfcStart]
@[simp] theorem effDfcStop_fixed (req : Req) (chain : Fin 32) (s : State) :
    fixedOf (effDfcStop req chain s) = some s.fixed := by simp [effDfcStop]
@[simp] theorem execDfcStop_fixed (req : Req) (chain : Fin 32) (s : State) :
    fixedOf (execDfcStop req chain s) = some s.fixed := by simp [execDfcStop]
@[simp] theorem effDfcFreeze_fixed (req : Req) (chain : Fin 32) (on : Bool) (s : State) :
    fixedOf (effDfcFreeze req chain on s) = some s.fixed := by simp [effDfcFreeze]
@[simp] theorem execDfcFreeze_fixed (req : Req) (chain : Fin 32) (on : Bool) (s : State) :
    fixedOf (execDfcFreeze req chain on s) = some s.fixed := by simp [execDfcFreeze]
@[simp] theorem effDfcBaseWrite_fixed (req : Req) (chain : Fin 32) (data : BitVec 32) (s : State) :
    fixedOf (effDfcBaseWrite req chain data s) = some s.fixed := by simp [effDfcBaseWrite]
@[simp] theorem execDfcBaseWrite_fixed (req : Req) (chain : Fin 32) (data : BitVec 32) (s : State) :
    fixedOf (execDfcBaseWrite req chain data s) = some s.fixed := by simp [execDfcBaseWrite]
@[simp] theorem State.sampleCode_fixed (s : State) (v : Int) (e : Nat) : (s.sampleCode v e).2.fixed = s.fixed := by simp [State.sampleCode]
@[simp] theorem State.dfcPut_fixed (s : State) (n v flags : Nat) : (s.dfcPut n v flags).fixed = s.fixed := by simp [State.dfcPut]
@[simp] theorem execDfcOutput_fixed (chain : Fin 32) (xs : List (BitVec 32)) (clip : Bool) (s : State) :
    fixedOf (execDfcOutput chain xs clip s) = some s.fixed := by simp [execDfcOutput]

/-! ## Calibration -/

@[simp] theorem State.calRefuse_fixed (s : State) : (s.calRefuse).fixed = s.fixed := by simp [State.calRefuse]
@[simp] theorem State.calRequest_fixed (s : State) (es : List (Nat × Nat × Nat)) :
    (s.calRequest es).fixed = s.fixed := by simp [State.calRequest]
@[simp] theorem effCalReqTiming_fixed (elem : Fin 4) (target : Fin 256) (s : State) :
    fixedOf (effCalReqTiming elem target s) = some s.fixed := by simp [effCalReqTiming]
@[simp] theorem execCalReqTiming_fixed (elem : Fin 4) (target : Fin 256) (s : State) :
    fixedOf (execCalReqTiming elem target s) = some s.fixed := by simp [execCalReqTiming]
@[simp] theorem effCalReqDc_fixed (elem : Fin 4) (target : Fin 256) (s : State) :
    fixedOf (effCalReqDc elem target s) = some s.fixed := by simp [effCalReqDc]
@[simp] theorem execCalReqDc_fixed (elem : Fin 4) (target : Fin 256) (s : State) :
    fixedOf (execCalReqDc elem target s) = some s.fixed := by simp [execCalReqDc]
@[simp] theorem effCalReqBoth_fixed (elem : Fin 4) (target : Fin 256) (s : State) :
    fixedOf (effCalReqBoth elem target s) = some s.fixed := by simp [effCalReqBoth]
@[simp] theorem execCalReqBoth_fixed (elem : Fin 4) (target : Fin 256) (s : State) :
    fixedOf (execCalReqBoth elem target s) = some s.fixed := by simp [execCalReqBoth]
@[simp] theorem effCalReqGraft_fixed (elem : Fin 4) (target : Fin 256) (s : State) :
    fixedOf (effCalReqGraft elem target s) = some s.fixed := by simp [effCalReqGraft]
@[simp] theorem execCalReqGraft_fixed (elem : Fin 4) (target : Fin 256) (s : State) :
    fixedOf (execCalReqGraft elem target s) = some s.fixed := by simp [execCalReqGraft]
@[simp] theorem effCalReqTile_fixed (elem : Fin 4) (target : Fin 256) (s : State) :
    fixedOf (effCalReqTile elem target s) = some s.fixed := by simp [effCalReqTile]
@[simp] theorem execCalReqTile_fixed (elem : Fin 4) (target : Fin 256) (s : State) :
    fixedOf (execCalReqTile elem target s) = some s.fixed := by simp [execCalReqTile]
@[simp] theorem effCalReqPmu_fixed (elem : Fin 4) (target : Fin 256) (s : State) :
    fixedOf (effCalReqPmu elem target s) = some s.fixed := by simp [effCalReqPmu]
@[simp] theorem execCalReqPmu_fixed (elem : Fin 4) (target : Fin 256) (s : State) :
    fixedOf (execCalReqPmu elem target s) = some s.fixed := by simp [execCalReqPmu]
@[simp] theorem execCalEntryStart_fixed (tile : Fin 8) (s : State) : fixedOf (execCalEntryStart tile s) = some s.fixed := by
  unfold execCalEntryStart
  split <;> simp
@[simp] theorem execCalLate_fixed (kind : Fin 8) (target : Fin 256) (s : State) : fixedOf (execCalLate kind target s) = some s.fixed := by
  unfold execCalLate
  split <;> simp
@[simp] theorem State.timingPass_fixed (s : State) (c : Nat) (cells : Nat) :
    (s.timingPass c cells).fixed = s.fixed := by simp [State.timingPass]
@[simp] theorem State.dcPass_fixed (s : State) (c cmp seg : Nat) : (s.dcPass c cmp seg).fixed = s.fixed := by simp [State.dcPass]
@[simp] theorem State.closingPass_fixed (s : State) (c : Nat) : (s.closingPass c).fixed = s.fixed := by simp [State.closingPass]
@[simp] theorem State.persist_fixed (s : State) (fs : List Field) : (s.persist fs).fixed = s.fixed := by simp [State.persist]
@[simp] theorem State.calRange_fixed (s : State) (c : Nat) : (s.calRange c).fixed = s.fixed := by simp [State.calRange]
@[simp] theorem execCalEnd_fixed (kind : Fin 8) (target : Fin 256) (range : Bool) (cells : BitVec 48) (cmp : BitVec 4) (seg : BitVec 27)
    (vref : BitVec 16) (s : State) :
    fixedOf (execCalEnd kind target range cells cmp seg vref s) = some s.fixed := by
  simp only [execCalEnd]
  split <;> simp
@[simp] theorem State.freeSpare_fixed (s : State) (c : Nat) : (s.freeSpare c).fixed = s.fixed := by
  unfold State.freeSpare
  split <;> simp
@[simp] theorem State.serve_fixed (s : State) (c elem : Nat) : (s.serve c elem).fixed = s.fixed := by simp [State.serve]
@[simp] theorem execGraftEnd_fixed (ch : Fin 256) (result : Fin 5) (cells : BitVec 48) (cmp : BitVec 4) (seg : BitVec 27)
    (vref : BitVec 16) (s : State) :
    fixedOf (execGraftEnd ch result cells cmp seg vref s) = some s.fixed := by
  simp only [execGraftEnd]
  split <;> simp

/-! ## The closed-loop engine -/

@[simp] theorem State.cleRefuse_fixed (s : State) : (s.cleRefuse).fixed = s.fixed := by simp [State.cleRefuse]
@[simp] theorem effLbTake_fixed (req : Req) (port : Fin 4) (s : State) :
    fixedOf (effLbTake req port s) = some s.fixed := by simp [effLbTake]
@[simp] theorem execLbTake_fixed (req : Req) (port : Fin 4) (s : State) :
    fixedOf (execLbTake req port s) = some s.fixed := by simp [execLbTake]
@[simp] theorem effLbRelease_fixed (req : Req) (port : Fin 4) (s : State) :
    fixedOf (effLbRelease req port s) = some s.fixed := by simp [effLbRelease]
@[simp] theorem execLbRelease_fixed (req : Req) (port : Fin 4) (s : State) :
    fixedOf (execLbRelease req port s) = some s.fixed := by simp [execLbRelease]
@[simp] theorem effLbEnable_fixed (req : Req) (port : Fin 4) (data : BitVec 32) (s : State) :
    fixedOf (effLbEnable req port data s) = some s.fixed := by simp [effLbEnable]
@[simp] theorem execLbEnable_fixed (req : Req) (port : Fin 4) (data : BitVec 32) (s : State) :
    fixedOf (execLbEnable req port data s) = some s.fixed := by simp [execLbEnable]
@[simp] theorem effLbHostTxWrite_fixed (port : Fin 4) (data : BitVec 32) (s : State) :
    fixedOf (effLbHostTxWrite port data s) = some s.fixed := by
  simp only [effLbHostTxWrite, fixedOf_next]
  rw [State.inDomain_fixed _ _ _ fun t => by simp]
@[simp] theorem execLbHostTxWrite_fixed (port : Fin 4) (data : BitVec 32) (s : State) :
    fixedOf (execLbHostTxWrite port data s) = some s.fixed := by simp [execLbHostTxWrite]
@[simp] theorem State.lbTransfer_fixed (s : State) (p i rx : Nat) : (s.lbTransfer p i rx).fixed = s.fixed := by
  unfold State.lbTransfer
  split <;> simp
@[simp] theorem execLbTransaction_fixed (port : Fin 4) (rx : BitVec 40) (s : State) :
    fixedOf (execLbTransaction port rx s) = some s.fixed := by simp [execLbTransaction]
@[simp] theorem State.loopRefuse_fixed (s : State) (n code : Nat) : (s.loopRefuse n code).fixed = s.fixed := by simp [State.loopRefuse]
@[simp] theorem State.copyOut_fixed (s : State) (n : Nat) : (s.copyOut n).fixed = s.fixed := by simp [State.copyOut]
@[simp] theorem State.setMode_fixed (s : State) (n mode : Nat) : (s.setMode n mode).fixed = s.fixed := by simp [State.setMode]
@[simp] theorem State.loopOff_fixed (s : State) (n : Nat) : (s.loopOff n).fixed = s.fixed := by
  simp only [State.loopOff]
  split <;> simp
@[simp] theorem State.handBack_fixed (s : State) (n : Nat) : (s.handBack n).fixed = s.fixed := by simp [State.handBack]
@[simp] theorem State.enterMode_fixed (s : State) (n old mode : Nat) : (s.enterMode n old mode).fixed = s.fixed := by simp [State.enterMode]
@[simp] theorem State.modeWrite_fixed (s : State) (n mode : Nat) : (s.modeWrite n mode).fixed = s.fixed := by simp [State.modeWrite]
@[simp] theorem State.loopOwned_fixed (s : State) (r : Req) (n : Nat) (k : State → State) (h : ∀ t : State, (k t).fixed = t.fixed) :
    (s.loopOwned r n k).fixed = s.fixed := State.inDomain_fixed _ _ _ fun t => by simp [h]
@[simp] theorem effLoopTake_fixed (req : Req) (loop : Fin 64) (s : State) :
    fixedOf (effLoopTake req loop s) = some s.fixed := by simp [effLoopTake]
@[simp] theorem execLoopTake_fixed (req : Req) (loop : Fin 64) (s : State) :
    fixedOf (execLoopTake req loop s) = some s.fixed := by simp [execLoopTake]
@[simp] theorem effLoopRelease_fixed (req : Req) (loop : Fin 64) (s : State) :
    fixedOf (effLoopRelease req loop s) = some s.fixed := by simp [effLoopRelease]
@[simp] theorem execLoopRelease_fixed (req : Req) (loop : Fin 64) (s : State) :
    fixedOf (execLoopRelease req loop s) = some s.fixed := by simp [execLoopRelease]
@[simp] theorem effLoopModeWrite_fixed (req : Req) (loop : Fin 64) (mode : Fin 4) (s : State) :
    fixedOf (effLoopModeWrite req loop mode s) = some s.fixed := by simp [effLoopModeWrite]
@[simp] theorem execLoopModeWrite_fixed (req : Req) (loop : Fin 64) (mode : Fin 4) (s : State) :
    fixedOf (execLoopModeWrite req loop mode s) = some s.fixed := by simp [execLoopModeWrite]
@[simp] theorem effLoopApply_fixed (req : Req) (loop : Fin 64) (bumpless : Bool) (s : State) :
    fixedOf (effLoopApply req loop bumpless s) = some s.fixed := by simp [effLoopApply]
@[simp] theorem execLoopApply_fixed (req : Req) (loop : Fin 64) (bumpless : Bool) (s : State) :
    fixedOf (execLoopApply req loop bumpless s) = some s.fixed := by simp [execLoopApply]
@[simp] theorem State.holdFault_fixed (s : State) (n cause src : Nat) :
    (s.holdFault n cause src).fixed = s.fixed := by simp [State.holdFault]
@[simp] theorem State.loopInvalid_fixed (s : State) (n : Nat) : (s.loopInvalid n).fixed = s.fixed := by simp [State.loopInvalid]
@[simp] theorem State.loopValid_fixed (s : State) (n : Nat) (raw : Int) : (s.loopValid n raw).fixed = s.fixed := by simp [State.loopValid]
@[simp] theorem State.evalFrame_fixed (s : State) (n : Nat) : (s.evalFrame n).fixed = s.fixed := by simp [State.evalFrame]
@[simp] theorem execLoopEvaluate_fixed (loop : Fin 64) (s : State) : fixedOf (execLoopEvaluate loop s) = some s.fixed := by
  simp only [execLoopEvaluate]
  repeat' split
  all_goals simp
@[simp] theorem State.thermalStatus_fixed (s : State) (t : Nat) : (s.thermalStatus t).fixed = s.fixed := by simp [State.thermalStatus]
@[simp] theorem execThermalFrame_fixed (tile : Fin 8) (ptile : BitVec 32) (s : State) :
    fixedOf (execThermalFrame tile ptile s) = some s.fixed := by simp [execThermalFrame]
@[simp] theorem execTempSettled_fixed (s : State) : fixedOf (execTempSettled s) = some s.fixed := by simp [execTempSettled]
@[simp] theorem execCoarseLoopUnlock_fixed (s : State) : fixedOf (execCoarseLoopUnlock s) = some s.fixed := by simp [execCoarseLoopUnlock]
@[simp] theorem execCoarseLoopLock_fixed (s : State) : fixedOf (execCoarseLoopLock s) = some s.fixed := by simp [execCoarseLoopLock]

/-! ## The vector clock and the Trellis -/

@[simp] theorem State.toBudding_fixed (s : State) : (s.toBudding).fixed = s.fixed := by simp [State.toBudding]
@[simp] theorem effHbcInserviceSet_fixed (req : Req) (trained : Bool) (s : State) :
    fixedOf (effHbcInserviceSet req trained s) = some s.fixed := by simp [effHbcInserviceSet]
@[simp] theorem execHbcInserviceSet_fixed (req : Req) (trained : Bool) (s : State) :
    fixedOf (execHbcInserviceSet req trained s) = some s.fixed := by simp [execHbcInserviceSet]
@[simp] theorem State.startRelock_fixed (s : State) (v : VSet) : (s.startRelock v).fixed = s.fixed := by simp [State.startRelock]
@[simp] theorem effRelock_fixed (s : State) : fixedOf (effRelock s) = some s.fixed := by simp [effRelock]
@[simp] theorem execRelock_fixed (s : State) : fixedOf (execRelock s) = some s.fixed := by simp [execRelock]
@[simp] theorem State.revalidated_fixed (s : State) (bad : List Nat) : (s.revalidated bad).fixed = s.fixed := by simp [State.revalidated]
@[simp] theorem execRevalDone_fixed (badTs badLs : List (BitVec 28)) (s : State) :
    fixedOf (execRevalDone badTs badLs s) = some s.fixed := by simp [execRevalDone]
@[simp] theorem execVclkUnlock_fixed (s : State) : fixedOf (execVclkUnlock s) = some s.fixed := by simp [execVclkUnlock]
@[simp] theorem State.relocked_fixed (s : State) : (s.relocked).fixed = s.fixed := by simp [State.relocked]
@[simp] theorem execGateOpen_fixed (s : State) : fixedOf (execGateOpen s) = some s.fixed := by simp [execGateOpen]
@[simp] theorem effGateHold_fixed (hold : Bool) (s : State) : fixedOf (effGateHold hold s) = some s.fixed := by simp [effGateHold]
@[simp] theorem execGateHold_fixed (hold : Bool) (s : State) : fixedOf (execGateHold hold s) = some s.fixed := by simp [execGateHold]
@[simp] theorem execRefLoss_fixed (s : State) : fixedOf (execRefLoss s) = some s.fixed := by simp [execRefLoss]
@[simp] theorem execRefBack_fixed (s : State) : fixedOf (execRefBack s) = some s.fixed := by simp [execRefBack]
@[simp] theorem execOvenOkRise_fixed (s : State) : fixedOf (execOvenOkRise s) = some s.fixed := by simp [execOvenOkRise]
@[simp] theorem execWarmupDone_fixed (s : State) : fixedOf (execWarmupDone s) = some s.fixed := by simp [execWarmupDone]
@[simp] theorem execOvenLow_fixed (s : State) : fixedOf (execOvenLow s) = some s.fixed := by simp [execOvenLow]
@[simp] theorem State.ownRoot_fixed (s : State) : (s.ownRoot).fixed = s.fixed := by simp [State.ownRoot]
@[simp] theorem State.dissolve_fixed (s : State) : (s.dissolve).fixed = s.fixed := by simp [State.dissolve]
@[simp] theorem effForm_fixed (s : State) : fixedOf (effForm s) = some s.fixed := by simp [effForm]
@[simp] theorem execForm_fixed (s : State) : fixedOf (execForm s) = some s.fixed := by simp [execForm]
@[simp] theorem execDiscoveryReceive_fixed (port : Fin 4) (depth : Fin 16) (beyond : Bool) (s : State) :
    fixedOf (execDiscoveryReceive port depth beyond s) = some s.fixed := by simp [execDiscoveryReceive]
@[simp] theorem execLinkMeasure_fixed (port : Fin 4) (raw : BitVec 16) (s : State) :
    fixedOf (execLinkMeasure port raw s) = some s.fixed := by
  simp only [execLinkMeasure]
  split <;> simp
@[simp] theorem execIdAssignReceive_fixed (taken : List (BitVec 13)) (s : State) :
    fixedOf (execIdAssignReceive taken s) = some s.fixed := by simp [execIdAssignReceive]
@[simp] theorem execHReceive_fixed (h : Fin 9) (down : BitVec 4) (s : State) : fixedOf (execHReceive h down s) = some s.fixed := by
  unfold execHReceive
  split <;> simp
@[simp] theorem execGcPathProbe_fixed (m : BitVec 16) (s : State) :
    fixedOf (execGcPathProbe m s) = some s.fixed := by simp [execGcPathProbe]
@[simp] theorem State.setDet_fixed (s : State) : (s.setDet).fixed = s.fixed := by simp [State.setDet]
@[simp] theorem State.setRoutes_fixed (s : State) (routes : List (BitVec 13 × Fin 4)) :
    (s.setRoutes routes).fixed = s.fixed := by simp [State.setRoutes]
@[simp] theorem execFormationDone_fixed (conflict : Bool) (size leftOut : BitVec 14) (routes : List (BitVec 13 × Fin 4)) (s : State) :
    fixedOf (execFormationDone conflict size leftOut routes s) = some s.fixed := by simp [execFormationDone]
@[simp] theorem State.takeStart_fixed (s : State) (lead epoch gvc cfg frac : Nat) :
    (s.takeStart lead epoch gvc cfg frac).fixed = s.fixed := by simp [State.takeStart]
@[simp] theorem State.groupStart_fixed (s : State) : (s.groupStart).fixed = s.fixed := by simp [State.groupStart]
@[simp] theorem effGroupStart_fixed (s : State) : fixedOf (effGroupStart s) = some s.fixed := by simp [effGroupStart]
@[simp] theorem execGroupStart_fixed (s : State) : fixedOf (execGroupStart s) = some s.fixed := by simp [execGroupStart]
@[simp] theorem execSyncInStart_fixed (s : State) : fixedOf (execSyncInStart s) = some s.fixed := by simp [execSyncInStart]
@[simp] theorem execStartReceive_fixed (lead : BitVec 16) (gvc : Gvc) (cfg frac : BitVec 32) (s : State) :
    fixedOf (execStartReceive lead gvc cfg frac s) = some s.fixed := by simp [execStartReceive]
@[simp] theorem State.resetDividers_fixed (s : State) (m : StartMsg) : (s.resetDividers m).fixed = s.fixed := by simp [State.resetDividers]
@[simp] theorem execStartDividerReset_fixed (s : State) : fixedOf (execStartDividerReset s) = some s.fixed := by
  unfold execStartDividerReset
  split <;> simp
@[simp] theorem State.openInSync_fixed (s : State) (m : StartMsg) (lockHeld : Bool) : (s.openInSync m lockHeld).fixed = s.fixed := by
  unfold State.openInSync
  extract_lets v _ s0 w _ s1 s2 k a u1 _ u2 u3 _ u4
  have h0 : s0.fixed = s.fixed := rfl
  have hs2 : s2.fixed = s0.fixed := by simp only [s2, s1, w, State.event_fixed, State.put_fixed, State.fixed_mk, State.fixed_eta, State.waitRc_fixed]
  have hu2 : u2.fixed = s0.fixed := by simp only [u2, u1, State.fixed_mk, State.fixed_eta, State.relocked_fixed, State.waitRc_fixed]
  have hu4 : u4.fixed = u2.fixed := by simp only [u4, u3, State.fixed_mk, State.fixed_eta, State.put_fixed, State.openGate_fixed]
  split
  · split <;> simp [hs2, h0]
  · split <;> simp [hu2, hu4, h0]
@[simp] theorem execGroupGateOpen_fixed (lockHeld : Bool) (nosync : BitVec 14) (s : State) :
    fixedOf (execGroupGateOpen lockHeld nosync s) = some s.fixed := by
  unfold execGroupGateOpen
  split <;> simp
@[simp] theorem effJoin_fixed (inSync tooDeep : Bool) (s : State) : fixedOf (effJoin inSync tooDeep s) = some s.fixed := by simp [effJoin]
@[simp] theorem execJoin_fixed (inSync tooDeep : Bool) (s : State) :
    fixedOf (execJoin inSync tooDeep s) = some s.fixed := by simp [execJoin]
@[simp] theorem execJoinReceive_fixed (lead : BitVec 64) (epoch : BitVec 64) (gvc : Gvc) (cfg frac : BitVec 32) (s : State) :
    fixedOf (execJoinReceive lead epoch gvc cfg frac s) = some s.fixed := by simp [execJoinReceive]
@[simp] theorem execJoinAlign_fixed (lockHeld : Bool) (s : State) : fixedOf (execJoinAlign lockHeld s) = some s.fixed := by
  unfold execJoinAlign
  split <;> simp
@[simp] theorem State.hopSlip_fixed (s : State) : (s.hopSlip).fixed = s.fixed := by simp [State.hopSlip]
@[simp] theorem execHopSlip_fixed (here : Bool) (s : State) : fixedOf (execHopSlip here s) = some s.fixed := by simp [execHopSlip]
@[simp] theorem execTrellisDown_fixed (here : Bool) (s : State) :
    fixedOf (execTrellisDown here s) = some s.fixed := by simp [execTrellisDown]
@[simp] theorem execSyncSkew_fixed (skew : BitVec 16) (s : State) : fixedOf (execSyncSkew skew s) = some s.fixed := by simp [execSyncSkew]
@[simp] theorem effFrzThaw_fixed (s : State) : fixedOf (effFrzThaw s) = some s.fixed := by
  simp only [effFrzThaw]
  repeat' split
  all_goals simp
@[simp] theorem execFrzThaw_fixed (s : State) : fixedOf (execFrzThaw s) = some s.fixed := by simp [execFrzThaw]

/-! ## Feeding the shadow and the pauses -/

@[simp] theorem State.fillShadow_fixed (s : State) (c : Nat) : (s.fillShadow c).fixed = s.fixed := by
  unfold State.fillShadow
  split <;> simp
@[simp] theorem State.deferPause_fixed (s : State) (c : Nat) : (s.deferPause c).fixed = s.fixed := by simp [State.deferPause]
@[simp] theorem execRetrainPauseStart_fixed (ch : Fin 32) (slots : Fin 3) (s : State) :
    fixedOf (execRetrainPauseStart ch slots s) = some s.fixed := by
  simp only [execRetrainPauseStart]
  repeat' split
  all_goals simp

/-! ## The links -/

@[simp] theorem State.setPort_fixed (s : State) (p : Nat) (v : Port) : (s.setPort p v).fixed = s.fixed := by simp [State.setPort]
@[simp] theorem State.setLanes_fixed (s : State) (p lanes : Nat) : (s.setLanes p lanes).fixed = s.fixed := by simp [State.setLanes]
@[simp] theorem State.changeWidth_fixed (s : State) (p lanes : Nat) : (s.changeWidth p lanes).fixed = s.fixed := by simp [State.changeWidth]
@[simp] theorem State.numberFlit_fixed (s : State) (p : Nat) (m : TxMsg) : (s.numberFlit p m).fixed = s.fixed := by simp [State.numberFlit]
@[simp] theorem State.proposeNow_fixed (s : State) (p lanes : Nat) : (s.proposeNow p lanes).fixed = s.fixed := by simp [State.proposeNow]
@[simp] theorem State.propose_fixed (s : State) (p lanes : Nat) : (s.propose p lanes).fixed = s.fixed := by
  unfold State.propose
  split <;> simp
@[simp] theorem State.passSwitch_fixed (s : State) (p : Nat) : (s.passSwitch p).fixed = s.fixed := by
  simp only [State.passSwitch]
  split <;> simp
@[simp] theorem State.sendFlit_fixed (s : State) (p : Nat) (m : TxMsg) : (s.sendFlit p m).fixed = s.fixed := by simp [State.sendFlit]
@[simp] theorem State.sendWaiting_fixed (s : State) (p : Nat) : (s.sendWaiting p).fixed = s.fixed := by simp [State.sendWaiting]
@[simp] theorem State.tryFallow_fixed (s : State) (p : Nat) : (s.tryFallow p).fixed = s.fixed := by simp [State.tryFallow]
@[simp] theorem State.ackFlits_fixed (s : State) (p a : Nat) : (s.ackFlits p a).fixed = s.fixed := by
  simp only [State.ackFlits]
  split <;> simp
@[simp] theorem State.startTraining_fixed (s : State) (p : Nat) : (s.startTraining p).fixed = s.fixed := by simp [State.startTraining]
@[simp] theorem State.askRetrain_fixed (s : State) (p : Nat) : (s.askRetrain p).fixed = s.fixed := by simp [State.askRetrain]
@[simp] theorem State.retrain_fixed (s : State) (p cause : Nat) : (s.retrain p cause).fixed = s.fixed := by simp [State.retrain]
@[simp] theorem State.crossRetrain_fixed (s : State) (p dev token : Nat) : (s.crossRetrain p dev token).fixed = s.fixed := by
  unfold State.crossRetrain
  split <;> simp
@[simp] theorem State.nak_fixed (s : State) (p a : Nat) : (s.nak p a).fixed = s.fixed := by simp [State.nak]
@[simp] theorem State.refuseFlit_fixed (s : State) (p : Nat) (again : Bool) :
    (s.refuseFlit p again).fixed = s.fixed := by simp [State.refuseFlit]
@[simp] theorem execFlitReceive_fixed (port : Fin 4) (flit : BitVec 512) (s : State) :
    fixedOf (execFlitReceive port flit s) = some s.fixed := by simp [execFlitReceive]
@[simp] theorem execNakReceive_fixed (port : Fin 4) (ack : BitVec 12) (s : State) :
    fixedOf (execNakReceive port ack s) = some s.fixed := by simp [execNakReceive]
@[simp] theorem execLinkDetect_fixed (port : Fin 4) (s : State) : fixedOf (execLinkDetect port s) = some s.fixed := by simp [execLinkDetect]
@[simp] theorem State.portActive_fixed (s : State) (p lanes : Nat) : (s.portActive p lanes).fixed = s.fixed := by
  simp only [State.portActive]
  split <;> simp
@[simp] theorem execLinkTrainDone_fixed (port : Fin 4) (lanes : BitVec 4) (lmap : BitVec 8) (pol : BitVec 4) (taps : BitVec 44)
    (rx : BitVec 68) (s : State) :
    fixedOf (execLinkTrainDone port lanes lmap pol taps rx s) = some s.fixed := by simp [execLinkTrainDone]
@[simp] theorem effLinkRetrain_fixed (port : Fin 4) (s : State) : fixedOf (effLinkRetrain port s) = some s.fixed := by simp [effLinkRetrain]
@[simp] theorem execLinkRetrain_fixed (port : Fin 4) (partner : Bool) (dev : BitVec 13) (token : BitVec 16) (s : State) :
    fixedOf (execLinkRetrain port partner dev token s) = some s.fixed := by simp [execLinkRetrain]
@[simp] theorem execLinkLockLoss_fixed (port lane : Fin 4) (errs : BitVec 32) (s : State) :
    fixedOf (execLinkLockLoss port lane errs s) = some s.fixed := by simp [execLinkLockLoss]
@[simp] theorem State.crossWidth_fixed (s : State) (p : Nat) (w : Switch) (lanes switch dev token : Nat) :
    (s.crossWidth p w lanes switch dev token).fixed = s.fixed := by
  unfold State.crossWidth
  split <;> simp
@[simp] theorem State.takeProposal_fixed (s : State) (p lanes switch dev token : Nat) :
    (s.takeProposal p lanes switch dev token).fixed = s.fixed := by
  simp only [State.takeProposal]
  split <;> simp
@[simp] theorem execWidthProposalReceive_fixed (port : Fin 4) (refusal : Bool) (lanes : BitVec 4) (switch : BitVec 12) (dev : BitVec 13)
    (token : BitVec 16) (s : State) :
    fixedOf (execWidthProposalReceive port refusal lanes switch dev token s) = some s.fixed := by simp [execWidthProposalReceive]
@[simp] theorem execLaneDrop_fixed (port lane : Fin 4) (lanes : BitVec 4) (errs : BitVec 32) (s : State) :
    fixedOf (execLaneDrop port lane lanes errs s) = some s.fixed := by simp [execLaneDrop]
@[simp] theorem execLaneRestore_fixed (port lane : Fin 4) (lanes : BitVec 4) (s : State) :
    fixedOf (execLaneRestore port lane lanes s) = some s.fixed := by simp [execLaneRestore]
@[simp] theorem effFallowRequest_fixed (port : Fin 4) (leave : Bool) (s : State) :
    fixedOf (effFallowRequest port leave s) = some s.fixed := by simp [effFallowRequest]
@[simp] theorem execFallowRequest_fixed (port : Fin 4) (partner leave : Bool) (s : State) :
    fixedOf (execFallowRequest port partner leave s) = some s.fixed := by simp [execFallowRequest]
@[simp] theorem State.leaveFallow_fixed (s : State) (p : Nat) : (s.leaveFallow p).fixed = s.fixed := by simp [State.leaveFallow]
@[simp] theorem effFallowWake_fixed (port : Fin 4) (s : State) : fixedOf (effFallowWake port s) = some s.fixed := by simp [effFallowWake]
@[simp] theorem execFallowWake_fixed (port : Fin 4) (s : State) : fixedOf (execFallowWake port s) = some s.fixed := by simp [execFallowWake]
@[simp] theorem execSquelchWake_fixed (port : Fin 4) (s : State) :
    fixedOf (execSquelchWake port s) = some s.fixed := by simp [execSquelchWake]
@[simp] theorem execFallowExitTimeout_fixed (port : Fin 4) (s : State) :
    fixedOf (execFallowExitTimeout port s) = some s.fixed := by simp [execFallowExitTimeout]
@[simp] theorem effPortTest_fixed (port : Fin 4) (test : Bool) (s : State) :
    fixedOf (effPortTest port test s) = some s.fixed := by simp [effPortTest]
@[simp] theorem execPortTest_fixed (port : Fin 4) (test : Bool) (s : State) :
    fixedOf (execPortTest port test s) = some s.fixed := by simp [execPortTest]
@[simp] theorem effPrbsCtrlWrite_fixed (port lane : Fin 4) (data : BitVec 32) (s : State) :
    fixedOf (effPrbsCtrlWrite port lane data s) = some s.fixed := by simp [effPrbsCtrlWrite]
@[simp] theorem execPrbsCtrlWrite_fixed (port lane : Fin 4) (data : BitVec 32) (s : State) :
    fixedOf (execPrbsCtrlWrite port lane data s) = some s.fixed := by simp [execPrbsCtrlWrite]
@[simp] theorem execPrbsCheckerSync_fixed (port lane : Fin 4) (nbits : BitVec 48) (errs : BitVec 32) (s : State) :
    fixedOf (execPrbsCheckerSync port lane nbits errs s) = some s.fixed := by simp [execPrbsCheckerSync]
@[simp] theorem effTxeqWrite_fixed (port lane : Fin 4) (data : BitVec 32) (s : State) :
    fixedOf (effTxeqWrite port lane data s) = some s.fixed := by simp [effTxeqWrite]
@[simp] theorem execTxeqWrite_fixed (port lane : Fin 4) (data : BitVec 32) (s : State) :
    fixedOf (execTxeqWrite port lane data s) = some s.fixed := by simp [execTxeqWrite]
@[simp] theorem execTrellisBlockReceive_fixed (port : Fin 4) (first second : BitVec 256) (s : State) :
    fixedOf (execTrellisBlockReceive port first second s) = some s.fixed := by simp [execTrellisBlockReceive]
@[simp] theorem execPcieDown_fixed (s : State) : fixedOf (execPcieDown s) = some s.fixed := by simp [execPcieDown]
@[simp] theorem execPcieLinkUp_fixed (flit reversed : Bool) (rate : Fin 8) (width : Fin 16) (pol : BitVec 8) (s : State) :
    fixedOf (execPcieLinkUp flit reversed rate width pol s) = some s.fixed := by simp [execPcieLinkUp]
@[simp] theorem execPcieL12Entry_fixed (d3hot : Bool) (s : State) :
    fixedOf (execPcieL12Entry d3hot s) = some s.fixed := by simp [execPcieL12Entry]
@[simp] theorem execPcieL12Exit_fixed (d3hot : Bool) (s : State) :
    fixedOf (execPcieL12Exit d3hot s) = some s.fixed := by simp [execPcieL12Exit]

/-! ## Wall time -/

@[simp] theorem effWtmSet_fixed (s : State) : fixedOf (effWtmSet s) = some s.fixed := by simp [effWtmSet]
@[simp] theorem execWtmSet_fixed (s : State) : fixedOf (execWtmSet s) = some s.fixed := by simp [execWtmSet]
@[simp] theorem effWtmAdj_fixed (data : BitVec 32) (s : State) : fixedOf (effWtmAdj data s) = some s.fixed := by simp [effWtmAdj]
@[simp] theorem execWtmAdj_fixed (data : BitVec 32) (s : State) : fixedOf (execWtmAdj data s) = some s.fixed := by simp [execWtmAdj]
@[simp] theorem effWtmIncWrite_fixed (data : BitVec 32) (s : State) :
    fixedOf (effWtmIncWrite data s) = some s.fixed := by simp [effWtmIncWrite]
@[simp] theorem execWtmIncWrite_fixed (data : BitVec 32) (s : State) :
    fixedOf (execWtmIncWrite data s) = some s.fixed := by simp [execWtmIncWrite]
@[simp] theorem State.latchNow_fixed (s : State) (req : Req) : (s.latchNow req).fixed = s.fixed := by simp [State.latchNow]
@[simp] theorem execWtmNowLatch_fixed (req : Req) (s : State) : fixedOf (execWtmNowLatch req s) = some s.fixed := by simp [execWtmNowLatch]
@[simp] theorem execTimeSend_fixed (s : State) : fixedOf (execTimeSend s) = some s.fixed := by simp [execTimeSend]
@[simp] theorem execTimeReceive_fixed (seq : BitVec 16) (sec : BitVec 48) (ns : BitVec 32) (frac : BitVec 16) (corr : BitVec 48)
    (residence : BitVec 16) (s : State) :
    fixedOf (execTimeReceive seq sec ns frac corr residence s) = some s.fixed := by simp [execTimeReceive]
@[simp] theorem execWtmSyncTimeout_fixed (s : State) : fixedOf (execWtmSyncTimeout s) = some s.fixed := by simp [execWtmSyncTimeout]
@[simp] theorem execExtTrigStamp_fixed (input : Fin 8) (rising : Bool) (sixteenths : Fin 160) (s : State) :
    fixedOf (execExtTrigStamp input rising sixteenths s) = some s.fixed := by simp [execExtTrigStamp]

/-! ## Rootstock and the Scions -/

@[simp] theorem State.putAttr_fixed (s : State) (standby : Bool) (c k attr : Nat) (en : Bool) :
    (s.putAttr standby c k attr en).fixed = s.fixed := by simp [State.putAttr]
@[simp] theorem effPlotWrite_fixed (req : Req) (core : Fin 16) (standby : Bool) (plot : Fin 8) (data : BitVec 32) (s : State) :
    fixedOf (effPlotWrite req core standby plot data s) = some s.fixed := by simp [effPlotWrite]
@[simp] theorem execPlotWrite_fixed (req : Req) (core : Fin 16) (standby : Bool) (plot : Fin 8) (data : BitVec 32) (s : State) :
    fixedOf (execPlotWrite req core standby plot data s) = some s.fixed := by simp [execPlotWrite]
@[simp] theorem execPlotAccessFault_fixed (core : Fin 16) (kind : Access) (addr : BitVec 40) (bytes : Fin 65) (pc : BitVec 64) (s : State) :
    fixedOf (execPlotAccessFault core kind addr bytes pc s) = some s.fixed := by simp [execPlotAccessFault]
@[simp] theorem execInterruptPending_fixed (core : Fin 17) (input : Fin 336) (s : State) :
    fixedOf (execInterruptPending core input s) = some s.fixed := by
  simp only [execInterruptPending]
  split <;> simp
@[simp] theorem execInterruptClaim_fixed (core : Fin 17) (s : State) : fixedOf (execInterruptClaim core s) = some s.fixed := by
  simp only [execInterruptClaim]
  split <;> simp
@[simp] theorem execInterruptComplete_fixed (core : Fin 17) (value : BitVec 32) (s : State) :
    fixedOf (execInterruptComplete core value s) = some s.fixed := by simp [execInterruptComplete]
@[simp] theorem effDoorbell_fixed (req : Req) (core : Fin 16) (data : BitVec 32) (s : State) :
    fixedOf (effDoorbell req core data s) = some s.fixed := by simp [effDoorbell]
@[simp] theorem execDoorbell_fixed (req : Req) (core : Fin 16) (data : BitVec 32) (s : State) :
    fixedOf (execDoorbell req core data s) = some s.fixed := by simp [execDoorbell]
@[simp] theorem State.raiseRollback_fixed (s : State) (cls : Nat) (img : List (BitVec 8)) :
    (s.raiseRollback cls img).fixed = s.fixed := by simp [State.raiseRollback]
@[simp] theorem State.setDepth_fixed (s : State) (c d : Nat) : (s.setDepth c d).fixed = s.fixed := by simp [State.setDepth]
@[simp] theorem State.writeWrec_fixed (s : State) (c : Nat) : (s.writeWrec c).fixed = s.fixed := by simp [State.writeWrec]
@[simp] theorem State.wiltEntry_fixed (s : State) (c : Nat) : (s.wiltEntry c).fixed = s.fixed := by simp [State.wiltEntry]
@[simp] theorem State.beginRestart_fixed (s : State) (c : Nat) : (s.beginRestart c).fixed = s.fixed := by simp [State.beginRestart]
@[simp] theorem execScionRestartDone_fixed (core : Fin 16) (s : State) :
    fixedOf (execScionRestartDone core s) = some s.fixed := by simp [execScionRestartDone]
@[simp] theorem effScnRestart_fixed (req : Req) (core : Fin 16) (s : State) :
    fixedOf (effScnRestart req core s) = some s.fixed := by simp [effScnRestart]
@[simp] theorem execScnRestart_fixed (req : Req) (core : Fin 16) (s : State) :
    fixedOf (execScnRestart req core s) = some s.fixed := by simp [execScnRestart]
@[simp] theorem State.fwEnd_fixed (s : State) (result : Nat) : (s.fwEnd result).fixed = s.fixed := by simp [State.fwEnd]
@[simp] theorem State.passAuthority_fixed (s : State) : (s.passAuthority).fixed = s.fixed := by simp [State.passAuthority]
@[simp] theorem State.takeover_fixed (s : State) : (s.takeover).fixed = s.fixed := by simp [State.takeover]
@[simp] theorem execRscLockstep_fixed (standby : Bool) (s : State) : fixedOf (execRscLockstep standby s) = some s.fixed := by
  simp only [execRscLockstep]
  repeat' split
  all_goals simp
@[simp] theorem effRscWdogKick_fixed (req : Req) (s : State) : fixedOf (effRscWdogKick req s) = some s.fixed := by simp [effRscWdogKick]
@[simp] theorem execRscWdogKick_fixed (req : Req) (s : State) : fixedOf (execRscWdogKick req s) = some s.fixed := by simp [execRscWdogKick]
@[simp] theorem execRscWdogExpiry_fixed (s : State) : fixedOf (execRscWdogExpiry s) = some s.fixed := by simp [execRscWdogExpiry]

/-! ## Power states -/

@[simp] theorem State.pmgRefuse_fixed (s : State) (code : Nat) : (s.pmgRefuse code).fixed = s.fixed := by simp [State.pmgRefuse]
@[simp] theorem State.pmgRequest_fixed (s : State) (req : Req) (which : Nat) (k : State → State) (h : ∀ t : State, (k t).fixed = t.fixed) :
    (s.pmgRequest req which k).fixed = s.fixed := by simp [State.pmgRequest, h]
@[simp] theorem State.sink_fixed (s : State) : (s.sink).fixed = s.fixed := by simp [State.sink]
@[simp] theorem effPmgDormant_fixed (req : Req) (s : State) : fixedOf (effPmgDormant req s) = some s.fixed := by simp [effPmgDormant]
@[simp] theorem execPmgDormant_fixed (req : Req) (s : State) : fixedOf (execPmgDormant req s) = some s.fixed := by simp [execPmgDormant]
@[simp] theorem State.dormantDomains_fixed (s : State) : (s.dormantDomains).fixed = s.fixed := by simp [State.dormantDomains]
@[simp] theorem execSinkDone_fixed (s : State) : fixedOf (execSinkDone s) = some s.fixed := by simp [execSinkDone]
@[simp] theorem effPmgWake_fixed (req : Req) (s : State) : fixedOf (effPmgWake req s) = some s.fixed := by simp [effPmgWake]
@[simp] theorem execPmgWake_fixed (req : Req) (s : State) : fixedOf (execPmgWake req s) = some s.fixed := by simp [execPmgWake]
@[simp] theorem State.awakeDomains_fixed (s : State) : (s.awakeDomains).fixed = s.fixed := by simp [State.awakeDomains]
@[simp] theorem execWakeDone_fixed (s : State) : fixedOf (execWakeDone s) = some s.fixed := by simp [execWakeDone]
@[simp] theorem effPmgBudding_fixed (req : Req) (s : State) : fixedOf (effPmgBudding req s) = some s.fixed := by simp [effPmgBudding]
@[simp] theorem execPmgBudding_fixed (req : Req) (s : State) : fixedOf (execPmgBudding req s) = some s.fixed := by simp [execPmgBudding]
@[simp] theorem effPmgBloom_fixed (req : Req) (s : State) : fixedOf (effPmgBloom req s) = some s.fixed := by simp [effPmgBloom]
@[simp] theorem execPmgBloom_fixed (req : Req) (s : State) : fixedOf (execPmgBloom req s) = some s.fixed := by simp [execPmgBloom]
@[simp] theorem execBloomingDone_fixed (s : State) : fixedOf (execBloomingDone s) = some s.fixed := by simp [execBloomingDone]
@[simp] theorem execBloomIdleTimeout_fixed (s : State) : fixedOf (execBloomIdleTimeout s) = some s.fixed := by simp [execBloomIdleTimeout]
@[simp] theorem State.switchDom_fixed (s : State) (d : Nat) (on : Bool) : (s.switchDom d on).fixed = s.fixed := by simp [State.switchDom]
@[simp] theorem State.domBit_fixed (s : State) (d : Nat) (off : Bool) : (s.domBit d off).fixed = s.fixed := by simp [State.domBit]
@[simp] theorem effPmgDomOffWrite_fixed (req : Req) (word : Fin 2) (data : BitVec 32) (s : State) :
    fixedOf (effPmgDomOffWrite req word data s) = some s.fixed := by simp [effPmgDomOffWrite]
@[simp] theorem execPmgDomOffWrite_fixed (req : Req) (word : Fin 2) (data : BitVec 32) (s : State) :
    fixedOf (execPmgDomOffWrite req word data s) = some s.fixed := by simp [execPmgDomOffWrite]
@[simp] theorem State.overclass_fixed (s : State) (value : Nat) : (s.overclass value).fixed = s.fixed := by simp [State.overclass]
@[simp] theorem State.endSlot_fixed (s : State) (m : Nat) : (s.endSlot m).fixed = s.fixed := by simp [State.endSlot]
@[simp] theorem execPowerSlot_fixed (meas : BitVec 20) (s : State) : fixedOf (execPowerSlot meas s) = some s.fixed := by
  simp only [execPowerSlot]
  repeat' split
  all_goals simp
@[simp] theorem State.setTmax_fixed (s : State) : (s.setTmax).fixed = s.fixed := by simp [State.setTmax]
@[simp] theorem State.thermWarn_fixed (s : State) (d : Nat) : (s.thermWarn d).fixed = s.fixed := by simp [State.thermWarn]
@[simp] theorem State.thermStop_fixed (s : State) (d : Nat) : (s.thermStop d).fixed = s.fixed := by simp [State.thermStop]
@[simp] theorem State.thermEnds_fixed (s : State) : (s.thermEnds).fixed = s.fixed := by simp [State.thermEnds]
@[simp] theorem execTempSample_fixed (die : Fin 9) (fault : Bool) (temp : BitVec 16) (s : State) :
    fixedOf (execTempSample die fault temp s) = some s.fixed := by simp [execTempSample]
@[simp] theorem execThermTrip_fixed (die : Fin 9) (s : State) : fixedOf (execThermTrip die s) = some s.fixed := by simp [execThermTrip]

/-! ## Resets and boot -/

@[simp] theorem State.rstCause_fixed (s : State) (from_ : State) (kind src : Nat) :
    (s.rstCause from_ kind src).fixed = s.fixed := by simp [State.rstCause]
@[simp] theorem State.countReset_fixed (s : State) : (s.countReset).fixed = s.fixed := by simp [State.countReset]
@[simp] theorem State.bootScion_fixed (s : State) (c : Nat) : (s.bootScion c).fixed = s.fixed := by simp [State.bootScion]
@[simp] theorem State.boot_fixed (s : State) : (s.boot).fixed = s.fixed := by simp [State.boot]
@[simp] theorem State.checkSet_fixed (s : State) (n : Nat) (crcOk : Bool) : (s.checkSet n crcOk).fixed = s.fixed := by simp [State.checkSet]
@[simp] theorem State.rraEnd_fixed (s : State) (r : Req) (result : Nat) : (s.rraEnd r result).fixed = s.fixed := by simp [State.rraEnd]
@[simp] theorem State.rraAbort_fixed (s : State) : (s.rraAbort).fixed = s.fixed := by simp [State.rraAbort]
@[simp] theorem State.flrCap_fixed (s : State) : (s.flrCap).fixed = s.fixed := by simp [State.flrCap]
@[simp] theorem State.flrTiu_fixed (s : State) : (s.flrTiu).fixed = s.fixed := by simp [State.flrTiu]
@[simp] theorem State.flrOwners_fixed (s : State) : (s.flrOwners).fixed = s.fixed := by simp [State.flrOwners]
@[simp] theorem State.flr_fixed (s : State) : (s.flr).fixed = s.fixed := by simp [State.flr]
@[simp] theorem execFunctionLevelReset_fixed (s : State) :
    fixedOf (execFunctionLevelReset s) = some s.fixed := by simp [execFunctionLevelReset]
@[simp] theorem execPerstNAssert_fixed (s : State) : fixedOf (execPerstNAssert s) = some s.fixed := by
  have h : s.rraAbort.pins.inReset = s.pins.inReset := congrArg (·.2.2) s.rraAbort_fixed
  unfold execPerstNAssert
  split
  · rfl
  · simp [← h]
@[simp] theorem execPerstNRelease_fixed (s : State) : fixedOf (execPerstNRelease s) = some s.fixed := by simp [execPerstNRelease]

/-! ## Firmware -/

@[simp] theorem State.fwStart_fixed (s : State) (req : Req) (cmd tag : Nat) :
    (s.fwStart req cmd tag).fixed = s.fixed := by simp [State.fwStart]
@[simp] theorem State.fwResult_fixed (s : State) (r : Nat) : (s.fwResult r).fixed = s.fixed := by simp [State.fwResult]
@[simp] theorem State.fwBegin_fixed (s : State) (req : Req) (cmd tag : Nat) (k : State → State) (h : ∀ t : State, (k t).fixed = t.fixed) :
    (s.fwBegin req cmd tag k).fixed = s.fixed := by simp [State.fwBegin, h]
@[simp] theorem effFwStage_fixed (req : Req) (tag : BitVec 16) (s : State) :
    fixedOf (effFwStage req tag s) = some s.fixed := by simp [effFwStage]
@[simp] theorem execFwStage_fixed (req : Req) (tag : BitVec 16) (s : State) :
    fixedOf (execFwStage req tag s) = some s.fixed := by simp [execFwStage]
@[simp] theorem effFwSgraft_fixed (req : Req) (tag : BitVec 16) (s : State) :
    fixedOf (effFwSgraft req tag s) = some s.fixed := by simp [effFwSgraft]
@[simp] theorem execFwSgraft_fixed (req : Req) (tag : BitVec 16) (s : State) :
    fixedOf (execFwSgraft req tag s) = some s.fixed := by simp [execFwSgraft]
@[simp] theorem effFwHandover_fixed (req : Req) (tag : BitVec 16) (s : State) :
    fixedOf (effFwHandover req tag s) = some s.fixed := by simp [effFwHandover]
@[simp] theorem execFwHandover_fixed (req : Req) (tag : BitVec 16) (s : State) :
    fixedOf (execFwHandover req tag s) = some s.fixed := by simp [execFwHandover]
@[simp] theorem effFwKeyrec_fixed (req : Req) (tag : BitVec 16) (s : State) :
    fixedOf (effFwKeyrec req tag s) = some s.fixed := by simp [effFwKeyrec]
@[simp] theorem execFwKeyrec_fixed (req : Req) (tag : BitVec 16) (s : State) :
    fixedOf (execFwKeyrec req tag s) = some s.fixed := by simp [execFwKeyrec]
@[simp] theorem effFwSrestart_fixed (req : Req) (tag : BitVec 16) (s : State) :
    fixedOf (effFwSrestart req tag s) = some s.fixed := by simp [effFwSrestart]
@[simp] theorem execFwSrestart_fixed (req : Req) (tag : BitVec 16) (s : State) :
    fixedOf (execFwSrestart req tag s) = some s.fixed := by simp [execFwSrestart]
@[simp] theorem effFwQuery_fixed (req : Req) (tag : BitVec 16) (s : State) :
    fixedOf (effFwQuery req tag s) = some s.fixed := by simp [effFwQuery]
@[simp] theorem execFwQuery_fixed (req : Req) (tag : BitVec 16) (s : State) :
    fixedOf (execFwQuery req tag s) = some s.fixed := by simp [execFwQuery]
@[simp] theorem State.fwReserved_fixed (s : State) (req : Req) (cmd tag : Nat) :
    (s.fwReserved req cmd tag).fixed = s.fixed := by simp [State.fwReserved]
@[simp] theorem State.fwItem_fixed (s : State) (limit : Nat) : (s.fwItem limit).2.fixed = s.fixed := by
  simp only [State.fwItem]
  split
  · next h => exact State.fixed_of_hbmRead h
  · next h =>
    split
    all_goals next ht => rw [State.fixed_of_hbmRead ht, State.fixed_of_hbmRead h]
@[simp] theorem State.fwDoStage_fixed (s : State) : (s.fwDoStage).2.fixed = s.fixed := by simp [State.fwDoStage]
@[simp] theorem State.fwDoKeyrec_fixed (s : State) : (s.fwDoKeyrec).2.fixed = s.fixed := by simp [State.fwDoKeyrec]
@[simp] theorem State.fwDoSrestart_fixed (s : State) : (s.fwDoSrestart).2.fixed = s.fixed := by simp [State.fwDoSrestart]
@[simp] theorem State.fwDoQuery_fixed (s : State) : (s.fwDoQuery).fixed = s.fixed := by simp [State.fwDoQuery]
@[simp] theorem State.graftEnds_fixed (s : State) (r : Nat) : (s.graftEnds r).fixed = s.fixed := by simp [State.graftEnds]
@[simp] theorem State.swapPlots_fixed (s : State) (c : Nat) : (s.swapPlots c).fixed = s.fixed := by simp [State.swapPlots]
@[simp] theorem execScnGraftSwitch_fixed (core : Fin 16) (failed : Bool) (s : State) :
    fixedOf (execScnGraftSwitch core failed s) = some s.fixed := by
  simp only [execScnGraftSwitch]
  repeat' split
  all_goals simp
@[simp] theorem execHandoverStandbyReady_fixed (s : State) : fixedOf (execHandoverStandbyReady s) = some s.fixed := by
  unfold execHandoverStandbyReady
  split <;> simp
@[simp] theorem execHandoverCommit_fixed (s : State) : fixedOf (execHandoverCommit s) = some s.fixed := by simp [execHandoverCommit]

/-! ## The loaders -/

@[simp] theorem State.hbmPop_fixed (s : State) (p : Nat) (r : HbmReq) (rest : List HbmReq) :
    (s.hbmPop p r rest).fixed = s.fixed := by simp [State.hbmPop]
@[simp] theorem State.hbmAnswer_fixed (s : State) (p who : Nat) (d : Option (List (BitVec 8))) :
    (s.hbmAnswer p who d).fixed = s.fixed := by simp [State.hbmAnswer]
@[simp] theorem State.hbmFetch_fixed (s : State) (r : HbmReq) (err : Nat) : (s.hbmFetch r err).2.fixed = s.fixed := by simp [State.hbmFetch]

/-! ## Effects of reads -/

@[simp] theorem State.readEffect_fixed (s : State) (req : Req) (off : Nat) :
    (s.readEffect req off).fixed = s.fixed := by simp [State.readEffect]
@[simp] theorem State.takeHarvest_fixed (s : State) (h : Nat) : (s.takeHarvest h).fixed = s.fixed := by simp [State.takeHarvest]
@[simp] theorem execHarvestTake_fixed (s : State) : fixedOf (execHarvestTake s) = some s.fixed := by
  unfold execHarvestTake
  split
  · rfl
  · split
    · next hr => simp [State.fixed_of_reach hr]
    · rfl

/-! ## Register writes -/

@[simp] theorem State.run_fixed (s : State) (f : State → Out) (h : fixedOf (f s) = some s.fixed) : (s.run f).fixed = s.fixed := by
  unfold State.run
  split <;> simp_all
@[simp] theorem State.runBits_fixed (s : State) (w : Nat) (l : List (Nat × (State → Out))) (h : ∀ e ∈ l, ∀ t, fixedOf
    (e.2 t) = some t.fixed) :
    (s.runBits w l).fixed = s.fixed := by
  unfold State.runBits
  induction l generalizing s with
  | nil => rfl
  | cons e l ih => rw [List.foldl_cons, ih _ fun x hx => h x (List.mem_cons_of_mem _ hx)]; simp [h e List.mem_cons_self]
@[simp] theorem State.runFree_fixed (s : State) (f : Nat → State → Out) (h : ∀ v t, fixedOf (f v t) = some t.fixed) :
    (s.runFree f).fixed = s.fixed := by
  simp [State.runFree, h]
@[simp] theorem State.writeField_fixed (s : State) (req : Req) (d : RegDesc) (w : Nat) (f : FieldDesc) :
    (s.writeField req d w f).fixed = s.fixed := by
  unfold State.writeField
  split <;> simp
@[simp] theorem State.writeShadow_fixed (s : State) (cls x w : Nat) (fs : List FieldDesc) :
    (s.writeShadow cls x w fs).fixed = s.fixed := by simp [State.writeShadow]
@[simp] theorem State.writePlain_fixed (s : State) (req : Req) (x w : Nat) (d : RegDesc) (i j k : Nat) :
    (s.writePlain req x w d i j k).fixed = s.fixed := by
  unfold State.writePlain
  split <;> simp
@[simp] theorem State.writeGlb_fixed (s : State) (req : Req) (base w : Nat) {u : State} (h : u.fixed = s.fixed) :
    ((s.writeGlb req base w).getD u).fixed = s.fixed := by
  simp only [State.writeGlb]
  split
  · simp
  · split
    · split <;> simp
    · exact h
@[simp] theorem State.writeCmt_fixed (s : State) (base w : Nat) {u : State} (h : u.fixed = s.fixed) :
    ((s.writeCmt base w).getD u).fixed = s.fixed := by simp [State.writeCmt, getD_ite, h]
@[simp] theorem State.writeClk_fixed (s : State) (base w : Nat) {u : State} (h : u.fixed = s.fixed) :
    ((s.writeClk base w).getD u).fixed = s.fixed := by simp [State.writeClk, getD_ite, h]
@[simp] theorem State.writePmg_fixed (s : State) (req : Req) (base w : Nat) {u : State} (h : u.fixed = s.fixed) :
    ((s.writePmg req base w).getD u).fixed = s.fixed := by simp [State.writePmg, getD_ite, h]
@[simp] theorem State.writeSrcCfg_fixed (s : State) (req : Req) (i w : Nat) :
    (s.writeSrcCfg req i w).fixed = s.fixed := by simp [State.writeSrcCfg]
@[simp] theorem State.writeSeq_fixed (s : State) (base w : Nat) {u : State} (h : u.fixed = s.fixed) :
    ((s.writeSeq base w).getD u).fixed = s.fixed := by simp [State.writeSeq, getD_ite, h]
@[simp] theorem State.writeSeg_fixed (s : State) (req : Req) (base i w : Nat) {u : State} (h : u.fixed = s.fixed) :
    ((s.writeSeg req base i w).getD u).fixed = s.fixed := by simp [State.writeSeg, getD_ite, h]
@[simp] theorem State.writeApg_fixed (s : State) (base w : Nat) {u : State} (h : u.fixed = s.fixed) :
    ((s.writeApg base w).getD u).fixed = s.fixed := by simp [State.writeApg, getD_ite, h]
@[simp] theorem State.writeCap_fixed (s : State) (base w : Nat) {u : State} (h : u.fixed = s.fixed) :
    ((s.writeCap base w).getD u).fixed = s.fixed := by simp [State.writeCap, getD_ite, h]
@[simp] theorem State.writeTiuCtrl_fixed (s : State) (req : Req) (i w : Nat) :
    (s.writeTiuCtrl req i w).fixed = s.fixed := by simp [State.writeTiuCtrl]
@[simp] theorem State.writeTiu_fixed (s : State) (req : Req) (base i w : Nat) {u : State} (h : u.fixed = s.fixed) :
    ((s.writeTiu req base i w).getD u).fixed = s.fixed := by simp [State.writeTiu, getD_ite, h]
@[simp] theorem State.outsider_fixed (s : State) (req : Req) (x w m : Nat) (take granted : Bool) (count deny : State → State)
    (hc : ∀ t : State, (count t).fixed = t.fixed) (hd : ∀ t : State, (deny t).fixed = t.fixed) :
    (s.outsider req x w m take granted count deny).fixed = s.fixed := by simp [State.outsider, hc, hd]
@[simp] theorem State.writePmuCtrl_fixed (s : State) (req : Req) (i w : Nat) :
    (s.writePmuCtrl req i w).fixed = s.fixed := by simp [State.writePmuCtrl]
@[simp] theorem State.writePmu_fixed (s : State) (req : Req) (base i w : Nat) {u : State} (h : u.fixed = s.fixed) :
    ((s.writePmu req base i w).getD u).fixed = s.fixed := by simp [State.writePmu, getD_ite, h]
@[simp] theorem State.writeGrdStatus_fixed (s : State) (m w : Nat) :
    (s.writeGrdStatus m w).fixed = s.fixed := by simp [State.writeGrdStatus]
@[simp] theorem State.writeGrd_fixed (s : State) (req : Req) (base i w : Nat) {u : State} (h : u.fixed = s.fixed) :
    ((s.writeGrd req base i w).getD u).fixed = s.fixed := by simp [State.writeGrd, getD_ite, h]
@[simp] theorem State.writeSched_fixed (s : State) (req : Req) (p i w : Nat) :
    (s.writeSched req p i w).fixed = s.fixed := by simp [State.writeSched]
@[simp] theorem State.writeLbCtrl_fixed (s : State) (req : Req) (p w : Nat) :
    (s.writeLbCtrl req p w).fixed = s.fixed := by simp [State.writeLbCtrl]
@[simp] theorem State.writeLoopCtrl_fixed (s : State) (req : Req) (n w : Nat) :
    (s.writeLoopCtrl req n w).fixed = s.fixed := by simp [State.writeLoopCtrl]
@[simp] theorem State.writeCle_fixed (s : State) (req : Req) (base i j w : Nat) {u : State} (h : u.fixed = s.fixed) :
    ((s.writeCle req base i j w).getD u).fixed = s.fixed := by simp [State.writeCle, getD_ite, h]
@[simp] theorem State.writeCalReq_fixed (s : State) (w : Nat) : (s.writeCalReq w).fixed = s.fixed := by
  unfold State.writeCalReq
  split <;> simp
@[simp] theorem State.writeQueCfg_fixed (s : State) (req : Req) (w : Nat) :
    (s.writeQueCfg req w).fixed = s.fixed := by simp [State.writeQueCfg]
@[simp] theorem State.writeWinCmd_fixed (s : State) (req : Req) (w : Nat) : (s.writeWinCmd req w).fixed = s.fixed := by
  unfold State.writeWinCmd
  split <;> simp
@[simp] theorem State.writeRingCfg_fixed (s : State) (i w : Nat) : (s.writeRingCfg i w).fixed = s.fixed := by simp [State.writeRingCfg]
@[simp] theorem State.writeQue_fixed (s : State) (req : Req) (base i w : Nat) {u : State} (h : u.fixed = s.fixed) :
    ((s.writeQue req base i w).getD u).fixed = s.fixed := by simp [State.writeQue, getD_ite, h]
@[simp] theorem State.writeHbc_fixed (s : State) (req : Req) (base w : Nat) {u : State} (h : u.fixed = s.fixed) :
    ((s.writeHbc req base w).getD u).fixed = s.fixed := by simp [State.writeHbc, getD_ite, h]
@[simp] theorem State.portDown_fixed (s : State) (p : Nat) : (s.portDown p).fixed = s.fixed := by simp [State.portDown]
@[simp] theorem State.writeAzCtrl_fixed (s : State) (p w : Nat) : (s.writeAzCtrl p w).fixed = s.fixed := by simp [State.writeAzCtrl]
@[simp] theorem State.writeLnk_fixed (s : State) (base i j w : Nat) {u : State} (h : u.fixed = s.fixed) :
    ((s.writeLnk base i j w).getD u).fixed = s.fixed := by simp [State.writeLnk, getD_ite, h]
@[simp] theorem State.writeWtm_fixed (s : State) (base w : Nat) {u : State} (h : u.fixed = s.fixed) :
    ((s.writeWtm base w).getD u).fixed = s.fixed := by simp [State.writeWtm, getD_ite, h]
@[simp] theorem State.writeScnCtrl_fixed (s : State) (req : Req) (c w : Nat) :
    (s.writeScnCtrl req c w).fixed = s.fixed := by simp [State.writeScnCtrl]
@[simp] theorem State.writeRsc_fixed (s : State) (req : Req) (base i j w : Nat) {u : State} (h : u.fixed = s.fixed) :
    ((s.writeRsc req base i j w).getD u).fixed = s.fixed := by simp [State.writeRsc, getD_ite, h]
@[simp] theorem State.writePin_fixed (s : State) (req : Req) (base i j k w : Nat) {u : State} (h : u.fixed = s.fixed) :
    ((s.writePin req base i j k w).getD u).fixed = s.fixed := by simp [State.writePin, getD_ite, h]
@[simp] theorem State.writeSlotWord_fixed (s : State) (req : Req) (n k w : Nat) :
    (s.writeSlotWord req n k w).fixed = s.fixed := by simp [State.writeSlotWord]
@[simp] theorem State.writeIwWord_fixed (s : State) (req : Req) (g n k w : Nat) :
    (s.writeIwWord req g n k w).fixed = s.fixed := by simp [State.writeIwWord]
@[simp] theorem State.sendDown_fixed (s : State) (addr data : Nat) : (s.sendDown addr data).fixed = s.fixed := by simp [State.sendDown]
@[simp] theorem State.sendUp_fixed (s : State) (addr data : Nat) : (s.sendUp addr data).fixed = s.fixed := by simp [State.sendUp]
@[simp] theorem State.rraRefuse_fixed (s : State) (req : Req) : (s.rraRefuse req).fixed = s.fixed := by simp [State.rraRefuse]
@[simp] theorem State.rraBegin_fixed (s : State) (req : Req) (op : Nat) : (s.rraBegin req op).fixed = s.fixed := by simp [State.rraBegin]

/-! ## Remote accesses -/

@[simp] theorem execRraResponse_fixed (req : Req) (refused : Bool) (data : BitVec 32) (size : BitVec 14) (s : State) :
    fixedOf (execRraResponse req refused data size s) = some s.fixed := by simp [execRraResponse]
@[simp] theorem execRraTimeout_fixed (req : Req) (count : BitVec 14) (s : State) :
    fixedOf (execRraTimeout req count s) = some s.fixed := by simp [execRraTimeout]

/-! ## A tick -/

@[simp] theorem State.drain_fixed (s : State) : (s.drain).fixed = s.fixed := by simp [State.drain]
@[simp] theorem State.tick_fixed (s : State) : (s.tick).fixed = s.fixed := by simp [State.tick]

end Sys2Proof.Machine
end

