-- ==== Sys2Proof/Proofs/StepKeeps.lean ====
section
/-! SUPPORT. What every command keeps: it completes, the rest of the queue waits as it did, HBM stays in canonical form (log entry 3), and the
reset in force stays none or one of its kinds (R722, R794). Most commands leave all of it as it is; the rest writes HBM, or resets the device. Then
the statements on every step and on every command. -/

namespace Sys2Proof.Machine

/-- From a to b the queue stands, HBM stays in canonical form and the reset in force stays none or one of its kinds. -/
structure Kept (a b : Fixed) : Prop where
  queue : b.1 = a.1
  mem : Memory.wf a.2.1 = true → Memory.wf b.2.1 = true
  reset : a.2.2 ≤ 3 → b.2.2 ≤ 3

theorem Kept.refl (a : Fixed) : Kept a a := ⟨rfl, id, id⟩

theorem Kept.of_eq {a b : Fixed} (h : b = a) : Kept a b := h ▸ Kept.refl a

theorem Kept.ite {a : Fixed} {c : Prop} [Decidable c] {s t : State} (hs : Kept a s.fixed) (ht : Kept a t.fixed) :
    Kept a (if c then s else t).fixed := by
  split
  · exact hs
  · exact ht

theorem Kept.getD_ite {a : Fixed} {c : Prop} [Decidable c] {o p : Option State} {u : State} (ho : Kept a (o.getD u).fixed)
    (hp : Kept a (p.getD u).fixed) : Kept a ((if c then o else p).getD u).fixed := by
  split
  · exact ho
  · exact hp

theorem Kept.foldl {α : Type} {a : Fixed} {g : State → α → State} (hg : ∀ t x, Kept a t.fixed → Kept a (g t x).fixed) (l : List α)
    {s : State} (h : Kept a s.fixed) : Kept a (l.foldl g s).fixed := by
  induction l generalizing s with
  | nil => exact h
  | cons x l ih => exact ih (hg s x h)

/-- A command completes, and keeps what a fixes. -/
def OutKept (a : Fixed) (o : Out) : Prop := Completes o fun t => Kept a t.fixed

theorem outKept_next {a : Fixed} {t : State} : OutKept a (.next t) ↔ Kept a t.fixed := completes_next

theorem OutKept.ite {a : Fixed} {c : Prop} [Decidable c] {x y : Out} (hx : OutKept a x) (hy : OutKept a y) :
    OutKept a (if c then x else y) := by
  split
  · exact hx
  · exact hy

theorem OutKept.of_fixedOf {s : State} {o : Out} (h : fixedOf o = some s.fixed) : OutKept s.fixed o := by
  cases o with
  | next t => exact outKept_next.mpr (Kept.of_eq (Option.some.inj h))
  | fault r => cases h
  | refused r => cases h

section
variable {a : Fixed} {s : State}

/-! ## Writes to HBM -/

theorem Kept.memWrite (h : Kept a s.fixed) (x : Nat) (bs : List (BitVec 8)) : Kept a (s.memWrite x bs).fixed :=
  ⟨h.queue, fun hm => s.memWrite_wf x bs (h.mem hm), h.reset⟩

theorem Kept.memStore (h : Kept a s.fixed) (x : Nat) (bs : List (BitVec 8)) : Kept a (s.memStore x bs).fixed := by
  obtain ⟨hq, hm, hr⟩ := h.memWrite x bs
  exact ⟨hq, hm, hr⟩

theorem Kept.memMerge (h : Kept a s.fixed) (bad x : Nat) (bs : List (BitVec 8)) : Kept a (s.memMerge bad x bs).fixed := by
  unfold State.memMerge
  split
  · exact h.memStore x bs
  · simpa using h

theorem Kept.hbmPut (h : Kept a s.fixed) (p : Nat) (r : HbmReq) (err : Nat) : Kept a (s.hbmPut p r err).fixed :=
  Kept.ite (h.memMerge _ _ _) (h.memStore _ _)

/-! ## The overflow list of the tasks (R622) -/

theorem Kept.spill (h : Kept a s.fixed) : Kept a s.spill.fixed := Kept.ite h (h.memWrite _ _)

theorem Kept.makeReady (h : Kept a s.fixed) (k : Nat) (t : Task) (fresh : Bool) : Kept a (s.makeReady k t fresh).fixed := by
  refine Kept.spill ?_
  simpa using h

theorem Kept.decrement (h : Kept a s.fixed) (k : Nat) (poison : Bool) : Kept a (s.decrement k poison).fixed := by
  refine Kept.ite (Kept.ite (h.makeReady k _ true) ?_) ?_
  · simpa using h
  · simpa using h

theorem Kept.complete (h : Kept a s.fixed) (k : Nat) (t : Task) (ok : Bool) : Kept a (s.complete k t ok).fixed := by
  simp only [State.complete, State.fixed_ite, State.enq_fixed, ite_self]
  refine Kept.foldl (fun u j hu => hu.decrement j (!ok)) _ ?_
  simpa using h

theorem Kept.retryTask (h : Kept a s.fixed) (k : Nat) (t : Task) : Kept a (s.retryTask k t).fixed := by
  refine Kept.ite (h.complete k _ false) ?_
  rw [State.inc_fixed]
  exact h.makeReady k _ false

theorem Kept.retryCore (h : Kept a s.fixed) (c : Nat) : Kept a (s.retryCore c).fixed :=
  Kept.foldl (fun _ e hu => hu.retryTask e.1 e.2) _ h

theorem Kept.onDone (h : Kept a s.fixed) (c k : Nat) {f : Task → State} (hf : ∀ t, Kept a (f t).fixed) : Kept a (s.onDone c k f).fixed := by
  refine Kept.ite (hf _) ?_
  simpa using h

theorem OutKept.tskArm (h : Kept a s.fixed) (task : Fin 1048576) : OutKept a (effTskArm task s) := by
  have ha : Kept a s.armRef.fixed := by simpa using h
  refine OutKept.ite (outKept_next.mpr ha) ?_
  split
  · next hr => exact outKept_next.mpr (by rwa [State.armRef_fixed, State.fixed_of_hbmRead hr])
  · next hr =>
    rw [← State.fixed_of_hbmRead hr] at h
    refine OutKept.ite (outKept_next.mpr (by rwa [State.armRef_fixed])) (outKept_next.mpr (Kept.ite (h.makeReady _ _ true) ?_))
    rwa [State.setTask_fixed]

theorem OutKept.tskDec (h : Kept a s.fixed) (task : Fin 1048576) : OutKept a (effTskDec task s) := outKept_next.mpr (h.decrement _ _)

theorem OutKept.taskDoneOk (h : Kept a s.fixed) (core : Fin 16) (task : Fin 1048576) : OutKept a (effTaskDoneOk core task s) :=
  outKept_next.mpr (h.onDone _ _ fun t => h.complete _ t true)

theorem OutKept.taskRetry (h : Kept a s.fixed) (core : Fin 16) (task : Fin 1048576) : OutKept a (effTaskRetry core task s) :=
  outKept_next.mpr (h.onDone _ _ fun t => h.retryTask _ t)

theorem OutKept.taskDoneFail (h : Kept a s.fixed) (core : Fin 16) (task : Fin 1048576) : OutKept a (effTaskDoneFail core task s) :=
  outKept_next.mpr (h.onDone _ _ fun t => h.complete _ t false)

theorem OutKept.taskOverflowMove (h : Kept a s.fixed) : OutKept a (execTaskOverflowMove s) := by
  unfold execTaskOverflowMove
  split
  · exact outKept_next.mpr h
  · exact OutKept.ite (outKept_next.mpr (Kept.spill (by simpa using h))) (outKept_next.mpr h)

/-! ## Capture and the fail catalogue (R404 to R418) -/

theorem Kept.ringWrite (h : Kept a s.fixed) (k : Nat) (bs : List (BitVec 8)) : Kept a (s.ringWrite k bs).fixed := by
  induction bs generalizing s k with
  | nil => exact h
  | cons b bs ih =>
    refine ih ?_ _
    exact ⟨h.queue, fun hm => Assoc.wf_set _ _ _ _ (h.mem hm), h.reset⟩

theorem Kept.capPut (h : Kept a s.fixed) (bs : Nat → List (BitVec 8)) (n : Nat) : Kept a (s.capPut bs n).2.fixed := by
  simp only [State.capPut]
  split
  · simpa using h
  · simp only [State.fixed_ite, State.put_fixed, State.put64_fixed, ite_self]
    refine Kept.ringWrite ?_ _ _
    simpa using h

theorem Kept.writeGap (h : Kept a s.fixed) : Kept a s.writeGap.fixed := by
  unfold State.writeGap
  split
  · exact h
  · refine Kept.ite h (Kept.capPut ?_ _ _)
    simpa using h

theorem Kept.capture (h : Kept a s.fixed) (f : Flight) (tw : Nat) (mviol fire : Bool) : Kept a (s.capture f tw mviol fire).fixed := by
  have h0 : Kept a (if s.captures f then s.writeGap else s).fixed := Kept.ite h.writeGap h
  revert h0
  simp only [State.capture]
  generalize (if s.captures f then s.writeGap else s) = s0
  intro h0
  split
  · simpa using h0
  · split
    · simpa using h0
    · simpa using h0.capPut _ _

theorem Kept.fcWrite (h : Kept a s.fixed) (v : Nat) : Kept a (s.fcWrite v).fixed := by
  simp only [State.fcWrite, State.add64_fixed]
  exact h.memWrite _ _

theorem Kept.fcRecord (h : Kept a s.fixed) (f : Flight) (site ui : Nat) (all : Bool) (win pins : Nat) :
    Kept a (s.fcRecord f site ui all win pins).fixed := by
  unfold State.fcRecord
  extract_lets lim n need t _ s1 v s2 _ s3
  have h1 : Kept a s1.fixed := Kept.ite (by simpa [t] using h.fcWrite _) h
  refine Kept.ite (by simpa using h) (Kept.ite (by simpa using h) (Kept.ite (by simpa using h1) ?_))
  simpa [s3, s2] using h1.fcWrite v

theorem Kept.fcVector (h : Kept a s.fixed) (f : Flight) : Kept a (s.fcVector f).fixed := by
  refine Kept.ite h (Kept.foldl (fun t n ht => Kept.foldl (fun u w hu => ?_) _ ht) _ h)
  refine Kept.ite (Kept.foldl (fun v i hv => ?_) _ hu) ?_
  · exact Kept.ite hv (hv.fcRecord f _ _ _ _ _)
  · exact Kept.ite hu (hu.fcRecord f _ _ _ _ _)

theorem OutKept.rakeTake (full fcFull : Bool) (bad : List (BitVec 28)) (s : State) : OutKept s.fixed (execRakeTake full fcFull bad s) := by
  unfold execRakeTake
  split
  · exact outKept_next.mpr (Kept.refl _)
  · next f rest _ =>
    split
    · exact outKept_next.mpr (Kept.refl _)
    · next s0 hr =>
      have h0 : s0.fixed = s.fixed := by
        split at hr
        · cases hr; rfl
        · exact State.fixed_of_reach hr
      extract_lets s01 s1 mviol t s2 tw s3 fire _ s4 s5 s6 s7 _ _ s8 ended last
      have h4 : s4.fixed = s.fixed := by simp [s4, s3, s2, t, s1, s01, h0]
      have h5 : Kept s.fixed s5.fixed := Kept.capture (Kept.of_eq h4) f tw mviol fire
      have h6 : s6.fixed = s5.fixed := by simp [s6]
      have h7 : Kept s.fixed s7.fixed := Kept.fcVector (by simpa [h6] using h5) f
      refine outKept_next.mpr ?_
      simpa [s8] using h7

theorem OutKept.captureRoomReturn (s : State) : OutKept s.fixed (execCaptureRoomReturn s) := by
  have h : Kept s.fixed ({ s with cap := { s.cap with bufFull := false } } : State).fixed := Kept.refl _
  exact OutKept.ite (outKept_next.mpr h.writeGap) (outKept_next.mpr h)

theorem OutKept.fcRoomReturn (s : State) : OutKept s.fixed (execFcRoomReturn s) := by
  have h : Kept s.fixed ({ s with cap := { s.cap with fcBufFull := false } } : State).fixed := Kept.refl _
  unfold execFcRoomReturn
  extract_lets _ s1
  split
  · refine OutKept.ite (outKept_next.mpr ?_) (outKept_next.mpr h)
    simpa using h.fcWrite _
  · exact outKept_next.mpr h

/-! ## Wilting and grafts of Scions (R585 to R607) -/

theorem Kept.wilt (h : Kept a s.fixed) (c cause : Nat) (x : List (Nat × Nat)) (csr : List Nat) : Kept a (s.wilt c cause x csr).fixed := by
  simp only [State.wilt, State.raise_fixed]
  refine Kept.retryCore ?_ c
  simpa using h

theorem Kept.fastFail (h : Kept a s.fixed) (c cause : Nat) (x : List (Nat × Nat)) (csr : List Nat) :
    Kept a (s.fastFail c cause x csr).fixed := Kept.ite (by simpa using h) (h.wilt c cause x csr)

theorem OutKept.fastEntryPush (core : Fin 17) (x : List (BitVec 64)) (mepc mcause mtval mstatus : BitVec 64) (s : State) :
    OutKept s.fixed (execFastEntryPush core x mepc mcause mtval mstatus s) := by
  have h := Kept.refl s.fixed
  refine OutKept.ite (outKept_next.mpr h) (OutKept.ite (outKept_next.mpr (h.fastFail _ _ _ _))
    (OutKept.ite (outKept_next.mpr (h.fastFail _ _ _ _)) ?_))
  split
  · exact outKept_next.mpr (h.fastFail _ _ _ _)
  · refine OutKept.ite (outKept_next.mpr (h.fastFail _ _ _ _)) (outKept_next.mpr ?_)
    simpa using h

theorem OutKept.mretRestore (core : Fin 17) (x : List (BitVec 64)) (mepc mcause mtval mstatus : BitVec 64) (s : State) :
    OutKept s.fixed (execMretRestore core x mepc mcause mtval mstatus s) := by
  have h := Kept.refl s.fixed
  refine OutKept.ite (outKept_next.mpr h) (OutKept.ite (outKept_next.mpr (h.fastFail _ _ _ _)) ?_)
  split
  · exact outKept_next.mpr (h.fastFail _ _ _ _)
  · refine outKept_next.mpr ?_
    simpa using h

theorem OutKept.wiltedCaptureDone (core : Fin 16) (s : State) : OutKept s.fixed (execWiltedCaptureDone core s) := by
  unfold execWiltedCaptureDone
  extract_lets c dump s1 s2
  have h1 : Kept s.fixed s1.fixed := Kept.ite ((Kept.refl _).memWrite _ _) (Kept.refl _)
  have h2 : s2.fixed = s1.fixed := by simp only [s2, State.wiltEntry_fixed, State.writeWrec_fixed]
  rw [← h2] at h1
  refine OutKept.ite (outKept_next.mpr (Kept.refl _)) (OutKept.ite (outKept_next.mpr ?_) (OutKept.ite (outKept_next.mpr ?_) (outKept_next.mpr ?_)))
  · simpa using h1
  · simpa using h1
  · simpa using h1

theorem OutKept.sgraftLoadDone (s : State) : OutKept s.fixed (execSgraftLoadDone s) := by
  have h := Kept.refl s.fixed
  unfold execSgraftLoadDone
  split
  · exact outKept_next.mpr h
  · split
    · exact outKept_next.mpr h
    · refine OutKept.ite (outKept_next.mpr h) (OutKept.ite (outKept_next.mpr (by simpa using h)) (outKept_next.mpr ?_))
      rw [State.setScn_fixed, State.fixed_mk, State.fixed_eta]
      exact h.memWrite _ _

theorem OutKept.scnDrainLimit (core : Fin 16) (s : State) : OutKept s.fixed (execScnDrainLimit core s) := by
  refine OutKept.ite (outKept_next.mpr ?_) (outKept_next.mpr (Kept.refl _))
  simpa using (Kept.refl s.fixed).retryCore _

/-! ## The ports of HBM and the host (R648 to R656) -/

theorem OutKept.hbmResponse (port : Fin 8) (err : Fin 3) (live : Bool) (lat : BitVec 10) (s : State) :
    OutKept s.fixed (execHbmResponse port err live lat s) := by
  have h := Kept.refl s.fixed
  unfold execHbmResponse
  split
  · exact outKept_next.mpr h
  · next r rest _ =>
    extract_lets s1 s2
    have h2 : Kept s.fixed s2.fixed := Kept.of_eq (by simp [s2, s1])
    refine OutKept.ite (outKept_next.mpr h) (OutKept.ite (outKept_next.mpr ?_) (OutKept.ite (outKept_next.mpr ?_) (outKept_next.mpr ?_)))
    · simpa using h2
    · simpa using h2.hbmPut _ _ _
    · simpa using h2

theorem OutKept.hostBar2Write (addr : BitVec 36) (data : List Byte) (bad : BitVec 2) (s : State) :
    OutKept s.fixed (execHostBar2Write addr data bad s) := by
  have h := Kept.refl s.fixed
  refine OutKept.ite (outKept_next.mpr h) (OutKept.ite (outKept_next.mpr (by simpa using h))
    (OutKept.ite (outKept_next.mpr (by simpa using h)) (OutKept.ite (outKept_next.mpr (h.memMerge _ _ _)) (outKept_next.mpr h))))

/-! ## Resets (R794 to R799) -/

/-- A reset keeps the queue, empties HBM and is in force with its kind. -/
theorem State.resetState_fixed (s : State) (kind src : Nat) : (s.resetState kind src).fixed = (s.pending, [], kind) := by
  unfold State.resetState
  extract_lets ended _ t0 evr0 _ _ _ _ s1 s2 s3
  have h1 : s1.fixed = (s.pending, [], kind) := rfl
  have h2 : s2.fixed = s1.fixed := by simp [s2]
  have h3 : s3.fixed = s2.fixed := by
    simp only [s3]
    split
    · simp
    · rfl
  rw [State.rstCause_fixed, State.put_fixed, h3, h2, h1]

theorem Kept.resetState (h : Kept a s.fixed) {kind : Nat} (hk : kind ≤ 3) (src : Nat) : Kept a (s.resetState kind src).fixed := by
  rw [State.resetState_fixed]
  exact ⟨h.queue, fun _ => rfl, fun _ => hk⟩

theorem Kept.beginReset (h : Kept a s.fixed) {kind : Nat} (hk : kind ≤ 3) (src : Nat) : Kept a (s.beginReset kind src).fixed :=
  Kept.ite h (h.resetState hk src)

theorem OutKept.powerOnReset (s : State) : OutKept s.fixed (execPowerOnReset s) :=
  outKept_next.mpr ((Kept.refl _).beginReset (by decide) 0)

theorem OutKept.coldReset (s : State) : OutKept s.fixed (execColdReset s) :=
  OutKept.ite (outKept_next.mpr (Kept.refl _)) (outKept_next.mpr ((Kept.refl _).beginReset (by decide) 0))

theorem OutKept.warmReset (s : State) : OutKept s.fixed (execWarmReset s) :=
  OutKept.ite (outKept_next.mpr (Kept.refl _)) (outKept_next.mpr
    (Kept.ite ((Kept.refl _).beginReset (by decide) 0) ((Kept.refl _).beginReset (by decide) 1)))

theorem OutKept.effWarmrst (h : Kept a s.fixed) (req : Req) : OutKept a (effWarmrst req s) :=
  OutKept.ite (outKept_next.mpr (h.beginReset (by decide) 2)) (outKept_next.mpr h)

theorem OutKept.testEnHigh (high : Bool) (s : State) : OutKept s.fixed (execTestEnHigh high s) :=
  OutKept.ite (outKept_next.mpr (Kept.refl _)) (outKept_next.mpr ((Kept.refl s.fixed).beginReset (by decide) 0))

theorem OutKept.powerLossWriteDone (s : State) : OutKept s.fixed (execPowerLossWriteDone s) := by
  unfold execPowerLossWriteDone
  split
  · exact outKept_next.mpr (Kept.refl _)
  · next w _ =>
    extract_lets n s1 _ s2 s2' _ s3 s4
    have h4 : Kept s.fixed s4.fixed := Kept.of_eq (by simp [s4, s3, s2', s2, s1])
    exact outKept_next.mpr (Kept.ite (h4.beginReset (by decide) 0) h4)

/-- At its end no reset is in force. -/
theorem OutKept.resetEnd (crc0 crc1 : Bool) (s : State) : OutKept s.fixed (execResetEnd crc0 crc1 s) := by
  have h : Kept s.fixed (s.pending, s.mem, 0) := ⟨rfl, id, fun _ => Nat.zero_le 3⟩
  refine OutKept.ite (outKept_next.mpr (Kept.refl _)) (outKept_next.mpr ?_)
  have hp : s.countReset.pending = s.pending := congrArg (·.1) s.countReset_fixed
  have hm : s.countReset.mem = s.mem := congrArg (·.2.1) s.countReset_fixed
  simpa [hp, hm] using h

theorem OutKept.fwDone (s : State) : OutKept s.fixed (execFwDone s) := by
  have h := Kept.refl s.fixed
  unfold execFwDone
  split
  · exact outKept_next.mpr h
  · split
    · exact outKept_next.mpr (by simpa using h)
    · refine OutKept.ite ?_ (OutKept.of_fixedOf (by simp))
      have hs : Kept s.fixed (s.fwDoStage.2.fwEnd s.fwDoStage.1).fixed := by simpa using h
      exact outKept_next.mpr (Kept.ite (hs.beginReset (by decide) 3) hs)

/-! ## Register writes, each with the effect of its command (R820) -/

theorem Kept.run {f : State → Out} (hf : OutKept a (f s)) : Kept a (s.run f).fixed := by
  obtain ⟨t, ht, hk⟩ := hf
  simpa [State.run, ht] using hk

theorem Kept.runBits (h : Kept a s.fixed) (w : Nat) {l : List (Nat × (State → Out))}
    (hl : ∀ e ∈ l, ∀ t : State, Kept a t.fixed → OutKept a (e.2 t)) : Kept a (s.runBits w l).fixed := by
  unfold State.runBits
  induction l generalizing s with
  | nil => exact h
  | cons e l ih =>
    exact ih (Kept.ite (Kept.run (hl e List.mem_cons_self s h)) h) fun x hx => hl x (List.mem_cons_of_mem _ hx)

theorem Kept.writeTaskDone (h : Kept a s.fixed) (c w : Nat) : Kept a (s.writeTaskDone c w).fixed := by
  unfold State.writeTaskDone
  split
  · exact Kept.run (OutKept.taskDoneOk h _ _)
  · exact Kept.run (OutKept.taskRetry h _ _)
  · exact Kept.run (OutKept.taskDoneFail h _ _)
  · exact h

theorem Kept.writeTsk (h : Kept a s.fixed) (base i w : Nat) {u : State} (hu : u.fixed = s.fixed) :
    Kept a ((s.writeTsk base i w).getD u).fixed := by
  have hu' : Kept a u.fixed := hu ▸ h
  unfold State.writeTsk
  refine Kept.getD_ite (by simpa using h) (Kept.getD_ite h (Kept.getD_ite (Kept.run (OutKept.tskArm h _)) (Kept.getD_ite (Kept.run (OutKept.tskDec h _))
    (Kept.getD_ite (by simpa using h) (Kept.getD_ite (by simpa using h) (Kept.getD_ite (h.writeTaskDone i w) hu'))))))

theorem Kept.writeFcl (h : Kept a s.fixed) (req : Req) (base i w : Nat) {u : State} (hu : u.fixed = s.fixed) :
    Kept a ((s.writeFcl req base i w).getD u).fixed := by
  have hr : Kept a (s.runBits w [(0, Sys2Proof.Machine.effWarmrst req)]).fixed := h.runBits w fun e he t ht => by
    obtain rfl := List.mem_singleton.mp he
    exact OutKept.effWarmrst ht req
  refine Kept.getD_ite hr ?_
  simpa [hu] using h

/-- Every block's own registers but those of the dispatcher and of the resets leave all of it as it is. -/
theorem Kept.writeSpecial (h : Kept a s.fixed) (req : Req) (base i j k w : Nat) {u : State} (hu : u.fixed = s.fixed) :
    Kept a ((s.writeSpecial req base i j k w).getD u).fixed := by
  have e : ∀ o : Option State, (o.getD u).fixed = s.fixed → Kept a (o.getD u).fixed := fun o ho => by rwa [ho]
  unfold State.writeSpecial
  iterate 4 refine Kept.getD_ite (e _ (by simp [hu])) ?_
  refine Kept.getD_ite (h.writeFcl req base i w hu) ?_
  iterate 8 refine Kept.getD_ite (e _ (by simp [hu])) ?_
  refine Kept.getD_ite (h.writeTsk base i w hu) ?_
  iterate 6 refine Kept.getD_ite (e _ (by simp [hu])) ?_
  exact e _ (by simp [hu])

theorem Kept.writeAt (h : Kept a s.fixed) {rra : State → State} (hr : ∀ t : State, Kept a t.fixed → Kept a (rra t).fixed) (req : Req) (x w : Nat) :
    Kept a (s.writeAt rra req x w).fixed := by
  refine Kept.ite h (Kept.ite (by simpa using h) (Kept.ite (by simpa using h) (Kept.ite (by simpa using h) (Kept.ite (hr s h) ?_))))
  split
  · exact h
  · exact h.writeSpecial _ _ _ _ _ _ (by simp)

theorem Kept.writeWith (h : Kept a s.fixed) {rra : State → State} (hr : ∀ t : State, Kept a t.fixed → Kept a (rra t).fixed) (req : Req) (x w : Nat) :
    Kept a (s.writeWith rra req x w).fixed := by
  refine Kept.ite h (Kept.ite (by simpa using h) (Kept.ite (h.writeAt hr req x w) ?_))
  simpa using h

/-! ## Remote accesses (R699 to R702) -/

theorem Kept.rraLocal (h : Kept a s.fixed) {wr : Nat → Nat → State → State} (hw : ∀ x d (t : State), Kept a t.fixed → Kept a (wr x d t).fixed)
    (op addr data : Nat) : Kept a (s.rraLocal wr op addr data).1.fixed := by
  unfold State.rraLocal
  split
  · simpa using h
  · exact hw addr data s h

theorem Kept.rraStart (h : Kept a s.fixed) {wr : Nat → Nat → State → State} (hw : ∀ x d (t : State), Kept a t.fixed → Kept a (wr x d t).fixed)
    (req : Req) (op : Nat) : Kept a (s.rraStart wr req op).fixed := by
  have h0 : Kept a (s.rraBegin req op).fixed := by simpa using h
  have h1 := hw (s.get (LNK_RRA_ADDR.per req)) (s.get (LNK_RRA_DATA.per req)) _ h0
  refine Kept.ite (by simpa using h) (Kept.ite (by simpa using h) (Kept.ite (Kept.ite (Kept.ite ?_ ?_) (Kept.ite ?_ ?_)) (Kept.ite ?_ ?_)))
  · simpa using h1
  · simpa using h1
  · simpa using h
  · simpa using h
  · have h2 := h0.rraLocal hw op (s.get (LNK_RRA_ADDR.per req)) (s.get (LNK_RRA_DATA.per req))
    simpa using h2
  · split <;> simpa using h

theorem Kept.hostWrite0 (h : Kept a s.fixed) (x w : Nat) : Kept a (State.hostWrite0 x w s).fixed :=
  h.writeWith (fun t ht => by simpa using ht) .host x w

theorem Kept.hostWrite (h : Kept a s.fixed) (x w : Nat) : Kept a (State.hostWrite x w s).fixed :=
  h.writeWith (fun _ ht => ht.rraStart (fun x d _ hu => hu.hostWrite0 x d) .host _) .host x w

theorem Kept.regWrite (h : Kept a s.fixed) (req : Req) (x w : Nat) : Kept a (s.regWrite req x w).fixed :=
  h.writeWith (fun _ ht => ht.rraStart (fun x d _ hu => hu.hostWrite x d) req _) req x w

theorem Kept.writePart (h : Kept a s.fixed) (req : Req) (x : Nat) (data : BitVec 32) (be : BitVec 4) :
    Kept a (s.writePart req x data be).fixed :=
  Kept.ite (h.regWrite req x _) (Kept.ite h (by simpa using h))

theorem OutKept.registerWrite (req : Req) (off : BitVec 28) (data : BitVec 32) (be : BitVec 4) (hi : Option (BitVec 32 × BitVec 4)) (s : State) :
    OutKept s.fixed (execRegisterWrite req off data be hi s) := by
  have h1 := (Kept.refl s.fixed).writePart req (off.toNat / 4 * 4) data be
  refine OutKept.ite (outKept_next.mpr (Kept.of_eq (by simp))) ?_
  split
  · exact outKept_next.mpr h1
  · exact outKept_next.mpr (Kept.ite (h1.writePart _ _ _ _) h1)

theorem OutKept.reachReg {req : Req} {off : Nat} {k : State → Out} (hk : OutKept s.fixed (k s)) : OutKept s.fixed (s.reachReg req off k) := by
  rcases s.reachReg_cases req off k with e | e | e | e | e <;> rw [e]
  · exact OutKept.of_fixedOf (by simp)
  · exact OutKept.of_fixedOf (by simp)
  · exact OutKept.of_fixedOf (by simp)
  · exact hk
  · exact OutKept.of_fixedOf (by simp)

theorem OutKept.rraCmd (req : Req) (op : Nat) (s : State) : OutKept s.fixed (s.rraCmd req op) :=
  OutKept.reachReg (outKept_next.mpr ((Kept.refl _).rraStart (fun x d _ hu => hu.hostWrite x d) req op))

theorem OutKept.rraServe (port op : Fin 4) (addr data : BitVec 32) (s : State) : OutKept s.fixed (execRraServe port op addr data s) := by
  have h := Kept.refl s.fixed
  refine OutKept.ite (outKept_next.mpr h) (OutKept.ite (outKept_next.mpr (by simpa using h)) (outKept_next.mpr ?_))
  have h1 : Kept s.fixed (s.inc LNK_NRRA).fixed := by simpa using h
  have h2 := h1.rraLocal (fun x d _ hu => hu.hostWrite x d) op.val addr.toNat data.toNat
  rw [State.sendFlit_fixed]
  exact Kept.ite (by rwa [State.sendDown_fixed]) h2

end

/-! ## Every command -/

/-- What a command leaves alone, or keeps: those that write HBM or reset the device by their own lemmas, every other one because it leaves
the queue, HBM and the reset in force as they are. -/
theorem exec_kept (c : Instr) (s : State) : OutKept s.fixed (exec c s) := by
  have h := Kept.refl s.fixed
  cases c
  case registerWrite req off data be hi => exact OutKept.registerWrite req off data be hi s
  case hostBar2Write addr data bad => exact OutKept.hostBar2Write addr data bad s
  case hbmResponse port err live lat => exact OutKept.hbmResponse port err live lat s
  case powerOnReset => exact OutKept.powerOnReset s
  case coldReset => exact OutKept.coldReset s
  case warmReset => exact OutKept.warmReset s
  case warmrst req => exact OutKept.reachReg (OutKept.effWarmrst h req)
  case testEnHigh high => exact OutKept.testEnHigh high s
  case powerLossWriteDone => exact OutKept.powerLossWriteDone s
  case resetEnd crc0 crc1 => exact OutKept.resetEnd crc0 crc1 s
  case fwDone => exact OutKept.fwDone s
  case tskArm task =>
    rw [exec_tskArm, execTskArm]
    exact OutKept.reachReg (OutKept.tskArm h task)
  case tskDec task =>
    rw [exec_tskDec, execTskDec]
    exact OutKept.reachReg (OutKept.tskDec h task)
  case taskOverflowMove => exact OutKept.taskOverflowMove h
  case taskDoneOk core task => exact OutKept.reachReg (OutKept.taskDoneOk h core task)
  case taskRetry core task => exact OutKept.reachReg (OutKept.taskRetry h core task)
  case taskDoneFail core task => exact OutKept.reachReg (OutKept.taskDoneFail h core task)
  case rakeTake full fcFull bad => exact OutKept.rakeTake full fcFull bad s
  case captureRoomReturn => exact OutKept.captureRoomReturn s
  case fcRoomReturn => exact OutKept.fcRoomReturn s
  case fastEntryPush core x mepc mcause mtval mstatus => exact OutKept.fastEntryPush core x mepc mcause mtval mstatus s
  case mretRestore core x mepc mcause mtval mstatus => exact OutKept.mretRestore core x mepc mcause mtval mstatus s
  case wiltedCaptureDone core => exact OutKept.wiltedCaptureDone core s
  case sgraftLoadDone => exact OutKept.sgraftLoadDone s
  case scnDrainLimit core => exact OutKept.scnDrainLimit core s
  case rraRead req => exact OutKept.rraCmd req 1 s
  case rraWrite req => exact OutKept.rraCmd req 2 s
  case rraBcast req => exact OutKept.rraCmd req 3 s
  case rraServe port op addr data => exact OutKept.rraServe port op addr data s
  all_goals exact OutKept.of_fixedOf (by simp)

/-- A step with a command at the front keeps what holds of the state with the rest of the queue. -/
theorem step_kept {s t : State} {c : Instr} {rest : List Instr} (hp : s.pending = c :: rest) (h : step s = .next t) :
    Kept (rest, s.mem, s.pins.inReset) t.fixed := by
  obtain ⟨u, hu, hk⟩ := exec_kept c { s with pending := rest }
  rw [step, hp] at h
  obtain rfl : u = t := by simpa [hu] using h
  exact hk

theorem tick_fixed_of_step {s t : State} (hp : s.pending = []) (h : step s = .next t) : t.fixed = s.fixed := by
  rw [step, hp] at h
  obtain rfl : s.tick = t := by simpa using h
  exact s.tick_fixed

/-- Every step keeps HBM in canonical form and the reset in force none or one of its kinds. -/
theorem step_keeps_mem_reset {s t : State} (h : step s = .next t) : (s.memInv → t.memInv) ∧ (s.resetInv → t.resetInv) := by
  cases hp : s.pending with
  | nil =>
    obtain ⟨-, hm, hr⟩ := Kept.of_eq (tick_fixed_of_step hp h)
    exact ⟨hm, hr⟩
  | cons c rest =>
    obtain ⟨-, hm, hr⟩ := step_kept hp h
    exact ⟨hm, hr⟩

end Sys2Proof.Machine

namespace Sys2Proof.Proofs

open Sys2Proof.Machine

/-- Settles O57: no command writes HBM but byte by byte, each write in canonical form, or empties it in a reset. -/
theorem hbmCanonical : Obligations.HbmCanonical := by
  unfold Obligations.HbmCanonical
  exact fun s t hm h => (step_keeps_mem_reset h).1 hm

/-- Settles O58: a reset begins with one of its kinds, and ends with none. -/
theorem resetKinds : Obligations.ResetKinds := by
  unfold Obligations.ResetKinds
  exact fun s t hr h => (step_keeps_mem_reset h).2 hr

/-- Settles O59: every command leaves the rest of the queue as it stands, and a reset keeps it. -/
theorem queueFirstInFirstOut : Obligations.QueueFirstInFirstOut := by
  unfold Obligations.QueueFirstInFirstOut
  exact fun s t c rest hp h => (step_kept hp h).queue

/-- Settles O60: what each command keeps, it keeps in a next state. -/
theorem everyCommandCompletes : Obligations.EveryCommandCompletes := by
  unfold Obligations.EveryCommandCompletes
  intro c s
  obtain ⟨t, ht, -⟩ := exec_kept c s
  exact ⟨t, ht⟩

/-- Settles O54: the front of the queue is the command that a step takes. -/
theorem stepRunsFront : Obligations.StepRunsFront := by
  unfold Obligations.StepRunsFront
  intro c s rest hp
  rw [step, hp]

end Sys2Proof.Proofs
end

