-- ==== Sys2Proof/Proofs/GuardControl.lean ====
section
/-! SUPPORT. The guard's registers: a release channel by channel, the refusals of thresholds and configurations, and what settles; then the
statement on the guard's control. -/

namespace Sys2Proof.Machine

section
variable {s : State}

/-! ## Releases (R507) -/

theorem State.releaseRefused_iff {c : Nat} {unfit : Bool} : s.releaseRefused c unfit = true ↔
    unfit = true ∨ s.allTripped = true ∨ ∃ h ∈ s.holders c, h < 312 ∧ s.on (GRD_STATUSM_ACTIVE h) = true := by
  simp [State.releaseRefused, or_assoc]

theorem State.releaseChannel_refused {c : Nat} {unfit : Bool} (h : unfit = true ∨ s.allTripped = true ∨
    ∃ h ∈ s.holders c, h < 312 ∧ s.on (GRD_STATUSM_ACTIVE h) = true) : s.releaseChannel c unfit = s.put (GRD_STATUSM_CLRREF c) 1 :=
  if_pos (State.releaseRefused_iff.mpr h)

/-- Channel c without its causes, its LATCHED and its ILIM. -/
def State.released (s : State) (c : Nat) : State :=
  (({ s with grd := { s.grd with holders := Assoc.set [] s.grd.holders c [] } } : State).put (GRD_STATUSM_LATCHED c) 0).put (GRD_STATUSM_ILIM c) 0

theorem State.releaseChannel_released {c : Nat} {unfit : Bool} (hu : unfit = false) (ha : s.allTripped = false)
    (hh : ∀ h ∈ s.holders c, h < 312 → s.on (GRD_STATUSM_ACTIVE h) = false) : s.releaseChannel c unfit = s.released c := by
  refine if_neg fun h => ?_
  rcases State.releaseRefused_iff.mp h with h | h | ⟨x, hx, hlt, hon⟩
  · simp [hu] at h
  · simp [ha] at h
  · simp [hh x hx hlt] at hon

theorem State.regsBut_released (c : Nat) : s.regsBut (s.released c) [GRD_STATUSM_LATCHED c, GRD_STATUSM_ILIM c] := by
  intro f hf
  rw [State.released, State.get_put_ne _ _ (hf _ (by simp)), State.get_put_ne _ _ (hf _ (by simp))]
  rfl

@[simp] theorem State.holders_released_same (c : Nat) : (s.released c).holders c = [] := by
  simp [State.holders, State.released]

theorem State.holders_released_ne {c d : Nat} (h : d ≠ c) : (s.released c).holders d = s.holders d := by
  simp [State.holders, State.released, Assoc.get_set_ne _ _ _ _ h]

theorem State.get_released_latched (c : Nat) : (s.released c).get (GRD_STATUSM_LATCHED c) = 0 := by
  rw [State.released, State.get_put_ne _ _ (by simp only [Field.id, GRD_STATUSM_LATCHED, GRD_STATUSM_ILIM]; omega), State.get_put_same]
  rfl

theorem State.get_released_ilim (c : Nat) : (s.released c).get (GRD_STATUSM_ILIM c) = 0 := by
  rw [State.released, State.get_put_same]
  rfl

/-- A field of GRD_STATUS or FCL_STATUS is none of a monitor's status register. -/
theorem State.on_released {c : Nat} {f : Field} (h : f.id < 0x381008 * 32) : (s.released c).on f = s.on f := by
  rw [State.on, State.on, s.regsBut_released c f]
  simp only [List.mem_cons, List.not_mem_nil, or_false, forall_eq_or_imp, forall_eq, Field.id, GRD_STATUSM_LATCHED, GRD_STATUSM_ILIM] at h ⊢
  omega

theorem State.tripped_released {c : Nat} (ha : s.allTripped = false) : (s.released c).tripped c = false := by
  have hall : (s.released c).allTripped = s.allTripped := by
    rw [State.allTripped, State.inSafe, State.on_released (by decide), State.on_released (by decide)]
    rfl
  simp [State.tripped, hall, ha]

/-! ## Clears of LATCHED (R507, R512) -/

theorem State.clearLatched_refused {m : Nat} (h : s.on (GRD_STATUSM_ACTIVE m) = true ∨ s.on GRD_STATUS_THERM = true ∨ s.inSafe = true) :
    s.clearLatched m = s.put (GRD_STATUSM_CLRREF m) 1 := by
  refine if_pos ?_
  simpa [or_assoc] using h

theorem State.clearLatched_cleared {m : Nat} (ha : s.on (GRD_STATUSM_ACTIVE m) = false) (ht : s.on GRD_STATUS_THERM = false)
    (hs : s.inSafe = false) : s.clearLatched m = s.put (GRD_STATUSM_LATCHED m) 0 := by
  simp [State.clearLatched, ha, ht, hs]

/-! ## Thresholds (R494, R495, R497) -/

theorem effGrdThrWrite_refused {r : Req} {m : Fin 312} {d : BitVec 32} (h : signedOf 16 (d.toNat / 2 ^ 16) - signedOf 16 (d.toNat % 2 ^ 16) < 400 ∨
    s.outsideEnvelope m.val (d.toNat / 2 ^ 16) (d.toNat % 2 ^ 16) = true ∨ 288 ≤ m.val ∧ r ≠ .rootstock) :
    effGrdThrWrite r m d s = .next (s.grdRefuse m.val) := by
  refine if_pos ?_
  simpa [or_assoc] using h

theorem effGrdThrWrite_accepted {r : Req} {m : Fin 312} {d : BitVec 32}
    (hw : 400 ≤ signedOf 16 (d.toNat / 2 ^ 16) - signedOf 16 (d.toNat % 2 ^ 16))
    (he : s.outsideEnvelope m.val (d.toNat / 2 ^ 16) (d.toNat % 2 ^ 16) = false) (hr : m.val < 288 ∨ r = .rootstock) :
    effGrdThrWrite r m d s = .next (((s.setMonitor m.val { s.monitor m.val with
      thr := if s.grdThr m.val = d.toNat then none else some (s.grdThr m.val) }).put (GRD_THR_HI m.val) (d.toNat / 2 ^ 16)).put
        (GRD_THR_LO m.val) (d.toNat % 2 ^ 16)) := by
  refine if_neg fun h => ?_
  simp only [Bool.or_eq_true, decide_eq_true_eq, Bool.and_eq_true, bne_iff_ne, he] at h
  rcases h with (h | h) | ⟨h, hn⟩
  · omega
  · cases h
  · rcases hr with hr | hr
    · omega
    · exact hn hr

theorem State.outsideEnvelope_rail {k hi lo : Nat} (h : 288 ≤ k) : s.outsideEnvelope k hi lo = false := if_pos h

theorem State.outsideEnvelope_channel {k hi lo : Nat} (h : k < 256) : s.outsideEnvelope k hi lo = true ↔
    signedOf 16 (s.get GRD_ENV_CH_HI) < signedOf 16 hi ∨ signedOf 16 lo < signedOf 16 (s.get GRD_ENV_CH_LO) := by
  have h1 : ¬ 288 ≤ k := by omega
  simp [State.outsideEnvelope, h, h1]

theorem State.outsideEnvelope_dutSupply {k hi lo : Nat} (h : 256 ≤ k) (h2 : k < 288) : s.outsideEnvelope k hi lo = true ↔
    signedOf 16 (s.get GRD_ENV_DS_HI) < signedOf 16 hi ∨ signedOf 16 lo < signedOf 16 (s.get GRD_ENV_DS_LO) := by
  have h1 : ¬ 288 ≤ k := by omega
  have h3 : ¬ k < 256 := by omega
  simp [State.outsideEnvelope, h1, h3]

@[simp] theorem State.monitor_setMonitor_same (m : Nat) (v : Monitor) : (s.setMonitor m v).monitor m = v := Assoc.get_set_same _ _ _ _

@[simp] theorem State.setMonitor_get (m : Nat) (v : Monitor) (f : Field) : (s.setMonitor m v).get f = s.get f := rfl

theorem State.grdThr_settled {m : Nat} {v : Monitor} (h : v.thr = none) :
    (s.setMonitor m v).grdThr m = s.get (GRD_THR_HI m) * 2 ^ 16 + s.get (GRD_THR_LO m) := by
  simp [State.grdThr, h]

/-! ## Modes (R491 to R493, R496, R499, R502) -/

theorem State.grdTarget_setMonitor (m k : Nat) (v : Monitor) : (s.setMonitor m v).grdTarget k = s.grdTarget k := rfl

theorem State.grdMode_settled {m : Nat} {v : Monitor} (h : v.mode = none) : (s.setMonitor m v).grdMode m = s.grdTarget m := by
  simp [State.grdMode, h, State.grdTarget_setMonitor]

theorem execGrdModeSettled_none {m : Fin 312} (h : (s.monitor m.val).mode = none) : execGrdModeSettled m s = .next s := by
  simp [execGrdModeSettled, h]

theorem execGrdModeSettled_some {m : Fin 312} {k : Nat} (h : (s.monitor m.val).mode = some k) :
    execGrdModeSettled m s = .next (s.setMonitor m.val { s.monitor m.val with mode := none, hist := 0, rev := 0 }) := by
  simp [execGrdModeSettled, h]

section
variable {r : Req} {m : Fin 312} {d : BitVec 32}

theorem effGrdModeWrite_discarded (h : 288 ≤ m.val ∧ r ≠ .rootstock ∨ bits d.toNat 28 2 = 3 ∨ bits d.toNat 26 2 = 3) :
    effGrdModeWrite r m d s = .next s := by
  unfold effGrdModeWrite
  rcases h with h | h
  · exact if_pos (by simpa using h)
  · simp [h]

/-- The write names an internal rail only from Rootstock, and neither SRC nor ACT is reserved. -/
structure ModeWriteTaken (r : Req) (m : Fin 312) (d : BitVec 32) : Prop where
  rail : m.val < 288 ∨ r = .rootstock
  src : bits d.toNat 28 2 ≠ 3
  act : bits d.toNat 26 2 ≠ 3

theorem ModeWriteTaken.notRail (h : ModeWriteTaken r m d) : ¬ (288 ≤ m.val ∧ r ≠ .rootstock) := by
  rintro ⟨h1, h2⟩
  rcases h.rail with h | h
  · omega
  · exact h2 h

theorem effGrdModeWrite_badFilter (ht : ModeWriteTaken r m d) (h : bits d.toNat 20 4 = 0 ∨ bits d.toNat 16 4 < bits d.toNat 20 4) :
    effGrdModeWrite r m d s = .next (s.put GRD_STATUS_ENVREF 1) := by
  have hr := ht.notRail
  simp only [effGrdModeWrite]
  rw [if_neg (by simpa using hr), if_neg (by simp [ht.src, ht.act]), if_pos (by simpa using h)]

theorem effGrdModeWrite_forbidden (ht : ModeWriteTaken r m d) (hk : 1 ≤ bits d.toNat 20 4) (hn : bits d.toNat 20 4 ≤ bits d.toNat 16 4)
    (hs : bits d.toNat 28 2 = 0) (hm : m.val < 256) (hp : s.on GRD_POLICY_NODIS = true) (hq : r ≠ .rootstock) :
    effGrdModeWrite r m d s = .next (s.grdRefuse m.val) := by
  have hr := ht.notRail
  simp only [effGrdModeWrite]
  rw [if_neg (by simpa using hr), if_neg (by simp [ht.src, ht.act]), if_neg (by simp; omega), if_pos (by simp [hs, hm, hp, hq])]

theorem effGrdModeWrite_accepted (ht : ModeWriteTaken r m d) (hk : 1 ≤ bits d.toNat 20 4) (hn : bits d.toNat 20 4 ≤ bits d.toNat 16 4)
    (hp : bits d.toNat 28 2 ≠ 0 ∨ 256 ≤ m.val ∨ s.on GRD_POLICY_NODIS = false ∨ r = .rootstock) {u : State}
    (hu : u = ((((s.put (GRD_CFG_MODE m.val) (bits d.toNat 30 2)).put (GRD_CFG_SRC m.val) (bits d.toNat 28 2)).put (GRD_CFG_ACT m.val)
      (bits d.toNat 26 2)).put (GRD_CFG_K m.val) (bits d.toNat 20 4)).put (GRD_CFG_N m.val) (bits d.toNat 16 4)) :
    effGrdModeWrite r m d s = .next (u.setMonitor m.val { u.monitor m.val with
      mode := if u.grdTarget m.val = s.grdMode m.val then none else some (s.grdMode m.val) }) := by
  have hr := ht.notRail
  subst hu
  simp only [effGrdModeWrite]
  rw [if_neg (by simpa using hr), if_neg (by simp [ht.src, ht.act]), if_neg (by simp; omega), if_neg]
  rcases hp with hp | hp | hp | hp
  · simp [hp]
  · simp [Nat.not_lt.mpr hp]
  · simp [hp]
  · simp [hp]

end

theorem State.grdTarget_dormant {m : Nat} (h : s.get PMG_STATUS_STATE = 1) : s.grdTarget m = 3 := if_pos h

theorem State.grdMode_dormant {m : Nat} (h : s.get PMG_STATUS_STATE = 1) : s.grdMode m = 3 := by
  unfold State.grdMode
  split
  · exact if_pos h
  · exact State.grdTarget_dormant h

theorem State.grdTarget_configured {m : Nat} (h : s.get PMG_STATUS_STATE ≠ 1) (hc : s.get (GRD_CFG_MODE m) ≠ 0 ∨ s.domOn 61 = true) :
    s.grdTarget m = s.get (GRD_CFG_MODE m) := by
  rcases hc with hc | hc <;> simp [State.grdTarget, h, hc]

theorem State.grdTarget_degraded {m : Nat} (h : s.get PMG_STATUS_STATE ≠ 1) (hc : s.get (GRD_CFG_MODE m) = 0) (hd : s.domOn 61 = false) :
    s.grdTarget m = 1 := by
  simp [State.grdTarget, h, hc, hd]

theorem State.grdMode_settling {m k : Nat} (h : s.get PMG_STATUS_STATE ≠ 1) (hk : (s.monitor m).mode = some k) : s.grdMode m = k := by
  simp [State.grdMode, hk, h]

end

end Sys2Proof.Machine

namespace Sys2Proof.Proofs

open Sys2Proof.Machine

/-- Settles O32: each clause is one register's effect in one case; a release writes LATCHED and ILIM of its channel and no other field, so
that nothing else holds the channel after it. -/
theorem guardControl : Obligations.GuardControl := by
  unfold Obligations.GuardControl
  refine ⟨fun s w m u hr => State.reachReg_of_reaches _ hr, ?release, ?clear, ?threshold, fun s k hi lo => ⟨State.outsideEnvelope_rail,
    State.outsideEnvelope_channel, State.outsideEnvelope_dutSupply⟩, ?settled, ?mode, ?modeInForce⟩
  case release =>
    refine fun s c unfit _ => ⟨State.releaseChannel_refused, fun hu ha hh t ht => ?_⟩
    obtain rfl : t = s.released c := ht.trans (State.releaseChannel_released hu ha hh)
    exact ⟨State.tripped_released ha, State.holders_released_same c, State.get_released_latched c, State.get_released_ilim c,
      State.regsBut_released c, fun d hd => State.holders_released_ne hd⟩
  case clear =>
    intro s m hr
    rw [exec_grdDsClear, execGrdDsClear, State.reachReg_of_reaches _ hr]
    refine ⟨fun h => congrArg _ (if_pos h), fun h hc => ?_, fun h ha ht hs => ?_⟩
    · rw [effGrdDsClear, if_neg (Nat.not_lt.mpr h), State.clearLatched_refused hc]
    · rw [effGrdDsClear, if_neg (Nat.not_lt.mpr h), State.clearLatched_cleared ha ht hs]
  case threshold =>
    rintro s r m d _ _ hr rfl rfl
    rw [exec_grdThrWrite, execGrdThrWrite, State.reachReg_of_reaches _ hr]
    exact ⟨effGrdThrWrite_refused, effGrdThrWrite_accepted⟩
  case settled =>
    exact fun s m => ⟨rfl, State.grdThr_settled rfl, execGrdModeSettled_none, fun k hk => ⟨execGrdModeSettled_some hk, State.grdMode_settled rfl⟩⟩
  case mode =>
    rintro s r m d hr _ _ _ _ _ rfl rfl rfl rfl rfl
    rw [exec_grdModeWrite, execGrdModeWrite, State.reachReg_of_reaches _ hr]
    refine ⟨effGrdModeWrite_discarded, fun hm hs ha => ?_⟩
    have ht : ModeWriteTaken r m d := ⟨hm, hs, ha⟩
    refine ⟨effGrdModeWrite_badFilter ht, fun hk hn hs hm hp hq => ?_, fun hk hn hp u => effGrdModeWrite_accepted ht hk hn hp⟩
    rw [effGrdModeWrite_forbidden ht hk hn hs hm hp hq, State.grdRefuse, grdArg, if_pos hm]
  case modeInForce =>
    exact fun s m => ⟨fun h => ⟨State.grdTarget_dormant h, State.grdMode_dormant h⟩, fun h => ⟨State.grdTarget_configured h,
      State.grdTarget_degraded h, fun k => State.grdMode_settling h⟩⟩

end Sys2Proof.Proofs
end

