-- ==== Sys2Proof/Proofs/CalibrationRequests.lean ====
section
/-! SUPPORT. The arbiter's queue: what a request queues and when it is refused, and that an entry merges with the first of its kind and target; then
the statement on calibration requests. -/

namespace Sys2Proof.Machine

/-! ## Merging (R562) -/

theorem mergeEntry_append {e : CalEntry} {q : List CalEntry} (h : ∀ x ∈ q, x.kind ≠ e.kind ∨ x.target ≠ e.target) (r : List CalEntry) :
    mergeEntry e (q ++ r) = q ++ mergeEntry e r := by
  induction q with
  | nil => rfl
  | cons x q ih =>
    have hx : (decide (x.kind = e.kind) && decide (x.target = e.target)) = false := by
      rcases h x List.mem_cons_self with hx | hx <;> simp [hx]
    simp [mergeEntry, hx, ih fun y hy => h y (List.mem_cons_of_mem _ hy)]

theorem mergeEntry_fresh {e : CalEntry} {q : List CalEntry} (h : ∀ x ∈ q, x.kind ≠ e.kind ∨ x.target ≠ e.target) :
    mergeEntry e q = q ++ [e] := by
  have := mergeEntry_append h []
  rwa [List.append_nil] at this

theorem mergeEntry_merges {e x : CalEntry} {q : List CalEntry} (h : ∀ y ∈ q, y.kind ≠ e.kind ∨ y.target ≠ e.target) (r : List CalEntry)
    (hk : x.kind = e.kind) (ht : x.target = e.target) :
    mergeEntry e (q ++ x :: r) = q ++ { x with deadline := min x.deadline e.deadline } :: r := by
  rw [mergeEntry_append h, mergeEntry, hk, ht]
  simp

/-! ## Requests (R561 to R563) -/

section
variable {s : State} {e : Fin 4} {c : Fin 256}

theorem State.calRequest_refused {es : List (Nat × Nat × Nat)} {fresh : Nat} (hf : fresh = (es.filter fun e => !s.calQueued e.1 e.2.2).length)
    (h : 1024 ≤ s.cal.queue.length ∨ 1024 < s.cal.queue.length + fresh) : s.calRequest es = s.calRefuse := by
  subst hf
  exact if_pos (by simpa using h)

theorem State.calRequest_queued {es : List (Nat × Nat × Nat)} {fresh : Nat} (hf : fresh = (es.filter fun e => !s.calQueued e.1 e.2.2).length)
    (hq : s.cal.queue.length < 1024) (h : s.cal.queue.length + fresh ≤ 1024) : s.calRequest es = { s with cal := { s.cal with
      queue := es.foldl (fun q e => mergeEntry ⟨e.1, e.2.1, e.2.2, s.time.rc + 100000 * s.get CAL_REQ_DEADLINE, false, false, 0⟩ q) s.cal.queue } } := by
  subst hf
  refine if_neg ?_
  simpa using ⟨hq, h⟩

theorem effCalReqTile_refused (h : 8 ≤ c.val) : effCalReqTile e c s = .next s.calRefuse := by
  simp [effCalReqTile, h]

theorem effCalReqTile_queues (he : e.val = 0) (h : c.val < 8) : effCalReqTile e c s =
    .next (s.calRequest (((List.range 32).map fun j => (1, 0, 32 * c.val + j)) ++ (List.range 32).map fun j => (2, 0, 32 * c.val + j))) := by
  simp [effCalReqTile, he, Nat.not_le.mpr h, Function.comp_def]

theorem effCalReqPmu_refused (h : 32 ≤ c.val) : effCalReqPmu e c s = .next s.calRefuse := by
  simp [effCalReqPmu, h]

theorem effCalReqPmu_queues (he : e.val = 0) (h : c.val < 32) : effCalReqPmu e c s = .next (s.calRequest [(6, 0, c.val)]) := by
  simp [effCalReqPmu, he, Nat.not_le.mpr h]

/-! ## Grafts (R563 to R565) -/

theorem effCalReqGraft_refused (h : e.val = 3 ∨ e.val < 2 ∧ s.spareTaken c.val e.val = true ∨ e.val = 2 ∧ s.get (CAL_CH_STATUS_ELEM c.val) = 0) :
    effCalReqGraft e c s = .next s.calRefuse := by
  have hb : (decide (e.val = 3) || (decide (e.val < 2) && s.spareTaken c.val e.val)
      || (decide (e.val = 2) && decide (s.get (CAL_CH_STATUS_ELEM c.val) = 0))) = true := by
    simpa [or_assoc] using h
  exact congrArg _ (if_pos hb)

theorem effCalReqGraft_queues (h : e.val < 2 ∧ s.spareTaken c.val e.val = false ∨ e.val = 2 ∧ s.get (CAL_CH_STATUS_ELEM c.val) ≠ 0) :
    effCalReqGraft e c s = .next (s.calRequest [(4, e.val, c.val)]) := by
  simp only [effCalReqGraft]
  rcases h with ⟨he, hs⟩ | ⟨he, hs⟩
  · have h3 : e.val ≠ 3 := by omega
    have h2 : e.val ≠ 2 := by omega
    rw [hs, decide_eq_false h3, decide_eq_false h2]
    simp
  · simp [he, hs]

theorem State.spareTaken_zero : s.spareTaken c.val 0 = true ↔ s.on (CAL_GRAFT_SP0BAD (c.val / 32)) = true ∨
    s.on (CAL_GRAFT_SP0USE (c.val / 32)) = true ∧ s.get (CAL_GRAFT_SP0CH (c.val / 32)) ≠ c.val % 32 := by
  simp [State.spareTaken]

theorem State.spareTaken_one : s.spareTaken c.val 1 = true ↔ s.on (CAL_GRAFT_SP1BAD (c.val / 32)) = true ∨
    s.on (CAL_GRAFT_SP1USE (c.val / 32)) = true ∧ s.get (CAL_GRAFT_SP1CH (c.val / 32)) ≠ c.val % 32 := by
  simp [State.spareTaken]

end

end Sys2Proof.Machine

namespace Sys2Proof.Proofs

open Sys2Proof.Machine

/-- Settles O35: each kind by the condition under which it is refused, then the room in the queue and the merge. -/
theorem calibrationRequests : Obligations.CalibrationRequests := by
  unfold Obligations.CalibrationRequests
  refine ⟨?kinds, ?grafts, fun s es fresh hf => ⟨State.calRequest_refused hf, State.calRequest_queued hf⟩,
    fun e q h => ⟨mergeEntry_fresh h, fun x r => mergeEntry_merges h r⟩⟩
  case kinds =>
    intro s e c hr
    simp only [exec_calReqTiming, exec_calReqDc, exec_calReqBoth, exec_calReqTile, exec_calReqPmu, execCalReqTiming, execCalReqDc, execCalReqBoth,
      execCalReqTile, execCalReqPmu, State.reachReg_of_reaches _ hr]
    refine ⟨fun he => ?_, fun he => ⟨?_, ?_, ?_, effCalReqTile_refused, effCalReqPmu_refused, effCalReqTile_queues he, effCalReqPmu_queues he⟩, rfl⟩
    · simp [effCalReqTiming, effCalReqDc, effCalReqBoth, effCalReqTile, effCalReqPmu, he]
    · simp [effCalReqTiming, he]
    · simp [effCalReqDc, he]
    · simp [effCalReqBoth, he]
  case grafts =>
    rintro s e c hr
    rw [exec_calReqGraft, execCalReqGraft, State.reachReg_of_reaches _ hr]
    refine ⟨effCalReqGraft_refused, effCalReqGraft_queues, ?_⟩
    rintro _ rfl
    exact ⟨State.spareTaken_zero, State.spareTaken_one⟩

end Sys2Proof.Proofs
end

