-- ==== Sys2Proof/Proofs/CalibrationRuns.lean ====
section
/-! SUPPORT. The arbiter's runs: the entry that a tile's engine starts is the earliest of the ready ones, what an end leaves in the registers, and
which end each outcome is; then the statement on calibrations and grafts. -/

namespace Sys2Proof.Machine

/-! ## The entry that starts (R561) -/

/-- The earlier deadline of two entries, the first requested where they are the same. -/
def sooner (m : Option CalEntry) (e : CalEntry) : Option CalEntry :=
  match m with
  | none => some e
  | some b => if e.deadline < b.deadline then some e else some b

theorem foldl_sooner_some {l : List CalEntry} {b r : CalEntry} (h : l.foldl sooner (some b) = some r) :
    (r = b ∨ r ∈ l) ∧ r.deadline ≤ b.deadline ∧ ∀ x ∈ l, r.deadline ≤ x.deadline := by
  induction l generalizing b with
  | nil =>
    obtain rfl : b = r := by simpa using h
    simp
  | cons e l ih =>
    rw [List.foldl_cons, sooner] at h
    split at h
    · next hlt =>
      obtain ⟨hm, hb, hl⟩ := ih h
      refine ⟨.inr (List.mem_cons.mpr hm), by omega, fun x hx => ?_⟩
      rcases List.mem_cons.mp hx with rfl | hx
      · exact hb
      · exact hl x hx
    · next hge =>
      obtain ⟨hm, hb, hl⟩ := ih h
      refine ⟨hm.imp_right (List.mem_cons_of_mem _), hb, fun x hx => ?_⟩
      rcases List.mem_cons.mp hx with rfl | hx
      · omega
      · exact hl x hx

theorem foldl_sooner_none {l : List CalEntry} {r : CalEntry} (h : l.foldl sooner none = some r) :
    r ∈ l ∧ ∀ x ∈ l, r.deadline ≤ x.deadline := by
  cases l with
  | nil => cases h
  | cons e l =>
    obtain ⟨hm, hb, hl⟩ := foldl_sooner_some h
    exact ⟨List.mem_cons.mpr hm, fun x hx => (List.mem_cons.mp hx).elim (fun h => h ▸ hb) (hl x)⟩

section
variable {s : State}

theorem State.calNext_eq (t : Nat) : s.calNext t =
    (s.cal.queue.filter fun e => e.kind != 7 && e.tile == t && s.calReady e).foldl sooner none := rfl

theorem State.calNext_spec {t : Nat} {e : CalEntry} (h : s.calNext t = some e) : e ∈ s.cal.queue ∧ e.kind ≠ 7 ∧ e.tile = t ∧ s.calReady e = true ∧
    ∀ x ∈ s.cal.queue, x.kind ≠ 7 → x.tile = t → s.calReady x = true → e.deadline ≤ x.deadline := by
  rw [State.calNext_eq] at h
  obtain ⟨hm, hl⟩ := foldl_sooner_none h
  simp only [List.mem_filter, Bool.and_eq_true, bne_iff_ne, beq_iff_eq] at hm hl
  obtain ⟨hq, ⟨hk, ht⟩, hr⟩ := hm
  exact ⟨hq, hk, ht, hr, fun x hx hxk hxt hxr => hl x ⟨hx, ⟨hxk, hxt⟩, hxr⟩⟩

theorem execCalEntryStart_none {t : Fin 8} (h : s.calNext t.val = none) : execCalEntryStart t s = .next s := by
  simp [execCalEntryStart, h]

/-- Entry e leaves the queue and runs (R546, R561). -/
def State.calStarted (s : State) (e : CalEntry) : State := { s with
  cal := { s.cal with queue := s.cal.queue.filter (· ≠ e), running := s.cal.running ++ [{ e with refbad := s.on CLK_STATUS_REFLOST, began := s.time.rc }] } }

theorem execCalEntryStart_pmu {t : Fin 8} {e : CalEntry} (h : s.calNext t.val = some e) (hk : e.kind = 6) :
    execCalEntryStart t s = .next ((s.calStarted e).put (PMU_STATUS_OWNER e.target) 3) := by
  simp [execCalEntryStart, h, hk, State.calStarted]

theorem execCalEntryStart_channel {t : Fin 8} {e : CalEntry} (h : s.calNext t.val = some e) (hk : e.kind ≠ 6) : execCalEntryStart t s =
    .next ((((s.calStarted e).setChan e.target { (s.calStarted e).chan e.target with drv := 0 }).tiuInterrupt (· == e.target)).recordCause
      ((s.calStarted e).siteMask e.target) 5) := by
  simp [execCalEntryStart, h, hk, State.calStarted]

/-! ## Late entries (R561) -/

section
variable {k : Fin 8} {c : Fin 256}

theorem execCalLate_none (h : ∀ e ∈ s.cal.queue, e.kind ≠ k.val ∨ e.target ≠ c.val) : execCalLate k c s = .next s := by
  have hf : (s.cal.queue.find? fun e => e.kind == k.val && e.target == c.val) = none := by
    refine List.find?_eq_none.mpr fun e he => ?_
    rcases h e he with h | h <;> simp [h]
  simp [execCalLate, hf]

variable {e : CalEntry}

theorem execCalLate_unchanged (hf : (s.cal.queue.find? fun e => e.kind == k.val && e.target == c.val) = some e)
    (h : e.late = true ∨ s.time.rc < e.deadline) : execCalLate k c s = .next s := by
  rcases h with h | h <;> simp [execCalLate, hf, h]

theorem execCalLate_counts (hf : (s.cal.queue.find? fun e => e.kind == k.val && e.target == c.val) = some e) (hl : e.late = false)
    (h : e.deadline ≤ s.time.rc) : execCalLate k c s = .next (s.calLate e) := by
  simp [execCalLate, hf, hl, Nat.not_lt.mpr h]

/-! ## Ends of calibrations (R546 to R553) -/

variable {range : Bool} {cells : BitVec 48} {cmp : BitVec 4} {seg : BitVec 27} {v : BitVec 16}

theorem find?_entry_none {k c : Nat} {l : List CalEntry} (h : ∀ e ∈ l, e.kind ≠ k ∨ e.target ≠ c) :
    (l.find? fun e => e.kind == k && e.target == c) = none := by
  refine List.find?_eq_none.mpr fun e he => ?_
  rcases h e he with h | h <;> simp [h]

theorem kind_of_find? {k c : Nat} {l : List CalEntry} (h : (l.find? fun e => e.kind == k && e.target == c) = some e) : e.kind = k := by
  have := List.find?_some h
  simp only [Bool.and_eq_true, beq_iff_eq] at this
  exact this.1

theorem execCalEnd_none (h : k.val ∉ [1, 2, 6] ∨ ∀ e ∈ s.cal.running, e.kind ≠ k.val ∨ e.target ≠ c.val) :
    execCalEnd k c range cells cmp seg v s = .next s := by
  unfold execCalEnd
  rcases h with h | h
  · obtain ⟨h1, h2, h6⟩ : k.val ≠ 1 ∧ k.val ≠ 2 ∧ k.val ≠ 6 := by simpa [not_or] using h
    simp only [h1, h2, h6, if_false]
    split <;> rfl
  · simp [find?_entry_none h]

variable (hf : (s.cal.running.find? fun e => e.kind == k.val && e.target == c.val) = some e)
include hf

theorem State.calRan_iff_of_find? : s.calRan e = decide (e.began + calTime k.val ≤ s.time.rc) := by
  rw [State.calRan, kind_of_find? hf]

theorem execCalEnd_timing (hk : k.val = 1) : execCalEnd k c range cells cmp seg v s =
    if e.refbad then .next (s.calEnded e 4) else if s.time.rc < e.began + 160000 then .next s
    else if range then .next ((s.calRange c.val).calEnded e 2)
    else .next (((((s.timingPass c.val cells.toNat).closingPass c.val).inc (CAL_CH_NCAL c.val)).calEnded e 1).persist (calStored c.val)) := by
  simp only [execCalEnd, hf, State.calRan_iff_of_find? hf]
  simp [hk, calTime]

theorem execCalEnd_dc (hk : k.val = 2) : execCalEnd k c range cells cmp seg v s =
    if vrefGood v.toNat = false then .next (((s.put CAL_VREF v.toNat).calEnded e 4).raise srcCalRefbad c.val 0)
    else if s.time.rc < e.began + 320000 then .next s
    else if range then .next (((s.put CAL_VREF v.toNat).calRange c.val).calEnded e 2)
    else .next ((((((s.put CAL_VREF v.toNat).dcPass c.val cmp.toNat seg.toNat).closingPass c.val).inc (CAL_CH_NCAL c.val)).calEnded e 1).persist
      (calStored c.val)) := by
  simp only [execCalEnd, hf, State.calRan_iff_of_find? hf]
  simp [hk, calTime]

theorem execCalEnd_pmu (hk : k.val = 6) : execCalEnd k c range cells cmp seg v s =
    if vrefGood v.toNat = false then .next ((((s.put CAL_VREF v.toNat).put (PMU_STATUS_OWNER c.val) 0).calEnded e 4).raise srcCalRefbad 0 0)
    else if s.time.rc < e.began + 1280000 then .next s
    else .next (((s.put CAL_VREF v.toNat).put (PMU_STATUS_OWNER c.val) 0).calEnded e (if range then 2 else 1)) := by
  simp only [execCalEnd, hf, State.calRan_iff_of_find? hf]
  simp [hk, calTime]

end

/-! ## Ends of grafts (R564 to R570) -/

section
variable {c : Fin 256} {x : Fin 5} {cells : BitVec 48} {cmp : BitVec 4} {seg : BitVec 27} {v : BitVec 16} {e : CalEntry}

theorem execGraftEnd_none (h : ∀ e ∈ s.cal.running, e.kind ≠ 4 ∨ e.target ≠ c.val) : execGraftEnd c x cells cmp seg v s = .next s := by
  simp [execGraftEnd, find?_entry_none h]

variable (hf : (s.cal.running.find? fun e => e.kind == 4 && e.target == c.val) = some e)
include hf

theorem execGraftEnd_noEnd (hx : x.val = 0 ∨ x.val = 3) : execGraftEnd c x cells cmp seg v s = .next s := by
  simp only [execGraftEnd, hf]
  rcases hx with hx | hx
  · simp [hx]
  · simp [hx]

theorem execGraftEnd_refLost (hr : e.refbad = true) (h0 : x.val ≠ 0) (h3 : x.val ≠ 3) :
    execGraftEnd c x cells cmp seg v s = .next (s.calEnded e 4) := by
  have hx : x.val ∈ [1, 2, 4] := by
    simp only [List.mem_cons, List.not_mem_nil, or_false]
    omega
  simp [execGraftEnd, hf, hr, hx]

variable (hr : e.refbad = false)
include hr

theorem execGraftEnd_refbad (h : x.val = 1 ∧ vrefGood v.toNat = false ∨ x.val = 4) : execGraftEnd c x cells cmp seg v s =
    .next ((if vrefGood v.toNat = true then s.put CAL_VREF v.toNat else (s.put CAL_VREF v.toNat).raise srcCalRefbad c.val 0).calEnded e 4) := by
  rcases h with ⟨hx, hv⟩ | hx
  · simp [execGraftEnd, hf, hr, hx, hv]
  · simp [execGraftEnd, hf, hr, hx]

theorem execGraftEnd_running (ht : s.time.rc < e.began + 490000) (h : x.val = 2 ∨ x.val = 1 ∧ vrefGood v.toNat = true) :
    execGraftEnd c x cells cmp seg v s = .next s := by
  have hran : s.calRan e = false := by simp [State.calRan, kind_of_find? hf, calTime, ht]
  rcases h with hx | ⟨hx, hv⟩
  · simp [execGraftEnd, hf, hr, hx, hran]
  · simp [execGraftEnd, hf, hr, hx, hv, hran]

variable (ht : e.began + 490000 ≤ s.time.rc)
include ht

theorem execGraftEnd_range (hx : x.val = 2) : execGraftEnd c x cells cmp seg v s =
    .next ((if e.elem = 0 then (s.put CAL_VREF v.toNat).put (CAL_GRAFT_SP0BAD (c.val / 32)) 1
      else if e.elem = 1 then (s.put CAL_VREF v.toNat).put (CAL_GRAFT_SP1BAD (c.val / 32)) 1 else s.put CAL_VREF v.toNat).calEnded e 2) := by
  have hran : s.calRan e = true := by simp [State.calRan, kind_of_find? hf, calTime, ht]
  simp [execGraftEnd, hf, hr, hx, hran]

theorem execGraftEnd_pass (hx : x.val = 1) (hv : vrefGood v.toNat = true) : execGraftEnd c x cells cmp seg v s =
    .next (((((((s.put CAL_VREF v.toNat).serve c.val e.elem).timingPass c.val cells.toNat).dcPass c.val cmp.toNat seg.toNat).closingPass c.val).calEnded e
      1).persist (calStored c.val ++ graftStored (c.val / 32))) := by
  have hran : s.calRan e = true := by simp [State.calRan, kind_of_find? hf, calTime, ht]
  simp [execGraftEnd, hf, hr, hx, hv, hran]

end

/-! ## What an end leaves in the registers (R549 to R553, R565, R570) -/

section
variable {c : Nat}

theorem State.timingPass_fields {cells : Nat} (hc : cells < 2 ^ 48) : (s.timingPass c cells).get (CAL_CH_STATUS_TVALID c) = 1 ∧
    (s.timingPass c cells).get (CAL_CH_CELLS_LO c) = cells % 2 ^ 32 ∧ (s.timingPass c cells).get (CAL_CH_CELLS_HI c) = cells / 2 ^ 32 := by
  have hhi : cells / 2 ^ 32 % 2 ^ 16 = cells / 2 ^ 32 := Nat.mod_eq_of_lt (by omega)
  refine ⟨?_, ?_, ?_⟩ <;> simp (disch := (simp only [Field.id, CAL_CH_STATUS_TVALID, CAL_CH_CELLS_LO, CAL_CH_CELLS_HI, CAL_CH_TTEMP]; omega)) only
    [State.timingPass, State.get_put_ne, State.get_put_same]
  · rfl
  · rfl
  · exact hhi

theorem State.dcPass_fields {cmp seg : Nat} (hg : seg < 2 ^ 27) :
    (s.dcPass c cmp seg).get (CAL_CH_STATUS_DVALID c) = 1 ∧ (s.dcPass c cmp seg).get (CAL_CH_SEG c) = seg := by
  refine ⟨?_, ?_⟩ <;> simp (disch := (simp only [Field.id, CAL_CH_STATUS_DVALID, CAL_CH_CMP_VOH, CAL_CH_CMP_VOL, CAL_CH_SEG]; omega)) only
    [State.dcPass, State.get_put_ne, State.get_put_same]
  · rfl
  · exact Nat.mod_eq_of_lt hg

theorem get_setReadback (t : State) (r : Readback) (f : Field) : (t.setReadback c r).get f = t.get f := rfl

theorem State.calRange_untrusted : (s.calRange c).untrusted c = true := by
  have h : (s.calRange c).get (LVL_CH_UNTR_RBFAIL c) = 1 := by
    rw [State.calRange, get_setReadback, State.get_markUntrusted, State.inc_eq, State.get_put_ne _ _ (by simp only [Field.id, LVL_CH_UNTR_RBFAIL, LVL_NUNTR]; omega),
      State.get_put_same]
    rfl
  simp [State.untrusted, State.on, h]

/-- The registers of an end, before the counts of R570. -/
def State.calShown (s : State) (e : CalEntry) (x : Nat) : State :=
  let s1 := (((s.put CAL_LAST_KIND e.kind).put CAL_LAST_RESULT x).put CAL_LAST_ELEM e.elem).put CAL_LAST_TARGET e.target
  if e.kind ≤ 4 then s1.put (CAL_CH_STATUS_LASTRES e.target) x else s1

theorem State.get_calEnded_pass (e : CalEntry) (f : Field) : (s.calEnded e 1).get f = ((s.calShown e 1).inc CAL_NDONE).get f := by
  refine State.get_congr f ?_
  simp only [State.calEnded, State.calShown, if_true]
  by_cases hk : e.kind ≤ 4
  · simp only [if_pos hk]
    rfl
  · simp only [if_neg hk]
    rfl

theorem State.get_calEnded_fail (e : CalEntry) {x : Nat} (hx : x ≠ 1) (f : Field) :
    (s.calEnded e x).get f = (((s.calShown e x).inc CAL_NFAIL).put CAL_STATUS_FAIL 1).get f := by
  refine State.get_congr f ?_
  simp only [State.calEnded, State.calShown, if_neg hx]
  by_cases hk : e.kind ≤ 4
  · simp only [if_pos hk]
    rfl
  · simp only [if_neg hk]
    rfl

/-- The counts and FAIL of R570 apart, an end leaves what it has shown. -/
theorem State.get_calEnded {e : CalEntry} {x : Nat} {f : Field} (h : f.id ≠ CAL_NDONE.id ∧ f.id ≠ CAL_NFAIL.id ∧ f.id ≠ CAL_STATUS_FAIL.id) :
    (s.calEnded e x).get f = (s.calShown e x).get f := by
  obtain ⟨hd, hn, hs⟩ := h
  by_cases hx : x = 1
  · subst hx
    rw [State.get_calEnded_pass, State.inc_eq, State.get_put_ne _ _ hd]
  · rw [State.get_calEnded_fail _ hx, State.get_put_ne _ _ hs, State.inc_eq, State.get_put_ne _ _ hn]

theorem State.get_calShown_ne {e : CalEntry} {x : Nat} {f : Field} (h : f.id < CAL_LAST_TARGET.id) : (s.calShown e x).get f = s.get f := by
  simp only [CAL_LAST_TARGET, Field.id] at h
  simp only [State.calShown]
  split <;> simp (disch := (simp only [Field.id, CAL_LAST_KIND, CAL_LAST_RESULT, CAL_LAST_ELEM, CAL_LAST_TARGET, CAL_CH_STATUS_LASTRES]; omega)) only
    [State.get_put_ne]

theorem State.calEnded_running (e : CalEntry) (x : Nat) : (s.calEnded e x).cal.running = s.cal.running.filter (· ≠ e) := by
  simp only [State.calEnded]
  split <;> split <;> rfl

theorem State.calEnded_fields {e : CalEntry} {x : Nat} (hc : e.target < 256) (hx : x < 8) :
    (s.calEnded e x).get CAL_LAST_RESULT = x ∧ (s.calEnded e x).get CAL_LAST_TARGET = e.target := by
  rw [State.get_calEnded (by decide), State.get_calEnded (by decide)]
  simp only [State.calShown]
  refine ⟨?_, ?_⟩ <;> split <;> simp (disch := (simp only [Field.id, CAL_LAST_KIND, CAL_LAST_RESULT, CAL_LAST_ELEM, CAL_LAST_TARGET, CAL_CH_STATUS_LASTRES]; omega)) only
    [State.get_put_ne, State.get_put_same]
  · exact Nat.mod_eq_of_lt hx
  · exact Nat.mod_eq_of_lt hx
  · exact Nat.mod_eq_of_lt hc
  · exact Nat.mod_eq_of_lt hc

theorem State.calEnded_lastRes {e : CalEntry} {x : Nat} (hx : x < 8) (hk : e.kind ≤ 4) :
    (s.calEnded e x).get (CAL_CH_STATUS_LASTRES e.target) = x := by
  rw [State.get_calEnded (by simp only [Field.id, CAL_NDONE, CAL_NFAIL, CAL_STATUS_FAIL, CAL_CH_STATUS_LASTRES]; omega)]
  simp only [State.calShown, if_pos hk, State.get_put_same]
  exact Nat.mod_eq_of_lt hx

theorem State.calEnded_ndone (e : CalEntry) : (s.calEnded e 1).get CAL_NDONE = (s.get CAL_NDONE + 1) % 2 ^ 32 := by
  rw [State.get_calEnded_pass, State.inc_eq, State.get_put_same, State.get_calShown_ne (by decide)]
  rfl

theorem State.calEnded_nfail (e : CalEntry) {x : Nat} (hx : x ≠ 1) : (s.calEnded e x).get CAL_NFAIL = (s.get CAL_NFAIL + 1) % 2 ^ 32 := by
  rw [State.get_calEnded_fail _ hx, State.get_put_ne _ _ (by decide), State.inc_eq, State.get_put_same, State.get_calShown_ne (by decide)]
  rfl

/-! ## The element that serves a channel (R564, R565) -/

theorem State.serve_spare0 : (s.serve c 0).get (CAL_CH_STATUS_ELEM c) = 1 ∧ (s.serve c 0).get (CAL_GRAFT_SP0USE (c / 32)) = 1 ∧
    (s.serve c 0).get (CAL_GRAFT_SP0CH (c / 32)) = c % 32 := by
  refine ⟨?_, ?_, ?_⟩ <;> simp (disch := (simp only [Field.id, CAL_GRAFT_SP0USE, CAL_GRAFT_SP0CH, CAL_CH_STATUS_ELEM]; omega)) only
    [State.serve, if_true, State.get_put_ne, State.get_put_same]
  · rfl
  · rfl
  · exact Nat.mod_mod _ _

theorem State.serve_spare1 : (s.serve c 1).get (CAL_CH_STATUS_ELEM c) = 2 ∧ (s.serve c 1).get (CAL_GRAFT_SP1USE (c / 32)) = 1 ∧
    (s.serve c 1).get (CAL_GRAFT_SP1CH (c / 32)) = c % 32 := by
  have h1 : ¬ (1 : Nat) = 0 := by decide
  refine ⟨?_, ?_, ?_⟩ <;> simp (disch := (simp only [Field.id, CAL_GRAFT_SP1USE, CAL_GRAFT_SP1CH, CAL_CH_STATUS_ELEM]; omega)) only
    [State.serve, if_true, if_neg h1, State.get_put_ne, State.get_put_same]
  · rfl
  · rfl
  · exact Nat.mod_mod _ _

theorem State.serve_own : s.serve c 2 = (s.freeSpare c).put (CAL_CH_STATUS_ELEM c) 0 := rfl

theorem State.serve_own_elem : (s.serve c 2).get (CAL_CH_STATUS_ELEM c) = 0 := by
  rw [State.serve_own, State.get_put_same]
  exact Nat.zero_mod _

theorem State.serve_own_spare0 (h : s.get (CAL_CH_STATUS_ELEM c) = 1) : (s.serve c 2).get (CAL_GRAFT_SP0USE (c / 32)) = 0 := by
  rw [State.serve_own, State.get_put_ne _ _ (by simp only [Field.id, CAL_GRAFT_SP0USE, CAL_CH_STATUS_ELEM]; omega), State.freeSpare, h]
  exact (State.get_put_same _ _ _).trans (Nat.zero_mod _)

theorem State.serve_own_spare1 (h : s.get (CAL_CH_STATUS_ELEM c) = 2) : (s.serve c 2).get (CAL_GRAFT_SP1USE (c / 32)) = 0 := by
  rw [State.serve_own, State.get_put_ne _ _ (by simp only [Field.id, CAL_GRAFT_SP1USE, CAL_CH_STATUS_ELEM]; omega), State.freeSpare, h]
  exact (State.get_put_same _ _ _).trans (Nat.zero_mod _)

end

end

end Sys2Proof.Machine

namespace Sys2Proof.Proofs

open Sys2Proof.Machine

/-- Settles O36: a start by the entry that is the earliest of the ready ones, an end by its kind and outcome, and the registers that each
leaves. -/
theorem calibrationRuns : Obligations.CalibrationRuns := by
  unfold Obligations.CalibrationRuns
  refine ⟨?start, fun s t e => State.calNext_spec, ?late, ?ends, ?fields, ?graft, ?serve⟩
  case start =>
    refine fun s t => ⟨execCalEntryStart_none, fun e he u hu => ?_⟩
    obtain rfl : u = s.calStarted e := hu
    exact ⟨execCalEntryStart_pmu he, execCalEntryStart_channel he⟩
  case late => exact fun s k c => ⟨execCalLate_none, fun e hf => ⟨execCalLate_unchanged hf, execCalLate_counts hf⟩⟩
  case ends =>
    refine fun s k c range cells cmp seg v => ⟨execCalEnd_none, fun e hf => ⟨fun hk hb => ?_, fun hk hb => ?_, fun hk hv => ?_, fun hk hv => ?_,
      fun hk u hu => ?_⟩⟩
    · rw [exec_calEnd, execCalEnd_timing hf hk, if_pos hb]
    · rw [exec_calEnd, execCalEnd_timing hf hk, hb]
      refine ⟨fun ht => if_pos ht, fun ht => ⟨fun hx => ?_, fun hx => ?_⟩⟩ <;> simp [Nat.not_lt.mpr ht, hx]
    · rw [exec_calEnd, execCalEnd_dc hf hk, if_pos hv]
    · rw [exec_calEnd, execCalEnd_dc hf hk, hv]
      refine ⟨fun ht => if_pos ht, fun ht => ⟨fun hx => ?_, fun hx => ?_⟩⟩ <;> simp [Nat.not_lt.mpr ht, hx]
    · subst hu
      rw [exec_calEnd, execCalEnd_pmu hf hk]
      refine ⟨fun hv => if_pos hv, fun hv => ⟨fun ht => ?_, fun ht => ?_⟩⟩
      · simp [hv, ht]
      · simp [hv, Nat.not_lt.mpr ht]
  case fields =>
    intro s c cells cmp seg hc hcells _ hseg
    obtain ⟨ht, hlo, hhi⟩ := State.timingPass_fields (s := s) (c := c) hcells
    obtain ⟨hd, hs⟩ := State.dcPass_fields (s := s) (c := c) (cmp := cmp) hseg
    refine ⟨ht, hlo, hhi, hd, hs, State.calRange_untrusted, ?_⟩
    rintro e x rfl _ _ hx
    obtain ⟨hr, htgt⟩ := State.calEnded_fields (s := s) hc hx
    refine ⟨hr, htgt, State.calEnded_running e x, State.calEnded_lastRes hx, ?_, State.calEnded_nfail e⟩
    rintro rfl
    exact State.calEnded_ndone e
  case graft =>
    refine fun s c x cells cmp seg v => ⟨execGraftEnd_none, fun e hf => ⟨execGraftEnd_noEnd hf, execGraftEnd_refLost hf, fun hr u hu => ?_⟩⟩
    subst hu
    exact ⟨execGraftEnd_refbad hf hr, execGraftEnd_running hf hr, execGraftEnd_range hf hr, execGraftEnd_pass hf hr⟩
  case serve =>
    intro s c _
    obtain ⟨h1, h2, h3⟩ := State.serve_spare0 (s := s) (c := c)
    obtain ⟨h4, h5, h6⟩ := State.serve_spare1 (s := s) (c := c)
    exact ⟨h1, h2, h3, h4, h5, h6, State.serve_own_elem, State.serve_own_spare0, State.serve_own_spare1⟩

end Sys2Proof.Proofs
end

