-- ==== Sys2Proof/Proofs/HbmPorts.lean ====
section
/-! SUPPORT. The ports of the HBM: how a request joins its port's queue, what the completion of the oldest one does, and fences; then the
statement on ports. -/

namespace Sys2Proof.Machine

/-! ## Requests (R649, R652, R655, R268) -/

section
variable {s : State} {p : Fin 8} {w : Bool} {a : BitVec 40} {l : Fin 65} {d : List Byte} {n : Nat}

/-- Noting why a request is refused leaves the queues of the ports. -/
theorem State.hbmQueue_noted {q a : Nat} {refused locked : Bool} :
    (if refused then s.incSat HBC_REFUSED else if locked then s.refuseLocked a else s).hbmQueue q = s.hbmQueue q := by
  cases refused <;> cases locked <;> rfl

theorem execHbmRequest_notMade (hn : n = if w then d.length else l.val) (hw : w = false) (hp : p.val = 4)
    (ha : hbmScionArea a.toNat n = true) : execHbmRequest p w a l d s = .next s := by
  subst hn hw
  simp_all [execHbmRequest]

/-- A request that is made joins the end of its port's queue; the reason of a refusal is noted first. -/
theorem execHbmRequest_joins (hn : n = if w then d.length else l.val) (h : ¬(w = false ∧ p.val = 4 ∧ hbmScionArea a.toNat n = true))
    {refused locked : Bool} (hr : refused = (!hbmAddressable a.toNat n || (w && (decide (p.val = 4) || decide (p.val = 6)) && hbmScionArea a.toNat n)))
    (hl : locked = (w && s.segLocked a.toNat n)) : execHbmRequest p w a l d s =
      .next ((if refused then s.incSat HBC_REFUSED else if locked then s.refuseLocked a.toNat else s).setHbmQueue p.val
        (s.hbmQueue p.val ++ [⟨w, a.toNat, n, d, refused || locked, 0⟩])) := by
  subst hn hr hl
  have hm : (!w && decide (p.val = 4) && hbmScionArea a.toNat (if w then d.length else l.val)) = false := by
    simpa using h
  simp only [execHbmRequest, hm, Bool.false_eq_true, if_false, State.hbmQueue_noted]

theorem execHbmRequest_refused (hn : n = if w then d.length else l.val) (h : ¬(w = false ∧ p.val = 4 ∧ hbmScionArea a.toNat n = true))
    (hr : hbmAddressable a.toNat n = false ∨ (w = true ∧ (p.val = 4 ∨ p.val = 6) ∧ hbmScionArea a.toNat n = true)) :
    execHbmRequest p w a l d s =
      .next ((s.incSat HBC_REFUSED).setHbmQueue p.val (s.hbmQueue p.val ++ [⟨w, a.toNat, n, d, true, 0⟩])) := by
  have ht : true = (!hbmAddressable a.toNat n || (w && (decide (p.val = 4) || decide (p.val = 6)) && hbmScionArea a.toNat n)) := by
    rcases hr with hr | ⟨hw, hp | hp, ha⟩ <;> simp_all
  exact execHbmRequest_joins hn h ht rfl

theorem not_refused_of (ha : hbmAddressable a.toNat n = true) (h : ¬(w = true ∧ (p.val = 4 ∨ p.val = 6) ∧ hbmScionArea a.toNat n = true)) :
    false = (!hbmAddressable a.toNat n || (w && (decide (p.val = 4) || decide (p.val = 6)) && hbmScionArea a.toNat n)) := by
  have hf : (w && (decide (p.val = 4) || decide (p.val = 6)) && hbmScionArea a.toNat n) = false := by
    rw [Bool.eq_false_iff]
    simpa [and_assoc] using h
  rw [ha, hf]
  rfl

theorem execHbmRequest_locked (hn : n = if w then d.length else l.val) (h : ¬(w = false ∧ p.val = 4 ∧ hbmScionArea a.toNat n = true))
    (ha : hbmAddressable a.toNat n = true) (hr : ¬(w = true ∧ (p.val = 4 ∨ p.val = 6) ∧ hbmScionArea a.toNat n = true))
    (hw : w = true) (hl : s.segLocked a.toNat n = true) :
    execHbmRequest p w a l d s =
      .next ((s.refuseLocked a.toNat).setHbmQueue p.val (s.hbmQueue p.val ++ [⟨w, a.toNat, n, d, true, 0⟩])) :=
  execHbmRequest_joins (locked := true) hn h (not_refused_of ha hr) (by rw [hw, hl]; rfl)

theorem execHbmRequest_waits (hn : n = if w then d.length else l.val) (h : ¬(w = false ∧ p.val = 4 ∧ hbmScionArea a.toNat n = true))
    (ha : hbmAddressable a.toNat n = true) (hr : ¬(w = true ∧ (p.val = 4 ∨ p.val = 6) ∧ hbmScionArea a.toNat n = true))
    (hl : w = false ∨ s.segLocked a.toNat n = false) :
    execHbmRequest p w a l d s = .next (s.setHbmQueue p.val (s.hbmQueue p.val ++ [⟨w, a.toNat, n, d, false, 0⟩])) :=
  execHbmRequest_joins (locked := false) hn h (not_refused_of ha hr) (by rcases hl with hl | hl <;> simp [hl])

end

/-! ## Completions (R654, R655, R658, R665) -/

@[simp] theorem State.hbmPop_hbmChan (s : State) (p : Nat) (r : HbmReq) (rest : List HbmReq) (a : Nat) :
    (s.hbmPop p r rest).hbmChan a = s.hbmChan a := (rfl)
@[simp] theorem State.hbmPop_poisoned (s : State) (p : Nat) (r : HbmReq) (rest : List HbmReq) (a n : Nat) :
    (s.hbmPop p r rest).poisoned a n = s.poisoned a n := (rfl)
@[simp] theorem State.hbmPop_firstPoison (s : State) (p : Nat) (r : HbmReq) (rest : List HbmReq) (a n : Nat) :
    (s.hbmPop p r rest).firstPoison a n = s.firstPoison a n := (rfl)
@[simp] theorem State.hbmPop_badMerges (s : State) (p : Nat) (r : HbmReq) (rest : List HbmReq) (bad a n : Nat) :
    (s.hbmPop p r rest).badMerges bad a n = s.badMerges bad a n := (rfl)
@[simp] theorem State.hbmPop_memBytes (s : State) (p : Nat) (r : HbmReq) (rest : List HbmReq) (a n : Nat) :
    (s.hbmPop p r rest).memBytes a n = s.memBytes a n := (rfl)
@[simp] theorem State.hbmPop_get (s : State) (p : Nat) (r : HbmReq) (rest : List HbmReq) (f : Field) :
    (s.hbmPop p r rest).get f = s.get f := (rfl)
@[simp] theorem State.hbmPop_on (s : State) (p : Nat) (r : HbmReq) (rest : List HbmReq) (f : Field) :
    (s.hbmPop p r rest).on f = s.on f := (rfl)
theorem State.hbmPop_memStore (s : State) (p : Nat) (r : HbmReq) (rest : List HbmReq) (a : Nat) (d : List Byte) :
    (s.hbmPop p r rest).memStore a d = { s.hbmPop p r rest with
      mem := memPut s.mem a d
      poison := s.poison.filter fun g => !(decide (a ≤ g * 64) && decide (g * 64 + 64 ≤ a + d.length)) } := rfl

theorem State.hbmUe_noRetire {s : State} (h : s.on HBC_CTRL_AUTORETIRE = false) (k : Nat) :
    s.hbmUe k false = (s.inc (HBC_CH_UE k)).raise srcHbcUe k 0 := by
  simp [State.hbmUe, h]

section
variable {s : State} {p : Fin 8} {err : Fin 3} {lat : BitVec 10} {r : HbmReq} {rest : List HbmReq}

theorem execHbmResponse_empty {live : Bool} (h : s.hbmQueue p.val = []) : execHbmResponse p err live lat s = .next s := by
  simp [execHbmResponse, h]

theorem execHbmResponse_waits {live : Bool} (h : s.hbmQueue p.val = r :: rest) (hs : s.hbmServes p.val r = false) :
    execHbmResponse p err live lat s = .next s := by
  simp [execHbmResponse, h, hs]

section
variable (h : s.hbmQueue p.val = r :: rest) (hs : s.hbmServes p.val r = true)
include h hs

theorem execHbmResponse_refused (hr : r.refused = true ∨ s.hbmOn = false) : execHbmResponse p err false lat s =
    .next ((s.hbmPop p.val r rest).hbmAnswer p.val r.who (if r.write then some [] else none)) := by
  rcases hr with hr | hr <;> simp [execHbmResponse, h, hs, hr]

theorem execHbmResponse_stores (hr : r.refused = false) (ho : s.hbmOn = true) (hw : r.write = true)
    (hm : p.val = 6 → s.badMerges (if err.val = 2 then 3 else 0) r.addr r.data.length = []) : execHbmResponse p err false lat s =
      .next (((s.hbmPop p.val r rest).memStore r.addr r.data).hbmAnswer p.val r.who (some [])) := by
  have hp : (s.hbmPop p.val r rest).hbmPut p.val r err.val = (s.hbmPop p.val r rest).memStore r.addr r.data := by
    unfold State.hbmPut
    split
    · next h6 => exact State.memMerge_stores (by simpa using hm h6)
    · rfl
  simp [execHbmResponse, h, hs, hr, ho, hw, hp]

theorem execHbmResponse_reads (hr : r.refused = false) (ho : s.hbmOn = true) (hw : r.write = false) (he : err.val ≠ 2)
    (hp : s.poisoned r.addr r.len = false) : execHbmResponse p err false lat s =
      .next ((if err.val = 1 then (s.hbmPop p.val r rest).inc (HBC_CH_CE (s.hbmChan r.addr))
        else s.hbmPop p.val r rest).hbmAnswer p.val r.who (some (s.memBytes r.addr r.len))) := by
  simp [execHbmResponse, h, hs, hr, ho, hw, State.hbmFetch, he, hp]

theorem execHbmResponse_uncorrectable (hr : r.refused = false) (ho : s.hbmOn = true) (hw : r.write = false)
    (he : err.val = 2 ∨ s.poisoned r.addr r.len = true) (ha : s.on HBC_CTRL_AUTORETIRE = false) : execHbmResponse p err false lat s =
      .next (((((s.hbmPop p.val r rest).inc (HBC_CH_UE (s.hbmChan (s.firstPoison r.addr r.len)))).raise srcHbcUe
        (s.hbmChan (s.firstPoison r.addr r.len)) 0)).hbmAnswer p.val r.who none) := by
  have hf : (s.hbmPop p.val r rest).hbmFetch r err.val =
      (none, (s.hbmPop p.val r rest).hbmUe (s.hbmChan (s.firstPoison r.addr r.len)) false) := by
    rcases he with he | he <;> simp [State.hbmFetch, he]
  simp [execHbmResponse, h, hs, hr, ho, hw, hf, State.hbmUe_noRetire, ha]

end

theorem execHbmResponse_live (h : s.hbmQueue 0 = r :: rest) (hs : s.hbmServes 0 r = true) (hr : r.refused = false) (ho : s.hbmOn = true)
    (hw : r.write = false) (hwho : r.who = 0) (he : err.val = 0) (hp : s.poisoned r.addr r.len = false) :
    execHbmResponse 0 err true lat s = .next (((s.hbmPop 0 r rest).put HBC_LATMAX (max (s.get HBC_LATMAX) lat.toNat)).hbmAnswer 0 0
      (some (s.memBytes r.addr r.len))) := by
  have hp' (v : Nat) : ((s.hbmPop 0 r rest).put HBC_LATMAX v).poisoned r.addr r.len = false := hp
  have hm (v : Nat) : ((s.hbmPop 0 r rest).put HBC_LATMAX v).memBytes r.addr r.len = s.memBytes r.addr r.len := rfl
  simp [execHbmResponse, h, hs, hr, ho, hw, hwho, State.hbmFetch, he, hp', hm]

end

/-! ## Fences (R656) -/

section
variable {s : State}

theorem execFenceDone_none (h : s.hbc.fences = []) : execFenceDone s = .next s := by
  simp [execFenceDone, h]

theorem execFenceDone_ends {f : List (Nat × Nat)} {fs : List (List (Nat × Nat))} (h : s.hbc.fences = f :: fs)
    (hf : f.all (fun e => decide (e.2 = 0)) = true) :
    execFenceDone s = .next (({ s with hbc := { s.hbc with fences := fs } }.inc HBC_FENCE_SEQ).event srcHbcFence) := by
  simp only [execFenceDone, h, if_pos hf]

theorem execFenceDone_waits {f : List (Nat × Nat)} {fs : List (List (Nat × Nat))} (h : s.hbc.fences = f :: fs)
    (hf : f.all (fun e => decide (e.2 = 0)) = false) : execFenceDone s = .next s := by
  simp only [execFenceDone, h, if_neg (Bool.not_eq_true _ ▸ hf)]

end

end Sys2Proof.Machine

namespace Sys2Proof.Proofs
open Sys2Proof.Machine

/-- Settles O1: the lemmas of the requests, of the oldest request's completion in each of its cases, and of fences. -/
theorem hbmPorts : Obligations.HbmPorts := by
  unfold Obligations.HbmPorts
  refine ⟨?request, fun s p err live lat => ?idle, fun s p err lat r rest h hs => ?response, fun s err lat r rest h hs hr ho hw hwho he hp => ?live,
    fun s ports hr => ?fence, fun s => ?done⟩
  case request =>
    intro s p w a l d n hn
    rw [exec_hbmRequest]
    refine ⟨fun ⟨hw, hp, ha⟩ => execHbmRequest_notMade hn hw hp ha, fun h => ⟨execHbmRequest_refused hn h, fun ha hr => ⟨?_, ?_⟩⟩⟩
    · exact fun ⟨hw, hl⟩ => execHbmRequest_locked hn h ha hr hw hl
    · exact execHbmRequest_waits hn h ha hr
  case idle =>
    rw [exec_hbmResponse]
    exact ⟨execHbmResponse_empty, fun r rest => execHbmResponse_waits⟩
  case response =>
    rw [exec_hbmResponse, ← State.hbmPop_memStore]
    exact ⟨execHbmResponse_refused h hs, execHbmResponse_stores h hs, execHbmResponse_reads h hs, execHbmResponse_uncorrectable h hs⟩
  case live =>
    rw [exec_hbmResponse]
    exact execHbmResponse_live h hs hr ho hw hwho he hp
  case fence =>
    rw [exec_hbmFence, execHbmFence, State.reachReg_of_reaches _ hr]
    rfl
  case done =>
    rw [exec_fenceDone]
    exact ⟨execFenceDone_none, fun f fs h => ⟨execFenceDone_ends h, execFenceDone_waits h⟩⟩

end Sys2Proof.Proofs
end

