-- ==== Sys2Proof/Proofs/ScionPlotsAndInterrupts.lean ====
section
/-! SUPPORT. The plots of a Scion, its interrupt inputs and its doorbells: one lemma per command and case, what `topInput` picks, and the
statement on plots and interrupts. -/

namespace Sys2Proof.Machine

/-! ## Plot writes (R581, R582, R614) -/

section
variable {s : State} {r : Req} {c : Fin 16} {b : Bool} {k : Fin 8} {d : BitVec 32}

theorem State.plotsFrozen_iff {n : Nat} : s.plotsFrozen n = true ↔ s.scnState n = 2 ∨ s.scnState n = 3 := by
  simp [State.plotsFrozen, State.scnState]

theorem effPlotWrite_ignored (h : r ≠ .rootstock ∨ s.scnState c.val = 2 ∨ s.scnState c.val = 3 ∨ bits d.toNat 26 2 = 3) :
    effPlotWrite r c b k d s = .next s := by
  rw [← or_assoc (a := s.scnState c.val = 2), ← State.plotsFrozen_iff] at h
  unfold effPlotWrite
  exact if_pos (by simpa [or_assoc] using h)

/-- The write of a plot that is not frozen, in the terms of the rule. -/
theorem effPlotWrite_takes (hr : r = .rootstock) (hw : s.scnState c.val ≠ 2) (hs : s.scnState c.val ≠ 3) (ht : bits d.toNat 26 2 ≠ 3)
    (hd : s.domOn (3 + c.val / 4) = true) :
    effPlotWrite r c b k d s = .next (if bitAt d.toNat 31 = false then s.putAttr b c.val k.val d.toNat false
      else if s.plotOk b c.val k.val d.toNat = true then s.putAttr b c.val k.val d.toNat true
      else s.put (if b = true then SCN_SPLOT_ATTR_EN c.val k.val else SCN_PLOT_ATTR_EN c.val k.val) 0) := by
  have hf : s.plotsFrozen c.val = false := by
    rw [Bool.eq_false_iff, Ne, State.plotsFrozen_iff]
    exact not_or.mpr ⟨hw, hs⟩
  cases b <;> simp [effPlotWrite, hr, hf, ht, State.inDomain, hd]

end

/-! ## Accesses that no plot allows (R580) -/

section
variable {s : State} {c : Fin 16} {kind : Access} {a : BitVec 40} {n : Fin 65} {pc : BitVec 64}

theorem State.scnRuns_iff {n : Nat} : s.scnRuns n = true ↔ s.scnState n = 1 ∨ s.scnState n = 4 := by
  simp [State.scnRuns, State.scnState]

theorem accessCause_eq : accessCause kind = if kind = .fetch then 1 else if kind = .load ∨ kind = .lr then 5 else 7 := by
  cases kind <;> rfl

theorem execPlotAccessFault_allowed (h : s.scnRuns c.val = false ∨ s.plotAllows c.val kind a.toNat n.val = true) :
    execPlotAccessFault c kind a n pc s = .next s :=
  if_pos (by simpa using h)

theorem execPlotAccessFault_traps (hr : s.scnRuns c.val = true) (hp : s.plotAllows c.val kind a.toNat n.val = false) :
    execPlotAccessFault c kind a n pc s = .next ((s.setCore c.val { s.core c.val with
      csr := [pc.toNat, accessCause kind, a.toNat, (s.core c.val).csr.getD 3 0] }).inc (SCN_NPLOTF c.val)) :=
  if_neg (by simp [hr, hp])

end

/-! ## Interrupts (R583, R584) -/

section
variable {s : State} {c : Fin 17}

theorem execInterruptPending_none {i : Fin 336} (h : ∀ e ∈ (s.core c.val).arriving, e.1 ≠ i.val) :
    execInterruptPending c i s = .next s := by
  have hn : ((s.core c.val).arriving.find? fun e => e.1 == i.val) = none := by simpa using h
  simp [execInterruptPending, hn]

theorem execInterruptPending_arrived {i : Fin 336} {p : Nat} (h : ((s.core c.val).arriving.find? fun e => e.1 == i.val) = some (i.val, p)) :
    execInterruptPending c i s = .next (s.setCore c.val { s.core c.val with
      pending := addInput (s.core c.val).pending i.val p
      arriving := (s.core c.val).arriving.filter fun x => x.1 != i.val }) := by
  simp [execInterruptPending, h]

theorem execInterruptClaim_none (h : topInput (s.core c.val).ready = none) :
    execInterruptClaim c s = .next (s.setCore c.val { s.core c.val with claim := 0 }) := by
  simp [execInterruptClaim, h]

theorem execInterruptClaim_some {e : Nat × Nat} (h : topInput (s.core c.val).ready = some e) :
    execInterruptClaim c s = .next (s.setCore c.val { s.core c.val with
      claim := e.1 + 1
      masked := insertNat e.1 (s.core c.val).masked
      pending := (s.core c.val).pending.filter fun x => x.1 != e.1 }) := by
  simp [execInterruptClaim, h]

theorem topInput_eq_none {l : List (Nat × Nat)} : topInput l = none ↔ l = [] := by
  cases l with
  | nil => simp [topInput]
  | cons e es =>
    simp only [topInput, reduceCtorEq, iff_false]
    split
    · simp
    · split <;> simp

/-- An input comes before another: of a higher priority, or of the same and with the lower number (R584). -/
def inputBefore (e f : Nat × Nat) : Prop := f.2 ≤ e.2 ∧ (f.2 = e.2 → e.1 ≤ f.1)

theorem inputBefore_refl (e : Nat × Nat) : inputBefore e e := ⟨le_rfl, fun _ => le_rfl⟩

theorem inputBefore_trans {e f g : Nat × Nat} (h : inputBefore e f) (h' : inputBefore f g) : inputBefore e g := by
  unfold inputBefore at *
  omega

theorem topInput_spec {l : List (Nat × Nat)} {e : Nat × Nat} (h : topInput l = some e) : e ∈ l ∧ ∀ f ∈ l, inputBefore e f := by
  induction l generalizing e with
  | nil => simp [topInput] at h
  | cons x xs ih =>
    rw [topInput] at h
    cases hx : topInput xs with
    | none =>
      obtain rfl : x = e := by simpa [hx] using h
      simp [topInput_eq_none.mp hx, inputBefore_refl]
    | some y =>
      obtain ⟨hy, hle⟩ := ih hx
      simp only [hx] at h
      split at h
      case isTrue hb =>
        obtain rfl := Option.some.inj h
        have hxy : inputBefore x y := by
          simp only [Bool.or_eq_true, Bool.and_eq_true, decide_eq_true_eq] at hb
          unfold inputBefore
          omega
        exact ⟨List.mem_cons_self, List.forall_mem_cons.mpr ⟨inputBefore_refl x, fun f hf => inputBefore_trans hxy (hle f hf)⟩⟩
      case isFalse hb =>
        obtain rfl := Option.some.inj h
        have hyx : inputBefore y x := by
          simp only [Bool.or_eq_true, Bool.and_eq_true, decide_eq_true_eq] at hb
          unfold inputBefore
          omega
        exact ⟨List.mem_cons_of_mem _ hy, List.forall_mem_cons.mpr ⟨hyx, hle⟩⟩

theorem execInterruptComplete_zero : execInterruptComplete c 0 s = .next s := by simp [execInterruptComplete]

theorem execInterruptComplete_unmasks {v : BitVec 32} (h : v ≠ 0) :
    execInterruptComplete c v s = .next (s.setCore c.val { s.core c.val with masked := (s.core c.val).masked.filter fun i => i + 1 != v.toNat }) :=
  if_neg h

end

/-! ## Doorbells (R583) -/

section
variable {s : State} {r : Req} {c : Fin 16} {d : BitVec 32}

theorem effDoorbell_ignored (h : r ≠ .rootstock) : effDoorbell r c d s = .next s := if_neg h

theorem effDoorbell_delivers (h : r = .rootstock) (hd : s.domOn (3 + c.val / 4) = true) :
    effDoorbell r c d s = .next ((List.range 16).foldl (fun t k => if bitAt d.toNat k then t.deliverTo c.val (320 + k) 15 else t) s) := by
  simp [effDoorbell, h, State.inDomain, hd]

theorem State.deliverTo_dead {n i p : Nat} (hn : n < 16) (h : s.scnState n = 6) : s.deliverTo n i p = s :=
  if_pos (by simpa [hn, State.scnState] using h)

theorem State.deliverTo_arrives {n i p : Nat} (h : s.scnState n ≠ 6) :
    s.deliverTo n i p = s.setCore n { s.core n with arriving := addInput (s.core n).arriving i p } :=
  if_neg (by simpa [State.scnState] using fun _ => h)

end

end Sys2Proof.Machine

namespace Sys2Proof.Proofs
open Sys2Proof.Machine

/-- Settles O37: the lemmas of each command, and that `topInput` picks an input that none comes before. -/
theorem scionPlotsAndInterrupts : Obligations.ScionPlotsAndInterrupts := by
  unfold Obligations.ScionPlotsAndInterrupts
  refine ⟨?plot, ?access, ?pending, ?claim, fun l e => ⟨topInput_eq_none, topInput_spec⟩, ?complete, ?doorbell, fun s c i p hc =>
    ⟨State.deliverTo_dead hc, State.deliverTo_arrives⟩⟩
  case plot =>
    intro s r c b k d hr
    rw [exec_plotWrite, execPlotWrite, State.reachReg_of_reaches _ hr]
    refine ⟨effPlotWrite_ignored, fun hq hw hs ht hd => ?_⟩
    rw [effPlotWrite_takes hq hw hs ht hd]
    refine ⟨fun h => ?_, fun h ho => ?_, fun h ho => ?_⟩
    · rw [if_pos h]
    · rw [if_neg (by simp [h]), if_pos ho]
    · rw [if_neg (by simp [h]), if_neg (by simp [ho])]
  case access =>
    intro s c kind a n pc
    rw [exec_plotAccessFault, ← accessCause_eq]
    exact ⟨execPlotAccessFault_allowed, execPlotAccessFault_traps, State.scnRuns_iff⟩
  case pending =>
    intro s c i
    rw [exec_interruptPending]
    exact ⟨execInterruptPending_none, fun p => execInterruptPending_arrived⟩
  case claim =>
    intro s c
    rw [exec_interruptClaim]
    exact ⟨execInterruptClaim_none, fun e => execInterruptClaim_some⟩
  case complete =>
    intro s c v
    rw [exec_interruptComplete]
    exact ⟨by rintro rfl; exact execInterruptComplete_zero, execInterruptComplete_unmasks⟩
  case doorbell =>
    intro s r c d hr
    rw [exec_doorbell, execDoorbell, State.reachReg_of_reaches _ hr]
    exact ⟨effDoorbell_ignored, effDoorbell_delivers⟩

end Sys2Proof.Proofs
end

