-- ==== Sys2Proof/Proofs/HbmPauses.lean ====
section
/-! SUPPORT. Retrain pauses, refresh and stack temperatures: when a pause begins, what its end does, and what a reading shows; then the
statement on pauses. -/

namespace Sys2Proof.Machine

/-! ## The shadow slots (R661) -/

theorem foldl_setShadow (m : Nat) (g : Nat × Nat → List Nat) (l : List (Nat × (Nat × Nat))) (s : State) :
    l.foldl (fun t e => t.setShadow m e.1 (g e.2)) s = { s with hbc := { s.hbc with
      shadow := (l.foldl (fun t e => t.setShadow m e.1 (g e.2)) s).hbc.shadow } } := by
  induction l generalizing s with
  | nil => rfl
  | cons e l ih => exact ih (s.setShadow m e.1 (g e.2))

/-- A slot that none of the entries names stays. -/
theorem shadowSlot_foldl_setShadow_ne {m k : Nat} (g : Nat × Nat → List Nat) {l : List (Nat × (Nat × Nat))} (h : ∀ e ∈ l, e.1 ≠ k)
    (s : State) : (l.foldl (fun t e => t.setShadow m e.1 (g e.2)) s).shadowSlot m k = s.shadowSlot m k := by
  induction l generalizing s with
  | nil => rfl
  | cons e l ih =>
    rw [List.foldl_cons, ih fun x hx => h x (List.mem_cons_of_mem _ hx)]
    have he : e.1 ≠ k := h e List.mem_cons_self
    exact Assoc.get_set_ne _ _ _ _ (by omega)

theorem State.fillShadow_eq (s : State) (c : Nat) :
    s.fillShadow c = { s with hbc := { s.hbc with shadow := (s.fillShadow c).hbc.shadow } } := by
  unfold State.fillShadow
  split
  · rfl
  · exact foldl_setShadow _ _ _ _

theorem State.fillShadow_idle {s : State} (h : s.seq.running = none) (c : Nat) : s.fillShadow c = s := by
  simp [State.fillShadow, h]

/-- The first slot of a stack holds what the running stream comes to read of the channel. -/
theorem State.fillShadow_shadowSlot {s : State} {p : Playlist} (h : s.seq.running = some p) (c : Nat) :
    (s.fillShadow c).shadowSlot (c / 16) 0 = s.streamGranules p c (s.posOn p s.seq.pos s.seq.buf.length) := by
  simp only [State.fillShadow, h, State.liveStreams, List.cons_append, List.foldl_cons]
  rw [shadowSlot_foldl_setShadow_ne]
  · exact Assoc.get_set_same _ _ _ _
  · intro e he
    simp only [List.mem_append, List.mem_map] at he
    rcases he with ⟨k, -, rfl⟩ | ⟨k, -, rfl⟩ <;> simp

/-! ## The start of a pause (R660 to R662) -/

/-- Channel c has its pause of this retrain cycle. -/
def State.pauseNoted (s : State) (c : Nat) : State :=
  { s with hbc := { s.hbc with begun := Assoc.set 0 s.hbc.begun c (s.retrainCycle + 1) } }

theorem State.pauseNoted_streamBytes (s : State) (c : Nat) (l : List Nat) (r n : Nat) :
    (s.pauseNoted c).streamBytes l r n = s.streamBytes l r n := by
  induction l generalizing r n with
  | nil => rfl
  | cons k ks ih =>
    rw [State.streamBytes, State.streamBytes, ih]
    rfl

theorem State.pauseNoted_streamGranules (s : State) (c : Nat) (p : Playlist) (k : Nat) (q : Nat × Nat) :
    (s.pauseNoted c).streamGranules p k q = s.streamGranules p k q := by
  unfold State.streamGranules
  rw [State.pauseNoted_streamBytes]
  rfl

/-- Channel c goes into pause. -/
def State.paused (s : State) (c : Nat) (unfilled : Bool) : State :=
  { s.put (HBC_CH_STATUS_STATE c) 1 with hbc := { s.hbc with unfilled := unfilled } }

section
variable {s : State} {ch : Fin 32} {slots : Fin 3}

theorem State.paused_shadowSlot (s : State) (c : Nat) (b : Bool) (m k : Nat) : (s.paused c b).shadowSlot m k = s.shadowSlot m k := rfl

theorem execRetrainPauseStart_none (h : s.hbmOn = false ∨ s.get (HBC_CH_STATUS_STATE ch.val) = 3 ∨ (List.range 32).any s.hbmPaused = true ∨
    s.pauseAge ch.val = none ∨ s.pauseDone ch.val = true) : execRetrainPauseStart ch slots s = .next s := by
  unfold execRetrainPauseStart
  split
  · rfl
  · next hn =>
    simp only [Bool.or_eq_true, Bool.not_eq_true', decide_eq_true_eq, not_or] at hn
    obtain ⟨⟨hon, hst⟩, hany⟩ := hn
    rcases h with h | h | h | h | h
    · exact absurd h hon
    · exact absurd h hst
    · exact absurd h hany
    · rw [h]
    · split
      · rfl
      · rw [if_pos h]

section
variable {age : Nat} (hon : s.hbmOn = true) (hst : s.get (HBC_CH_STATUS_STATE ch.val) ≠ 3) (hany : (List.range 32).any s.hbmPaused = false)
  (hage : s.pauseAge ch.val = some age) (hd : s.pauseDone ch.val = false)
include hon hst hany hage hd

theorem execRetrainPauseStart_defers (h : slots = 1 ∨ slots = 2 ∧ age < 5000) :
    execRetrainPauseStart ch slots s = .next (s.deferPause ch.val) := by
  have hs : (slots.val = 1 || (slots.val = 2 && decide (age < 5000))) = true := by
    rcases h with rfl | ⟨rfl, h⟩ <;> simp_all
  simp only [execRetrainPauseStart, hon, hst, hany, hage, hd, hs]
  rfl

theorem execRetrainPauseStart_fills (h : slots = 0) :
    execRetrainPauseStart ch slots s = .next (((s.pauseNoted ch.val).fillShadow ch.val).paused ch.val false) := by
  subst h
  simp only [execRetrainPauseStart, hon, hst, hany, hage, hd]
  rfl

theorem execRetrainPauseStart_unfilled (h : slots = 2) (ha : 5000 ≤ age) :
    execRetrainPauseStart ch slots s = .next ((s.pauseNoted ch.val).paused ch.val true) := by
  subst h
  have hs : decide (age < 5000) = false := by simpa using ha
  simp only [execRetrainPauseStart, hon, hst, hany, hage, hd, hs]
  rfl

end

/-! ## The end of a pause (R667, R669, R677) -/

/-- Channel c comes out of its pause, in service or retiring. -/
def State.resumed (s : State) (c : Nat) : State := { s.put (HBC_CH_STATUS_STATE c)
    (if s.on HBC_RMAP_COPYING && decide (s.get HBC_RMAP_CH = c) then 2 else 0) with hbc := { s.hbc with unfilled := false } }

/-- One failed retrain more. -/
def State.retrainFailed (s : State) (c : Nat) : State :=
  (s.inc (HBC_CH_NRTFAIL c)).put (HBC_CH_STATUS_RTSEQ c) (min 3 (s.get (HBC_CH_STATUS_RTSEQ c) + 1))

theorem execRetrainPauseEnd_none {bad : Bool} (h : s.hbmPaused ch.val = false) : execRetrainPauseEnd ch bad s = .next s := by
  simp [execRetrainPauseEnd, h]

theorem execRetrainPauseEnd_good (h : s.hbmPaused ch.val = true) :
    execRetrainPauseEnd ch false s = .next ((s.resumed ch.val).put (HBC_CH_STATUS_RTSEQ ch.val) 0) := by
  simp [execRetrainPauseEnd, h, State.resumed]

theorem execRetrainPauseEnd_bad (h : s.hbmPaused ch.val = true) : execRetrainPauseEnd ch true s =
    .next (if ((s.resumed ch.val).retrainFailed ch.val).get (HBC_CH_STATUS_RTSEQ ch.val) = 3 ∧
        ((s.resumed ch.val).retrainFailed ch.val).on HBC_CTRL_AUTORETIRE = true then
      ((s.resumed ch.val).retrainFailed ch.val).retireRequest ch.val else (s.resumed ch.val).retrainFailed ch.val) := by
  simp only [execRetrainPauseEnd, h, Bool.not_true, Bool.false_eq_true, if_false, if_true]
  rw [apply_ite Host.Outcome.next]
  refine if_congr ?_ rfl rfl
  rw [Bool.and_eq_true, decide_eq_true_eq]
  rfl

end

section
variable {s : State} {c : Nat}

/-- What a failed retrain leaves of the registers. -/
theorem State.get_resumed_retrainFailed {f : Field} (h : f.off < 0x500400 ∧ f.lo < 32) :
    ((s.resumed c).retrainFailed c).get f = s.get f := by
  unfold State.retrainFailed State.resumed
  simp (disch := (simp only [Field.id, HBC_CH_STATUS_STATE, HBC_CH_NRTFAIL, HBC_CH_STATUS_RTSEQ]; omega)) only
    [State.get_put_ne, State.inc_eq]
  exact State.get_put_ne _ _ (by simp only [Field.id, HBC_CH_STATUS_STATE]; omega)

theorem State.get_nrtfail_resumed_retrainFailed :
    ((s.resumed c).retrainFailed c).get (HBC_CH_NRTFAIL c) = (s.get (HBC_CH_NRTFAIL c) + 1) % 2 ^ 32 := by
  unfold State.retrainFailed
  rw [State.get_put_ne _ _ (by simp only [Field.id, HBC_CH_NRTFAIL, HBC_CH_STATUS_RTSEQ]; omega), State.get_inc_same]
  have h : (s.resumed c).get (HBC_CH_NRTFAIL c) = s.get (HBC_CH_NRTFAIL c) :=
    State.get_put_ne _ _ (by simp only [Field.id, HBC_CH_NRTFAIL, HBC_CH_STATUS_STATE]; omega)
  rw [h]
  rfl

theorem State.get_rtseq_resumed : (s.resumed c).get (HBC_CH_STATUS_RTSEQ c) = s.get (HBC_CH_STATUS_RTSEQ c) :=
  State.get_put_ne _ _ (by simp only [Field.id, HBC_CH_STATUS_RTSEQ, HBC_CH_STATUS_STATE]; omega)

theorem State.get_rtseq_resumed_retrainFailed :
    ((s.resumed c).retrainFailed c).get (HBC_CH_STATUS_RTSEQ c) = min 3 (s.get (HBC_CH_STATUS_RTSEQ c) + 1) := by
  unfold State.retrainFailed
  rw [State.get_put_same, State.get_rtseq_resumed]
  exact Nat.mod_eq_of_lt (lt_of_le_of_lt (min_le_left _ _) (by norm_num [HBC_CH_STATUS_RTSEQ]))

theorem State.get_state_resumed_retrainFailed (h : s.on HBC_RMAP_COPYING = false) :
    ((s.resumed c).retrainFailed c).get (HBC_CH_STATUS_STATE c) = 0 := by
  unfold State.retrainFailed State.resumed
  simp (disch := (simp only [Field.id, HBC_CH_STATUS_STATE, HBC_CH_NRTFAIL, HBC_CH_STATUS_RTSEQ]; omega)) only
    [State.get_put_ne, State.inc_eq, h, Bool.false_and, Bool.false_eq_true, if_false]
  exact (State.get_put_same _ _ _).trans (Nat.zero_mod _)

/-- A channel's retirement begins: the reserve's map names it. -/
theorem State.get_beginCopy_rtseq {k : Nat} : (s.beginCopy k).get (HBC_CH_STATUS_RTSEQ c) = s.get (HBC_CH_STATUS_RTSEQ c) := by
  unfold State.beginCopy
  simp (disch := (simp only [Field.id, HBC_RMAP_COPYING, HBC_RMAP_CH, HBC_STATUS_RETBUSY, HBC_RETIRE_PROG, HBC_CH_STATUS_RTSEQ]; omega)) only
    [State.get_put_ne]

theorem State.on_copying_retiring : ((s.beginCopy c).put (HBC_CH_STATUS_STATE c) 2).on HBC_RMAP_COPYING = true := by
  rw [State.on_true, State.beginCopy, State.get_put_ne _ _ (by simp only [Field.id, HBC_RMAP_COPYING, HBC_CH_STATUS_STATE]; omega),
    State.get_put_ne _ _ (by decide), State.get_put_ne _ _ (by decide), State.get_put_ne _ _ (by decide), State.get_put_same]
  decide

theorem State.get_rmapCh_retiring (hc : c < 32) : ((s.beginCopy c).put (HBC_CH_STATUS_STATE c) 2).get HBC_RMAP_CH = c := by
  rw [State.beginCopy, State.get_put_ne _ _ (by simp only [Field.id, HBC_RMAP_CH, HBC_CH_STATUS_STATE]; omega),
    State.get_put_ne _ _ (by decide), State.get_put_ne _ _ (by decide), State.get_put_same]
  exact Nat.mod_eq_of_lt hc

end

/-! ## Temperatures (R663, R664) -/

section
variable (s : State) (m : Nat) (b : Bool)

theorem HBC_CH_STATUS_DBL_id_ne {m i j : Nat} (h : i ≠ j) : (HBC_CH_STATUS_DBL (16 * m + i)).id ≠ (HBC_CH_STATUS_DBL (16 * m + j)).id := by
  simp only [Field.id, HBC_CH_STATUS_DBL]
  omega

theorem State.get_setDbl_same {i : Nat} (hi : i < 16) : (s.setDbl m b).get (HBC_CH_STATUS_DBL (16 * m + i)) = b2n b := by
  rw [State.setDbl]
  refine (get_foldl_range_put (fun i => HBC_CH_STATUS_DBL (16 * m + i)) (fun _ => b2n b) (fun _ _ => HBC_CH_STATUS_DBL_id_ne) hi _).trans ?_
  cases b <;> rfl

theorem State.get_setDbl_ne {f : Field} (h0 : f.id ≠ HBC_STATUS_DBL0.id) (h1 : f.id ≠ HBC_STATUS_DBL1.id)
    (h : f.off < 0x500400 ∧ f.lo < 32) : (s.setDbl m b).get f = s.get f := by
  have hk : ∀ (t : State) (i : Nat), (t.flag (HBC_CH_STATUS_DBL (16 * m + i)) b).get f = t.get f := fun t i =>
    State.get_put_ne t _ (by simp only [Field.id, HBC_CH_STATUS_DBL]; omega)
  refine (foldl_keeps (fun t : State => t.get f) hk _ _).trans ?_
  split
  · exact State.get_put_ne _ _ h0
  · exact State.get_put_ne _ _ h1

@[simp] theorem State.setDbl_hbc : (s.setDbl m b).hbc = s.hbc :=
  (foldl_keeps (fun t : State => t.hbc) (fun _ _ => State.flag_hbc _ _ _) _ _).trans (State.flag_hbc _ _ _)

@[simp] theorem State.setDbl_mem : (s.setDbl m b).mem = s.mem :=
  (foldl_keeps (fun t : State => t.mem) (fun _ _ => State.flag_mem _ _ _) _ _).trans (State.flag_mem _ _ _)

@[simp] theorem State.setDbl_raised : (s.setDbl m b).raised = s.raised :=
  (foldl_keeps (fun t : State => t.raised) (fun _ _ => State.flag_raised _ _ _) _ _).trans (State.flag_raised _ _ _)

end

/-- The register that shows a stack's temperature, and the one that says it is hot. -/
def stackTemp (m : Fin 2) : Field := if m = 0 then HBC_TEMP_M0 else HBC_TEMP_M1
def stackHot (m : Fin 2) : Field := if m = 0 then HBC_STATUS_HOT0 else HBC_STATUS_HOT1

/-- A reading of stack m is shown, and how many in a row were cool is kept. -/
def State.tempShown (s : State) (m : Fin 2) (t : BitVec 8) : State := { s.put (stackTemp m) t.toNat with
  hbc := { s.hbc with cool := Assoc.set 0 s.hbc.cool m.val (if t.toInt ≤ 83 then min 32 (Assoc.get 0 s.hbc.cool m.val + 1) else 0) } }

/-- The refresh interval that a reading of stack m sets. -/
def State.tempDoubled (s : State) (m : Fin 2) (t : BitVec 8) : State :=
  if 85 < t.toInt then (s.tempShown m t).setDbl m.val true
  else if t.toInt ≤ 83 ∧ 31 ≤ Assoc.get 0 s.hbc.cool m.val then (s.tempShown m t).setDbl m.val false else s.tempShown m t

section
variable {s : State} {m : Fin 2} {t : BitVec 8}

theorem execHbmTempRead_eq : execHbmTempRead m t s =
    .next (if 95 < t.toInt ∧ s.on (stackHot m) = false then ((s.tempDoubled m t).flag (stackHot m) (95 < t.toInt)).event srcHbcHot
      else (s.tempDoubled m t).flag (stackHot m) (95 < t.toInt)) := by
  have hm : m.val = 0 ↔ m = 0 := by omega
  have hc : (if t.toInt ≤ 83 then min 32 (Assoc.get 0 s.hbc.cool m.val + 1) else 0) = 32 ↔
      t.toInt ≤ 83 ∧ 31 ≤ Assoc.get 0 s.hbc.cool m.val := by
    by_cases h : t.toInt ≤ 83
    · rw [if_pos h]
      omega
    · simp [h]
  simp only [execHbmTempRead, State.tempDoubled, ← hc, stackHot, hm, Bool.and_eq_true, decide_eq_true_eq, Bool.not_eq_true']
  rfl

end

section
variable {s : State} {m : Fin 2} {t : BitVec 8}

theorem stackHot_id : (stackHot m).id ≠ (stackTemp m).id ∧ (∀ i, (HBC_CH_STATUS_DBL i).id ≠ (stackHot m).id) ∧
    ∀ i, (HBC_CH_STATUS_DBL i).id ≠ (stackTemp m).id := by
  unfold stackHot stackTemp
  split <;> refine ⟨by decide, fun i => ?_, fun i => ?_⟩ <;>
    simp only [Field.id, HBC_CH_STATUS_DBL, HBC_STATUS_HOT0, HBC_STATUS_HOT1, HBC_TEMP_M0, HBC_TEMP_M1] <;> omega

/-- What a reading keeps, whatever interval it sets. -/
theorem State.tempDoubled_keeps : (s.tempDoubled m t).mem = s.mem ∧ (s.tempDoubled m t).hbc.ports = s.hbc.ports ∧
    (s.tempDoubled m t).raised = s.raised := by
  unfold State.tempDoubled
  split
  · simp [State.tempShown]
  · split <;> simp [State.tempShown]

theorem State.get_stackTemp_tempDoubled : (s.tempDoubled m t).get (stackTemp m) = t.toNat := by
  have hw : (s.tempShown m t).get (stackTemp m) = t.toNat := by
    refine (State.get_put_same s _ _).trans (Nat.mod_eq_of_lt ?_)
    unfold stackTemp
    split <;> exact t.isLt
  have hd (b : Bool) : ((s.tempShown m t).setDbl m.val b).get (stackTemp m) = (s.tempShown m t).get (stackTemp m) := by
    unfold stackTemp
    split <;> exact State.get_setDbl_ne _ _ _ (by decide) (by decide) (by decide)
  unfold State.tempDoubled
  split
  · rw [hd, hw]
  · split
    · rw [hd, hw]
    · exact hw

theorem State.get_dbl_tempDoubled {i : Nat} (hi : i < 16) : (s.tempDoubled m t).get (HBC_CH_STATUS_DBL (16 * m.val + i)) =
    if 85 < t.toInt then 1 else if t.toInt ≤ 83 ∧ 31 ≤ Assoc.get 0 s.hbc.cool m.val then 0
      else s.get (HBC_CH_STATUS_DBL (16 * m.val + i)) := by
  unfold State.tempDoubled
  split
  · exact State.get_setDbl_same _ _ _ hi
  · split
    · exact State.get_setDbl_same _ _ _ hi
    · exact State.get_put_ne s _ (stackHot_id.2.2 _)

/-- What a reading shows, with the event left out. -/
theorem State.get_heated {f : Field} (h : f.id ≠ (stackHot m).id) {b : Bool} :
    ((s.tempDoubled m t).flag (stackHot m) b).get f = (s.tempDoubled m t).get f :=
  State.get_put_ne _ _ h

theorem execHbmTempRead_completes : Completes (execHbmTempRead m t s) fun u =>
    u.cells = ((s.tempDoubled m t).flag (stackHot m) (95 < t.toInt)).cells ∧ u.mem = s.mem ∧ u.hbc.ports = s.hbc.ports ∧
    (95 < t.toInt → s.on (stackHot m) = false → ∃ r, u.raised = s.raised ++ [r] ∧ r.src = srcHbcHot) ∧
    (t.toInt ≤ 95 ∨ s.on (stackHot m) = true → u.raised = s.raised) := by
  obtain ⟨hmem, hports, hraised⟩ := State.tempDoubled_keeps (s := s) (m := m) (t := t)
  refine completes_of_eq execHbmTempRead_eq ?_
  by_cases h : 95 < t.toInt ∧ s.on (stackHot m) = false
  · rw [if_pos h]
    refine ⟨rfl, hmem, hports, fun _ _ => ?_, fun hn => ?_⟩
    · rw [State.event_eq, State.raise_raised, State.flag_raised, hraised]
      exact ⟨_, rfl, rfl⟩
    · rcases hn with hn | hn
      · exact absurd h.1 (not_lt.mpr hn)
      · exact absurd h.2 (by simp [hn])
  · rw [if_neg h]
    exact ⟨rfl, hmem, hports, fun hh ho => absurd ⟨hh, ho⟩ h, fun _ => hraised⟩

end

end Sys2Proof.Machine

namespace Sys2Proof.Proofs
open Sys2Proof.Machine

/-- Settles O3: the start of a pause in each of its cases, its end, refresh, and what a reading shows. -/
theorem hbmPauses : Obligations.HbmPauses := by
  unfold Obligations.HbmPauses
  refine ⟨fun s ch slots => ⟨?none, fun age hon hst hany hage hd => ⟨?defers, ?idle, ?running, ?unfilled⟩⟩, fun s c => rfl, ?ends, ?third,
    ?refresh, ?temp⟩
  case none =>
    rw [exec_retrainPauseStart]
    exact execRetrainPauseStart_none
  case defers =>
    rw [exec_retrainPauseStart]
    exact execRetrainPauseStart_defers hon hst hany hage hd
  case idle =>
    intro h hr
    rw [exec_retrainPauseStart, execRetrainPauseStart_fills hon hst hany hage hd h, State.fillShadow_idle (s := s.pauseNoted ch.val) hr]
    rfl
  case running =>
    intro h p hr
    refine ⟨_, (exec_retrainPauseStart ch slots s).trans (execRetrainPauseStart_fills hon hst hany hage hd h), ?_, ?_⟩
    · rw [State.fillShadow_eq]
      rfl
    · exact (State.paused_shadowSlot _ _ _ _ _).trans ((State.fillShadow_shadowSlot (s := s.pauseNoted ch.val) hr ch.val).trans
        (State.pauseNoted_streamGranules _ _ _ _ _))
  case unfilled =>
    intro h ha
    rw [exec_retrainPauseStart, execRetrainPauseStart_unfilled hon hst hany hage hd h ha]
    rfl
  case ends =>
    intro s ch bad
    simp only [exec_retrainPauseEnd]
    refine ⟨execRetrainPauseEnd_none, execRetrainPauseEnd_good, fun hp hlt hc => ?_⟩
    have hseq : ((s.resumed ch.val).retrainFailed ch.val).get (HBC_CH_STATUS_RTSEQ ch.val) = s.get (HBC_CH_STATUS_RTSEQ ch.val) + 1 := by
      rw [State.get_rtseq_resumed_retrainFailed]
      omega
    rw [execRetrainPauseEnd_bad hp, if_neg (by rw [hseq]; omega)]
    exact ⟨_, rfl, State.get_nrtfail_resumed_retrainFailed, hseq, State.get_state_resumed_retrainFailed hc, rfl, rfl⟩
  case third =>
    intro s ch hp h2 hc hv hon ha
    have hseq : ((s.resumed ch.val).retrainFailed ch.val).get (HBC_CH_STATUS_RTSEQ ch.val) = 3 := by
      rw [State.get_rtseq_resumed_retrainFailed, h2]
      rfl
    have hstate := State.get_state_resumed_retrainFailed (c := ch.val) hc
    have hkeep {f : Field} (hf : f.off < 0x500400 ∧ f.lo < 32) : ((s.resumed ch.val).retrainFailed ch.val).on f = s.on f := by
      rw [State.on, State.get_resumed_retrainFailed hf, State.on]
    rw [exec_retrainPauseEnd, execRetrainPauseEnd_bad hp, if_pos ⟨hseq, by rw [hkeep (by decide), ha]⟩,
      State.retireRequest_begins (by rw [hkeep (by decide), hv]) (by rw [hkeep (by decide), hc])
        (by rw [State.hbmOn, hkeep (by decide)]; exact hon) (by rw [hstate]; decide),
      if_neg (by simp [State.hbmPaused, hstate])]
    refine ⟨_, rfl, ?_, ?_, ?_, State.get_put_same _ _ _⟩
    · rw [State.get_put_ne _ _ (by simp only [Field.id, HBC_CH_STATUS_RTSEQ, HBC_CH_STATUS_STATE]; omega), State.get_beginCopy_rtseq, hseq]
    · exact State.on_copying_retiring
    · exact State.get_rmapCh_retiring ch.isLt
  case refresh =>
    intro s ch
    rw [exec_hbmRefresh]
    exact ⟨_, rfl, Assoc.get_set_same _ _ _ _, rfl⟩
  case temp =>
    intro s m t
    rw [exec_hbmTempRead]
    obtain ⟨u, hu, hcells, hmem, hports, hhot, hcool⟩ := execHbmTempRead_completes (s := s) (m := m) (t := t)
    refine ⟨u, hu, ?_, ?_, fun i => ?_, hhot, hcool, hmem, hports⟩
    · exact (State.get_congr _ hcells).trans ((State.get_heated stackHot_id.1.symm).trans State.get_stackTemp_tempDoubled)
    · refine (State.get_congr _ hcells).trans ((State.get_put_same _ _ _).trans ?_)
      have hw : (stackHot m).width = 1 := by unfold stackHot; split <;> rfl
      rw [hw]
      by_cases h95 : 95 < t.toInt <;> simp [b2n, h95]
    · exact (State.get_congr _ hcells).trans ((State.get_heated (stackHot_id.2.1 _)).trans (State.get_dbl_tempDoubled i.isLt))

end Sys2Proof.Proofs
end

