-- ==== Sys2Proof/Proofs/QueuePool.lean ====
section
/-! SUPPORT. The queue pool: what opening, closing and flushing a queue does, and what offering an item and taking a cell answer; then the
statement on queues. -/

namespace Sys2Proof.Machine

section
variable {s : State} {q : Fin 65536}

/-! ## Opening, closing and flushing (R634, R637, R638, R646) -/

theorem effQueueOpen_ignored {l : BitVec 25} (h : (s.queue q.val).isOpen = true) : effQueueOpen q l s = .next s := if_pos h

theorem effQueueOpen_refused {l : BitVec 25} (h : (s.queue q.val).isOpen = false)
    (hl : l.toNat < 2 ∨ 16777216 < l.toNat ∨ s.poolAvail = 0) : effQueueOpen q l s = .next (s.put QUE_STATUS_OPENREF 1) := by
  rcases hl with hl | hl | hl <;> simp [effQueueOpen, h, hl]

theorem effQueueOpen_opens {l : BitVec 25} (h : (s.queue q.val).isOpen = false) (h2 : 2 ≤ l.toNat) (hl : l.toNat ≤ 16777216)
    (hp : s.poolAvail ≠ 0) : effQueueOpen q l s = .next (s.setQueue q.val ⟨true, l.toNat, true, 0, (s.queue q.val).ndrop, []⟩) := by
  simp [effQueueOpen, h, Nat.not_lt.mpr h2, Nat.not_lt.mpr hl, hp]

theorem effQueueClose_closes (h : s.ringOf q.val = none) : effQueueClose q s =
    .next ((s.setQueue q.val { s.queue q.val with isOpen := false, held := false, cells := [] }).rehold) := by
  simp [effQueueClose, h, State.closeQueue]

theorem effQueueClose_refused {r : Nat} (h : s.ringOf q.val = some r) :
    effQueueClose q s = .next (s.put (QUE_HR_STATUS_BINDREF r) 1) := by
  simp [effQueueClose, h]

theorem effQueueFlush_ignored (h : (s.queue q.val).isOpen = false ∨ (s.queue q.val).held = false ∧ (s.queue q.val).cells = []) :
    effQueueFlush q s = .next s := by
  rcases h with h | ⟨hh, hc⟩
  · simp [effQueueFlush, State.flushQueue, h]
  · simp [effQueueFlush, State.flushQueue, hh, Queue.n, hc]

theorem effQueueFlush_flushes (h : (s.queue q.val).isOpen = true) (hc : (s.queue q.val).held = true ∨ (s.queue q.val).cells ≠ []) :
    effQueueFlush q s = .next ((s.setQueue q.val { s.queue q.val with
      cells := [⟨3, true, true, (s.queue q.val).seq, markerPayload (s.queue q.val).n
        ((s.queue q.val).cells.filter fun c => decide (c.ty = 1) && c.last).length⟩]
      seq := ((s.queue q.val).seq + 1) % 2 ^ 32
      held := false }).rehold) := by
  have hm : (s.queue q.val).held = true ∨ 0 < (s.queue q.val).n := hc.imp_right List.length_pos_iff.mpr
  simp [effQueueFlush, State.flushQueue, h, hm]

end

/-! ## Items offered (R635, R640) -/

section
variable {s : State} {q : Nat}

theorem State.enqueue_closed {bs : List (BitVec 8)} (h : (s.queue q).isOpen = false) : s.enqueue q bs = (3, s.incSat QUE_NDROP) := by
  simp [State.enqueue, h]

theorem State.enqueue_whole {bs : List (BitVec 8)} {k : Nat} (hk : k = ceilDiv bs.length 56) (h : (s.queue q).isOpen = true)
    (hl : (s.queue q).n + k + 1 ≤ (s.queue q).limit) (hp : k ≤ s.poolAvail) : s.enqueue q bs =
      (0, (s.setQueue q { s.queue q with
        cells := (s.queue q).cells ++ itemCells (s.queue q).seq bs, seq := ((s.queue q).seq + k) % 2 ^ 32 }).rehold) := by
  subst hk
  simp [State.enqueue, h, hl, hp]

theorem State.enqueue_dropped {bs : List (BitVec 8)} {k : Nat} (hk : k = ceilDiv bs.length 56) (h : (s.queue q).isOpen = true)
    (hl : (s.queue q).limit < (s.queue q).n + k + 1 ∨ s.poolAvail < k) : s.enqueue q bs = (1, s.dropItem q k) := by
  subst hk
  rcases hl with hl | hl <;> simp [State.enqueue, h, Nat.not_le.mpr hl]

theorem State.dropItem_gapTail (k : Nat) (h : (s.queue q).gapTail = true) : s.dropItem q k =
    (((s.setQueue q { s.queue q with
      ndrop := satAdd32 (s.queue q).ndrop 1, cells := addToGap k (s.queue q).cells }).rehold).incSat QUE_NDROP).raise srcQueDrop q 0 := by
  simp [State.dropItem, h]

theorem State.dropItem_held (k : Nat) (h : (s.queue q).gapTail = false) (hh : (s.queue q).held = true) : s.dropItem q k =
    (((s.setQueue q { s.queue q with
      ndrop := satAdd32 (s.queue q).ndrop 1
      cells := (s.queue q).cells ++ [⟨2, true, true, (s.queue q).seq, markerPayload 1 k⟩]
      seq := ((s.queue q).seq + 1) % 2 ^ 32
      held := false }).rehold).incSat QUE_NDROP).raise srcQueDrop q 0 := by
  simp [State.dropItem, h, hh]

theorem State.dropItem_counts (k : Nat) (h : (s.queue q).gapTail = false) (hh : (s.queue q).held = false) : s.dropItem q k =
    (((s.setQueue q { s.queue q with ndrop := satAdd32 (s.queue q).ndrop 1 }).rehold).incSat QUE_NDROP).raise srcQueDrop q 0 := by
  simp [State.dropItem, h, hh]

end

section
variable {s : State} {req : Req} {q : Fin 65536} {n : BitVec 10}

theorem effQueueEnq_badLength (h : n.toNat = 0 ∨ 896 < n.toNat) : effQueueEnq req q n s = .next (s.put (QUE_WIN_STAT_RES.per req) 4) :=
  if_pos (by simpa using h)

theorem effQueueEnq_offers (h1 : 1 ≤ n.toNat) (h : n.toNat ≤ 896) {code : Nat} {t : State}
    (he : s.enqueue q.val (s.winData req n.toNat) = (code, t)) : effQueueEnq req q n s = .next (t.put (QUE_WIN_STAT_RES.per req) code) := by
  have hb : ¬((decide (n.toNat = 0) || decide (896 < n.toNat)) = true) := by
    simp only [Bool.or_eq_true, decide_eq_true_eq]
    omega
  unfold effQueueEnq
  rw [if_neg hb, he]
  rfl

/-! ## Cells taken (R636, R640, R665) -/

variable {bad : Bool}

theorem effQueueDeq_bound (h : (s.ringOf q.val).isSome = true) : effQueueDeq req q bad s = .next (s.put (QUE_WIN_STAT_RES.per req) 4) :=
  if_pos h

theorem effQueueDeq_closed (h : (s.ringOf q.val).isSome = false) (ho : (s.queue q.val).isOpen = false) :
    effQueueDeq req q bad s = .next (s.put (QUE_WIN_STAT_RES.per req) 3) := by
  simp [effQueueDeq, h, ho, State.winStat]

theorem effQueueDeq_empty (h : (s.ringOf q.val).isSome = false) (ho : (s.queue q.val).isOpen = true) (hc : (s.queue q.val).cells = []) :
    effQueueDeq req q bad s = .next (s.put (QUE_WIN_STAT_RES.per req) 2) := by
  simp [effQueueDeq, h, ho, State.dequeue, hc, State.winStat]

theorem effQueueDeq_takes {c : QCell} {cs : List QCell} (h : (s.ringOf q.val).isSome = false) (ho : (s.queue q.val).isOpen = true)
    (hc : (s.queue q.val).cells = c :: cs) : effQueueDeq req q bad s =
      .next ((((s.setQueue q.val { s.queue q.val with cells := cs }).rehold).loadWinRd req
        (if bad then ⟨2, true, true, c.seq, markerPayload 1 1⟩ else c)).put (QUE_WIN_STAT_RES.per req) 0) := by
  simp [effQueueDeq, h, ho, State.dequeue, hc, State.winStat, QCell.orGap]

end

end Sys2Proof.Machine

namespace Sys2Proof.Proofs
open Sys2Proof.Machine

/-- Settles O4: each command in each of its cases. -/
theorem queuePool : Obligations.QueuePool := by
  unfold Obligations.QueuePool
  refine ⟨fun s q l hr => ?opens, fun s q hr => ?closes, fun s q hr => ?flushes, fun s req q n k hr hk => ?enqueues,
    fun s req q n k hr hk h1 hn ho hd => ?drops, fun s req q bad hr => ?dequeues⟩
  case opens =>
    rw [exec_queueOpen, execQueueOpen, State.reachReg_of_reaches _ hr]
    exact ⟨effQueueOpen_ignored, effQueueOpen_refused, effQueueOpen_opens⟩
  case closes =>
    rw [exec_queueClose, execQueueClose, State.reachReg_of_reaches _ hr]
    exact ⟨effQueueClose_closes, fun r => effQueueClose_refused⟩
  case flushes =>
    rw [exec_queueFlush, execQueueFlush, State.reachReg_of_reaches _ hr]
    exact ⟨effQueueFlush_ignored, effQueueFlush_flushes⟩
  case enqueues =>
    rw [exec_queueEnq, execQueueEnq, State.reachReg_of_reaches _ hr]
    exact ⟨effQueueEnq_badLength, fun h1 h ho => effQueueEnq_offers h1 h (State.enqueue_closed ho),
      fun h1 h ho hl hp => effQueueEnq_offers h1 h (State.enqueue_whole hk ho hl hp)⟩
  case drops =>
    rw [exec_queueEnq, execQueueEnq, State.reachReg_of_reaches _ hr, effQueueEnq_offers h1 hn (State.enqueue_dropped hk ho hd)]
    exact ⟨fun hg => by rw [State.dropItem_gapTail k hg], fun hg hh => by rw [State.dropItem_held k hg hh],
      fun hg hh => by rw [State.dropItem_counts k hg hh]⟩
  case dequeues =>
    rw [exec_queueDeq, execQueueDeq, State.reachReg_of_reaches _ hr]
    exact ⟨effQueueDeq_bound, effQueueDeq_closed, effQueueDeq_empty, fun c cs => effQueueDeq_takes⟩

end Sys2Proof.Proofs
end

