-- ==== Sys2Proof/Proofs/HostRings.lean ====
section
/-! SUPPORT. Host rings: binding, consumer counts, and what a delivery writes to the host; then the statement on rings. -/

namespace Sys2Proof.Machine

/-! ## Held-back cells leave the cells of every queue (R635) -/

theorem get_reholdAll_cells (avail : Nat) (l : List (Nat × Queue)) (q : Nat) :
    (Assoc.get Queue.closed (reholdAll avail l) q).cells = (Assoc.get Queue.closed l q).cells := by
  induction l generalizing avail with
  | nil => rfl
  | cons e l ih =>
    obtain ⟨k, v⟩ := e
    simp only [reholdAll]
    split <;> simp only [Assoc.get] <;> split
    · rfl
    · exact ih _
    · rfl
    · exact ih _

section
variable (s : State)

theorem State.queue_rehold_cells (q : Nat) : (s.rehold.queue q).cells = (s.queue q).cells := get_reholdAll_cells _ _ _

theorem State.queue_setQueue_same (q : Nat) (v : Queue) : (s.setQueue q v).queue q = v := Assoc.get_set_same _ _ _ _

/-- The queues after queue q gave its oldest cell. -/
theorem State.dequeue_some {q : Nat} {c : QCell} {cs : List QCell} (h : (s.queue q).cells = c :: cs) : ∃ u, s.dequeue q = (some c, u) ∧
    (u.queue q).cells = cs ∧ u.que.cons = s.que.cons ∧ u = { s with que := u.que } := by
  refine ⟨(s.setQueue q { s.queue q with cells := cs }).rehold, ?_, ?_, rfl, rfl⟩
  · simp [State.dequeue, h]
  · rw [State.queue_rehold_cells, State.queue_setQueue_same]

theorem State.dequeue_none {q : Nat} (h : (s.queue q).cells = []) : s.dequeue q = (none, s) := by
  simp [State.dequeue, h]

theorem State.regsBut_put64 (lo hi : Field) (v : Nat) : s.regsBut (s.put64 lo hi v) [lo, hi] := by
  intro f hf
  exact State.get_put64_ne s v (hf lo (by simp)) (hf hi (by simp))

end

theorem State.regsBut_trans {s t u : State} {fs : List Field} (h : s.regsBut t fs) (h' : t.regsBut u fs) : s.regsBut u fs :=
  fun f hf => (h' f hf).trans (h f hf)

/-! ## Binding and consumer counts (R641, R645) -/

section
variable {s : State} {r : Fin 256} {m : Bool} {z : BitVec 6} {q : Fin 65536}

theorem effHostRingBind_bound (h : s.on (QUE_HR_STATUS_BOUND r.val) = true) : effHostRingBind r m z q s = .next s := if_pos h

theorem effHostRingBind_refused (h : s.on (QUE_HR_STATUS_BOUND r.val) = false)
    (hq : (s.ringOf q.val).isSome = true ∨ (s.queue q.val).isOpen = false ∨ z.toNat < 12 ∨ 32 < z.toNat) :
    effHostRingBind r m z q s = .next ((((s.flag (QUE_HR_CFG_MSIEN r.val) m).put (QUE_HR_CFG_SIZE r.val) z.toNat).put
      (QUE_HR_CFG_QUEUE r.val) q.val).put (QUE_HR_STATUS_BINDREF r.val) 1) := by
  unfold effHostRingBind
  simp only []
  rw [if_neg (by simp [h]), if_pos (by simpa [or_assoc] using hq)]

theorem effHostRingBind_binds (h : s.on (QUE_HR_STATUS_BOUND r.val) = false) (hq : (s.ringOf q.val).isSome = false)
    (ho : (s.queue q.val).isOpen = true) (h12 : 12 ≤ z.toNat) (h32 : z.toNat ≤ 32) :
    effHostRingBind r m z q s = .next { (((((((s.flag (QUE_HR_CFG_MSIEN r.val) m).put (QUE_HR_CFG_SIZE r.val) z.toNat).put
      (QUE_HR_CFG_QUEUE r.val) q.val).put (QUE_HR_CFG_BIND r.val) 1).put (QUE_HR_STATUS_BOUND r.val) 1).put64 (QUE_HR_PROD_LO r.val)
      (QUE_HR_PROD_HI r.val) 0).put64 (QUE_HR_CONS_LO r.val) (QUE_HR_CONS_HI r.val) 0) with
        que := { s.que with cons := Assoc.set 0 s.que.cons r.val 0 } } := by
  have hn : ¬((((s.ringOf q.val).isSome || !(s.queue q.val).isOpen) || decide (z.toNat < 12)) || decide (32 < z.toNat)) = true := by
    simp [hq, ho, h12, h32]
  unfold effHostRingBind
  simp only []
  rw [if_neg (by simp [h]), if_neg hn]
  rfl

variable {hi : BitVec 32} {v : Nat}

theorem effHostRingConsWrite_takes (hv : v = s.get (QUE_HR_CONS_LO r.val) + 2 ^ 32 * hi.toNat) (h : Assoc.get 0 s.que.cons r.val ≤ v)
    (hp : v ≤ s.get64 (QUE_HR_PROD_LO r.val) (QUE_HR_PROD_HI r.val)) : effHostRingConsWrite r hi s =
      .next { s.put (QUE_HR_CONS_HI r.val) hi.toNat with que := { s.que with cons := Assoc.set 0 s.que.cons r.val v } } := by
  subst hv
  refine if_neg ?_
  simp only [Bool.or_eq_true, decide_eq_true_eq]
  omega

theorem effHostRingConsWrite_ignored (hv : v = s.get (QUE_HR_CONS_LO r.val) + 2 ^ 32 * hi.toNat)
    (h : v < Assoc.get 0 s.que.cons r.val ∨ s.get64 (QUE_HR_PROD_LO r.val) (QUE_HR_PROD_HI r.val) < v) : effHostRingConsWrite r hi s =
      .next ((s.put64 (QUE_HR_CONS_LO r.val) (QUE_HR_CONS_HI r.val) (Assoc.get 0 s.que.cons r.val)).put (QUE_HR_STATUS_CONSERR r.val) 1) := by
  subst hv
  exact if_pos (by simpa only [Bool.or_eq_true, decide_eq_true_eq] using h)

end

/-! ## Deliveries (R641) -/

/-- Ring r's transactions for cells from place p on. -/
def ringWrites (base size : Nat) (bad : Bool) (cs : List QCell) (p : Nat) : List HostMsg :=
  (cs.zipIdx p).map fun e => .write (base + 64 * e.2 % 2 ^ size) (e.1.orGap bad).bytes

theorem ringWrites_eq (base size : Nat) (bad : Bool) (cs : List QCell) (p : Nat) : ringWrites base size bad cs p =
    cs.zipIdx.map fun e => .write (base + 64 * (p + e.2) % 2 ^ size) (e.1.orGap bad).bytes := by
  rw [ringWrites, List.zipIdx_eq_map_add, List.map_map]
  rfl

theorem ringWrites_cons (base size : Nat) (bad : Bool) (c : QCell) (cs : List QCell) (p : Nat) : ringWrites base size bad (c :: cs) p =
    .write (base + 64 * p % 2 ^ size) (c.orGap bad).bytes :: ringWrites base size bad cs (p + 1) := by
  rw [ringWrites, List.zipIdx_cons, List.map_cons]
  rfl

/-- What a delivery of k cells to ring r from queue q leaves: s becomes t. -/
structure Delivered (s t : State) (r q base size : Nat) (bad : Bool) (k : Nat) : Prop where
  prod : t.get64 (QUE_HR_PROD_LO r) (QUE_HR_PROD_HI r) = s.get64 (QUE_HR_PROD_LO r) (QUE_HR_PROD_HI r) + k
  cells : (t.queue q).cells = (s.queue q).cells.drop k
  hostOut : t.hostOut = s.hostOut ++ ringWrites base size bad ((s.queue q).cells.take k) (s.get64 (QUE_HR_PROD_LO r) (QUE_HR_PROD_HI r))
  regs : s.regsBut t [QUE_HR_PROD_LO r, QUE_HR_PROD_HI r]
  rest : t = { s with cells := t.cells, que := t.que, hostOut := t.hostOut }

section
variable {s : State} {r q base size : Nat} {bad : Bool}

theorem Delivered.refl : Delivered s s r q base size bad 0 where
  prod := rfl
  cells := rfl
  hostOut := by simp [ringWrites]
  regs := State.regsBut_refl s _
  rest := rfl

/-- One cell written and counted, then k more. -/
theorem Delivered.cons {c : QCell} {cs : List QCell} {u v t : State} {prod k : Nat} (hc : (s.queue q).cells = c :: cs)
    (hp : prod = s.get64 (QUE_HR_PROD_LO r) (QUE_HR_PROD_HI r)) (hlt : prod + 1 < 2 ^ 64) (hu : (u.queue q).cells = cs)
    (hs : u = { s with que := u.que })
    (hv : v = ((u.toHost (.write (base + 64 * prod % 2 ^ size) (c.orGap bad).bytes)).put64 (QUE_HR_PROD_LO r) (QUE_HR_PROD_HI r) (prod + 1)))
    (h : Delivered v t r q base size bad k) : Delivered s t r q base size bad (k + 1) := by
  have hvp : v.get64 (QUE_HR_PROD_LO r) (QUE_HR_PROD_HI r) = prod + 1 := by
    rw [hv, State.get64_put64 _ _ rfl rfl rfl (by simp only [Field.id, QUE_HR_PROD_LO, QUE_HR_PROD_HI]; omega)]
    exact Nat.mod_eq_of_lt hlt
  have hvc : (v.queue q).cells = cs := by rw [hv]; exact hu
  have hvo : v.hostOut = s.hostOut ++ [.write (base + 64 * prod % 2 ^ size) (c.orGap bad).bytes] := by rw [hv, hs]; rfl
  have hvr : s.regsBut v [QUE_HR_PROD_LO r, QUE_HR_PROD_HI r] := by
    rw [hv]
    intro f hf
    exact (State.regsBut_put64 _ _ _ _ f hf).trans (State.get_congr f (by rw [hs]; rfl))
  have hvs : v = { s with cells := v.cells, que := v.que, hostOut := v.hostOut } := by rw [hv, hs]; rfl
  refine ⟨?_, ?_, ?_, State.regsBut_trans hvr h.regs, ?_⟩
  · rw [h.prod, hvp, ← hp]
    omega
  · rw [h.cells, hvc, hc]
    rfl
  · rw [h.hostOut, hvo, hvc, hvp, hc, List.take_succ_cons, ringWrites_cons, ← hp, List.append_assoc]
    rfl
  · rw [h.rest, hvs]

theorem State.deliver_delivers (m : Nat) (s : State) {prod cons k : Nat} (hp : prod = s.get64 (QUE_HR_PROD_LO r) (QUE_HR_PROD_HI r))
    (hcons : cons = Assoc.get 0 s.que.cons r) (hle : cons ≤ prod) (hlt : prod + m < 2 ^ 64)
    (hk : k = min m (min (s.queue q).cells.length (2 ^ size / 64 - (prod - cons)))) :
    Delivered s (s.deliver r q base size bad m) r q base size bad k := by
  induction m generalizing s prod k with
  | zero =>
    rw [Nat.zero_min] at hk
    subst hk
    exact Delivered.refl
  | succ m ih =>
    by_cases hroom : prod - cons < 2 ^ size / 64
    · cases hc : (s.queue q).cells with
      | nil =>
        have hk0 : k = 0 := by simp [hk, hc]
        subst hk0 hp hcons
        simp only [State.deliver, if_pos hroom, s.dequeue_none hc]
        exact Delivered.refl
      | cons c cs =>
        obtain ⟨u, hd, hu, hucons, hus⟩ := s.dequeue_some hc
        obtain ⟨j, rfl⟩ : ∃ j, k = j + 1 := ⟨k - 1, by rw [hc, List.length_cons] at hk; omega⟩
        have hstep : s.deliver r q base size bad (m + 1) = State.deliver r q base size bad m
            ((u.toHost (.write (base + 64 * prod % 2 ^ size) (c.orGap bad).bytes)).put64 (QUE_HR_PROD_LO r) (QUE_HR_PROD_HI r) (prod + 1)) := by
          subst hp hcons
          simp only [State.deliver, if_pos hroom, hd]
        rw [hstep]
        refine Delivered.cons hc hp (by omega) hu hus rfl (ih _ (prod := prod + 1) ?_ ?_ (by omega) (by omega) ?_)
        · rw [State.get64_put64 _ _ rfl rfl rfl (by simp only [Field.id, QUE_HR_PROD_LO, QUE_HR_PROD_HI]; omega)]
          exact (Nat.mod_eq_of_lt (by omega)).symm
        · exact hcons.trans (congrArg (Assoc.get 0 · r) hucons.symm)
        · have hl : (((u.toHost (.write (base + 64 * prod % 2 ^ size) (c.orGap bad).bytes)).put64 (QUE_HR_PROD_LO r) (QUE_HR_PROD_HI r)
              (prod + 1)).queue q).cells = cs := hu
          rw [hl]
          rw [hc, List.length_cons] at hk
          omega
    · have hk0 : k = 0 := by omega
      subst hk0 hp hcons
      simp only [State.deliver, if_neg hroom]
      exact Delivered.refl

end

section
variable {s : State} {r : Fin 256} {n : Fin 1024} {bad : Bool}

theorem execHostRingDeliver_idle (h : s.on (QUE_HR_STATUS_BOUND r.val) = false ∨ s.dmaOn = false) : execHostRingDeliver r n bad s = .next s :=
  if_pos (by simpa using h)

/-- The write-back of the producer count, and the ring's vector. -/
def State.wroteBack (s : State) (r : Nat) : State :=
  let u := s.toHost (.write (s.get64 (QUE_HR_WB_LO r) (QUE_HR_WB_HI r)) (bytesOf 8 (s.get64 (QUE_HR_PROD_LO r) (QUE_HR_PROD_HI r))))
  if u.on (QUE_HR_CFG_MSIEN r) then u.toHost (.msix (u.get (QUE_HR_VEC r))) else u

theorem State.wroteBack_eq (t : State) (r : Nat) : t.wroteBack r = { t with hostOut := t.hostOut ++
    ([.write (t.get64 (QUE_HR_WB_LO r) (QUE_HR_WB_HI r)) (bytesOf 8 (t.get64 (QUE_HR_PROD_LO r) (QUE_HR_PROD_HI r)))] ++
      if t.on (QUE_HR_CFG_MSIEN r) then [.msix (t.get (QUE_HR_VEC r))] else []) } := by
  have hu (x : HostMsg) : (t.toHost x).on (QUE_HR_CFG_MSIEN r) = t.on (QUE_HR_CFG_MSIEN r) := rfl
  simp only [State.wroteBack, hu, State.get_toHost]
  split
  · simp only [State.toHost, List.append_assoc]
  · rw [List.append_nil, State.toHost]

theorem execHostRingDeliver_delivers {t : State} {k : Nat} (hb : s.on (QUE_HR_STATUS_BOUND r.val) = true) (hd : s.dmaOn = true)
    (ht : t = s.deliver r.val (s.get (QUE_HR_CFG_QUEUE r.val)) (s.get64 (QUE_HR_BASE_LO r.val) (QUE_HR_BASE_HI r.val))
      (s.get (QUE_HR_CFG_SIZE r.val)) bad n.val)
    (hk : t.get64 (QUE_HR_PROD_LO r.val) (QUE_HR_PROD_HI r.val) = s.get64 (QUE_HR_PROD_LO r.val) (QUE_HR_PROD_HI r.val) + k) :
    execHostRingDeliver r n bad s = .next (if k = 0 then t else t.wroteBack r.val) := by
  have hz : t.get64 (QUE_HR_PROD_LO r.val) (QUE_HR_PROD_HI r.val) = s.get64 (QUE_HR_PROD_LO r.val) (QUE_HR_PROD_HI r.val) ↔ k = 0 := by
    omega
  simp only [execHostRingDeliver, hb, hd, Bool.not_true, Bool.or_false, Bool.false_eq_true, if_false, ← ht, hz]
  by_cases hk0 : k = 0
  · rw [if_pos hk0, if_pos hk0]
  · rw [if_neg hk0, if_neg hk0]
    rfl

end

end Sys2Proof.Machine

namespace Sys2Proof.Proofs
open Sys2Proof.Machine

/-- Settles O5: binding and consumer counts by their cases, a delivery by induction over the cells it may write. -/
theorem hostRings : Obligations.HostRings := by
  unfold Obligations.HostRings
  refine ⟨fun s r m z q hr => ?binds, fun s r m z q hr => ?unbinds, fun s r hi v hr hv => ?cons,
    fun s r n bad h => (exec_hostRingDeliver r n bad s).trans (execHostRingDeliver_idle h), ?delivers⟩
  case binds =>
    rw [exec_hostRingBind, execHostRingBind, State.reachReg_of_reaches _ hr]
    exact ⟨effHostRingBind_bound, effHostRingBind_refused, effHostRingBind_binds⟩
  case unbinds =>
    rw [exec_hostRingUnbind, execHostRingUnbind, State.reachReg_of_reaches _ hr]
    rfl
  case cons =>
    rw [exec_hostRingConsWrite, execHostRingConsWrite, State.reachReg_of_reaches _ hr]
    exact ⟨effHostRingConsWrite_takes hv, effHostRingConsWrite_ignored hv⟩
  case delivers =>
    intro s r n bad q prod cons k hb hd hq hp hc hle hlt hk
    have h := State.deliver_delivers (q := q) (base := s.get64 (QUE_HR_BASE_LO r.val) (QUE_HR_BASE_HI r.val))
      (size := s.get (QUE_HR_CFG_SIZE r.val)) (bad := bad) n.val s hp hc hle hlt hk
    subst hq hp
    refine completes_of_eq ((exec_hostRingDeliver r n bad s).trans (execHostRingDeliver_delivers hb hd rfl h.prod)) ?_
    have hregs := h.regs
    have hsame {f : Field} (hlo : f.id ≠ (QUE_HR_PROD_LO r.val).id) (hhi : f.id ≠ (QUE_HR_PROD_HI r.val).id) := hregs f (by simp [hlo, hhi])
    generalize State.deliver r.val _ _ _ bad n.val s = t at h hsame
    by_cases hk0 : k = 0
    · rw [if_pos hk0, if_pos hk0, List.append_nil, ← ringWrites_eq]
      exact ⟨h.prod, h.cells, h.hostOut, h.regs, h.rest⟩
    · have hmsi : t.on (QUE_HR_CFG_MSIEN r.val) = s.on (QUE_HR_CFG_MSIEN r.val) := by
        rw [State.on, State.on, hsame] <;> simp only [Field.id, QUE_HR_CFG_MSIEN, QUE_HR_PROD_LO, QUE_HR_PROD_HI] <;> omega
      have hvec : t.get (QUE_HR_VEC r.val) = s.get (QUE_HR_VEC r.val) := by
        rw [hsame] <;> simp only [Field.id, QUE_HR_VEC, QUE_HR_PROD_LO, QUE_HR_PROD_HI] <;> omega
      have hwb : t.get64 (QUE_HR_WB_LO r.val) (QUE_HR_WB_HI r.val) = s.get64 (QUE_HR_WB_LO r.val) (QUE_HR_WB_HI r.val) := by
        rw [State.get64, State.get64, hsame, hsame] <;>
          simp only [Field.id, QUE_HR_WB_LO, QUE_HR_WB_HI, QUE_HR_PROD_LO, QUE_HR_PROD_HI] <;> omega
      rw [if_neg hk0, if_neg hk0, State.wroteBack_eq, ← ringWrites_eq]
      refine ⟨h.prod, h.cells, ?_, h.regs, ?_⟩
      · rw [hmsi, hvec, hwb, h.prod, h.hostOut]
      · rw [h.rest]

end Sys2Proof.Proofs
end

