-- ==== Sys2Proof/Proofs/TaskLifecycle.lean ====
section
/-! SUPPORT. Tasks: how one enters READY and what that leaves in HBM, and what each command makes of a task in each state; then the statement
on the life of a task. -/

namespace Sys2Proof.Machine

theorem length_bytesOf (n v : Nat) : (bytesOf n v).length = n := by simp [bytesOf]

theorem length_wordBytes (ws : List Nat) : (wordBytes ws).length = 4 * ws.length := by
  induction ws with
  | nil => rfl
  | cons w ws ih =>
    rw [wordBytes, List.flatMap_cons, List.length_append, length_bytesOf, ← wordBytes, ih, List.length_cons]
    omega

/-! ## The overflow list (R622) -/

section
variable (s : State)

/-- Where the overflow list stands. -/
def State.overflowBase : Nat := s.get64 TSK_TBL_BASE_LO TSK_TBL_BASE_HI + 0x2000000

theorem State.spill_eq : s.spill = { s with mem := s.spill.mem } := by
  unfold State.spill
  simp only []
  split <;> rfl

@[simp] theorem State.spill_que : s.spill.que = s.que := by rw [State.spill_eq]

theorem State.spill_memByte {a : Nat} (h : a < s.overflowBase ∨ s.overflowBase + 4 * s.overflowTasks.length ≤ a) :
    s.spill.memByte a = s.memByte a := by
  unfold State.spill
  simp only []
  split
  · rfl
  · refine State.memByte_memWrite_out _ _ _ ?_
    rwa [length_wordBytes, List.length_map]

/-! ## Entering READY (R621, R622) -/

theorem State.task_setTask_same (k : Nat) (v : Task) : (s.setTask k v).task k = v := Assoc.get_set_same _ _ _ _

theorem State.task_setTask_ne {j k : Nat} (v : Task) (h : j ≠ k) : (s.setTask k v).task j = s.task j := Assoc.get_set_ne _ _ _ _ h

theorem State.makeReady_eq (k : Nat) (v : Task) (fresh : Bool) : s.makeReady k v fresh =
    { s with que := (s.makeReady k v fresh).que, mem := (s.makeReady k v fresh).mem } := by
  unfold State.makeReady
  rw [State.spill_eq]
  rfl

theorem State.makeReady_get (k : Nat) (v : Task) (fresh : Bool) (f : Field) : (s.makeReady k v fresh).get f = s.get f := by
  refine State.get_congr f ?_
  rw [State.makeReady_eq]

theorem State.makeReady_entersReady (k : Nat) (v : Task) (fresh : Bool) : s.entersReady (s.makeReady k v fresh) k v fresh := by
  refine ⟨?_, ?_, fun j hj => ?_, fun a ha => ?_⟩
  · rw [State.task, State.makeReady, State.spill_que]
    exact State.task_setTask_same _ _ _
  · rw [State.makeReady, State.spill_que]
    rfl
  · rw [State.task, State.makeReady, State.spill_que]
    exact State.task_setTask_ne _ _ hj
  · rw [State.overflowTasks, State.makeReady, State.spill_que] at ha
    exact State.spill_memByte _ ha

end

/-- What it is to enter READY rests on the queue pool and HBM alone. -/
theorem State.entersReady_congr {s t u : State} {k : Nat} {v : Task} {fresh : Bool} (hq : u.que = t.que) (hm : u.mem = t.mem)
    (h : s.entersReady t k v fresh) : s.entersReady u k v fresh := by
  unfold State.entersReady State.task State.overflowTasks State.memByte at *
  rw [hq, hm]
  exact h

/-! ## Arming, decrementing and freeing (R618 to R620) -/

section
variable {s : State} {k : Fin 1048576}

theorem effTskArm_refused (h0 : (s.task k.val).st ≠ 0) (h4 : (s.task k.val).st ≠ 4) (h5 : (s.task k.val).st ≠ 5) :
    effTskArm k s = .next s.armRef := by
  simp [effTskArm, h0, h4, h5]

section
variable (h : (s.task k.val).st = 0 ∨ (s.task k.val).st = 4 ∨ (s.task k.val).st = 5)
include h

theorem effTskArm_unread {u : State} (hr : s.hbmRead (s.get64 TSK_TBL_BASE_LO TSK_TBL_BASE_HI + 32 * k.val) 32 = (none, u)) :
    effTskArm k s = .next u.armRef := by
  rcases h with h | h | h <;> simp [effTskArm, h, hr]

theorem effTskArm_read {bs : List (BitVec 8)} (hr : s.hbmRead (s.get64 TSK_TBL_BASE_LO TSK_TBL_BASE_HI + 32 * k.val) 32 = (some bs, s)) :
    effTskArm k s = if descOk k.val (wordsOf bs) = false then .next s.armRef
      else .next (if bits ((wordsOf bs).getD 0 0) 0 16 = 0 then
          s.makeReady k.val ⟨1, bits ((wordsOf bs).getD 0 0) 0 16, 0, false, 0, wordsOf bs, false, 0⟩ true
        else s.setTask k.val ⟨1, bits ((wordsOf bs).getD 0 0) 0 16, 0, false, 0, wordsOf bs, false, 0⟩) := by
  rcases h with h | h | h <;> simp [effTskArm, h, hr]

end

theorem State.decrement_falls {j : Nat} {bad : Bool} (h : (s.task j).st = 1) (h0 : (s.task j).dep - 1 ≠ 0) : s.decrement j bad =
    s.setTask j { s.task j with dep := (s.task j).dep - 1, poison := (s.task j).poison || bad } := by
  simp only [State.decrement, if_pos h, if_neg h0]

theorem State.decrement_ready {j : Nat} {bad : Bool} (h : (s.task j).st = 1) (h0 : (s.task j).dep - 1 = 0) : s.decrement j bad =
    s.makeReady j { s.task j with dep := 0, poison := (s.task j).poison || bad } true := by
  simp only [State.decrement, if_pos h, h0, if_true]

theorem State.decrement_error {j : Nat} {bad : Bool} (h : (s.task j).st ≠ 1) : s.decrement j bad = s.depErr.event srcTskDeperr := if_neg h

theorem State.decrement_clk (j : Nat) (bad : Bool) : (s.decrement j bad).clk = s.clk := by
  by_cases h : (s.task j).st = 1
  · by_cases h0 : (s.task j).dep - 1 = 0
    · rw [State.decrement_ready h h0, State.makeReady_eq]
    · rw [State.decrement_falls h h0]
      rfl
  · rw [State.decrement_error h]
    rfl

theorem effTskFree_frees (h : (s.task k.val).st = 4 ∨ (s.task k.val).st = 5) : effTskFree k s = .next (s.setTask k.val Task.free) :=
  if_pos (by simpa using h)

theorem effTskFree_refused (h4 : (s.task k.val).st ≠ 4) (h5 : (s.task k.val).st ≠ 5) : effTskFree k s = .next s.armRef :=
  if_neg (by simp [h4, h5])

end

/-! ## Completions (R627 to R629) -/

section
variable {s : State}

theorem foldl_decrement_clk (bad : Bool) (l : List Nat) (t : State) : (l.foldl (fun u j => u.decrement j bad) t).clk = t.clk :=
  foldl_keeps (fun u : State => u.clk) (fun _ j => State.decrement_clk j bad) l t

theorem State.complete_ok (k : Nat) (v : Task) : s.complete k v true =
    let u := v.succs.foldl (fun u j => u.decrement j false) ((s.setTask k { v with st := 4 }).inc TSK_NDONE)
    if bitAt (v.word 4) 31 then u.enq (bits (v.word 4) 0 16) (completionRecord k v true s.clk.gvc) else u := by
  have hc : (v.succs.foldl (fun u j => u.decrement j false) ((s.setTask k { v with st := 4 }).inc TSK_NDONE)).clk = s.clk :=
    foldl_decrement_clk _ _ _
  simp only [State.complete, if_true, Bool.not_true, hc]

theorem State.complete_fail (k : Nat) (v : Task) : s.complete k v false =
    let u := v.succs.foldl (fun u j => u.decrement j true) (((s.setTask k { v with st := 5 }).inc TSK_NFAIL).event srcTskFail)
    if bitAt (v.word 4) 31 then u.enq (bits (v.word 4) 0 16) (completionRecord k v false s.clk.gvc) else u := by
  have hc : (v.succs.foldl (fun u j => u.decrement j true) (((s.setTask k { v with st := 5 }).inc TSK_NFAIL).event srcTskFail)).clk = s.clk :=
    foldl_decrement_clk _ _ _
  simp only [State.complete, Bool.false_eq_true, if_false, Bool.not_false, hc]

theorem State.retryTask_again {k : Nat} {v : Task} (h : v.retry + 1 ≤ v.retryMax) :
    s.retryTask k v = (s.makeReady k { v with retry := v.retry + 1 } false).inc TSK_NRETRY :=
  if_neg (Nat.not_lt.mpr h)

theorem State.retryTask_fails {k : Nat} {v : Task} (h : v.retryMax < v.retry + 1) :
    s.retryTask k v = s.complete k { v with retry := v.retry + 1 } false :=
  if_pos h

theorem State.onDone_inService {c k : Nat} {f : Task → State} (h3 : (s.task k).st = 3) (hc : (s.task k).core = c) :
    s.onDone c k f = f (s.task k) :=
  if_pos (by simp [h3, hc])

theorem State.onDone_discarded {c k : Nat} {f : Task → State} (h : (s.task k).st ≠ 3 ∨ (s.task k).core ≠ c) :
    s.onDone c k f = s.depErr :=
  if_neg (by simpa [imp_iff_not_or] using h)

end

end Sys2Proof.Machine

namespace Sys2Proof.Proofs
open Sys2Proof.Machine

/-- Settles O6: each command by the state of its task. -/
theorem taskLifecycle : Obligations.TaskLifecycle := by
  unfold Obligations.TaskLifecycle
  refine ⟨fun s k hr => ?arm, fun s k hr => ?dec, fun s k hr => ?free, fun s c k v hr hv h3 hc => ?done,
    fun s j bad h1 h2 => State.decrement_falls h1 (by omega), fun s c k v hr hv h3 hc => ?retry, fun s c k hr h => ?discarded⟩
  case arm =>
    rw [exec_tskArm, execTskArm, State.reachReg_of_reaches _ hr]
    refine ⟨effTskArm_refused, fun h => ⟨fun u => effTskArm_unread h, fun bs hb hd => ?_, fun bs d hb hw hd h0 => ?_,
      fun bs d hb hw hd h0 => ?_⟩⟩
    · rw [effTskArm_read h hb, if_pos hd]
      rfl
    · subst hw
      rw [effTskArm_read h hb, if_neg (by simp [hd]), if_neg h0]
    · subst hw
      rw [effTskArm_read h hb, if_neg (by simp [hd]), if_pos h0, h0]
      exact ⟨_, rfl, State.makeReady_entersReady _ _ _ _, State.makeReady_eq _ _ _ _⟩
  case dec =>
    rw [exec_tskDec, execTskDec, State.reachReg_of_reaches _ hr, effTskDec]
    refine ⟨fun h1 hd h0 => ?_, fun h1 hd => ?_, fun h1 => by rw [State.decrement_error h1]; rfl⟩
    · rw [State.decrement_falls h1 (by omega), Bool.or_false]
    · rw [State.decrement_ready h1 (by omega), Bool.or_false]
      exact ⟨_, rfl, State.makeReady_entersReady _ _ _ _, State.makeReady_eq _ _ _ _⟩
  case free =>
    rw [exec_tskFree, execTskFree, State.reachReg_of_reaches _ hr]
    exact ⟨effTskFree_frees, effTskFree_refused⟩
  case done =>
    subst hv
    rw [exec_taskDoneOk, execTaskDoneOk, exec_taskDoneFail, execTaskDoneFail, State.reachReg_of_reaches _ hr, State.reachReg_of_reaches _ hr,
      effTaskDoneOk, effTaskDoneFail, State.onDone_inService h3 hc, State.onDone_inService h3 hc, State.complete_ok, State.complete_fail]
    exact ⟨rfl, rfl⟩
  case retry =>
    subst hv
    rw [exec_taskRetry, execTaskRetry, State.reachReg_of_reaches _ hr, effTaskRetry, State.onDone_inService h3 hc]
    refine ⟨fun h => ?_, fun h => ?_⟩
    · rw [State.retryTask_again h]
      refine ⟨_, rfl, State.entersReady_congr rfl rfl (State.makeReady_entersReady _ _ _ _), ?_, fun f hf => ?_, ?_⟩
      · rw [State.get_inc_same, State.makeReady_get]
        rfl
      · rw [State.get_inc_ne _ (hf _ (by simp)), State.makeReady_get]
      · rw [State.inc_eq, State.makeReady_eq]
        rfl
    · rw [State.retryTask_fails h, State.complete_fail]
      rfl
  case discarded =>
    rw [exec_taskDoneOk, execTaskDoneOk, exec_taskRetry, execTaskRetry, exec_taskDoneFail, execTaskDoneFail, State.reachReg_of_reaches _ hr,
      State.reachReg_of_reaches _ hr, State.reachReg_of_reaches _ hr, effTaskDoneOk, effTaskRetry, effTaskDoneFail,
      State.onDone_discarded h, State.onDone_discarded h, State.onDone_discarded h]
    exact ⟨rfl, rfl, rfl⟩

end Sys2Proof.Proofs
end

