-- ==== Sys2Proof/Proofs/TaskDispatch.lean ====
section
/-! SUPPORT. The dispatch of a task notes the instant of its event in the event collector, which the statement on dispatch leaves out. -/

namespace Sys2Proof.Machine

theorem State.raise_last (s : State) (n a v : Nat) : (s.raise n a v).fcl.last = Assoc.insert s.fcl.last n s.time.rc := rfl

/-- The task that the round gives a core is raised as dispatched, whatever else its delivery does. -/
theorem execTaskDeliver_raises {s : State} {c : Fin 16} {k : Nat}
    (h : (s.round (List.range 16) []).find? (fun e => decide (e.1 = c.val)) = some (c.val, k)) :
    ∃ u : State, u.fcl = s.fcl ∧ u.time = s.time ∧ execTaskDeliver c s = .next (u.raise (srcTskDisp c.val) c.val 0) := by
  unfold execTaskDeliver
  simp only [h]
  refine ⟨_, ?_, ?_, rfl⟩
  · exact foldl_keeps (fun u : State => u.fcl) (fun _ _ => State.put_fcl _ _ _) _ _
  · exact foldl_keeps (fun u : State => u.time) (fun _ _ => State.put_time _ _ _) _ _

/-- After a reset core 0 runs and asks for a task, and task 9 is READY for it. -/
def taskForCore0 : State :=
  ((State.reset.put (SCN_STATUS_STATE 0) 1).put (TSK_C_REQ_REQ 0) 1).setTask 9 ⟨2, 0, 0, false, 4, [0, 1], true, 0⟩

theorem taskForCore0_round : (taskForCore0.round (List.range 16) []).find? (fun e => decide (e.1 = (0 : Fin 16).val)) = some ((0 : Fin 16).val, 9) := by
  decide +kernel

/-- Nothing has yet occurred, and the delivery leaves the instant of its event in the collector. -/
theorem taskForCore0_deliver : ∃ t : State, exec (.taskDeliver 0) taskForCore0 = .next t ∧ t.fcl.last ≠ taskForCore0.fcl.last := by
  obtain ⟨u, hf, -, he⟩ := execTaskDeliver_raises taskForCore0_round
  refine ⟨_, he, ?_⟩
  have hnil : taskForCore0.fcl.last = [] := rfl
  rw [State.raise_last, hf, hnil]
  exact List.cons_ne_nil _ _

end Sys2Proof.Machine

namespace Sys2Proof.Proofs
open Sys2Proof.Machine

/-- Refutes O7: the statement has a delivery keep every component but the queue pool, the registers and the occurrences raised, but the event
TSK_DISP also notes its instant in the event collector, as every event does (`State.raise`). From `taskForCore0` the collector's list of last
instants is empty before the delivery and not empty after it. -/
theorem not_taskDispatch : ¬ Obligations.TaskDispatch := by
  unfold Obligations.TaskDispatch
  rintro ⟨-, hdeliver, -⟩
  obtain ⟨t, ht, -, -, -, -, -, -, -, -, -, -, hrest⟩ := hdeliver taskForCore0 0 9 taskForCore0_round
  obtain ⟨u, hu, hne⟩ := taskForCore0_deliver
  obtain rfl : t = u := Host.Outcome.next.inj (ht.symm.trans hu)
  have hlast := congrArg (fun x : State => x.fcl.last) hrest
  exact hne hlast

end Sys2Proof.Proofs
end

