-- ==== Sys2Proof/Proofs/ResetState.lean ====
section
/-! SUPPORT. A reset takes over whatever stands in the non-volatile store, which in a state that no run reaches may name any register. -/

namespace Sys2Proof.Machine

/-- A device whose non-volatile store of calibration results holds a word at the place of PMG_STATUS.STATE, as no run leaves it. -/
def nvHoldsState : State := { State.reset with cal := { State.reset.cal with nv := [(PMG_STATUS_STATE.id, 2)] } }

/-- The reset takes it over. -/
theorem nvHoldsState_resetState : (nvHoldsState.resetState 1 0).get PMG_STATUS_STATE = 2 := by decide +kernel

end Sys2Proof.Machine

namespace Sys2Proof.Proofs
open Sys2Proof.Machine

/-- Refutes O56: its last clause says of every state that a reset leaves STATE at 0. `keptCells` puts the whole non-volatile store of calibration
results back into the registers, and from `nvHoldsState`, whose store holds a word at the place of STATE, a reset leaves STATE at 2. -/
theorem not_resetState : ¬ Obligations.ResetState := by
  unfold Obligations.ResetState
  rintro ⟨-, -, hreset⟩
  obtain ⟨hstate, -, -⟩ := hreset nvHoldsState 1 0
  rw [nvHoldsState_resetState] at hstate
  exact absurd hstate (by decide)

end Sys2Proof.Proofs
end

