-- ==== Sys2Proof/Proofs/RegisterWrites.lean ====
section
/-! SUPPORT. Register writes: the two parts of an access, what hides a register, what a register without a rule of its own takes, and the
registers whose writes are commands; then the statement on writes. -/

namespace Sys2Proof.Machine

/-! ## The parts of an access (R13, R580, R809) -/

section
variable {s : State} {r : Req}

theorem execRegisterWrite_notIssued {o : BitVec 28} {d : BitVec 32} {be : BitVec 4} {hi : Option (BitVec 32 × BitVec 4)}
    (h : s.issues r (o.toNat / 4 * 4) (if hi.isSome then 8 else 4) = false) : execRegisterWrite r o d be hi s = .next (s.notIssued r) := by
  unfold execRegisterWrite
  simp only [h]
  rfl

theorem execRegisterWrite_one {o : BitVec 28} {d : BitVec 32} {be : BitVec 4} (h : s.issues r (o.toNat / 4 * 4) 4 = true) :
    execRegisterWrite r o d be none s = .next (s.writePart r (o.toNat / 4 * 4) d be) := by
  simp [execRegisterWrite, h]

theorem execRegisterWrite_two {o : BitVec 28} {d d1 : BitVec 32} {be b1 : BitVec 4} (h : s.issues r (o.toNat / 4 * 4) 8 = true) :
    execRegisterWrite r o d be (some (d1, b1)) s = .next (if o.toNat / 4 * 4 + 4 < 2 ^ 28 then
      (s.writePart r (o.toNat / 4 * 4) d be).writePart r (o.toNat / 4 * 4 + 4) d1 b1 else s.writePart r (o.toNat / 4 * 4) d be) := by
  simp [execRegisterWrite, h]

variable {x w : Nat}

theorem State.writePart_whole {d : BitVec 32} : s.writePart r x d 15#4 = s.regWrite r x d.toNat := if_pos rfl

theorem State.writePart_part {d : BitVec 32} {be : BitVec 4} (h : be ≠ 15#4) :
    s.writePart r x d be = if s.ignored r x then s else s.incSat GLB_BADACC := if_neg h

/-! ## Writes that reach no register (R46, R578, R753, R770, R776) -/

theorem State.regWrite_ignored (h : s.ignored r x = true) : s.regWrite r x w = s := if_pos h

section
variable (hi : s.ignored r x = false)
include hi

theorem State.regWrite_refused (hr : r = .host) (hx : rscRange x = true) : s.regWrite r x w = s.incSat RSC_HWREFUSED := by
  simp [State.regWrite, State.writeWith, hr ▸ hi, hr, hx]

theorem State.regWrite_off (hx : r ≠ .host ∨ rscRange x = false) (ho : s.regOn x = false) : s.regWrite r x w =
    if takesClaim x w then (s.incSat PMG_NOFFWR).claimDenied (x / 0x100000 * 0x100000 + x / 0x80000 % 2 * 0x80000)
    else s.incSat PMG_NOFFWR := by
  have hn : (decide (r = Req.host) && rscRange x) = false := by rcases hx with hx | hx <;> simp [hx]
  simp [State.regWrite, State.writeWith, hi, hn, ho]

end

/-! ## Registers (R16, R17, R62, R76, R820) -/

section
variable (h : s.reaches r x = true) (hlt : x < 0x4000000) (hmsi : x < 0x5A0000 ∨ 0x5A8000 ≤ x) (hrra : x ≠ 0x58002C)
include h hlt hmsi hrra

/-- A write that reaches the register tables goes to the register at its offset. -/
theorem State.regWrite_tables : s.regWrite r x w = (regAt x).elim s fun e =>
    (s.writeSpecial r e.1.base e.2.1 e.2.2.1 e.2.2.2 w).getD (s.writePlain r x w e.1 e.2.1 e.2.2.1 e.2.2.2) := by
  simp only [State.reaches, Bool.and_eq_true, Bool.not_eq_true'] at h
  obtain ⟨⟨⟨-, hi⟩, hh⟩, ho⟩ := h
  have hh' : (decide (r = Req.host) && rscRange x) = false := by
    rw [← hh]
    cases r <;> rfl
  have h8 : ¬0x8000000 ≤ x := by omega
  have h4 : ¬(decide (0x4000000 ≤ x) && decide (x < 0x4800000)) = true := by simp; omega
  have hm : ¬(decide (0x5A0000 ≤ x) && decide (x < 0x5A8000)) = true := by simp; omega
  have h5 : ¬(decide (0x5000000 ≤ x) && decide (x < 0x5200000) && decide (x % 0x100000 < 0x10000)) = true := by simp; omega
  unfold State.regWrite State.writeWith
  rw [if_neg (by simp [hi]), if_neg (by simp [hh']), if_pos ho]
  unfold State.writeAt
  rw [if_neg h8, if_neg h4, if_neg hm, if_neg h5, if_neg hrra]
  cases regAt x <;> rfl

theorem State.regWrite_none (hreg : regAt x = none) : s.regWrite r x w = s := by
  rw [State.regWrite_tables h hlt hmsi hrra, hreg, Option.elim_none]

variable {d : RegDesc} {i j k : Nat} (hreg : regAt x = some (d, i, j, k))
include hreg

theorem State.regWrite_special {t : State} (hs : s.writeSpecial r d.base i j k w = some t) : s.regWrite r x w = t := by
  rw [State.regWrite_tables h hlt hmsi hrra, hreg, Option.elim_some, hs, Option.getD_some]

theorem State.regWrite_plain (hs : s.writeSpecial r d.base i j k w = none) : s.regWrite r x w = s.writePlain r x w d i j k := by
  rw [State.regWrite_tables h hlt hmsi hrra, hreg, Option.elim_some, hs, Option.getD_none]

end

theorem State.writePlain_fields {d : RegDesc} {i j k : Nat} (hc : d.cls = none) :
    s.writePlain r x w d i j k = (d.flds i j k).foldl (fun t f => t.writeField r d w f) s := by
  simp [State.writePlain, hc]

theorem State.writePlain_class {d : RegDesc} {i j k c : Nat} (hc : d.cls = some c) :
    s.writePlain r x w d i j k = s.writeShadow c x w (d.flds i j k) := by
  simp [State.writePlain, hc]

theorem State.writeShadow_locked {c : Nat} {fs : List FieldDesc} (h : s.classLocked c = true) : s.writeShadow c x w fs = s.refuseRwc :=
  if_pos h

end

theorem bits_lt (v lo n : Nat) : bits v lo n < 2 ^ n := Nat.mod_lt _ (Nat.two_pow_pos n)

/-- A field of the shadow bank that the word writes once reads as written. -/
theorem getShadow_foldl_putShadow {w : Nat} {f : FieldDesc} {fs : List FieldDesc} (hf : f ∈ fs) (hu : ∀ g ∈ fs, g.fld.id = f.fld.id → g = f)
    (s : State) : (fs.foldl (fun t g => t.putShadow g.fld (g.fld.of w)) s).getShadow f.fld = bits w f.fld.lo f.fld.width := by
  induction fs using List.reverseRecOn with
  | nil => simp at hf
  | append_singleton gs g ih =>
    rw [List.foldl_append, List.foldl_cons, List.foldl_nil]
    by_cases hg : g.fld.id = f.fld.id
    · rw [hu g (by simp) hg, State.getShadow_putShadow_same]
      exact Nat.mod_eq_of_lt (bits_lt _ _ _)
    · rw [State.getShadow_putShadow_ne _ _ (Ne.symm hg)]
      refine ih ?_ fun x hx => hu x (by simp [hx])
      simp only [List.mem_append, List.mem_singleton] at hf
      rcases hf with hf | rfl
      · exact hf
      · exact absurd rfl hg

theorem State.getShadow_writeShadow {s : State} {c x w : Nat} {fs : List FieldDesc} (h : s.classLocked c = false) (f : Field) :
    (s.writeShadow c x w fs).getShadow f = (fs.foldl (fun t f => t.putShadow f.fld (f.fld.of w)) s).getShadow f := by
  unfold State.writeShadow
  rw [if_neg (by simp [h])]
  simp only []
  split <;> rfl

/-! ## Registers whose writes are commands (R820) -/

section
variable {s : State} {r : Req} {d : BitVec 32}

/-- A whole write of one register goes by the register's rule. -/
theorem execRegisterWrite_reaches {o : BitVec 28} (ho : o.toNat % 4 = 0) (h : s.reaches r o.toNat = true) :
    execRegisterWrite r o d 15#4 none s = .next (s.regWrite r o.toNat d.toNat) := by
  have hx : o.toNat / 4 * 4 = o.toNat := by omega
  have hi : s.issues r o.toNat 4 = true := by
    simp only [State.reaches, Bool.and_eq_true] at h
    obtain ⟨⟨⟨hi, -⟩, -⟩, -⟩ := h
    exact hi
  rw [execRegisterWrite_one (by rw [hx]; exact hi), State.writePart_whole, hx]

theorem execRegisterWrite_special {o : BitVec 28} {x i j k : Nat} {t : State} (hx : o.toNat = x) (hal : x % 4 = 0) (h : s.reaches r x = true)
    (hlt : x < 0x4000000) (hmsi : x < 0x5A0000 ∨ 0x5A8000 ≤ x) (hrra : x ≠ 0x58002C)
    (hreg : ((regAt x).map fun e => (e.1.base, e.2)) = some (x, i, j, k)) (hs : s.writeSpecial r x i j k d.toNat = some t) :
    execRegisterWrite r o d 15#4 none s = .next t := by
  subst hx
  obtain ⟨⟨e, i', j', k'⟩, hreg', he⟩ := Option.map_eq_some_iff.mp hreg
  simp only [Prod.mk.injEq] at he
  obtain ⟨hb, rfl, rfl, rfl⟩ := he
  rw [execRegisterWrite_reaches hal h, State.regWrite_special h hlt hmsi hrra hreg' (by rw [hb]; exact hs)]

theorem State.run_of_next {f : State → Out} {t : State} (h : f s = .next t) : s.run f = t := by
  simp [State.run, h]

theorem bits_eq_of_div {v q : Nat} (hv : v < 2 ^ 32) {lo n : Nat} (hn : lo + n = 32) (h : v / 2 ^ lo = q) : bits v lo n = q := by
  rw [bits, Nat.shiftRight_eq_div_pow, h]
  refine Nat.mod_eq_of_lt ?_
  rw [← h]
  refine Nat.div_lt_of_lt_mul ?_
  rwa [← pow_add, hn]

theorem bitAt_of_div {v q : Nat} (lo n : Nat) (h : v / 2 ^ lo = q) : bitAt v (lo + n) = (q / 2 ^ n % 2 == 1) := by
  rw [bitAt, Nat.shiftRight_eq_div_pow, pow_add, ← Nat.div_div_eq_div_mul, h]

theorem execRegisterWrite_scratch (h : s.reaches r 0x1C = true) :
    execRegisterWrite r 0x1C#28 d 15#4 none s = .next (s.put GLB_SCRATCH d.toNat) := by
  have hreg : ((regAt 0x1C).map fun e => (e.1.base, e.1.cls, e.1.perReq, e.1.flds e.2.1 e.2.2.1 e.2.2.2)) =
      some (0x1C, none, false, [⟨GLB_SCRATCH, .rw, false⟩]) := by decide +kernel
  obtain ⟨⟨e, i, j, k⟩, hreg', he⟩ := Option.map_eq_some_iff.mp hreg
  simp only [Prod.mk.injEq] at he
  obtain ⟨hb, hc, hp, hf⟩ := he
  have hs : s.writeSpecial r e.base i j k d.toNat = none := by
    rw [hb]
    simp [State.writeSpecial, State.writeGlb]
  have hw : s.regWrite r 0x1C d.toNat = s.put GLB_SCRATCH (bits d.toNat 0 32) := by
    rw [State.regWrite_plain h (by decide) (by decide) (by decide) hreg' hs, State.writePlain_fields hc, hf]
    simp [State.writeField, RegDesc.cell, hp, Field.of, GLB_SCRATCH]
  have hd : bits d.toNat 0 32 = d.toNat := by rw [bits, Nat.shiftRight_zero, Nat.mod_eq_of_lt d.isLt]
  rw [hd] at hw
  exact (execRegisterWrite_reaches (o := 0x1C#28) (by decide) h).trans (congrArg Host.Outcome.next hw)

theorem execRegisterWrite_command {o : BitVec 28} {x i j k : Nat} {f : State → Out} (hx : o.toNat = x) (hal : x % 4 = 0) (h : s.reaches r x = true)
    (hlt : x < 0x4000000) (hmsi : x < 0x5A0000 ∨ 0x5A8000 ≤ x) (hrra : x ≠ 0x58002C)
    (hreg : ((regAt x).map fun e => (e.1.base, e.2)) = some (x, i, j, k)) (hs : s.writeSpecial r x i j k d.toNat = some (s.run f))
    (hf : ∃ t, f s = .next t) : execRegisterWrite r o d 15#4 none s = f s := by
  obtain ⟨t, ht⟩ := hf
  rw [execRegisterWrite_special hx hal h hlt hmsi hrra hreg hs, State.run_of_next ht, ht]

theorem effLvlCtrlWrite_next : ∃ t, effLvlCtrlWrite d s = .next t := by
  unfold effLvlCtrlWrite
  simp only []
  split <;> exact ⟨_, rfl⟩

theorem effPmgDomOffWrite_next {i : Fin 2} : ∃ t, effPmgDomOffWrite r i d s = .next t := by
  unfold effPmgDomOffWrite
  split <;> exact ⟨_, rfl⟩

theorem effFclSwevt_next : ∃ t, effFclSwevt d s = .next t := by
  unfold effFclSwevt
  simp only []
  split <;> exact ⟨_, rfl⟩

/-! The registers of the last clause, each with the write that is its command. -/

theorem State.writeSpecial_lvlCtrl : s.writeSpecial .host 0xA00 0 0 0 d.toNat = some (s.run (effLvlCtrlWrite d)) := by
  simp [State.writeSpecial, State.writeGlb]

theorem State.writeSpecial_fwQuery (h : d.toNat / 2 ^ 24 = 6) :
    s.writeSpecial r 0xC00 0 0 0 d.toNat = some (s.run (effFwQuery r (BitVec.ofNat 16 d.toNat))) := by
  simp [State.writeSpecial, State.writeGlb, bits_eq_of_div d.isLt (n := 8) (by norm_num) h]

theorem State.writeSpecial_dormant (h : d.toNat / 2 ^ 28 = 8) :
    s.writeSpecial r 0x30000 0 0 0 d.toNat = some (s.run (effPmgDormant r)) := by
  simp [State.writeSpecial, State.writePmg, State.runBits, bitAt_of_div 28 0 h, bitAt_of_div 28 1 h, bitAt_of_div 28 2 h, bitAt_of_div 28 3 h]

theorem State.writeSpecial_bloom (h : d.toNat / 2 ^ 28 = 1) :
    s.writeSpecial r 0x30000 0 0 0 d.toNat = some (s.run (effPmgBloom r)) := by
  simp [State.writeSpecial, State.writePmg, State.runBits, bitAt_of_div 28 0 h, bitAt_of_div 28 1 h, bitAt_of_div 28 2 h, bitAt_of_div 28 3 h]

theorem State.writeSpecial_domOff : s.writeSpecial r 0x30038 0 0 0 d.toNat = some (s.run (effPmgDomOffWrite r 0 d)) := by
  simp [State.writeSpecial, State.writePmg]

theorem State.writeSpecial_swevt : s.writeSpecial .host 0x40030 0 0 0 d.toNat = some (s.run (effFclSwevt d)) := by
  simp [State.writeSpecial, State.writeFcl]

theorem State.writeSpecial_ridx : s.writeSpecial r 0x50008 0 0 0 d.toNat = some (s.run (effEvrRidxWrite r d)) := by
  simp [State.writeSpecial, State.writeFcl]

theorem State.writeSpecial_frzSoft (h : d.toNat / 2 ^ 26 = 16) :
    s.writeSpecial .host 0x60000 0 0 0 d.toNat = some (s.run effFrzSoft) := by
  simp [State.writeSpecial, State.writeFcl, State.runBits, bitAt_of_div 26 0 h, bitAt_of_div 26 1 h, bitAt_of_div 26 2 h, bitAt_of_div 26 3 h,
    bitAt_of_div 26 4 h, bitAt_of_div 26 5 h]

theorem State.writeSpecial_uflagSet :
    s.writeSpecial .host 0x80028 0 0 0 d.toNat = some (s.run (effUflagSet (BitVec.ofNat 16 d.toNat))) := by
  simp [State.writeSpecial, State.writeSeq]

end

end Sys2Proof.Machine

namespace Sys2Proof.Proofs
open Sys2Proof.Machine

/-- Settles O53: the parts of an access, what hides a register, the fields of a register by their access types, and each command that the last
clause names as the rule of its register. -/
theorem registerWrites : Obligations.RegisterWrites := by
  unfold Obligations.RegisterWrites
  refine ⟨fun s r o d be => ⟨execRegisterWrite_notIssued (hi := none), execRegisterWrite_one, fun d1 b1 =>
      ⟨execRegisterWrite_notIssued (hi := some (d1, b1)), fun h => ?two⟩⟩,
    fun s r x d be => ⟨?whole, fun hb hi => ?hidden, fun hb hi => ?partly⟩,
    fun s r x w => ⟨State.regWrite_ignored, fun hi => ⟨State.regWrite_refused hi, fun hx ho => ⟨fun ht => ?counts, fun ht => ?denied⟩⟩⟩,
    fun s r x w d i j k h hlt hmsi hrra => ⟨State.regWrite_none h hlt hmsi hrra, fun hreg hs => ⟨fun hc => ?fields, fun c hc => ?cls⟩⟩,
    fun s r d w f => ?access, fun s r d => ?commands⟩
  case two =>
    rw [exec_registerWrite, execRegisterWrite_two h]
    exact ⟨fun hlt => by rw [if_pos hlt], fun hle => by rw [if_neg (Nat.not_lt.mpr hle)]⟩
  case whole =>
    rintro rfl
    exact State.writePart_whole
  case hidden => rw [State.writePart_part hb, if_pos hi]
  case partly => rw [State.writePart_part hb, if_neg (by simp [hi])]
  case counts => rw [State.regWrite_off hi hx ho, if_neg (by simp [ht])]
  case denied => rw [State.regWrite_off hi hx ho, if_pos ht]
  case fields => rw [State.regWrite_plain h hlt hmsi hrra hreg hs, State.writePlain_fields hc]
  case cls =>
    rw [State.regWrite_plain h hlt hmsi hrra hreg hs, State.writePlain_class hc]
    refine ⟨State.writeShadow_locked, fun hl f hf hu => ?_⟩
    rw [State.getShadow_writeShadow hl, getShadow_foldl_putShadow hf hu]
  case access =>
    refine ⟨fun h => ?_, fun h => ⟨fun hr => ?_, fun hr => ?_⟩, fun h => ?_, fun h => ?_, fun h => if_pos h, fun h => if_neg (by simp [h])⟩
    · simp [State.writeField, h, Field.of]
    · simp [State.writeField, h, hr]
    · simp [State.writeField, h, hr, Field.of]
    · simp [State.writeField, h, Field.of]
    · simp [State.writeField, h]
  case commands =>
    refine ⟨execRegisterWrite_scratch, fun h => ?lvl, fun h hd => ?fw, fun h hd => ?dormant, fun h hd => ?bloom, fun h => ?dom, fun h => ?swevt,
      fun h => ?ridx, fun h hd => ?frz, fun h => ?uflag⟩
    case lvl =>
      rw [exec_lvlCtrlWrite, execLvlCtrlWrite, State.reachReg_of_reaches _ h, exec_registerWrite]
      exact execRegisterWrite_command rfl (by decide) h (by decide) (by decide) (by decide) (by decide +kernel) State.writeSpecial_lvlCtrl effLvlCtrlWrite_next
    case fw =>
      rw [exec_fwQuery, execFwQuery, State.reachReg_of_reaches _ h, exec_registerWrite]
      exact execRegisterWrite_command rfl (by decide) h (by decide) (by decide) (by decide) (by decide +kernel) (State.writeSpecial_fwQuery hd) ⟨_, rfl⟩
    case dormant =>
      rw [exec_pmgDormant, execPmgDormant, State.reachReg_of_reaches _ h, exec_registerWrite]
      exact execRegisterWrite_command rfl (by decide) h (by decide) (by decide) (by decide) (by decide +kernel) (State.writeSpecial_dormant hd) ⟨_, rfl⟩
    case bloom =>
      rw [exec_pmgBloom, execPmgBloom, State.reachReg_of_reaches _ h, exec_registerWrite]
      exact execRegisterWrite_command rfl (by decide) h (by decide) (by decide) (by decide) (by decide +kernel) (State.writeSpecial_bloom hd) ⟨_, rfl⟩
    case dom =>
      rw [exec_pmgDomOffWrite, execPmgDomOffWrite, State.reachReg_of_reaches _ h, exec_registerWrite]
      exact execRegisterWrite_command rfl (by decide) h (by decide) (by decide) (by decide) (by decide +kernel) State.writeSpecial_domOff effPmgDomOffWrite_next
    case swevt =>
      rw [exec_fclSwevt, execFclSwevt, State.reachReg_of_reaches _ h, exec_registerWrite]
      exact execRegisterWrite_command rfl (by decide) h (by decide) (by decide) (by decide) (by decide +kernel) State.writeSpecial_swevt effFclSwevt_next
    case ridx =>
      rw [exec_evrRidxWrite, execEvrRidxWrite, State.reachReg_of_reaches _ h, exec_registerWrite]
      exact execRegisterWrite_command rfl (by decide) h (by decide) (by decide) (by decide) (by decide +kernel) State.writeSpecial_ridx ⟨_, rfl⟩
    case frz =>
      rw [exec_frzSoft, execFrzSoft, State.reachReg_of_reaches _ h, exec_registerWrite]
      exact execRegisterWrite_command rfl (by decide) h (by decide) (by decide) (by decide) (by decide +kernel) (State.writeSpecial_frzSoft hd) ⟨_, rfl⟩
    case uflag =>
      rw [exec_uflagSet, execUflagSet, State.reachReg_of_reaches _ h, exec_registerWrite]
      exact execRegisterWrite_command rfl (by decide) h (by decide) (by decide) (by decide) (by decide +kernel) State.writeSpecial_uflagSet ⟨_, rfl⟩

end Sys2Proof.Proofs
end

