-- ==== Sys2Proof/Proofs/FastEntryAndWilting.lean ====
section
/-! SUPPORT. A fast-entry depth that its field cannot hold, which no run leaves in a register, is not counted down by one. -/

namespace Sys2Proof.Machine

/-- Scion 0 runs with a plot over its local memory's first 4 KiB, and the cell of its depth, a field of 4 bits, holds 17. -/
def depthTooWide : State :=
  let s := ((((State.reset.put (SCN_STATUS_STATE 0) 1).put (SCN_PLOT_ATTR_EN 0 0) 1).put (SCN_PLOT_ATTR_R 0 0) 1).put (SCN_PLOT_ATTR_W 0 0) 1).put
    (SCN_PLOT_ATTR_SIZE 0 0) 12
  { s with cells := Assoc.insert s.cells (SCN_STATUS_DEPTH 0).id 17 }

/-- The depth of core 0 that a command answers. -/
def depthAfter : Out → Option Nat
  | .next t => some (t.depthOf 0)
  | _ => none

theorem depthTooWide_runs : depthTooWide.executes 0 = true ∧ depthTooWide.depthOf 0 = 17 ∧ depthTooWide.pushArea 0 0 128 = some 0 ∧
    xGet (xRegs []) 2 = 0 := by
  decide +kernel

/-- An mret leaves depth 16 cut to 4 bits. -/
theorem depthTooWide_mret : depthAfter (exec (.mretRestore 0 [] 0 0 0 0) depthTooWide) = some 0 := by
  decide +kernel

end Sys2Proof.Machine

namespace Sys2Proof.Proofs
open Sys2Proof.Machine

/-- Refutes O38: it has every mret that restores take one from the depth it finds. SCN_STATUS.DEPTH has 4 bits, and the statement's states may
hold any number in its cell: from `depthTooWide`, at depth 17, an mret leaves depth 0 and not 16. -/
theorem not_fastEntryAndWilting : ¬ Obligations.FastEntryAndWilting := by
  unfold Obligations.FastEntryAndWilting
  rintro ⟨-, -, hmret, -⟩
  obtain ⟨hexec, hdepth, harea, hsp⟩ := depthTooWide_runs
  obtain ⟨-, hrestores⟩ := hmret depthTooWide 0 [] 0 0 0 0 _ _ _ _ rfl rfl rfl rfl
  obtain ⟨-, hrestores⟩ := hrestores hexec (by
    show depthTooWide.depthOf 0 ≠ 0
    rw [hdepth]
    decide)
  obtain ⟨t, ht, hone, -⟩ := hrestores (by rw [hsp]) 0 (by rw [hsp]; exact harea)
  have h0 := depthTooWide_mret
  rw [ht] at h0
  have h16 : t.depthOf 0 = depthTooWide.depthOf 0 - 1 := hone
  rw [hdepth] at h16
  exact absurd (Option.some.inj h0) (by rw [h16]; decide)

end Sys2Proof.Proofs
end

