-- ==== Sys2Proof/Proofs/RootstockAuthority.lean ====
section
/-! SUPPORT. Rootstock's authority: lockstep mismatches, the passing of authority, the watchdog and handovers; then the statement on authority. -/

namespace Sys2Proof.Machine

/-! ## The passing of authority (R577, R608, R610) -/

section
variable {s : State}

theorem otherPair_lt (a : Nat) : otherPair a < 2 ^ 2 := by
  unfold otherPair
  split <;> decide

/-- The registers that the passing of authority writes. -/
theorem State.get_passAuthority (f : Field) : s.passAuthority.get f =
    (((s.put RSC_STATUS_ACTIVE (otherPair (s.get RSC_STATUS_ACTIVE))).put RSC_STATUS_SBYREADY 0).put (RSC_RBK 0)
      (max (s.get (RSC_RBK 0)) (imgRollback (s.slotImg s.rsc.sbySlot)))).get f := by
  have h : ((s.put RSC_STATUS_ACTIVE (otherPair (s.get RSC_STATUS_ACTIVE))).put RSC_STATUS_SBYREADY 0).get (RSC_RBK 0) = s.get (RSC_RBK 0) := by
    rw [State.get_put_ne _ _ (by decide), State.get_put_ne _ _ (by decide)]
  rw [← h]
  rfl

theorem State.get_active_passAuthority : s.passAuthority.get RSC_STATUS_ACTIVE = otherPair (s.get RSC_STATUS_ACTIVE) := by
  rw [State.get_passAuthority, State.get_put_ne _ _ (by decide), State.get_put_ne _ _ (by decide), State.get_put_same]
  exact Nat.mod_eq_of_lt (otherPair_lt _)

theorem State.get_sbyready_passAuthority : s.passAuthority.get RSC_STATUS_SBYREADY = 0 := by
  rw [State.get_passAuthority, State.get_put_ne _ _ (by decide), State.get_put_same, Nat.zero_mod]

theorem State.get_rbk_passAuthority : s.passAuthority.get (RSC_RBK 0) =
    max (s.get (RSC_RBK 0)) (imgRollback (s.slotImg s.rsc.sbySlot)) % 2 ^ 32 := by
  rw [State.get_passAuthority, State.get_put_same]
  rfl

theorem State.get_passAuthority_ne {f : Field} (ha : f.id ≠ RSC_STATUS_ACTIVE.id) (hs : f.id ≠ RSC_STATUS_SBYREADY.id) (hr : f.id ≠ (RSC_RBK 0).id) :
    s.passAuthority.get f = s.get f := by
  rw [State.get_passAuthority, State.get_put_ne _ _ hr, State.get_put_ne _ _ hs, State.get_put_ne _ _ ha]

/-! ## Takeovers (R610) -/

/-- Authority has passed to the standby, and the failed pair is held, before a command in progress ends. -/
def State.takenOver (s : State) : State :=
  let s1 := ((s.passAuthority.put RSC_STATUS_REBUILT 1).put RSC_STATUS_HOSTATE 0).inc RSC_NTAKEOVER
  { s1 with rsc := { s1.rsc with handover := none, held := true } }.event srcRscTakeover

theorem State.takeover_unready (h : s.on RSC_STATUS_SBYREADY = false) : s.takeover = s.enterSafe 6 := by
  simp [State.takeover, h]

theorem State.takeover_ready (h : s.on RSC_STATUS_SBYREADY = true) :
    s.takeover = if s.on GLB_FW_STATUS_BUSY then s.takenOver.fwEnd 0x0B else s.takenOver := by
  simp [State.takeover, h, State.takenOver]

/-- The registers that the end of a command writes. -/
theorem State.get_fwEnd (n : Nat) (f : Field) : (s.fwEnd n).get f =
    ((((s.put GLB_FW_STATUS_RESULT n).put GLB_FW_STATUS_TAG (s.get GLB_FW_CMD_TAG)).put GLB_FW_STATUS_BUSY 0).inc GLB_FW_SEQ).get f := rfl

theorem State.get_fwEnd_ne {f : Field} (n : Nat) (hr : f.id ≠ GLB_FW_STATUS_RESULT.id) (ht : f.id ≠ GLB_FW_STATUS_TAG.id)
    (hb : f.id ≠ GLB_FW_STATUS_BUSY.id) (hq : f.id ≠ GLB_FW_SEQ.id) : (s.fwEnd n).get f = s.get f := by
  rw [State.get_fwEnd, State.get_inc_ne _ hq, State.get_put_ne _ _ hb, State.get_put_ne _ _ ht, State.get_put_ne _ _ hr]

theorem State.get_busy_fwEnd (n : Nat) : (s.fwEnd n).get GLB_FW_STATUS_BUSY = 0 := by
  rw [State.get_fwEnd, State.get_inc_ne _ (by decide), State.get_put_same, Nat.zero_mod]

/-- The registers that a takeover writes besides. -/
theorem State.get_takenOver (f : Field) : s.takenOver.get f =
    (((s.passAuthority.put RSC_STATUS_REBUILT 1).put RSC_STATUS_HOSTATE 0).inc RSC_NTAKEOVER).get f := by
  rw [State.takenOver, State.event_eq, State.get_raise]
  exact State.get_congr f rfl

theorem State.get_takenOver_ne {f : Field} (hb : f.id ≠ RSC_STATUS_REBUILT.id) (hh : f.id ≠ RSC_STATUS_HOSTATE.id)
    (hn : f.id ≠ RSC_NTAKEOVER.id) : s.takenOver.get f = s.passAuthority.get f := by
  rw [State.get_takenOver, State.get_inc_ne _ hn, State.get_put_ne _ _ hh, State.get_put_ne _ _ hb]

theorem State.get_rebuilt_takenOver : s.takenOver.get RSC_STATUS_REBUILT = 1 := by
  rw [State.get_takenOver, State.get_inc_ne _ (by decide), State.get_put_ne _ _ (by decide), State.get_put_same]
  rfl

theorem State.get_ntakeover_takenOver : s.takenOver.get RSC_NTAKEOVER = (s.get RSC_NTAKEOVER + 1) % 2 ^ RSC_NTAKEOVER.width := by
  rw [State.get_takenOver, State.get_inc_same, State.get_put_ne _ _ (by decide), State.get_put_ne _ _ (by decide),
    State.get_passAuthority_ne (by decide) (by decide) (by decide)]

theorem State.passAuthority_rsc : s.passAuthority.rsc =
    { s.rsc with active := otherPair (s.get RSC_STATUS_ACTIVE), kick := some s.time.rc, bootSlot := s.rsc.sbySlot, runSlot := s.rsc.sbySlot } := by
  simp [State.passAuthority, State.raiseRollback]

theorem State.passAuthority_mem : s.passAuthority.mem = s.mem := by
  simp [State.passAuthority, State.raiseRollback]

theorem State.takenOver_rsc : s.takenOver.rsc = { s.passAuthority.rsc with handover := none, held := true } := by
  simp [State.takenOver]

theorem State.takenOver_mem : s.takenOver.mem = s.mem := by
  simp [State.takenOver, State.passAuthority_mem]

theorem State.takenOver_raises : ∃ r ∈ s.takenOver.raised, r.src = srcRscTakeover := by
  rw [State.takenOver, State.event_eq, State.raise_raised]
  exact ⟨_, List.mem_append_right _ (List.mem_singleton.mpr rfl), rfl⟩

theorem State.fwEnd_rsc (n : Nat) : (s.fwEnd n).rsc = { s.rsc with cmd := none, result := none } := by
  simp [State.fwEnd]

theorem State.fwEnd_mem (n : Nat) : (s.fwEnd n).mem = s.mem := by
  simp [State.fwEnd]

theorem State.fwEnd_raises {r : Raised} (n : Nat) (h : r ∈ s.raised) : r ∈ (s.fwEnd n).raised := by
  rw [State.fwEnd, State.event_eq, State.raise_raised]
  exact List.mem_append_left _ h

/-- What a takeover by a ready standby leaves. -/
theorem State.takeover_passes (h : s.on RSC_STATUS_SBYREADY = true) :
    s.takeover.get RSC_STATUS_ACTIVE = otherPair (s.get RSC_STATUS_ACTIVE) ∧ s.takeover.get RSC_STATUS_SBYREADY = 0 ∧
    s.takeover.get RSC_STATUS_REBUILT = 1 ∧ s.takeover.get RSC_NTAKEOVER = (s.get RSC_NTAKEOVER + 1) % 2 ^ RSC_NTAKEOVER.width ∧
    s.takeover.rsc.handover = none ∧ s.takeover.rsc.held = true ∧ s.takeover.rsc.kick = some s.time.rc ∧ s.takeover.rsc.runSlot = s.rsc.sbySlot ∧
    (∃ r ∈ s.takeover.raised, r.src = srcRscTakeover) ∧ s.takeover.get GLB_FW_STATUS_BUSY = 0 ∧ s.takeover.mem = s.mem := by
  have hactive : s.takenOver.get RSC_STATUS_ACTIVE = otherPair (s.get RSC_STATUS_ACTIVE) :=
    (State.get_takenOver_ne (by decide) (by decide) (by decide)).trans State.get_active_passAuthority
  have hready : s.takenOver.get RSC_STATUS_SBYREADY = 0 :=
    (State.get_takenOver_ne (by decide) (by decide) (by decide)).trans State.get_sbyready_passAuthority
  obtain ⟨r, hr, hsrc⟩ := s.takenOver_raises
  have hrsc := (s.takenOver_rsc).trans (congrArg (fun x : RscState => { x with handover := none, held := true }) s.passAuthority_rsc)
  rw [State.takeover_ready h]
  by_cases hb : s.on GLB_FW_STATUS_BUSY = true
  · rw [if_pos hb]
    rw [State.fwEnd_rsc, hrsc]
    refine ⟨?_, ?_, ?_, ?_, rfl, rfl, rfl, rfl, ⟨r, State.fwEnd_raises _ hr, hsrc⟩, State.get_busy_fwEnd _,
      (State.fwEnd_mem _).trans State.takenOver_mem⟩
    · rw [State.get_fwEnd_ne _ (by decide) (by decide) (by decide) (by decide), hactive]
    · rw [State.get_fwEnd_ne _ (by decide) (by decide) (by decide) (by decide), hready]
    · rw [State.get_fwEnd_ne _ (by decide) (by decide) (by decide) (by decide), State.get_rebuilt_takenOver]
    · rw [State.get_fwEnd_ne _ (by decide) (by decide) (by decide) (by decide), State.get_ntakeover_takenOver]
  · rw [if_neg hb]
    rw [hrsc]
    refine ⟨hactive, hready, State.get_rebuilt_takenOver, State.get_ntakeover_takenOver, rfl, rfl, rfl, rfl, ⟨r, hr, hsrc⟩, ?_,
      State.takenOver_mem⟩
    rw [State.get_takenOver_ne (by decide) (by decide) (by decide), State.get_passAuthority_ne (by decide) (by decide) (by decide)]
    rwa [Bool.not_eq_true, State.on_false] at hb

/-! ## Lockstep and the watchdog (R577, R610, R611) -/

theorem execRscLockstep_active : execRscLockstep false s = .next (s.raise srcRscLockstep 0 0).takeover := rfl

theorem execRscLockstep_standby {u : State} (hu : u = (s.raise srcRscLockstep 0 0).put RSC_STATUS_SBYREADY 0) (h : s.rsc.handover = none) :
    execRscLockstep true s = .next { u with rsc := { u.rsc with held := true } } := by
  subst hu
  simp [execRscLockstep, State.event_eq, h]

theorem execRscLockstep_handover {u : State} (hu : u = (s.raise srcRscLockstep 0 0).put RSC_STATUS_SBYREADY 0) (h : s.rsc.handover ≠ none) :
    execRscLockstep true s = .next { u.put RSC_STATUS_HOSTATE 0 with
      rsc := { u.rsc with handover := none, sbySlot := u.rsc.bootSlot, result := some 0x0B } } := by
  subst hu
  obtain ⟨n, hn⟩ := Option.ne_none_iff_exists'.mp h
  simp [execRscLockstep, State.event_eq, hn]

theorem execRscWdogExpiry_unarmed (h : s.rsc.kick = none) : execRscWdogExpiry s = .next s := by
  simp [execRscWdogExpiry, State.wdogDue, h]

theorem execRscWdogExpiry_early {k : Nat} (h : s.rsc.kick = some k) (hk : s.time.rc < k + 100000 * s.get RSC_WDOG) :
    execRscWdogExpiry s = .next s := by
  simp [execRscWdogExpiry, State.wdogDue, h, hk]

theorem execRscWdogExpiry_due {k : Nat} (h : s.rsc.kick = some k) (hk : k + 100000 * s.get RSC_WDOG ≤ s.time.rc) :
    execRscWdogExpiry s = .next s.takeover := by
  simp [execRscWdogExpiry, State.wdogDue, h, hk]

/-! ## Handovers (R600, R608, R611) -/

section
variable {n : Nat} (h : s.rsc.handover = some n)
include h

theorem execHandoverStandbyReady_notWaiting (hs : s.get RSC_STATUS_HOSTATE ≠ 1) : execHandoverStandbyReady s = .next s := by
  simp [execHandoverStandbyReady, h, hs]

theorem execHandoverStandbyReady_passes (hs : s.get RSC_STATUS_HOSTATE = 1) (hv : s.verify (s.slotImg n) 1 = 0) :
    execHandoverStandbyReady s = .next { (s.put RSC_STATUS_SBYREADY 1).put RSC_STATUS_HOSTATE 2 with rsc := { s.rsc with sbySlot := n } } := by
  simp [execHandoverStandbyReady, h, hs, hv]

theorem execHandoverStandbyReady_aborts (hs : s.get RSC_STATUS_HOSTATE = 1) (hv : s.verify (s.slotImg n) 1 ≠ 0) :
    execHandoverStandbyReady s = .next { s.put RSC_STATUS_HOSTATE 0 with
      rsc := { s.rsc with handover := none, sbySlot := s.rsc.runSlot, result := some 0x0B } } := by
  simp [execHandoverStandbyReady, h, hs, hv]

end

section
variable (h : s.rsc.handover = none)
include h

theorem execHandoverStandbyReady_stays (hv : s.rsc.held = true ∨
    s.verify (s.slotImg s.rsc.bootSlot) 1 ≠ 0 ∧ s.verify (s.slotImg (otherSlot s.rsc.bootSlot)) 1 ≠ 0) : execHandoverStandbyReady s = .next s := by
  rcases hv with hv | ⟨hv, ho⟩
  · simp [execHandoverStandbyReady, h, hv]
  · simp [execHandoverStandbyReady, h, hv, ho]

theorem execHandoverStandbyReady_boots {a : Nat} (hh : s.rsc.held = false)
    (ha : a = if s.verify (s.slotImg s.rsc.bootSlot) 1 = 0 then s.rsc.bootSlot else otherSlot s.rsc.bootSlot)
    (hv : s.verify (s.slotImg a) 1 = 0) :
    execHandoverStandbyReady s = .next { s.put RSC_STATUS_SBYREADY 1 with rsc := { s.rsc with sbySlot := a } } := by
  by_cases hb : s.verify (s.slotImg s.rsc.bootSlot) 1 = 0
  · rw [if_pos hb] at ha
    subst ha
    simp [execHandoverStandbyReady, h, hh, hb]
  · rw [if_neg hb] at ha
    subst ha
    simp [execHandoverStandbyReady, h, hh, hb, hv]

end

theorem execHandoverCommit_none (h : s.rsc.handover = none ∨ s.get RSC_STATUS_HOSTATE ≠ 2) : execHandoverCommit s = .next s := by
  rcases h with h | h <;> simp [execHandoverCommit, h]

theorem execHandoverCommit_passes (h : s.rsc.handover ≠ none) (hs : s.get RSC_STATUS_HOSTATE = 2) :
    execHandoverCommit s = .next { s.passAuthority.put RSC_STATUS_HOSTATE 0 with
      rsc := { s.passAuthority.rsc with handover := none, result := some 0 } } := by
  simp [execHandoverCommit, h, hs]

end

end Sys2Proof.Machine

namespace Sys2Proof.Proofs
open Sys2Proof.Machine

/-- Settles O39: a takeover by what it passes and what it leaves, then each command in each of its cases. -/
theorem rootstockAuthority : Obligations.RootstockAuthority := by
  unfold Obligations.RootstockAuthority
  refine ⟨fun s => ?lockstep, fun s => ⟨State.takeover_unready, State.takeover_passes⟩, fun s r hr => ?kick, fun s => ?expiry, fun s => ?ready,
    fun s => ?commit⟩
  case lockstep =>
    simp only [exec_rscLockstep]
    exact ⟨execRscLockstep_active, fun u hu => ⟨execRscLockstep_standby hu, execRscLockstep_handover hu⟩⟩
  case kick =>
    rw [exec_rscWdogKick, execRscWdogKick, State.reachReg_of_reaches _ hr]
    exact ⟨fun h => if_pos h, fun h => if_neg h⟩
  case expiry =>
    rw [exec_rscWdogExpiry]
    exact ⟨execRscWdogExpiry_unarmed, fun k h => ⟨execRscWdogExpiry_early h, execRscWdogExpiry_due h⟩⟩
  case ready =>
    rw [exec_handoverStandbyReady]
    exact ⟨fun n h => ⟨execHandoverStandbyReady_notWaiting h, execHandoverStandbyReady_passes h, execHandoverStandbyReady_aborts h⟩,
      fun h => ⟨execHandoverStandbyReady_stays h, fun a => execHandoverStandbyReady_boots h⟩⟩
  case commit =>
    rw [exec_handoverCommit]
    exact ⟨execHandoverCommit_none, fun h hs => ⟨execHandoverCommit_passes h hs, State.get_active_passAuthority, rfl, State.get_rbk_passAuthority⟩⟩

end Sys2Proof.Proofs
end

