-- ==== Sys2Proof/Proofs/FirmwareMailbox.lean ====
section
/-! SUPPORT. A tag that its field cannot hold, which no run leaves in a register, is not the tag that a command posts. -/

namespace Sys2Proof.Machine

/-- The cell of GLB_FW_CMD.TAG, a field of 16 bits, holds 2^16. -/
def tagTooWide : State := { State.reset with cells := [(GLB_FW_CMD_TAG.id, 2 ^ 16)] }

theorem tagTooWide_fwEnd : (tagTooWide.fwEnd 0).get GLB_FW_STATUS_TAG = 0 ∧ tagTooWide.get GLB_FW_CMD_TAG = 2 ^ 16 := by
  decide +kernel

end Sys2Proof.Machine

namespace Sys2Proof.Proofs
open Sys2Proof.Machine

/-- Refutes O40: it has a command that ends post in GLB_FW_STATUS.TAG just what GLB_FW_CMD.TAG reads. Both fields have 16 bits, and the
statement's states may hold any number in a cell: from `tagTooWide`, whose tag reads 2^16, the tag posted is 0. -/
theorem not_firmwareMailbox : ¬ Obligations.FirmwareMailbox := by
  unfold Obligations.FirmwareMailbox
  rintro ⟨-, -, -, hend, -⟩
  obtain ⟨-, -, htag, -⟩ := hend tagTooWide 0 (by decide)
  obtain ⟨hposted, hread⟩ := tagTooWide_fwEnd
  rw [hposted, hread] at htag
  exact absurd htag (by decide)

end Sys2Proof.Proofs
end

