-- ==== Sys2Proof/Proofs/LinkStates.lean ====
section
/-! SUPPORT. A port that trains with a width change at its switch point and a flit that waits takes the change as soon as it is ACTIVE. -/

namespace Sys2Proof.Machine

/-- Port 0 is in TRAIN; one flit waits, and a change to lane 0 alone has no switch point ahead. -/
def trainsAtSwitch : State :=
  (State.reset.setPort 0 { Port.reset with wait := [.nak 0 0], switch := some ⟨1, none, none, 0⟩ }).put (LNK_AZ_STATUS_STATE 0) 2

/-- The lanes of port 0 that a command answers. -/
def lanesAfter : Out → Option Nat
  | .next t => some (t.get (LNK_AZ_STATUS_LANES 0))
  | _ => none

theorem trainsAtSwitch_trains : trainsAtSwitch.portState 0 = 2 ∧ trainsAtSwitch.widthOk 0 15 = true := by
  decide +kernel

/-- Trained on all four lanes, the port is left with lane 0. -/
theorem trainsAtSwitch_lanes : lanesAfter (exec (.linkTrainDone 0 15 0xE4 0 0 0) trainsAtSwitch) = some 1 := by
  decide +kernel

end Sys2Proof.Machine

namespace Sys2Proof.Proofs
open Sys2Proof.Machine

/-- Refutes O41: it has a training end with the lanes that it trained. A port that comes to ACTIVE sends the flits that wait, each of which may
reach the switch point of a width change (R688): from `trainsAtSwitch`, four lanes are trained and lane 0 is left. -/
theorem not_linkStates : ¬ Obligations.LinkStates := by
  unfold Obligations.LinkStates
  rintro ⟨-, htrain, -⟩
  obtain ⟨hstate, hwidth⟩ := trainsAtSwitch_trains
  obtain ⟨-, -, hdone⟩ := htrain trainsAtSwitch 0 15 0 0xE4 0 0
  obtain ⟨u, hu, -, hlanes, -⟩ := hdone (.inl hstate) hwidth
  have h1 := trainsAtSwitch_lanes
  rw [hu] at h1
  exact absurd ((Option.some.inj h1).symm.trans hlanes) (by decide)

end Sys2Proof.Proofs
end

