-- ==== Sys2Proof/Proofs/RemoteAccess.lean ====
section
/-! SUPPORT. Remote accesses, case by case of what a requester asks, of what arrives and of what ends an access, and the PCI Express link; then
the statement on remote access. -/

namespace Sys2Proof.Machine

/-! ## A requester's access begins (R698 to R702) -/

section
variable {s : State} {r : Req} {op a dev d : Nat}

theorem State.rraStart_busy {wr : Nat → Nat → State → State} (h : s.on (LNK_RRA_STAT_BUSY.per r) = true) : s.rraStart wr r op = s.rraRefuse r :=
  if_pos h

/-- What an access does that no other of its requester is in the way of. -/
theorem State.rraStart_free (ha : a = s.get (LNK_RRA_ADDR.per r)) (hdev : dev = s.get (LNK_RRA_DEV.per r)) (hd : d = s.get (LNK_RRA_DATA.per r))
    (h : s.on (LNK_RRA_STAT_BUSY.per r) = false) {u : State} (hu : u = s.rraBegin r op) : s.rraStart State.hostWrite r op =
      if op = 0 ∨ a % 4 ≠ 0 ∨ 0x10000000 ≤ a then u.rraEnd r 4
      else if op = 3 then
        if s.on CMT_STATUS_ROOT = true then
          if s.get CLK_GRP_SIZE = 1 then ((State.hostWrite a d u).put (LNK_RRA_DATA.per r) 1).rraEnd r 0 else (State.hostWrite a d u).sendDown a d
        else if s.portState (s.get CLK_DEPTH_UP) = 4 then u.sendUp a d
        else u.rraEnd r 1
      else if dev = s.get CLK_DEVID then
        if op = 1 then ((u.readEffect .host a).put (LNK_RRA_DATA.per r) (u.regRead .host a)).rraEnd r 0
        else (State.hostWrite a d u).rraEnd r (if rscRange a = true then 3 else 0)
      else (s.rraPort dev).elim (u.rraEnd r 1) fun p => u.sendFlit p (.remote p op dev a d) := by
  subst ha hdev hd hu
  unfold State.rraStart
  simp only [h, Bool.false_eq_true, if_false, Bool.or_eq_true, decide_eq_true_eq, or_assoc, State.rraLocal]
  split
  · rfl
  · split
    · rfl
    · split
      · split <;> rfl
      · cases s.rraPort (s.get (LNK_RRA_DEV.per r)) <;> rfl

section
variable (ha : a = s.get (LNK_RRA_ADDR.per r)) (hdev : dev = s.get (LNK_RRA_DEV.per r)) (hd : d = s.get (LNK_RRA_DATA.per r))
  (h : s.on (LNK_RRA_STAT_BUSY.per r) = false) {u : State} (hu : u = s.rraBegin r op)
include ha hdev hd h hu

theorem State.rraStart_badArgument (hb : op = 0 ∨ a % 4 ≠ 0 ∨ 0x10000000 ≤ a) : s.rraStart State.hostWrite r op = u.rraEnd r 4 := by
  rw [State.rraStart_free ha hdev hd h hu, if_pos hb]

section
variable (h4 : a % 4 = 0) (hlt : a < 0x10000000)
include h4 hlt

theorem State.rraStart_readHere (ho : op = 1) (hl : dev = s.get CLK_DEVID) : s.rraStart State.hostWrite r op =
    ((u.readEffect .host a).put (LNK_RRA_DATA.per r) (u.regRead .host a)).rraEnd r 0 := by
  rw [State.rraStart_free ha hdev hd h hu, if_neg (by omega), if_neg (by omega), if_pos hl, if_pos ho]

theorem State.rraStart_writeHere (ho : op = 2) (hl : dev = s.get CLK_DEVID) : s.rraStart State.hostWrite r op =
    (State.hostWrite a d u).rraEnd r (if rscRange a = true then 3 else 0) := by
  rw [State.rraStart_free ha hdev hd h hu, if_neg (by omega), if_neg (by omega), if_pos hl, if_neg (by omega)]

theorem State.rraStart_away (ho : op = 1 ∨ op = 2) (hl : dev ≠ s.get CLK_DEVID) : s.rraStart State.hostWrite r op =
    (s.rraPort dev).elim (u.rraEnd r 1) fun p => u.sendFlit p (.remote p op dev a d) := by
  rw [State.rraStart_free ha hdev hd h hu, if_neg (by omega), if_neg (by omega), if_neg hl]

theorem State.rraStart_bcastUp (ho : op = 3) (hr : s.on CMT_STATUS_ROOT = false) : s.rraStart State.hostWrite r op =
    if s.portState (s.get CLK_DEPTH_UP) = 4 then u.sendUp a d else u.rraEnd r 1 := by
  rw [State.rraStart_free ha hdev hd h hu, if_neg (by omega), if_pos ho, if_neg (by simp [hr])]

theorem State.rraStart_bcastRoot (ho : op = 3) (hr : s.on CMT_STATUS_ROOT = true) : s.rraStart State.hostWrite r op =
    if s.get CLK_GRP_SIZE = 1 then ((State.hostWrite a d u).put (LNK_RRA_DATA.per r) 1).rraEnd r 0 else (State.hostWrite a d u).sendDown a d := by
  rw [State.rraStart_free ha hdev hd h hu, if_neg (by omega), if_pos ho, if_pos hr]

end
end

theorem State.rraCmd_of_reaches (h : s.reaches r 0x58002C = true) (op : Nat) : s.rraCmd r op = .next (s.rraStart State.hostWrite r op) :=
  State.reachReg_of_reaches _ h

/-! ## The end of an access (R701, R702) -/

theorem State.rraEnd_ends {x : Nat} (hx : x < 8) : (s.rraEnd r x).on (LNK_RRA_STAT_BUSY.per r) = false ∧
    (s.rraEnd r x).get (LNK_RRA_STAT_RESULT.per r) = x ∧ (s.rraEnd r x).rraOp r = 0 := by
  have hget (f : Field) : (s.rraEnd r x).get f = ((s.put (LNK_RRA_STAT_BUSY.per r) 0).put (LNK_RRA_STAT_RESULT.per r) x).get f := rfl
  refine ⟨?_, ?_, ?_⟩
  · rw [State.on_false, hget, State.get_put_ne _ _ (by simp only [Field.id, Field.per, LNK_RRA_STAT_BUSY, LNK_RRA_STAT_RESULT]; omega),
      State.get_put_same, Nat.zero_mod]
  · rw [hget, State.get_put_same]
    exact Nat.mod_eq_of_lt (hx.trans_le (by norm_num [Field.per, LNK_RRA_STAT_RESULT]))
  · have hn : ((s.lnk.rra.filter fun e => e.1 != r.idx).find? fun e => e.1 == r.idx) = none := by simp
    exact congrArg (fun o => Option.elim o 0 Prod.snd) hn

section
variable {f : Bool} {v : BitVec 32} {n : BitVec 14}

theorem execRraResponse_discarded (h : s.on (LNK_RRA_STAT_BUSY.per r) = false ∨ s.dark 0x580000 = true) : execRraResponse r f v n s = .next s := by
  rcases h with h | h <;> simp [execRraResponse, h]

theorem execRraTimeout_discarded (h : s.on (LNK_RRA_STAT_BUSY.per r) = false ∨ s.dark 0x580000 = true) : execRraTimeout r n s = .next s := by
  rcases h with h | h <;> simp [execRraTimeout, h]

section
variable (hb : s.on (LNK_RRA_STAT_BUSY.per r) = true) (hd : s.dark 0x580000 = false)
include hb hd

theorem execRraResponse_read (h : s.rraOp r = 1) : execRraResponse r f v n s =
    .next ((s.put (LNK_RRA_DATA.per r) v.toNat).rraEnd r (if f = true then 3 else 0)) := by
  simp [execRraResponse, hb, hd, h]

theorem execRraResponse_write (h1 : s.rraOp r ≠ 1) (h3 : s.rraOp r ≠ 3) :
    execRraResponse r f v n s = .next (s.rraEnd r (if f = true then 3 else 0)) := by
  simp [execRraResponse, hb, hd, h1, h3]

theorem execRraResponse_bcast (h : s.rraOp r = 3) : execRraResponse r f v n s =
    .next ((s.put (LNK_RRA_DATA.per r) v.toNat).rraEnd r (if v.toNat = n.toNat then 0 else 2)) := by
  simp [execRraResponse, hb, hd, h]

theorem execRraTimeout_bcast (h : s.rraOp r = 3) : execRraTimeout r n s = .next ((s.put (LNK_RRA_DATA.per r) n.toNat).rraEnd r 2) := by
  simp [execRraTimeout, hb, hd, h]

theorem execRraTimeout_ends (h : s.rraOp r ≠ 3) : execRraTimeout r n s = .next (s.rraEnd r 2) := by
  simp [execRraTimeout, hb, hd, h]

end
end
end

/-! ## An access that arrives (R700, R702, R752, R776) -/

section
variable {s : State} {p op : Fin 4} {a d : BitVec 32}

theorem execRraServe_dark (h : op.val = 0 ∨ s.dark 0x580000 = true) : execRraServe p op a d s = .next s := by
  rcases h with h | h <;> simp [execRraServe, h]

section
variable (hd : s.dark 0x580000 = false)
include hd

theorem execRraServe_up (h : op.val = 3) (hr : s.on CMT_STATUS_ROOT = false) (hu : s.get CLK_DEPTH_UP ≠ p.val) :
    execRraServe p op a d s = .next (s.sendUp a.toNat d.toNat) := by
  simp [execRraServe, hd, h, hr, hu]

variable {u : State} {res v : Nat} (hl : (s.inc LNK_NRRA).rraLocal State.hostWrite op.val a.toNat d.toNat = (u, res, v))
include hl

theorem execRraServe_serves (h : op.val = 1 ∨ op.val = 2) :
    execRraServe p op a d s = .next (u.sendFlit p.val (.response p.val (s.get CLK_DEVID) res v)) := by
  rcases h with h | h <;> rw [h] at hl <;> simp [execRraServe, hd, h, hl]

theorem execRraServe_down (h : op.val = 3) (hr : s.on CMT_STATUS_ROOT = true ∨ s.get CLK_DEPTH_UP = p.val) :
    execRraServe p op a d s = .next ((u.sendDown a.toNat d.toNat).sendFlit p.val (.response p.val (s.get CLK_DEVID) res v)) := by
  rw [h] at hl
  rcases hr with hr | hr <;> simp [execRraServe, hd, h, hr, hl]

end
end

/-! ## The PCI Express link (R704, R705, R715, R768, R776) -/

section
variable {s : State}

theorem execPcieDown_quiet (h : s.on LNK_PCIE_STATUS_UP = false ∨ s.lnk.d3hot = true) : execPcieDown s = .next (s.put LNK_PCIE_STATUS_UP 0) := by
  rcases h with h | h <;> simp [execPcieDown, h]

/-- The link is down in D0: what was bound for the host is gone, and the cause stands. -/
def State.pcieLost (s : State) : State :=
  { ((s.put LNK_PCIE_STATUS_UP 0).setCond srcPcieDown true).inc LNK_PCIE_NDOWN with hostOut := [] }

theorem execPcieDown_raises (h : s.on LNK_PCIE_STATUS_UP = true) (hd : s.lnk.d3hot = false) :
    execPcieDown s = .next (s.pcieLost.raise srcPcieDown 0 0) := by
  simp [execPcieDown, h, hd, State.pcieLost, State.event_eq]

theorem State.get_pcieLost (f : Field) : s.pcieLost.get f = ((s.put LNK_PCIE_STATUS_UP 0).inc LNK_PCIE_NDOWN).get f := rfl

theorem State.pcieLost_conds : srcPcieDown ∈ s.pcieLost.fcl.conds := mem_insertNat.mpr (.inl rfl)

theorem execPcieDown_completes (h : s.on LNK_PCIE_STATUS_UP = true) (hd : s.lnk.d3hot = false) : Completes (execPcieDown s) fun t => t.hostOut = [] ∧
    t.get LNK_PCIE_STATUS_UP = 0 ∧ srcPcieDown ∈ t.fcl.conds ∧ t.get LNK_PCIE_NDOWN = (s.get LNK_PCIE_NDOWN + 1) % 2 ^ LNK_PCIE_NDOWN.width ∧
    (∃ r, t.raised = s.raised ++ [r] ∧ r.src = srcPcieDown) ∧ s.regsBut t [LNK_PCIE_STATUS_UP, LNK_PCIE_NDOWN] ∧ t.que = s.que ∧ t.mem = s.mem := by
  refine completes_of_eq (execPcieDown_raises h hd) ⟨rfl, ?_, s.pcieLost_conds, ?_, ⟨_, State.raise_raised _ _ _ _, rfl⟩, fun f hf => ?_, rfl, rfl⟩
  · rw [State.get_raise, State.get_pcieLost, State.get_inc_ne _ (by decide), State.get_put_same, Nat.zero_mod]
  · rw [State.get_raise, State.get_pcieLost, State.get_inc_same, State.get_put_ne _ _ (by decide)]
  · rw [State.get_raise, State.get_pcieLost, State.get_inc_ne _ (hf _ (by simp)), State.get_put_ne _ _ (hf _ (by simp))]

/-- A link that is up shows its settings. -/
def State.pcieShown (s : State) (f r : Bool) (g w p : Nat) : State :=
  ((((((s.put LNK_PCIE_STATUS_UP 1).flag LNK_PCIE_STATUS_FLIT f).flag LNK_PCIE_STATUS_REVERSED r).put LNK_PCIE_STATUS_RATE g).put
    LNK_PCIE_STATUS_WIDTH w).put LNK_PCIE_STATUS_POL p).put LNK_PCIE_STATUS_LPWR 0

/-- The link is up: the cause that it was down is gone, and the device is in D0. -/
def State.pcieUp (s : State) (f r : Bool) (g w p : Nat) : State :=
  { (s.pcieShown f r g w p).setCond srcPcieDown false with lnk := { (s.pcieShown f r g w p).lnk with d3hot := false } }

theorem execPcieLinkUp_eq (f r : Bool) (g : Fin 8) (w : Fin 16) (p : BitVec 8) :
    execPcieLinkUp f r g w p s = .next (s.pcieUp f r g.val w.val p.toNat) := rfl

theorem State.get_pcieUp (f r : Bool) (g w p : Nat) (x : Field) : (s.pcieUp f r g w p).get x = (s.pcieShown f r g w p).get x := rfl

theorem b2n_mod_two (b : Bool) : b2n b % 2 ^ 1 = b2n b := by cases b <;> rfl

theorem execPcieLinkUp_completes (f r : Bool) (g : Fin 8) (w : Fin 16) (p : BitVec 8) : Completes (execPcieLinkUp f r g w p s) fun t =>
    t.get LNK_PCIE_STATUS_UP = 1 ∧ t.get LNK_PCIE_STATUS_RATE = g.val ∧ t.get LNK_PCIE_STATUS_WIDTH = w.val ∧ t.get LNK_PCIE_STATUS_FLIT = b2n f ∧
    t.get LNK_PCIE_STATUS_REVERSED = b2n r ∧ t.get LNK_PCIE_STATUS_POL = p.toNat ∧ srcPcieDown ∉ t.fcl.conds ∧ t.hostOut = s.hostOut ∧
    t.lnk.d3hot = false ∧ t.mem = s.mem := by
  refine completes_of_eq (execPcieLinkUp_eq f r g w p) ⟨?_, ?_, ?_, ?_, ?_, ?_, ?_, rfl, rfl, rfl⟩
  · rw [State.get_pcieUp]
    simp (disch := decide) only [State.pcieShown, State.flag_eq, State.get_put_ne, State.get_put_same]
    rfl
  · rw [State.get_pcieUp]
    simp (disch := decide) only [State.pcieShown, State.get_put_ne, State.get_put_same]
    exact Nat.mod_eq_of_lt g.isLt
  · rw [State.get_pcieUp]
    simp (disch := decide) only [State.pcieShown, State.get_put_ne, State.get_put_same]
    exact Nat.mod_eq_of_lt w.isLt
  · rw [State.get_pcieUp]
    simp (disch := decide) only [State.pcieShown, State.flag_eq, State.get_put_ne, State.get_put_same]
    exact b2n_mod_two f
  · rw [State.get_pcieUp]
    simp (disch := decide) only [State.pcieShown, State.flag_eq, State.get_put_ne, State.get_put_same]
    exact b2n_mod_two r
  · rw [State.get_pcieUp]
    simp (disch := decide) only [State.pcieShown, State.get_put_ne, State.get_put_same]
    exact Nat.mod_eq_of_lt p.isLt
  · simp [State.pcieUp, State.setCond]

theorem execPcieL12Entry_held (h : s.l1Held = true) : execPcieL12Entry false s = .next s := by
  simp [execPcieL12Entry, h]

theorem execPcieL12Entry_enters {d : Bool} {u : State} (hu : u = { s.put LNK_PCIE_STATUS_LPWR 2 with lnk := { s.lnk with d3hot := d } })
    (h : d = true ∨ s.l1Held = false) : execPcieL12Entry d s =
      .next (if s.get PMG_STATUS_STATE = 1 then u.put PMG_DOM_ON0 (clrBitN (s.get PMG_DOM_ON0) 21) else u) := by
  subst hu
  rcases h with h | h <;> simp [execPcieL12Entry, h]

end

end Sys2Proof.Machine

namespace Sys2Proof.Proofs
open Sys2Proof.Machine

/-- Settles O43: an access of a requester by what it asks and where it goes, then each command in each of its cases. -/
theorem remoteAccess : Obligations.RemoteAccess := by
  unfold Obligations.RemoteAccess
  refine ⟨fun s r h => ⟨State.rraCmd_of_reaches h 1, State.rraCmd_of_reaches h 2, State.rraCmd_of_reaches h 3⟩,
    fun s r op a dev d ha hdev hd => ⟨State.rraStart_busy, fun h u hu => ⟨State.rraStart_badArgument ha hdev hd h hu, fun h4 hlt => ?starts⟩⟩,
    fun s r x => State.rraEnd_ends, fun s p op a d => ⟨execRraServe_dark, fun hd => ?serves⟩,
    fun s r f d n => ⟨fun h => ⟨execRraResponse_discarded h, execRraTimeout_discarded h⟩, fun hb hd => ?ends⟩,
    fun s => ⟨execPcieDown_quiet, execPcieDown_completes⟩, fun s => execPcieLinkUp_completes, fun s d u hu => ?l12⟩
  case starts =>
    refine ⟨State.rraStart_readHere ha hdev hd h hu h4 hlt, State.rraStart_writeHere ha hdev hd h hu h4 hlt, fun ho hl => ?_, fun ho hr => ?_,
      fun ho hr v hv => ?_⟩
    · rw [State.rraStart_away ha hdev hd h hu h4 hlt ho hl]
      exact ⟨fun hp => by rw [hp, Option.elim_none], fun p hp => by rw [hp, Option.elim_some]⟩
    · rw [State.rraStart_bcastUp ha hdev hd h hu h4 hlt ho hr]
      exact ⟨fun hp => if_pos hp, fun hp => if_neg hp⟩
    · subst hv
      rw [State.rraStart_bcastRoot ha hdev hd h hu h4 hlt ho hr]
      exact ⟨fun hp => if_pos hp, fun hp => if_neg hp⟩
  case serves =>
    exact ⟨execRraServe_up hd, fun u res v hl => ⟨execRraServe_serves hd hl, execRraServe_down hd hl⟩⟩
  case ends =>
    exact ⟨execRraResponse_read hb hd, execRraResponse_write hb hd, fun h => ⟨execRraResponse_bcast hb hd h, execRraTimeout_bcast hb hd h⟩,
      execRraTimeout_ends hb hd⟩
  case l12 =>
    refine ⟨?_, execPcieL12Entry_enters hu, rfl⟩
    rintro rfl
    exact execPcieL12Entry_held

end Sys2Proof.Proofs
end

