-- ==== Sys2Proof/Proofs/WallTime.lean ====
section
/-! SUPPORT. Wall time: what passes at a tick, what sets and adjusts it, its messages and the stamps of trigger edges; then the statement on
wall time. -/

namespace Sys2Proof.Machine

/-! ## Ticks (R707, R709) -/

section
variable {t : TimeState} {c : Bool} {k : Nat}

theorem TimeState.pass_between (h : incBetween c 1 t.rc (t.rc + k) = 0) : t.pass c k = { t with rc := t.rc + k } := if_pos h

/-- The wall time that a tick starts from, less what the tick adds where it is a load. -/
def TimeState.tickFrom (t : TimeState) : Int :=
  match t.load with
  | some v => (v : Int) - t.inc
  | none => t.wall

theorem TimeState.pass_tick (h : incBetween c 1 t.rc (t.rc + k) ≠ 0) : t.pass c k = { t with
    rc := t.rc + k
    wall := ((t.tickFrom + (incBetween c t.inc t.rc (t.rc + k) : Nat) + t.adj.getD 0) % (wallWrap : Int)).toNat
    adj := none
    load := none } := by
  unfold TimeState.pass TimeState.tickFrom
  simp only [if_neg h]
  cases t.load with
  | none => rfl
  | some v => simp only [sub_add_eq_add_sub]

end

/-! ## Registers (R708 to R710) -/

section
variable {s : State}

theorem effWtmSet_refused (h : 1000000000 ≤ s.get WTM_SET_NS) : effWtmSet s = .next (s.put WTM_STATUS_SETREF 1) := if_pos h

theorem effWtmSet_loads (h : s.get WTM_SET_NS < 1000000000) : effWtmSet s = .next { s with time := { s.time with
    load := some ((s.get WTM_SET_SEC_LO + 2 ^ 32 * s.get WTM_SET_SEC_HI) * wallSecond + s.get WTM_SET_NS * 2 ^ 32) } } :=
  if_neg (Nat.not_le.mpr h)

variable {d : BitVec 32} {inc : Nat} (hinc : inc = s.get WTM_INC_LO + 2 ^ 32 * (d.toNat % 2 ^ 8))
include hinc

theorem effWtmIncWrite_refused (h : inc * 1000 < 3996 * 2 ^ 32 ∨ 4004 * 2 ^ 32 < inc * 1000) :
    effWtmIncWrite d s = .next (s.put WTM_STATUS_INCREF 1) := by
  subst hinc
  refine if_neg ?_
  simp only [incOk, Bool.and_eq_true, decide_eq_true_eq]
  omega

theorem effWtmIncWrite_takes (hlo : 3996 * 2 ^ 32 ≤ inc * 1000) (hhi : inc * 1000 ≤ 4004 * 2 ^ 32) :
    effWtmIncWrite d s = .next { s.put WTM_INC_HI d.toNat with time := { s.time with inc := inc } } := by
  subst hinc
  refine if_pos ?_
  simp only [incOk, Bool.and_eq_true, decide_eq_true_eq]
  exact ⟨hlo, hhi⟩

end

/-! ## Time messages (R712, R713) -/

section
variable {s : State}

theorem execTimeSend_none (h : s.on CMT_STATUS_ROOT = false ∨ s.on WTM_CTRL_ROOTSRC = false) : execTimeSend s = .next s := by
  rcases h with h | h <;> simp [execTimeSend, h]

theorem execTimeSend_sends (hr : s.on CMT_STATUS_ROOT = true) (hs : s.on WTM_CTRL_ROOTSRC = true) {u : State}
    (hu : u = { s with time := { s.time with seq := (s.time.seq + 1) % 2 ^ 16 } }) : execTimeSend s =
      .next (if s.on CLK_DEPTH_DOWN = true then u.send (.time (wallSec s.time.wall) (wallNs s.time.wall) (wallFrac s.time.wall)
        ((s.time.seq + 1) % 2 ^ 16) 0) else u) := by
  subst hu
  simp [execTimeSend, hr, hs]

/-- A member takes its offset from the root, and is synced. -/
def State.timeTaken (s : State) (ofs : Int) (q : Nat) : State :=
  (((s.put64 WTM_OFS_LO WTM_OFS_HI (codeOf 64 ofs)).put WTM_OFS_SEQ q).inc WTM_NSYNC).put WTM_STATUS_SYNCED 1

variable {q : BitVec 16} {sec : BitVec 48} {ns : BitVec 32} {fr : BitVec 16} {co : BitVec 48} {re : BitVec 16}

theorem execTimeReceive_root (h : s.on CMT_STATUS_ROOT = true) : execTimeReceive q sec ns fr co re s = .next s := if_pos h

theorem execTimeReceive_member (h : s.on CMT_STATUS_ROOT = false) {u : State} (hu : u = (s.timeTaken
      ((((sec.toNat * 1000000000 + ns.toNat) * 2 ^ 16 + fr.toNat : Nat) : Int) + (co.toInt + 640 * 2 ^ 16) - ((s.time.wall / 2 ^ 16 : Nat) : Int))
      q.toNat).event srcWtmSync) : execTimeReceive q sec ns fr co re s =
    .next (if s.on CLK_DEPTH_DOWN = true then
      u.send (.time sec.toNat ns.toNat fr.toNat q.toNat (co.toInt + 640 * 2 ^ 16 + 10 * 2 ^ 16 * re.toNat)) else u) := by
  subst hu
  exact if_neg (by simp [h])

theorem codeOf_lt (w : Nat) (i : Int) : codeOf w i < 2 ^ w := by
  have hpos : (0 : Int) < 2 ^ w := by positivity
  have hlt := Int.emod_lt_of_pos i hpos
  have hnn := Int.emod_nonneg i hpos.ne'
  zify [codeOf]
  rwa [Int.toNat_of_nonneg hnn]

section
variable (ofs : Int) (n : Nat)

theorem State.get_synced_timeTaken : (s.timeTaken ofs n).get WTM_STATUS_SYNCED = 1 := State.get_put_same _ _ _

theorem State.get_nsync_timeTaken : (s.timeTaken ofs n).get WTM_NSYNC = (s.get WTM_NSYNC + 1) % 2 ^ WTM_NSYNC.width := by
  rw [State.timeTaken, State.get_put_ne _ _ (by decide), State.get_inc_same, State.get_put_ne _ _ (by decide),
    State.get_put64_ne _ _ (by decide) (by decide)]

theorem State.get_seq_timeTaken (hn : n < 2 ^ 16) : (s.timeTaken ofs n).get WTM_OFS_SEQ = n := by
  rw [State.timeTaken, State.get_put_ne _ _ (by decide), State.get_inc_ne _ (by decide), State.get_put_same]
  exact Nat.mod_eq_of_lt hn

theorem State.get64_ofs_timeTaken : (s.timeTaken ofs n).get64 WTM_OFS_LO WTM_OFS_HI = codeOf 64 ofs := by
  have hget {f : Field} (h1 : f.id ≠ WTM_STATUS_SYNCED.id) (h2 : f.id ≠ WTM_NSYNC.id) (h3 : f.id ≠ WTM_OFS_SEQ.id) :
      (s.timeTaken ofs n).get f = (s.put64 WTM_OFS_LO WTM_OFS_HI (codeOf 64 ofs)).get f := by
    rw [State.timeTaken, State.get_put_ne _ _ h1, State.get_inc_ne _ h2, State.get_put_ne _ _ h3]
  rw [State.get64, hget (by decide) (by decide) (by decide), hget (by decide) (by decide) (by decide), ← State.get64,
    State.get64_put64 _ _ rfl rfl rfl (by decide)]
  exact Nat.mod_eq_of_lt (codeOf_lt 64 ofs)

theorem State.regsBut_timeTaken : s.regsBut (s.timeTaken ofs n) [WTM_OFS_LO, WTM_OFS_HI, WTM_OFS_SEQ, WTM_NSYNC, WTM_STATUS_SYNCED] := by
  intro f hf
  rw [State.timeTaken, State.get_put_ne _ _ (hf _ (by simp)), State.get_inc_ne _ (hf _ (by simp)), State.get_put_ne _ _ (hf _ (by simp)),
    State.get_put64_ne _ _ (hf _ (by simp)) (hf _ (by simp))]

theorem State.timeTaken_time : (s.timeTaken ofs n).time = s.time := rfl

theorem State.timeTaken_tx : (s.timeTaken ofs n).tx = s.tx := rfl

/-- What a member shows in any state that holds the cells of its taken offset. -/
theorem timeTaken_shown {t : State} (hcells : t.cells = (s.timeTaken ofs n).cells) (hn : n < 2 ^ 16) :
    t.get WTM_STATUS_SYNCED = 1 ∧ t.get WTM_OFS_SEQ = n ∧ t.get64 WTM_OFS_LO WTM_OFS_HI = codeOf 64 ofs ∧
      t.get WTM_NSYNC = (s.get WTM_NSYNC + 1) % 2 ^ WTM_NSYNC.width ∧
      s.regsBut t [WTM_OFS_LO, WTM_OFS_HI, WTM_OFS_SEQ, WTM_NSYNC, WTM_STATUS_SYNCED] := by
  have hget (f : Field) : t.get f = (s.timeTaken ofs n).get f := State.get_congr f hcells
  refine ⟨(hget _).trans (State.get_synced_timeTaken _ _), (hget _).trans (State.get_seq_timeTaken _ _ hn), ?_,
    (hget _).trans (State.get_nsync_timeTaken _ _), fun f hf => (hget f).trans (State.regsBut_timeTaken _ _ f hf)⟩
  rw [State.get64, hget, hget]
  exact State.get64_ofs_timeTaken _ _

theorem State.timeTaken_raised : ((s.timeTaken ofs n).event srcWtmSync).raised =
    s.raised ++ [⟨srcWtmSync, 0, 0, s.time.rc, s.stamp, s.time.wall, s.on WTM_STATUS_COARSE⟩] := by
  have hon {f : Field} (h : ∀ g ∈ [WTM_OFS_LO, WTM_OFS_HI, WTM_OFS_SEQ, WTM_NSYNC, WTM_STATUS_SYNCED], f.id ≠ g.id) :
      (s.timeTaken ofs n).on f = s.on f := by
    rw [State.on, State.regsBut_timeTaken ofs n f h, State.on]
  have hstamp : (s.timeTaken ofs n).stamp = s.stamp := by
    unfold State.stamp State.gateOpen State.insync
    rw [hon (by decide), hon (by decide)]
    rfl
  rw [State.event_eq, State.raise_raised, hstamp, hon (by decide)]
  rfl

end

end

/-! ## Stamps of trigger edges (R714) -/

section
variable {s : State} {i : Fin 8} {r : Bool} {k : Fin 160}

theorem execExtTrigStamp_ignored (h : bitAt (s.get (WTM_ET_CFG_EDGE i.val)) (if r = true then 0 else 1) = false ∨
    ∃ e, (s.time.stamps.find? fun e => e.1 == i.val) = some e ∧ 160 * s.time.rc + k.val ≤ e.2 + 64) : execExtTrigStamp i r k s = .next s := by
  unfold execExtTrigStamp
  rcases h with h | ⟨e, he, hle⟩
  · simp [h]
  · simp [he, hle]

theorem State.enq_time (q : Nat) (bytes : List (BitVec 8)) : (s.enq q bytes).time = s.time := by
  simp only [State.enq, State.enqueue]
  split
  · rfl
  · split <;> rfl

/-- Input i is stamped with wall time w and GVC g, at the instant n, in sixteenths of a nanosecond. -/
def State.stamped (s : State) (i : Nat) (rising : Bool) (n w g : Nat) : State :=
  let s1 : State := { s with time := { s.time with stamps := Assoc.insert s.time.stamps i n } }
  let s2 := ((s1.put (WTM_ET_NS i) (wallNs w)).put (WTM_ET_SEC_LO i) (wallSec w)).put64 (WTM_ET_GVC_LO i) (WTM_ET_GVC_HI i) g
  ((((s2.put (WTM_ET_SEC_HI_FRAC16 i) (bits (wallFrac w) 12 4)).flag (WTM_ET_SEC_HI_EDGE i) rising).flag
    (WTM_ET_SEC_HI_COARSE i) (s.on WTM_STATUS_COARSE)).put (WTM_ET_SEC_HI_SEC i) (wallSec w / 2 ^ 32)).inc (WTM_ET_NSTAMP i)

/-- The item of the stamp of input i with wall time w and GVC g, from the state that holds the stamp. -/
def State.stampItem (s : State) (i : Nat) (rising coarse : Bool) (w g devid : Nat) : List (BitVec 8) :=
  wordBytes [wallNs w, wallSec w % 2 ^ 32, bits (wallFrac w) 12 4 * 2 ^ 28 + b2n rising * 2 ^ 27 + b2n coarse * 2 ^ 26 + i * 2 ^ 23 +
    wallSec w / 2 ^ 32 % 2 ^ 16, g % 2 ^ 32, g / 2 ^ 32, s.get (WTM_ET_NSTAMP i), devid, 0]

theorem execExtTrigStamp_stamps (h : bitAt (s.get (WTM_ET_CFG_EDGE i.val)) (if r = true then 0 else 1) = true)
    (hd : ∀ e, (s.time.stamps.find? fun e => e.1 == i.val) = some e → e.2 + 64 < 160 * s.time.rc + k.val) : ∃ w t q bytes,
    (s.on WTM_STATUS_COARSE = true → w = s.time.wall + k.val * 2 ^ 28) ∧ t = s.stamped i.val r (160 * s.time.rc + k.val) w (s.stamp.getD (2 ^ 64 - 1)) ∧
      execExtTrigStamp i r k s = .next (if s.on (WTM_ET_QUEUE_EN i.val) = true then t.enq q bytes else t) := by
  obtain ⟨w, hw⟩ : ∃ w, w = s.time.wall + (if s.on WTM_STATUS_COARSE = true then 0 else s.time.rc % 2 * (s.time.inc / 2)) + k.val * 2 ^ 28 :=
    ⟨_, rfl⟩
  refine ⟨w, s.stamped i.val r (160 * s.time.rc + k.val) w (s.stamp.getD (2 ^ 64 - 1)), s.get (WTM_ET_QUEUE_Q i.val),
    (s.stamped i.val r (160 * s.time.rc + k.val) w (s.stamp.getD (2 ^ 64 - 1))).stampItem i.val r (s.on WTM_STATUS_COARSE) w
      (s.stamp.getD (2 ^ 64 - 1)) (s.get CLK_DEVID), fun hc => by rw [hw, if_pos hc, Nat.add_zero], rfl, ?_⟩
  subst hw
  unfold execExtTrigStamp
  rw [if_neg]
  · simp only [State.stamped, State.stampItem]
  · cases hf : s.time.stamps.find? fun e => e.1 == i.val with
    | none => simp [h]
    | some e => simp [h, hd e hf]

section
variable {j n w g : Nat}

theorem State.stamped_stamps : (j, n) ∈ (s.stamped j r n w g).time.stamps := by
  have hmem : ∀ l : List (Nat × Nat), (j, n) ∈ Assoc.insert l j n := by
    intro l
    induction l with
    | nil => simp [Assoc.insert]
    | cons e l ih =>
      simp only [Assoc.insert]
      split
      · simp
      · split
        · simp
        · exact List.mem_cons_of_mem _ ih
  exact hmem _

theorem State.get_nstamp_stamped : (s.stamped j r n w g).get (WTM_ET_NSTAMP j) = (s.get (WTM_ET_NSTAMP j) + 1) % 2 ^ (WTM_ET_NSTAMP j).width := by
  unfold State.stamped
  rw [State.get_inc_same]
  simp (disch := (simp only [Field.id, WTM_ET_NSTAMP, WTM_ET_NS, WTM_ET_SEC_LO, WTM_ET_GVC_LO, WTM_ET_GVC_HI, WTM_ET_SEC_HI_FRAC16,
    WTM_ET_SEC_HI_EDGE, WTM_ET_SEC_HI_COARSE, WTM_ET_SEC_HI_SEC]; omega)) only [State.flag_eq, State.put64, State.get_put_ne]
  rfl

theorem State.get64_gvc_stamped : (s.stamped j r n w g).get64 (WTM_ET_GVC_LO j) (WTM_ET_GVC_HI j) = g % 2 ^ 64 := by
  rw [← State.get64_put64 (s.put WTM_OFS_LO 0) (lo := WTM_ET_GVC_LO j) (hi := WTM_ET_GVC_HI j) g rfl rfl rfl
    (by simp only [Field.id, WTM_ET_GVC_LO, WTM_ET_GVC_HI]; omega)]
  unfold State.stamped State.get64
  simp (disch := (simp only [Field.id, WTM_ET_NSTAMP, WTM_ET_GVC_LO, WTM_ET_GVC_HI, WTM_ET_SEC_HI_FRAC16,
    WTM_ET_SEC_HI_EDGE, WTM_ET_SEC_HI_COARSE, WTM_ET_SEC_HI_SEC]; omega)) only [State.flag_eq, State.inc_eq, State.put64, State.get_put_ne,
    State.get_put_same]

theorem State.get_ns_stamped : (s.stamped j r n w g).get (WTM_ET_NS j) = wallNs w % 2 ^ 32 := by
  unfold State.stamped
  simp (disch := (simp only [Field.id, WTM_ET_NSTAMP, WTM_ET_NS, WTM_ET_SEC_LO, WTM_ET_GVC_LO, WTM_ET_GVC_HI, WTM_ET_SEC_HI_FRAC16,
    WTM_ET_SEC_HI_EDGE, WTM_ET_SEC_HI_COARSE, WTM_ET_SEC_HI_SEC]; omega)) only [State.flag_eq, State.inc_eq, State.put64, State.get_put_ne,
    State.get_put_same]
  rfl

theorem State.get_edge_stamped : (s.stamped j r n w g).get (WTM_ET_SEC_HI_EDGE j) = b2n r := by
  unfold State.stamped
  simp (disch := (simp only [Field.id, WTM_ET_NSTAMP, WTM_ET_SEC_HI_EDGE, WTM_ET_SEC_HI_COARSE, WTM_ET_SEC_HI_SEC]; omega)) only
    [State.flag_eq, State.inc_eq, State.get_put_ne, State.get_put_same]
  cases r <;> rfl

theorem State.get_coarse_stamped (hc : s.on WTM_STATUS_COARSE = true) : (s.stamped j r n w g).get (WTM_ET_SEC_HI_COARSE j) = 1 := by
  unfold State.stamped
  simp (disch := (simp only [Field.id, WTM_ET_NSTAMP, WTM_ET_SEC_HI_COARSE, WTM_ET_SEC_HI_SEC]; omega)) only
    [State.flag_eq, State.inc_eq, State.get_put_ne, State.get_put_same, hc]
  rfl

end

theorem execExtTrigStamp_completes (h : bitAt (s.get (WTM_ET_CFG_EDGE i.val)) (if r = true then 0 else 1) = true)
    (hd : ∀ e, (s.time.stamps.find? fun e => e.1 == i.val) = some e → e.2 + 64 < 160 * s.time.rc + k.val) :
    Completes (execExtTrigStamp i r k s) fun t => t.get (WTM_ET_NSTAMP i.val) = (s.get (WTM_ET_NSTAMP i.val) + 1) % 2 ^ (WTM_ET_NSTAMP i.val).width ∧
      t.get64 (WTM_ET_GVC_LO i.val) (WTM_ET_GVC_HI i.val) = s.stamp.getD (2 ^ 64 - 1) % 2 ^ 64 ∧ t.get (WTM_ET_SEC_HI_EDGE i.val) = b2n r ∧
      (i.val, 160 * s.time.rc + k.val) ∈ t.time.stamps ∧ (s.on WTM_STATUS_COARSE = true →
        t.get (WTM_ET_NS i.val) = wallNs (s.time.wall + k.val * 2 ^ 28) % 2 ^ 32 ∧ t.get (WTM_ET_SEC_HI_COARSE i.val) = 1) ∧
      (s.on (WTM_ET_QUEUE_EN i.val) = false → t.que = s.que ∧ t.mem = s.mem) := by
  obtain ⟨w, t, q, bytes, hw, rfl, ht⟩ := execExtTrigStamp_stamps h hd
  refine completes_of_eq ht ?_
  have hget {f : Field} (hf : f.id ≠ QUE_NDROP.id) (t : State) :
      (if s.on (WTM_ET_QUEUE_EN i.val) = true then t.enq q bytes else t).get f = t.get f := by
    split
    · exact State.get_enq _ _ _ hf
    · rfl
  have htime (t : State) : (if s.on (WTM_ET_QUEUE_EN i.val) = true then t.enq q bytes else t).time = t.time := by
    split
    · exact State.enq_time _ _
    · rfl
  rw [State.get64, htime, hget, hget, hget, hget, hget, hget, ← State.get64]
  · refine ⟨State.get_nstamp_stamped, State.get64_gvc_stamped, State.get_edge_stamped, State.stamped_stamps,
      fun hc => ⟨by rw [State.get_ns_stamped, hw hc], State.get_coarse_stamped hc⟩, fun hq => ?_⟩
    rw [if_neg (by simp [hq])]
    exact ⟨rfl, rfl⟩
  all_goals
    simp only [Field.id, WTM_ET_NSTAMP, WTM_ET_NS, WTM_ET_GVC_LO, WTM_ET_GVC_HI, WTM_ET_SEC_HI_EDGE, WTM_ET_SEC_HI_COARSE, QUE_NDROP]
    omega

end

end Sys2Proof.Machine

namespace Sys2Proof.Proofs
open Sys2Proof.Machine

/-- Settles O44: a tick by whether it loads, then each command in each of its cases. -/
theorem wallTime : Obligations.WallTime := by
  unfold Obligations.WallTime
  refine ⟨fun s hr => ?set, fun s d e hr t u ht hu => ?adj, fun t c k => ⟨TimeState.pass_rc t c k, ?inc, fun h => ?between, fun h => ?tick⟩,
    fun s d inc hr hinc => ?incWrite, fun s r => rfl, fun s => ⟨execTimeSend_none, fun hr hs u => execTimeSend_sends hr hs⟩,
    fun s q sec ns fr co re => ⟨execTimeReceive_root, fun h => ?receive⟩, fun s => rfl,
    fun s i r k => ⟨execExtTrigStamp_ignored, execExtTrigStamp_completes⟩⟩
  case set =>
    rw [exec_wtmSet, execWtmSet, State.reachReg_of_reaches _ hr]
    exact ⟨effWtmSet_refused, effWtmSet_loads⟩
  case adj =>
    subst ht hu
    refine ⟨?_, fun hr' => ?_⟩
    · rw [exec_wtmAdj, execWtmAdj, State.reachReg_of_reaches _ hr]
      rfl
    · rw [exec_wtmAdj, execWtmAdj, State.reachReg_of_reaches _ hr']
      rfl
  case inc =>
    by_cases h : incBetween c 1 t.rc (t.rc + k) = 0
    · rw [TimeState.pass_between h]
    · rw [TimeState.pass_tick h]
  case between =>
    rw [TimeState.pass_between h]
    exact ⟨rfl, rfl, rfl⟩
  case tick =>
    rw [TimeState.pass_tick h]
    exact ⟨rfl, rfl, rfl⟩
  case incWrite =>
    rw [exec_wtmIncWrite, execWtmIncWrite, State.reachReg_of_reaches _ hr]
    exact ⟨effWtmIncWrite_refused hinc, effWtmIncWrite_takes hinc, rfl, rfl⟩
  case receive =>
    refine completes_of_eq ((exec_timeReceive q sec ns fr co re s).trans (execTimeReceive_member h rfl)) ?_
    generalize ((((sec.toNat * 1000000000 + ns.toNat) * 2 ^ 16 + fr.toNat : Nat) : Int) + (co.toInt + 640 * 2 ^ 16) -
      ((s.time.wall / 2 ^ 16 : Nat) : Int)) = ofs
    split
    · obtain ⟨hsynced, hseq, hofs, hn, hregs⟩ := timeTaken_shown (s := s) ofs q.toNat (t := ((s.timeTaken ofs q.toNat).event srcWtmSync).send
        (.time sec.toNat ns.toNat fr.toNat q.toNat (co.toInt + 640 * 2 ^ 16 + 10 * 2 ^ 16 * re.toNat))) rfl q.isLt
      exact ⟨hsynced, hseq, hofs, hn, State.timeTaken_time ofs q.toNat, State.timeTaken_raised ofs q.toNat, congrArg (· ++ _) (State.timeTaken_tx ofs q.toNat), hregs⟩
    · obtain ⟨hsynced, hseq, hofs, hn, hregs⟩ := timeTaken_shown (s := s) ofs q.toNat (t := (s.timeTaken ofs q.toNat).event srcWtmSync) rfl q.isLt
      exact ⟨hsynced, hseq, hofs, hn, State.timeTaken_time ofs q.toNat, State.timeTaken_raised ofs q.toNat, State.timeTaken_tx ofs q.toNat, hregs⟩

end Sys2Proof.Proofs
end

