-- ==== Sys2Proof/Proofs/EventCollector.lean ====
section
/-! SUPPORT. The collector latches the class modulo 4, the width of FCL_FIRST_CLASS; a state may hold a class that does not fit. -/

namespace Sys2Proof.Machine

/-- After a reset, with the class 4 in the two bits of the class of source 1. -/
def classTooWide : State := { State.reset with cells := [((FCL_SRC_CFG_CLASS 1).id, 4)] }

/-- An occurrence of source 1. -/
def raisedOne : Raised := ⟨1, 0, 0, 0, none, 0, false⟩

theorem classTooWide_class : classTooWide.get (FCL_SRC_CFG_CLASS 1) = 4 ∧ classTooWide.on FCL_FIRST_LATCHED = false := by
  decide +kernel

theorem classTooWide_latched : (classTooWide.decideOne raisedOne false).get FCL_FIRST_CLASS = 0 := by
  decide +kernel

end Sys2Proof.Machine

namespace Sys2Proof.Proofs
open Sys2Proof.Machine

/-- Refutes O45: it has the first-source latch hold the class of the occurrence as it stands. The latch has two bits, and the class of a source
is read from a cell: a class of 4 in `classTooWide` is latched as 0. -/
theorem not_eventCollector : ¬ Obligations.EventCollector := by
  unfold Obligations.EventCollector
  rintro ⟨-, -, hdecide, -⟩
  obtain ⟨hclass, hfree⟩ := classTooWide_class
  obtain ⟨-, -, hlatch, -⟩ := hdecide classTooWide raisedOne false 4 4 _ _ (by decide) hclass.symm rfl rfl rfl
  obtain ⟨-, -, h, -⟩ := hlatch (by decide) hfree
  exact absurd (classTooWide_latched.symm.trans h) (by decide)

end Sys2Proof.Proofs
end

