-- ==== Sys2Proof/Proofs/PowerLimits.lean ====
section
/-! SUPPORT. The hottest reading is kept modulo 2^16, the width of PMG_TMAX_TEMP; a state may hold a reading that does not fit. -/

namespace Sys2Proof.Machine

/-- After a reset, with 2^16 in the sixteen bits of the reading of die 0. -/
def readingTooWide : State := { State.reset with cells := [((PMG_TEMP_T 0).id, 2 ^ 16)] }

theorem readingTooWide_shown : readingTooWide.setTmax.get PMG_TMAX_TEMP = 0 ∧ readingTooWide.setTmax.get PMG_TMAX_DIE = 0 ∧
    readingTooWide.setTmax.get (PMG_TEMP_T 0) = 2 ^ 16 := by
  decide +kernel

end Sys2Proof.Machine

namespace Sys2Proof.Proofs
open Sys2Proof.Machine

/-- Refutes O50: it has PMG_TMAX show the reading of the hottest die as it stands. The register has 16 bits, and the reading comes from a cell:
in `readingTooWide` the hottest die reads 2^16, and PMG_TMAX shows 0. -/
theorem not_powerLimits : ¬ Obligations.PowerLimits := by
  unfold Obligations.PowerLimits
  rintro ⟨-, -, -, -, -, -, htherm, -⟩
  obtain ⟨hmax, -⟩ := htherm readingTooWide 0 (by decide)
  obtain ⟨htemp, -⟩ := hmax _ rfl
  obtain ⟨h0, hdie, hreading⟩ := readingTooWide_shown
  rw [hdie, h0, hreading] at htemp
  exact absurd htemp (by decide)

end Sys2Proof.Proofs
end

