-- ==== Sys2Proof/Proofs/LoopBus.lean ====
section
/-! SUPPORT. Registers of a domain that may be off, and the loop-bus ports: ownership, the host's word, and what a transaction carries; then the
statement on the loop bus. -/

namespace Sys2Proof.Machine

section
variable {s : State} {d : Nat} {k : State → State}

theorem State.inDomain_off (h : s.domOn d = false) : s.inDomain d k = s.incSat PMG_NOFFWR := if_neg (by simp [h])

theorem State.inDomain_on (h : s.domOn d = true) : s.inDomain d k = k s := if_pos h

end

/-! ## Ownership and enabling of a port (R523) -/

section
variable {s : State} {r : Req} {p : Fin 4} {d : BitVec 32}

theorem effLbTake_off (h : s.domOn 15 = false) : effLbTake r p s = .next (s.incSat PMG_NOFFWR) := congrArg _ (State.inDomain_off h)

theorem effLbRelease_off (h : s.domOn 15 = false) : effLbRelease r p s = .next (s.incSat PMG_NOFFWR) := congrArg _ (State.inDomain_off h)

theorem effLbEnable_off (h : s.domOn 15 = false) : effLbEnable r p d s = .next (s.incSat PMG_NOFFWR) := congrArg _ (State.inDomain_off h)

theorem effLbTake_free (h : s.domOn 15 = true) (ho : s.get (CLE_LB_STATUS_OWNER p.val) = 0) :
    effLbTake r p s = .next (s.put (CLE_LB_STATUS_OWNER p.val) (cleWho r)) := by
  rw [effLbTake, State.inDomain_on h, if_pos ho]

theorem effLbTake_taken (h : s.domOn 15 = true) (ho : s.get (CLE_LB_STATUS_OWNER p.val) ≠ 0) :
    effLbTake r p s = .next (s.raise srcClaimDenied 0x3C 0) := by
  rw [effLbTake, State.inDomain_on h, if_neg ho]
  rfl

theorem effLbRelease_own (h : s.domOn 15 = true) (ho : s.get (CLE_LB_STATUS_OWNER p.val) = cleWho r) :
    effLbRelease r p s = .next (s.put (CLE_LB_STATUS_OWNER p.val) 0) := by
  rw [effLbRelease, State.inDomain_on h, if_pos ho]

theorem effLbRelease_other (h : s.domOn 15 = true) (ho : s.get (CLE_LB_STATUS_OWNER p.val) ≠ cleWho r) :
    effLbRelease r p s = .next (s.incSat CLE_WREFUSED) := by
  rw [effLbRelease, State.inDomain_on h, if_neg ho]
  rfl

theorem effLbEnable_other (h : s.domOn 15 = true) (ho : s.get (CLE_LB_STATUS_OWNER p.val) ≠ cleWho r) :
    effLbEnable r p d s = .next (s.incSat CLE_WREFUSED) := by
  rw [effLbEnable, State.inDomain_on h, if_pos ho]
  rfl

/-- The length of the schedule as a write of the owner leaves it: it is written while EN is 0, and a change of it is refused while EN is 1. -/
def State.lbLength (s : State) (p d : Nat) : State :=
  if s.on (CLE_LB_CTRL_EN p) = false then s.put (CLE_LB_CTRL_L p) (d % 32)
  else if s.get (CLE_LB_CTRL_L p) ≠ d % 32 then s.incSat CLE_WREFUSED else s

theorem effLbEnable_own (h : s.domOn 15 = true) (ho : s.get (CLE_LB_STATUS_OWNER p.val) = cleWho r) :
    effLbEnable r p d s = .next (if bits d.toNat 5 1 = 1 then (s.lbLength p.val d.toNat).put (CLE_LB_CTRL_EN p.val) 1
      else ((s.lbLength p.val d.toNat).put (CLE_LB_CTRL_EN p.val) 0).put (CLE_LB_STATUS_RUN p.val) 0) := by
  have hlen : (if (!s.on (CLE_LB_CTRL_EN p.val)) = true then s.put (CLE_LB_CTRL_L p.val) (d.toNat % 32)
      else if s.get (CLE_LB_CTRL_L p.val) ≠ d.toNat % 32 then s.cleRefuse else s) = s.lbLength p.val d.toNat := by
    simp only [State.lbLength, Bool.not_eq_true', State.cleRefuse]
  rw [effLbEnable, State.inDomain_on h, if_neg (not_not.mpr ho)]
  simp only [hlen]

theorem effLbHostTxWrite_off (h : s.domOn 15 = false) : effLbHostTxWrite p d s = .next (s.incSat PMG_NOFFWR) := congrArg _ (State.inDomain_off h)

theorem effLbHostTxWrite_on (h : s.domOn 15 = true) : effLbHostTxWrite p d s =
    .next { s.put (CLE_LB_HTX p.val) d.toNat with cle := { s.cle with htx := insertNat p.val s.cle.htx } } := congrArg _ (State.inDomain_on h)

end

/-! ## Transactions (R518 to R527) -/

section
variable {s : State} {p : Fin 4} {rx : BitVec 40}

theorem State.lbCarried_lbCarry (q f : Nat) : (s.lbCarry q f).lbCarried q f = true := by
  simp [State.lbCarried, State.lbCarry]

theorem execLbTransaction_none (h : s.cleRuns = false ∨ s.inSafe = true ∨ s.on (CLE_LB_CTRL_EN p.val) = false ∨ s.lbCarried p.val s.cle.frame = true) :
    execLbTransaction p rx s = .next s := by
  unfold execLbTransaction
  exact if_pos (by simpa [or_assoc] using h)

theorem execLbTransaction_carries (hc : s.cleRuns = true) (hs : s.inSafe = false) (he : s.on (CLE_LB_CTRL_EN p.val) = true)
    (hf : s.lbCarried p.val s.cle.frame = false) : execLbTransaction p rx s =
      if s.on (CLE_LB_STATUS_RUN p.val) = true then .next ((s.lbCarry p.val s.cle.frame).lbTransfer p.val (s.lbEntry p.val) rx.toNat)
      else if s.lbEntry p.val = 0 then
        .next (((s.put (CLE_LB_STATUS_RUN p.val) 1).lbCarry p.val s.cle.frame).lbTransfer p.val (s.lbEntry p.val) rx.toNat)
      else .next s := by
  unfold execLbTransaction
  exact if_neg (by simp [hc, hs, he, hf])

end

section
variable {s : State} {p i rx : Nat}

theorem State.lbTransfer_idle (h : s.get (CLE_LB_SCHED_KIND p i) = 0) : s.lbTransfer p i rx = s := by
  simp [State.lbTransfer, h]

theorem State.lbTransfer_off (h : s.get (CLE_LB_SCHED_KIND p i) = 1 ∨ s.get (CLE_LB_SCHED_KIND p i) = 2)
    (hm : s.get (CLE_LSTATUS_MODE (s.get (CLE_LB_SCHED_LOOP p i))) = 0) : s.lbTransfer p i rx = s := by
  rcases h with h | h <;> simp [State.lbTransfer, h, hm]

/-- A READ of a loop out of OFF keeps the received word with its frame. -/
theorem State.lbTransfer_read (h : s.get (CLE_LB_SCHED_KIND p i) = 1) (hm : s.get (CLE_LSTATUS_MODE (s.get (CLE_LB_SCHED_LOOP p i))) ≠ 0) :
    ((s.lbTransfer p i rx).loop (s.get (CLE_LB_SCHED_LOOP p i))).read = some (rx % 2 ^ s.get (CLE_LB_SCHED_LEN p i), s.cle.frame) ∧
      (s.lbTransfer p i rx).cells = s.cells := by
  simp [State.lbTransfer, h, hm, State.loop, State.setLoop, State.send]

/-- A WRITE of a loop out of OFF that no supply monitor ramps sends the loop's code. -/
theorem State.lbTransfer_write (h : s.get (CLE_LB_SCHED_KIND p i) = 2) (hm : s.get (CLE_LSTATUS_MODE (s.get (CLE_LB_SCHED_LOOP p i))) ≠ 0)
    (hr : s.get (CLE_LB_SCHED_LOOP p i) ∉ s.cle.rampLoops) :
    (32 * p + i, s.get (CLE_CODE (s.get (CLE_LB_SCHED_LOOP p i))) % 2 ^ s.get (CLE_WRFMT_WIDTH (s.get (CLE_LB_SCHED_LOOP p i)))) ∈
        (s.lbTransfer p i rx).cle.codes ∧ (s.lbTransfer p i rx).cells = s.cells := by
  simp [State.lbTransfer, h, hm, hr, State.send]

theorem State.lbTransfer_host_none (h : s.get (CLE_LB_SCHED_KIND p i) = 3) (hx : p ∉ s.cle.htx) : s.lbTransfer p i rx = s := by
  simp [State.lbTransfer, h, hx]

/-- What a HOST entry with a word to send leaves. -/
theorem State.lbTransfer_host (h : s.get (CLE_LB_SCHED_KIND p i) = 3) (hx : p ∈ s.cle.htx) : ∃ m t,
    t = (((s.send m).put (CLE_LB_HRX p) (rx % 2 ^ s.get (CLE_LB_SCHED_LEN p i))).put (CLE_LB_HRXX p)
      (rx % 2 ^ s.get (CLE_LB_SCHED_LEN p i) / 2 ^ 32)).inc (CLE_LB_HSEQ p) ∧
    s.lbTransfer p i rx = { t with cle := { t.cle with htx := t.cle.htx.filter (· != p) } } :=
  ⟨.spi p (s.get (CLE_LB_SCHED_CS p i)) (s.get (CLE_LB_SCHED_LEN p i)) ((s.get (CLE_LB_HTX p) + 2 ^ 32 * s.get (CLE_LB_HTXX p)) %
    2 ^ s.get (CLE_LB_SCHED_LEN p i)), _, rfl, by simp only [State.lbTransfer, h, List.contains_iff_mem.mpr hx, if_true]⟩

theorem State.lbTransfer_host_shown (h : s.get (CLE_LB_SCHED_KIND p i) = 3) (hx : p ∈ s.cle.htx) : p ∉ (s.lbTransfer p i rx).cle.htx ∧
    (s.lbTransfer p i rx).get (CLE_LB_HRX p) = rx % 2 ^ s.get (CLE_LB_SCHED_LEN p i) % 2 ^ 32 ∧
    (s.lbTransfer p i rx).get (CLE_LB_HSEQ p) = (s.get (CLE_LB_HSEQ p) + 1) % 2 ^ 32 := by
  obtain ⟨m, t, ht, heq⟩ := State.lbTransfer_host (rx := rx) h hx
  have hget (f : Field) : (s.lbTransfer p i rx).get f = t.get f := by
    rw [heq]
    rfl
  refine ⟨by simp [heq], ?_, ?_⟩
  · rw [hget, ht, State.get_inc_ne _ (by simp only [Field.id, CLE_LB_HRX, CLE_LB_HSEQ]; omega),
      State.get_put_ne _ _ (by simp only [Field.id, CLE_LB_HRX, CLE_LB_HRXX]; omega), State.get_put_same]
    rfl
  · rw [hget, ht, State.get_inc_same, State.get_put_ne _ _ (by simp only [Field.id, CLE_LB_HSEQ, CLE_LB_HRXX]; omega),
      State.get_put_ne _ _ (by simp only [Field.id, CLE_LB_HSEQ, CLE_LB_HRX]; omega)]
    rfl

end

end Sys2Proof.Machine

namespace Sys2Proof.Proofs
open Sys2Proof.Machine

/-- Settles O33: ownership by whether the domain is on and whose the port is, a transaction by what stands in its way, and a transfer by the kind
of its entry. -/
theorem loopBus : Obligations.LoopBus := by
  unfold Obligations.LoopBus
  refine ⟨fun s r p d hr => ⟨fun hd => ?off, fun hd w hw => ?on⟩, fun s p d hr => ?hostTx, fun s p rx i u hi hu => ?transaction,
    fun s p i rx n len hn hlen => ?transfer⟩
  case off =>
    rw [exec_lbTake, exec_lbRelease, exec_lbEnable, execLbTake, execLbRelease, execLbEnable, State.reachReg_of_reaches _ hr,
      State.reachReg_of_reaches _ hr, State.reachReg_of_reaches _ hr]
    exact ⟨effLbTake_off hd, effLbRelease_off hd, effLbEnable_off hd⟩
  case on =>
    rw [exec_lbTake, exec_lbRelease, exec_lbEnable, execLbTake, execLbRelease, execLbEnable, State.reachReg_of_reaches _ hr,
      State.reachReg_of_reaches _ hr, State.reachReg_of_reaches _ hr]
    have hwho : w = cleWho r := hw
    subst hwho
    refine ⟨effLbTake_free hd, effLbTake_taken hd, effLbRelease_own hd, fun ho => ⟨effLbRelease_other hd ho, effLbEnable_other hd ho⟩, fun ho u hu => ?_⟩
    have hlen : u = s.lbLength p.val d.toNat := hu
    rw [effLbEnable_own hd ho, ← hlen]
    exact ⟨fun h => congrArg _ (if_pos h), fun h => congrArg _ (if_neg (by simp [h]))⟩
  case hostTx =>
    rw [exec_lbHostTxWrite, execLbHostTxWrite, State.reachReg_of_reaches _ hr]
    exact ⟨effLbHostTxWrite_off, effLbHostTxWrite_on⟩
  case transaction =>
    have hentry : i = s.lbEntry p.val := hi
    subst hentry hu
    rw [exec_lbTransaction]
    refine ⟨execLbTransaction_none, fun hc hs he hf => ?_, State.lbCarried_lbCarry _ _⟩
    rw [execLbTransaction_carries hc hs he hf]
    exact ⟨fun h => if_pos h, fun h h0 => by rw [if_neg (by simp [h]), if_pos h0, h0], fun h h0 => by rw [if_neg (by simp [h]), if_neg h0]⟩
  case transfer =>
    subst hn hlen
    exact ⟨State.lbTransfer_idle, State.lbTransfer_off, State.lbTransfer_read, State.lbTransfer_write,
      fun h => ⟨State.lbTransfer_host_none h, fun _ => State.lbTransfer_host_shown h⟩⟩

end Sys2Proof.Proofs
end

