-- ==== Sys2Proof/Proofs/LeftAside.lean ====
section
/-! SUPPORT. What the operations that end a playlist, a commit, a unit's measurement or a channel's drive leave alone: the guard monitors, Frost,
the Almanac, the pins, the cores, the ports, the loops, the tasks, and every register of those blocks. One lemma per operation, as in the
file of `State.fixed`. -/

namespace Sys2Proof.Machine

/-- The offsets of the registers that none of those operations writes. -/
def beyond (off : Nat) : Bool :=
  decide (off < 0x10000) ||
    (decide (0x20000 ≤ off) && decide (off < 0x80000) && decide (off ∉ [0x20004, 0x20018, 0x30010, 0x30018, 0x40034, 0x40038])) ||
    (decide (0x380000 ≤ off) && decide (off < 0x400000)) || (decide (0x500000 ≤ off) && decide (off < 0x600000))

/-- The field is of such a register; or, with the mark, it is the reason that the end of a playlist writes and none of the others. -/
def Field.beyond (mark : Bool) (f : Field) : Bool :=
  decide (f.lo < 32) && (Machine.beyond f.off || mark && decide (f.off = 0x80008) && decide (f.lo = 0))

/-- Any other field. -/
def Field.near (mark : Bool) (f : Field) : Bool := decide (f.lo < 32) && !f.beyond mark

theorem Field.id_ne_of_near {mark : Bool} {f g : Field} (hf : f.near mark = true) (hg : g.beyond mark = true) : g.id ≠ f.id := by
  simp only [Field.near, Bool.and_eq_true, decide_eq_true_eq, Bool.not_eq_true'] at hf
  obtain ⟨hflo, hnear⟩ := hf
  have hglo : g.lo < 32 := by
    simp only [Field.beyond, Bool.and_eq_true, decide_eq_true_eq] at hg
    exact hg.1
  intro h
  simp only [Field.id] at h
  have hoff : g.off = f.off := by omega
  have hlo : g.lo = f.lo := by omega
  rw [Field.beyond, hoff, hlo] at hg
  rw [Field.beyond, hg] at hnear
  exact absurd hnear (by decide)

/-- The registers beyond, each field with what it reads. -/
def regsBeyond (mark : Bool) (cells : Cells) (f : Field) : Nat := if f.beyond mark = true then Assoc.get f.rst cells f.id else 0

/-- The records beside the registers that none of those operations changes. -/
abbrev State.parts (s : State) := (s.grd, s.frz, s.evr, s.pins, s.cores, s.lnk, s.rsc, s.cle.loops, s.que.tasks)

/-- The part of the state that the lemmas of this file speak of: the channels, those records, and the registers beyond. -/
def State.aside (mark : Bool) (s : State) := (s.land.chans, s.parts, regsBeyond mark s.cells)

section
variable {mark : Bool}

@[simp] theorem State.aside_ite (c : Prop) [Decidable c] (a b : State) : (if c then a else b).aside mark = if c then a.aside mark else b.aside mark :=
  apply_ite _ _ _ _

@[simp] theorem State.aside_mk (pending cells shadow active latches raised tx hostOut freeCtr pins clk cmt seq fail seg apg land cap que hbc tiu grd
    cal pmu lnk pmg time fcl evr frz cle cores rsc mem poison) :
    (State.mk pending cells shadow active latches raised tx hostOut freeCtr pins clk cmt seq fail seg apg land cap que hbc tiu grd
      cal pmu lnk pmg time fcl evr frz cle cores rsc mem poison).aside mark =
      (land.chans, (grd, frz, evr, pins, cores, lnk, rsc, cle.loops, que.tasks), regsBeyond mark cells) := (rfl)

@[simp] theorem State.aside_eta (s : State) :
    (s.land.chans, (s.grd, s.frz, s.evr, s.pins, s.cores, s.lnk, s.rsc, s.cle.loops, s.que.tasks), regsBeyond mark s.cells) = s.aside mark := (rfl)

@[simp] theorem foldl_aside {α : Type} (l : List α) (g : State → α → State) (h : ∀ t, ∀ x ∈ l, (g t x).aside mark = t.aside mark) (s : State) :
    (l.foldl g s).aside mark = s.aside mark := by
  induction l generalizing s with
  | nil => rfl
  | cons x l ih =>
    rw [List.foldl_cons, ih fun t y hy => h t y (List.mem_cons_of_mem x hy), h s x List.mem_cons_self]

theorem foldl_range16_aside (g : State → Nat → State) (h : ∀ t, ∀ n < 16, (g t n).aside mark = t.aside mark) (s : State) :
    ((List.range 16).foldl g s).aside mark = s.aside mark :=
  foldl_aside _ g (fun t n hn => h t n (List.mem_range.mp hn)) s

/-! ## The registers that they write -/

@[simp] theorem near_constants :
    CMT_STATUS_LAST.near mark = true ∧ CMT_STATUS_VOTED.near mark = true ∧ CMT_STATUS_LOCKED.near mark = true ∧ CMT_STATUS_PENDING.near mark = true ∧
    CMT_NLOST.near mark = true ∧ CMT_HRV_STATUS_MISSED.near mark = true ∧ CMT_HRV_STATUS_SHOWN.near mark = true ∧ CMT_HRV_STATUS_PENDING.near mark = true ∧
    CMT_HRV_GVC_LO.near mark = true ∧ CMT_HRV_GVC_HI.near mark = true ∧ CMT_HRV_SEQ.near mark = true ∧ PMG_BUCKET.near mark = true ∧ PMG_PDECL.near mark = true ∧
    FCL_MS_LO.near mark = true ∧ FCL_MS_HI.near mark = true ∧ CLK_WARM_S.near mark = true ∧ SEQ_STATUS_HEADSRDY.near mark = true ∧ SEQ_STATUS_HOLDKIND.near mark = true ∧
    SEQ_STATUS_MATCHING.near mark = true ∧ SEQ_STATUS_MODE.near mark = true ∧ SEQ_STATUS_RUN.near mark = true ∧ SEQ_STOP_NOVEC.near mark = true ∧
    SEQ_STOP_SLOT.near mark = true ∧ SEQ_STOP_GVC_LO.near mark = true ∧ SEQ_STOP_GVC_HI.near mark = true ∧ SEQ_STK_DEPTH.near mark = true ∧
    SEQ_HEADS_USED.near mark = true ∧ SEQ_HEADS_LOADED.near mark = true ∧ SEG_PL_STATUS_REFUSE.near mark = true ∧ SEG_PL_STATUS_REFUSED.near mark = true ∧
    SEG_PL_STATUS_QREADY.near mark = true ∧ SEG_PL_STATUS_QCHECK.near mark = true ∧ SEG_PL_STATUS_QUEUED.near mark = true ∧ SEG_PL_NUM_QUEUED.near mark = true ∧
    SEG_PL_NREFUSE.near mark = true ∧ CAP_STATUS_SHORTPOST.near mark = true ∧ CAP_STATUS_HOLE.near mark = true ∧ CAP_STATUS_FROZEN.near mark = true ∧
    CAL_STATUS_FAIL.near mark = true ∧ CAL_NDONE.near mark = true ∧ CAL_NFAIL.near mark = true ∧ CAL_LAST_KIND.near mark = true ∧ CAL_LAST_RESULT.near mark = true ∧
    CAL_LAST_ELEM.near mark = true ∧ CAL_LAST_TARGET.near mark = true ∧ QUE_NDROP.near mark = true := by
  cases mark <;> decide

section
variable {n : Nat}

theorem Field.near_of_bounds {f : Field} (h : f.lo < 32 ∧ (0x80009 ≤ f.off ∧ f.off < 0x380000 ∨ 0x600000 ≤ f.off)) : f.near mark = true := by
  simp only [Field.near, Field.beyond, Machine.beyond, Bool.and_eq_true, Bool.not_eq_true', decide_eq_true_eq, Bool.or_eq_false_iff, Bool.and_eq_false_iff,
    decide_eq_false_iff_not]
  omega

@[simp] theorem near_tiu (h : n < 16) : (TIU_STATUS_OWNER n).near mark = true ∧ (TIU_STATUS_END n).near mark = true ∧ (TIU_STATUS_ARMED n).near mark = true ∧
    (TIU_STATUS_STARTED n).near mark = true ∧ (TIU_SEQ n).near mark = true ∧ (TIU_COUNT n).near mark = true ∧ (TIU_START_GVC_LO n).near mark = true ∧
    (TIU_START_GVC_HI n).near mark = true ∧ (TIU_NSHORT n).near mark = true := by
  refine ⟨?_, ?_, ?_, ?_, ?_, ?_, ?_, ?_, ?_⟩ <;> refine Field.near_of_bounds ?_ <;>
    simp only [TIU_STATUS_OWNER, TIU_STATUS_END, TIU_STATUS_ARMED, TIU_STATUS_STARTED, TIU_SEQ, TIU_COUNT, TIU_START_GVC_LO, TIU_START_GVC_HI,
      TIU_NSHORT] <;> omega

@[simp] theorem near_tiuRes {k : Nat} (h : n < 16) (hk : k < 16) : (TIU_RES_LO n k).near mark = true ∧ (TIU_RES_HI n k).near mark = true := by
  constructor <;> refine Field.near_of_bounds ?_ <;> simp only [TIU_RES_LO, TIU_RES_HI] <;> omega

@[simp] theorem near_pmu (h : n < 32) : (PMU_STATUS_CONN n).near mark = true ∧ (PMU_STATUS_END n).near mark = true := by
  constructor <;> refine Field.near_of_bounds ?_ <;> simp only [PMU_STATUS_CONN, PMU_STATUS_END] <;> omega

@[simp] theorem near_lastres : (CAL_CH_STATUS_LASTRES n).near mark = true := by
  refine Field.near_of_bounds ?_
  simp only [CAL_CH_STATUS_LASTRES]
  omega

end

/-! ## The operations -/

@[simp] theorem regsBeyond_put (s : State) (f : Field) (v : Nat) (h : f.near mark = true) : regsBeyond mark (s.put f v).cells = regsBeyond mark s.cells := by
  funext g
  unfold regsBeyond
  split
  · next hg => exact State.get_put_ne s v (Field.id_ne_of_near h hg)
  · rfl

@[simp] theorem regsBeyond_put64 (s : State) (lo hi : Field) (v : Nat) (h : lo.near mark = true) (h' : hi.near mark = true) :
    regsBeyond mark (s.put64 lo hi v).cells = regsBeyond mark s.cells := by
  simp [State.put64, h, h']

@[simp] theorem regsBeyond_inc (s : State) (f : Field) (h : f.near mark = true) : regsBeyond mark (s.inc f).cells = regsBeyond mark s.cells := by
  simp [State.inc_eq, h]

@[simp] theorem regsBeyond_flag (s : State) (f : Field) (b : Bool) (h : f.near mark = true) : regsBeyond mark (s.flag f b).cells = regsBeyond mark s.cells := by
  simp [State.flag_eq, h]

@[simp] theorem State.put_aside (s : State) (f : Field) (v : Nat) (h : f.near mark = true) : (s.put f v).aside mark = s.aside mark := by
  unfold State.aside
  rw [regsBeyond_put s f v h]
  rfl
@[simp] theorem State.flag_aside (s : State) (f : Field) (b : Bool) (h : f.near mark = true) : (s.flag f b).aside mark = s.aside mark := by simp [State.flag, h]
@[simp] theorem State.inc_aside (s : State) (f : Field) (h : f.near mark = true) : (s.inc f).aside mark = s.aside mark := by simp [State.inc, h]
@[simp] theorem State.addSat_aside (s : State) (f : Field) (k : Nat) (h : f.near mark = true) : (s.addSat f k).aside mark = s.aside mark := by simp [State.addSat, h]
@[simp] theorem State.incSat_aside (s : State) (f : Field) (h : f.near mark = true) : (s.incSat f).aside mark = s.aside mark := by simp [State.incSat, h]
@[simp] theorem State.put64_aside (s : State) (lo hi : Field) (v : Nat) (h : lo.near mark = true) (h' : hi.near mark = true) :
    (s.put64 lo hi v).aside mark = s.aside mark := by
  simp [State.put64, h, h']
@[simp] theorem State.free_aside (s : State) : (s.free).2.aside mark = s.aside mark := by simp [State.free]
@[simp] theorem State.send_aside (s : State) (m : TxMsg) : (s.send m).aside mark = s.aside mark := (rfl)
@[simp] theorem State.raise_aside (s : State) (src arg value : Nat) : (s.raise src arg value).aside mark = s.aside mark := (rfl)
@[simp] theorem State.event_aside (s : State) (src : Nat) : (s.event src).aside mark = s.aside mark := by simp [State.event]
@[simp] theorem State.sendHarvest_aside (s : State) : (s.sendHarvest).aside mark = s.aside mark := by
  unfold State.sendHarvest
  split <;> simp
@[simp] theorem State.passRc_aside (s : State) (k : Nat) : (s.passRc k).aside mark = s.aside mark := by simp [State.passRc]
@[simp] theorem State.switchWindow_aside (s : State) : (s.switchWindow).aside mark = s.aside mark := by simp [State.switchWindow]
@[simp] theorem State.advance_aside (s : State) (n : Nat) : (s.advance n).aside mark = s.aside mark := by simp [State.advance]
@[simp] theorem State.setQueue_aside (s : State) (q : Nat) (v : Queue) : (s.setQueue q v).aside mark = s.aside mark := by simp [State.setQueue]
@[simp] theorem State.rehold_aside (s : State) : (s.rehold).aside mark = s.aside mark := by simp [State.rehold]
@[simp] theorem State.dropItem_aside (s : State) (q k : Nat) : (s.dropItem q k).aside mark = s.aside mark := by simp [State.dropItem]
@[simp] theorem State.enqueue_aside (s : State) (q : Nat) (bytes : List (BitVec 8)) :
    (s.enqueue q bytes).2.aside mark = s.aside mark := by simp [State.enqueue]
@[simp] theorem State.enq_aside (s : State) (q : Nat) (bytes : List (BitVec 8)) : (s.enq q bytes).aside mark = s.aside mark := by simp [State.enq]
@[simp] theorem State.mapIntervals_aside (s : State) (f : Interval → Interval) :
    (s.mapIntervals f).aside mark = s.aside mark := by simp [State.mapIntervals]
@[simp] theorem State.recordCause_aside (s : State) (sites bit : Nat) :
    (s.recordCause sites bit).aside mark = s.aside mark := by simp [State.recordCause]
@[simp] theorem State.recordAll_aside (s : State) (bit : Nat) : (s.recordAll bit).aside mark = s.aside mark := by simp [State.recordAll]
@[simp] theorem State.endIntervals_aside (s : State) (sites g : Nat) :
    (s.endIntervals sites g).aside mark = s.aside mark := by simp [State.endIntervals]
@[simp] theorem State.setTiu_aside (s : State) (n : Nat) (u : TiuUnit) : (s.setTiu n u).aside mark = s.aside mark := by simp [State.setTiu]
@[simp] theorem State.tiuInterrupt_aside (s : State) (p : Nat → Bool) : (s.tiuInterrupt p).aside mark = s.aside mark := by simp [State.tiuInterrupt]
@[simp] theorem State.pmuTrip_aside (s : State) {c : Nat} (h : c < 256) : (s.pmuTrip c).aside mark = s.aside mark := by
  simp [State.pmuTrip, near_pmu (show c / 8 < 32 by omega)]
@[simp] theorem State.calEnded_aside (s : State) (e : CalEntry) (res : Nat) : (s.calEnded e res).aside mark = s.aside mark := by simp [State.calEnded]
@[simp] theorem State.calTrip_aside (s : State) (c : Nat) : (s.calTrip c).aside mark = s.aside mark := by
  unfold State.calTrip
  split <;> simp
@[simp] theorem State.tiuArmUnit_aside (s : State) {n : Nat} (h : n < 16) : (s.tiuArmUnit n).aside mark = s.aside mark := by simp [State.tiuArmUnit, h]
@[simp] theorem State.tiuRecords_aside (s : State) (n e : Nat) (u : TiuUnit) :
    (s.tiuRecords n e u).aside mark = s.aside mark := by simp [State.tiuRecords]
@[simp] theorem State.tiuPost_aside (s : State) {n : Nat} (h : n < 16) (e : Nat) (u : TiuUnit) : (s.tiuPost n e u).aside mark = s.aside mark := by
  exact foldl_range16_aside _ (fun t k hk => by simp [h, hk]) s
@[simp] theorem State.tiuEnd_aside (s : State) {n : Nat} (h : n < 16) (e : Nat) : (s.tiuEnd n e).aside mark = s.aside mark := by
  simp only [State.tiuEnd]
  repeat' split
  all_goals simp [h]
@[simp] theorem State.tiuEndAll_aside (s : State) (e : Nat) : (s.tiuEndAll e).aside mark = s.aside mark := by
  exact foldl_range16_aside _ (fun t k hk => by simp [hk]) s
@[simp] theorem State.tiuFree_aside (s : State) {n : Nat} (h : n < 16) : (s.tiuFree n).aside mark = s.aside mark := by simp [State.tiuFree, h]
@[simp] theorem State.tiuFreeClaim_aside (s : State) (mask : Nat) : (s.tiuFreeClaim mask).aside mark = s.aside mark := by
  exact foldl_range16_aside _ (fun t k hk => by simp [hk]) s
@[simp] theorem State.passTo_aside (s : State) (g : Nat) : (s.passTo g).aside mark = s.aside mark := by simp [State.passTo]
@[simp] theorem State.passReleases_aside (g : Nat) (l : List (Nat × Nat)) (s : State) : (State.passReleases g l s).aside mark = s.aside mark := by
  induction l generalizing s with
  | nil => simp [State.passReleases]
  | cons e l ih =>
    simp only [State.passReleases]
    split <;> simp [ih]
@[simp] theorem State.advanceTo_aside (s : State) (g : Nat) : (s.advanceTo g).aside mark = s.aside mark := by simp [State.advanceTo]
@[simp] theorem State.tiuLeave_aside (s : State) (mask last : Nat) : (s.tiuLeave mask last).aside mark = s.aside mark := by simp [State.tiuLeave]
@[simp] theorem State.tiuLeaveNow_aside (s : State) : (s.tiuLeaveNow).aside mark = s.aside mark := by simp [State.tiuLeaveNow]
@[simp] theorem State.dropCommit_aside (s : State) : (s.dropCommit).aside mark = s.aside mark := by simp [State.dropCommit]
@[simp] theorem State.cwaitOutcome_aside (s : State) (r : Option Nat) : (s.cwaitOutcome r).aside mark = s.aside mark := by
  unfold State.cwaitOutcome
  split <;> simp
@[simp] theorem State.loseCommit_aside (s : State) : (s.loseCommit).aside mark = s.aside mark := by
  unfold State.loseCommit
  split <;> simp
@[simp] theorem State.harvestDone_aside (s : State) : (s.harvestDone).aside mark = s.aside mark := by simp [State.harvestDone]
@[simp] theorem State.missHarvest_aside (s : State) : (s.missHarvest).aside mark = s.aside mark := by simp [State.missHarvest]
@[simp] theorem State.setHeads_aside (s : State) : (s.setHeads).aside mark = s.aside mark := by simp [State.setHeads]
@[simp] theorem State.reportRefusal_aside (s : State) (code : Nat) : (s.reportRefusal code).aside mark = s.aside mark := by simp [State.reportRefusal]
@[simp] theorem State.refusePlaylist_aside (s : State) (code : Nat) : (s.refusePlaylist code).aside mark = s.aside mark := by
  unfold State.refusePlaylist
  split <;> simp
@[simp] theorem State.setBucket_aside (s : State) : (s.setBucket).aside mark = s.aside mark := by simp [State.setBucket]
@[simp] theorem State.setDecl_aside (s : State) (mw : Nat) : (s.setDecl mw).aside mark = s.aside mark := by simp [State.setDecl]
@[simp] theorem State.freezeRing_aside (s : State) : (s.freezeRing).aside mark = s.aside mark := by
  simp only [State.freezeRing]
  split <;> simp
@[simp] theorem State.freezeShort_aside (s : State) : (s.freezeShort).aside mark = s.aside mark := by simp [State.freezeShort]
@[simp] theorem State.toBoundary_aside (s : State) : (s.toBoundary).aside mark = s.aside mark := by simp [State.toBoundary]
@[simp] theorem State.endPlaylist_aside (s : State) (reason : Nat) : (s.endPlaylist reason).aside false = s.aside false := by
  have hreason : SEQ_STOP_REASON.near false = true := by decide
  unfold State.endPlaylist
  split <;> simp [hreason]

/-- The reason that the end of a playlist writes stands through the rest of that end. -/
theorem State.endPlaylist_reason (s : State) (reason : Nat) (h : s.seq.running ≠ none) :
    ∃ u : State, (s.endPlaylist reason).aside true = u.aside true ∧ u.get SEQ_STOP_REASON = reason % 2 ^ 4 := by
  unfold State.endPlaylist
  split
  · contradiction
  · extract_lets last s1 s2 novec s3 s4 sq fl s5 s6 s61 s7
    have h4 : s4.aside true = (s2.put SEQ_STOP_REASON reason).aside true := by simp [s4, s3]
    have h7 : s7.aside true = s4.aside true := by simp [s7, s61, s6, s5]
    refine ⟨s2.put SEQ_STOP_REASON reason, ?_, State.get_put_same _ _ _⟩
    rw [← h4, ← h7]
    split <;> simp

end

end Sys2Proof.Machine
end

