-- ==== Sys2Proof/Proofs/StillWaits.lean ====
section
/-! SUPPORT. The operations that end a playlist, a commit or a channel's drive keep every occurrence that waits for the collector, and so does the
loops' part of the safe state. One lemma per operation, as in the file of `State.fixed`. -/

namespace Sys2Proof.Machine

/-- The occurrence waits for the collector. -/
def State.awaits (s : State) (x : Raised) : Prop := x ∈ s.raised

section
variable {x : Raised}

@[simp] theorem State.awaits_ite (c : Prop) [Decidable c] (a b : State) : (if c then a else b).awaits x = if c then a.awaits x else b.awaits x :=
  apply_ite (State.awaits · x) _ _ _

@[simp] theorem State.awaits_mk (pending cells shadow active latches raised tx hostOut freeCtr pins clk cmt seq fail seg apg land cap que hbc tiu grd
    cal pmu lnk pmg time fcl evr frz cle cores rsc mem poison) :
    (State.mk pending cells shadow active latches raised tx hostOut freeCtr pins clk cmt seq fail seg apg land cap que hbc tiu grd
      cal pmu lnk pmg time fcl evr frz cle cores rsc mem poison).awaits x = (x ∈ raised) := (rfl)

@[simp] theorem State.awaits_eta (s : State) : (x ∈ s.raised) = s.awaits x := (rfl)

/-! ## The operations that raise nothing -/

@[simp] theorem foldl_awaits_eq {α : Type} (l : List α) (g : State → α → State) (h : ∀ t y, (g t y).awaits x = t.awaits x) (s : State) :
    (l.foldl g s).awaits x = s.awaits x := by
  induction l generalizing s with
  | nil => rfl
  | cons y l ih => rw [List.foldl_cons, ih, h]

@[simp] theorem State.put_awaits (s : State) (f : Field) (v : Nat) : (s.put f v).awaits x = s.awaits x := (rfl)
@[simp] theorem State.flag_awaits (s : State) (f : Field) (b : Bool) : (s.flag f b).awaits x = s.awaits x := by simp [State.flag]
@[simp] theorem State.inc_awaits (s : State) (f : Field) : (s.inc f).awaits x = s.awaits x := by simp [State.inc]
@[simp] theorem State.addSat_awaits (s : State) (f : Field) (k : Nat) : (s.addSat f k).awaits x = s.awaits x := by simp [State.addSat]
@[simp] theorem State.incSat_awaits (s : State) (f : Field) : (s.incSat f).awaits x = s.awaits x := by simp [State.incSat]
@[simp] theorem State.put64_awaits (s : State) (lo hi : Field) (v : Nat) : (s.put64 lo hi v).awaits x = s.awaits x := by simp [State.put64]
@[simp] theorem State.free_awaits (s : State) : (s.free).2.awaits x = s.awaits x := by simp [State.free]
@[simp] theorem State.send_awaits (s : State) (m : TxMsg) : (s.send m).awaits x = s.awaits x := (rfl)
@[simp] theorem State.sendHarvest_awaits (s : State) : (s.sendHarvest).awaits x = s.awaits x := by
  unfold State.sendHarvest
  split <;> simp
@[simp] theorem State.passRc_awaits (s : State) (k : Nat) : (s.passRc k).awaits x = s.awaits x := by simp [State.passRc]
@[simp] theorem State.switchWindow_awaits (s : State) : (s.switchWindow).awaits x = s.awaits x := by simp [State.switchWindow]
@[simp] theorem State.advance_awaits (s : State) (n : Nat) : (s.advance n).awaits x = s.awaits x := by simp [State.advance]
@[simp] theorem State.setChan_awaits (s : State) (c : Nat) (l : ChanLand) : (s.setChan c l).awaits x = s.awaits x := by simp [State.setChan]
@[simp] theorem State.setQueue_awaits (s : State) (q : Nat) (v : Queue) : (s.setQueue q v).awaits x = s.awaits x := by simp [State.setQueue]
@[simp] theorem State.rehold_awaits (s : State) : (s.rehold).awaits x = s.awaits x := by simp [State.rehold]
@[simp] theorem State.mapIntervals_awaits (s : State) (f : Interval → Interval) :
    (s.mapIntervals f).awaits x = s.awaits x := by simp [State.mapIntervals]
@[simp] theorem State.recordCause_awaits (s : State) (sites bit : Nat) :
    (s.recordCause sites bit).awaits x = s.awaits x := by simp [State.recordCause]
@[simp] theorem State.recordAll_awaits (s : State) (bit : Nat) : (s.recordAll bit).awaits x = s.awaits x := by simp [State.recordAll]
@[simp] theorem State.endIntervals_awaits (s : State) (sites g : Nat) :
    (s.endIntervals sites g).awaits x = s.awaits x := by simp [State.endIntervals]
@[simp] theorem State.setTiu_awaits (s : State) (n : Nat) (u : TiuUnit) : (s.setTiu n u).awaits x = s.awaits x := by simp [State.setTiu]
@[simp] theorem State.tiuInterrupt_awaits (s : State) (p : Nat → Bool) : (s.tiuInterrupt p).awaits x = s.awaits x := by simp [State.tiuInterrupt]
@[simp] theorem State.pmuTrip_awaits (s : State) (c : Nat) : (s.pmuTrip c).awaits x = s.awaits x := by simp [State.pmuTrip]
@[simp] theorem State.tiuArmUnit_awaits (s : State) (n : Nat) : (s.tiuArmUnit n).awaits x = s.awaits x := by simp [State.tiuArmUnit]
@[simp] theorem State.tiuPost_awaits (s : State) (n e : Nat) (u : TiuUnit) : (s.tiuPost n e u).awaits x = s.awaits x := by simp [State.tiuPost]
@[simp] theorem State.passTo_awaits (s : State) (g : Nat) : (s.passTo g).awaits x = s.awaits x := by simp [State.passTo]
@[simp] theorem State.dropCommit_awaits (s : State) : (s.dropCommit).awaits x = s.awaits x := by simp [State.dropCommit]
@[simp] theorem State.cwaitOutcome_awaits (s : State) (r : Option Nat) : (s.cwaitOutcome r).awaits x = s.awaits x := by
  unfold State.cwaitOutcome
  split <;> simp
@[simp] theorem State.setHeads_awaits (s : State) : (s.setHeads).awaits x = s.awaits x := by simp [State.setHeads]
@[simp] theorem State.setBucket_awaits (s : State) : (s.setBucket).awaits x = s.awaits x := by simp [State.setBucket]
@[simp] theorem State.setDecl_awaits (s : State) (mw : Nat) : (s.setDecl mw).awaits x = s.awaits x := by simp [State.setDecl]
@[simp] theorem State.freezeRing_awaits (s : State) : (s.freezeRing).awaits x = s.awaits x := by
  simp only [State.freezeRing]
  split <;> simp
@[simp] theorem State.freezeShort_awaits (s : State) : (s.freezeShort).awaits x = s.awaits x := by simp [State.freezeShort]
@[simp] theorem State.rampDone_awaits (s : State) : (s.rampDone).awaits x = s.awaits x := by simp [State.rampDone]

/-! ## The operations that may raise -/

@[simp] theorem State.raise_awaits (s : State) (src arg value : Nat) (h : s.awaits x) : (s.raise src arg value).awaits x :=
  List.mem_append_left _ h

@[simp] theorem State.event_awaits (s : State) (src : Nat) (h : s.awaits x) : (s.event src).awaits x := List.mem_append_left _ h

theorem foldl_awaits {α : Type} (l : List α) (g : State → α → State) (h : ∀ t y, t.awaits x → (g t y).awaits x) (s : State)
    (hx : s.awaits x) : (l.foldl g s).awaits x := by
  induction l generalizing s with
  | nil => exact hx
  | cons y l ih => exact ih (g s y) (h s y hx)

@[simp] theorem State.dropItem_awaits (s : State) (q k : Nat) (h : s.awaits x) : (s.dropItem q k).awaits x := by
  simp [State.dropItem, h]
@[simp] theorem State.enqueue_awaits (s : State) (q : Nat) (bytes : List (BitVec 8)) (h : s.awaits x) : (s.enqueue q bytes).2.awaits x := by
  simp [State.enqueue, h]
@[simp] theorem State.enq_awaits (s : State) (q : Nat) (bytes : List (BitVec 8)) (h : s.awaits x) : (s.enq q bytes).awaits x := by
  simp [State.enq, h]
@[simp] theorem State.calEnded_awaits (s : State) (e : CalEntry) (res : Nat) (h : s.awaits x) : (s.calEnded e res).awaits x := by
  simp [State.calEnded, h]
@[simp] theorem State.calTrip_awaits (s : State) (c : Nat) (h : s.awaits x) : (s.calTrip c).awaits x := by
  unfold State.calTrip
  split <;> simp [h]
@[simp] theorem State.tripChannel_awaits (s : State) (c : Nat) (h : s.awaits x) : (s.tripChannel c).awaits x := by
  simp [State.tripChannel, h]
@[simp] theorem State.tripEffects_awaits (s : State) (cs : List Nat) (h : s.awaits x) : (s.tripEffects cs).awaits x := by
  simp [State.tripEffects, foldl_awaits cs _ (fun t c ht => State.tripChannel_awaits t c ht) s h]
@[simp] theorem State.tiuRecords_awaits (s : State) (n e : Nat) (u : TiuUnit) (h : s.awaits x) : (s.tiuRecords n e u).awaits x := by
  unfold State.tiuRecords
  split
  · exact foldl_awaits _ _ (fun t _ ht => State.enq_awaits t _ _ ht) s h
  · exact h
@[simp] theorem State.tiuEnd_awaits (s : State) (n e : Nat) (h : s.awaits x) : (s.tiuEnd n e).awaits x := by
  simp only [State.tiuEnd]
  repeat' split
  all_goals simp [h]
@[simp] theorem State.tiuFree_awaits (s : State) (n : Nat) (h : s.awaits x) : (s.tiuFree n).awaits x := by
  simp [State.tiuFree, h]
@[simp] theorem State.tiuFreeClaim_awaits (s : State) (mask : Nat) (h : s.awaits x) : (s.tiuFreeClaim mask).awaits x := by
  refine foldl_awaits _ _ (fun t n ht => ?_) s h
  simp [ht]
@[simp] theorem State.passReleases_awaits (g : Nat) (l : List (Nat × Nat)) (s : State) (h : s.awaits x) :
    (State.passReleases g l s).awaits x := by
  induction l generalizing s with
  | nil => simp [State.passReleases, h]
  | cons e l ih =>
    simp only [State.passReleases]
    split <;> simp [ih, h]
@[simp] theorem State.advanceTo_awaits (s : State) (g : Nat) (h : s.awaits x) : (s.advanceTo g).awaits x := by
  simp [State.advanceTo, h]
@[simp] theorem State.tiuLeave_awaits (s : State) (mask last : Nat) (h : s.awaits x) : (s.tiuLeave mask last).awaits x := by
  simp [State.tiuLeave, h]
@[simp] theorem State.loseCommit_awaits (s : State) (h : s.awaits x) : (s.loseCommit).awaits x := by
  unfold State.loseCommit
  split <;> simp [h]
@[simp] theorem State.reportRefusal_awaits (s : State) (code : Nat) (h : s.awaits x) : (s.reportRefusal code).awaits x := by
  simp [State.reportRefusal, h]
@[simp] theorem State.refusePlaylist_awaits (s : State) (code : Nat) (h : s.awaits x) : (s.refusePlaylist code).awaits x := by
  unfold State.refusePlaylist
  split <;> simp [h]
@[simp] theorem State.toBoundary_awaits (s : State) (h : s.awaits x) : (s.toBoundary).awaits x := by
  simp [State.toBoundary, h]
@[simp] theorem State.endPlaylist_awaits (s : State) (reason : Nat) (h : s.awaits x) : (s.endPlaylist reason).awaits x := by
  unfold State.endPlaylist
  split
  · exact h
  · extract_lets last s1 s2 novec s3 s4 sq fl s5 s6 s61 s7
    have h2 : s2.awaits x := by simp [s2, s1, h]
    have h5 : s5.awaits x := by simp [s5, s4, s3, h2]
    have h6 : s6.awaits x := State.event_awaits _ _ (State.toBoundary_awaits _ (by simp [h5]))
    have h7 : s7.awaits x := by simp [s7, s61, h6]
    split <;> simp [h7]
@[simp] theorem State.heldEnd_awaits (s : State) (t : Nat) (h : s.awaits x) : (s.heldEnd t).awaits x := by
  simp [State.heldEnd, h]
@[simp] theorem State.heldCheck_awaits (s : State) (n : Nat) (h : s.awaits x) : (s.heldCheck n).awaits x := by
  simp [State.heldCheck, h]
@[simp] theorem State.holdLoop_awaits (s : State) (n cause : Nat) (h : s.awaits x) : (s.holdLoop n cause).awaits x := by
  simp [State.holdLoop, h]
@[simp] theorem State.safeLoops_awaits (s : State) (h : s.awaits x) : (s.safeLoops).awaits x := by
  have hloops := foldl_awaits (List.range 64) (fun t n => if t.get (CLE_CFG_SINK n) = 1 then t.holdLoop n 4 else t) (fun t n ht => by simp [ht]) s h
  simp [State.safeLoops, hloops]

end

end Sys2Proof.Machine
end

