-- ==== Sys2Proof/Proofs/TripsAndSafeState.lean ====
section
/-! SUPPORT. Trips and the safe state: what they do to the channels, whom they leave as holders, and what they leave alone. -/

namespace Sys2Proof.Machine

theorem State.raise_tells (s : State) (src arg value : Nat) : ∃ x, (s.raise src arg value).awaits x ∧ x.src = src ∧ x.arg = arg % 2 ^ 16 :=
  ⟨_, List.mem_append_right _ List.mem_cons_self, rfl, rfl⟩

/-! ## States that agree beyond the channels -/

/-- The states have the same records and the same registers beyond. -/
def State.agrees (s t : State) : Prop := (t.aside false).2 = (s.aside false).2

namespace State.agrees
variable {s t u : State}

theorem refl (s : State) : s.agrees s := rfl

theorem trans (h : s.agrees t) (h' : t.agrees u) : s.agrees u := Eq.trans h' h

theorem of_aside (h : t.aside false = s.aside false) : s.agrees t := congrArg Prod.snd h

theorem grd (h : s.agrees t) : t.grd = s.grd := congrArg (·.1.1) h

theorem frz (h : s.agrees t) : t.frz = s.frz := congrArg (·.1.2.1) h

theorem evr (h : s.agrees t) : t.evr = s.evr := congrArg (·.1.2.2.1) h

theorem pins (h : s.agrees t) : t.pins = s.pins := congrArg (·.1.2.2.2.1) h

theorem cores (h : s.agrees t) : t.cores = s.cores := congrArg (·.1.2.2.2.2.1) h

theorem loops (h : s.agrees t) : t.cle.loops = s.cle.loops := congrArg (·.1.2.2.2.2.2.2.2.1) h

theorem tasks (h : s.agrees t) : t.que.tasks = s.que.tasks := congrArg (·.1.2.2.2.2.2.2.2.2) h

theorem get (h : s.agrees t) {f : Field} (hf : f.beyond false = true) : t.get f = s.get f := by
  have hregs := congrFun (congrArg (·.2) h : regsBeyond false t.cells = regsBeyond false s.cells) f
  rwa [regsBeyond, regsBeyond, if_pos hf, if_pos hf] at hregs

theorem on (h : s.agrees t) {f : Field} (hf : f.beyond false = true) : t.on f = s.on f := by
  rw [State.on, h.get hf, State.on]

theorem foldl {α : Type} (l : List α) (g : State → α → State) (h : ∀ t : State, ∀ x ∈ l, t.agrees (g t x)) (s : State) : s.agrees (l.foldl g s) := by
  induction l generalizing s with
  | nil => exact refl s
  | cons x l ih => exact (h s x List.mem_cons_self).trans (ih (fun t y hy => h t y (List.mem_cons_of_mem x hy)) _)

end State.agrees

/-! ## Trips (R503) -/

section
variable {s : State} {c d : Nat}

theorem allChannels_lt {c : Nat} (h : c ∈ allChannels) : c < 256 := List.mem_range.mp h

theorem State.agrees_setChan (l : ChanLand) : s.agrees (s.setChan c l) := rfl

theorem State.agrees_tripChannel (h : c < 256) : s.agrees (s.tripChannel c) :=
  (State.agrees_setChan _).trans (.of_aside ((State.calTrip_aside _ _).trans (State.pmuTrip_aside _ h)))

theorem State.chans_of_aside {t : State} (h : t.aside false = s.aside false) (d : Nat) : t.chan d = s.chan d :=
  congrArg (fun chans => Assoc.get ChanLand.reset chans d) (congrArg Prod.fst h)

theorem State.chan_tripChannel_same (h : c < 256) : (s.tripChannel c).chan c = { s.chan c with drv := 0 } :=
  (State.chans_of_aside ((State.calTrip_aside _ _).trans (State.pmuTrip_aside _ h)) c).trans (State.chan_setChan_same _ _ _)

theorem State.chan_tripChannel_ne (h : c < 256) (hd : d ≠ c) : (s.tripChannel c).chan d = s.chan d :=
  (State.chans_of_aside ((State.calTrip_aside _ _).trans (State.pmuTrip_aside _ h)) d).trans (State.chan_setChan_ne _ _ hd)

variable {cs : List Nat}

theorem State.aside_tripped (s : State) (p : Nat → Bool) (sites bit : Nat) :
    ((s.tiuInterrupt p).recordCause sites bit).aside false = s.aside false := by
  simp

theorem State.agrees_tripEffects (h : ∀ c ∈ cs, c < 256) : s.agrees (s.tripEffects cs) :=
  (State.agrees.foldl cs _ (fun _ c hc => State.agrees_tripChannel (h c hc)) s).trans (.of_aside (State.aside_tripped _ _ _ _))

theorem State.chan_foldl_tripChannel_not_mem (h : ∀ c ∈ cs, c < 256) (hd : d ∉ cs) (s : State) :
    (cs.foldl (fun t c => t.tripChannel c) s).chan d = s.chan d := by
  induction cs generalizing s with
  | nil => rfl
  | cons c cs ih =>
    obtain ⟨hne, hd'⟩ : d ≠ c ∧ d ∉ cs := by simpa using hd
    rw [List.foldl_cons, ih (fun c hc => h c (List.mem_cons_of_mem _ hc)) hd', State.chan_tripChannel_ne (h c List.mem_cons_self) hne]

theorem State.drv_foldl_tripChannel_kept (h : ∀ c ∈ cs, c < 256) (s : State) (hs : (s.chan d).drv = 0) :
    ((cs.foldl (fun t c => t.tripChannel c) s).chan d).drv = 0 := by
  induction cs generalizing s with
  | nil => exact hs
  | cons c cs ih =>
    refine ih (fun c hc => h c (List.mem_cons_of_mem _ hc)) _ ?_
    by_cases hd : d = c
    · rw [hd, State.chan_tripChannel_same (h c List.mem_cons_self)]
    · rwa [State.chan_tripChannel_ne (h c List.mem_cons_self) hd]

theorem State.drv_foldl_tripChannel (h : ∀ c ∈ cs, c < 256) (hd : d ∈ cs) (s : State) :
    ((cs.foldl (fun t c => t.tripChannel c) s).chan d).drv = 0 := by
  induction cs generalizing s with
  | nil => exact absurd hd (List.not_mem_nil)
  | cons c cs ih =>
    rcases List.mem_cons.mp hd with rfl | hd'
    · exact State.drv_foldl_tripChannel_kept (fun c hc => h c (List.mem_cons_of_mem _ hc)) _
        (by rw [State.chan_tripChannel_same (h d List.mem_cons_self)])
    · exact ih (fun c hc => h c (List.mem_cons_of_mem _ hc)) hd' _

theorem State.drv_tripEffects (h : ∀ c ∈ cs, c < 256) (hd : d ∈ cs) : ((s.tripEffects cs).chan d).drv = 0 :=
  (congrArg ChanLand.drv (State.chans_of_aside (State.aside_tripped _ _ _ _) d)).trans (State.drv_foldl_tripChannel h hd s)

theorem State.drv_tripEffects_kept (h : ∀ c ∈ cs, c < 256) (hs : (s.chan d).drv = 0) : ((s.tripEffects cs).chan d).drv = 0 :=
  (congrArg ChanLand.drv (State.chans_of_aside (State.aside_tripped _ _ _ _) d)).trans (State.drv_foldl_tripChannel_kept h s hs)

theorem State.chan_tripEffects_not_mem (h : ∀ c ∈ cs, c < 256) (hd : d ∉ cs) : (s.tripEffects cs).chan d = s.chan d :=
  (State.chans_of_aside (State.aside_tripped _ _ _ _) d).trans (State.chan_foldl_tripChannel_not_mem h hd s)

variable {h : Nat}

/-- The holders that a trip by h notes. -/
def holdersWith (h : Nat) (cs : List Nat) (m : List (Nat × List Nat)) : List (Nat × List Nat) :=
  cs.foldl (fun m c => Assoc.set [] m c (insertNat h (Assoc.get [] m c))) m

theorem State.trip_eq (s : State) (h : Nat) (cs : List Nat) :
    s.trip h cs = ({ s with grd := { s.grd with holders := holdersWith h cs s.grd.holders } } : State).tripEffects cs := rfl

theorem get_holdersWith_not_mem (hd : d ∉ cs) (m : List (Nat × List Nat)) : Assoc.get [] (holdersWith h cs m) d = Assoc.get [] m d := by
  induction cs generalizing m with
  | nil => rfl
  | cons c cs ih =>
    obtain ⟨hne, hd'⟩ : d ≠ c ∧ d ∉ cs := by simpa using hd
    exact (ih hd' _).trans (Assoc.get_set_ne _ _ _ _ hne)

theorem mem_holdersWith_kept {x : Nat} (m : List (Nat × List Nat)) (hx : x ∈ Assoc.get [] m d) : x ∈ Assoc.get [] (holdersWith h cs m) d := by
  induction cs generalizing m with
  | nil => exact hx
  | cons c cs ih =>
    refine ih _ ?_
    by_cases hd : d = c
    · rw [hd, Assoc.get_set_same]
      exact mem_insertNat.mpr (.inr (hd ▸ hx))
    · rwa [Assoc.get_set_ne _ _ _ _ hd]

theorem mem_holdersWith (hd : d ∈ cs) (m : List (Nat × List Nat)) : h ∈ Assoc.get [] (holdersWith h cs m) d := by
  induction cs generalizing m with
  | nil => exact absurd hd (List.not_mem_nil)
  | cons c cs ih =>
    rcases List.mem_cons.mp hd with rfl | hd'
    · exact mem_holdersWith_kept (cs := cs) (Assoc.set [] m d (insertNat h (Assoc.get [] m d)))
        (by rw [Assoc.get_set_same]; exact mem_insertNat.mpr (.inl rfl))
    · exact ih hd' _

section
variable (hcs : ∀ c ∈ cs, c < 256)
include hcs

theorem State.grd_trip : (s.trip h cs).grd = { s.grd with holders := holdersWith h cs s.grd.holders } := by
  rw [State.trip_eq, (State.agrees_tripEffects hcs).grd]

theorem State.get_trip {f : Field} (hf : f.beyond false = true) : (s.trip h cs).get f = s.get f := by
  rw [State.trip_eq, (State.agrees_tripEffects hcs).get hf]
  rfl

theorem State.mem_holders_trip (hd : d ∈ cs) : h ∈ (s.trip h cs).holders d := by
  rw [State.holders, State.grd_trip hcs]
  exact mem_holdersWith hd _

theorem State.holders_trip_not_mem (hd : d ∉ cs) : (s.trip h cs).holders d = s.holders d := by
  rw [State.holders, State.grd_trip hcs]
  exact get_holdersWith_not_mem hd _

theorem State.chan_trip_not_mem (hd : d ∉ cs) : (s.trip h cs).chan d = s.chan d := by
  rw [State.trip_eq, State.chan_tripEffects_not_mem hcs hd]
  rfl

theorem State.drv_trip (hd : d ∈ cs) : ((s.trip h cs).chan d).drv = 0 := by
  rw [State.trip_eq, State.drv_tripEffects hcs hd]

end

theorem State.trip_awaits {x : Raised} (hx : s.awaits x) : (s.trip h cs).awaits x := State.tripEffects_awaits _ _ hx

theorem State.tripped_of_mem_holders (hd : h ∈ s.holders d) : s.tripped d = true := by
  cases hl : s.holders d with
  | nil => rw [hl] at hd; exact absurd hd (List.not_mem_nil)
  | cons x l => simp [State.tripped, hl]

end

/-! ## The loops in the safe state (R736) -/

section
variable {s : State} {n : Nat}

@[simp] theorem State.heldEnd_parts : (s.heldEnd n).parts = s.parts := by
  unfold State.heldEnd
  split <;> rfl

@[simp] theorem State.holdLoop_parts (cause : Nat) : (s.holdLoop n cause).parts = s.parts := by
  unfold State.holdLoop State.heldCheck
  split
  · exact State.heldEnd_parts
  · rfl

/-- The fields that holding loop n may write. -/
def holdFields (n : Nat) : List Field :=
  [CLE_LSTATUS_MODE n, CLE_CTRL_MODE n, CLE_LSTATUS_HCAUSE n, CLE_TH_STATUS_HELD (n - 56), CLE_TH_STATUS_DRIFT (n - 56), CLE_TH_EXIT_LO (n - 56),
    CLE_TH_EXIT_HI (n - 56)]

theorem State.get_heldEnd {f : Field} (hf : ∀ g ∈ [CLE_TH_STATUS_HELD n, CLE_TH_STATUS_DRIFT n, CLE_TH_EXIT_LO n, CLE_TH_EXIT_HI n], f.id ≠ g.id) :
    (s.heldEnd n).get f = s.get f := by
  obtain ⟨h1, h2, h3, h4⟩ : f.id ≠ (CLE_TH_STATUS_HELD n).id ∧ f.id ≠ (CLE_TH_STATUS_DRIFT n).id ∧ f.id ≠ (CLE_TH_EXIT_LO n).id ∧
      f.id ≠ (CLE_TH_EXIT_HI n).id := by simpa using hf
  unfold State.heldEnd
  split
  · rw [State.get_raise, State.get_put64_ne _ _ h3 h4, State.get_put_ne _ _ h2, State.get_put_ne _ _ h1]
  · rfl

theorem State.get_heldCheck {f : Field} (hf : ∀ g ∈ holdFields n, f.id ≠ g.id) : (s.heldCheck n).get f = s.get f := by
  unfold State.heldCheck
  split
  · exact State.get_heldEnd fun g hg => hf g (List.mem_of_mem_drop (i := 3) hg)
  · rfl

theorem State.regsBut_holdLoop (cause : Nat) : s.regsBut (s.holdLoop n cause) (holdFields n) := fun f hf => by
  unfold State.holdLoop
  rw [State.get_heldCheck hf, State.get_put_ne _ _ (hf _ (by simp [holdFields])), State.get_put_ne _ _ (hf _ (by simp [holdFields])),
    State.get_put_ne _ _ (hf _ (by simp [holdFields]))]

/-- The thermal status lies beside the mode and the cause of every loop. -/
theorem State.get_heldCheck_loop {f : Field} (hf : f.off < 0x3C3000) (hlo : f.lo < 32) : (s.heldCheck n).get f = s.get f := by
  unfold State.heldCheck
  split
  · refine State.get_heldEnd ?_
    simp only [List.mem_cons, List.not_mem_nil, or_false, forall_eq_or_imp, forall_eq, Field.id, CLE_TH_STATUS_HELD, CLE_TH_STATUS_DRIFT,
      CLE_TH_EXIT_LO, CLE_TH_EXIT_HI]
    omega
  · rfl

theorem State.get_mode_holdLoop (hn : n < 64) (cause : Nat) : (s.holdLoop n cause).get (CLE_LSTATUS_MODE n) = 3 := by
  unfold State.holdLoop
  rw [State.get_heldCheck_loop (by simp only [CLE_LSTATUS_MODE]; omega) (by simp only [CLE_LSTATUS_MODE]; omega),
    State.get_put_ne _ _ (by simp only [Field.id, CLE_LSTATUS_MODE, CLE_LSTATUS_HCAUSE]; omega),
    State.get_put_ne _ _ (by simp only [Field.id, CLE_LSTATUS_MODE, CLE_CTRL_MODE]; omega), State.get_put_same]
  rfl

theorem State.get_hcause_holdLoop (hn : n < 64) (cause : Nat) : (s.holdLoop n cause).get (CLE_LSTATUS_HCAUSE n) = cause % 8 := by
  unfold State.holdLoop
  rw [State.get_heldCheck_loop (by simp only [CLE_LSTATUS_HCAUSE]; omega) (by simp only [CLE_LSTATUS_HCAUSE]; omega), State.get_put_same]
  rfl

theorem State.get_holdLoop_off {f : Field} (hf : f.off < 0x3C0000 ∨ 0x400000 ≤ f.off) (hlo : f.lo < 32) (hn : n < 64) (cause : Nat) :
    (s.holdLoop n cause).get f = s.get f := by
  refine State.regsBut_holdLoop cause f ?_
  simp only [holdFields, List.mem_cons, List.not_mem_nil, or_false, forall_eq_or_imp, forall_eq, Field.id, CLE_LSTATUS_MODE, CLE_CTRL_MODE,
    CLE_LSTATUS_HCAUSE, CLE_TH_STATUS_HELD, CLE_TH_STATUS_DRIFT, CLE_TH_EXIT_LO, CLE_TH_EXIT_HI]
  omega

/-- Holding another loop leaves the mode, the cause and the sink of loop n. -/
theorem State.get_holdLoop_other {k : Nat} (hk : k ≠ n) (cause : Nat) {f : Field}
    (hf : f = CLE_LSTATUS_MODE n ∨ f = CLE_LSTATUS_HCAUSE n ∨ f = CLE_CFG_SINK n) : (s.holdLoop k cause).get f = s.get f := by
  refine State.regsBut_holdLoop cause f ?_
  rcases hf with rfl | rfl | rfl <;>
  · simp only [holdFields, List.mem_cons, List.not_mem_nil, or_false, forall_eq_or_imp, forall_eq, Field.id, CLE_LSTATUS_MODE, CLE_CTRL_MODE,
      CLE_LSTATUS_HCAUSE, CLE_TH_STATUS_HELD, CLE_TH_STATUS_DRIFT, CLE_TH_EXIT_LO, CLE_TH_EXIT_HI, CLE_CFG_SINK]
    omega

theorem State.get_sink_holdLoop (cause : Nat) : (s.holdLoop n cause).get (CLE_CFG_SINK n) = s.get (CLE_CFG_SINK n) := by
  refine State.regsBut_holdLoop cause _ ?_
  simp only [holdFields, List.mem_cons, List.not_mem_nil, or_false, forall_eq_or_imp, forall_eq, Field.id, CLE_LSTATUS_MODE, CLE_CTRL_MODE,
    CLE_LSTATUS_HCAUSE, CLE_TH_STATUS_HELD, CLE_TH_STATUS_DRIFT, CLE_TH_EXIT_LO, CLE_TH_EXIT_HI, CLE_CFG_SINK]
  omega

/-- What the safe state does to one loop: it holds a loop with a loop-bus sink. -/
def State.safeLoop (s : State) (n : Nat) : State := if s.get (CLE_CFG_SINK n) = 1 then s.holdLoop n 4 else s

@[simp] theorem State.safeLoop_parts : (s.safeLoop n).parts = s.parts := by
  unfold State.safeLoop
  split
  · exact State.holdLoop_parts 4
  · rfl

theorem State.get_safeLoop_off {f : Field} (hf : f.off < 0x3C0000 ∨ 0x400000 ≤ f.off) (hlo : f.lo < 32) (hn : n < 64) :
    (s.safeLoop n).get f = s.get f := by
  unfold State.safeLoop
  split
  · exact State.get_holdLoop_off hf hlo hn 4
  · rfl

/-- Loop n is held by the safe state. -/
def State.heldSafe (s : State) (n : Nat) : Prop := s.get (CLE_LSTATUS_MODE n) = 3 ∧ s.get (CLE_LSTATUS_HCAUSE n) = 4

theorem State.heldSafe_safeLoop_same (hn : n < 64) (hs : s.get (CLE_CFG_SINK n) = 1) : (s.safeLoop n).heldSafe n := by
  rw [State.safeLoop, if_pos hs]
  exact ⟨State.get_mode_holdLoop hn 4, State.get_hcause_holdLoop hn 4⟩

theorem State.get_safeLoop_other {k : Nat} (hk : k ≠ n) {f : Field}
    (hf : f = CLE_LSTATUS_MODE n ∨ f = CLE_LSTATUS_HCAUSE n ∨ f = CLE_CFG_SINK n) : (s.safeLoop k).get f = s.get f := by
  unfold State.safeLoop
  split
  · exact State.get_holdLoop_other hk 4 hf
  · rfl

theorem State.get_sink_safeLoop (k : Nat) : (s.safeLoop k).get (CLE_CFG_SINK n) = s.get (CLE_CFG_SINK n) := by
  by_cases hk : k = n
  · subst hk
    unfold State.safeLoop
    split
    · exact State.get_sink_holdLoop 4
    · rfl
  · exact State.get_safeLoop_other hk (.inr (.inr rfl))

theorem State.heldSafe_foldl_kept (hn : n < 64) (l : List Nat) (s : State) (hs : s.get (CLE_CFG_SINK n) = 1) (h : s.heldSafe n) :
    (l.foldl State.safeLoop s).heldSafe n := by
  induction l generalizing s with
  | nil => exact h
  | cons k l ih =>
    refine ih _ ((State.get_sink_safeLoop k).trans hs) ?_
    by_cases hk : k = n
    · rw [hk]
      exact State.heldSafe_safeLoop_same hn hs
    · obtain ⟨hmode, hcause⟩ := h
      exact ⟨(State.get_safeLoop_other hk (.inl rfl)).trans hmode, (State.get_safeLoop_other hk (.inr (.inl rfl))).trans hcause⟩

theorem State.heldSafe_foldl (hn : n < 64) {l : List Nat} (hl : n ∈ l) (s : State) (hs : s.get (CLE_CFG_SINK n) = 1) :
    (l.foldl State.safeLoop s).heldSafe n := by
  induction l generalizing s with
  | nil => exact absurd hl (List.not_mem_nil)
  | cons k l ih =>
    rcases List.mem_cons.mp hl with rfl | hl'
    · exact State.heldSafe_foldl_kept hn l _ ((State.get_sink_safeLoop n).trans hs) (State.heldSafe_safeLoop_same hn hs)
    · exact ih hl' _ ((State.get_sink_safeLoop k).trans hs)

/-- The ports whose schedule runs. -/
def State.runPorts (s : State) : List Nat := (List.range 4).filter fun p => s.on (CLE_LB_STATUS_RUN p)

/-- The loops and ports in the safe state, before the ramp generator takes them. -/
def State.loopsHeld (s : State) : State :=
  s.runPorts.foldl (fun t p => t.put (CLE_LB_STATUS_RUN p) 0) ((List.range 64).foldl State.safeLoop s)

/-- The ramp generator has the ports that ran. -/
def State.rampTaken (s : State) : State :=
  { s.loopsHeld.put FCL_STATUS_RAMPING 1 with cle := { s.loopsHeld.cle with ramp := s.runPorts, sent := [],
                                                                            missed := if s.loopsHeld.cle.rampLoops.isEmpty then 0 else s.loopsHeld.cle.missed } }

theorem State.safeLoops_eq (s : State) : s.safeLoops = if s.rampTaken.rampComplete = true then s.rampTaken.rampDone else s.rampTaken := rfl

theorem State.loopsHeld_parts : s.loopsHeld.parts = s.parts := by
  unfold State.loopsHeld
  rw [foldl_keeps (fun t : State => t.parts) (fun t p => (rfl : (t.put (CLE_LB_STATUS_RUN p) 0).parts = t.parts)) s.runPorts,
    foldl_keeps (fun t : State => t.parts) (fun t n => (State.safeLoop_parts : (t.safeLoop n).parts = t.parts)) (List.range 64)]

theorem State.safeLoops_parts : s.safeLoops.parts = s.parts := by
  rw [State.safeLoops_eq]
  split <;> exact State.loopsHeld_parts

theorem State.get_safeLoops {f : Field} (h : f.id ≠ FCL_STATUS_RAMPING.id) (h' : f.id ≠ FCL_STATUS_RAMPDONE.id) :
    s.safeLoops.get f = s.loopsHeld.get f := by
  have htaken : s.rampTaken.get f = s.loopsHeld.get f := s.loopsHeld.get_put_ne 1 h
  have hdone : s.rampTaken.rampDone.get f = ((s.rampTaken.put FCL_STATUS_RAMPING 0).put FCL_STATUS_RAMPDONE 1).get f := rfl
  rw [State.safeLoops_eq]
  split
  · rw [hdone, State.get_put_ne _ _ h', State.get_put_ne _ _ h, htaken]
  · exact htaken

theorem State.get_foldl_safeLoop_off {f : Field} (hf : f.off < 0x3C0000 ∨ 0x400000 ≤ f.off) (hlo : f.lo < 32) :
    ((List.range 64).foldl State.safeLoop s).get f = s.get f := by
  have h (l : List Nat) (hl : ∀ n ∈ l, n < 64) (t : State) : (l.foldl State.safeLoop t).get f = t.get f := by
    induction l generalizing t with
    | nil => rfl
    | cons n l ih =>
      exact (ih (fun k hk => hl k (List.mem_cons_of_mem n hk)) _).trans (State.get_safeLoop_off hf hlo (hl n List.mem_cons_self))
  exact h _ (fun n hn => List.mem_range.mp hn) s

/-- Stopping the ports leaves every field but their RUN. -/
theorem State.get_loopsHeld {f : Field} (hf : ∀ p < 4, f.id ≠ (CLE_LB_STATUS_RUN p).id) :
    s.loopsHeld.get f = ((List.range 64).foldl State.safeLoop s).get f := by
  have h (l : List Nat) (hl : ∀ p ∈ l, p < 4) (t : State) : (l.foldl (fun t p => t.put (CLE_LB_STATUS_RUN p) 0) t).get f = t.get f := by
    induction l generalizing t with
    | nil => rfl
    | cons p l ih =>
      exact (ih (fun k hk => hl k (List.mem_cons_of_mem p hk)) _).trans (State.get_put_ne _ _ (hf p (hl p List.mem_cons_self)))
  exact h _ (fun p hp => List.mem_range.mp (List.mem_filter.mp hp).1) _

theorem State.get_loopsHeld_off {f : Field} (hf : f.off < 0x3C0000 ∨ 0x400000 ≤ f.off) (hlo : f.lo < 32) : s.loopsHeld.get f = s.get f :=
  (State.get_loopsHeld fun p hp => by simp only [Field.id, CLE_LB_STATUS_RUN]; omega).trans (State.get_foldl_safeLoop_off hf hlo)

theorem State.heldSafe_loopsHeld (hn : n < 64) (hs : s.get (CLE_CFG_SINK n) = 1) : s.loopsHeld.heldSafe n := by
  obtain ⟨hmode, hcause⟩ := State.heldSafe_foldl hn (List.mem_range.mpr hn) s hs
  exact ⟨(State.get_loopsHeld fun p hp => by simp only [Field.id, CLE_LB_STATUS_RUN, CLE_LSTATUS_MODE]; omega).trans hmode,
    (State.get_loopsHeld fun p hp => by simp only [Field.id, CLE_LB_STATUS_RUN, CLE_LSTATUS_HCAUSE]; omega).trans hcause⟩

theorem State.get_run_safeLoop {p : Nat} (k : Nat) : (s.safeLoop k).get (CLE_LB_STATUS_RUN p) = s.get (CLE_LB_STATUS_RUN p) := by
  unfold State.safeLoop
  split
  · refine State.regsBut_holdLoop 4 _ ?_
    simp only [holdFields, List.mem_cons, List.not_mem_nil, or_false, forall_eq_or_imp, forall_eq, Field.id, CLE_LSTATUS_MODE, CLE_CTRL_MODE,
      CLE_LSTATUS_HCAUSE, CLE_TH_STATUS_HELD, CLE_TH_STATUS_DRIFT, CLE_TH_EXIT_LO, CLE_TH_EXIT_HI, CLE_LB_STATUS_RUN]
    omega
  · rfl

/-- No port runs its schedule once the ports are stopped. -/
theorem State.run_loopsHeld {p : Nat} (hp : p < 4) : s.loopsHeld.on (CLE_LB_STATUS_RUN p) = false := by
  have hloops : ((List.range 64).foldl State.safeLoop s).get (CLE_LB_STATUS_RUN p) = s.get (CLE_LB_STATUS_RUN p) :=
    foldl_keeps (fun t : State => t.get (CLE_LB_STATUS_RUN p)) (fun t k => (State.get_run_safeLoop k : _ = t.get (CLE_LB_STATUS_RUN p))) _ _
  have hkept (l : List Nat) (t : State) (ht : t.get (CLE_LB_STATUS_RUN p) = 0) :
      (l.foldl (fun t p => t.put (CLE_LB_STATUS_RUN p) 0) t).get (CLE_LB_STATUS_RUN p) = 0 := by
    induction l generalizing t with
    | nil => exact ht
    | cons q l ih =>
      refine ih _ ?_
      by_cases hq : q = p
      · rw [hq]
        exact State.get_put_same _ _ _
      · rwa [State.get_put_ne _ _ (by simp only [Field.id, CLE_LB_STATUS_RUN]; omega)]
  have hstop (l : List Nat) (hl : p ∈ l) (t : State) : (l.foldl (fun t p => t.put (CLE_LB_STATUS_RUN p) 0) t).get (CLE_LB_STATUS_RUN p) = 0 := by
    induction l generalizing t with
    | nil => exact absurd hl (List.not_mem_nil)
    | cons q l ih =>
      rcases List.mem_cons.mp hl with rfl | hl'
      · exact hkept l _ (State.get_put_same _ _ _)
      · exact ih hl' _
  rw [State.on_false]
  cases h : s.on (CLE_LB_STATUS_RUN p) with
  | true => exact hstop _ (List.mem_filter.mpr ⟨List.mem_range.mpr hp, h⟩) _
  | false =>
    rw [State.on_false] at h
    exact hkept _ _ (hloops.trans h)

end

/-! ## The safe state is entered (R736) -/

section
variable {s : State} {cause : Nat}

/-- The safe state as it shows, before it has its effects. -/
def State.safeShown (s : State) (cause : Nat) : State :=
  let s0 : State := { s with pins := { s.pins with syncUntil := 0 } }
  (((s0.put FCL_STATUS_SCAUSE cause).put FCL_STATUS_SAFE 1).put GRD_STATUS_SAFE 1).raise srcSafeEnter cause 0

/-- Every channel is tripped and the loops are held, before the playlist ends. -/
def State.safeTripped (s : State) (cause : Nat) : State := ((s.safeShown cause).tripEffects allChannels).safeLoops

theorem State.enterSafe_eq (h : s.inSafe = false) : s.enterSafe cause = (((s.safeTripped cause).recordAll 9).endPlaylist 0xE).loseCommit :=
  if_neg (by simp [h])

theorem State.aside_enterSafe (h : s.inSafe = false) : (s.enterSafe cause).aside false = (s.safeTripped cause).aside false := by
  rw [State.enterSafe_eq h]
  simp

theorem State.agrees_safeShown_tripped : (s.safeShown cause).agrees ((s.safeShown cause).tripEffects allChannels) :=
  State.agrees_tripEffects fun _ hc => allChannels_lt hc

/-- Beside the pins no record of those changes with the safe state. -/
theorem State.parts_enterSafe (h : s.inSafe = false) : (s.enterSafe cause).parts = (s.safeShown cause).parts :=
  (congrArg (·.2.1) (State.aside_enterSafe h)).trans (State.safeLoops_parts.trans (congrArg (·.1) State.agrees_safeShown_tripped))

/-- The fields that tell of the safe state. -/
def safeFields : List Field := [FCL_STATUS_SCAUSE, FCL_STATUS_SAFE, GRD_STATUS_SAFE, FCL_STATUS_RAMPING, FCL_STATUS_RAMPDONE]

theorem State.get_safeTripped {f : Field} (hf : f.beyond false = true) (hoff : f.off < 0x3C0000 ∨ 0x400000 ≤ f.off) (hlo : f.lo < 32)
    (h : f.id ≠ FCL_STATUS_RAMPING.id) (h' : f.id ≠ FCL_STATUS_RAMPDONE.id) : (s.safeTripped cause).get f = (s.safeShown cause).get f := by
  rw [State.safeTripped, State.get_safeLoops h h', State.get_loopsHeld_off hoff hlo, State.agrees_safeShown_tripped.get hf]

theorem State.get_enterSafe_shown (hs : s.inSafe = false) {f : Field} (hf : f.beyond false = true) (hoff : f.off < 0x3C0000 ∨ 0x400000 ≤ f.off)
    (hlo : f.lo < 32) (h : f.id ≠ FCL_STATUS_RAMPING.id) (h' : f.id ≠ FCL_STATUS_RAMPDONE.id) :
    (s.enterSafe cause).get f = (s.safeShown cause).get f :=
  ((State.agrees.of_aside (State.aside_enterSafe hs)).get hf).trans (State.get_safeTripped hf hoff hlo h h')

theorem State.enterSafe_scause (hs : s.inSafe = false) : (s.enterSafe cause).get FCL_STATUS_SCAUSE = cause % 16 := by
  rw [State.get_enterSafe_shown hs (by decide) (by decide) (by decide) (by decide) (by decide), State.safeShown, State.get_raise,
    State.get_put_ne _ _ (by decide), State.get_put_ne _ _ (by decide), State.get_put_same]
  rfl

theorem State.enterSafe_guardSafe (hs : s.inSafe = false) : (s.enterSafe cause).on GRD_STATUS_SAFE = true := by
  rw [State.on_true, State.get_enterSafe_shown hs (by decide) (by decide) (by decide) (by decide) (by decide), State.safeShown, State.get_raise,
    State.get_put_same]
  decide

theorem State.enterSafe_inSafe (s : State) (cause : Nat) : (s.enterSafe cause).inSafe = true := by
  cases hs : s.inSafe with
  | true => rw [State.enterSafe_of_inSafe cause hs, hs]
  | false =>
    rw [State.inSafe, State.on_true, State.get_enterSafe_shown hs (by decide) (by decide) (by decide) (by decide) (by decide), State.safeShown,
      State.get_raise, State.get_put_ne _ _ (by decide), State.get_put_same]
    decide

/-- The registers that the safe state leaves, whether it is entered or stands already. -/
theorem State.get_enterSafe {f : Field} (hf : f.beyond false = true) (hoff : f.off < 0x3C0000 ∨ 0x400000 ≤ f.off) (hlo : f.lo < 32)
    (h : ∀ g ∈ safeFields, f.id ≠ g.id) : (s.enterSafe cause).get f = s.get f := by
  obtain ⟨hcause, hsafe, hguard, hramp, hdone⟩ : f.id ≠ FCL_STATUS_SCAUSE.id ∧ f.id ≠ FCL_STATUS_SAFE.id ∧ f.id ≠ GRD_STATUS_SAFE.id ∧
    f.id ≠ FCL_STATUS_RAMPING.id ∧ f.id ≠ FCL_STATUS_RAMPDONE.id := by simpa [safeFields] using h
  cases hs : s.inSafe with
  | true => rw [State.enterSafe_of_inSafe cause hs]
  | false =>
    rw [State.get_enterSafe_shown hs hf hoff hlo hramp hdone, State.safeShown, State.get_raise, State.get_put_ne _ _ hguard,
      State.get_put_ne _ _ hsafe, State.get_put_ne _ _ hcause]
    rfl

theorem State.grd_enterSafe : (s.enterSafe cause).grd = s.grd := by
  cases hs : s.inSafe with
  | true => rw [State.enterSafe_of_inSafe cause hs]
  | false => exact congrArg (·.1) (State.parts_enterSafe hs)

theorem State.frz_enterSafe : (s.enterSafe cause).frz = s.frz := by
  cases hs : s.inSafe with
  | true => rw [State.enterSafe_of_inSafe cause hs]
  | false => exact congrArg (·.2.1) (State.parts_enterSafe hs)

theorem State.evr_enterSafe : (s.enterSafe cause).evr = s.evr := by
  cases hs : s.inSafe with
  | true => rw [State.enterSafe_of_inSafe cause hs]
  | false => exact congrArg (·.2.2.1) (State.parts_enterSafe hs)

theorem State.safeLoops_land : s.safeLoops.land = s.land := by
  have hhold (t : State) (n : Nat) : (t.safeLoop n).land = t.land := by
    unfold State.safeLoop State.holdLoop State.heldCheck State.heldEnd
    split
    · split
      · split <;> rfl
      · rfl
    · rfl
  have hheld : s.loopsHeld.land = s.land := by
    unfold State.loopsHeld
    rw [foldl_keeps (fun t : State => t.land) (fun t p => (rfl : (t.put (CLE_LB_STATUS_RUN p) 0).land = t.land)) s.runPorts,
      foldl_keeps (fun t : State => t.land) hhold (List.range 64)]
  rw [State.safeLoops_eq]
  split <;> exact hheld

theorem State.chan_enterSafe (hs : s.inSafe = false) (c : Nat) :
    (s.enterSafe cause).chan c = ((s.safeShown cause).tripEffects allChannels).chan c :=
  (State.chans_of_aside (State.aside_enterSafe hs) c).trans
    (congrArg (fun l : LandState => Assoc.get ChanLand.reset l.chans c) State.safeLoops_land)

theorem State.drv_enterSafe (hs : s.inSafe = false) {c : Nat} (hc : c < 256) : ((s.enterSafe cause).chan c).drv = 0 := by
  rw [State.chan_enterSafe hs]
  exact State.drv_tripEffects (fun _ hc => allChannels_lt hc) (mem_allChannels hc)

theorem State.drv_enterSafe_kept {c : Nat} (h : (s.chan c).drv = 0) : ((s.enterSafe cause).chan c).drv = 0 := by
  cases hs : s.inSafe with
  | true => rwa [State.enterSafe_of_inSafe cause hs]
  | false =>
    rw [State.chan_enterSafe hs]
    exact State.drv_tripEffects_kept (fun _ hc => allChannels_lt hc) h

theorem State.enterSafe_awaits_of_shown (hs : s.inSafe = false) {x : Raised} (hx : (s.safeShown cause).awaits x) : (s.enterSafe cause).awaits x := by
  have htripped : (s.safeTripped cause).awaits x := State.safeLoops_awaits _ (State.tripEffects_awaits _ _ hx)
  rw [State.enterSafe_eq hs]
  exact State.loseCommit_awaits _ (State.endPlaylist_awaits _ _ (by rwa [State.recordAll_awaits]))

theorem State.enterSafe_awaits {x : Raised} (h : s.awaits x) : (s.enterSafe cause).awaits x := by
  cases hs : s.inSafe with
  | true => rwa [State.enterSafe_of_inSafe cause hs]
  | false => exact State.enterSafe_awaits_of_shown hs (State.raise_awaits _ _ _ _ (by simpa using h))

theorem State.enterSafe_tells (hs : s.inSafe = false) : ∃ x, (s.enterSafe cause).awaits x ∧ x.src = srcSafeEnter ∧ x.arg = cause % 2 ^ 16 := by
  obtain ⟨x, hx, hsrc, harg⟩ : ∃ x, (s.safeShown cause).awaits x ∧ x.src = srcSafeEnter ∧ x.arg = cause % 2 ^ 16 := State.raise_tells _ _ _ _
  exact ⟨x, State.enterSafe_awaits_of_shown hs hx, hsrc, harg⟩

theorem State.enterSafe_running (hs : s.inSafe = false) : (s.enterSafe cause).seq.running = none := by
  rw [State.enterSafe_eq hs, State.loseCommit_running, State.endPlaylist_running]

end

end Sys2Proof.Machine
end

