-- ==== Sys2Proof/Proofs/SafeState.lean ====
section
/-! SUPPORT. The ramp generator, the end of the playlist in the safe state, and the rail monitor that disconnects; then the statement on the safe
state. -/

namespace Sys2Proof.Machine

/-! ## The playlist that the safe state ends -/

section
variable {s : State} {cause c : Nat}

theorem State.calTrip_seq : (s.calTrip c).seq = s.seq := by
  unfold State.calTrip
  split
  · rfl
  · simp only [State.calEnded]
    split <;> split <;> rfl

theorem State.pmuTrip_seq : (s.pmuTrip c).seq = s.seq := by
  simp only [State.pmuTrip]
  split <;> rfl

theorem State.tripChannel_seq : (s.tripChannel c).seq = s.seq := by
  rw [State.tripChannel, State.calTrip_seq, State.pmuTrip_seq, State.setChan_seq]

theorem State.tiuInterrupt_seq (p : Nat → Bool) : (s.tiuInterrupt p).seq = s.seq := by
  refine foldl_keeps State.seq (fun t n => ?_) _ _
  split <;> rfl

theorem State.tripEffects_seq (cs : List Nat) : (s.tripEffects cs).seq = s.seq := by
  rw [State.tripEffects, State.recordCause_seq, State.tiuInterrupt_seq]
  exact foldl_keeps State.seq (fun t c => State.tripChannel_seq) _ _

theorem State.heldCheck_seq (n : Nat) : (s.heldCheck n).seq = s.seq := by
  unfold State.heldCheck State.heldEnd
  split
  · split <;> rfl
  · rfl

theorem State.safeLoop_seq (n : Nat) : (s.safeLoop n).seq = s.seq := by
  unfold State.safeLoop State.holdLoop
  split
  · rw [State.heldCheck_seq]
    rfl
  · rfl

theorem State.loopsHeld_seq : s.loopsHeld.seq = s.seq := by
  unfold State.loopsHeld
  rw [foldl_keeps State.seq (fun t p => (rfl : (t.put (CLE_LB_STATUS_RUN p) 0).seq = t.seq)) s.runPorts,
    foldl_keeps State.seq (fun t n => t.safeLoop_seq n) (List.range 64)]

theorem State.safeLoops_seq : s.safeLoops.seq = s.seq := by
  rw [State.safeLoops_eq]
  split <;> exact State.loopsHeld_seq

theorem State.safeTripped_seq : (s.safeTripped cause).seq = s.seq := by
  rw [State.safeTripped, State.safeLoops_seq, State.tripEffects_seq]
  rfl

theorem State.enterSafe_reason (hs : s.inSafe = false) (h : s.seq.running ≠ none) : (s.enterSafe cause).get SEQ_STOP_REASON = 0xE := by
  have hrun : ((s.safeTripped cause).recordAll 9).seq.running ≠ none := by
    rwa [State.recordAll_seq, State.safeTripped_seq]
  obtain ⟨u, hu, hreason⟩ := State.endPlaylist_reason _ 0xE hrun
  have hlost := (State.loseCommit_aside (mark := true) (((s.safeTripped cause).recordAll 9).endPlaylist 0xE)).trans hu
  have hget := congrFun (congrArg (·.2.2) hlost : regsBeyond true _ = regsBeyond true u.cells) SEQ_STOP_REASON
  rw [State.enterSafe_eq hs]
  rw [regsBeyond, regsBeyond, if_pos (by decide), if_pos (by decide)] at hget
  exact hget.trans hreason

theorem State.get_enterSafe_loop (hs : s.inSafe = false) {f : Field} (hf : f.beyond false = true) (h : f.id ≠ FCL_STATUS_RAMPING.id)
    (h' : f.id ≠ FCL_STATUS_RAMPDONE.id) : (s.enterSafe cause).get f = ((s.safeShown cause).tripEffects allChannels).loopsHeld.get f :=
  ((State.agrees.of_aside (State.aside_enterSafe hs)).get hf).trans (State.get_safeLoops h h')

theorem Field.beyond_of_cle {f : Field} (hlo : f.lo < 32) (hoff : 0x3C0000 ≤ f.off ∧ f.off < 0x400000) : f.beyond false = true := by
  simp only [Field.beyond, Machine.beyond, Bool.and_eq_true, Bool.or_eq_true, decide_eq_true_eq]
  exact ⟨hlo, .inl (.inl (.inr ⟨by omega, by omega⟩))⟩

theorem State.get_sink_safeShown {n : Nat} (hn : n < 64) :
    ((s.safeShown cause).tripEffects allChannels).get (CLE_CFG_SINK n) = s.get (CLE_CFG_SINK n) := by
  rw [State.agrees_safeShown_tripped.get (Field.beyond_of_cle (by decide : 23 < 32) (by simp only [CLE_CFG_SINK]; omega)), State.safeShown,
    State.get_raise, State.get_put_ne _ _ (by simp only [Field.id, CLE_CFG_SINK, GRD_STATUS_SAFE]; omega),
    State.get_put_ne _ _ (by simp only [Field.id, CLE_CFG_SINK, FCL_STATUS_SAFE]; omega),
    State.get_put_ne _ _ (by simp only [Field.id, CLE_CFG_SINK, FCL_STATUS_SCAUSE]; omega)]
  rfl

/-- The safe state holds every loop with a loop-bus sink. -/
theorem State.enterSafe_heldSafe (hs : s.inSafe = false) {n : Nat} (hn : n < 64) (hsink : s.get (CLE_CFG_SINK n) = 1) :
    (s.enterSafe cause).heldSafe n := by
  obtain ⟨hmode, hcause⟩ := State.heldSafe_loopsHeld hn ((State.get_sink_safeShown (cause := cause) hn).trans hsink)
  constructor
  · refine (State.get_enterSafe_loop hs (Field.beyond_of_cle (by decide : 28 < 32) ?_) ?_ ?_).trans hmode <;>
      simp only [CLE_LSTATUS_MODE, Field.id, FCL_STATUS_RAMPING, FCL_STATUS_RAMPDONE] <;> omega
  · refine (State.get_enterSafe_loop hs (Field.beyond_of_cle (by decide : 25 < 32) ?_) ?_ ?_).trans hcause <;>
      simp only [CLE_LSTATUS_HCAUSE, Field.id, FCL_STATUS_RAMPING, FCL_STATUS_RAMPDONE] <;> omega

theorem State.enterSafe_run (hs : s.inSafe = false) {p : Nat} (hp : p < 4) : (s.enterSafe cause).on (CLE_LB_STATUS_RUN p) = false := by
  have hget : (s.enterSafe cause).get (CLE_LB_STATUS_RUN p) = ((s.safeShown cause).tripEffects allChannels).loopsHeld.get (CLE_LB_STATUS_RUN p) := by
    refine State.get_enterSafe_loop hs (Field.beyond_of_cle (by decide : 29 < 32) ?_) ?_ ?_ <;>
      simp only [CLE_LB_STATUS_RUN, Field.id, FCL_STATUS_RAMPING, FCL_STATUS_RAMPDONE] <;> omega
  rw [State.on, hget]
  exact State.run_loopsHeld hp

theorem State.enterSafe_mem : (s.enterSafe cause).mem = s.mem := congrArg (·.2.1) (s.enterSafe_fixed cause)

theorem State.tripped_of_inSafe (h : s.inSafe = true) (c : Nat) : s.tripped c = true := by
  simp [State.tripped, State.allTripped, h]

end

/-! ## The ramp generator (R737, R738) -/

section
variable {s : State} {p : Fin 4} {i : Fin 32}

theorem execRampWrite_none (h : s.isWrite p.val i.val = false ∨ s.rampFrame % (s.get (CLE_LB_CTRL_L p.val) + 1) ≠ i.val ∨
    s.lbCarried p.val s.rampFrame = true ∨
      s.cle.ramp.contains p.val = false ∧ s.cle.rampLoops.contains (s.get (CLE_LB_SCHED_LOOP p.val i.val)) = false) :
    execRampWrite p i s = .next s := by
  unfold execRampWrite
  by_cases hskip : s.isWrite p.val i.val = false ∨ s.rampFrame % (s.get (CLE_LB_CTRL_L p.val) + 1) ≠ i.val ∨ s.lbCarried p.val s.rampFrame = true
  · exact if_pos (by simpa [or_assoc] using hskip)
  · obtain ⟨hramp, hloop⟩ : s.cle.ramp.contains p.val = false ∧ s.cle.rampLoops.contains (s.get (CLE_LB_SCHED_LOOP p.val i.val)) = false := by
      tauto
    refine (if_neg (by simpa [or_assoc] using hskip)).trans ?_
    rw [if_neg (by simp only [hramp]; decide), if_neg (by simp only [hloop]; decide)]

theorem execRampWrite_sends (hw : s.isWrite p.val i.val = true) (hf : s.rampFrame % (s.get (CLE_LB_CTRL_L p.val) + 1) = i.val)
    (hc : s.lbCarried p.val s.rampFrame = false) {u : State} (hu : u = (s.lbCarry p.val s.rampFrame).rampEntry p.val i.val) :
    execRampWrite p i s = if s.cle.ramp.contains p.val = true then .next (if u.rampComplete = true then u.rampDone else u)
      else if s.cle.rampLoops.contains (s.get (CLE_LB_SCHED_LOOP p.val i.val)) = true then .next u else .next s := by
  subst hu
  unfold execRampWrite
  exact if_neg (by simp [hw, hf, hc])

end

section
variable {s : State} {p i : Nat}

theorem State.get_code_rampEntry : (s.rampEntry p i).get (CLE_CODE (s.get (CLE_LB_SCHED_LOOP p i))) = s.rampCode p i % 2 ^ 32 :=
  State.get_put_same _ _ _

theorem State.regsBut_rampEntry : s.regsBut (s.rampEntry p i) [CLE_CODE (s.get (CLE_LB_SCHED_LOOP p i))] := fun _ hf =>
  State.get_put_ne _ _ (hf _ List.mem_cons_self)

/-- An entry that sends its target is noted as having sent it. -/
theorem State.sent_rampEntry (h : s.rampCode p i = s.rampTarget (s.get (CLE_LB_SCHED_LOOP p i))) : 32 * p + i ∈ (s.rampEntry p i).cle.sent := by
  have hsent : (s.rampEntry p i).cle.sent = if s.rampCode p i = s.rampTarget (s.get (CLE_LB_SCHED_LOOP p i)) then insertNat (32 * p + i) s.cle.sent
    else s.cle.sent := rfl
  rw [hsent, if_pos h]
  exact mem_insertNat.mpr (.inl rfl)

theorem State.rampComplete_iff : s.rampComplete = true ↔ ∀ q ∈ s.cle.ramp, ∀ j < 32, s.isWrite q j = true → 32 * q + j ∈ s.cle.sent := by
  simp only [State.rampComplete, List.all_eq_true, List.mem_range, Bool.or_eq_true, Bool.not_eq_true', List.contains_iff_mem]
  refine forall₂_congr fun q _ => forall₂_congr fun j _ => ?_
  cases s.isWrite q j <;> simp

theorem State.rampCode_eq {c : Nat} (h : s.cle.codes.find? (fun e => e.1 == 32 * p + i) = some (32 * p + i, c)) :
    s.rampCode p i = toward (s.rampTarget (s.get (CLE_LB_SCHED_LOOP p i))) (s.rampStep (s.get (CLE_LB_SCHED_LOOP p i))) c := by
  simp only [State.rampCode, h]

theorem toward_below {t step c : Nat} (h : c ≤ t) : c ≤ toward t step c ∧ toward t step c ≤ t ∧ (toward t step c = t ∨ toward t step c = c + step) := by
  unfold toward
  split <;> omega

theorem toward_above {t step c : Nat} (h : t ≤ c) : t ≤ toward t step c ∧ toward t step c ≤ c ∧ (toward t step c = t ∨ c = toward t step c + step) := by
  unfold toward
  split <;> omega

end

/-! ## A logic rail below its range (R41) -/

section
variable {s : State} {c d : Nat}

/-- The driver and the PMU of one channel are disconnected. -/
def State.disconnect (s : State) (c : Nat) : State := (s.setChan c { s.chan c with drv := 0 }).pmuTrip c

theorem execRail_low : execRailUndervoltDisconnect true s =
    .next { allChannels.foldl State.disconnect s with
      pins := { (allChannels.foldl State.disconnect s).pins with railLow := true, railLeft := true } } := by
  unfold execRailUndervoltDisconnect
  generalize allChannels = l
  rfl

theorem State.disconnect_keeps : (s.disconnect c).pins = s.pins ∧ (s.disconnect c).seq = s.seq ∧ (s.disconnect c).raised = s.raised ∧
    (s.disconnect c).mem = s.mem := by
  simp only [State.disconnect, State.pmuTrip]
  split <;> exact ⟨rfl, rfl, rfl, rfl⟩

theorem State.get_pmuTrip {f : Field} (h : f.id ≠ (PMU_STATUS_CONN (c / 8)).id) (h' : f.id ≠ (PMU_STATUS_END (c / 8)).id) :
    (s.pmuTrip c).get f = s.get f := by
  simp only [State.pmuTrip]
  split
  · rw [State.get_put_ne _ _ h', State.get_put_ne _ _ h]
    rfl
  · rfl

theorem State.get_disconnect {f : Field} (h : f.id ≠ (PMU_STATUS_CONN (c / 8)).id) (h' : f.id ≠ (PMU_STATUS_END (c / 8)).id) :
    (s.disconnect c).get f = s.get f := State.get_pmuTrip h h'

theorem State.get_foldl_disconnect {f : Field} (hf : ∀ n < 32, f.id ≠ (PMU_STATUS_CONN n).id ∧ f.id ≠ (PMU_STATUS_END n).id) (l : List Nat)
    (hl : ∀ c ∈ l, c < 256) (s : State) : (l.foldl State.disconnect s).get f = s.get f := by
  induction l generalizing s with
  | nil => rfl
  | cons c l ih =>
    have hc := hl c List.mem_cons_self
    obtain ⟨h, h'⟩ := hf (c / 8) (by omega)
    exact (ih (fun d hd => hl d (List.mem_cons_of_mem c hd)) _).trans (State.get_disconnect h h')

theorem State.chan_disconnect : (s.disconnect c).chan d = if d = c then { s.chan c with drv := 0 } else s.chan d := by
  have hland : (s.disconnect c).chan d = (s.setChan c { s.chan c with drv := 0 }).chan d := by
    simp only [State.disconnect, State.pmuTrip]
    split <;> rfl
  rw [hland]
  split
  · next h => rw [h, State.chan_setChan_same]
  · next h => exact State.chan_setChan_ne _ _ h

theorem State.drv_foldl_disconnect_kept (l : List Nat) (s : State) (h : (s.chan d).drv = 0) : ((l.foldl State.disconnect s).chan d).drv = 0 := by
  induction l generalizing s with
  | nil => exact h
  | cons c l ih =>
    refine ih _ ?_
    rw [State.chan_disconnect]
    split
    · rfl
    · exact h

theorem State.drv_foldl_disconnect (l : List Nat) (hd : d ∈ l) (s : State) : ((l.foldl State.disconnect s).chan d).drv = 0 := by
  induction l generalizing s with
  | nil => exact absurd hd (List.not_mem_nil)
  | cons c l ih =>
    rcases List.mem_cons.mp hd with rfl | hd'
    · exact State.drv_foldl_disconnect_kept l _ (by rw [State.chan_disconnect, if_pos rfl])
    · exact ih hd' _

/-- A channel's own PMU is off after its trip. -/
theorem State.pmuOn_disconnect_same : (s.disconnect c).pmuOn c = false := by
  have hpmu : (s.setChan c { s.chan c with drv := 0 }).pmuOn c = s.pmuOn c := rfl
  simp only [State.disconnect, State.pmuTrip]
  split
  · have hoff (t : State) : ((t.put (PMU_STATUS_CONN (c / 8)) 0).put (PMU_STATUS_END (c / 8)) 1).on (PMU_STATUS_CONN (c / 8)) = false := by
      rw [State.on_false, State.get_put_ne _ _ (by simp only [Field.id, PMU_STATUS_CONN, PMU_STATUS_END]; omega), State.get_put_same]
      rfl
    rw [State.pmuOn, hoff, Bool.false_and]
  · next h =>
    simp only [Bool.or_eq_true, not_or] at h
    exact (Bool.not_eq_true _).mp h.1

/-- A channel whose PMU is off stays so while others are disconnected. -/
theorem State.pmuOn_disconnect_kept (h : s.pmuOn d = false) : (s.disconnect c).pmuOn d = false := by
  simp only [State.disconnect, State.pmuTrip]
  split
  · by_cases hn : d / 8 = c / 8
    · have hoff (t : State) : ((t.put (PMU_STATUS_CONN (c / 8)) 0).put (PMU_STATUS_END (c / 8)) 1).on (PMU_STATUS_CONN (d / 8)) = false := by
        rw [hn, State.on_false, State.get_put_ne _ _ (by simp only [Field.id, PMU_STATUS_CONN, PMU_STATUS_END]; omega), State.get_put_same]
        rfl
      rw [State.pmuOn, hoff, Bool.false_and]
    · have hget (t : State) {f : Field} (hf : f = PMU_STATUS_CONN (d / 8) ∨ f = PMU_CTRL_CH (d / 8)) :
          ((t.put (PMU_STATUS_CONN (c / 8)) 0).put (PMU_STATUS_END (c / 8)) 1).get f = t.get f := by
        rcases hf with rfl | rfl <;>
        · rw [State.get_put_ne _ _ (by simp only [Field.id, PMU_STATUS_CONN, PMU_STATUS_END, PMU_CTRL_CH]; omega),
            State.get_put_ne _ _ (by simp only [Field.id, PMU_STATUS_CONN, PMU_CTRL_CH]; omega)]
      rw [State.pmuOn, State.on, hget _ (.inl rfl), hget _ (.inr rfl)]
      exact h
  · exact h

theorem State.pmuOn_foldl_disconnect_kept (l : List Nat) (s : State) (h : s.pmuOn d = false) : (l.foldl State.disconnect s).pmuOn d = false := by
  induction l generalizing s with
  | nil => exact h
  | cons c l ih => exact ih _ (State.pmuOn_disconnect_kept h)

theorem State.pmuOn_foldl_disconnect (l : List Nat) (hd : d ∈ l) (s : State) : (l.foldl State.disconnect s).pmuOn d = false := by
  induction l generalizing s with
  | nil => exact absurd hd (List.not_mem_nil)
  | cons c l ih =>
    rcases List.mem_cons.mp hd with rfl | hd'
    · exact State.pmuOn_foldl_disconnect_kept l _ State.pmuOn_disconnect_same
    · exact ih hd' _

theorem State.foldl_disconnect_keeps (l : List Nat) (s : State) : (l.foldl State.disconnect s).pins = s.pins ∧
    (l.foldl State.disconnect s).seq = s.seq ∧ (l.foldl State.disconnect s).raised = s.raised ∧ (l.foldl State.disconnect s).mem = s.mem :=
  ⟨foldl_keeps State.pins (fun _ _ => State.disconnect_keeps.1) l s, foldl_keeps State.seq (fun _ _ => State.disconnect_keeps.2.1) l s,
    foldl_keeps State.raised (fun _ _ => State.disconnect_keeps.2.2.1) l s, foldl_keeps State.mem (fun _ _ => State.disconnect_keeps.2.2.2) l s⟩

theorem execRailUndervolt_low : Completes (execRailUndervoltDisconnect true s) fun t => t.pins = { s.pins with railLow := true, railLeft := true } ∧
    (∀ c < 256, (t.chan c).drv = 0) ∧ (∀ c < 256, t.pmuOn c = false) ∧ t.safeLow = true ∧
    (∀ f : Field, (∀ n < 32, f.id ≠ (PMU_STATUS_CONN n).id ∧ f.id ≠ (PMU_STATUS_END n).id) → t.get f = s.get f) ∧
    t.seq = s.seq ∧ t.raised = s.raised ∧ t.mem = s.mem := by
  have hin {c : Nat} (hc : c < 256) : c ∈ allChannels := mem_allChannels hc
  have hlt (c : Nat) (hc : c ∈ allChannels) : c < 256 := allChannels_lt hc
  have hlow := execRail_low (s := s)
  generalize allChannels = l at hin hlt hlow
  obtain ⟨hpins, hseq, hraised, hmem⟩ := State.foldl_disconnect_keeps l s
  refine completes_of_eq hlow ⟨by rw [hpins], fun c hc => State.drv_foldl_disconnect l (hin hc) s, fun c hc => State.pmuOn_foldl_disconnect l (hin hc) s, ?_,
    fun f hf => State.get_foldl_disconnect hf l hlt s, hseq, hraised, hmem⟩
  simp [State.safeLow]

end

/-! ## HBM in service (R671, R672, R782) -/

section
variable {s : State} {r : Req}

theorem effHbcInserviceSet_host (h : r = .host) (b : Bool) : effHbcInserviceSet r b s = .next s := if_pos h

theorem effHbcInserviceSet_untrained (h : r ≠ .host) : effHbcInserviceSet r false s = .next (s.put HBC_STATUS_RETREF 1) := if_neg h

theorem effHbcInserviceSet_trained (h : r ≠ .host) : effHbcInserviceSet r true s =
    .next ((s.put HBC_CTRL_INSERVICE 1).put HBC_STATUS_INSERVICE 1).startCycles.toBudding := if_neg h

/-- HBM goes into service with its cycles from now on. -/
def State.serves (s : State) : State := ((s.put HBC_CTRL_INSERVICE 1).put HBC_STATUS_INSERVICE 1).startCycles

theorem State.get_serves_put (f : Field) : s.serves.get f = ((s.put HBC_CTRL_INSERVICE 1).put HBC_STATUS_INSERVICE 1).get f := rfl

theorem State.get_serves {f : Field} (h : f.id ≠ HBC_CTRL_INSERVICE.id) (h' : f.id ≠ HBC_STATUS_INSERVICE.id) : s.serves.get f = s.get f := by
  rw [State.get_serves_put, State.get_put_ne _ _ h', State.get_put_ne _ _ h]

theorem State.serves_on : s.serves.on HBC_STATUS_INSERVICE = true := by
  rw [State.on_true, State.get_serves_put, State.get_put_same]
  decide

theorem State.gateOpen_serves : s.serves.gateOpen = s.gateOpen := by
  rw [State.gateOpen, State.on, State.get_serves (by decide) (by decide)]
  rfl

theorem State.toBudding_serves (hst : s.get PMG_STATUS_STATE = 0) (hg : s.gateOpen = true) :
    s.serves.toBudding = (s.serves.put PMG_STATUS_STATE 2).raise srcPmgState 2 0 := by
  have hstate : s.serves.get PMG_STATUS_STATE = 0 := (State.get_serves (by decide) (by decide)).trans hst
  rw [State.toBudding, if_pos (by simp [hstate, State.gateOpen_serves, hg, State.serves_on]), State.enterState, if_neg (by rw [hstate]; decide)]

theorem State.toBudding_serves_not (h : s.get PMG_STATUS_STATE ≠ 0 ∨ s.gateOpen = false) : s.serves.toBudding = s.serves := by
  have hstate : s.serves.get PMG_STATUS_STATE = s.get PMG_STATUS_STATE := State.get_serves (by decide) (by decide)
  refine if_neg ?_
  rw [hstate, State.gateOpen_serves]
  rcases h with h | h <;> simp [h]

end

end Sys2Proof.Machine

namespace Sys2Proof.Proofs
open Sys2Proof.Machine

/-- Settles O52: the ramp generator by what stands in the way of its write, the safe state by its parts in order, and HBM by who takes it into
service. -/
theorem safeState : Obligations.SafeState := by
  unfold Obligations.SafeState
  refine ⟨fun s p i n f hn hf => ?ramp, fun s p i n t hn ht => ?entry, fun s => ⟨rfl, State.rampComplete_iff⟩, fun s p i c h => ?code,
    fun s r => ⟨fun hs => ?again, fun hs => ?enters⟩, fun s => ⟨rfl, execRailUndervolt_low⟩, fun s r b hr => ?service⟩
  case ramp =>
    subst hn hf
    rw [exec_rampWrite]
    refine ⟨execRampWrite_none, fun hw hfr hc u hu => ?_⟩
    rw [execRampWrite_sends hw hfr hc hu]
    exact ⟨fun h => by rw [if_pos h]; exact ⟨fun hd => congrArg _ (if_pos hd), fun hd => congrArg _ (if_neg (by simp [hd]))⟩,
      fun h hl => by rw [if_neg (by rw [h]; decide), if_pos hl]⟩
  case entry =>
    subst hn ht
    exact ⟨State.get_code_rampEntry, rfl, rfl, State.sent_rampEntry, State.regsBut_rampEntry, rfl, rfl⟩
  case code =>
    rw [State.rampCode_eq h]
    exact ⟨toward_below, toward_above⟩
  case again =>
    rw [exec_pwrSeqErr, execPwrSeqErr, State.enterSafe_of_inSafe 3 hs]
  case enters =>
    refine completes_of_eq (exec_pwrSeqErr r s) ?_
    obtain ⟨e, he, hsrc, harg⟩ := State.enterSafe_tells (cause := 3) hs
    refine ⟨State.enterSafe_inSafe s 3, State.enterSafe_scause hs, State.enterSafe_guardSafe hs,
      ⟨e, State.raise_awaits _ _ _ _ he, hsrc, harg⟩, ?_, fun c hc => ⟨State.tripped_of_inSafe (State.enterSafe_inSafe s 3) c, State.drv_enterSafe hs hc⟩,
      State.enterSafe_running hs, State.enterSafe_reason hs, fun n hn hsink => State.enterSafe_heldSafe hs hn hsink,
      fun p hp => State.enterSafe_run hs hp, State.enterSafe_mem⟩
    obtain ⟨x, hx, hxsrc, hxarg⟩ := (s.enterSafe 3).raise_tells srcPwrSeqErr r.val 0
    exact ⟨x, hx, hxsrc, hxarg.trans (Nat.mod_eq_of_lt (by omega))⟩
  case service =>
    rw [exec_hbcInserviceSet, execHbcInserviceSet, State.reachReg_of_reaches _ hr]
    refine ⟨fun h => effHbcInserviceSet_host h b, fun h hb => hb ▸ effHbcInserviceSet_untrained h, fun h hb u hu => ?_, rfl, rfl⟩
    have hserves : u = s.serves := hu
    subst hb hserves
    rw [effHbcInserviceSet_trained h]
    exact ⟨fun hst hg => congrArg _ (State.toBudding_serves hst hg), fun h => congrArg _ (State.toBudding_serves_not h)⟩

end Sys2Proof.Proofs
end

