-- ==== Sys2Proof/Proofs/LoopControl.lean ====
section
/-! SUPPORT. The loops: their owners, their modes, what an evaluation with and without an input leaves, and the thermal frame; then the statement on
loop control. It builds on the rules of the loop bus for registers of a domain that is off. -/

namespace Sys2Proof.Machine

/-! ## Ownership (R530, R770) -/

section
variable {s : State} {r : Req} {n : Nat} {k : State → State}

theorem State.loopOwned_off (h : s.domOn 15 = false) : s.loopOwned r n k = s.incSat PMG_NOFFWR := State.inDomain_off h

theorem State.loopOwned_other (h : s.domOn 15 = true) (ho : s.get (CLE_LSTATUS_OWNER n) ≠ cleWho r) :
    s.loopOwned r n k = s.incSat CLE_WREFUSED := (State.inDomain_on h).trans (if_neg ho)

theorem State.loopOwned_own (h : s.domOn 15 = true) (ho : s.get (CLE_LSTATUS_OWNER n) = cleWho r) : s.loopOwned r n k = k s :=
  (State.inDomain_on h).trans (if_pos ho)

end

section
variable {s : State} {r : Req} {n : Fin 64} {m : Fin 4} {b : Bool}

theorem effLoopTake_off (h : s.domOn 15 = false) : effLoopTake r n s = .next (s.incSat PMG_NOFFWR) := congrArg _ (State.inDomain_off h)

theorem effLoopTake_free (h : s.domOn 15 = true) (ho : s.get (CLE_LSTATUS_OWNER n.val) = 0) :
    effLoopTake r n s = .next (s.put (CLE_LSTATUS_OWNER n.val) (cleWho r)) := by
  rw [effLoopTake, State.inDomain_on h, if_pos ho]

theorem effLoopTake_taken (h : s.domOn 15 = true) (ho : s.get (CLE_LSTATUS_OWNER n.val) ≠ 0) :
    effLoopTake r n s = .next (s.raise srcClaimDenied 0x3C 0) := by
  rw [effLoopTake, State.inDomain_on h, if_neg ho]
  rfl

theorem effLoopApply_refused (h : s.domOn 15 = true) (ho : s.get (CLE_LSTATUS_OWNER n.val) = cleWho r)
    (hlim : s.int32 (CLE_OUTMAX n.val) < s.int32 (CLE_OUTMIN n.val)) :
    effLoopApply r n b s = .next ((s.put (CLE_LSTATUS_CFGERR n.val) 1).put (CLE_LSTATUS_CODE n.val) 3) := by
  rw [effLoopApply, State.loopOwned_own h ho, if_pos hlim]
  rfl

theorem effLoopApply_taken (h : s.domOn 15 = true) (ho : s.get (CLE_LSTATUS_OWNER n.val) = cleWho r)
    (hlim : s.int32 (CLE_OUTMIN n.val) ≤ s.int32 (CLE_OUTMAX n.val)) : effLoopApply r n b s =
      .next (s.setLoop n.val { s.loop n.val with apply := some (s.staging n.val), preset := (s.loop n.val).preset || b }) := by
  rw [effLoopApply, State.loopOwned_own h ho, if_neg (by omega)]

end

/-! ## Modes (R527, R528, R543) -/

section
variable {s : State} {n m : Nat}

theorem State.get_mode_setMode (hn : n < 64) (hm : m < 4) : (s.setMode n m).get (CLE_LSTATUS_MODE n) = m := by
  rw [State.setMode, State.get_heldCheck_loop (by simp only [CLE_LSTATUS_MODE]; omega) (by simp only [CLE_LSTATUS_MODE]; omega), State.get_put_same]
  exact Nat.mod_eq_of_lt hm

theorem State.get_mode_loopOff (hn : n < 64) : (s.loopOff n).get (CLE_LSTATUS_MODE n) = 0 := by
  have hload (t : State) (v : Nat) : (t.put CLE_LOAD v).get (CLE_LSTATUS_MODE n) = t.get (CLE_LSTATUS_MODE n) :=
    State.get_put_ne _ _ (by simp only [Field.id, CLE_LSTATUS_MODE, CLE_LOAD]; omega)
  have hcode (t : State) (l : Loop) : ((t.setLoop n l).put (CLE_CODE n) 0).get (CLE_LSTATUS_MODE n) = t.get (CLE_LSTATUS_MODE n) :=
    State.get_put_ne _ _ (by simp only [Field.id, CLE_LSTATUS_MODE, CLE_CODE]; omega)
  have hheater (t : State) (k : Nat) : (t.put (CLE_TH_PHTR k) 0).get (CLE_LSTATUS_MODE n) = t.get (CLE_LSTATUS_MODE n) :=
    State.get_put_ne _ _ (by simp only [Field.id, CLE_LSTATUS_MODE, CLE_TH_PHTR]; omega)
  have hoff (t : State) : ((t.setMode n 0).put (CLE_LSTATUS_HCAUSE n) 0).get (CLE_LSTATUS_MODE n) = 0 :=
    (State.get_put_ne _ _ (by simp only [Field.id, CLE_LSTATUS_MODE, CLE_LSTATUS_HCAUSE]; omega)).trans
      (State.get_mode_setMode hn (by decide))
  simp only [State.loopOff]
  rw [hload]
  split
  · rw [hheater, hcode, hoff]
  · rw [hcode, hoff]
  · exact hoff _

theorem State.modeWrite_refused (hm : m ≠ 0) (h0 : s.get (CLE_LSTATUS_MODE n) = 0) (h : s.modeRefusal n ≠ 0) :
    s.modeWrite n m = (s.put (CLE_LSTATUS_CFGERR n) 1).put (CLE_LSTATUS_CODE n) (s.modeRefusal n) := by
  simp only [State.modeWrite, h0]
  rw [if_neg hm, if_neg (Ne.symm hm), if_pos (by simp [h])]
  rfl

theorem State.modeWrite_same (hm : m ≠ 0) (h : s.get (CLE_LSTATUS_MODE n) = m) : s.modeWrite n m = s := by
  simp only [State.modeWrite, h]
  rw [if_neg hm, if_pos trivial]

theorem State.get_mode_enterMode (hn : n < 64) (hm : m < 4) (old : Nat) : (s.enterMode n old m).get (CLE_LSTATUS_MODE n) = m :=
  State.get_mode_setMode hn hm

/-- A mode write that nothing refuses puts the loop in its mode. -/
theorem State.get_mode_modeWrite (hn : n < 64) (hm : m < 4) (h : m = 0 ∨ s.get (CLE_LSTATUS_MODE n) ≠ 0 ∨ s.modeRefusal n = 0) :
    (s.modeWrite n m).get (CLE_LSTATUS_MODE n) = m := by
  by_cases h0 : m = 0
  · subst h0
    exact State.get_mode_loopOff hn
  · by_cases hsame : s.get (CLE_LSTATUS_MODE n) = m
    · rw [State.modeWrite_same h0 hsame, hsame]
    · have hload (t : State) (v : Nat) : (t.put CLE_LOAD v).get (CLE_LSTATUS_MODE n) = t.get (CLE_LSTATUS_MODE n) :=
        State.get_put_ne _ _ (by simp only [Field.id, CLE_LSTATUS_MODE, CLE_LOAD]; omega)
      have hnot : ¬(decide (s.get (CLE_LSTATUS_MODE n) = 0) && decide (s.modeRefusal n ≠ 0)) = true := by
        rcases h with h | h | h
        · exact absurd h h0
        · simp [h]
        · simp [h]
      simp only [State.modeWrite]
      rw [if_neg h0, if_neg hsame, if_neg hnot, hload]
      split
      · next h3 =>
        rw [State.get_put_ne _ _ (by simp only [Field.id, CLE_LSTATUS_MODE, CLE_LSTATUS_HCAUSE]; omega), State.get_mode_setMode hn (by decide), h3]
      · exact State.get_mode_enterMode hn hm _

theorem State.modeRefusal_sink (h : s.sinkBad n = true) : s.modeRefusal n = 4 := if_pos h

theorem State.modeRefusal_sched (h : s.sinkBad n = false) (h' : s.schedBad n = true) : s.modeRefusal n = 2 :=
  (if_neg (by simp [h])).trans (if_pos h')

theorem State.modeRefusal_load (h : s.sinkBad n = false) (h' : s.schedBad n = false) (hl : 16 < s.loadWith (some n)) : s.modeRefusal n = 1 :=
  (if_neg (by simp [h])).trans ((if_neg (by simp [h'])).trans (if_pos hl))

theorem State.modeRefusal_none (h : s.sinkBad n = false) (h' : s.schedBad n = false) (hl : s.loadWith (some n) ≤ 16) : s.modeRefusal n = 0 :=
  (if_neg (by simp [h])).trans ((if_neg (by simp [h'])).trans (if_neg (by omega)))

end

/-! ## Evaluations (R516, R525, R531) -/

section
variable {s : State} {n : Fin 64} {per ph : Nat}

theorem execLoopEvaluate_none (ht : s.loopTime n.val = (per, ph)) (h : s.cleRuns = false ∨ s.get (CLE_LSTATUS_MODE n.val) = 0 ∨
    s.cle.frame < (s.loop n.val).done ∨ (s.cle.frame + per - ph) % per ≠ 0) : execLoopEvaluate n s = .next s := by
  simp only [execLoopEvaluate, ht]
  exact if_pos (by simpa [or_assoc] using h)

theorem execLoopEvaluate_evaluates (ht : s.loopTime n.val = (per, ph)) (hc : s.cleRuns = true) (hm : s.get (CLE_LSTATUS_MODE n.val) ≠ 0)
    (hd : (s.loop n.val).done ≤ s.cle.frame) (hf : (s.cle.frame + per - ph) % per = 0) : execLoopEvaluate n s =
      (s.rawInput n.val).elim (.next ((s.evalFrame n.val).loopInvalid n.val)) fun raw => .next ((s.evalFrame n.val).loopValid n.val raw) := by
  simp only [execLoopEvaluate, ht]
  rw [if_neg (by simp [hc, hm, hd, hf])]
  cases s.rawInput n.val <;> rfl

end

section
variable {s : State} {n : Nat} {raw : Int}

theorem State.thermal_of_lt (hn : n < 56) : s.thermal n = false := by
  simp [State.thermal, hn]

/-- What an evaluation in MAN with a valid input writes, but for the parts that no statement fixes. -/
theorem State.loopValid_man (hn : n < 56) (hm : s.get (CLE_LSTATUS_MODE n) = 1) (ha : (s.loop n).apply = none) :
    ∃ (i : Int) (hi lo : Bool) (c code : Nat) (l : Loop), l.lost = 0 ∧ s.loopValid n raw = (((((((((s.put (CLE_PV n)
      (codeOf 32 (mulR (subS raw (s.int32 (CLE_INOFS n))) (s.int32 (CLE_INGAIN n)) 16))).put (CLE_OUT n)
      (codeOf 32 (clampI ((s.loop n).eff.getD 4 0) ((s.loop n).eff.getD 5 0) ((s.loop n).eff.getD 6 0)))).put (CLE_I n) (codeOf 32 i)).inc
      (CLE_NEVAL n)).put (CLE_LSTATUS_INVALID n) 0).flag (CLE_LSTATUS_SATHI n) hi).flag (CLE_LSTATUS_SATLO n) lo).put (CLE_LSTATUS_C n) c).put
      (CLE_CODE n) code).setLoop n l := by
  simp only [State.loopValid, hm, ha, State.thermal_of_lt hn]
  rw [if_neg (by simp)]
  exact ⟨_, _, _, _, _, _, rfl, rfl⟩

theorem codeOf_mod (i : Int) : codeOf 32 i % 2 ^ 32 = codeOf 32 i := Nat.mod_eq_of_lt (codeOf_lt 32 i)

theorem State.loopValid_shown (hn : n < 56) (hm : s.get (CLE_LSTATUS_MODE n) = 1) (ha : (s.loop n).apply = none) {t : State}
    (ht : t = s.loopValid n raw) : t.get (CLE_PV n) = codeOf 32 (mulR (subS raw (s.int32 (CLE_INOFS n))) (s.int32 (CLE_INGAIN n)) 16) ∧
      t.get (CLE_OUT n) = codeOf 32 (clampI ((s.loop n).eff.getD 4 0) ((s.loop n).eff.getD 5 0) ((s.loop n).eff.getD 6 0)) ∧
      t.get (CLE_NEVAL n) = (s.get (CLE_NEVAL n) + 1) % 2 ^ 32 ∧ t.get (CLE_LSTATUS_INVALID n) = 0 ∧ (t.loop n).lost = 0 ∧ t.mem = s.mem ∧
      t.raised = s.raised := by
  obtain ⟨i, hi, lo, c, code, l, hlost, heq⟩ := State.loopValid_man (raw := raw) hn hm ha
  rw [ht, heq]
  have hpv := codeOf_mod (mulR (subS raw (s.int32 (CLE_INOFS n))) (s.int32 (CLE_INGAIN n)) 16)
  have hout := codeOf_mod (clampI ((s.loop n).eff.getD 4 0) ((s.loop n).eff.getD 5 0) ((s.loop n).eff.getD 6 0))
  generalize codeOf 32 (mulR (subS raw (s.int32 (CLE_INOFS n))) (s.int32 (CLE_INGAIN n)) 16) = pv at hpv ⊢
  generalize codeOf 32 (clampI ((s.loop n).eff.getD 4 0) ((s.loop n).eff.getD 5 0) ((s.loop n).eff.getD 6 0)) = out at hout ⊢
  have hloop (u : State) (f : Field) : (u.setLoop n l).get f = u.get f := rfl
  refine ⟨?_, ?_, ?_, ?_, ?_, rfl, rfl⟩
  · rw [hloop]
    simp (disch := (simp only [Field.id, CLE_PV, CLE_OUT, CLE_I, CLE_NEVAL, CLE_LSTATUS_INVALID, CLE_LSTATUS_SATHI, CLE_LSTATUS_SATLO, CLE_LSTATUS_C,
                      CLE_CODE]; omega)) only [State.flag_eq, State.inc_eq, State.get_put_ne, State.get_put_same]
    exact hpv
  · rw [hloop]
    simp (disch := (simp only [Field.id, CLE_OUT, CLE_I, CLE_NEVAL, CLE_LSTATUS_INVALID, CLE_LSTATUS_SATHI, CLE_LSTATUS_SATLO, CLE_LSTATUS_C,
                      CLE_CODE]; omega)) only [State.flag_eq, State.inc_eq, State.get_put_ne, State.get_put_same]
    exact hout
  · rw [hloop]
    simp (disch := (simp only [Field.id, CLE_PV, CLE_OUT, CLE_I, CLE_NEVAL, CLE_LSTATUS_INVALID, CLE_LSTATUS_SATHI, CLE_LSTATUS_SATLO,
                      CLE_LSTATUS_C, CLE_CODE]; omega)) only [State.flag_eq, State.get_put_ne, State.get_inc_same]
    rfl
  · rw [hloop]
    simp (disch := (simp only [Field.id, CLE_LSTATUS_INVALID, CLE_LSTATUS_SATHI, CLE_LSTATUS_SATLO, CLE_LSTATUS_C, CLE_CODE]; omega)) only
      [State.flag_eq, State.get_put_ne, State.get_put_same]
    rfl
  · simpa [State.loop, State.setLoop] using hlost

/-- An evaluation without an input shows INVALID and counts twice. -/
def State.invalidShown (s : State) (n : Nat) : State := ((s.put (CLE_LSTATUS_INVALID n) 1).inc (CLE_NEVAL n)).inc (CLE_NINVAL n)

theorem State.loopInvalid_stays (h : s.get (CLE_LSTATUS_MODE n) = 3 ∨ (s.loop n).lost + 1 < s.get (CLE_CFG_LOSTN n)) :
    ∃ l : Loop, l.eff = (s.loop n).eff ∧ (s.loopInvalid n = s.invalidShown n ∨ s.loopInvalid n = (s.invalidShown n).setLoop n l) := by
  refine ⟨{ s.loop n with lost := (s.loop n).lost + 1 }, rfl, ?_⟩
  by_cases h3 : s.get (CLE_LSTATUS_MODE n) = 3
  · exact .inl (if_pos h3)
  · have hlt : (s.loop n).lost + 1 < s.get (CLE_CFG_LOSTN n) := h.resolve_left h3
    exact .inr ((if_neg h3).trans (if_neg (by omega)))

theorem State.loopInvalid_holds (h3 : s.get (CLE_LSTATUS_MODE n) ≠ 3) (h : s.get (CLE_CFG_LOSTN n) ≤ (s.loop n).lost + 1) :
    s.loopInvalid n = ((s.invalidShown n).setLoop n { (s.invalidShown n).loop n with lost := 0 }).holdFault n 3 srcCleLost :=
  (if_neg h3).trans (if_pos h)

theorem State.get_invalidShown {f : Field} (h : f.id ≠ (CLE_LSTATUS_INVALID n).id) (h' : f.id ≠ (CLE_NEVAL n).id) (h'' : f.id ≠ (CLE_NINVAL n).id) :
    (s.invalidShown n).get f = s.get f := by
  rw [State.invalidShown, State.get_inc_ne _ h'', State.get_inc_ne _ h', State.get_put_ne _ _ h]

theorem State.invalid_invalidShown : (s.invalidShown n).get (CLE_LSTATUS_INVALID n) = 1 := by
  rw [State.invalidShown, State.get_inc_ne _ (by simp only [Field.id, CLE_LSTATUS_INVALID, CLE_NINVAL]; omega),
    State.get_inc_ne _ (by simp only [Field.id, CLE_LSTATUS_INVALID, CLE_NEVAL]; omega), State.get_put_same]
  rfl

theorem State.ninval_invalidShown : (s.invalidShown n).get (CLE_NINVAL n) = (s.get (CLE_NINVAL n) + 1) % 2 ^ 32 := by
  rw [State.invalidShown, State.get_inc_same, State.get_inc_ne _ (by simp only [Field.id, CLE_NEVAL, CLE_NINVAL]; omega),
    State.get_put_ne _ _ (by simp only [Field.id, CLE_LSTATUS_INVALID, CLE_NINVAL]; omega)]
  rfl

end

/-! ## A loop that a fault holds (R531, R540) -/

section
variable {s : State} {n cause src : Nat}

theorem channelsOf_lt {sites c : Nat} (h : c ∈ s.channelsOf sites) : c < 256 := allChannels_lt (List.mem_of_mem_filter h)

/-- The loop is held, counted and raised. -/
def State.faultHeld (s : State) (n cause src : Nat) : State := (((s.holdLoop n cause).inc CLE_NHOLD).raise src n 0).raise srcCleHold n 0

theorem State.holdFault_eq (s : State) (n cause src : Nat) : s.holdFault n cause src = if s.on (CLE_CFG_HTRIP n) = true then
    (s.faultHeld n cause src).manualTrip ((s.faultHeld n cause src).channelsOf (s.get (CLE_SITES_LO n) + 2 ^ 32 * s.get (CLE_SITES_HI n)))
    else s.faultHeld n cause src := rfl

theorem State.get_holdFault {f : Field} (hf : f.beyond false = true) : (s.holdFault n cause src).get f = (s.faultHeld n cause src).get f := by
  rw [State.holdFault_eq]
  split
  · exact State.get_trip (fun _ hc => channelsOf_lt hc) hf
  · rfl

theorem State.loops_holdFault : (s.holdFault n cause src).cle.loops = s.cle.loops := by
  have hheld : (s.faultHeld n cause src).cle.loops = s.cle.loops :=
    congrArg (·.2.2.2.2.2.2.2.1) (State.holdLoop_parts (s := s) (n := n) cause)
  rw [State.holdFault_eq]
  split
  · rw [State.manualTrip, State.trip_eq, (State.agrees_tripEffects fun _ hc => channelsOf_lt hc).loops]
    exact hheld
  · exact hheld

theorem State.get_faultHeld {f : Field} (hn : f.id ≠ CLE_NHOLD.id) : (s.faultHeld n cause src).get f = (s.holdLoop n cause).get f := by
  rw [State.faultHeld, State.get_raise, State.get_raise, State.get_inc_ne _ hn]

theorem State.get_holdFault_kept {f : Field} (hf : f.beyond false = true) (hn : f.id ≠ CLE_NHOLD.id) (h : ∀ g ∈ holdFields n, f.id ≠ g.id) :
    (s.holdFault n cause src).get f = s.get f :=
  (State.get_holdFault hf).trans ((State.get_faultHeld hn).trans (State.regsBut_holdLoop cause f h))

theorem State.holdFault_tells : ∃ x, (s.holdFault n cause src).awaits x ∧ x.src = src ∧ x.arg = n % 2 ^ 16 := by
  obtain ⟨x, hx, hsrc, harg⟩ := ((s.holdLoop n cause).inc CLE_NHOLD).raise_tells src n 0
  have hheld : (s.faultHeld n cause src).awaits x := State.raise_awaits _ _ _ _ hx
  refine ⟨x, ?_, hsrc, harg⟩
  rw [State.holdFault_eq]
  split
  · exact State.trip_awaits hheld
  · exact hheld

end

section
variable {s : State} {n : Nat}

theorem beyond_loop {f : Field} (hn : n < 64) (hlo : f.lo < 32) (hoff : 0x3C1000 + 0x80 * n ≤ f.off ∧ f.off < 0x3C1080 + 0x80 * n) :
    f.beyond false = true := by
  simp only [Field.beyond, Machine.beyond, Bool.and_eq_true, Bool.or_eq_true, decide_eq_true_eq]
  exact ⟨hlo, .inl (.inl (.inr ⟨by omega, by omega⟩))⟩

theorem State.get_setLoop (l : Loop) (f : Field) : (s.setLoop n l).get f = s.get f := rfl

/-- A loop's output and integral are none of the registers that an invalid input counts in. -/
theorem loopOutput_ne {f : Field} (hf : f = CLE_OUT n ∨ f = CLE_I n) : f.id ≠ (CLE_LSTATUS_INVALID n).id ∧ f.id ≠ (CLE_NEVAL n).id ∧
    f.id ≠ (CLE_NINVAL n).id ∧ f.id ≠ CLE_NHOLD.id := by
  rcases hf with rfl | rfl <;>
  · simp only [Field.id, CLE_OUT, CLE_I, CLE_LSTATUS_INVALID, CLE_NEVAL, CLE_NINVAL, CLE_NHOLD]
    omega

/-- Nor are they of those that a hold writes. -/
theorem loopOutput_ne_hold {f : Field} (hf : f = CLE_OUT n ∨ f = CLE_I n) : ∀ g ∈ holdFields n, f.id ≠ g.id := by
  simp only [holdFields, List.mem_cons, List.not_mem_nil, or_false, forall_eq_or_imp, forall_eq]
  rcases hf with rfl | rfl <;>
  · simp only [Field.id, CLE_LSTATUS_MODE, CLE_CTRL_MODE, CLE_LSTATUS_HCAUSE, CLE_TH_STATUS_HELD, CLE_TH_STATUS_DRIFT, CLE_TH_EXIT_LO, CLE_TH_EXIT_HI,
      CLE_OUT, CLE_I]
    omega

/-- The registers of loop n that neither an evaluation without an input nor a hold writes. -/
theorem State.get_loopInvalid {f : Field} (hn : n < 64) (hf : f = CLE_OUT n ∨ f = CLE_I n) : (s.loopInvalid n).get f = s.get f := by
  obtain ⟨hinvalid, hneval, hninval, hnhold⟩ := loopOutput_ne hf
  have hinv : (s.invalidShown n).get f = s.get f := State.get_invalidShown (by assumption) (by assumption) (by assumption)
  by_cases h : s.get (CLE_LSTATUS_MODE n) = 3 ∨ (s.loop n).lost + 1 < s.get (CLE_CFG_LOSTN n)
  · obtain ⟨l, -, heq | heq⟩ := State.loopInvalid_stays h
    · rw [heq, hinv]
    · rw [heq, State.get_setLoop, hinv]
  · rw [not_or, not_lt] at h
    obtain ⟨h3, hlost⟩ := h
    rw [State.loopInvalid_holds h3 hlost]
    rw [State.get_holdFault_kept ?_ hnhold (loopOutput_ne_hold hf), State.get_setLoop, hinv]
    · rcases hf with rfl | rfl
      · exact beyond_loop (f := CLE_OUT n) hn (show (0 : Nat) < 32 by decide) (by simp only [CLE_OUT]; omega)
      · exact beyond_loop (f := CLE_I n) hn (show (0 : Nat) < 32 by decide) (by simp only [CLE_I]; omega)

/-- What an evaluation without an input shows, whether or not it holds the loop. -/
theorem State.loopInvalid_shown (hn : n < 64) {f : Field} (hf : f = CLE_LSTATUS_INVALID n ∨ f = CLE_NINVAL n) :
    (s.loopInvalid n).get f = (s.invalidShown n).get f := by
  by_cases h : s.get (CLE_LSTATUS_MODE n) = 3 ∨ (s.loop n).lost + 1 < s.get (CLE_CFG_LOSTN n)
  · obtain ⟨l, -, heq | heq⟩ := State.loopInvalid_stays h
    · rw [heq]
    · rw [heq, State.get_setLoop]
  · rw [not_or, not_lt] at h
    obtain ⟨h3, hlost⟩ := h
    rw [State.loopInvalid_holds h3 hlost, State.get_holdFault_kept ?_ ?_ ?_, State.get_setLoop]
    · rcases hf with rfl | rfl
      · exact beyond_loop (f := CLE_LSTATUS_INVALID n) hn (show 22 < 32 by decide) (by simp only [CLE_LSTATUS_INVALID]; omega)
      · exact beyond_loop (f := CLE_NINVAL n) hn (show 0 < 32 by decide) (by simp only [CLE_NINVAL]; omega)
    · rcases hf with rfl | rfl <;> simp only [Field.id, CLE_LSTATUS_INVALID, CLE_NINVAL, CLE_NHOLD] <;> omega
    · rcases hf with rfl | rfl <;>
      · simp only [holdFields, List.mem_cons, List.not_mem_nil, or_false, forall_eq_or_imp, forall_eq, Field.id, CLE_LSTATUS_MODE, CLE_CTRL_MODE,
          CLE_LSTATUS_HCAUSE, CLE_TH_STATUS_HELD, CLE_TH_STATUS_DRIFT, CLE_TH_EXIT_LO, CLE_TH_EXIT_HI, CLE_LSTATUS_INVALID, CLE_NINVAL]
        omega

theorem State.eff_loopInvalid : ((s.loopInvalid n).loop n).eff = (s.loop n).eff := by
  by_cases h : s.get (CLE_LSTATUS_MODE n) = 3 ∨ (s.loop n).lost + 1 < s.get (CLE_CFG_LOSTN n)
  · obtain ⟨l, hl, heq | heq⟩ := State.loopInvalid_stays h
    · rw [heq]
      rfl
    · rw [heq, State.loop, State.setLoop, Assoc.get_set_same, hl]
  · rw [not_or, not_lt] at h
    obtain ⟨h3, hlost⟩ := h
    rw [State.loopInvalid_holds h3 hlost, State.loop, State.loops_holdFault, State.setLoop, Assoc.get_set_same]
    rfl

theorem State.loopInvalid_kept (h : s.get (CLE_LSTATUS_MODE n) = 3 ∨ (s.loop n).lost + 1 < s.get (CLE_CFG_LOSTN n)) :
    (s.loopInvalid n).get (CLE_LSTATUS_MODE n) = s.get (CLE_LSTATUS_MODE n) ∧ (s.loopInvalid n).raised = s.raised := by
  have hmode : (s.invalidShown n).get (CLE_LSTATUS_MODE n) = s.get (CLE_LSTATUS_MODE n) := by
    refine State.get_invalidShown ?_ ?_ ?_ <;> simp only [Field.id, CLE_LSTATUS_MODE, CLE_LSTATUS_INVALID, CLE_NEVAL, CLE_NINVAL] <;> omega
  obtain ⟨l, -, heq | heq⟩ := State.loopInvalid_stays h
  · rw [heq]
    exact ⟨hmode, rfl⟩
  · rw [heq, State.get_setLoop]
    exact ⟨hmode, rfl⟩

theorem State.loopInvalid_held (hn : n < 64) (h3 : s.get (CLE_LSTATUS_MODE n) ≠ 3) (h : s.get (CLE_CFG_LOSTN n) ≤ (s.loop n).lost + 1) :
    (s.loopInvalid n).get (CLE_LSTATUS_MODE n) = 3 ∧ (s.loopInvalid n).get (CLE_LSTATUS_HCAUSE n) = 3 ∧
      ∃ x ∈ (s.loopInvalid n).raised, x.src = srcCleLost ∧ x.arg = n := by
  rw [State.loopInvalid_holds h3 h]
  refine ⟨?_, ?_, ?_⟩
  · rw [State.get_holdFault (beyond_loop (f := CLE_LSTATUS_MODE n) hn (show 28 < 32 by decide) (by simp only [CLE_LSTATUS_MODE]; omega)),
      State.get_faultHeld (by simp only [Field.id, CLE_LSTATUS_MODE, CLE_NHOLD]; omega), State.get_mode_holdLoop hn]
  · rw [State.get_holdFault (beyond_loop (f := CLE_LSTATUS_HCAUSE n) hn (show 25 < 32 by decide) (by simp only [CLE_LSTATUS_HCAUSE]; omega)),
      State.get_faultHeld (by simp only [Field.id, CLE_LSTATUS_HCAUSE, CLE_NHOLD]; omega), State.get_hcause_holdLoop hn]
  · obtain ⟨x, hx, hsrc, harg⟩ := State.holdFault_tells (s := (s.invalidShown n).setLoop n { (s.invalidShown n).loop n with lost := 0 })
      (n := n) (cause := 3) (src := srcCleLost)
    exact ⟨x, hx, hsrc, harg.trans (Nat.mod_eq_of_lt (by omega))⟩

end

/-! ## The thermal frame and the settled temperature (R534, R535) -/

section
variable {s : State} {t k : Nat}

/-- The thermal status of a tile leaves its power, its heater code and HSAT. -/
theorem State.get_thermalStatus {f : Field} (hf : f = CLE_TH_PTILE t ∨ f = CLE_TH_PHTR t ∨ f = CLE_TH_STATUS_HSAT t) :
    (s.thermalStatus t).get f = s.get f := by
  have hband : f.id ≠ (CLE_TH_STATUS_INBAND t).id := by
    rcases hf with rfl | rfl | rfl <;> simp only [Field.id, CLE_TH_PTILE, CLE_TH_PHTR, CLE_TH_STATUS_HSAT, CLE_TH_STATUS_INBAND] <;> omega
  have hsettled : f.id ≠ CLE_STATUS_TSETTLED.id := by
    rcases hf with rfl | rfl | rfl <;> simp only [Field.id, CLE_TH_PTILE, CLE_TH_PHTR, CLE_TH_STATUS_HSAT, CLE_STATUS_TSETTLED] <;> omega
  have hheld : f.id ≠ (CLE_TH_STATUS_HELD t).id := by
    rcases hf with rfl | rfl | rfl <;> simp only [Field.id, CLE_TH_PTILE, CLE_TH_PHTR, CLE_TH_STATUS_HSAT, CLE_TH_STATUS_HELD] <;> omega
  have hend : ∀ g ∈ [CLE_TH_STATUS_HELD t, CLE_TH_STATUS_DRIFT t, CLE_TH_EXIT_LO t, CLE_TH_EXIT_HI t], f.id ≠ g.id := by
    rcases hf with rfl | rfl | rfl <;>
    · simp only [List.mem_cons, List.not_mem_nil, or_false, forall_eq_or_imp, forall_eq, Field.id, CLE_TH_PTILE, CLE_TH_PHTR, CLE_TH_STATUS_HSAT,
        CLE_TH_STATUS_HELD, CLE_TH_STATUS_DRIFT, CLE_TH_EXIT_LO, CLE_TH_EXIT_HI]
      omega
  have hflag (b : Bool) : (s.flag (CLE_TH_STATUS_INBAND t) b).get f = s.get f := State.get_put_ne _ _ hband
  unfold State.thermalStatus
  extract_lets en held near s1 rest cl s2 s3
  have h3 : s3.get f = s.get f := by
    simp only [s3]
    split
    · exact (State.get_put_ne _ _ hsettled).trans (hflag _)
    · exact hflag _
  split
  · exact (State.get_put_ne _ _ hheld).trans h3
  · exact (State.get_heldEnd hend).trans h3

/-- The heater's power as a frame computes it: none without the loop, and within 0 to 30,000 mW. -/
def State.framePower (s : State) (t w : Nat) : Nat :=
  if s.on (CLE_TH_CFG_EN t) = false then s.heaterCode t
  else if s.get (CLE_LSTATUS_MODE (56 + t)) = 0 then 0
  else (clampI 0 30000 ((s.get (CLE_TH_PDECL t) : Int) - (w : Int) + signedOf 32 (s.codeInForce (56 + t)))).toNat

variable {i : Fin 8} {w : BitVec 32}

theorem execThermalFrame_none (h : s.cleRuns = false) : execThermalFrame i w s = .next s := if_pos (by simp [h])

theorem execThermalFrame_frame (h : s.cleRuns = true) : execThermalFrame i w s =
    .next ((((s.put (CLE_TH_PTILE i.val) w.toNat).put (CLE_TH_PHTR i.val) (s.framePower i.val w.toNat)).flag (CLE_TH_STATUS_HSAT i.val)
      (s.on (CLE_TH_CFG_EN i.val) && (s.framePower i.val w.toNat == 0 || s.framePower i.val w.toNat == 30000))).thermalStatus i.val) := by
  unfold execThermalFrame
  simp only [h, State.framePower, Bool.not_true, Bool.false_eq_true, if_false, Bool.not_eq_true']

/-- What a thermal frame shows. -/
theorem execThermalFrame_shown (h : s.cleRuns = true) : Completes (execThermalFrame i w s) fun u => u.get (CLE_TH_PTILE i.val) = w.toNat ∧
    u.get (CLE_TH_PHTR i.val) = s.framePower i.val w.toNat % 2 ^ 32 ∧ u.get (CLE_TH_STATUS_HSAT i.val) =
      b2n (s.on (CLE_TH_CFG_EN i.val) && (s.framePower i.val w.toNat == 0 || s.framePower i.val w.toNat == 30000)) ∧ u.mem = s.mem := by
  refine completes_of_eq (execThermalFrame_frame h) ?_
  generalize s.framePower i.val w.toNat = ph
  rw [State.get_thermalStatus (.inl rfl), State.get_thermalStatus (.inr (.inl rfl)), State.get_thermalStatus (.inr (.inr rfl)), State.flag_eq,
    State.get_put_ne _ _ (by simp only [Field.id, CLE_TH_PTILE, CLE_TH_STATUS_HSAT]; omega),
    State.get_put_ne _ _ (by simp only [Field.id, CLE_TH_PTILE, CLE_TH_PHTR]; omega), State.get_put_same,
    State.get_put_ne _ _ (by simp only [Field.id, CLE_TH_PHTR, CLE_TH_STATUS_HSAT]; omega), State.get_put_same, State.get_put_same]
  refine ⟨Nat.mod_eq_of_lt w.isLt, rfl, b2n_mod_two _, ?_⟩
  exact congrArg (·.2.1) (State.thermalStatus_fixed _ _)

theorem clampI_bounds (v : Int) : 0 ≤ clampI 0 30000 v ∧ clampI 0 30000 v ≤ 30000 := by
  unfold clampI
  split <;> [omega; split <;> omega]

theorem execTempSettled_none (h : (∀ t < 8, s.on (CLE_TH_CFG_EN t) = false) ∨ (∃ t < 8, s.on (CLE_TH_CFG_EN t) = true ∧
    (s.on (CLE_TH_STATUS_INBAND t) = false ∨ ∀ e ∈ s.cle.inband, e.1 = t → s.time.rc < e.2 + 100000000)) ∨ s.on CLE_STATUS_TSETTLED = true) :
    execTempSettled s = .next s := by
  refine if_pos ?_
  simp only [Bool.or_eq_true, List.isEmpty_iff, Bool.not_eq_true', List.filter_eq_nil_iff, List.mem_range]
  rcases h with h | ⟨t, ht, hen, hout⟩ | h
  · exact .inl (.inl fun t ht => by simp [h t ht])
  · refine .inl (.inr (List.all_eq_false.mpr ⟨t, List.mem_filter.mpr ⟨List.mem_range.mpr ht, hen⟩, ?_⟩))
    rcases hout with hband | hrc
    · simp [hband]
    · simp only [Bool.and_eq_true, List.any_eq_true, beq_iff_eq, decide_eq_true_eq, not_and, not_exists]
      intro _ e he hte hle
      have := hrc e he hte
      omega
  · exact .inr h

theorem execTempSettled_settles (h : ∃ t < 8, s.on (CLE_TH_CFG_EN t) = true) (hs : s.on CLE_STATUS_TSETTLED = false)
    (hall : ∀ t < 8, s.on (CLE_TH_CFG_EN t) = true → s.on (CLE_TH_STATUS_INBAND t) = true ∧ ∃ e ∈ s.cle.inband, e.1 = t ∧ e.2 + 100000000 ≤ s.time.rc) :
    execTempSettled s = .next ((s.put CLE_STATUS_TSETTLED 1).raise srcTempSettled 0 0) := by
  refine if_neg ?_
  simp only [Bool.or_eq_true, List.isEmpty_iff, Bool.not_eq_true', List.filter_eq_nil_iff, List.mem_range, not_or, hs]
  obtain ⟨t, ht, hen⟩ := h
  refine ⟨⟨fun hnone => hnone t ht hen, ?_⟩, by decide⟩
  rw [Bool.not_eq_false, List.all_eq_true]
  intro k hk
  obtain ⟨hband, e, he, hte, hle⟩ := hall k (List.mem_range.mp (List.mem_filter.mp hk).1) (List.mem_filter.mp hk).2
  simp only [hband, Bool.true_and, List.any_eq_true]
  exact ⟨e, he, by simp [hte, hle]⟩

end

end Sys2Proof.Machine

namespace Sys2Proof.Proofs
open Sys2Proof.Machine

/-- Settles O34: the writes by whether the domain is on and whose the loop is, an evaluation by whether it has an input, and the thermal frame by
whether the tile's hold is enabled. -/
theorem loopControl : Obligations.LoopControl := by
  unfold Obligations.LoopControl
  refine ⟨fun s r n m b hr => ⟨fun hd => ?off, fun hd w hw => ?on⟩, fun s n m hn hm => ⟨State.modeWrite_refused, State.modeWrite_same,
    State.get_mode_modeWrite hn hm, State.modeRefusal_sink, State.modeRefusal_sched, State.modeRefusal_load, State.modeRefusal_none⟩,
    fun s n per ph ht => ?evaluate, fun s n raw hn hm ha t ht => State.loopValid_shown hn hm ha ht, fun s n hn t ht => ?invalid,
    fun s t w => ?thermal, fun s => ⟨execTempSettled_none, execTempSettled_settles⟩, fun s => ⟨rfl, rfl⟩⟩
  case off =>
    rw [exec_loopTake, exec_loopRelease, exec_loopModeWrite, exec_loopApply, execLoopTake, execLoopRelease, execLoopModeWrite, execLoopApply,
      State.reachReg_of_reaches _ hr, State.reachReg_of_reaches _ hr, State.reachReg_of_reaches _ hr, State.reachReg_of_reaches _ hr]
    exact ⟨effLoopTake_off hd, congrArg _ (State.loopOwned_off hd), congrArg _ (State.loopOwned_off hd), congrArg _ (State.loopOwned_off hd)⟩
  case on =>
    rw [exec_loopTake, exec_loopRelease, exec_loopModeWrite, exec_loopApply, execLoopTake, execLoopRelease, execLoopModeWrite, execLoopApply,
      State.reachReg_of_reaches _ hr, State.reachReg_of_reaches _ hr, State.reachReg_of_reaches _ hr, State.reachReg_of_reaches _ hr]
    have hwho : w = cleWho r := hw
    subst hwho
    exact ⟨effLoopTake_free hd, effLoopTake_taken hd, fun ho => ⟨congrArg _ (State.loopOwned_other hd ho), congrArg _ (State.loopOwned_other hd ho),
      congrArg _ (State.loopOwned_other hd ho)⟩, fun ho => ⟨congrArg _ (State.loopOwned_own hd ho), congrArg _ (State.loopOwned_own hd ho),
      effLoopApply_refused hd ho, effLoopApply_taken hd ho⟩⟩
  case evaluate =>
    rw [exec_loopEvaluate]
    refine ⟨execLoopEvaluate_none ht, fun hc hm hd hf => ?_⟩
    rw [execLoopEvaluate_evaluates ht hc hm hd hf]
    exact ⟨fun h => by rw [h]; rfl, fun raw h => by rw [h]; rfl⟩
  case invalid =>
    subst ht
    exact ⟨(State.loopInvalid_shown hn (.inl rfl)).trans State.invalid_invalidShown, State.get_loopInvalid hn (.inl rfl),
      State.get_loopInvalid hn (.inr rfl), (State.loopInvalid_shown hn (.inr rfl)).trans State.ninval_invalidShown, State.eff_loopInvalid,
      State.loopInvalid_kept, State.loopInvalid_held hn⟩
  case thermal =>
    rw [exec_thermalFrame]
    refine ⟨execThermalFrame_none, fun h => ?_⟩
    obtain ⟨u, hu, hptile, hphtr, hhsat, hmem⟩ := execThermalFrame_shown (i := t) (w := w) h
    refine ⟨u, hu, hptile, hmem, fun hen => ?_, fun hen hm => ?_, fun hen hm p hp => ?_⟩
    · have hpower : s.framePower t.val w.toNat = s.heaterCode t.val := if_pos hen
      rw [hphtr, hhsat, hpower, hen]
      exact ⟨rfl, rfl⟩
    · have hpower : s.framePower t.val w.toNat = 0 := (if_neg (by simp [hen])).trans (if_pos hm)
      rw [hphtr, hhsat, hpower, hen]
      exact ⟨rfl, rfl⟩
    · have hpower : s.framePower t.val w.toNat = p.toNat := by
        rw [hp]
        exact (if_neg (by simp [hen])).trans (if_neg hm)
      obtain ⟨hlo, hhi⟩ : 0 ≤ p ∧ p ≤ 30000 := hp ▸ clampI_bounds _
      rw [hphtr, hhsat, hpower, hen, Bool.true_and]
      refine ⟨Nat.mod_eq_of_lt (by omega), ?_, hlo, hhi⟩
      have hsat : (p.toNat == 0 || p.toNat == 30000) = true ↔ p = 0 ∨ p = 30000 := by
        simp only [Bool.or_eq_true, beq_iff_eq]
        omega
      rw [← hsat]
      cases p.toNat == 0 || p.toNat == 30000 <;> decide

end Sys2Proof.Proofs
end

