-- ==== Sys2Proof/Proofs/FrostRequests.lean ====
section
/-! SUPPORT. What a read-out's wait leaves, and the requests of a Frost case by case; then the statement on Frost requests. -/

namespace Sys2Proof.Machine

section
variable (s : State)

theorem State.waitRc_rc (t : Nat) : t ≤ (s.waitRc t).time.rc := by
  unfold State.waitRc
  split
  · rw [State.passRc_rc]
    omega
  · omega

/-! ## Requests -/

variable {s} {t src : Nat}

theorem State.hardFrost_refused (h : s.sleeping = true ∨ s.saving = true ∨ s.frz.hard ≠ none) : s.hardFrost t src = s := by
  unfold State.hardFrost
  exact if_pos (by simpa [Option.isSome_iff_ne_none, or_assoc] using h)

theorem State.softFrost_refused (h : s.sleeping = true ∨ s.saving = true ∨ s.frz.hard ≠ none ∨ s.frozen = true ∨ s.frz.soft ≠ none) :
    s.softFrost t src = s := by
  unfold State.softFrost
  refine if_pos ?_
  simp only [Bool.or_eq_true, Option.isSome_iff_ne_none]
  tauto

theorem State.frozen_iff : s.frozen = true ↔ 2 ≤ s.get FRZ_STATUS_STATE := by simp [State.frozen]

theorem State.hardFrost_frozen (hsl : s.sleeping = false) (hsv : s.saving = false) (hh : s.frz.hard = none) (hf : s.frozen = true) :
    s.hardFrost t src =
      if s.get FRZ_STATUS_STATE = 2 then { s with frz := { s.frz with late := some (t, src, s.time.rc) } } else s := by
  unfold State.hardFrost
  rw [if_neg (by simp [hsl, hsv, hh]), if_pos hf]

theorem State.hardFrost_running (hsl : s.sleeping = false) (hsv : s.saving = false) (hh : s.frz.hard = none) (hf : s.frozen = false) :
    s.hardFrost t src = { (s.put FRZ_STATUS_TRIG t).put FRZ_STATUS_TSRC src with
      frz := { s.frz with hard := some (t, src, s.clk.epoch, s.time.rc) } } := by
  unfold State.hardFrost
  rw [if_neg (by simp [hsl, hsv, hh]), if_neg (by simp [hf])]
  rfl

theorem State.softFrost_running (hsl : s.sleeping = false) (hsv : s.saving = false) (hh : s.frz.hard = none) (hf : s.frozen = false)
    (hs : s.frz.soft = none) (hg : s.on FRZ_CFG_GRP = false ∨ s.insync = false) :
    s.softFrost t src = { (s.put FRZ_STATUS_TRIG t).put FRZ_STATUS_TSRC src with
      frz := { s.frz with soft := some (t, src, some s.nextBoundary), softAt := s.time.rc } } := by
  unfold State.softFrost
  rw [if_neg (by simp [hsl, hsv, hh, hf, hs]), if_neg (by simpa [← Bool.not_eq_true, ← not_and_or] using hg)]
  rfl

theorem State.softFrost_group (hsl : s.sleeping = false) (hsv : s.saving = false) (hh : s.frz.hard = none) (hf : s.frozen = false)
    (hs : s.frz.soft = none) (hg : s.on FRZ_CFG_GRP = true) (hi : s.insync = true) {u : State}
    (hu : u = (s.put FRZ_STATUS_TRIG t).put FRZ_STATUS_TSRC src) :
    s.softFrost t src = { (u.put SEQ_UFLAG (setBitN (u.get SEQ_UFLAG) (u.get FRZ_CFG_FLAG))).put FRZ_STATUS_GROUPWAIT 1 with
      frz := { s.frz with soft := some (t, src, none), softAt := s.time.rc } } := by
  have hflag {f : Field} (hf : f.id ≠ FRZ_STATUS_TRIG.id ∧ f.id ≠ FRZ_STATUS_TSRC.id) : u.get f = s.get f := by
    rw [hu, State.get_put_ne _ _ hf.2, State.get_put_ne _ _ hf.1]
  rw [hflag (f := SEQ_UFLAG) (by decide), hflag (f := FRZ_CFG_FLAG) (by decide), hu]
  unfold State.softFrost
  rw [if_neg (by simp [hsl, hsv, hh, hf, hs]), if_pos (by simp [hg, hi])]
  rfl

theorem State.abandonRead_reading (h : s.on FRZ_STATUS_READING = true) :
    s.abandonRead = (((s.put FRZ_PROG s.frzProg).put FRZ_STATUS_READING 0).put FRZ_STATUS_ABANDONED 1).raise srcFrzDone 1 0 := if_pos h

theorem State.abandonRead_idle (h : s.on FRZ_STATUS_READING = false) : s.abandonRead = s := if_neg (by simp [h])

/-! ## The end of a read-out -/

theorem State.frostReadDone_completes (hr : s.on FRZ_STATUS_READING = true) (hd : s.dmaOn = true) :
    Completes (execFrostReadDone s) fun t => t.get FRZ_STATUS_READING = 0 ∧ t.get FRZ_PROG = 815104 ∧
      t.get FRZ_NREAD = (s.get FRZ_NREAD + 1) % 2 ^ FRZ_NREAD.width ∧ s.frz.readAt + 326042 ≤ t.time.rc ∧
      (∃ r ∈ t.raised, r.src = srcFrzDone ∧ r.arg = 0) ∧ .scan (s.get64 FRZ_DST_LO FRZ_DST_HI + 64) 6520832 ∈ t.hostOut := by
  have hdst : (s.waitRc (s.frz.readAt + 326042)).get64 FRZ_DST_LO FRZ_DST_HI = s.get64 FRZ_DST_LO FRZ_DST_HI := by
    simp only [State.get64]
    rw [State.get_waitRc _ _ (by decide), State.get_waitRc _ _ (by decide)]
  have hnread : (s.waitRc (s.frz.readAt + 326042)).get FRZ_NREAD = s.get FRZ_NREAD := State.get_waitRc _ _ (by decide)
  have hrc := s.waitRc_rc (s.frz.readAt + 326042)
  unfold execFrostReadDone
  rw [if_neg (by simp [hr, hd])]
  simp only [hdst]
  refine completes_of_eq rfl ⟨?_, ?_, ?_, hrc, ⟨_, List.mem_append_right _ (List.mem_singleton_self _), rfl, rfl⟩, ?_⟩
  · rw [State.get_raise, State.get_inc_ne _ (by decide), State.get_put_ne _ _ (by decide), State.get_put_same]
    rfl
  · rw [State.get_raise, State.get_inc_ne _ (by decide), State.get_put_same]
    rfl
  · rw [State.get_raise, State.get_inc_same, State.get_put_ne _ _ (by decide), State.get_put_ne _ _ (by decide)]
    exact congrArg (fun v => (v + 1) % 2 ^ FRZ_NREAD.width) hnread
  · exact List.mem_append_left _ (List.mem_append_right _ (List.mem_singleton_self _))

end
end Sys2Proof.Machine

namespace Sys2Proof.Proofs
open Sys2Proof.Machine

/-- Settles O47: the requests and the read-out's two ends case by case; the registers that the read-out's end reports stand outside what its
wait writes. -/
theorem frostRequests : Obligations.FrostRequests := by
  unfold Obligations.FrostRequests
  refine ⟨?requests, ?frost, ?armat, ?read, ?done, ?jtag, ?map⟩
  case requests =>
    intro s
    refine ⟨by rw [exec_frostNLow]; rfl, by rw [exec_jtagFrzHard]; rfl, fun hr => ⟨?_, ?_, ?_⟩⟩
    · rw [exec_frzHard]; exact State.reachReg_of_reaches _ hr
    · rw [exec_frzSoft]; exact State.reachReg_of_reaches _ hr
    · rw [exec_frzDisarm]; exact State.reachReg_of_reaches _ hr
  case frost =>
    intro s t src
    refine ⟨fun h => ⟨State.hardFrost_refused h, State.softFrost_refused (by tauto)⟩, fun h => State.softFrost_refused (by tauto),
      fun hsl hsv hh => ⟨fun h2 => ?_, fun h3 => ?_, fun hf => State.hardFrost_running hsl hsv hh hf,
        fun hf hs hg => State.softFrost_running hsl hsv hh hf hs hg, fun hf hs hg hi u hu => State.softFrost_group hsl hsv hh hf hs hg hi hu⟩⟩
    · rw [State.hardFrost_frozen hsl hsv hh (State.frozen_iff.mpr (by omega)), if_pos h2]
    · rw [State.hardFrost_frozen hsl hsv hh (State.frozen_iff.mpr (by omega)), if_neg (by omega)]
  case armat =>
    intro s hr
    rw [exec_frzArmat, execFrzArmat, State.reachReg_of_reaches _ hr]
    unfold effFrzArmat
    refine ⟨fun h => if_pos (by simpa using h), fun hf hs => ⟨fun h => ?_, fun hg hlt => ?_⟩⟩
    · rw [if_neg (by simp [hf, hs]), if_pos (by simpa using h)]
    · rw [if_neg (by simp [hf, hs]), if_neg (by simp [hg]; omega)]
  case read =>
    rintro s dst hr rfl
    rw [exec_frzRead, execFrzRead, State.reachReg_of_reaches _ hr]
    unfold effFrzRead
    refine ⟨fun h => if_pos ?_, fun hf hrd h0 h4 hp hd => (if_neg ?_).trans rfl⟩
    · simp only [Bool.or_eq_true, Bool.not_eq_true', decide_eq_true_eq]
      tauto
    · simp [hf, hrd, h0, h4, hp, hd]
  case done =>
    intro s
    rw [exec_frostReadDone]
    refine ⟨fun h => ?_, State.frostReadDone_completes, State.abandonRead_reading, State.abandonRead_idle⟩
    unfold execFrostReadDone
    exact if_pos (by simpa using h)
  case jtag =>
    intro s t v hfree
    rw [exec_jtagFrzRead]
    unfold execJtagFrzRead
    simp only [hfree]
    refine ⟨fun h => if_pos h, fun h hf => ?_, fun h hf => ?_⟩
    · rw [if_neg (by simp [h]), if_pos (by simp [hf])]
    · rw [if_neg (by simp [h]), if_neg (by simp [hf])]
  case map =>
    intro s i hr
    rw [exec_frzMapidxWrite, execFrzMapidxWrite, State.reachReg_of_reaches _ hr]
    rfl

end Sys2Proof.Proofs
end

