-- ==== Sys2Proof/Proofs/FrostStops.lean ====
section
/-! SUPPORT. The lands keep a list of entries by channel. A state may hold two entries of one channel: a trip writes the first, and a gate that
closes drops an entry at rest, so that the second then stands. -/

namespace Sys2Proof.Machine

/-- Channel 5 twice: at rest but for the instant since which it is off, and with its driver on. -/
def twiceListed : List (Nat × ChanLand) := [(5, { ChanLand.reset with offSince := some 0 }), (5, { ChanLand.reset with drv := 1 })]

/-- A trip of a channel leaves the list as it is: the first entry's driver is off, and no other channel is listed. -/
theorem trip_twiceListed (c : Nat) :
    Assoc.set ChanLand.reset twiceListed c { Assoc.get ChanLand.reset twiceListed c with drv := 0 } = twiceListed := by
  by_cases hc : c = 5
  · rw [hc]
    decide
  · simp [twiceListed, Assoc.get, Assoc.set, Assoc.erase, hc, ChanLand.reset]

section
variable {s : State} {c : Nat}

theorem State.landChans_of_aside {t : State} (h : t.aside false = s.aside false) : t.land.chans = s.land.chans := congrArg Prod.fst h

theorem State.chans_tripChannel (h : c < 256) :
    (s.tripChannel c).land.chans = Assoc.set ChanLand.reset s.land.chans c { Assoc.get ChanLand.reset s.land.chans c with drv := 0 } :=
  congrArg Prod.fst ((State.calTrip_aside _ _).trans (State.pmuTrip_aside _ h) : (s.tripChannel c).aside false = _)

theorem State.chans_foldl_tripChannel {cs : List Nat} (h : ∀ c ∈ cs, c < 256) (hs : s.land.chans = twiceListed) :
    (cs.foldl (fun t c => t.tripChannel c) s).land.chans = twiceListed := by
  induction cs generalizing s with
  | nil => exact hs
  | cons c cs ih =>
    refine ih (fun c hc => h c (List.mem_cons_of_mem _ hc)) ?_
    rw [State.chans_tripChannel (h c List.mem_cons_self), hs, trip_twiceListed]

theorem State.chans_trip {h : Nat} {cs : List Nat} (hcs : ∀ c ∈ cs, c < 256) (hs : s.land.chans = twiceListed) :
    (s.trip h cs).land.chans = twiceListed := by
  rw [State.trip_eq, State.tripEffects, State.landChans_of_aside (State.aside_tripped _ _ _ _)]
  exact State.chans_foldl_tripChannel hcs hs

theorem State.chans_unstampChains : s.unstampChains.land.chans = s.land.chans := by
  unfold State.unstampChains
  apply foldl_keeps (fun t : State => t.land.chans)
  intro t e
  rfl

/-- The gate closes: the first entry is at rest and leaves the list. -/
theorem State.drv_closeGate_twiceListed (hg : s.gateOpen = true) (hs : s.land.chans = twiceListed) : (s.closeGate.chan 5).drv = 1 := by
  unfold State.closeGate
  rw [if_neg (by simp [hg])]
  extract_lets s1 s2 v left still chans fs ld sq s3
  have h1 : s1.aside false = s.aside false := by simp [s1]
  have h2 : s2.land.chans = twiceListed := State.chans_unstampChains.trans ((congrArg Prod.fst h1).trans hs)
  have hchans : chans = [(5, { ChanLand.reset with drv := 1 })] := by
    simp only [chans, h2]
    rfl
  have h3 : (s3.chan 5).drv = 1 := by
    rw [show s3.chan 5 = Assoc.get ChanLand.reset chans 5 from rfl, hchans]
    rfl
  split
  · rwa [State.chans_of_aside s3.freezeShort_aside]
  · exact h3

theorem State.land_cleClockStop : s.cleClockStop.land = s.land := by
  have hloop (t : State) (n : Nat) :
      (if t.get (CLE_LSTATUS_MODE n) = 2 then t.setLoop n { t.loop n with preset := true } else t).land = t.land := by
    split <;> rfl
  unfold State.cleClockStop
  extract_lets s1 s2
  have h1 : s1.land = s.land := foldl_keeps State.land (fun t k => (rfl : (t.put (CLE_TH_PHTR k) 0).land = t.land)) _ s
  have h2 : s2.land = s1.land := foldl_keeps State.land hloop _ s1
  clear_value s2
  clear_value s1
  exact h2.trans h1

/-! ## The gate and the held commit at a trip -/

/-- The gate and the commit that is held. -/
def State.gateAndCommit (s : State) := (s.on CLK_STATUS_GATE, s.cmt.commit)

theorem State.gateAndCommit_put {f : Field} (v : Nat) (hf : CLK_STATUS_GATE.id ≠ f.id) : (s.put f v).gateAndCommit = s.gateAndCommit := by
  rw [State.gateAndCommit, State.on, State.get_put_ne _ _ hf]
  rfl

theorem State.gateAndCommit_raise (src arg value : Nat) : (s.raise src arg value).gateAndCommit = s.gateAndCommit := rfl

theorem State.gateAndCommit_inc {f : Field} (hf : CLK_STATUS_GATE.id ≠ f.id) : (s.inc f).gateAndCommit = s.gateAndCommit := by
  rw [State.gateAndCommit, State.on, State.get_inc_ne _ hf]
  rfl

theorem State.gateAndCommit_calEnded (e : CalEntry) (res : Nat) : (s.calEnded e res).gateAndCommit = s.gateAndCommit := by
  unfold State.calEnded
  extract_lets since cal pmu s1 s2 s3 s4
  have h2 : s2.gateAndCommit = s.gateAndCommit := by
    simp only [s2]
    rw [State.gateAndCommit_put _ (by decide), State.gateAndCommit_put _ (by decide), State.gateAndCommit_put _ (by decide),
      State.gateAndCommit_put _ (by decide)]
    rfl
  have h3 : s3.gateAndCommit = s.gateAndCommit := by
    simp only [s3]
    split
    · exact (State.gateAndCommit_put _ (by simp only [Field.id, CAL_CH_STATUS_LASTRES, CLK_STATUS_GATE]; omega)).trans h2
    · exact h2
  split
  · exact (State.gateAndCommit_inc (f := CAL_NDONE) (by decide)).trans h3
  · rw [State.gateAndCommit_raise, State.gateAndCommit_put _ (by decide), State.gateAndCommit_inc (by decide)]
    exact h3

theorem State.gateAndCommit_calTrip : (s.calTrip c).gateAndCommit = s.gateAndCommit := by
  unfold State.calTrip
  split
  · rfl
  · exact State.gateAndCommit_calEnded _ _

theorem State.gateAndCommit_pmuTrip : (s.pmuTrip c).gateAndCommit = s.gateAndCommit := by
  unfold State.pmuTrip
  extract_lets n pmu s1
  split
  · rw [State.gateAndCommit_put _ (by simp only [Field.id, PMU_STATUS_END, CLK_STATUS_GATE]; omega),
      State.gateAndCommit_put _ (by simp only [Field.id, PMU_STATUS_CONN, CLK_STATUS_GATE]; omega)]
    rfl
  · rfl

theorem State.gateAndCommit_tiuInterrupt (p : Nat → Bool) : (s.tiuInterrupt p).gateAndCommit = s.gateAndCommit := by
  refine foldl_keeps State.gateAndCommit (fun t n => ?_) _ _
  split <;> rfl

theorem State.gateAndCommit_recordCause (sites bit : Nat) : (s.recordCause sites bit).gateAndCommit = s.gateAndCommit := rfl

theorem State.gateAndCommit_trip (h : Nat) (cs : List Nat) : (s.trip h cs).gateAndCommit = s.gateAndCommit := by
  have hch (t : State) (c : Nat) : (t.tripChannel c).gateAndCommit = t.gateAndCommit := by
    rw [State.tripChannel, State.gateAndCommit_calTrip, State.gateAndCommit_pmuTrip]
    rfl
  rw [State.trip_eq, State.tripEffects, State.gateAndCommit_recordCause, State.gateAndCommit_tiuInterrupt, foldl_keeps State.gateAndCommit hch]
  rfl

/-! ## The clocks stop with a channel listed twice -/

/-- After a reset, with the gate open and channel 5 listed twice. -/
def twiceListedOpen : State := { State.reset.put CLK_STATUS_GATE 1 with land := { State.reset.land with chans := twiceListed } }

/-- The state that notes the stop, the measurements ended. -/
def State.stopNoted (s : State) (kind epoch : Nat) : State :=
  let s0 := s.recordAll 9
  let s1 := ((((s0.put FRZ_STATUS_STATE kind).put FRZ_STATUS_GROUPWAIT 0).put FRZ_STATUS_ARMED 0).put64 FRZ_GVC_LO FRZ_GVC_HI
    s.clk.gvc).put64 FRZ_EPOCH_LO FRZ_EPOCH_HI epoch
  let s2 : State := { s1.put FRZ_NREAD 0 with frz := { s1.frz with hard := none, soft := none, late := none, wall := s.time.wall } }
  s2.tiuEndAll 4

theorem State.freeze_eq (kind epoch : Nat) : s.freeze kind epoch =
    (((((s.stopNoted kind epoch).manualTrip allChannels).loseCommit.closeGate.cleClockStop.put HBC_STATUS_INSERVICE 0).put
      CLK_STATUS_LOCKED 0).raise srcFrzEnter (s.get FRZ_STATUS_TRIG) 0) := by
  unfold State.freeze State.stopNoted
  simp only []

theorem State.chan_freeze (kind epoch : Nat) :
    (s.freeze kind epoch).chan c = (((s.stopNoted kind epoch).manualTrip allChannels).loseCommit.closeGate).chan c := by
  rw [State.freeze_eq, State.chan, State.raise_land, State.put_land, State.put_land, State.land_cleClockStop, State.chan]

theorem stopNoted_twiceListedOpen : (twiceListedOpen.stopNoted 2 0).gateAndCommit = (true, none) ∧
    (twiceListedOpen.stopNoted 2 0).land.chans = twiceListed := by
  decide +kernel

theorem drv_freeze_twiceListedOpen : ((twiceListedOpen.freeze 2 0).chan 5).drv = 1 := by
  obtain ⟨hgate, hchans⟩ := stopNoted_twiceListedOpen
  generalize hu : (twiceListedOpen.stopNoted 2 0).manualTrip allChannels = u
  have hgc : u.gateAndCommit = (true, none) := by rw [← hu, State.manualTrip, State.gateAndCommit_trip, hgate]
  obtain ⟨hopen, hcommit⟩ := Prod.mk.inj hgc
  have hlose : u.loseCommit = u := by rw [State.loseCommit, hcommit]
  rw [State.chan_freeze, hu, hlose]
  refine State.drv_closeGate_twiceListed hopen ?_
  rw [← hu, State.manualTrip]
  exact State.chans_trip (fun _ => allChannels_lt) hchans

end

end Sys2Proof.Machine
namespace Sys2Proof.Proofs
open Sys2Proof.Machine

/-- Refutes O48: it has the driver of every channel off when the clocks have stopped. In `twiceListedOpen` channel 5 is listed twice; the trip turns
the driver of the first entry off, the gate that closes drops that entry, and channel 5 then reads as the second, with its driver on. -/
theorem not_frostStops : ¬ Obligations.FrostStops := by
  unfold Obligations.FrostStops
  rintro ⟨-, -, -, -, hfreeze, -⟩
  obtain ⟨-, -, -, -, -, hoff, -⟩ := hfreeze twiceListedOpen 2 0 (by decide) _ rfl
  obtain ⟨-, hdrv⟩ := hoff 5 (by decide)
  rw [drv_freeze_twiceListedOpen] at hdrv
  exact absurd hdrv (by decide)

end Sys2Proof.Proofs
end

