-- ==== Sys2Proof/Proofs/PowerStates.lean ====
section
/-! SUPPORT. The gate that closes, a sink, the end of a sink and the end of a wake: what each shows and what it leaves; then the statement on
power states. -/

namespace Sys2Proof.Machine

/-! ## The gate closes -/

section
variable {s : State} {f : Field}

/-- The field is not of a filter chain's start stamp. -/
def Field.unstamped (f : Field) : Prop := f.lo < 32 ∧ (f.off < 0x340000 ∨ f.lo ≠ 0)

theorem Field.unstamped.ne (hf : f.unstamped) (n : Nat) : f.id ≠ (DFC_START_GVC_LO n).id ∧ f.id ≠ (DFC_START_GVC_HI n).id := by
  obtain ⟨hlo, hoff⟩ := hf
  simp only [Field.id, DFC_START_GVC_LO, DFC_START_GVC_HI]
  omega

theorem State.get_unstampChains_of (hf : f.unstamped) : s.unstampChains.get f = s.get f := by
  unfold State.unstampChains
  apply foldl_keeps (fun t : State => t.get f)
  intro t e
  exact State.get_put64_ne _ _ (hf.ne _).1 (hf.ne _).2

theorem State.parts_unstampChains : s.unstampChains.parts = s.parts := by
  unfold State.unstampChains
  apply foldl_keeps State.parts
  intro t e
  rfl

/-- What stands when the gate closes, before its own registers change. -/
def State.gateLeft (s : State) : State := ((s.recordAll 10).endPlaylist 0xD).tiuLeaveNow.loseCommit.missHarvest

theorem State.gateLeft_aside : s.gateLeft.aside false = s.aside false := by simp [State.gateLeft]

theorem State.gateShut_eq : s.gateShut = ((s.gateLeft.put CMT_STATUS_INSYNC 0).put CLK_STATUS_GATE 0).unstampChains := rfl

theorem State.parts_gateShut : s.gateShut.parts = s.parts := by
  rw [State.gateShut_eq, State.parts_unstampChains]
  exact congrArg (·.2.1) State.gateLeft_aside

theorem State.get_gateShut (hf : f.unstamped) (hb : f.beyond false = true) : s.gateShut.get f = s.get f := by
  rw [State.gateShut_eq, State.get_unstampChains_of hf, State.get_put_ne _ _ (Field.id_ne_of_near (by decide) hb),
    State.get_put_ne _ _ (Field.id_ne_of_near (by decide) hb)]
  exact (State.agrees.of_aside State.gateLeft_aside).get hb

theorem State.loseInsync_keeps (hf : f.unstamped) (hb : f.beyond false = true) : s.loseInsync.parts = s.parts ∧ s.loseInsync.get f = s.get f := by
  unfold State.loseInsync
  split
  · rw [State.parts_unstampChains, State.get_unstampChains_of hf, State.get_put_ne _ _ (Field.id_ne_of_near (by decide) hb)]
    exact ⟨rfl, rfl⟩
  · exact ⟨rfl, rfl⟩

theorem State.closeGate_keeps (hf : f.unstamped) (hb : f.beyond false = true) : s.closeGate.parts = s.parts ∧ s.closeGate.get f = s.get f := by
  cases hg : s.gateOpen with
  | false =>
    rw [s.closeGate_closed hg]
    exact State.loseInsync_keeps hf hb
  | true =>
    have hshut : s.gateShut.parts = s.parts ∧ s.gateShut.get f = s.get f := ⟨State.parts_gateShut, State.get_gateShut hf hb⟩
    obtain ⟨l, h | h⟩ := s.closeGate_open hg
    · rw [h]
      exact hshut
    · have hshort (t : State) : t.freezeShort.parts = t.parts ∧ t.freezeShort.get f = t.get f :=
        ⟨congrArg (·.2.1) (State.freezeShort_aside (mark := false) t), (State.agrees.of_aside t.freezeShort_aside).get hb⟩
      rw [h, (hshort _).1, (hshort _).2]
      exact hshut

theorem State.parts_closeGate : s.closeGate.parts = s.parts :=
  (State.closeGate_keeps (f := PMG_STATUS_STATE) ⟨by decide, by decide⟩ (by decide)).1

theorem State.get_closeGate (hf : f.unstamped) (hb : f.beyond false = true) : s.closeGate.get f = s.get f := (State.closeGate_keeps hf hb).2

/-! ## The loop engine loses its clock -/

theorem State.get_cleClockStop (hf : f.off < 0x380000 ∨ 0x400000 ≤ f.off) (hlo : f.lo < 32) : s.cleClockStop.get f = s.get f := by
  have hhtr (t : State) : ∀ k ∈ List.range 8, (t.put (CLE_TH_PHTR k) 0).get f = t.get f := fun k hk =>
    State.get_put_ne _ _ (by have := List.mem_range.mp hk; simp only [Field.id, CLE_TH_PHTR]; omega)
  have hloop (t : State) (n : Nat) :
      (if t.get (CLE_LSTATUS_MODE n) = 2 then t.setLoop n { t.loop n with preset := true } else t).get f = t.get f := by
    split <;> rfl
  have hrun (l : List Nat) (hl : ∀ k ∈ l, k ∈ List.range 8) (t : State) : (l.foldl (fun t k => t.put (CLE_TH_PHTR k) 0) t).get f = t.get f := by
    induction l generalizing t with
    | nil => rfl
    | cons k l ih =>
      exact (ih (fun j hj => hl j (List.mem_cons_of_mem _ hj)) _).trans (hhtr t k (hl k List.mem_cons_self))
  have hsettled : f.id ≠ CLE_STATUS_TSETTLED.id := by
    simp only [Field.id, CLE_STATUS_TSETTLED]
    omega
  unfold State.cleClockStop
  extract_lets s1 s2
  have h1 : s1.get f = s.get f := hrun _ (fun _ hk => hk) s
  have h2 : s2.get f = s1.get f := foldl_keeps (fun t : State => t.get f) hloop _ s1
  clear_value s2
  clear_value s1
  exact (State.get_put_ne s2 0 hsettled).trans (h2.trans h1)

theorem State.que_cleClockStop : s.cleClockStop.que = s.que := by
  have hloop (t : State) (n : Nat) :
      (if t.get (CLE_LSTATUS_MODE n) = 2 then t.setLoop n { t.loop n with preset := true } else t).que = t.que := by
    split <;> rfl
  unfold State.cleClockStop
  extract_lets s1 s2
  have h1 : s1.que = s.que := foldl_keeps State.que (fun t k => (rfl : (t.put (CLE_TH_PHTR k) 0).que = t.que)) _ s
  have h2 : s2.que = s1.que := foldl_keeps State.que hloop _ s1
  clear_value s2
  clear_value s1
  exact h2.trans h1

/-! ## States -/

theorem State.enterState_eq {st : Nat} (h : s.get PMG_STATUS_STATE ≠ st) : s.enterState st = (s.put PMG_STATUS_STATE st).raise srcPmgState st 0 :=
  if_neg h

theorem State.enterState_state {st : Nat} (h : st < 8) : (s.enterState st).get PMG_STATUS_STATE = st := by
  unfold State.enterState
  split
  · assumption
  · rw [State.get_raise, State.get_put_same]
    exact Nat.mod_eq_of_lt h

theorem State.get_enterState (st : Nat) (hf : f.id ≠ PMG_STATUS_STATE.id) : (s.enterState st).get f = s.get f := by
  unfold State.enterState
  split
  · rfl
  · exact (State.get_raise _ _ _ _ _).trans (State.get_put_ne _ _ hf)

theorem State.enterState_keeps (st : Nat) : (s.enterState st).que = s.que ∧ (s.enterState st).land = s.land ∧ (s.enterState st).pmg = s.pmg := by
  unfold State.enterState
  split <;> exact ⟨rfl, rfl, rfl⟩

theorem State.enterState_tells {st : Nat} (h : s.get PMG_STATUS_STATE ≠ st) (hst : st < 8) :
    ∃ r ∈ (s.enterState st).raised, r.src = srcPmgState ∧ r.arg = st := by
  obtain ⟨r, hr, hsrc, harg⟩ := State.raise_tells (s.put PMG_STATUS_STATE st) srcPmgState st 0
  rw [State.enterState_eq h]
  exact ⟨r, hr, hsrc, harg.trans (Nat.mod_eq_of_lt (by omega))⟩

/-! ## Requests (R773) -/

theorem State.pmgRequest_other {r : Req} {k : State → State} (which : Nat) (h : r ≠ .host) (h' : r ≠ .rootstock) : s.pmgRequest r which k = s :=
  if_pos (by simp [h, h'])

theorem State.pmgRequest_refused {r : Req} {k : State → State} {which : Nat} (h : r = .host ∨ r = .rootstock) (hc : s.pmgCode which ≠ 0) :
    s.pmgRequest r which k = (s.put PMG_STATUS_REFUSED 1).put PMG_STATUS_REF (s.pmgCode which) := by
  unfold State.pmgRequest
  rw [if_neg (by rcases h with rfl | rfl <;> simp), if_pos hc]
  rfl

theorem State.pmgRequest_taken {r : Req} {k : State → State} {which : Nat} (h : r = .host ∨ r = .rootstock) (hc : s.pmgCode which = 0) :
    s.pmgRequest r which k = k s := by
  unfold State.pmgRequest
  rw [if_neg (by rcases h with rfl | rfl <;> simp), if_neg (by simp [hc])]

/-! ## The code of a refusal (R773) -/

theorem State.pmgCode_wrongState : (s.get PMG_STATUS_STATE ≠ 2 → s.pmgCode 0 = 1 ∧ s.pmgCode 3 = 1) ∧
    (s.get PMG_STATUS_STATE ≠ 1 → s.get PMG_STATUS_STATE ≠ 6 → s.pmgCode 1 = 1) ∧ (s.get PMG_STATUS_STATE ≠ 3 → s.pmgCode 2 = 1) := by
  refine ⟨fun h => ⟨?_, ?_⟩, fun h h' => ?_, fun h => ?_⟩ <;> exact if_pos (by simp [*])

theorem State.pmgCode_stopped (hs : s.inSafe = true ∨ s.frozen = true) : (s.get PMG_STATUS_STATE = 2 → s.pmgCode 0 = 2 ∧ s.pmgCode 3 = 2) ∧
    (s.get PMG_STATUS_STATE = 1 ∨ s.get PMG_STATUS_STATE = 6 → s.pmgCode 1 = 2) ∧ (s.get PMG_STATUS_STATE = 3 → s.pmgCode 2 = 2) := by
  have hstop : (s.inSafe || s.frozen) = true := by simpa using hs
  refine ⟨fun h => ⟨?_, ?_⟩, fun h => ?_, fun h => ?_⟩
  · exact (if_neg (by simp [h])).trans (if_pos hstop)
  · exact (if_neg (by simp [h])).trans (if_pos hstop)
  · exact (if_neg (by rcases h with h | h <;> simp [h])).trans (if_pos hstop)
  · exact (if_neg (by simp [h])).trans (if_pos hstop)

theorem State.pmgCode_running (hs : s.inSafe = false) (hf : s.frozen = false) :
    (s.get PMG_STATUS_STATE = 1 ∨ s.get PMG_STATUS_STATE = 6 → s.pmgCode 1 = 0) ∧
    (s.get PMG_STATUS_STATE = 3 → s.pmgCode 2 = if s.playlistAbout then 3 else 0) ∧
    (s.get PMG_STATUS_STATE = 2 → s.pmgCode 3 = 0 ∧ s.pmgCode 0 =
      if s.playlistAbout then 3 else if s.loopsUp then 4
      else if (List.range 8).any (fun n => s.on (SEG_STR_STATUS_OPEN n)) then 5
      else if s.cal.queue = [] ∧ s.cal.running = [] then 0 else 6) := by
  refine ⟨fun h => ?_, fun h => ?_, fun h => ⟨?_, ?_⟩⟩
  · exact (if_neg (by rcases h with h | h <;> simp [h])).trans ((if_neg (by simp [hs, hf])).trans ((if_neg (by simp)).trans (if_pos (by simp))))
  · unfold State.pmgCode
    rw [if_neg (by simp [h]), if_neg (by simp [hs, hf])]
    cases s.playlistAbout <;> simp
  · exact (if_neg (by simp [h])).trans ((if_neg (by simp [hs, hf])).trans ((if_neg (by simp)).trans (if_pos (by simp))))
  · unfold State.pmgCode
    rw [if_neg (by simp [h]), if_neg (by simp [hs, hf])]
    by_cases hq : s.cal.queue = [] ∧ s.cal.running = []
    · simp [hq.1, hq.2]
    · have hq' : (!s.cal.queue.isEmpty || !s.cal.running.isEmpty) = true := by
        simpa [List.isEmpty_iff, ← not_and_or] using hq
      simp [hq, hq']

theorem State.playlistAbout_iff : s.playlistAbout = true ↔ s.seq.running ≠ none ∨ s.seq.queued ≠ none := by
  simp [State.playlistAbout, Option.isSome_iff_ne_none]

theorem State.loopsUp_iff : s.loopsUp = true ↔
    (∃ p < 4, s.on (CLE_LB_CTRL_EN p) = true) ∨ ∃ n < 64, s.get (CLE_CFG_SINK n) = 1 ∧ s.get (CLE_LSTATUS_MODE n) ≠ 0 := by
  simp [State.loopsUp]

theorem State.bloomIdle_iff : s.bloomIdle = true ↔ s.get PMG_STATUS_STATE = 3 ∧ s.seq.running = none ∧ s.seq.queued = none ∧
    ∀ e ∈ s.cal.queue ++ s.cal.running, e.kind = 7 := by
  rw [State.bloomIdle]
  simp only [Bool.and_eq_true, and_assoc, beq_iff_eq, Option.isNone_iff_eq_none, List.all_eq_true]

/-! ## Ports -/

/-- The field is none that the width of a port or the lock of a lane shows. -/
def Field.offPorts (f : Field) : Prop := f.lo < 32 ∧ (f.off < 0x581000 ∨ f.lo = 29 ∨ f.lo = 26 ∨ f.lo = 2)

variable (hf : f.offPorts)
include hf

theorem State.get_put_lock (p l v : Nat) : (s.put (LNK_LSTATUS_LOCK p l) v).get f = s.get f := by
  obtain ⟨hlo, hoff⟩ := hf
  exact State.get_put_ne _ _ (by simp only [Field.id, LNK_LSTATUS_LOCK]; omega)

theorem State.get_setLanes (p lanes : Nat) : (s.setLanes p lanes).get f = s.get f := by
  obtain ⟨hlo, hoff⟩ := hf
  have hin (t : State) (l : Nat) : (t.flag (LNK_LSTATUS_INWIDTH p l) (bitAt lanes l)).get f = t.get f :=
    State.get_put_ne _ _ (by simp only [Field.id, LNK_LSTATUS_INWIDTH]; omega)
  rw [State.setLanes, foldl_keeps (fun t : State => t.get f) hin,
    State.get_put_ne _ _ (by simp only [Field.id, LNK_AZ_STATUS_WIDTH]; omega),
    State.get_put_ne _ _ (by simp only [Field.id, LNK_AZ_STATUS_LANES]; omega)]

theorem State.get_changeWidth (p lanes : Nat) : (s.changeWidth p lanes).get f = s.get f := by
  unfold State.changeWidth
  split
  · rfl
  · refine (State.get_inc_ne _ ?_).trans (State.get_setLanes hf p lanes)
    obtain ⟨hlo, hoff⟩ := hf
    simp only [Field.id, LNK_AZ_NWIDTH]
    omega

omit hf in
theorem State.get_numberFlit (p : Nat) (m : TxMsg) : (s.numberFlit p m).get f = s.get f := by
  unfold State.numberFlit
  extract_lets v
  split <;> rfl

theorem State.get_passSwitch (p : Nat) : (s.passSwitch p).get f = s.get f := by
  unfold State.passSwitch
  extract_lets v
  split
  · rfl
  · extract_lets own peer s1
    have h1 : s1.get f = s.get f := State.get_changeWidth hf p _
    split
    · split
      · exact h1
      · exact (State.get_numberFlit p _).trans h1
    · rfl

theorem State.get_sendWaiting (p : Nat) : (s.sendWaiting p).get f = s.get f := by
  have hflit (t : State) (m : TxMsg) : (t.sendFlit p m).get f = t.get f := (State.get_passSwitch hf p).trans (State.get_numberFlit p m)
  exact foldl_keeps (fun t : State => t.get f) hflit _ _

theorem State.get_portActive_other (p lanes : Nat) (hp : f.id ≠ (LNK_AZ_STATUS_STATE p).id) : (s.portActive p lanes).get f = s.get f := by
  have hlock (t : State) (l : Nat) : (if bitAt lanes l then t.put (LNK_LSTATUS_LOCK p l) 1 else t).get f = t.get f := by
    split
    · exact State.get_put_lock hf _ _ _
    · rfl
  unfold State.portActive
  extract_lets s1 v s2
  have h1 : s1.get f = s.get f := (foldl_keeps (fun t : State => t.get f) hlock _ _).trans (State.get_put_ne _ _ hp)
  have h2 : s2.get f = s1.get f := by
    simp only [s2]
    split <;> rfl
  exact (State.get_sendWaiting hf p).trans (h2.trans h1)

end

section
variable {s : State}

theorem offPorts_state (p : Nat) : (LNK_AZ_STATUS_STATE p).offPorts := ⟨by simp only [LNK_AZ_STATUS_STATE]; omega, .inr (.inl rfl)⟩

theorem State.portState_portActive (p lanes : Nat) : (s.portActive p lanes).portState p = 4 := by
  have hf := offPorts_state p
  have hlock (t : State) (l : Nat) : (if bitAt lanes l then t.put (LNK_LSTATUS_LOCK p l) 1 else t).portState p = t.portState p := by
    split
    · exact State.get_put_lock hf _ _ _
    · rfl
  unfold State.portActive
  extract_lets s1 v s2
  have h1 : s1.portState p = 4 := (foldl_keeps (fun t : State => t.portState p) hlock _ _).trans (State.get_put_same _ _ _)
  have h2 : s2.portState p = s1.portState p := by
    simp only [s2]
    split <;> rfl
  exact (State.get_sendWaiting hf p).trans (h2.trans h1)

theorem State.land_numberFlit (p : Nat) (m : TxMsg) : (s.numberFlit p m).land = s.land := by
  unfold State.numberFlit
  extract_lets v
  split <;> rfl

theorem State.land_setLanes (p lanes : Nat) : (s.setLanes p lanes).land = s.land :=
  foldl_keeps State.land (fun t l => (rfl : (t.flag (LNK_LSTATUS_INWIDTH p l) (bitAt lanes l)).land = t.land)) _ _

theorem State.land_passSwitch (p : Nat) : (s.passSwitch p).land = s.land := by
  have hwidth (t : State) (lanes : Nat) : (t.changeWidth p lanes).land = t.land := by
    unfold State.changeWidth
    split
    · rfl
    · exact State.land_setLanes p lanes
  unfold State.passSwitch
  extract_lets v
  split
  · rfl
  · extract_lets own peer s1
    have h1 : s1.land = s.land := hwidth _ _
    split
    · split
      · exact h1
      · exact (State.land_numberFlit p _).trans h1
    · rfl

theorem State.land_portActive (p lanes : Nat) : (s.portActive p lanes).land = s.land := by
  have hflit (t : State) (m : TxMsg) : (t.sendFlit p m).land = t.land := (State.land_passSwitch p).trans (State.land_numberFlit p m)
  have hlock (t : State) (l : Nat) : (if bitAt lanes l then t.put (LNK_LSTATUS_LOCK p l) 1 else t).land = t.land := by
    split <;> rfl
  unfold State.portActive
  extract_lets s1 v s2
  have h1 : s1.land = s.land := foldl_keeps State.land hlock _ _
  have h2 : s2.land = s1.land := by
    simp only [s2]
    split <;> rfl
  exact (foldl_keeps State.land hflit _ _).trans (h2.trans h1)

theorem beyond_links {f : Field} (hlo : f.lo < 32) (h : 0x500000 ≤ f.off ∧ f.off < 0x600000) : f.beyond false = true := by
  simp only [Field.beyond, Machine.beyond, Bool.and_eq_true, Bool.or_eq_true, decide_eq_true_eq]
  exact ⟨hlo, .inl (.inr h)⟩

theorem portState_id_ne {p q : Nat} (h : p ≠ q) : (LNK_AZ_STATUS_STATE p).id ≠ (LNK_AZ_STATUS_STATE q).id := by
  simp only [Field.id, LNK_AZ_STATUS_STATE]
  omega

/-! ## A sink (R774) -/

/-- A port of a device that sinks: one that is active enters FALLOW. -/
def State.fallowed (s : State) (p : Nat) : State :=
  if s.portState p = 4 then (List.range 4).foldl (fun u l => u.put (LNK_LSTATUS_LOCK p l) 0) (s.put (LNK_AZ_STATUS_STATE p) 5) else s

theorem State.get_fallowed_other {p : Nat} {f : Field} (hf : f.offPorts) (hp : f.id ≠ (LNK_AZ_STATUS_STATE p).id) : (s.fallowed p).get f = s.get f := by
  unfold State.fallowed
  split
  · exact (foldl_keeps (fun t : State => t.get f) (fun t l => (State.get_put_lock hf p l 0 : _ = t.get f)) _ _).trans (State.get_put_ne _ _ hp)
  · rfl

theorem State.portState_fallowed (p : Nat) : (s.fallowed p).portState p = if s.portState p = 4 then 5 else s.portState p := by
  have hf := offPorts_state p
  unfold State.fallowed
  split
  · exact (foldl_keeps (fun t : State => t.portState p) (fun t l => (State.get_put_lock hf p l 0 : _ = t.portState p)) _ _).trans (State.get_put_same _ _ _)
  · rfl

theorem State.que_fallowed (p : Nat) : (s.fallowed p).que = s.que := by
  unfold State.fallowed
  split
  · exact foldl_keeps State.que (fun t l => (rfl : (t.put (LNK_LSTATUS_LOCK p l) 0).que = t.que)) _ _
  · rfl

/-- A port's state after the ports of a list without repetitions are dealt with, each by an operation that leaves the other ports. -/
theorem portState_foldl {g : State → Nat → State} {v : Nat → Nat} (hsame : ∀ (t : State) p, (g t p).portState p = v (t.portState p))
    (hother : ∀ (t : State) p q, q ≠ p → (g t p).portState q = t.portState q) (l : List Nat) (hl : l.Nodup) (s : State) (q : Nat) :
    (l.foldl g s).portState q = if q ∈ l then v (s.portState q) else s.portState q := by
  induction l generalizing s with
  | nil => simp
  | cons p l ih =>
    obtain ⟨hp, hl'⟩ := List.nodup_cons.mp hl
    rw [List.foldl_cons, ih hl']
    by_cases hq : q = p
    · rw [hq, if_neg hp, if_pos List.mem_cons_self, hsame]
    · simp only [List.mem_cons, hq, false_or, hother _ _ _ hq]

/-- What a sink has done before the clocks stop: the gate closed and the group left. -/
def State.groupLeft (s : State) : State :=
  ((((s.closeGate.ownRoot).put CLK_GRP_STATUS_STARTED 0).put CLK_GRP_STATUS_FORMED 0).put CLK_GRP_STATUS_STARTPEND 0)

/-- The ports in FALLOW. -/
def State.portsFallowed (s : State) : State := (List.range 4).foldl (fun t p => t.fallowed p) s.groupLeft.setDet

/-- The vector clock has no lock, and no start or join waits. -/
def State.unlocked (s : State) : State :=
  { s.put CLK_STATUS_LOCKED 0 with clk := { s.clk with relocking := false, startMsg := none, joinUntil := none } }

theorem State.get_unlocked (f : Field) : s.unlocked.get f = (s.put CLK_STATUS_LOCKED 0).get f := rfl

theorem State.que_unlocked : s.unlocked.que = s.que := rfl

/-- Everything of a sink but the state that it enters. -/
def State.sunk (s : State) : State := (s.portsFallowed.unlocked.put HBC_STATUS_INSERVICE 0).cleClockStop

theorem State.sink_eq : s.sink = s.sunk.enterState 6 := by
  unfold State.sink State.sunk State.unlocked State.portsFallowed State.groupLeft State.fallowed
  with_reducible rfl

theorem State.get_groupLeft {f : Field} (hf : f.id ∉ [CMT_HOPS.id, CLK_DEPTH_D.id, CLK_DEPTH_UP.id, CLK_DEPTH_DOWN.id, CMT_STATUS_ROOT.id,
    CLK_GRP_STATUS_STARTED.id, CLK_GRP_STATUS_FORMED.id, CLK_GRP_STATUS_STARTPEND.id]) : s.groupLeft.get f = s.closeGate.get f := by
  simp only [List.mem_cons, List.not_mem_nil, or_false, not_or] at hf
  obtain ⟨h1, h2, h3, h4, h5, h6, h7, h8⟩ := hf
  rw [State.groupLeft, State.ownRoot, State.get_put_ne _ _ h8, State.get_put_ne _ _ h7, State.get_put_ne _ _ h6, State.get_put_ne _ _ h5,
    State.get_put_ne _ _ h4, State.get_put_ne _ _ h3, State.get_put_ne _ _ h2, State.get_put_ne _ _ h1]

/-- The device is a root with no group. -/
theorem State.groupLeft_root : s.groupLeft.get CMT_HOPS = 0 ∧ s.groupLeft.get CLK_DEPTH_D = 0 ∧ s.groupLeft.get CLK_DEPTH_UP = 15 ∧
    s.groupLeft.get CLK_DEPTH_DOWN = 0 ∧ s.groupLeft.get CMT_STATUS_ROOT = 1 ∧ s.groupLeft.get CLK_GRP_STATUS_STARTED = 0 := by
  simp only [State.groupLeft, State.ownRoot]
  refine ⟨?_, ?_, ?_, ?_, ?_, ?_⟩ <;>
  · simp (disch := decide) only [State.get_put_ne, State.get_put_same]
    decide

theorem State.que_setDet : s.setDet.que = s.que := by
  unfold State.setDet
  exact foldl_keeps State.que (fun t p => (rfl : (t.flag (LNK_AZ_STATUS_DET p) _).que = t.que)) _ _

theorem State.que_portsFallowed : s.portsFallowed.que = s.closeGate.que :=
  (foldl_keeps State.que (fun t p => State.que_fallowed (s := t) p) _ _).trans State.que_setDet

theorem State.get_setDet_other {f : Field} (hf : ∀ p, f.id ≠ (LNK_AZ_STATUS_DET p).id) : s.setDet.get f = s.get f := by
  unfold State.setDet
  exact foldl_keeps (fun t : State => t.get f) (fun t p => (State.get_put_ne _ _ (hf p) : (t.flag (LNK_AZ_STATUS_DET p) _).get f = t.get f)) _ _

theorem State.get_portsFallowed {f : Field} (hlo : f.lo < 32) (hoff : f.off < 0x581000) : s.portsFallowed.get f = s.groupLeft.get f := by
  have hfallow (t : State) (p : Nat) : (t.fallowed p).get f = t.get f :=
    State.get_fallowed_other ⟨hlo, .inl hoff⟩ (by simp only [Field.id, LNK_AZ_STATUS_STATE]; omega)
  exact (foldl_keeps (fun t : State => t.get f) hfallow _ _).trans
    (State.get_setDet_other fun p => by simp only [Field.id, LNK_AZ_STATUS_DET]; omega)

theorem State.portState_portsFallowed {p : Nat} (hp : p < 4) : s.portsFallowed.portState p = if s.portState p = 4 then 5 else s.portState p := by
  have hother (t : State) (p q : Nat) (h : q ≠ p) : (t.fallowed p).portState q = t.portState q :=
    State.get_fallowed_other (offPorts_state q) (portState_id_ne h)
  have hdet : s.groupLeft.setDet.portState p = s.portState p := by
    refine (State.get_setDet_other fun q => ?_).trans ((State.get_groupLeft ?_).trans (State.get_closeGate ?_ ?_))
    · simp only [Field.id, LNK_AZ_STATUS_STATE, LNK_AZ_STATUS_DET]
      omega
    · simp only [List.mem_cons, List.not_mem_nil, or_false, not_or, Field.id, LNK_AZ_STATUS_STATE, CMT_HOPS, CLK_DEPTH_D, CLK_DEPTH_UP, CLK_DEPTH_DOWN,
        CMT_STATUS_ROOT, CLK_GRP_STATUS_STARTED, CLK_GRP_STATUS_FORMED, CLK_GRP_STATUS_STARTPEND]
      omega
    · exact ⟨show 29 < 32 by decide, .inr (show 29 ≠ 0 by decide)⟩
    · exact beyond_links (show 29 < 32 by decide) (by simp only [LNK_AZ_STATUS_STATE]; omega)
  rw [State.portsFallowed, portState_foldl (v := fun n => if n = 4 then 5 else n) (fun t p => State.portState_fallowed (s := t) p) hother _ List.nodup_range,
    if_pos (List.mem_range.mpr hp), hdet]

theorem State.det_portsFallowed {p : Nat} (hp : p < 4) : s.portsFallowed.get (LNK_AZ_STATUS_DET p) = 0 := by
  have hfallow (t : State) (q : Nat) : (t.fallowed q).get (LNK_AZ_STATUS_DET p) = t.get (LNK_AZ_STATUS_DET p) :=
    State.get_fallowed_other ⟨show 26 < 32 by decide, .inr (.inr (.inl rfl))⟩ (by simp only [Field.id, LNK_AZ_STATUS_STATE, LNK_AZ_STATUS_DET]; omega)
  obtain ⟨-, -, hup, hdown, -, -⟩ := State.groupLeft_root (s := s)
  have hdet : s.groupLeft.setDet.on (LNK_AZ_STATUS_DET p) = false := by
    rw [State.setDet_on _ hp, hup, hdown, Bool.or_eq_false_iff]
    refine ⟨beq_false_of_ne (by omega), by simp [bitAt]⟩
  exact (foldl_keeps (fun t : State => t.get (LNK_AZ_STATUS_DET p)) hfallow _ _).trans ((State.on_false _ _).mp hdet)

theorem State.get_sunk_ports {f : Field} (hlo : f.lo < 32) (hoff : f.off < 0x380000 ∨ 0x400000 ≤ f.off) (hl : f.id ≠ CLK_STATUS_LOCKED.id)
    (hi : f.id ≠ HBC_STATUS_INSERVICE.id) : s.sunk.get f = s.portsFallowed.get f := by
  rw [State.sunk, State.get_cleClockStop hoff hlo, State.get_put_ne _ _ hi, State.get_unlocked, State.get_put_ne _ _ hl]

theorem State.get_sunk {f : Field} (hlo : f.lo < 32) (hoff : f.off < 0x380000) (hl : f.id ≠ CLK_STATUS_LOCKED.id) :
    s.sunk.get f = s.groupLeft.get f :=
  (State.get_sunk_ports hlo (.inl hoff) hl (by simp only [Field.id, HBC_STATUS_INSERVICE]; omega)).trans (State.get_portsFallowed hlo (by omega))

/-- The clocks have stopped, and memory is out of service. -/
theorem State.sunk_stopped : s.sunk.get CLK_STATUS_LOCKED = 0 ∧ s.sunk.get HBC_STATUS_INSERVICE = 0 := by
  rw [State.sunk, State.get_cleClockStop (by decide) (by decide), State.get_cleClockStop (by decide) (by decide), State.get_put_ne _ _ (by decide),
    State.get_unlocked, State.get_put_same, State.get_put_same]
  exact ⟨rfl, rfl⟩

theorem State.que_sunk : s.sunk.que = s.closeGate.que := by
  rw [State.sunk, State.que_cleClockStop, State.put_que, State.que_unlocked, State.que_portsFallowed]

/-! ## The end of a sink (R774) -/

/-- Every driver off. -/
def State.driversOff (s : State) : State := allChannels.foldl (fun t c => t.setChan c { t.chan c with drv := 0 }) s

theorem State.driversOff_keeps : s.driversOff.cells = s.cells ∧ s.driversOff.que = s.que ∧ s.driversOff.pmg = s.pmg ∧ s.driversOff.mem = s.mem := by
  have h : (fun t : State => (t.cells, t.que, t.pmg, t.mem)) s.driversOff = (s.cells, s.que, s.pmg, s.mem) :=
    foldl_keeps (fun t : State => (t.cells, t.que, t.pmg, t.mem))
      (fun t c => (rfl : (fun t : State => (t.cells, t.que, t.pmg, t.mem)) (t.setChan c { t.chan c with drv := 0 }) = _)) allChannels s
  simpa only [Prod.mk.injEq] using h

theorem State.drv_driversOff {c : Nat} (hc : c < 256) : (s.driversOff.chan c).drv = 0 := by
  have hkept (t : State) (d : Nat) (ht : (t.chan c).drv = 0) : ((t.setChan d { t.chan d with drv := 0 }).chan c).drv = 0 := by
    by_cases hd : c = d
    · rw [hd, State.chan_setChan_same]
    · rwa [State.chan_setChan_ne _ _ hd]
  have hlist (l : List Nat) (t : State) (h : c ∈ l ∨ (t.chan c).drv = 0) :
      ((l.foldl (fun t c => t.setChan c { t.chan c with drv := 0 }) t).chan c).drv = 0 := by
    induction l generalizing t with
    | nil => exact h.resolve_left List.not_mem_nil
    | cons d l ih =>
      refine ih _ ?_
      rcases h with h | h
      · rcases List.mem_cons.mp h with rfl | h
        · exact .inr (by rw [State.chan_setChan_same])
        · exact .inl h
      · exact .inr (hkept t d h)
  exact hlist allChannels s (.inl (mem_allChannels hc))

/-- The sink's end before the state that it enters. -/
def State.dozed (s : State) : State := s.driversOff.dormantDomains.put WTM_STATUS_COARSE 1

theorem State.get_driversOff (f : Field) : s.driversOff.get f = s.get f := State.get_congr f State.driversOff_keeps.1

theorem State.get_dozed {f : Field} (hc : f.id ≠ WTM_STATUS_COARSE.id) (h0 : f.id ≠ PMG_DOM_ON0.id) (h1 : f.id ≠ PMG_DOM_ON1.id) :
    s.dozed.get f = s.get f := by
  rw [State.dozed, State.dormantDomains, State.get_put_ne _ _ hc, State.get_put_ne _ _ h1, State.get_put_ne _ _ h0, State.get_driversOff]

theorem State.domOn_dozed {d : Nat} (hd : d < 64) :
    s.dozed.domOn d = (decide (d = 0) || (decide (d = 21) && decide (s.get LNK_PCIE_STATUS_LPWR ≠ 2))) := by
  have h0 : s.dozed.get PMG_DOM_ON0 = if s.get LNK_PCIE_STATUS_LPWR = 2 then 1 else 1 + 2 ^ 21 := by
    rw [State.dozed, State.dormantDomains, State.get_put_ne _ _ (by decide), State.get_put_ne _ _ (by decide), State.get_put_same, State.get_driversOff]
    split <;> decide
  have h1 : s.dozed.get PMG_DOM_ON1 = 0 := by
    rw [State.dozed, State.dormantDomains, State.get_put_ne _ _ (by decide), State.get_put_same]
    decide
  rw [State.domOn, h0, h1]
  by_cases hl : s.get LNK_PCIE_STATUS_LPWR = 2
  · simp only [hl, if_true]
    revert d
    decide
  · simp only [ne_eq, hl, not_false_eq_true, decide_true, Bool.and_true]
    revert d
    decide

theorem State.domOn_enterState (st d : Nat) : (s.enterState st).domOn d = s.domOn d := by
  rw [State.domOn, State.domOn, State.get_enterState _ (by decide), State.get_enterState _ (by decide)]

theorem State.mem_enterState (st : Nat) : (s.enterState st).mem = s.mem := by
  unfold State.enterState
  split <;> rfl

theorem State.dozed_keeps : s.dozed.que = s.que ∧ s.dozed.pmg = s.pmg ∧ s.dozed.mem = s.mem := by
  obtain ⟨-, hque, hpmg, hmem⟩ := State.driversOff_keeps (s := s)
  unfold State.dozed State.dormantDomains
  refine ⟨?_, ?_, ?_⟩
  · rw [State.put_que, State.put_que, State.put_que, hque]
  · rw [State.put_pmg, State.put_pmg, State.put_pmg, hpmg]
  · rw [State.put_mem, State.put_mem, State.put_mem, hmem]

theorem State.drv_dozed {c : Nat} (hc : c < 256) : (s.dozed.chan c).drv = 0 := by
  rw [State.chan, State.dozed, State.dormantDomains, State.put_land, State.put_land, State.put_land, ← State.chan, State.drv_driversOff hc]

theorem execSinkDone_sinks (h : s.get PMG_STATUS_STATE = 6) (hp : s.grd.powerLoss = false) :
    execSinkDone s = .next (if s.pmg.wakePending = true then (s.dozed.enterState 1).startWake else s.dozed.enterState 1) := by
  obtain ⟨-, hpmg, -⟩ := State.dozed_keeps (s := s)
  obtain ⟨-, -, hstate⟩ := State.enterState_keeps (s := s.dozed) 1
  rw [← hpmg, ← hstate]
  unfold execSinkDone
  rw [if_neg (by simp [h, hp])]
  unfold State.dozed State.driversOff
  with_reducible rfl

/-! ## The end of a wake (R775) -/

/-- The domains back, and memory in service as configured. -/
def State.domainsBack (s : State) : State :=
  ((s.awakeDomains.put WTM_STATUS_COARSE 0).put HBC_STATUS_INSERVICE (s.get HBC_CTRL_INSERVICE)).startCycles

/-- Then every channel at the start of a pass. -/
def State.passesBegun (s : State) : State := allChannels.foldl (fun t c => t.beginPass c) s

/-- A port out of FALLOW. -/
def State.unfallowed (s : State) (p : Nat) : State :=
  if s.portState p = 5 then s.portActive p (s.get (LNK_AZ_STATUS_LANES p)) else s

/-- Then the ports out of FALLOW. -/
def State.portsBack (s : State) : State := (List.range 4).foldl (fun t p => t.unfallowed p) s.domainsBack.passesBegun

/-- Then the vector clock locked, with the gate open unless it is held. -/
def State.clocked (s : State) : State := if s.on CLK_CTRL_HOLD then s.relocked else s.relocked.openGate (s.clk.gvc + 1)

/-- Everything that the end of a wake does. -/
def State.woken (s : State) : State := (s.portsBack.clocked.put PMG_WAKE_US ((s.time.rc - s.pmg.wakeFrom) / 100)).enterState 2

theorem execWakeDone_wakes (h : s.get PMG_STATUS_STATE = 4) (hr : s.on CLK_STATUS_REFLOST = false) (hp : s.grd.powerLoss = false) :
    execWakeDone s = .next s.woken := by
  unfold execWakeDone
  rw [if_neg (by simp [h, hr, hp])]
  unfold State.woken State.portsBack State.domainsBack State.passesBegun State.unfallowed State.clocked
  with_reducible rfl

theorem State.readback_beginPass_same (c : Nat) : ((s.beginPass c).readback c).running = true ∧ ((s.beginPass c).readback c).step = 0 := by
  rw [State.beginPass, State.readback_setReadback_same]
  exact ⟨rfl, rfl⟩

theorem State.get_passesBegun (f : Field) : s.passesBegun.get f = s.get f :=
  foldl_keeps (fun t : State => t.get f) (fun t c => (rfl : (t.beginPass c).get f = t.get f)) _ _

/-- The pass of channel c has begun. -/
def State.atPassStart (s : State) (c : Nat) : Prop := (s.readback c).running = true ∧ (s.readback c).step = 0

theorem State.atPassStart_passesBegun {c : Nat} (hc : c < 256) : s.passesBegun.atPassStart c := by
  have hlist (l : List Nat) (t : State) (h : c ∈ l ∨ t.atPassStart c) : (l.foldl (fun t c => t.beginPass c) t).atPassStart c := by
    induction l generalizing t with
    | nil => exact h.resolve_left List.not_mem_nil
    | cons d l ih =>
      refine ih _ ?_
      by_cases hd : c = d
      · exact .inr (hd ▸ State.readback_beginPass_same c)
      · rcases h with h | h
        · exact .inl ((List.mem_cons.mp h).resolve_left hd)
        · refine .inr ?_
          simp only [State.atPassStart, State.beginPass, State.readback_setReadback_ne _ _ hd]
          exact h
  exact hlist allChannels s (.inl (mem_allChannels hc))

theorem State.get_unfallowed_other {p : Nat} {f : Field} (hf : f.offPorts) (hp : f.id ≠ (LNK_AZ_STATUS_STATE p).id) :
    (s.unfallowed p).get f = s.get f := by
  unfold State.unfallowed
  split
  · exact State.get_portActive_other hf p _ hp
  · rfl

theorem State.portState_unfallowed (p : Nat) : (s.unfallowed p).portState p = if s.portState p = 5 then 4 else s.portState p := by
  unfold State.unfallowed
  split
  · exact State.portState_portActive p _
  · rfl

theorem State.land_unfallowed (p : Nat) : (s.unfallowed p).land = s.land := by
  unfold State.unfallowed
  split
  · exact State.land_portActive p _
  · rfl

theorem State.land_portsBack : s.portsBack.land = s.domainsBack.passesBegun.land :=
  foldl_keeps State.land (fun t p => (State.land_unfallowed p : (t.unfallowed p).land = t.land)) _ _

theorem State.get_portsBack {f : Field} (hf : f.offPorts) (hs : ∀ p, f.id ≠ (LNK_AZ_STATUS_STATE p).id) : s.portsBack.get f = s.domainsBack.get f :=
  (foldl_keeps (fun t : State => t.get f) (fun t p => (State.get_unfallowed_other hf (hs p) : (t.unfallowed p).get f = t.get f)) _ _).trans
    (State.get_passesBegun f)

theorem State.get_startCycles (f : Field) : s.startCycles.get f = s.get f := rfl

theorem State.get_domainsBack {f : Field} (h0 : f.id ≠ PMG_DOM_ON0.id) (h1 : f.id ≠ PMG_DOM_ON1.id) (hc : f.id ≠ WTM_STATUS_COARSE.id)
    (hi : f.id ≠ HBC_STATUS_INSERVICE.id) : s.domainsBack.get f = s.get f := by
  rw [State.domainsBack, State.get_startCycles, State.get_put_ne _ _ hi, State.get_put_ne _ _ hc, State.awakeDomains, State.get_put_ne _ _ h1,
    State.get_put_ne _ _ h0]

theorem State.portState_portsBack {p : Nat} (hp : p < 4) (h : s.portState p = 5) : s.portsBack.portState p = 4 := by
  have hother (t : State) (p q : Nat) (h : q ≠ p) : (t.unfallowed p).portState q = t.portState q :=
    State.get_unfallowed_other (offPorts_state q) (portState_id_ne h)
  have hback : s.domainsBack.passesBegun.portState p = s.portState p := by
    refine (State.get_passesBegun _).trans (State.get_domainsBack ?_ ?_ ?_ ?_) <;>
    · simp only [Field.id, LNK_AZ_STATUS_STATE, PMG_DOM_ON0, PMG_DOM_ON1, WTM_STATUS_COARSE, HBC_STATUS_INSERVICE]
      omega
  rw [State.portsBack, portState_foldl (v := fun n => if n = 5 then 4 else n) (fun t p => State.portState_unfallowed (s := t) p) hother _ List.nodup_range,
    if_pos (List.mem_range.mpr hp), hback, if_pos h]

/-- The registers that a lock and an opening gate write. -/
def clockedFields : List Field := [PTF_STATUS_REVAL, LVL_STATUS_REVAL, CLK_STATUS_LOCKED, CLK_NRELOCK, CLK_STATUS_GATE]

theorem State.get_clocked {f : Field} (hf : ∀ g ∈ clockedFields, f.id ≠ g.id) (hr : ∀ n, f.id ≠ (SEG_STR_STATUS_RATEERR n).id) :
    s.clocked.get f = s.get f := by
  simp only [clockedFields, List.mem_cons, List.not_mem_nil, or_false, forall_eq_or_imp, forall_eq] at hf
  obtain ⟨hp, hl, hlocked, hn, hg⟩ := hf
  have hlock : s.relocked.get f = s.get f :=
    State.get_relocked _ (by simp only [List.mem_cons, List.not_mem_nil, or_false, forall_eq_or_imp, forall_eq]; exact ⟨hp, hl, hlocked, hn⟩) hr
  unfold State.clocked
  split
  · exact hlock
  · exact (State.get_openGate _ _ hg).trans hlock

theorem State.locked_clocked : s.clocked.get CLK_STATUS_LOCKED = 1 := by
  have hlock : s.relocked.get CLK_STATUS_LOCKED = 1 := by
    rw [State.relocked_get, State.lockShown, State.get_strRecheck _ (Field.ne_rateErr (by decide) (by decide)), State.get_inc_ne _ (by decide),
      State.get_put_same]
    rfl
  unfold State.clocked
  split
  · exact hlock
  · exact (State.get_openGate _ _ (by decide)).trans hlock

theorem State.gate_clocked (h : s.on CLK_CTRL_HOLD = false) : s.clocked.gateOpen = true := by
  rw [State.clocked, if_neg (by simp [h])]
  exact State.openGate_gate _ _

theorem State.land_relocked : s.relocked.land = s.land := by
  have hstr (t : State) : t.strRecheck.land = t.land := by
    unfold State.strRecheck
    split
    · refine foldl_keeps State.land (fun u n => ?_) _ _
      dsimp only
      split <;> rfl
    · rfl
  have hreval : s.revalEnded.land = s.land := by
    unfold State.revalEnded
    split <;> rfl
  have hshown : s.lockShown.land = s.land := by
    rw [State.lockShown, hstr, State.inc_land, State.put_land, hreval]
  have hclk (t : State) (k : ClkState) : ({ t with clk := k } : State).land = t.land := rfl
  rw [State.relocked_eq, hclk, hshown]

theorem State.readback_clocked (c : Nat) : s.clocked.readback c = s.readback c := by
  have hopen (t : State) (g : Nat) : (t.openGate g).land.readback = t.land.readback := rfl
  unfold State.clocked State.readback
  split
  · rw [State.land_relocked]
  · rw [hopen, State.land_relocked]

theorem State.domOn_domainsBack {d : Nat} (hd : d < 52) : s.domainsBack.domOn d = !bitAt (s.get (domOffWord d)) (d % 32) := by
  have h0 : s.domainsBack.get PMG_DOM_ON0 = maskOf 32 (fun b => !bitAt (s.get PMG_DOM_OFF0) b) % 2 ^ 32 := by
    rw [State.domainsBack, State.get_startCycles, State.get_put_ne _ _ (by decide), State.get_put_ne _ _ (by decide), State.awakeDomains,
      State.get_put_ne _ _ (by decide), State.get_put_same]
    rfl
  have h1 : s.domainsBack.get PMG_DOM_ON1 = maskOf 32 (fun b => bitAt 0xF00FFFFF b && !bitAt (s.get PMG_DOM_OFF1) b) % 2 ^ 32 := by
    rw [State.domainsBack, State.get_startCycles, State.get_put_ne _ _ (by decide), State.get_put_ne _ _ (by decide), State.awakeDomains,
      State.get_put_same]
    rfl
  have hmask (p : Nat → Bool) (b : Nat) (hb : b < 32) : bitAt (maskOf 32 p % 2 ^ 32) b = p b := by
    rw [bitAt_eq_testBit, Nat.testBit_mod_two_pow, ← bitAt_eq_testBit, bitAt_maskOf]
    simp [hb]
  unfold State.domOn domOffWord
  by_cases h : d < 32
  · rw [if_pos h, if_pos h, h0, hmask _ d h, Nat.mod_eq_of_lt h]
  · have hall : ∀ b < 20, bitAt 0xF00FFFFF b = true := by decide
    rw [if_neg h, if_neg h, h1, hmask _ (d - 32) (by omega), hall (d - 32) (by omega), Bool.true_and, show d % 32 = d - 32 by omega]

/-! ## What a wake shows -/

theorem Field.ne_portState {f : Field} (hlo : f.lo < 32) (hf : f.off < 0x581000) (p : Nat) : f.id ≠ (LNK_AZ_STATUS_STATE p).id := by
  simp only [Field.id, LNK_AZ_STATUS_STATE]
  omega

theorem State.get_portsBack_below {f : Field} (hlo : f.lo < 32) (hf : f.off < 0x581000) : s.portsBack.get f = s.domainsBack.get f :=
  State.get_portsBack ⟨hlo, .inl hf⟩ (Field.ne_portState hlo hf)

theorem State.get_woken {f : Field} (hs : f.id ≠ PMG_STATUS_STATE.id) (hw : f.id ≠ PMG_WAKE_US.id) : s.woken.get f = s.portsBack.clocked.get f := by
  rw [State.woken, State.get_enterState _ hs, State.get_put_ne _ _ hw]

theorem State.coarse_woken : s.woken.get WTM_STATUS_COARSE = 0 := by
  rw [State.get_woken (by decide) (by decide), State.get_clocked (by decide) (fun n => by simp only [Field.id, WTM_STATUS_COARSE, SEG_STR_STATUS_RATEERR]; omega),
    State.get_portsBack ⟨by decide, by decide⟩ (fun p => by simp only [Field.id, WTM_STATUS_COARSE, LNK_AZ_STATUS_STATE]; omega), State.domainsBack,
    State.get_startCycles, State.get_put_ne _ _ (by decide), State.get_put_same]
  rfl

theorem State.locked_woken : s.woken.get CLK_STATUS_LOCKED = 1 := by rw [State.get_woken (by decide) (by decide), State.locked_clocked]

theorem State.gate_woken (h : s.on CLK_CTRL_HOLD = false) : s.woken.gateOpen = true := by
  have hold : s.portsBack.on CLK_CTRL_HOLD = false := by
    rw [State.on, State.get_portsBack_below (by decide) (by decide), State.get_domainsBack (by decide) (by decide) (by decide) (by decide), ← State.on, h]
  have hopen := State.gate_clocked hold
  rw [State.gateOpen, State.on] at hopen ⊢
  rw [State.get_woken (by decide) (by decide), hopen]

theorem State.service_woken : s.woken.get HBC_STATUS_INSERVICE = s.get HBC_CTRL_INSERVICE % 2 := by
  rw [State.get_woken (by decide) (by decide),
    State.get_clocked (by decide) (fun n => by simp only [Field.id, HBC_STATUS_INSERVICE, SEG_STR_STATUS_RATEERR]; omega),
    State.get_portsBack_below (by decide) (by decide), State.domainsBack, State.get_startCycles, State.get_put_same]
  rfl

theorem State.us_woken : s.woken.get PMG_WAKE_US = (s.time.rc - s.pmg.wakeFrom) / 100 % 2 ^ PMG_WAKE_US.width := by
  rw [State.woken, State.get_enterState _ (by decide), State.get_put_same]

theorem State.portState_woken {p : Nat} (hp : p < 4) (h5 : s.portState p = 5) : s.woken.portState p = 4 := by
  refine (State.get_woken ?_ ?_).trans ((State.get_clocked ?_ fun n => ?_).trans (State.portState_portsBack hp h5))
  · simp only [Field.id, LNK_AZ_STATUS_STATE, PMG_STATUS_STATE]
    omega
  · simp only [Field.id, LNK_AZ_STATUS_STATE, PMG_WAKE_US]
    omega
  · simp only [clockedFields, List.mem_cons, List.not_mem_nil, or_false, forall_eq_or_imp, forall_eq, Field.id, LNK_AZ_STATUS_STATE, PTF_STATUS_REVAL,
      LVL_STATUS_REVAL, CLK_STATUS_LOCKED, CLK_NRELOCK, CLK_STATUS_GATE]
    omega
  · simp only [Field.id, LNK_AZ_STATUS_STATE, SEG_STR_STATUS_RATEERR]
    omega

theorem State.domOn_woken {d : Nat} (hd : d < 52) : s.woken.domOn d = !bitAt (s.get (domOffWord d)) (d % 32) := by
  have hword {f : Field} (hf : f = PMG_DOM_ON0 ∨ f = PMG_DOM_ON1) : s.woken.get f = s.domainsBack.get f := by
    rcases hf with rfl | rfl <;>
      rw [State.get_woken (by decide) (by decide), State.get_clocked (by decide) (Field.ne_rateErr (by decide) (by decide)),
        State.get_portsBack_below (by decide) (by decide)]
  rw [← State.domOn_domainsBack hd, State.domOn, State.domOn, hword (.inl rfl), hword (.inr rfl)]

theorem State.atPassStart_woken {c : Nat} (hc : c < 256) : s.woken.atPassStart c := by
  have hread : s.woken.readback c = s.domainsBack.passesBegun.readback c := by
    rw [State.readback, State.woken, (State.enterState_keeps 2).2.1, State.put_land, ← State.readback, State.readback_clocked, State.readback,
      State.land_portsBack, ← State.readback]
  rw [State.atPassStart, hread]
  exact State.atPassStart_passesBegun hc

theorem State.woken_tells (h : s.get PMG_STATUS_STATE = 4) : ∃ r ∈ s.woken.raised, r.src = srcPmgState ∧ r.arg = 2 := by
  refine State.enterState_tells ?_ (by decide)
  rw [State.get_put_ne _ _ (by decide), State.get_clocked (by decide) (Field.ne_rateErr (by decide) (by decide)),
    State.get_portsBack_below (by decide) (by decide), State.get_domainsBack (by decide) (by decide) (by decide) (by decide), h]
  decide

/-! ## What a sink shows -/

theorem State.get_sink {f : Field} (hlo : f.lo < 32) (hoff : f.off < 0x380000) (hl : f.id ≠ CLK_STATUS_LOCKED.id) (hs : f.id ≠ PMG_STATUS_STATE.id) :
    s.sink.get f = s.groupLeft.get f := by
  rw [State.sink_eq, State.get_enterState _ hs, State.get_sunk hlo hoff hl]

theorem State.portState_sink {p : Nat} (hp : p < 4) : s.sink.portState p = if s.portState p = 4 then 5 else s.portState p := by
  rw [State.sink_eq]
  refine (State.get_enterState _ ?_).trans ((State.get_sunk_ports (show 29 < 32 by decide) ?_ ?_ ?_).trans (State.portState_portsFallowed hp)) <;>
  · simp only [Field.id, LNK_AZ_STATUS_STATE, PMG_STATUS_STATE, CLK_STATUS_LOCKED, HBC_STATUS_INSERVICE]
    omega

theorem State.det_sink {p : Nat} (hp : p < 4) : s.sink.get (LNK_AZ_STATUS_DET p) = 0 := by
  rw [State.sink_eq]
  refine (State.get_enterState _ ?_).trans ((State.get_sunk_ports (show 26 < 32 by decide) ?_ ?_ ?_).trans (State.det_portsFallowed hp)) <;>
  · simp only [Field.id, LNK_AZ_STATUS_DET, PMG_STATUS_STATE, CLK_STATUS_LOCKED, HBC_STATUS_INSERVICE]
    omega

theorem State.gate_sink : s.sink.gateOpen = false := by
  have hshut := s.closeGate_gate
  rw [State.gateOpen, State.on_false] at hshut ⊢
  rw [State.get_sink (by decide) (by decide) (by decide) (by decide), State.get_groupLeft (by decide), hshut]

theorem State.stopped_sink : s.sink.get CLK_STATUS_LOCKED = 0 ∧ s.sink.get HBC_STATUS_INSERVICE = 0 := by
  rw [State.sink_eq, State.get_enterState _ (by decide), State.get_enterState _ (by decide)]
  exact State.sunk_stopped

theorem State.devid_sink : s.sink.get CLK_DEVID = s.get CLK_DEVID := by
  rw [State.get_sink (by decide) (by decide) (by decide) (by decide), State.get_groupLeft (by decide), State.get_closeGate ⟨by decide, by decide⟩ (by decide)]

theorem State.root_sink : s.sink.get CMT_HOPS = 0 ∧ s.sink.get CLK_DEPTH_D = 0 ∧ s.sink.get CMT_STATUS_ROOT = 1 ∧ s.sink.get CLK_GRP_STATUS_STARTED = 0 := by
  obtain ⟨hhops, hdepth, -, -, hroot, hstarted⟩ := State.groupLeft_root (s := s)
  rw [State.get_sink (by decide) (by decide) (by decide) (by decide), State.get_sink (by decide) (by decide) (by decide) (by decide),
    State.get_sink (by decide) (by decide) (by decide) (by decide), State.get_sink (by decide) (by decide) (by decide) (by decide)]
  exact ⟨hhops, hdepth, hroot, hstarted⟩

theorem State.tasks_sink : s.sink.que.tasks = s.que.tasks := by
  rw [State.sink_eq, (State.enterState_keeps 6).1, State.que_sunk]
  exact congrArg (·.2.2.2.2.2.2.2.2) (State.parts_closeGate (s := s))

theorem State.mem_sink : s.sink.mem = s.mem := by
  have hfixed := s.sink_fixed
  simp only [State.fixed, Prod.mk.injEq] at hfixed
  obtain ⟨-, hmem, -⟩ := hfixed
  exact hmem

theorem State.sink_tells (h : s.get PMG_STATUS_STATE ≠ 6) : ∃ r ∈ s.sink.raised, r.src = srcPmgState ∧ r.arg = 6 := by
  rw [State.sink_eq]
  refine State.enterState_tells ?_ (by decide)
  rwa [State.get_sunk (by decide) (by decide) (by decide), State.get_groupLeft (by decide), State.get_closeGate ⟨by decide, by decide⟩ (by decide)]

theorem State.state_sink : s.sink.get PMG_STATUS_STATE = 6 := by
  rw [State.sink_eq]
  exact State.enterState_state (by decide)

end
end Sys2Proof.Machine

namespace Sys2Proof.Proofs
open Sys2Proof.Machine

/-- Settles O49: the requests and the code of a refusal case by case; the fields that a sink, its end and the end of a wake report stand outside what
the steps after them write. -/
theorem powerStates : Obligations.PowerStates := by
  unfold Obligations.PowerStates
  refine ⟨?others, ?requests, ?codes, ?sink, ?wake, ?sinkDone, ?wakeDone, ?blooming, ?idle⟩
  case others =>
    intro s r hr hh hrs
    rw [exec_pmgDormant, exec_pmgWake, exec_pmgBudding, exec_pmgBloom, execPmgDormant, execPmgWake, execPmgBudding, execPmgBloom,
      State.reachReg_of_reaches _ hr, State.reachReg_of_reaches _ hr, State.reachReg_of_reaches _ hr, State.reachReg_of_reaches _ hr, effPmgDormant,
      effPmgWake, effPmgBudding, effPmgBloom]
    simp only [State.pmgRequest_other _ hh hrs, and_self]
  case requests =>
    intro s r hr hwho
    rw [exec_pmgDormant, exec_pmgWake, exec_pmgBudding, exec_pmgBloom, execPmgDormant, execPmgWake, execPmgBudding, execPmgBloom,
      State.reachReg_of_reaches _ hr, State.reachReg_of_reaches _ hr, State.reachReg_of_reaches _ hr, State.reachReg_of_reaches _ hr, effPmgDormant,
      effPmgWake, effPmgBudding, effPmgBloom]
    have hne {st : Nat} (which : Nat) (hc : s.pmgCode which = 0) (hst : s.get PMG_STATUS_STATE = st → s.pmgCode which = 1) : s.get PMG_STATUS_STATE ≠ st :=
      fun h => by rw [hst h] at hc; exact absurd hc (by decide)
    obtain ⟨hdormant, -, hbudding⟩ := State.pmgCode_wrongState (s := s)
    refine ⟨fun h => ?_, fun h => ?_, fun h => ?_, fun h => ?_, fun h => ?_, fun h => ?_, fun h => ?_, fun h => ?_⟩
    · rw [State.pmgRequest_refused hwho h]
    · rw [State.pmgRequest_refused hwho h]
    · rw [State.pmgRequest_refused hwho h]
    · rw [State.pmgRequest_refused hwho h]
    · rw [State.pmgRequest_taken hwho h]
    · rw [State.pmgRequest_taken hwho h]
    · rw [State.pmgRequest_taken hwho h, State.enterState_eq (hne 2 h fun h2 => hbudding (by omega))]
    · rw [State.pmgRequest_taken hwho h, State.enterState_eq (hne 3 h fun h5 => (hdormant (by omega)).2)]
  case codes =>
    intro s
    obtain ⟨h0, h1, h2⟩ := State.pmgCode_wrongState (s := s)
    exact ⟨h0, h1, h2, State.pmgCode_stopped, State.pmgCode_running, State.playlistAbout_iff, State.loopsUp_iff⟩
  case sink =>
    intro s t ht
    rw [ht]
    obtain ⟨hlocked, hservice⟩ := State.stopped_sink (s := s)
    obtain ⟨hhops, hdepth, hroot, hstarted⟩ := State.root_sink (s := s)
    exact ⟨State.state_sink, State.gate_sink, hlocked, hhops, hdepth, hroot, hstarted, State.devid_sink, hservice, fun p hp => State.det_sink hp,
      fun p hp h => by rw [State.portState_sink hp, if_pos h], fun p hp h => by rw [State.portState_sink hp, if_neg h], State.tasks_sink,
      State.mem_sink, State.sink_tells⟩
  case wake =>
    intro s
    refine ⟨fun h => if_pos h, fun h6 h => (if_neg h6).trans (if_pos (by simpa using h)), fun h hs => ?_⟩
    rw [State.startWake, if_neg (by omega), if_neg (by simp [h, hs]), State.enterState_eq (by omega)]
  case sinkDone =>
    intro s
    rw [exec_sinkDone]
    refine ⟨fun h => if_pos (by simpa using h), fun h hp => ⟨_, execSinkDone_sinks h hp, ?_⟩⟩
    obtain ⟨hque, -, hmem⟩ := State.dozed_keeps (s := s)
    have hstate : s.dozed.get PMG_STATUS_STATE ≠ 1 := by
      rw [State.get_dozed (by decide) (by decide) (by decide)]
      omega
    refine ⟨State.enterState_state (by decide), ?coarse, fun d hd => ?dom, fun c hc => ?drv, State.enterState_tells hstate (by decide), fun f hf => ?regs,
      ?mem, ?que⟩
    case coarse =>
      rw [State.get_enterState _ (by decide), State.dozed, State.get_put_same]
      rfl
    case dom => rw [State.domOn_enterState, State.domOn_dozed hd]
    case drv => rw [State.chan, (State.enterState_keeps 1).2.1, ← State.chan, State.drv_dozed hc]
    case regs =>
      simp only [List.mem_cons, List.not_mem_nil, or_false, forall_eq_or_imp, forall_eq] at hf
      obtain ⟨hs, hc, h0, h1⟩ := hf
      rw [State.get_enterState _ hs, State.get_dozed hc h0 h1]
    case mem => rw [State.mem_enterState, hmem]
    case que => rw [(State.enterState_keeps 1).1, hque]
  case wakeDone =>
    intro s
    rw [exec_wakeDone]
    refine ⟨fun h => if_pos (by simpa [or_assoc] using h), fun h hr hp => completes_of_eq (execWakeDone_wakes h hr hp) ?_⟩
    have hmem : s.woken.mem = s.mem := by
      have hfixed := execWakeDone_fixed s
      rw [execWakeDone_wakes h hr hp, fixedOf_next] at hfixed
      exact congrArg (·.2.1) (Option.some.inj hfixed)
    exact ⟨State.enterState_state (by decide), State.coarse_woken, State.locked_woken, State.gate_woken, State.service_woken, State.us_woken,
      fun p hp h5 => State.portState_woken hp h5, fun d hd => State.domOn_woken hd, fun c hc => State.atPassStart_woken hc, State.woken_tells h, hmem⟩
  case blooming =>
    intro s
    rw [exec_bloomingDone]
    refine ⟨fun h => if_pos ?_, fun h hp hw => ?_⟩
    · simpa [or_assoc] using h
    · have hwait : (s.on PMG_CFG_WAITSETTLE && !s.on CLE_STATUS_TSETTLED) = false := by
        rcases hw with hw | hw <;> simp [hw]
      rw [execBloomingDone, if_neg (by simp [h, hp, hwait]), State.enterState_eq (by omega)]
  case idle =>
    intro s
    rw [exec_bloomIdleTimeout]
    refine ⟨fun h => if_pos ?_, fun hi hb hrc => ?_, State.bloomIdle_iff⟩
    · simp only [Bool.or_eq_true, decide_eq_true_eq, Bool.not_eq_true']
      tauto
    · obtain ⟨h3, -⟩ := State.bloomIdle_iff.mp hb
      rw [execBloomIdleTimeout, if_neg (by simp [h3, hi, hb]; omega), State.enterState_eq (by omega)]

end Sys2Proof.Proofs
end

