-- ==== Sys2Proof/Proofs/PowerLoss.lean ====
section
/-! SUPPORT. A power loss decides its own event at once: what that decision counts, writes into the Almanac and leaves; the trips, the read-out and the
guard's records at a power loss. -/

namespace Sys2Proof.Machine

/-! ## What a decision keeps -/

/-- The registers that the decision of an event may write, beside its count, the Almanac's and those of the safe state. -/
def decidedFields : List Field :=
  [FCL_FIRST_LATCHED, FCL_FIRST_SOURCE, FCL_FIRST_CLASS, FCL_FIRST_PROMOTED, FCL_FIRST_CNT, FCL_FIRST_NS, FCL_FIRST_SEC_LO, FCL_FIRST_SEC_HI,
    FCL_FIRST_GVC_LO, FCL_FIRST_GVC_HI, FCL_FIRST_ARG_ARG, FCL_FIRST_ARG_VALUE, FCL_NOVF, FCL_FIRST_OVF, PMG_STATUS_STATE, FRZ_STATUS_TRIG,
    FRZ_STATUS_TSRC, FRZ_STATUS_GROUPWAIT, SEQ_UFLAG, FCL_PROMO (srcPwrLoss / 32)]

/-- The field is none of them, and one that no trip and no safe state writes. -/
structure Field.Steady (f : Field) : Prop where
  beyond : f.beyond false = true
  low : f.lo < 32
  loops : f.off < 0x3C0000 ∨ 0x400000 ≤ f.off
  safe : ∀ g ∈ safeFields, f.id ≠ g.id
  decided : ∀ g ∈ decidedFields, f.id ≠ g.id

/-- What a decision keeps of s in t, beside what it counts: the guard's record, the supplies, the power loss, the drivers that are off, the events that
wait, and the steady registers. -/
structure State.Keeps (s t : State) : Prop where
  grd : t.grd = s.grd
  railLeft : t.pins.railLeft = s.pins.railLeft
  afterLoss : t.frz.afterLoss = s.frz.afterLoss
  drv : ∀ c, (s.chan c).drv = 0 → (t.chan c).drv = 0
  awaits : ∀ x, s.awaits x → t.awaits x
  get : ∀ f : Field, f.Steady → t.get f = s.get f

namespace State.Keeps
variable {s t u : State}

theorem refl (s : State) : s.Keeps s := ⟨rfl, rfl, rfl, fun _ h => h, fun _ h => h, fun _ _ => rfl⟩

theorem trans (h : s.Keeps t) (h' : t.Keeps u) : s.Keeps u :=
  ⟨h'.grd.trans h.grd, h'.railLeft.trans h.railLeft, h'.afterLoss.trans h.afterLoss, fun c hc => h'.drv c (h.drv c hc),
    fun x hx => h'.awaits x (h.awaits x hx), fun f hf => (h'.get f hf).trans (h.get f hf)⟩

theorem put (s : State) {f : Field} (v : Nat) (hf : f ∈ decidedFields) : s.Keeps (s.put f v) :=
  ⟨rfl, rfl, rfl, fun _ h => h, fun _ h => h, fun _ hg => State.get_put_ne _ _ (hg.decided f hf)⟩

theorem put_then {f : Field} (v : Nat) (h : s.Keeps t) (hf : f ∈ decidedFields) : s.Keeps (t.put f v) := h.trans (put t v hf)

theorem raise (s : State) (src arg value : Nat) : s.Keeps (s.raise src arg value) :=
  ⟨rfl, rfl, rfl, fun _ h => h, fun _ h => State.raise_awaits _ _ _ _ h, fun _ _ => rfl⟩

/-- A change of a record that none of the kept parts reads. -/
theorem of_eq (hgrd : t.grd = s.grd) (hpins : t.pins = s.pins) (hloss : t.frz.afterLoss = s.frz.afterLoss) (hland : t.land = s.land)
    (hraised : t.raised = s.raised) (hcells : t.cells = s.cells) : s.Keeps t :=
  ⟨hgrd, congrArg Pins.railLeft hpins, hloss, fun c h => by rwa [State.chan, hland, ← State.chan],
    fun x h => by rwa [State.awaits, hraised, ← State.awaits], fun f _ => State.get_congr f hcells⟩

theorem countPromotion (s : State) (cls : Nat) : s.Keeps (s.countPromotion srcPwrLoss cls) := by
  unfold State.countPromotion
  extract_lets pslot pn l fcl s1
  have h1 : s.Keeps s1 := of_eq rfl rfl rfl rfl rfl rfl
  split
  · exact (h1.put_then (f := FCL_PROMO (srcPwrLoss / 32)) _ (by decide)).trans (raise _ _ _ _)
  · exact h1

theorem firstLatch (s : State) (r : Raised) (act : Nat) (promoted : Bool) : s.Keeps (s.firstLatch r act promoted).2 := by
  unfold State.firstLatch
  split
  · split
    · exact refl s
    · extract_lets g s1 s2
      have h1 : s.Keeps s1 := ((((put s 1 (by decide)).put_then _ (by decide)).put_then _ (by decide)).put_then _ (by decide)).put_then _ (by decide)
      have h2 : s.Keeps s2 := ((h1.put_then _ (by decide)).put_then _ (by decide)).put_then _ (by decide)
      exact (((h2.put_then _ (by decide)).put_then _ (by decide)).put_then _ (by decide)).put_then _ (by decide)
  · split
    · exact put s _ (by decide)
    · split
      · exact refl s
      · extract_lets s1
        have h1 : s.Keeps s1 := put s _ (by decide)
        change s.Keeps (if s1.on FCL_FIRST_OVF then s1 else (s1.put FCL_FIRST_OVF 1).raise srcFclOvf r.src 0)
        split
        · exact h1
        · exact (h1.put_then _ (by decide)).trans (raise _ _ _ _)

theorem deliverTo (s : State) (c i prio : Nat) : s.Keeps (s.deliverTo c i prio) := by
  unfold State.deliverTo
  extract_lets k
  split
  · exact refl s
  · exact of_eq rfl rfl rfl rfl rfl rfl

theorem frzTrig (s : State) (trig src : Nat) : s.Keeps (s.frzTrig trig src) := (put s _ (by decide)).put_then _ (by decide)

theorem hardFrost (s : State) (trig src : Nat) : s.Keeps (s.hardFrost trig src) := by
  unfold State.hardFrost
  split
  · exact refl s
  · split
    · split
      · exact of_eq rfl rfl rfl rfl rfl rfl
      · exact refl s
    · exact (frzTrig s trig src).trans (of_eq rfl rfl rfl rfl rfl rfl)

theorem softFrost (s : State) (trig src : Nat) : s.Keeps (s.softFrost trig src) := by
  unfold State.softFrost
  split
  · exact refl s
  · split
    · extract_lets s1 fr
      have h1 : s.Keeps s1 := ((frzTrig s trig src).put_then _ (by decide)).put_then _ (by decide)
      exact h1.trans (of_eq rfl rfl rfl rfl rfl rfl)
    · exact (frzTrig s trig src).trans (of_eq rfl rfl rfl rfl rfl rfl)

theorem startWake (s : State) : s.Keeps s.startWake := by
  have hstate (t : State) (st : Nat) : t.Keeps (t.enterState st) := by
    unfold State.enterState
    split
    · exact refl t
    · exact (put t _ (by decide)).trans (raise _ _ _ _)
  unfold State.startWake
  split
  · exact of_eq rfl rfl rfl rfl rfl rfl
  · split
    · exact refl s
    · exact (hstate s 4).trans (of_eq rfl rfl rfl rfl rfl rfl)

theorem enterSafe (s : State) (cause : Nat) : s.Keeps (s.enterSafe cause) where
  grd := State.grd_enterSafe
  railLeft := by
    cases hs : s.inSafe with
    | true => rw [State.enterSafe_of_inSafe cause hs]
    | false => exact congrArg (·.2.2.2.1.railLeft) (State.parts_enterSafe hs)
  afterLoss := congrArg FrzState.afterLoss State.frz_enterSafe
  drv _ h := State.drv_enterSafe_kept h
  awaits _ h := State.enterSafe_awaits h
  get _ hf := State.get_enterSafe hf.beyond hf.loops hf.low hf.safe

end State.Keeps

/-! ## The decision of the power loss -/

section
variable {s : State} {r : Raised}

/-- The state with the occurrence counted. -/
def State.occurred (s : State) (r : Raised) : State := s.incSat (FCL_SRC_CNT r.src)

/-- The decision keeps what stands up to the Almanac's entry, and what stands after it. -/
theorem State.decideOne_keeps (hsrc : r.src = srcPwrLoss) : ∃ (u : State) (act : Nat) (promoted first : Bool), (s.occurred r).Keeps u ∧
    (u.evrEntry r act promoted first).Keeps (s.decideOne r true) := by
  unfold State.decideOne
  extract_lets cls s1 byPromo act
  have h1 : (s.occurred r).Keeps s1 := by
    simp only [s1, hsrc]
    rw [← hsrc, ← State.occurred, hsrc]
    exact State.Keeps.countPromotion _ _
  have h2 : s1.Keeps (s1.firstLatch r act byPromo).2 := State.Keeps.firstLatch _ _ _ _
  generalize s1.firstLatch r act byPromo = latch at h2 ⊢
  obtain ⟨first, s2⟩ := latch
  refine ⟨s2, act, byPromo, first, h1.trans h2, ?_⟩
  dsimp -zeta only
  extract_lets s3 s4 s5 frz s6 s7
  have h3 : s3 = s2.evrEntry r act byPromo first := if_pos (by simp [hsrc])
  have h4 : s3.Keeps s4 := by
    simp only [s4]
    split
    · exact State.Keeps.deliverTo _ _ _ _
    · exact State.Keeps.refl _
  have h5 : s4.Keeps s5 := by
    simp only [s5]
    split
    · exact State.Keeps.deliverTo _ _ _ _
    · exact State.Keeps.refl _
  have h6 : s5.Keeps s6 := by
    simp only [s6]
    split
    · exact State.Keeps.softFrost _ _ _
    · split
      · exact State.Keeps.hardFrost _ _ _
      · exact State.Keeps.refl _
  have h7 : s6.Keeps s7 := by
    simp only [s7]
    split
    · exact State.Keeps.enterSafe _ _
    · exact State.Keeps.refl _
  rw [← h3]
  refine (((h4.trans h5).trans h6).trans h7).trans ?_
  split
  · exact State.Keeps.startWake _
  · exact State.Keeps.refl _

/-- A field of the guard monitors, but for the bit that shows the safe state. -/
def Field.ofGuard (f : Field) : Prop := f.lo < 32 ∧ 0x380000 ≤ f.off ∧ f.off < 0x3C0000 ∧ f.id ≠ GRD_STATUS_SAFE.id

theorem Field.ofGuard.steady {f : Field} (h : f.ofGuard) : f.Steady := by
  obtain ⟨hlo, hoff, hoff', hsafe⟩ := h
  refine ⟨?_, hlo, .inl hoff', ?_, ?_⟩
  · simp only [Field.beyond, Machine.beyond, Bool.and_eq_true, Bool.or_eq_true, decide_eq_true_eq]
    exact ⟨hlo, .inl (.inl (.inr ⟨hoff, by omega⟩))⟩
  · simp only [safeFields, List.mem_cons, List.not_mem_nil, or_false, forall_eq_or_imp, forall_eq]
    refine ⟨?_, ?_, hsafe, ?_, ?_⟩ <;>
    · simp only [Field.id, FCL_STATUS_SCAUSE, FCL_STATUS_SAFE, FCL_STATUS_RAMPING, FCL_STATUS_RAMPDONE]
      omega
  · have hbelow : ∀ g ∈ decidedFields, g.off < 0x380000 ∧ g.lo < 32 := by decide
    intro g hg heq
    obtain ⟨hgoff, hglo⟩ := hbelow g hg
    simp only [Field.id] at heq
    omega

/-! ## The entry in the Almanac -/

theorem State.evrEntry_keeps (hsrc : r.src = srcPwrLoss) (act : Nat) (promoted first : Bool) :
    (s.inc EVR_WPTR).Keeps (s.evrEntry r act promoted first) := by
  unfold State.evrEntry
  extract_lets held supp quiet rest s1 ev
  rw [if_neg (by simp [hsrc])]
  exact .of_eq rfl rfl rfl rfl rfl rfl

theorem State.raiseNow_eq (src arg : Nat) (log : Bool) : ∃ (r : Raised) (u : State), r.src = src ∧ s.Keeps u ∧ u.cells = s.cells ∧
    s.raiseNow src arg log = u.decideOne r log := by
  unfold State.raiseNow
  extract_lets s1
  have hlast : s1.raised.getLast? = some ⟨src, arg % 2 ^ 16, 0 % 2 ^ 16, s.time.rc, s.stamp, s.time.wall, s.on WTM_STATUS_COARSE⟩ := by
    simp only [s1, State.raise_raised, List.getLast?_append, List.getLast?_singleton, Option.some_or]
  have hrest : s1.raised.dropLast = s.raised := by
    simp only [s1, State.raise_raised, List.dropLast_concat]
  rw [hlast, hrest]
  exact ⟨_, { s1 with raised := s.raised }, rfl, .of_eq rfl rfl rfl rfl rfl rfl, rfl, rfl⟩

theorem State.raiseNow_keeps (s : State) (arg : Nat) : ∃ u v : State, s.Keeps u ∧ u.cells = s.cells ∧ (u.incSat (FCL_SRC_CNT srcPwrLoss)).Keeps v ∧
    (v.inc EVR_WPTR).Keeps (s.raiseNow srcPwrLoss arg true) := by
  obtain ⟨r, u, hsrc, hu, hcells, heq⟩ := State.raiseNow_eq (s := s) srcPwrLoss arg true
  obtain ⟨v, act, promoted, first, hv, hend⟩ := State.decideOne_keeps (s := u) hsrc
  rw [State.occurred, hsrc] at hv
  rw [heq]
  exact ⟨u, v, hu, hcells, hv, (State.evrEntry_keeps hsrc act promoted first).trans hend⟩

/-! ## The power loss (R44, R46) -/

/-- The power loss noted. -/
def State.lossNoted (s : State) (arg : Nat) : State :=
  { s with grd := { s.grd with powerLoss := true }
           frz := { s.frz with afterLoss := true }
           pins := { s.pins with railLeft := s.pins.railLeft || arg != 0 } }

/-- Then every channel tripped and a read-out abandoned. -/
def State.lossTold (s : State) (arg : Nat) : State := ((s.lossNoted arg).tripEffects allChannels).abandonRead

/-- Then its event decided. -/
def State.lossDecided (s : State) (arg : Nat) : State := (s.lossTold arg).raiseNow srcPwrLoss arg true

/-- Then the saving write begun, of what stands in the Almanac. -/
def State.saveBegun (s : State) : State :=
  { s.put EVR_STATUS_SAVING 1 with evr := { s.evr with lossAt := some (s.get EVR_WPTR) } }

theorem State.get_saveBegun (f : Field) : s.saveBegun.get f = (s.put EVR_STATUS_SAVING 1).get f := rfl

theorem State.saveBegun_keeps : s.saveBegun.grd = s.grd ∧ s.saveBegun.pins = s.pins ∧ s.saveBegun.frz = s.frz ∧ s.saveBegun.land = s.land ∧
    s.saveBegun.raised = s.raised ∧ s.saveBegun.evr.lossAt = some (s.get EVR_WPTR) := ⟨rfl, rfl, rfl, rfl, rfl, rfl⟩

theorem State.powerLoss_eq {arg : Nat} (h : s.saving = false) : s.powerLoss arg = (s.lossDecided arg).saveBegun := by
  unfold State.powerLoss
  rw [if_neg (by simp [h])]
  unfold State.saveBegun State.lossDecided State.lossTold State.lossNoted
  with_reducible rfl

theorem State.abandonRead_keeps : s.abandonRead.grd = s.grd ∧ s.abandonRead.pins = s.pins ∧ s.abandonRead.frz = s.frz ∧ s.abandonRead.land = s.land := by
  unfold State.abandonRead
  split <;> exact ⟨rfl, rfl, rfl, rfl⟩

theorem State.get_abandonRead {f : Field} (hp : f.id ≠ FRZ_PROG.id) (hr : f.id ≠ FRZ_STATUS_READING.id) (ha : f.id ≠ FRZ_STATUS_ABANDONED.id) :
    s.abandonRead.get f = s.get f := by
  unfold State.abandonRead
  split
  · rw [State.get_raise, State.get_put_ne _ _ ha, State.get_put_ne _ _ hr, State.get_put_ne _ _ hp]
  · rfl

theorem State.get_reading_abandonRead : s.abandonRead.get FRZ_STATUS_READING = 0 := by
  unfold State.abandonRead
  split
  · rw [State.get_raise, State.get_put_ne _ _ (by decide), State.get_put_same]
    rfl
  · next h => simpa [State.on] using h

theorem State.abandonRead_awaits {x : Raised} (h : s.awaits x) : s.abandonRead.awaits x := by
  unfold State.abandonRead
  split
  · exact State.raise_awaits _ _ _ _ h
  · exact h

section
variable (s) (arg : Nat)

theorem State.agrees_lossTripped : (s.lossNoted arg).agrees ((s.lossNoted arg).tripEffects allChannels) :=
  State.agrees_tripEffects fun _ => allChannels_lt

theorem State.lossTold_parts : (s.lossTold arg).grd = { s.grd with powerLoss := true } ∧
    (s.lossTold arg).pins.railLeft = (s.pins.railLeft || arg != 0) ∧ (s.lossTold arg).frz.afterLoss = true := by
  obtain ⟨hgrd, hpins, hfrz, -⟩ := State.abandonRead_keeps (s := (s.lossNoted arg).tripEffects allChannels)
  rw [State.lossTold, hgrd, hpins, hfrz, (s.agrees_lossTripped arg).grd, (s.agrees_lossTripped arg).pins, (s.agrees_lossTripped arg).frz]
  exact ⟨rfl, rfl, rfl⟩

theorem State.lossTold_drv {c : Nat} (hc : c < 256) : ((s.lossTold arg).chan c).drv = 0 := by
  rw [State.lossTold, State.chan, (State.abandonRead_keeps).2.2.2, ← State.chan, State.drv_tripEffects (fun _ => allChannels_lt) (mem_allChannels hc)]

theorem State.get_lossTold {f : Field} (hf : f.beyond false = true) (hp : f.id ≠ FRZ_PROG.id) (hr : f.id ≠ FRZ_STATUS_READING.id)
    (ha : f.id ≠ FRZ_STATUS_ABANDONED.id) : (s.lossTold arg).get f = s.get f := by
  rw [State.lossTold, State.get_abandonRead hp hr ha, (s.agrees_lossTripped arg).get hf]
  rfl

theorem State.lossTold_awaits {x : Raised} (h : s.awaits x) : (s.lossTold arg).awaits x :=
  State.abandonRead_awaits (State.tripEffects_awaits _ _ h)

/-- What stands once the event is decided, but for what the decision counts. -/
theorem State.lossDecided_keeps : (s.lossDecided arg).grd = { s.grd with powerLoss := true } ∧
    (s.lossDecided arg).pins.railLeft = (s.pins.railLeft || arg != 0) ∧ (s.lossDecided arg).frz.afterLoss = true ∧
    (∀ c < 256, ((s.lossDecided arg).chan c).drv = 0) ∧ ∀ x, s.awaits x → (s.lossDecided arg).awaits x := by
  obtain ⟨u, v, hu, -, hv, hend⟩ := (s.lossTold arg).raiseNow_keeps arg
  obtain ⟨hgrd, hpins, hfrz⟩ := s.lossTold_parts arg
  have hdrv (c : Nat) (hc : c < 256) := s.lossTold_drv arg hc
  have htold (x : Raised) (hx : s.awaits x) := s.lossTold_awaits arg hx
  rw [State.lossDecided]
  generalize (s.lossTold arg).raiseNow srcPwrLoss arg true = t at hend ⊢
  generalize s.lossTold arg = told at *
  exact ⟨hend.grd.trans (hv.grd.trans (hu.grd.trans hgrd)), hend.railLeft.trans (hv.railLeft.trans (hu.railLeft.trans hpins)),
    hend.afterLoss.trans (hv.afterLoss.trans (hu.afterLoss.trans hfrz)),
    fun c hc => hend.drv c (hv.drv c (hu.drv c (hdrv c hc))),
    fun x hx => hend.awaits x (hv.awaits x (hu.awaits x (htold x hx)))⟩

theorem State.get_lossDecided {f : Field} (hf : f.Steady) (hw : f.id ≠ EVR_WPTR.id) (hc : f.id ≠ (FCL_SRC_CNT srcPwrLoss).id) :
    (s.lossDecided arg).get f = (s.lossTold arg).get f := by
  obtain ⟨u, v, hu, -, hv, hend⟩ := (s.lossTold arg).raiseNow_keeps arg
  rw [State.lossDecided, hend.get f hf, State.get_inc_ne _ hw, hv.get f hf, State.incSat, State.get_addSat_ne _ _ hc, hu.get f hf]

theorem steady_wptr : EVR_WPTR.Steady := ⟨by decide, by decide, by decide, by decide, by decide⟩

theorem steady_cnt : (FCL_SRC_CNT srcPwrLoss).Steady := ⟨by decide, by decide, by decide, by decide, by decide⟩

theorem State.wptr_lossDecided : (s.lossDecided arg).get EVR_WPTR = (s.get EVR_WPTR + 1) % 2 ^ EVR_WPTR.width := by
  obtain ⟨u, v, hu, -, hv, hend⟩ := (s.lossTold arg).raiseNow_keeps arg
  rw [State.lossDecided, hend.get _ steady_wptr, State.get_inc_same, hv.get _ steady_wptr, State.incSat, State.get_addSat_ne _ _ (by decide),
    hu.get _ steady_wptr, s.get_lossTold arg (by decide) (by decide) (by decide) (by decide)]

theorem State.cnt_lossDecided : (s.lossDecided arg).get (FCL_SRC_CNT srcPwrLoss) =
    min (s.get (FCL_SRC_CNT srcPwrLoss) + 1) (2 ^ (FCL_SRC_CNT srcPwrLoss).width - 1) := by
  obtain ⟨u, v, hu, -, hv, hend⟩ := (s.lossTold arg).raiseNow_keeps arg
  rw [State.lossDecided, hend.get _ steady_cnt, State.get_inc_ne _ (by decide), hv.get _ steady_cnt, State.incSat, State.addSat, State.get_put_same,
    hu.get _ steady_cnt, s.get_lossTold arg (by decide) (by decide) (by decide) (by decide)]
  refine Nat.mod_eq_of_lt ((Nat.min_le_right _ _).trans_lt ?_)
  exact Nat.sub_lt (Nat.two_pow_pos _) (by decide)

theorem State.reading_lossDecided : (s.lossDecided arg).get FRZ_STATUS_READING = 0 := by
  rw [s.get_lossDecided arg ⟨by decide, by decide, by decide, by decide, by decide⟩ (by decide) (by decide), State.lossTold, State.get_reading_abandonRead]

/-- What the power loss leaves of the guard monitors: their record but for the loss itself, their registers and the events that wait. -/
theorem State.powerLoss_guard : (s.powerLoss arg).grd.holders = s.grd.holders ∧ (s.powerLoss arg).grd.monitors = s.grd.monitors ∧
    (∀ x, s.awaits x → (s.powerLoss arg).awaits x) ∧ ∀ f : Field, f.ofGuard → (s.powerLoss arg).get f = s.get f := by
  cases h : s.saving with
  | true =>
    rw [State.powerLoss, if_pos h]
    exact ⟨rfl, rfl, fun _ hx => hx, fun _ _ => rfl⟩
  | false =>
    obtain ⟨hgrd, -, -, -, hawaits⟩ := s.lossDecided_keeps arg
    have hget (f : Field) (hf : f.ofGuard) : (s.lossDecided arg).get f = (s.lossTold arg).get f := by
      obtain ⟨hlo, hoff, -, -⟩ := id hf
      refine s.get_lossDecided arg hf.steady ?_ ?_ <;>
      · simp only [Field.id, EVR_WPTR, FCL_SRC_CNT, srcPwrLoss]
        omega
    obtain ⟨hsame, -, -, -, hraised, -⟩ := State.saveBegun_keeps (s := s.lossDecided arg)
    rw [State.powerLoss_eq h, hsame, hgrd]
    refine ⟨rfl, rfl, fun x hx => ?_, fun f hf => ?_⟩
    · rw [State.awaits, hraised]
      exact hawaits x hx
    have hne {g : Field} (hoff : g.off < 0x380000) (hlo : g.lo < 32) : f.id ≠ g.id := by
      obtain ⟨hflo, hfoff, -, -⟩ := hf
      simp only [Field.id]
      omega
    rw [State.get_saveBegun, State.get_put_ne _ _ (hne (by decide) (by decide)), hget f hf, s.get_lossTold arg hf.steady.beyond (hne (by decide) (by decide)) (hne (by decide) (by decide)) (hne (by decide) (by decide))]

end

end
end Sys2Proof.Machine
end

