-- ==== Sys2Proof/Proofs/Almanac.lean ====
section
/-! SUPPORT. Entries and saved sets of the Almanac, the trigger of a power loss and the end of its write; then the statement on the Almanac. -/

namespace Sys2Proof.Machine

/-! ## An entry -/

section
variable {s : State} {r : Req}

theorem State.get_evrAppend (words : List Nat) (f : Field) : (s.evrAppend words).get f = (s.inc EVR_WPTR).get f := rfl

theorem State.ring_evrAppend (words : List Nat) : Assoc.get [] (s.evrAppend words).evr.ring (s.get EVR_WPTR % 16384) = words := Assoc.get_set_same _ _ _ _

theorem effEvrRscwSrc_other (d : BitVec 32) (h : r ≠ .rootstock) : effEvrRscwSrc r d s = .next s := if_neg h

/-- The entry that Rootstock writes, named. -/
def State.rscwNamed (s : State) (d : BitVec 32) : State := (s.put EVR_RSCW_SRC_CLASS (bits d.toNat 9 2)).put EVR_RSCW_SRC_SOURCE (d.toNat % 2 ^ 9)

theorem State.rscwNamed_shown (d : BitVec 32) : (s.rscwNamed d).get EVR_RSCW_SRC_SOURCE = d.toNat % 2 ^ 9 ∧
    (s.rscwNamed d).get EVR_RSCW_SRC_CLASS = bits d.toNat 9 2 ∧ (s.rscwNamed d).get EVR_WPTR = s.get EVR_WPTR := by
  unfold State.rscwNamed
  rw [State.get_put_same, State.get_put_ne _ _ (by decide), State.get_put_same, State.get_put_ne _ _ (by decide), State.get_put_ne _ _ (by decide)]
  exact ⟨Nat.mod_mod _ _, Nat.mod_eq_of_lt (bits_lt _ _ _), rfl⟩

/-- The words of that entry. -/
def State.rscwWords (s : State) (d : BitVec 32) : List Nat :=
  evrWords (d.toNat % 2 ^ 9) (bits d.toNat 9 2) false false (s.on WTM_STATUS_COARSE) 0 (s.get EVR_RSCW_ARG_ARG) (s.get EVR_RSCW_ARG_VALUE) s.time.wall
    (s.get EVR_WPTR) s.stamp

theorem effEvrRscwSrc_writes (d : BitVec 32) (h : r = .rootstock) : effEvrRscwSrc r d s = .next ((s.rscwNamed d).evrAppend (s.rscwWords d)) := by
  obtain ⟨hsrc, hcls, -⟩ := State.rscwNamed_shown (s := s) d
  unfold effEvrRscwSrc
  have hwords : s.rscwWords d = evrWords ((s.rscwNamed d).get EVR_RSCW_SRC_SOURCE) ((s.rscwNamed d).get EVR_RSCW_SRC_CLASS) false false
      (s.on WTM_STATUS_COARSE) 0 (s.get EVR_RSCW_ARG_ARG) (s.get EVR_RSCW_ARG_VALUE) s.time.wall (s.get EVR_WPTR) s.stamp := by
    rw [State.rscwWords, hsrc, hcls]
  rw [if_pos h, hwords]
  rfl

/-! ## Reads -/

/-- The registers of a requester that a read of words fills, one after the other. -/
def State.fillWords (s : State) (f : Nat → Field) (words : List Nat) : State := (List.range 8).foldl (fun t i => t.put (f i) (words.getD i 0)) s

theorem State.get_fillWords {f : Nat → Field} (hf : ∀ i j, i ≠ j → (f i).id ≠ (f j).id) (words : List Nat) {k : Nat} (hk : k < 8) :
    (s.fillWords f words).get (f k) = words.getD k 0 % 2 ^ (f k).width := get_foldl_range_put f (fun i => words.getD i 0) hf hk s

theorem State.get_fillWords_other {f : Nat → Field} {g : Field} (hg : ∀ i, g.id ≠ (f i).id) (words : List Nat) : (s.fillWords f words).get g = s.get g :=
  foldl_keeps (fun t : State => t.get g) (fun t i => (State.get_put_ne _ _ (hg i) : (t.put (f i) (words.getD i 0)).get g = t.get g)) _ _

theorem State.fillWords_keeps (f : Nat → Field) (words : List Nat) : (s.fillWords f words).evr = s.evr ∧ (s.fillWords f words).mem = s.mem :=
  ⟨foldl_keeps State.evr (fun t i => (rfl : (t.put (f i) (words.getD i 0)).evr = t.evr)) _ _,
    foldl_keeps State.mem (fun t i => (rfl : (t.put (f i) (words.getD i 0)).mem = t.mem)) _ _⟩

theorem evrRdata_id_ne (r : Req) (i j : Nat) (h : i ≠ j) : ((EVR_RDATA i).per r).id ≠ ((EVR_RDATA j).per r).id := by
  simp only [Field.id, Field.per, EVR_RDATA]
  omega

theorem evrSdata_id_ne (r : Req) (i j : Nat) (h : i ≠ j) : ((EVR_SDATA i).per r).id ≠ ((EVR_SDATA j).per r).id := by
  simp only [Field.id, Field.per, EVR_SDATA]
  omega

/-- The index and the marks of a read of entry k, where it is gone or not yet written. -/
def State.readMarked (s : State) (r : Req) (k : Nat) (gone none_ : Bool) : State :=
  ((s.put (EVR_RIDX.per r) k).flag (EVR_RSTAT_GONE.per r) gone).flag (EVR_RSTAT_NONE.per r) none_

theorem effEvrRidxWrite_eq (i : BitVec 32) {gone none_ : Bool} {words : List Nat} (hg : decide (i.toNat + 16384 < s.get EVR_WPTR) = gone)
    (hn : decide (s.get EVR_WPTR ≤ i.toNat) = none_) (hw : words = if gone || none_ then [] else Assoc.get [] s.evr.ring (i.toNat % 16384)) :
    effEvrRidxWrite r i s = .next ((s.readMarked r i.toNat gone none_).fillWords (fun k => (EVR_RDATA k).per r) words) := by
  rw [hw, ← hg, ← hn]
  rfl

theorem State.readMarked_shown (k : Nat) (gone none_ : Bool) (words : List Nat) {t : State}
    (ht : t = (s.readMarked r k gone none_).fillWords (fun k => (EVR_RDATA k).per r) words) : t.get (EVR_RIDX.per r) = k % 2 ^ 32 ∧
      t.get (EVR_RSTAT_GONE.per r) = b2n gone ∧ t.get (EVR_RSTAT_NONE.per r) = b2n none_ ∧
      (∀ j < 8, t.get ((EVR_RDATA j).per r) = words.getD j 0 % 2 ^ 32) ∧ t.evr = s.evr ∧ t.mem = s.mem := by
  have hother (i : Nat) : (EVR_RIDX.per r).id ≠ ((EVR_RDATA i).per r).id ∧ (EVR_RSTAT_GONE.per r).id ≠ ((EVR_RDATA i).per r).id ∧
      (EVR_RSTAT_NONE.per r).id ≠ ((EVR_RDATA i).per r).id := by
    simp only [Field.id, Field.per, EVR_RIDX, EVR_RSTAT_GONE, EVR_RSTAT_NONE, EVR_RDATA]
    omega
  have hridx : ((EVR_RIDX).per r).id ≠ (EVR_RSTAT_GONE.per r).id ∧ (EVR_RIDX.per r).id ≠ (EVR_RSTAT_NONE.per r).id := by
    simp only [Field.id, Field.per, EVR_RIDX, EVR_RSTAT_GONE, EVR_RSTAT_NONE]
    omega
  have hgone : (EVR_RSTAT_GONE.per r).id ≠ (EVR_RSTAT_NONE.per r).id := by
    simp only [Field.id, Field.per, EVR_RSTAT_GONE, EVR_RSTAT_NONE]
    omega
  have hbit (b : Bool) : b2n b % 2 ^ 1 = b2n b := by cases b <;> rfl
  subst ht
  obtain ⟨hevr, hmem⟩ := State.fillWords_keeps (s := s.readMarked r k gone none_) (fun k => (EVR_RDATA k).per r) words
  have hwidth (j : Nat) : ((EVR_RDATA j).per r).width = 32 := rfl
  have hwidth' : (EVR_RIDX.per r).width = 32 := rfl
  have hdata (j : Nat) (hj : j < 8) := State.get_fillWords (s := s.readMarked r k gone none_) (f := fun k => (EVR_RDATA k).per r) (evrRdata_id_ne r) words hj
  simp only [hwidth] at hdata
  refine ⟨?_, ?_, ?_, hdata, hevr, hmem⟩
  · rw [State.get_fillWords_other fun i => (hother i).1, State.readMarked, State.flag_eq, State.flag_eq, State.get_put_ne _ _ hridx.2,
      State.get_put_ne _ _ hridx.1, State.get_put_same, hwidth']
  · rw [State.get_fillWords_other fun i => (hother i).2.1, State.readMarked, State.flag_eq, State.flag_eq, State.get_put_ne _ _ hgone,
      State.get_put_same]
    exact hbit _
  · rw [State.get_fillWords_other fun i => (hother i).2.2, State.readMarked, State.flag_eq, State.flag_eq, State.get_put_same]
    exact hbit _

/-! ## Saved sets -/

theorem State.savedSet_putSet_same {n : Nat} (v : SavedSet) : (s.putSet n v).savedSet n = v := by
  unfold State.savedSet State.putSet
  by_cases hn : n = 0
  · simp only [hn, if_true]
    rfl
  · simp only [hn, if_false]
    rfl

theorem State.savedSet_putSet_other {n k : Nat} (v : SavedSet) (h : n = 0 ∧ k ≠ 0 ∨ n ≠ 0 ∧ k = 0) : (s.putSet n v).savedSet k = s.savedSet k := by
  unfold State.savedSet State.putSet
  rcases h with ⟨hn, hk⟩ | ⟨hn, hk⟩
  · simp only [hn, hk, if_true, if_false]
    rfl
  · simp only [hn, hk, if_true, if_false]
    rfl

theorem State.putSet_keeps (n : Nat) (v : SavedSet) : (s.putSet n v).pins = s.pins ∧ (s.putSet n v).mem = s.mem ∧ (s.putSet n v).frz = s.frz := by
  unfold State.putSet
  split <;> exact ⟨rfl, rfl, rfl⟩

theorem State.get_putSet {f : Field} (hlo : f.lo < 32) (hoff : f.off < 0x50080) (n : Nat) (v : SavedSet) : (s.putSet n v).get f = s.get f := by
  unfold State.putSet
  extract_lets ev s1
  have h1 : s1.get f = s.get f := by
    simp only [s1]
    split <;> rfl
  rw [State.get_put_ne _ _ (by simp only [Field.id, EVR_SET_WPTR]; omega), State.flag_eq, State.flag_eq,
    State.get_put_ne _ _ (by simp only [Field.id, EVR_SET_INFO_NEWER]; omega),
    State.get_put_ne _ _ (by simp only [Field.id, EVR_SET_INFO_VALID]; omega), h1]

theorem State.lossEntries_shown (w i : Nat) (hi : i < 4096) : (s.lossEntries w).length = 4096 ∧
    (w - 4096 + i < w → (s.lossEntries w).getD i [] = Assoc.get [] s.evr.ring ((w - 4096 + i) % 16384)) ∧
    (w ≤ w - 4096 + i → (s.lossEntries w).getD i [] = List.replicate 8 0) := by
  have hget : (s.lossEntries w).getD i [] =
      if w - 4096 + i < w then Assoc.get [] s.evr.ring ((w - 4096 + i) % 16384) else List.replicate 8 0 := by
    rw [State.lossEntries, List.getD_eq_getElem?_getD, List.getElem?_map, List.getElem?_range hi, Option.map_some, Option.getD_some]
  refine ⟨by rw [State.lossEntries, List.length_map, List.length_range], fun h => ?_, fun h => ?_⟩
  · rw [hget, if_pos h]
  · rw [hget, if_neg (by omega)]

/-! ## The power loss -/

theorem State.powerLoss_shown {arg : Nat} (h : s.saving = false) {t : State} (ht : t = s.powerLoss arg) : t.saving = true ∧ t.grd.powerLoss = true ∧
    t.frz.afterLoss = true ∧ t.safeLow = true ∧ (∀ c < 256, t.tripped c = true ∧ (t.chan c).drv = 0) ∧
    t.get EVR_WPTR = (s.get EVR_WPTR + 1) % 2 ^ EVR_WPTR.width ∧ t.evr.lossAt = some (t.get EVR_WPTR) ∧ t.on FRZ_STATUS_READING = false ∧
    (arg ≠ 0 → t.pins.railLeft = true) ∧
    t.get (FCL_SRC_CNT srcPwrLoss) = min (s.get (FCL_SRC_CNT srcPwrLoss) + 1) (2 ^ (FCL_SRC_CNT srcPwrLoss).width - 1) := by
  obtain ⟨hgrd, hrail, hloss, hdrv, -⟩ := s.lossDecided_keeps arg
  have hwptr := s.wptr_lossDecided arg
  have hcnt := s.cnt_lossDecided arg
  have hreading := s.reading_lossDecided arg
  rw [State.powerLoss_eq h] at ht
  generalize s.lossDecided arg = u at *
  obtain ⟨hsgrd, hspins, hsfrz, hsland, -, hsat⟩ := State.saveBegun_keeps (s := u)
  rw [← ht] at hsgrd hspins hsfrz hsland hsat
  have hget {f : Field} (hf : f.id ≠ EVR_STATUS_SAVING.id) : t.get f = u.get f := by
    rw [ht, State.get_saveBegun, State.get_put_ne _ _ hf]
  have hlost : t.grd.powerLoss = true := by rw [hsgrd, hgrd]
  refine ⟨?_, hlost, by rw [hsfrz, hloss], ?_, fun c hc => ⟨?_, ?_⟩, ?_, ?_, ?_, fun ha => ?_, ?_⟩
  · rw [State.saving, State.on_true, ht, State.get_saveBegun, State.get_put_same]
    decide
  · simp [State.safeLow, hlost]
  · simp [State.tripped, State.allTripped, hlost]
  · rw [State.chan, hsland, ← State.chan, hdrv c hc]
  · rw [hget (by decide), hwptr]
  · rw [hsat, hget (by decide)]
  · rw [State.on_false, hget (by decide), hreading]
  · simp [hspins, hrail, ha]
  · rw [hget (by decide), hcnt]

theorem lossSource_iff (n : Nat) : lossSource n = true ↔ n = 0 ∨ 288 ≤ n ∧ n < 312 ∧ n ≠ 294 := by
  simp [lossSource, and_assoc]

/-! ## The end of the saving write -/

/-- The set that the write goes to. -/
def State.lossSet (s : State) : Nat := if s.evr.set0.valid = false ∨ s.evr.set0.newer = false then 0 else 1

/-- The sets and their descriptors as the write leaves them. -/
def State.setsSaved (s : State) (n w : Nat) : State :=
  let s1 := s.putSet n ⟨true, true, w - 4096, w, s.lossEntries w⟩
  s1.putSet (1 - n) { s1.savedSet (1 - n) with newer := false }

/-- The write is over. -/
def State.saveEnded (s : State) (n : Nat) : State :=
  { (s.put EVR_STATUS_SAVING 0).put (EVR_SET_INFO_CRCOK n) 1 with evr := { s.evr with lossAt := none } }

/-- The device in the safe state with the write over. -/
def State.saveDone (s : State) (w : Nat) : State := ((s.setsSaved s.lossSet w).saveEnded s.lossSet).enterSafe 4

theorem State.testEn_enterSafe (cause : Nat) : (s.enterSafe cause).pins.testEn = s.pins.testEn := by
  cases hs : s.inSafe with
  | true => rw [State.enterSafe_of_inSafe cause hs]
  | false => exact congrArg (·.2.2.2.1.testEn) (State.parts_enterSafe hs)

theorem State.setsSaved_keeps (n w : Nat) : (s.setsSaved n w).pins = s.pins ∧ (s.setsSaved n w).mem = s.mem := by
  obtain ⟨hpins, hmem, -⟩ := State.putSet_keeps (s := s) n ⟨true, true, w - 4096, w, s.lossEntries w⟩
  rw [← hpins, ← hmem]
  obtain ⟨hpins', hmem', -⟩ := State.putSet_keeps (s := s.putSet n ⟨true, true, w - 4096, w, s.lossEntries w⟩) (1 - n)
    { (s.putSet n ⟨true, true, w - 4096, w, s.lossEntries w⟩).savedSet (1 - n) with newer := false }
  exact ⟨hpins', hmem'⟩

theorem State.saveEnded_keeps (n : Nat) : (s.saveEnded n).pins = s.pins ∧ (s.saveEnded n).mem = s.mem ∧ (s.saveEnded n).evr = { s.evr with lossAt := none } :=
  ⟨rfl, rfl, rfl⟩

theorem State.get_saveEnded (n : Nat) (f : Field) : (s.saveEnded n).get f = ((s.put EVR_STATUS_SAVING 0).put (EVR_SET_INFO_CRCOK n) 1).get f := rfl

theorem execPowerLossWriteDone_ends {w : Nat} (h : s.evr.lossAt = some w) :
    execPowerLossWriteDone s = .next (if s.pins.testEn = true then (s.saveDone w).beginReset 3 0 else s.saveDone w) := by
  have hn : (if (!s.evr.set0.valid || !s.evr.set0.newer) = true then 0 else 1) = s.lossSet := by simp [State.lossSet]
  have htest : (s.saveDone w).pins.testEn = s.pins.testEn := by
    rw [State.saveDone, State.testEn_enterSafe, (State.saveEnded_keeps _).1, (State.setsSaved_keeps _ _).1]
  rw [← htest]
  unfold execPowerLossWriteDone
  simp only [h, hn]
  unfold State.saveDone State.setsSaved State.saveEnded
  with_reducible rfl

theorem State.savedSet_setsSaved (n w : Nat) : (s.setsSaved n w).savedSet n = ⟨true, true, w - 4096, w, s.lossEntries w⟩ ∧
    (s.setsSaved n w).savedSet (1 - n) = { s.savedSet (1 - n) with newer := false } := by
  unfold State.setsSaved
  extract_lets s1
  have hother : s1.savedSet (1 - n) = s.savedSet (1 - n) := State.savedSet_putSet_other _ (by omega)
  refine ⟨?_, (State.savedSet_putSet_same _).trans (congrArg (fun v : SavedSet => { v with newer := false }) hother)⟩
  rw [State.savedSet_putSet_other _ (by omega), State.savedSet_putSet_same]

theorem State.savedSet_of_evr {t : State} (h : t.evr = { s.evr with lossAt := none }) (n : Nat) : t.savedSet n = s.savedSet n := by
  rw [State.savedSet, h, State.savedSet]

theorem State.evr_saveDone (w : Nat) : (s.saveDone w).evr = { (s.setsSaved s.lossSet w).evr with lossAt := none } := by
  rw [State.saveDone, State.evr_enterSafe, (State.saveEnded_keeps _).2.2]

theorem State.saving_saveDone (w : Nat) : (s.saveDone w).saving = false := by
  have hcrc : EVR_STATUS_SAVING.id ≠ (EVR_SET_INFO_CRCOK s.lossSet).id := by
    simp only [Field.id, EVR_STATUS_SAVING, EVR_SET_INFO_CRCOK]
    omega
  rw [State.saving, State.on_false, State.saveDone, State.get_enterSafe (by decide) (by decide) (by decide) (by decide), State.get_saveEnded,
    State.get_put_ne _ _ hcrc, State.get_put_same]
  rfl

theorem State.scause_saveDone (w : Nat) (h : s.inSafe = false) : (s.saveDone w).get FCL_STATUS_SCAUSE = 4 := by
  have hcrc : FCL_STATUS_SAFE.id ≠ (EVR_SET_INFO_CRCOK s.lossSet).id := by
    simp only [Field.id, FCL_STATUS_SAFE, EVR_SET_INFO_CRCOK]
    omega
  have hsafe : ((s.setsSaved s.lossSet w).saveEnded s.lossSet).inSafe = false := by
    rw [State.inSafe, State.on, State.get_saveEnded, State.get_put_ne _ _ hcrc, State.get_put_ne _ _ (by decide), State.setsSaved,
      State.get_putSet (by decide) (by decide), State.get_putSet (by decide) (by decide), ← State.on, ← State.inSafe, h]
  rw [State.saveDone, State.enterSafe_scause hsafe]

theorem State.mem_saveDone (w : Nat) : (s.saveDone w).mem = s.mem := by
  have hfixed := ((s.setsSaved s.lossSet w).saveEnded s.lossSet).enterSafe_fixed 4
  simp only [State.fixed, Prod.mk.injEq] at hfixed
  obtain ⟨-, hmem, -⟩ := hfixed
  rw [State.saveDone, hmem, (State.saveEnded_keeps _).2.1, (State.setsSaved_keeps _ _).2]

theorem State.saveDone_shown (w : Nat) : (s.saveDone w).saving = false ∧ (s.saveDone w).inSafe = true ∧
    (s.inSafe = false → (s.saveDone w).get FCL_STATUS_SCAUSE = 4) ∧ (s.saveDone w).evr.lossAt = none ∧
    (s.saveDone w).savedSet s.lossSet = ⟨true, true, w - 4096, w, s.lossEntries w⟩ ∧ ((s.saveDone w).savedSet (1 - s.lossSet)).newer = false ∧
    ((s.saveDone w).savedSet (1 - s.lossSet)).entries = (s.savedSet (1 - s.lossSet)).entries ∧ (s.saveDone w).mem = s.mem := by
  have hevr := s.evr_saveDone w
  obtain ⟨hsame, hother⟩ := State.savedSet_setsSaved (s := s) s.lossSet w
  have hlost : (s.saveDone w).evr.lossAt = none := by rw [hevr]
  refine ⟨s.saving_saveDone w, State.enterSafe_inSafe _ _, s.scause_saveDone w, hlost, ?_, ?_, ?_, s.mem_saveDone w⟩
  · rw [State.savedSet_of_evr hevr, hsame]
  · rw [State.savedSet_of_evr hevr, hother]
  · rw [State.savedSet_of_evr hevr, hother]

end
end Sys2Proof.Machine

namespace Sys2Proof.Proofs
open Sys2Proof.Machine

/-- Settles O46: the writes and reads case by case; a power loss decides its event at once, and what that decision keeps is what it reports. -/
theorem almanac : Obligations.Almanac := by
  unfold Obligations.Almanac
  refine ⟨?rscw, ?ridx, ?sidx, ?discard, ?trigger, ?done, fun s w i hi => State.lossEntries_shown w i hi⟩
  case rscw =>
    intro s r d hr
    rw [exec_evrRscwSrc, execEvrRscwSrc, State.reachReg_of_reaches _ hr]
    refine ⟨effEvrRscwSrc_other d, fun h => completes_of_eq (effEvrRscwSrc_writes d h) ?_⟩
    obtain ⟨hsrc, hcls, hwptr⟩ := State.rscwNamed_shown (s := s) d
    have hring := State.ring_evrAppend (s := s.rscwNamed d) (s.rscwWords d)
    rw [hwptr] at hring
    refine ⟨?_, ?_, ?_, hring, fun f hf => ?_, rfl, rfl⟩
    · rw [State.get_evrAppend, State.get_inc_same, hwptr]
    · rw [State.get_evrAppend, State.get_inc_ne _ (by decide), hsrc]
    · rw [State.get_evrAppend, State.get_inc_ne _ (by decide), hcls]
    · simp only [List.mem_cons, List.not_mem_nil, or_false, forall_eq_or_imp, forall_eq] at hf
      obtain ⟨hw, hs, hc⟩ := hf
      rw [State.get_evrAppend, State.get_inc_ne _ hw, State.rscwNamed, State.get_put_ne _ _ hs, State.get_put_ne _ _ hc]
  case ridx =>
    rintro s r i w hr rfl
    rw [exec_evrRidxWrite, execEvrRidxWrite, State.reachReg_of_reaches _ hr]
    obtain ⟨hridx, hgone, hnone, hdata, hevr, hmem⟩ := State.readMarked_shown (s := s) (r := r) i.toNat (decide (i.toNat + 16384 < s.get EVR_WPTR))
      (decide (s.get EVR_WPTR ≤ i.toNat))
      (if decide (i.toNat + 16384 < s.get EVR_WPTR) || decide (s.get EVR_WPTR ≤ i.toNat) then [] else Assoc.get [] s.evr.ring (i.toNat % 16384)) rfl
    refine completes_of_eq (effEvrRidxWrite_eq i rfl rfl rfl) ⟨hridx.trans (Nat.mod_eq_of_lt i.isLt), fun h => ⟨?_, ?_, fun k hk => ?_⟩,
      fun h => ⟨?_, ?_, fun k hk => ?_⟩, fun h h' => ⟨?_, ?_, fun k hk => ?_⟩, hevr, hmem⟩
    · rw [hgone, decide_eq_true h]
      rfl
    · rw [hnone, decide_eq_false (by omega)]
      rfl
    · rw [hdata k hk, if_pos (by simp [h])]
      rfl
    · rw [hgone, decide_eq_false (by omega)]
      rfl
    · rw [hnone, decide_eq_true h]
      rfl
    · rw [hdata k hk, if_pos (by simp [h])]
      rfl
    · rw [hgone, decide_eq_false (by omega)]
      rfl
    · rw [hnone, decide_eq_false (by omega)]
      rfl
    · rw [hdata k hk, if_neg (by simp; omega)]
  case sidx =>
    intro s r n e hr
    rw [exec_evrSidxWrite, execEvrSidxWrite, State.reachReg_of_reaches _ hr]
    have heq : effEvrSidxWrite r n e s = .next (((s.put (EVR_SIDX_SET.per r) n.val).put (EVR_SIDX_ENTRY.per r) e.val).fillWords
      (fun k => (EVR_SDATA k).per r) ((s.savedSet n.val).entries.getD e.val [])) := rfl
    have hother (i : Nat) : (EVR_SIDX_SET.per r).id ≠ ((EVR_SDATA i).per r).id ∧ (EVR_SIDX_ENTRY.per r).id ≠ ((EVR_SDATA i).per r).id := by
      simp only [Field.id, Field.per, EVR_SIDX_SET, EVR_SIDX_ENTRY, EVR_SDATA]
      omega
    have hne : (EVR_SIDX_SET.per r).id ≠ (EVR_SIDX_ENTRY.per r).id := by
      simp only [Field.id, Field.per, EVR_SIDX_SET, EVR_SIDX_ENTRY]
      omega
    have hwidth (j : Nat) : ((EVR_SDATA j).per r).width = 32 := rfl
    have hset : (EVR_SIDX_SET.per r).width = 1 := rfl
    have hentry : (EVR_SIDX_ENTRY.per r).width = 12 := rfl
    refine completes_of_eq heq ⟨?_, ?_, fun k hk => ?_, (State.fillWords_keeps _ _).1, (State.fillWords_keeps _ _).2⟩
    · rw [State.get_fillWords_other fun i => (hother i).1, State.get_put_ne _ _ hne, State.get_put_same, hset, Nat.mod_eq_of_lt (by omega)]
    · rw [State.get_fillWords_other fun i => (hother i).2, State.get_put_same, hentry, Nat.mod_eq_of_lt (by omega)]
    · rw [State.get_fillWords (f := fun k => (EVR_SDATA k).per r) (evrSdata_id_ne r) _ hk, hwidth]
  case discard =>
    intro s r n hr
    rw [exec_evrSetDiscard, execEvrSetDiscard, State.reachReg_of_reaches _ hr]
    exact ⟨fun h => if_neg h, fun h => if_pos h⟩
  case trigger =>
    intro s r
    rw [exec_powerLossTrigger]
    refine ⟨fun h => ?_, fun hsrc hs => ?_⟩
    · unfold execPowerLossTrigger
      by_cases hl : lossSource r.val = true
      · have hsaving : s.saving = true := by
          refine h.resolve_left fun h => ?_
          rw [lossSource_iff] at hl
          omega
        rw [if_pos hl, State.powerLoss, if_pos hsaving]
      · rw [if_neg hl]
    · have heq : execPowerLossTrigger r s = .next (s.powerLoss r.val) := by
        unfold execPowerLossTrigger
        rw [if_pos ((lossSource_iff _).mpr hsrc)]
      exact completes_of_eq heq (State.powerLoss_shown hs rfl)
  case done =>
    intro s
    rw [exec_powerLossWriteDone]
    refine ⟨fun h => ?_, fun w n hw hn => ⟨s.saveDone w, execPowerLossWriteDone_ends hw, ?_⟩⟩
    · unfold execPowerLossWriteDone
      rw [h]
    · rw [hn]
      exact State.saveDone_shown w

end Sys2Proof.Proofs
end

