-- ==== Sys2Proof/Proofs/GuardDecisions.lean ====
section
/-! SUPPORT. The samples of a monitor, what a trip counts and leaves, and whom it holds; then the statement on guard decisions. -/

namespace Sys2Proof.Machine

/-! ## Samples (R494, R499) -/

section
variable {s : State} {m : Nat} {v : Int}

theorem signedOf_mod (w x : Nat) : signedOf w (x % 2 ^ w) = signedOf w x := by rw [signedOf, signedOf, Nat.mod_mod]

theorem State.grdOutside_iff :
    s.grdOutside m v = true ↔ v < signedOf 16 (s.grdThr m % 2 ^ 16) ∨ signedOf 16 (s.grdThr m / 2 ^ 16) < v := by
  rw [signedOf_mod]
  simp [State.grdOutside]

theorem grdReversed_iff : grdReversed m v = true ↔ 256 ≤ m ∧ m < 288 ∧ v ≤ -800 := by simp [grdReversed, and_assoc]

theorem State.grdSamples_pMode (h : s.grdMode m = 3) (vs : List (BitVec 16)) : s.grdSamples m vs = s := if_pos h

theorem State.grdSamples_taken (h : s.grdMode m ≠ 3) (x : BitVec 16) (vs : List (BitVec 16)) :
    s.grdSamples m (x :: vs) = vs.foldl (fun t x => t.grdSample m x.toInt) (s.grdSample m x.toInt) := if_neg h

theorem State.grdSamples_none : s.grdSamples m [] = s := by
  unfold State.grdSamples
  split <;> rfl

/-- The histories with sample v in them. -/
def State.sampled (s : State) (m : Nat) (v : Int) : State :=
  s.setMonitor m { s.monitor m with
    hist := ((s.monitor m).hist * 2 + b2n (s.grdOutside m v)) % 2 ^ 15, rev := ((s.monitor m).rev * 2 + b2n (grdReversed m v)) % 2 ^ 15 }

theorem State.get_sampled (f : Field) : (s.sampled m v).get f = s.get f := rfl

theorem State.grdMode_sampled : (s.sampled m v).grdMode m = s.grdMode m := by
  have hmode : ((s.sampled m v).monitor m).mode = (s.monitor m).mode := by
    rw [State.sampled, State.monitor, State.setMonitor, Assoc.get_set_same]
  unfold State.grdMode
  rw [hmode]
  rfl

theorem State.grdMode_put_polrev (t : State) (k : Nat) : (t.put (GRD_STATUSM_POLREV m) k).grdMode m = t.grdMode m := by
  have hget {f : Field} (hf : f.id ≠ (GRD_STATUSM_POLREV m).id) : (t.put (GRD_STATUSM_POLREV m) k).get f = t.get f := State.get_put_ne _ _ hf
  have hstate : PMG_STATUS_STATE.id ≠ (GRD_STATUSM_POLREV m).id := by simp only [Field.id, PMG_STATUS_STATE, GRD_STATUSM_POLREV]; omega
  have hcfg : (GRD_CFG_MODE m).id ≠ (GRD_STATUSM_POLREV m).id := by simp only [Field.id, GRD_CFG_MODE, GRD_STATUSM_POLREV]; omega
  have hdom0 : PMG_DOM_ON0.id ≠ (GRD_STATUSM_POLREV m).id := by simp only [Field.id, PMG_DOM_ON0, GRD_STATUSM_POLREV]; omega
  have hdom1 : PMG_DOM_ON1.id ≠ (GRD_STATUSM_POLREV m).id := by simp only [Field.id, PMG_DOM_ON1, GRD_STATUSM_POLREV]; omega
  unfold State.grdMode State.grdTarget State.domOn
  rw [hget hstate, hget hcfg, hget hdom0, hget hdom1]
  rfl

/-- What a sample of a monitor that is not in P mode does, once its polarity is judged. -/
def State.judged (s : State) (m : Nat) (v : Int) : State :=
  if majority (s.get (GRD_CFG_K m)) (s.get (GRD_CFG_N m)) (((s.monitor m).rev * 2 + b2n (grdReversed m v)) % 2 ^ 15)
  then (s.sampled m v).revDecision m else (s.sampled m v).inWindow m false true

theorem State.grdSample_eq (hmode : (s.judged m v).grdMode m ≠ 3) : s.grdSample m v =
    if majority (s.get (GRD_CFG_K m)) (s.get (GRD_CFG_N m)) (((s.monitor m).hist * 2 + b2n (s.grdOutside m v)) % 2 ^ 15)
    then (s.judged m v).filtDecision m else (s.judged m v).inWindow m true false := by
  unfold State.grdSample
  extract_lets w out h r k n s1 s2 s3
  have h3 : s3 = s.judged m v := if_neg (by simp only [Bool.and_eq_true, beq_iff_eq, not_and]; exact fun _ => hmode)
  rw [h3]

theorem State.judged_inWindow
    (hr : majority (s.get (GRD_CFG_K m)) (s.get (GRD_CFG_N m)) (((s.monitor m).rev * 2 + b2n (grdReversed m v)) % 2 ^ 15) = false) :
    s.judged m v = (s.sampled m v).put (GRD_STATUSM_POLREV m) 0 := by
  unfold State.judged
  rw [hr]
  rfl

theorem State.judged_rail (hm : 288 ≤ m) : s.judged m v = s.sampled m v ∨ s.judged m v = (s.sampled m v).put (GRD_STATUSM_POLREV m) 0 := by
  cases hr : majority (s.get (GRD_CFG_K m)) (s.get (GRD_CFG_N m)) (((s.monitor m).rev * 2 + b2n (grdReversed m v)) % 2 ^ 15) with
  | false => exact .inr (State.judged_inWindow hr)
  | true =>
    refine .inl ?_
    unfold State.judged
    rw [hr, if_pos rfl, State.revDecision, if_pos (by simp [hm])]

theorem polrev_ne : (GRD_STATUSM_ACTIVE m).id ≠ (GRD_STATUSM_POLREV m).id ∧ (GRD_CFG_SRC m).id ≠ (GRD_STATUSM_POLREV m).id := by
  simp only [Field.id, GRD_STATUSM_ACTIVE, GRD_CFG_SRC, GRD_STATUSM_POLREV]
  omega

/-- A filtered decision that goes out of window, as it is counted. -/
def State.outShown (s : State) (m : Nat) : State := (s.put (GRD_STATUSM_ACTIVE m) 1).inc (GRD_COUNT m)

theorem State.get_src_outShown : (s.outShown m).get (GRD_CFG_SRC m) = s.get (GRD_CFG_SRC m) := by
  have hcount : (GRD_CFG_SRC m).id ≠ (GRD_COUNT m).id := by simp only [Field.id, GRD_CFG_SRC, GRD_COUNT]; omega
  have hactive : (GRD_CFG_SRC m).id ≠ (GRD_STATUSM_ACTIVE m).id := by simp only [Field.id, GRD_CFG_SRC, GRD_STATUSM_ACTIVE]; omega
  rw [State.outShown, State.get_inc_ne _ hcount, State.get_put_ne _ _ hactive]

theorem State.filtDecision_active (h : s.on (GRD_STATUSM_ACTIVE m) = true) : s.filtDecision m = s := if_pos h

theorem State.railDecision_below (h : m < 288) : s.railDecision m = s := if_pos h

theorem State.railDecision_rail (h : 288 ≤ m) :
    s.railDecision m = ((s.put (GRD_STATUSM_LATCHED m) 1).put GRD_STATUS_RAILTRIP 1).raise srcGrdRail 0 0 := if_neg (by omega)

theorem State.filtDecision_below (h : s.on (GRD_STATUSM_ACTIVE m) = false) (hm : m < 288) :
    s.filtDecision m = (if s.get (GRD_CFG_SRC m) = 1 then (s.outShown m).grdTrip m else s.outShown m).put (GRD_STATUSM_LATCHED m) 1 := by
  unfold State.filtDecision
  rw [if_neg (by simp [h]), ← State.outShown]
  extract_lets s1 s2 s3
  have h2 : s2 = s.outShown m := by
    simp only [s2, State.railDecision_below hm, ite_self]
    rfl
  simp only [s3, h2, State.get_src_outShown]

theorem State.filtDecision_rail (h : s.on (GRD_STATUSM_ACTIVE m) = false) (hsrc : s.get (GRD_CFG_SRC m) = 0) (hm : 288 ≤ m) :
    s.filtDecision m = ((s.outShown m).railDecision m).put (GRD_STATUSM_LATCHED m) 1 := by
  have hlatched : (GRD_CFG_SRC m).id ≠ (GRD_STATUSM_LATCHED m).id := by simp only [Field.id, GRD_CFG_SRC, GRD_STATUSM_LATCHED]; omega
  have hrail : (GRD_CFG_SRC m).id ≠ GRD_STATUS_RAILTRIP.id := by simp only [Field.id, GRD_CFG_SRC, GRD_STATUS_RAILTRIP]; omega
  have hsrc' : ((s.outShown m).railDecision m).get (GRD_CFG_SRC m) = 0 := by
    rw [State.railDecision_rail hm, State.get_raise, State.get_put_ne _ _ hrail, State.get_put_ne _ _ hlatched, State.get_src_outShown, hsrc]
  unfold State.filtDecision
  rw [if_neg (by simp [h]), ← State.outShown]
  extract_lets s1 s2 s3
  have h2 : s2 = (s.outShown m).railDecision m := if_neg (by rw [show s1 = s.outShown m from rfl, State.get_src_outShown, hsrc]; decide)
  simp only [s3, h2]
  rw [if_neg (by rw [hsrc']; decide)]

theorem State.railDecision_shown (hm : 288 ≤ m) (t : State) : (t.railDecision m).get GRD_STATUS_RAILTRIP = 1 ∧
    (t.railDecision m).get (GRD_STATUSM_LATCHED m) = 1 := by
  have hne : (GRD_STATUSM_LATCHED m).id ≠ GRD_STATUS_RAILTRIP.id := by simp only [Field.id, GRD_STATUSM_LATCHED, GRD_STATUS_RAILTRIP]; omega
  rw [State.railDecision_rail hm, State.get_raise, State.get_raise, State.get_put_same, State.get_put_ne _ _ hne, State.get_put_same]
  exact ⟨rfl, rfl⟩

theorem State.grdMode_judged
    (hr : majority (s.get (GRD_CFG_K m)) (s.get (GRD_CFG_N m)) (((s.monitor m).rev * 2 + b2n (grdReversed m v)) % 2 ^ 15) = false) :
    (s.judged m v).grdMode m = s.grdMode m := by
  rw [State.judged_inWindow hr, State.grdMode_put_polrev, State.grdMode_sampled]

/-- A sample of an internal rail, in either case of its polarity's history. -/
theorem State.grdSample_rail (hm : 288 ≤ m) (hmode : s.grdMode m ≠ 3) (ha : s.on (GRD_STATUSM_ACTIVE m) = false) (hsrc : s.get (GRD_CFG_SRC m) = 0)
    (hh : majority (s.get (GRD_CFG_K m)) (s.get (GRD_CFG_N m)) (((s.monitor m).hist * 2 + b2n (s.grdOutside m v)) % 2 ^ 15) = true) :
    ∃ u : State, u.raised = s.raised ∧ s.grdSample m v = ((u.outShown m).railDecision m).put (GRD_STATUSM_LATCHED m) 1 := by
  obtain ⟨hactive, hcfg⟩ := polrev_ne (m := m)
  have hjudged : (s.judged m v).grdMode m = s.grdMode m ∧ (s.judged m v).on (GRD_STATUSM_ACTIVE m) = false ∧
      (s.judged m v).get (GRD_CFG_SRC m) = 0 ∧ (s.judged m v).raised = s.raised := by
    rcases State.judged_rail (s := s) (v := v) hm with h | h
    · rw [h]
      exact ⟨State.grdMode_sampled, ha, hsrc, rfl⟩
    · rw [h, State.grdMode_put_polrev, State.on, State.get_put_ne _ _ hactive, State.get_put_ne _ _ hcfg]
      exact ⟨State.grdMode_sampled, ha, hsrc, rfl⟩
  obtain ⟨hjmode, hjactive, hjsrc, hjraised⟩ := hjudged
  refine ⟨s.judged m v, hjraised, ?_⟩
  rw [State.grdSample_eq (by rwa [hjmode]), hh, if_pos rfl, State.filtDecision_rail hjactive hjsrc hm]

theorem State.railSampled_shown (hm : 288 ≤ m) (u : State) {t : State} (ht : t = ((u.outShown m).railDecision m).put (GRD_STATUSM_LATCHED m) 1) :
    t.get (GRD_STATUSM_ACTIVE m) = 1 ∧ t.get GRD_STATUS_RAILTRIP = 1 ∧ t.get (GRD_STATUSM_LATCHED m) = 1 ∧
      ∃ r, t.raised = u.raised ++ [r] ∧ r.src = srcGrdRail := by
  have hlatched : (GRD_STATUSM_ACTIVE m).id ≠ (GRD_STATUSM_LATCHED m).id := by simp only [Field.id, GRD_STATUSM_ACTIVE, GRD_STATUSM_LATCHED]; omega
  have hrail : (GRD_STATUSM_ACTIVE m).id ≠ GRD_STATUS_RAILTRIP.id := by simp only [Field.id, GRD_STATUSM_ACTIVE, GRD_STATUS_RAILTRIP]; omega
  have hcount : (GRD_STATUSM_ACTIVE m).id ≠ (GRD_COUNT m).id := by simp only [Field.id, GRD_STATUSM_ACTIVE, GRD_COUNT]; omega
  have hne : GRD_STATUS_RAILTRIP.id ≠ (GRD_STATUSM_LATCHED m).id := by simp only [Field.id, GRD_STATUSM_LATCHED, GRD_STATUS_RAILTRIP]; omega
  subst ht
  refine ⟨?_, ?_, State.get_put_same _ _ _, ?_⟩
  · rw [State.get_put_ne _ _ hlatched, State.railDecision_rail hm, State.get_raise, State.get_put_ne _ _ hrail, State.get_put_ne _ _ hlatched,
      State.outShown, State.get_inc_ne _ hcount, State.get_put_same]
    rfl
  · rw [State.get_put_ne _ _ hne, (State.railDecision_shown hm _).1]
  · rw [State.railDecision_rail hm]
    exact ⟨_, rfl, rfl⟩

/-! ## What a trip counts (R503) -/

/-- The decision stands already for all that it would hold. -/
def State.tripHeld (s : State) (m : Nat) : Bool :=
  if m < 288 then (s.grdChannels m).all fun c => (s.holders c).contains m else s.allTripped

/-- The trip counted and latched. -/
def State.tripCounted (s : State) (m : Nat) : State :=
  (if s.tripHeld m && s.on (GRD_STATUSM_LATCHED m) then s else s.inc GRD_NTRIP).put (GRD_STATUSM_LATCHED m) 1

theorem latched_ne_ntrip : GRD_NTRIP.id ≠ (GRD_STATUSM_LATCHED m).id := by simp only [Field.id, GRD_NTRIP, GRD_STATUSM_LATCHED]; omega

theorem State.tripCounted_latched : (s.tripCounted m).get (GRD_STATUSM_LATCHED m) = 1 := State.get_put_same _ _ _

theorem State.get_tripCounted {f : Field} (hl : f.id ≠ (GRD_STATUSM_LATCHED m).id) (hn : f.id ≠ GRD_NTRIP.id) : (s.tripCounted m).get f = s.get f := by
  unfold State.tripCounted
  rw [State.get_put_ne _ _ hl]
  split
  · rfl
  · exact State.get_inc_ne _ hn

theorem State.tripCounted_ntrip (h : s.tripHeld m = false ∨ s.on (GRD_STATUSM_LATCHED m) = false) :
    (s.tripCounted m).get GRD_NTRIP = (s.get GRD_NTRIP + 1) % 2 ^ 32 := by
  unfold State.tripCounted
  rw [State.get_put_ne _ _ latched_ne_ntrip, if_neg (by rcases h with h | h <;> simp [h]), State.get_inc_same]
  rfl

theorem State.tripCounted_keeps : (s.tripCounted m).grd = s.grd ∧ (s.tripCounted m).land = s.land ∧ (s.tripCounted m).raised = s.raised := by
  unfold State.tripCounted
  split <;> exact ⟨rfl, rfl, rfl⟩

/-- The channels that a decision trips, from the registers that name them. -/
theorem State.grdChannels_congr {t : State} (h : ∀ f : Field, f.lo < 30 → f.id ≠ GRD_NTRIP.id → t.get f = s.get f) (m : Nat) :
    t.grdChannels m = s.grdChannels m := by
  have hsite (c : Nat) : t.siteOf c = s.siteOf c := by
    unfold State.siteOf State.on
    rw [h (PIN_SITE_ASSIGNED c) (by simp [PIN_SITE_ASSIGNED]) (by simp only [Field.id, PIN_SITE_ASSIGNED, GRD_NTRIP]; omega),
      h (PIN_SITE_SITE c) (by simp [PIN_SITE_SITE]) (by simp only [Field.id, PIN_SITE_SITE, GRD_NTRIP]; omega)]
  have hmask (c : Nat) : t.siteMask c = s.siteMask c := by rw [State.siteMask, State.siteMask, hsite]
  have hof (sites : Nat) : t.channelsOf sites = s.channelsOf sites := by
    unfold State.channelsOf
    simp only [hsite]
  have hds (k : Nat) : t.dsSites k = s.dsSites k := by
    unfold State.dsSites
    rw [h (GRD_DS_SITES_LO k) (by simp [GRD_DS_SITES_LO]) (by simp only [Field.id, GRD_DS_SITES_LO, GRD_NTRIP]; omega),
      h (GRD_DS_SITES_HI k) (by simp [GRD_DS_SITES_HI]) (by simp only [Field.id, GRD_DS_SITES_HI, GRD_NTRIP]; omega)]
  unfold State.grdChannels
  rw [hmask, hof, hof, hds, h (GRD_CFG_ACT m) (by simp [GRD_CFG_ACT]) (by simp only [Field.id, GRD_CFG_ACT, GRD_NTRIP]; omega)]

theorem State.grdChannels_tripCounted : (s.tripCounted m).grdChannels m = s.grdChannels m := by
  refine State.grdChannels_congr (fun f hf hn => State.get_tripCounted ?_ hn) m
  simp only [Field.id, GRD_STATUSM_LATCHED]
  omega

theorem State.grdChannels_lt (hm : m < 256) {c : Nat} (hc : c ∈ s.grdChannels m) : c < 256 := by
  unfold State.grdChannels at hc
  rw [if_pos hm] at hc
  split at hc
  · rcases mem_insertNat.mp hc with rfl | hc
    · exact hm
    · exact channelsOf_lt hc
  · rw [List.mem_singleton.mp hc]
    exact hm

theorem State.dsChannels_lt {k c : Nat} (hc : c ∈ s.channelsOf (s.dsSites k)) : c < 256 := channelsOf_lt hc

theorem State.grdChannels_supply {k : Nat} (hk : k < 32) : s.grdChannels (256 + k) = s.channelsOf (s.dsSites k) := by
  unfold State.grdChannels
  rw [if_neg (by omega), if_pos (by omega), Nat.add_sub_cancel_left]

/-! ## Trips (R503, R504) -/

theorem State.grdTrip_channel (hm : m < 256) : s.grdTrip m = (s.tripCounted m).trip m (s.grdChannels m) := by
  rw [← State.grdChannels_tripCounted]
  unfold State.grdTrip
  rw [if_pos hm]
  rfl

theorem State.grdTrip_rail (hm : 288 ≤ m) :
    s.grdTrip m = if m = 294 then (s.tripCounted m).enterSafe 5 else (s.tripCounted m).powerLoss m := by
  unfold State.grdTrip
  rw [if_neg (show ¬ m < 256 by omega), if_neg (show ¬ m < 288 by omega)]
  rfl

/-- The supply's channels tripped. -/
def State.supplyTripped (s : State) (k : Nat) : State := (s.tripCounted (256 + k)).trip (256 + k) (s.channelsOf (s.dsSites k))

/-- The loop of the supply held, to be ramped. -/
def State.supplyHeld (s : State) (k : Nat) : State :=
  { s.holdLoop k 4 with cle := { (s.holdLoop k 4).cle with
      rampLoops := insertNat k (s.holdLoop k 4).cle.rampLoops
      missed := if (s.holdLoop k 4).cle.rampLoops.isEmpty && (s.holdLoop k 4).cle.ramp.isEmpty then 0 else (s.holdLoop k 4).cle.missed } }

theorem State.grdTrip_supply {k : Nat} (hk : k < 32) : s.grdTrip (256 + k) =
    if s.get (GRD_CFG_ACT (256 + k)) = 1 then (s.supplyTripped k).supplyHeld k
    else if s.get (GRD_CFG_ACT (256 + k)) = 2 then (s.supplyTripped k).enterSafe 5 else s.supplyTripped k := by
  have hk' : 256 + k - 256 = k := by omega
  unfold State.supplyTripped
  rw [← State.grdChannels_supply hk, ← State.grdChannels_tripCounted]
  unfold State.grdTrip
  rw [if_neg (show ¬ 256 + k < 256 by omega), if_pos (show 256 + k < 288 by omega), hk']
  rfl

theorem State.supplyHeld_keeps (k : Nat) : (s.supplyHeld k).grd = s.grd ∧ k ∈ (s.supplyHeld k).cle.rampLoops ∧
    (∀ x, s.awaits x → (s.supplyHeld k).awaits x) ∧ ∀ f : Field, (s.supplyHeld k).get f = (s.holdLoop k 4).get f :=
  ⟨congrArg (·.1) (s.holdLoop_parts 4), mem_insertNat.mpr (.inl rfl), fun _ hx => State.holdLoop_awaits _ _ _ hx, fun _ => rfl⟩

/-- What the effects of a trip leave of what was counted: the guard's registers and the events that wait. -/
theorem State.grdTrip_keeps (hm : m < 312) : (∀ f : Field, f.ofGuard → (s.grdTrip m).get f = (s.tripCounted m).get f) ∧
    ∀ x, s.awaits x → (s.grdTrip m).awaits x := by
  have hcounted {x : Raised} (hx : s.awaits x) : (s.tripCounted m).awaits x := by
    rw [State.awaits, State.tripCounted_keeps.2.2]
    exact hx
  by_cases hc : m < 256
  · rw [State.grdTrip_channel hc]
    exact ⟨fun f hf => State.get_trip (fun c => State.grdChannels_lt hc) hf.steady.beyond, fun x hx => State.trip_awaits (hcounted hx)⟩
  · by_cases hs : m < 288
    · obtain ⟨k, hk, rfl⟩ : ∃ k, k < 32 ∧ m = 256 + k := ⟨m - 256, by omega, by omega⟩
      have hget {f : Field} (hf : f.ofGuard) : (s.supplyTripped k).get f = (s.tripCounted (256 + k)).get f :=
        State.get_trip (fun c => State.dsChannels_lt) hf.steady.beyond
      have htrip {x : Raised} (hx : s.awaits x) : (s.supplyTripped k).awaits x := State.trip_awaits (hcounted hx)
      rw [State.grdTrip_supply hk]
      split
      · obtain ⟨-, -, hawaits, hheld⟩ := State.supplyHeld_keeps (s := s.supplyTripped k) k
        refine ⟨fun f hf => ?_, fun x hx => hawaits x (htrip hx)⟩
        rw [hheld, State.get_holdLoop_off hf.steady.loops hf.steady.low (by omega), hget hf]
      · split
        · exact ⟨fun f hf => (State.get_enterSafe hf.steady.beyond hf.steady.loops hf.steady.low hf.steady.safe).trans (hget hf),
            fun x hx => State.enterSafe_awaits (htrip hx)⟩
        · exact ⟨fun f hf => hget hf, fun x hx => htrip hx⟩
    · rw [State.grdTrip_rail (by omega)]
      split
      · exact ⟨fun f hf => State.get_enterSafe hf.steady.beyond hf.steady.loops hf.steady.low hf.steady.safe,
          fun x hx => State.enterSafe_awaits (hcounted hx)⟩
      · obtain ⟨-, -, hawaits, hget⟩ := (s.tripCounted m).powerLoss_guard m
        exact ⟨hget, fun x hx => hawaits x (hcounted hx)⟩

theorem ofGuard_monitor {f : Field} (hlo : f.lo < 32) (hoff : 0x381000 ≤ f.off ∧ f.off < 0x3C0000) : f.ofGuard := by
  refine ⟨hlo, by omega, hoff.2, ?_⟩
  simp only [Field.id, GRD_STATUS_SAFE]
  omega

theorem ofGuard_latched (hm : m < 312) : (GRD_STATUSM_LATCHED m).ofGuard :=
  ofGuard_monitor (show 30 < 32 by decide) (by simp only [GRD_STATUSM_LATCHED]; omega)

theorem ofGuard_ntrip : GRD_NTRIP.ofGuard := ⟨by decide, by decide, by decide, by decide⟩

theorem State.grdTrip_latched (hm : m < 312) : (s.grdTrip m).get (GRD_STATUSM_LATCHED m) = 1 := by
  rw [(State.grdTrip_keeps hm).1 _ (ofGuard_latched hm), State.tripCounted_latched]

/-- The channels of a channel monitor's trip are held and tripped, and no others are. -/
theorem State.grdTrip_holds (hm : m < 256) {d : Nat} (hd : d ∈ s.grdChannels m) : m ∈ (s.grdTrip m).holders d ∧ (s.grdTrip m).tripped d = true ∧
    ((s.grdTrip m).chan d).drv = 0 := by
  rw [State.grdTrip_channel hm]
  have hlt : ∀ c ∈ s.grdChannels m, c < 256 := fun c => State.grdChannels_lt hm
  have hheld : m ∈ ((s.tripCounted m).trip m (s.grdChannels m)).holders d := State.mem_holders_trip hlt hd
  exact ⟨hheld, State.tripped_of_mem_holders hheld, State.drv_trip hlt hd⟩

theorem State.grdTrip_spares (hm : m < 256) {d : Nat} (hd : d ∉ s.grdChannels m) :
    (s.grdTrip m).holders d = s.holders d ∧ (s.grdTrip m).chan d = s.chan d := by
  obtain ⟨hgrd, hland, -⟩ := State.tripCounted_keeps (s := s) (m := m)
  have hlt : ∀ c ∈ s.grdChannels m, c < 256 := fun c => State.grdChannels_lt hm
  rw [State.grdTrip_channel hm, State.holders_trip_not_mem hlt hd, State.chan_trip_not_mem hlt hd, State.holders, State.chan, hgrd, hland]
  exact ⟨rfl, rfl⟩

theorem State.grdTrip_supply_holds {k d : Nat} (hk : k < 32) (hd : d ∈ s.channelsOf (s.dsSites k)) :
    256 + k ∈ (s.grdTrip (256 + k)).holders d ∧ (s.grdTrip (256 + k)).tripped d = true := by
  have htrip : 256 + k ∈ (s.supplyTripped k).holders d := State.mem_holders_trip (fun c => State.dsChannels_lt) hd
  have hheld : 256 + k ∈ (s.grdTrip (256 + k)).holders d := by
    rw [State.grdTrip_supply hk]
    split
    · rwa [State.holders, (State.supplyHeld_keeps k).1, ← State.holders]
    · split
      · rwa [State.holders, State.grd_enterSafe, ← State.holders]
      · exact htrip
  exact ⟨hheld, State.tripped_of_mem_holders hheld⟩

/-! ## Current limit and manual trips (R503, R505) -/

/-- A driver in limit, counted and told. -/
def State.ilimTold (s : State) (c : Nat) : State :=
  (((if (s.holders c).contains 1000 && s.on (GRD_STATUSM_ILIM c) then s else s.inc GRD_NTRIP).put (GRD_STATUSM_ILIM c) 1).inc GRD_NILIM).raise srcGrdIlim c 0

theorem execGrdIlim_off {c : Fin 256} (h : (s.chan c.val).drv = 0) (hz : s.zeroDriven c.val = false) : execGrdIlim c s = .next s :=
  if_pos (by simp [h, hz])

theorem execGrdIlim_on {c : Fin 256} (h : (s.chan c.val).drv ≠ 0 ∨ s.zeroDriven c.val = true) :
    execGrdIlim c s = .next ((s.ilimTold c.val).trip 1000 [c.val]) := by
  unfold execGrdIlim
  extract_lets c' s0
  rw [if_neg (by rcases h with h | h <;> simp [c', h])]
  rfl

theorem State.ilimTold_keeps (c : Nat) : (s.ilimTold c).grd = s.grd ∧ (s.ilimTold c).land = s.land := by
  unfold State.ilimTold
  split <;> exact ⟨rfl, rfl⟩

theorem State.ilimTold_shown {c : Nat} (hc : c < 256) : (s.ilimTold c).get (GRD_STATUSM_ILIM c) = 1 ∧
    (s.ilimTold c).get GRD_NILIM = (s.get GRD_NILIM + 1) % 2 ^ 32 ∧ (∃ r, (s.ilimTold c).awaits r ∧ r.src = srcGrdIlim ∧ r.arg = c) ∧
    (1000 ∉ s.holders c → (s.ilimTold c).get GRD_NTRIP = (s.get GRD_NTRIP + 1) % 2 ^ 32) := by
  have hilim : (GRD_STATUSM_ILIM c).id ≠ GRD_NILIM.id := by simp only [Field.id, GRD_STATUSM_ILIM, GRD_NILIM]; omega
  have htrip : GRD_NTRIP.id ≠ (GRD_STATUSM_ILIM c).id := by simp only [Field.id, GRD_STATUSM_ILIM, GRD_NTRIP]; omega
  unfold State.ilimTold
  refine ⟨?_, ?_, ?_, fun h => ?_⟩
  · rw [State.get_raise, State.get_inc_ne _ hilim, State.get_put_same]
    rfl
  · rw [State.get_raise, State.get_inc_same, State.get_put_ne _ _ hilim.symm]
    split
    · rfl
    · rw [State.get_inc_ne _ (by decide)]
      rfl
  · obtain ⟨r, hr, hsrc, harg⟩ := State.raise_tells
      (((if (s.holders c).contains 1000 && s.on (GRD_STATUSM_ILIM c) then s else s.inc GRD_NTRIP).put (GRD_STATUSM_ILIM c) 1).inc GRD_NILIM) srcGrdIlim c 0
    exact ⟨r, hr, hsrc, harg.trans (Nat.mod_eq_of_lt (by omega))⟩
  · rw [State.get_raise, State.get_inc_ne _ (by decide), State.get_put_ne _ _ htrip, if_neg (by simp [h]), State.get_inc_same]
    rfl

/-- The channels that a manual trip names. -/
def manualChannels (w m : Nat) : List Nat := ((List.range 32).filter (bitAt m)).map (32 * w + ·)

theorem mem_manualChannels {w m c : Nat} : c ∈ manualChannels w m ↔ c / 32 = w ∧ bitAt m (c % 32) = true := by
  simp only [manualChannels, List.mem_map, List.mem_filter, List.mem_range]
  constructor
  · rintro ⟨b, ⟨hb, hbit⟩, rfl⟩
    rw [show (32 * w + b) % 32 = b by omega]
    exact ⟨by omega, hbit⟩
  · rintro ⟨hw, hbit⟩
    exact ⟨c % 32, ⟨Nat.mod_lt _ (by decide), hbit⟩, by omega⟩

/-! ## A twin mismatch (R100, R498) -/

/-- A mismatch counted and told. -/
def State.twinTold (s : State) (m : Nat) : State := ((s.put (GRD_STATUSM_TWIN m) 1).raise srcGrdTwin (grdArg m) 0).inc (GRD_COUNT m)

/-- What trips after a mismatch. -/
def State.twinTripped (s : State) (m : Nat) : State :=
  if ((s.twinTold m).railDecision m).get (GRD_CFG_SRC m) = 0 then (s.twinTold m).railDecision m else ((s.twinTold m).railDecision m).grdTrip m

theorem execGrdTwin_eq (i : Fin 312) :
    execGrdTwin i s = .next (((s.twinTripped i.val).recordCause (s.grdSites i.val) 0).put (GRD_STATUSM_LATCHED i.val) 1) := rfl

theorem State.twinTripped_keeps (hm : m < 312) : (∀ f : Field, f.ofGuard → f.id ≠ (GRD_STATUSM_LATCHED m).id → f.id ≠ GRD_NTRIP.id →
    (s.twinTripped m).get f = ((s.twinTold m).railDecision m).get f) ∧
    ∀ x, ((s.twinTold m).railDecision m).awaits x → (s.twinTripped m).awaits x := by
  unfold State.twinTripped
  split
  · exact ⟨fun _ _ _ _ => rfl, fun _ hx => hx⟩
  · obtain ⟨hget, hawaits⟩ := State.grdTrip_keeps (s := (s.twinTold m).railDecision m) hm
    exact ⟨fun f hf hl hn => (hget f hf).trans (State.get_tripCounted hl hn), hawaits⟩

theorem State.railDecision_keeps (t : State) : (∀ f : Field, f.id ≠ (GRD_STATUSM_LATCHED m).id → f.id ≠ GRD_STATUS_RAILTRIP.id →
    (t.railDecision m).get f = t.get f) ∧ ∀ x, t.awaits x → (t.railDecision m).awaits x := by
  unfold State.railDecision
  split
  · exact ⟨fun _ _ _ => rfl, fun _ hx => hx⟩
  · exact ⟨fun f hl hr => (State.get_raise _ _ _ _ _).trans ((State.get_put_ne _ _ hr).trans (State.get_put_ne _ _ hl)),
      fun x hx => State.raise_awaits _ _ _ _ hx⟩

theorem State.twinTold_shown (hm : m < 312) : (s.twinTold m).get (GRD_STATUSM_TWIN m) = 1 ∧
    (s.twinTold m).get (GRD_COUNT m) = (s.get (GRD_COUNT m) + 1) % 2 ^ 32 ∧
    ∃ r, (s.twinTold m).awaits r ∧ r.src = srcGrdTwin ∧ r.arg = if m < 256 then m else 0 := by
  have hne : (GRD_STATUSM_TWIN m).id ≠ (GRD_COUNT m).id := by simp only [Field.id, GRD_STATUSM_TWIN, GRD_COUNT]; omega
  refine ⟨?_, ?_, ?_⟩
  · rw [State.twinTold, State.get_inc_ne _ hne, State.get_raise, State.get_put_same]
    rfl
  · rw [State.twinTold, State.get_inc_same, State.get_raise, State.get_put_ne _ _ hne.symm]
    rfl
  · obtain ⟨r, hr, hsrc, harg⟩ := (s.put (GRD_STATUSM_TWIN m) 1).raise_tells srcGrdTwin (grdArg m) 0
    refine ⟨r, hr, hsrc, harg.trans (Nat.mod_eq_of_lt ?_)⟩
    unfold grdArg
    split <;> omega

end
end Sys2Proof.Machine

namespace Sys2Proof.Proofs
open Sys2Proof.Machine

/-- Settles O31: the samples case by case; a trip's effects leave the guard's registers as the trip counted them, and its holders as it noted them. -/
theorem guardDecisions : Obligations.GuardDecisions := by
  unfold Obligations.GuardDecisions
  refine ⟨?samples, fun s m v => State.grdOutside_iff, ?filter, ?reverse, ?rail, ?raw, ?channel, ?site, ?supply, ?tick, ?ilim, ?manual, ?twin, ?twinNone⟩
  case samples =>
    intro s m
    have hsamples (vs : List (BitVec 16)) : exec (.grdDecision m vs) s = .next (s.grdSamples m.val vs) ∧
        exec (.grdInWindow m vs) s = .next (s.grdSamples m.val vs) := by
      rw [exec_grdDecision, exec_grdInWindow]
      exact ⟨rfl, rfl⟩
    refine ⟨?_, ?_, fun v vs => ⟨fun h => ?_, fun h => ?_⟩⟩
    · rw [(hsamples []).1, State.grdSamples_none]
    · rw [(hsamples []).2, State.grdSamples_none]
    · rw [(hsamples _).1, (hsamples _).2, State.grdSamples_pMode h]
      exact ⟨rfl, rfl⟩
    · rw [(hsamples _).1, (hsamples _).2, State.grdSamples_taken h]
      exact ⟨rfl, rfl⟩
  case filter =>
    rintro s m v - hmode h r rfl rfl u rfl hr
    have hjudged := State.judged_inWindow hr
    obtain ⟨hactive, hsrc⟩ := polrev_ne (m := m)
    have hon : (s.judged m v).on (GRD_STATUSM_ACTIVE m) = s.on (GRD_STATUSM_ACTIVE m) := by
      rw [hjudged, State.on, State.get_put_ne _ _ hactive, State.get_sampled, State.on]
    have heq := State.grdSample_eq (s := s) (m := m) (v := v) (by rwa [State.grdMode_judged hr])
    refine ⟨fun hh => ?_, fun hh ha => ?_, fun hh ha hm w hw => ?_⟩
    · rw [heq, hh, hjudged]
      rfl
    · rw [heq, hh, if_pos rfl, State.filtDecision_active (by rwa [hon]), hjudged]
      rfl
    · have hsrc' : (s.judged m v).get (GRD_CFG_SRC m) = s.get (GRD_CFG_SRC m) := by
        rw [hjudged, State.get_put_ne _ _ hsrc, State.get_sampled]
      have hshown : (s.judged m v).outShown m = w := by
        rw [hw, hjudged]
        rfl
      rw [heq, hh, if_pos rfl, State.filtDecision_below (by rwa [hon]) hm, hshown, hsrc']
  case reverse =>
    intro s m
    refine ⟨fun h => if_pos (by simpa [or_assoc] using h), fun h h' hp => if_neg (by simp [hp]; omega), fun v => grdReversed_iff⟩
  case rail =>
    intro s m hm
    obtain ⟨hrail, hlatched⟩ := State.railDecision_shown hm s
    refine ⟨State.railDecision_rail hm, hrail, hlatched, fun h => ?_, fun h => ?_, fun v hmode ha hsrc hh => ?_⟩
    · rw [State.grdTrip_rail hm, if_pos h, State.tripCounted, State.tripHeld, if_neg (show ¬ m.val < 288 by omega)]
    · rw [State.grdTrip_rail hm, if_neg h, State.tripCounted, State.tripHeld, if_neg (show ¬ m.val < 288 by omega)]
    · obtain ⟨u, hu, heq⟩ := State.grdSample_rail hm hmode ha hsrc hh
      obtain ⟨hactive, hrail, hlatched, r, hr, hrsrc⟩ := State.railSampled_shown hm u heq
      exact ⟨hactive, hrail, hlatched, r, hr.trans (by rw [hu]), hrsrc⟩
  case raw =>
    intro s m v
    rw [exec_grdRawDecision]
    unfold execGrdRawDecision
    refine ⟨fun h => ?_, fun hmode hout hsrc => ?_⟩
    · by_cases ht : (decide (s.grdMode m.val ≠ 3) && s.grdOutside m.val v.toInt) = true
      · obtain ⟨hmode, hout⟩ : s.grdMode m.val ≠ 3 ∧ s.grdOutside m.val v.toInt = true := by simpa using ht
        have hsrc : s.get (GRD_CFG_SRC m.val) ≠ 2 := by
          rcases h with h | h | h
          · exact absurd h hmode
          · rw [h] at hout
            exact absurd hout (by decide)
          · exact h
        rw [if_pos ht, State.rawDecision, if_neg hsrc]
      · rw [if_neg ht]
    · rw [if_pos (by simp [hmode, hout]), State.rawDecision, if_pos hsrc]
      rfl
  case channel =>
    intro s c hc hact
    have hchannels : s.grdChannels c = [c] := by
      rw [State.grdChannels, if_pos hc, if_neg hact]
    have hself : c ∈ s.grdChannels c := by rw [hchannels]; exact List.mem_singleton_self c
    obtain ⟨hheld, htripped, hdrv⟩ := State.grdTrip_holds hc hself
    refine ⟨fun d => by rw [hchannels, List.mem_singleton], State.grdTrip_latched (by omega), htripped, hheld, hdrv, fun h => ?_, fun d hd => ?_⟩
    · rw [(State.grdTrip_keeps (by omega)).1 _ ofGuard_ntrip]
      refine State.tripCounted_ntrip (h.imp_left fun h => ?_)
      rw [State.tripHeld, if_pos (by omega), hchannels]
      simp [h]
    · exact State.grdTrip_spares hc (by rw [hchannels, List.mem_singleton]; exact hd)
  case site =>
    intro s c hc hact
    have hchannels : s.grdChannels c = insertNat c (s.channelsOf (s.siteMask c)) := by
      rw [State.grdChannels, if_pos hc, if_pos hact]
    refine ⟨fun d => by rw [hchannels, mem_insertNat], fun d hd => ?_⟩
    obtain ⟨hheld, htripped, -⟩ := State.grdTrip_holds hc hd
    exact ⟨hheld, htripped⟩
  case supply =>
    intro s k hk
    refine ⟨State.grdChannels_supply hk, fun d hd => (State.grdTrip_supply_holds hk hd).symm, fun h _ => ?_, fun h => ?_⟩
    · rw [State.grdTrip_supply hk, if_neg (by omega), if_pos h]
      exact State.enterSafe_inSafe _ _
    · rw [State.grdTrip_supply hk, if_pos h]
      exact (State.supplyHeld_keeps k).2.1
  case tick =>
    intro s ps
    rw [exec_grdPTick]
    unfold execGrdPTick
    refine ⟨fun h hrc => if_pos (by simp [h, hrc]), fun b hb => ?_⟩
    rcases hb with ⟨h, hrc, rfl⟩ | ⟨h, rfl⟩
    · simp only [h, decide_true, Bool.true_and, decide_eq_true_eq, if_true]
      rw [if_neg (by omega)]
      rfl
    · simp only [h, decide_false, Bool.false_and, Bool.false_eq_true, if_false]
      rfl
  case ilim =>
    intro s c
    rw [exec_grdIlim]
    refine ⟨fun h hz => execGrdIlim_off h hz, fun h => completes_of_eq (execGrdIlim_on h) ?_⟩
    obtain ⟨hgrd, hland⟩ := State.ilimTold_keeps (s := s) c.val
    obtain ⟨hilim, hnilim, ⟨r, hr, hsrc, harg⟩, hntrip⟩ := State.ilimTold_shown (s := s) c.isLt
    have hlt : ∀ d ∈ [c.val], d < 256 := by
      intro d hd
      rw [List.mem_singleton.mp hd]
      exact c.isLt
    have hself : c.val ∈ [c.val] := List.mem_singleton_self _
    have hget {f : Field} (hf : f.ofGuard) : ((s.ilimTold c.val).trip 1000 [c.val]).get f = (s.ilimTold c.val).get f :=
      State.get_trip hlt hf.steady.beyond
    refine ⟨?_, ?_, State.tripped_of_mem_holders (State.mem_holders_trip hlt hself), State.drv_trip hlt hself, ⟨r, State.trip_awaits hr, hsrc, harg⟩,
      fun h => ?_, fun d hd => ?_⟩
    · rw [hget (ofGuard_monitor (show 28 < 32 by decide) (by simp only [GRD_STATUSM_ILIM]; omega)), hilim]
    · rw [hget ⟨by decide, by decide, by decide, by decide⟩, hnilim]
    · rw [hget ofGuard_ntrip, hntrip h]
    · have hd' : d ∉ [c.val] := by rwa [List.mem_singleton]
      rw [State.chan_trip_not_mem hlt hd', State.holders_trip_not_mem hlt hd', State.chan, State.holders, hgrd, hland]
      exact ⟨rfl, rfl⟩
  case manual =>
    intro s w m hr
    rw [exec_grdMtrip, execGrdMtrip, State.reachReg_of_reaches _ hr]
    have hlt : ∀ c ∈ manualChannels w.val m.toNat, c < 256 := fun c hc => by
      obtain ⟨hw, -⟩ := mem_manualChannels.mp hc
      omega
    refine completes_of_eq (t := s.trip 1001 (manualChannels w.val m.toNat)) rfl ⟨fun b hb hbit => ?_, fun c _ h => ?_⟩
    · have hmem : 32 * w.val + b ∈ manualChannels w.val m.toNat := by
        rw [mem_manualChannels, show (32 * w.val + b) % 32 = b by omega]
        exact ⟨by omega, hbit⟩
      exact ⟨State.mem_holders_trip hlt hmem, State.tripped_of_mem_holders (State.mem_holders_trip hlt hmem)⟩
    · have hmem : c ∉ manualChannels w.val m.toNat := by
        rw [mem_manualChannels]
        rintro ⟨hw, hbit⟩
        rcases h with h | h
        · exact h hw
        · rw [h] at hbit
          exact absurd hbit (by decide)
      exact ⟨State.holders_trip_not_mem hlt hmem, State.chan_trip_not_mem hlt hmem⟩
  case twin =>
    intro s m
    obtain ⟨htwin, hcount, r, hr, hsrc, harg⟩ := State.twinTold_shown (s := s) m.isLt
    obtain ⟨hget, hawaits⟩ := State.twinTripped_keeps (s := s) m.isLt
    obtain ⟨hrget, hrawaits⟩ := State.railDecision_keeps (m := m.val) (s.twinTold m.val)
    have hcause (f : Field) (hl : f.id ≠ (GRD_STATUSM_LATCHED m.val).id) :
        (((s.twinTripped m.val).recordCause (s.grdSites m.val) 0).put (GRD_STATUSM_LATCHED m.val) 1).get f = (s.twinTripped m.val).get f :=
      State.get_put_ne _ _ hl
    have htl : (GRD_STATUSM_TWIN m.val).id ≠ (GRD_STATUSM_LATCHED m.val).id ∧ (GRD_STATUSM_TWIN m.val).id ≠ GRD_NTRIP.id ∧
        (GRD_STATUSM_TWIN m.val).id ≠ GRD_STATUS_RAILTRIP.id := by
      simp only [Field.id, GRD_STATUSM_TWIN, GRD_STATUSM_LATCHED, GRD_NTRIP, GRD_STATUS_RAILTRIP]
      omega
    have hcl : (GRD_COUNT m.val).id ≠ (GRD_STATUSM_LATCHED m.val).id ∧ (GRD_COUNT m.val).id ≠ GRD_NTRIP.id ∧
        (GRD_COUNT m.val).id ≠ GRD_STATUS_RAILTRIP.id := by
      simp only [Field.id, GRD_COUNT, GRD_STATUSM_LATCHED, GRD_NTRIP, GRD_STATUS_RAILTRIP]
      omega
    have hrl : GRD_STATUS_RAILTRIP.id ≠ (GRD_STATUSM_LATCHED m.val).id := by
      simp only [Field.id, GRD_STATUSM_LATCHED, GRD_STATUS_RAILTRIP]
      omega
    rw [exec_grdTwin]
    refine completes_of_eq (execGrdTwin_eq m) ⟨?_, State.get_put_same _ _ _, ?_, ⟨r, hawaits r (hrawaits r hr), hsrc, harg⟩, fun hm => ?_⟩
    · rw [hcause _ htl.1, hget _ (ofGuard_monitor (show 26 < 32 by decide) (by simp only [GRD_STATUSM_TWIN]; omega)) htl.1 htl.2.1,
        hrget _ htl.1 htl.2.2, htwin]
    · rw [hcause _ hcl.1, hget _ (ofGuard_monitor (show 0 < 32 by decide) (by simp only [GRD_COUNT]; omega)) hcl.1 hcl.2.1, hrget _ hcl.1 hcl.2.2, hcount]
    · rw [hcause _ hrl, hget _ ⟨by decide, by decide, by decide, by decide⟩ hrl (by decide), (State.railDecision_shown hm _).1]
  case twinNone =>
    intro s m hm hsrc
    have hcfg : (GRD_CFG_SRC m.val).id ≠ (GRD_COUNT m.val).id ∧ (GRD_CFG_SRC m.val).id ≠ (GRD_STATUSM_TWIN m.val).id := by
      simp only [Field.id, GRD_CFG_SRC, GRD_COUNT, GRD_STATUSM_TWIN]
      omega
    have hnone : (s.twinTold m.val).get (GRD_CFG_SRC m.val) = 0 := by
      rw [State.twinTold, State.get_inc_ne _ hcfg.1, State.get_raise, State.get_put_ne _ _ hcfg.2, hsrc]
    rw [exec_grdTwin, execGrdTwin_eq, State.twinTripped, State.railDecision_below hm, if_pos hnone]
    rfl

end Sys2Proof.Proofs
end
